-- ==== Sys2Proof/Word.lean ====
section
/-! DEFINITION. The word types and their plainest arithmetic. -/

namespace Sys2Proof

/-- A register of a thread (R134). -/
abbrev Word := BitVec 32

/-- A register of a bobbin, a pair, or a literal (R57, R237). -/
abbrev DWord := BitVec 64

/-- The smallest addressable unit (R4). -/
abbrev Byte := BitVec 8

end Sys2Proof
end

