-- ==== Sys2Proof/Config.lean ====
section
/-! DEFINITION. What an implementation fixes and the spec leaves open: constants with no body, so that no proof knows a value
of them. -/

namespace Sys2Proof.Config

/-- The choice that nothing in the spec makes (R133, R301, R307, R378), at the given value of the free counter: read modulo
the number of the choices that the rules allow. -/
opaque choice : Nat → Nat

/-- A value the spec leaves open, at the given value of the free counter: ESCR at a trap entry (R250), and every result that
the spec calls undefined. -/
opaque freeValue : Nat → BitVec 64

/-- Offset of the frame-table directory in each core's near channel (R454), fixed at bring-up. -/
opaque frameDirectory : Nat

/-- Offset of the page pool in each core's near channel (R459), fixed at bring-up. -/
opaque pagePool : Nat

/-- Offset of the 256 fault-record slots in the near channel of core 0 of each die (R458), fixed at bring-up. -/
opaque faultRecords : Nat

/-- HMAP of a context before its first launch record has been read (R449): the read of its ring needs it. -/
opaque homeMapRoot : Nat → BitVec 64

/-- The hash that chooses an Ultra Ethernet port of a mask (R533): context, source core and home. -/
opaque portHash : Nat → Nat → Nat → Nat

/-- log2 of the bytes of the BAR 2 window, 30 to 40 (R527): the host sets it outside this manual. -/
opaque windowBits : Nat

/-- The HBM4E configuration of a measurement report (R535). -/
opaque hbmConfig : List (BitVec 8)

/-- The fuses (R534): the SHA-256 hash of the root public key, the anti-rollback version, and the seed of the identity key. -/
opaque rootKeyHash : BitVec 256
opaque minVersion : BitVec 32
opaque identitySeed : BitVec 256

/-- A private P-256 scalar that firmware derives from the identity seed, by its number (R467, R535). -/
opaque derivedKey : BitVec 256 → Nat → Nat

/-- The device's attestation key and its key-exchange key: the first and the second derived key. -/
def attestationKey : Nat := derivedKey identitySeed 0
def exchangeKey : Nat := derivedKey identitySeed 1

/-- The signature of a message under a private key, whose random number the spec does not give (R535). -/
opaque signature : Nat → List (BitVec 8) → List (BitVec 8)

/-- Base in the near channel of core 0 of each die of the memory where the device service context receives its records (R542). -/
opaque serviceMemory : Nat

/-- A soft error in a store (R470): corrected, on a core; uncorrectable, of a byte of memory by its key, a register of a thread or
bobbin by its name, a basting entry by its SEQ, a register of an arrival in the store or spill area; a parity error of a line of the
read-only caches of a core and its die, or of an overlay in an instruction-memory slot. -/
inductive SoftError where
  | corrected (core : Nat)
  | storage (key : Nat)
  | register (tid reg : Nat)
  | entry (core seq : Nat)
  | arrival (id reg : Nat)
  | cached (core line : Nat)
  | overlay (core slot : Nat)
deriving DecidableEq, Repr

/-- The soft error that strikes in a cycle, at the given value of the free counter, if any. -/
opaque softError : Nat → Option SoftError

/-- The elementary functions of R179 where the interval arithmetic of the model does not decide the correctly rounded
result: function number, operand bits. -/
opaque elementary : Nat → Nat → Nat

end Sys2Proof.Config
end

