-- ==== Sys2Proof/Syntax.lean ====
section
/-! DEFINITION. The syntax of the machine: operand forms and the one inductive Instr, one constructor per row of the
opcode table. Encodings are in Decode, the conditions on fields in WellFormed. -/

namespace Sys2Proof

/-- A 6-bit field that names an x register (a w register in bobbin code), R52, R59. -/
abbrev Reg := BitVec 6

/-- A certificate for an image's key: a public key of P-256, and its ECDSA signature of the image's key (R534). -/
structure Certificate where
  keyX : Nat
  keyY : Nat
  r : Nat
  s : Nat
deriving DecidableEq, Repr

/-- A firmware image (R534): its body and version, the key that signs it, its ECDSA signature, and the certificate that the key has
where it is not the root key itself. -/
structure Image where
  body : List (BitVec 8)
  version : BitVec 32
  keyX : Nat
  keyY : Nat
  r : Nat
  s : Nat
  cert : Option Certificate := none
deriving DecidableEq, Repr

/-- The guard of an instruction: predicate pred, inverted when neg (R56). -/
structure Guard where
  pred : BitVec 3
  neg : Bool
deriving DecidableEq, Repr

/-- A source operand: a register, or the 64-bit literal that a field of 63 selects (R57). -/
inductive Src where
  | reg (r : Reg)
  | lit (v : BitVec 64)
deriving DecidableEq, Repr

def Src.isLit : Src → Bool
  | .reg _ => false
  | .lit _ => true

/-- The number formats of R105 by their codes. -/
inductive Fmt where
  | n8 | i8 | n16 | i16 | n32 | i32 | n64 | i64 | f32 | f16 | bf16 | e4m3 | e5m2
  /-- bit-plane nested integer; its plane count stands in a field of its own -/
  | bp
deriving DecidableEq, Repr

/-- The rounding modes of R107. -/
inductive Round where
  | rne | rtz | rup | rdn | rsr
deriving DecidableEq, Repr

/-- The three forms of MOVI (R149). -/
inductive MoviKind where
  | sext | zext | hi
deriving DecidableEq, Repr

/-- Conditions of CMP (R158). -/
inductive Cond where
  | eq | ne | lt | le | gt | ge
deriving DecidableEq, Repr

/-- Conditions of FCMP and HCMP2 (R177). -/
inductive FCond where
  | eq | ne | lt | le | gt | ge | un | or
deriving DecidableEq, Repr

/-- Results of PCENS (R204). -/
inductive Census where
  | mask | cnt | atl | maj | full
deriving DecidableEq, Repr

/-- Operations of REDUX and SCAN (R202). -/
inductive RedOp where
  | add | min | max | and | or | xor
deriving DecidableEq, Repr

/-- Floating types allow add, min and max only (R202). -/
def RedOp.forFloat : RedOp → Bool
  | .add | .min | .max => true
  | .and | .or | .xor => false

/-- Operations of ATOM and ARED (R313). -/
inductive AtomOp where
  | add | min | max | and | or | xor | exch
deriving DecidableEq, Repr

/-- Memory scopes (R54). -/
inductive Scope where
  | lane | core | cluster | die | device | system
deriving DecidableEq, Repr

/-- One constructor per row of the opcode table: the instructions with their operands, then the events of the machine. -/
inductive Instr where
  /-- NOP: changes nothing but the PC (R214) -/
  | nop (g : Guard)
  /-- PAD: landing pad with a label (R82) -/
  | pad (label : BitVec 16)
  /-- BRA: near branch (R212, R214) -/
  | bra (g : Guard) (target : BitVec 16)
  /-- BRA_FAR: far branch (R212) -/
  | braFar (g : Guard) (target : BitVec 32)
  /-- BRX: indirect branch through jump table jt (R215) -/
  | brx (g : Guard) (jt : BitVec 6) (ix : Src)
  /-- CALL: near call, link in d (R214) -/
  | call (g : Guard) (d : Reg) (target : BitVec 16)
  /-- CALL_FAR: far call (R212) -/
  | callFar (g : Guard) (d : Reg) (target : BitVec 32)
  /-- CALLX: indirect call (R215) -/
  | callx (g : Guard) (d : Reg) (jt : BitVec 6) (ix : Src)
  /-- RET: return to the link in a (R216) -/
  | ret (g : Guard) (a : Src)
  /-- SEAM: opens a seam (R220) -/
  | seam (g : Guard) (n : BitVec 4)
  /-- JOIN: parks at the seam (R221) -/
  | join (g : Guard) (n : BitVec 4)
  /-- WAIT: holds on done flags (R228) -/
  | wait (g : Guard) (mask : BitVec 12)
  /-- CUT: leaves nested seams and branches (R223) -/
  | cut (g : Guard) (n : BitVec 4) (target : BitVec 16)
  /-- CUT_FAR: far form of CUT (R212) -/
  | cutFar (g : Guard) (n : BitVec 4) (target : BitVec 32)
  /-- REP: repeats the next instruction (R229, R231) -/
  | rep (g : Guard) (byReg : Bool) (a : Src) (n : BitVec 16) (sd : BitVec 2) (sa : BitVec 2) (sb : BitVec 2) (sc : BitVec 2)
  /-- EXIT: ends the thread (R232) -/
  | exit (g : Guard)
  /-- YIELD: favours other waves (R233) -/
  | yield (g : Guard)
  /-- DQPUT: appends to the shuttle (R243) -/
  | dqput (g : Guard) (pd : BitVec 3) (a : Src)
  /-- DQGET: pops the shuttle into a pair (R244) -/
  | dqget (g : Guard) (d : Reg)
  /-- DQGET_LO: pops the shuttle, low half (R244) -/
  | dqgetLo (g : Guard) (d : Reg)
  /-- DQPEEK: reads the head of the shuttle (R245) -/
  | dqpeek (g : Guard) (d : Reg) (pb : BitVec 3)
  /-- DQPEEK_LO: reads the low half of the head (R245) -/
  | dqpeekLo (g : Guard) (d : Reg) (pb : BitVec 3)
  /-- MOV: copies at a type (R148) -/
  | mov (g : Guard) (d : Reg) (a : Src) (t : Option Fmt)
  /-- MOV_ID: copies an identity register (R148) -/
  | movId (g : Guard) (d : Reg) (i : BitVec 4)
  /-- MOVI: 16-bit immediate (R149) -/
  | movi (g : Guard) (d : Reg) (k : MoviKind) (imm : BitVec 16)
  /-- ADD: R147 -/
  | add (g : Guard) (d : Reg) (a : Src) (b : Src) (t : Option Fmt) (sat : Bool)
  /-- SUB: R147 -/
  | sub (g : Guard) (d : Reg) (a : Src) (b : Src) (t : Option Fmt) (sat : Bool)
  /-- ADDC: carry through predicate pc (R150) -/
  | addc (g : Guard) (d : Reg) (a : Src) (b : Src) (pc : BitVec 3)
  /-- SUBB: carry through predicate pc (R150) -/
  | subb (g : Guard) (d : Reg) (a : Src) (b : Src) (pc : BitVec 3)
  /-- MUL: R147 -/
  | mul (g : Guard) (d : Reg) (a : Src) (b : Src) (t : Option Fmt) (sat : Bool)
  /-- MULHI: high half of the product (R151) -/
  | mulhi (g : Guard) (d : Reg) (a : Src) (b : Src) (t : Option Fmt)
  /-- MULW: double-width product (R151) -/
  | mulw (g : Guard) (d : Reg) (a : Src) (b : Src) (t : Option Fmt)
  /-- MAD: R147 -/
  | mad (g : Guard) (d : Reg) (a : Src) (b : Src) (c : Src) (t : Option Fmt) (sat : Bool)
  /-- MIN: R147 -/
  | min (g : Guard) (d : Reg) (a : Src) (b : Src) (t : Option Fmt)
  /-- MAX: R147 -/
  | max (g : Guard) (d : Reg) (a : Src) (b : Src) (t : Option Fmt)
  /-- ABS: R147 -/
  | abs (g : Guard) (d : Reg) (a : Src) (t : Option Fmt) (sat : Bool)
  /-- AND: bitwise (R153) -/
  | and (g : Guard) (d : Reg) (a : Src) (b : Src) (t : Option Fmt)
  /-- OR: bitwise (R153) -/
  | or (g : Guard) (d : Reg) (a : Src) (b : Src) (t : Option Fmt)
  /-- XOR: bitwise (R153) -/
  | xor (g : Guard) (d : Reg) (a : Src) (b : Src) (t : Option Fmt)
  /-- ANDN: bitwise (R153) -/
  | andn (g : Guard) (d : Reg) (a : Src) (b : Src) (t : Option Fmt)
  /-- SHL: shift by b[7:0] (R153) -/
  | shl (g : Guard) (d : Reg) (a : Src) (b : Src) (t : Option Fmt)
  /-- SHR: shift by b[7:0] (R153) -/
  | shr (g : Guard) (d : Reg) (a : Src) (b : Src) (t : Option Fmt)
  /-- SAR: shift by b[7:0] (R153) -/
  | sar (g : Guard) (d : Reg) (a : Src) (b : Src) (t : Option Fmt)
  /-- ROT: shift by b[7:0] (R153) -/
  | rot (g : Guard) (d : Reg) (a : Src) (b : Src) (t : Option Fmt)
  /-- BFX: extracts a bit field (R154) -/
  | bfx (g : Guard) (d : Reg) (a : Src) (b : Src) (t : Option Fmt)
  /-- BFI: inserts a bit field (R154) -/
  | bfi (g : Guard) (d : Reg) (a : Src) (b : Src) (c : Src) (t : Option Fmt)
  /-- POPC: counts bits (R155) -/
  | popc (g : Guard) (d : Reg) (a : Src) (t : Option Fmt)
  /-- CLZ: counts bits (R155) -/
  | clz (g : Guard) (d : Reg) (a : Src) (t : Option Fmt)
  /-- BREV: reverses bits (R155) -/
  | brev (g : Guard) (d : Reg) (a : Src) (t : Option Fmt)
  /-- BPICK: picks bytes (R156) -/
  | bpick (g : Guard) (d : Reg) (a : Src) (b : Src) (byReg : Bool) (c : Src) (pick : BitVec 16)
  /-- LEA: a + (b << s) (R157) -/
  | lea (g : Guard) (d : Reg) (a : Src) (b : Src) (s : BitVec 3) (t : Option Fmt)
  /-- CMP: comparison to a predicate (R158) -/
  | cmp (g : Guard) (cond : Cond) (pd : BitVec 3) (a : Src) (b : Src) (t : Option Fmt)
  /-- SEL: selects by predicate (R159) -/
  | sel (g : Guard) (d : Reg) (a : Src) (b : Src) (pc : BitVec 3) (neg : Bool) (t : Option Fmt)
  /-- PLOP: predicate table (R160) -/
  | plop (g : Guard) (pd : BitVec 3) (pa : BitVec 3) (pb : BitVec 3) (pc : BitVec 3) (lut : BitVec 8)
  /-- PLOP_PK: packs the predicates (R160) -/
  | plopPk (g : Guard) (d : Reg)
  /-- PLOP_UPK: unpacks predicates (R160) -/
  | plopUpk (g : Guard) (a : Src) (mask : BitVec 7)
  /-- DIVN: quotient and remainder (R152) -/
  | divn (g : Guard) (d : Reg) (a : Src) (b : Src) (t : Option Fmt) (sat : Bool)
  /-- FADD: R175 -/
  | fadd (g : Guard) (d : Reg) (a : Src) (b : Src) (t : Option Fmt) (rm : Round) (ftz : Bool)
  /-- FSUB: R175 -/
  | fsub (g : Guard) (d : Reg) (a : Src) (b : Src) (t : Option Fmt) (rm : Round) (ftz : Bool)
  /-- FMUL: R175 -/
  | fmul (g : Guard) (d : Reg) (a : Src) (b : Src) (t : Option Fmt) (rm : Round) (ftz : Bool)
  /-- FFMA: fused multiply-add (R175) -/
  | ffma (g : Guard) (d : Reg) (a : Src) (b : Src) (c : Src) (t : Option Fmt) (rm : Round) (ftz : Bool)
  /-- FMIN: R176 -/
  | fmin (g : Guard) (d : Reg) (a : Src) (b : Src) (t : Option Fmt) (ftz : Bool)
  /-- FMAX: R176 -/
  | fmax (g : Guard) (d : Reg) (a : Src) (b : Src) (t : Option Fmt) (ftz : Bool)
  /-- FCMP: R177 -/
  | fcmp (g : Guard) (cond : FCond) (pd : BitVec 3) (a : Src) (b : Src) (t : Option Fmt) (ftz : Bool)
  /-- FCLASS: R178 -/
  | fclass (g : Guard) (d : Reg) (a : Src) (t : Option Fmt)
  /-- FRCP: R179 -/
  | frcp (g : Guard) (d : Reg) (a : Src) (t : Option Fmt) (rm : Round) (ftz : Bool)
  /-- FRSQ: R179 -/
  | frsq (g : Guard) (d : Reg) (a : Src) (t : Option Fmt) (rm : Round) (ftz : Bool)
  /-- FSQRT: R179 -/
  | fsqrt (g : Guard) (d : Reg) (a : Src) (t : Option Fmt) (rm : Round) (ftz : Bool)
  /-- FEXP2: R179 -/
  | fexp2 (g : Guard) (d : Reg) (a : Src) (t : Option Fmt) (ftz : Bool)
  /-- FLOG2: R179 -/
  | flog2 (g : Guard) (d : Reg) (a : Src) (t : Option Fmt) (ftz : Bool)
  /-- FSIN: R179 -/
  | fsin (g : Guard) (d : Reg) (a : Src) (t : Option Fmt) (ftz : Bool)
  /-- FCOS: R179 -/
  | fcos (g : Guard) (d : Reg) (a : Src) (t : Option Fmt) (ftz : Bool)
  /-- FDIV: R175 -/
  | fdiv (g : Guard) (d : Reg) (a : Src) (b : Src) (t : Option Fmt) (rm : Round) (ftz : Bool)
  /-- HADD2: R180 -/
  | hadd2 (g : Guard) (d : Reg) (a : Src) (b : Src) (t : Option Fmt) (rm : Round) (ftz : Bool)
  /-- HMUL2: R180 -/
  | hmul2 (g : Guard) (d : Reg) (a : Src) (b : Src) (t : Option Fmt) (rm : Round) (ftz : Bool)
  /-- HFMA2: R180 -/
  | hfma2 (g : Guard) (d : Reg) (a : Src) (b : Src) (c : Src) (t : Option Fmt) (rm : Round) (ftz : Bool)
  /-- HMIN2: R180 -/
  | hmin2 (g : Guard) (d : Reg) (a : Src) (b : Src) (t : Option Fmt) (ftz : Bool)
  /-- HMAX2: R180 -/
  | hmax2 (g : Guard) (d : Reg) (a : Src) (b : Src) (t : Option Fmt) (ftz : Bool)
  /-- HCMP2: R181 -/
  | hcmp2 (g : Guard) (cond : FCond) (pd : BitVec 3) (a : Src) (b : Src) (t : Option Fmt) (ftz : Bool)
  /-- DOT4: R182 -/
  | dot4 (g : Guard) (d : Reg) (a : Src) (b : Src) (c : Src) (t : Option Fmt) (rm : Round) (ftz : Bool) (sat : Bool)
  /-- DOT2: R182 -/
  | dot2 (g : Guard) (d : Reg) (a : Src) (b : Src) (c : Src) (t : Option Fmt) (rm : Round) (ftz : Bool)
  /-- VADD4: R183 -/
  | vadd4 (g : Guard) (d : Reg) (a : Src) (b : Src) (t : Option Fmt) (sat : Bool)
  /-- VSUB4: R183 -/
  | vsub4 (g : Guard) (d : Reg) (a : Src) (b : Src) (t : Option Fmt) (sat : Bool)
  /-- CVT: R186 -/
  | cvt (g : Guard) (d : Reg) (a : Src) (df : Fmt) (sf : Fmt) (rm : Round) (sat : Bool) (ftz : Bool) (pk : Bool)
  /-- CVTSR: R188 -/
  | cvtsr (g : Guard) (d : Reg) (a : Src) (df : Fmt) (sf : Fmt) (b : Src) (xr : Bool) (sat : Bool) (ftz : Bool) (pk : Bool)
  /-- SRSEED: R189 -/
  | srseed (g : Guard) (a : Src) (which : BitVec 2)
  /-- QNT: R191 -/
  | qnt (g : Guard) (d : Reg) (a : Src) (df : Fmt) (sf : Fmt) (b : Src) (planes : BitVec 4) (rm : Round) (sat : Bool) (ftz : Bool) (pk : Bool)
  /-- DQNT: R192 -/
  | dqnt (g : Guard) (d : Reg) (a : Src) (df : Fmt) (sf : Fmt) (b : Src) (planes : BitVec 4) (rm : Round) (sat : Bool) (ftz : Bool) (pk : Bool)
  /-- PLPACK: R195 -/
  | plpack (g : Guard) (d : Reg) (a : Reg) (P : BitVec 4) (p : BitVec 4)
  /-- PLUNPK: R196 -/
  | plunpk (g : Guard) (d : Reg) (a : Src) (P : BitVec 4) (k : BitVec 4)
  /-- PLEXT: R197 -/
  | plext (g : Guard) (d : Reg) (a : Src) (P : BitVec 4) (k : BitVec 4) (os : Bool)
  /-- F8ALGN: R198 -/
  | f8algn (g : Guard) (d : Reg) (a : Src) (b : Src) (f : Fmt) (mx : Bool)
  /-- SCLX: R193 -/
  | sclx (g : Guard) (d : Reg) (a : Src) (b : Src) (df : Fmt) (rm : Round) (bi : Bool) (sat : Bool) (ftz : Bool)
  /-- SHFL: R203 -/
  | shfl (g : Guard) (d : Reg) (a : Src) (b : Src) (t : Option Fmt) (fz : Bool)
  /-- BFLY: R203 -/
  | bfly (g : Guard) (d : Reg) (a : Src) (n : BitVec 6) (t : Option Fmt) (fz : Bool)
  /-- SHUP: R203 -/
  | shup (g : Guard) (d : Reg) (a : Src) (n : BitVec 6) (t : Option Fmt) (fz : Bool)
  /-- SHDN: R203 -/
  | shdn (g : Guard) (d : Reg) (a : Src) (n : BitVec 6) (t : Option Fmt) (fz : Bool)
  /-- BCAST: R203 -/
  | bcast (g : Guard) (d : Reg) (a : Src) (n : BitVec 6) (t : Option Fmt) (fz : Bool)
  /-- PCENS: R204 -/
  | pcens (g : Guard) (k : Census) (d : BitVec 6) (pa : BitVec 3) (n : BitVec 6)
  /-- REDUX: R206 -/
  | redux (g : Guard) (op : RedOp) (d : Reg) (a : Src) (t : Option Fmt)
  /-- SCAN: R207 -/
  | scan (g : Guard) (op : RedOp) (d : Reg) (a : Src) (t : Option Fmt) (ex : Bool)
  /-- MATCH: R205 -/
  | matchLane (g : Guard) (d : Reg) (a : Src) (t : Option Fmt)
  /-- LD: R319 -/
  | ld (g : Guard) (d : Reg) (bolt : BitVec 6) (ix : Src) (t : Option Fmt) (sx : Bool) (sl : BitVec 3)
  /-- ST: R320 -/
  | st (g : Guard) (bolt : BitVec 6) (ix : Src) (b : Src) (t : Option Fmt) (sx : Bool) (sl : BitVec 3)
  /-- LDQ: R321 -/
  | ldq (g : Guard) (d : Reg) (bolt : BitVec 6) (ix : Src) (n : BitVec 12) (t : Option Fmt) (sx : Bool) (sl : BitVec 3)
  /-- STQ: R321 -/
  | stq (g : Guard) (bolt : BitVec 6) (ix : Src) (b : Src) (n : BitVec 12) (t : Option Fmt) (sx : Bool) (sl : BitVec 3)
  /-- LDRO: R322 -/
  | ldro (g : Guard) (d : Reg) (bolt : BitVec 6) (ix : Src) (t : Option Fmt) (sx : Bool) (sl : BitVec 3)
  /-- PREF: R323 -/
  | pref (g : Guard) (bolt : BitVec 6) (ix : Src) (sl : BitVec 3)
  /-- MIGR: R324 -/
  | migr (g : Guard) (bolt : BitVec 6) (ix : Src) (sx : Bool) (sl : BitVec 3)
  /-- SPAWN: R325 -/
  | spawn (g : Guard) (pd : BitVec 3) (bolt : BitVec 6) (ix : Src) (b : Src) (c : Src) (target : BitVec 16) (sl : BitVec 3)
  /-- PHASE_ARV: R329 -/
  | phaseArv (g : Guard) (d : Reg) (level : BitVec 3) (sl : BitVec 3)
  /-- PHASE_WAIT: R330 -/
  | phaseWait (g : Guard) (a : Src) (level : BitVec 3) (sl : BitVec 3)
  /-- FENCE: R331 -/
  | fence (g : Guard) (scope : Scope)
  /-- FOPEN: R163 -/
  | fopen (g : Guard) (fi : BitVec 1) (bolt : BitVec 6) (ix : Src) (b : Src) (step : BitVec 16)
  /-- FNEXT: R164 -/
  | fnext (g : Guard) (d : Reg) (pb : BitVec 3) (fi : BitVec 1) (sgn : Bool) (sx : Bool) (sl : BitVec 3)
  /-- FPEEK: R164 -/
  | fpeek (g : Guard) (d : Reg) (pb : BitVec 3) (fi : BitVec 1) (sgn : Bool) (sx : Bool) (sl : BitVec 3)
  /-- FEND: R166 -/
  | fend (g : Guard) (pd : BitVec 3) (fi : BitVec 1)
  /-- FCLOSE: R166 -/
  | fclose (g : Guard) (fi : BitVec 1)
  /-- ATOM: R332 -/
  | atom (g : Guard) (op : AtomOp) (d : Reg) (bolt : BitVec 6) (ix : Src) (b : Src) (t : Option Fmt) (sx : Bool) (sl : BitVec 3) (scope : Scope)
  /-- ACAS: R332 -/
  | acas (g : Guard) (d : Reg) (bolt : BitVec 6) (ix : Src) (b : Src) (c : Src) (t : Option Fmt) (sx : Bool) (sl : BitVec 3) (scope : Scope)
  /-- ARED: R332 -/
  | ared (g : Guard) (op : AtomOp) (bolt : BitVec 6) (ix : Src) (b : Src) (t : Option Fmt) (sl : BitVec 3) (scope : Scope)
  /-- AFADD: R332 -/
  | afadd (g : Guard) (d : Reg) (bolt : BitVec 6) (ix : Src) (b : Src) (t : Option Fmt) (sx : Bool) (sl : BitVec 3) (scope : Scope)
  /-- TXOPEN: R342 -/
  | txopen (g : Guard) (target : BitVec 16)
  /-- TXSEAL: R348 -/
  | txseal (g : Guard)
  /-- TXRETRY: R349 -/
  | txretry (g : Guard)
  /-- TXELSE: R349 -/
  | txelse (g : Guard) (target : BitVec 16)
  /-- TXDROP: R350 -/
  | txdrop (g : Guard) (code : BitVec 8)
  /-- TXSTAT: R351 -/
  | txstat (g : Guard) (d : Reg)
  /-- BINIT: R337 -/
  | binit (g : Guard) (bolt : BitVec 6) (ix : Src) (b : Src)
  /-- BWAIT: R340 -/
  | bwait (g : Guard) (bolt : BitVec 6) (ix : Src) (b : Src)
  /-- BEXP: R339 -/
  | bexp (g : Guard) (bolt : BitVec 6) (ix : Src) (b : Src)
  /-- BARV: R338 -/
  | barv (g : Guard) (d : Reg) (bolt : BitVec 6) (ix : Src) (b : Src) (thr : Bool)
  /-- HPUSH: R367 -/
  | hpush (g : Guard) (nb : Bool) (pd : BitVec 3) (h : BitVec 5) (b : Src) (nw : BitVec 2)
  /-- HPOP: R368 -/
  | hpop (g : Guard) (d : Reg) (h : BitVec 5) (nw : BitVec 2) (ka : Bool) (at_ : Bool)
  /-- HTRY: R368 -/
  | htry (g : Guard) (d : Reg) (pb : BitVec 3) (h : BitVec 5) (nw : BitVec 2) (ka : Bool) (at_ : Bool)
  /-- HPEEK: R369 -/
  | hpeek (g : Guard) (d : Reg) (pb : BitVec 3) (h : BitVec 5) (k : BitVec 12) (nw : BitVec 2) (at_ : Bool)
  /-- HALLOW: R370 -/
  | hallow (g : Guard) (h : BitVec 5) (b : Src)
  /-- HRESET: R371 -/
  | hreset (g : Guard) (h : BitVec 5)
  /-- HRESET_DEF: R371 -/
  | hresetDef (g : Guard) (h : BitVec 5) (b : Src)
  /-- CPY: R381 -/
  | cpy (g : Guard) (sh : Bool) (dh : Bool) (bsp : BitVec 2) (src : BitVec 8) (dst : BitVec 8) (a : Src) (b : Src) (c : Src) (n : BitVec 12) (sl : BitVec 3)
  /-- CPYM: R382 -/
  | cpym (g : Guard) (d : Reg) (sh : Bool) (bsp : BitVec 2) (src : BitVec 8) (dst : BitVec 8) (a : Src) (b : Src) (c : Src) (n : BitVec 12) (scope : Scope) (sl : BitVec 3)
  /-- CPYO: R383 -/
  | cpyo (g : Guard) (any : Bool) (slot : BitVec 2) (bsp : BitVec 2) (a : Src) (c : Src) (sl : BitVec 3)
  /-- GATH: R385 -/
  | gath (g : Guard) (sh : Bool) (dh : Bool) (bsp : BitVec 2) (src : BitVec 8) (dst : BitVec 8) (bolt : BitVec 6) (a : Src) (b : Src) (c : Src) (n : BitVec 12) (sl : BitVec 3)
  /-- SCAT: R385 -/
  | scat (g : Guard) (sh : Bool) (bsp : BitVec 2) (src : BitVec 8) (dst : BitVec 8) (bolt : BitVec 6) (a : Src) (b : Src) (c : Src) (n : BitVec 12) (sl : BitVec 3)
  /-- BIN: R387 -/
  | bin (g : Guard) (h : BitVec 5) (bolt : BitVec 6) (a : Src) (b : Src) (c : Reg) (sl : BitVec 3)
  /-- KSET: R412 -/
  | kset (g : Guard) (k : BitVec 4) (a : Reg) (n : BitVec 16)
  /-- KSIGN: R413 -/
  | ksign (g : Guard) (k : BitVec 4)
  /-- TLDB: R403 -/
  | tldb (g : Guard) (bank : BitVec 2) (pat : BitVec 8) (a : Src) (sg : Bool) (lk : Bool) (d : Reg) (c : Src) (sl : BitVec 3)
  /-- TMMA: R405, R406 -/
  | tmma (g : Guard) (acc : Bool) (tile : Bool) (bank : BitVec 2) (sh : Bool) (kp : BitVec 3) (int : Bool) (pat : BitVec 8) (h : BitVec 5) (a : Src) (n : BitVec 12) (sg : Bool) (lk : Bool) (d : Reg) (c : Src) (sl : BitVec 3)
  /-- TMMAG: R406 -/
  | tmmag (g : Guard) (acc : Bool) (tile : Bool) (bank : BitVec 2) (sh : Bool) (kp : BitVec 3) (int : Bool) (pat : BitVec 8) (h : BitVec 5) (bolt : BitVec 6) (a : Src) (b : Src) (n : BitVec 12) (sg : Bool) (lk : Bool) (d : Reg) (c : Src) (sl : BitVec 3)
  /-- TZERO: R407 -/
  | tzero (g : Guard) (tile : Bool) (sg : Bool) (lk : Bool) (d : Reg) (c : Src) (sl : BitVec 3)
  /-- TSTA: R409 -/
  | tsta (g : Guard) (tile : Bool) (sh : Bool) (pat : BitVec 8) (h : BitVec 5) (a : Src) (b : Src) (n : BitVec 12) (sg : Bool) (lk : Bool) (d : Reg) (c : Src) (sl : BitVec 3)
  /-- TSTA_ST: R410 -/
  | tstaSt (g : Guard) (tile : Bool) (pat : BitVec 8) (a : Src) (sg : Bool) (lk : Bool) (d : Reg) (c : Src) (sl : BitVec 3)
  /-- RTPRB: R498 -/
  | rtprb (g : Guard) (d : Reg) (rt : BitVec 4) (sh : Bool) (h : BitVec 5) (pat : BitVec 8) (a : Src) (b : Src) (bolt : BitVec 6) (n : BitVec 12) (sl : BitVec 3)
  /-- RTINS: R497 -/
  | rtins (g : Guard) (pd : BitVec 3) (rt : BitVec 4) (a : Src) (sl : BitVec 3)
  /-- RTDEL: R497 -/
  | rtdel (g : Guard) (pd : BitVec 3) (rt : BitVec 4) (a : Src) (sl : BitVec 3)
  /-- RTRHS: R499 -/
  | rtrhs (g : Guard) (rt : BitVec 4) (a : Src) (sl : BitVec 3)
  /-- RTSYNC: R500 -/
  | rtsync (g : Guard)
  /-- MOVS: R265 -/
  | movs (g : Guard) (d : Reg) (num : BitVec 8) (idx : BitVec 8) (x : Bool) (a : Src)
  /-- MOVSW: R265 -/
  | movsw (g : Guard) (num : BitVec 8) (idx : BitVec 8) (x : Bool) (a : Src) (b : Src)
  /-- TRAP: R266 -/
  | trap (g : Guard) (code : BitVec 16)
  /-- TRET: R263 -/
  | tret (g : Guard)
  /-- SLACK: R267 -/
  | slack (g : Guard) (d : Reg)
  /-- SLACK_CLS: R267 -/
  | slackCls (g : Guard) (sl : BitVec 3)
  /-- SLACK_SET: R267 -/
  | slackSet (g : Guard) (a : Src)
  /-- HALT: R268 -/
  | halt (g : Guard)
  /-- PATDEF: R482 -/
  | patdef (g : Guard) (n : BitVec 10) (mv : Bool) (a : Src) (bolt : BitVec 6)
  /-- PATRD: R484 -/
  | patrd (g : Guard) (d : Reg) (n : BitVec 10) (w : BitVec 4)
  /-- BLDEF: R482 -/
  | bldef (g : Guard) (n : BitVec 10) (mv : Bool) (a : Src)
  /-- BLRD: R484 -/
  | blrd (g : Guard) (d : Reg) (n : BitVec 10) (w : BitVec 2)
  /-- HFSET: R489 -/
  | hfset (g : Guard) (hf : BitVec 3) (a : Src) (b : Src)
  /-- JTDEF: R487 -/
  | jtdef (g : Guard) (jt : BitVec 6) (ovl : BitVec 16) (a : Src) (b : Src)
  /-- RTDEF: R491 -/
  | rtdef (g : Guard) (rt : BitVec 4) (bolt : BitVec 6) (a : Src)
  /-- RTDEF_RH: R499 -/
  | rtdefRh (g : Guard) (rt : BitVec 4) (bolt : BitVec 6) (a : Src)
  /-- RTDEF_OFF: R491 -/
  | rtdefOff (g : Guard) (rt : BitVec 4)
  /-- CTRRD: R513 -/
  | ctrrd (g : Guard) (d : Reg) (n : BitVec 8) (x : Bool) (a : Src)
  /-- CTRSET: R513 -/
  | ctrset (g : Guard) (n : BitVec 8) (x : Bool) (a : Src) (b : Src)
  /-- SMPL: R516 -/
  | smpl (g : Guard) (off : Bool) (tag : BitVec 16)
  /-- BRKPT: R523 -/
  | brkpt (g : Guard) (code : BitVec 16)
  /-- HINT: R427 -/
  | hint (g : Guard)
  /-- WAITPRED: R428 -/
  | waitpred (g : Guard)
  /-- RESULT_WRITEBACK: a long-latency result is written (R63) -/
  | resultWriteback (id : Nat)
  /-- ATOMIC_REQUEST: an atomic request is applied at its execution point (R332) -/
  | atomicRequest (id : Nat)
  /-- ATOMIC_REPLY: the reply writes the old value (R39) -/
  | atomicReply (id : Nat)
  /-- READ_REQUEST: a read or store by request is served at the home (R322, R274) -/
  | readRequest (id : Nat)
  /-- ACKNOWLEDGEMENT_ARRIVAL: an acknowledgement releases a held lane (R483) -/
  | acknowledgementArrival (id : Nat)
  /-- NEEDLE_ARRIVAL: a needle is placed at its home (R436) -/
  | needleArrival (id : Nat)
  /-- SPILL_RETURN: a spilled thread moves into the store (R436) -/
  | spillReturn (core : Nat)
  /-- ARRIVAL_WAVE_FORMATION: a spool forms a wave (R35) -/
  | arrivalWaveFormation (core spool key : Nat)
  /-- SPOOL_TIMEOUT: 256 cycles after the oldest arrival a spool forms a wave (R35) -/
  | spoolTimeout (core spool key : Nat)
  /-- LAUNCH_ENTRY_FETCH: a launch-list entry reaches the cache (R421) -/
  | launchEntryFetch (die key : Nat)
  /-- SPAWN_TASK_SEND: the spawn queue sends its head task (R327) -/
  | spawnTaskSend (core : Nat)
  /-- TASK_ARRIVAL: a task starts a thread at its home (R326) -/
  | taskArrival (id : Nat)
  /-- TASK_REFUSAL: a refused task returns to its queue (R327) -/
  | taskRefusal (id : Nat)
  /-- TASK_RESEND_TIMEOUT: 64 network cycles after a refusal (R327) -/
  | taskResendTimeout (core : Nat)
  /-- SPAWN_INCREMENT: a live-count increment is applied (R328) -/
  | spawnIncrement (id : Nat)
  /-- PHASE_ARRIVAL: an arrival is counted (R329) -/
  | phaseArrival (id : Nat)
  /-- DRAIN_REQUEST: a home drains a group (R292) -/
  | drainRequest (core id : Nat)
  /-- DRAIN_ACKNOWLEDGEMENT: a drain acknowledgement reaches the coordinator (R292) -/
  | drainAcknowledgement (core id : Nat)
  /-- CHANGE_NOTICE: a notice wakes sleepers (R354) -/
  | changeNotice (id : Nat)
  /-- OVERLAY_LOAD_COMPLETION: a loaded image is checked and installed (R81) -/
  | overlayLoadCompletion (id : Nat)
  /-- PAGE_FAULT_SERVICE: the service installs frames (R459) -/
  | pageFaultService (id : Nat)
  /-- FAULT_RECORD_RESOLVE: the host writes STATE = 2 (R458) -/
  | faultRecordResolve (die slot : Nat)
  /-- FAULT_RECORD_REFUSE: the host writes STATE = 3 (R458) -/
  | faultRecordRefuse (die slot : Nat)
  /-- ERROR_RECORD_RESOLVE: the host writes STATE = 2 (R530) -/
  | errorRecordResolve (slot : Nat)
  /-- ERROR_RECORD_REFUSE: the host writes STATE = 3 (R530) -/
  | errorRecordRefuse (slot : Nat)
  /-- ENGINE_FIRE: the head command of a queue fires (R376, R377) -/
  | engineFire (id : Nat)
  /-- BIN_PREPARE: BIN counts its rows (R388) -/
  | binPrepare (id : Nat)
  /-- ENGINE_RETIRE: a fired command takes effect (R378) -/
  | engineRetire (id : Nat)
  /-- ENGINE_FAILURE: a command fails (R379) -/
  | engineFailure (id addr : Nat)
  /-- STITCH_PARITY_RELOAD: a bank is reloaded during a stream (R404) -/
  | stitchParityReload (id row : Nat)
  /-- RETRIEVAL_OPERATION_APPLY: an engine applies one operation (R496) -/
  | retrievalOperationApply (id : Nat)
  /-- QUANTUM_EXPIRY: the core decides whether to pre-empt (R252, R435) -/
  | quantumExpiry (core slot : Nat)
  /-- BOBBIN_PREEMPT: the bobbin traps once every thread is saved (R271) -/
  | bobbinPreempt (core slot : Nat)
  /-- CONTEXT_SLOT_RELEASE: a slot is released (R431) -/
  | contextSlotRelease (core slot : Nat)
  /-- CONTEXT_READMISSION: a switched context is rebuilt (R275) -/
  | contextReadmission (core ctx : Nat)
  /-- QUEUE_DOORBELL: a host write to QTAIL (R416) -/
  | queueDoorbell (q tail : Nat)
  /-- QUEUE_ENABLE: a host write to QCTL with EN = 1 (R416) -/
  | queueEnable (q val : Nat)
  /-- QUEUE_DISABLE: a host write to QCTL with EN = 0 (R416) -/
  | queueDisable (q val : Nat)
  /-- DISPATCH: the dispatcher takes one record (R417) -/
  | dispatch
  /-- WAVE_ADMISSION: a placed wave is admitted (R429) -/
  | waveAdmission (core : Nat)
  /-- STAGING_COMPLETION: a staging read completes (R429) -/
  | stagingCompletion (core key region : Nat)
  /-- LAUNCH_COMPLETION: a launch completes (R430) -/
  | launchCompletion (key : Nat)
  /-- SLACK_TICK: held packets lose one tick (R443) -/
  | slackTick
  /-- SLACK_OVERDUE: a packet becomes overdue (R444) -/
  | slackOverdue (id : Nat)
  /-- PACKET_ADVANCE: an output port advances a packet (R445) -/
  | packetAdvance (id : Nat)
  /-- ROUTER_POWER_GATE: an idle router gates its power (R446) -/
  | routerPowerGate (core : Nat)
  /-- ROUTER_WAKE: a gated router is awake again (R446) -/
  | routerWake (core : Nat)
  /-- PAGE_MOVE_START: the old home sets MOV (R460) -/
  | pageMoveStart (ctx va newHome : Nat)
  /-- PAGE_MOVE_TRANSFER: the frame and entries go to the new home (R460) -/
  | pageMoveTransfer (id : Nat)
  /-- SHOOTDOWN: one core or fabric interface invalidates and acknowledges (R461) -/
  | shootdown (id agent : Nat)
  /-- SHOOTDOWN_ACKNOWLEDGEMENT: every acknowledgement is in (R461) -/
  | shootdownAcknowledgement (id : Nat)
  /-- GRACE_WINDOW_END: the grace window ends (R460) -/
  | graceWindowEnd (id : Nat)
  /-- REHOME: a refused sender walks again and resends (R462) -/
  | rehome (id : Nat)
  /-- CHANNEL_RETIREMENT: a core is retired to its buddy (R463) -/
  | channelRetirement (core : Nat)
  /-- PAGE_MAKE_WRITABLE: a read-only page becomes writable (R464) -/
  | pageMakeWritable (ctx va : Nat)
  /-- PAGE_MAKE_READ_ONLY: a writable page becomes read-only (R465) -/
  | pageMakeReadOnly (ctx va : Nat)
  /-- PORT_LOSS: no port of a mask is UP (R533) -/
  | portLoss (die chip : Nat)
  /-- SAMPLE_RECORD: a sample record is written (R517) -/
  | sampleRecord (core slot id : Nat)
  /-- TRACE_ENABLE: TCTL.EN = 1 is written (R518) -/
  | traceEnable (core slot : Nat) (val : BitVec 64)
  /-- TRACE_DISABLE: TCTL.EN = 0 is written (R518) -/
  | traceDisable (core slot : Nat) (val : BitVec 64)
  /-- RESUME: DBGCMD 1 (R524) -/
  | resume (core slot : Nat)
  /-- DELIVER: DBGCMD 2 (R524) -/
  | deliver (core slot : Nat)
  /-- STEP: DBGCMD 3 (R524) -/
  | debugStep (core slot : Nat)
  /-- STOPALL: DBGCMD 4 (R524) -/
  | stopall (core slot : Nat)
  /-- COUNTER_WRITE: a host write to a counter word (R504) -/
  | counterWrite (core slot n : Nat) (val : BitVec 64)
  /-- QUANTUM_WRITE: a write to QUANTUM (R252) -/
  | quantumWrite (core : Nat) (val : BitVec 32)
  /-- HOST_BAR2_WRITE: a host write through BAR 2 (R527) -/
  | hostBar2Write (off : Nat) (data : List (BitVec 8))
  /-- DUTY_SPLIT_WRITE: a DUTY write of SPLIT (R537) -/
  | dutySplitWrite (val : BitVec 14)
  /-- DUTY_GO: GO releases stage 5 (R537) -/
  | dutyGo
  /-- DERR_CLEAR: 1 written to DERR (R537) -/
  | derrClear
  /-- GO_TIMEOUT: 10 s without GO (R537) -/
  | goTimeout
  /-- PCAP_WRITE: a power-cap write (R527) -/
  | pcapWrite (val : Nat)
  /-- REGISTER_WRITE: a BAR 0 word with no behaviour of its own (R527) -/
  | registerWrite (off val : Nat)
  /-- POWER_ON: bring-up (R529) -/
  | powerOn (failStage code : Nat) (links : List Nat) (images : List Image)
  /-- POWER_WINDOW: a 1 ms average of draw (R538) -/
  | powerWindow (watts : Nat)
  /-- THERMAL_LIMIT: a junction at 105 degrees (R539) -/
  | thermalLimit
  /-- THERMAL_SHUTDOWN: a junction at 115 degrees (R539) -/
  | thermalShutdown
  /-- UCIE_LINK_FAILURE: a UCIe link keeps fewer modules (R531) -/
  | ucieLinkFailure (link modules : Nat)
  /-- KEY_SLOT_WRITE: firmware writes a key slot (R467) -/
  | keySlotWrite (ctx slot qx qy : Nat) (blob : List (BitVec 8))
  /-- CORE_CYCLE: a core cycle passes (R511, R433) -/
  | coreCycle
  /-- ULTRA_ETHERNET_PORT_UP: a port is trained (R533) -/
  | ultraEthernetPortUp (port speed : Nat)
  /-- PORT_ENABLE: a host write to a PORT word (R536) -/
  | portEnable (port val : Nat)
  /-- THERMAL_LIMIT_CLEAR: the junction falls below 105 degrees (R539) -/
  | thermalLimitClear
  /-- MEASUREMENT_REPORT: a signed report (R535) -/
  | measurementReport (nonce : List (BitVec 8))
deriving DecidableEq, Repr

end Sys2Proof
end

