-- ==== Sys2Proof/Machine/State.lean ====
section
/-! DEFINITION. The machine's state as plain data, the reasons a step can stop, and the state right after reset. -/

namespace Sys2Proof.Machine

/-- Why the machine stops with a fault. No rule of the spec stops the whole machine, so the one fault here is an input that
the outside world cannot give. -/
inductive Fault where
  /-- raised by `step` when the inputs from outside hold an instruction word, which is no event: safe -/
  | notAnEvent
deriving DecidableEq, Repr

/-- Why an instruction has no outcome. -/
inductive Refusal where
  /-- raised by the dispatcher for an instruction whose meaning is not written: safe -/
  | notModelled (mnemonic : String)
deriving DecidableEq, Repr

/-- A sparse table: pairs with rising keys; a key that is absent reads as the table's rest value. -/
abbrev KMap (α : Type) := List (Nat × α)

/-! ### Threads and bobbins -/

/-- The register file of a thread (R134) or of a bobbin (R237). -/
inductive Regs where
  | x (v : Vector Word 64)
  | w (v : Vector DWord 32)
deriving DecidableEq, Repr

/-- A fibre cursor (R161). -/
structure Fibre where
  pos : Word := 0
  count : Word := 0
  step : BitVec 16 := 0
  bolt : BitVec 6 := 0
  opened : Bool := false
deriving DecidableEq, Repr

/-- TSTATE (R255). -/
structure TState where
  priv : Bool := false
  trapped : Bool := false
  svh : Bool := false
  rst : Bool := false
  epriv : Bool := false
  flast : Bool := false
  brun : Bool := false
deriving DecidableEq, Repr

/-- The registers an exception saves into (R250, R256). -/
structure TrapRegs where
  epc : Word := 0
  ecause : Word := 0
  eord : Word := 0
  eaddr : BitVec 48 := 0
  einfo : Word := 0
  eres : Word := 0
  live : DWord := 0
  svidx : BitVec 12 := 0
  escr : Vector Word 4 := Vector.replicate 4 0
deriving DecidableEq, Repr

/-- The trap causes by their codes (R257). -/
inductive Cause where
  | illegalOpcode | illegalModifier | badClause | controlIntegrity | allotment | privilege | misaligned | bounds
  | pageNotPresent | pageProtection | homeMapMiss | pinnedGlobal | rangeLock | basteFull | phaseDrain | barrierConflict
  | hoopFault | knotOversign | patternInvalid | engineFault | txNesting | overlayMissing | slackExhausted | debugStop
  | preempt | eccUncorrected | keyInvalid | retrievalFault | softwareTrap
deriving DecidableEq, Repr

/-- A stop of a lane: its cause, the address and access detail that EADDR and EINFO take, and for PHASE_DRAIN the EORD of
the failing store. -/
structure Stop where
  cause : Cause
  addr : Option (BitVec 48) := none
  write : Bool := false
  space : BitVec 3 := 0
  eord : Option Word := none
  /-- the resume position lies after the instruction (TRAP, BRKPT): the PC and the position there, 0 for a clause header -/
  after : Option (Word × Nat) := none
  /-- the home that raised a translation fault, or the origin, and the page that its record names (R458) -/
  home : Nat := 0
  page : Nat := 0
  /-- the CODE of a debug stop (R524) -/
  code : BitVec 16 := 0
  /-- the service has already failed it: it goes to the handler (R262, R557) -/
  served : Bool := false
deriving DecidableEq, Repr

/-- A line of memory, or of one of the structures that the wake table watches (R354): LINE and KIND, the context, and the
model's own number of the storage, in which the cluster name and the core name of one byte agree (R279). -/
structure Line where
  phys : Nat
  line : Nat
  kind : Nat
  ctx : Nat
deriving DecidableEq, Repr

/-- Causes of an abort (R341). -/
inductive TxCause where
  | none | conflict | capacity | nonlocal | explicit | woken | preempted | fault | nesting
deriving DecidableEq, Repr

/-- The age of an attempt (R341). -/
structure TxAge where
  cycle : Nat
  core : Nat
  slot : Nat
  lane : Nat
deriving DecidableEq, Repr

/-- One byte of a write set: the line it lies in, the storage key of the byte, the byte. -/
structure TxWrite where
  line : Line
  key : Nat
  byte : Byte
  poisoned : Bool := false
deriving DecidableEq, Repr

/-- An alternative (R349): its PC, the mark in the write set, its depth. -/
structure TxAlt where
  pc : Word
  mark : Nat
  depth : Nat
deriving DecidableEq, Repr

/-- Transaction state of a thread (R341); DEPTH 0 is outside. `openPc` and the three fields after it name the outermost
TXOPEN, where the thread resumes. -/
structure Tx where
  depth : Nat := 0
  target : Word := 0
  alts : List TxAlt := []
  reads : List Line := []
  writes : List TxWrite := []
  age : Option TxAge := none
  /-- alternatives registered in the attempt, taken ones with them (R349) -/
  elses : Nat := 0
  openPc : Word := 0
  openClause : Word := 0
  openPos : Nat := 0
  cause : TxCause := .none
  code : BitVec 8 := 0
deriving DecidableEq, Repr

/-- Why a lane that is not asleep is not ready (R43), for holds whose instruction re-executes once the condition clears. -/
inductive Hold where
  /-- a done count at 15 (R63) -/
  | doneCount (flag : Nat)
  /-- the WAIT instruction (R228) -/
  | waitFlags (mask : BitVec 12)
  /-- a full queue of an engine (R375, R400, R495) -/
  | queueFull
  /-- an access that overlaps the range scoreboard (R305) -/
  | scoreboard
  /-- an overlay that is being loaded; the instruction re-executes (R78, R263, R37) -/
  | overlay (ovl : BitVec 16)
  /-- a transfer whose overlay is being loaded: target, link register and value, seam to cut (R79, R223) -/
  | transfer (target : Word) (link : Option (Reg × DWord)) (cut : Option (BitVec 4))
  /-- a page that is moving (R460): the address, where the access names one, and the order of the holds -/
  | pageMove (va : Option Nat) (since : Nat)
  /-- an access to an element for which a request of the thread has not performed: address and bytes (R286, log 70) -/
  | ordered (va bytes : Nat)
deriving DecidableEq, Repr

/-- What a lane does once its done flags are clear and its plain stores have performed (R34, R68, R232, R268, R292). -/
inductive Settle where
  | trap (stop : Stop)
  | migrate (home : Nat) (slack : BitVec 12) (sx : Bool) (va : Nat)
  | exit
  | halt
  | arrive (reg level : Nat) (slack : BitVec 12)
deriving DecidableEq, Repr

/-- Status of a lane (R28, R43, R221, R258, R268, R275). -/
inductive Status where
  | running
  /-- a bobbin before its start and after EXIT (R238) -/
  | halted
  | held (h : Hold)
  | settling (a : Settle)
  /-- held until the given number of replies or acknowledgements has arrived; the lane then goes on after the instruction -/
  | acks (n : Nat)
  /-- held by FENCE until the lane's earlier accesses have performed (R284) -/
  | fence (scope : Scope)
  /-- held until its retrieval operations have been applied (RTSYNC, R500) -/
  | sync
  /-- held at TRET or a load by request at TRAPPED = 1 until the reply writes the lane (R274) -/
  | reply
  /-- held at PHASE.wait until a requested drain of held entries is acknowledged (R330) -/
  | drain
  | asleep (set : Nat)
  /-- parked at a JOIN, with the header that follows it (R221) -/
  | atJoin (seam : BitVec 4) (next : Word)
  /-- parked for a service, with the stop that the service may deliver (R258, R262) -/
  | parked (stop : Stop)
  /-- parked by a nested fault until the host acts (R262) -/
  | nested
  /-- parked by the debugger, with the stop that it may deliver (R523) -/
  | debug (stop : Stop)
  /-- saved by HALT in a save handler (R268) -/
  | saved
  /-- restored by TRET, waiting for its fragment (R275) -/
  | restored
deriving DecidableEq, Repr

/-- A sample that SMPL arms (R516). -/
structure SampleArm where
  armed : Bool := false
  tag : BitVec 16 := 0
deriving DecidableEq, Repr

/-- A thread, or the bobbin of a context slot. -/
structure Hart where
  /-- the model's own name of the thread, unique in the machine -/
  tid : Nat := 0
  regs : Regs
  /-- registers that hold poison (R471) -/
  poison : DWord := 0
  preds : BitVec 7 := 0
  done : Vector (BitVec 4) 12 := Vector.replicate 12 0
  /-- PC of the next instruction (R72) -/
  pc : Word
  /-- PC of its clause header, and its position in the clause -/
  clause : Word
  pos : Nat := 0
  /-- the WAIT test of the clause has been made (R63) -/
  entered : Bool := false
  fi0 : Fibre := {}
  fi1 : Fibre := {}
  ordinal : Word := 0
  launch : Word := 0
  spwn : Bool := false
  scur : BitVec 4 := 0
  scv : Bool := false
  repstep : BitVec 7 := 0
  /-- the count of the REP in progress at this PC -/
  rep : Option Nat := none
  fpstat : BitVec 5 := 0
  tstate : TState := {}
  trap : TrapRegs := {}
  slack : BitVec 12 := 0xFFF
  tx : Tx := {}
  sample : SampleArm := {}
  status : Status := .running
  /-- pre-emption stop pending (R269) -/
  preemptDue : Bool := false
  /-- a debug stop that is pending, with its CODE, and a step that the debugger asked for (R523, R524) -/
  debugDue : Option (BitVec 16) := none
  debugStep : Bool := false
  /-- the lane has reached its position: the breakpoint test is not made again (R523) -/
  reached : Bool := false
  /-- the lane has arrived by migration and stands at its safe point (R35) -/
  arrived : Bool := false
  /-- the old home of a page has forwarded the access at which it stands (R460, step 5) -/
  moved : Bool := false
  /-- the ordinal of the safe point at which it has arrived, for OVERLAY_MISSING there (R79, R257) -/
  arrivalOrd : BitVec 16 := 0
  /-- stops reported late, in order (R380, R444, R501, R557) -/
  late : List Stop := []
  /-- the PHASE.wait at which the lane has trapped with PHASE_DRAIN: there it is re-executed (R296, R330) -/
  phaseTrap : Option Word := none
  /-- retrieval operations of the lane not yet applied (R496) -/
  ops : Nat := 0
  /-- the thread stopped in a transaction before its context was switched out (R341) -/
  txStopped : Bool := false
deriving DecidableEq, Repr

/-! ### Waves -/

/-- A seam register (R218). -/
structure Seam where
  mask : DWord := 0
  arr : DWord := 0
  parent : BitVec 4 := 0
  hasp : Bool := false
  opened : Bool := false
deriving DecidableEq, Repr

/-- An arrival mark (R235). -/
structure Mark where
  addr : BitVec 48 := 0
  space : BitVec 3 := 0
  valid : Bool := false
  gen : BitVec 16 := 0
deriving DecidableEq, Repr

/-- The part of a group that shares one wave (R218); a thread started by SPAWN is a fragment of its own. -/
structure Fragment where
  seams : Vector Seam 16 := Vector.replicate 16 {}
  mark : Mark := {}
deriving DecidableEq, Repr

/-- What the choice of R434 keeps for a wave or a bobbin. -/
structure Sched where
  passed : Nat := 0
  promoted : Option Nat := none
  readySince : Option Nat := none
deriving DecidableEq, Repr

/-- A wave slot in use (R26). Fragments stand by group number, those of spawned threads by 2^32 plus the thread's name. -/
structure Wave where
  ctx : Nat
  launch : Word
  arrival : Bool
  lanes : KMap Hart
  frags : KMap Fragment := []
  sched : Sched := {}
deriving DecidableEq, Repr

/-! ### Packets -/

/-- Where a thread stands. -/
inductive Agent where
  | wave (w : Nat) (lane : Nat)
  | bobbin (slot : Nat)
deriving DecidableEq, Repr

/-- A thread by its core, its place and its name. -/
structure Ref where
  core : Nat
  agent : Agent
  tid : Nat
deriving DecidableEq, Repr

/-- A migrating thread: the header fields of R441 that are its own, its chain, its open fibres and its live registers. -/
structure Needle where
  tid : Nat
  pc : Word
  clause : Word
  pos : Nat
  launch : Word
  ordinal : Word
  spwn : Bool
  live : DWord
  regs : KMap Word
  preds : BitVec 7
  fpstat : BitVec 5
  chain : List (BitVec 4)
  /-- REPSTEP, which travels with the thread control word (R209) -/
  repstep : BitVec 7 := 0
  /-- the ordinal of the safe point -/
  ord : BitVec 16 := 0
  fibres : KMap Fibre
  sample : SampleArm
  late : List Stop
  debugStep : Bool
  /-- it has been placed in a store or a spill area, and counted there (R503, R544) -/
  placed : Bool := false
  /-- a task starts here instead of arriving (R326) -/
  task : Bool
  /-- live registers that hold poison (R470) -/
  poison : DWord := 0
  /-- the element of global memory for which it has been sent, by which its home holds it while the page moves (R460) -/
  va : Option Nat := none
deriving DecidableEq, Repr

/-- What an atomic does at its execution point (R332). -/
inductive AtomKind where
  | op (o : AtomOp)
  | cas
  | fadd
deriving DecidableEq, Repr

/-- Where a result of a request goes: a register of a thread, with the flag it clears. -/
structure Dest where
  ref : Ref
  reg : Nat
  flag : Option Nat := none
  /-- how the element is placed (R164): its width in bytes, and its sign -/
  bytes : Nat := 4
  signed : Bool := false
  /-- write nothing (ARED) -/
  silent : Bool := false
  /-- the sample that covers the access (R517) -/
  sample : Option Nat := none
deriving DecidableEq, Repr

/-- An element of a request: its address, its data, and the register where a load of it goes. -/
structure Part where
  va : BitVec 48
  data : Nat
  reg : Nat
deriving DecidableEq, Repr

/-- What something waits for that the fault service serves: the cause, the page and its home (R458). -/
structure PageWait where
  cause : Cause
  page : Nat
  home : Nat
  /-- the address that met the fault -/
  va : Nat := 0
deriving DecidableEq, Repr

/-- A request that performs at another place: an atomic, or a load or store of one or more elements. -/
structure Access where
  dest : Dest
  ctx : Nat
  parts : List Part
  bytes : Nat
  write : Bool
  kind : Option AtomKind := none
  fmt : Fmt
  /-- compare value of ACAS; for a store, 1 when its data hold poison -/
  b : Nat := 0
  party : Word
  /-- a plain load by request overlays the party's entries (R274) -/
  overlay : Bool
  eord : Word
  pc : Word
  /-- the lane is held for the reply (R274) -/
  held : Bool := false
  /-- the cycle of the issue (R333), and the privilege of the lane (R507) -/
  cycle : Nat := 0
  system : Bool := false
  /-- the cursor that the reply writes (R164) -/
  cursor : Option (BitVec 1 × Fibre × BitVec 3) := none
  /-- register writes of the suppressed elements of a load, which come with the reply (R316, R321) -/
  zeros : List (Nat × DWord) := []
  /-- waits behind the fault service (R557) -/
  waiting : Option PageWait := none
deriving DecidableEq, Repr

/-- A write to registers when a long-latency result arrives; the predicate was written at issue. -/
structure Result where
  ref : Ref
  writes : List (Nat × DWord)
  flag : Option Nat
  /-- the registers that the result leaves poisoned (R471) -/
  poison : DWord := 0
  /-- the lane is held for this result -/
  release : Bool := false
  /-- the result answers a request of the lane (R284) -/
  owed : Bool := false
  cursor : Option (BitVec 1 × Fibre × BitVec 3) := none
  sample : Option Nat := none
  /-- one element of near memory read by several lanes of one issue: the cycle, the wave, the pc and the address; these results come
  together -/
  twin : Option (Nat × Nat × Word × Nat) := none
deriving DecidableEq, Repr

/-- A hash family (R489). -/
structure Family where
  kind : Bool := false
  d : Nat := 0
  seed : Word := 0
deriving DecidableEq, Repr

/-- What a core or a die's engine changes in its own copies when it acknowledges (R483, R487, R489, R491). -/
inductive Update where
  | none
  | pattern (ctx n : Nat)
  | bolt (ctx n : Nat) (rec : BitVec 128)
  | jump (ctx : Nat) (ovl : BitVec 16) (off : Nat) (bytes : List Byte)
  | family (ctx n : Nat) (f : Family)
  | tableDie (ctx n : Nat) (d : Nat)
deriving DecidableEq, Repr

/-- What moves data over the bulk network: an engine command, an overlay load, a staging by launch, region and unit, a page move
(R439, R460). -/
inductive BulkJob where
  | command (id : Nat)
  | load (id : Nat)
  | staging (key region unit : Nat)
  | move (id : Nat)
deriving DecidableEq, Repr

inductive Body where
  | needle (n : Needle)
  | task (n : Needle) (issuer : Ref)
  | atomic (a : Access)
  | atomicReply (a : Access) (old : DWord) (poisoned : Bool)
  | read (a : Access)
  | result (r : Result)
  /-- a request that performed nothing (R557): the reply that says so -/
  | failure (a : Access) (stop : Stop)
  /-- an acknowledgement to a held lane, with the update that its sender makes -/
  | ack (ref : Ref) (upd : Update)
  | refusal (n : Needle) (issuer : Ref)
  | increment (launch : Word) (level : Nat) (group : Nat) (ref : Ref)
  /-- an arrival at a phase object, with the slack of its class (R442) -/
  | phaseArrive (launch : Word) (level : Nat) (group : Nat) (dest : Dest) (slack : BitVec 12)
  | notice (line : Line)
  /-- a drain request, and its acknowledgement (R292) -/
  | drain (id : Nat)
  | drained (id : Nat)
  /-- the fetch of a launch entry for a die, and its reply (R421) -/
  | entryFetch (die : Nat) (key : Nat)
  | entry (die : Nat) (key : Nat)
  /-- data on the bulk network (R439) -/
  | bulk (job : BulkJob)
deriving DecidableEq, Repr

/-- Where a packet is: before the injection port of its core, an input buffer of a router by its port (0 the core, 1 to 4 the neighbours in order +x, -x, +y, -y, 5
the die fabric interface), the interface of a die, a UCIe port, an Ultra Ethernet port, or its destination. -/
inductive Place where
  | source (core : Nat)
  | router (core : Nat) (port : Nat)
  | dfi (die : Nat)
  | ucie (die : Nat) (other : Nat)
  | uet (die : Nat)
  | arrived
deriving DecidableEq, Repr

/-- A packet with the header fields that every packet has (R441) and what its choices keep (R445). -/
structure Packet where
  id : Nat
  ctx : Nat
  launch : Word := 0
  src : Nat
  home : Nat
  slack : BitVec 12
  ovd : Bool := false
  sx : Bool := false
  bytes : Nat := 32
  /-- virtual network (R439) -/
  vn : Nat
  place : Place
  /-- when it came to this place -/
  since : Nat
  passed : Nat := 0
  promoted : Option Nat := none
  /-- it has been refused with REHOME and goes back to its sender (R462) -/
  rehomed : Bool := false
  body : Body
deriving DecidableEq, Repr

/-! ### Engine commands -/

/-- One end of a command (R373): a hoop with its entry count, a pattern record with its byte offset, or nothing. -/
inductive EndPt where
  | empty
  | hoop (h : Nat) (count : Nat)
  | pat (rec : BitVec 512) (off : BitVec 48)
deriving DecidableEq, Repr

/-- What a command does, with the operands it read at issue. -/
inductive Work where
  /-- CPY (R381) -/
  | copy
  /-- CPYM (R382): the cores of the mask -/
  | multicast (cores : List Nat)
  /-- CPYO (R383): overlay, slot or none for .any, overlay table -/
  | overlay (ovl : BitVec 16) (slot : Option Nat) (ovt : BitVec 48)
  | gather (bolt : BitVec 128)
  | scatter (bolt : BitVec 128)
  /-- BIN (R387): rows from, count, thresholds; R388: rows per class once step 1 is done -/
  | bin (bolt : BitVec 128) (first count : Nat) (hoop : Nat) (thresholds : List Nat) (classes : Option (List (List (Nat × Nat × Nat))))
  /-- TLDB (R403) -/
  | loadBank (bank : Nat)
  /-- TMMA and TMMAG (R405, R406): tile, bank, accumulate, planes, INT32, rows, index list of TMMAG -/
  | stream (tile bank : Nat) (acc : Bool) (planes : Nat) (int : Bool) (rows : Nat) (gathered : Bool) (list : Option (BitVec 128 × Nat))
  | zeroTile (tile : Nat)
  /-- TSTA (R409): INT32 scale register value -/
  | storeTile (tile : Nat) (scale : Word) (rows : Nat)
  | storeStatus (tile : Nat)
  /-- RTPRB (R498) -/
  | probe (rt : Nat) (dest : Reg) (list : Option (BitVec 128 × Nat)) (max : Nat)
  | insert (rt : Nat) (row : Word) (pd : Option (BitVec 3))
  | delete (rt : Nat) (row : Word) (pd : Option (BitVec 3))
  | rehash (rt : Nat) (n : Word)
  /-- RTDEF with its image, RTDEF.rh and RTDEF.off by their form codes 0, 1 and 2 (R491, R499) -/
  | define (rt : Nat) (image : BitVec 256) (form : Nat)
deriving DecidableEq, Repr

/-- The units that hold command queues (R375, R400, R495). -/
inductive Engine where
  | copy | stitch | retrieval | dfi
deriving DecidableEq, Repr

/-- A registered range in lines, inclusive (R305, R306): of a core's scratchpad (by storage line) or of a context's global
memory at a die's interface. -/
structure Range where
  cmd : Nat
  /-- the core whose scoreboard holds it, or none for a die's range-lock table -/
  core : Option Nat
  die : Nat
  ctx : Nat
  lo : Nat
  hi : Nat
  dest : Bool
  /-- the model's number of the moment when it was registered -/
  since : Nat := 0
deriving DecidableEq, Repr

/-- A claim of a fired command: hoop, first entry count, entries (R377). -/
structure Claim where
  hoop : Nat
  first : BitVec 16
  n : Nat
deriving DecidableEq, Repr

structure Command where
  id : Nat
  engine : Engine
  work : Work
  /-- the issuer, its launch and its privilege to be told of a failure (R380) -/
  issuer : Ref
  ctx : Nat
  src : EndPt := .empty
  dst : EndPt := .empty
  /-- barrier object: space and offset (R339, R407) -/
  barrier : Option (Nat × Nat) := none
  sl : BitVec 3 := 0
  fired : Bool := false
  claims : List Claim := []
  /-- entries taken of source hoops at firing: hoop, first count, entries (R377) -/
  taken : List Claim := []
  /-- receivers of a multicast whose part has not retired (R382) -/
  parts : List Nat := []
  /-- data that a command has read and carries (R382, R495), and the keys read at its firing by slot number (R469) -/
  query : List Byte := []
  keyed : KMap (List Byte) := []
  /-- a fired probe whose query has not been read yet (R495) -/
  unread : Bool := false
  flag : Option Nat := none
  pc : Word := 0
  eord : Word := 0
  /-- the engine has applied the operation: what it found (R498) -/
  applied : Bool := false
  found : List Word := []
  more : Bool := false
  /-- waits for the fault service (R379) -/
  waiting : Option PageWait := none
  /-- the service has been refused at an address: the command fails when its hoops may change (R366, R379) -/
  refused : Option Nat := none
  /-- the slack that was left when the operation reached its engine, and that its replies inherit (R442) -/
  left : BitVec 12 := 0xFFF
  /-- rows of a stream that have passed WR before a reload, and whether its bank is to be reloaded first (R404) -/
  rows : Nat := 0
  reload : Bool := false
  /-- the launch and the privilege of the issue, for energy and events (R507, R510) -/
  launch : Word := 0
  system : Bool := false
deriving DecidableEq, Repr

/-! ### Context slots -/

/-- A knot register (R247). -/
structure Knot where
  expect : BitVec 16 := 0
  signed : BitVec 16 := 0
  armed : Bool := false
  template : BitVec 128 := 0
deriving DecidableEq, Repr

/-- The trace unit of a slot (R518 to R521). -/
structure Trace where
  /-- bytes of the records in the open frame; none when no frame is open -/
  frame : Option (List Byte) := none
  queue : List (List Byte) := []
  seq : Nat := 0
  firstTsc : DWord := 0
  lastTsc : DWord := 0
  records : Nat := 0
  lost : Nat := 0
deriving DecidableEq, Repr

/-- A sample whose record is not written yet (R517). -/
structure Sample where
  id : Nat
  lmask : DWord
  ovl : BitVec 16
  ord : BitVec 16
  sectors : Nat
  mig : Bool
  op : Nat
  tag : BitVec 16
  time : DWord
  /-- results still out, and the lane of the last that came -/
  waits : Nat
  last : Nat
deriving DecidableEq, Repr

/-- Where a context switch of a slot stands (R269 to R275). -/
inductive Switch where
  | none
  /-- stops are pending at the threads -/
  | saving
  /-- the bobbin runs its save handler -/
  | bobbin
  /-- the switch record is being written, or a write of it failed (R273) -/
  | recording
  /-- readmitted: the bobbin runs its restore handler -/
  | restoring
deriving DecidableEq, Repr

/-- A context slot of a core (R40, R250, R253). -/
structure Slot where
  ctx : Nat
  bobbin : Hart
  sched : Sched := {}
  head : BitVec 6 := 0
  count : Nat := 0
  entries : Vector DWord 64 := Vector.replicate 64 0
  knots : Vector Knot 16 := Vector.replicate 16 {}
  g0 : Word := 0x9E3779B9
  g1 : Word := 0x9E3779B9
  gt : Word := 0x9E3779B9
  /-- seeds that SRSEED wrote in this cycle, by generator (0 G0, 1 G1, 2 GT); they stand from the cycle's end (R190) -/
  seeds : KMap Word := []
  tvec : Word := 0
  svvec : Word := 0
  rsvec : Word := 0
  svbase : BitVec 48 := 0
  svstride : Word := 0
  sbolt : Vector (BitVec 128) 4 := Vector.replicate 4 0
  qcount : Word := 0
  bolts : Vector (BitVec 128) 64 := Vector.replicate 64 0
  slackTab : Vector (BitVec 12) 8 := Vector.replicate 8 0
  /-- arrival mark of the bobbin, a fragment of one (R235, R240) -/
  mark : Mark := {}
  /-- overlay table of the bobbin (R486) -/
  ovt : BitVec 48 := 0
  /-- counter words that are not 0 (R503) -/
  bank : KMap DWord := []
  /-- what this cycle's events add to counter words, and writes to words, until the cycle ends (R513) -/
  pending : KMap Nat := []
  ctlPending : KMap DWord := []
  frozen : Bool := false
  /-- the bank has thawed in this cycle, and counts from the next on (R514, R548) -/
  thawing : Bool := false
  thawWait : Bool := false
  trace : Trace := {}
  /-- lanes parked for the debugger in the order of their parks, with bits [63:16] of DBGST (R524) -/
  debugged : List (Nat × BitVec 48) := []
  /-- SREQ as it stands now; bit 1 of DBGCTL shows it from the next cycle on (R513, R522, R524) -/
  sreq : Bool := false
  /-- issues since the last sample of the slot, and samples not yet recorded (R516, R517) -/
  sampleCount : Nat := 0
  samples : List Sample := []
  /-- commands of the slot, oldest first, of all engines -/
  commands : List Command := []
  switch : Switch := .none
  /-- the switched-out context has left; the slot waits for its commands (R271) -/
  leaving : Bool := false
  /-- the device service context's slot, which is never released (R457) -/
  service : Bool := false
  /-- when the context became resident -/
  since : Nat := 0
  /-- the host has asked for the pre-emption while the core ran another switch -/
  asked : Bool := false
  /-- wave ordinals of the save in progress: wave slots in order (R270) -/
  saveOrder : List Nat := []
deriving DecidableEq, Repr

/-! ### Cores -/

/-- An overlay in an instruction-memory slot (R80); its bytes stand in the memory. -/
structure OverlaySlot where
  ctx : Nat
  ovl : BitVec 16
  size : Nat
  lastFetch : Nat
deriving DecidableEq, Repr

/-- An overlay load in progress (R79, R383). -/
structure OverlayLoad where
  id : Nat
  core : Nat
  ctx : Nat
  ovl : BitVec 16
  ovt : BitVec 48
  /-- the instruction-memory slot that a CPYO names (R383) -/
  slot : Option Nat := none
  /-- the slack of its class where a CPYO names it, and none otherwise (R442); its data have been asked for (R439) -/
  slack : BitVec 12 := 0xFFF
  asked : Bool := false
  /-- waits for the fault service (R486) -/
  waiting : Option PageWait := none
deriving DecidableEq, Repr

/-- A basting entry (R289). -/
structure Baste where
  addr : BitVec 48
  esize : BitVec 3
  held : Bool
  ctx : Nat
  party : Word
  ovl : BitVec 16
  ord : BitVec 16
  seq : Word
  data : DWord
  /-- the stored data hold poison (R471) -/
  poisoned : Bool := false
deriving DecidableEq, Repr

/-- A wake-table entry (R354). -/
structure Wake where
  line : Line
  slot : Nat
  set : Nat
deriving DecidableEq, Repr

/-- A task of the spawn queue (R327). -/
structure Task where
  needle : Needle
  issuer : Ref
  home : Nat
  ctx : Nat
  slack : BitVec 3
  va : BitVec 48
  /-- increments not yet applied (R328) -/
  waits : Nat
  /-- refused: waits 64 network cycles from the given network time -/
  refused : Option Nat := none
  /-- the slack that a refused task came back with (R443) -/
  left : Option (BitVec 12) := none
deriving DecidableEq, Repr

/-- An arrival in the store or in the spill area (R436). -/
structure Arrival where
  id : Nat
  needle : Needle
  ctx : Nat
  slack : BitVec 12
  ovd : Bool
  sx : Bool
  bytes : Nat
  /-- the cycle in which it entered the store, and the order of arrival -/
  since : Nat
  seq : Nat
  /-- waits for the load of its overlay (R37) -/
  waits : Bool := false
  /-- its first entry of the store -/
  entry : Nat := 0
  /-- the home that it came from; for one that has come back with REHOME and is sent again from the spill area, the home that refused
  it (R462) -/
  src : Nat := 0
  resend : Bool := false
deriving DecidableEq, Repr

/-- A leaf in a translation cache (R452). -/
structure TlbEntry where
  set : Nat
  ctx : Nat
  base : Nat
  size : Nat
  ro : Bool
  home : Nat
deriving DecidableEq, Repr

/-- A weight bank of the stitch array (R391); cells and group exponents stand in the memory. -/
structure Bank where
  valid : Bool := false
  fmt : Fmt := .i8
  kuse : Nat := 0
  nuse : Nat := 0
  /-- group exponents and flags by K-chain times 768 plus column -/
  exps : KMap (Int × Bool) := []
  sb : Int := 0
  source : BitVec 512 := 0
  offset : BitVec 48 := 0
deriving DecidableEq, Repr

/-- What a core keeps of a context's allocations and reservations (R393, R430). -/
structure Alloc where
  cspb : Nat := 0
  tiles : BitVec 2 := 0
  banks : BitVec 4 := 0
deriving DecidableEq, Repr

/-- A wave that the dispatcher has placed and the core has not admitted (R429). -/
structure Placed where
  key : Nat
  wave : Nat
  /-- when it began to wait -/
  since : Nat
  /-- the admission waits for the fault service, or for the host after its failure (R556) -/
  waiting : Option PageWait := none
  failed : Bool := false
deriving DecidableEq, Repr

/-- A context that waits at a core for readmission (R435). -/
structure SavedCtx where
  ctx : Nat
  svbase : BitVec 48
  since : Nat
  failed : Bool := false
  /-- the model's names of the saved threads by save index, and stops reported to them while they are away (R380) -/
  tids : KMap Nat := []
  late : List (Nat × Stop) := []
  /-- threads that have trapped with PHASE_DRAIN at a PHASE that they will re-execute, with its PC (R296) -/
  phaseTraps : List (Nat × Word) := []
  /-- launches of the saved threads, and the launch that started the bobbin -/
  keys : List Nat := []
  bobbin : Word := 0
  /-- launch and ordinal of each saved thread, from which their ends are counted (R273) -/
  threads : List (Word × Word) := []
deriving DecidableEq, Repr

structure Core where
  slots : KMap Slot := []
  waves : KMap Wave := []
  /-- wave slots left in this cycle, with their contexts: they count for it, and are free from the next on (R511, R548) -/
  departed : KMap Nat := []
  imem : KMap OverlaySlot := []
  loads : List OverlayLoad := []
  allocs : KMap Alloc := []
  /-- basting entries in SEQ order: those of the log first -/
  log : List Baste := []
  buffer : List Baste := []
  seq : Word := 0
  wakes : List Wake := []
  filter : List Nat := []
  watched : List (Nat × Line) := []
  spawnQ : List Task := []
  store : List Arrival := []
  spill : List Arrival := []
  /-- claims of hoops not yet filled: context, hoop, first count, entries, filled (R361) -/
  claims : List (Nat × Claim × Bool) := []
  banks : Vector Bank 4 := Vector.replicate 4 {}
  tileStatus : Vector Word 2 := Vector.replicate 2 0
  l1 : List TlbEntry := []
  l2 : List TlbEntry := []
  /-- launches resident on the core in order of admission (R453) -/
  resident : List Nat := []
  /-- tags: read-only L1 lines, memory-side cache lines, pattern cache records -/
  roLines : List Nat := []
  msLines : List Nat := []
  patterns : List (Nat × Nat × BitVec 512) := []
  placed : List Placed := []
  /-- contexts whose spilled arrivals ask for a slot and wait: for the fault service, or for the host after a failure (none) -/
  asks : KMap (Option PageWait) := []
  saved : List SavedCtx := []
  /-- contexts whose pre-emption the host has declined, with the work that waited then (R558) -/
  declined : KMap (List Nat) := []
  quantum : Word := 24000
  euna : DWord := 0
  eunaPending : Nat := 0
  eccc : DWord := 0
  /-- uncorrectable errors of its channels in the last second: near (0) or far (1), and the network time (R536) -/
  errors : List (Nat × Nat) := []
  /-- overlays that a parity error has taken out of instruction memory, by context and identifier (R470) -/
  spoiled : List (Nat × BitVec 16) := []
  /-- energy weight words written after bring-up (R509) -/
  ewt : KMap DWord := []
  /-- writes to words of core scope, until the cycle ends (R513) -/
  sets : KMap DWord := []
  routerOff : Bool := false
  /-- network time of the router's last flit, and of the request that wakes it (R446) -/
  routerSince : Nat := 0
  routerWake : Option Nat := none
  retiring : Bool := false
  retired : Bool := false
  /-- ports that have chosen in this cycle, latest last, and the members they chose (R433) -/
  ports : List Nat := []
  chosen : List Nat := []
  /-- the member that MEM has chosen and that issues after the cycle's hoop instruction on ENG and its firings (R366, R433) -/
  deferred : Option Nat := none
  /-- how far this cycle's events on hoops have come (R366): 0 retirements, 1 a hoop instruction has issued, 2 a command has fired -/
  hoopStage : Nat := 0
  /-- contexts of the waves that have issued in this cycle (R507) -/
  issued : List Nat := []
deriving DecidableEq, Repr

/-! ### Dies and the module -/

/-- A retrieval table (R491). -/
structure Table where
  valid : Bool := false
  fam : Nat := 0
  k : Nat := 1
  l : Nat := 1
  slots : Nat := 4
  pol : Nat := 0
  sp : Bool := false
  die : Nat := 0
  key : BitVec 512 := 0
  base : BitVec 48 := 0
  ovbase : BitVec 48 := 0
  ovcap : Nat := 0
  gen : Bool := false
  rh : Bool := false
  cursor : Nat := 0
  newFam : Nat := 0
  newK : Nat := 1
  newBase : BitVec 48 := 0
deriving DecidableEq, Repr

structure Die where
  /-- die-scratchpad allocation of each context -/
  allocs : KMap Nat := []
  /-- hash families and tables by context times 8 or 16 plus number -/
  families : KMap Family := []
  tables : KMap Table := []
  tableDie : KMap Nat := []
  /-- launch keys in the cache of the fabric interface (R421) -/
  launchCache : List Nat := []
  roLines : List Nat := []
  /-- tags of the two gateway caches, by port: 0 towards the neighbour on the row, 1 on the column (R16) -/
  gateways : Vector (List Nat) 2 := Vector.replicate 2 []
  /-- chips whose ports are lost and reported (R533) -/
  lost : List Nat := []
deriving DecidableEq, Repr

/-- A launch queue (R415). -/
structure Queue where
  base : BitVec 48 := 0
  ctl : Word := 0
  tail : BitVec 16 := 0
  head : BitVec 16 := 0
  err : Bool := false
  /-- the read of the head record waits for the fault service (R416) -/
  waiting : Option PageWait := none
deriving DecidableEq, Repr

/-- A launch-list entry (R421), with what completion and staging need. -/
structure Launch where
  ctx : Nat
  lid : Word
  predid : Word
  ctl : Word
  entry : Word
  bentry : Word
  ovt : BitVec 48
  levels : List DWord
  regions : List (BitVec 128)
  ctl2 : Word
  cspb : Nat
  dspb : Nat
  init : BitVec 48
  slacks : List (BitVec 12)
  ctxrec : BitVec 48
  cpla : BitVec 48
  cplv : DWord
  /-- address of the record, where STATUS is written -/
  record : BitVec 48
  /-- the core of each launch wave (R429) -/
  places : List Nat
  pbase : Word
  groups : Nat
  threads : Nat
  /-- threads not ended, with those not yet started and the tasks -/
  live : Nat
  hinted : Bool := false
  /-- cores that the launch holds (R431) -/
  cores : List Nat := []
  /-- the last drain: not begun, under way, done, or held and reported (R295) -/
  drained : Option Bool := none
  heldPosted : Bool := false
  /-- its staging was refused: it completes with STATUS = 3 (R530) -/
  failed : Bool := false
  /-- the write of STATUS at completion waits for the fault service (R430) -/
  waiting : Option PageWait := none
  /-- order of dispatch -/
  order : Nat := 0
deriving DecidableEq, Repr

/-- A region of a launch in a core, a cluster or a die (R429): staged by the core, or still to be. -/
structure Staging where
  key : Nat
  region : Nat
  unit : Nat
  core : Nat
  done : Bool := false
  /-- its data have been asked for (R439) -/
  asked : Bool := false
  /-- waits for the fault service, or for the host after its failure -/
  waiting : Option PageWait := none
  failed : Bool := false
deriving DecidableEq, Repr

/-- A device record that is still to be written (R430): of a launch that has ended (its key), or of a dispatch. -/
structure Record where
  id : Nat
  key : Option Nat
  ctx : Nat
  va : Nat
  bytes : List Byte
  waiting : Option PageWait := none
deriving DecidableEq, Repr

/-- A phase object (R328), with the launch, level and group that it counts. -/
structure Phase where
  key : Nat
  level : Nat
  group : Nat
  live : Nat
  arrived : Nat := 0
  epoch : Word := 0
  /-- its boundary's drain is under way (R329) -/
  draining : Bool := false
deriving DecidableEq, Repr

/-- What follows a drain. -/
inductive DrainFor where
  | boundary (key level group : Nat)
  /-- a PHASE re-executed by a party that holds entries (R296, R330) -/
  | heldBy (ref : Ref)
  /-- the last drain of a launch (R295) -/
  | completion (key : Nat)
deriving DecidableEq, Repr

/-- A drain in progress (R292): the parties, and the cores that have not acknowledged, with whether each has drained. -/
structure Drain where
  id : Nat
  ctx : Nat
  key : Nat
  firstParty : Word
  parties : Nat
  cores : List (Nat × Bool)
  purpose : DrainFor
  /-- the core that asks, and the slack that its requests carry (R442) -/
  src : Nat := 0
  slack : BitVec 12 := 0xFFF
deriving DecidableEq, Repr

/-- A key slot (R466). -/
structure KeySlot where
  k1 : List Byte
  k2 : List Byte
deriving DecidableEq, Repr

/-- A page move (R460). -/
structure Move where
  id : Nat
  ctx : Nat
  va : Nat
  size : Nat
  old : Nat
  new : Nat
  /-- the frame's data are on their way (R460, step 3) -/
  asked : Bool := false
  transferred : Bool := false
  /-- its shootdown, once it has been sent -/
  shootdown : Nat := 0
  /-- when the grace window opened, in network time (R460) -/
  grace : Option Nat := none
  /-- what the old home held and forwarded, by packets' numbers and threads' names: the new home performs them first, in this order -/
  forwarded : List Nat := []
deriving DecidableEq, Repr

/-- A shootdown: the agents (cores 0 to 255, dies 256 to 259) that have not acknowledged (R461). -/
structure Shootdown where
  id : Nat
  ctx : Nat
  va : Nat
  size : Nat
  waits : List Nat
  /-- threads whose requests to the page were out when their core dropped its entries (R461) -/
  owed : List Nat := []
  /-- a page that is made writable once it is complete (R464) -/
  writable : Bool := false
deriving DecidableEq, Repr

/-- What a posted record holds beyond its bytes (R458, R530). -/
inductive Report where
  | page (ctx va home : Nat) (cause : Cause)
  | nested (ref : Ref)
  | staging (key core region : Nat)
  /-- the admission of a context for its arrivals has failed (R436, R556) -/
  | admission (core ctx : Nat)
  | overlay (core ctx ovl : Nat)
  | notice (core ctx : Nat)
  | freeze (core ctx : Nat)
  | heldDrain (key : Nat)
  | switchWrite (core ctx : Nat)
  | switchRead (core ctx : Nat)
  | other
deriving DecidableEq, Repr

/-- A record in a slot of device memory: die 0 to 3 for fault records, 4 for error records. -/
structure Posted where
  place : Nat
  slot : Nat
  report : Report
deriving DecidableEq, Repr

/-- BAR 0 words that are not queues or counters (R527, R529, R532, R537). -/
structure Bar where
  stage : Nat := 0
  fail : Bool := false
  code : Nat := 0
  waitgo : Bool := false
  /-- the PCI Express link is trained; GO has been written; a failure that stage 6 will meet, by its code -/
  link : Bool := false
  go : Bool := false
  signFails : Option Nat := none
  /-- the ports that stage 5 still trains, and the ports that the host has released under host-assisted link training (R529, R536) -/
  training : List Nat := []
  released : List Nat := []
  split : BitVec 14 := 0
  /-- a write of SPLIT that stands once this cycle has ended without a first admission (R537) -/
  splitNext : Option (BitVec 14) := none
  derr : Bool := false
  pcap : Nat := 2400
  chipid : Nat := 0
  w2base : Nat := 0
  logsz : Nat := 64
  grace : Nat := 65536
  erbase : Nat := 0
  rtbase : Nat := 0
  /-- Ultra Ethernet ports: UP, EN, WCHG, SPEED in the positions of R532 -/
  ports : Vector (BitVec 18) 36 := Vector.replicate 36 1000
deriving DecidableEq, Repr

/-- Power and cooling (R538, R539). -/
structure Power where
  clock : Nat := 1200
  below : Nat := 0
  hot : Bool := false
  stopped : Bool := false
deriving DecidableEq, Repr

/-- The issue that an instruction carries out: the core, the wave or bobbin, its lanes, where each of them goes next, and
what the header says of its position. -/
structure Issue where
  core : Nat := 0
  /-- the wave slot, or the context slot of a bobbin -/
  member : Nat := 0
  bobbin : Bool := false
  lanes : List Nat := []
  /-- the PC after the instruction (after the body, for REP and its steps), its position, and the clause's COUNT -/
  nextPc : Word := 0
  nextPos : Nat := 1
  count : Nat := 1
  /-- the flag that governs the position (R63) -/
  flag : Option Nat := none
  /-- the STOP bit of the position, and its safe-point entry: ordinal and live map (R76) -/
  safe : Bool := true
  entry : Option (BitVec 16 × DWord) := none
  /-- the instruction is a step of a REP -/
  step : Bool := false
  /-- the body that a REP repeats, with its registers' uses checked at its step (R230) -/
  body : Option Instr := none
  /-- the sample that this issue makes, and the 32-byte sectors that it has touched (R517) -/
  sample : Option Nat := none
  sectors : List Nat := []
  /-- the engine command whose accesses are being carried out (R460, step 2) -/
  command : Option Nat := none
deriving DecidableEq, Repr

/-- A record that waits for a free slot (R458, R530). -/
structure Unposted where
  place : Nat
  bytes : List Byte
  report : Report
deriving DecidableEq, Repr

/-- A page that the device service context serves (R459): its base and home, and what a fault record of it would say (R458). -/
structure Service where
  id : Nat
  ctx : Nat
  page : Nat
  home : Nat
  va : Nat
  write : Bool
  space : Nat
  pc : Nat
  eord : Nat
  lanes : Nat := 1
  /-- the place of its record in the service context's memory (R542) -/
  slot : Nat := 0
deriving DecidableEq, Repr

structure State where
  /-- events of the outside world, not yet taken -/
  inputs : List Instr := []
  cur : Issue := {}
  /-- the counter of the free values -/
  free : Nat := 0
  /-- the model's own numbering of threads, packets, commands and their like, and of orders -/
  next : Nat := 1
  tsc : DWord := 0
  /-- an instruction that is no hoop instruction has issued in this cycle: no command fires in it any more (R306, R376) -/
  fireClosed : Bool := false
  /-- network time in units of 1/27720 network cycle, and slack ticks that have passed (R443) -/
  net : Nat := 0
  ticks : Nat := 0
  mem : List Host.Cell := []
  /-- poisoned granules: 32-byte sectors of HBM, 4-byte words elsewhere, by first key (R471) -/
  poison : List Nat := []
  cores : KMap Core := []
  dies : KMap Die := []
  queues : KMap Queue := []
  vt : KMap Nat := []
  pbase : KMap Word := []
  lastCtxs : List Nat := []
  ctxrecs : KMap (BitVec 48) := []
  /-- home-map root, pattern table and bolt table of each context (R422) -/
  hmaps : KMap DWord := []
  ptabs : KMap DWord := []
  btabs : KMap DWord := []
  launches : KMap Launch := []
  /-- energy classes of launches that have completed, by key: of bobbins and commands that outlive them (R509, R510) -/
  eclasses : KMap Nat := []
  stagings : List Staging := []
  /-- device records not yet written, oldest first (R430) -/
  records : List Record := []
  /-- phase objects by launch key, level and group (R328) -/
  phases : List Phase := []
  drains : List Drain := []
  packets : List Packet := []
  /-- packets that left for other chips -/
  outbox : List Packet := []
  keys : KMap KeySlot := []
  /-- the host's last key command has reported failure (R467) -/
  keyFailed : Bool := false
  ranges : List Range := []
  moves : List Move := []
  shootdowns : List Shootdown := []
  posted : List Posted := []
  unposted : List Unposted := []
  services : List Service := []
  /-- MSI-X vectors signalled, oldest first -/
  msix : List Nat := []
  bar : Bar := {}
  power : Power := {}
  measures : Vector (BitVec 256) 8 := Vector.replicate 8 0
  reports : List (List Byte) := []
  /-- working modules of the four UCIe links 0-1, 2-3, 0-2, 1-3 -/
  links : Vector Nat 4 := Vector.replicate 4 4
deriving DecidableEq, Repr

/-- The machine at power-on: no context, wave or packet anywhere, memory with nothing listed, BRSTAT at STAGE 0 (R529). -/
def State.reset : State := {}

end Sys2Proof.Machine
end

