-- ==== Sys2Proof/WellFormed.lean ====
section
/-! DEFINITION. Well-formed instructions: the conditions that the encoding tables put on the fields, and the registers that
each instruction names. -/

namespace Sys2Proof

def Fmt.isInt : Fmt → Bool
  | .n8 | .i8 | .n16 | .i16 | .n32 | .i32 | .n64 | .i64 => true
  | .f32 | .f16 | .bf16 | .e4m3 | .e5m2 | .bp => false

def Fmt.isFloat : Fmt → Bool
  | .f32 | .f16 | .bf16 | .e4m3 | .e5m2 => true
  | .n8 | .i8 | .n16 | .i16 | .n32 | .i32 | .n64 | .i64 | .bp => false

/-- The three formats that keep an FTZ control (R104). -/
def Fmt.isScalarF : Fmt → Bool
  | .f32 | .f16 | .bf16 => true
  | _ => false

/-- Width of an element; a bit-plane element is placed as .i8 (R191). -/
def Fmt.bits : Fmt → Nat
  | .n8 | .i8 | .e4m3 | .e5m2 | .bp => 8
  | .n16 | .i16 | .f16 | .bf16 => 16
  | .n32 | .i32 | .f32 => 32
  | .n64 | .i64 => 64

def Fmt.signed : Fmt → Bool
  | .i8 | .i16 | .i32 | .i64 | .bp => true
  | _ => false

def intFmts : List Fmt := [.n8, .i8, .n16, .i16, .n32, .i32, .n64, .i64]
def narrowFmts : List Fmt := [.n8, .i8, .n16, .i16, .n32, .i32]
def signedFmts : List Fmt := [.i8, .i16, .i32, .i64]
def leaFmts : List Fmt := [.n32, .i32, .n64, .i64]
def wordFmts : List Fmt := [.n32, .n64]
def floatFmts : List Fmt := [.f32, .f16, .bf16]
def halfFmts : List Fmt := [.f16, .bf16]
def byteFmts : List Fmt := [.i8, .n8]
def dot4Fmts : List Fmt := [.e4m3, .e5m2, .i8, .n8]
def wideInts : List Fmt := [.i32, .n32, .i64, .n64]
def redFmts : List Fmt := [.i32, .n32, .i64, .n64, .f32, .f16, .bf16]
def elemFmts : List Fmt := [.n8, .i8, .n16, .i16, .n32, .i32, .n64, .i64, .f32, .f16, .bf16, .e4m3, .e5m2]

/-- The type modifier is absent (the default type) or one of the list. -/
def tyIn (t : Option Fmt) (l : List Fmt) : Bool :=
  match t with
  | none => true
  | some f => l.contains f

def tyBits (t : Option Fmt) (dflt : Nat) : Nat :=
  match t with
  | none => dflt
  | some f => f.bits

/-- Registers of a thread that a value of the type takes: a pair at 64 bits (R99). -/
def tyLen (t : Option Fmt) : Nat := if tyBits t 32 = 64 then 2 else 1

/-- One run of registers that an instruction names: its first register, its length in thread code and in bobbin code, and
whether the run is aligned to its length (R58, R169). -/
structure RegUse where
  first : Nat
  thread : Nat
  bobbin : Nat
  aligned : Bool
  /-- the field of the words that names it: 0 D, 1 A, 2 B, 3 C; 4 for a field of another place -/
  field : Nat
deriving DecidableEq, Repr

def use (field : Nat) (r : Reg) (thread bobbin : Nat) : List RegUse := [⟨r.toNat, thread, bobbin, true, field⟩]

def Src.use (x : Src) (field : Nat) (thread bobbin : Nat) : List RegUse :=
  match x with
  | .reg r => [⟨r.toNat, thread, bobbin, true, field⟩]
  | .lit _ => []

/-- The destinations of DIVN: an aligned run in thread code (R152), any two registers in bobbin code (R146). -/
def pairFree (field : Nat) (r : Reg) (thread bobbin : Nat) : List RegUse := [⟨r.toNat, thread, 0, true, field⟩, ⟨r.toNat, 0, bobbin, false, field⟩]

/-- A run that needs no alignment (R196). -/
def Src.useFree (x : Src) (field n : Nat) : List RegUse :=
  match x with
  | .reg r => [⟨r.toNat, n, n, false, field⟩]
  | .lit _ => []

/-- The sources that a field of 63 turns into the literal all take one value, and no other source names register 63 while
a literal is present (R57). -/
def litsAgree (l : List Src) : Bool :=
  match l.find? Src.isLit with
  | none => true
  | some v => l.all fun x => x == v || !(x.isLit || x == .reg 63)

def planesOk (present : Bool) (p : BitVec 4) : Bool :=
  if present then decide (2 ≤ p.toNat ∧ p.toNat ≤ 8) else p == 0

/-- FTZ is allowed only with a source or destination that it acts on (R185). -/
def cvtFtz (df sf : Fmt) (ftz : Bool) : Bool := !ftz || df.isScalarF || sf.isScalarF

/-- Packed conversions: widths of 8, 16 or 32 bits that differ (R187). -/
def pkOk (df sf : Fmt) (pk : Bool) : Bool := !pk || (df.bits != sf.bits && df.bits != 64 && sf.bits != 64)

def cvtOk (df sf : Fmt) (ftz pk : Bool) : Bool :=
  df != .bp && sf != .bp && cvtFtz df sf ftz && pkOk df sf pk

def qntDst : Fmt → Bool
  | .n8 | .i8 | .n16 | .i16 | .e4m3 | .e5m2 | .bp => true
  | _ => false

def dqntSrc : Fmt → Bool
  | .n8 | .i8 | .n16 | .i16 | .n32 | .i32 | .e4m3 | .e5m2 | .bp => true
  | _ => false

/-- Registers of the destination run of a conversion (R186, R187): of w registers in bobbin code (R171). -/
def cvtDst (df sf : Fmt) (pk : Bool) : Nat :=
  if pk then (if sf.bits < df.bits then df.bits / sf.bits else 1) else if df.bits = 64 then 2 else 1

def cvtSrc (df sf : Fmt) (pk : Bool) : Nat :=
  if pk then (if df.bits < sf.bits then sf.bits / df.bits else 1) else if sf.bits = 64 then 2 else 1

/-- A literal stands for a single register or a pair (R169); the spec does not say whether every run of two is one: here it is,
where the run is aligned (log 59). -/
def litRun (x : Src) (n : Nat) : Bool := !x.isLit || decide (n ≤ 2)

/-- Element counts of LDQ and STQ (R321). -/
def quadOk (n : BitVec 12) : Bool := n == 2 || n == 4 || n == 8

/-- Row counts of the stitch-array commands (R398). -/
def rowsOk (n : BitVec 12) : Bool := decide (1 ≤ n.toNat ∧ n.toNat ≤ 64)

/-- A hoop end holds a hoop number and no offset register (R373). -/
def hoopEnd (hoop : Bool) (num : BitVec 8) (off : Src) : Bool := !hoop || (decide (num.toNat < 32) && off == .reg 0)

/-- The barrier offset register is named only with a barrier space (R373). -/
def bspOk (bsp : BitVec 2) (c : Src) : Bool := bsp != 0 || c == .reg 0

def endUse (hoop : Bool) (off : Src) : List RegUse := if hoop then [] else off.use 4 1 1
def bspUse (bsp : BitVec 2) (c : Src) : List RegUse := if bsp = 0 then [] else c.use 4 1 1

/-- The registers an instruction names, for the checks of R58, R59 and R169: thread run and bobbin run of each field. -/
def Instr.uses : Instr → List RegUse
  | .nop _ => []
  | .pad _ => []
  | .bra _ _ => []
  | .braFar _ _ => []
  | .brx _ _ ix => ix.use 1 1 1
  | .call _ d _ => use 0 d 1 1
  | .callFar _ d _ => use 0 d 1 1
  | .callx _ d _ ix => use 0 d 1 1 ++ ix.use 1 1 1
  | .ret _ a => a.use 1 1 1
  | .seam _ _ => []
  | .join _ _ => []
  | .wait _ _ => []
  | .cut _ _ _ => []
  | .cutFar _ _ _ => []
  | .rep _ byReg a _ _ _ _ _ => if byReg then a.use 1 1 1 else []
  | .exit _ => []
  | .yield _ => []
  | .dqput _ _ a => a.use 1 1 1
  | .dqget _ d => use 0 d 2 1
  | .dqgetLo _ d => use 0 d 1 1
  | .dqpeek _ d _ => use 0 d 2 1
  | .dqpeekLo _ d _ => use 0 d 1 1
  | .mov _ d a t => use 0 d (tyLen t) 1 ++ a.use 1 (tyLen t) 1
  | .movId _ d _ => use 0 d 1 1
  | .movi _ d _ _ => use 0 d 1 1
  | .add _ d a b t _ => use 0 d (tyLen t) 1 ++ a.use 1 (tyLen t) 1 ++ b.use 2 (tyLen t) 1
  | .sub _ d a b t _ => use 0 d (tyLen t) 1 ++ a.use 1 (tyLen t) 1 ++ b.use 2 (tyLen t) 1
  | .addc _ d a b _ => use 0 d 1 1 ++ a.use 1 1 1 ++ b.use 2 1 1
  | .subb _ d a b _ => use 0 d 1 1 ++ a.use 1 1 1 ++ b.use 2 1 1
  | .mul _ d a b t _ => use 0 d (tyLen t) 1 ++ a.use 1 (tyLen t) 1 ++ b.use 2 (tyLen t) 1
  | .mulhi _ d a b t => use 0 d (tyLen t) 1 ++ a.use 1 (tyLen t) 1 ++ b.use 2 (tyLen t) 1
  | .mulw _ d a b t => use 0 d (if tyBits t 32 == 32 then 2 else 1) 1 ++ a.use 1 1 1 ++ b.use 2 1 1
  | .mad _ d a b c t _ => use 0 d (tyLen t) 1 ++ a.use 1 (tyLen t) 1 ++ b.use 2 (tyLen t) 1 ++ c.use 3 (tyLen t) 1
  | .min _ d a b t => use 0 d (tyLen t) 1 ++ a.use 1 (tyLen t) 1 ++ b.use 2 (tyLen t) 1
  | .max _ d a b t => use 0 d (tyLen t) 1 ++ a.use 1 (tyLen t) 1 ++ b.use 2 (tyLen t) 1
  | .abs _ d a t _ => use 0 d (tyLen t) 1 ++ a.use 1 (tyLen t) 1
  | .and _ d a b t => use 0 d (tyLen t) 1 ++ a.use 1 (tyLen t) 1 ++ b.use 2 (tyLen t) 1
  | .or _ d a b t => use 0 d (tyLen t) 1 ++ a.use 1 (tyLen t) 1 ++ b.use 2 (tyLen t) 1
  | .xor _ d a b t => use 0 d (tyLen t) 1 ++ a.use 1 (tyLen t) 1 ++ b.use 2 (tyLen t) 1
  | .andn _ d a b t => use 0 d (tyLen t) 1 ++ a.use 1 (tyLen t) 1 ++ b.use 2 (tyLen t) 1
  | .shl _ d a b t => use 0 d (tyLen t) 1 ++ a.use 1 (tyLen t) 1 ++ b.use 2 1 1
  | .shr _ d a b t => use 0 d (tyLen t) 1 ++ a.use 1 (tyLen t) 1 ++ b.use 2 1 1
  | .sar _ d a b t => use 0 d (tyLen t) 1 ++ a.use 1 (tyLen t) 1 ++ b.use 2 1 1
  | .rot _ d a b t => use 0 d (tyLen t) 1 ++ a.use 1 (tyLen t) 1 ++ b.use 2 1 1
  | .bfx _ d a b t => use 0 d (tyLen t) 1 ++ a.use 1 (tyLen t) 1 ++ b.use 2 1 1
  | .bfi _ d a b c t => use 0 d (tyLen t) 1 ++ a.use 1 (tyLen t) 1 ++ b.use 2 (tyLen t) 1 ++ c.use 3 1 1
  | .popc _ d a t => use 0 d 1 1 ++ a.use 1 (tyLen t) 1
  | .clz _ d a t => use 0 d 1 1 ++ a.use 1 (tyLen t) 1
  | .brev _ d a t => use 0 d (tyLen t) 1 ++ a.use 1 (tyLen t) 1
  | .bpick _ d a b byReg c _ => use 0 d 1 1 ++ a.use 1 1 1 ++ b.use 2 1 1 ++ (if byReg then c.use 3 1 1 else [])
  | .lea _ d a b _ t => use 0 d (tyLen t) 1 ++ a.use 1 (tyLen t) 1 ++ b.use 2 1 1
  | .cmp _ _ _ a b t => a.use 1 (tyLen t) 1 ++ b.use 2 (tyLen t) 1
  | .sel _ d a b _ _ t => use 0 d (tyLen t) 1 ++ a.use 1 (tyLen t) 1 ++ b.use 2 (tyLen t) 1
  | .plop _ _ _ _ _ _ => []
  | .plopPk _ d => use 0 d 1 1
  | .plopUpk _ a _ => a.use 1 1 1
  | .divn _ d a b t _ => pairFree 0 d (2 * tyLen t) 2 ++ a.use 1 (tyLen t) 1 ++ b.use 2 (tyLen t) 1
  | .fadd _ d a b _ _ _ => use 0 d 1 1 ++ a.use 1 1 1 ++ b.use 2 1 1
  | .fsub _ d a b _ _ _ => use 0 d 1 1 ++ a.use 1 1 1 ++ b.use 2 1 1
  | .fmul _ d a b _ _ _ => use 0 d 1 1 ++ a.use 1 1 1 ++ b.use 2 1 1
  | .ffma _ d a b c _ _ _ => use 0 d 1 1 ++ a.use 1 1 1 ++ b.use 2 1 1 ++ c.use 3 1 1
  | .fmin _ d a b _ _ => use 0 d 1 1 ++ a.use 1 1 1 ++ b.use 2 1 1
  | .fmax _ d a b _ _ => use 0 d 1 1 ++ a.use 1 1 1 ++ b.use 2 1 1
  | .fcmp _ _ _ a b _ _ => a.use 1 1 1 ++ b.use 2 1 1
  | .fclass _ d a _ => use 0 d 1 1 ++ a.use 1 1 1
  | .frcp _ d a _ _ _ => use 0 d 1 1 ++ a.use 1 1 1
  | .frsq _ d a _ _ _ => use 0 d 1 1 ++ a.use 1 1 1
  | .fsqrt _ d a _ _ _ => use 0 d 1 1 ++ a.use 1 1 1
  | .fexp2 _ d a _ _ => use 0 d 1 1 ++ a.use 1 1 1
  | .flog2 _ d a _ _ => use 0 d 1 1 ++ a.use 1 1 1
  | .fsin _ d a _ _ => use 0 d 1 1 ++ a.use 1 1 1
  | .fcos _ d a _ _ => use 0 d 1 1 ++ a.use 1 1 1
  | .fdiv _ d a b _ _ _ => use 0 d 1 1 ++ a.use 1 1 1 ++ b.use 2 1 1
  | .hadd2 _ d a b _ _ _ => use 0 d 1 1 ++ a.use 1 1 1 ++ b.use 2 1 1
  | .hmul2 _ d a b _ _ _ => use 0 d 1 1 ++ a.use 1 1 1 ++ b.use 2 1 1
  | .hfma2 _ d a b c _ _ _ => use 0 d 1 1 ++ a.use 1 1 1 ++ b.use 2 1 1 ++ c.use 3 1 1
  | .hmin2 _ d a b _ _ => use 0 d 1 1 ++ a.use 1 1 1 ++ b.use 2 1 1
  | .hmax2 _ d a b _ _ => use 0 d 1 1 ++ a.use 1 1 1 ++ b.use 2 1 1
  | .hcmp2 _ _ _ a b _ _ => a.use 1 1 1 ++ b.use 2 1 1
  | .dot4 _ d a b c _ _ _ _ => use 0 d 1 1 ++ a.use 1 1 1 ++ b.use 2 1 1 ++ c.use 3 1 1
  | .dot2 _ d a b c _ _ _ => use 0 d 1 1 ++ a.use 1 1 1 ++ b.use 2 1 1 ++ c.use 3 1 1
  | .vadd4 _ d a b _ _ => use 0 d 1 1 ++ a.use 1 1 1 ++ b.use 2 1 1
  | .vsub4 _ d a b _ _ => use 0 d 1 1 ++ a.use 1 1 1 ++ b.use 2 1 1
  | .cvt _ d a df sf _ _ _ pk => use 0 d (cvtDst df sf pk) (cvtDst df sf pk) ++ a.use 1 (cvtSrc df sf pk) (cvtSrc df sf pk)
  | .cvtsr _ d a df sf b xr _ _ pk => use 0 d (cvtDst df sf pk) (cvtDst df sf pk) ++ a.use 1 (cvtSrc df sf pk) (cvtSrc df sf pk) ++ (if xr then b.use 2 1 1 else [])
  | .srseed _ a _ => a.use 1 1 1
  | .qnt _ d a df sf b _ _ _ _ pk => use 0 d (cvtDst df sf pk) (cvtDst df sf pk) ++ a.use 1 (cvtSrc df sf pk) (cvtSrc df sf pk) ++ b.use 2 1 1
  | .dqnt _ d a df sf b _ _ _ _ pk => use 0 d (cvtDst df sf pk) (cvtDst df sf pk) ++ a.use 1 (cvtSrc df sf pk) (cvtSrc df sf pk) ++ b.use 2 1 1
  | .plpack _ d a _ _ => use 0 d 1 1 ++ use 1 a 8 8
  | .plunpk _ d a _ k => use 0 d 8 8 ++ a.useFree 1 k.toNat
  | .plext _ d a _ _ _ => use 0 d 1 1 ++ a.use 1 1 1
  | .f8algn _ d a b _ mx => use 0 d 1 1 ++ a.use 1 1 1 ++ (if mx then [] else b.use 2 1 1)
  | .sclx _ d a b _ _ _ _ _ => use 0 d 1 1 ++ a.use 1 1 1 ++ b.use 2 1 1
  | .shfl _ d a b t _ => use 0 d (tyLen t) 1 ++ a.use 1 (tyLen t) 1 ++ b.use 2 1 1
  | .bfly _ d a _ t _ => use 0 d (tyLen t) 1 ++ a.use 1 (tyLen t) 1
  | .shup _ d a _ t _ => use 0 d (tyLen t) 1 ++ a.use 1 (tyLen t) 1
  | .shdn _ d a _ t _ => use 0 d (tyLen t) 1 ++ a.use 1 (tyLen t) 1
  | .bcast _ d a _ t _ => use 0 d (tyLen t) 1 ++ a.use 1 (tyLen t) 1
  | .pcens _ k d _ _ => if k == .mask then use 0 d 2 1 else if k == .cnt then use 0 d 1 1 else []
  | .redux _ _ d a t => use 0 d (tyLen t) 1 ++ a.use 1 (tyLen t) 1
  | .scan _ _ d a t _ => use 0 d (tyLen t) 1 ++ a.use 1 (tyLen t) 1
  | .matchLane _ d a t => use 0 d 2 1 ++ a.use 1 (tyLen t) 1
  | .ld _ d _ ix _ _ _ => use 0 d 1 1 ++ ix.use 1 1 1
  | .st _ _ ix b _ _ _ => ix.use 1 1 1 ++ b.use 2 1 1
  | .ldq _ d _ ix _ _ _ _ => use 0 d 1 1 ++ ix.use 1 1 1
  | .stq _ _ ix b _ _ _ _ => ix.use 1 1 1 ++ b.use 2 1 1
  | .ldro _ d _ ix _ _ _ => use 0 d 1 1 ++ ix.use 1 1 1
  | .pref _ _ ix _ => ix.use 1 1 1
  | .migr _ _ ix _ _ => ix.use 1 1 1
  | .spawn _ _ _ ix b c _ _ => ix.use 1 1 1 ++ b.use 2 1 1 ++ c.use 3 1 1
  | .phaseArv _ d _ _ => use 0 d 1 1
  | .phaseWait _ a _ _ => a.use 1 1 1
  | .fence _ _ => []
  | .fopen _ _ _ ix b _ => ix.use 1 1 1 ++ b.use 2 1 1
  | .fnext _ d _ _ _ _ _ => use 0 d 1 1
  | .fpeek _ d _ _ _ _ _ => use 0 d 1 1
  | .fend _ _ _ => []
  | .fclose _ _ => []
  | .atom _ _ d _ ix b t _ _ _ => use 0 d (tyLen t) 1 ++ ix.use 1 1 1 ++ b.use 2 (tyLen t) 1
  | .acas _ d _ ix b c t _ _ _ => use 0 d (tyLen t) 1 ++ ix.use 1 1 1 ++ b.use 2 (tyLen t) 1 ++ c.use 3 (tyLen t) 1
  | .ared _ _ _ ix b t _ _ => ix.use 1 1 1 ++ b.use 2 (tyLen t) 1
  | .afadd _ d _ ix b _ _ _ _ => use 0 d 1 1 ++ ix.use 1 1 1 ++ b.use 2 1 1
  | .txopen _ _ => []
  | .txseal _ => []
  | .txretry _ => []
  | .txelse _ _ => []
  | .txdrop _ _ => []
  | .txstat _ d => use 0 d 1 1
  | .binit _ _ ix b => ix.use 1 1 1 ++ b.use 2 1 1
  | .bwait _ _ ix b => ix.use 1 1 1 ++ b.use 2 1 1
  | .bexp _ _ ix b => ix.use 1 1 1 ++ b.use 2 1 1
  | .barv _ d _ ix b _ => use 0 d 1 1 ++ ix.use 1 1 1 ++ b.use 2 1 1
  | .hpush _ _ _ _ b nw => b.use 2 (2 ^ nw.toNat) (2 ^ nw.toNat)
  | .hpop _ d _ nw _ _ => use 0 d (2 ^ nw.toNat) (2 ^ nw.toNat)
  | .htry _ d _ _ nw _ _ => use 0 d (2 ^ nw.toNat) (2 ^ nw.toNat)
  | .hpeek _ d _ _ _ nw _ => use 0 d (2 ^ nw.toNat) (2 ^ nw.toNat)
  | .hallow _ _ b => b.use 2 1 1
  | .hreset _ _ => []
  | .hresetDef _ _ b => b.use 2 1 1
  | .cpy _ sh dh bsp _ _ a b c _ _ => endUse sh a ++ endUse dh b ++ bspUse bsp c
  | .cpym _ d sh bsp _ _ a b c _ _ _ => use 0 d 2 1 ++ endUse sh a ++ b.use 2 1 1 ++ bspUse bsp c
  | .cpyo _ _ _ bsp a c _ => a.use 1 1 1 ++ bspUse bsp c
  | .gath _ sh dh bsp _ _ _ a b c _ _ => endUse sh a ++ endUse dh b ++ bspUse bsp c
  | .scat _ sh bsp _ _ _ a b c _ _ => endUse sh a ++ b.use 2 1 1 ++ bspUse bsp c
  | .bin _ _ _ a b c _ => a.use 1 1 1 ++ b.use 2 1 1 ++ use 3 c 4 2
  | .kset _ _ a _ => use 1 a 4 2
  | .ksign _ _ => []
  | .tldb _ _ _ a sg lk d c _ => a.use 1 1 1 ++ (if sg then use 0 d 1 1 else []) ++ (if lk then c.use 3 2 1 else [])
  | .tmma _ _ _ _ sh _ _ _ _ a _ sg lk d c _ => endUse sh a ++ (if sg then use 0 d 1 1 else []) ++ (if lk then c.use 3 2 1 else [])
  | .tmmag _ _ _ _ sh _ _ _ _ _ a b _ sg lk d c _ => a.use 1 1 1 ++ endUse sh b ++ (if sg then use 0 d 1 1 else []) ++ (if lk then c.use 3 2 1 else [])
  | .tzero _ _ sg lk d c _ => (if sg then use 0 d 1 1 else []) ++ (if lk then c.use 3 2 1 else [])
  | .tsta _ _ sh _ _ a b _ sg lk d c _ => endUse sh a ++ b.use 2 1 1 ++ (if sg then use 0 d 1 1 else []) ++ (if lk then c.use 3 2 1 else [])
  | .tstaSt _ _ _ a sg lk d c _ => a.use 1 1 1 ++ (if sg then use 0 d 1 1 else []) ++ (if lk then c.use 3 2 1 else [])
  | .rtprb _ d _ sh _ _ a b _ _ _ => use 0 d 1 1 ++ a.use 1 1 1 ++ endUse sh b
  | .rtins _ _ _ a _ => a.use 1 1 1
  | .rtdel _ _ _ a _ => a.use 1 1 1
  | .rtrhs _ _ a _ => a.use 1 1 1
  | .rtsync _ => []
  | .movs _ d _ _ x a => use 0 d 1 1 ++ (if x then a.use 1 1 1 else [])
  | .movsw _ _ _ x a b => a.use 1 1 1 ++ (if x then b.use 2 1 1 else [])
  | .trap _ _ => []
  | .tret _ => []
  | .slack _ d => use 0 d 1 1
  | .slackCls _ _ => []
  | .slackSet _ a => a.use 1 1 1
  | .halt _ => []
  | .patdef _ _ _ a _ => a.use 1 1 1
  | .patrd _ d _ _ => use 0 d 1 1
  | .bldef _ _ mv a => if mv then a.use 1 1 1 else a.use 1 4 2
  | .blrd _ d _ _ => use 0 d 1 1
  | .hfset _ _ a b => a.use 1 1 1 ++ b.use 2 1 1
  | .jtdef _ _ _ a b => a.use 1 1 1 ++ b.use 2 1 1
  | .rtdef _ _ _ a => a.use 1 1 1
  | .rtdefRh _ _ _ a => a.use 1 1 1
  | .rtdefOff _ _ => []
  | .ctrrd _ d _ x a => use 0 d 2 1 ++ (if x then a.use 1 1 1 else [])
  | .ctrset _ _ x a b => a.use 1 2 1 ++ (if x then b.use 2 1 1 else [])
  | .smpl _ _ _ => []
  | .brkpt _ _ => []
  | .hint _ => []
  | .waitpred _ => []
  | .resultWriteback _ => []
  | .atomicRequest _ => []
  | .atomicReply _ => []
  | .readRequest _ => []
  | .acknowledgementArrival _ => []
  | .needleArrival _ => []
  | .spillReturn _ => []
  | .arrivalWaveFormation _ _ _ => []
  | .spoolTimeout _ _ _ => []
  | .launchEntryFetch _ _ => []
  | .spawnTaskSend _ => []
  | .taskArrival _ => []
  | .taskRefusal _ => []
  | .taskResendTimeout _ => []
  | .spawnIncrement _ => []
  | .phaseArrival _ => []
  | .drainRequest _ _ => []
  | .drainAcknowledgement _ _ => []
  | .changeNotice _ => []
  | .overlayLoadCompletion _ => []
  | .pageFaultService _ => []
  | .faultRecordResolve _ _ => []
  | .faultRecordRefuse _ _ => []
  | .errorRecordResolve _ => []
  | .errorRecordRefuse _ => []
  | .engineFire _ => []
  | .binPrepare _ => []
  | .engineRetire _ => []
  | .engineFailure _ _ => []
  | .stitchParityReload _ _ => []
  | .retrievalOperationApply _ => []
  | .quantumExpiry _ _ => []
  | .bobbinPreempt _ _ => []
  | .contextSlotRelease _ _ => []
  | .contextReadmission _ _ => []
  | .queueDoorbell _ _ => []
  | .queueEnable _ _ => []
  | .queueDisable _ _ => []
  | .dispatch => []
  | .waveAdmission _ => []
  | .stagingCompletion _ _ _ => []
  | .launchCompletion _ => []
  | .slackTick => []
  | .slackOverdue _ => []
  | .packetAdvance _ => []
  | .routerPowerGate _ => []
  | .routerWake _ => []
  | .pageMoveStart _ _ _ => []
  | .pageMoveTransfer _ => []
  | .shootdown _ _ => []
  | .shootdownAcknowledgement _ => []
  | .graceWindowEnd _ => []
  | .rehome _ => []
  | .channelRetirement _ => []
  | .pageMakeWritable _ _ => []
  | .pageMakeReadOnly _ _ => []
  | .portLoss _ _ => []
  | .sampleRecord _ _ _ => []
  | .traceEnable _ _ _ => []
  | .traceDisable _ _ _ => []
  | .resume _ _ => []
  | .deliver _ _ => []
  | .debugStep _ _ => []
  | .stopall _ _ => []
  | .counterWrite _ _ _ _ => []
  | .quantumWrite _ _ => []
  | .hostBar2Write _ _ => []
  | .dutySplitWrite _ => []
  | .dutyGo => []
  | .derrClear => []
  | .goTimeout => []
  | .pcapWrite _ => []
  | .registerWrite _ _ => []
  | .powerOn _ _ _ _ => []
  | .powerWindow _ => []
  | .thermalLimit => []
  | .thermalShutdown => []
  | .ucieLinkFailure _ _ => []
  | .keySlotWrite _ _ _ _ _ => []
  | .coreCycle => []
  | .ultraEthernetPortUp _ _ => []
  | .portEnable _ _ => []
  | .thermalLimitClear => []
  | .measurementReport _ => []

/-- The conditions the encoding tables put on an instruction's fields (R60, R86 rank 4). -/
def Instr.wf : Instr → Bool
  | .nop _ => true
  | .pad _ => true
  | .bra _ _ => true
  | .braFar _ _ => true
  | .brx _ _ ix => litsAgree [ix]
  | .call _ _ _ => true
  | .callFar _ _ _ => true
  | .callx _ _ _ ix => litsAgree [ix]
  | .ret _ a => litsAgree [a]
  | .seam _ _ => true
  | .join _ _ => true
  | .wait _ _ => true
  | .cut _ _ _ => true
  | .cutFar _ _ _ => true
  | .rep _ byReg a n _ _ _ _ => litsAgree [a] && ((if byReg then n == 0 else a == .reg 0 && decide (n.toNat ≤ 64)))
  | .exit _ => true
  | .yield _ => true
  | .dqput _ _ a => litsAgree [a]
  | .dqget _ _ => true
  | .dqgetLo _ _ => true
  | .dqpeek _ _ _ => true
  | .dqpeekLo _ _ _ => true
  | .mov _ _ a t => litsAgree [a] && (tyIn t intFmts)
  | .movId _ _ _ => true
  | .movi _ _ _ _ => true
  | .add _ _ a b t _ => litsAgree [a, b] && (tyIn t intFmts)
  | .sub _ _ a b t _ => litsAgree [a, b] && (tyIn t intFmts)
  | .addc _ _ a b _ => litsAgree [a, b]
  | .subb _ _ a b _ => litsAgree [a, b]
  | .mul _ _ a b t _ => litsAgree [a, b] && (tyIn t intFmts)
  | .mulhi _ _ a b t => litsAgree [a, b] && (tyIn t intFmts)
  | .mulw _ _ a b t => litsAgree [a, b] && (tyIn t narrowFmts)
  | .mad _ _ a b c t _ => litsAgree [a, b, c] && (tyIn t intFmts)
  | .min _ _ a b t => litsAgree [a, b] && (tyIn t intFmts)
  | .max _ _ a b t => litsAgree [a, b] && (tyIn t intFmts)
  | .abs _ _ a t _ => litsAgree [a] && (tyIn t signedFmts)
  | .and _ _ a b t => litsAgree [a, b] && (tyIn t intFmts)
  | .or _ _ a b t => litsAgree [a, b] && (tyIn t intFmts)
  | .xor _ _ a b t => litsAgree [a, b] && (tyIn t intFmts)
  | .andn _ _ a b t => litsAgree [a, b] && (tyIn t intFmts)
  | .shl _ _ a b t => litsAgree [a, b] && (tyIn t intFmts)
  | .shr _ _ a b t => litsAgree [a, b] && (tyIn t intFmts)
  | .sar _ _ a b t => litsAgree [a, b] && (tyIn t intFmts)
  | .rot _ _ a b t => litsAgree [a, b] && (tyIn t intFmts)
  | .bfx _ _ a b t => litsAgree [a, b] && (tyIn t intFmts)
  | .bfi _ _ a b c t => litsAgree [a, b, c] && (tyIn t intFmts)
  | .popc _ _ a t => litsAgree [a] && (tyIn t intFmts)
  | .clz _ _ a t => litsAgree [a] && (tyIn t intFmts)
  | .brev _ _ a t => litsAgree [a] && (tyIn t intFmts)
  | .bpick _ _ a b byReg c pick => litsAgree [a, b, c] && ((if byReg then pick == 0 else c == .reg 0))
  | .lea _ _ a b _ t => litsAgree [a, b] && (tyIn t leaFmts)
  | .cmp _ _ _ a b t => litsAgree [a, b] && (tyIn t intFmts)
  | .sel _ _ a b _ _ t => litsAgree [a, b] && (tyIn t intFmts)
  | .plop _ _ _ _ _ _ => true
  | .plopPk _ _ => true
  | .plopUpk _ a _ => litsAgree [a]
  | .divn _ _ a b t _ => litsAgree [a, b] && (tyIn t intFmts)
  | .fadd _ _ a b t rm _ => litsAgree [a, b] && (tyIn t floatFmts && rm != .rsr)
  | .fsub _ _ a b t rm _ => litsAgree [a, b] && (tyIn t floatFmts && rm != .rsr)
  | .fmul _ _ a b t rm _ => litsAgree [a, b] && (tyIn t floatFmts && rm != .rsr)
  | .ffma _ _ a b c t rm _ => litsAgree [a, b, c] && (tyIn t floatFmts && rm != .rsr)
  | .fmin _ _ a b t _ => litsAgree [a, b] && (tyIn t floatFmts)
  | .fmax _ _ a b t _ => litsAgree [a, b] && (tyIn t floatFmts)
  | .fcmp _ _ _ a b t _ => litsAgree [a, b] && (tyIn t floatFmts)
  | .fclass _ _ a t => litsAgree [a] && (tyIn t floatFmts)
  | .frcp _ _ a t rm _ => litsAgree [a] && (tyIn t floatFmts && rm != .rsr)
  | .frsq _ _ a t rm _ => litsAgree [a] && (tyIn t floatFmts && rm != .rsr)
  | .fsqrt _ _ a t rm _ => litsAgree [a] && (tyIn t floatFmts && rm != .rsr)
  | .fexp2 _ _ a t _ => litsAgree [a] && (tyIn t floatFmts)
  | .flog2 _ _ a t _ => litsAgree [a] && (tyIn t floatFmts)
  | .fsin _ _ a t _ => litsAgree [a] && (tyIn t floatFmts)
  | .fcos _ _ a t _ => litsAgree [a] && (tyIn t floatFmts)
  | .fdiv _ _ a b t rm _ => litsAgree [a, b] && (tyIn t floatFmts && rm != .rsr)
  | .hadd2 _ _ a b t rm _ => litsAgree [a, b] && (tyIn t halfFmts && rm != .rsr)
  | .hmul2 _ _ a b t rm _ => litsAgree [a, b] && (tyIn t halfFmts && rm != .rsr)
  | .hfma2 _ _ a b c t rm _ => litsAgree [a, b, c] && (tyIn t halfFmts && rm != .rsr)
  | .hmin2 _ _ a b t _ => litsAgree [a, b] && (tyIn t halfFmts)
  | .hmax2 _ _ a b t _ => litsAgree [a, b] && (tyIn t halfFmts)
  | .hcmp2 _ _ pd a b t _ => litsAgree [a, b] && (tyIn t halfFmts && pd != 7)
  | .dot4 _ _ a b c t rm ftz sat => litsAgree [a, b, c] && (tyIn t dot4Fmts && (if tyIn t intFmts && t != none then rm == .rne && !ftz else rm != .rsr && !sat))
  | .dot2 _ _ a b c t rm _ => litsAgree [a, b, c] && (tyIn t halfFmts && rm != .rsr)
  | .vadd4 _ _ a b t _ => litsAgree [a, b] && (tyIn t byteFmts)
  | .vsub4 _ _ a b t _ => litsAgree [a, b] && (tyIn t byteFmts)
  | .cvt _ _ a df sf rm _ ftz pk => litsAgree [a] && (cvtOk df sf ftz pk && litRun a (cvtSrc df sf pk) && (if df.isInt && sf.isInt then rm == .rne else rm != .rsr))
  | .cvtsr _ _ a df sf b xr _ ftz pk => litsAgree [a, b] && (cvtOk df sf ftz pk && litRun a (cvtSrc df sf pk) && !(df.isInt && sf.isInt) && (xr || b == .reg 0))
  | .srseed _ a _ => litsAgree [a]
  | .qnt _ _ a df sf b planes _ sat ftz pk => litsAgree [a, b] && (qntDst df && sf.isScalarF && planesOk (df == .bp) planes && (sat → df.isFloat) && cvtFtz df sf ftz && pkOk df sf pk && litRun a (cvtSrc df sf pk))
  | .dqnt _ _ a df sf b planes rm _ _ pk => litsAgree [a, b] && (df.isScalarF && dqntSrc sf && planesOk (sf == .bp) planes && rm != .rsr && pkOk df sf pk && litRun a (cvtSrc df sf pk))
  | .plpack _ _ _ P p => (planesOk true P && decide (p.toNat < P.toNat))
  | .plunpk _ _ a P k => litsAgree [a] && (planesOk true P && decide (0 < k.toNat ∧ k.toNat ≤ P.toNat) && (k.toNat == 1 || !a.isLit))
  | .plext _ _ a P k _ => litsAgree [a] && (planesOk true P && decide (0 < k.toNat ∧ k.toNat ≤ P.toNat))
  | .f8algn _ _ a b f mx => litsAgree [a, b] && ((f == .bf16 || f == .e4m3 || f == .e5m2) && (!mx || b == .reg 0))
  | .sclx _ _ a b df rm _ _ _ => litsAgree [a, b] && (df.isScalarF && rm != .rsr)
  | .shfl _ _ a b t _ => litsAgree [a, b] && (tyIn t wordFmts)
  | .bfly _ _ a _ t _ => litsAgree [a] && (tyIn t wordFmts)
  | .shup _ _ a _ t _ => litsAgree [a] && (tyIn t wordFmts)
  | .shdn _ _ a _ t _ => litsAgree [a] && (tyIn t wordFmts)
  | .bcast _ _ a _ t _ => litsAgree [a] && (tyIn t wordFmts)
  | .pcens _ k d _ n => ((k == .atl || n == 0) && (k == .mask || k == .cnt || decide (d.toNat < 8)))
  | .redux _ op _ a t => litsAgree [a] && (tyIn t redFmts && (tyIn t wideInts || op.forFloat))
  | .scan _ op _ a t _ => litsAgree [a] && (tyIn t redFmts && (tyIn t wideInts || op.forFloat))
  | .matchLane _ _ a t => litsAgree [a] && (tyIn t wordFmts)
  | .ld _ _ _ ix t _ _ => litsAgree [ix] && (tyIn t elemFmts)
  | .st _ _ ix b t _ _ => litsAgree [ix, b] && (tyIn t elemFmts)
  | .ldq _ _ _ ix n t _ _ => litsAgree [ix] && (tyIn t elemFmts && quadOk n)
  | .stq _ _ ix b n t _ _ => litsAgree [ix, b] && (tyIn t elemFmts && quadOk n && litRun b n.toNat)
  | .ldro _ _ _ ix t _ _ => litsAgree [ix] && (tyIn t elemFmts)
  | .pref _ _ ix _ => litsAgree [ix]
  | .migr _ _ ix _ _ => litsAgree [ix]
  | .spawn _ _ _ ix b c _ _ => litsAgree [ix, b, c]
  | .phaseArv _ _ _ _ => true
  | .phaseWait _ a _ _ => litsAgree [a]
  | .fence _ _ => true
  | .fopen _ _ _ ix b _ => litsAgree [ix, b]
  | .fnext _ _ _ _ _ _ _ => true
  | .fpeek _ _ _ _ _ _ _ => true
  | .fend _ _ _ => true
  | .fclose _ _ => true
  | .atom _ _ _ _ ix b t _ _ scope => litsAgree [ix, b] && (tyIn t wideInts && scope != .lane)
  | .acas _ _ _ ix b c t _ _ scope => litsAgree [ix, b, c] && (tyIn t wideInts && scope != .lane)
  | .ared _ _ _ ix b t _ scope => litsAgree [ix, b] && (tyIn t wideInts && scope != .lane)
  | .afadd _ _ _ ix b t _ _ scope => litsAgree [ix, b] && (tyIn t floatFmts && scope != .lane)
  | .txopen _ _ => true
  | .txseal _ => true
  | .txretry _ => true
  | .txelse _ _ => true
  | .txdrop _ _ => true
  | .txstat _ _ => true
  | .binit _ _ ix b => litsAgree [ix, b]
  | .bwait _ _ ix b => litsAgree [ix, b]
  | .bexp _ _ ix b => litsAgree [ix, b]
  | .barv _ _ _ ix b _ => litsAgree [ix, b]
  | .hpush _ nb pd _ b nw => litsAgree [b] && ((nb || pd == 0) && litRun b (2 ^ nw.toNat))
  | .hpop _ _ _ nw ka at_ => ((!at_ || nw == 0) && !(ka && at_))
  | .htry _ _ _ _ nw ka at_ => ((!at_ || nw == 0) && !(ka && at_))
  | .hpeek _ _ _ _ _ nw at_ => ((!at_ || nw == 0))
  | .hallow _ _ b => litsAgree [b]
  | .hreset _ _ => true
  | .hresetDef _ _ b => litsAgree [b]
  | .cpy _ sh dh bsp src dst a b c n _ => litsAgree [a, b, c] && (!(sh && dh) && hoopEnd sh src a && hoopEnd dh dst b && (sh || dh) == (n != 0) && bspOk bsp c)
  | .cpym _ _ sh bsp src _ a b c n scope _ => litsAgree [a, b, c] && (hoopEnd sh src a && sh == (n != 0) && bspOk bsp c && (bsp == 0 || bsp == 3) && (scope == .cluster || scope == .die))
  | .cpyo _ any slot bsp a c _ => litsAgree [a, c] && ((!any || slot == 0) && bspOk bsp c)
  | .gath _ sh dh bsp src dst _ a b c n _ => litsAgree [a, b, c] && (!(sh && dh) && hoopEnd sh src a && hoopEnd dh dst b && (sh || dh) == (n != 0) && bspOk bsp c)
  | .scat _ sh bsp src _ _ a b c n _ => litsAgree [a, b, c] && (hoopEnd sh src a && sh == (n != 0) && bspOk bsp c)
  | .bin _ _ _ a b _ _ => litsAgree [a, b]
  | .kset _ _ _ n => (n != 0)
  | .ksign _ _ => true
  | .tldb _ _ _ a sg lk d c _ => litsAgree [a, c] && ((sg || d == 0) && (lk || c == .reg 0))
  | .tmma _ _ _ _ sh _ _ _ h a n sg lk d c _ => litsAgree [a, c] && (rowsOk n && (if sh then a == .reg 0 else h == 0) && (sg || d == 0) && (lk || c == .reg 0))
  | .tmmag _ _ _ _ sh _ _ _ h bolt a b n sg lk d c _ => litsAgree [a, b, c] && (rowsOk n && (if sh then b == .reg 0 && bolt == 0 else h == 0) && (sg || d == 0) && (lk || c == .reg 0))
  | .tzero _ _ sg lk d c _ => litsAgree [c] && ((sg || d == 0) && (lk || c == .reg 0))
  | .tsta _ _ sh _ h a b n sg lk d c _ => litsAgree [a, b, c] && (rowsOk n && (if sh then a == .reg 0 else h == 0) && (sg || d == 0) && (lk || c == .reg 0))
  | .tstaSt _ _ _ a sg lk d c _ => litsAgree [a, c] && ((sg || d == 0) && (lk || c == .reg 0))
  | .rtprb _ _ _ sh h _ a b bolt n _ => litsAgree [a, b] && (n != 0 && (if sh then b == .reg 0 && bolt == 0 else h == 0))
  | .rtins _ _ _ a _ => litsAgree [a]
  | .rtdel _ _ _ a _ => litsAgree [a]
  | .rtrhs _ _ a _ => litsAgree [a]
  | .rtsync _ => true
  | .movs _ _ _ idx x a => litsAgree [a] && ((if x then idx == 0 else a == .reg 0))
  | .movsw _ _ idx x a b => litsAgree [a, b] && ((if x then idx == 0 else b == .reg 0))
  | .trap _ _ => true
  | .tret _ => true
  | .slack _ _ => true
  | .slackCls _ _ => true
  | .slackSet _ a => litsAgree [a]
  | .halt _ => true
  | .patdef _ _ mv a bolt => litsAgree [a] && ((!mv || bolt == 0))
  | .patrd _ _ _ _ => true
  | .bldef _ _ mv a => litsAgree [a] && ((mv || !a.isLit))
  | .blrd _ _ _ _ => true
  | .hfset _ _ a b => litsAgree [a, b]
  | .jtdef _ _ ovl a b => litsAgree [a, b] && (ovl != 0xFFFF)
  | .rtdef _ _ _ a => litsAgree [a]
  | .rtdefRh _ _ _ a => litsAgree [a]
  | .rtdefOff _ _ => true
  | .ctrrd _ _ n x a => litsAgree [a] && ((if x then n == 0 else a == .reg 0))
  | .ctrset _ n x a b => litsAgree [a, b] && ((if x then n == 0 else b == .reg 0))
  | .smpl _ off tag => ((!off || tag == 0))
  | .brkpt _ code => (decide (code.toNat ≤ 0xFFFD))
  | .hint _ => true
  | .waitpred _ => true
  | .resultWriteback _ => true
  | .atomicRequest _ => true
  | .atomicReply _ => true
  | .readRequest _ => true
  | .acknowledgementArrival _ => true
  | .needleArrival _ => true
  | .spillReturn _ => true
  | .arrivalWaveFormation _ _ _ => true
  | .spoolTimeout _ _ _ => true
  | .launchEntryFetch _ _ => true
  | .spawnTaskSend _ => true
  | .taskArrival _ => true
  | .taskRefusal _ => true
  | .taskResendTimeout _ => true
  | .spawnIncrement _ => true
  | .phaseArrival _ => true
  | .drainRequest _ _ => true
  | .drainAcknowledgement _ _ => true
  | .changeNotice _ => true
  | .overlayLoadCompletion _ => true
  | .pageFaultService _ => true
  | .faultRecordResolve _ _ => true
  | .faultRecordRefuse _ _ => true
  | .errorRecordResolve _ => true
  | .errorRecordRefuse _ => true
  | .engineFire _ => true
  | .binPrepare _ => true
  | .engineRetire _ => true
  | .engineFailure _ _ => true
  | .stitchParityReload _ _ => true
  | .retrievalOperationApply _ => true
  | .quantumExpiry _ _ => true
  | .bobbinPreempt _ _ => true
  | .contextSlotRelease _ _ => true
  | .contextReadmission _ _ => true
  | .queueDoorbell _ _ => true
  | .queueEnable _ _ => true
  | .queueDisable _ _ => true
  | .dispatch => true
  | .waveAdmission _ => true
  | .stagingCompletion _ _ _ => true
  | .launchCompletion _ => true
  | .slackTick => true
  | .slackOverdue _ => true
  | .packetAdvance _ => true
  | .routerPowerGate _ => true
  | .routerWake _ => true
  | .pageMoveStart _ _ _ => true
  | .pageMoveTransfer _ => true
  | .shootdown _ _ => true
  | .shootdownAcknowledgement _ => true
  | .graceWindowEnd _ => true
  | .rehome _ => true
  | .channelRetirement _ => true
  | .pageMakeWritable _ _ => true
  | .pageMakeReadOnly _ _ => true
  | .portLoss _ _ => true
  | .sampleRecord _ _ _ => true
  | .traceEnable _ _ _ => true
  | .traceDisable _ _ _ => true
  | .resume _ _ => true
  | .deliver _ _ => true
  | .debugStep _ _ => true
  | .stopall _ _ => true
  | .counterWrite _ _ _ _ => true
  | .quantumWrite _ _ => true
  | .hostBar2Write _ _ => true
  | .dutySplitWrite _ => true
  | .dutyGo => true
  | .derrClear => true
  | .goTimeout => true
  | .pcapWrite _ => true
  | .registerWrite _ _ => true
  | .powerOn _ _ _ _ => true
  | .powerWindow _ => true
  | .thermalLimit => true
  | .thermalShutdown => true
  | .ucieLinkFailure _ _ => true
  | .keySlotWrite _ _ _ _ _ => true
  | .coreCycle => true
  | .ultraEthernetPortUp _ _ => true
  | .portEnable _ _ => true
  | .thermalLimitClear => true
  | .measurementReport _ => true

end Sys2Proof
end

