-- ==== Sys2Proof/Machine/Base.lean ====
section
/-! DEFINITION. The plain operations over the state: sparse tables, memory bytes, registers, places of threads. -/

namespace Sys2Proof.Machine

/-! ### Sparse tables -/

def KMap.get? {α : Type} (m : KMap α) (k : Nat) : Option α :=
  match m with
  | [] => none
  | (k', v) :: r => if k' = k then some v else KMap.get? r k

def KMap.set {α : Type} (m : KMap α) (k : Nat) (v : α) : KMap α :=
  match m with
  | [] => [(k, v)]
  | (k', v') :: r => if k < k' then (k, v) :: (k', v') :: r else if k = k' then (k, v) :: r else (k', v') :: KMap.set r k v

def KMap.erase {α : Type} (m : KMap α) (k : Nat) : KMap α := m.filter fun e => e.1 != k

def KMap.modify {α : Type} (m : KMap α) (k : Nat) (f : α → α) : KMap α := m.map fun e => if e.1 = k then (k, f e.2) else e

/-- Keep the keys, change the entries. -/
def KMap.mapVals {α : Type} (m : KMap α) (f : Nat → α → α) : KMap α := m.map fun e => (e.1, f e.1 e.2)

/-- The lowest key below `n` that is not in the table. -/
def KMap.freeKey {α : Type} (m : KMap α) (n : Nat) : Option Nat := (List.range n).find? fun k => (m.get? k).isNone

/-! ### Memory -/

/-- What an address that nothing has written reads as (DESIGN CHOICE, log 1). -/
def Memory.rest : Byte := 0

def Memory.get (m : List Host.Cell) (a : Nat) : Byte :=
  match m with
  | [] => Memory.rest
  | (a', b) :: r => if a' = a then b else Memory.get r a

def Memory.insert (m : List Host.Cell) (a : Nat) (b : Byte) : List Host.Cell :=
  match m with
  | [] => [(a, b)]
  | (a', b') :: r =>
    if a < a' then (a, b) :: (a', b') :: r else if a = a' then (a, b) :: r else (a', b') :: Memory.insert r a b

/-- Writing the rest value removes the entry. -/
def Memory.set (m : List Host.Cell) (a : Nat) (b : Byte) : List Host.Cell :=
  if b = Memory.rest then m.filter (fun e => e.1 != a) else Memory.insert m a b

/-- Canonical form: addresses strictly rising, no entry equal to the rest value. -/
def Memory.wf : List Host.Cell → Bool
  | [] => true
  | [(_, b)] => b != Memory.rest
  | (a, b) :: (a', b') :: r => b != Memory.rest && decide (a < a') && Memory.wf ((a', b') :: r)

def Memory.setBytes (m : List Host.Cell) (a : Nat) : List Byte → List Host.Cell
  | [] => m
  | b :: bs => Memory.setBytes (Memory.set m a b) (a + 1) bs

def Memory.getBytes (m : List Host.Cell) (a n : Nat) : List Byte := (List.range n).map fun i => Memory.get m (a + i)

/-- Bytes as a number, the first the least significant (R4). -/
def natOfBytes : List Byte → Nat
  | [] => 0
  | b :: bs => b.toNat + 256 * natOfBytes bs

def bytesOfNat (n v : Nat) : List Byte := (List.range n).map fun i => BitVec.ofNat 8 (v / 256 ^ i)

def Memory.getNat (m : List Host.Cell) (a n : Nat) : Nat := natOfBytes (Memory.getBytes m a n)

/-- Clear every byte of a range. -/
def Memory.clear (m : List Host.Cell) (a n : Nat) : List Host.Cell := m.filter fun e => !(decide (a ≤ e.1) && decide (e.1 < a + n))

/-! Storage keys: HBM bytes stand at their device physical addresses (R448), the other stores above 2^48. -/

def dieKey (die ctx off : Nat) : Nat := 1 * 2 ^ 48 + die * 2 ^ 42 + ctx * 2 ^ 26 + off
def coreKey (core ctx off : Nat) : Nat := 2 * 2 ^ 48 + core * 2 ^ 37 + ctx * 2 ^ 21 + off
def laneKey (core wave lane off : Nat) : Nat := 3 * 2 ^ 48 + core * 2 ^ 20 + wave * 2 ^ 14 + lane * 2 ^ 8 + off
def imemKey (core slot off : Nat) : Nat := 4 * 2 ^ 48 + core * 2 ^ 18 + slot * 2 ^ 16 + off
/-- A byte of the hoop area of a core-scratchpad allocation, which no write changes (R357, R359). -/
def inHoops (key : Nat) : Bool := key / 2 ^ 48 == 2 && decide (key % 2 ^ 21 < 0x200)
/-- Cell (k, n) of a weight bank (R390). -/
def bankKey (core bank row col : Nat) : Nat := 5 * 2 ^ 48 + core * 2 ^ 22 + bank * 2 ^ 20 + (row * 768 + col)
/-- Element (m, n) of an accumulator tile (R392). -/
def tileKey (core tile row col : Nat) : Nat := 6 * 2 ^ 48 + core * 2 ^ 20 + tile * 2 ^ 19 + (row * 768 + col) * 4
/-- Lines that are no storage: the shuttle of a slot, a phase object, the launch-state line (R354); the last two leave room for the
core that holds them. -/
def shuttleLine (core slot : Nat) : Nat := 8 * 2 ^ 48 + core * 4 + slot
def phaseLine (key level group : Nat) : Nat := (9 * 2 ^ 48 + (key * 8 + level) * 2 ^ 32 + group) * 2 ^ 32
def launchLine (key : Nat) : Nat := (10 * 2 ^ 48 + key) * 2 ^ 40

/-! ### Bit helpers -/

/-- Replace bits [lo + w - 1 : lo] of a vector. -/
def setBits {n : Nat} (v : BitVec n) (lo w x : Nat) : BitVec n :=
  let m := BitVec.ofNat n ((2 ^ w - 1) * 2 ^ lo)
  (v &&& ~~~m) ||| (BitVec.ofNat n (x * 2 ^ lo) &&& m)

/-- Bits [lo + w - 1 : lo] as a number. -/
def field {n : Nat} (v : BitVec n) (lo w : Nat) : Nat := (v.extractLsb' lo w).toNat

/-- log2 rounded up: the least k with 2^k at least n. -/
def clog2 (n : Nat) : Nat := if n ≤ 1 then 0 else Nat.log2 (n - 1) + 1

/-- Insertion by rising key, after its equals. -/
def insertBy {α : Type} (key : α → Nat) (x : α) : List α → List α
  | [] => [x]
  | y :: ys => if key x < key y then x :: y :: ys else y :: insertBy key x ys

/-- A list by rising key, stable. -/
def sortBy {α : Type} (key : α → Nat) (l : List α) : List α := l.foldl (fun acc x => insertBy key x acc) []

def sumNat (l : List Nat) : Nat := l.foldl (· + ·) 0

/-! ### Registers -/

def Regs.get (r : Regs) (n : Nat) : DWord :=
  match r with
  | .x v => (v.toList.getD n 0).setWidth 64
  | .w v => v.toList.getD n 0

def Regs.set (r : Regs) (n : Nat) (val : DWord) : Regs :=
  match r with
  | .x v => .x (v.setIfInBounds n (val.setWidth 32))
  | .w v => .w (v.setIfInBounds n val)

def Regs.zeroX : Regs := .x (Vector.replicate 64 0)
def Regs.zeroW : Regs := .w (Vector.replicate 32 0)

def Hart.isBobbin (h : Hart) : Bool :=
  match h.regs with
  | .x _ => false
  | .w _ => true

/-- A register's value: 32 bits in thread code, 64 in bobbin code. -/
def Hart.reg (h : Hart) (n : Nat) : DWord := h.regs.get n

/-- Write a register; its poison is cleared (R471). -/
def Hart.setReg (h : Hart) (n : Nat) (v : DWord) : Hart := { h with regs := h.regs.set n v, poison := setBits h.poison n 1 0 }

/-- A source: register or literal (R57); in thread code 32 bits. -/
def Hart.src (h : Hart) (x : Src) : DWord :=
  match x with
  | .reg r => h.reg r.toNat
  | .lit v => if h.isBobbin then v else (v.setWidth 32).setWidth 64

/-- A 64-bit source: a pair in thread code (R99), one w register in bobbin code. -/
def Hart.src64 (h : Hart) (x : Src) : DWord :=
  match x with
  | .reg r => if h.isBobbin then h.reg r.toNat else ((h.reg (r.toNat + 1)).setWidth 32 : Word) ++ ((h.reg r.toNat).setWidth 32 : Word)
  | .lit v => v

/-- Write a 64-bit value: the pair in thread code (R143). -/
def Hart.setReg64 (h : Hart) (n : Nat) (v : DWord) : Hart :=
  if h.isBobbin then h.setReg n v
  else (h.setReg n ((v.setWidth 32).setWidth 64)).setReg (n + 1) (v >>> 32)

/-- p7 reads true (R134). -/
def Hart.pred (h : Hart) (p : BitVec 3) : Bool := if p = 7 then true else h.preds.getLsbD p.toNat

/-- Writes to p7 are ignored (R138). -/
def Hart.setPred (h : Hart) (p : BitVec 3) (v : Bool) : Hart :=
  if p = 7 then h else { h with preds := setBits h.preds p.toNat 1 v.toNat }

/-- Does the lane take part (R56)? -/
def Hart.takes (h : Hart) (g : Guard) : Bool := xor (h.pred g.pred) g.neg

def Hart.doneCount (h : Hart) (f : Nat) : Nat := (h.done.toList.getD f 0).toNat

def Hart.setDone (h : Hart) (f n : Nat) : Hart := { h with done := h.done.setIfInBounds f (BitVec.ofNat 4 n) }

/-- All twelve done flags are clear. -/
def Hart.doneClear (h : Hart) : Bool := h.done.toList.all (· == 0)

/-- The flags of a mask are clear. -/
def Hart.maskClear (h : Hart) (mask : BitVec 12) : Bool := (List.range 12).all fun f => !mask.getLsbD f || h.doneCount f == 0

def Hart.fibre (h : Hart) (fi : BitVec 1) : Fibre := if fi = 0 then h.fi0 else h.fi1

def Hart.setFibre (h : Hart) (fi : BitVec 1) (f : Fibre) : Hart := if fi = 0 then { h with fi0 := f } else { h with fi1 := f }

/-- Words of a fibre cursor (R161). -/
def Fibre.word (f : Fibre) (i : Nat) : Word :=
  match i with
  | 0 => f.pos
  | 1 => f.count
  | _ => BitVec.ofNat 32 (f.step.toNat + 2 ^ 16 * f.bolt.toNat + 2 ^ 22 * f.opened.toNat)

def Fibre.setWord (f : Fibre) (i : Nat) (w : Word) : Fibre :=
  match i with
  | 0 => { f with pos := w }
  | 1 => { f with count := w }
  | _ => { f with step := w.extractLsb' 0 16, bolt := w.extractLsb' 16 6, opened := w.getLsbD 22 }

/-! ### PCs (R72) -/

def ovlOf (pc : Word) : BitVec 16 := pc.extractLsb' 16 16
def offOf (pc : Word) : Nat := (pc.extractLsb' 0 16).toNat
def mkPc (ovl off : BitVec 16) : Word := ovl ++ off

/-- Advance the byte offset inside the overlay. -/
def pcAdd (pc : Word) (bytes : Nat) : Word := mkPc (ovlOf pc) (BitVec.ofNat 16 (offOf pc + bytes))

/-- Enter the clause at a header: the instruction follows it at position 0. -/
def Hart.enter (h : Hart) (header : Word) : Hart :=
  { h with clause := header, pc := pcAdd header 4, pos := 0, entered := false, reached := false, arrived := false, moved := false }

/-- A start that has not been checked as a transfer yet: the PC is the header's own (R432). -/
def Hart.startAt (h : Hart) (header : Word) : Hart :=
  { h with clause := header, pc := header, pos := 0, entered := false, reached := false, arrived := false, moved := false }

def Hart.fresh (h : Hart) : Bool := h.pc == h.clause

/-- The PC moves past the instruction of the issue. -/
def Hart.past (h : Hart) (i : Issue) : Hart :=
  if i.nextPos < i.count then { h with pc := i.nextPc, pos := i.nextPos, reached := false, arrived := false, moved := false }
  else h.enter i.nextPc

/-- The lane goes on: past the instruction, or past one step of a REP (R231). -/
def Hart.advance (h : Hart) (i : Issue) : Hart :=
  if i.step then
    match h.rep with
    | none => h
    | some n =>
      if h.repstep.toNat + 1 < n then { h with repstep := h.repstep + 1 }
      else Hart.past { h with repstep := 0, rep := none } i
  else h.past i

/-! ### Places -/

def State.core (s : State) (c : Nat) : Core := (s.cores.get? c).getD {}
def State.setCore (s : State) (c : Nat) (k : Core) : State := { s with cores := s.cores.set c k }
def State.modCore (s : State) (c : Nat) (f : Core → Core) : State := s.setCore c (f (s.core c))
def State.die (s : State) (d : Nat) : Die := (s.dies.get? d).getD {}
def State.modDie (s : State) (d : Nat) (f : Die → Die) : State := { s with dies := s.dies.set d (f (s.die d)) }
def dieOf (core : Nat) : Nat := core / 64

def State.wave? (s : State) (c w : Nat) : Option Wave := (s.core c).waves.get? w
def State.slot? (s : State) (c k : Nat) : Option Slot := (s.core c).slots.get? k
def State.modWave (s : State) (c w : Nat) (f : Wave → Wave) : State := s.modCore c fun k => { k with waves := k.waves.modify w f }
def State.modSlot (s : State) (c k : Nat) (f : Slot → Slot) : State := s.modCore c fun q => { q with slots := q.slots.modify k f }

/-- The slot that holds a context on a core. -/
def Core.slotOf? (k : Core) (ctx : Nat) : Option (Nat × Slot) := k.slots.find? fun e => e.2.ctx == ctx
def State.slotOf? (s : State) (c ctx : Nat) : Option (Nat × Slot) := (s.core c).slotOf? ctx

/-- The host can reach the device: its link is trained, and the device is neither in recovery nor stopped (R529, R539). -/
def State.hostUp (s : State) : Bool := s.bar.link && !s.bar.fail && !s.power.stopped

/-- The home identifier of a core (R18). -/
def State.homeId (s : State) (core : Nat) : Nat := s.bar.chipid * 256 + core

def State.hart? (s : State) (r : Ref) : Option Hart :=
  match r.agent with
  | .wave w l => ((s.wave? r.core w).bind fun v => v.lanes.get? l).filter fun h => h.tid == r.tid
  | .bobbin k => ((s.slot? r.core k).map Slot.bobbin).filter fun h => h.tid == r.tid

def State.modHart (s : State) (r : Ref) (f : Hart → Hart) : State :=
  match r.agent with
  | .wave w l => s.modWave r.core w fun v => { v with lanes := v.lanes.modify l f }
  | .bobbin k => s.modSlot r.core k fun q => { q with bobbin := f q.bobbin }

def State.setHart (s : State) (r : Ref) (h : Hart) : State := s.modHart r fun _ => h

/-- The context of a thread or bobbin. -/
def State.ctxOf (s : State) (r : Ref) : Nat :=
  match r.agent with
  | .wave w _ => ((s.wave? r.core w).map Wave.ctx).getD 0
  | .bobbin k => ((s.slot? r.core k).map Slot.ctx).getD 0

/-- The number of its context slot. -/
def State.slotNo (s : State) (r : Ref) : Nat :=
  match r.agent with
  | .wave _ _ => ((s.slotOf? r.core (s.ctxOf r)).map Prod.fst).getD 0
  | .bobbin k => k

def State.slotFor? (s : State) (r : Ref) : Option Slot := s.slot? r.core (s.slotNo r)
def State.modSlotFor (s : State) (r : Ref) (f : Slot → Slot) : State := s.modSlot r.core (s.slotNo r) f

/-- Every thread of the machine, and every bobbin. -/
def State.refs (s : State) : List Ref :=
  s.cores.flatMap fun (c, k) =>
    (k.waves.flatMap fun (w, v) => v.lanes.map fun (l, h) => ⟨c, .wave w l, h.tid⟩)
      ++ k.slots.map fun (n, q) => ⟨c, .bobbin n, q.bobbin.tid⟩

/-- The threads of one context on one core. -/
def State.threadsOf (s : State) (c ctx : Nat) : List Ref :=
  (s.core c).waves.flatMap fun (w, v) => if v.ctx = ctx then v.lanes.map fun (l, h) => ⟨c, .wave w l, h.tid⟩ else []

/-- The thread or bobbin at a lane of the current issue. -/
def State.curRef (s : State) (lane : Nat) (h : Hart) : Ref :=
  if s.cur.bobbin then ⟨s.cur.core, .bobbin s.cur.member, h.tid⟩ else ⟨s.cur.core, .wave s.cur.member lane, h.tid⟩

/-- Change every lane of the current issue, each by itself. -/
def State.mapLanes (s : State) (f : Hart → Hart) : State :=
  if s.cur.bobbin then s.modSlot s.cur.core s.cur.member fun q => { q with bobbin := if s.cur.lanes.contains 0 then f q.bobbin else q.bobbin }
  else s.modWave s.cur.core s.cur.member fun v =>
    { v with lanes := v.lanes.map fun e => if s.cur.lanes.contains e.1 then (e.1, f e.2) else e }

/-- The lanes of the current issue with their threads, lowest lane first; a bobbin is lane 0. -/
def State.lanes (s : State) : List (Nat × Hart) :=
  if s.cur.bobbin then (((s.slot? s.cur.core s.cur.member).map fun q => (0, q.bobbin)).toList).filter fun e => s.cur.lanes.contains e.1
  else ((s.wave? s.cur.core s.cur.member).map fun v => v.lanes.filter fun e => s.cur.lanes.contains e.1).getD []

/-- The lanes that take part. -/
def State.active (s : State) (g : Guard) : List (Nat × Hart) := s.lanes.filter fun e => e.2.takes g

/-- The next number of the model's own is taken. -/
def State.bump (s : State) : State := { s with next := s.next + 1 }

/-- A value the spec leaves open (log 3). -/
def State.freeVal (s : State) : DWord := Config.freeValue s.free
def State.spend (s : State) : State := { s with free := s.free + 1 }

/-- An instruction that acts on each lane by itself and only on its registers: the lanes that take part change by `f`, and
every lane goes on. -/
def aluOp (g : Guard) (f : Hart → Hart) (s : State) : Host.Outcome State Fault Refusal :=
  .next (s.mapLanes fun h => (if h.takes g then f h else h).advance s.cur)

end Sys2Proof.Machine
end

