-- ==== Sys2Proof/Machine/Flags.lean ====
section
/-! DEFINITION. The floating formats, rounding, and the status flags of chapter 03 (R101 to R116). -/

namespace Sys2Proof.Machine

/-- Status flags by their bits (R114). -/
abbrev FFlags := BitVec 5
def FFlags.IV : FFlags := 1
def FFlags.DZ : FFlags := 2
def FFlags.OF : FFlags := 4
def FFlags.UF : FFlags := 8
def FFlags.NX : FFlags := 16

/-- A floating value: exact reals with signed zeros, infinities, and the NaN (R103). `fin neg m e` is ±m × 2^e. -/
inductive FVal where
  | nan
  | inf (neg : Bool)
  | fin (neg : Bool) (m : Nat) (e : Int)
deriving DecidableEq, Repr

/-! ### Formats (R101, R102) -/

structure FForm where
  ebits : Nat
  fbits : Nat
  bias : Nat
deriving DecidableEq, Repr

def Fmt.form : Fmt → FForm
  | .f16 => ⟨5, 10, 15⟩
  | .bf16 => ⟨8, 7, 127⟩
  | .e4m3 => ⟨4, 3, 7⟩
  | .e5m2 => ⟨5, 2, 15⟩
  | _ => ⟨8, 23, 127⟩

/-- Exponent of the smallest normal, and of the smallest subnormal. -/
def FForm.emin (f : FForm) : Int := 1 - f.bias
def FForm.esub (f : FForm) : Int := f.emin - f.fbits

/-- Codes of magnitudes, without the sign bit. -/
def Fmt.signBit (t : Fmt) : Nat := 2 ^ ((form t).ebits + (form t).fbits)
def Fmt.infCode (t : Fmt) : Nat := (2 ^ (form t).ebits - 1) * 2 ^ (form t).fbits
def Fmt.maxCode (t : Fmt) : Nat := if t = .e4m3 then 0x7E else infCode t - 1
def Fmt.nanCode (t : Fmt) : Nat := if t = .e4m3 then 0x7F else infCode t + 2 ^ ((form t).fbits - 1)

/-- A magnitude code with its sign. -/
def signedCode (t : Fmt) (neg : Bool) (c : Nat) : Nat := if neg then Fmt.signBit t + c else c

/-- The value of a pattern of a format. -/
def decodeF (t : Fmt) (bits : Nat) : FVal :=
  let f := Fmt.form t
  let neg := bits.testBit (f.ebits + f.fbits)
  let c := bits % Fmt.signBit t
  if Fmt.maxCode t < c then (if t != .e4m3 && c == Fmt.infCode t then .inf neg else .nan)
  else
    let x := c / 2 ^ f.fbits
    let m := c % 2 ^ f.fbits
    if x = 0 then .fin neg m f.esub else .fin neg (2 ^ f.fbits + m) (f.esub + (x - 1 : Nat))

/-- A subnormal of FP32, FP16 or BF16 reads as zero under .ftz (R104). -/
def flushed (t : Fmt) (ftz : Bool) (v : FVal) : FVal :=
  match v with
  | .fin neg m e => if ftz && t.isScalarF && decide (m < 2 ^ (Fmt.form t).fbits) then .fin neg 0 e else v
  | _ => v

/-! ### Rounding (R107 to R116) -/

/-- How a result is rounded: the mode, bits [31:8] of the lane's random word under RSR, .ftz and .sat. -/
structure Rnd where
  mode : Round := .rne
  s : Nat := 0
  ftz : Bool := false
  sat : Bool := false
deriving DecidableEq, Repr

/-- Does the discarded part r of 2^k round the magnitude up (R107, R116)? -/
def roundsUp (d : Rnd) (neg odd : Bool) (r k : Nat) : Bool :=
  match d.mode with
  | .rne => decide (2 ^ k < 2 * r) || (2 * r == 2 ^ k && odd)
  | .rtz => false
  | .rup => !neg && r != 0
  | .rdn => neg && r != 0
  | .rsr => decide (d.s < r * 2 ^ 24 / 2 ^ k)

/-- The magnitude m × 2^e in units of 2^q after rounding, and whether that is inexact. A shift beyond every bit of m and 30
more gives the same as a shift of just so many. -/
def roundAt (d : Rnd) (neg : Bool) (m : Nat) (e q : Int) : Nat × Bool :=
  if q ≤ e then (m * 2 ^ (e - q).toNat, false)
  else
    let k := Nat.min (q - e).toNat (Nat.log2 m + 30)
    let t := m / 2 ^ k
    let r := m % 2 ^ k
    (if roundsUp d neg (t % 2 == 1) r k then t + 1 else t, r != 0)

/-- What an overflow delivers (R109 to R111), as a code with its sign. -/
def overflowCode (t : Fmt) (d : Rnd) (neg : Bool) : Nat :=
  if d.sat then signedCode t neg (Fmt.maxCode t)
  else if t = .e4m3 then Fmt.nanCode t
  else
    let large := match d.mode with
      | .rne | .rsr => false
      | .rtz => true
      | .rup => neg
      | .rdn => !neg
    signedCode t neg (if large then Fmt.maxCode t else Fmt.infCode t)

/-- RoundTo of ±m × 2^e: the pattern and the flags (R107 to R111, R113, R104). In units of the smallest subnormal the codes of
the format count up with the values, also past the largest finite one. -/
def roundTo (t : Fmt) (d : Rnd) (neg : Bool) (m : Nat) (e : Int) : Nat × FFlags :=
  if m = 0 then (signedCode t neg 0, 0)
  else
    let f := Fmt.form t
    let qn := e + Nat.log2 m - f.fbits
    let q := if qn < f.esub then f.esub else qn
    let (v, inexact) := roundAt d neg m e q
    let c := v + (q - f.esub).toNat * 2 ^ f.fbits
    let (vn, _) := roundAt d neg m e qn
    let tiny := decide (qn + Nat.log2 vn < f.emin)
    if Fmt.maxCode t < c then (overflowCode t d neg, FFlags.OF ||| FFlags.NX)
    else if d.ftz && t.isScalarF && tiny then (signedCode t neg 0, FFlags.UF ||| FFlags.NX)
    else (signedCode t neg c, if inexact then (if tiny then FFlags.UF ||| FFlags.NX else FFlags.NX) else 0)

/-- A value delivered at a format (R109 to R111, R186). -/
def deliverF (t : Fmt) (d : Rnd) (v : FVal) : Nat × FFlags :=
  match v with
  | .nan => (Fmt.nanCode t, 0)
  | .inf neg =>
    if d.sat then (signedCode t neg (Fmt.maxCode t), 0)
    else if t = .e4m3 then (Fmt.nanCode t, FFlags.OF ||| FFlags.NX)
    else (signedCode t neg (Fmt.infCode t), 0)
  | .fin neg m e => roundTo t d neg m e

/-! ### Exact arithmetic -/

def signInt (neg : Bool) (m : Nat) : Int := if neg then -(m : Int) else m

/-- The exact sum of two finite values; an exact zero takes its sign by R107 step 4. -/
def addFin (mode : Round) (na : Bool) (ma : Nat) (ea : Int) (nb : Bool) (mb : Nat) (eb : Int) : FVal :=
  let e := if ma = 0 then eb else if mb = 0 then ea else if ea < eb then ea else eb
  let v := (if ma = 0 then 0 else signInt na (ma * 2 ^ (ea - e).toNat)) + (if mb = 0 then 0 else signInt nb (mb * 2 ^ (eb - e).toNat))
  if v = 0 then .fin (if na = nb then na else mode == .rdn) 0 e else .fin (decide (v < 0)) v.natAbs e

/-- A sum with its invalid case (R175): infinities of opposite sign. -/
def addF (mode : Round) (a b : FVal) : FVal × FFlags :=
  match a, b with
  | .inf na, .inf nb => if na = nb then (.inf na, 0) else (.nan, FFlags.IV)
  | .nan, _ => (.nan, 0)
  | _, .nan => (.nan, 0)
  | .inf na, .fin _ _ _ => (.inf na, 0)
  | .fin _ _ _, .inf nb => (.inf nb, 0)
  | .fin na ma ea, .fin nb mb eb => (addFin mode na ma ea nb mb eb, 0)

def negF : FVal → FVal
  | .nan => .nan
  | .inf n => .inf (!n)
  | .fin n m e => .fin (!n) m e

/-- A product with its invalid case: 0 × infinity. -/
def mulF (a b : FVal) : FVal × FFlags :=
  match a, b with
  | .nan, _ => (.nan, 0)
  | _, .nan => (.nan, 0)
  | .inf na, .inf nb => (.inf (xor na nb), 0)
  | .inf na, .fin nb m _ => if m = 0 then (.nan, FFlags.IV) else (.inf (xor na nb), 0)
  | .fin na m _, .inf nb => if m = 0 then (.nan, FFlags.IV) else (.inf (xor na nb), 0)
  | .fin na ma ea, .fin nb mb eb => (.fin (xor na nb) (ma * mb) (ea + eb), 0)

/-- A quotient m / n × 2^e to more bits than any format rounds, its last bit set when more follow. -/
def quotient (m n : Nat) (e : Int) : Nat × Int :=
  let k := 100 + Nat.log2 n
  let q := m * 2 ^ k / n
  (2 * q + (if m * 2 ^ k % n = 0 then 0 else 1), e - k - 1)

/-- A quotient with the cases of R175. -/
def divF (a b : FVal) : FVal × FFlags :=
  match a, b with
  | .nan, _ => (.nan, 0)
  | _, .nan => (.nan, 0)
  | .inf _, .inf _ => (.nan, FFlags.IV)
  | .inf na, .fin nb _ _ => (.inf (xor na nb), 0)
  | .fin na _ _, .inf nb => (.fin (xor na nb) 0 0, 0)
  | .fin na ma ea, .fin nb mb eb =>
    if mb = 0 then (if ma = 0 then (.nan, FFlags.IV) else (.inf (xor na nb), FFlags.DZ))
    else
      let (q, e) := quotient ma mb (ea - eb)
      (.fin (xor na nb) q e, 0)

/-- The order of the reals, with −0 equal to +0; none when a NaN is among them. -/
def compareF (a b : FVal) : Option Int :=
  match a, b with
  | .nan, _ => none
  | _, .nan => none
  | .inf na, .inf nb => some (if na = nb then 0 else if na then -1 else 1)
  | .inf na, .fin _ _ _ => some (if na then -1 else 1)
  | .fin _ _ _, .inf nb => some (if nb then 1 else -1)
  | .fin na ma ea, .fin nb mb eb =>
    let e := if ea < eb then ea else eb
    let d := signInt na (ma * 2 ^ (ea - e).toNat) - signInt nb (mb * 2 ^ (eb - e).toNat)
    some (if d < 0 then -1 else if d = 0 then 0 else 1)

def signOf : FVal → Bool
  | .nan => false
  | .inf n => n
  | .fin n _ _ => n

/-- Is a below b, with −0 below +0 (R176)? -/
def belowF (a b : FVal) : Bool :=
  match compareF a b with
  | some d => decide (d < 0) || (d == 0 && signOf a && !signOf b)
  | none => false

/-- FMIN and FMAX on values (R176). -/
def minmaxF (max : Bool) (a b : FVal) : FVal :=
  match a, b with
  | .nan, _ => b
  | _, .nan => a
  | _, _ => if belowF b a != max then b else a

/-! ### To integers (R112, R191) -/

/-- A magnitude rounded to an integer, with its sign, and whether that is inexact. -/
def roundInt (d : Rnd) (neg : Bool) (m : Nat) (e : Int) : Int × Bool :=
  let (v, inexact) := roundAt d neg m e 0
  (signInt neg v, inexact)

/-- A value converted to the integers lo to hi; `quant` is the rule of QNT, where leaving the range sets NX instead of IV. -/
def toIntF (d : Rnd) (quant : Bool) (lo hi : Int) (v : FVal) : Int × FFlags :=
  match v with
  | .nan => (0, FFlags.IV)
  | .inf neg => (if neg then lo else hi, if quant then FFlags.NX else FFlags.IV)
  | .fin neg m e =>
    let (i, inexact) := if m = 0 then ((0 : Int), false) else roundInt d neg m e
    if i < lo then (lo, if quant then FFlags.NX else FFlags.IV)
    else if hi < i then (hi, if quant then FFlags.NX else FFlags.IV)
    else (i, if inexact then FFlags.NX else 0)

/-- An integer as a value times 2^e. -/
def intF (i : Int) (e : Int) : FVal := .fin (decide (i < 0)) i.natAbs e

/-- A value times 2^n. -/
def scaleF (v : FVal) (n : Int) : FVal :=
  match v with
  | .fin neg m e => .fin neg m (e + n)
  | v => v

/-! ### Alignment (R125, R126) -/

/-- e of R125 of a nonzero finite element: the exponent of its significand's unit bit. -/
def alignExp (t : Fmt) : FVal → Option Int
  | .fin _ m e => if m = 0 then none else some (e + (Fmt.form t).fbits)
  | _ => none

/-- The group exponent. -/
def groupExp (t : Fmt) (l : List FVal) : Int :=
  (l.filterMap (alignExp t)).foldl (fun (a : Option Int) x => match a with
    | none => some x
    | some y => some (if y < x then x else y)) none |>.getD (Fmt.form t).emin

/-- The magnitude of the aligned integer: floor(m × 2^(W − 1 − s) × 2^(e − eG)). -/
def alignMag (t : Fmt) (w : Nat) (eG : Int) (m : Nat) (e : Int) : Nat :=
  let k := e + (Fmt.form t).fbits - eG + w - 2 - (Fmt.form t).fbits
  if 0 ≤ k then m * 2 ^ k.toNat else m / 2 ^ (-k).toNat

/-! ### The generators of stochastic rounding (R117 to R119) -/

def xorshift (x : Word) : Word :=
  let x := x ^^^ (x <<< 13)
  let x := x ^^^ (x >>> 17)
  x ^^^ (x <<< 5)

/-- The state after n steps. -/
def xorshiftN : Nat → Word → Word
  | 0, x => x
  | n + 1, x => xorshiftN n (xorshift x)

/-- The word of a physical lane. -/
def laneWord (r : Word) (lane : Nat) : Word := if lane < 32 then r.rotateLeft (lane % 32) else ~~~(r.rotateLeft (lane % 32))

/-- Bits [31:8] of a random word. -/
def wordBits (w : Word) : Nat := w.toNat / 256

end Sys2Proof.Machine
end

