-- ==== Sys2Proof/Machine/Operands.lean ====
section
/-! DEFINITION. Operands read and results written at a type (R98 to R106, R143, R146). -/

namespace Sys2Proof.Machine

/-- The default type of block 0x20 in bobbin code is .i64 (R146). -/
def Hart.ty (h : Hart) (t : Option Fmt) (dflt : Fmt) : Fmt := t.getD (if h.isBobbin then .i64 else dflt)

/-- A source at a width: a 64-bit type names a pair in thread code (R58). -/
def Hart.bitsOf (h : Hart) (x : Src) (f : Fmt) : DWord := if f.bits = 64 then h.src64 x else h.src x

/-- The value of the low n bits, signed or unsigned (R98). -/
def intOf (n : Nat) (signed : Bool) (v : Nat) : Int :=
  let u := v % 2 ^ n
  if signed && decide (2 ^ (n - 1) ≤ u) then (u : Int) - 2 ^ n else u

/-- ReadInt of R143. -/
def Hart.readInt (h : Hart) (x : Src) (f : Fmt) : Int := intOf f.bits f.signed (h.bitsOf x f).toNat

/-- The ends of a type's range (R98). -/
def fmtLo (f : Fmt) : Int := if f.signed then -(2 ^ (f.bits - 1)) else 0
def fmtHi (f : Fmt) : Int := if f.signed then 2 ^ (f.bits - 1) - 1 else 2 ^ f.bits - 1

/-- Sat of R100. -/
def satInt (v lo hi : Int) : Int := if v < lo then lo else if hi < v then hi else v

/-- The bits that WriteInt leaves in a register of 64 bits: the low n bits extended by the type's sign. -/
def intBits (f : Fmt) (sat : Bool) (v : Int) : DWord :=
  let v := if sat then satInt v (fmtLo f) (fmtHi f) else v
  BitVec.ofInt 64 (intOf f.bits f.signed (v % 2 ^ 64).toNat)

/-- WriteInt of R143: extended to the register, or the pair of a 64-bit type. -/
def Hart.writeInt (h : Hart) (d : Nat) (f : Fmt) (sat : Bool) (v : Int) : Hart :=
  if f.bits = 64 then h.setReg64 d (intBits f sat v) else h.setReg d (intBits f sat v)

/-- The n-bit pattern of a source. -/
def Hart.pattern (h : Hart) (x : Src) (f : Fmt) : Nat := (h.bitsOf x f).toNat % 2 ^ f.bits

/-- Write an n-bit pattern. -/
def Hart.writePattern (h : Hart) (d : Nat) (f : Fmt) (v : Nat) : Hart := h.writeInt d f false v

/-- A 32-bit result in one register, zero-extended in bobbin code. -/
def Hart.setWord (h : Hart) (d : Nat) (v : Nat) : Hart := h.setReg d (BitVec.ofNat 64 (v % 2 ^ 32))

/-- A source as an unsigned 32-bit value. -/
def Hart.word (h : Hart) (x : Src) : Nat := (h.src x).toNat % 2 ^ 32

/-- An index: unsigned 32 bits in thread code, 64 in bobbin code (R215). -/
def Hart.index (h : Hart) (x : Src) : Nat := (h.src x).toNat

end Sys2Proof.Machine
end

