-- ==== Sys2Proof/Machine/Float.lean ====
section
/-! DEFINITION. Floating-point and packed instructions 0x40 to 0x59 (R169 to R183). -/

namespace Sys2Proof.Machine

/-! ### Operands and results -/

/-- Element i of a packed pattern (R106). -/
def element (bits v i : Nat) : Nat := v / 2 ^ (bits * i) % 2 ^ bits

/-- Elements packed, element 0 lowest. -/
def packed (bits : Nat) : List Nat → Nat
  | [] => 0
  | v :: vs => v % 2 ^ bits + 2 ^ bits * packed bits vs

/-- ReadF of R172 on a pattern. -/
def readF (t : Fmt) (ftz : Bool) (v : Nat) : FVal := flushed t ftz (decodeF t (v % 2 ^ t.bits))

def Hart.readF (h : Hart) (x : Src) (t : Fmt) (ftz : Bool) : FVal := Sys2Proof.Machine.readF t ftz (h.word x)

/-- Write a result in the low bits of a register with zeros above, and gather its flags (R106, R114). -/
def Hart.writeF (h : Hart) (d : Reg) (r : Nat × FFlags) : Hart := { h.setWord d.toNat r.1 with fpstat := h.fpstat ||| r.2 }

/-- Deliver a value with the flags of its operation. -/
def resultF (t : Fmt) (d : Rnd) (v : FVal × FFlags) : Nat × FFlags :=
  let r := deliverF t d v.1
  (r.1, v.2 ||| r.2)

/-! ### The operations on patterns of one format -/

def faddBits (t : Fmt) (rm : Round) (ftz : Bool) (a b : Nat) : Nat × FFlags :=
  resultF t { mode := rm, ftz } (addF rm (readF t ftz a) (readF t ftz b))

def fsubBits (t : Fmt) (rm : Round) (ftz : Bool) (a b : Nat) : Nat × FFlags :=
  resultF t { mode := rm, ftz } (addF rm (readF t ftz a) (negF (readF t ftz b)))

def fmulBits (t : Fmt) (rm : Round) (ftz : Bool) (a b : Nat) : Nat × FFlags :=
  resultF t { mode := rm, ftz } (mulF (readF t ftz a) (readF t ftz b))

/-- 0 × infinity is invalid whatever c holds (R175). -/
def ffmaBits (t : Fmt) (rm : Round) (ftz : Bool) (a b c : Nat) : Nat × FFlags :=
  let p := mulF (readF t ftz a) (readF t ftz b)
  let v := addF rm p.1 (readF t ftz c)
  resultF t { mode := rm, ftz } (v.1, p.2 ||| v.2)

def fdivBits (t : Fmt) (rm : Round) (ftz : Bool) (a b : Nat) : Nat × FFlags :=
  resultF t { mode := rm, ftz } (divF (readF t ftz a) (readF t ftz b))

def fminBits (t : Fmt) (ftz max : Bool) (a b : Nat) : Nat × FFlags :=
  deliverF t {} (minmaxF max (readF t ftz a) (readF t ftz b))

/-- The conditions of R177: the result and the flags. -/
def fcmpBits (c : FCond) (t : Fmt) (ftz : Bool) (a b : Nat) : Bool × FFlags :=
  match compareF (readF t ftz a) (readF t ftz b) with
  | some d =>
    (match c with
      | .eq => d == 0
      | .ne => d != 0
      | .lt => decide (d < 0)
      | .le => decide (d ≤ 0)
      | .gt => decide (0 < d)
      | .ge => decide (0 ≤ d)
      | .un => false
      | .or => true, 0)
  | none =>
    match c with
    | .eq => (false, 0)
    | .ne => (true, 0)
    | .lt | .le | .gt | .ge => (false, FFlags.IV)
    | .un => (true, 0)
    | .or => (false, 0)

/-- The class bit of R178. -/
def fclassBits (t : Fmt) (a : Nat) : Nat :=
  match decodeF t (a % 2 ^ t.bits) with
  | .nan => 2 ^ 8
  | .inf neg => if neg then 2 ^ 0 else 2 ^ 7
  | .fin neg m _ =>
    if m = 0 then (if neg then 2 ^ 3 else 2 ^ 4)
    else if m < 2 ^ (Fmt.form t).fbits then (if neg then 2 ^ 2 else 2 ^ 5)
    else if neg then 2 ^ 1 else 2 ^ 6

/-! ### Scalar instructions -/

def fop2 (g : Guard) (d : Reg) (a b : Src) (t : Option Fmt) (f : Fmt → Nat → Nat → Nat × FFlags) (s : State) :
    Host.Outcome State Fault Refusal :=
  aluOp g (fun h => h.writeF d (f (t.getD .f32) (h.word a) (h.word b))) s

def execFadd (g : Guard) (d : Reg) (a b : Src) (t : Option Fmt) (rm : Round) (ftz : Bool) (s : State) : Host.Outcome State Fault Refusal :=
  fop2 g d a b t (fun t => faddBits t rm ftz) s

def execFsub (g : Guard) (d : Reg) (a b : Src) (t : Option Fmt) (rm : Round) (ftz : Bool) (s : State) : Host.Outcome State Fault Refusal :=
  fop2 g d a b t (fun t => fsubBits t rm ftz) s

def execFmul (g : Guard) (d : Reg) (a b : Src) (t : Option Fmt) (rm : Round) (ftz : Bool) (s : State) : Host.Outcome State Fault Refusal :=
  fop2 g d a b t (fun t => fmulBits t rm ftz) s

def execFfma (g : Guard) (d : Reg) (a b c : Src) (t : Option Fmt) (rm : Round) (ftz : Bool) (s : State) : Host.Outcome State Fault Refusal :=
  aluOp g (fun h => h.writeF d (ffmaBits (t.getD .f32) rm ftz (h.word a) (h.word b) (h.word c))) s

def execFmin (g : Guard) (d : Reg) (a b : Src) (t : Option Fmt) (ftz : Bool) (s : State) : Host.Outcome State Fault Refusal :=
  fop2 g d a b t (fun t => fminBits t ftz false) s

def execFmax (g : Guard) (d : Reg) (a b : Src) (t : Option Fmt) (ftz : Bool) (s : State) : Host.Outcome State Fault Refusal :=
  fop2 g d a b t (fun t => fminBits t ftz true) s

def execFcmp (g : Guard) (cond : FCond) (pd : BitVec 3) (a b : Src) (t : Option Fmt) (ftz : Bool) (s : State) :
    Host.Outcome State Fault Refusal :=
  aluOp g (fun h =>
    let r := fcmpBits cond (t.getD .f32) ftz (h.word a) (h.word b)
    { h.setPred pd r.1 with fpstat := h.fpstat ||| r.2 }) s

def execFclass (g : Guard) (d : Reg) (a : Src) (t : Option Fmt) (s : State) : Host.Outcome State Fault Refusal :=
  aluOp g (fun h => h.setWord d.toNat (fclassBits (t.getD .f32) (h.word a))) s

def execFdiv (g : Guard) (d : Reg) (a b : Src) (t : Option Fmt) (rm : Round) (ftz : Bool) (s : State) : Host.Outcome State Fault Refusal :=
  fop2 g d a b t (fun t => fdivBits t rm ftz) s

/-! ### Packed halves (R180, R181) -/

/-- Both elements by themselves, their flags gathered. -/
def halves (f : Nat → Nat × FFlags) : Nat × FFlags := (packed 16 [(f 0).1, (f 1).1], (f 0).2 ||| (f 1).2)

def hop2 (g : Guard) (d : Reg) (a b : Src) (t : Option Fmt) (f : Fmt → Nat → Nat → Nat × FFlags) (s : State) :
    Host.Outcome State Fault Refusal :=
  aluOp g (fun h => h.writeF d (halves fun i => f (t.getD .f16) (element 16 (h.word a) i) (element 16 (h.word b) i))) s

def execHadd2 (g : Guard) (d : Reg) (a b : Src) (t : Option Fmt) (rm : Round) (ftz : Bool) (s : State) : Host.Outcome State Fault Refusal :=
  hop2 g d a b t (fun t => faddBits t rm ftz) s

def execHmul2 (g : Guard) (d : Reg) (a b : Src) (t : Option Fmt) (rm : Round) (ftz : Bool) (s : State) : Host.Outcome State Fault Refusal :=
  hop2 g d a b t (fun t => fmulBits t rm ftz) s

def execHfma2 (g : Guard) (d : Reg) (a b c : Src) (t : Option Fmt) (rm : Round) (ftz : Bool) (s : State) : Host.Outcome State Fault Refusal :=
  aluOp g (fun h => h.writeF d (halves fun i =>
    ffmaBits (t.getD .f16) rm ftz (element 16 (h.word a) i) (element 16 (h.word b) i) (element 16 (h.word c) i))) s

def execHmin2 (g : Guard) (d : Reg) (a b : Src) (t : Option Fmt) (ftz : Bool) (s : State) : Host.Outcome State Fault Refusal :=
  hop2 g d a b t (fun t => fminBits t ftz false) s

def execHmax2 (g : Guard) (d : Reg) (a b : Src) (t : Option Fmt) (ftz : Bool) (s : State) : Host.Outcome State Fault Refusal :=
  hop2 g d a b t (fun t => fminBits t ftz true) s

/-- The second predicate is p(D + 1); p7 ignores it (R181). -/
def execHcmp2 (g : Guard) (cond : FCond) (pd : BitVec 3) (a b : Src) (t : Option Fmt) (ftz : Bool) (s : State) :
    Host.Outcome State Fault Refusal :=
  aluOp g (fun h =>
    let r := fun i => fcmpBits cond (t.getD .f16) ftz (element 16 (h.word a) i) (element 16 (h.word b) i)
    { (h.setPred pd (r 0).1).setPred (pd + 1) (r 1).1 with fpstat := h.fpstat ||| (r 0).2 ||| (r 1).2 }) s

/-! ### Dot products (R182) -/

/-- c plus the products, summed exactly (R182): a NaN operand first, then the invalid terms, of which every one is examined,
then the sum; an exact zero takes its sign from the terms. -/
def dotF (rm : Round) (c : FVal) (products : List (FVal × FFlags)) : FVal × FFlags :=
  let terms := c :: products.map Prod.fst
  if c = .nan || products.contains (.nan, 0) then (.nan, 0)
  else if terms.contains .nan || (terms.contains (.inf true) && terms.contains (.inf false)) then (.nan, FFlags.IV)
  else products.foldl (fun v p => addF rm v.1 p.1) (c, 0)

def dotBits (n : Nat) (t : Fmt) (rm : Round) (ftz : Bool) (a b c : Nat) : Nat × FFlags :=
  let products := (List.range n).map fun i => mulF (readF t ftz (element t.bits a i)) (readF t ftz (element t.bits b i))
  resultF .f32 { mode := rm, ftz } (dotF rm (readF .f32 ftz c) products)

/-- The integer form: c plus the products of the elements of the type's sign. -/
def dotInt (signed : Bool) (a b : Nat) (c : Int) : Int :=
  (List.range 4).foldl (fun v i => v + intOf 8 signed (element 8 a i) * intOf 8 signed (element 8 b i)) c

def execDot4 (g : Guard) (d : Reg) (a b c : Src) (t : Option Fmt) (rm : Round) (ftz sat : Bool) (s : State) : Host.Outcome State Fault Refusal :=
  aluOp g (fun h =>
    let T := t.getD .e4m3
    if T.isInt then
      let W : Fmt := if T.signed then .i32 else .n32
      h.writeInt d.toNat W sat (dotInt T.signed (h.word a) (h.word b) (h.readInt c W))
    else h.writeF d (dotBits 4 T rm ftz (h.word a) (h.word b) (h.word c))) s

def execDot2 (g : Guard) (d : Reg) (a b c : Src) (t : Option Fmt) (rm : Round) (ftz : Bool) (s : State) : Host.Outcome State Fault Refusal :=
  aluOp g (fun h => h.writeF d (dotBits 2 (t.getD .f16) rm ftz (h.word a) (h.word b) (h.word c))) s

/-! ### Packed bytes (R183) -/

def bytes4 (signed sat : Bool) (f : Int → Int → Int) (a b : Nat) : Nat :=
  let T : Fmt := if signed then .i8 else .n8
  packed 8 ((List.range 4).map fun i =>
    let v := f (intOf 8 signed (element 8 a i)) (intOf 8 signed (element 8 b i))
    ((if sat then satInt v (fmtLo T) (fmtHi T) else v) % 256).toNat)

def vop4 (g : Guard) (d : Reg) (a b : Src) (t : Option Fmt) (sat : Bool) (f : Int → Int → Int) (s : State) :
    Host.Outcome State Fault Refusal :=
  aluOp g (fun h => h.setWord d.toNat (bytes4 (t.getD .n8).signed sat f (h.word a) (h.word b))) s

def execVadd4 (g : Guard) (d : Reg) (a b : Src) (t : Option Fmt) (sat : Bool) (s : State) : Host.Outcome State Fault Refusal :=
  vop4 g d a b t sat (fun a b => a + b) s

def execVsub4 (g : Guard) (d : Reg) (a b : Src) (t : Option Fmt) (sat : Bool) (s : State) : Host.Outcome State Fault Refusal :=
  vop4 g d a b t sat (fun a b => a - b) s

end Sys2Proof.Machine
end

