-- ==== Sys2Proof/Machine/Count.lean ====
section
/-! DEFINITION. Counters and energy (R503 to R511): what an event adds, in the cycle of its event. -/

namespace Sys2Proof.Machine

/-- A counter word after an event adds n (R504). -/
def counterAdd (v : DWord) (n : Nat) : DWord :=
  if v.getLsbD 48 then v
  else if field v 0 48 + n < 2 ^ 48 then BitVec.ofNat 64 (field v 0 48 + n) else BitVec.ofNat 64 (2 ^ 49 - 1)

/-- A write of a counter word (R504). -/
def counterWritten (v : DWord) : DWord :=
  if v.getLsbD 48 then BitVec.ofNat 64 (2 ^ 49 - 1) else BitVec.ofNat 64 (field v 0 48)

/-- A slot-scope counter word; absent words are 0 (R505). -/
def Slot.word (q : Slot) (n : Nat) : DWord := (q.bank.get? n).getD 0

def Slot.addPending (q : Slot) (n amount : Nat) : Slot :=
  if q.frozen then q else { q with pending := q.pending.set n ((q.pending.get? n).getD 0 + amount) }

/-- Add to a word of the bank of a context on a core; with no slot there, or a frozen bank, nothing counts (R506, R514). -/
def State.count (s : State) (core ctx n amount : Nat) : State :=
  match s.slotOf? core ctx with
  | none => s
  | some (k, _) => s.modSlot core k fun q => q.addPending n amount

/-- What event `code` adds under GCFG word c, for lanes at user and at system privilege (R507). -/
def gcfgAdds (c : DWord) (code : Nat) (perIssue : Bool) (user system amount : Nat) : Nat :=
  if field c 0 8 == code && c.getLsbD 8 then
    let lanes := (if c.getLsbD 9 then user else 0) + (if c.getLsbD 10 then system else 0)
    if lanes = 0 then 0 else if perIssue then (if c.getLsbD 11 then lanes else 1) else amount
  else 0

/-- A programmable event of a slot: GC words count it by their GCFG words (R507). -/
def Slot.event (q : Slot) (code : Nat) (perIssue : Bool) (user system amount : Nat) : Slot :=
  (List.range 16).foldl (fun q i =>
    let n := gcfgAdds (q.word (0x20 + i)) code perIssue user system amount
    if n = 0 then q else q.addPending i n) q

/-- An event that is not per issue, of a lane at the given privilege. -/
def State.event (s : State) (core ctx code amount : Nat) (system : Bool := false) : State :=
  match s.slotOf? core ctx with
  | none => s
  | some (k, _) => s.modSlot core k fun q => q.event code false (if system then 0 else 1) (if system then 1 else 0) amount

/-- Table 0 of firmware (R509). -/
def weights0 : List Nat := [2, 4, 4, 12, 3, 3, 1, 6, 15, 1600, 2600, 240, 180, 1300, 600, 1200]

/-- Weight w of table t on a core (R503, R509); tables 1 to 15 hold table 0's weights until written (log 2). -/
def Core.weight (k : Core) (t w : Nat) : Nat :=
  match k.ewt.get? (0x80 + 4 * t + w / 4) with
  | some v => field v (16 * (w % 4)) 16
  | none => weights0.getD w 0

/-- The energy class of a launch (R418), which outlives it for what it started (R509, R510). -/
def State.eclass (s : State) (launch : Word) : Nat :=
  match s.launches.get? launch.toNat with
  | some l => field l.ctl 19 4
  | none => (s.eclasses.get? launch.toNat).getD 0

/-- Charge n units of a class to a context on a core, or to EUNA where it holds no slot (R506, R510). -/
def State.charge (s : State) (core ctx : Nat) (launch : Word) (cls n : Nat) : State :=
  let e := (s.core core).weight (s.eclass launch) cls * n
  match s.slotOf? core ctx with
  | none => s.modCore core fun k => { k with eunaPending := k.eunaPending + e }
  | some (k, _) => s.modSlot core k fun q => q.addPending 0x1E e

/-! ### Trace records (R521) -/

def traceBody (kind wslot plane arg ovl ord : Nat) : List Byte :=
  [BitVec.ofNat 8 kind, BitVec.ofNat 8 wslot, BitVec.ofNat 8 plane, BitVec.ofNat 8 arg] ++ bytesOfNat 2 ovl ++ bytesOfNat 2 ord

/-- Does the trace unit of a slot make records of a kind for an overlay (R514, R518)? -/
def Slot.traces (q : Slot) (kind ovl : Nat) : Bool :=
  let c := q.word 0x32
  !q.frozen && c.getLsbD 0 && c.getLsbD (7 + kind) && (field c 16 16 == 0xFFFF || field c 16 16 == ovl)

/-- A record enters the queue of 32; a full queue loses it. -/
def Slot.enqueue (q : Slot) (body : List Byte) : Slot :=
  if q.trace.queue.length < 32 then { q with trace := { q.trace with queue := q.trace.queue ++ [body] } }
  else { q with trace := { q.trace with lost := q.trace.lost + 1 } }.addPending 0x36 1

/-- Make a trace record; the first after a loss follows a LOST record. -/
def Slot.traceRec (q : Slot) (kind wslot plane arg ovl ord : Nat) : Slot :=
  if !q.traces kind ovl then q
  else
    let q :=
      if q.trace.lost != 0 && decide (q.trace.queue.length < 32) then
        let lost := traceBody 8 0 0 (Nat.min q.trace.lost 255) 0 0
        { q with trace := { q.trace with
            lost := 0, queue := if (q.word 0x32).getLsbD 15 then q.trace.queue ++ [lost] else q.trace.queue } }
      else q
    q.enqueue (traceBody kind wslot plane arg ovl ord)

def State.trace (s : State) (core ctx kind wslot plane arg : Nat) (ovl ord : BitVec 16) : State :=
  match s.slotOf? core ctx with
  | none => s
  | some (k, _) => s.modSlot core k fun q => q.traceRec kind wslot plane arg ovl.toNat ord.toNat

end Sys2Proof.Machine
end

