-- ==== Sys2Proof/Machine/Translate.lean ====
section
/-! DEFINITION. Home maps, frame tables and the home-map TLB (R448 to R455), and the device's own reads and writes by virtual
address. -/

namespace Sys2Proof.Machine

/-- A leaf of a home map (R450). -/
structure Leaf where
  sz : Nat
  ro : Bool
  home : Nat
deriving DecidableEq, Repr

/-- Bytes of a page by its SZ code. -/
def pageBytes (sz : Nat) : Nat := if sz = 0 then 4096 else if sz = 1 then 65536 else if sz = 2 then 2 ^ 21 else 2 ^ 30

def tableEntry (m : List Host.Cell) (base idx : Nat) : DWord := BitVec.ofNat 64 (Memory.getNat m (base + 8 * idx) 8)

/-- Bits [35:8] of an entry as a device physical address. -/
def entryNext (e : DWord) : Nat := field e 8 28 * 4096

/-- May a leaf with this SZ stand at the level (R450)? -/
def levelSize (level sz : Nat) : Bool := (level == 2 && sz == 3) || (level == 3 && sz == 2) || (level == 4 && (sz == 0 || sz == 1))

/-- The entry at which a radix walk ends: a valid leaf of the right size with its level and the address of its entry, or none
(R449, R451). `ok` holds an entry against the reserved bits. -/
def radixWalk (m : List Host.Cell) (ok : DWord → Bool) (va : Nat) : List (Nat × Nat) → Nat → Option (DWord × Nat × Nat)
  | [], _ => none
  | (level, shift) :: rest, base =>
    let idx := va / 2 ^ shift % 512
    let e := tableEntry m base idx
    if !(e.getLsbD 0) || !(ok e) then none
    else if e.getLsbD 1 then
      let sz := field e 2 2
      if levelSize level sz && (sz != 1 || tableEntry m base (idx / 16 * 16) == e) then some (e, level, base + 8 * idx) else none
    else radixWalk m ok va rest (entryNext e)

def radixLevels : List (Nat × Nat) := [(1, 39), (2, 30), (3, 21), (4, 12)]

/-- A radix walk reads a poisoned entry (R470). -/
def radixPoison (m : List Host.Cell) (bad : Nat → Bool) (va : Nat) : List (Nat × Nat) → Nat → Bool
  | [], _ => false
  | (_, shift) :: rest, base =>
    let idx := va / 2 ^ shift % 512
    let e := tableEntry m base idx
    bad (base + 8 * idx) || (e.getLsbD 0 && (if e.getLsbD 1 then field e 2 2 == 1 && bad (base + 8 * (idx / 16 * 16))
      else radixPoison m bad va rest (entryNext e)))

/-- The sector of a byte of HBM is poisoned (R471). -/
def State.sectorBad (s : State) (dpa : Nat) : Bool := s.poison.contains (dpa / 32 * 32)

/-- Reserved bits of a home-map entry (R450). DESIGN CHOICE (log 71): bits [35:28] of a leaf, which are neither HOME nor listed as
reserved, are ignored. -/
def homeEntryOk (e : DWord) : Bool := field e 5 3 == 0 && field e 36 28 == 0

/-- Reserved bits of a frame-table entry (R454). -/
def frameEntryOk (e : DWord) : Bool := field e 6 2 == 0 && field e 36 28 == 0

/-- The root of a context's home map: HMAP[39:12] (R449). The spec does not say how the device finds the map before the first
launch record of the context has been read: a value it leaves open. -/
def State.hmapRoot (s : State) (ctx : Nat) : Nat := field ((s.hmaps.get? ctx).getD (Config.homeMapRoot ctx)) 12 28 * 4096

/-- The walk of the home map meets poison (R470). -/
def State.homePoison (s : State) (ctx va : Nat) : Bool :=
  !s.poison.isEmpty && radixPoison s.mem s.sectorBad va radixLevels (s.hmapRoot ctx)

/-- The leaf of the home map that covers an address; none raises HOME_MAP_MISS (R451), or ECC_UNCORRECTED where the walk has met
poison. -/
def State.homeLeaf (s : State) (ctx va : Nat) : Option Leaf :=
  if s.homePoison ctx va then none
  else (radixWalk s.mem homeEntryOk va radixLevels (s.hmapRoot ctx)).map fun (e, _, _) => ⟨field e 2 2, e.getLsbD 4, field e 8 20⟩

/-- What an address without a leaf raises. -/
def State.missCause (s : State) (ctx va : Nat) : Cause := if s.homePoison ctx va then .eccUncorrected else .homeMapMiss

/-- The near channel of a core as device physical addresses (R448). -/
def nearBase (core : Nat) : Nat := core * 2 ^ 32

/-- Where the frame-table directory of a core lies (R454). -/
def frameDir (core : Nat) : Nat := nearBase core + Config.frameDirectory % 2 ^ 31

/-- Root of a context's frame table on a core (R454). -/
def State.frameRoot (s : State) (core ctx : Nat) : Option Nat :=
  let e := tableEntry s.mem (frameDir core) ctx
  if e.getLsbD 0 then some (entryNext e) else none

/-- The leaf of a frame table: entry and its address. -/
def State.frameLeaf (s : State) (core ctx va : Nat) : Option (DWord × Nat) :=
  (s.frameRoot core ctx).bind fun root => (radixWalk s.mem frameEntryOk va radixLevels root).map fun (e, _, a) => (e, a)

/-- The walk of a frame table meets poison (R470). -/
def State.framePoison (s : State) (core ctx va : Nat) : Bool :=
  !s.poison.isEmpty && (s.sectorBad (frameDir core + 8 * ctx)
    || ((s.frameRoot core ctx).map fun root => radixPoison s.mem s.sectorBad va radixLevels root).getD false)

/-- Outcome of the home's check of an access (R455). -/
inductive HomeCheck where
  | ok (dpa : Nat)
  | fault (c : Cause)
  | moving
deriving DecidableEq, Repr

/-- The core on this chip that a home identifier names. -/
def coreOfHome (home : Nat) : Nat := home % 256

/-- Does a home identifier name a core of this chip (R18)? -/
def State.onChip (s : State) (home : Nat) : Bool := home / 256 == s.bar.chipid

/-- A move of the page of an address. -/
def Move.covers (m : Move) (ctx va : Nat) : Bool := m.ctx == ctx && decide (m.va ≤ va) && decide (va < m.va + m.size)

/-- A forwarded access that has not performed: a packet by its number; a thread by its name, on its way, in a store, standing at
its safe point, or still where the old home held it. -/
def State.standing (s : State) (i : Nat) : Bool :=
  s.packets.any (fun q => q.id == i || (match q.body with
    | .needle n => n.tid == i
    | _ => false))
  || s.cores.any (fun e => (e.2.store ++ e.2.spill).any fun a => a.needle.tid == i)
  || s.cores.any (fun e => e.2.waves.any fun w => w.2.lanes.any fun l => l.2.tid == i && (l.2.arrived || l.2.moved))
  || s.cores.any fun e => e.2.slots.any fun q => q.2.bobbin.tid == i && q.2.bobbin.moved

/-- A page whose new home has not yet performed the accesses that the old home forwarded: others wait (R460). -/
def State.forwardedFirst (s : State) (ctx va home : Nat) : Bool :=
  s.moves.any fun m => m.covers ctx va && m.new == home && m.forwarded.any s.standing

/-- The first of the accesses that an old home has forwarded for the page of an address, by its number or name: it goes on (R460). -/
def State.firstForwarded (s : State) (i ctx va : Nat) : Bool :=
  s.moves.any fun m => m.covers ctx va && m.forwarded.find? s.standing == some i

/-- An access of a thread is held since a page moves: its own page, or, where it names none, one of the context (R460). -/
def State.pageHeld (s : State) (tid ctx : Nat) (va : Option Nat) : Bool :=
  s.moves.any fun m => m.ctx == ctx && ((va.map fun a => m.covers ctx a).getD true)
    && (!m.transferred || ((m.forwarded.find? s.standing).map fun i => i != tid).getD false)

/-- The engine command that is being carried out had registered its range of a page before the page began to move: the old home
still serves it, since the transfer waits for the range (R460, step 2). -/
def State.servedFirst (s : State) (ctx va : Nat) : Bool :=
  match s.cur.command with
  | none => false
  | some id => s.ranges.any fun g => g.cmd == id && g.core.isNone && g.ctx == ctx && decide (g.lo ≤ va / 64) && decide (va / 64 ≤ g.hi)
      && s.moves.any fun m => m.ctx == ctx && !m.transferred && decide (g.since ≤ m.id) && decide (m.va ≤ va) && decide (va < m.va + m.size)

/-- The frame check of R455 at the home named by a leaf; a core whose channels are retired takes no new page (R463). A home on
another chip makes its check there: here the access waits for an answer that another processor sends (log 62). DESIGN CHOICE (log
71): a page that moves holds a write before its protection is looked at. -/
def State.homeCheck (s : State) (ctx va : Nat) (write : Bool) (leaf : Leaf) : HomeCheck :=
  let core := coreOfHome leaf.home
  if !s.onChip leaf.home then .moving
  else if s.framePoison core ctx va then .fault .eccUncorrected
  else
  match s.frameLeaf core ctx va with
  | none => .fault (if (s.core core).retiring || (s.core core).retired then .homeMapMiss else .pageNotPresent)
  | some (e, _) =>
    let frame := field e 8 28 * 4096
    if field e 2 2 != leaf.sz || frame / 2 ^ 32 != core then .fault .pageNotPresent
    else if (e.getLsbD 5 && !s.servedFirst ctx va) || s.forwardedFirst ctx va leaf.home then .moving
    else if write && (leaf.ro || !(e.getLsbD 4)) then .fault .pageProtection
    else .ok (frame / pageBytes leaf.sz * pageBytes leaf.sz + va % pageBytes leaf.sz)

/-- An address translated for the device itself: home map, then frame table. -/
def State.translate (s : State) (ctx va : Nat) (write : Bool) : HomeCheck :=
  match s.homeLeaf ctx va with
  | none => .fault (s.missCause ctx va)
  | some l => s.homeCheck ctx va write l

/-- Why an access of the device itself does not go on: a fault at an address, or a page that moves. -/
inductive MemStop where
  | fault (c : Cause) (va : Nat)
  | moving
deriving DecidableEq, Repr

/-- Bytes read from memory only by virtual address. -/
def State.readVa (s : State) (ctx va : Nat) : Nat → Except MemStop (List Byte)
  | 0 => .ok []
  | n + 1 =>
    match s.translate ctx (va % 2 ^ 48) false with
    | .ok dpa =>
      if s.sectorBad dpa then .error (.fault .eccUncorrected va)
      else
        match s.readVa ctx (va + 1) n with
        | .ok bs => .ok (Memory.get s.mem dpa :: bs)
        | .error e => .error e
    | .fault c => .error (.fault c va)
    | .moving => .error .moving

/-- Bytes of a page that holds an address, for the joining of faults (R458): the leaf's, or 4 KiB where there is none. -/
def State.pageOf (s : State) (ctx va : Nat) : Nat :=
  let b := ((s.homeLeaf ctx va).map fun l => pageBytes l.sz).getD 4096
  va / b * b

/-! ### The home-map TLB (R452, R453) -/

/-- The L1 set of an address for a launch (R453). -/
def Core.l1Set (k : Core) (key va : Nat) : Nat :=
  let n := k.resident.length
  let p := if n ≤ 1 then 16 else if 16 < n then 1 else 16 / 2 ^ clog2 n
  let i := (k.resident.findIdx? (· == key)).getD 0
  let g := va / 2 ^ 21
  p * (i % (16 / p)) + (Nat.xor (g % 16) (g / 16 % 16)) % p

def l2Set (va : Nat) : Nat := Nat.xor (va / 2 ^ 21 % 512) (va / 2 ^ 12 % 512)

def TlbEntry.covers (e : TlbEntry) (set ctx va : Nat) : Bool :=
  e.set == set && e.ctx == ctx && decide (e.base ≤ va) && decide (va < e.base + pageBytes e.size)

/-- Fill an entry into its set; a full set loses a member that nothing in the spec names: a free choice. -/
def tlbFill (l : List TlbEntry) (ways : Nat) (e : TlbEntry) (pick : Nat) : List TlbEntry :=
  let inSet := l.filter fun x => x.set == e.set
  if inSet.length < ways then l ++ [e]
  else
    match inSet[pick % ways]? with
    | none => l ++ [e]
    | some v => l.filter (· != v) ++ [e]

/-- The leaf that a core's TLB gives for an address, walking the home map on a miss in both levels; the second answer says
whether the L1 missed. -/
def State.tlbLookup (s : State) (core ctx key va : Nat) : Option Leaf × Bool × State :=
  let k := s.core core
  let set1 := k.l1Set key va
  let set2 := l2Set va
  match k.l1.find? fun e => e.covers set1 ctx va with
  | some e => (some ⟨e.size, e.ro, e.home⟩, false, s)
  | none =>
    let found : Option (Leaf × Bool) := match k.l2.find? fun e => e.covers set2 ctx va with
      | some e => some (⟨e.size, e.ro, e.home⟩, false)
      | none => (s.homeLeaf ctx va).map fun l => (l, true)
    match found with
    | none => (none, true, s)
    | some (l, walked) =>
      let e : TlbEntry := ⟨set1, ctx, va / pageBytes l.sz * pageBytes l.sz, l.sz, l.ro, l.home⟩
      let pick := Config.choice s.free
      let s := s.modCore core fun k => { k with
        l1 := tlbFill k.l1 16 e pick
        l2 := if walked then tlbFill k.l2 8 { e with set := set2 } (pick / 16) else k.l2 }
      (some l, true, s.spend)

/-- Drop a core's entries for a page (R461). -/
def Core.tlbDrop (k : Core) (ctx base bytes : Nat) : Core :=
  let keep := fun e : TlbEntry => !(e.ctx == ctx && decide (e.base < base + bytes) && decide (base < e.base + pageBytes e.size))
  { k with l1 := k.l1.filter keep, l2 := k.l2.filter keep }

end Sys2Proof.Machine
end

