-- ==== Sys2Proof/Machine/Ops.lean ====
section
/-! DEFINITION. The named operations of the machine: instruction memory, packets, lines that change, records, seams,
transactions' ends, threads' ends, and taking an exception as one operation. -/

namespace Sys2Proof.Machine

/-! ### Instruction memory (R72 to R80) -/

def Core.overlay? (k : Core) (ctx : Nat) (ovl : BitVec 16) : Option (Nat × OverlaySlot) :=
  k.imem.find? fun e => e.2.ctx == ctx && e.2.ovl == ovl

/-- A word of an installed image. -/
def State.imemWord (s : State) (core slot off : Nat) : Nat := Memory.getNat s.mem (imemKey core slot off) 4

/-- What a transfer to a PC meets (R72, R75, R79). -/
inductive Target where
  | ok | bad | miss
deriving DecidableEq, Repr

/-- The offset lies in the code and the clause map marks it (R74, R75). -/
def State.headerAt (s : State) (core slot off : Nat) : Bool :=
  off % 4 == 0 && decide (0x40 ≤ off) && decide (off + 4 ≤ s.imemWord core slot 8)
    && (Memory.get s.mem (imemKey core slot (s.imemWord core slot 0x0C + off / 32))).getLsbD (off / 4 % 8)

def State.target (s : State) (core ctx : Nat) (pc : Word) : Target :=
  if ovlOf pc = 0xFFFF then .bad
  else
    match (s.core core).overlay? ctx (ovlOf pc) with
    | none => .miss
    | some (n, _) => if s.headerAt core n (offOf pc) then .ok else .bad

/-- The safe-point entry of an offset: ordinal and live map (R76). -/
def State.safeEntryAt (s : State) (core slot off : Nat) : Option (BitVec 16 × DWord) :=
  let base := s.imemWord core slot 0x10
  let n := Nat.min (s.imemWord core slot 0x14) 4096
  ((List.range n).find? fun i => Memory.getNat s.mem (imemKey core slot (base + 16 * i)) 2 == off).map fun i =>
    (BitVec.ofNat 16 (Memory.getNat s.mem (imemKey core slot (base + 16 * i + 2)) 2),
      BitVec.ofNat 64 (Memory.getNat s.mem (imemKey core slot (base + 16 * i + 8)) 8))

/-- The safe-point entry of a PC, and whether the STOP bit of its position is set. -/
def State.safePoint (s : State) (core ctx : Nat) (pc clause : Word) (pos : Nat) : Bool × Option (BitVec 16 × DWord) :=
  match (s.core core).overlay? ctx (ovlOf pc) with
  | none => (false, none)
  | some (n, _) =>
    ((BitVec.ofNat 32 (s.imemWord core n (offOf clause))).getLsbD (25 + pos) && !(pc == clause), s.safeEntryAt core n (offOf pc))

/-! ### What a thread's launch gives it (R419) -/

def State.launch? (s : State) (key : Word) : Option Launch := s.launches.get? key.toNat

/-- Group width W (R418). -/
def Launch.width (l : Launch) : Nat := 8 * 2 ^ field l.ctl 1 2
/-- Allotment (R418). -/
def Launch.allot (l : Launch) : Nat := 16 * (field l.ctl 3 2 + 1)
/-- Declared levels N. -/
def Launch.nlev (l : Launch) : Nat := field l.ctl 5 3 + 1
def Launch.roving (l : Launch) : Bool := l.ctl.getLsbD 0
def Launch.prio (l : Launch) : Nat := field l.ctl 16 3
def Launch.count (l : Launch) (n : Nat) : Nat := field (l.levels.getD n 0) 0 32
/-- S_n of R419: threads of a level-n group. -/
def Launch.span (l : Launch) (n : Nat) : Nat := ((List.range l.nlev).filter (n < ·)).foldl (fun a i => a * l.count i) 1
/-- The party level, or none when the party is the whole launch (R419). -/
def Launch.party? (l : Launch) : Option Nat :=
  if l.ctl.getLsbD 11 then some (field l.ctl 8 3) else if l.nlev = 1 then none else some (l.nlev - 2)
def Launch.groupAt (l : Launch) (ordinal n : Nat) : Nat := ordinal / l.span n
/-- PARTY of an ordinal (R419). -/
def Launch.party (l : Launch) (ordinal : Nat) : Word :=
  l.pbase + BitVec.ofNat 32 (match l.party? with | none => 0 | some p => l.groupAt ordinal p)

def State.widthOf (s : State) (h : Hart) : Nat := ((s.launch? h.launch).map Launch.width).getD 64
def State.allotOf (s : State) (h : Hart) : Nat := if h.isBobbin then 32 else ((s.launch? h.launch).map Launch.allot).getD 64
def State.partyOf (s : State) (h : Hart) : Word := ((s.launch? h.launch).map fun l => l.party h.ordinal.toNat).getD 0
/-- A pinned thread; a bobbin accesses memory as one does (R31, R240); a thread started by SPAWN is roving (R38). -/
def State.pinned (s : State) (h : Hart) : Bool := h.isBobbin || !(h.spwn || ((s.launch? h.launch).map Launch.roving).getD false)

/-- Logical lane: 0 for a thread started by SPAWN (R140). -/
def State.laneOf (s : State) (h : Hart) : Nat := if h.spwn then 0 else h.ordinal.toNat % s.widthOf h
/-- The fragment a thread belongs to in its wave (R218). -/
def State.fragOf (s : State) (h : Hart) : Nat := if h.spwn then 2 ^ 32 + h.tid else h.ordinal.toNat / s.widthOf h

/-- An entry of the slack table that a thread's slot holds (R488). -/
def State.slackClass (s : State) (r : Ref) (sl : BitVec 3) : BitVec 12 :=
  ((s.slotFor? r).map fun q => q.slackTab.toList.getD sl.toNat 0).getD 0

/-! ### Packets (R441 to R444) -/

/-- Send a packet: to its own core it arrives at once, to another it goes to the injection port. One created at slack 0 is overdue
and counts (R444). -/
def State.send (s : State) (src home ctx : Nat) (launch : Word) (slack : BitVec 12) (sx : Bool) (vn bytes : Nat) (body : Body) : State :=
  let place := if home == s.homeId src then Place.arrived else .source src
  let p : Packet :=
    { id := s.next, ctx, launch, src := s.homeId src, home, slack, ovd := slack == 0, sx, bytes, vn, place, since := s.next, body }
  let s := { s with packets := s.packets ++ [p], next := s.next + 1 }
  if slack = 0 then s.count src ctx 0x1D 1 else s

def State.packet? (s : State) (id : Nat) : Option Packet := s.packets.find? fun p => p.id == id && p.place == .arrived
def State.dropPacket (s : State) (id : Nat) : State := { s with packets := s.packets.filter fun p => p.id != id }

/-- The flag that governs the position counts one more result of a lane (R63). -/
def State.raiseFlag (s : State) (r : Ref) : State :=
  match s.cur.flag with
  | none => s
  | some f => s.modHart r fun h => h.setDone f (h.doneCount f + 1)

/-- A long-latency result: the flag counts up (R63), and the result is on its way. -/
def State.launchResult (s : State) (r : Ref) (flag : Option Nat) (writes : List (Nat × DWord)) (poison : DWord := 0)
    (twin : Option (Nat × Nat × Word × Nat) := none) : State :=
  let s := match flag with
    | none => s
    | some f => s.modHart r fun h => h.setDone f (h.doneCount f + 1)
  s.send r.core (s.homeId r.core) (s.ctxOf r) 0 0xFFF false 1 32 (.result { ref := r, writes, flag, poison, sample := s.cur.sample, twin })

/-! ### Trace records of a lane -/

/-- Where a hart stands in its wave, for trace records. -/
def Ref.wslot (r : Ref) : Nat := match r.agent with | .wave w _ => w | .bobbin _ => 64
def Ref.plane (r : Ref) : Nat := match r.agent with | .wave _ l => l | .bobbin _ => 0

/-- The ordinal of the safe point that a hart stands at, for records. -/
def State.ordOf (s : State) (r : Ref) (h : Hart) : BitVec 16 :=
  ((s.safePoint r.core (s.ctxOf r) h.pc h.clause h.pos).2.map Prod.fst).getD 0

/-- A trace record of a lane where it stands (R521). -/
def State.traceLane (s : State) (r : Ref) (h : Hart) (kind arg : Nat) : State :=
  s.trace r.core (s.ctxOf r) kind r.wslot r.plane arg (ovlOf h.pc) (s.ordOf r h)

/-! ### Lines that change (R311, R354, R355) -/

/-- Bit of the overflow filter for a line (R355). -/
def Line.hash (l : Line) : Nat := Nat.xor (Nat.xor l.line (l.line / 2 ^ 11)) (l.kind * 2 ^ 8) % 2048

/-- The core that holds a line: whose own storage it is, or that coordinates its phase object or launch (R354, R420); none for a line
of the die scratchpad. -/
def Line.core? (l : Line) : Option Nat :=
  let a := l.phys * 64
  if l.kind = 5 then some ((l.phys - shuttleLine 0 0) / 4)
  else if l.kind = 6 || l.kind = 7 then some (l.phys % 256)
  else if a < 2 ^ 40 then some (a / 2 ^ 32)
  else if a / 2 ^ 48 = 2 then some (a % 2 ^ 48 / 2 ^ 37)
  else if a / 2 ^ 48 = 3 then some (a % 2 ^ 48 / 2 ^ 20)
  else none

def TxCause.code : TxCause → Nat
  | .none => 0 | .conflict => 1 | .capacity => 2 | .nonlocal => 3 | .explicit => 4 | .woken => 5 | .preempted => 6 | .fault => 7
  | .nesting => 8

/-- An attempt ends: its sets are empty and DEPTH is 0; the age stays after CONFLICT, CAPACITY, WOKEN and PREEMPTED (R347,
R350). -/
def Tx.ended (t : Tx) (c : TxCause) (code : BitVec 8) : Tx :=
  let age := match c with
    | .conflict | .capacity | .woken | .preempted => t.age
    | _ => none
  { t with depth := 0, alts := [], elses := 0, reads := [], writes := [], cause := c, code, age }

/-- An abort: the lane goes on at the abort target, and at the outermost TXOPEN under WOKEN and PREEMPTED (R347, R349). -/
def Hart.abort (h : Hart) (c : TxCause) (code : BitVec 8) : Hart :=
  let h' := { h with tx := h.tx.ended c code, status := .running, rep := none }
  match c with
  | .woken | .preempted => { h' with pc := h.tx.openPc, clause := h.tx.openClause, pos := h.tx.openPos, entered := true }
  | _ => h'.enter h.tx.target

/-- Abort a lane's attempt; TXAB counts it (R503). -/
def State.txAbort (s : State) (r : Ref) (c : TxCause) (code : BitVec 8) : State :=
  (s.modHart r fun h => h.abort c code).count r.core (s.ctxOf r) (0x14 + c.code) 1

/-- A woken lane: back to its blocking instruction, or to the TXOPEN after TXRETRY (R44, R349). -/
def State.wakeLane (s : State) (r : Ref) : State :=
  match s.hart? r with
  | none => s
  | some h => if h.tx.depth = 0 then s.modHart r fun h => { h with status := .running } else s.txAbort r .woken 0

/-- Remove the entries of sets; the filter clears when no filter-watched set remains (R355). -/
def Core.dropSets (k : Core) (sets : List Nat) : Core :=
  let watched := k.watched.filter fun w => !sets.contains w.1
  { k with wakes := k.wakes.filter (fun e => !sets.contains e.set), watched, filter := if watched.isEmpty then [] else k.filter }

/-- The lanes of a core asleep in one of the sets. -/
def State.sleepers (s : State) (core : Nat) (sets : List Nat) : List Ref :=
  let asleep := fun h : Hart => match h.status with | .asleep n => sets.contains n | _ => false
  ((s.core core).waves.flatMap fun (w, v) => (v.lanes.filter fun e => asleep e.2).map fun (l, h) => ⟨core, .wave w l, h.tid⟩)
    ++ (((s.core core).slots.filter fun e => asleep e.2.bobbin).map fun (n, q) => ⟨core, .bobbin n, q.bobbin.tid⟩)

/-- A sleeper set wakes; `filter` says that the overflow filter woke it. -/
def State.wakeSet (s : State) (core set : Nat) (filter : Bool) : State :=
  match s.sleepers core [set] with
  | [] => s
  | r :: rs =>
    match s.hart? r with
    | none => s
    | some h =>
      let s := s.traceLane r h 7 rs.length
      let s := if filter then s.event core (s.ctxOf r) 0x13 1 h.tstate.priv else s
      (r :: rs).foldl (fun s r => s.wakeLane r) s

def State.wakeSets (s : State) (core : Nat) (sets : List Nat) (direct : List Nat) : State :=
  sets.eraseDups.foldl (fun s n => s.wakeSet core n (!direct.contains n)) (s.modCore core fun k => k.dropSets sets)

/-- Sets registered for a line. -/
def Core.directSets (k : Core) (l : Line) : List Nat := (k.wakes.filter fun e => e.line.phys == l.phys).map Wake.set

/-- Sets of a core that a change of a line wakes: those registered for it, and the filter-watched ones when the line's bit is
set or the line is one of theirs. A write by device physical address (KIND 15) has no LINE: it counts as a set bit, a spurious
wake that R355 permits (log 61). -/
def Core.setsFor (k : Core) (l : Line) : List Nat :=
  let direct := k.directSets l
  let viaFilter := if k.filter.contains l.hash || (l.kind == 15 && !k.filter.isEmpty) || k.watched.any (fun w => w.2.phys == l.phys) then k.watched.map Prod.fst else []
  direct ++ viaFilter

/-- A core learns that a line has changed. -/
def State.lineNotice (s : State) (core : Nat) (l : Line) : State :=
  let sets := (s.core core).setsFor l
  if sets.isEmpty then s else s.wakeSets core sets ((s.core core).directSets l)

/-- A write has performed on a line: sleepers of the core that holds it wake at once, the others by a change notice. DESIGN CHOICE
(log 71): a notice has no deadline, as R442 gives its packet no class. -/
def State.lineChanged (s : State) (l : Line) : State :=
  let others := s.cores.filter fun e => l.core? != some e.1 && !(e.2.setsFor l).isEmpty
  let s := match l.core? with
    | some c => s.lineNotice c l
    | none => s
  others.foldl (fun s e => s.send (l.core?.getD e.1) (s.homeId e.1) l.ctx 0 0xFFF false 0 32 (.notice l)) s

/-- Lanes inside an attempt that read or wrote a line; a sleeper is not one, it wakes (R349). -/
def State.attemptsOn (s : State) (phys : Nat) (reads : Bool) : List (Ref × Hart) :=
  s.refs.filterMap fun r =>
    match s.hart? r with
    | none => none
    | some h =>
      let asleep := match h.status with | .asleep _ => true | _ => false
      if h.tx.depth != 0 && !asleep
        && (h.tx.writes.any (fun w => w.line.phys == phys) || (reads && h.tx.reads.any fun l => l.phys == phys)) then some (r, h) else none

/-- A write that is not the attempt's own aborts every attempt on the line before it performs (R346). -/
def State.conflicts (s : State) (phys : Nat) (own : Nat) : State :=
  (s.attemptsOn phys true).foldl (fun s (r, h) => if h.tid = own then s else s.txAbort r .conflict 0) s

/-- The poison granule of a byte: 32-byte sectors of HBM, 4-byte words elsewhere (R470). -/
def granule (key : Nat) : Nat := if key < 2 ^ 40 then key / 32 * 32 else key / 4 * 4
def granuleBytes (key : Nat) : Nat := if key < 2 ^ 40 then 32 else 4

/-- A write of bytes that do not straddle a line: attempts on the line abort, the bytes change, poison of whole granules goes
(R471), the line has changed (R311). A write to the hoop area changes no byte (R359). `own` names the thread whose attempt
commits. -/
def State.store (s : State) (l : Line) (key : Nat) (bytes : List Byte) (own : Nat := 0) (poisoned : Bool := false) : State :=
  let s := s.conflicts l.phys own
  if inHoops key then s.lineChanged l
  else
  let covered := (List.range bytes.length).map fun i => granule (key + i)
  let poison := s.poison.filter fun g => !(decide (key ≤ g) && decide (g + granuleBytes g ≤ key + bytes.length))
  let poison := if poisoned then poison ++ (covered.eraseDups.filter fun g => !poison.contains g) else poison
  ({ s with mem := Memory.setBytes s.mem key bytes, poison }).lineChanged l

/-- A write of whole granules clears their poison (R471). -/
def State.clearPoison (s : State) (key n : Nat) : State :=
  { s with poison := s.poison.filter fun g => !(decide (key ≤ g) && decide (g + granuleBytes g ≤ key + n)) }

/-- Clear the storage from one key on. -/
def State.clearStore (s : State) (key n : Nat) : State :=
  { s with mem := Memory.clear s.mem key n, poison := s.poison.filter fun g => !(decide (key ≤ g) && decide (g < key + n)) }

/-- The lane slices of a wave slot hold 0 when threads start, arrive or are restored there (R280). -/
def State.clearSlices (s : State) (core w : Nat) : State := s.clearStore (laneKey core w 0 0) (64 * 256)

/-- Bytes from an address on, cut where lines end: the address and the bytes of each piece. -/
def linePieces (a : Nat) (bytes : List Byte) : List (Nat × List Byte) :=
  (List.range ((a % 64 + bytes.length + 63) / 64)).map fun j =>
    let skip := if j = 0 then 0 else 64 * j - a % 64
    (a + skip, (bytes.drop skip).take (64 - (a + skip) % 64))

/-- Add a tag to a cache of n lines; a full cache loses a member that nothing in the spec names: a free choice. -/
def tagFill (l : List Nat) (n tag pick : Nat) : List Nat :=
  if l.length < n then l ++ [tag] else (l.eraseIdx (pick % Nat.max 1 l.length)) ++ [tag]

/-- The event of a line that is read or written at its home: 0x07 for a near line, 0x08 and 0x09 for a far one that the core's
memory-side cache has or has not held; the cache takes the line (R21, R507). Cores whose channels are retired have none. -/
def State.lineEvent (s : State) (dpa : Nat) : Nat × State :=
  let core := dpa / 2 ^ 32
  let k := s.core core
  let line := dpa / 64
  if dpa / 2 ^ 31 % 2 = 0 then (0x07, s)
  else if k.retired then (0x09, s)
  else if k.msLines.contains line then (0x08, s)
  else (0x09, (s.modCore core fun k => { k with msLines := tagFill k.msLines 393216 line (Config.choice s.free) }).spend)

/-- Device writes by device physical address, line by line, through the memory-side cache (R21). -/
def State.storePhys (s : State) (ctx dpa : Nat) (bytes : List Byte) : State :=
  (linePieces dpa bytes).foldl (fun s e => (s.lineEvent e.1).2.store ⟨e.1 / 64, 0, 15, ctx⟩ e.1 e.2) s

/-- Some of n bytes lies in a poisoned granule. -/
def State.spoiledRun (s : State) (key n : Nat) : Bool :=
  s.poison.any fun g => decide (g < key + n) && decide (key < g + granuleBytes g)

/-- A write leaves part of a poisoned granule as it was (R471). -/
def State.partPoisoned (s : State) (key n : Nat) : Bool :=
  s.poison.any fun g => decide (g < key + n) && decide (key < g + granuleBytes g) && !(decide (key ≤ g) && decide (g + granuleBytes g ≤ key + n))

/-- Does an access meet a registered range of an engine (R306)? -/
def State.rangeLocked (s : State) (ctx va bytes : Nat) (write : Bool) : Bool :=
  s.ranges.any fun g => g.core.isNone && g.ctx == ctx && decide (g.lo ≤ (va + bytes - 1) / 64) && decide (va / 64 ≤ g.hi)
    && (g.dest || write)

/-- What keeps a piece of a device's write from performing: a fault, uncorrectable data in a sector that it covers in part
(DEDUCED, log 61), or, for a write that counts as a thread's (`locked`), a registered range. -/
def State.deviceStop (s : State) (ctx va n : Nat) (locked : Bool) : Except MemStop Nat :=
  match s.translate ctx va true with
  | .ok dpa =>
    if locked && s.rangeLocked ctx va n true then .error (.fault .rangeLock va)
    else if s.partPoisoned dpa n then .error (.fault .eccUncorrected va)
    else .ok dpa
  | .fault c => .error (.fault c va)
  | .moving => .error .moving

/-- Pieces of a device's write by virtual address; the first that is kept from performing ends them. -/
def State.storePiecesVa (s : State) (ctx : Nat) (locked : Bool) : List (Nat × List Byte) → Except MemStop State
  | [] => .ok s
  | (a, bs) :: rest =>
    match s.deviceStop ctx (a % 2 ^ 48) bs.length locked with
    | .ok dpa => ((s.lineEvent dpa).2.store ⟨dpa / 64, a % 2 ^ 48 / 64, 0, ctx⟩ dpa bs).storePiecesVa ctx locked rest
    | .error e => .error e

/-- Device writes by virtual address, line by line, through the home's memory-side cache (R21). -/
def State.storeVa (s : State) (ctx va : Nat) (bytes : List Byte) (locked : Bool := false) : Except MemStop State :=
  s.storePiecesVa ctx locked (linePieces va bytes)

/-! ### Records (R458, R530) -/

def Cause.code : Cause → Nat
  | .illegalOpcode => 0x01 | .illegalModifier => 0x02 | .badClause => 0x03 | .controlIntegrity => 0x04 | .allotment => 0x05
  | .privilege => 0x06 | .misaligned => 0x07 | .bounds => 0x08 | .pageNotPresent => 0x09 | .pageProtection => 0x0A
  | .homeMapMiss => 0x0B | .pinnedGlobal => 0x0C | .rangeLock => 0x0D | .basteFull => 0x0E | .phaseDrain => 0x0F
  | .barrierConflict => 0x10 | .hoopFault => 0x11 | .knotOversign => 0x12 | .patternInvalid => 0x13 | .engineFault => 0x14
  | .txNesting => 0x15 | .overlayMissing => 0x16 | .slackExhausted => 0x17 | .debugStop => 0x18 | .preempt => 0x19
  | .eccUncorrected => 0x1A | .keyInvalid => 0x1B | .retrievalFault => 0x1C | .softwareTrap => 0x1D

/-- A 64-byte record (R458). -/
def recordBytes (cause flags ctx lanes home va pc eord : Nat) : List Byte :=
  bytesOfNat 1 1 ++ bytesOfNat 1 cause ++ bytesOfNat 1 flags ++ [0] ++ bytesOfNat 2 ctx ++ bytesOfNat 2 lanes ++ bytesOfNat 4 home
    ++ bytesOfNat 4 0 ++ bytesOfNat 8 va ++ bytesOfNat 4 pc ++ bytesOfNat 4 eord ++ List.replicate 32 0

/-- Where a record slot lies: the fault slots of a die, or (place 4) the error slots at ERBASE. -/
def State.recordAddr (s : State) (place slot : Nat) : Nat :=
  ((if place < 4 then nearBase (64 * place) + Config.faultRecords % 2 ^ 31 else s.bar.erbase) + 64 * slot) % 2 ^ 40

def State.postAt (s : State) (place slot : Nat) (bytes : List Byte) (report : Report) : State :=
  let s := s.storePhys 0 (s.recordAddr place slot) bytes
  { s with posted := s.posted ++ [⟨place, slot, report⟩], msix := s.msix ++ [place] }

/-- Post a record into the lowest free slot and signal the vector, or keep it until a slot frees. -/
def State.post (s : State) (place : Nat) (bytes : List Byte) (report : Report) : State :=
  match (List.range (if place < 4 then 256 else 64)).find? fun i => !s.posted.any fun p => p.place == place && p.slot == i with
  | some i => s.postAt place i bytes report
  | none => { s with unposted := s.unposted ++ [⟨place, bytes, report⟩] }

/-- Post an error record (R530). -/
def State.postError (s : State) (cause : Nat) (ctx home va pc eord : Nat) (report : Report) (flags : Nat := 0) : State :=
  s.post 4 (recordBytes cause (0x80 + flags) ctx 1 home va pc eord) report

/-- Is function f of the duty split under expert control (R536)? -/
def State.expert (s : State) (f : Nat) : Bool := s.bar.split.getLsbD (2 * f + 1)

/-- Is function f of the duty split host-assisted (R536)? -/
def State.hostMode (s : State) (f : Nat) : Bool := s.bar.split.getLsbD (2 * f)

/-- LANES of a record, raised, saturating (R458). -/
def raiseLanes (bytes : List Byte) (lanes : Nat) : List Byte :=
  bytes.take 6 ++ bytesOfNat 2 (Nat.min (natOfBytes ((bytes.drop 6).take 2) + lanes) 0xFFFF) ++ bytes.drop 8

/-- Lanes join a record already posted. -/
def State.joinRecord (s : State) (p : Posted) (lanes : Nat) : State :=
  let a := s.recordAddr p.place p.slot + 6
  s.storePhys 0 a (bytesOfNat 2 (Nat.min (Memory.getNat s.mem a 2 + lanes) 0xFFFF))

/-- Lanes join the record of the same report, posted or waiting for a slot; none where there is none (R79, R458). -/
def State.join (s : State) (report : Report) (lanes : Nat := 1) : Option State :=
  match s.posted.find? fun p => p.report == report with
  | some p => some (s.joinRecord p lanes)
  | none =>
    if s.unposted.any fun u => u.report == report then
      some { s with unposted := s.unposted.map fun u => if u.report == report then { u with bytes := raiseLanes u.bytes lanes } else u }
    else none

/-- Where the device service context of a die receives a record: in its own memory (R542). -/
def Service.addr (v : Service) : Nat := nearBase (coreOfHome v.home / 64 * 64) + (Config.serviceMemory % 2 ^ 31 + 64 * v.slot) % 2 ^ 32

/-- The record of a parked PAGE_NOT_PRESENT, posted in the layout of R458. -/
def Service.bytes (v : Service) : List Byte :=
  recordBytes Cause.pageNotPresent.code (v.write.toNat + 2 * v.space) v.ctx v.lanes v.home v.va v.pc v.eord

/-- The device service context receives a fault, or another lane of one that it has (R457, R458, R542). -/
def State.toService (s : State) (v : Service) : State :=
  let mine := fun (x : Service) => x.ctx == v.ctx && x.page == v.page && x.home == v.home
  match s.services.find? mine with
  | some x =>
    let x := { x with lanes := Nat.min (x.lanes + 1) 0xFFFF }
    { s with services := s.services.map fun y => if mine y then x else y }.storePhys 0 x.addr x.bytes
  | none =>
    let die := dieOf (coreOfHome v.home)
    let used := (s.services.filter fun x => dieOf (coreOfHome x.home) == die).map Service.slot
    let v := { v with slot := ((List.range (used.length + 1)).find? fun i => !used.contains i).getD 0 }
    { s with services := s.services ++ [v], next := s.next + 1 }.storePhys 0 v.addr v.bytes

/-- Hand a page fault to the fault service (R457, R458): to the device service context in hardware mode, else to the host. -/
def State.reportPage (s : State) (die ctx va home : Nat) (c : Cause) (write : Bool) (space pc eord : Nat) : State :=
  let page := s.pageOf ctx va
  if c = .pageNotPresent && !s.hostMode 0 then s.toService { id := s.next, ctx, page, home, va, write, space, pc, eord }
  else
    match s.join (.page ctx page home c) with
    | some s => s
    | none =>
      s.post die (recordBytes c.code (write.toNat + 2 * space) ctx 1 home va pc eord) (.page ctx page home c)

/-! ### Trace frames (R519, R520) -/

def Slot.setWord (q : Slot) (n : Nat) (v : DWord) : Slot := { q with bank := if v = 0 then q.bank.erase n else q.bank.set n v }

/-- The 256 bytes of a frame. -/
def State.frameBytes (s : State) (core ctx : Nat) (first : DWord) (records : List Byte) : List Byte :=
  bytesOfNat 8 first.toNat ++ bytesOfNat 1 records.length ++ [0] ++ bytesOfNat 2 ctx ++ bytesOfNat 4 (s.homeId core)
    ++ records ++ List.replicate (240 - records.length) 0

/-- Close the open frame: written as one immediate write if its address is homed on the core and writable. -/
def State.closeFrame (s : State) (core k : Nat) : State :=
  match s.slot? core k with
  | none => s
  | some q =>
    match q.trace.frame with
    | none => s
    | some records =>
      let q' := { q with trace := { q.trace with frame := none } }
      let ctl := q.word 0x32
      let va := field (q.word 0x35) 0 48
      let bytes := s.frameBytes core q.ctx q.trace.firstTsc records
      let ok : Option Nat := (s.homeLeaf q.ctx va).bind fun l =>
        if l.home != s.homeId core then none
        else match s.homeCheck q.ctx va true l with
          | .ok dpa => some dpa
          | _ => none
      match ok with
      | none => s.modSlot core k fun _ => q'.setWord 0x32 (setBits (setBits ctl 0 1 0) 2 1 1)
      | some dpa =>
        let ptr := va + 256
        let ctl' := if field (q.word 0x34) 0 48 < ptr + 256 then setBits (setBits ctl 0 1 0) 1 1 1 else ctl
        let s := s.modSlot core k fun _ => (q'.setWord 0x35 (BitVec.ofNat 64 ptr)).setWord 0x32 ctl'
        let s := (List.range 4).foldl (fun s i =>
          let (e, s) := s.lineEvent (dpa + 64 * i)
          (s.store ⟨dpa / 64 + i, va / 64 + i, 0, q.ctx⟩ (dpa + 64 * i) ((bytes.drop (64 * i)).take 64)).event core q.ctx e 1) s
        s.charge core q.ctx q.bobbin.launch 9 4

/-- The time delta of a record (R520). -/
def deltaBytes (d : Nat) : List Byte :=
  let n := if d < 2 ^ 6 then 1 else if d < 2 ^ 14 then 2 else if d < 2 ^ 22 then 3 else 4
  bytesOfNat n (4 * d + (n - 1))

/-- One record into the open frame; a record that does not fit, or whose delta saturates, opens a new one. With EN = 0 there is none
(R518). -/
def State.frameRecord (s : State) (core k : Nat) (body : List Byte) : State :=
  match s.slot? core k with
  | none => s
  | some q =>
    let t := q.trace
    let fresh : Trace := { t with frame := some (deltaBytes 0 ++ body), firstTsc := s.tsc, lastTsc := s.tsc }
    let d := (s.tsc - t.lastTsc).toNat
    match t.frame with
    | none => s.modSlot core k fun q => if (q.word 0x32).getLsbD 0 then { q with trace := fresh } else q
    | some rs =>
      let rec_ := deltaBytes d ++ body
      if 2 ^ 30 ≤ d || decide (240 < rs.length + rec_.length) then
        let s := s.closeFrame core k
        s.modSlot core k fun q =>
          if (q.word 0x32).getLsbD 0 then { q with trace := { fresh with queue := q.trace.queue, lost := q.trace.lost } } else q
      else s.modSlot core k fun q => { q with trace := { t with frame := some (rs ++ rec_), lastTsc := s.tsc } }

/-- The queued records of a cycle go into the frame in WSLOT, then KIND order. -/
def State.flushTrace (s : State) (core k : Nat) : State :=
  match s.slot? core k with
  | none => s
  | some q =>
    let key := fun (b : List Byte) => (b.getD 1 0).toNat * 256 + (b.getD 0 0).toNat
    let sorted := sortBy key q.trace.queue
    let s := s.modSlot core k fun q => { q with trace := { q.trace with queue := [] } }
    sorted.foldl (fun s b => s.frameRecord core k b) s

/-- The bank of a slot freezes (R514); host-assisted counter virtualisation is told of it (R536). -/
def State.freeze (s : State) (core k : Nat) : State :=
  let s := (s.flushTrace core k).closeFrame core k
  let s := s.modSlot core k fun q => { q with frozen := true }
  match s.slot? core k with
  | none => s
  | some q =>
    if s.hostMode 5 then
      let s' := s.postError (field s.freeVal 0 8) q.ctx (s.homeId core) 0 0 0 (.freeze core q.ctx)
      s'.spend
    else s

/-! ### Seams (R218 to R227) -/

/-- The chain of a thread (R219). -/
def seamChain (seams : Vector Seam 16) : Nat → BitVec 4 → List (BitVec 4) → List (BitVec 4)
  | 0, _, acc => acc
  | n + 1, m, acc =>
    if acc.contains m then acc
    else
      let r := seams.toList.getD m.toNat {}
      if r.hasp then seamChain seams n r.parent (acc ++ [m]) else acc ++ [m]

def Fragment.chain (f : Fragment) (h : Hart) : List (BitVec 4) := if h.scv then seamChain f.seams 16 h.scur [] else []

def Seam.remove (m : Seam) (lane : Nat) : Seam :=
  { m with mask := setBits m.mask lane 1 0, arr := setBits m.arr lane 1 0 }

def Fragment.modSeam (f : Fragment) (n : BitVec 4) (g : Seam → Seam) : Fragment :=
  { f with seams := f.seams.setIfInBounds n.toNat (g (f.seams.toList.getD n.toNat {})) }

def Wave.frag (v : Wave) (k : Nat) : Fragment := (v.frags.get? k).getD {}
def Wave.setFrag (v : Wave) (k : Nat) (f : Fragment) : Wave := { v with frags := v.frags.set k f }

/-- A lane that a completed seam releases (R222). -/
def Hart.released (h : Hart) (n : BitVec 4) (m : Seam) : Hart :=
  let h := { h with scur := m.parent, scv := m.hasp }
  match h.status with
  | .atJoin k next => if k = n then Hart.enter { h with status := .running } next else h
  | _ => h

/-- Complete or close one seam of a fragment (R222); `force` releases ARR whatever MASK holds (R220). -/
def State.completeSeam (s : State) (core w key : Nat) (n : BitVec 4) (force : Bool) : State :=
  match s.wave? core w with
  | none => s
  | some v =>
    let f := v.frag key
    let m := f.seams.toList.getD n.toNat {}
    if m.opened && m.mask == 0 && !force then
      s.modWave core w fun v => v.setFrag key (f.modSeam n fun m => { m with opened := false })
    else if m.opened && m.arr != 0 && (force || m.arr == m.mask) then
      let v := v.setFrag key (f.modSeam n fun m => { m with opened := false, arr := 0 })
      let lanes := v.lanes.map fun (l, h) =>
        if s.fragOf h == key && m.arr.getLsbD (s.laneOf h) then (l, h.released n m) else (l, h)
      s.modWave core w fun _ => { v with lanes }
    else s

/-- The completion test over a fragment. -/
def State.completeSeams (s : State) (core w key : Nat) : State :=
  (List.range 16).foldl (fun s n => s.completeSeam core w key (BitVec.ofNat 4 n) false) s

/-- A lane leaves every seam of its fragment (R224). -/
def State.leaveSeams (s : State) (r : Ref) (h : Hart) : State :=
  match r.agent with
  | .bobbin _ => s
  | .wave w _ =>
    let key := s.fragOf h
    let lane := s.laneOf h
    let s := s.modWave r.core w fun v =>
      v.setFrag key { v.frag key with seams := (v.frag key).seams.map fun m => m.remove lane }
    s.completeSeams r.core w key

/-! ### Phase objects (R328, R329) and the end of a thread (R232) -/

/-- Cores of this chip on which a context holds homes (R292). -/
def State.homesOf (s : State) (ctx : Nat) : List Nat := (List.range 256).filter fun c => (s.frameRoot c ctx).isSome

/-- The request of a drain to one core (R292, R439). -/
def State.askDrain (s : State) (d : Drain) (core : Nat) : State :=
  s.send d.src (s.homeId core) d.ctx (BitVec.ofNat 32 d.key) d.slack false 0 32 (.drain d.id)

/-- A drain begins: a request goes from the core that asks to every home of the context. -/
def State.startDrain (s : State) (src ctx key : Nat) (first : Word) (n : Nat) (purpose : DrainFor) (slack : BitVec 12 := 0xFFF) : State :=
  let homes := s.homesOf ctx
  let d : Drain :=
    { id := s.next, ctx, key, firstParty := first, parties := n, cores := (if homes.isEmpty then [src] else homes).map fun c => (c, false), purpose
      src, slack }
  d.cores.foldl (fun s e => s.askDrain d e.1) { s with drains := s.drains ++ [d], next := s.next + 1 }

/-- Parties of a level-L group: the first and their number. -/
def Launch.partiesOf (l : Launch) (level group : Nat) : Word × Nat :=
  let n := match l.party? with
    | none => 1
    | some p => l.span level / l.span p
  (l.pbase + BitVec.ofNat 32 (group * n), n)

/-- The coordinator of a level-L group: the core of its lowest-ordinal wave (R420). -/
def Launch.coordinator (l : Launch) (level group : Nat) : Nat := l.places.getD (group * l.span level / 64) 0

/-- The core of a launch wave (R429). -/
def State.waveCore (_ : State) (l : Launch) (v : Nat) : Nat := l.places.getD v 0

def State.phase? (s : State) (key level group : Nat) : Option Phase :=
  s.phases.find? fun p => p.key == key && p.level == level && p.group == group

def State.modPhase (s : State) (key level group : Nat) (f : Phase → Phase) : State :=
  { s with phases := s.phases.map fun p => if p.key == key && p.level == level && p.group == group then f p else p }

/-- A boundary begins when the arrivals equal the live count (R329); its drain requests carry the slack of the class of the arrival
that completes it (R442), and no deadline when a thread's end does. -/
def State.phaseTest (s : State) (key level group : Nat) (slack : BitVec 12 := 0xFFF) : State :=
  match s.phase? key level group, s.launches.get? key with
  | some p, some l =>
    if !p.draining && p.arrived != 0 && p.arrived == p.live then
      let (first, n) := l.partiesOf level group
      (s.modPhase key level group fun p => { p with draining := true }).startDrain (l.coordinator level group) l.ctx key first n
        (.boundary key level group) slack
    else s
  | _, _ => s

/-- Levels at or outside the party level (R328). -/
def Launch.phaseLevels (l : Launch) : List Nat :=
  match l.party? with
  | none => []
  | some p => (List.range l.nlev).filter (· ≤ p)

/-- Thread count of the launch and of its phase objects after one ends. -/
def State.endCounts (s : State) (h : Hart) : State :=
  match s.launch? h.launch with
  | none => s
  | some l =>
    let key := h.launch.toNat
    let s := { s with launches := s.launches.set key { l with live := l.live - 1 } }
    l.phaseLevels.foldl (fun s n =>
      let g := l.groupAt h.ordinal.toNat n
      (s.modPhase key n g fun p => { p with live := p.live - 1 }).phaseTest key n g) s

/-- Waves leave their slots, which count as occupied to the end of the cycle and are free from the next on (R548). -/
def Core.leaveWaves (k : Core) (p : Nat × Wave → Bool) : Core :=
  { k with
    waves := k.waves.filter fun e => !p e
    departed := (k.waves.filter p).foldl (fun (m : KMap Nat) e => m.set e.1 e.2.ctx) k.departed }

/-- Wave slots that an admission may take. -/
def Core.freeWaves (k : Core) : List Nat := (List.range 64).filter fun w => (k.waves.get? w).isNone && (k.departed.get? w).isNone

/-- The thread's place in its wave is free; a wave with no thread releases its slot (R232). -/
def State.vacate (s : State) (r : Ref) : State :=
  match r.agent with
  | .bobbin _ => s
  | .wave w l => s.modCore r.core fun k =>
    { k with waves := k.waves.modify w fun v => { v with lanes := v.lanes.erase l } }.leaveWaves fun e => e.1 == w && e.2.lanes.isEmpty

/-- The end of a thread (R232); a bobbin halts (R238), and keeps its TSTATE (R255). DESIGN CHOICE (log 71): a failure stop that is
pending at a thread ends with it, and does not pass to the bobbin (R380). -/
def State.endThread (s : State) (r : Ref) : State :=
  match s.hart? r with
  | none => s
  | some h =>
    match r.agent with
    | .bobbin _ => s.modHart r fun h => { h with status := .halted }
    | .wave _ _ => ((s.leaveSeams r h).vacate r).endCounts h

/-! ### Stops and their routes (R257 to R262) -/

inductive Route where
  | handler | service | host | debugger | save
deriving DecidableEq, Repr

def Cause.route : Cause → Route
  | .pageNotPresent | .pageProtection | .homeMapMiss => .service
  | .overlayMissing => .host
  | .debugStop => .debugger
  | .preempt => .save
  | _ => .handler

/-- Registers that every handler may find live: all allotted ones (R70). -/
def allotMask (allot : Nat) : DWord := BitVec.ofNat 64 (2 ^ allot - 1)

/-- The live map of the safe point a hart stands at, masked to its allotment; w0 to w31 for a bobbin (R254). -/
def State.liveOf (s : State) (r : Ref) (h : Hart) : DWord :=
  let all := allotMask (s.allotOf h)
  match (s.safePoint r.core (s.ctxOf r) h.pc h.clause h.pos) with
  | (true, some (_, live)) => if h.isBobbin then all else live &&& all
  | _ => all

/-- EINFO: the REP step and the steps left, and the access detail (R256). -/
def Hart.einfo (h : Hart) (stop : Stop) : Word :=
  let n := match h.rep with
    | some n => n
    | none => 0
  let step := if h.rep.isSome then h.repstep.toNat else 0
  BitVec.ofNat 32 (step + 2 ^ 7 * (n - step) + 2 ^ 14 * stop.write.toNat + 2 ^ 15 * stop.space.toNat)

def ecauseWord (code pos : Nat) (ordv addrv nested : Bool) : Word :=
  BitVec.ofNat 32 (code + 2 ^ 8 * pos + 2 ^ 11 * ordv.toNat + 2 ^ 12 * addrv.toNat + 2 ^ 13 * nested.toNat)

/-- What a trap entry writes into the trap registers (R256, R259). EORD and EADDR without meaning, and ESCR, are free values
(log 3). OVERLAY_MISSING has an EORD at an arrival only, where its stop names it (R257). -/
def State.trapRegs (s : State) (r : Ref) (h : Hart) (stop : Stop) : TrapRegs :=
  let sp := s.safePoint r.core (s.ctxOf r) h.pc h.clause h.pos
  let ord? : Option Word := match stop.eord with
    | some e => some e
    | none => if sp.1 && stop.cause != .overlayMissing then sp.2.map fun e => e.1 ++ ovlOf h.pc else none
  let open_ := fun k => Config.freeValue (s.free + k)
  { h.trap with
    epc := h.pc
    ecause := ecauseWord stop.cause.code (h.pos + stop.after.isSome.toNat) ord?.isSome stop.addr.isSome h.tstate.trapped
    eord := ord?.getD ((open_ 0).setWidth 32)
    eaddr := stop.addr.getD ((open_ 1).setWidth 48)
    einfo := h.einfo stop
    eres := h.clause
    live := s.liveOf r h
    escr := #v[(open_ 2).setWidth 32, (open_ 3).setWidth 32, (open_ 4).setWidth 32, (open_ 5).setWidth 32] }

/-- The save index of a thread: wave ordinal times 64 plus lane (R270); 0 for a bobbin (R254). -/
def State.saveIndex (s : State) (r : Ref) : BitVec 12 :=
  match r.agent with
  | .bobbin _ => 0
  | .wave w l =>
    let order := ((s.slotFor? r).map Slot.saveOrder).getD []
    BitVec.ofNat 12 ((order.findIdx? (· == w)).getD 0 * 64 + l)

/-- No other lane of the fragment is outside the save handler (R270). -/
def State.lastOfFragment (s : State) (r : Ref) (h : Hart) : Bool :=
  match r.agent with
  | .bobbin _ => false
  | .wave w _ =>
    match s.wave? r.core w with
    | none => false
    | some v => v.lanes.all fun e => e.2.tid == h.tid || s.fragOf e.2 != s.fragOf h || e.2.tstate.svh

/-- TRAP ENTRY (R259): the one operation by which a lane enters its handler at TVEC, or at SVVEC for PREEMPT. Its done flags
are clear. The vector is checked as a transfer when the lane next issues. -/
def State.handlerEntry (s : State) (r : Ref) (stop : Stop) : State :=
  match s.hart? r, s.slotFor? r with
  | some h, some q =>
    let save := stop.cause == .preempt
    let vector := if save then q.svvec else q.tvec
    let trap := s.trapRegs r h stop
    let trap := if save then { trap with svidx := s.saveIndex r } else trap
    let tstate : TState := { h.tstate with
      epriv := h.tstate.priv, priv := true, trapped := true, svh := save
      flast := save && s.lastOfFragment r h
      brun := if save && h.isBobbin then true else h.tstate.brun }
    let h' : Hart := { h with
      trap, tstate, rep := none, sample := {}, status := .running
      preemptDue := if save then false else h.preemptDue
      debugStep := if save then false else h.debugStep
      debugDue := if save then none else h.debugDue }
    let s := (s.setHart r (h'.startAt vector)).traceLane r h 4 stop.cause.code
    let s := { s with free := s.free + 6 }
    if save && h.isBobbin then s.freeze r.core (s.slotNo r) else s
  | _, _ => s

/-- A fault at TRAPPED = 1 that goes to the handler (R262): recorded with NESTED = 1, parked, and sent to the host. It is no
trap entry: LIVE and ESCR keep their values, and so does the sample arm (R276, R516). -/
def State.nestedFault (s : State) (r : Ref) (stop : Stop) : State :=
  match s.hart? r with
  | none => s
  | some h =>
    let trap := { s.trapRegs r h stop with live := h.trap.live, escr := h.trap.escr }
    let ordv := trap.ecause.getLsbD 11
    let s := s.setHart r { h with trap, rep := none, status := .nested }
    let s := { s with free := s.free + 6 }
    s.postError stop.cause.code (s.ctxOf r) (s.homeId r.core) ((stop.addr.map BitVec.toNat).getD 0) h.pc.toNat
      (if ordv then trap.eord.toNat else 0) (.nested r) (stop.write.toNat + 2 * stop.space.toNat)

/-- To the handler, or nested (R259, R262). -/
def State.toHandler (s : State) (r : Ref) (stop : Stop) : State :=
  match s.hart? r with
  | none => s
  | some h => if h.tstate.trapped then s.nestedFault r stop else s.handlerEntry r stop

/-- Where a lane goes on after a stop: past TRAP and BRKPT, else where it stands (R258, R259). -/
def Hart.afterStop (h : Hart) (stop : Stop) : Hart :=
  match stop.after with
  | some (pc, pos) => if pos = 0 then h.enter pc else { h with pc, pos, reached := false }
  | none => h

/-- Park for the debugger; the lane stands at the instruction until it is let go (R259, R523). PARKED rising from 0 signals the host (R523, R524). -/
def State.debugPark (s : State) (r : Ref) (stop : Stop) : State :=
  match s.hart? r with
  | none => s
  | some h =>
    let info : BitVec 48 := stop.code ++ s.ordOf r h ++ ovlOf h.pc
    let first := ((s.slotFor? r).map fun q => q.debugged.isEmpty).getD false
    let s := (s.setHart r { h with status := .debug stop, debugDue := none, debugStep := false }).modSlotFor r fun q =>
      { q with debugged := q.debugged ++ [(h.tid, info)] }
    if first then { s with msix := s.msix ++ [dieOf r.core] } else s

/-- A lane leaves the debugger's park. -/
def State.debugLeave (s : State) (r : Ref) : State :=
  s.modSlotFor r fun q => { q with debugged := q.debugged.filter fun e => e.1 != r.tid }

/-- Park for the host with an overlay record that lanes join (R79); its EORD applies at an arrival only (R257, R530). -/
def State.overlayPark (s : State) (r : Ref) (stop : Stop) : State :=
  match s.hart? r with
  | none => s
  | some h =>
    let target := stop.addr.getD 0
    let ctx := s.ctxOf r
    let report := Report.overlay r.core ctx (target.toNat / 2 ^ 16 % 2 ^ 16)
    let eord := (stop.eord.map BitVec.toNat).getD 0
    let s := s.setHart r { h with status := .parked stop }
    match s.join report with
    | some s => s
    | none => s.postError 0x16 ctx (s.homeId r.core) target.toNat h.pc.toNat eord report

/-- Park for the fault service (R257, R458). -/
def State.servicePark (s : State) (r : Ref) (stop : Stop) : State :=
  match s.hart? r with
  | none => s
  | some h =>
    let ctx := s.ctxOf r
    let eord := match s.safePoint r.core ctx h.pc h.clause h.pos with
      | (true, some (ord, _)) => (ord ++ ovlOf h.pc : Word).toNat
      | _ => 0
    let stop := { stop with page := s.pageOf ctx ((stop.addr.map BitVec.toNat).getD 0) }
    (s.setHart r { h with status := .parked stop }).reportPage (dieOf (coreOfHome stop.home)) ctx ((stop.addr.map BitVec.toNat).getD 0)
      stop.home stop.cause stop.write stop.space.toNat h.pc.toNat eord

/-- The stop takes effect: the flags are clear (R68). -/
def State.takeStop (s : State) (r : Ref) (stop : Stop) : State :=
  if stop.served then s.toHandler r stop
  else
  match stop.cause.route with
  | .handler => s.toHandler r stop
  | .save => s.handlerEntry r stop
  | .service => s.servicePark r stop
  | .host => s.overlayPark r stop
  | .debugger => s.debugPark r stop

/-- Every flag is clear and every retrieval operation has been applied (R68, R496). -/
def Hart.settled (h : Hart) : Bool := h.doneClear && h.ops == 0

/-- BAD_CLAUSE in place of a stop at a safe point without an entry (R71). -/
def State.substituted (s : State) (r : Ref) (h : Hart) (stop : Stop) : Stop :=
  match s.safePoint r.core (s.ctxOf r) h.pc h.clause h.pos with
  | (true, none) => if stop.cause == .badClause then stop else { cause := .badClause }
  | _ => stop

/-- A lane stops where it stands: at once when it is settled, else once it is. -/
def State.stopAt (s : State) (r : Ref) (stop : Stop) : State :=
  match s.hart? r with
  | none => s
  | some h =>
    let stop := s.substituted r h stop
    if h.settled then s.takeStop r stop else s.setHart r { h with status := .settling (.trap stop) }

/-- A fault of an instruction at a lane; inside an attempt it aborts the attempt (R345). -/
def State.raise (s : State) (r : Ref) (stop : Stop) : State :=
  match s.hart? r with
  | none => s
  | some h =>
    if h.tx.depth = 0 then s.stopAt r stop
    else s.txAbort r .fault (BitVec.ofNat 8 (s.substituted r h stop).cause.code)

def State.raiseCause (s : State) (r : Ref) (c : Cause) : State := s.raise r { cause := c }

/-- A parked lane's service delivers the cause to the handler (R257, R458). -/
def State.deliver (s : State) (r : Ref) : State :=
  match s.hart? r with
  | none => s
  | some h =>
    match h.status with
    | .parked stop => s.toHandler r stop
    | _ => s

/-- A parked lane becomes ready and re-executes (R258). -/
def State.release (s : State) (r : Ref) : State := s.modHart r fun h => { h with status := .running }

/-! ### Pre-emption stops (R43, R260, R269) -/

/-- The lane is parked at a JOIN. -/
def Hart.atJoin (h : Hart) : Bool :=
  match h.status with
  | .atJoin _ _ => true
  | _ => false

/-- The pre-emption stop lands where the lane stands. At a safe point without an entry BAD_CLAUSE replaces it and it stays
pending (R71); a JOIN whose STOP bit is clear is treated in the same way (R227). A lane parked by BRKPT resumes after it (R258). -/
def State.landPreempt (s : State) (r : Ref) (after : Option (Word × Nat) := none) : State :=
  match s.hart? r with
  | none => s
  | some h =>
    let safe := (s.safePoint r.core (s.ctxOf r) h.pc h.clause h.pos).1
    if h.atJoin && !safe then s.stopAt r { cause := .badClause } else s.stopAt r { cause := .preempt, after }

/-- A lane inside an attempt aborts with PREEMPTED and stands at its outermost TXOPEN (R345). -/
def State.preemptAbort (s : State) (r : Ref) : State :=
  match s.hart? r with
  | none => s
  | some h => if h.tx.depth = 0 then s else (s.txAbort r .preempted 0).modHart r fun h => { h with txStopped := true }

/-- Wake entries of a lane that leaves its sleep alone: its set keeps the others. -/
def State.unsleep (s : State) (r : Ref) : State :=
  match s.hart? r with
  | none => s
  | some h =>
    match h.status with
    | .asleep n =>
      let s := s.setHart r { h with status := .running }
      if (s.sleepers r.core [n]).isEmpty then s.modCore r.core fun k => k.dropSets [n] else s
    | _ => s

/-- Set where a thread goes on after a transfer. -/
def Hart.transfer (h : Hart) (link : Option (Reg × DWord)) (target : Word) : Hart :=
  let h := match link with
    | some (d, v) => h.setReg d.toNat v
    | none => h
  h.enter target

/-- CUT leaves the seams of the lane's chain up to N (R223). -/
def State.cutSeams (s : State) (r : Ref) (h : Hart) (n : BitVec 4) : State :=
  match r.agent with
  | .bobbin _ => s
  | .wave w _ =>
    match s.wave? r.core w with
    | none => s
    | some v =>
      let key := s.fragOf h
      let lane := s.laneOf h
      let f := v.frag key
      let chain := f.chain h
      if !chain.contains n then s
      else
        let upTo := chain.take ((chain.findIdx? (· == n)).getD 0 + 1)
        let seam := f.seams.toList.getD n.toNat {}
        let f' := upTo.foldl (fun f m => f.modSeam m fun q => q.remove lane) f
        let s := s.modWave r.core w fun v => v.setFrag key f'
        (s.modHart r fun h => { h with scur := seam.parent, scv := seam.hasp }).completeSeams r.core w key

/-- A transfer that has passed its checks. -/
def State.go (s : State) (r : Ref) (target : Word) (link : Option (Reg × DWord)) (cut : Option (BitVec 4)) : State :=
  let s := match cut, s.hart? r with
    | some n, some h => s.cutSeams r h n
    | _, _ => s
  s.modHart r fun h => Hart.transfer { h with status := .running } link target

/-- A pre-emption stop becomes pending at a lane, and lands at once where R43 and R269 say so: an attempt aborts first (R345); a
transfer that waits for its overlay is made, with its link and its cut, and the lane stands at the target (R43). -/
def State.preemptLane (s : State) (r : Ref) : State :=
  match s.hart? r with
  | none => s
  | some h =>
    let s := s.modHart r fun h => { h with preemptDue := true }
    if h.tstate.trapped then s
    else
      match h.status with
      | .asleep _ => ((s.unsleep r).preemptAbort r).landPreempt r
      | .held (.waitFlags _) => s
      | .debug stop => ((s.debugLeave r).preemptAbort r).landPreempt r stop.after
      | .held (.transfer target link cut) =>
        if h.tx.depth = 0 then ((s.go r target link cut).modHart r fun h => h.startAt target).landPreempt r
        else (s.preemptAbort r).landPreempt r
      | .atJoin _ _ | .parked _ | .held _ => (s.preemptAbort r).landPreempt r
      | .running | .halted | .settling _ | .acks _ | .fence _ | .sync | .reply | .drain | .nested | .saved | .restored => s

/-! ### Migration (R34, R137, R441, R442) -/

/-- The live registers of a needle. -/
def Hart.liveRegs (h : Hart) (live : DWord) : KMap Word :=
  ((List.range 64).filter fun n => live.getLsbD n).map fun n => (n, (h.reg n).setWidth 32)

def Hart.openFibres (h : Hart) : KMap Fibre :=
  (if h.fi0.opened then [(0, h.fi0)] else []) ++ (if h.fi1.opened then [(1, h.fi1)] else [])

/-- Length of a needle packet (R441). -/
def Needle.bytes (n : Needle) : Nat :=
  32 + (if n.chain.isEmpty then 0 else 8) + 16 * n.fibres.length + 4 * n.regs.length

/-- The chain that a thread carries (R224). -/
def State.chainOf (s : State) (r : Ref) (h : Hart) : List (BitVec 4) :=
  match r.agent with
  | .bobbin _ => []
  | .wave w _ => ((s.wave? r.core w).map fun v => (v.frag (s.fragOf h)).chain h).getD []

def State.buildNeedle (s : State) (r : Ref) (h : Hart) (live : DWord) (va : Nat) : Needle :=
  { tid := h.tid, pc := h.pc, clause := h.clause, pos := h.pos, launch := h.launch, ordinal := h.ordinal, spwn := h.spwn, live
    regs := h.liveRegs live, preds := h.preds, fpstat := h.fpstat, chain := s.chainOf r h, fibres := h.openFibres
    repstep := h.repstep, ord := s.ordOf r h, sample := {}, late := h.late, debugStep := h.debugStep, task := false, va := some va }

/-- Steps 2 to 4 of R34; a poisoned live register raises ECC_UNCORRECTED at the safe point (R471). -/
def State.sendNeedle (s : State) (r : Ref) (home : Nat) (slack : BitVec 12) (sx : Bool) (va : Nat) : State :=
  match s.hart? r with
  | none => s
  | some h =>
    let live := s.liveOf r h
    if h.poison &&& live != 0 then s.raiseCause r .eccUncorrected
    else
      let ctx := s.ctxOf r
      let n := s.buildNeedle r h live va
      let s := s.traceLane r h 2 (home % 256)
      let s := ((s.leaveSeams r h).vacate r).count r.core ctx 0x12 1
      (s.charge r.core ctx h.launch 11 1).send r.core home ctx h.launch slack sx 2 n.bytes (.needle n)

/-- A lane begins to migrate: BAD_CLAUSE without a safe-point entry (R71), then step 1 of R34. -/
def State.migrate (s : State) (r : Ref) (home : Nat) (sl : BitVec 3) (sx : Bool) (va : Nat) : State :=
  match s.hart? r with
  | none => s
  | some h =>
    match s.safePoint r.core (s.ctxOf r) h.pc h.clause h.pos with
    | (true, some _) =>
      let class_ := s.slackClass r sl
      let slack := if class_.toNat < h.slack.toNat then class_ else h.slack
      if h.settled then s.sendNeedle r home slack sx va
      else s.setHart r { h with status := .settling (.migrate home slack sx va) }
    | _ => s.stopAt r { cause := .badClause }

/-! ### The context switch (R271, R273, R275) -/

/-- The parts of a switch record: offset and bytes (R273). -/
def State.switchRecord (s : State) (core : Nat) (q : Slot) : List (Nat × List Byte) :=
  -- a wave whose last thread ended during the save keeps its ordinal, with no lane
  let waves := q.saveOrder.map fun w => (s.wave? core w).getD { ctx := q.ctx, launch := 0, arrival := false, lanes := [] }
  let head := bytesOfNat 2 waves.length ++ bytesOfNat 1 q.bobbin.tstate.brun.toNat ++ [0] ++ bytesOfNat 2 q.ctx ++ [0, 0]
    ++ q.slackTab.toList.flatMap (fun v => bytesOfNat 2 v.toNat) ++ bytesOfNat 8 q.ovt.toNat ++ List.replicate 32 0
  let waveEntry := fun (v : Wave) =>
    let mask := sumNat (v.lanes.map fun e => 2 ^ e.1)
    bytesOfNat 8 mask ++ bytesOfNat 4 v.launch.toNat ++ bytesOfNat 1 v.arrival.toNat ++ List.replicate 51 0
  let table := waves.flatMap waveEntry
  let threads := (waves.zip (List.range waves.length)).flatMap fun (v, k) => v.lanes.map fun (l, h) =>
    (0x1040 + 16 * (64 * k + l),
      bytesOfNat 4 h.ordinal.toNat ++ bytesOfNat 2 h.slack.toNat ++ bytesOfNat 1 (h.spwn.toNat + 2 * h.txStopped.toNat) ++ List.replicate 9 0)
  [(0, head), (0x40, table ++ List.replicate (0x1000 - table.length) 0)] ++ threads

def State.storeParts (s : State) (ctx base : Nat) : List (Nat × List Byte) → Except MemStop State
  | [] => .ok s
  | (o, bs) :: rest =>
    match s.storeVa ctx (base + o) bs true with
    | .ok s' => s'.storeParts ctx base rest
    | .error e => .error e

def switchBase (s : State) (core : Nat) (svbase : BitVec 48) : Nat := svbase.toNat + s.homeId core * 0x20000

/-- The bobbin's HALT completes the switch: the record is written and the waves are released; a write that fails is posted and
the waves stay (R271, R273). -/
def State.completeSwitch (s : State) (core k : Nat) : State :=
  match s.slot? core k with
  | none => s
  | some q =>
    match s.storeParts q.ctx (switchBase s core q.svbase) (s.switchRecord core q) with
    | .error (.fault c va) =>
      (s.modSlot core k fun q => { q with switch := .recording }).postError c.code q.ctx (s.homeId core) va 0 0 (.switchWrite core q.ctx)
    | .error .moving => s.modSlot core k fun q => { q with switch := .recording }
    | .ok s =>
      let tids := (q.saveOrder.zip (List.range 64)).flatMap fun (w, n) =>
        ((s.wave? core w).map fun v => v.lanes.map fun (l, h) => (64 * n + l, h.tid)).getD []
      let late := q.saveOrder.flatMap fun w =>
        ((s.wave? core w).map fun v => v.lanes.flatMap fun (_, h) => h.late.map fun x => (h.tid, x)).getD []
      let phaseTraps := q.saveOrder.flatMap fun w =>
        ((s.wave? core w).map fun v => v.lanes.filterMap fun e => e.2.phaseTrap.map fun pc => (e.2.tid, pc)).getD []
      let threads := q.saveOrder.flatMap fun w => ((s.wave? core w).map fun v => v.lanes.map fun e => (e.2.launch, e.2.ordinal)).getD []
      let keys := ((q.saveOrder.filterMap fun w => s.wave? core w).map fun v => v.launch.toNat).eraseDups
      let s := s.modCore core fun c => { c.leaveWaves fun e => e.2.ctx == q.ctx with
        saved := c.saved ++ [{ ctx := q.ctx, svbase := q.svbase, since := s.next, tids, late, phaseTraps, keys, threads, bobbin := q.bobbin.launch }] }
      (s.modSlot core k fun q => { q with switch := .none, leaving := true, saveOrder := [] }).bump

/-- Switch records whose write met a page that moves are tried again (R273). -/
def State.retrySwitches (s : State) : State :=
  let told := s.posted.map Posted.report ++ s.unposted.map Unposted.report
  let stuck := s.cores.flatMap fun (c, k) =>
    (k.slots.filter fun e => e.2.switch == .recording && !told.contains (.switchWrite c e.2.ctx)).map fun e => (c, e.1)
  stuck.foldl (fun s (c, n) => s.completeSwitch c n) s

/-- The bank of a slot thaws (R514), to count from the next cycle on (R548), or waits for the host under host-assisted counter virtualisation (R536). -/
def State.thaw (s : State) (core k : Nat) : State :=
  match s.slot? core k with
  | none => s
  | some q =>
    if (s.posted.map Posted.report ++ s.unposted.map Unposted.report).contains (.freeze core q.ctx) then s.modSlot core k fun q => { q with thawWait := true }
    else s.modSlot core k fun q => { q with thawing := true, thawWait := false }

/-- The registers that a start at SVVEC or RSVEC leaves 0 (R275); LIVE, SVIDX and ESCR are not among them. -/
def TrapRegs.cleared (t : TrapRegs) : TrapRegs := { t with epc := 0, ecause := 0, eord := 0, eaddr := 0, einfo := 0, eres := 0 }

/-- LIVE and ESCR of a restored thread or bobbin, which no rule gives: free values (log 3). -/
def State.lostTrap (s : State) (t : TrapRegs) : TrapRegs :=
  let open_ := fun k => (Config.freeValue (s.free + k)).setWidth 32
  { t with live := Config.freeValue s.free, escr := #v[open_ 1, open_ 2, open_ 3, open_ 4] }

/-- A start at RSVEC (R275): not a trap entry. -/
def Hart.restart (h : Hart) (vector : Word) (brun : Bool) : Hart :=
  { h with status := .running, preds := 0, fpstat := 0, repstep := 0, rep := none, poison := 0
           tstate := { priv := true, trapped := true, rst := true, brun }
           trap := h.trap.cleared }.startAt vector

/-- Step 3 of R275: the bobbin is restored, every saved thread of the context starts at RSVEC. -/
def State.startRestore (s : State) (core k : Nat) : State :=
  match s.slot? core k with
  | none => s
  | some q =>
    let s := (s.modSlot core k fun q => { q with switch := .none }).thaw core k
    (s.threadsOf core q.ctx).foldl (fun s r =>
      let s' := s.modHart r fun h =>
        if h.status == .saved then { h with regs := Regs.zeroX, trap := s.lostTrap h.trap }.restart q.rsvec false else h
      { s' with free := s'.free + 5 }) s

/-- Step 4 of R275: threads that have executed TRET go on once no lane of their fragment is in the restore handler. -/
def State.restoredCheck (s : State) (core w key : Nat) : State :=
  match s.wave? core w with
  | none => s
  | some v =>
    let mine := v.lanes.filter fun e => s.fragOf e.2 == key
    let free := fun (_ : Nat) (h : Hart) => if s.fragOf h == key && h.status == .restored then { h with status := .running } else h
    if mine.any fun e => e.2.tstate.rst then s else s.modWave core w fun v => { v with lanes := v.lanes.mapVals free }

/-! ### The end of EXIT, HALT and PHASE.arv once a lane has settled (R232, R268, R329) -/

/-- HALT of a thread or bobbin (R268, R271, R275). -/
def State.haltNow (s : State) (r : Ref) : State :=
  match s.hart? r with
  | none => s
  | some h =>
    match r.agent with
    | .wave w _ =>
      if h.tstate.svh then s.setHart r { h with status := .saved, tstate := { h.tstate with trapped := false } }
      else (s.endThread r).restoredCheck r.core w (s.fragOf h)
    | .bobbin k =>
      if h.tstate.svh then (s.setHart r { h with status := .saved, tstate := { h.tstate with trapped := false } }).completeSwitch r.core k
      else
        let s' := (s.endThread r).modHart r fun h => { h with tstate := {} }
        if h.tstate.rst then s'.startRestore r.core k else s'

/-- A request packet costs its core one unit of class 12 (R509, R510). DEDUCED (log 41): one to the core's own home travels nowhere
and costs nothing, as the save path of R549 shows. -/
def State.chargeRequest (s : State) (r : Ref) (h : Hart) (home : Nat) : State :=
  if home = s.homeId r.core then s else s.charge r.core (s.ctxOf r) h.launch 12 1

/-- The arrival of a lane at its phase object travels to the coordinator and holds the lane (R329). -/
def State.sendArrive (s : State) (r : Ref) (reg level : Nat) (slack : BitVec 12) : State :=
  match s.hart? r with
  | none => s
  | some h =>
    match s.launch? h.launch with
    | none => s
    | some l =>
      let g := l.groupAt h.ordinal.toNat level
      let home := s.homeId (s.waveCore l (g * l.span level / 64))
      let d : Dest := { ref := r, reg }
      ((s.setHart r { h with status := .acks 1 }).chargeRequest r h home).send r.core home l.ctx h.launch slack false 0 32
        (.phaseArrive h.launch level g d slack)

/-- What a settling lane does once it has settled. A pre-emption stop that became pending meanwhile comes first, where the
lane stands at a safe point (R260). -/
def State.settle (s : State) (r : Ref) : State :=
  match s.hart? r with
  | none => s
  | some h =>
    match h.status with
    | .settling a =>
      let done := match a with
        | .trap _ | .migrate _ _ _ _ => h.settled
        | .exit | .halt | .arrive _ _ _ => h.doneClear
      if !done then s
      else
        let safe := (s.safePoint r.core (s.ctxOf r) h.pc h.clause h.pos).1
        if h.preemptDue && !h.tstate.trapped && safe then ((s.release r).preemptAbort r).landPreempt r
        else
          match a with
          | .trap stop => s.takeStop r stop
          | .migrate home slack sx va => s.sendNeedle r home slack sx va
          | .exit => s.endThread r
          | .halt => s.haltNow r
          | .arrive reg level slack => s.sendArrive r reg level slack
    | _ => s

/-! ### Stops that are reported later (R380, R444, R501, R557) -/

/-- A stop for a thread by its name, wherever it is; if it has ended, for the bobbin of its slot; if that is halted, for the
host (R380), whose record has the PC and EORD of the instruction and the space of the address (R530). -/
def State.lateStop (s : State) (issuer : Ref) (ctx : Nat) (stop : Stop) (pc eord : Nat := 0) : State :=
  let addLate := fun (n : Needle) => if n.tid = issuer.tid then { n with late := n.late ++ [stop] } else n
  let toHost := s.postError stop.cause.code ctx (s.homeId issuer.core) ((stop.addr.map BitVec.toNat).getD 0) pc eord .other (2 * stop.space.toNat)
  match s.refs.find? fun r => r.tid == issuer.tid with
  | some r => if ((s.hart? r).map Hart.status) == some .halted then toHost else s.modHart r fun h => { h with late := h.late ++ [stop] }
  | none =>
    let inPacket := fun (p : Packet) => match p.body with | .needle n => n.tid == issuer.tid | _ => false
    let inCore := fun (e : Nat × Core) => (e.2.store ++ e.2.spill).any fun a => a.needle.tid == issuer.tid
    let inSaved := fun (e : Nat × Core) => e.2.saved.any fun v => v.tids.any fun t => t.2 == issuer.tid
    if s.packets.any inPacket then
      { s with packets := s.packets.map fun p => match p.body with
          | .needle n => { p with body := .needle (addLate n) }
          | _ => p }
    else if s.cores.any inCore then
      { s with cores := s.cores.mapVals fun _ k => { k with
          store := k.store.map fun a => { a with needle := addLate a.needle }
          spill := k.spill.map fun a => { a with needle := addLate a.needle } } }
    else if s.cores.any inSaved then
      { s with cores := s.cores.mapVals fun _ k => { k with
          saved := k.saved.map fun v => if v.tids.any (fun t => t.2 == issuer.tid) then { v with late := v.late ++ [(issuer.tid, stop)] } else v } }
    else
      match s.slotOf? issuer.core ctx with
      | some (k, q) =>
        if q.bobbin.status == .halted then toHost
        else s.modSlot issuer.core k fun q => { q with bobbin := { q.bobbin with late := q.bobbin.late ++ [stop] } }
      | none => toHost

/-! ### Lanes of one issue -/

/-- A lane of the issue is still where the issue found it: no other lane's effect has moved it. -/
def Hart.stands (h h0 : Hart) : Bool :=
  h.pc == h0.pc && h.pos == h0.pos && h.tx.depth == h0.tx.depth && h.status == .running

/-- Carry out an instruction lane by lane in ascending order: lanes that sit it out go past it, each other lane by `f`, which
sees the state as the lanes before it left it. -/
def perLane (g : Guard) (f : Ref → Hart → State → State) (s : State) : State :=
  s.lanes.foldl (fun s' (l, h0) =>
    let r := s.curRef l h0
    match s'.hart? r with
    | none => s'
    | some h => if !h.stands h0 then s' else if h.takes g then f r h s' else s'.setHart r (h.advance s.cur)) s

/-- The lane goes on past the instruction. -/
def State.goOn (s : State) (r : Ref) : State := s.modHart r fun h => h.advance s.cur

/-- The hold of an access that names no page of its own: 0 says that no page of the context moves on this chip (log 62). -/
def State.someMove (s : State) (ctx : Nat) : Hold := .pageMove none (if s.moves.any fun m => m.ctx == ctx then s.next else 0)

def State.hold (s : State) (r : Ref) (h : Hold) : State := s.modHart r fun t => { t with status := .held h }

/-- One sleeper set of the lanes of an issue (R352, R354): entries for the lines, the overflow filter past 4,096. DESIGN CHOICE (log
71): it takes the lowest SET number that is free, and 0 when all 4,096 are in use. -/
def State.formSleepers (s : State) (core ctx : Nat) (who : List Ref) (lines : List Line) : State :=
  match who with
  | [] => s
  | first :: _ =>
    let k := s.core core
    let used := s.refs.filterMap fun r => if r.core != core then none else (s.hart? r).bind fun h =>
      match h.status with
      | .asleep n => some n
      | _ => none
    let set := ((List.range 4096).find? fun n => !used.contains n).getD 0
    let lines := lines.eraseDups
    let room := 4096 - k.wakes.length
    let slot := ((s.slotOf? core ctx).map Prod.fst).getD 0
    let beyond := lines.drop room
    let s := s.modCore core fun k => { k with
      wakes := k.wakes ++ (lines.take room).map fun l => ⟨l, slot, set⟩
      filter := (k.filter ++ beyond.map Line.hash).eraseDups
      watched := k.watched ++ beyond.map fun l => (set, l) }
    let s := who.foldl (fun s r => s.modHart r fun h => { h with status := .asleep set }) s
    let h? := s.hart? first
    let s := s.event core ctx 0x12 1 ((h?.map fun h => h.tstate.priv).getD false)
    match h? with
    | none => s
    | some h => s.traceLane first h 6 (who.length - 1)

/-- As `perLane`, for an instruction that may sleep: a lane for which `f` names lines sleeps, and the sleepers of the issue
are one set. -/
def blockLanes (g : Guard) (f : Ref → Hart → State → State × List Line) (s : State) : State :=
  let step := fun (acc : State × List Ref × List Line) (e : Nat × Hart) =>
    let r := s.curRef e.1 e.2
    match acc.1.hart? r with
    | none => acc
    | some h =>
      if !h.stands e.2 then acc
      else if h.takes g then
        let (s', ls) := f r h acc.1
        if ls.isEmpty then (s', acc.2) else (s', acc.2.1 ++ [r], acc.2.2 ++ ls)
      else (acc.1.setHart r (h.advance s.cur), acc.2)
  let (s', who, ls) := s.lanes.foldl step (s, [], [])
  match who with
  | [] => s'
  | r :: _ => s'.formSleepers r.core (s'.ctxOf r) who ls

/-- Holds of a core that end with an event: the lanes re-execute (R43). -/
def State.releaseHeld (s : State) (core : Nat) (p : Hold → Bool) : State :=
  let free := fun (h : Hart) => match h.status with
    | .held q => if p q then { h with status := .running } else h
    | _ => h
  s.modCore core fun k => { k with
    waves := k.waves.mapVals fun _ v => { v with lanes := v.lanes.mapVals fun _ h => free h }
    slots := k.slots.mapVals fun _ q => { q with bobbin := free q.bobbin } }

/-! ### Overlay loads (R79, R80) -/

/-- The overlay table that a thread's launch or a bobbin's slot names (R486). -/
def State.ovtOf (s : State) (r : Ref) (h : Hart) : BitVec 48 :=
  match r.agent with
  | .wave _ _ => ((s.launch? h.launch).map Launch.ovt).getD 0
  | .bobbin _ => ((s.slotFor? r).map Slot.ovt).getD 0

/-- Start a load in hardware mode; two misses on one overlay start one. -/
def State.startLoad (s : State) (core ctx : Nat) (ovl : BitVec 16) (ovt : BitVec 48) : State :=
  if (s.core core).loads.any fun l => l.ctx == ctx && l.ovl == ovl then s
  else (s.modCore core fun k => { k with loads := k.loads ++ [{ id := s.next, core, ctx, ovl, ovt }] }).bump

/-- An overlay miss at a lane: it waits on the load, or parks for the host (R79). -/
def State.overlayMiss (s : State) (r : Ref) (target : Word) (wait : Hold) (eord : Option Word := none) : State :=
  match s.hart? r with
  | none => s
  | some h =>
    let ctx := s.ctxOf r
    let s := s.event r.core ctx 0x11 1 h.tstate.priv
    if s.hostMode 1 then s.raise r { cause := .overlayMissing, addr := some (target.setWidth 48), eord }
    else (s.startLoad r.core ctx (ovlOf target) (s.ovtOf r h)).hold r wait

/-- A transfer of control of one lane, with the checks of R72, R75 and R79 (R217). -/
def State.jump (s : State) (r : Ref) (target : Word) (link : Option (Reg × DWord)) (cut : Option (BitVec 4)) : State :=
  match s.target r.core (s.ctxOf r) target with
  | .ok => s.go r target link cut
  | .bad => s.raiseCause r .badClause
  | .miss => s.overlayMiss r target (.transfer target link cut)

/-! ### Requests that have not performed (R286) -/

/-- The request that a packet carries. -/
def Body.access? : Body → Option Access
  | .atomic a | .read a => some a
  | _ => none

/-- An element of the request lies in n bytes from an address. -/
def Access.reaches (a : Access) (va n : Nat) : Bool :=
  a.parts.any fun y => decide (va < y.va.toNat + a.bytes) && decide (y.va.toNat < va + n)

/-- A request of the thread to an element has not performed. -/
def State.requestOut (s : State) (tid ctx va n : Nat) : Bool :=
  (s.packets ++ s.outbox).any fun p => match p.body.access? with
    | some a => a.dest.ref.tid == tid && a.ctx == ctx && a.reaches va n
    | none => false

/-- An instruction that aborts an attempt with NONLOCAL before it takes effect (R344). -/
def outside (f : Ref → Hart → State → State) (r : Ref) (h : Hart) (s : State) : State :=
  if h.tx.depth = 0 then f r h s else s.txAbort r .nonlocal 0

end Sys2Proof.Machine
end

