-- ==== Sys2Proof/Machine/CrossLane.lean ====
section
/-! DEFINITION. Cross-lane instructions 0x6A to 0x72 (R199 to R208). -/

namespace Sys2Proof.Machine

/-- The lanes of a thread's group that are present in the issue, by logical lane: those of its fragment that take part. -/
def State.present (s : State) (act : List (Nat × Hart)) (h : Hart) : List (Nat × Hart) :=
  (act.filter fun e => s.fragOf e.2 == s.fragOf h).map fun e => (s.laneOf e.2, e.2)

def presentLane (grp : List (Nat × Hart)) (l : Nat) : Option Hart := (grp.find? fun e => e.1 == l).map Prod.snd

/-- Each taking-part lane changes by what it sees of its group, all of it as it was at issue (R208). -/
def crossOp (g : Guard) (f : List (Nat × Hart) → Hart → Hart) (s : State) : Host.Outcome State Fault Refusal :=
  let act := s.active g
  .next (s.mapLanes fun h => (if h.takes g then f (s.present act h) h else h).advance s.cur)

/-! ### Moves (R200, R203) -/

/-- The reading lane's value of A from logical lane l, with the fill of an absent lane. -/
def sourceLane (a : Src) (t : Fmt) (fz : Bool) (grp : List (Nat × Hart)) (h : Hart) (l : Option Nat) : Nat :=
  match l.bind (presentLane grp) with
  | some k => k.pattern a t
  | none => if fz then 0 else h.pattern a t

/-- A move of A between lanes; `f` names the source lane from the reading lane, its number and the group's width. -/
def laneMove (g : Guard) (d : Reg) (a : Src) (t : Option Fmt) (fz : Bool) (f : Hart → Nat → Option Nat) (s : State) :
    Host.Outcome State Fault Refusal :=
  let T := t.getD .n32
  crossOp g (fun grp h =>
    let l := (f h (s.laneOf h)).filter fun l => l < s.widthOf h
    h.writePattern d.toNat T (sourceLane a T fz grp h l)) s

def execShfl (g : Guard) (d : Reg) (a b : Src) (t : Option Fmt) (fz : Bool) (s : State) : Host.Outcome State Fault Refusal :=
  laneMove g d a t fz (fun h _ => some (h.word b)) s

def execBfly (g : Guard) (d : Reg) (a : Src) (n : BitVec 6) (t : Option Fmt) (fz : Bool) (s : State) : Host.Outcome State Fault Refusal :=
  laneMove g d a t fz (fun _ l => some (Nat.xor l n.toNat)) s

def execShup (g : Guard) (d : Reg) (a : Src) (n : BitVec 6) (t : Option Fmt) (fz : Bool) (s : State) : Host.Outcome State Fault Refusal :=
  laneMove g d a t fz (fun _ l => if n.toNat ≤ l then some (l - n.toNat) else none) s

def execShdn (g : Guard) (d : Reg) (a : Src) (n : BitVec 6) (t : Option Fmt) (fz : Bool) (s : State) : Host.Outcome State Fault Refusal :=
  laneMove g d a t fz (fun _ l => some (l + n.toNat)) s

def execBcast (g : Guard) (d : Reg) (a : Src) (n : BitVec 6) (t : Option Fmt) (fz : Bool) (s : State) : Host.Outcome State Fault Refusal :=
  laneMove g d a t fz (fun _ _ => some n.toNat) s

/-! ### Census and match (R204, R205) -/

/-- The mask of the lanes of a group that satisfy p. -/
def laneMask (p : Hart → Bool) (grp : List (Nat × Hart)) : DWord :=
  grp.foldl (fun m e => if p e.2 then setBits m e.1 1 1 else m) 0

def execPcens (g : Guard) (k : Census) (d : BitVec 6) (pa : BitVec 3) (n : BitVec 6) (s : State) : Host.Outcome State Fault Refusal :=
  crossOp g (fun grp h =>
    let total := grp.length
    let c := grp.countP fun e => e.2.pred pa
    let pd := d.extractLsb' 0 3
    match k with
    | .mask => h.setReg64 d.toNat (laneMask (fun h => h.pred pa) grp)
    | .cnt => h.setWord d.toNat (c + 2 ^ 8 * total)
    | .atl => h.setPred pd (decide (n.toNat + 1 ≤ c))
    | .maj => h.setPred pd (decide (total < 2 * c))
    | .full => h.setPred pd (c == total)) s

def execMatchLane (g : Guard) (d : Reg) (a : Src) (t : Option Fmt) (s : State) : Host.Outcome State Fault Refusal :=
  let T := t.getD .n32
  crossOp g (fun grp h => h.setReg64 d.toNat (laneMask (fun k => k.pattern a T == h.pattern a T) grp)) s

/-! ### Reductions and scans (R206, R207) -/

/-- The operation of a reduction on two patterns of its type. -/
def redBits (op : RedOp) (t : Fmt) (x y : Nat) : Nat × FFlags :=
  if t.isFloat then
    match op with
    | .min => fminBits t false false x y
    | .max => fminBits t false true x y
    | _ => faddBits t .rne false x y
  else
    let lt := decide (intOf t.bits t.signed y < intOf t.bits t.signed x)
    (match op with
      | .add => (x + y) % 2 ^ t.bits
      | .min => if lt then y else x
      | .max => if lt then x else y
      | .and => x &&& y
      | .or => x ||| y
      | .xor => x ^^^ y, 0)

/-- The identity of a reduction as a pattern. -/
def redIdent (op : RedOp) (t : Fmt) : Nat :=
  if t.isFloat then
    match op with
    | .min | .max => Fmt.nanCode t
    | _ => Fmt.signBit t
  else
    match op with
    | .add | .or | .xor => 0
    | .and => 2 ^ t.bits - 1
    | .min => (fmtHi t % 2 ^ t.bits).toNat
    | .max => (fmtLo t % 2 ^ t.bits).toNat

/-- One level of the tree: each even place takes its right neighbour in. -/
def redLevel (f : Nat → Nat → Nat × FFlags) : List Nat → List Nat × FFlags
  | x :: y :: r =>
    let (l, fl) := redLevel f r
    ((f x y).1 :: l, (f x y).2 ||| fl)
  | l => (l, 0)

/-- n levels of the tree with the flags of all their operations. -/
def redTree (f : Nat → Nat → Nat × FFlags) : Nat → List Nat × FFlags → List Nat × FFlags
  | 0, r => r
  | n + 1, (l, fl) =>
    let (l', fl') := redLevel f l
    redTree f n (l', fl ||| fl')

/-- The values of a group by logical lane, with the identity in absent lanes. -/
def laneValues (op : RedOp) (a : Src) (t : Fmt) (w : Nat) (grp : List (Nat × Hart)) : List Nat :=
  (List.range w).map fun l => ((presentLane grp l).map fun h => h.pattern a t).getD (redIdent op t)

def execRedux (g : Guard) (op : RedOp) (d : Reg) (a : Src) (t : Option Fmt) (s : State) : Host.Outcome State Fault Refusal :=
  let T := t.getD .i32
  crossOp g (fun grp h =>
    let w := s.widthOf h
    let r := redTree (redBits op T) (Nat.log2 w) (laneValues op a T w grp, 0)
    { h.writePattern d.toNat T (r.1.headD 0) with fpstat := h.fpstat ||| r.2 }) s

/-- One step of a scan at distance e, from the values before it. -/
def scanStep (f : Nat → Nat → Nat × FFlags) (e : Nat) (v : List Nat) : List Nat × FFlags :=
  let rs := List.zipWith f v (v.drop e)
  (v.take e ++ rs.map Prod.fst, rs.foldl (fun x r => x ||| r.2) 0)

def scanAll (f : Nat → Nat → Nat × FFlags) : List Nat → List Nat × FFlags → List Nat × FFlags
  | [], r => r
  | e :: es, (v, fl) =>
    let (v', fl') := scanStep f e v
    scanAll f es (v', fl ||| fl')

def execScan (g : Guard) (op : RedOp) (d : Reg) (a : Src) (t : Option Fmt) (ex : Bool) (s : State) : Host.Outcome State Fault Refusal :=
  let T := t.getD .i32
  crossOp g (fun grp h =>
    let w := s.widthOf h
    let r := scanAll (redBits op T) ((List.range (Nat.log2 w)).map fun i => 2 ^ i) (laneValues op a T w grp, 0)
    let out := if ex then redIdent op T :: r.1 else r.1
    { h.writePattern d.toNat T (out.getD (s.laneOf h) 0) with fpstat := h.fpstat ||| r.2 }) s

end Sys2Proof.Machine
end

