-- ==== Sys2Proof/Decode.lean ====
section
/-! DEFINITION. The decoder, total on any words, and the encoder, from the encoding tables of the spec. A field record that
is not the record of a well-formed instruction is rejected by name. -/

namespace Sys2Proof

/-- Why a sequence of words is not an instruction: too few words, or the encoding faults of R86 that the words alone show. -/
inductive DecodeError where
  | truncated
  | illegalOpcode
  | illegalModifier
deriving DecidableEq, Repr

def Fmt.code : Fmt → BitVec 4
  | .n8 => 0x0 | .i8 => 0x1 | .n16 => 0x2 | .i16 => 0x3 | .n32 => 0x4 | .i32 => 0x5 | .n64 => 0x6 | .i64 => 0x7
  | .f32 => 0x8 | .f16 => 0x9 | .bf16 => 0xA | .e4m3 => 0xB | .e5m2 => 0xC | .bp => 0xD

/-- Codes 0xE and 0xF are reserved (R105). -/
def Fmt.ofCode (c : BitVec 4) : Option Fmt :=
  match c.toNat with
  | 0 => some .n8 | 1 => some .i8 | 2 => some .n16 | 3 => some .i16 | 4 => some .n32 | 5 => some .i32 | 6 => some .n64
  | 7 => some .i64 | 8 => some .f32 | 9 => some .f16 | 10 => some .bf16 | 11 => some .e4m3 | 12 => some .e5m2
  | 13 => some .bp | _ => none

/-- TX and FMT of R141 and its like: 0 for the default type. -/
def tyField (t : Option Fmt) : BitVec 5 :=
  match t with
  | none => 0
  | some f => 1#1 ++ f.code

def tyOfField (b : BitVec 5) : Option (Option Fmt) :=
  if b.getLsbD 4 then (Fmt.ofCode (b.extractLsb' 0 4)).map some else if b = 0 then some none else none

def Round.code : Round → BitVec 3
  | .rne => 0 | .rtz => 1 | .rup => 2 | .rdn => 3 | .rsr => 4

def Round.ofCode (c : BitVec 3) : Option Round :=
  match c.toNat with
  | 0 => some .rne | 1 => some .rtz | 2 => some .rup | 3 => some .rdn | 4 => some .rsr | _ => none

/-- The two-bit field of SCLX (R185). -/
def Round.code2 (r : Round) : BitVec 2 := r.code.extractLsb' 0 2

def Round.ofCode2 (c : BitVec 2) : Round :=
  match c.toNat with
  | 0 => .rne | 1 => .rtz | 2 => .rup | _ => .rdn

def MoviKind.code : MoviKind → BitVec 3
  | .sext => 0 | .zext => 1 | .hi => 2

def MoviKind.ofCode (c : BitVec 3) : Option MoviKind :=
  match c.toNat with
  | 0 => some .sext | 1 => some .zext | 2 => some .hi | _ => none

def Cond.code : Cond → BitVec 3
  | .eq => 0 | .ne => 1 | .lt => 2 | .le => 3 | .gt => 4 | .ge => 5

def Cond.ofCode (c : BitVec 3) : Option Cond :=
  match c.toNat with
  | 0 => some .eq | 1 => some .ne | 2 => some .lt | 3 => some .le | 4 => some .gt | 5 => some .ge | _ => none

def FCond.code : FCond → BitVec 3
  | .eq => 0 | .ne => 1 | .lt => 2 | .le => 3 | .gt => 4 | .ge => 5 | .un => 6 | .or => 7

def FCond.ofCode (c : BitVec 3) : Option FCond :=
  match c.toNat with
  | 0 => some .eq | 1 => some .ne | 2 => some .lt | 3 => some .le | 4 => some .gt | 5 => some .ge | 6 => some .un
  | _ => some .or

def Census.code : Census → BitVec 3
  | .mask => 0 | .cnt => 1 | .atl => 2 | .maj => 3 | .full => 4

def Census.ofCode (c : BitVec 3) : Option Census :=
  match c.toNat with
  | 0 => some .mask | 1 => some .cnt | 2 => some .atl | 3 => some .maj | 4 => some .full | _ => none

def RedOp.code : RedOp → BitVec 3
  | .add => 0 | .min => 1 | .max => 2 | .and => 3 | .or => 4 | .xor => 5

def RedOp.ofCode (c : BitVec 3) : Option RedOp :=
  match c.toNat with
  | 0 => some .add | 1 => some .min | 2 => some .max | 3 => some .and | 4 => some .or | 5 => some .xor | _ => none

def AtomOp.code : AtomOp → BitVec 3
  | .add => 0 | .min => 1 | .max => 2 | .and => 3 | .or => 4 | .xor => 5 | .exch => 6

def AtomOp.ofCode (c : BitVec 3) : Option AtomOp :=
  match c.toNat with
  | 0 => some .add | 1 => some .min | 2 => some .max | 3 => some .and | 4 => some .or | 5 => some .xor | 6 => some .exch
  | _ => none

def Scope.code : Scope → BitVec 3
  | .lane => 0 | .core => 1 | .cluster => 2 | .die => 3 | .device => 4 | .system => 5

def Scope.ofCode (c : BitVec 3) : Option Scope :=
  match c.toNat with
  | 0 => some .lane | 1 => some .core | 2 => some .cluster | 3 => some .die | 4 => some .device | 5 => some .system
  | _ => none

/-- The fields of an instruction's words (R52 to R54). -/
structure Raw where
  op : BitVec 8
  g : BitVec 3 := 7
  gn : Bool := false
  d : BitVec 6 := 0
  a : BitVec 6 := 0
  b : BitVec 6 := 0
  c : BitVec 6 := 0
  mod : BitVec 10 := 0
  imm : BitVec 16 := 0
  sl : BitVec 3 := 0
  scope : BitVec 3 := 0
  patn : BitVec 8 := 0
  bolt : BitVec 6 := 0
  count : BitVec 12 := 0
  lit : Option (BitVec 64) := none
deriving DecidableEq, Repr

def Raw.guard (r : Raw) : Guard := ⟨r.g, r.gn⟩

/-- A source field: 63 takes the literal when the words hold one (R57). -/
def Raw.src (r : Raw) (f : BitVec 6) : Src :=
  match r.lit with
  | some v => if f = 63 then .lit v else .reg f
  | none => .reg f

def Src.field : Src → BitVec 6
  | .reg r => r
  | .lit _ => 63

def litOf (l : List Src) : Option (BitVec 64) :=
  l.findSome? fun x => match x with
    | .lit v => some v
    | .reg _ => none

/-- The lengths an instruction may be written in: any of R51, the 1-word form alone (R55), or the one form that carries a
target (R212). -/
inductive Form where
  | any | oneWord | near | far
deriving DecidableEq, Repr

/-- Words of an instruction by its LEN field (R51). -/
def lenWords (len : BitVec 2) : Nat :=
  match len.toNat with
  | 0 => 1 | 1 => 3 | 2 => 3 | _ => 5

/-- The fields of an instruction's words, from the encoding tables; an event has no words. -/
def Instr.raw? : Instr → Option Raw
  | .nop g => some { op := 0x00, g := g.pred, gn := g.neg }
  | .pad label => some { op := 0x01, d := label.extractLsb' 0 6, a := label.extractLsb' 6 6, b := 0#2 ++ label.extractLsb' 12 4 }
  | .bra g target => some { op := 0x02, g := g.pred, gn := g.neg, imm := target }
  | .braFar g target => some { op := 0x02, g := g.pred, gn := g.neg, a := 63, lit := some (0#32 ++ target) }
  | .brx g jt ix => some { op := 0x03, g := g.pred, gn := g.neg, b := jt, a := ix.field, lit := litOf [ix] }
  | .call g d target => some { op := 0x04, g := g.pred, gn := g.neg, d := d, imm := target }
  | .callFar g d target => some { op := 0x04, g := g.pred, gn := g.neg, d := d, a := 63, lit := some (0#32 ++ target) }
  | .callx g d jt ix => some { op := 0x05, g := g.pred, gn := g.neg, d := d, b := jt, a := ix.field, lit := litOf [ix] }
  | .ret g a => some { op := 0x06, g := g.pred, gn := g.neg, a := a.field, lit := litOf [a] }
  | .seam g n => some { op := 0x07, g := g.pred, gn := g.neg, d := 0#2 ++ n }
  | .join g n => some { op := 0x08, g := g.pred, gn := g.neg, d := 0#2 ++ n }
  | .wait g mask => some { op := 0x09, g := g.pred, gn := g.neg, d := mask.extractLsb' 0 6, a := mask.extractLsb' 6 6 }
  | .cut g n target => some { op := 0x0A, g := g.pred, gn := g.neg, d := 0#2 ++ n, imm := target }
  | .cutFar g n target => some { op := 0x0A, g := g.pred, gn := g.neg, d := 0#2 ++ n, a := 63, lit := some (0#32 ++ target) }
  | .rep g byReg a n sd sa sb sc => some { op := 0x0B, g := g.pred, gn := g.neg, a := a.field, mod := 0#1 ++ (BitVec.ofBool byReg) ++ sc ++ sb ++ sa ++ sd, imm := n, lit := litOf [a] }
  | .exit g => some { op := 0x0C, g := g.pred, gn := g.neg }
  | .yield g => some { op := 0x0D, g := g.pred, gn := g.neg }
  | .dqput g pd a => some { op := 0x0E, g := g.pred, gn := g.neg, d := 0#3 ++ pd, a := a.field, lit := litOf [a] }
  | .dqget g d => some { op := 0x0F, g := g.pred, gn := g.neg, d := d, mod := 0#9 ++ 0#1 }
  | .dqgetLo g d => some { op := 0x0F, g := g.pred, gn := g.neg, d := d, mod := 0#9 ++ 1#1 }
  | .dqpeek g d pb => some { op := 0x10, g := g.pred, gn := g.neg, d := d, b := 0#3 ++ pb, mod := 0#9 ++ 0#1 }
  | .dqpeekLo g d pb => some { op := 0x10, g := g.pred, gn := g.neg, d := d, b := 0#3 ++ pb, mod := 0#9 ++ 1#1 }
  | .mov g d a t => some { op := 0x20, g := g.pred, gn := g.neg, d := d, a := a.field, mod := 0#1 ++ 0#3 ++ 0#1 ++ (tyField t), lit := litOf [a] }
  | .movId g d i => some { op := 0x20, g := g.pred, gn := g.neg, d := d, a := 0#2 ++ i, mod := 0#1 ++ 1#3 ++ 0#6 }
  | .movi g d k imm => some { op := 0x21, g := g.pred, gn := g.neg, d := d, mod := 0#1 ++ k.code ++ 0#6, imm := imm }
  | .add g d a b t sat => some { op := 0x22, g := g.pred, gn := g.neg, d := d, a := a.field, b := b.field, mod := 0#4 ++ (BitVec.ofBool sat) ++ (tyField t), lit := litOf [a, b] }
  | .sub g d a b t sat => some { op := 0x23, g := g.pred, gn := g.neg, d := d, a := a.field, b := b.field, mod := 0#4 ++ (BitVec.ofBool sat) ++ (tyField t), lit := litOf [a, b] }
  | .addc g d a b pc => some { op := 0x24, g := g.pred, gn := g.neg, d := d, a := a.field, b := b.field, c := 0#3 ++ pc, lit := litOf [a, b] }
  | .subb g d a b pc => some { op := 0x25, g := g.pred, gn := g.neg, d := d, a := a.field, b := b.field, c := 0#3 ++ pc, lit := litOf [a, b] }
  | .mul g d a b t sat => some { op := 0x26, g := g.pred, gn := g.neg, d := d, a := a.field, b := b.field, mod := 0#4 ++ (BitVec.ofBool sat) ++ (tyField t), lit := litOf [a, b] }
  | .mulhi g d a b t => some { op := 0x27, g := g.pred, gn := g.neg, d := d, a := a.field, b := b.field, mod := 0#5 ++ (tyField t), lit := litOf [a, b] }
  | .mulw g d a b t => some { op := 0x28, g := g.pred, gn := g.neg, d := d, a := a.field, b := b.field, mod := 0#5 ++ (tyField t), lit := litOf [a, b] }
  | .mad g d a b c t sat => some { op := 0x29, g := g.pred, gn := g.neg, d := d, a := a.field, b := b.field, c := c.field, mod := 0#4 ++ (BitVec.ofBool sat) ++ (tyField t), lit := litOf [a, b, c] }
  | .min g d a b t => some { op := 0x2A, g := g.pred, gn := g.neg, d := d, a := a.field, b := b.field, mod := 0#5 ++ (tyField t), lit := litOf [a, b] }
  | .max g d a b t => some { op := 0x2B, g := g.pred, gn := g.neg, d := d, a := a.field, b := b.field, mod := 0#5 ++ (tyField t), lit := litOf [a, b] }
  | .abs g d a t sat => some { op := 0x2C, g := g.pred, gn := g.neg, d := d, a := a.field, mod := 0#4 ++ (BitVec.ofBool sat) ++ (tyField t), lit := litOf [a] }
  | .and g d a b t => some { op := 0x2D, g := g.pred, gn := g.neg, d := d, a := a.field, b := b.field, mod := 0#5 ++ (tyField t), lit := litOf [a, b] }
  | .or g d a b t => some { op := 0x2E, g := g.pred, gn := g.neg, d := d, a := a.field, b := b.field, mod := 0#5 ++ (tyField t), lit := litOf [a, b] }
  | .xor g d a b t => some { op := 0x2F, g := g.pred, gn := g.neg, d := d, a := a.field, b := b.field, mod := 0#5 ++ (tyField t), lit := litOf [a, b] }
  | .andn g d a b t => some { op := 0x30, g := g.pred, gn := g.neg, d := d, a := a.field, b := b.field, mod := 0#5 ++ (tyField t), lit := litOf [a, b] }
  | .shl g d a b t => some { op := 0x31, g := g.pred, gn := g.neg, d := d, a := a.field, b := b.field, mod := 0#5 ++ (tyField t), lit := litOf [a, b] }
  | .shr g d a b t => some { op := 0x32, g := g.pred, gn := g.neg, d := d, a := a.field, b := b.field, mod := 0#5 ++ (tyField t), lit := litOf [a, b] }
  | .sar g d a b t => some { op := 0x33, g := g.pred, gn := g.neg, d := d, a := a.field, b := b.field, mod := 0#5 ++ (tyField t), lit := litOf [a, b] }
  | .rot g d a b t => some { op := 0x34, g := g.pred, gn := g.neg, d := d, a := a.field, b := b.field, mod := 0#5 ++ (tyField t), lit := litOf [a, b] }
  | .bfx g d a b t => some { op := 0x35, g := g.pred, gn := g.neg, d := d, a := a.field, b := b.field, mod := 0#5 ++ (tyField t), lit := litOf [a, b] }
  | .bfi g d a b c t => some { op := 0x36, g := g.pred, gn := g.neg, d := d, a := a.field, b := b.field, c := c.field, mod := 0#5 ++ (tyField t), lit := litOf [a, b, c] }
  | .popc g d a t => some { op := 0x37, g := g.pred, gn := g.neg, d := d, a := a.field, mod := 0#5 ++ (tyField t), lit := litOf [a] }
  | .clz g d a t => some { op := 0x38, g := g.pred, gn := g.neg, d := d, a := a.field, mod := 0#5 ++ (tyField t), lit := litOf [a] }
  | .brev g d a t => some { op := 0x39, g := g.pred, gn := g.neg, d := d, a := a.field, mod := 0#5 ++ (tyField t), lit := litOf [a] }
  | .bpick g d a b byReg c pick => some { op := 0x3A, g := g.pred, gn := g.neg, d := d, a := a.field, b := b.field, c := c.field, mod := 0#3 ++ (BitVec.ofBool byReg) ++ 0#6, imm := pick, lit := litOf [a, b, c] }
  | .lea g d a b s t => some { op := 0x3B, g := g.pred, gn := g.neg, d := d, a := a.field, b := b.field, mod := 0#5 ++ (tyField t), imm := 0#13 ++ s, lit := litOf [a, b] }
  | .cmp g cond pd a b t => some { op := 0x3C, g := g.pred, gn := g.neg, d := 0#3 ++ pd, a := a.field, b := b.field, mod := 0#1 ++ cond.code ++ 0#1 ++ (tyField t), lit := litOf [a, b] }
  | .sel g d a b pc neg t => some { op := 0x3D, g := g.pred, gn := g.neg, d := d, a := a.field, b := b.field, c := 0#3 ++ pc, mod := 0#3 ++ (BitVec.ofBool neg) ++ 0#1 ++ (tyField t), lit := litOf [a, b] }
  | .plop g pd pa pb pc lut => some { op := 0x3E, g := g.pred, gn := g.neg, d := 0#3 ++ pd, a := 0#3 ++ pa, b := 0#3 ++ pb, c := 0#3 ++ pc, mod := 0#1 ++ 0#3 ++ 0#6, imm := 0#8 ++ lut }
  | .plopPk g d => some { op := 0x3E, g := g.pred, gn := g.neg, d := d, mod := 0#1 ++ 1#3 ++ 0#6 }
  | .plopUpk g a mask => some { op := 0x3E, g := g.pred, gn := g.neg, a := a.field, mod := 0#1 ++ 2#3 ++ 0#6, imm := 0#9 ++ mask, lit := litOf [a] }
  | .divn g d a b t sat => some { op := 0x3F, g := g.pred, gn := g.neg, d := d, a := a.field, b := b.field, mod := 0#4 ++ (BitVec.ofBool sat) ++ (tyField t), lit := litOf [a, b] }
  | .fadd g d a b t rm ftz => some { op := 0x40, g := g.pred, gn := g.neg, d := d, a := a.field, b := b.field, mod := 0#1 ++ (BitVec.ofBool ftz) ++ rm.code ++ (tyField t), lit := litOf [a, b] }
  | .fsub g d a b t rm ftz => some { op := 0x41, g := g.pred, gn := g.neg, d := d, a := a.field, b := b.field, mod := 0#1 ++ (BitVec.ofBool ftz) ++ rm.code ++ (tyField t), lit := litOf [a, b] }
  | .fmul g d a b t rm ftz => some { op := 0x42, g := g.pred, gn := g.neg, d := d, a := a.field, b := b.field, mod := 0#1 ++ (BitVec.ofBool ftz) ++ rm.code ++ (tyField t), lit := litOf [a, b] }
  | .ffma g d a b c t rm ftz => some { op := 0x43, g := g.pred, gn := g.neg, d := d, a := a.field, b := b.field, c := c.field, mod := 0#1 ++ (BitVec.ofBool ftz) ++ rm.code ++ (tyField t), lit := litOf [a, b, c] }
  | .fmin g d a b t ftz => some { op := 0x44, g := g.pred, gn := g.neg, d := d, a := a.field, b := b.field, mod := 0#1 ++ (BitVec.ofBool ftz) ++ 0#3 ++ (tyField t), lit := litOf [a, b] }
  | .fmax g d a b t ftz => some { op := 0x45, g := g.pred, gn := g.neg, d := d, a := a.field, b := b.field, mod := 0#1 ++ (BitVec.ofBool ftz) ++ 0#3 ++ (tyField t), lit := litOf [a, b] }
  | .fcmp g cond pd a b t ftz => some { op := 0x46, g := g.pred, gn := g.neg, d := 0#3 ++ pd, a := a.field, b := b.field, mod := 0#1 ++ (BitVec.ofBool ftz) ++ cond.code ++ (tyField t), lit := litOf [a, b] }
  | .fclass g d a t => some { op := 0x47, g := g.pred, gn := g.neg, d := d, a := a.field, mod := 0#5 ++ (tyField t), lit := litOf [a] }
  | .frcp g d a t rm ftz => some { op := 0x48, g := g.pred, gn := g.neg, d := d, a := a.field, mod := 0#1 ++ (BitVec.ofBool ftz) ++ rm.code ++ (tyField t), lit := litOf [a] }
  | .frsq g d a t rm ftz => some { op := 0x49, g := g.pred, gn := g.neg, d := d, a := a.field, mod := 0#1 ++ (BitVec.ofBool ftz) ++ rm.code ++ (tyField t), lit := litOf [a] }
  | .fsqrt g d a t rm ftz => some { op := 0x4A, g := g.pred, gn := g.neg, d := d, a := a.field, mod := 0#1 ++ (BitVec.ofBool ftz) ++ rm.code ++ (tyField t), lit := litOf [a] }
  | .fexp2 g d a t ftz => some { op := 0x4B, g := g.pred, gn := g.neg, d := d, a := a.field, mod := 0#1 ++ (BitVec.ofBool ftz) ++ 0#3 ++ (tyField t), lit := litOf [a] }
  | .flog2 g d a t ftz => some { op := 0x4C, g := g.pred, gn := g.neg, d := d, a := a.field, mod := 0#1 ++ (BitVec.ofBool ftz) ++ 0#3 ++ (tyField t), lit := litOf [a] }
  | .fsin g d a t ftz => some { op := 0x4D, g := g.pred, gn := g.neg, d := d, a := a.field, mod := 0#1 ++ (BitVec.ofBool ftz) ++ 0#3 ++ (tyField t), lit := litOf [a] }
  | .fcos g d a t ftz => some { op := 0x4E, g := g.pred, gn := g.neg, d := d, a := a.field, mod := 0#1 ++ (BitVec.ofBool ftz) ++ 0#3 ++ (tyField t), lit := litOf [a] }
  | .fdiv g d a b t rm ftz => some { op := 0x4F, g := g.pred, gn := g.neg, d := d, a := a.field, b := b.field, mod := 0#1 ++ (BitVec.ofBool ftz) ++ rm.code ++ (tyField t), lit := litOf [a, b] }
  | .hadd2 g d a b t rm ftz => some { op := 0x50, g := g.pred, gn := g.neg, d := d, a := a.field, b := b.field, mod := 0#1 ++ (BitVec.ofBool ftz) ++ rm.code ++ (tyField t), lit := litOf [a, b] }
  | .hmul2 g d a b t rm ftz => some { op := 0x51, g := g.pred, gn := g.neg, d := d, a := a.field, b := b.field, mod := 0#1 ++ (BitVec.ofBool ftz) ++ rm.code ++ (tyField t), lit := litOf [a, b] }
  | .hfma2 g d a b c t rm ftz => some { op := 0x52, g := g.pred, gn := g.neg, d := d, a := a.field, b := b.field, c := c.field, mod := 0#1 ++ (BitVec.ofBool ftz) ++ rm.code ++ (tyField t), lit := litOf [a, b, c] }
  | .hmin2 g d a b t ftz => some { op := 0x53, g := g.pred, gn := g.neg, d := d, a := a.field, b := b.field, mod := 0#1 ++ (BitVec.ofBool ftz) ++ 0#3 ++ (tyField t), lit := litOf [a, b] }
  | .hmax2 g d a b t ftz => some { op := 0x54, g := g.pred, gn := g.neg, d := d, a := a.field, b := b.field, mod := 0#1 ++ (BitVec.ofBool ftz) ++ 0#3 ++ (tyField t), lit := litOf [a, b] }
  | .hcmp2 g cond pd a b t ftz => some { op := 0x55, g := g.pred, gn := g.neg, d := 0#3 ++ pd, a := a.field, b := b.field, mod := 0#1 ++ (BitVec.ofBool ftz) ++ cond.code ++ (tyField t), lit := litOf [a, b] }
  | .dot4 g d a b c t rm ftz sat => some { op := 0x56, g := g.pred, gn := g.neg, d := d, a := a.field, b := b.field, c := c.field, mod := (BitVec.ofBool sat) ++ (BitVec.ofBool ftz) ++ rm.code ++ (tyField t), lit := litOf [a, b, c] }
  | .dot2 g d a b c t rm ftz => some { op := 0x57, g := g.pred, gn := g.neg, d := d, a := a.field, b := b.field, c := c.field, mod := 0#1 ++ (BitVec.ofBool ftz) ++ rm.code ++ (tyField t), lit := litOf [a, b, c] }
  | .vadd4 g d a b t sat => some { op := 0x58, g := g.pred, gn := g.neg, d := d, a := a.field, b := b.field, mod := (BitVec.ofBool sat) ++ 0#4 ++ (tyField t), lit := litOf [a, b] }
  | .vsub4 g d a b t sat => some { op := 0x59, g := g.pred, gn := g.neg, d := d, a := a.field, b := b.field, mod := (BitVec.ofBool sat) ++ 0#4 ++ (tyField t), lit := litOf [a, b] }
  | .cvt g d a df sf rm sat ftz pk => some { op := 0x60, g := g.pred, gn := g.neg, d := d, a := a.field, mod := (BitVec.ofBool pk) ++ (BitVec.ofBool ftz) ++ (BitVec.ofBool sat) ++ rm.code ++ df.code, imm := 0#12 ++ sf.code, lit := litOf [a] }
  | .cvtsr g d a df sf b xr sat ftz pk => some { op := 0x61, g := g.pred, gn := g.neg, d := d, a := a.field, b := b.field, mod := (BitVec.ofBool pk) ++ (BitVec.ofBool ftz) ++ (BitVec.ofBool sat) ++ 0#2 ++ (BitVec.ofBool xr) ++ df.code, imm := 0#12 ++ sf.code, lit := litOf [a, b] }
  | .srseed g a which => some { op := 0x62, g := g.pred, gn := g.neg, a := a.field, mod := 0#8 ++ which, lit := litOf [a] }
  | .qnt g d a df sf b planes rm sat ftz pk => some { op := 0x63, g := g.pred, gn := g.neg, d := d, a := a.field, b := b.field, mod := (BitVec.ofBool pk) ++ (BitVec.ofBool ftz) ++ (BitVec.ofBool sat) ++ rm.code ++ df.code, imm := 0#8 ++ planes ++ sf.code, lit := litOf [a, b] }
  | .dqnt g d a df sf b planes rm sat ftz pk => some { op := 0x64, g := g.pred, gn := g.neg, d := d, a := a.field, b := b.field, mod := (BitVec.ofBool pk) ++ (BitVec.ofBool ftz) ++ (BitVec.ofBool sat) ++ rm.code ++ df.code, imm := 0#8 ++ planes ++ sf.code, lit := litOf [a, b] }
  | .plpack g d a P p => some { op := 0x65, g := g.pred, gn := g.neg, d := d, a := a, imm := 0#8 ++ p ++ P }
  | .plunpk g d a P k => some { op := 0x66, g := g.pred, gn := g.neg, d := d, a := a.field, imm := 0#8 ++ k ++ P, lit := litOf [a] }
  | .plext g d a P k os => some { op := 0x67, g := g.pred, gn := g.neg, d := d, a := a.field, mod := 0#9 ++ (BitVec.ofBool os), imm := 0#8 ++ k ++ P, lit := litOf [a] }
  | .f8algn g d a b f mx => some { op := 0x68, g := g.pred, gn := g.neg, d := d, a := a.field, b := b.field, mod := 0#5 ++ (BitVec.ofBool mx) ++ f.code, lit := litOf [a, b] }
  | .sclx g d a b df rm bi sat ftz => some { op := 0x69, g := g.pred, gn := g.neg, d := d, a := a.field, b := b.field, mod := 0#1 ++ (BitVec.ofBool ftz) ++ (BitVec.ofBool sat) ++ (BitVec.ofBool bi) ++ rm.code2 ++ df.code, lit := litOf [a, b] }
  | .shfl g d a b t fz => some { op := 0x6A, g := g.pred, gn := g.neg, d := d, a := a.field, b := b.field, mod := 0#1 ++ (BitVec.ofBool fz) ++ 0#3 ++ (tyField t), lit := litOf [a, b] }
  | .bfly g d a n t fz => some { op := 0x6B, g := g.pred, gn := g.neg, d := d, a := a.field, mod := 0#1 ++ (BitVec.ofBool fz) ++ 0#3 ++ (tyField t), imm := 0#10 ++ n, lit := litOf [a] }
  | .shup g d a n t fz => some { op := 0x6C, g := g.pred, gn := g.neg, d := d, a := a.field, mod := 0#1 ++ (BitVec.ofBool fz) ++ 0#3 ++ (tyField t), imm := 0#10 ++ n, lit := litOf [a] }
  | .shdn g d a n t fz => some { op := 0x6D, g := g.pred, gn := g.neg, d := d, a := a.field, mod := 0#1 ++ (BitVec.ofBool fz) ++ 0#3 ++ (tyField t), imm := 0#10 ++ n, lit := litOf [a] }
  | .bcast g d a n t fz => some { op := 0x6E, g := g.pred, gn := g.neg, d := d, a := a.field, mod := 0#1 ++ (BitVec.ofBool fz) ++ 0#3 ++ (tyField t), imm := 0#10 ++ n, lit := litOf [a] }
  | .pcens g k d pa n => some { op := 0x6F, g := g.pred, gn := g.neg, d := d, a := 0#3 ++ pa, mod := 0#2 ++ k.code ++ 0#5, imm := 0#10 ++ n }
  | .redux g op d a t => some { op := 0x70, g := g.pred, gn := g.neg, d := d, a := a.field, mod := 0#2 ++ op.code ++ (tyField t), lit := litOf [a] }
  | .scan g op d a t ex => some { op := 0x71, g := g.pred, gn := g.neg, d := d, a := a.field, mod := (BitVec.ofBool ex) ++ 0#1 ++ op.code ++ (tyField t), lit := litOf [a] }
  | .matchLane g d a t => some { op := 0x72, g := g.pred, gn := g.neg, d := d, a := a.field, mod := 0#5 ++ (tyField t), lit := litOf [a] }
  | .ld g d bolt ix t sx sl => some { op := 0x80, g := g.pred, gn := g.neg, d := d, bolt := bolt, a := ix.field, sl := sl, mod := 0#4 ++ (BitVec.ofBool sx) ++ (tyField t), lit := litOf [ix] }
  | .st g bolt ix b t sx sl => some { op := 0x81, g := g.pred, gn := g.neg, bolt := bolt, a := ix.field, b := b.field, sl := sl, mod := 0#4 ++ (BitVec.ofBool sx) ++ (tyField t), lit := litOf [ix, b] }
  | .ldq g d bolt ix n t sx sl => some { op := 0x82, g := g.pred, gn := g.neg, d := d, bolt := bolt, a := ix.field, count := n, sl := sl, mod := 0#4 ++ (BitVec.ofBool sx) ++ (tyField t), lit := litOf [ix] }
  | .stq g bolt ix b n t sx sl => some { op := 0x83, g := g.pred, gn := g.neg, bolt := bolt, a := ix.field, b := b.field, count := n, sl := sl, mod := 0#4 ++ (BitVec.ofBool sx) ++ (tyField t), lit := litOf [ix, b] }
  | .ldro g d bolt ix t sx sl => some { op := 0x84, g := g.pred, gn := g.neg, d := d, bolt := bolt, a := ix.field, sl := sl, mod := 0#4 ++ (BitVec.ofBool sx) ++ (tyField t), lit := litOf [ix] }
  | .pref g bolt ix sl => some { op := 0x85, g := g.pred, gn := g.neg, bolt := bolt, a := ix.field, sl := sl, lit := litOf [ix] }
  | .migr g bolt ix sx sl => some { op := 0x86, g := g.pred, gn := g.neg, bolt := bolt, a := ix.field, sl := sl, mod := 0#4 ++ (BitVec.ofBool sx) ++ 0#5, lit := litOf [ix] }
  | .spawn g pd bolt ix b c target sl => some { op := 0x87, g := g.pred, gn := g.neg, d := 0#3 ++ pd, bolt := bolt, a := ix.field, b := b.field, c := c.field, sl := sl, imm := target, lit := litOf [ix, b, c] }
  | .phaseArv g d level sl => some { op := 0x88, g := g.pred, gn := g.neg, d := d, sl := sl, mod := 0#1 ++ 0#3 ++ 0#6, imm := 0#13 ++ level }
  | .phaseWait g a level sl => some { op := 0x88, g := g.pred, gn := g.neg, a := a.field, sl := sl, mod := 0#1 ++ 1#3 ++ 0#6, imm := 0#13 ++ level, lit := litOf [a] }
  | .fence g scope => some { op := 0x89, g := g.pred, gn := g.neg, scope := scope.code }
  | .fopen g fi bolt ix b step => some { op := 0x8A, g := g.pred, gn := g.neg, d := 0#5 ++ fi, bolt := bolt, a := ix.field, b := b.field, imm := step, lit := litOf [ix, b] }
  | .fnext g d pb fi sgn sx sl => some { op := 0x8B, g := g.pred, gn := g.neg, d := d, b := 0#3 ++ pb, a := 0#5 ++ fi, sl := sl, mod := 0#8 ++ (BitVec.ofBool sx) ++ (BitVec.ofBool sgn) }
  | .fpeek g d pb fi sgn sx sl => some { op := 0x8C, g := g.pred, gn := g.neg, d := d, b := 0#3 ++ pb, a := 0#5 ++ fi, sl := sl, mod := 0#8 ++ (BitVec.ofBool sx) ++ (BitVec.ofBool sgn) }
  | .fend g pd fi => some { op := 0x8D, g := g.pred, gn := g.neg, d := 0#3 ++ pd, a := 0#5 ++ fi }
  | .fclose g fi => some { op := 0x8E, g := g.pred, gn := g.neg, a := 0#5 ++ fi }
  | .atom g op d bolt ix b t sx sl scope => some { op := 0xA0, g := g.pred, gn := g.neg, d := d, bolt := bolt, a := ix.field, b := b.field, sl := sl, scope := scope.code, mod := 0#1 ++ op.code ++ (BitVec.ofBool sx) ++ (tyField t), lit := litOf [ix, b] }
  | .acas g d bolt ix b c t sx sl scope => some { op := 0xA1, g := g.pred, gn := g.neg, d := d, bolt := bolt, a := ix.field, b := b.field, c := c.field, sl := sl, scope := scope.code, mod := 0#4 ++ (BitVec.ofBool sx) ++ (tyField t), lit := litOf [ix, b, c] }
  | .ared g op bolt ix b t sl scope => some { op := 0xA2, g := g.pred, gn := g.neg, bolt := bolt, a := ix.field, b := b.field, sl := sl, scope := scope.code, mod := 0#1 ++ op.code ++ 0#1 ++ (tyField t), lit := litOf [ix, b] }
  | .afadd g d bolt ix b t sx sl scope => some { op := 0xA3, g := g.pred, gn := g.neg, d := d, bolt := bolt, a := ix.field, b := b.field, sl := sl, scope := scope.code, mod := 0#4 ++ (BitVec.ofBool sx) ++ (tyField t), lit := litOf [ix, b] }
  | .txopen g target => some { op := 0xA4, g := g.pred, gn := g.neg, imm := target }
  | .txseal g => some { op := 0xA5, g := g.pred, gn := g.neg }
  | .txretry g => some { op := 0xA6, g := g.pred, gn := g.neg }
  | .txelse g target => some { op := 0xA7, g := g.pred, gn := g.neg, imm := target }
  | .txdrop g code => some { op := 0xA8, g := g.pred, gn := g.neg, imm := 0#8 ++ code }
  | .txstat g d => some { op := 0xA9, g := g.pred, gn := g.neg, d := d }
  | .binit g bolt ix b => some { op := 0xAA, g := g.pred, gn := g.neg, bolt := bolt, a := ix.field, b := b.field, lit := litOf [ix, b] }
  | .bwait g bolt ix b => some { op := 0xAC, g := g.pred, gn := g.neg, bolt := bolt, a := ix.field, b := b.field, lit := litOf [ix, b] }
  | .bexp g bolt ix b => some { op := 0xAD, g := g.pred, gn := g.neg, bolt := bolt, a := ix.field, b := b.field, lit := litOf [ix, b] }
  | .barv g d bolt ix b thr => some { op := 0xAB, g := g.pred, gn := g.neg, d := d, bolt := bolt, a := ix.field, b := b.field, mod := 0#3 ++ (BitVec.ofBool thr) ++ 0#6, lit := litOf [ix, b] }
  | .hpush g nb pd h b nw => some { op := 0xAE, g := g.pred, gn := g.neg, d := 0#3 ++ pd, a := 0#1 ++ h, b := b.field, mod := 0#7 ++ (BitVec.ofBool nb) ++ nw, lit := litOf [b] }
  | .hpop g d h nw ka at_ => some { op := 0xAF, g := g.pred, gn := g.neg, d := d, a := 0#1 ++ h, mod := 0#5 ++ (BitVec.ofBool ka) ++ (BitVec.ofBool at_) ++ 0#1 ++ nw }
  | .htry g d pb h nw ka at_ => some { op := 0xB0, g := g.pred, gn := g.neg, d := d, b := 0#3 ++ pb, a := 0#1 ++ h, mod := 0#5 ++ (BitVec.ofBool ka) ++ (BitVec.ofBool at_) ++ 0#1 ++ nw }
  | .hpeek g d pb h k nw at_ => some { op := 0xB1, g := g.pred, gn := g.neg, d := d, b := 0#3 ++ pb, a := 0#1 ++ h, mod := 0#6 ++ (BitVec.ofBool at_) ++ 0#1 ++ nw, imm := 0#4 ++ k }
  | .hallow g h b => some { op := 0xB2, g := g.pred, gn := g.neg, a := 0#1 ++ h, b := b.field, lit := litOf [b] }
  | .hreset g h => some { op := 0xB3, g := g.pred, gn := g.neg, a := 0#1 ++ h, mod := 0#4 ++ 0#1 ++ 0#5 }
  | .hresetDef g h b => some { op := 0xB3, g := g.pred, gn := g.neg, a := 0#1 ++ h, b := b.field, mod := 0#4 ++ 1#1 ++ 0#5, lit := litOf [b] }
  | .cpy g sh dh bsp src dst a b c n sl => some { op := 0xC0, g := g.pred, gn := g.neg, a := a.field, b := b.field, c := c.field, count := n, sl := sl, mod := 0#6 ++ bsp ++ (BitVec.ofBool dh) ++ (BitVec.ofBool sh), imm := dst ++ src, lit := litOf [a, b, c] }
  | .cpym g d sh bsp src dst a b c n scope sl => some { op := 0xC1, g := g.pred, gn := g.neg, d := d, a := a.field, b := b.field, c := c.field, count := n, scope := scope.code, sl := sl, mod := 0#6 ++ bsp ++ 0#1 ++ (BitVec.ofBool sh), imm := dst ++ src, lit := litOf [a, b, c] }
  | .cpyo g any slot bsp a c sl => some { op := 0xC2, g := g.pred, gn := g.neg, a := a.field, c := c.field, sl := sl, mod := 0#5 ++ (BitVec.ofBool any) ++ bsp ++ 0#2, imm := 0#14 ++ slot, lit := litOf [a, c] }
  | .gath g sh dh bsp src dst bolt a b c n sl => some { op := 0xC3, g := g.pred, gn := g.neg, bolt := bolt, a := a.field, b := b.field, c := c.field, count := n, sl := sl, mod := 0#6 ++ bsp ++ (BitVec.ofBool dh) ++ (BitVec.ofBool sh), imm := dst ++ src, lit := litOf [a, b, c] }
  | .scat g sh bsp src dst bolt a b c n sl => some { op := 0xC4, g := g.pred, gn := g.neg, bolt := bolt, a := a.field, b := b.field, c := c.field, count := n, sl := sl, mod := 0#6 ++ bsp ++ 0#1 ++ (BitVec.ofBool sh), imm := dst ++ src, lit := litOf [a, b, c] }
  | .bin g h bolt a b c sl => some { op := 0xC5, g := g.pred, gn := g.neg, bolt := bolt, a := a.field, b := b.field, c := c, sl := sl, mod := 0#8 ++ 1#1 ++ 0#1, imm := 0#3 ++ h ++ 0#8, lit := litOf [a, b] }
  | .kset g k a n => some { op := 0xC6, g := g.pred, gn := g.neg, d := 0#2 ++ k, a := a, imm := n }
  | .ksign g k => some { op := 0xC7, g := g.pred, gn := g.neg, d := 0#2 ++ k }
  | .tldb g bank pat a sg lk d c sl => some { op := 0xC8, g := g.pred, gn := g.neg, patn := pat, a := a.field, d := d, c := c.field, sl := sl, mod := (BitVec.ofBool lk) ++ 0#5 ++ bank ++ 0#2, imm := 0#7 ++ (BitVec.ofBool sg) ++ 0#8, lit := litOf [a, c] }
  | .tmma g acc tile bank sh kp int pat h a n sg lk d c sl => some { op := 0xC9, g := g.pred, gn := g.neg, patn := pat, a := a.field, count := n, d := d, c := c.field, sl := sl, mod := (BitVec.ofBool lk) ++ (BitVec.ofBool int) ++ kp ++ (BitVec.ofBool sh) ++ bank ++ (BitVec.ofBool tile) ++ (BitVec.ofBool acc), imm := 0#7 ++ (BitVec.ofBool sg) ++ 0#3 ++ h, lit := litOf [a, c] }
  | .tmmag g acc tile bank sh kp int pat h bolt a b n sg lk d c sl => some { op := 0xCA, g := g.pred, gn := g.neg, patn := pat, bolt := bolt, a := a.field, b := b.field, count := n, d := d, c := c.field, sl := sl, mod := (BitVec.ofBool lk) ++ (BitVec.ofBool int) ++ kp ++ (BitVec.ofBool sh) ++ bank ++ (BitVec.ofBool tile) ++ (BitVec.ofBool acc), imm := 0#7 ++ (BitVec.ofBool sg) ++ 0#3 ++ h, lit := litOf [a, b, c] }
  | .tzero g tile sg lk d c sl => some { op := 0xCB, g := g.pred, gn := g.neg, d := d, c := c.field, sl := sl, mod := (BitVec.ofBool lk) ++ 0#7 ++ (BitVec.ofBool tile) ++ 0#1, imm := 0#7 ++ (BitVec.ofBool sg) ++ 0#8, lit := litOf [c] }
  | .tsta g tile sh pat h a b n sg lk d c sl => some { op := 0xCC, g := g.pred, gn := g.neg, patn := pat, a := a.field, b := b.field, count := n, d := d, c := c.field, sl := sl, mod := (BitVec.ofBool lk) ++ 0#3 ++ 0#1 ++ (BitVec.ofBool sh) ++ 0#2 ++ (BitVec.ofBool tile) ++ 0#1, imm := 0#7 ++ (BitVec.ofBool sg) ++ 0#3 ++ h, lit := litOf [a, b, c] }
  | .tstaSt g tile pat a sg lk d c sl => some { op := 0xCC, g := g.pred, gn := g.neg, patn := pat, a := a.field, d := d, c := c.field, sl := sl, mod := (BitVec.ofBool lk) ++ 0#3 ++ 1#1 ++ 0#3 ++ (BitVec.ofBool tile) ++ 0#1, imm := 0#7 ++ (BitVec.ofBool sg) ++ 0#8, lit := litOf [a, c] }
  | .rtprb g d rt sh h pat a b bolt n sl => some { op := 0xCD, g := g.pred, gn := g.neg, d := d, patn := pat, a := a.field, b := b.field, bolt := bolt, count := n, sl := sl, mod := 0#9 ++ (BitVec.ofBool sh), imm := 0#7 ++ h ++ rt, lit := litOf [a, b] }
  | .rtins g pd rt a sl => some { op := 0xCE, g := g.pred, gn := g.neg, d := 0#3 ++ pd, a := a.field, sl := sl, imm := 0#12 ++ rt, lit := litOf [a] }
  | .rtdel g pd rt a sl => some { op := 0xCF, g := g.pred, gn := g.neg, d := 0#3 ++ pd, a := a.field, sl := sl, imm := 0#12 ++ rt, lit := litOf [a] }
  | .rtrhs g rt a sl => some { op := 0xD0, g := g.pred, gn := g.neg, a := a.field, sl := sl, imm := 0#12 ++ rt, lit := litOf [a] }
  | .rtsync g => some { op := 0xD1, g := g.pred, gn := g.neg }
  | .movs g d num idx x a => some { op := 0xE0, g := g.pred, gn := g.neg, d := d, a := a.field, mod := 0#9 ++ (BitVec.ofBool x), imm := idx ++ num, lit := litOf [a] }
  | .movsw g num idx x a b => some { op := 0xE1, g := g.pred, gn := g.neg, a := a.field, b := b.field, mod := 0#9 ++ (BitVec.ofBool x), imm := idx ++ num, lit := litOf [a, b] }
  | .trap g code => some { op := 0xE2, g := g.pred, gn := g.neg, imm := code }
  | .tret g => some { op := 0xE3, g := g.pred, gn := g.neg }
  | .slack g d => some { op := 0xE4, g := g.pred, gn := g.neg, d := d, mod := 0#8 ++ 0#2 }
  | .slackCls g sl => some { op := 0xE4, g := g.pred, gn := g.neg, sl := sl, mod := 0#8 ++ 1#2 }
  | .slackSet g a => some { op := 0xE4, g := g.pred, gn := g.neg, a := a.field, mod := 0#8 ++ 2#2, lit := litOf [a] }
  | .halt g => some { op := 0xE5, g := g.pred, gn := g.neg }
  | .patdef g n mv a bolt => some { op := 0xE6, g := g.pred, gn := g.neg, a := a.field, bolt := bolt, mod := 0#9 ++ (BitVec.ofBool mv), imm := 0#6 ++ n, lit := litOf [a] }
  | .patrd g d n w => some { op := 0xE7, g := g.pred, gn := g.neg, d := d, imm := 0#2 ++ w ++ n }
  | .bldef g n mv a => some { op := 0xE8, g := g.pred, gn := g.neg, a := a.field, mod := 0#9 ++ (BitVec.ofBool mv), imm := 0#6 ++ n, lit := litOf [a] }
  | .blrd g d n w => some { op := 0xE9, g := g.pred, gn := g.neg, d := d, imm := 0#4 ++ w ++ n }
  | .hfset g hf a b => some { op := 0xEA, g := g.pred, gn := g.neg, d := 0#3 ++ hf, a := a.field, b := b.field, lit := litOf [a, b] }
  | .jtdef g jt ovl a b => some { op := 0xEB, g := g.pred, gn := g.neg, d := jt, a := a.field, b := b.field, imm := ovl, lit := litOf [a, b] }
  | .rtdef g rt bolt a => some { op := 0xEC, g := g.pred, gn := g.neg, d := 0#2 ++ rt, bolt := bolt, a := a.field, mod := 0#8 ++ 0#2, lit := litOf [a] }
  | .rtdefRh g rt bolt a => some { op := 0xEC, g := g.pred, gn := g.neg, d := 0#2 ++ rt, bolt := bolt, a := a.field, mod := 0#8 ++ 1#2, lit := litOf [a] }
  | .rtdefOff g rt => some { op := 0xEC, g := g.pred, gn := g.neg, d := 0#2 ++ rt, mod := 0#8 ++ 2#2 }
  | .ctrrd g d n x a => some { op := 0xED, g := g.pred, gn := g.neg, d := d, a := a.field, mod := 0#9 ++ (BitVec.ofBool x), imm := 0#8 ++ n, lit := litOf [a] }
  | .ctrset g n x a b => some { op := 0xEE, g := g.pred, gn := g.neg, a := a.field, b := b.field, mod := 0#9 ++ (BitVec.ofBool x), imm := 0#8 ++ n, lit := litOf [a, b] }
  | .smpl g off tag => some { op := 0xEF, g := g.pred, gn := g.neg, mod := 0#9 ++ (BitVec.ofBool off), imm := tag }
  | .brkpt g code => some { op := 0xF0, g := g.pred, gn := g.neg, imm := code }
  | .hint g => some { op := 0xF1, g := g.pred, gn := g.neg }
  | .waitpred g => some { op := 0xF2, g := g.pred, gn := g.neg }
  | .resultWriteback _ => none
  | .atomicRequest _ => none
  | .atomicReply _ => none
  | .readRequest _ => none
  | .acknowledgementArrival _ => none
  | .needleArrival _ => none
  | .spillReturn _ => none
  | .arrivalWaveFormation _ _ _ => none
  | .spoolTimeout _ _ _ => none
  | .launchEntryFetch _ _ => none
  | .spawnTaskSend _ => none
  | .taskArrival _ => none
  | .taskRefusal _ => none
  | .taskResendTimeout _ => none
  | .spawnIncrement _ => none
  | .phaseArrival _ => none
  | .drainRequest _ _ => none
  | .drainAcknowledgement _ _ => none
  | .changeNotice _ => none
  | .overlayLoadCompletion _ => none
  | .pageFaultService _ => none
  | .faultRecordResolve _ _ => none
  | .faultRecordRefuse _ _ => none
  | .errorRecordResolve _ => none
  | .errorRecordRefuse _ => none
  | .engineFire _ => none
  | .binPrepare _ => none
  | .engineRetire _ => none
  | .engineFailure _ _ => none
  | .stitchParityReload _ _ => none
  | .retrievalOperationApply _ => none
  | .quantumExpiry _ _ => none
  | .bobbinPreempt _ _ => none
  | .contextSlotRelease _ _ => none
  | .contextReadmission _ _ => none
  | .queueDoorbell _ _ => none
  | .queueEnable _ _ => none
  | .queueDisable _ _ => none
  | .dispatch => none
  | .waveAdmission _ => none
  | .stagingCompletion _ _ _ => none
  | .launchCompletion _ => none
  | .slackTick => none
  | .slackOverdue _ => none
  | .packetAdvance _ => none
  | .routerPowerGate _ => none
  | .routerWake _ => none
  | .pageMoveStart _ _ _ => none
  | .pageMoveTransfer _ => none
  | .shootdown _ _ => none
  | .shootdownAcknowledgement _ => none
  | .graceWindowEnd _ => none
  | .rehome _ => none
  | .channelRetirement _ => none
  | .pageMakeWritable _ _ => none
  | .pageMakeReadOnly _ _ => none
  | .portLoss _ _ => none
  | .sampleRecord _ _ _ => none
  | .traceEnable _ _ _ => none
  | .traceDisable _ _ _ => none
  | .resume _ _ => none
  | .deliver _ _ => none
  | .debugStep _ _ => none
  | .stopall _ _ => none
  | .counterWrite _ _ _ _ => none
  | .quantumWrite _ _ => none
  | .hostBar2Write _ _ => none
  | .dutySplitWrite _ => none
  | .dutyGo => none
  | .derrClear => none
  | .goTimeout => none
  | .pcapWrite _ => none
  | .registerWrite _ _ => none
  | .powerOn _ _ _ _ => none
  | .powerWindow _ => none
  | .thermalLimit => none
  | .thermalShutdown => none
  | .ucieLinkFailure _ _ => none
  | .keySlotWrite _ _ _ _ _ => none
  | .coreCycle => none
  | .ultraEthernetPortUp _ _ => none
  | .portEnable _ _ => none
  | .thermalLimitClear => none
  | .measurementReport _ => none

/-- Which lengths an instruction may be written in (R55, R212). -/
def Instr.form : Instr → Form
  | .pad _ => .oneWord
  | .bra _ _ => .near
  | .braFar _ _ => .far
  | .call _ _ _ => .near
  | .callFar _ _ _ => .far
  | .cut _ _ _ => .near
  | .cutFar _ _ _ => .far
  | .hint _ => .oneWord
  | .waitpred _ => .oneWord
  | _ => .any

/-- The instruction a field record would stand for, by its opcode (R83) and its variant bits; `decodeRaw` then holds it
against the record. -/
def Raw.candidate (r : Raw) : Option Instr :=
  match r.op.toNat with
  | 0x00 => some (.nop r.guard)
  | 0x01 => some (.pad (r.b.extractLsb' 0 4 ++ r.a ++ r.d))
  | 0x02 => if r.lit.isSome then some (.braFar r.guard ((r.lit.getD 0).extractLsb' 0 32)) else some (.bra r.guard r.imm)
  | 0x03 => some (.brx r.guard r.b (r.src r.a))
  | 0x04 => if r.lit.isSome then some (.callFar r.guard r.d ((r.lit.getD 0).extractLsb' 0 32)) else some (.call r.guard r.d r.imm)
  | 0x05 => some (.callx r.guard r.d r.b (r.src r.a))
  | 0x06 => some (.ret r.guard (r.src r.a))
  | 0x07 => some (.seam r.guard (r.d.extractLsb' 0 4))
  | 0x08 => some (.join r.guard (r.d.extractLsb' 0 4))
  | 0x09 => some (.wait r.guard (r.a ++ r.d))
  | 0x0A => if r.lit.isSome then some (.cutFar r.guard (r.d.extractLsb' 0 4) ((r.lit.getD 0).extractLsb' 0 32)) else some (.cut r.guard (r.d.extractLsb' 0 4) r.imm)
  | 0x0B => some (.rep r.guard (r.mod.getLsbD 8) (r.src r.a) r.imm (r.mod.extractLsb' 0 2) (r.mod.extractLsb' 2 2) (r.mod.extractLsb' 4 2) (r.mod.extractLsb' 6 2))
  | 0x0C => some (.exit r.guard)
  | 0x0D => some (.yield r.guard)
  | 0x0E => some (.dqput r.guard (r.d.extractLsb' 0 3) (r.src r.a))
  | 0x0F => if r.mod.extractLsb' 0 1 == 1#1 then some (.dqgetLo r.guard r.d) else some (.dqget r.guard r.d)
  | 0x10 => if r.mod.extractLsb' 0 1 == 1#1 then some (.dqpeekLo r.guard r.d (r.b.extractLsb' 0 3)) else some (.dqpeek r.guard r.d (r.b.extractLsb' 0 3))
  | 0x20 => if r.mod.extractLsb' 6 3 == 1#3 then some (.movId r.guard r.d (r.a.extractLsb' 0 4)) else (tyOfField (r.mod.extractLsb' 0 5)).bind fun t' => some (.mov r.guard r.d (r.src r.a) t')
  | 0x21 => (MoviKind.ofCode (r.mod.extractLsb' 6 3)).bind fun k' => some (.movi r.guard r.d k' r.imm)
  | 0x22 => (tyOfField (r.mod.extractLsb' 0 5)).bind fun t' => some (.add r.guard r.d (r.src r.a) (r.src r.b) t' (r.mod.getLsbD 5))
  | 0x23 => (tyOfField (r.mod.extractLsb' 0 5)).bind fun t' => some (.sub r.guard r.d (r.src r.a) (r.src r.b) t' (r.mod.getLsbD 5))
  | 0x24 => some (.addc r.guard r.d (r.src r.a) (r.src r.b) (r.c.extractLsb' 0 3))
  | 0x25 => some (.subb r.guard r.d (r.src r.a) (r.src r.b) (r.c.extractLsb' 0 3))
  | 0x26 => (tyOfField (r.mod.extractLsb' 0 5)).bind fun t' => some (.mul r.guard r.d (r.src r.a) (r.src r.b) t' (r.mod.getLsbD 5))
  | 0x27 => (tyOfField (r.mod.extractLsb' 0 5)).bind fun t' => some (.mulhi r.guard r.d (r.src r.a) (r.src r.b) t')
  | 0x28 => (tyOfField (r.mod.extractLsb' 0 5)).bind fun t' => some (.mulw r.guard r.d (r.src r.a) (r.src r.b) t')
  | 0x29 => (tyOfField (r.mod.extractLsb' 0 5)).bind fun t' => some (.mad r.guard r.d (r.src r.a) (r.src r.b) (r.src r.c) t' (r.mod.getLsbD 5))
  | 0x2A => (tyOfField (r.mod.extractLsb' 0 5)).bind fun t' => some (.min r.guard r.d (r.src r.a) (r.src r.b) t')
  | 0x2B => (tyOfField (r.mod.extractLsb' 0 5)).bind fun t' => some (.max r.guard r.d (r.src r.a) (r.src r.b) t')
  | 0x2C => (tyOfField (r.mod.extractLsb' 0 5)).bind fun t' => some (.abs r.guard r.d (r.src r.a) t' (r.mod.getLsbD 5))
  | 0x2D => (tyOfField (r.mod.extractLsb' 0 5)).bind fun t' => some (.and r.guard r.d (r.src r.a) (r.src r.b) t')
  | 0x2E => (tyOfField (r.mod.extractLsb' 0 5)).bind fun t' => some (.or r.guard r.d (r.src r.a) (r.src r.b) t')
  | 0x2F => (tyOfField (r.mod.extractLsb' 0 5)).bind fun t' => some (.xor r.guard r.d (r.src r.a) (r.src r.b) t')
  | 0x30 => (tyOfField (r.mod.extractLsb' 0 5)).bind fun t' => some (.andn r.guard r.d (r.src r.a) (r.src r.b) t')
  | 0x31 => (tyOfField (r.mod.extractLsb' 0 5)).bind fun t' => some (.shl r.guard r.d (r.src r.a) (r.src r.b) t')
  | 0x32 => (tyOfField (r.mod.extractLsb' 0 5)).bind fun t' => some (.shr r.guard r.d (r.src r.a) (r.src r.b) t')
  | 0x33 => (tyOfField (r.mod.extractLsb' 0 5)).bind fun t' => some (.sar r.guard r.d (r.src r.a) (r.src r.b) t')
  | 0x34 => (tyOfField (r.mod.extractLsb' 0 5)).bind fun t' => some (.rot r.guard r.d (r.src r.a) (r.src r.b) t')
  | 0x35 => (tyOfField (r.mod.extractLsb' 0 5)).bind fun t' => some (.bfx r.guard r.d (r.src r.a) (r.src r.b) t')
  | 0x36 => (tyOfField (r.mod.extractLsb' 0 5)).bind fun t' => some (.bfi r.guard r.d (r.src r.a) (r.src r.b) (r.src r.c) t')
  | 0x37 => (tyOfField (r.mod.extractLsb' 0 5)).bind fun t' => some (.popc r.guard r.d (r.src r.a) t')
  | 0x38 => (tyOfField (r.mod.extractLsb' 0 5)).bind fun t' => some (.clz r.guard r.d (r.src r.a) t')
  | 0x39 => (tyOfField (r.mod.extractLsb' 0 5)).bind fun t' => some (.brev r.guard r.d (r.src r.a) t')
  | 0x3A => some (.bpick r.guard r.d (r.src r.a) (r.src r.b) (r.mod.getLsbD 6) (r.src r.c) r.imm)
  | 0x3B => (tyOfField (r.mod.extractLsb' 0 5)).bind fun t' => some (.lea r.guard r.d (r.src r.a) (r.src r.b) (r.imm.extractLsb' 0 3) t')
  | 0x3C => (Cond.ofCode (r.mod.extractLsb' 6 3)).bind fun cond' => (tyOfField (r.mod.extractLsb' 0 5)).bind fun t' => some (.cmp r.guard cond' (r.d.extractLsb' 0 3) (r.src r.a) (r.src r.b) t')
  | 0x3D => (tyOfField (r.mod.extractLsb' 0 5)).bind fun t' => some (.sel r.guard r.d (r.src r.a) (r.src r.b) (r.c.extractLsb' 0 3) (r.mod.getLsbD 6) t')
  | 0x3E => if r.mod.extractLsb' 6 3 == 1#3 then some (.plopPk r.guard r.d) else if r.mod.extractLsb' 6 3 == 2#3 then some (.plopUpk r.guard (r.src r.a) (r.imm.extractLsb' 0 7)) else some (.plop r.guard (r.d.extractLsb' 0 3) (r.a.extractLsb' 0 3) (r.b.extractLsb' 0 3) (r.c.extractLsb' 0 3) (r.imm.extractLsb' 0 8))
  | 0x3F => (tyOfField (r.mod.extractLsb' 0 5)).bind fun t' => some (.divn r.guard r.d (r.src r.a) (r.src r.b) t' (r.mod.getLsbD 5))
  | 0x40 => (tyOfField (r.mod.extractLsb' 0 5)).bind fun t' => (Round.ofCode (r.mod.extractLsb' 5 3)).bind fun rm' => some (.fadd r.guard r.d (r.src r.a) (r.src r.b) t' rm' (r.mod.getLsbD 8))
  | 0x41 => (tyOfField (r.mod.extractLsb' 0 5)).bind fun t' => (Round.ofCode (r.mod.extractLsb' 5 3)).bind fun rm' => some (.fsub r.guard r.d (r.src r.a) (r.src r.b) t' rm' (r.mod.getLsbD 8))
  | 0x42 => (tyOfField (r.mod.extractLsb' 0 5)).bind fun t' => (Round.ofCode (r.mod.extractLsb' 5 3)).bind fun rm' => some (.fmul r.guard r.d (r.src r.a) (r.src r.b) t' rm' (r.mod.getLsbD 8))
  | 0x43 => (tyOfField (r.mod.extractLsb' 0 5)).bind fun t' => (Round.ofCode (r.mod.extractLsb' 5 3)).bind fun rm' => some (.ffma r.guard r.d (r.src r.a) (r.src r.b) (r.src r.c) t' rm' (r.mod.getLsbD 8))
  | 0x44 => (tyOfField (r.mod.extractLsb' 0 5)).bind fun t' => some (.fmin r.guard r.d (r.src r.a) (r.src r.b) t' (r.mod.getLsbD 8))
  | 0x45 => (tyOfField (r.mod.extractLsb' 0 5)).bind fun t' => some (.fmax r.guard r.d (r.src r.a) (r.src r.b) t' (r.mod.getLsbD 8))
  | 0x46 => (FCond.ofCode (r.mod.extractLsb' 5 3)).bind fun cond' => (tyOfField (r.mod.extractLsb' 0 5)).bind fun t' => some (.fcmp r.guard cond' (r.d.extractLsb' 0 3) (r.src r.a) (r.src r.b) t' (r.mod.getLsbD 8))
  | 0x47 => (tyOfField (r.mod.extractLsb' 0 5)).bind fun t' => some (.fclass r.guard r.d (r.src r.a) t')
  | 0x48 => (tyOfField (r.mod.extractLsb' 0 5)).bind fun t' => (Round.ofCode (r.mod.extractLsb' 5 3)).bind fun rm' => some (.frcp r.guard r.d (r.src r.a) t' rm' (r.mod.getLsbD 8))
  | 0x49 => (tyOfField (r.mod.extractLsb' 0 5)).bind fun t' => (Round.ofCode (r.mod.extractLsb' 5 3)).bind fun rm' => some (.frsq r.guard r.d (r.src r.a) t' rm' (r.mod.getLsbD 8))
  | 0x4A => (tyOfField (r.mod.extractLsb' 0 5)).bind fun t' => (Round.ofCode (r.mod.extractLsb' 5 3)).bind fun rm' => some (.fsqrt r.guard r.d (r.src r.a) t' rm' (r.mod.getLsbD 8))
  | 0x4B => (tyOfField (r.mod.extractLsb' 0 5)).bind fun t' => some (.fexp2 r.guard r.d (r.src r.a) t' (r.mod.getLsbD 8))
  | 0x4C => (tyOfField (r.mod.extractLsb' 0 5)).bind fun t' => some (.flog2 r.guard r.d (r.src r.a) t' (r.mod.getLsbD 8))
  | 0x4D => (tyOfField (r.mod.extractLsb' 0 5)).bind fun t' => some (.fsin r.guard r.d (r.src r.a) t' (r.mod.getLsbD 8))
  | 0x4E => (tyOfField (r.mod.extractLsb' 0 5)).bind fun t' => some (.fcos r.guard r.d (r.src r.a) t' (r.mod.getLsbD 8))
  | 0x4F => (tyOfField (r.mod.extractLsb' 0 5)).bind fun t' => (Round.ofCode (r.mod.extractLsb' 5 3)).bind fun rm' => some (.fdiv r.guard r.d (r.src r.a) (r.src r.b) t' rm' (r.mod.getLsbD 8))
  | 0x50 => (tyOfField (r.mod.extractLsb' 0 5)).bind fun t' => (Round.ofCode (r.mod.extractLsb' 5 3)).bind fun rm' => some (.hadd2 r.guard r.d (r.src r.a) (r.src r.b) t' rm' (r.mod.getLsbD 8))
  | 0x51 => (tyOfField (r.mod.extractLsb' 0 5)).bind fun t' => (Round.ofCode (r.mod.extractLsb' 5 3)).bind fun rm' => some (.hmul2 r.guard r.d (r.src r.a) (r.src r.b) t' rm' (r.mod.getLsbD 8))
  | 0x52 => (tyOfField (r.mod.extractLsb' 0 5)).bind fun t' => (Round.ofCode (r.mod.extractLsb' 5 3)).bind fun rm' => some (.hfma2 r.guard r.d (r.src r.a) (r.src r.b) (r.src r.c) t' rm' (r.mod.getLsbD 8))
  | 0x53 => (tyOfField (r.mod.extractLsb' 0 5)).bind fun t' => some (.hmin2 r.guard r.d (r.src r.a) (r.src r.b) t' (r.mod.getLsbD 8))
  | 0x54 => (tyOfField (r.mod.extractLsb' 0 5)).bind fun t' => some (.hmax2 r.guard r.d (r.src r.a) (r.src r.b) t' (r.mod.getLsbD 8))
  | 0x55 => (FCond.ofCode (r.mod.extractLsb' 5 3)).bind fun cond' => (tyOfField (r.mod.extractLsb' 0 5)).bind fun t' => some (.hcmp2 r.guard cond' (r.d.extractLsb' 0 3) (r.src r.a) (r.src r.b) t' (r.mod.getLsbD 8))
  | 0x56 => (tyOfField (r.mod.extractLsb' 0 5)).bind fun t' => (Round.ofCode (r.mod.extractLsb' 5 3)).bind fun rm' => some (.dot4 r.guard r.d (r.src r.a) (r.src r.b) (r.src r.c) t' rm' (r.mod.getLsbD 8) (r.mod.getLsbD 9))
  | 0x57 => (tyOfField (r.mod.extractLsb' 0 5)).bind fun t' => (Round.ofCode (r.mod.extractLsb' 5 3)).bind fun rm' => some (.dot2 r.guard r.d (r.src r.a) (r.src r.b) (r.src r.c) t' rm' (r.mod.getLsbD 8))
  | 0x58 => (tyOfField (r.mod.extractLsb' 0 5)).bind fun t' => some (.vadd4 r.guard r.d (r.src r.a) (r.src r.b) t' (r.mod.getLsbD 9))
  | 0x59 => (tyOfField (r.mod.extractLsb' 0 5)).bind fun t' => some (.vsub4 r.guard r.d (r.src r.a) (r.src r.b) t' (r.mod.getLsbD 9))
  | 0x60 => (Fmt.ofCode (r.mod.extractLsb' 0 4)).bind fun df' => (Fmt.ofCode (r.imm.extractLsb' 0 4)).bind fun sf' => (Round.ofCode (r.mod.extractLsb' 4 3)).bind fun rm' => some (.cvt r.guard r.d (r.src r.a) df' sf' rm' (r.mod.getLsbD 7) (r.mod.getLsbD 8) (r.mod.getLsbD 9))
  | 0x61 => (Fmt.ofCode (r.mod.extractLsb' 0 4)).bind fun df' => (Fmt.ofCode (r.imm.extractLsb' 0 4)).bind fun sf' => some (.cvtsr r.guard r.d (r.src r.a) df' sf' (r.src r.b) (r.mod.getLsbD 4) (r.mod.getLsbD 7) (r.mod.getLsbD 8) (r.mod.getLsbD 9))
  | 0x62 => some (.srseed r.guard (r.src r.a) (r.mod.extractLsb' 0 2))
  | 0x63 => (Fmt.ofCode (r.mod.extractLsb' 0 4)).bind fun df' => (Fmt.ofCode (r.imm.extractLsb' 0 4)).bind fun sf' => (Round.ofCode (r.mod.extractLsb' 4 3)).bind fun rm' => some (.qnt r.guard r.d (r.src r.a) df' sf' (r.src r.b) (r.imm.extractLsb' 4 4) rm' (r.mod.getLsbD 7) (r.mod.getLsbD 8) (r.mod.getLsbD 9))
  | 0x64 => (Fmt.ofCode (r.mod.extractLsb' 0 4)).bind fun df' => (Fmt.ofCode (r.imm.extractLsb' 0 4)).bind fun sf' => (Round.ofCode (r.mod.extractLsb' 4 3)).bind fun rm' => some (.dqnt r.guard r.d (r.src r.a) df' sf' (r.src r.b) (r.imm.extractLsb' 4 4) rm' (r.mod.getLsbD 7) (r.mod.getLsbD 8) (r.mod.getLsbD 9))
  | 0x65 => some (.plpack r.guard r.d r.a (r.imm.extractLsb' 0 4) (r.imm.extractLsb' 4 4))
  | 0x66 => some (.plunpk r.guard r.d (r.src r.a) (r.imm.extractLsb' 0 4) (r.imm.extractLsb' 4 4))
  | 0x67 => some (.plext r.guard r.d (r.src r.a) (r.imm.extractLsb' 0 4) (r.imm.extractLsb' 4 4) (r.mod.getLsbD 0))
  | 0x68 => (Fmt.ofCode (r.mod.extractLsb' 0 4)).bind fun f' => some (.f8algn r.guard r.d (r.src r.a) (r.src r.b) f' (r.mod.getLsbD 4))
  | 0x69 => (Fmt.ofCode (r.mod.extractLsb' 0 4)).bind fun df' => some (.sclx r.guard r.d (r.src r.a) (r.src r.b) df' (Round.ofCode2 (r.mod.extractLsb' 4 2)) (r.mod.getLsbD 6) (r.mod.getLsbD 7) (r.mod.getLsbD 8))
  | 0x6A => (tyOfField (r.mod.extractLsb' 0 5)).bind fun t' => some (.shfl r.guard r.d (r.src r.a) (r.src r.b) t' (r.mod.getLsbD 8))
  | 0x6B => (tyOfField (r.mod.extractLsb' 0 5)).bind fun t' => some (.bfly r.guard r.d (r.src r.a) (r.imm.extractLsb' 0 6) t' (r.mod.getLsbD 8))
  | 0x6C => (tyOfField (r.mod.extractLsb' 0 5)).bind fun t' => some (.shup r.guard r.d (r.src r.a) (r.imm.extractLsb' 0 6) t' (r.mod.getLsbD 8))
  | 0x6D => (tyOfField (r.mod.extractLsb' 0 5)).bind fun t' => some (.shdn r.guard r.d (r.src r.a) (r.imm.extractLsb' 0 6) t' (r.mod.getLsbD 8))
  | 0x6E => (tyOfField (r.mod.extractLsb' 0 5)).bind fun t' => some (.bcast r.guard r.d (r.src r.a) (r.imm.extractLsb' 0 6) t' (r.mod.getLsbD 8))
  | 0x6F => (Census.ofCode (r.mod.extractLsb' 5 3)).bind fun k' => some (.pcens r.guard k' r.d (r.a.extractLsb' 0 3) (r.imm.extractLsb' 0 6))
  | 0x70 => (RedOp.ofCode (r.mod.extractLsb' 5 3)).bind fun op' => (tyOfField (r.mod.extractLsb' 0 5)).bind fun t' => some (.redux r.guard op' r.d (r.src r.a) t')
  | 0x71 => (RedOp.ofCode (r.mod.extractLsb' 5 3)).bind fun op' => (tyOfField (r.mod.extractLsb' 0 5)).bind fun t' => some (.scan r.guard op' r.d (r.src r.a) t' (r.mod.getLsbD 9))
  | 0x72 => (tyOfField (r.mod.extractLsb' 0 5)).bind fun t' => some (.matchLane r.guard r.d (r.src r.a) t')
  | 0x80 => (tyOfField (r.mod.extractLsb' 0 5)).bind fun t' => some (.ld r.guard r.d r.bolt (r.src r.a) t' (r.mod.getLsbD 5) r.sl)
  | 0x81 => (tyOfField (r.mod.extractLsb' 0 5)).bind fun t' => some (.st r.guard r.bolt (r.src r.a) (r.src r.b) t' (r.mod.getLsbD 5) r.sl)
  | 0x82 => (tyOfField (r.mod.extractLsb' 0 5)).bind fun t' => some (.ldq r.guard r.d r.bolt (r.src r.a) r.count t' (r.mod.getLsbD 5) r.sl)
  | 0x83 => (tyOfField (r.mod.extractLsb' 0 5)).bind fun t' => some (.stq r.guard r.bolt (r.src r.a) (r.src r.b) r.count t' (r.mod.getLsbD 5) r.sl)
  | 0x84 => (tyOfField (r.mod.extractLsb' 0 5)).bind fun t' => some (.ldro r.guard r.d r.bolt (r.src r.a) t' (r.mod.getLsbD 5) r.sl)
  | 0x85 => some (.pref r.guard r.bolt (r.src r.a) r.sl)
  | 0x86 => some (.migr r.guard r.bolt (r.src r.a) (r.mod.getLsbD 5) r.sl)
  | 0x87 => some (.spawn r.guard (r.d.extractLsb' 0 3) r.bolt (r.src r.a) (r.src r.b) (r.src r.c) r.imm r.sl)
  | 0x88 => if r.mod.extractLsb' 6 3 == 1#3 then some (.phaseWait r.guard (r.src r.a) (r.imm.extractLsb' 0 3) r.sl) else some (.phaseArv r.guard r.d (r.imm.extractLsb' 0 3) r.sl)
  | 0x89 => (Scope.ofCode r.scope).bind fun scope' => some (.fence r.guard scope')
  | 0x8A => some (.fopen r.guard (r.d.extractLsb' 0 1) r.bolt (r.src r.a) (r.src r.b) r.imm)
  | 0x8B => some (.fnext r.guard r.d (r.b.extractLsb' 0 3) (r.a.extractLsb' 0 1) (r.mod.getLsbD 0) (r.mod.getLsbD 1) r.sl)
  | 0x8C => some (.fpeek r.guard r.d (r.b.extractLsb' 0 3) (r.a.extractLsb' 0 1) (r.mod.getLsbD 0) (r.mod.getLsbD 1) r.sl)
  | 0x8D => some (.fend r.guard (r.d.extractLsb' 0 3) (r.a.extractLsb' 0 1))
  | 0x8E => some (.fclose r.guard (r.a.extractLsb' 0 1))
  | 0xA0 => (AtomOp.ofCode (r.mod.extractLsb' 6 3)).bind fun op' => (tyOfField (r.mod.extractLsb' 0 5)).bind fun t' => (Scope.ofCode r.scope).bind fun scope' => some (.atom r.guard op' r.d r.bolt (r.src r.a) (r.src r.b) t' (r.mod.getLsbD 5) r.sl scope')
  | 0xA1 => (tyOfField (r.mod.extractLsb' 0 5)).bind fun t' => (Scope.ofCode r.scope).bind fun scope' => some (.acas r.guard r.d r.bolt (r.src r.a) (r.src r.b) (r.src r.c) t' (r.mod.getLsbD 5) r.sl scope')
  | 0xA2 => (AtomOp.ofCode (r.mod.extractLsb' 6 3)).bind fun op' => (tyOfField (r.mod.extractLsb' 0 5)).bind fun t' => (Scope.ofCode r.scope).bind fun scope' => some (.ared r.guard op' r.bolt (r.src r.a) (r.src r.b) t' r.sl scope')
  | 0xA3 => (tyOfField (r.mod.extractLsb' 0 5)).bind fun t' => (Scope.ofCode r.scope).bind fun scope' => some (.afadd r.guard r.d r.bolt (r.src r.a) (r.src r.b) t' (r.mod.getLsbD 5) r.sl scope')
  | 0xA4 => some (.txopen r.guard r.imm)
  | 0xA5 => some (.txseal r.guard)
  | 0xA6 => some (.txretry r.guard)
  | 0xA7 => some (.txelse r.guard r.imm)
  | 0xA8 => some (.txdrop r.guard (r.imm.extractLsb' 0 8))
  | 0xA9 => some (.txstat r.guard r.d)
  | 0xAA => some (.binit r.guard r.bolt (r.src r.a) (r.src r.b))
  | 0xAB => some (.barv r.guard r.d r.bolt (r.src r.a) (r.src r.b) (r.mod.getLsbD 6))
  | 0xAC => some (.bwait r.guard r.bolt (r.src r.a) (r.src r.b))
  | 0xAD => some (.bexp r.guard r.bolt (r.src r.a) (r.src r.b))
  | 0xAE => some (.hpush r.guard (r.mod.getLsbD 2) (r.d.extractLsb' 0 3) (r.a.extractLsb' 0 5) (r.src r.b) (r.mod.extractLsb' 0 2))
  | 0xAF => some (.hpop r.guard r.d (r.a.extractLsb' 0 5) (r.mod.extractLsb' 0 2) (r.mod.getLsbD 4) (r.mod.getLsbD 3))
  | 0xB0 => some (.htry r.guard r.d (r.b.extractLsb' 0 3) (r.a.extractLsb' 0 5) (r.mod.extractLsb' 0 2) (r.mod.getLsbD 4) (r.mod.getLsbD 3))
  | 0xB1 => some (.hpeek r.guard r.d (r.b.extractLsb' 0 3) (r.a.extractLsb' 0 5) (r.imm.extractLsb' 0 12) (r.mod.extractLsb' 0 2) (r.mod.getLsbD 3))
  | 0xB2 => some (.hallow r.guard (r.a.extractLsb' 0 5) (r.src r.b))
  | 0xB3 => if r.mod.extractLsb' 5 1 == 1#1 then some (.hresetDef r.guard (r.a.extractLsb' 0 5) (r.src r.b)) else some (.hreset r.guard (r.a.extractLsb' 0 5))
  | 0xC0 => some (.cpy r.guard (r.mod.getLsbD 0) (r.mod.getLsbD 1) (r.mod.extractLsb' 2 2) (r.imm.extractLsb' 0 8) (r.imm.extractLsb' 8 8) (r.src r.a) (r.src r.b) (r.src r.c) r.count r.sl)
  | 0xC1 => (Scope.ofCode r.scope).bind fun scope' => some (.cpym r.guard r.d (r.mod.getLsbD 0) (r.mod.extractLsb' 2 2) (r.imm.extractLsb' 0 8) (r.imm.extractLsb' 8 8) (r.src r.a) (r.src r.b) (r.src r.c) r.count scope' r.sl)
  | 0xC2 => some (.cpyo r.guard (r.mod.getLsbD 4) (r.imm.extractLsb' 0 2) (r.mod.extractLsb' 2 2) (r.src r.a) (r.src r.c) r.sl)
  | 0xC3 => some (.gath r.guard (r.mod.getLsbD 0) (r.mod.getLsbD 1) (r.mod.extractLsb' 2 2) (r.imm.extractLsb' 0 8) (r.imm.extractLsb' 8 8) r.bolt (r.src r.a) (r.src r.b) (r.src r.c) r.count r.sl)
  | 0xC4 => some (.scat r.guard (r.mod.getLsbD 0) (r.mod.extractLsb' 2 2) (r.imm.extractLsb' 0 8) (r.imm.extractLsb' 8 8) r.bolt (r.src r.a) (r.src r.b) (r.src r.c) r.count r.sl)
  | 0xC5 => some (.bin r.guard (r.imm.extractLsb' 8 5) r.bolt (r.src r.a) (r.src r.b) r.c r.sl)
  | 0xC6 => some (.kset r.guard (r.d.extractLsb' 0 4) r.a r.imm)
  | 0xC7 => some (.ksign r.guard (r.d.extractLsb' 0 4))
  | 0xC8 => some (.tldb r.guard (r.mod.extractLsb' 2 2) r.patn (r.src r.a) (r.imm.getLsbD 8) (r.mod.getLsbD 9) r.d (r.src r.c) r.sl)
  | 0xC9 => some (.tmma r.guard (r.mod.getLsbD 0) (r.mod.getLsbD 1) (r.mod.extractLsb' 2 2) (r.mod.getLsbD 4) (r.mod.extractLsb' 5 3) (r.mod.getLsbD 8) r.patn (r.imm.extractLsb' 0 5) (r.src r.a) r.count (r.imm.getLsbD 8) (r.mod.getLsbD 9) r.d (r.src r.c) r.sl)
  | 0xCA => some (.tmmag r.guard (r.mod.getLsbD 0) (r.mod.getLsbD 1) (r.mod.extractLsb' 2 2) (r.mod.getLsbD 4) (r.mod.extractLsb' 5 3) (r.mod.getLsbD 8) r.patn (r.imm.extractLsb' 0 5) r.bolt (r.src r.a) (r.src r.b) r.count (r.imm.getLsbD 8) (r.mod.getLsbD 9) r.d (r.src r.c) r.sl)
  | 0xCB => some (.tzero r.guard (r.mod.getLsbD 1) (r.imm.getLsbD 8) (r.mod.getLsbD 9) r.d (r.src r.c) r.sl)
  | 0xCC => if r.mod.extractLsb' 5 1 == 1#1 then some (.tstaSt r.guard (r.mod.getLsbD 1) r.patn (r.src r.a) (r.imm.getLsbD 8) (r.mod.getLsbD 9) r.d (r.src r.c) r.sl) else some (.tsta r.guard (r.mod.getLsbD 1) (r.mod.getLsbD 4) r.patn (r.imm.extractLsb' 0 5) (r.src r.a) (r.src r.b) r.count (r.imm.getLsbD 8) (r.mod.getLsbD 9) r.d (r.src r.c) r.sl)
  | 0xCD => some (.rtprb r.guard r.d (r.imm.extractLsb' 0 4) (r.mod.getLsbD 0) (r.imm.extractLsb' 4 5) r.patn (r.src r.a) (r.src r.b) r.bolt r.count r.sl)
  | 0xCE => some (.rtins r.guard (r.d.extractLsb' 0 3) (r.imm.extractLsb' 0 4) (r.src r.a) r.sl)
  | 0xCF => some (.rtdel r.guard (r.d.extractLsb' 0 3) (r.imm.extractLsb' 0 4) (r.src r.a) r.sl)
  | 0xD0 => some (.rtrhs r.guard (r.imm.extractLsb' 0 4) (r.src r.a) r.sl)
  | 0xD1 => some (.rtsync r.guard)
  | 0xE0 => some (.movs r.guard r.d (r.imm.extractLsb' 0 8) (r.imm.extractLsb' 8 8) (r.mod.getLsbD 0) (r.src r.a))
  | 0xE1 => some (.movsw r.guard (r.imm.extractLsb' 0 8) (r.imm.extractLsb' 8 8) (r.mod.getLsbD 0) (r.src r.a) (r.src r.b))
  | 0xE2 => some (.trap r.guard r.imm)
  | 0xE3 => some (.tret r.guard)
  | 0xE4 => if r.mod.extractLsb' 0 2 == 1#2 then some (.slackCls r.guard r.sl) else if r.mod.extractLsb' 0 2 == 2#2 then some (.slackSet r.guard (r.src r.a)) else some (.slack r.guard r.d)
  | 0xE5 => some (.halt r.guard)
  | 0xE6 => some (.patdef r.guard (r.imm.extractLsb' 0 10) (r.mod.getLsbD 0) (r.src r.a) r.bolt)
  | 0xE7 => some (.patrd r.guard r.d (r.imm.extractLsb' 0 10) (r.imm.extractLsb' 10 4))
  | 0xE8 => some (.bldef r.guard (r.imm.extractLsb' 0 10) (r.mod.getLsbD 0) (r.src r.a))
  | 0xE9 => some (.blrd r.guard r.d (r.imm.extractLsb' 0 10) (r.imm.extractLsb' 10 2))
  | 0xEA => some (.hfset r.guard (r.d.extractLsb' 0 3) (r.src r.a) (r.src r.b))
  | 0xEB => some (.jtdef r.guard r.d r.imm (r.src r.a) (r.src r.b))
  | 0xEC => if r.mod.extractLsb' 0 2 == 1#2 then some (.rtdefRh r.guard (r.d.extractLsb' 0 4) r.bolt (r.src r.a)) else if r.mod.extractLsb' 0 2 == 2#2 then some (.rtdefOff r.guard (r.d.extractLsb' 0 4)) else some (.rtdef r.guard (r.d.extractLsb' 0 4) r.bolt (r.src r.a))
  | 0xED => some (.ctrrd r.guard r.d (r.imm.extractLsb' 0 8) (r.mod.getLsbD 0) (r.src r.a))
  | 0xEE => some (.ctrset r.guard (r.imm.extractLsb' 0 8) (r.mod.getLsbD 0) (r.src r.a) (r.src r.b))
  | 0xEF => some (.smpl r.guard (r.mod.getLsbD 0) r.imm)
  | 0xF0 => some (.brkpt r.guard r.imm)
  | 0xF1 => some (.hint r.guard)
  | 0xF2 => some (.waitpred r.guard)
  | _ => none

/-- May the form be written with this LEN? -/
def Form.allows (f : Form) (len : BitVec 2) : Bool :=
  match f with
  | .any => true
  | .oneWord => len == 0
  | .near => len == 1
  | .far => len == 3

/-- MOV.id allows the default type, named or not (R148): a record that names it stands for the one that does not. -/
def Raw.norm (r : Raw) : Raw := if r.op = 0x20 ∧ r.mod = 0x55 then { r with mod := 0x40 } else r

/-- The instruction of a field record written with the given LEN, or the encoding fault it raises. -/
def decodeRaw (len : BitVec 2) (r : Raw) : Except DecodeError Instr :=
  if assignedOp r.op then
    match r.candidate with
    | none => .error .illegalModifier
    | some i => if i.wf && (i.raw? == some r || i.raw? == some r.norm) && i.form.allows len then .ok i else .error .illegalModifier
  else .error .illegalOpcode
where
  /-- The opcodes that the map of R83 assigns. -/
  assignedOp (op : BitVec 8) : Bool :=
    let n := op.toNat
    n ≤ 0x10 || (0x20 ≤ n && n ≤ 0x59) || (0x60 ≤ n && n ≤ 0x72) || (0x80 ≤ n && n ≤ 0x8E) || (0xA0 ≤ n && n ≤ 0xB3)
      || (0xC0 ≤ n && n ≤ 0xD1) || (0xE0 ≤ n && n ≤ 0xF2)

/-- The base word of R52. -/
def Raw.base (r : Raw) (len : BitVec 2) : BitVec 32 :=
  BitVec.ofBool r.gn ++ r.g ++ r.b ++ r.a ++ r.d ++ r.op ++ len

/-- Extended word 1 of R53. -/
def Raw.ext1 (r : Raw) : BitVec 32 := r.imm ++ r.mod ++ r.c

/-- Extended word 2 of R54. -/
def Raw.ext2 (r : Raw) : BitVec 32 := r.count ++ r.bolt ++ r.patn ++ r.scope ++ r.sl

/-- The field record of a base word with its extended words and literal. -/
def Raw.ofWords (w e1 e2 : BitVec 32) (lit : Option (BitVec 64)) : Raw where
  op := w.extractLsb' 2 8
  d := w.extractLsb' 10 6
  a := w.extractLsb' 16 6
  b := w.extractLsb' 22 6
  g := w.extractLsb' 28 3
  gn := w.getLsbD 31
  c := e1.extractLsb' 0 6
  mod := e1.extractLsb' 6 10
  imm := e1.extractLsb' 16 16
  sl := e2.extractLsb' 0 3
  scope := e2.extractLsb' 3 3
  patn := e2.extractLsb' 6 8
  bolt := e2.extractLsb' 14 6
  count := e2.extractLsb' 20 12
  lit := lit

/-- The LEN and the field record at the head of a list of words, with the words after it (R51, R55). -/
def readRaw : List (BitVec 32) → Option (BitVec 2 × Raw × List (BitVec 32))
  | [] => none
  | w :: ws =>
    let len := w.extractLsb' 0 2
    match len.toNat, ws with
    | 0, rest => some (len, Raw.ofWords w 0 0 none, rest)
    | 1, e1 :: e2 :: rest => some (len, Raw.ofWords w e1 e2 none, rest)
    | 2, l0 :: l1 :: rest => some (len, Raw.ofWords w 0 0 (some (l1 ++ l0)), rest)
    | 3, e1 :: e2 :: l0 :: l1 :: rest => some (len, Raw.ofWords w e1 e2 (some (l1 ++ l0)), rest)
    | _, _ => none

/-- The instruction at the head of a list of words, with the words after it. -/
def decode (ws : List (BitVec 32)) : Except DecodeError (Instr × List (BitVec 32)) :=
  match readRaw ws with
  | none => .error .truncated
  | some (len, r, rest) =>
    match decodeRaw len r with
    | .error e => .error e
    | .ok i => .ok (i, rest)

/-- The LEN of the shortest form that carries a record (R91), or the one form its instruction has. -/
def Raw.shortLen (r : Raw) (f : Form) : BitVec 2 :=
  match f with
  | .oneWord => 0
  | .near => 1
  | .far => 3
  | .any =>
    match r.lit.isSome, r.ext1 == 0 && r.ext2 == 0 with
    | false, true => 0
    | false, false => 1
    | true, true => 2
    | true, false => 3

/-- The words of a field record at a LEN. -/
def Raw.words (r : Raw) (len : BitVec 2) : List (BitVec 32) :=
  let l := r.lit.getD 0
  match len.toNat with
  | 0 => [r.base len]
  | 1 => [r.base len, r.ext1, r.ext2]
  | 2 => [r.base len, l.extractLsb' 0 32, l.extractLsb' 32 32]
  | _ => [r.base len, r.ext1, r.ext2, l.extractLsb' 0 32, l.extractLsb' 32 32]

/-- The words of an instruction, in its shortest form; an event has none. -/
def encode (i : Instr) : List (BitVec 32) :=
  match i.raw? with
  | none => []
  | some r => r.words (r.shortLen i.form)

/-- The words that a number stands for, least significant word first. -/
def wordsOfNat (n : Nat) : Nat → List (BitVec 32)
  | w => (List.range n).map fun k => BitVec.ofNat 32 (w / 2 ^ (32 * k))

/-- The instruction that the decoder reads from the number w, numbered as the opcode table numbers its bits; bits above
nbits are 0, up to the longest instruction of five words. -/
def decodeTableWord (nbits w : Nat) : Option Instr :=
  match decode (wordsOfNat 5 (w % 2 ^ nbits)) with
  | .ok (i, _) => some i
  | .error _ => none

end Sys2Proof
end

