-- ==== Sys2Proof/Machine/Issue.lean ====
section
/-! DEFINITION. Before an instruction is carried out: clause headers, stops at safe points, the choice of waves by the ports,
and the encoding faults that words show. -/

namespace Sys2Proof.Machine

/-! ### What an opcode is -/

def opOf (i : Instr) : Nat :=
  match i.raw? with
  | some r => r.op.toNat
  | none => 0

/-- The four ports in the order in which they choose (R27, R433): MEM, ENG, ALU0, ALU1; the class of an opcode names the
ports that take it: 0 MEM, 1 ENG, 2 both ALUs. -/
def portClass (bobbin : Bool) (op : Nat) : Nat :=
  if bobbin then 1
  else
    match op / 32 with
    | 1 | 2 | 3 => 2
    | 4 | 5 => 0
    | _ => 1

/-- Long-latency instructions (R65). -/
def longLatency (op : Nat) : Bool :=
  [0x80, 0x82, 0x84, 0x8B, 0x8C, 0xA0, 0xA1, 0xA3, 0xB0, 0xB1, 0xA9, 0xE7, 0xE9, 0xCD, 0xED].contains op

/-- Instructions that stand last in their clause (R66). -/
def lastOnly (op : Nat) : Bool := [0x02, 0x03, 0x04, 0x05, 0x06, 0x0A, 0x08, 0x0C, 0x0D].contains op

/-- Required safe points (R69): every opcode from 0x80 up. DEDUCED (log 59): an unassigned one is a required safe point too, so
that an unmarked one raises BAD_CLAUSE, rank 1, and not ILLEGAL_OPCODE, rank 3. -/
def mustBeSafe (op : Nat) : Bool := 0x80 ≤ op || [0x03, 0x05, 0x06, 0x09, 0x0B, 0x0D, 0x0F, 0x10].contains op

/-- Does an assigned opcode run in the kind of code (R85, R239)? -/
def runsIn (bobbin : Bool) (op : Nat) : Bool :=
  if bobbin then
    if op < 0x20 then [0x00, 0x01, 0x02, 0x03, 0x04, 0x05, 0x06, 0x09, 0x0B, 0x0C, 0x0D, 0x0E].contains op
    else if op < 0x40 then true
    else if op < 0x60 then op ≤ 0x4F
    else if op < 0x80 then op == 0x60 || op == 0x62
    else if op < 0xA0 then [0x80, 0x81, 0x84, 0x85, 0x89].contains op
    else if op < 0xC0 then op ≤ 0xA3 || 0xAA ≤ op
    else true
  else op != 0x0E

/-- The energy class that an issue charges per lane (R509); none for blocks 0x80 and 0xA0. -/
def issueClass (op : Nat) : Option Nat :=
  if op < 0x20 then some 6
  else if op < 0x40 then some 0
  else if op < 0x48 then some 1
  else if op < 0x50 then some 3
  else if op < 0x60 then some 2
  else if op < 0x6A then some 4
  else if op < 0x80 then some 5
  else if op < 0xC0 then none
  else some 6

/-! ### Clauses (R61 to R63) -/

/-- An instruction's place in a clause: offset, opcode, bytes. -/
structure Pos where
  off : Nat
  op : Nat
  bytes : Nat
deriving DecidableEq, Repr

structure Clause where
  header : DWord
  count : Nat
  places : List Pos
  /-- offset after the last instruction -/
  stop : Nat
  bad : Bool
deriving DecidableEq, Repr

/-- Walk over the instructions of a clause. -/
def State.clausePlaces (s : State) (core slot : Nat) : Nat → Nat → List Pos × Nat
  | 0, off => ([], off)
  | n + 1, off =>
    let w := BitVec.ofNat 32 (s.imemWord core slot off)
    let bytes := 4 * lenWords (w.extractLsb' 0 2)
    let r := s.clausePlaces core slot n (off + bytes)
    (⟨off, field w 2 8, bytes⟩ :: r.1, r.2)

/-- The clause at a header offset, and whether its header is malformed (R62). -/
def State.clauseAt (s : State) (core slot off : Nat) : Clause :=
  let w : DWord := BitVec.ofNat 64 (s.imemWord core slot off)
  let count := field w 2 3
  let (places, stop) := s.clausePlaces core slot count (off + 4)
  let flagBad := fun (f : Nat) => f == 12 || f == 13 || f == 14
  let bad := field w 0 2 != 0 || count == 0 || flagBad (field w 17 4) || flagBad (field w 21 4)
    || field w 25 7 / 2 ^ count != 0 || decide (s.imemWord core slot 8 < stop)
  ⟨w, count, places, stop, bad⟩

def Clause.wait (c : Clause) : BitVec 12 := BitVec.ofNat 12 (field c.header 5 12)
def Clause.safe (c : Clause) (pos : Nat) : Bool := c.header.getLsbD (25 + pos)

/-- The flag that governs a position: SETA for the clause's first long-latency instruction, SETB for the later ones (R63). -/
def Clause.flag (c : Clause) (pos : Nat) : Option Nat :=
  let f := if (c.places.take pos).any fun p => longLatency p.op then field c.header 21 4 else field c.header 17 4
  if f = 15 then none else some f

/-- The clause in which a hart stands, if its overlay is loaded. -/
def State.clauseOf (s : State) (core ctx : Nat) (h : Hart) : Option (Nat × Clause) :=
  ((s.core core).overlay? ctx (ovlOf h.clause)).map fun e => (e.1, s.clauseAt core e.1 (offOf h.clause))

/-! ### Before issue: starts, malformed headers, stops at safe points -/

/-- The code of a debug stop that a lane takes on reaching its safe point (R523). -/
def State.reachStop (s : State) (r : Ref) (h : Hart) (ord : Option (BitVec 16)) : Option (BitVec 16) :=
  match s.slotFor? r with
  | none => none
  | some q =>
    let ctl := q.word 0x41
    if q.frozen || !ctl.getLsbD 0 then none
    else if h.debugStep || q.sreq then some 0xFFFE
    else
      let hit := (List.range 8).any fun i =>
        let b := q.word (0x38 + i)
        b.getLsbD 0 && field b 16 16 == (ovlOf h.pc).toNat && (b.getLsbD 1 || (ord.map BitVec.toNat) == some (field b 32 16))
      if hit then some 0xFFFF else none

/-- A debug stop lands where the lane stands; an attempt aborts first (R345). -/
def State.landDebug (s : State) (r : Ref) (h : Hart) (code : BitVec 16) : State :=
  (if h.tx.depth = 0 then s else s.txAbort r .preempted 0).stopAt r { cause := .debugStop, code }

/-- A debugger is attached to the lane's slot (R522). -/
def State.attached (s : State) (r : Ref) : Bool := ((s.slotFor? r).map fun q => (q.word 0x41).getLsbD 0).getD false

/-- The stop that is due at a safe point (R260, R261, R380). -/
def State.dueStop (s : State) (r : Ref) (h : Hart) : Option State :=
  let attached := s.attached r
  if h.preemptDue && !h.tstate.trapped then some ((s.preemptAbort r).landPreempt r)
  else
    match h.debugDue, h.late with
    | some code, late =>
      if attached && !h.tstate.trapped then some (s.landDebug r h code)
      else
        match late with
        | stop :: rest => some ((s.setHart r { h with late := rest }).raise r stop)
        | [] => none
    | none, stop :: rest => some ((s.setHart r { h with late := rest }).raise r stop)
    | none, [] => none

/-- The stop that is pending at a lane parked at a JOIN lands there, pre-emption first; at a JOIN whose STOP bit is clear BAD_CLAUSE
takes its place and the stop stays pending (R227). -/
def State.joinStop (s : State) (r : Ref) (h : Hart) : State :=
  if h.tstate.trapped then s
  else if h.preemptDue then (s.preemptAbort r).landPreempt r
  else
    match h.debugDue with
    | none => s
    | some code =>
      if !s.attached r then s
      else if h.tx.depth = 0 && !(s.safePoint r.core (s.ctxOf r) h.pc h.clause h.pos).1 then s.stopAt r { cause := .badClause }
      else s.landDebug r h code

/-- The stops that a failed load of its overlay leaves at an arrival (R81, R470). -/
def loadStops : List Stop := [{ cause := .badClause }, { cause := .eccUncorrected }]

/-- A lane whose overlay is not loaded: an arrival whose load has failed stops (R37, R81, R470), any other waits for a load. An
arrival at a safe point has an EORD (R79). -/
def State.startMiss (s : State) (r : Ref) (h : Hart) : State :=
  if h.arrived && (h.late.take 1).any loadStops.contains then
    (s.setHart r { h with late := h.late.drop 1 }).raise r (h.late.headD { cause := .badClause })
  else s.overlayMiss r h.pc (.overlay (ovlOf h.pc)) (if h.arrived && !h.fresh then some (h.arrivalOrd ++ ovlOf h.pc) else none)

/-- What an access has waited for is over: the request before it has performed (R286), or nothing holds its page any more (R460). -/
def Hart.waitOver (h : Hart) (s : State) (r : Ref) : Bool :=
  match h.status with
  | .held (.ordered va n) => !s.requestOut h.tid (s.ctxOf r) va n
  | .held (.pageMove (some va) _) =>
    ((s.homeLeaf (s.ctxOf r) va).map fun l => s.onChip l.home).getD true && !s.pageHeld h.tid (s.ctxOf r) (some va)
  | .held (.pageMove none since) => since != 0 && !s.pageHeld h.tid (s.ctxOf r) none
  | _ => false

/-- The checks of a running hart before it can issue: a start is checked as a transfer (R432), a malformed header stops the
clause (R62), the breakpoint test is made once at each position (R523), and a stop that is due lands (R68, R260), at a lane that is
parked at a JOIN too (R227). -/
def State.before (s : State) (r : Ref) : State :=
  match s.hart? r with
  | none => s
  | some h =>
    if h.waitOver s r then s.release r
    else if h.atJoin then s.joinStop r h
    else if h.status != .running then s
    else
      let ctx := s.ctxOf r
      if h.fresh then
        match s.target r.core ctx h.pc with
        | .bad => s.stopAt r { cause := .badClause }
        | .miss => s.startMiss r h
        | .ok => s.setHart r (h.enter h.pc)
      else
        match s.clauseOf r.core ctx h with
        | none => s.startMiss r h
        | some (_, c) =>
          if c.bad then s.raise r { cause := .badClause }
          else if !c.safe h.pos || !(h.entered || h.maskClear c.wait) then s
          else
            let ord := (s.safePoint r.core ctx h.pc h.clause h.pos).2.map Prod.fst
            let h' := if h.reached then h else
              match s.reachStop r h ord with
              | some code => { h with reached := true, debugDue := some code, debugStep := false }
              | none => { h with reached := true }
            let s' := s.setHart r h'
            (s'.dueStop r h').getD s'

/-- Every hart makes its checks, and enters the clause of a start that passed them. -/
def State.settleAll (s : State) : State := s.refs.foldl (fun s r => (s.before r).before r) s

/-! ### Selection within a wave (R28) -/

/-- Ready to issue: running at an instruction whose clause has passed its WAIT test. -/
def State.ready (s : State) (core ctx : Nat) (h : Hart) : Bool :=
  h.status == .running && !h.fresh
    && (match s.clauseOf core ctx h with
        | none => false
        | some (_, c) => !c.bad && (h.entered || h.maskClear c.wait))

/-- Lanes at one PC, at one step of one REP. -/
def Hart.samePlace (h k : Hart) : Bool := h.pc == k.pc && h.clause == k.clause && h.rep == k.rep && (h.rep.isNone || h.repstep == k.repstep)

/-- The lanes that R28 selects, and their first. -/
def selectLanes (ready : List (Nat × Hart)) : Option (Hart × List Nat) :=
  let size := fun (e : Nat × Hart) => (ready.filter fun x => x.2.pc == e.2.pc).length
  let best := ready.foldl (fun (acc : Option (Nat × Hart)) e =>
    match acc with
    | none => some e
    | some b => if size b < size e then some e else acc) none
  best.map fun b => (b.2, (ready.filter fun e => e.2.samePlace b.2).map Prod.fst)

/-- A member that may issue: its number (a wave slot, or 64 plus a context slot), the lanes, the first lane's hart, the opcode
that it would issue. -/
structure Pick where
  member : Nat
  ctx : Nat
  lanes : List Nat
  hart : Hart
  op : Nat
  prio : Nat
  slack : Nat
  sched : Sched
deriving DecidableEq, Repr

def Pick.bobbin (p : Pick) : Bool := decide (64 ≤ p.member)

/-- The opcode that a hart would issue: of the body in the midst of a REP. -/
def State.opAt (s : State) (core ctx : Nat) (h : Hart) : Nat :=
  match s.clauseOf core ctx h with
  | none => 0
  | some (_, c) => ((c.places[h.pos + h.rep.isSome.toNat]?).map Pos.op).getD 0

def State.prioOf (s : State) (launch : Word) : Nat := ((s.launch? launch).map Launch.prio).getD 0

/-- What the members of a core could issue in this cycle. -/
def State.picks (s : State) (core : Nat) : List Pick :=
  let k := s.core core
  let waves := k.waves.filterMap fun (w, v) =>
    if k.chosen.contains w && k.deferred != some w then none
    else
      (selectLanes (v.lanes.filter fun e => s.ready core v.ctx e.2)).map fun (h, ls) =>
        let slack := (v.lanes.filter fun e => ls.contains e.1).foldl (fun a e => Nat.min a e.2.slack.toNat) 0xFFF
        { member := w, ctx := v.ctx, lanes := ls, hart := h, op := s.opAt core v.ctx h, prio := s.prioOf v.launch, slack, sched := v.sched }
  let bobbins := k.slots.filterMap fun (n, q) =>
    if k.chosen.contains (64 + n) || !s.ready core q.ctx q.bobbin then none
    else some { member := 64 + n, ctx := q.ctx, lanes := [0], hart := q.bobbin, op := s.opAt core q.ctx q.bobbin
                prio := s.prioOf q.bobbin.launch, slack := q.bobbin.slack.toNat, sched := q.sched }
  waves ++ bobbins

/-- Port p of 0 MEM, 1 ENG, 2 ALU0, 3 ALU1 takes the member. -/
def Pick.fits (p : Pick) (port : Nat) : Bool := portClass p.bobbin p.op == Nat.min port 2

/-- The member that R434 chooses. -/
def chooseMember (now : Nat) (e : List Pick) : Option Pick :=
  let order := fun (p : Pick) => match p.sched.promoted with | some n => n | none => 0
  let age := fun (p : Pick) => match p.sched.readySince with | some n => n | none => now
  match (sortBy order (e.filter fun p => p.sched.promoted.isSome)).head? with
  | some p => some p
  | none =>
    let top := e.foldl (fun a p => Nat.max a p.prio) 0
    let c := e.filter fun p => p.prio == top
    let least := c.foldl (fun a p => Nat.min a p.slack) 0xFFF
    let c := c.filter fun p => p.slack == least
    (sortBy Pick.member (let old := c.foldl (fun a p => Nat.min a (age p)) now; c.filter fun p => age p == old)).head?

/-- The hoop instructions (R363). -/
def isHoopOp (op : Nat) : Bool := decide (0xAE ≤ op) && decide (op ≤ 0xB3)

/-- A port may still choose in this cycle: it has not, and no later one has (R433). -/
def Core.mayChoose (k : Core) (port : Nat) : Bool := k.ports.all fun q => decide (q < port)

/-- What a port chooses: the member, and the eligible ones. A hoop instruction waits for the next cycle once a command of the core
has fired in this one (R366). -/
def State.pickAt (s : State) (core port : Nat) : Option (Nat × Pick × List Pick) :=
  let k := s.core core
  if !k.mayChoose port then none
  else
    let e := (s.picks core).filter fun p => p.fits port && k.deferred != some p.member && !(isHoopOp p.op && k.hoopStage == 2)
    (chooseMember s.tsc.toNat e).map fun w => (port, w, e)

/-- The member that MEM has chosen already and that has still to issue. -/
def State.deferredPick (s : State) (core : Nat) : Option (Nat × Pick × List Pick) :=
  (s.core core).deferred.bind fun m => ((s.picks core).find? fun p => p.member == m && p.fits 0).map fun p => (0, p, [])

/-- The first port of a core that may choose and has an eligible member, and its choice. -/
def State.nextPick (s : State) (core : Nat) : Option (Nat × Pick × List Pick) :=
  match s.deferredPick core with
  | some e => some e
  | none => (List.range 4).findSome? (s.pickAt core)

/-- A hoop instruction that a port of the core chooses next. -/
def State.hoopPick (s : State) (core : Nat) : Option (Nat × Pick × List Pick) :=
  [0, 1].findSome? fun port => (s.pickAt core port).filter fun e => isHoopOp e.2.1.op

/-- What a choice leaves: passes and promotions, the port and the member done (R433, R434). Members that one choice promotes together
are promoted in the order of wave slots, bobbins last: DESIGN CHOICE (log 60). -/
def State.picked (s : State) (core port : Nat) (w : Pick) (e : List Pick) : State :=
  let passed := fun (c : Sched) => if c.passed + 1 = 64 then { c with passed := c.passed + 1, promoted := some s.next } else { c with passed := c.passed + 1 }
  let s := e.foldl (fun s u =>
    if u.member = w.member then s
    else
      let s := if u.sched.passed + 1 = 64 then (s.event core u.ctx 0x0F 1 u.hart.tstate.priv).bump else s
      if u.bobbin then s.modSlot core (u.member - 64) fun q => { q with sched := passed q.sched }
      else s.modWave core u.member fun v => { v with sched := passed v.sched }) s
  let taken : Sched := { passed := 0, promoted := none, readySince := some s.tsc.toNat }
  let s := if w.bobbin then s.modSlot core (w.member - 64) fun q => { q with sched := taken } else s.modWave core w.member fun v => { v with sched := taken }
  s.modCore core fun k => { k with ports := k.ports ++ [port], chosen := k.chosen ++ [w.member] }

/-- MEM chooses before ENG (R433): where a hoop instruction on ENG goes before the cycle's firings (R366), MEM's choice is made first
and issues after them. -/
def State.memFirst (s : State) (core : Nat) : State :=
  match s.pickAt core 0 with
  | none => s
  | some (_, w, e) => (s.picked core 0 w e).modCore core fun k => { k with deferred := some w.member }

/-- The choice of the member that issues now, with what it closes in this cycle (R366, R507); a choice made before it only issues. -/
def State.chosen (s : State) (core port : Nat) (w : Pick) (e : List Pick) : State :=
  let hoop := isHoopOp w.op
  let s := if (s.core core).deferred == some w.member then s.modCore core fun k => { k with deferred := none }
    else (if hoop && port == 1 then s.memFirst core else s).picked core port w e
  let s := { s with fireClosed := s.fireClosed || !hoop }
  s.modCore core fun k =>
    { k with
      issued := if w.bobbin then k.issued else k.issued ++ [w.ctx]
      hoopStage := if hoop then Nat.max k.hoopStage 1 else k.hoopStage }

/-! ### Encoding faults (R86) -/

/-- The words at an offset of an image, for the longest instruction. -/
def State.wordsAt (s : State) (core slot off : Nat) : List (BitVec 32) := (List.range 5).map fun i => BitVec.ofNat 32 (s.imemWord core slot (off + 4 * i))

/-- What the words at an offset are. -/
def State.fetch (s : State) (core slot off : Nat) : Except DecodeError Instr :=
  match decode (s.wordsAt core slot off) with
  | .ok (i, _) => .ok i
  | .error e => .error e

def runLen (u : RegUse) (bobbin : Bool) : Nat := if bobbin then u.bobbin else u.thread

/-- A run that is not aligned to its length (R58, R169). -/
def runOdd (u : RegUse) (bobbin : Bool) : Bool := u.aligned && u.first % (Nat.max 1 (runLen u bobbin)) != 0

/-- A run that reaches beyond the allotment (R58, R59). -/
def runBeyond (u : RegUse) (bobbin : Bool) (allot : Nat) : Bool := decide (allot < u.first + runLen u bobbin) && runLen u bobbin != 0

/-- Forms that bobbin code has not: MOV.id (R146), table words beyond the record (R481), the second source of HFSET (R489), and
a literal for a run of w registers, of which it fills one (log 59). -/
def threadOnly : Instr → Bool
  | .movId _ _ _ => true
  | .patrd _ _ _ w => decide (8 ≤ w.toNat)
  | .blrd _ _ _ w => decide (2 ≤ w.toNat)
  | .hfset _ _ _ b => b != .reg 0
  | .hpush _ _ _ _ b nw => b.isLit && nw != 0
  | _ => false

/-- Ranks 3 to 5 of R86 for the words of one instruction; `steps` leaves out ALLOTMENT, which a REP body raises at its step
(R230). -/
def encodingFault (bobbin : Bool) (allot op : Nat) (steps : Bool) (f : Except DecodeError Instr) : Option Cause :=
  match f with
  | .error .truncated => some .badClause
  | .error .illegalOpcode => some .illegalOpcode
  | .error .illegalModifier => if runsIn bobbin op then some .illegalModifier else some .illegalOpcode
  | .ok i =>
    if !runsIn bobbin op then some .illegalOpcode
    else if (bobbin && threadOnly i) || i.uses.any fun u => runOdd u bobbin then some .illegalModifier
    else if !steps && i.uses.any fun u => runBeyond u bobbin allot then some .allotment
    else none

/-- The rank of an encoding fault in R86. -/
def Cause.rank : Cause → Nat
  | .badClause => 1
  | .controlIntegrity => 2
  | .illegalOpcode => 3
  | .illegalModifier => 4
  | .allotment => 5
  | _ => 6

/-- Of several encoding faults, the one highest in the table of R86. -/
def worst (l : List Cause) : Option Cause := (sortBy Cause.rank l).head?

/-- Stride of a code (R229). -/
def strideOf (c : BitVec 2) : Nat := if c = 0 then 0 else 2 ^ (c.toNat - 1)

/-- A nonzero stride on a field that the body does not use as a register, or an odd one on a run (R230). -/
def strideBad (bobbin : Bool) (body : Instr) (fld : Nat) (c : BitVec 2) : Bool :=
  c != 0 && (match body.uses.find? fun u => u.field == fld && runLen u bobbin != 0 with
    | none => true
    | some u => decide (1 < runLen u bobbin) && strideOf c % 2 == 1)

/-- The body's own breaches of R66 and R69: its place in the clause, whose next is `last`, and its STOP bit. -/
def placeFaults (op : Nat) (last safe : Bool) : List Cause := if (lastOnly op && !last) || (mustBeSafe op && !safe) then [.badClause] else []

/-- The faults of REP that its body and its strides show (R230). -/
def repFaults (bobbin : Bool) (allot bodyOp : Nat) (body : Except DecodeError Instr) (sd sa sb sc : BitVec 2) : List Cause :=
  (encodingFault bobbin allot bodyOp true body).toList
    ++ (match body with
      | .error _ => []
      | .ok b =>
        if !(0x20 ≤ bodyOp && bodyOp < 0x80) || strideBad bobbin b 0 sd || strideBad bobbin b 1 sa || strideBad bobbin b 2 sb
            || strideBad bobbin b 3 sc then [.illegalModifier]
        else [])

/-- The body with its fields advanced by s strides (R231); none when a field leaves the six bits. -/
def advanceRaw (r : Raw) (n : Nat) (sd sa sb sc : BitVec 2) : Option Raw :=
  let f := fun (x : BitVec 6) (c : BitVec 2) => x.toNat + n * strideOf c
  let (d, a, b, c) := (f r.d sd, f r.a sa, f r.b sb, f r.c sc)
  if d < 64 ∧ a < 64 ∧ b < 64 ∧ c < 64 then
    some { r with d := BitVec.ofNat 6 d, a := BitVec.ofNat 6 a, b := BitVec.ofNat 6 b, c := BitVec.ofNat 6 c }
  else none

/-- Step s of a REP: the body's instruction, or the fault it raises: a field at or beyond the allotment first (R231), then the
faults of the advanced body by their ranks. -/
def stepBody (bobbin : Bool) (allot : Nat) (words : List (BitVec 32)) (rep : Instr) (n : Nat) : Except Cause Instr :=
  match rep, readRaw words with
  | .rep _ _ _ _ sd sa sb sc, some (len, r, _) =>
    match advanceRaw r n sd sa sb sc with
    | none => .error .allotment
    | some r' =>
      match decodeRaw len r' with
      | .error _ => .error .illegalModifier
      | .ok i =>
        if i.uses.any fun u => runLen u bobbin != 0 && decide (allot ≤ u.first) then .error .allotment
        else if i.uses.any fun u => runOdd u bobbin then .error .illegalModifier
        else if i.uses.any fun u => runBeyond u bobbin allot then .error .allotment
        else .ok i
  | _, _ => .error .badClause

/-! ### Issue -/

/-- What a step does next. -/
inductive Next where
  /-- an instruction or event is carried out on the prepared state -/
  | run (i : Instr) (s : State)
  /-- the lanes took a fault before the instruction -/
  | stopped (s : State)
deriving DecidableEq, Repr

/-- Sources that hold poison (R471): the registers that an instruction reads. A store passes the poison of its data on. -/
def readMask (i : Instr) (bobbin : Bool) : DWord :=
  let op := opOf i
  let dRead := op == 0xC1 || (0xC8 ≤ op && op ≤ 0xCC) || (match i with | .movi _ _ .hi _ => true | _ => false)
  i.uses.foldl (fun m u =>
    if (u.field = 0 && !dRead) || (u.field = 2 && (op == 0x81 || op == 0x83)) then m
    else (List.range (runLen u bobbin)).foldl (fun m j => m ||| BitVec.ofNat 64 (2 ^ (u.first + j))) m) 0

/-- Lanes that a condition of their own keeps from the instruction: each does what `f` says, the others are issued. -/
def State.divert (s : State) (p : Ref → Hart → Bool) (f : Ref → State → State) : State :=
  let out := s.lanes.filter fun e => p (s.curRef e.1 e.2) e.2
  let s := { s with cur := { s.cur with lanes := s.cur.lanes.filter fun l => !out.any fun e => e.1 == l } }
  out.foldl (fun s e => f (s.curRef e.1 e.2) s) s

/-- Every lane of the issue raises an encoding fault. -/
def State.raiseAll (s : State) (c : Cause) : State := s.lanes.foldl (fun s e => s.raise (s.curRef e.1 e.2) { cause := c }) s

/-- Counters, energy, trace and the fetch time of an issue (R80, R506, R507, R509, R521). -/
def State.countIssue (s : State) (core port : Nat) (p : Pick) : State :=
  let lanes := s.lanes
  let sys := (lanes.filter fun e => e.2.tstate.priv).length
  let user := lanes.length - sys
  let s := s.count core p.ctx 0x11 1
  let s := match s.slotOf? core p.ctx with
    | none => s
    | some (k, _) => s.modSlot core k fun q => q.event ([3, 4, 1, 2].getD port 4) true user sys 1
  let s := match issueClass p.op with
    | none => s
    | some c => s.charge core p.ctx p.hart.launch c lanes.length
  let s := if s.cur.safe then
      s.trace core p.ctx 1 (p.member) (p.lanes.headD 0) (lanes.length - 1) (ovlOf p.hart.pc) ((s.cur.entry.map Prod.fst).getD 0)
    else s
  match (s.core core).overlay? p.ctx (ovlOf p.hart.clause) with
  | none => s
  | some (n, _) => s.modCore core fun k => { k with imem := k.imem.modify n fun o => { o with lastFetch := s.tsc.toNat } }

end Sys2Proof.Machine
end

