-- ==== Sys2Proof/Machine/Access.lean ====
section
/-! DEFINITION. How a memory operand is formed, checked and served: bolts (R315 to R318, R479, R480), near memories (R277 to
R283), homes and caches (R23, R285, R318), basting (R288 to R291), and transactional access (R343, R346). -/

namespace Sys2Proof.Machine

/-! ### Bolts -/

/-- A bolt record (R479). -/
structure Bolt where
  base : Nat
  space : Nat
  esize : Nat
  access : Nat
  btrap : Bool
  swz : Nat
  rsvd : Nat
  stride : Nat
  extent : Nat
deriving DecidableEq, Repr

def Bolt.ofBits (v : BitVec 128) : Bolt :=
  { base := field v 0 48, space := field v 48 3, esize := field v 51 3, access := field v 54 2, btrap := v.getLsbD 56,
    swz := field v 57 3, rsvd := field v 60 4, stride := field v 64 32, extent := field v 96 32 }

/-- Bolt records are read from the slot's window; at TRAPPED = 1, 60 to 63 name the system bolts (R251, R556). -/
def Slot.boltBits (q : Slot) (trapped : Bool) (k : BitVec 6) : BitVec 128 :=
  if trapped && decide (60 ≤ k.toNat) then q.sbolt.toList.getD (k.toNat - 60) 0 else q.bolts.toList.getD k.toNat 0

def State.boltOf (s : State) (r : Ref) (h : Hart) (k : BitVec 6) : Bolt :=
  Bolt.ofBits (((s.slotFor? r).map fun q => q.boltBits h.tstate.trapped k).getD 0)

/-- Bytes of an element. -/
def Bolt.width (b : Bolt) : Nat := 2 ^ b.esize

def Bolt.malformed (b : Bolt) : Bool := decide (4 < b.esize) || decide (3 < b.swz) || b.rsvd != 0

/-- The swizzled offset o′ of R480. -/
def swizzle (swz o : Nat) : Nat :=
  match swz with
  | 1 => Nat.xor o (o / 2 ^ 10 % 8 * 2 ^ 5)
  | 2 => Nat.xor o (o / 2 ^ 12 % 8 * 2 ^ 7)
  | 3 => Nat.xor o (o / 2 ^ 8 % 8 * 2 ^ 5)
  | _ => o

/-- The address that is checked, and the address that is used (R315, R480). -/
def Bolt.raw (b : Bolt) (i : Nat) : Nat := (b.base + i * b.stride) % 2 ^ 48
def Bolt.at (b : Bolt) (i : Nat) : Nat := (b.base + swizzle b.swz (i * b.stride % 2 ^ 48)) % 2 ^ 48

/-- What an access needs of ACCESS, and whether EINFO.WR is 1 for it (R317). -/
inductive Need where
  | load | store | update | move
deriving DecidableEq, Repr

def Need.ok (n : Need) (access : Nat) : Bool :=
  match n with
  | .load => access == 1 || access == 3
  | .store => access == 2 || access == 3
  | .update | .move => access == 3

def Need.write : Need → Bool
  | .store | .update => true
  | .load | .move => false

/-! ### Near storage -/

/-- The core of a cluster by its position q (R17). -/
def clusterCore (core q : Nat) : Nat := core / 64 * 64 + core / 16 % 4 * 16 + q / 2 * 8 + core / 2 % 4 * 2 + q % 2

def State.cspb (s : State) (core ctx : Nat) : Nat := (((s.core core).allocs.get? ctx).map Alloc.cspb).getD 0

/-- Where the allocation that holds a near address ends (R278, R279, R430). -/
def State.nearEnd (s : State) (core ctx space addr : Nat) : Nat :=
  match space with
  | 1 => ((s.die (dieOf core)).allocs.get? ctx).getD 0
  | 2 =>
    let q := addr / 0x80000
    if q < 4 then q * 0x80000 + (s.cspb (clusterCore core q) ctx - 0x180000) else 0
  | 3 => s.cspb core ctx
  | 4 => 256
  | _ => 0

/-- The storage of a near address (R279). -/
def nearKey (core ctx wave lane space addr : Nat) : Nat :=
  match space with
  | 1 => dieKey (dieOf core) ctx addr
  | 2 => coreKey (clusterCore core (addr / 0x80000 % 4)) ctx (0x180000 + addr % 0x80000)
  | 3 => coreKey core ctx addr
  | _ => laneKey core wave lane addr

def Ref.key (r : Ref) (ctx space addr : Nat) : Nat :=
  match r.agent with
  | .wave w l => nearKey r.core ctx w l space addr
  | .bobbin _ => nearKey r.core ctx 0 0 space addr

/-! ### The checks of R315 -/

/-- What the checks say of a lane's element. -/
inductive Spot where
  | suppressed
  | bad (stop : Stop)
  | at (addr : Nat)
deriving DecidableEq, Repr

/-- R315 on element i, for an element of n bytes with alignment n. A bobbin has no lane slice. -/
def State.spotN (s : State) (r : Ref) (b : Bolt) (i n : Nat) (need : Need) : Spot :=
  let raw := b.raw i
  let a := b.at i
  let stop := fun (c : Cause) (x : Nat) => Spot.bad
    { cause := c, addr := some (BitVec.ofNat 48 x), write := need.write, space := BitVec.ofNat 3 b.space }
  if b.malformed then stop .bounds raw
  else if b.extent ≤ i then (if b.btrap then stop .bounds raw else .suppressed)
  else if !need.ok b.access then stop .bounds raw
  else if 4 < b.space then stop .bounds raw
  else if raw % n != 0 then stop .misaligned raw
  else if b.space = 0 then .at a
  else
    let ctx := s.ctxOf r
    let lost := b.space == 4 && (match r.agent with | .bobbin _ => true | .wave _ _ => false)
    if lost || s.nearEnd r.core ctx b.space raw < raw + n || s.nearEnd r.core ctx b.space a < a + n then stop .bounds a
    else .at a

def State.spot (s : State) (r : Ref) (b : Bolt) (i : Nat) (need : Need) : Spot := s.spotN r b i b.width need

/-- The index of an operand: unsigned 32 bits (R315). -/
def Hart.index32 (h : Hart) (x : Src) : Nat := h.word x

/-! ### Costs (R507, R509, R510) -/

def State.nearCost (s : State) (r : Ref) (h : Hart) (space : Nat) : State :=
  let ctx := s.ctxOf r
  (s.event r.core ctx 0x06 1 h.tstate.priv).charge r.core ctx h.launch (if space = 1 || space = 2 then 8 else 7) 1

/-- A line read or written at its home (R510): near lines, and far lines through the memory-side cache. -/
def State.lineCost (s : State) (ctx : Nat) (launch : Word) (dpa : Nat) (system : Bool := false) : State :=
  let core := dpa / 2 ^ 32
  let (e, s) := s.lineEvent dpa
  (s.event core ctx e 1 system).charge core ctx launch (if e = 0x09 then 10 else 9) 1

/-- The UCIe port of a die towards another die of the module, column first (R16). -/
def gatewayPort (die home : Nat) : Nat := if Nat.xor die home % 2 = 1 then 0 else 1

/-- A read-only line of this chip on the path of R23: the core's read-only L1, then the die's cache or the gateway cache of the
UCIe port towards the home's die, then the home. -/
def State.roCost (s : State) (r : Ref) (h : Hart) (dpa : Nat) : State :=
  let ctx := s.ctxOf r
  let line := dpa / 64
  if (s.core r.core).roLines.contains line then s
  else
    let pick := Config.choice s.free
    let s := s.event r.core ctx 0x0A 1 h.tstate.priv
    let s := (s.modCore r.core fun k => { k with roLines := tagFill k.roLines 2048 line pick }).spend
    let die := dieOf r.core
    let home := dpa / 2 ^ 38
    let port := gatewayPort die home
    if home = die then
      if (s.die die).roLines.contains line then s
      else (s.modDie die fun d => { d with roLines := tagFill d.roLines 1048576 line (pick / 2048) }).lineCost ctx h.launch dpa h.tstate.priv
    else
      let held := (s.die die).gateways.toList.getD port []
      if held.contains line then s
      else
        (s.modDie die fun d => { d with gateways := d.gateways.setIfInBounds port (tagFill held 65536 line (pick / 2048)) }).lineCost ctx
          h.launch dpa h.tstate.priv

/-! ### Where an access is served (R285, R305, R306, R318, R343) -/

/-- A place that serves an access. -/
inductive Loc where
  | bank (line : Line) (key : Nat)
  | home (line : Line) (key : Nat)
  | cached (line : Line) (key : Nat)
deriving DecidableEq, Repr

def Loc.line : Loc → Line
  | .bank l _ | .home l _ | .cached l _ => l
def Loc.key : Loc → Nat
  | .bank _ k | .home _ k | .cached _ k => k

/-- A line of near memory that a range of some core's scoreboard covers (R305): an access from any core is held, since cluster
memory and the die scratchpad are other cores' near memory too. -/
def State.scored (s : State) (key : Nat) : Bool :=
  s.ranges.any fun g => g.core.isSome && g.dest && decide (g.lo ≤ key / 64) && decide (key / 64 ≤ g.hi)

/-- A lane that meets a scoreboard range is held (R305). -/
def State.holdScored (s : State) (r : Ref) (h : Hart) : State :=
  (s.event r.core (s.ctxOf r) 0x17 1 h.tstate.priv).hold r .scoreboard

def nearStop (c : Cause) (space addr : Nat) (write : Bool) : Stop :=
  { cause := c, addr := some (BitVec.ofNat 48 addr), write, space := BitVec.ofNat 3 space }

def globalStop (c : Cause) (va : Nat) (write : Bool) (home : Nat) : Stop :=
  { cause := c, addr := some (BitVec.ofNat 48 va), write, space := 0, home }

/-- The walk of an access at its origin: the leaf, or the lane has raised HOME_MAP_MISS, or ECC_UNCORRECTED where an entry is
poisoned (R451, R470). -/
def State.walk (s : State) (r : Ref) (h : Hart) (va : Nat) (write : Bool) : Option Leaf × State :=
  let ctx := s.ctxOf r
  let (leaf, missed, s) := s.tlbLookup r.core ctx h.launch.toNat va
  let s := if missed then s.event r.core ctx 0x10 1 h.tstate.priv else s
  match leaf with
  | some l => (some l, s)
  | none => (none, s.raise r (globalStop (s.missCause ctx va) va write (s.homeId r.core)))

/-- The checks at the home: RANGE_LOCK, then the page (R318, R455); an access to a page that moves is held (R460). -/
def State.atHome (s : State) (r : Ref) (h : Hart) (leaf : Leaf) (va bytes : Nat) (write : Bool) : Option Nat × State :=
  let ctx := s.ctxOf r
  if s.rangeLocked ctx va bytes write then
    (none, (s.event r.core ctx 0x17 1 h.tstate.priv).raise r (globalStop .rangeLock va write leaf.home))
  else
    match (if s.firstForwarded h.tid ctx va then { s with moves := [] } else s).homeCheck ctx va write leaf with
    | .ok dpa => (some dpa, s)
    | .fault c => (none, s.raise r (globalStop c va write leaf.home))
    | .moving => (none, (s.hold r (.pageMove (some va) s.next)).bump)

/-- Where a lane's access is served here and now; none when the lane has been dealt with: stopped, held, sent away, or its
attempt aborted. `plain` accesses migrate; LDRO and PREF do not. An access follows the thread's own earlier request to its element
(R286): DEDUCED (log 70), the lane is held until that has performed. -/
def State.locate (s : State) (r : Ref) (h : Hart) (space va bytes : Nat) (write : Bool) (sl : BitVec 3) (sx : Bool) : Option Loc × State :=
  let ctx := s.ctxOf r
  let tx := h.tx.depth != 0
  if space != 0 then
    let key := r.key ctx space va
    if tx && space == 1 then (none, s.txAbort r .nonlocal 0)
    else if s.scored key then (none, s.holdScored r h)
    else (some (.bank ⟨key / 64, va / 64, space, ctx⟩ key), s)
  else
    match s.walk r h va write with
    | (none, s) => (none, s)
    | (some leaf, s) =>
      let here := leaf.home == s.homeId r.core
      let roRead := leaf.ro && !write
      if s.pinned h && !roRead then (none, s.raise r (globalStop .pinnedGlobal va write leaf.home))
      else if tx && !here then (none, s.txAbort r .nonlocal 0)
      else if (here || roRead) && s.requestOut h.tid ctx va bytes then (none, s.hold r (.ordered va bytes))
      else if here || roRead then
        match s.atHome r h leaf va bytes write with
        | (none, s) => (none, s)
        | (some dpa, s) =>
          let line : Line := ⟨dpa / 64, va / 64, 0, ctx⟩
          if roRead then (some (.cached line dpa), s.roCost r h dpa) else (some (.home line dpa), s)
      else (none, s.migrate r leaf.home sl sx va)

/-- Sectors that the issue touches (R517). -/
def State.touch (s : State) (key : Nat) : State :=
  { s with cur := { s.cur with sectors := if s.cur.sectors.contains (key / 32) then s.cur.sectors else s.cur.sectors ++ [key / 32] } }

/-- Elements of global memory that a request carries, by their addresses, which no storage key equals. -/
def State.touchAll (s : State) (vas : List Nat) : State := vas.foldl (fun s va => s.touch (2 ^ 60 + va)) s

/-! ### Basting (R288 to R291) -/

/-- Entries of a party that cover a byte, lowest SEQ first: the log's, then the buffer's. -/
def Baste.covers (e : Baste) (ctx : Nat) (party : Word) (va : Nat) : Bool :=
  e.ctx == ctx && e.party == party && decide (e.addr.toNat ≤ va) && decide (va < e.addr.toNat + 2 ^ e.esize.toNat)

def Baste.byteAt (e : Baste) (va : Nat) : Byte := e.data.extractLsb' (8 * (va % 8)) 8

/-- What a plain load of a party reads of a byte, and whether it is poisoned (R291, R471). -/
def State.plainByte (s : State) (core ctx : Nat) (party : Word) (va : Nat) (mem : Byte × Bool) : Byte × Bool :=
  let k := s.core core
  match ((k.log ++ k.buffer).filter fun e => e.covers ctx party va).getLast? with
  | some e => (e.byteAt va, e.poisoned)
  | none => mem

/-- A run of bytes of memory with their poison, as a party's plain load reads it at its home. -/
def State.plainBytes (s : State) (core ctx : Nat) (party : Word) (va key n : Nat) : List (Byte × Bool) :=
  (List.range n).map fun i => s.plainByte core ctx party (va + i) (Memory.get s.mem (key + i), s.poison.contains (granule (key + i)))

/-- Entries that the basting log holds (R289). -/
def State.logCap (s : State) : Nat := s.bar.logsz * 2 ^ 20 / 32

/-- Is there room for n more entries (R290)? -/
def State.basteRoom (s : State) (core n : Nat) : Bool :=
  let k := s.core core
  decide (k.buffer.length + n ≤ 16384) || (!k.retired && decide (k.log.length + k.buffer.length + n ≤ 16384 + s.logCap))

/-- Fresh consecutive SEQ values in the existing order, when the oldest entry lags by 2^30 (R288). -/
def Core.renumbered (k : Core) : Core :=
  match (k.log ++ k.buffer).head? with
  | none => k
  | some e =>
    if (k.seq - e.seq).toNat < 2 ^ 30 then k
    else
      let give := fun (l : List Baste) (first : Word) => l.mapIdx fun i (e : Baste) => { e with seq := first + BitVec.ofNat 32 i }
      let n := BitVec.ofNat 32 k.log.length
      { k with log := give k.log k.seq, buffer := give k.buffer (k.seq + n), seq := k.seq + n + BitVec.ofNat 32 k.buffer.length }

/-- An entry enters the buffer with the next SEQ; a full buffer moves its lowest to the log, which the entry's context counts (R290,
R507). -/
def State.enterBuffer (s : State) (core : Nat) (entry : Word → Baste) (system : Bool := false) : State :=
  let full := decide (16384 ≤ (s.core core).buffer.length)
  let moved := if full then (s.core core).buffer.take 1 else []
  let s := s.modCore core fun k =>
    Core.renumbered { k with seq := k.seq + 1, log := k.log ++ moved, buffer := (if full then k.buffer.drop 1 else k.buffer) ++ [entry k.seq] }
  moved.foldl (fun s e => s.event core e.ctx 0x0C 1 system) s

/-- A plain store of one element enters the buffer. -/
def State.basteOne (s : State) (core ctx : Nat) (party : Word) (ovl ord : BitVec 16) (system poisoned : Bool) (va n v : Nat) : State :=
  (s.event core ctx 0x0B 1 system).enterBuffer core (system := system) fun seq =>
    { addr := BitVec.ofNat 48 va, esize := BitVec.ofNat 3 (Nat.log2 n), held := false, ctx, party, ovl, ord
      seq, data := BitVec.ofNat 64 (v * 256 ^ (va % 8)), poisoned }

/-- A plain global store performs: an entry for the element, or one for each half of 16 bytes (R288). -/
def State.baste (s : State) (r : Ref) (h : Hart) (poisoned : Bool) (va n v : Nat) : State :=
  let party := s.partyOf h
  let put := fun (s : State) (va n v : Nat) => s.basteOne r.core (s.ctxOf r) party (ovlOf h.pc) (s.ordOf r h) h.tstate.priv poisoned va n v
  if n = 16 then put (put s va 8 (v % 2 ^ 64)) (va + 8) 8 (v / 2 ^ 64) else put s va n v

/-! ### Attempts (R343, R346) -/

/-- a is older than b (R341). -/
def TxAge.older (a b : TxAge) : Bool :=
  decide (a.cycle < b.cycle) || (a.cycle == b.cycle && (decide (a.core < b.core) || (a.core == b.core &&
    (decide (a.slot < b.slot) || (a.slot == b.slot && decide (a.lane < b.lane))))))

def Hart.older (h k : Hart) : Bool :=
  match h.tx.age, k.tx.age with
  | some a, some b => a.older b
  | _, _ => false

/-- An access of an attempt meets the others on its line: it aborts when one of them is older, else they do (R346). -/
def State.txMeets (s : State) (h : Hart) (phys : Nat) (write : Bool) : Option State :=
  let others := (s.attemptsOn phys write).filter fun e => e.2.tid != h.tid
  if others.any fun e => e.2.older h then none
  else some (others.foldl (fun s e => s.txAbort e.1 .conflict 0) s)

/-- A line enters the read set; none when that leaves 64 (R343). -/
def Tx.reading (t : Tx) (l : Line) : Option Tx :=
  if t.reads.any fun x => x.phys == l.phys then some t
  else if 64 ≤ t.reads.length then none else some { t with reads := t.reads ++ [l] }

/-- Lines of a write set. -/
def Tx.wlines (t : Tx) : List Line := ((t.writes.map TxWrite.line).foldl (fun acc l => if acc.any fun x => x.phys == l.phys then acc else acc ++ [l]) [])

/-- Bytes enter the write set; none when their line leaves 16. -/
def Tx.writing (t : Tx) (l : Line) (key : Nat) (bytes : List Byte) (poisoned : Bool) : Option Tx :=
  if !(t.wlines.any fun x => x.phys == l.phys) && decide (16 ≤ t.wlines.length) then none
  else some { t with writes := t.writes ++ (bytes.mapIdx fun i b => (⟨l, key + i, b, poisoned⟩ : TxWrite)) }

/-- A byte as the attempt sees it, and whether it is poisoned. -/
def Tx.byteAt (t : Tx) (key : Nat) (mem : Byte × Bool) : Byte × Bool :=
  (((t.writes.filter fun w => w.key == key).getLast?).map fun w => (w.byte, w.poisoned)).getD mem

/-! ### Reads and writes -/

/-- Is one of n bytes poisoned (R471)? -/
def State.poisoned (s : State) (key n : Nat) : Bool := (List.range n).any fun i => s.poison.contains (granule (key + i))

/-- What a located load returns: its bytes and whether they are poisoned; none when the lane's attempt has aborted. A plain load sees
its party's entries at the page's home, whose channels the key names, on a read-only page too (R291, R296); `memOnly` sees no
basting entry (R322). -/
def State.readAt (s : State) (r : Ref) (h : Hart) (loc : Loc) (va n : Nat) (memOnly : Bool) : Option (List Byte × Bool) × State :=
  let key := loc.key
  let mem := Memory.getBytes s.mem key n
  let s := s.touch key
  if h.tx.depth = 0 then
    match loc, memOnly with
    | .home _ _, false | .cached _ _, false =>
      let bytes := s.plainBytes (key / 2 ^ 32) (s.ctxOf r) (s.partyOf h) va key n
      (some (bytes.map Prod.fst, bytes.any Prod.snd), s)
    | _, _ => (some (mem, s.poisoned key n), s)
  else
    match s.txMeets h loc.line.phys false with
    | none => (none, s.txAbort r .conflict 0)
    | some s =>
      let bytes := mem.mapIdx fun i b => h.tx.byteAt (key + i) (b, s.poison.contains (granule (key + i)))
      if bytes.any Prod.snd then
        (none, s.raise r { cause := .eccUncorrected, addr := some (BitVec.ofNat 48 va), space := BitVec.ofNat 3 loc.line.kind })
      else
        match h.tx.reading loc.line with
        | none => (none, s.txAbort r .capacity 0)
        | some tx => (some (bytes.map Prod.fst, false), s.modHart r fun k => { k with tx })

/-- A located store of bytes; false when the lane's attempt has aborted. -/
def State.writeAt (s : State) (r : Ref) (h : Hart) (loc : Loc) (va : Nat) (bytes : List Byte) (poisoned : Bool) : Bool × State :=
  let s := s.touch loc.key
  if h.tx.depth = 0 then
    match loc with
    | .bank line key => (true, s.store line key bytes 0 poisoned)
    | _ => (true, s.baste r h poisoned va bytes.length (natOfBytes bytes))
  else
    match s.txMeets h loc.line.phys true with
    | none => (false, s.txAbort r .conflict 0)
    | some s =>
      match h.tx.writing loc.line loc.key bytes poisoned with
      | none => (false, s.txAbort r .capacity 0)
      | some tx => (true, s.modHart r fun k => { k with tx })

/-! ### Elements and registers (R164, R106, R315) -/

/-- Registers that an element takes. -/
def elemRegs (bobbin : Bool) (bytes : Nat) : Nat := if bobbin then (if bytes = 16 then 2 else 1) else if bytes ≤ 4 then 1 else bytes / 4

/-- The register writes of an element (R164). -/
def placeElem (bobbin : Bool) (d bytes : Nat) (signed : Bool) (v : Nat) : List (Nat × DWord) :=
  if bobbin then
    if bytes = 16 then [(d, BitVec.ofNat 64 v), (d + 1, BitVec.ofNat 64 (v / 2 ^ 64))]
    else [(d, BitVec.ofInt 64 (intOf (8 * bytes) signed v))]
  else if bytes ≤ 4 then [(d, BitVec.ofNat 64 (intOf (8 * bytes) signed v % 2 ^ 32).toNat)]
  else (List.range (bytes / 4)).map fun i => (d + i, BitVec.ofNat 64 (v / 2 ^ (32 * i) % 2 ^ 32))

/-- The element that a source register or run holds, of the low bytes. -/
def Hart.elemOf (h : Hart) (x : Src) (bytes : Nat) : Nat :=
  match x with
  | .lit v => v.toNat % 2 ^ (8 * bytes)
  | .reg n =>
    if h.isBobbin then
      (if bytes = 16 then (h.reg n.toNat).toNat + 2 ^ 64 * (h.reg (n.toNat + 1)).toNat else (h.reg n.toNat).toNat % 2 ^ (8 * bytes))
    else if bytes ≤ 4 then (h.reg n.toNat).toNat % 2 ^ (8 * bytes)
    else sumNat ((List.range (bytes / 4)).map fun i => (h.reg (n.toNat + i)).toNat % 2 ^ 32 * 2 ^ (32 * i))

/-- A register run that the bolt's element size sets: its faults (R164, R169). -/
def State.runFault (s : State) (h : Hart) (x : Src) (n : Nat) : Option Cause :=
  match x with
  | .lit _ => if 2 < n && !h.isBobbin || 1 < n && h.isBobbin then some .illegalModifier else none
  | .reg d =>
    if d.toNat % Nat.max 1 n != 0 then some .illegalModifier
    else if s.allotOf h < d.toNat + n then some .allotment else none

/-- A poisoned register of a run (R471). -/
def Hart.runPoisoned (h : Hart) (x : Src) (n : Nat) : Bool :=
  match x with
  | .lit _ => false
  | .reg d => (List.range n).any fun i => h.poison.getLsbD (d.toNat + i)

/-- A type with TX = 1 fixes the element's width (R315). -/
def widthBad (t : Option Fmt) (b : Bolt) : Bool :=
  match t with
  | none => false
  | some f => decide (f.bits / 8 ≠ b.width)

/-- A signed integer type extends the sign (R315). -/
def signedOf (t : Option Fmt) : Bool :=
  match t with
  | none => false
  | some f => f.isInt && f.signed

/-! ### Lanes held for a reply (R43) -/

/-- A held lane goes on after the instruction it stands at. A stop that is pending then lands at the next safe point that the lane
reaches: DESIGN CHOICE (log 60) where the position after the instruction is none, since R43 says only that the stop lands when the
reply arrives. -/
def State.goPast (s : State) (r : Ref) : State :=
  match s.hart? r with
  | none => s
  | some h =>
    let h := { h with status := .running }
    match s.clauseOf r.core (s.ctxOf r) h with
    | none => s.setHart r h
    | some (_, c) =>
      let p := c.places.getD h.pos ⟨offOf h.pc, 0, 4⟩
      s.setHart r (h.past { nextPc := mkPc (ovlOf h.clause) (BitVec.ofNat 16 (p.off + p.bytes)), nextPos := h.pos + 1, count := c.count })

/-- One acknowledgement fewer; the last releases the lane. -/
def State.ackOne (s : State) (r : Ref) : State :=
  match s.hart? r with
  | none => s
  | some h =>
    match h.status with
    | .acks n => if n ≤ 1 then s.goPast r else s.setHart r { h with status := .acks (n - 1) }
    | _ => s

end Sys2Proof.Machine
end

