-- ==== Sys2Proof/Machine/Memory.lean ====
section
/-! DEFINITION. Loads and stores (R319 to R322), requests at TRAPPED = 1 (R274, R557), PREF, MIGR (R323, R324), fibres (R161 to
R166) and the samples of memory issues (R515 to R517). -/

namespace Sys2Proof.Machine

/-! ### The elements of one lane's access -/

/-- R315 on n elements from an index, in order; none stands for a suppressed element. -/
def State.spots (s : State) (r : Ref) (b : Bolt) (need : Need) : Nat → Nat → Except Stop (List (Option Nat))
  | _, 0 => .ok []
  | i, n + 1 =>
    match s.spot r b i need with
    | .bad stop => .error stop
    | .suppressed => (s.spots r b need (i + 1) n).map fun l => none :: l
    | .at a => (s.spots r b need (i + 1) n).map fun l => some a :: l

/-- Several elements leave one block of 4 KiB (R321). -/
def Bolt.spanBad (b : Bolt) (i n : Nat) : Bool :=
  decide (1 < n) && b.raw i / 4096 != (b.raw (i + n - 1) + b.width - 1) / 4096

def Bolt.misaligned (b : Bolt) (i : Nat) (write : Bool) : Stop :=
  { cause := .misaligned, addr := some (BitVec.ofNat 48 (b.raw i)), write, space := BitVec.ofNat 3 b.space }

/-- The checks of R315 and R321 on the elements of one lane. -/
def State.elems (s : State) (r : Ref) (b : Bolt) (need : Need) (i n : Nat) : Except Stop (List (Option Nat)) :=
  match s.spots r b need i n with
  | .error e => .error e
  | .ok l => if b.spanBad i n then .error (b.misaligned i need.write) else .ok l

/-- Faults of the element size: a type of another width, and register runs (R164, R315, R321). -/
def State.elemFault (s : State) (h : Hart) (b : Bolt) (t : Option Fmt) (x : Src) (n : Nat) (quad : Bool) : Option Cause :=
  let per := elemRegs h.isBobbin b.width
  if widthBad t b then some .illegalModifier
  else if 4 < b.esize then none
  else if quad && (b.esize == 4 || decide (8 < n * per)) then some .illegalModifier
  else s.runFault h x (n * per)

/-- Where each element is served; none when the lane has been dealt with. -/
def State.locateAll (s : State) (r : Ref) (h : Hart) (space bytes : Nat) (write : Bool) (sl : BitVec 3) (sx : Bool) :
    List (Option Nat) → Option (List (Option (Loc × Nat))) × State
  | [] => (some [], s)
  | none :: l =>
    let q := s.locateAll r h space bytes write sl sx l
    (q.1.map fun x => none :: x, q.2)
  | some a :: l =>
    match s.locate r h space a bytes write sl sx with
    | (none, s) => (none, s)
    | (some loc, s) =>
      let q := s.locateAll r h space bytes write sl sx l
      (q.1.map fun x => some (loc, a) :: x, q.2)

/-- Each line that a lane's access reads at its home is charged once (R510). -/
def State.chargeLines (s : State) (ctx : Nat) (h : Hart) (locs : List (Option (Loc × Nat))) : State :=
  let lines := (locs.filterMap fun l => match l with
    | some (.home _ dpa, _) => some (dpa / 64)
    | _ => none).eraseDups
  lines.foldl (fun s l => s.lineCost ctx h.launch (64 * l) h.tstate.priv) s

/-! ### Requests (R39, R274, R322) -/

/-- Send a request packet. -/
def State.request (s : State) (r : Ref) (h : Hart) (home : Nat) (sl : BitVec 3) (sx : Bool) (body : Body) : State :=
  s.send r.core home (s.ctxOf r) h.launch (s.slackClass r sl) sx 0 48 body

/-- A lane of one or more elements sends its request and is held for the reply (R274); each element's page is walked at the
origin. False when the lane has faulted, and has touched nothing. -/
def State.requestHeld (s : State) (r : Ref) (h : Hart) (vas : List Nat) (write : Bool) (sl : BitVec 3) (sx : Bool) (body : Body) : Bool × State :=
  match vas with
  | [] => (false, s)
  | va :: rest =>
    match s.walk r h va write with
    | (none, s) => (false, s)
    | (some leaf, s) =>
      match rest.find? fun v => (s.homeLeaf (s.ctxOf r) v).isNone with
      | some v => (false, s.raise r (globalStop (s.missCause (s.ctxOf r) v) v write (s.homeId r.core)))
      | none =>
        (true, (((s.touchAll vas).chargeRequest r h leaf.home).request r h leaf.home sl sx body).modHart r fun h => { h with status := .acks 1 })

/-! ### Loads -/

/-- A load of one lane: destination, bolt, first index, elements, extension, slack class, .sx, LDRO, and what it leaves in a
fibre and a predicate. -/
structure Load where
  d : Nat
  bolt : Bolt
  ix : Nat
  n : Nat := 1
  signed : Bool := false
  sl : BitVec 3 := 0
  sx : Bool := false
  ro : Bool := false
  cursor : Option (BitVec 1 × Fibre × BitVec 3) := none

def Load.per (q : Load) (bobbin : Bool) : Nat := elemRegs bobbin q.bolt.width

/-- The register writes of the elements and the registers left poisoned; a suppressed element gives 0 (R316). -/
def Load.writes (q : Load) (bobbin : Bool) (vals : List (Option (List Byte × Bool))) : List (Nat × DWord) × DWord :=
  let per := q.per bobbin
  let one := fun (j : Nat) (v : Option (List Byte × Bool)) =>
    placeElem bobbin (q.d + j * per) q.bolt.width q.signed (natOfBytes ((v.map Prod.fst).getD []))
  let bad := fun (j : Nat) (v : Option (List Byte × Bool)) =>
    if (v.map Prod.snd).getD false then (2 ^ per - 1) * 2 ^ (q.d + j * per) else 0
  ((vals.mapIdx one).flatten, BitVec.ofNat 64 (sumNat (vals.mapIdx bad)))

/-- Cursor and predicate of FNEXT and FPEEK. -/
def Hart.setCursor (h : Hart) (c : Option (BitVec 1 × Fibre × BitVec 3)) : Hart :=
  match c with
  | none => h
  | some (fi, f, pb) => (h.setFibre fi f).setPred pb true

/-- The load has performed: its result is on its way, and the lane goes on. -/
def State.loaded (s : State) (r : Ref) (q : Load) (bobbin : Bool) (vals : List (Option (List Byte × Bool)))
    (twin : Option (Nat × Nat × Word × Nat) := none) : State :=
  let w := q.writes bobbin vals
  let s := s.launchResult r s.cur.flag w.1 w.2 twin
  (s.modHart r fun h => h.setCursor q.cursor).goOn r

/-- Read the located elements in order; none when the attempt has aborted. -/
def State.readAll (s : State) (r : Ref) (n : Nat) (memOnly : Bool) : List (Option (Loc × Nat)) → Option (List (Option (List Byte × Bool))) × State
  | [] => (some [], s)
  | none :: l =>
    let q := s.readAll r n memOnly l
    (q.1.map fun x => none :: x, q.2)
  | some (loc, a) :: l =>
    match s.hart? r with
    | none => (none, s)
    | some h =>
      match s.readAt r h loc a n memOnly with
      | (none, s) => (none, s)
      | (some v, s) =>
        let q := s.readAll r n memOnly l
        (q.1.map fun x => some v :: x, q.2)

/-- The registers of the suppressed elements of a load, which read as 0 (R316). A request brings them with its reply, since one that
fails has no effect on any element (R321). -/
def Load.zeros (q : Load) (bobbin : Bool) (as : List (Option Nat)) : List (Nat × DWord) :=
  let per := q.per bobbin
  (as.mapIdx fun j a => if a.isSome then [] else placeElem bobbin (q.d + j * per) q.bolt.width q.signed 0).flatten

/-- The request that carries a lane's load. -/
def Load.access (q : Load) (s : State) (r : Ref) (h : Hart) (as : List (Option Nat)) (held : Bool) : Access :=
  let per := q.per h.isBobbin
  let parts := (as.mapIdx fun j a => a.map fun va => (⟨BitVec.ofNat 48 va, 0, q.d + j * per⟩ : Part)).filterMap id
  { dest := { ref := r, reg := q.d, flag := s.cur.flag, bytes := q.bolt.width, signed := q.signed, sample := s.cur.sample }
    ctx := s.ctxOf r, parts, bytes := q.bolt.width, write := false, fmt := .n64, party := s.partyOf h, overlay := !q.ro
    eord := s.ordOf r h ++ ovlOf h.pc, pc := h.pc, held, cursor := q.cursor, cycle := s.tsc.toNat, system := h.tstate.priv
    zeros := q.zeros h.isBobbin as }

/-- A load at TRAPPED = 1 goes to the home by request and holds the lane until it has performed (R274); its flag counts (R63). -/
def State.loadHeld (s : State) (r : Ref) (h : Hart) (q : Load) (as : List (Option Nat)) : State :=
  match s.requestHeld r h (as.filterMap id) false q.sl q.sx (.read (q.access s r h as true)) with
  | (false, s) => s
  | (true, s) => s.raiseFlag r

/-- A load that a read request carries while its lane stays: LDRO on a writable page, for which a pinned thread raises
PINNED_GLOBAL (R318, R322), and any read of a read-only page that is homed on another chip (R23, R285). A page of this chip has
been checked before the request leaves. -/
def State.loadRequest (s : State) (r : Ref) (h : Hart) (q : Load) (leaf : Leaf) (va : Nat) (as : List (Option Nat)) : State :=
  if s.pinned h && !leaf.ro then s.raise r (globalStop .pinnedGlobal va false leaf.home)
  else
    match (if s.onChip leaf.home then s.atHome r h leaf va q.bolt.width false else (some 0, s)) with
    | (none, s) => s
    | (some _, s) =>
      let s := (s.touchAll (as.filterMap id)).chargeRequest r h leaf.home
      let s' := s.request r h leaf.home q.sl q.sx (.read (({ q with cursor := none } : Load).access s r h as false))
      let s' := s'.raiseFlag r
      (s'.modHart r fun h => h.setCursor q.cursor).goOn r

/-- The page of an address is read-only and homed on another chip. -/
def State.roElsewhere (s : State) (ctx va : Nat) : Bool := ((s.homeLeaf ctx va).map fun l => l.ro && !s.onChip l.home).getD false

/-- One element of near memory: the lanes of one issue that read it get it together (DEDUCED from R541). -/
def Load.twin (q : Load) (s : State) (h : Hart) (as : List (Option Nat)) : Option (Nat × Nat × Word × Nat) :=
  match as with
  | [some va] => if q.bolt.space = 0 then none else some (s.tsc.toNat, s.cur.member, h.pc, va)
  | _ => none

/-- A load that is served here, migrates, or aborts. -/
def State.loadHere (s : State) (r : Ref) (h : Hart) (q : Load) (as : List (Option Nat)) : State :=
  match s.locateAll r h q.bolt.space q.bolt.width false q.sl q.sx as with
  | (none, s) => s
  | (some locs, s) =>
    let s := if q.bolt.space = 0 then s else s.nearCost r h q.bolt.space
    match (s.chargeLines (s.ctxOf r) h locs).readAll r q.bolt.width q.ro locs with
    | (none, s) => s
    | (some vals, s) => s.loaded r q h.isBobbin vals (q.twin s h as)

/-- One lane's load after its register run has been checked. -/
def State.load (s : State) (r : Ref) (h : Hart) (q : Load) : State :=
  match s.elems r q.bolt .load q.ix q.n with
  | .error stop => s.raise r stop
  | .ok as =>
    if (as.filterMap id).isEmpty then s.loaded r q h.isBobbin (as.map fun _ => none)
    else if q.bolt.space != 0 then s.loadHere r h q as
    else if h.tstate.trapped then s.loadHeld r h q as
    else
      let va := (as.filterMap id).headD 0
      if h.tx.depth == 0 && (q.ro || s.roElsewhere (s.ctxOf r) va) then
        match s.walk r h va false with
        | (none, s) => s
        | (some leaf, s) => if leaf.ro && s.onChip leaf.home then s.loadHere r h q as else s.loadRequest r h q leaf va as
      else s.loadHere r h { q with ro := false } as

/-! ### Stores -/

structure Store where
  bolt : Bolt
  ix : Nat
  n : Nat := 1
  src : Src
  sl : BitVec 3 := 0
  sx : Bool := false

/-- The source of element j. -/
def Store.at (q : Store) (bobbin : Bool) (j : Nat) : Src :=
  match q.src with
  | .lit v => .lit (v >>> (32 * j))
  | .reg n => .reg (BitVec.ofNat 6 (n.toNat + j * elemRegs bobbin q.bolt.width))

/-- Element j: its value, and whether it is poisoned. -/
def Store.value (q : Store) (h : Hart) (j : Nat) : Nat × Bool :=
  (h.elemOf (q.at h.isBobbin j) q.bolt.width, h.runPoisoned (q.at h.isBobbin j) (elemRegs h.isBobbin q.bolt.width))

/-- Write the located elements in order. -/
def State.writeAll (s : State) (r : Ref) (n : Nat) : List (Option (Loc × Nat) × Nat × Bool) → Bool × State
  | [] => (true, s)
  | (none, _, _) :: l => s.writeAll r n l
  | (some (loc, a), v, p) :: l =>
    match s.hart? r with
    | none => (false, s)
    | some h =>
      match s.writeAt r h loc a (bytesOfNat n v) p with
      | (false, s) => (false, s)
      | (true, s) => s.writeAll r n l

/-- A store at TRAPPED = 1 goes to the home by request (R274). -/
def State.storeHeld (s : State) (r : Ref) (h : Hart) (q : Store) (as : List (Option Nat)) : State :=
  let parts := (as.mapIdx fun j a => a.map fun va => (⟨BitVec.ofNat 48 va, (q.value h j).1, 0⟩ : Part)).filterMap id
  let poisoned := (List.range q.n).any fun j => (q.value h j).2
  let a : Access :=
    { dest := { ref := r, reg := 0, silent := true, sample := s.cur.sample }, ctx := s.ctxOf r, parts, bytes := q.bolt.width, write := true
      fmt := .n64, b := poisoned.toNat, party := s.partyOf h, overlay := false, eord := s.ordOf r h ++ ovlOf h.pc, pc := h.pc, held := true
      cycle := s.tsc.toNat, system := h.tstate.priv }
  (s.requestHeld r h (as.filterMap id) true q.sl q.sx (.read a)).2

/-- A store that is served here, migrates, or aborts. BASTE_FULL comes before any effect (R290). -/
def State.storeHere (s : State) (r : Ref) (h : Hart) (q : Store) (as : List (Option Nat)) : State :=
  match s.locateAll r h q.bolt.space q.bolt.width true q.sl q.sx as with
  | (none, s) => s
  | (some locs, s) =>
    let live := as.filterMap id
    let entries := live.length * (if q.bolt.width = 16 then 2 else 1)
    if q.bolt.space == 0 && h.tx.depth == 0 && !s.basteRoom r.core entries then
      s.raise r (globalStop .basteFull (live.headD 0) true (s.homeId r.core))
    else
      let s := if q.bolt.space = 0 then s else s.nearCost r h q.bolt.space
      match s.writeAll r q.bolt.width (locs.mapIdx fun j l => (l, q.value h j)) with
      | (false, s) => s
      | (true, s) => s.goOn r

def State.storeLane (s : State) (r : Ref) (h : Hart) (q : Store) : State :=
  match s.elems r q.bolt .store q.ix q.n with
  | .error stop => s.raise r stop
  | .ok as =>
    if (as.filterMap id).isEmpty then s.goOn r
    else if q.bolt.space == 0 && h.tstate.trapped then s.storeHeld r h q as
    else s.storeHere r h q as

/-! ### Samples (R515 to R517) -/

/-- The context slot of the issue. -/
def State.curSlot (s : State) : Nat :=
  if s.cur.bobbin then s.cur.member
  else (((s.wave? s.cur.core s.cur.member).bind fun v => s.slotOf? s.cur.core v.ctx).map Prod.fst).getD 0

/-- Is the issue sampled, and with which tag? -/
def State.sampleTag (s : State) (g : Guard) : Option (BitVec 16) × State :=
  let k := s.curSlot
  match s.slot? s.cur.core k with
  | none => (none, s)
  | some q =>
    if q.frozen then (none, s)
    else
      let armed := (s.active g).filter fun e => e.2.sample.armed
      let c := q.word 0x30
      let period := field c 6 16
      let counts := c.getLsbD 0 && period != 0
      let n := q.sampleCount + 1
      let hit := counts && decide (period ≤ n)
      let s := if counts then s.modSlot s.cur.core k fun q => { q with sampleCount := if hit then 0 else n } else s
      match armed with
      | e :: _ => (some e.2.sample.tag, s)
      | [] => (if hit then some 0xFFFF else none, s)

/-- Results of the issue that are still out. -/
def State.sampleWaits (s : State) (id : Nat) : Nat :=
  s.packets.countP fun p => match p.body with
    | .result w => w.sample == some id
    | .read a | .atomic a => a.dest.sample == some id
    | _ => false

/-- Run a sampleable issue; when it is sampled its record is prepared (R517), and the arms of its lanes clear where an armed lane
takes part (R516). -/
def sampled (g : Guard) (op : Nat) (f : State → State) (s : State) : State :=
  match s.sampleTag g with
  | (none, s) => f s
  | (some tag, s) =>
    let slot := s.curSlot
    let lanes := s.lanes
    let refs := (s.active g).map fun e => s.curRef e.1 e.2
    let id := s.next
    let pc := (lanes.head?.map fun e => e.2.pc).getD 0
    let s := { s.bump with cur := { s.cur with sample := some id, sectors := [] } }
    let armed := (s.active g).any fun e => e.2.sample.armed
    let s := if armed then s.mapLanes fun h => { h with sample := {} } else s
    let s := f s
    let gone := refs.any fun r => match s.hart? r with
      | none => true
      | some h => (match h.status with | .settling (.migrate _ _ _ _) => true | _ => false)
    let one : Sample :=
      { id, lmask := lanes.foldl (fun (m : DWord) e => setBits m e.1 1 1) 0, ovl := ovlOf pc, ord := (s.cur.entry.map Prod.fst).getD 0
        sectors := s.cur.sectors.length, mig := gone, op, tag, time := s.tsc, waits := s.sampleWaits id, last := 64 }
    let s := s.modSlot s.cur.core slot fun q => { q with samples := q.samples ++ [one] }
    { s with cur := { s.cur with sample := none, sectors := [] } }

/-- A result that a sample covers has come back, for the lane that issued it. -/
def State.sampleBack (s : State) (issuer : Ref) (id : Option Nat) : State :=
  match id with
  | none => s
  | some n =>
    let back := fun (e : Sample) => if e.id = n then { e with waits := e.waits - 1, last := issuer.plane } else e
    s.modCore issuer.core fun k => { k with slots := k.slots.mapVals fun _ q => { q with samples := q.samples.map back } }

/-! ### LD, ST, LDQ, STQ, LDRO, PREF, MIGR -/

/-- LD, LDQ and LDRO. -/
def loadOp (g : Guard) (op : Nat) (d : Reg) (bolt : BitVec 6) (ix : Src) (n : Nat) (quad ro : Bool) (t : Option Fmt) (sx : Bool) (sl : BitVec 3)
    (s : State) : Host.Outcome State Fault Refusal :=
  .next (sampled g op (perLane g fun r h s =>
    let b := s.boltOf r h bolt
    match s.elemFault h b t (.reg d) n quad with
    | some c => s.raiseCause r c
    | none => s.load r h { d := d.toNat, bolt := b, ix := h.index32 ix, n, signed := signedOf t, sl, sx, ro }) s)

def execLd (g : Guard) (d : Reg) (bolt : BitVec 6) (ix : Src) (t : Option Fmt) (sx : Bool) (sl : BitVec 3) (s : State) :
    Host.Outcome State Fault Refusal := loadOp g 0x80 d bolt ix 1 false false t sx sl s

def execLdq (g : Guard) (d : Reg) (bolt : BitVec 6) (ix : Src) (n : BitVec 12) (t : Option Fmt) (sx : Bool) (sl : BitVec 3) (s : State) :
    Host.Outcome State Fault Refusal := loadOp g 0x82 d bolt ix n.toNat true false t sx sl s

def execLdro (g : Guard) (d : Reg) (bolt : BitVec 6) (ix : Src) (t : Option Fmt) (sx : Bool) (sl : BitVec 3) (s : State) :
    Host.Outcome State Fault Refusal := loadOp g 0x84 d bolt ix 1 false true t sx sl s

/-- ST and STQ. -/
def storeOp (g : Guard) (op : Nat) (bolt : BitVec 6) (ix src : Src) (n : Nat) (quad : Bool) (t : Option Fmt) (sx : Bool) (sl : BitVec 3)
    (s : State) : Host.Outcome State Fault Refusal :=
  .next (sampled g op (perLane g fun r h s =>
    let b := s.boltOf r h bolt
    match s.elemFault h b t src n quad with
    | some c => s.raiseCause r c
    | none => s.storeLane r h { bolt := b, ix := h.index32 ix, n, src, sl, sx }) s)

def execSt (g : Guard) (bolt : BitVec 6) (ix b : Src) (t : Option Fmt) (sx : Bool) (sl : BitVec 3) (s : State) :
    Host.Outcome State Fault Refusal := storeOp g 0x81 bolt ix b 1 false t sx sl s

def execStq (g : Guard) (bolt : BitVec 6) (ix b : Src) (n : BitVec 12) (t : Option Fmt) (sx : Bool) (sl : BitVec 3) (s : State) :
    Host.Outcome State Fault Refusal := storeOp g 0x83 bolt ix b n.toNat true t sx sl s

/-- The prefetch itself: it changes only what the caches hold (R323). -/
def State.prefetch (s : State) (r : Ref) (h : Hart) (va : Nat) : State :=
  let ctx := s.ctxOf r
  match s.homeLeaf ctx va with
  | none => s
  | some leaf =>
    if s.rangeLocked ctx va 1 false then s
    else
      match s.homeCheck ctx va false leaf with
      | .ok dpa =>
        if leaf.ro then s.roCost r h dpa
        else if dpa / 2 ^ 31 % 2 = 1 then s.lineCost ctx h.launch dpa h.tstate.priv
        else s
      | _ => s

def execPref (g : Guard) (bolt : BitVec 6) (ix : Src) (_ : BitVec 3) (s : State) : Host.Outcome State Fault Refusal :=
  .next (perLane g (fun r h s =>
    let b := s.boltOf r h bolt
    let i := h.index32 ix
    let bounds : Stop := { cause := .bounds, addr := some (BitVec.ofNat 48 (b.raw i)), space := BitVec.ofNat 3 b.space }
    if b.malformed then s.raise r bounds
    else if b.extent ≤ i then (if b.btrap then s.raise r bounds else s.goOn r)
    else if !Need.load.ok b.access then s.raise r bounds
    else if b.space = 0 && b.raw i % b.width = 0 then (s.prefetch r h (b.at i)).goOn r
    else s.goOn r) s)

def execMigr (g : Guard) (bolt : BitVec 6) (ix : Src) (sx : Bool) (sl : BitVec 3) (s : State) : Host.Outcome State Fault Refusal :=
  .next (perLane g (outside fun r h s =>
    let b := s.boltOf r h bolt
    match s.spot r b (h.index32 ix) .move with
    | .bad stop => s.raise r stop
    | .suppressed => s.goOn r
    | .at va =>
      if b.space != 0 || h.arrived then s.goOn r
      else
        match s.walk r h va false with
        | (none, s) => s
        | (some leaf, s) =>
          if h.tstate.trapped then s.goOn r
          else if s.pinned h then s.raise r (globalStop .pinnedGlobal va false leaf.home)
          else if leaf.home = s.homeId r.core then s.goOn r
          else s.migrate r leaf.home sl sx va) s)

/-! ### Fibres (R161 to R166) -/

def execFopen (g : Guard) (fi : BitVec 1) (bolt : BitVec 6) (ix b : Src) (step : BitVec 16) (s : State) : Host.Outcome State Fault Refusal :=
  aluOp g (fun h => h.setFibre fi { pos := BitVec.ofNat 32 (h.word ix), count := BitVec.ofNat 32 (h.word b), step, bolt, opened := true }) s

/-- The cursor after an element has been taken. -/
def Fibre.next (f : Fibre) : Fibre := { f with pos := f.pos + f.step.signExtend 32, count := f.count - 1 }

/-- FNEXT and FPEEK (R164). -/
def fibreOp (g : Guard) (op : Nat) (d : Reg) (pb : BitVec 3) (fi : BitVec 1) (sgn sx : Bool) (sl : BitVec 3) (advance : Bool) (s : State) :
    Host.Outcome State Fault Refusal :=
  .next (sampled g op (perLane g fun r h s =>
    let f := h.fibre fi
    let b := s.boltOf r h f.bolt
    let q : Load :=
      { d := d.toNat, bolt := b, ix := f.pos.toNat, signed := sgn, sl, sx, cursor := some (fi, if advance then f.next else f, pb) }
    let fault := if f.opened && f.count != 0 || b.esize ≤ 4 then s.elemFault h b none (.reg d) 1 false else some .illegalModifier
    match fault with
    | some c => s.raiseCause r c
    | none =>
      if f.opened && f.count != 0 then s.load r h q
      else (s.modHart r fun h => h.setPred pb false).loaded r { q with cursor := none } h.isBobbin [none]) s)

def execFnext (g : Guard) (d : Reg) (pb : BitVec 3) (fi : BitVec 1) (sgn sx : Bool) (sl : BitVec 3) (s : State) :
    Host.Outcome State Fault Refusal := fibreOp g 0x8B d pb fi sgn sx sl true s

def execFpeek (g : Guard) (d : Reg) (pb : BitVec 3) (fi : BitVec 1) (sgn sx : Bool) (sl : BitVec 3) (s : State) :
    Host.Outcome State Fault Refusal := fibreOp g 0x8C d pb fi sgn sx sl false s

def execFend (g : Guard) (pd : BitVec 3) (fi : BitVec 1) (s : State) : Host.Outcome State Fault Refusal :=
  aluOp g (fun h => h.setPred pd (!(h.fibre fi).opened || (h.fibre fi).count == 0)) s

def execFclose (g : Guard) (fi : BitVec 1) (s : State) : Host.Outcome State Fault Refusal :=
  aluOp g (fun h => h.setFibre fi { h.fibre fi with opened := false }) s

end Sys2Proof.Machine
end

