-- ==== Sys2Proof/Machine/Atomics.lean ====
section
/-! DEFINITION. Atomics (R302, R303, R332 to R334), requests at their home (R318, R557), replies and results (R39, R63), and
FENCE (R284, R331). -/

namespace Sys2Proof.Machine

/-! ### What a lane still owes (R284) -/

/-- A request or reply of a thread that is on its way, or a task of its that no home has accepted. -/
def Body.owes (tid : Nat) : Body → Bool
  | .atomic a | .read a | .atomicReply a _ _ | .failure a _ => a.dest.ref.tid == tid
  | .result w => w.owed && w.ref.tid == tid
  | .task _ i | .refusal _ i => i.tid == tid
  | .needle _ | .ack _ _ | .increment _ _ _ _ | .phaseArrive _ _ _ _ _ | .notice _ | .drain _ | .drained _ | .entryFetch _ _ | .entry _ _
  | .bulk _ => false

def State.owes (s : State) (tid : Nat) : Bool :=
  (s.packets ++ s.outbox).any (fun p => p.body.owes tid) || s.cores.any fun e => e.2.spawnQ.any fun t => t.issuer.tid == tid

/-- Where a thread stands now, by its name. -/
def State.whereIs (s : State) (tid : Nat) : Option Ref := s.refs.find? fun r => r.tid == tid

/-- A FENCE whose lane owes nothing any more ends. -/
def State.fenceCheck (s : State) (tid : Nat) : State :=
  match s.whereIs tid with
  | none => s
  | some r =>
    match s.hart? r with
    | none => s
    | some h =>
      match h.status with
      | .fence _ => if s.owes tid then s else s.goPast r
      | _ => s

/-- FENCE.device and .system wait for replies and tasks; everything else has performed when it issued. -/
def execFence (g : Guard) (scope : Scope) (s : State) : Host.Outcome State Fault Refusal :=
  .next (perLane g (fun r h s =>
    match scope with
    | .device | .system => if s.owes h.tid then s.modHart r fun h => { h with status := .fence scope } else s.goOn r
    | .lane | .core | .cluster | .die => s.goOn r) s)

/-! ### Results and replies -/

/-- A done flag of a lane has fallen: holds on it end, and a lane that settles may be done (R43, R68). -/
def State.flagFell (s : State) (r : Ref) : State :=
  match s.hart? r with
  | none => s
  | some h =>
    match h.status with
    | .held (.doneCount f) => if h.doneCount f < 15 then s.release r else s
    | .held (.waitFlags m) => if h.maskClear m then s.release r else s
    | .settling _ => s.settle r
    | _ => s

/-- A result is written to its thread, wherever it stands (R63, R471). -/
def State.writeBack (s : State) (w : Result) : State :=
  match s.whereIs w.ref.tid with
  | none => s.sampleBack w.ref w.sample
  | some r =>
    let write := fun (h : Hart) =>
      let h := w.writes.foldl (fun (h : Hart) e => h.setReg e.1 e.2) h
      let h := Hart.setCursor { h with poison := h.poison ||| w.poison } w.cursor
      match w.flag with
      | none => h
      | some f => h.setDone f (h.doneCount f - 1)
    let s := ((s.modHart r write).sampleBack w.ref w.sample).flagFell r
    (if w.release then s.ackOne r else s).fenceCheck w.ref.tid

/-- A packet that arrives overdue with .sx makes SLACK_EXHAUSTED pending at the lane that receives it (R444). -/
def State.overdueStop (s : State) (p : Packet) (r : Ref) : State :=
  if p.ovd && p.sx then s.lateStop r p.ctx { cause := .slackExhausted } else s

/-- A result at its core. That of a load which has held its lane lets the lane go on, and is written as any long-latency result is:
an instruction that does not wait on its flag may still find the old value (R64, R274). -/
def State.takeResult (s : State) (w : Result) : State :=
  if w.release && w.flag.isSome then
    match s.whereIs w.ref.tid with
    | none => s.writeBack w
    | some r =>
      let s := (s.modHart r fun h => h.setCursor w.cursor).ackOne r
      (s.send r.core (s.homeId r.core) (s.ctxOf r) 0 0xFFF false 1 32 (.result { w with release := false, cursor := none, owed := false })).fenceCheck w.ref.tid
  else s.writeBack w

/-- The results that come together with one: those of its wave's issue that read the same element of near memory. -/
def State.twins (s : State) (p : Packet) (w : Result) : List (Packet × Result) :=
  s.packets.filterMap fun (q : Packet) =>
    match q.body with
    | .result v =>
      if q.id == p.id || (w.twin.isSome && v.twin == w.twin && v.ref.core == w.ref.core) then some (q, v)
      else none
    | _ => none

def execResultWriteback (id : Nat) (s : State) : Host.Outcome State Fault Refusal :=
  .next (match s.packet? id with
  | none => s
  | some p =>
    match p.body with
    | .result w => (s.twins p w).foldl (fun s e => ((s.dropPacket e.1.id).takeResult e.2).overdueStop e.1 e.2.ref) s
    | _ => s)

def Ref.isBobbin (r : Ref) : Bool :=
  match r.agent with
  | .bobbin _ => true
  | .wave _ _ => false

/-- The register writes of a request's reply. -/
def Dest.writes (d : Dest) (v : Nat) : List (Nat × DWord) := if d.silent then [] else placeElem d.ref.isBobbin d.reg d.bytes d.signed v

def Dest.poison (d : Dest) : DWord :=
  if d.silent then 0 else BitVec.ofNat 64 ((2 ^ elemRegs d.ref.isBobbin d.bytes - 1) * 2 ^ d.reg)

/-- The reply of a request: it goes back with the slack and the marks that the request has left (R39, R442, R444). DESIGN CHOICE (log
71): a reply has 40 bytes whatever it carries, since R441 leaves its body to the device. -/
def State.reply (s : State) (p : Packet) (body : Body) : State :=
  let place := if p.src == p.home then Place.arrived else .source (coreOfHome p.home)
  let q : Packet := { p with id := s.next, src := p.home, home := p.src, vn := 1, bytes := 40, place, since := s.next, passed := 0, promoted := none, body }
  { s with packets := s.packets ++ [q], next := s.next + 1 }

/-- A request that performed nothing: 0 goes to its destination and the cause is delivered; a held lane faults (R557). -/
def State.replyFailed (s : State) (a : Access) (stop : Stop) : State :=
  let stop := { stop with served := true }
  if a.held then
    match s.whereIs a.dest.ref.tid with
    | none => s.sampleBack a.dest.ref a.dest.sample
    | some r =>
      let fell := fun (h : Hart) => match a.dest.flag with
        | none => h
        | some f => h.setDone f (h.doneCount f - 1)
      (((s.modHart r fell).release r).sampleBack a.dest.ref a.dest.sample).stopAt r stop
  else
    let zeros := if a.parts.length ≤ 1 then a.dest.writes 0 else (a.parts.flatMap fun q => { a.dest with reg := q.reg }.writes 0)
    (s.writeBack { ref := a.dest.ref, writes := zeros ++ a.zeros, flag := a.dest.flag, sample := a.dest.sample }).lateStop a.dest.ref a.ctx stop a.pc.toNat a.eord.toNat

def execAtomicReply (id : Nat) (s : State) : Host.Outcome State Fault Refusal :=
  .next (match s.packet? id with
  | none => s
  | some p =>
    match p.body with
    | .atomicReply a old poisoned =>
      let w : Result := { ref := a.dest.ref, writes := a.dest.writes old.toNat, flag := a.dest.flag, poison := if poisoned then a.dest.poison else 0, sample := a.dest.sample }
      ((s.dropPacket id).writeBack w).overdueStop p a.dest.ref
    | .failure a stop => (((s.dropPacket id).replyFailed a stop).overdueStop p a.dest.ref).fenceCheck a.dest.ref.tid
    | _ => s)

/-! ### Requests at the home (R318, R334, R557) -/

/-- What a home says of a request. -/
inductive Verdict where
  /-- the page moves, or has moved: the request is not performed here now -/
  | away
  | fails (stop : Stop)
  | faults (c : Cause) (va : Nat)
  | performs (dpas : List Nat)
deriving DecidableEq, Repr

/-- The checks of one element at its home, which the packet names for the first; a later element of a request may lie on another
page, and is then checked and performed at that page's home in the same event. -/
def State.serveOne (s : State) (p : Packet) (a : Access) (first : Bool) (va : Nat) : Verdict :=
  match s.homeLeaf a.ctx va with
  | none => .fails (globalStop (s.missCause a.ctx va) va a.write p.home)
  | some leaf =>
    if leaf.home != p.home && (first || leaf.home / 256 != s.bar.chipid) then .away
    else if s.rangeLocked a.ctx va a.bytes a.write then .fails (globalStop .rangeLock va a.write p.home)
    else
      match (if s.firstForwarded p.id a.ctx va then { s with moves := [] } else s).homeCheck a.ctx va a.write leaf with
      | .ok dpa => .performs [dpa]
      | .fault c => if c == .eccUncorrected then .fails (globalStop c va a.write p.home) else .faults c va
      | .moving => .away

def State.serve (s : State) (p : Packet) (a : Access) : Verdict :=
  a.parts.foldl (fun v q =>
    match v with
    | .performs l => (match s.serveOne p a l.isEmpty q.va.toNat with
      | .performs m => .performs (l ++ m)
      | w => w)
    | w => w) (.performs [])

/-- The accesses of two requests meet an element in common. -/
def Access.meets (a b : Access) : Bool := a.ctx == b.ctx && a.parts.any fun x => b.reaches x.va.toNat a.bytes

/-- Requests of one thread, or of the lanes of one issue, to one element perform in issue order (R301, R333, R557). -/
def Access.ordered (a b : Access) : Bool :=
  a.dest.ref.tid == b.dest.ref.tid || (a.cycle == b.cycle && a.dest.ref.core == b.dest.ref.core && a.dest.ref.wslot == b.dest.ref.wslot)

/-- An earlier request stands before this one. -/
def State.behind (s : State) (p : Packet) (a : Access) : Bool :=
  s.packets.any fun q => decide (q.id < p.id) && (match q.body.access? with
    | some b => a.ordered b && a.meets b
    | none => false)

/-- May the request be taken up at its home now? -/
def State.requestReady (s : State) (p : Packet) : Bool :=
  match p.body.access? with
  | none => false
  | some a => p.place == .arrived && !p.rehomed && a.waiting.isNone && !s.behind p a && s.serve p a != .away

def Packet.setWaiting (p : Packet) (w : Option PageWait) : Packet :=
  match p.body with
  | .atomic a => { p with body := .atomic { a with waiting := w } }
  | .read a => { p with body := .read { a with waiting := w } }
  | _ => p

/-- The request waits for the fault service, as a parked lane does. -/
def State.requestWaits (s : State) (p : Packet) (a : Access) (c : Cause) (va : Nat) : State :=
  let s := { s with packets := s.packets.map fun (q : Packet) => if q.id = p.id then q.setWaiting (some { cause := c, page := s.pageOf a.ctx va, home := p.home, va }) else q }
  s.reportPage (dieOf (coreOfHome p.home)) a.ctx va p.home c a.write 0 a.pc.toNat a.eord.toNat

/-- Serve a request: it performs by `f`, fails, or waits. -/
def State.serveRequest (s : State) (p : Packet) (a : Access) (f : List Nat → State → State) : State :=
  match s.serve p a with
  | .away => s
  | .fails stop =>
    let s := if stop.cause == .rangeLock then s.event (coreOfHome p.home) a.ctx 0x17 1 a.system else s
    (s.dropPacket p.id).reply p (.failure a stop)
  | .faults c va => s.requestWaits p a c va
  | .performs dpas => f dpas s

/-- The new value of an atomic; none when ACAS writes nothing (R332). -/
def atomNew (k : AtomKind) (t : Fmt) (b c old : Nat) : Option Nat :=
  match k with
  | .op .exch => some b
  | .op .add => some (redBits .add t old b).1
  | .op .min => some (redBits .min t old b).1
  | .op .max => some (redBits .max t old b).1
  | .op .and => some (redBits .and t old b).1
  | .op .or => some (redBits .or t old b).1
  | .op .xor => some (redBits .xor t old b).1
  | .cas => if old = b then some c else none
  | .fadd => some (faddBits t .rne false old b).1

/-- The new value is computed from the old one, and carries its poison. -/
def AtomKind.usesOld : AtomKind → Bool
  | .op .exch | .cas => false
  | .op .add | .op .min | .op .max | .op .and | .op .or | .op .xor | .fadd => true

/-- An atomic at its execution point: one immediate write, read and write in one step. The old value and its poison. -/
def State.atomAt (s : State) (k : AtomKind) (t : Fmt) (b c : Nat) (line : Line) (key bytes : Nat) : Nat × Bool × State :=
  let old := Memory.getNat s.mem key bytes
  let poisoned := s.poisoned key bytes
  (old, poisoned,
    match atomNew k t b c old with
    | none => s
    | some v => s.store line key (bytesOfNat bytes v) 0 (poisoned && k.usesOld))

def globalLine (ctx va dpa : Nat) : Line := ⟨dpa / 64, va / 64, 0, ctx⟩

def execAtomicRequest (id : Nat) (s : State) : Host.Outcome State Fault Refusal :=
  .next (match s.packet? id with
  | none => s
  | some p =>
    match p.body with
    | .atomic a =>
      if !s.requestReady p then s
      else s.serveRequest p a fun dpas s =>
        match dpas, a.parts, a.kind with
        | [dpa], [q], some k =>
          let s := s.lineCost a.ctx p.launch dpa a.system
          let w := s.atomAt k a.fmt (if k == .cas then a.b else q.data) q.data (globalLine a.ctx q.va.toNat dpa) dpa a.bytes
          (w.2.2.dropPacket id).reply p (.atomicReply a (BitVec.ofNat 64 w.1) w.2.1)
        | _, _, _ => s
    | _ => s)

/-- A store by request: every element in order, as immediate writes. -/
def State.storeParts2 (s : State) (a : Access) : List (Part × Nat) → State
  | [] => s
  | (q, dpa) :: l =>
    (s.store (globalLine a.ctx q.va.toNat dpa) dpa (bytesOfNat a.bytes q.data) 0 (a.b == 1)).storeParts2 a l

/-- What a load by request reads of its elements, with the party's entries over memory where it overlays them. -/
def State.readPart (s : State) (home : Nat) (a : Access) (q : Part) (dpa : Nat) : List (Byte × Bool) :=
  if a.overlay then s.plainBytes (coreOfHome home) a.ctx a.party q.va.toNat dpa a.bytes
  else (List.range a.bytes).map fun i => (Memory.get s.mem (dpa + i), s.poison.contains (granule (dpa + i)))

/-- The result of a load by request. -/
def State.readResult (s : State) (home : Nat) (a : Access) (l : List (Part × Nat)) : Result :=
  let vals := l.map fun e => (e.1, s.readPart home a e.1 e.2)
  let writes := (vals.flatMap fun e => { a.dest with reg := e.1.reg }.writes (natOfBytes (e.2.map Prod.fst))) ++ a.zeros
  let poison := vals.foldl (fun m e => if e.2.any Prod.snd then m ||| { a.dest with reg := e.1.reg }.poison else m) 0
  { ref := a.dest.ref, writes, flag := a.dest.flag, poison, release := a.held, owed := true, cursor := a.cursor, sample := a.dest.sample }

def execReadRequest (id : Nat) (s : State) : Host.Outcome State Fault Refusal :=
  .next (match s.packet? id with
  | none => s
  | some p =>
    match p.body with
    | .read a =>
      if !s.requestReady p then s
      else s.serveRequest p a fun dpas s =>
        let l := a.parts.zip dpas
        let s := ((dpas.map fun d => d / 64).eraseDups).foldl (fun s n => s.lineCost a.ctx p.launch (64 * n) a.system) s
        let w := s.readResult p.home a (if a.write then [] else l)
        ((if a.write then s.storeParts2 a l else s).dropPacket id).reply p (.result w)
    | _ => s)

/-! ### ATOM, ACAS, ARED, AFADD -/

/-- The pairings of R302. -/
def scopeServes (scope : Scope) (space : Nat) : Bool :=
  match scope with
  | .lane => false
  | .core => space == 3 || space == 4
  | .cluster => space == 2
  | .die => space == 1
  | .device | .system => space == 0

/-- An atomic of one lane: how it is written. -/
structure AtomForm where
  kind : AtomKind
  ty : Fmt
  d : Nat
  silent : Bool
  bolt : BitVec 6
  sl : BitVec 3
  sx : Bool
  scope : Scope

/-- A near atomic performs when it issues; its result is on its way. -/
def State.atomNear (s : State) (r : Ref) (h : Hart) (f : AtomForm) (bolt : Bolt) (va b c : Nat) (dest : Dest) : State :=
  match s.locate r h bolt.space va bolt.width true f.sl f.sx with
  | (some (.bank line key), s) =>
    let w := (s.nearCost r h bolt.space).atomAt f.kind f.ty b c line key bolt.width
    let s := w.2.2.touch key
    (if f.silent then s else s.launchResult r s.cur.flag (dest.writes w.1) (if w.2.1 then dest.poison else 0)).goOn r
  | (_, s) => s

/-- A global atomic leaves as a request packet (R39). -/
def State.atomFar (s : State) (r : Ref) (h : Hart) (f : AtomForm) (va b c : Nat) (dest : Dest) : State :=
  match s.walk r h va true with
  | (none, s) => s
  | (some leaf, s) =>
    let flag := if f.silent then none else s.cur.flag
    let a : Access :=
      { dest := { dest with flag, sample := s.cur.sample }, ctx := s.ctxOf r
        parts := [⟨BitVec.ofNat 48 va, if f.kind == .cas then c else b, dest.reg⟩], bytes := f.ty.bits / 8, write := true, kind := some f.kind
        fmt := f.ty, b, party := 0, overlay := false, eord := s.ordOf r h ++ ovlOf h.pc, pc := h.pc, cycle := s.tsc.toNat, system := h.tstate.priv }
    let s := ((s.touchAll [va]).request r h leaf.home f.sl f.sx (.atomic a)).chargeRequest r h leaf.home
    (if f.silent then s else s.raiseFlag r).goOn r

def State.atomLane (s : State) (r : Ref) (h : Hart) (f : AtomForm) (ix b c : Src) : State :=
  let bolt := s.boltOf r h f.bolt
  let dest : Dest := { ref := r, reg := f.d, bytes := f.ty.bits / 8, signed := f.ty.isInt && f.ty.signed, silent := f.silent }
  if (bolt.space ≤ 4 && !scopeServes f.scope bolt.space) || bolt.width != f.ty.bits / 8 then s.raiseCause r .illegalModifier
  else
    match s.spot r bolt (h.index32 ix) .update with
    | .bad stop => s.raise r stop
    | .suppressed => (if f.silent then s else s.launchResult r s.cur.flag (dest.writes 0)).goOn r
    | .at va =>
      let vb := h.pattern b f.ty
      let vc := h.pattern c f.ty
      if bolt.space = 0 then s.atomFar r h f va vb vc dest else s.atomNear r h f bolt va vb vc dest

def execAtom (g : Guard) (op : AtomOp) (d : Reg) (bolt : BitVec 6) (ix b : Src) (t : Option Fmt) (sx : Bool) (sl : BitVec 3) (scope : Scope)
    (s : State) : Host.Outcome State Fault Refusal :=
  .next (sampled g 0xA0 (perLane g (outside fun r h s =>
    s.atomLane r h { kind := .op op, ty := t.getD .n32, d := d.toNat, silent := false, bolt, sl, sx, scope } ix b b)) s)

def execAcas (g : Guard) (d : Reg) (bolt : BitVec 6) (ix b c : Src) (t : Option Fmt) (sx : Bool) (sl : BitVec 3) (scope : Scope)
    (s : State) : Host.Outcome State Fault Refusal :=
  .next (sampled g 0xA1 (perLane g (outside fun r h s =>
    s.atomLane r h { kind := .cas, ty := t.getD .n32, d := d.toNat, silent := false, bolt, sl, sx, scope } ix b c)) s)

def execAred (g : Guard) (op : AtomOp) (bolt : BitVec 6) (ix b : Src) (t : Option Fmt) (sl : BitVec 3) (scope : Scope)
    (s : State) : Host.Outcome State Fault Refusal :=
  .next (sampled g 0xA2 (perLane g (outside fun r h s =>
    s.atomLane r h { kind := .op op, ty := t.getD .n32, d := 0, silent := true, bolt, sl, sx := false, scope } ix b b)) s)

def execAfadd (g : Guard) (d : Reg) (bolt : BitVec 6) (ix b : Src) (t : Option Fmt) (sx : Bool) (sl : BitVec 3) (scope : Scope)
    (s : State) : Host.Outcome State Fault Refusal :=
  .next (sampled g 0xA3 (perLane g (outside fun r h s =>
    s.atomLane r h { kind := .fadd, ty := t.getD .f32, d := d.toNat, silent := false, bolt, sl, sx, scope } ix b b)) s)

end Sys2Proof.Machine
end

