-- ==== Sys2Proof/Machine/Phase.lean ====
section
/-! DEFINITION. SPAWN (R325 to R328), phase boundaries and their drains (R292 to R296, R308, R329, R330), change notices (R354),
HINT and WAITPRED (R427, R428). -/

namespace Sys2Proof.Machine

/-! ### SPAWN -/

/-- The task of a SPAWN: x0 to x3 and nothing else live (R326, R441); `far` when its element lies in global memory. -/
def spawnNeedle (tid : Nat) (h : Hart) (target : Word) (b c : DWord) (va : Nat) (far : Bool) : Needle :=
  let w := fun (v : DWord) => v.setWidth 32
  { tid, pc := target, clause := target, pos := 0, launch := h.launch, ordinal := h.ordinal, spwn := true, live := 0xF
    regs := [(0, w b), (1, w c), (2, BitVec.ofNat 32 va), (3, BitVec.ofNat 32 (va / 2 ^ 32))]
    preds := 0, fpstat := 0, chain := [], fibres := [], sample := {}, late := [], debugStep := false, task := true, va := if far then some va else none }

/-- The core of a group's phase object (R420). -/
def State.coordinator (_ : State) (l : Launch) (level group : Nat) : Nat := l.coordinator level group

/-- The increments of a task leave for the objects of its issuer's groups (R328). -/
def State.sendIncrements (s : State) (r : Ref) (h : Hart) (sl : BitVec 3) (tid : Nat) : Nat × State :=
  match s.launch? h.launch with
  | none => (0, s)
  | some l =>
    let s := { s with launches := s.launches.set h.launch.toNat { l with live := l.live + 1 } }
    (l.phaseLevels.length, l.phaseLevels.foldl (fun s n =>
      let g := l.groupAt h.ordinal.toNat n
      s.send r.core (s.homeId (s.coordinator l n g)) l.ctx h.launch (s.slackClass r sl) false 0 48 (.increment h.launch n g { r with tid })) s)

/-- Queue a task; false when the queue is full. -/
def State.spawnTask (s : State) (r : Ref) (h : Hart) (home : Nat) (va : Nat) (far : Bool) (target : Word) (b c : DWord) (sl : BitVec 3) : Bool × State :=
  let ctx := s.ctxOf r
  if 256 ≤ (s.core r.core).spawnQ.length then (false, s.count r.core ctx 0x14 1)
  else
    let tid := s.next
    let (waits, s) := s.bump.sendIncrements r h sl tid
    let task : Task := { needle := spawnNeedle tid h target b c va far, issuer := r, home, ctx, slack := sl, va := BitVec.ofNat 48 va, waits }
    (true, (s.modCore r.core fun k => { k with spawnQ := k.spawnQ ++ [task] }).charge r.core ctx h.launch 12 1)

def execSpawn (g : Guard) (pd : BitVec 3) (bolt : BitVec 6) (ix b c : Src) (target : BitVec 16) (sl : BitVec 3) (s : State) :
    Host.Outcome State Fault Refusal :=
  .next (perLane g (outside fun r h s =>
    let pc := mkPc (ovlOf h.pc) target
    let q := s.boltOf r h bolt
    if s.target r.core (s.ctxOf r) pc != .ok then s.raiseCause r .badClause
    else
      match s.spot r q (h.index32 ix) .move with
      | .bad stop => s.raise r stop
      | .suppressed => (s.modHart r fun h => h.setPred pd false).goOn r
      | .at va =>
        let (home?, s) : Option Nat × State :=
          if q.space != 0 then (some (s.homeId r.core), s)
          else
            match s.walk r h va false with
            | (none, s) => (none, s)
            | (some leaf, s) => (some leaf.home, s)
        match home? with
        | none => s
        | some home =>
          let (ok, s) := s.spawnTask r h home va (q.space == 0) pc (h.src b) (h.src c) sl
          (s.modHart r fun h => h.setPred pd ok).goOn r) s)

/-- An increment is applied to its object, and its task waits for one fewer (R328). -/
def execSpawnIncrement (id : Nat) (s : State) : Host.Outcome State Fault Refusal :=
  .next (match s.packet? id with
  | none => s
  | some p =>
    match p.body with
    | .increment launch level group r =>
      let s := (s.dropPacket id).modPhase launch.toNat level group fun q => { q with live := q.live + 1 }
      let fewer := fun (t : Task) => if t.needle.tid = r.tid then { t with waits := t.waits - 1 } else t
      s.modCore r.core fun k => { k with spawnQ := k.spawnQ.map fewer }
    | _ => s)

/-! ### PHASE -/

/-- May the thread name the level (R287, R329)? -/
def State.phaseLevelOk (s : State) (h : Hart) (level : Nat) : Bool :=
  match s.launch? h.launch with
  | none => false
  | some l => l.phaseLevels.contains level

def execPhaseArv (g : Guard) (d : Reg) (level sl : BitVec 3) (s : State) : Host.Outcome State Fault Refusal :=
  .next (perLane g (outside fun r h s =>
    if !s.phaseLevelOk h level.toNat then s.raiseCause r .illegalModifier
    else
      let slack := s.slackClass r sl
      if h.doneClear then s.sendArrive r d.toNat level.toNat slack
      else s.setHart r { h with status := .settling (.arrive d.toNat level.toNat slack) }) s)

/-- Is an increment that the thread sent to the object earlier still on its way (R328)? -/
def State.incrementPending (s : State) (p : Packet) (tid level group : Nat) (launch : Word) : Bool :=
  s.packets.any fun q => decide (q.id < p.id) && (match q.body with
    | .increment la le gr r =>
      la == launch && le == level && gr == group
        && (s.core r.core).spawnQ.any fun t => t.needle.tid == r.tid && t.issuer.tid == tid
    | _ => false)

/-- May the arrival be counted now? -/
def State.arrivalReady (s : State) (p : Packet) : Bool :=
  match p.body with
  | .phaseArrive launch level group d _ => p.place == .arrived && !s.incrementPending p d.ref.tid level group launch
  | _ => false

/-- An arrival counts, and its reply carries the epoch that it found (R329). -/
def execPhaseArrival (id : Nat) (s : State) : Host.Outcome State Fault Refusal :=
  .next (match s.packet? id with
  | none => s
  | some p =>
    match p.body with
    | .phaseArrive launch level group d slack =>
      if !s.arrivalReady p then s
      else
        let epoch := ((s.phase? launch.toNat level group).map Phase.epoch).getD 0
        let w : Result := { ref := d.ref, writes := [(d.reg, epoch.setWidth 64)], flag := none, release := true }
        let s := (s.dropPacket id).modPhase launch.toNat level group fun q => { q with arrived := q.arrived + 1 }
        (s.reply p (.result w)).phaseTest launch.toNat level group slack
    | _ => s)

/-! ### Held entries (R296) -/

/-- The entries of parties that a core holds, in SEQ order: those of a context whose party is one of n from `first`. -/
def Baste.inParties (e : Baste) (ctx : Nat) (first : Word) (n : Nat) : Bool := e.ctx == ctx && decide ((e.party - first).toNat < n)

/-- The entry that is reported for parties: at the lowest home, the held one of the lowest SEQ. -/
def State.heldEntry (s : State) (ctx : Nat) (first : Word) (n : Nat) : Option Baste :=
  s.cores.findSome? fun e => (e.2.log ++ e.2.buffer).find? fun b => b.held && b.inParties ctx first n

def drainStop (e : Baste) : Stop := { cause := .phaseDrain, addr := some e.addr, write := true, space := 0, eord := some (e.ord ++ e.ovl) }

/-- The line of a phase object at its coordinator, and of a launch's state at the core of its lowest wave (R354, R420). The spec gives
their KIND and no LINE; the group number and the launch key stand for it (DESIGN CHOICE, log 63). -/
def phaseState (l : Launch) (key level group : Nat) : Line := ⟨phaseLine key level group + l.coordinator level group, group, 6, l.ctx⟩
def launchState (l : Launch) (key : Nat) : Line := ⟨launchLine key + l.coordinator 0 0, key, 7, l.ctx⟩

/-- PHASE.wait once the epoch has moved on (R330). -/
def State.phasePass (s : State) (r : Ref) (h : Hart) (slack : BitVec 12) : State :=
  let ctx := s.ctxOf r
  let party := s.partyOf h
  match s.heldEntry ctx party 1 with
  | none => (s.modHart r fun h => { h with phaseTrap := none }).goOn r
  | some e =>
    if h.phaseTrap = some h.pc then
      (s.modHart r fun h => { h with status := .drain }).startDrain r.core ctx h.launch.toNat party 1 (.heldBy r) slack
    else (s.modHart r fun h => { h with phaseTrap := some h.pc }).raise r (drainStop e)

def execPhaseWait (g : Guard) (a : Src) (level sl : BitVec 3) (s : State) : Host.Outcome State Fault Refusal :=
  .next (blockLanes g (fun r h s =>
    if h.tx.depth != 0 then (s.txAbort r .nonlocal 0, [])
    else
      match s.launch? h.launch with
      | none => (s.raiseCause r .illegalModifier, [])
      | some l =>
        if !l.phaseLevels.contains level.toNat then (s.raiseCause r .illegalModifier, [])
        else
          let key := h.launch.toNat
          let group := l.groupAt h.ordinal.toNat level.toNat
          let epoch := ((s.phase? key level.toNat group).map Phase.epoch).getD 0
          if epoch.toNat = h.word a then (s, [phaseState l key level.toNat group]) else (s.phasePass r h (s.slackClass r sl), [])) s)

/-! ### Drains (R292, R295, R296, R308) -/

/-- What a drain write meets at its home. -/
inductive DrainCheck where
  | writes (dpa : Nat)
  | fails
  | waits
deriving DecidableEq, Repr

def State.drainCheck (s : State) (core : Nat) (e : Baste) : DrainCheck :=
  let va := e.addr.toNat
  let n := 2 ^ e.esize.toNat
  if s.ranges.any fun g => g.core.isNone && g.ctx == e.ctx && decide (g.lo ≤ (va + n - 1) / 64) && decide (va / 64 ≤ g.hi) then .waits
  else
    match s.homeLeaf e.ctx va with
    | none => .fails
    | some leaf =>
      if leaf.home != s.homeId core then .fails
      else
        match s.homeCheck e.ctx va true leaf with
        | .ok dpa => .writes dpa
        | .fault _ => .fails
        | .moving => .waits

/-- Two entries of one party share a byte. -/
def Baste.shares (a b : Baste) : Bool :=
  a.ctx == b.ctx && a.party == b.party && decide (a.addr.toNat < b.addr.toNat + 2 ^ b.esize.toNat)
    && decide (b.addr.toNat < a.addr.toNat + 2 ^ a.esize.toNat)

/-- Which entries a drain takes up. -/
def Drain.takes (d : Drain) (e : Baste) : Bool :=
  e.inParties d.ctx d.firstParty d.parties && (match d.purpose with
    | .heldBy _ => e.held
    | .boundary _ _ _ | .completion _ => true)

def Baste.bytes (e : Baste) : List Byte := (List.range (2 ^ e.esize.toNat)).map fun i => e.byteAt (e.addr.toNat + i)

/-- Replace an entry, or take it out, by its SEQ. -/
def Core.setEntry (k : Core) (q : Word) (f : Baste → Option Baste) : Core :=
  let g := fun (l : List Baste) => l.filterMap fun e => if e.seq = q then f e else some e
  { k with log := g k.log, buffer := g k.buffer }

/-- One entry of a drain: written and gone, held, or left to wait. `failed` are the entries that this drain has failed. -/
def State.drainOne (s : State) (core key : Nat) (failed : List Baste) (e : Baste) : List Baste × State :=
  let hold := (failed ++ [e], s.modCore core fun k => k.setEntry e.seq fun e => some { e with held := true })
  if failed.any fun f => f.shares e then hold
  else
    match s.drainCheck core e with
    | .waits => (failed, s)
    | .fails => hold
    | .writes dpa =>
      let s := (s.modCore core fun k => k.setEntry e.seq fun _ => none).lineCost e.ctx (BitVec.ofNat 32 key) dpa
      (failed, s.store (globalLine e.ctx e.addr.toNat dpa) dpa e.bytes 0 e.poisoned)

/-- A home drains: every entry in ascending SEQ order, but for those that wait. -/
def State.drainCore (s : State) (core : Nat) (d : Drain) : State :=
  let k := s.core core
  (((k.log ++ k.buffer).filter d.takes).foldl (fun acc e => acc.2.drainOne core d.key acc.1 e) (([] : List Baste), s)).2

/-- An entry of the drain waits at the core for an engine command or a moving page. -/
def State.drainBlocked (s : State) (core : Nat) (d : Drain) : Bool :=
  let k := s.core core
  (k.log ++ k.buffer).any fun e => d.takes e && s.drainCheck core e == .waits

/-- Does a drain request do something at the core now? -/
def State.drainReady (s : State) (core : Nat) (d : Drain) : Bool :=
  d.cores.contains (core, false)
    && (let k := s.core core
        let es := (k.log ++ k.buffer).filter d.takes
        es.isEmpty || es.any (fun e => s.drainCheck core e != .waits && !e.held) || !s.drainBlocked core d)

def State.drain? (s : State) (id : Nat) : Option Drain := s.drains.find? fun d => d.id == id
/-- The packet that brings a drain's request to a core, or its acknowledgement back. -/
def State.drainPacket (s : State) (core : Nat) (id : Nat) (ack : Bool) : Option Packet :=
  s.packets.find? fun p => p.place == .arrived && (match p.body with
    | .drain n => !ack && n == id && p.home == s.homeId core
    | .drained n => ack && n == id && p.src == s.homeId core
    | _ => false)

def State.modDrain (s : State) (id : Nat) (f : Drain → Drain) : State :=
  { s with drains := s.drains.map fun d => if d.id = id then f d else d }

def execDrainRequest (core id : Nat) (s : State) : Host.Outcome State Fault Refusal :=
  .next (match s.drain? id with
  | none => s
  | some d =>
    match s.drainPacket core id false with
    | none => s
    | some p =>
      if !s.drainReady core d then s
      else
        let s := s.drainCore core d
        if s.drainBlocked core d then s
        else
          let s := s.modDrain id fun d => { d with cores := d.cores.map fun e => if e.1 = core then (core, true) else e }
          (s.dropPacket p.id).reply p (.drained id))

/-- The error record of a completion that held entries keep from its end (R295). -/
def State.postHeld (s : State) (key : Nat) (d : Drain) (e : Baste) : State :=
  s.postError 0x0F d.ctx (s.homeId 0) e.addr.toNat 0 (e.ord ++ e.ovl : Word).toNat (.heldDrain key) 1

/-- What follows when every core has acknowledged (R292, R295, R296, R329, R330). DESIGN CHOICE (log 71): the line of a phase object
changes for the wake table with the completion of a boundary alone, not with an arrival or a live count (R355). -/
def State.drainDone (s : State) (d : Drain) : State :=
  match d.purpose with
  | .boundary key level group =>
    let s := s.modPhase key level group fun p => { p with arrived := 0, epoch := p.epoch + 1, draining := false }
    (match s.launches.get? key with
      | some l => s.lineChanged (phaseState l key level group)
      | none => s)
  | .heldBy r =>
    (match s.whereIs r.tid with
      | none => s
      | some r =>
        match s.heldEntry d.ctx d.firstParty d.parties with
        | some e => (s.release r).raise r (drainStop e)
        | none => (s.modHart r fun h => { h with phaseTrap := none }).goPast r)
  | .completion key =>
    match s.launches.get? key, s.heldEntry d.ctx d.firstParty d.parties with
    | some l, some e => ({ s with launches := s.launches.set key { l with heldPosted := true } }).postHeld key d e
    | some l, none => { s with launches := s.launches.set key { l with drained := some true } }
    | none, _ => s

def execDrainAcknowledgement (core id : Nat) (s : State) : Host.Outcome State Fault Refusal :=
  .next (match s.drain? id with
  | none => s
  | some d =>
    match s.drainPacket core id true with
    | none => s
    | some p =>
      let s := s.dropPacket p.id
      if !d.cores.contains (core, true) then s
      else
      let d := { d with cores := d.cores.filter fun e => e.1 != core }
      if d.cores.isEmpty then ({ s with drains := s.drains.filter fun x => x.id != id }).drainDone d else s.modDrain id fun _ => d)

def execChangeNotice (id : Nat) (s : State) : Host.Outcome State Fault Refusal :=
  .next (match s.packet? id with
  | none => s
  | some p =>
    match p.body with
    | .notice l => (s.dropPacket id).lineNotice (coreOfHome p.home) l
    | _ => s)

/-! ### HINT and WAITPRED -/

def execHint (g : Guard) (s : State) : Host.Outcome State Fault Refusal :=
  .next (perLane g (fun r h s =>
    (match s.launch? h.launch with
      | none => s
      | some l => { s with launches := s.launches.set h.launch.toNat { l with hinted := true } }).goOn r) s)

/-- The predecessor that has not completed (R424, R428). -/
def State.runningPred (s : State) (h : Hart) : Option (Nat × Launch) :=
  (s.launch? h.launch).bind fun l => if l.predid = 0 then none else s.launches.find? fun e => e.2.ctx == l.ctx && e.2.lid == l.predid

def execWaitpred (g : Guard) (s : State) : Host.Outcome State Fault Refusal :=
  .next (blockLanes g (fun r h s =>
    if h.tx.depth != 0 then (s.txAbort r .nonlocal 0, [])
    else
      match s.runningPred h with
      | some (key, l) => (s, [launchState l key])
      | none => (s.goOn r, [])) s)

end Sys2Proof.Machine
end

