-- ==== Sys2Proof/Machine/Control.lean ====
section
/-! DEFINITION. The control block 0x00 (R209 to R246) and PAD (R82). -/

namespace Sys2Proof.Machine

def execNop (g : Guard) (s : State) : Host.Outcome State Fault Refusal := aluOp g id s

def execPad (_ : BitVec 16) (s : State) : Host.Outcome State Fault Refusal := .next (s.mapLanes fun h => h.advance s.cur)

/-! ### Branches, calls and returns -/

/-- The near form names an offset of the current overlay (R212). -/
def nearPc (h : Hart) (off : BitVec 16) : Word := mkPc (ovlOf h.pc) off

/-- The link: the header that follows the CALL (R214). -/
def linkOf (s : State) (d : Reg) : Option (Reg × DWord) := some (d, s.cur.nextPc.setWidth 64)

def execBra (g : Guard) (target : BitVec 16) (s : State) : Host.Outcome State Fault Refusal :=
  .next (perLane g (fun r h s => s.jump r (nearPc h target) none none) s)

def execBraFar (g : Guard) (target : BitVec 32) (s : State) : Host.Outcome State Fault Refusal :=
  .next (perLane g (fun r _ s => s.jump r target none none) s)

def execCall (g : Guard) (d : Reg) (target : BitVec 16) (s : State) : Host.Outcome State Fault Refusal :=
  .next (perLane g (fun r h s => s.jump r (nearPc h target) (linkOf s d) none) s)

def execCallFar (g : Guard) (d : Reg) (target : BitVec 32) (s : State) : Host.Outcome State Fault Refusal :=
  .next (perLane g (fun r _ s => s.jump r target (linkOf s d) none) s)

/-- The entry that an index chooses in jump table jt of the overlay in a slot, with the table's label; none when the table is
absent (R77, R78). DESIGN CHOICE (log 59): a directory or a table that reaches beyond the 64 KiB of the slot goes on in the slot
after it. -/
def State.tableEntry (s : State) (core slot : Nat) (jt : BitVec 6) (i : Nat) : Option (Word × Nat) :=
  let off := s.imemWord core slot (s.imemWord core slot 0x18 + 4 * jt.toNat)
  let head := s.imemWord core slot off
  let n := head / 2 ^ 16 % 2 ^ 12
  if off = 0 ∨ n = 0 then none
  else some (BitVec.ofNat 32 (s.imemWord core slot (off + 4 + 4 * (if i < n then i else 0))), head % 2 ^ 16)

/-- Does a PC name a clause header whose first instruction is PAD with the label? -/
def State.padAt (s : State) (core slot : Nat) (pc : Word) (label : Nat) : Bool :=
  s.headerAt core slot (offOf pc)
    && s.imemWord core slot (offOf pc + 4) == label * 2 ^ 10 + 0x01 * 4 + 7 * 2 ^ 28

/-- What an indirect transfer meets (R78). -/
inductive Indirect where
  | stop (e : Stop)
  | miss (pc : Word)
  | to (pc : Word)
deriving DecidableEq, Repr

/-- The table that the current overlay gives a number, the fallback for an index beyond it among its entries; the PAD that the
target begins with carries the table's label. -/
def State.indirectTo (s : State) (r : Ref) (h : Hart) (jt : BitVec 6) (i : Nat) : Indirect :=
  let ctx := s.ctxOf r
  match ((s.core r.core).overlay? ctx (ovlOf h.pc)).bind fun e => s.tableEntry r.core e.1 jt i with
  | none => .stop { cause := .controlIntegrity }
  | some (pc, label) =>
    if ovlOf pc = 0xFFFF then .stop { cause := .badClause }
    else
      match (s.core r.core).overlay? ctx (ovlOf pc) with
      | none => .miss pc
      | some (m, _) =>
        if s.padAt r.core m pc label then .to pc else .stop { cause := .controlIntegrity, addr := some (pc.setWidth 48) }

/-- Is a jump table there for a lane? -/
def State.jumpTableAt (s : State) (r : Ref) (h : Hart) (jt : BitVec 6) : Bool :=
  (((s.core r.core).overlay? (s.ctxOf r) (ovlOf h.pc)).bind fun e => s.tableEntry r.core e.1 jt 0).isSome

/-- An indirect transfer (R78, R215). -/
def State.indirect (s : State) (r : Ref) (h : Hart) (jt : BitVec 6) (i : Nat) (link : Option (Reg × DWord)) : State :=
  match s.indirectTo r h jt i with
  | .stop e => s.raise r e
  | .miss pc => s.overlayMiss r pc (.overlay (ovlOf pc))
  | .to pc => s.go r pc link none

def execBrx (g : Guard) (jt : BitVec 6) (ix : Src) (s : State) : Host.Outcome State Fault Refusal :=
  .next (perLane g (fun r h s => s.indirect r h jt (h.index ix) none) s)

def execCallx (g : Guard) (d : Reg) (jt : BitVec 6) (ix : Src) (s : State) : Host.Outcome State Fault Refusal :=
  .next (perLane g (fun r h s => s.indirect r h jt (h.index ix) (linkOf s d)) s)

def execRet (g : Guard) (a : Src) (s : State) : Host.Outcome State Fault Refusal :=
  .next (perLane g (fun r h s => s.jump r ((h.src a).setWidth 32) none none) s)

/-! ### Seams -/

/-- The fragments that have taking-part lanes in the issue, each with its lanes in ascending physical order. -/
def State.fragsOf (s : State) (ls : List (Nat × Hart)) : List (Nat × List (Nat × Hart)) :=
  let keys := (ls.map fun e => s.fragOf e.2).eraseDups
  keys.map fun k => (k, ls.filter fun e => s.fragOf e.2 == k)

/-- SEAM on one fragment (R220): E is the taking-part lanes; the parent is taken from the lowest logical lane. -/
def State.openSeam (s : State) (core w key : Nat) (n : BitVec 4) (e : List (Nat × Hart)) : State :=
  let s := match s.wave? core w with
    | some v => if ((v.frag key).seams.toList.getD n.toNat {}).opened then s.completeSeam core w key n true else s
    | none => s
  match (sortBy (fun x : Nat × Hart => s.laneOf x.2) e).head?.bind fun x => (s.wave? core w).bind fun v => v.lanes.get? x.1 with
  | none => s
  | some low =>
    let mask := e.foldl (fun (m : DWord) x => setBits m (s.laneOf x.2) 1 1) 0
    let set := fun (m : Seam) =>
      if low.scv then
        if low.scur = n then { m with mask, arr := 0, opened := true }
        else { mask, arr := 0, opened := true, parent := low.scur, hasp := true }
      else { m with mask, arr := 0, opened := true, hasp := false }
    let member := fun (l : Nat) (h : Hart) => if e.any fun x => x.1 == l then { h with scur := n, scv := true } else h
    s.modWave core w fun v => { v.setFrag key ((v.frag key).modSeam n set) with lanes := v.lanes.mapVals member }

def execSeam (g : Guard) (n : BitVec 4) (s : State) : Host.Outcome State Fault Refusal :=
  let s' := (s.fragsOf (s.active g)).foldl (fun s f => s.openSeam s.cur.core s.cur.member f.1 n f.2) s
  .next (s'.mapLanes fun h => h.advance s.cur)

/-- JOIN of one lane (R221): a member parks, anyone else passes. A stop that is pending lands at the parked lane before anything
else issues (R227, State.before). -/
def State.joinLane (s : State) (r : Ref) (h : Hart) (n : BitVec 4) : State :=
  match r.agent with
  | .bobbin _ => s.goOn r
  | .wave w _ =>
    let key := s.fragOf h
    let lane := s.laneOf h
    let m := ((s.wave? r.core w).map fun v => (v.frag key).seams.toList.getD n.toNat {}).getD {}
    if m.opened && m.mask.getLsbD lane then
      let s := s.modWave r.core w fun v => v.setFrag key ((v.frag key).modSeam n fun q => { q with arr := setBits q.arr lane 1 1 })
      s.modHart r fun h => { h with status := .atJoin n s.cur.nextPc }
    else s.goOn r

def execJoin (g : Guard) (n : BitVec 4) (s : State) : Host.Outcome State Fault Refusal :=
  let keys := (s.fragsOf (s.active g)).map Prod.fst
  let s' := perLane g (fun r h s => s.joinLane r h n) s
  .next (keys.foldl (fun s k => s.completeSeams s.cur.core s.cur.member k) s')

def execCut (g : Guard) (n : BitVec 4) (target : BitVec 16) (s : State) : Host.Outcome State Fault Refusal :=
  .next (perLane g (fun r h s => s.jump r (nearPc h target) none (some n)) s)

def execCutFar (g : Guard) (n : BitVec 4) (target : BitVec 32) (s : State) : Host.Outcome State Fault Refusal :=
  .next (perLane g (fun r _ s => s.jump r target none (some n)) s)

/-! ### WAIT, REP, EXIT, YIELD -/

def execWait (g : Guard) (mask : BitVec 12) (s : State) : Host.Outcome State Fault Refusal :=
  .next (perLane g (fun r h s => if h.maskClear mask then s.goOn r else s.hold r (.waitFlags mask)) s)

/-- REP begins its steps (R231): the lane stays at the REP with its count, and the ports issue its steps; with no step left it
goes past the body. The faults that the words show are raised before (R230). -/
def execRep (g : Guard) (byReg : Bool) (a : Src) (n : BitVec 16) (_ _ _ _ : BitVec 2) (s : State) : Host.Outcome State Fault Refusal :=
  .next (perLane g (fun r h s =>
    let count := if byReg then h.index a else n.toNat
    if 64 < count then s.raiseCause r .illegalModifier
    else if count ≤ h.repstep.toNat then s.modHart r fun h => Hart.past { h with repstep := 0, rep := none } s.cur
    else s.modHart r fun h => { h with rep := some count }) s)

def execExit (g : Guard) (s : State) : Host.Outcome State Fault Refusal :=
  .next (perLane g (fun r h s => if h.doneClear then s.endThread r else s.modHart r fun h => { h with status := .settling .exit }) s)

def execYield (g : Guard) (s : State) : Host.Outcome State Fault Refusal :=
  let clear := fun (c : Sched) => { c with promoted := none, readySince := none }
  let s' := s.mapLanes fun h => h.advance s.cur
  .next (if (s.active g).isEmpty then s'
    else if s.cur.bobbin then s'.modSlot s.cur.core s.cur.member fun q => { q with sched := clear q.sched }
    else s'.modWave s.cur.core s.cur.member fun v => { v with sched := clear v.sched })

/-! ### The shuttle (R242 to R246) -/

def Slot.shuttleHead (q : Slot) : DWord := q.entries.toList.getD q.head.toNat 0

/-- The line that DQGET sleeps on (R244). The spec gives its KIND and no LINE: 0 stands for it (DESIGN CHOICE, log 63). -/
def shuttle (core slot ctx : Nat) : Line := ⟨shuttleLine core slot, 0, 5, ctx⟩

def Slot.put (q : Slot) (v : DWord) : Slot :=
  { q with entries := q.entries.setIfInBounds ((q.head.toNat + q.count) % 64) v, count := q.count + 1 }

def Slot.pop (q : Slot) : Slot := { q with head := q.head + 1, count := q.count - 1 }

def execDqput (g : Guard) (pd : BitVec 3) (a : Src) (s : State) : Host.Outcome State Fault Refusal :=
  .next (perLane g (fun r h s =>
    let k := s.slotNo r
    match s.slot? r.core k with
    | none => s.goOn r
    | some q =>
      if q.count = 64 then (s.modHart r fun h => h.setPred pd false).goOn r
      else
        let s := s.modSlot r.core k fun q => q.put (h.src a)
        ((s.lineNotice r.core (shuttle r.core k q.ctx)).modHart r fun h => h.setPred pd true).goOn r) s)

/-- DQGET and DQGET.lo (R244): one pop for the whole issue; an empty shuttle puts the lanes to sleep. -/
def dqgetOp (g : Guard) (d : Reg) (lo : Bool) (s : State) : Host.Outcome State Fault Refusal :=
  let get := (s.active g).filter fun e => e.2.tx.depth == 0
  match get with
  | [] => .next (perLane g (outside fun _ _ s => s) s)
  | (l, h) :: _ =>
    let r := s.curRef l h
    let k := s.slotNo r
    match s.slot? r.core k with
    | none => .next s
    | some q =>
      if q.count = 0 then .next (blockLanes g (fun r h s =>
        if h.tx.depth = 0 then (s, [shuttle r.core k q.ctx]) else (s.txAbort r .nonlocal 0, [])) s)
      else
        let v := q.shuttleHead
        let s := s.modSlot r.core k Slot.pop
        .next (perLane g (outside fun r h s =>
          (s.setHart r (if lo then h.setReg d.toNat ((v.setWidth 32).setWidth 64) else h.setReg64 d.toNat v)).goOn r) s)

def execDqget (g : Guard) (d : Reg) (s : State) : Host.Outcome State Fault Refusal := dqgetOp g d false s
def execDqgetLo (g : Guard) (d : Reg) (s : State) : Host.Outcome State Fault Refusal := dqgetOp g d true s

/-- DQPEEK and DQPEEK.lo (R245). -/
def dqpeekOp (g : Guard) (d : Reg) (pb : BitVec 3) (lo : Bool) (s : State) : Host.Outcome State Fault Refusal :=
  .next (perLane g (fun r h s =>
    let q? := s.slotFor? r
    let full := (q?.map fun q => q.count != 0).getD false
    let v := if full then (q?.map Slot.shuttleHead).getD 0 else 0
    let h := (if lo then h.setReg d.toNat ((v.setWidth 32).setWidth 64) else h.setReg64 d.toNat v).setPred pb full
    (s.setHart r h).goOn r) s)

def execDqpeek (g : Guard) (d : Reg) (pb : BitVec 3) (s : State) : Host.Outcome State Fault Refusal := dqpeekOp g d pb false s
def execDqpeekLo (g : Guard) (d : Reg) (pb : BitVec 3) (s : State) : Host.Outcome State Fault Refusal := dqpeekOp g d pb true s

end Sys2Proof.Machine
end

