-- ==== Sys2Proof/Machine/Hoops.lean ====
section
/-! DEFINITION. Hoops: descriptors, claims and their publication (R357 to R362), and the six hoop instructions (R363 to R371). -/

namespace Sys2Proof.Machine

/-! ### Descriptors (R357, R358) -/

structure Hoop where
  base : Nat := 0
  esz : Nat := 0
  capl : Nat := 0
  valid : Bool := false
  head : BitVec 16 := 0
  tail : BitVec 16 := 0
  claim : BitVec 16 := 0
  allow : Nat := 0
  engref : Nat := 0
deriving DecidableEq, Repr

def Hoop.ofNat (v : Nat) : Hoop :=
  let v : BitVec 128 := BitVec.ofNat 128 v
  { base := field v 0 21, esz := field v 21 4, capl := field v 25 4, valid := v.getLsbD 29
    head := v.extractLsb' 32 16, tail := v.extractLsb' 48 16, claim := v.extractLsb' 64 16, allow := field v 80 13, engref := field v 96 6 }

def Hoop.toNat (h : Hoop) : Nat :=
  h.base % 2 ^ 21 + 2 ^ 21 * (h.esz % 16) + 2 ^ 25 * (h.capl % 16) + 2 ^ 29 * h.valid.toNat + 2 ^ 32 * h.head.toNat + 2 ^ 48 * h.tail.toNat
    + 2 ^ 64 * h.claim.toNat + 2 ^ 80 * (h.allow % 2 ^ 13) + 2 ^ 96 * (h.engref % 64)

/-- Capacity C and entry size E. -/
def Hoop.cap (h : Hoop) : Nat := 2 ^ h.capl
def Hoop.ent (h : Hoop) : Nat := 2 ^ h.esz

/-- Core-scratchpad offset of the entry with a count. -/
def Hoop.entry (h : Hoop) (k : BitVec 16) : Nat := h.base + k.toNat % h.cap * h.ent

/-- Entries available to consumers, and entries taken and not yet returned (R360). -/
def Hoop.ready (h : Hoop) : Nat := (h.tail - h.head).toNat
def Hoop.held (h : Hoop) : Nat := h.cap - h.allow - (h.claim - h.head).toNat

def hoopKey (core ctx n : Nat) : Nat := coreKey core ctx (16 * n)
def hoopLine (core ctx n : Nat) : Line := ⟨hoopKey core ctx n / 64, 16 * n / 64, 3, ctx⟩

def State.hoop (s : State) (core ctx n : Nat) : Hoop := Hoop.ofNat (Memory.getNat s.mem (hoopKey core ctx n) 16)

/-- The hoop unit writes a descriptor: attempts that have read its line abort, and the line has changed (R311, R346, R362). -/
def State.writeHoop (s : State) (core ctx n : Nat) (h : Hoop) : State :=
  let s := s.conflicts (hoopLine core ctx n).phys 0
  ({ s with mem := Memory.setBytes s.mem (hoopKey core ctx n) (bytesOfNat 16 h.toNat) }).lineChanged (hoopLine core ctx n)

/-- The hoop unit changes a descriptor, where the new one differs. -/
def State.setHoop (s : State) (core ctx n : Nat) (h : Hoop) : State := if s.hoop core ctx n = h then s else s.writeHoop core ctx n h

/-! ### Claims (R361) -/

/-- Take the leading filled claims of a hoop away: how many entries they publish, and what is left. -/
def publishClaims (ctx n : Nat) : List (Nat × Claim × Bool) → Nat × List (Nat × Claim × Bool)
  | [] => (0, [])
  | (c, q, filled) :: l =>
    if c = ctx && q.hoop = n then
      if filled then
        let r := publishClaims ctx n l
        (q.n + r.1, r.2)
      else (0, (c, q, filled) :: l)
    else
      let r := publishClaims ctx n l
      (r.1, (c, q, filled) :: r.2)

/-- TAIL advances past the filled claims that no unfilled one precedes. -/
def State.publish (s : State) (core ctx n : Nat) : State :=
  let (k, left) := publishClaims ctx n (s.core core).claims
  let h := s.hoop core ctx n
  (s.modCore core fun c => { c with claims := left }).setHoop core ctx n { h with tail := h.tail + BitVec.ofNat 16 k }

/-- Claim entries of a hoop: ALLOW falls, CLAIM rises, and the claim is recorded, filled or not. -/
def State.claimEntries (s : State) (core ctx n cnt : Nat) (filled : Bool) : Claim × State :=
  let h := s.hoop core ctx n
  let q : Claim := { hoop := n, first := h.claim, n := cnt }
  let h' := { h with allow := h.allow - cnt, claim := h.claim + BitVec.ofNat 16 cnt }
  let s := s.modCore core fun k => { k with claims := k.claims ++ [(ctx, q, filled)] }
  (q, if filled then s.setHoop core ctx n h' |>.publish core ctx n else s.setHoop core ctx n h')

/-- Mark the first record of a claim as filled. -/
def fillFirst (ctx : Nat) (q : Claim) : List (Nat × Claim × Bool) → List (Nat × Claim × Bool)
  | [] => []
  | e :: l => if e = (ctx, q, false) then (ctx, q, true) :: l else e :: fillFirst ctx q l

/-- An engine's claim is filled. -/
def State.fillClaim (s : State) (core ctx : Nat) (q : Claim) : State :=
  (s.modCore core fun k => { k with claims := fillFirst ctx q k.claims }).publish core ctx q.hoop

/-- Unfilled engine claims of a hoop. -/
def State.unfilled (s : State) (core ctx n : Nat) : Nat :=
  (s.core core).claims.countP fun e => e.1 == ctx && e.2.1.hoop == n && !e.2.2

/-! ### Writes of a run of near bytes -/

/-- Near bytes from an address on, line by line. -/
def State.storeNear (s : State) (core ctx space addr : Nat) (bytes : List Byte) (poisoned : Bool := false) : State :=
  (linePieces addr bytes).foldl (fun s e =>
    let key := nearKey core ctx 0 0 space e.1
    s.store ⟨key / 64, e.1 / 64, space, ctx⟩ key e.2 0 poisoned) s

/-- A range of core scratchpad meets a registered destination (R305). -/
def State.scoredRun (s : State) (core ctx off n : Nat) : Bool :=
  (List.range ((off % 64 + n + 63) / 64)).any fun i => s.scored (coreKey core ctx (off / 64 * 64 + 64 * i))

/-! ### The instructions -/

/-- Registers of a run by NW, and the bytes that it carries (R363, R364). -/
def runRegs (nw : BitVec 2) : Nat := 2 ^ nw.toNat
def Hart.runBytes (h : Hart) (nw : BitVec 2) : Nat := runRegs nw * (if h.isBobbin then 8 else 4)

/-- What a run of registers holds, little-endian. -/
def Hart.runData (h : Hart) (x : Src) (nw : BitVec 2) : List Byte :=
  let w := if h.isBobbin then 8 else 4
  match x with
  | .lit v => bytesOfNat (w * runRegs nw) v.toNat
  | .reg n => (List.range (runRegs nw)).flatMap fun j => bytesOfNat w (h.reg (n.toNat + j)).toNat

/-- The register writes of a run from the first bytes of an entry. -/
def runWrites (bobbin : Bool) (d : Nat) (nw : BitVec 2) (bytes : List Byte) : List (Nat × DWord) :=
  let w := if bobbin then 8 else 4
  (List.range (runRegs nw)).map fun j => (d + j, BitVec.ofNat 64 (natOfBytes ((bytes.drop (w * j)).take w)))

/-- The poison of a run read at a key. -/
def State.runPoison (s : State) (bobbin : Bool) (key d : Nat) (nw : BitVec 2) : DWord :=
  let w := if bobbin then 8 else 4
  (List.range (runRegs nw)).foldl (fun m j => if s.poisoned (key + w * j) w then m ||| BitVec.ofNat 64 (2 ^ (d + j)) else m) 0

/-- The checks of R365 of one lane; `bytes` is its data run. -/
def State.hoopChecks (s : State) (r : Ref) (n bytes : Nat) (needValid : Bool) : Bool :=
  let ctx := s.ctxOf r
  let h := s.hoop r.core ctx n
  s.cspb r.core ctx != 0 && (!needValid || h.valid) && decide (bytes ≤ h.ent || !needValid)

/-- A lane's act on a hoop, after the transaction test and the checks (R365). A poisoned word of the descriptor raises
ECC_UNCORRECTED (R470, R471). -/
def hoopLane (n : Nat) (nw : BitVec 2) (data needValid : Bool) (f : Ref → Hart → State → State × List Line) (r : Ref) (h : Hart) (s : State) :
    State × List Line :=
  if h.tx.depth != 0 then (s.txAbort r .nonlocal 0, [])
  else if s.cspb r.core (s.ctxOf r) != 0 && s.poisoned (hoopKey r.core (s.ctxOf r) n) 16 then
    (s.raise r (nearStop .eccUncorrected 3 (16 * n) false), [])
  else if !s.hoopChecks r n (if data then h.runBytes nw else 0) needValid then (s.raiseCause r .hoopFault, [])
  else f r h s

/-- The lane has acted on the hoop (R509) and goes on. -/
def State.hoopGo (s : State) (r : Ref) (h : Hart) : State := (s.charge r.core (s.ctxOf r) h.launch 7 1).goOn r

def execHpush (g : Guard) (nb : Bool) (pd : BitVec 3) (n : BitVec 5) (b : Src) (nw : BitVec 2) (s : State) : Host.Outcome State Fault Refusal :=
  .next (blockLanes g (hoopLane n.toNat nw true true fun r h s =>
    let ctx := s.ctxOf r
    let q := s.hoop r.core ctx n.toNat
    if q.allow = 0 then
      if nb then ((s.modHart r fun h => h.setPred pd false).hoopGo r h, []) else (s, [hoopLine r.core ctx n.toNat])
    else
      let off := q.entry q.claim
      if s.scoredRun r.core ctx off q.ent then (s.holdScored r h, [])
      else
        let s := s.storeNear r.core ctx 3 off (h.runData b nw)
        let s := (s.claimEntries r.core ctx n.toNat 1 true).2
        ((if nb then s.modHart r fun h => h.setPred pd true else s).hoopGo r h, [])) s)

/-- Take the entry at HEAD (R368): the register writes and their poison. -/
def State.takeEntry (s : State) (r : Ref) (h : Hart) (n d : Nat) (nw : BitVec 2) (ka at_ : Bool) : List (Nat × DWord) × DWord × State :=
  let ctx := s.ctxOf r
  let q := s.hoop r.core ctx n
  let off := q.entry q.head
  let key := coreKey r.core ctx off
  let q' := { q with head := q.head + 1, allow := if at_ || ka then q.allow else q.allow + 1 }
  if at_ then ([(d, BitVec.ofNat 64 off)], 0, s.setHoop r.core ctx n q')
  else
    (runWrites h.isBobbin d nw (Memory.getBytes s.mem key (h.runBytes nw)), s.runPoison h.isBobbin key d nw, s.setHoop r.core ctx n q')

def execHpop (g : Guard) (d : Reg) (n : BitVec 5) (nw : BitVec 2) (ka at_ : Bool) (s : State) : Host.Outcome State Fault Refusal :=
  .next (blockLanes g (hoopLane n.toNat nw (!at_) true fun r h s =>
    let ctx := s.ctxOf r
    let q := s.hoop r.core ctx n.toNat
    if q.ready = 0 then (s, [hoopLine r.core ctx n.toNat])
    else if !at_ && s.scoredRun r.core ctx (q.entry q.head) (h.runBytes nw) then (s.holdScored r h, [])
    else
      let (w, p, s) := s.takeEntry r h n.toNat d.toNat nw ka at_
      ((s.modHart r fun h => let h := w.foldl (fun (h : Hart) e => h.setReg e.1 e.2) h; { h with poison := h.poison ||| p }).hoopGo r h, [])) s)

/-- The zeros that a failed HTRY or HPEEK writes to its run (R368, R369). -/
def runZeros (bobbin : Bool) (d : Nat) (nw : BitVec 2) : List (Nat × DWord) := runWrites bobbin d nw []

def execHtry (g : Guard) (d : Reg) (pb : BitVec 3) (n : BitVec 5) (nw : BitVec 2) (ka at_ : Bool) (s : State) : Host.Outcome State Fault Refusal :=
  .next (blockLanes g (hoopLane n.toNat nw (!at_) true fun r h s =>
    let q := s.hoop r.core (s.ctxOf r) n.toNat
    if q.ready = 0 then
      (((s.launchResult r s.cur.flag (runZeros h.isBobbin d.toNat nw)).modHart r fun h => h.setPred pb false).hoopGo r h, [])
    else if !at_ && s.scoredRun r.core (s.ctxOf r) (q.entry q.head) (h.runBytes nw) then (s.holdScored r h, [])
    else
      let (w, p, s) := s.takeEntry r h n.toNat d.toNat nw ka at_
      (((s.launchResult r s.cur.flag w p).modHart r fun h => h.setPred pb true).hoopGo r h, [])) s)

def execHpeek (g : Guard) (d : Reg) (pb : BitVec 3) (n : BitVec 5) (k : BitVec 12) (nw : BitVec 2) (at_ : Bool) (s : State) :
    Host.Outcome State Fault Refusal :=
  .next (blockLanes g (hoopLane n.toNat nw (!at_) true fun r h s =>
    let ctx := s.ctxOf r
    let q := s.hoop r.core ctx n.toNat
    if q.ready ≤ k.toNat then
      (((s.launchResult r s.cur.flag (runZeros h.isBobbin d.toNat nw)).modHart r fun h => h.setPred pb false).hoopGo r h, [])
    else
      let off := q.entry (q.head + k.setWidth 16)
      if at_ then (((s.launchResult r s.cur.flag [(d.toNat, BitVec.ofNat 64 off)]).modHart r fun h => h.setPred pb true).hoopGo r h, [])
      else if s.scoredRun r.core ctx off (h.runBytes nw) then (s.holdScored r h, [])
      else
        let key := coreKey r.core ctx off
        let w := runWrites h.isBobbin d.toNat nw (Memory.getBytes s.mem key (h.runBytes nw))
        (((s.launchResult r s.cur.flag w (s.runPoison h.isBobbin key d.toNat nw)).modHart r fun h => h.setPred pb true).hoopGo r h, [])) s)

def execHallow (g : Guard) (n : BitVec 5) (b : Src) (s : State) : Host.Outcome State Fault Refusal :=
  .next (blockLanes g (hoopLane n.toNat 0 false true fun r h s =>
    let ctx := s.ctxOf r
    let q := s.hoop r.core ctx n.toNat
    if q.held < h.word b then (s.raiseCause r .hoopFault, [])
    else ((s.setHoop r.core ctx n.toNat { q with allow := q.allow + h.word b }).hoopGo r h, [])) s)

/-- HRESET of a layout (R371): no change while commands or claims are open; sleepers on the line wake, changed or not. -/
def State.resetHoop (s : State) (r : Ref) (h : Hart) (n : Nat) (new : Hoop) : State :=
  let ctx := s.ctxOf r
  let q := s.hoop r.core ctx n
  if q.engref != 0 || q.claim != q.tail then s.raiseCause r .hoopFault
  else (s.writeHoop r.core ctx n { new with head := 0, tail := 0, claim := 0, allow := new.cap, engref := 0 }).hoopGo r h

def execHreset (g : Guard) (n : BitVec 5) (s : State) : Host.Outcome State Fault Refusal :=
  .next (blockLanes g (hoopLane n.toNat 0 false true fun r h s => (s.resetHoop r h n.toNat (s.hoop r.core (s.ctxOf r) n.toNat), [])) s)

/-- A new layout that R371 refuses. -/
def Hoop.layoutBad (h : Hoop) (cspb : Nat) : Bool :=
  h.valid && (decide (h.esz < 4) || decide (12 < h.esz) || decide (12 < h.capl) || h.base % h.ent != 0 || decide (h.base < 0x200)
    || decide (cspb < h.base + h.cap * h.ent))

def execHresetDef (g : Guard) (n : BitVec 5) (b : Src) (s : State) : Host.Outcome State Fault Refusal :=
  .next (blockLanes g (hoopLane n.toNat 0 false false fun r h s =>
    let new := Hoop.ofNat (h.word b % 2 ^ 30)
    if new.layoutBad (s.cspb r.core (s.ctxOf r)) then (s.raiseCause r .hoopFault, []) else (s.resetHoop r h n.toNat new, [])) s)

end Sys2Proof.Machine
end

