-- ==== Sys2Proof/Machine/Tables.lean ====
section
/-! DEFINITION. Pattern records (R474 to R478), the descriptor tables in memory and the instructions that define and read them
(R473, R481 to R487, R489, R556), and acknowledgements. -/

namespace Sys2Proof.Machine

/-! ### Pattern records -/

structure Pattern where
  valid : Bool
  fmt : Nat
  p : Nat
  wide : Bool
  space : Nat
  rm : Nat
  sat : Bool
  seeden : Bool
  sck : Nat
  keyen : Bool
  key : Nat
  seed : Word
  base : Nat
  sbase : Nat
  sizes : List Nat
  strides : List Int
  clean : Bool
deriving DecidableEq, Repr

def Pattern.ofBits (v : BitVec 512) : Pattern :=
  { valid := v.getLsbD 0, fmt := field v 1 4, p := field v 5 4, wide := v.getLsbD 9, space := field v 10 3, rm := field v 13 3
    sat := v.getLsbD 16, seeden := v.getLsbD 17, sck := field v 18 2, keyen := v.getLsbD 20, key := field v 21 6
    seed := v.extractLsb' 32 32, base := field v 64 48, sbase := field v 128 48
    sizes := (List.range 4).map fun d => field v (192 + 32 * d) 32
    strides := (List.range 4).map fun d => intOf 32 true (field v (320 + 32 * d) 32)
    clean := field v 27 5 == 0 && field v 112 16 == 0 && field v 176 16 == 0 && field v 448 64 == 0 }

def Pattern.size (q : Pattern) (d : Nat) : Nat := q.sizes.getD d 0
def Pattern.stride (q : Pattern) (d : Nat) : Int := q.strides.getD d 0
def Pattern.bpp (q : Pattern) : Bool := q.fmt == 0xD
def Pattern.ty (q : Pattern) : Fmt := (Fmt.ofCode (BitVec.ofNat 4 q.fmt)).getD .n8
def Pattern.round (q : Pattern) : Round := (Round.ofCode (BitVec.ofNat 3 q.rm)).getD .rne

/-- Elements, rows, and the bytes of an element or, for BPP, of a plane. -/
def Pattern.count (q : Pattern) : Nat := q.size 0 * q.size 1 * q.size 2 * q.size 3
def Pattern.rows (q : Pattern) : Nat := q.size 1 * q.size 2 * q.size 3
def Pattern.unit (q : Pattern) : Nat := if q.bpp then 32 else q.ty.bits / 8

/-- Blocks of 256 elements in a row. -/
def Pattern.blocks (q : Pattern) : Nat := (q.size 0 + 255) / 256

/-- A byte offset is added to BASE modulo 2^48 (R373). -/
def Pattern.shifted (q : Pattern) (off : Nat) : Pattern := { q with base := (q.base + off) % 2 ^ 48 }

def addr48 (v : Int) : Nat := (v % 2 ^ 48).toNat

/-- Base of row ρ (R475). -/
def Pattern.rowBase (q : Pattern) (rho : Nat) : Int :=
  let i1 := rho % q.size 1
  let i2 := rho / q.size 1 % q.size 2
  let i3 := rho / q.size 1 / q.size 2
  q.base + i1 * q.stride 1 + i2 * q.stride 2 + i3 * q.stride 3

/-- The pieces of a row's storage: its elements, or the planes of its blocks in their order. -/
def Pattern.pieces (q : Pattern) : Nat := if q.bpp then q.blocks * q.p else q.size 0

/-- Address of piece i of row ρ (R122, R475). -/
def Pattern.addr (q : Pattern) (rho i : Nat) : Nat := addr48 (q.rowBase rho + if q.bpp then (32 * i : Int) else i * q.stride 0)

/-- Where every piece of the tile lies, in linear order. -/
def Pattern.addrs (q : Pattern) : List Nat := (List.range q.rows).flatMap fun rho => (List.range q.pieces).map fun i => q.addr rho i

/-- The lowest and highest byte of the tile, before any wrap. -/
def Pattern.bounds (q : Pattern) : Int × Int :=
  let dims := if q.bpp then [1, 2, 3] else [0, 1, 2, 3]
  let reach := fun (d : Nat) => ((q.size d : Int) - 1) * q.stride d
  let lo := dims.foldl (fun (a : Int) d => if reach d < 0 then a + reach d else a) 0
  let hi := dims.foldl (fun (a : Int) d => if 0 < reach d then a + reach d else a) 0
  (q.base + lo, q.base + hi + (if q.bpp then 32 * q.pieces else q.unit) - 1)

/-- Bytes of the tile in its own format. -/
def Pattern.bytes (q : Pattern) : Nat := q.rows * q.pieces * q.unit

/-- The tile's bytes cover whole lines (R468). -/
def Pattern.wholeLines (q : Pattern) : Bool :=
  let bytes := q.addrs.flatMap fun a => (List.range q.unit).map fun i => a + i
  bytes.all fun b => (List.range 64).all fun i => bytes.contains (b / 64 * 64 + i)

/-- R477. -/
def Pattern.ok (q : Pattern) : Bool :=
  q.clean && q.valid && decide (q.fmt ≤ 0xD) && (if q.bpp then decide (2 ≤ q.p ∧ q.p ≤ 8) else q.p == 0)
    && (!q.wide || q.fmt == 0xB || q.fmt == 0xC) && decide (q.space ≤ 3) && decide (q.rm ≤ 4)
    && q.sck != 3 && (q.sck == 0 || q.fmt == 1 || q.bpp)
    && q.sizes.all (1 ≤ ·) && decide (q.count < 2 ^ 32)
    && (if q.bpp then q.stride 0 == 0 && q.base % 32 == 0 && q.strides.all fun d => d % 32 == 0
        else q.base % q.unit == 0 && q.strides.all fun d => d % (q.unit : Int) == 0)
    && (!q.keyen || (q.space == 0 && q.base % 64 == 0 && q.wholeLines))

/-- Address of the scale byte of an element of row ρ (R476). -/
def Pattern.scaleAddr (q : Pattern) (rho i : Nat) : Nat :=
  if q.sck = 1 then q.sbase
  else if q.bpp then (q.sbase + rho * q.blocks + i / 256) % 2 ^ 48
  else (q.sbase + (rho * q.size 0 + i) / 256) % 2 ^ 48

/-! ### Tables in memory -/

def State.tableBase (m : KMap DWord) (ctx : Nat) : Nat := ((m.get? ctx).map fun v => field v 0 48).getD 0
def State.ptab (s : State) (ctx : Nat) : Nat := State.tableBase s.ptabs ctx
def State.btab (s : State) (ctx : Nat) : Nat := State.tableBase s.btabs ctx

/-- Home named in a report of a fault: the page's, or for HOME_MAP_MISS the origin (R458). -/
def State.faultHome (s : State) (ctx va origin : Nat) (c : Cause) : Nat :=
  if c = .homeMapMiss then origin else ((s.homeLeaf ctx va).map Leaf.home).getD origin

/-- Raise at a lane what stopped an access of the device for it: a fault, or a hold while the page moves. -/
def State.raiseMem (s : State) (r : Ref) (e : MemStop) (write : Bool) : State :=
  match e with
  | .fault c va => s.raise r (globalStop c va write (s.faultHome (s.ctxOf r) va (s.homeId r.core) c))
  | .moving => s.hold r (s.someMove (s.ctxOf r))

/-- Pages of one record as a lane meets them (R318): the walk, the range lock, the frame. -/
def State.recordAt (s : State) (r : Ref) (h : Hart) (va n : Nat) (write : Bool) : Option (Nat × Leaf) × State :=
  match s.walk r h va write with
  | (none, s) => (none, s)
  | (some leaf, s) =>
    match s.atHome r h leaf va n write with
    | (none, s) => (none, s)
    | (some dpa, s) => (some (dpa, leaf), s)

/-- A record of a table read from memory only; poison raises ECC_UNCORRECTED. -/
def State.recordRead (s : State) (r : Ref) (h : Hart) (va n : Nat) : Option (List Byte) × State :=
  match s.recordAt r h va n false with
  | (none, s) => (none, s)
  | (some (dpa, leaf), s) =>
    if s.poisoned dpa n then (none, s.raise r (globalStop .eccUncorrected va false leaf.home))
    else (some (Memory.getBytes s.mem dpa n), s.lineCost (s.ctxOf r) h.launch dpa h.tstate.priv)

/-- A pattern record as the core's pattern cache has it; a miss reads the table and fills the cache (R556). -/
def State.patternRead (s : State) (r : Ref) (h : Hart) (n : Nat) : Option (BitVec 512) × State :=
  let ctx := s.ctxOf r
  match (s.core r.core).patterns.find? fun e => e.1 == ctx && e.2.1 == n with
  | some e => (some e.2.2, s)
  | none =>
    match s.recordRead r h (s.ptab ctx + 64 * n) 64 with
    | (none, s) => (none, s)
    | (some bs, s) =>
      let rec_ := BitVec.ofNat 512 (natOfBytes bs)
      let pick := Config.choice s.free
      let fill := fun (l : List (Nat × Nat × BitVec 512)) => if l.length < 64 then l ++ [(ctx, n, rec_)] else l.eraseIdx (pick % 64) ++ [(ctx, n, rec_)]
      (some rec_, (s.modCore r.core fun k => { k with patterns := fill k.patterns }).spend)

/-! ### Acknowledgements (R43, R483) -/

/-- What the sender of an acknowledgement changes in its own copies. -/
def State.applyUpdate (s : State) (core : Nat) (u : Update) : State :=
  match u with
  | .none => s
  | .pattern ctx n => s.modCore core fun k => { k with patterns := k.patterns.filter fun e => !(e.1 == ctx && e.2.1 == n) }
  | .bolt ctx n rec_ =>
    match s.slotOf? core ctx with
    | none => s
    | some (k, _) => s.modSlot core k fun q => { q with bolts := q.bolts.setIfInBounds n rec_ }
  | .jump ctx ovl off bytes =>
    match (s.core core).overlay? ctx ovl with
    | none => s
    | some (k, _) => { s with mem := Memory.setBytes s.mem (imemKey core k off) bytes }
  | .family ctx n f => s.modDie (dieOf core) fun d => { d with families := d.families.set (ctx * 8 + n) f }
  | .tableDie ctx n d => s.modDie (dieOf core) fun q =>
    { q with tableDie := q.tableDie.set (ctx * 16 + n) d, tables := if dieOf core = d then q.tables else q.tables.erase (ctx * 16 + n) }

/-- Updates that a core, or the die for which it stands, has been asked for and that newer contents have overtaken change nothing:
their acknowledgements come all the same (R483, R487, R491). -/
def State.overtake (s : State) (core : Nat) (p : Update → Bool) : State :=
  { s with packets := s.packets.map fun q => match q.body with
      | .ack r u => if q.src == s.homeId core && p u then { q with body := .ack r .none } else q
      | _ => q }

/-- An update of a context's bolt window. -/
def Update.isBolt (u : Update) (c : Nat) : Bool :=
  match u with
  | .bolt ctx _ _ => ctx == c
  | _ => false

/-- An update of a word in the image of an overlay. -/
def Update.isJump (u : Update) (c : Nat) (o : BitVec 16) : Bool :=
  match u with
  | .jump ctx ovl _ _ => ctx == c && ovl == o
  | _ => false

/-- An update of the die that holds a table. -/
def Update.isTableDie (u : Update) (c n : Nat) : Bool :=
  match u with
  | .tableDie ctx rt _ => ctx == c && rt == n
  | _ => false

/-- Updates reach one sender in the order in which they were made. -/
def State.ackReady (s : State) (p : Packet) : Bool :=
  p.place == .arrived && !s.packets.any fun q => decide (q.id < p.id) && q.src == p.src && (match q.body, p.body with
    | .ack _ u, .ack _ v => u != .none && v != .none
    | _, _ => false)

def execAcknowledgementArrival (id : Nat) (s : State) : Host.Outcome State Fault Refusal :=
  .next (match s.packet? id with
  | none => s
  | some p =>
    match p.body with
    | .ack r u =>
      if !s.ackReady p then s
      else (((s.dropPacket id).applyUpdate (coreOfHome p.src) u).ackOne r).overdueStop p r
    | _ => s)

/-- The lane is held until each of the cores has made the update and acknowledged; with none it goes on. -/
def State.awaitUpdates (s : State) (r : Ref) (h : Hart) (cores : List Nat) (u : Update) : State :=
  if cores.isEmpty then s.goOn r
  else
    let s := s.modHart r fun h => { h with status := .acks cores.length }
    cores.foldl (fun s c => s.send c (s.homeId r.core) (s.ctxOf r) h.launch 0xFFF false 1 32 (.ack r u)) s

/-- Cores where the context holds a slot. -/
def State.coresOf (s : State) (ctx : Nat) : List Nat := (s.cores.filter fun e => (e.2.slotOf? ctx).isSome).map Prod.fst

/-! ### PATDEF, PATRD, BLDEF, BLRD -/

/-- An image of n bytes in a near memory, with the checks of R315 and R278 on all of it and alignment to n (R482). -/
def State.image (s : State) (r : Ref) (h : Hart) (bolt : BitVec 6) (a : Src) (n : Nat) : Option (List Byte) × State :=
  let b := s.boltOf r h bolt
  let stop := fun (c : Cause) (va : Nat) => (none, s.raise r { cause := c, addr := some (BitVec.ofNat 48 va), space := BitVec.ofNat 3 b.space })
  match s.spotN r b (h.index32 a) n .load with
  | .bad e => (none, s.raise r e)
  | .suppressed => (none, s.goOn r)
  | .at va =>
    if b.space = 0 then stop .bounds va
    else if va % n != 0 then stop .misaligned va
    else
      let key := r.key (s.ctxOf r) b.space va
      if s.scored key then (none, s.holdScored r h)
      else if s.poisoned key n then stop .eccUncorrected va
      else (some (Memory.getBytes s.mem key n), s.nearCost r h b.space)

/-- The record of one lane: an image, or the copy of another record of the table (R482). -/
def State.movedRecord (s : State) (r : Ref) (h : Hart) (a : Src) (table bytes : Nat) : Option (List Byte) × State :=
  if 1024 ≤ h.index a then (none, s.raiseCause r .bounds) else s.recordRead r h (table + bytes * h.index a) bytes

/-- Write a record to its table, and wait for every core that may hold a copy (R483). -/
def State.defineRecord (s : State) (r : Ref) (h : Hart) (va : Nat) (bytes : List Byte) (u : Update) : State :=
  match s.recordAt r h va bytes.length true with
  | (none, s) => s
  | (some (dpa, _), s) =>
    let ctx := s.ctxOf r
    let s := (s.lineCost ctx h.launch dpa h.tstate.priv).store (globalLine ctx va dpa) dpa bytes
    s.awaitUpdates r h (s.coresOf ctx) u

def execPatdef (g : Guard) (n : BitVec 10) (mv : Bool) (a : Src) (bolt : BitVec 6) (s : State) : Host.Outcome State Fault Refusal :=
  .next (perLane g (outside fun r h s =>
    let ctx := s.ctxOf r
    match (if mv then s.movedRecord r h a (s.ptab ctx) 64 else s.image r h bolt a 64) with
    | (none, s) => s
    | (some bs, s) => s.defineRecord r h (s.ptab ctx + 64 * n.toNat) bs (.pattern ctx n.toNat)) s)

/-- The record of BLDEF's run (R482). -/
def Hart.runRecord (h : Hart) (a : Src) : BitVec 128 :=
  match a with
  | .lit v => v.setWidth 128
  | .reg d =>
    if h.isBobbin then h.reg (d.toNat + 1) ++ h.reg d.toNat
    else BitVec.ofNat 128 (sumNat ((List.range 4).map fun j => (h.reg (d.toNat + j)).toNat % 2 ^ 32 * 2 ^ (32 * j)))

def execBldef (g : Guard) (n : BitVec 10) (mv : Bool) (a : Src) (s : State) : Host.Outcome State Fault Refusal :=
  .next (perLane g (outside fun r h s =>
    let ctx := s.ctxOf r
    match (if mv then s.movedRecord r h a (s.btab ctx) 16 else (some (bytesOfNat 16 (h.runRecord a).toNat), s)) with
    | (none, s) => s
    | (some bs, s) =>
      let rec_ := BitVec.ofNat 128 (natOfBytes bs)
      if (Bolt.ofBits rec_).malformed then s.raiseCause r .patternInvalid
      else s.defineRecord r h (s.btab ctx + 16 * n.toNat) bs (.bolt ctx n.toNat rec_)) s)

/-- A word of a table read at its home by request, once the page's checks have passed (R484). -/
def State.tableWord (s : State) (r : Ref) (h : Hart) (d : Reg) (va : Nat) : State :=
  let w := if h.isBobbin then 8 else 4
  match s.recordAt r h va w false with
  | (none, s) => s
  | (some (_, leaf), s) =>
    let q : Load := { d := d.toNat, bolt := Bolt.ofBits 0, ix := 0, ro := true }
    let a := { q.access s r h [some va] false with bytes := w }
    let s := (s.chargeRequest r h leaf.home).request r h leaf.home 0 false (.read { a with dest := { a.dest with bytes := w } })
    (match s.cur.flag with
      | none => s
      | some f => s.modHart r fun h => h.setDone f (h.doneCount f + 1)).goOn r

def execPatrd (g : Guard) (d : Reg) (n : BitVec 10) (w : BitVec 4) (s : State) : Host.Outcome State Fault Refusal :=
  .next (perLane g (outside fun r h s =>
    s.tableWord r h d (s.ptab (s.ctxOf r) + 64 * n.toNat + w.toNat * (if h.isBobbin then 8 else 4))) s)

def execBlrd (g : Guard) (d : Reg) (n : BitVec 10) (w : BitVec 2) (s : State) : Host.Outcome State Fault Refusal :=
  .next (perLane g (outside fun r h s =>
    s.tableWord r h d (s.btab (s.ctxOf r) + 16 * n.toNat + w.toNat * (if h.isBobbin then 8 else 4))) s)

/-! ### Overlay tables (R486) -/

/-- The entry of an overlay: image bytes and address; none when the table has it not. -/
def State.overlayEntry (s : State) (ctx ovt : Nat) (ovl : BitVec 16) : Except MemStop (Option (Nat × Nat)) :=
  match s.readVa ctx ovt 4 with
  | .error e => .error e
  | .ok head =>
    (List.range (Nat.min (natOfBytes head) 4096)).foldl (fun acc i =>
      match acc with
      | .ok none =>
        (match s.readVa ctx (ovt + 16 + 16 * i) 16 with
        | .error e => .error e
        | .ok bs =>
          let v : BitVec 128 := BitVec.ofNat 128 (natOfBytes bs)
          if field v 0 16 = ovl.toNat then .ok (some (field v 32 32, field v 64 48)) else .ok none)
      | r => r) (.ok none)

/-- Bytes of an image in memory as a number. -/
def State.imageNat (s : State) (ctx va n : Nat) : Except MemStop Nat := (s.readVa ctx va n).map natOfBytes

/-- The table jtN of an image in memory: its offset and entry count; none when it is absent (R77). -/
def State.imageTable (s : State) (ctx image jt : Nat) : Except MemStop (Option (Nat × Nat)) := do
  let jtd ← s.imageNat ctx (image + 0x18) 4
  let off ← s.imageNat ctx (image + jtd + 4 * jt) 4
  if off = 0 then return none
  let head ← s.imageNat ctx (image + off) 4
  let n := head / 2 ^ 16 % 2 ^ 12
  return (if n = 0 then none else some (off, n))

/-- Where JTDEF writes: offset in the image and bytes; a cause when it writes nothing (R487). -/
def jtPlace (off n i : Nat) (v : Nat) : Except Cause (Nat × List Byte) :=
  if i < n then .ok (off + 4 + 4 * i, bytesOfNat 4 v) else if i = 4095 then .ok (off, bytesOfNat 2 v) else .error .bounds

/-- The image of an overlay and its table jtN: image address, table offset, entries. -/
def State.jumpTable (s : State) (ctx ovt : Nat) (ovl : BitVec 16) (jt : Nat) : Except MemStop (Option (Nat × Nat × Nat)) := do
  match ← s.overlayEntry ctx ovt ovl with
  | none => return none
  | some (_, image) =>
    match ← s.imageTable ctx image jt with
    | none => return none
    | some (off, n) => return some (image, off, n)

def execJtdef (g : Guard) (jt : BitVec 6) (ovl : BitVec 16) (a b : Src) (s : State) : Host.Outcome State Fault Refusal :=
  .next (perLane g (outside fun r h s =>
    let ctx := s.ctxOf r
    match s.jumpTable ctx (s.ovtOf r h).toNat ovl jt.toNat with
    | .error e => s.raiseMem r e false
    | .ok none => s.raiseCause r .controlIntegrity
    | .ok (some (image, off, n)) =>
      match jtPlace off n (h.index a) (h.word b) with
      | .error c => s.raiseCause r c
      | .ok (at_, bytes) =>
        match s.recordAt r h (image + at_) bytes.length true with
        | (none, s) => s
        | (some (dpa, _), s) =>
          let s := (s.lineCost ctx h.launch dpa h.tstate.priv).store (globalLine ctx (image + at_) dpa) dpa bytes
          let holders := (s.cores.filter fun e => (e.2.overlay? ctx ovl).isSome).map Prod.fst
          s.awaitUpdates r h holders (.jump ctx ovl at_ bytes)) s)

/-! ### Hash families (R489) -/

/-- A family record; none when a field is out of range. -/
def Family.ofBits (v : DWord) : Option Family :=
  let d := field v 8 13
  if field v 1 7 != 0 || field v 21 11 != 0 || d = 0 || 4096 < d then none
  else some { kind := v.getLsbD 0, d, seed := v.extractLsb' 32 32 }

/-- The interfaces of the dies, each by the core that stands for it. -/
def dieCores : List Nat := [0, 64, 128, 192]

def execHfset (g : Guard) (hf : BitVec 3) (a b : Src) (s : State) : Host.Outcome State Fault Refusal :=
  .next (perLane g (outside fun r h s =>
    let v : DWord := if h.isBobbin then h.src a else BitVec.ofNat 64 (h.word a + 2 ^ 32 * h.word b)
    match Family.ofBits v with
    | none => s.raiseCause r .retrievalFault
    | some f => s.awaitUpdates r h dieCores (.family (s.ctxOf r) hf.toNat f)) s)

end Sys2Proof.Machine
end

