-- ==== Sys2Proof/Machine/Arrive.lean ====
section
/-! DEFINITION. Arrivals at a home: the store, the spill area, the spools and the waves that they form (R34 to R37, R137, R225,
R436, R437); launch entries (R421); and the tasks of SPAWN on their way (R326, R327). -/

namespace Sys2Proof.Machine

/-! ### The store and the spill area (R436) -/

/-- The spool that a PC is bound to. -/
def spoolOf (pc : Word) : Nat := Nat.xor (Nat.xor (field pc 2 5) (field pc 7 5)) (Nat.xor (field pc 16 5) (field pc 21 5))

/-- Entries of the store that a packet takes. -/
def entriesFor (bytes : Nat) : Nat := if bytes ≤ 288 then 1 else 2

/-- The entries of the store that arrivals hold. -/
def Core.usedEntries (k : Core) : List Nat := k.store.flatMap fun a => (List.range (entriesFor a.bytes)).map fun i => a.entry + i

/-- The lowest place for n adjacent entries among the 1,024 (DESIGN CHOICE of the place). -/
def Core.freeEntry (k : Core) (n : Nat) : Option Nat :=
  let used := k.usedEntries
  (List.range (1025 - n)).find? fun e => (List.range n).all fun i => !used.contains (e + i)

/-- Packets that the spill area holds. -/
def spillCap : Nat := 43690

def Core.spillRoom (k : Core) : Bool := !k.retired && decide (k.spill.length < spillCap)

/-- Where an arrival of a context goes: an entry of the store, the spill area (none), or nowhere. -/
def Core.placeFor (k : Core) (ctx bytes : Nat) : Option (Option Nat) :=
  match (if (k.slotOf? ctx).isSome then k.freeEntry (entriesFor bytes) else none) with
  | some e => some (some e)
  | none => if k.spillRoom then some none else none

/-- An arrival in its entry of the store. In hardware mode the load of an overlay that is missing begins, and it waits (R37). -/
def State.enterStore (s : State) (core : Nat) (a : Arrival) (entry : Nat) : State :=
  let missing := ((s.core core).overlay? a.ctx (ovlOf a.needle.pc)).isNone && !s.hostMode 1
  let ovt := ((s.launch? a.needle.launch).map Launch.ovt).getD 0
  let s' := s.modCore core fun k => { k with store := k.store ++ [{ a with entry, since := s.tsc.toNat, waits := missing }] }
  if missing then (s'.event core a.ctx 0x11 1).startLoad core a.ctx (ovlOf a.needle.pc) ovt else s'

/-- MIGI counts a needle once, where it is first placed (R503, R544). -/
def State.countPlaced (s : State) (core ctx : Nat) (n : Needle) : State := if n.task || n.placed then s else s.count core ctx 0x13 1

/-- A packet becomes an arrival, if there is room for it. -/
def State.arrive (s : State) (p : Packet) (n : Needle) : Option State :=
  let core := coreOfHome p.home
  let a : Arrival :=
    { id := p.id, needle := { n with placed := true }, ctx := p.ctx, slack := p.slack, ovd := p.ovd, sx := p.sx, bytes := p.bytes, since := s.tsc.toNat
      seq := s.next, src := p.src }
  match (s.core core).placeFor p.ctx p.bytes with
  | none => none
  | some place =>
    let s := ((s.dropPacket p.id).bump).countPlaced core p.ctx n
    some (match place with
      | some e => s.enterStore core a e
      | none => (s.modCore core fun k => { k with spill := k.spill ++ [a] }).event core p.ctx 0x0D 1)

/-- A needle that comes back with REHOME goes to its origin's spill area, and is sent again from there (R462). -/
def State.returned (s : State) (p : Packet) (n : Needle) : State :=
  let core := coreOfHome p.home
  let a : Arrival :=
    { id := p.id, needle := { n with placed := true }, ctx := p.ctx, slack := p.slack, ovd := p.ovd, sx := p.sx, bytes := p.bytes, since := s.tsc.toNat
      seq := s.next, src := p.src, resend := true }
  if (s.core core).spillRoom then
    (((s.dropPacket p.id).bump.countPlaced core p.ctx n).modCore core fun k => { k with spill := k.spill ++ [a] }).event core p.ctx 0x0D 1
  else s

def execNeedleArrival (id : Nat) (s : State) : Host.Outcome State Fault Refusal :=
  .next (match s.packet? id with
  | none => s
  | some p =>
    match p.body with
    | .needle n => if p.rehomed then s.returned p n else (s.arrive p n).getD s
    | _ => s)

/-- The spilled thread that moves next: least slack, then order of arrival, of a context that holds a slot. -/
def Core.nextSpilled (k : Core) : Option Arrival :=
  (sortBy (fun a : Arrival => a.slack.toNat * 2 ^ 64 + a.seq) (k.spill.filter fun a => !a.resend && (k.slotOf? a.ctx).isSome)).head?

def execSpillReturn (core : Nat) (s : State) : Host.Outcome State Fault Refusal :=
  .next (match (s.core core).nextSpilled with
  | none => s
  | some a =>
    match (s.core core).freeEntry (entriesFor a.bytes) with
    | none => s
    | some e => (s.modCore core fun k => { k with spill := k.spill.filter fun x => x.id != a.id }).enterStore core a e)

/-! ### Launch entries (R421) -/

/-- Is the entry of a launch in the cache of a core's die? -/
def State.entryCached (s : State) (core key : Nat) : Bool := (s.die (dieOf core)).launchCache.contains key

/-- An arrival of the die waits for the entry of the launch. -/
def State.entryWanted (s : State) (die key : Nat) : Bool :=
  !(s.die die).launchCache.contains key && (s.launches.get? key).isSome
    && s.cores.any fun e => dieOf e.1 == die && e.2.store.any fun a => a.needle.launch.toNat == key

/-- The core at whose router a die's fabric interface takes and gives packets of its own. -/
def dieCore (die : Nat) : Nat := die * 64 + 27

/-- A fetch of the entry for the die, or its reply, on its way. -/
def State.entryPacket (s : State) (die key : Nat) : Option Packet :=
  s.packets.find? fun p => p.body == Body.entryFetch die key || p.body == Body.entry die key

/-- May the fetch of an entry go on: its request leave, the dispatcher answer it, or the die take the reply? -/
def State.entryDue (s : State) (die key : Nat) : Bool :=
  match s.entryPacket die key with
  | none => s.entryWanted die key
  | some p => p.place == .arrived

/-- The fetch of a launch entry: its request leaves, the dispatcher answers it from the launch list, and the die keeps the entry.
DESIGN CHOICE (log 71): the dispatcher takes the request at core 0 of die 0 (R421), and the packet has no deadline (R442). -/
def execLaunchEntryFetch (die key : Nat) (s : State) : Host.Outcome State Fault Refusal :=
  .next (if !s.entryDue die key then s
    else
      match s.entryPacket die key with
      | none =>
        let ctx := ((s.launches.get? key).map Launch.ctx).getD 0
        s.send (dieCore die) (s.homeId 0) ctx (BitVec.ofNat 32 key) 0xFFF false 0 32 (.entryFetch die key)
      | some p =>
        let s := s.dropPacket p.id
        if p.body == Body.entryFetch die key then s.reply p (.entry die key)
        else if (s.launches.get? key).isNone || (s.die die).launchCache.contains key then s
        else (s.modDie die fun d => { d with launchCache := tagFill d.launchCache 256 key (Config.choice s.free) }).spend)

/-! ### Waves from spools (R35, R225) -/

/-- A needle that waits in its spool, since the page for which it has come moves away (R460). -/
def State.spoolHolds (s : State) (core : Nat) (a : Arrival) : Bool :=
  match a.needle.va with
  | none => false
  | some va => s.moves.any fun m => m.covers a.ctx va && !m.transferred && m.old == s.homeId core

/-- The threads of one launch at one spool that count. -/
def State.spoolThreads (s : State) (core spool key : Nat) : List Arrival :=
  if s.entryCached core key then
    (s.core core).store.filter fun a => spoolOf a.needle.pc == spool && a.needle.launch.toNat == key && !a.waits && !s.spoolHolds core a
  else []

/-- The core, the cluster or the die where a region lies (R17, R429). -/
def stagingUnit (space core : Nat) : Nat :=
  if space = 1 then dieOf core else if space = 2 then core / 16 * 4 + core / 2 % 4 else core

/-- Space of a region of a launch. -/
def Launch.regionSpace (l : Launch) (n : Nat) : Nat := field (l.regions.getD n 0) 48 3

/-- Everything that a launch stages for a core is staged (R429). -/
def State.stagedHere (s : State) (core key : Nat) : Bool :=
  match s.launches.get? key with
  | none => true
  | some l => s.stagings.all fun e => e.key != key || e.done || e.unit != stagingUnit (l.regionSpace e.region) core

/-- A context is resident on a core, and not being switched. -/
def State.settledIn (s : State) (core ctx : Nat) : Bool :=
  match s.slotOf? core ctx with
  | some (_, q) => q.switch == .none && !q.leaving
  | none => false

/-- A launch holds a core (R431). -/
def State.holds (s : State) (core key : Nat) : Bool := ((s.launches.get? key).map fun l => l.cores.contains core).getD true

/-- May a wave of a launch form: the launch holds the core and its regions are staged (R429), its context is resident and not being
switched, a wave slot is free? -/
def State.waveRoom (s : State) (core ctx key : Nat) : Bool :=
  !(s.core core).freeWaves.isEmpty && s.holds core key && s.stagedHere core key && s.settledIn core ctx

/-- The members of a fragment of an arrival wave: their logical lanes with their chains, lowest lane first. -/
def fragSeams (members : List (Nat × List (BitVec 4))) : Vector Seam 16 :=
  let ms := sortBy Prod.fst members
  Vector.ofFn fun (n : Fin 16) =>
    let n : BitVec 4 := BitVec.ofNat 4 n.val
    let mine := ms.filter fun e => e.2.contains n
    match mine with
    | [] => {}
    | low :: _ =>
      let next := (low.2.drop ((low.2.findIdx? (· == n)).getD 0 + 1)).head?
      { mask := mine.foldl (fun (m : DWord) e => setBits m e.1 1 1) 0, opened := true, parent := next.getD 0, hasp := next.isSome }

/-- The thread that an arrival becomes (R137, R326, R442): it stands at its safe point, or a task at its start. -/
def Needle.hart (n : Needle) (slack : BitVec 12) (late : List Stop) : Hart :=
  let h : Hart :=
    { tid := n.tid, regs := n.regs.foldl (fun (r : Regs) e => r.set e.1 (e.2.setWidth 64)) Regs.zeroX
      pc := n.pc, clause := n.clause, pos := n.pos, entered := true, preds := n.preds, fpstat := n.fpstat
      fi0 := (n.fibres.get? 0).getD {}, fi1 := (n.fibres.get? 1).getD {}, ordinal := n.ordinal, launch := n.launch, spwn := n.spwn
      scur := n.chain.headD 0, scv := !n.chain.isEmpty, repstep := n.repstep, arrivalOrd := n.ord, slack, sample := n.sample, debugStep := n.debugStep, late
      reached := true, arrived := true }
  { (if n.task then { h.startAt n.pc with arrived := true } else h) with poison := n.poison }

def Arrival.hart (a : Arrival) : Hart :=
  a.needle.hart a.slack (a.needle.late ++ if a.ovd && a.sx then [{ cause := .slackExhausted }] else [])

/-- A spool forms a wave of at most 64 threads, least slack first, on physical lanes 0 upward. -/
def State.formWave (s : State) (core spool key : Nat) : State :=
  let threads := (sortBy (fun a : Arrival => a.slack.toNat * 2 ^ 64 + a.seq) (s.spoolThreads core spool key)).take 64
  match threads, (s.core core).freeWaves.head? with
  | a :: _, some w =>
    let harts := threads.map Arrival.hart
    let chains := threads.map fun a => a.needle.chain
    let keys := (harts.map s.fragOf).eraseDups
    let frags : KMap Fragment := keys.foldl (fun m k =>
      let ms := ((harts.zip chains).filter fun e => s.fragOf e.1 == k).map fun e => (s.laneOf e.1, e.2)
      m.set k { seams := fragSeams ms }) []
    let wave : Wave := { ctx := a.ctx, launch := a.needle.launch, arrival := true, lanes := harts.mapIdx fun i h => (i, h), frags }
    let ids := threads.map Arrival.id
    let s := (s.clearSlices core w).modCore core fun k => { k with waves := k.waves.set w wave, store := k.store.filter fun x => !ids.contains x.id }
    s.traceLane ⟨core, .wave w 0, a.needle.tid⟩ a.hart 3 (threads.length - 1)
  | _, _ => s

/-- 256 cycles have passed since the oldest of the threads entered the store. -/
def State.timedOut (s : State) (l : List Arrival) : Bool := l.any fun a => decide (a.since + 256 ≤ s.tsc.toNat)

/-- Enough threads for a wave. -/
def State.spoolFull (s : State) (core spool key : Nat) : Bool :=
  let l := s.spoolThreads core spool key
  decide (64 ≤ l.length) && s.waveRoom core ((l.head?.map Arrival.ctx).getD 0) key

def State.spoolTimed (s : State) (core spool key : Nat) : Bool :=
  let l := s.spoolThreads core spool key
  s.timedOut l && s.waveRoom core ((l.head?.map Arrival.ctx).getD 0) key

/-- The threads of a launch that would form a wave at a spool if the core let them: they wait for a wave slot, or for the launch to
hold the core (R429, R431). -/
def State.spoolWaits (s : State) (core spool key : Nat) : List Arrival :=
  let l := s.spoolThreads core spool key
  if (decide (64 ≤ l.length) || s.timedOut l) && s.settledIn core ((l.head?.map Arrival.ctx).getD 0)
      && (!s.holds core key || (s.core core).freeWaves.isEmpty) then l
  else []

def execArrivalWaveFormation (core spool key : Nat) (s : State) : Host.Outcome State Fault Refusal :=
  .next (if s.spoolFull core spool key then s.formWave core spool key else s)

def execSpoolTimeout (core spool key : Nat) (s : State) : Host.Outcome State Fault Refusal :=
  .next (if s.spoolTimed core spool key then s.formWave core spool key else s)

/-! ### Tasks (R326, R327) -/

/-- The slack that a task leaves with: its class of the slot's slack table, or of the launch's where the slot is gone; a refused
task keeps what it has. -/
def State.taskSlack (s : State) (core : Nat) (t : Task) : BitVec 12 :=
  match t.left, s.slotOf? core t.ctx with
  | some v, _ => v
  | none, some (_, q) => q.slackTab.toList.getD t.slack.toNat 0
  | none, none => ((s.launch? t.needle.launch).bind fun l => l.slacks[t.slack.toNat]?).getD 0xFFF

def Task.sendable (t : Task) : Bool := t.waits == 0 && t.refused.isNone

def execSpawnTaskSend (core : Nat) (s : State) : Host.Outcome State Fault Refusal :=
  .next (match (s.core core).spawnQ with
  | [] => s
  | t :: rest =>
    if !t.sendable then s
    else
      let slack := s.taskSlack core t
      let s := s.modCore core fun k => { k with spawnQ := rest }
      let s' := s.send core t.home t.ctx t.needle.launch slack false 0 48 (.task t.needle t.issuer)
      -- a task that came back overdue has been counted
      if t.left.isSome then { s with packets := s'.packets, next := s'.next } else s')

/-- What the home says of a task by its element's page (R460, R462): false while the page moves. -/
inductive TaskCheck where
  | accept | waits | away
deriving DecidableEq, Repr

def State.taskCheck (s : State) (p : Packet) (n : Needle) : TaskCheck :=
  match n.va.bind fun va => (s.homeLeaf p.ctx va).map fun leaf => (va, leaf) with
  | none => .accept
  | some (va, leaf) =>
    if leaf.home != p.home then .away
    else if s.moves.any fun m => m.covers p.ctx va && (if m.transferred then m.new == p.home && ((m.forwarded.find? s.standing).map (· != p.id)).getD false
      else m.old == p.home)
    then .waits else .accept

/-- A task becomes an arrival, or is refused (R437). -/
def execTaskArrival (id : Nat) (s : State) : Host.Outcome State Fault Refusal :=
  .next (match s.packet? id with
  | none => s
  | some p =>
    match p.body with
    | .task n issuer =>
      if p.rehomed || s.taskCheck p n != .accept then s
      else
        match s.arrive p n with
        | some s => s.fenceCheck issuer.tid
        | none => ((s.event (coreOfHome p.home) p.ctx 0x0E 1).dropPacket id).reply p (.refusal n issuer)
    | _ => s)

/-- A refused task returns to the head of its queue. -/
def execTaskRefusal (id : Nat) (s : State) : Host.Outcome State Fault Refusal :=
  .next (match s.packet? id with
  | none => s
  | some p =>
    match p.body with
    | .refusal n issuer =>
      let t : Task :=
        { needle := n, issuer, home := p.src, ctx := p.ctx, slack := 0, va := BitVec.ofNat 48 (n.va.getD 0), waits := 0, refused := some s.net, left := some p.slack }
      (s.dropPacket id).modCore (coreOfHome p.home) fun k => { k with spawnQ := t :: k.spawnQ }
    | _ => s)

/-- Network time in the model's units (R8). -/
def netCycle : Nat := 27720

def State.resendDue (s : State) (core : Nat) : Bool :=
  match (s.core core).spawnQ with
  | t :: _ => (t.refused.map fun n => decide (n + 64 * netCycle ≤ s.net)).getD false
  | [] => false

def execTaskResendTimeout (core : Nat) (s : State) : Host.Outcome State Fault Refusal :=
  .next (if s.resendDue core then
      s.modCore core fun k => { k with spawnQ := match k.spawnQ with
        | t :: rest => { t with refused := none } :: rest
        | [] => [] }
    else s)

/-! ### What is due -/

/-- Pairs of spool and launch that have threads in a core's store. -/
def Core.spoolKeys (k : Core) : List (Nat × Nat) := (k.store.map fun a => (spoolOf a.needle.pc, a.needle.launch.toNat)).eraseDups

/-- A needle stands where its element is no longer at home. -/
def State.misplaced (s : State) (p : Packet) (n : Needle) : Bool :=
  match n.va.bind fun va => s.homeLeaf p.ctx va with
  | none => false
  | some leaf => leaf.home != p.home

def State.packetDue (s : State) (p : Packet) : List Instr :=
  if p.place != .arrived then []
  else
    match p.body with
    | .needle n =>
      let k := s.core (coreOfHome p.home)
      if p.rehomed then (if k.spillRoom then [.needleArrival p.id] else [])
      else if s.misplaced p n then []
      else if (k.placeFor p.ctx p.bytes).isSome then [.needleArrival p.id] else []
    | .task n _ => if p.rehomed then [] else (match s.taskCheck p n with
      | .accept => [.taskArrival p.id]
      | .away | .waits => [])
    | .refusal _ _ => [.taskRefusal p.id]
    | _ => []

def State.spoolDue (s : State) (core : Nat) : List Instr :=
  (s.core core).spoolKeys.flatMap fun (spool, key) =>
    if s.spoolFull core spool key then [.arrivalWaveFormation core spool key]
    else if s.spoolTimed core spool key then [.spoolTimeout core spool key]
    else if (s.entryPacket (dieOf core) key).isNone && s.entryWanted (dieOf core) key then [.launchEntryFetch (dieOf core) key]
    else []

def State.arriveDue (s : State) (core : Nat) : List Instr :=
  let k := s.core core
  (match k.nextSpilled with
    | some a => if (k.freeEntry (entriesFor a.bytes)).isSome then [.spillReturn core] else []
    | none => [])
  ++ s.spoolDue core
  ++ (match k.spawnQ with
    | t :: _ => if t.sendable then [.spawnTaskSend core] else if s.resendDue core then [.taskResendTimeout core] else []
    | [] => [])

end Sys2Proof.Machine
end

