-- ==== Sys2Proof/Machine/Barrier.lean ====
section
/-! DEFINITION. Barrier objects (R335 to R340) and transactions (R341 to R351). -/

namespace Sys2Proof.Machine

/-! ### Barrier objects -/

/-- A barrier object (R335); PENDB is 24-bit two's complement. -/
structure Barrier where
  expect : Nat
  arrived : Nat
  gen : Nat
  pendb : Int
  latched : Bool
deriving DecidableEq, Repr

def Barrier.ofNat (v : Nat) : Barrier :=
  { expect := v % 2 ^ 16, arrived := v / 2 ^ 16 % 2 ^ 16, gen := v / 2 ^ 32 % 2 ^ 16, pendb := intOf 24 true (v / 2 ^ 48), latched := v.testBit 72 }

def Barrier.toNat (b : Barrier) : Nat :=
  b.expect + 2 ^ 16 * b.arrived + 2 ^ 32 * b.gen + 2 ^ 48 * (b.pendb % 2 ^ 24).toNat + 2 ^ 72 * b.latched.toNat

/-- The completion test (R336). -/
def Barrier.test (b : Barrier) : Barrier :=
  if b.latched && b.arrived == b.expect && b.pendb == 0 then { expect := 0, arrived := 0, gen := (b.gen + 1) % 2 ^ 16, pendb := 0, latched := false }
  else b

/-- One arrival with count `cnt` (R338); none conflicts. -/
def Barrier.arrive (b : Barrier) (cnt : Nat) : Option Barrier :=
  if !b.latched then
    if cnt = 0 then none else some { b with expect := cnt, latched := true, arrived := (b.arrived + 1) % 2 ^ 16 }.test
  else if cnt != b.expect || decide (b.expect < b.arrived + 1) then none
  else some { b with arrived := b.arrived + 1 }.test

/-- BEXP adds n to the pending bytes (R339); none conflicts. -/
def Barrier.expectBytes (b : Barrier) (n : Int) : Option Barrier :=
  if b.pendb + n < -(2 ^ 23) || decide (2 ^ 23 - 1 < b.pendb + n) then none else some { b with pendb := b.pendb + n }.test

/-- An engine delivers n bytes (R339): the object, and whether the sum wrapped. -/
def Barrier.deliver (b : Barrier) (n : Nat) : Barrier × Bool :=
  let v := b.pendb - n
  ({ b with pendb := intOf 24 true (v % 2 ^ 24).toNat }.test, decide (v < -(2 ^ 23)))

/-- Read and write an object at its storage. -/
def State.barrierAt (s : State) (key : Nat) : Barrier := Barrier.ofNat (Memory.getNat s.mem key 16)
def State.setBarrier (s : State) (line : Line) (key : Nat) (b : Barrier) : State := s.store line key (bytesOfNat 16 b.toNat)

/-- The object that a lane names: none when the lane has been dealt with, or sits it out with 0 in its destination. -/
def State.object (s : State) (r : Ref) (h : Hart) (bolt : BitVec 6) (ix : Src) (need : Need) (suppressed : State → State) :
    Option (Line × Nat × Bolt × Nat) × State :=
  let b := s.boltOf r h bolt
  if b.esize != 4 || !(1 ≤ b.space && b.space ≤ 3) then (none, s.raiseCause r .illegalModifier)
  else
    match s.spot r b (h.index32 ix) need with
    | .bad stop => (none, s.raise r stop)
    | .suppressed => (none, suppressed s)
    | .at va =>
      match s.locate r h b.space va 16 need.write 0 false with
      | (some (.bank line key), s) =>
        if s.poisoned key 16 then
          (none, s.raise r { cause := .eccUncorrected, addr := some (BitVec.ofNat 48 va), write := need.write, space := BitVec.ofNat 3 b.space })
        else (some (line, key, b, va), s.nearCost r h b.space)
      | (_, s) => (none, s)

def conflictStop (b : Bolt) (va : Nat) : Stop :=
  { cause := .barrierConflict, addr := some (BitVec.ofNat 48 va), write := true, space := BitVec.ofNat 3 b.space }

def execBinit (g : Guard) (bolt : BitVec 6) (ix b : Src) (s : State) : Host.Outcome State Fault Refusal :=
  .next (perLane g (outside fun r h s =>
    match s.object r h bolt ix .update (fun s => s.goOn r) with
    | (none, s) => s
    | (some (line, key, _, _), s) =>
      let n := h.word b % 2 ^ 16
      (s.setBarrier line key { expect := n, arrived := 0, gen := (s.barrierAt key).gen, pendb := 0, latched := n != 0 }).goOn r) s)

def execBexp (g : Guard) (bolt : BitVec 6) (ix b : Src) (s : State) : Host.Outcome State Fault Refusal :=
  .next (perLane g (outside fun r h s =>
    match s.object r h bolt ix .update (fun s => s.goOn r) with
    | (none, s) => s
    | (some (line, key, q, va), s) =>
      match (s.barrierAt key).expectBytes (intOf 32 true (h.word b)) with
      | none => s.raise r (conflictStop q va)
      | some o => (s.setBarrier line key o).goOn r) s)

def execBwait (g : Guard) (bolt : BitVec 6) (ix b : Src) (s : State) : Host.Outcome State Fault Refusal :=
  .next (blockLanes g (fun r h s =>
    if h.tx.depth != 0 then (s.txAbort r .nonlocal 0, [])
    else
      match s.object r h bolt ix .move (fun s => s.goOn r) with
      | (none, s) => (s, [])
      | (some (line, key, _, _), s) =>
        if (s.barrierAt key).gen = h.word b % 2 ^ 16 then (s, [line]) else (s.goOn r, [])) s)

/-- What an arrival of the issue gave, by fragment and object. -/
structure Arrived where
  frag : Nat
  space : Nat
  va : Nat
  gen : Option Nat
deriving DecidableEq, Repr

/-- The arrival mark of a lane's fragment; the bobbin is a fragment of one (R240). -/
def State.markOf (s : State) (r : Ref) (h : Hart) : Mark :=
  match r.agent with
  | .bobbin _ => ((s.slotFor? r).map Slot.mark).getD {}
  | .wave w _ => ((s.wave? r.core w).map fun v => (v.frag (s.fragOf h)).mark).getD {}

def State.setMark (s : State) (r : Ref) (h : Hart) (mark : Mark) : State :=
  match r.agent with
  | .bobbin _ => s.modSlotFor r fun q => { q with mark }
  | .wave w _ => s.modWave r.core w fun v => v.setFrag (s.fragOf h) { v.frag (s.fragOf h) with mark }

/-- The arrival of a fragment, once for each object of the issue; a GEN that the mark carries is not counted again (R235). -/
def State.arriveOnce (s : State) (r : Ref) (h : Hart) (line : Line) (key : Nat) (b : Bolt) (va cnt : Nat) : Option Nat × State :=
  let o := s.barrierAt key
  let m := s.markOf r h
  if m.valid && m.addr.toNat == va && m.space.toNat == b.space && m.gen.toNat == o.gen then (some o.gen, s)
  else
    match o.arrive cnt with
    | none => (none, s)
    | some o' =>
      let mark : Mark := { addr := BitVec.ofNat 48 va, space := BitVec.ofNat 3 b.space, valid := true, gen := BitVec.ofNat 16 o.gen }
      (some o.gen, (s.setMark r h mark).setBarrier line key o')

/-- BARV of one lane, given what the lanes before it have done. -/
def State.barvLane (s : State) (r : Ref) (h : Hart) (d : Reg) (bolt : BitVec 6) (ix : Src) (thr : Bool) (cnt : Nat) (done : List Arrived) :
    List Arrived × State :=
  match s.object r h bolt ix .update (fun s => (s.modHart r fun h => h.setReg d.toNat 0).goOn r) with
  | (none, s) => (done, s)
  | (some (line, key, b, va), s) =>
    let finish := fun (g : Option Nat) (s : State) =>
      match g with
      | none => s.raise r (conflictStop b va)
      | some n => (s.modHart r fun h => h.setReg d.toNat (BitVec.ofNat 64 n)).goOn r
    if thr then
      let o := s.barrierAt key
      match o.arrive cnt with
      | none => (done, finish none s)
      | some o' => (done, finish (some o.gen) (s.setBarrier line key o'))
    else
      match done.find? fun a => a.frag == s.fragOf h && a.space == b.space && a.va == va with
      | some a => (done, finish a.gen s)
      | none =>
        let (n, s) := s.arriveOnce r h line key b va cnt
        (done ++ [⟨s.fragOf h, b.space, va, n⟩], finish n s)

def execBarv (g : Guard) (d : Reg) (bolt : BitVec 6) (ix b : Src) (thr : Bool) (s : State) : Host.Outcome State Fault Refusal :=
  let act := s.active g
  let lowest := fun (h : Hart) => ((act.find? fun e => s.fragOf e.2 == s.fragOf h).map Prod.snd).getD h
  .next ((s.lanes.foldl (fun (acc : List Arrived × State) (l, h0) =>
    let r := s.curRef l h0
    match acc.2.hart? r with
    | none => acc
    | some h =>
      if !h.stands h0 then acc
      else if !h.takes g then (acc.1, acc.2.setHart r (h.advance s.cur))
      else if h.tx.depth != 0 then (acc.1, acc.2.txAbort r .nonlocal 0)
      else acc.2.barvLane r h d bolt ix thr (if thr then h.word b % 2 ^ 16 else (lowest h0).word b % 2 ^ 16) acc.1) ([], s)).2)

/-! ### Transactions -/

def execTxopen (g : Guard) (target : BitVec 16) (s : State) : Host.Outcome State Fault Refusal :=
  .next (perLane g (fun r h s =>
    let pc := mkPc (ovlOf h.pc) target
    if h.tstate.trapped then s.raiseCause r .txNesting
    else if h.tx.depth = 0 then
      if s.target r.core (s.ctxOf r) pc != .ok then s.raiseCause r .badClause
      else
        let age : TxAge := h.tx.age.getD ⟨s.tsc.toNat, r.core, r.wslot, r.plane⟩
        (s.modHart r fun h => { h with tx := { h.tx with
          depth := 1, target := pc, alts := [], elses := 0, reads := [], writes := [], age := some age
          openPc := h.pc, openClause := h.clause, openPos := h.pos } }).goOn r
    else if h.tx.depth = 7 then s.txAbort r .nesting 0
    else (s.modHart r fun h => { h with tx := { h.tx with depth := h.tx.depth + 1 } }).goOn r) s)

/-- The write set of a commit: every line's other attempts abort, then every byte is written, then the lines have changed (R346,
R348). Poison of granules that are covered goes, poison that was buffered is written (R471). -/
def State.commitWrites (s : State) (own : Nat) (t : Tx) : State :=
  let lines := t.wlines
  let s := lines.foldl (fun s l => s.conflicts l.phys own) s
  let writes := t.writes.filter fun w => !inHoops w.key
  let mem := writes.foldl (fun m w => Memory.set m w.key w.byte) s.mem
  let grains := (writes.map fun w => granule w.key).eraseDups
  let last := fun (k : Nat) => (writes.filter fun w => w.key == k).getLast?
  let bad := grains.filter fun g => (List.range (granuleBytes g)).any fun i => ((last (g + i)).map TxWrite.poisoned).getD false
  let full := grains.filter fun g => !bad.contains g && (List.range (granuleBytes g)).all fun i => (last (g + i)).isSome
  let poison := (s.poison.filter fun g => !full.contains g) ++ bad.filter fun g => !s.poison.contains g
  lines.foldl (fun s l => s.lineChanged l) { s with mem, poison }

/-- What stands against a commit: a scoreboard or a page that moves, a range lock, a page that is no longer writable (R305, R306,
R318, R460). -/
inductive CommitCheck where
  | ok
  | held (h : Hold)
  | stop (stop : Stop)
deriving DecidableEq, Repr

def State.commitLine (s : State) (r : Ref) (t : Tx) (l : Line) : CommitCheck :=
  if l.kind != 0 then (if s.scored (l.phys * 64) then .held .scoreboard else .ok)
  else
    let va := 64 * l.line + (((t.writes.find? fun w => w.line.phys == l.phys).map fun w => w.key % 64).getD 0)
    if s.rangeLocked l.ctx (64 * l.line) 64 true then .stop (globalStop .rangeLock va true (s.homeId r.core))
    else
      match s.translate l.ctx va true with
      | .ok _ => .ok
      | .fault c => .stop (globalStop c va true (s.homeId r.core))
      | .moving => .held (s.someMove l.ctx)

def State.commitCheck (s : State) (r : Ref) (t : Tx) : CommitCheck :=
  t.wlines.foldl (fun v l => if v = .ok then s.commitLine r t l else v) .ok

def execTxseal (g : Guard) (s : State) : Host.Outcome State Fault Refusal :=
  .next (perLane g (fun r h s =>
    if h.tx.depth = 0 then s.raiseCause r .txNesting
    else if 1 < h.tx.depth then (s.modHart r fun h => { h with tx := { h.tx with depth := h.tx.depth - 1 } }).goOn r
    else
      match s.commitCheck r h.tx with
      | .held .scoreboard => s.holdScored r h
      | .held q => s.hold r q
      | .stop stop => (if stop.cause == .rangeLock then s.event r.core (s.ctxOf r) 0x17 1 h.tstate.priv else s).raise r stop
      | .ok =>
        let done : Tx := { h.tx with depth := 0, alts := [], elses := 0, reads := [], writes := [], age := none, cause := .none, code := 0 }
        let s := (s.modHart r fun h => { h with tx := done }).commitWrites h.tid h.tx
        let far := (h.tx.wlines.filter fun l => l.kind == 0).map fun l => l.phys
        (far.foldl (fun s p => s.lineCost (s.ctxOf r) h.launch (64 * p) h.tstate.priv) s).goOn r) s)

/-- The most recent alternative is taken (R349). -/
def Hart.alternative (h : Hart) (a : TxAlt) : Hart :=
  { h with tx := { h.tx with writes := h.tx.writes.take a.mark, depth := a.depth, alts := h.tx.alts.dropLast } }.enter a.pc

def execTxretry (g : Guard) (s : State) : Host.Outcome State Fault Refusal :=
  .next (blockLanes g (fun r h s =>
    if h.tx.depth = 0 then (s.raiseCause r .txNesting, [])
    else
      match h.tx.alts.getLast? with
      | some a => (s.setHart r (h.alternative a), [])
      | none =>
        if h.tx.reads.isEmpty then (s.txAbort r .woken 0, [])
        else (s.modHart r fun h => { h with tx := { h.tx with writes := [] } }, h.tx.reads)) s)

def execTxelse (g : Guard) (target : BitVec 16) (s : State) : Host.Outcome State Fault Refusal :=
  .next (perLane g (fun r h s =>
    let pc := mkPc (ovlOf h.pc) target
    if h.tx.depth = 0 then s.raiseCause r .txNesting
    else if s.target r.core (s.ctxOf r) pc != .ok then s.raiseCause r .badClause
    else if 7 ≤ h.tx.elses then s.txAbort r .nesting 0
    else (s.modHart r fun h => { h with tx := { h.tx with
      alts := h.tx.alts ++ [⟨pc, h.tx.writes.length, h.tx.depth⟩], elses := h.tx.elses + 1 } }).goOn r) s)

def execTxdrop (g : Guard) (code : BitVec 8) (s : State) : Host.Outcome State Fault Refusal :=
  .next (perLane g (fun r h s => if h.tx.depth = 0 then s.raiseCause r .txNesting else s.txAbort r .explicit code) s)

/-- The status word (R341). -/
def Tx.word (t : Tx) : Word :=
  BitVec.ofNat 32 (t.cause.code + 2 ^ 4 * t.depth + 2 ^ 7 * (t.depth != 0).toNat + 2 ^ 8 * t.code.toNat + 2 ^ 16 * t.reads.length
    + 2 ^ 23 * t.wlines.length)

def execTxstat (g : Guard) (d : Reg) (s : State) : Host.Outcome State Fault Refusal :=
  .next (perLane g (fun r h s => (s.launchResult r s.cur.flag [(d.toNat, h.tx.word.setWidth 64)]).goOn r) s)

end Sys2Proof.Machine
end

