-- ==== Sys2Proof/Machine/System.lean ====
section
/-! DEFINITION. Identity registers (R139), system registers (R249 to R256), TRAP, TRET, SLACK and HALT (R263 to R268). -/

namespace Sys2Proof.Machine

/-! ### Identity registers -/

/-- GRPn; a thread started by SPAWN reads its issuer's groups down to the party level (R139, R140, R419). -/
def Launch.grp (l : Launch) (h : Hart) (n : Nat) : Word :=
  let own := decide (n < l.nlev)
  let at_ := match l.party? with
    | some p => decide (n ≤ p)
    | none => false
  if own && (!h.spwn || at_) then BitVec.ofNat 32 (l.groupAt h.ordinal.toNat n) else 0xFFFFFFFF

/-- KIND of R139. -/
def Launch.kind (l : Launch) (h : Hart) : Word :=
  BitVec.ofNat 32 ((l.roving || h.spwn).toNat + 2 * h.spwn.toNat + 4 * (l.party?.getD 7) + 32 * (l.nlev - 1))

/-- The identity register that MOV.id reads (R139). -/
def State.identity (s : State) (r : Ref) (h : Hart) (i : Nat) : Word :=
  let l? := s.launch? h.launch
  match i with
  | 0 => BitVec.ofNat 32 (s.laneOf h)
  | 1 => BitVec.ofNat 32 (s.widthOf h)
  | 2 => s.partyOf h
  | 3 => BitVec.ofNat 32 (s.ctxOf r)
  | 4 => BitVec.ofNat 32 (s.homeId r.core)
  | 5 => BitVec.ofNat 32 r.plane
  | 6 => BitVec.ofNat 32 r.wslot
  | 7 => (l?.map fun l => l.kind h).getD 0
  | n => (l?.map fun l => l.grp h (n - 8)).getD 0xFFFFFFFF

def execMovId (g : Guard) (d : Reg) (i : BitVec 4) (s : State) : Host.Outcome State Fault Refusal :=
  .next (perLane g (fun r h s => (s.modHart r fun h' => h'.setReg d.toNat ((s.identity r h i.toNat).setWidth 64)).goOn r) s)

/-! ### The words of system registers -/

/-- A field of a word, as bits of it. -/
def bits (w : Word) (lo n : Nat) : Nat := field w lo n

/-- A word of a wider record. -/
def wordAt {n : Nat} (v : BitVec n) (i : Nat) : Word := v.extractLsb' (32 * i) 32
def setWordAt {n : Nat} (v : BitVec n) (i : Nat) (x : Word) : BitVec n := setBits v (32 * i) 32 x.toNat

def TState.word (t : TState) : Word :=
  BitVec.ofNat 32 (t.priv.toNat + 2 * t.trapped.toNat + 4 * t.svh.toNat + 8 * t.rst.toNat + 16 * t.epriv.toNat + 32 * t.flast.toNat
    + 64 * t.brun.toNat)

/-- TCW (R209). -/
def Hart.tcw (h : Hart) : Word := BitVec.ofNat 32 (h.scur.toNat + 16 * h.scv.toNat + 32 * h.repstep.toNat)

/-- Words of a seam record (R218). -/
def Seam.word (m : Seam) (i : Nat) : Word :=
  match i with
  | 0 | 1 => wordAt m.mask i
  | 2 | 3 => wordAt m.arr (i - 2)
  | _ => BitVec.ofNat 32 (m.parent.toNat + 16 * m.hasp.toNat + 32 * m.opened.toNat)

def Seam.setWord (m : Seam) (i : Nat) (w : Word) : Seam :=
  match i with
  | 0 | 1 => { m with mask := setWordAt m.mask i w }
  | 2 | 3 => { m with arr := setWordAt m.arr (i - 2) w }
  | _ => { m with parent := w.extractLsb' 0 4, hasp := w.getLsbD 4, opened := w.getLsbD 5 }

/-- Words of an arrival mark (R235). -/
def Mark.word (m : Mark) (i : Nat) : Word :=
  match i with
  | 0 => wordAt m.addr 0
  | 1 => BitVec.ofNat 32 (field m.addr 32 16 + 2 ^ 16 * m.space.toNat + 2 ^ 19 * m.valid.toNat)
  | _ => m.gen.setWidth 32

def Mark.setWord (m : Mark) (i : Nat) (w : Word) : Mark :=
  match i with
  | 0 => { m with addr := setWordAt m.addr 0 w }
  | 1 => { m with addr := setBits m.addr 32 16 (bits w 0 16), space := w.extractLsb' 16 3, valid := w.getLsbD 19 }
  | _ => { m with gen := w.extractLsb' 0 16 }

/-- Words of a knot (R247). -/
def Knot.word (k : Knot) (i : Nat) : Word :=
  match i with
  | 0 => BitVec.ofNat 32 (k.expect.toNat + 2 ^ 16 * k.signed.toNat)
  | 1 => BitVec.ofNat 32 k.armed.toNat
  | _ => wordAt k.template (i - 2)

def Knot.setWord (k : Knot) (i : Nat) (w : Word) : Knot :=
  match i with
  | 0 => { k with expect := w.extractLsb' 0 16, signed := w.extractLsb' 16 16 }
  | 1 => { k with armed := w.getLsbD 0 }
  | _ => { k with template := setWordAt k.template (i - 2) w }

/-! ### The registers by number (R250) -/

inductive Scope2 where
  | thread | fragment | slot | core
deriving DecidableEq, Repr

/-- A row of the table of R250: is an index legal, may user code read it, may user code write it, and its scope; `none` for a
number that is not there. Registers that bobbin code has not raise ILLEGAL_MODIFIER (R254). -/
structure SysReg where
  legal : Nat → Bool
  user : Bool
  scope : Scope2

def one (i : Nat) : Bool := i == 0

def sysReg? (bobbin : Bool) (n : Nat) : Option SysReg :=
  match n with
  | 0x00 => some ⟨one, true, .thread⟩
  | 0x01 => some ⟨one, true, .thread⟩
  | 0x02 | 0x03 | 0x04 | 0x06 | 0x07 | 0x08 | 0x0A => some ⟨one, false, .thread⟩
  | 0x05 | 0x09 => some ⟨fun i => i < 2, false, .thread⟩
  | 0x0B => if bobbin then none else some ⟨fun i => i < 7 && i != 3, false, .thread⟩
  | 0x0C => some ⟨fun i => i < 4, false, .thread⟩
  | 0x20 => if bobbin then none else some ⟨fun i => i < 128 && i % 8 < 5, false, .fragment⟩
  | 0x21 => if bobbin then none else some ⟨fun i => i < 3, false, .fragment⟩
  | 0x40 => some ⟨one, true, .slot⟩
  | 0x41 => some ⟨fun i => i < 3, false, .slot⟩
  | 0x42 | 0x45 | 0x46 | 0x47 | 0x49 | 0x4B => some ⟨one, false, .slot⟩
  | 0x43 => some ⟨fun i => i < 128, false, .slot⟩
  | 0x44 => some ⟨fun i => i < 128 && i % 8 < 6, false, .slot⟩
  | 0x48 => some ⟨fun i => i < 2, false, .slot⟩
  | 0x4A => some ⟨fun i => i < 16, false, .slot⟩
  | 0x60 => some ⟨one, true, .core⟩
  | 0x61 => some ⟨one, false, .core⟩
  | _ => none

/-- Thread-scope words; a bobbin's LIVE names w0 to w31 and its SVIDX is 0 (R254). -/
def Hart.sysWord (h : Hart) (n i : Nat) : Word :=
  match n with
  | 0x00 => h.fpstat.setWidth 32
  | 0x01 => h.tstate.word
  | 0x02 => h.trap.epc
  | 0x03 => h.trap.ecause
  | 0x04 => h.trap.eord
  | 0x05 => (h.trap.eaddr >>> (32 * i)).setWidth 32
  | 0x06 => h.trap.einfo
  | 0x07 => h.trap.eres
  | 0x08 => h.tcw
  | 0x09 => if h.isBobbin then (if i = 0 then 0xFFFFFFFF else 0) else wordAt h.trap.live i
  | 0x0A => if h.isBobbin then 0 else h.trap.svidx.setWidth 32
  | 0x0B => if i < 4 then h.fi0.word i else h.fi1.word (i - 4)
  | _ => h.trap.escr.toList.getD i 0

/-- A write of a thread-scope word; bits that are read-only or reserved keep their values. -/
def Hart.setSysWord (h : Hart) (n i : Nat) (w : Word) : Hart :=
  match n with
  | 0x00 => { h with fpstat := w.extractLsb' 0 5 }
  | 0x02 => { h with trap := { h.trap with epc := w } }
  | 0x03 => { h with trap := { h.trap with ecause := setBits h.trap.ecause 0 14 (bits w 0 14) } }
  | 0x04 => { h with trap := { h.trap with eord := w } }
  | 0x05 => { h with trap := { h.trap with
      eaddr := if i = 0 then setBits h.trap.eaddr 0 32 w.toNat else setBits h.trap.eaddr 32 16 (bits w 0 16) } }
  | 0x06 => { h with trap := { h.trap with einfo := setBits h.trap.einfo 0 18 (bits w 0 18) } }
  | 0x07 => { h with trap := { h.trap with eres := w } }
  | 0x08 => { h with scur := w.extractLsb' 0 4, scv := w.getLsbD 4, repstep := w.extractLsb' 5 7 }
  | 0x0B => if i < 4 then { h with fi0 := h.fi0.setWord i w } else { h with fi1 := h.fi1.setWord (i - 4) w }
  | 0x0C => { h with trap := { h.trap with escr := h.trap.escr.setIfInBounds i w } }
  | _ => h

/-- Context-slot words. -/
def Slot.sysWord (q : Slot) (n i : Nat) : Word :=
  match n with
  | 0x40 => BitVec.ofNat 32 q.ctx
  | 0x41 => if i = 0 then q.g0 else if i = 1 then q.g1 else q.gt
  | 0x42 => BitVec.ofNat 32 (q.head.toNat + 64 * q.count)
  | 0x43 => wordAt (q.entries.toList.getD (i / 2) 0) (i % 2)
  | 0x44 => (q.knots.toList.getD (i / 8) {}).word (i % 8)
  | 0x45 => q.tvec
  | 0x46 => q.svvec
  | 0x47 => q.rsvec
  | 0x48 => (q.svbase >>> (32 * i)).setWidth 32
  | 0x49 => q.svstride
  | 0x4A => wordAt (q.sbolt.toList.getD (i / 4) 0) (i % 4)
  | _ => q.qcount

def Slot.setSysWord (q : Slot) (n i : Nat) (w : Word) : Slot :=
  match n with
  | 0x41 =>
    let w : Word := if w = 0 then 0x9E3779B9 else w
    if i = 0 then { q with g0 := w } else if i = 1 then { q with g1 := w } else { q with gt := w }
  | 0x42 => { q with head := w.extractLsb' 0 6, count := Nat.min 64 (bits w 6 7) }
  | 0x43 => { q with entries := q.entries.setIfInBounds (i / 2) (setWordAt (q.entries.toList.getD (i / 2) 0) (i % 2) w) }
  | 0x44 => { q with knots := q.knots.setIfInBounds (i / 8) ((q.knots.toList.getD (i / 8) {}).setWord (i % 8) w) }
  | 0x45 => { q with tvec := w }
  | 0x46 => { q with svvec := w }
  | 0x47 => { q with rsvec := w }
  | 0x48 => { q with svbase := if i = 0 then setBits q.svbase 0 32 w.toNat else setBits q.svbase 32 16 (bits w 0 16) }
  | 0x49 => { q with svstride := w }
  | 0x4A => { q with sbolt := q.sbolt.setIfInBounds (i / 4) (setWordAt (q.sbolt.toList.getD (i / 4) 0) (i % 4) w) }
  | _ => q

def Fragment.sysWord (f : Fragment) (n i : Nat) : Word :=
  if n = 0x20 then (f.seams.toList.getD (i / 8) {}).word (i % 8) else f.mark.word i

def Fragment.setSysWord (f : Fragment) (n i : Nat) (w : Word) : Fragment :=
  if n = 0x20 then f.modSeam (BitVec.ofNat 4 (i / 8)) fun m => m.setWord (i % 8) w else { f with mark := f.mark.setWord i w }

/-- The word that a lane reads. -/
def State.sysRead (s : State) (r : Ref) (h : Hart) (scope : Scope2) (n i : Nat) : Word :=
  match scope with
  | .thread => h.sysWord n i
  | .fragment => match r.agent with
    | .wave w _ => ((s.wave? r.core w).map fun v => (v.frag (s.fragOf h)).sysWord n i).getD 0
    | .bobbin _ => 0
  | .slot => ((s.slotFor? r).map fun q => q.sysWord n i).getD 0
  | .core => if n = 0x60 then BitVec.ofNat 32 (s.homeId r.core) else (s.core r.core).quantum

/-- The shortest quantum: 20 µs (R252). -/
def quantumOf (w : Word) : Word := if w.toNat < 24000 then 24000 else w

def State.sysWrite (s : State) (r : Ref) (h : Hart) (scope : Scope2) (n i : Nat) (w : Word) : State :=
  match scope with
  | .thread => s.modHart r fun h => h.setSysWord n i w
  | .fragment => match r.agent with
    | .wave k _ => s.modWave r.core k fun v => v.setFrag (s.fragOf h) ((v.frag (s.fragOf h)).setSysWord n i w)
    | .bobbin _ => s
  | .slot => s.modSlotFor r fun q => q.setSysWord n i w
  | .core => if n = 0x61 then s.modCore r.core fun k => { k with quantum := quantumOf w } else s

/-- The checks of an access that come before the guard (R56, R86): the register's number and index, and the privilege of each
lane; what is left is carried out. -/
def sysAccess (num idx : BitVec 8) (x : Bool) (f : SysReg → State → State) (s : State) : Host.Outcome State Fault Refusal :=
  .next (match sysReg? s.cur.bobbin num.toNat with
    | none => s.raiseAll .illegalModifier
    | some q =>
      if !x && !q.legal idx.toNat then s.raiseAll .illegalModifier
      else f q (s.divert (fun _ h => !q.user && !h.tstate.priv) fun r s => s.raiseCause r .privilege))

/-- The index of a lane: fixed, or the whole of the index register. -/
def Hart.sysIndex (h : Hart) (idx : BitVec 8) (x : Bool) (a : Src) : Nat := if x then h.index a else idx.toNat

def execMovs (g : Guard) (d : Reg) (num idx : BitVec 8) (x : Bool) (a : Src) (s : State) : Host.Outcome State Fault Refusal :=
  sysAccess num idx x (fun q => perLane g (fun r h s =>
    let i := h.sysIndex idx x a
    if q.legal i then (s.modHart r fun h' => h'.setReg d.toNat ((s.sysRead r h q.scope num.toNat i).setWidth 64)).goOn r
    else s.raiseCause r .illegalModifier)) s

/-- Is a lane the one whose value is written (R265): itself at thread scope, the lowest of its fragment, or of the issue? The
lanes are those that write. -/
def supplies (s : State) (writers : List (Nat × Hart)) (scope : Scope2) (h : Hart) : Bool :=
  match scope with
  | .thread => true
  | .fragment => ((writers.find? fun e => s.fragOf e.2 == s.fragOf h).map fun e => e.2.tid) == some h.tid
  | .slot | .core => (writers.head?.map fun e => e.2.tid) == some h.tid

/-- MOVSW. DESIGN CHOICE (log 71): where one lane supplies the value for a fragment, slot or core, the word of its own index is the
one that is written; the indices of the other lanes are only checked (R265). -/
def execMovsw (g : Guard) (num idx : BitVec 8) (x : Bool) (a b : Src) (s : State) : Host.Outcome State Fault Refusal :=
  sysAccess num idx x (fun q s =>
    let writers := (s.active g).filter fun e => q.legal (e.2.sysIndex idx x b)
    perLane g (fun r h s' =>
      let i := h.sysIndex idx x b
      if !q.legal i then s'.raiseCause r .illegalModifier
      else if supplies s writers q.scope h then (s'.sysWrite r h q.scope num.toNat i (BitVec.ofNat 32 (h.word a))).goOn r
      else s'.goOn r) s) s

/-! ### TRAP, TRET, SLACK, HALT -/

/-- Where a lane goes on after the instruction of the issue: its PC and position, 0 for a clause header. -/
def State.afterIssue (s : State) : Word × Nat := (s.cur.nextPc, if s.cur.nextPos < s.cur.count then s.cur.nextPos else 0)

def execTrap (g : Guard) (code : BitVec 16) (s : State) : Host.Outcome State Fault Refusal :=
  .next (perLane g (fun r _ s => s.raise r { cause := .softwareTrap, addr := some (code.setWidth 48), after := some s.afterIssue }) s)

/-- The status word at the first TRET after a restore (R341). -/
def Hart.restoredTx (h : Hart) : Hart :=
  { h with tx := { h.tx with cause := if h.txStopped then .preempted else .none, code := 0 }, txStopped := false }

/-- The lane that TRET leaves: its trap state, and its place at position EPOS of the clause at ERES, or at the header after it.
A breakpoint there is tested again unless the trap was a pre-emption (R263, R523). -/
def Hart.resume (h : Hart) (c : Clause) : Hart :=
  let pos := field h.trap.ecause 8 3
  let h := { h with tstate := { h.tstate with priv := h.tstate.epriv, trapped := false, svh := false, rst := false, flast := false } }
  if pos = c.count then h.enter (mkPc (ovlOf h.trap.eres) (BitVec.ofNat 16 c.stop))
  else
    let off := (c.places.getD pos ⟨offOf h.trap.eres, 0, 4⟩).off
    { h with clause := h.trap.eres, pc := mkPc (ovlOf h.trap.eres) (BitVec.ofNat 16 off), pos, entered := true
             reached := field h.trap.ecause 0 8 != Cause.code .preempt, arrived := false, moved := false }

/-- TRET of one lane (R263, R275). -/
def State.tret (s : State) (r : Ref) (h : Hart) : State :=
  let eres := h.trap.eres
  if !h.tstate.priv || !h.tstate.trapped then s.raiseCause r .privilege
  else
    match s.target r.core (s.ctxOf r) eres with
    | .bad => s.raiseCause r .badClause
    | .miss => s.overlayMiss r eres (.overlay (ovlOf eres))
    | .ok =>
      match s.clauseOf r.core (s.ctxOf r) { h with clause := eres } with
      | none => s.overlayMiss r eres (.overlay (ovlOf eres))
      | some (_, c) =>
        let s' := s.traceLane r h 5 0
        if c.bad || decide (c.count < field h.trap.ecause 8 3) then s.raiseCause r .badClause
        else if !h.tstate.rst then s'.setHart r (h.resume c)
        else
          match r.agent with
          | .wave w _ => (s'.setHart r { h.restoredTx.resume c with status := .restored }).restoredCheck r.core w (s.fragOf h)
          | .bobbin k => (s'.setHart r (h.resume c)).startRestore r.core k

/-- TRET and HALT at user privilege raise PRIVILEGE for every lane, whatever its guard (R56, R249). -/
def atSystem (f : State → State) (s : State) : Host.Outcome State Fault Refusal :=
  .next (f (s.divert (fun _ h => !h.tstate.priv) fun r s => s.raiseCause r .privilege))

def execTret (g : Guard) (s : State) : Host.Outcome State Fault Refusal :=
  atSystem (perLane g fun r h s => s.tret r h) s

def execSlack (g : Guard) (d : Reg) (s : State) : Host.Outcome State Fault Refusal :=
  aluOp g (fun h => h.setReg d.toNat (h.slack.setWidth 64)) s

def execSlackCls (g : Guard) (sl : BitVec 3) (s : State) : Host.Outcome State Fault Refusal :=
  .next (perLane g (fun r _ s => (s.modHart r fun h => { h with slack := s.slackClass r sl }).goOn r) s)

def execSlackSet (g : Guard) (a : Src) (s : State) : Host.Outcome State Fault Refusal :=
  aluOp g (fun h => { h with slack := (h.src a).setWidth 12 }) s

def execHalt (g : Guard) (s : State) : Host.Outcome State Fault Refusal :=
  atSystem (perLane g fun r h s => if h.doneClear then s.haltNow r else s.modHart r fun h => { h with status := .settling .halt }) s

end Sys2Proof.Machine
end

