-- ==== Sys2Proof/Machine/Counters.lean ====
section
/-! DEFINITION. The counter space (R503 to R514), samples (R515 to R517), trace control (R518) and the debugger (R522 to R524). -/

namespace Sys2Proof.Machine

/-! ### The words (R503) -/

/-- How a word is reached: core scope, may user code read it and write it, may system code write it; `hidden` words stop user
code on either access. -/
structure CtrWord where
  core : Bool
  userRead : Bool
  userWrite : Bool
  sysWrite : Bool

def ctrWord? (n : Nat) : Option CtrWord :=
  if n < 0x10 then some ⟨false, true, true, true⟩
  else if n < 0x20 then some ⟨false, true, false, true⟩
  else if n < 0x31 then some ⟨false, true, true, true⟩
  else if n = 0x31 then some ⟨false, true, false, true⟩
  else if n < 0x36 then some ⟨false, true, true, true⟩
  else if n = 0x36 then some ⟨false, true, false, true⟩
  else if 0x38 ≤ n && n < 0x40 then some ⟨false, true, false, true⟩
  else if n = 0x40 then some ⟨false, true, false, false⟩
  else if n = 0x41 then some ⟨false, true, false, true⟩
  else if n = 0x42 then some ⟨false, false, false, true⟩
  else if n = 0x50 then some ⟨true, true, false, false⟩
  else if n = 0x51 || n = 0x52 then some ⟨true, true, false, true⟩
  else if 0x80 ≤ n && n < 0xC0 then some ⟨true, true, false, true⟩
  else none

/-- DBGST (R524): PARKED, and OVL, ORD and CODE of the first parked lane. -/
def Slot.dbgst (q : Slot) : DWord :=
  match q.debugged with
  | [] => 0
  | e :: _ => e.2 ++ BitVec.ofNat 16 q.debugged.length

/-- A word of an energy table as four weights (R509). -/
def Core.ewtWord (k : Core) (n : Nat) : DWord :=
  BitVec.ofNat 64 (sumNat ((List.range 4).map fun i => k.weight ((n - 0x80) / 4) ((n - 0x80) % 4 * 4 + i) * 2 ^ (16 * i)))

/-- What a read of a word gives: the value from the start of the cycle, DBGST's with them (R513). -/
def State.ctrRead (s : State) (core k n : Nat) : DWord :=
  match n with
  | 0x42 => 0
  | 0x50 => s.tsc
  | 0x51 => (s.core core).euna
  | 0x52 => (s.core core).eccc
  | n => if 0x80 ≤ n then (s.core core).ewtWord n else ((s.slot? core k).map fun q => q.word n).getD 0

/-! ### Writes -/

/-- Control words of slot scope: they take effect for events of the next cycle (R513). -/
def isControl (n : Nat) : Bool := (0x20 ≤ n && n < 0x30) || n == 0x30 || (0x32 ≤ n && n < 0x36) || (0x38 ≤ n && n < 0x40) || n == 0x41

/-- A control word after a write: read-only and reserved bits keep their values. TBASE, TLIMIT and TPTR are multiples of 256 (R503,
R519); their low eight bits are ignored like reserved ones: DESIGN CHOICE (log 42). -/
def controlWritten (n : Nat) (old v : DWord) : DWord :=
  if n < 0x30 then BitVec.ofNat 64 (field v 0 12)
  else if n = 0x30 then BitVec.ofNat 64 (field v 0 22)
  else if n = 0x32 then setBits (setBits (setBits old 0 1 (field v 0 1)) 8 8 (field v 8 8)) 16 16 (field v 16 16)
  else if n < 0x36 then BitVec.ofNat 64 (256 * field v 8 40)
  else if n < 0x40 then BitVec.ofNat 64 (field v 0 2 + 2 ^ 16 * field v 16 32)
  else setBits old 0 1 (field v 0 1)

/-- TBASE, TLIMIT and TPTR take writes only while EN = 0 (R518). -/
def Slot.traceShut (q : Slot) (n : Nat) : Bool := decide (0x33 ≤ n) && decide (n ≤ 0x35) && (q.word 0x32).getLsbD 0

/-- A write that R507, R515 and R518 refuse. -/
def Slot.controlBad (q : Slot) (n : Nat) (v : DWord) : Bool :=
  if 0x20 ≤ n && n < 0x30 then field v 12 52 != 0 || decide (0x17 < field v 0 8)
  else if n = 0x30 then field v 22 42 != 0
  else q.traceShut n

/-- A frame opens at TPTR when tracing starts; with no room for it FULL is set (R518, R519). -/
def State.openFrame (s : State) (core k : Nat) : State :=
  s.modSlot core k fun q =>
    if q.trace.frame.isSome || !(q.word 0x32).getLsbD 0 then q
    else if field (q.word 0x34) 0 48 < field (q.word 0x35) 0 48 + 256 then q.setWord 0x32 (setBits (setBits (q.word 0x32) 0 1 0) 1 1 1)
    else { q with trace := { q.trace with frame := some [], firstTsc := s.tsc, lastTsc := s.tsc } }

/-- A control word takes its new value; TCTL.EN opens or closes the frame (R518). -/
def State.setControl (s : State) (core k n : Nat) (v : DWord) : State :=
  let write := fun (s : State) => s.modSlot core k fun q => q.setWord n (controlWritten n (q.word n) v)
  if n = 0x32 then
    if v.getLsbD 0 then (write s).openFrame core k else write ((s.flushTrace core k).closeFrame core k)
  else write s

/-- May energy weights be written (R536)? -/
def State.ewtWritable (s : State) : Bool := s.expert 5

/-! ### Debug commands (R524) -/

/-- The stop with which a lane is parked for the debugger. -/
def Hart.debugStop? (h : Hart) : Option Stop :=
  match h.status with
  | .debug stop => some stop
  | _ => none

/-- The lanes of a slot that are parked for the debugger. -/
def State.debugged (s : State) (core k : Nat) : List Ref :=
  match s.slot? core k with
  | none => []
  | some q =>
    let all : List Ref := s.threadsOf core q.ctx ++ [⟨core, .bobbin k, q.bobbin.tid⟩]
    all.filter fun r => ((s.hart? r).map fun (h : Hart) => h.debugStop?.isSome).getD false

/-- Every parked lane goes on at its resume position; `step` leaves it a stop at the next safe point that it reaches. -/
def State.debugRelease (s : State) (core k : Nat) (step : Bool) : State :=
  let s' := s.modSlot core k fun q => { q with sreq := false }
  (s.debugged core k).foldl (fun s r => (s.debugLeave r).modHart r fun h =>
    { h.afterStop (h.debugStop?.getD { cause := .debugStop }) with status := .running, debugStep := step }) s'

/-- Every parked lane traps with the stop that parked it, so that EPC is a BRKPT's own (R259). -/
def State.debugDeliver (s : State) (core k : Nat) : State :=
  (s.debugged core k).foldl (fun s r =>
    (s.debugLeave r).toHandler r (((s.hart? r).bind Hart.debugStop?).getD { cause := .debugStop })) s

def State.stopAll (s : State) (core k : Nat) : State := s.modSlot core k fun q => { q with sreq := true }

/-- A DBGCMD write by its code. -/
def State.debugCommand (s : State) (core k : Nat) (code : Nat) : State :=
  match code with
  | 1 => s.debugRelease core k false
  | 2 => s.debugDeliver core k
  | 3 => s.debugRelease core k true
  | 4 => s.stopAll core k
  | _ => s

/-- A host write of DBGCMD. -/
def State.hostCommand (s : State) (core k code : Nat) : State := if s.hostUp then s.debugCommand core k code else s

def execResume (core slot : Nat) (s : State) : Host.Outcome State Fault Refusal := .next (s.hostCommand core slot 1)
def execDeliver (core slot : Nat) (s : State) : Host.Outcome State Fault Refusal := .next (s.hostCommand core slot 2)
def execDebugStep (core slot : Nat) (s : State) : Host.Outcome State Fault Refusal := .next (s.hostCommand core slot 3)
def execStopall (core slot : Nat) (s : State) : Host.Outcome State Fault Refusal := .next (s.hostCommand core slot 4)

/-! ### CTRRD and CTRSET -/

/-- A write of a word: a debug command acts at once, every other value is in its word when the cycle ends (R513). -/
def State.ctrWrite (s : State) (core k n : Nat) (v : DWord) : State :=
  if n = 0x42 then s.debugCommand core k (field v 0 3)
  else if 0x50 ≤ n then s.modCore core fun c => { c with sets := c.sets.set n v }
  else s.modSlot core k fun q => { q with ctlPending := q.ctlPending.set n v }

/-- The value that a written word of a slot, no control word, takes (R503, R504). -/
def wordWritten (n : Nat) (v : DWord) : DWord := if n = 0x1F then BitVec.ofNat 64 (field v 0 16) else counterWritten v

/-- The counter words that the cycle's writes set; its events are added to them (R513). -/
def Slot.takeSets (q : Slot) : Slot :=
  { (q.ctlPending.filter fun e => !isControl e.1).foldl (fun q e => q.setWord e.1 (wordWritten e.1 e.2)) q with
    ctlPending := q.ctlPending.filter fun e => isControl e.1 }

/-- EUNA and ECCC as the cycle's writes set them. -/
def Core.takeSets (k : Core) : Core :=
  { k with euna := ((k.sets.get? 0x51).map counterWritten).getD k.euna, eccc := ((k.sets.get? 0x52).map counterWritten).getD k.eccc }

/-- Weights that the cycle's writes set stand from the next cycle on. -/
def Core.takeWeights (k : Core) : Core :=
  { k with ewt := (k.sets.filter fun e => decide (0x80 ≤ e.1)).foldl (fun (m : KMap DWord) e => m.set e.1 e.2) k.ewt, sets := [] }

/-- The cause that a CTRRD of word n raises at a privilege. -/
def ctrReadFault (n : Nat) (system : Bool) : Option Cause :=
  match ctrWord? n with
  | none => some .illegalModifier
  | some w => if n = 0x42 || w.userRead || system then (if n = 0x42 && !system then some .privilege else none) else some .privilege

/-- The cause that a CTRSET of word n raises at a privilege, for the value that it would write. -/
def State.ctrWriteFault (s : State) (core k n : Nat) (v : DWord) (system : Bool) : Option Cause :=
  match ctrWord? n with
  | none => some .illegalModifier
  | some w =>
    if !system && !w.userWrite then some .privilege
    else if 0x80 ≤ n && !s.ewtWritable then some .privilege
    else if ((s.slot? core k).map fun q => q.controlBad n v).getD false then some .illegalModifier
    else none

/-- The word that a lane names. -/
def Hart.ctrIndex (h : Hart) (n : BitVec 8) (x : Bool) (a : Src) : Nat := if x then h.index a else n.toNat

/-- Checks of a fixed number that come before the guard (R56, R86): is the word there, and may each lane reach it? -/
def ctrAccess (n : BitVec 8) (x : Bool) (denied : Nat → Bool → Bool) (f : State → State) (s : State) : Host.Outcome State Fault Refusal :=
  .next (if x then f s
    else if (ctrWord? n.toNat).isNone then s.raiseAll .illegalModifier
    else f (s.divert (fun _ h => denied n.toNat h.tstate.priv) fun r s => s.raiseCause r .privilege))

def execCtrrd (g : Guard) (d : Reg) (n : BitVec 8) (x : Bool) (a : Src) (s : State) : Host.Outcome State Fault Refusal :=
  ctrAccess n x (fun n system => ctrReadFault n system == some .privilege) (perLane g fun r h s =>
    let i := h.ctrIndex n x a
    match ctrReadFault i h.tstate.priv with
    | some c => s.raiseCause r c
    | none =>
      let v := s.ctrRead r.core (s.slotNo r) i
      let w := if h.isBobbin then [(d.toNat, v)] else [(d.toNat, (v.setWidth 32).setWidth 64), (d.toNat + 1, v >>> 32)]
      (s.launchResult r s.cur.flag w).goOn r) s

/-- Privilege faults of a CTRSET that rest on the word alone. -/
def State.ctrSetDenied (s : State) (n : Nat) (system : Bool) : Bool :=
  match ctrWord? n with
  | none => false
  | some w => (!system && !w.userWrite) || (decide (0x80 ≤ n) && !s.ewtWritable)

/-- The lowest lane that writes supplies the value (R265, R513); a word that is read-only to system code ignores it (R5). -/
def execCtrset (g : Guard) (n : BitVec 8) (x : Bool) (a b : Src) (s : State) : Host.Outcome State Fault Refusal :=
  ctrAccess n x s.ctrSetDenied (fun s =>
    let fault := fun (s : State) (r : Ref) (h : Hart) => s.ctrWriteFault r.core (s.slotNo r) (h.ctrIndex n x b) (h.src64 a) h.tstate.priv
    let writer := ((s.active g).find? fun e => (fault s (s.curRef e.1 e.2) e.2).isNone).map fun e => e.2.tid
    perLane g (fun r h s =>
      let i := h.ctrIndex n x b
      match fault s r h with
      | some c => s.raiseCause r c
      | none =>
        let writes := writer == some h.tid && ((ctrWord? i).map CtrWord.sysWrite).getD false
        (if writes then (s.goOn r).ctrWrite r.core (s.slotNo r) i (h.src64 a) else s.goOn r)) s) s

/-! ### SMPL and BRKPT -/

def execSmpl (g : Guard) (off : Bool) (tag : BitVec 16) (s : State) : Host.Outcome State Fault Refusal :=
  aluOp g (fun h => { h with sample := if off then {} else { armed := true, tag } }) s

/-- BRKPT (R523): with a debugger attached the lane parks there, to resume after the instruction; in a handler the stop stays pending (R261); in
an attempt it lands at the TXOPEN (R345). Else it is a trap to TVEC. -/
def execBrkpt (g : Guard) (code : BitVec 16) (s : State) : Host.Outcome State Fault Refusal :=
  .next (perLane g (fun r h s =>
    let attached := ((s.slotFor? r).map fun q => (q.word 0x41).getLsbD 0).getD false
    let stop : Stop := { cause := .debugStop, after := some s.afterIssue, code }
    if !attached then s.raise r { stop with served := true }
    else if h.tstate.trapped then (s.modHart r fun h => { h with debugDue := some code }).goOn r
    else if h.tx.depth != 0 then (s.txAbort r .preempted 0).stopAt r { stop with after := none }
    else s.stopAt r stop) s)

/-! ### Host writes -/

/-- A host write to a word of a slot that holds a context, or of a core. Reserved bits are ignored (R6); TBASE, TLIMIT and TPTR take
none while EN = 1 (R518), and the weights only under expert control (R536). -/
def State.hostWrite (s : State) (core k n : Nat) (v : DWord) : State :=
  match ctrWord? n with
  | none => s
  | some w =>
    let present := w.core || (s.slot? core k).isSome
    if !s.hostUp || !present || !w.sysWrite || ((s.slot? core k).map fun q => q.traceShut n).getD false || (decide (0x80 ≤ n) && !s.ewtWritable)
    then s
    else s.ctrWrite core k n v

def execCounterWrite (core slot n : Nat) (val : BitVec 64) (s : State) : Host.Outcome State Fault Refusal :=
  .next (if n = 0x32 || n = 0x42 then s else s.hostWrite core slot n val)

def execTraceEnable (core slot : Nat) (val : BitVec 64) (s : State) : Host.Outcome State Fault Refusal :=
  .next (if val.getLsbD 0 then s.hostWrite core slot 0x32 val else s)

def execTraceDisable (core slot : Nat) (val : BitVec 64) (s : State) : Host.Outcome State Fault Refusal :=
  .next (if val.getLsbD 0 then s else s.hostWrite core slot 0x32 val)

def execQuantumWrite (core : Nat) (val : BitVec 32) (s : State) : Host.Outcome State Fault Refusal :=
  .next (if s.hostUp && core < 256 then s.modCore core fun k => { k with quantum := quantumOf val } else s)

/-! ### Samples (R517) -/

/-- The 32 bytes of a record. LAST of a sample with no result out, REPL and the Q fields are values that the spec leaves to the
implementation's timing: free values. -/
def State.sampleBytes (s : State) (e : Sample) : List Byte :=
  let free := fun (i w : Nat) => field (Config.freeValue (s.free + i)) 0 w
  let last := if e.last < 64 then e.last else free 0 6
  bytesOfNat 8 e.lmask.toNat ++ bytesOfNat 2 e.ovl.toNat ++ bytesOfNat 2 e.ord.toNat ++ bytesOfNat 1 (Nat.min e.sectors 255)
    ++ bytesOfNat 1 (last + 64 * e.mig.toNat) ++ bytesOfNat 1 (free 1 8) ++ bytesOfNat 1 e.op ++ bytesOfNat 2 (free 2 16)
    ++ bytesOfNat 2 (free 3 16) ++ bytesOfNat 2 (free 4 16) ++ bytesOfNat 2 (free 5 16) ++ bytesOfNat 2 e.tag.toNat
    ++ bytesOfNat 6 (field e.time 0 48)

/-- The record enters the sample hoop, or is dropped. -/
def State.sampleEntry (s : State) (core k : Nat) (q : Slot) (e : Sample) : State :=
  let n := field (q.word 0x30) 1 5
  let h := s.hoop core q.ctx n
  let s' := { s with free := s.free + 6 }
  if !h.valid || decide (h.ent < 32) || h.allow == 0 || !(s.core core).allocs.any (fun a => a.1 == q.ctx && a.2.cspb != 0) then
    s.modSlot core k fun q => q.addPending 0x31 1
  else ((s'.storeNear core q.ctx 3 (h.entry h.claim) (s.sampleBytes e)).claimEntries core q.ctx n 1 true).2

def execSampleRecord (core slot id : Nat) (s : State) : Host.Outcome State Fault Refusal :=
  .next (match s.slot? core slot with
  | none => s
  | some q =>
    match q.samples.find? fun e => e.id == id && e.waits == 0 with
    | none => s
    | some e => (s.modSlot core slot fun q => { q with samples := q.samples.filter fun x => x.id != id }).sampleEntry core slot q e)

end Sys2Proof.Machine
end

