-- ==== Sys2Proof/Machine/Convert.lean ====
section
/-! DEFINITION. Conversions, stochastic rounding, quantisation, bit planes and alignment, 0x60 to 0x69 (R184 to R198). -/

namespace Sys2Proof.Machine

/-! ### One element -/

/-- What a conversion does to each of its elements: the formats, the plane count of a .bp format, rounding, and QNT's rule for
leaving an integer's range. -/
structure Conv where
  df : Fmt
  sf : Fmt
  planes : Nat := 0
  rm : Round := .rne
  sat : Bool := false
  ftz : Bool := false
  pk : Bool := false
  quant : Bool := false
  /-- the exact value is multiplied by 2^n, for a conversion that scales (R191, R192) -/
  scaled : Bool := false
deriving DecidableEq, Repr

/-- A source element's value (R99, R106, R192). -/
def Conv.value (c : Conv) (bits : Nat) : FVal :=
  if c.sf = .bp then intF (intOf c.planes true bits) 0
  else if c.sf.isInt then intF (intOf c.sf.bits c.sf.signed bits) 0
  else readF c.sf c.ftz bits

/-- The range of an integer destination. -/
def Conv.lo (c : Conv) : Int := if c.df = .bp then -(2 ^ (c.planes - 1)) else fmtLo c.df
def Conv.hi (c : Conv) : Int := if c.df = .bp then 2 ^ (c.planes - 1) - 1 else fmtHi c.df

/-- One element converted, of the exact value times 2^n, with the bits s of its random word: its pattern at the destination's
width and the flags (R186, R191, R192). -/
def Conv.element (c : Conv) (n : Int) (s : Nat) (bits : Nat) : Nat × FFlags :=
  let d : Rnd := { mode := c.rm, s, ftz := c.ftz, sat := c.sat }
  let v := scaleF (c.value bits) n
  if c.df.isFloat then deliverF c.df d v
  else if c.sf.isInt && c.df.isInt && !c.scaled then
    let i := intOf c.sf.bits c.sf.signed bits
    (((if c.sat then satInt i c.lo c.hi else i) % 2 ^ c.df.bits).toNat, 0)
  else
    let r := toIntF d c.quant c.lo c.hi v
    ((r.1 % 2 ^ c.df.bits).toNat, r.2)

/-! ### Elements of a lane -/

/-- Word i of a run that starts at a source (R169). -/
def Hart.runWord (h : Hart) (x : Src) (i : Nat) : Nat :=
  match x with
  | .reg r => (h.reg (r.toNat + i)).toNat % 2 ^ 32
  | .lit v => v.toNat / 2 ^ (32 * i) % 2 ^ 32

/-- The results that an issue delivers in each lane (R187). -/
def Conv.results (c : Conv) : Nat :=
  if c.pk then (if c.df.bits < c.sf.bits then 32 / c.df.bits else 32 / c.sf.bits) else 1

/-- Source element j of a lane (R186, R187): registers are read 32 bits at a time, in bobbin code too (R171). -/
def Conv.source (c : Conv) (h : Hart) (a : Src) (j : Nat) : Nat :=
  if c.pk then
    let per := 32 / c.sf.bits
    Sys2Proof.Machine.element c.sf.bits (h.runWord a (j / per)) (j % per)
  else if c.sf.bits = 64 then h.runWord a 0 + 2 ^ 32 * h.runWord a 1
  else h.runWord a 0

/-- Write the words of a run. -/
def Hart.setRun (h : Hart) (d : Nat) : List Nat → Hart
  | [] => h
  | v :: vs => (h.setWord d v).setRun (d + 1) vs

/-- Words of a run from its elements, each word from the lowest element up. -/
def wordsOf (bits : Nat) (l : List Nat) : List Nat :=
  let per := 32 / bits
  (List.range ((l.length + per - 1) / per)).map fun i => packed bits ((l.drop (i * per)).take per)

/-- Write the results of a lane (R99, R106, R187): 32 bits to a register, zero-extended in bobbin code, and a run of two at 64
bits (R171). -/
def Conv.write (c : Conv) (h : Hart) (d : Reg) (l : List Nat) : Hart :=
  if c.pk then h.setRun d.toNat (wordsOf c.df.bits l)
  else
    let v := l.headD 0
    if c.df.isFloat then h.setWord d.toNat v
    else
      let w := intBits (if c.df = .bp then .i8 else c.df) false v
      if c.df.bits = 64 then h.setRun d.toNat [w.toNat, w.toNat / 2 ^ 32] else h.setWord d.toNat w.toNat

/-- One lane of a conversion: `rnd e` is the random word of result e. -/
def Conv.lane (c : Conv) (d : Reg) (a : Src) (n : Int) (rnd : Nat → Word) (h : Hart) : Hart :=
  let rs := (List.range c.results).map fun j => c.element n (wordBits (rnd j)) (c.source h a j)
  let h' := c.write h d (rs.map Prod.fst)
  { h' with fpstat := rs.foldl (fun f r => f ||| r.2) h'.fpstat }

/-! ### Generators (R117, R118, R188 to R190) -/

/-- The slot of the issue. -/
def State.issueSlot (s : State) : Nat :=
  if s.cur.bobbin then s.cur.member else s.slotNo ⟨s.cur.core, .wave s.cur.member 0, 0⟩

/-- The generator of the pipe that issues: G1 on ALU1, G0 on ALU0. -/
def State.pipe (s : State) : Nat := if (s.core s.cur.core).ports.getLast? = some 3 then 1 else 0

def Slot.gen (q : Slot) (n : Nat) : Word := if n = 0 then q.g0 else if n = 1 then q.g1 else q.gt
def Slot.setGen (q : Slot) (n : Nat) (v : Word) : Slot :=
  if n = 0 then { q with g0 := v } else if n = 1 then { q with g1 := v } else { q with gt := v }

/-- Change each lane of the issue by its physical number. -/
def State.mapLanesAt (s : State) (f : Nat → Hart → Hart) : State :=
  if s.cur.bobbin then s.mapLanes (f 0)
  else s.modWave s.cur.core s.cur.member fun v =>
    { v with lanes := v.lanes.map fun e => if s.cur.lanes.contains e.1 then (e.1, f e.1 e.2) else e }

/-- A conversion whose lanes draw on the pipe's generator: it steps once for each result, however many lanes take part. -/
def Conv.drawn (c : Conv) (g : Guard) (d : Reg) (a : Src) (n : Hart → Int) (s : State) : Host.Outcome State Fault Refusal :=
  let x := ((s.slot? s.cur.core s.issueSlot).map fun q => q.gen s.pipe).getD 0
  let s' := s.mapLanesAt fun l h =>
    (if h.takes g then c.lane d a (n h) (fun e => laneWord (xorshiftN (e + 1) x) l) h else h).advance s.cur
  .next (s'.modSlot s.cur.core s.issueSlot fun q => q.setGen s.pipe (xorshiftN c.results x))

def execCvt (g : Guard) (d : Reg) (a : Src) (df sf : Fmt) (rm : Round) (sat ftz pk : Bool) (s : State) : Host.Outcome State Fault Refusal :=
  aluOp g (fun h => ({ df, sf, rm, sat, ftz, pk } : Conv).lane d a 0 (fun _ => 0) h) s

/-- With .xr, result e uses the lane's own word, rotated by e bytes, and no generator steps. -/
def execCvtsr (g : Guard) (d : Reg) (a : Src) (df sf : Fmt) (b : Src) (xr sat ftz pk : Bool) (s : State) : Host.Outcome State Fault Refusal :=
  let c : Conv := { df, sf, rm := .rsr, sat, ftz, pk }
  if xr then aluOp g (fun h => c.lane d a 0 (fun e => (BitVec.ofNat 32 (h.word b)).rotateLeft (8 * e)) h) s
  else c.drawn g d a (fun _ => 0) s

/-- The seed stands from the cycle's end (R190). Of a bobbin's SRSEED and a wave's on ALU0 in one cycle the wave's stands, since its port
chooses later: DESIGN CHOICE (log 60). -/
def execSrseed (g : Guard) (a : Src) (which : BitVec 2) (s : State) : Host.Outcome State Fault Refusal :=
  let s' := s.mapLanes fun h => h.advance s.cur
  .next (match (s.active g).head? with
    | none => s'
    | some (_, h) =>
      let v : Word := if h.word a = 0 then 0x9E3779B9 else BitVec.ofNat 32 (h.word a)
      let gens := if which = 3 then [0, 1, 2] else [which.toNat]
      s'.modSlot s.cur.core s.issueSlot fun q => { q with seeds := gens.foldl (fun m n => m.set n v) q.seeds })

/-- The scale byte of xB (R191, R192). -/
def Hart.scale (h : Hart) (b : Src) : Int := (h.word b % 256 : Nat)

def execQnt (g : Guard) (d : Reg) (a : Src) (df sf : Fmt) (b : Src) (planes : BitVec 4) (rm : Round) (sat ftz pk : Bool) (s : State) :
    Host.Outcome State Fault Refusal :=
  let c : Conv := { df, sf, planes := planes.toNat, rm, sat, ftz, pk, quant := true, scaled := true }
  if rm = .rsr then c.drawn g d a (fun h => 127 - h.scale b) s
  else aluOp g (fun h => c.lane d a (127 - h.scale b) (fun _ => 0) h) s

def execDqnt (g : Guard) (d : Reg) (a : Src) (df sf : Fmt) (b : Src) (planes : BitVec 4) (rm : Round) (sat ftz pk : Bool) (s : State) :
    Host.Outcome State Fault Refusal :=
  aluOp g (fun h => ({ df, sf, planes := planes.toNat, rm, sat, ftz, pk, scaled := true } : Conv).lane d a (h.scale b - 127) (fun _ => 0) h) s

/-- SCLX of a pattern by 2^n (R193): infinities and zeros are returned unchanged. -/
def sclxBits (t : Fmt) (d : Rnd) (n : Int) (a : Nat) : Nat × FFlags :=
  match readF t d.ftz a with
  | .nan => (Fmt.nanCode t, 0)
  | .inf neg => (signedCode t neg (Fmt.infCode t), 0)
  | .fin neg m e => roundTo t d neg m (e + n)

def execSclx (g : Guard) (d : Reg) (a b : Src) (df : Fmt) (rm : Round) (bi sat ftz : Bool) (s : State) : Host.Outcome State Fault Refusal :=
  aluOp g (fun h => h.writeF d (sclxBits df { mode := rm, ftz, sat } (if bi then h.scale b - 127 else intOf 32 true (h.word b)) (h.word a))) s

/-! ### Bit planes (R194 to R197) -/

/-- Plane word from the 32 bytes of a run: bit i is the given bit of byte i. -/
def planeWord (bit : Nat) (bytes : List Nat) : Nat := packed 1 (bytes.map fun v => (v.testBit bit).toNat)

def execPlpack (g : Guard) (d a : Reg) (P p : BitVec 4) (s : State) : Host.Outcome State Fault Refusal :=
  aluOp g (fun h =>
    let bytes := (List.range 32).map fun i => element 8 (h.runWord (.reg a) (i / 4)) (i % 4)
    h.setWord d.toNat (planeWord (P.toNat - 1 - p.toNat) bytes)) s

/-- Element i of k plane words: the k-bit value whose top bit is in plane 0, at the scale of P planes. -/
def unplane (P k : Nat) (planes : List Nat) (i : Nat) : Nat :=
  let w := packed 1 ((planes.take k).reverse.map fun v => (v.testBit i).toNat)
  ((intOf k true w * 2 ^ (P - k)) % 256).toNat

def execPlunpk (g : Guard) (d : Reg) (a : Src) (P k : BitVec 4) (s : State) : Host.Outcome State Fault Refusal :=
  aluOp g (fun h =>
    let planes := (List.range k.toNat).map fun j => h.runWord a j
    h.setRun d.toNat (wordsOf 8 ((List.range 32).map (unplane P.toNat k.toNat planes)))) s

def plext (P k : Nat) (os : Bool) (v : Nat) : Nat :=
  let w := (intOf P true v).fdiv (2 ^ (P - k))
  ((if os then w * 2 ^ (P - k) else w) % 256).toNat

def execPlext (g : Guard) (d : Reg) (a : Src) (P k : BitVec 4) (os : Bool) (s : State) : Host.Outcome State Fault Refusal :=
  aluOp g (fun h => h.setWord d.toNat (packed 8 ((List.range 4).map fun i => plext P.toNat k.toNat os (element 8 (h.word a) i)))) s

/-! ### Alignment (R198) -/

/-- One element aligned at W bits to eG, and the flags. -/
def alignOne (t : Fmt) (w : Nat) (eG : Int) (v : FVal) : Int × FFlags :=
  match v with
  | .fin neg m e =>
    match alignExp t v with
    | none => (0, 0)
    | some x => if eG < x then (signInt neg (2 ^ (w - 1) - 1), FFlags.IV) else (signInt neg (alignMag t w eG m e), 0)
  | _ => (-(2 ^ (w - 1)), FFlags.IV)

def execF8algn (g : Guard) (d : Reg) (a b : Src) (f : Fmt) (mx : Bool) (s : State) : Host.Outcome State Fault Refusal :=
  aluOp g (fun h =>
    let n := 32 / f.bits
    let vs := (List.range n).map fun i => decodeF f (element f.bits (h.word a) i)
    if mx then h.setWord d.toNat ((groupExp f vs) % 2 ^ 32).toNat
    else
      let rs := vs.map (alignOne f f.bits (intOf 8 true (h.word b)))
      h.writeF d (packed f.bits (rs.map fun r => (r.1 % 2 ^ f.bits).toNat), rs.foldl (fun x r => x ||| r.2) 0)) s

end Sys2Proof.Machine
end

