-- ==== Sys2Proof/Machine/Crypto.lean ====
section
/-! DEFINITION. The standard algorithms that R467 and R468 name: AES-256 and its XTS mode (IEEE 1619), AES key wrap, SHA-256 and
the multiplication of P-256 points. -/

namespace Sys2Proof.Machine.Crypto

/-! ### AES-256 -/

/-- Double in the field of AES. -/
def xtime (b : Nat) : Nat := if b < 128 then 2 * b else Nat.xor (2 * b % 256) 0x1B

def gmul (a b : Nat) : Nat :=
  ((List.range 8).foldl (fun (acc : Nat × Nat) i => (if b.testBit i then Nat.xor acc.1 acc.2 else acc.1, xtime acc.2)) (0, a)).1

/-- The inverse: a^254, with 0 for 0. -/
def ginv (a : Nat) : Nat := ((List.range 7).foldl (fun (acc : Nat × Nat) _ => let q := gmul acc.2 acc.2; (gmul acc.1 q, q)) (1, a)).1

def rotl8 (b n : Nat) : Nat := (b * 2 ^ n % 256) + b / 2 ^ (8 - n)

def sbox (b : Nat) : Nat :=
  let v := ginv b
  Nat.xor (Nat.xor (Nat.xor (Nat.xor v (rotl8 v 1)) (Nat.xor (rotl8 v 2) (rotl8 v 3))) (rotl8 v 4)) 0x63

def invSbox (b : Nat) : Nat :=
  let v := Nat.xor b 0x63
  ginv (Nat.xor (Nat.xor (rotl8 v 1) (rotl8 v 3)) (rotl8 v 6))

def xorList (a b : List Nat) : List Nat := a.zipWith Nat.xor b

/-- The 60 words of the key schedule. -/
def expandKey (key : List Nat) : List (List Nat) :=
  let first := (List.range 8).map fun i => (key.drop (4 * i)).take 4
  ((List.range 52).foldl (fun (acc : List (List Nat) × Nat) j =>
    let i := j + 8
    let prev := acc.1.getD (i - 1) []
    let t := if i % 8 = 0 then
        let r := (prev.drop 1 ++ prev.take 1).map sbox
        xorList r [acc.2, 0, 0, 0]
      else if i % 8 = 4 then prev.map sbox else prev
    (acc.1 ++ [xorList (acc.1.getD (i - 8) []) t], if i % 8 = 0 then xtime acc.2 else acc.2)) (first, 1)).1

def roundKey (w : List (List Nat)) (r : Nat) : List Nat := ((w.drop (4 * r)).take 4).flatten

/-- Byte r + 4c of the state moves with its row. -/
def shiftRows (s : List Nat) : List Nat := (List.range 16).map fun i => s.getD ((i + 4 * (i % 4)) % 16) 0
def invShiftRows (s : List Nat) : List Nat := (List.range 16).map fun i => s.getD ((i + 12 * (i % 4)) % 16) 0

def mixWith (m : List Nat) (s : List Nat) : List Nat :=
  (List.range 16).map fun i =>
    let c := i / 4 * 4
    let r := i % 4
    (List.range 4).foldl (fun a j => Nat.xor a (gmul (m.getD ((j + 4 - r) % 4) 0) (s.getD (c + j) 0))) 0

def encrypt (key block : List Nat) : List Nat :=
  let w := expandKey key
  let s := (List.range 13).foldl (fun s r => xorList (mixWith [2, 3, 1, 1] (shiftRows (s.map sbox))) (roundKey w (r + 1))) (xorList block (roundKey w 0))
  xorList (shiftRows (s.map sbox)) (roundKey w 14)

def decrypt (key block : List Nat) : List Nat :=
  let w := expandKey key
  let s := (List.range 13).foldl
    (fun s r => mixWith [14, 11, 13, 9] (xorList ((invShiftRows s).map invSbox) (roundKey w (13 - r)))) (xorList block (roundKey w 14))
  xorList ((invShiftRows s).map invSbox) (roundKey w 0)

/-! ### XTS (IEEE 1619) -/

def natOf (l : List Nat) : Nat := l.foldr (fun b n => b + 256 * n) 0
def bytesOf (n v : Nat) : List Nat := (List.range n).map fun i => v / 256 ^ i % 256

/-- The next block's tweak: times α. -/
def nextTweak (t : List Nat) : List Nat :=
  let v := natOf t
  bytesOf 16 (Nat.xor (2 * v % 2 ^ 128) (if v < 2 ^ 127 then 0 else 0x87))

/-- The four blocks of a data unit of 64 bytes under a tweak value. -/
def xts (enc : Bool) (k1 k2 : List Nat) (tweak : Nat) (data : List Nat) : List Nat :=
  ((List.range 4).foldl (fun (acc : List Nat × List Nat) i =>
    let x := xorList ((data.drop (16 * i)).take 16) acc.2
    (acc.1 ++ xorList (if enc then encrypt k1 x else decrypt k1 x) acc.2, nextTweak acc.2)) ([], encrypt k2 (bytesOf 16 tweak))).1

/-! ### AES key wrap: the unwrapped data, or none when the check fails -/

def unwrap (kek blob : List Nat) : Option (List Nat) :=
  let n := blob.length / 8 - 1
  let be := fun (v : Nat) => (bytesOf 8 v).reverse
  let start : List Nat × List (List Nat) := (blob.take 8, (List.range n).map fun i => (blob.drop (8 * (i + 1))).take 8)
  let r := (List.range (6 * n)).foldl (fun (acc : List Nat × List (List Nat)) k =>
    let t := 6 * n - k
    let i := (t - 1) % n
    let b := decrypt kek (xorList acc.1 (be t) ++ acc.2.getD i [])
    (b.take 8, acc.2.set i (b.drop 8))) start
  if blob.length % 8 = 0 ∧ 2 ≤ n ∧ r.1 = List.replicate 8 0xA6 then some r.2.flatten else none

/-! ### SHA-256 -/

def primes : List Nat :=
  [2, 3, 5, 7, 11, 13, 17, 19, 23, 29, 31, 37, 41, 43, 47, 53, 59, 61, 67, 71, 73, 79, 83, 89, 97, 101, 103, 107, 109, 113, 127, 131]
    ++ [137, 139, 149, 151, 157, 163, 167, 173, 179, 181, 191, 193, 197, 199, 211, 223, 227, 229, 233, 239, 241, 251, 257, 263]
    ++ [269, 271, 277, 281, 283, 293, 307, 311]

/-- The greatest x below 2^n with x^k at most v. -/
def root (k v : Nat) : Nat → Nat
  | 0 => 0
  | n + 1 =>
    let hi := root k v n
    let x := hi + 2 ^ (63 - n)
    if x ^ k ≤ v then x else hi

/-- 32 bits of the fraction of the k-th root of a prime. -/
def rootWord (k p : Nat) : Word := BitVec.ofNat 32 (root k (p * 2 ^ (32 * k)) 64)

def pad (m : List Nat) : List Nat :=
  m ++ [0x80] ++ List.replicate ((119 - m.length % 64) % 64) 0 ++ (bytesOf 8 (8 * m.length)).reverse

def wordBE (l : List Nat) : Word := BitVec.ofNat 32 (natOf l.reverse)

def schedule (block : List Nat) : List Word :=
  (List.range 48).foldl (fun (w : List Word) j =>
    let i := j + 16
    let g := fun n => w.getD n 0
    let s0 := (g (i - 15)).rotateRight 7 ^^^ (g (i - 15)).rotateRight 18 ^^^ (g (i - 15)) >>> 3
    let s1 := (g (i - 2)).rotateRight 17 ^^^ (g (i - 2)).rotateRight 19 ^^^ (g (i - 2)) >>> 10
    w ++ [g (i - 16) + s0 + g (i - 7) + s1]) ((List.range 16).map fun i => wordBE ((block.drop (4 * i)).take 4))

def compress (h : List Word) (block : List Nat) : List Word :=
  let w := schedule block
  let r := (List.range 64).foldl (fun (v : List Word) i =>
    let g := fun n => v.getD n 0
    let s1 := (g 4).rotateRight 6 ^^^ (g 4).rotateRight 11 ^^^ (g 4).rotateRight 25
    let ch := (g 4 &&& g 5) ^^^ (~~~(g 4) &&& g 6)
    let t1 := g 7 + s1 + ch + rootWord 3 (primes.getD i 2) + w.getD i 0
    let s0 := (g 0).rotateRight 2 ^^^ (g 0).rotateRight 13 ^^^ (g 0).rotateRight 22
    let maj := (g 0 &&& g 1) ^^^ (g 0 &&& g 2) ^^^ (g 1 &&& g 2)
    [t1 + s0 + maj, g 0, g 1, g 2, g 3 + t1, g 4, g 5, g 6]) h
  h.zipWith (· + ·) r

def sha256 (m : List Nat) : List Nat :=
  let p := pad m
  let h := (List.range (p.length / 64)).foldl (fun h i => compress h ((p.drop (64 * i)).take 64)) ((primes.take 8).map (rootWord 2))
  h.flatMap fun w => (bytesOf 4 w.toNat).reverse

/-! ### P-256 -/

def fieldP : Nat := 2 ^ 224 * (2 ^ 32 - 1) + 2 ^ 192 + 2 ^ 96 - 1

def powMod (p a : Nat) : Nat → Nat → Nat
  | 0, _ => 1
  | n + 1, e => if e = 0 then 1 else let h := powMod p (a * a % p) n (e / 2); if e % 2 = 1 then h * a % p else h

def invMod (p a : Nat) : Nat := powMod p a 256 (p - 2)

/-- The base point, its order, and the constant of the curve. -/
def baseX : Nat := 0x6B17D1F2E12C4247F8BCE6E563A440F277037D812DEB33A0F4A13945D898C296
def baseY : Nat := 0x4FE342E2FE1A7F9B8EE7EB4A7C0F9E162BCE33576B315ECECBB6406837BF51F5
def orderN : Nat := 0xFFFFFFFF00000000FFFFFFFFFFFFFFFFBCE6FAADA7179E84F3B9CAC2FC632551
def curveB : Nat := 0x5AC635D8AA3A93E7B3EBBD55769886BC651D06B0CC53B0F63BCE3C3E27D2604B

def onCurve (x y : Nat) : Bool :=
  decide (x < fieldP) && decide (y < fieldP) && y * y % fieldP == (x * x * x + (fieldP - 3) * x + curveB) % fieldP

/-- Points; none is the point at infinity. -/
def addPoint (a b : Option (Nat × Nat)) : Option (Nat × Nat) :=
  match a, b with
  | none, q => q
  | q, none => q
  | some (x1, y1), some (x2, y2) =>
    if x1 = x2 ∧ (y1 + y2) % fieldP = 0 then none
    else
      let l := if x1 = x2 then (3 * x1 * x1 + (fieldP - 3)) * invMod fieldP (2 * y1 % fieldP) % fieldP
        else (y2 + fieldP - y1) * invMod fieldP ((x2 + fieldP - x1) % fieldP) % fieldP
      let x := (l * l + 2 * fieldP - x1 - x2) % fieldP
      some (x, (l * (x1 + fieldP - x) + fieldP - y1) % fieldP)

/-- The multiple k × Q by doubling and adding. -/
def mulPoint (q : Option (Nat × Nat)) : Nat → Nat → Option (Nat × Nat)
  | 0, _ => none
  | n + 1, k =>
    let h := mulPoint q n (k / 2)
    let d := addPoint h h
    if k % 2 = 1 then addPoint d q else d

/-- ECDSA over P-256: the signature (r, s) of a hash, 32 bytes with the most significant first, under a public key. -/
def verify (qx qy r s : Nat) (hash : List Nat) : Bool :=
  let w := invMod orderN s
  let u := natOf hash.reverse * w % orderN
  let v := r * w % orderN
  onCurve qx qy && decide (1 ≤ r ∧ r < orderN) && decide (1 ≤ s ∧ s < orderN)
    && (match addPoint (mulPoint (some (baseX, baseY)) 256 u) (mulPoint (some (qx, qy)) 256 v) with
      | some (x, _) => x % orderN == r
      | none => false)

/-- The shared x-coordinate of ECDH, 32 bytes with the most significant first. -/
def sharedX (scalar x y : Nat) : Option (List Nat) := (mulPoint (some (x, y)) 256 scalar).map fun p => (bytesOf 32 p.1).reverse

end Sys2Proof.Machine.Crypto
end

