-- ==== Sys2Proof/Machine/Engines.lean ====
section
/-! DEFINITION. What every engine command shares: ends, the checks at issue, queues, firing, retirement and failure (R305 to R310,
R372 to R380), and the reading and writing of tiles (R381, R468). -/

namespace Sys2Proof.Machine

/-! ### Commands and their queues (R375, R400, R495) -/

def State.findCommand (s : State) (id : Nat) : Option (Nat × Nat × Command) :=
  s.cores.findSome? fun (c, k) => k.slots.findSome? fun (n, q) => (q.commands.find? fun x => x.id == id).map fun x => (c, n, x)

def State.modCommand (s : State) (core slot id : Nat) (f : Command → Command) : State :=
  s.modSlot core slot fun q => { q with commands := q.commands.map fun c => if c.id = id then f c else c }

def State.dropCommand (s : State) (core slot id : Nat) : State :=
  s.modSlot core slot fun q => { q with commands := q.commands.filter fun c => c.id != id }

def Engine.depth : Engine → Nat
  | .copy => 16
  | .stitch | .retrieval | .dfi => 8

/-- Commands of an engine that have not fired. -/
def Slot.queued (q : Slot) (e : Engine) : List Command := q.commands.filter fun c => c.engine == e && !c.fired

/-- Commands of the slot of a thread or bobbin. -/
def State.cmdCount (s : State) (r : Ref) : Nat := ((s.slotFor? r).map fun q => q.commands.length).getD 0

/-- Queue a command of a lane; a full queue holds it. -/
def State.enqueue (s : State) (r : Ref) (h : Hart) (c : Command) : State :=
  match s.slotFor? r with
  | none => s
  | some q =>
    if c.engine.depth ≤ (q.queued c.engine).length then s.hold r .queueFull
    else
      let c := { c with id := s.next, issuer := r, ctx := q.ctx, pc := h.pc, eord := s.ordOf r h ++ ovlOf h.pc, launch := h.launch
                        system := h.tstate.priv, flag := s.cur.flag }
      ((s.modSlotFor r fun q => { q with commands := q.commands ++ [c] }).bump).goOn r

/-! ### Ends -/

/-- The pattern of an end, with its offset. -/
def EndPt.pattern? : EndPt → Option Pattern
  | .pat v off => some ((Pattern.ofBits v).shifted off.toNat)
  | .hoop _ _ | .empty => none

def EndPt.hoops : EndPt → List (Nat × Nat)
  | .hoop h n => [(h, n)]
  | .pat _ _ | .empty => []

/-- The end that an instruction names: a hoop with its count, or a pattern whose record the core reads (R373, R374). -/
def State.endOf (s : State) (r : Ref) (h : Hart) (hoop : Bool) (n : Nat) (x : Src) (cnt : Nat) : Option EndPt × State :=
  if hoop then (some (.hoop n cnt), s)
  else
    match s.patternRead r h n with
    | (none, s) => (none, s)
    | (some v, s) => (some (.pat v ((h.src x).setWidth 48)), s)

/-! ### Checks at issue (R374) -/

/-- The first failing check. -/
def firstStop (l : List (Bool × Stop)) : Option Stop := (l.find? Prod.fst).map Prod.snd

def stopOf (c : Cause) : Stop := { cause := c }

/-- A hoop end that is invalid or, where the other end requires a size, does not have it. -/
def State.hoopBad (s : State) (core ctx : Nat) (e : EndPt) (need : Option Nat) : Bool :=
  match e with
  | .hoop n cnt =>
    let q := s.hoop core ctx n
    s.cspb core ctx = 0 || !q.valid || (match need with
      | some b => cnt * q.ent != b
      | none => false)
  | .pat _ _ | .empty => false

/-- Hoops named whose descriptors hold a poisoned word (R470, R471). -/
def State.hoopStops (s : State) (core ctx : Nat) (named : List Nat) : List (Bool × Stop) :=
  named.map fun n => (s.cspb core ctx != 0 && s.poisoned (hoopKey core ctx n) 16, nearStop .eccUncorrected 3 (16 * n) false)

/-- A pattern end whose record is not valid, or keyed over lines that it does not cover. -/
def EndPt.bad : EndPt → Bool
  | .pat v off => !(Pattern.ofBits v).ok || ((Pattern.ofBits v).keyen && off.toNat % 64 != 0)
  | .hoop _ _ | .empty => false

def keyIndex (ctx key : Nat) : Nat := ctx * 64 + key

/-- A key handle that names an empty slot. -/
def State.keyBad (s : State) (ctx : Nat) (e : EndPt) : Bool :=
  match e.pattern? with
  | none => false
  | some q => q.keyen && (s.keys.get? (keyIndex ctx q.key)).isNone

def EndPt.near? (e : EndPt) : Option Pattern := e.pattern?.bind fun q => if q.space = 0 then none else some q

/-- The tile lies inside the allocation (R278). -/
def State.tileInside (s : State) (core ctx : Nat) (q : Pattern) : Bool :=
  if q.space = 2 then q.addrs.all fun a => decide (a + q.unit ≤ s.nearEnd core ctx 2 a)
  else
    let (lo, hi) := q.bounds
    decide (0 ≤ lo) && decide (hi < s.nearEnd core ctx q.space 0)

/-- Alignment and bounds of near ends and of the barrier object. -/
def State.nearChecks (s : State) (core ctx : Nat) (ends : List (EndPt × Bool)) (barrier : Option (Nat × Nat)) : List (Bool × Stop) :=
  let near := ends.filterMap fun e => e.1.near?.map fun q => (q, e.2)
  (near.map fun (q, w) => (q.base % q.unit != 0, nearStop .misaligned q.space q.base w))
    ++ (barrier.toList.map fun (sp, a) => (a % 16 != 0, nearStop .misaligned sp a true))
    ++ (near.map fun (q, w) => (!s.tileInside core ctx q, nearStop .bounds q.space q.base w))
    ++ (barrier.toList.map fun (sp, a) => (decide (s.nearEnd core ctx sp a < a + 16), nearStop .bounds sp a true))

/-- The barrier object that a command names: space and offset, or none (R372). -/
def Hart.barrierOf (h : Hart) (bsp : BitVec 2) (c : Src) : Option (Nat × Nat) := if bsp = 0 then none else some (bsp.toNat, h.index c)

/-! ### Firing (R305 to R307, R376, R377) -/

/-- Two ranges in one scoreboard or one range-lock table. -/
def Range.sameBoard (a b : Range) : Bool := a.core == b.core && (a.core.isSome || a.die == b.die)

def Range.overlaps (a b : Range) : Bool := a.sameBoard b && (a.core.isSome || a.ctx == b.ctx) && decide (a.lo ≤ b.hi) && decide (b.lo ≤ a.hi)

/-- Room for the registrations of a command, and no destination over a range of another (R305 to R307). -/
def State.rangesFree (s : State) (new : List Range) : Bool :=
  new.all fun g =>
    decide ((s.ranges.filter g.sameBoard).length + (new.filter g.sameBoard).length ≤ (if g.core.isSome then 32 else 64))
      && !(g.dest && s.ranges.any fun x => x.cmd != g.cmd && g.overlaps x)

/-- The ranges of a tile: its lines in global memory at the die's interface, or of a near destination at a core's scoreboard. A
tile that wraps around the top of global memory takes all of it. -/
def Pattern.ranges (q : Pattern) (cmd core ctx : Nat) (dest : Bool) : List Range :=
  let (lo, hi) := q.bounds
  if q.space = 0 then
    let whole := decide (lo < 0) || decide (2 ^ 48 ≤ hi)
    [⟨cmd, none, dieOf core, ctx, if whole then 0 else lo.toNat / 64, if whole then 2 ^ 42 - 1 else hi.toNat / 64, dest, 0⟩]
  else if dest then
    let key := fun (a : Nat) => nearKey core ctx 0 0 q.space a / 64
    if q.space = 2 then
      let windows := (q.addrs.map fun a => a / 0x80000).eraseDups
      windows.map fun w =>
        let inW := q.addrs.filter fun a => a / 0x80000 == w
        let lo := inW.foldl Nat.min (inW.headD 0)
        let hi := inW.foldl Nat.max 0 + q.unit - 1
        ⟨cmd, some core, dieOf core, ctx, key lo, key hi, true, 0⟩
    else [⟨cmd, some core, dieOf core, ctx, key lo.toNat, key hi.toNat, true, 0⟩]
  else []

def EndPt.ranges (e : EndPt) (cmd core ctx : Nat) (dest : Bool) : List Range :=
  match e.pattern? with
  | none => []
  | some q => q.ranges cmd core ctx dest

/-- The bounding range of a bolt in global memory: from BASE to the last byte of its last index (R385). -/
def Bolt.ranges (b : Bolt) (cmd core ctx : Nat) (dest : Bool) : List Range :=
  if b.extent = 0 then []
  else
    let hi := b.at (b.extent - 1) + b.width - 1
    if hi < b.base then [⟨cmd, none, dieOf core, ctx, 0, 2 ^ 42 - 1, dest, 0⟩] else [⟨cmd, none, dieOf core, ctx, b.base / 64, hi / 64, dest, 0⟩]

/-- Fired commands of the unit that a command runs on, and the limit (R376). -/
def State.firedCount (s : State) (core : Nat) (e : Engine) : Nat :=
  let here := fun (c : Nat) => match e with
    | .copy => c == core
    | .dfi => dieOf c == dieOf core
    | .stitch | .retrieval => false
  sumNat (s.cores.map fun (c, k) =>
    if here c then sumNat (k.slots.map fun (_, q) => q.commands.countP fun x => x.engine == e && x.fired) else 0)

def Engine.limit : Engine → Nat
  | .copy => 8
  | .dfi => 16
  | .stitch | .retrieval => 1

/-- Hoop conditions of firing. -/
def State.hoopsReady (s : State) (core ctx : Nat) (src dst : List (Nat × Nat)) : Bool :=
  src.all (fun (n, k) => decide (k ≤ (s.hoop core ctx n).ready))
    && dst.all fun (n, k) => decide (k ≤ (s.hoop core ctx n).allow) && decide (s.unfilled core ctx n < 8)

/-- Is the command at the head of its queue? -/
def Slot.isHead (q : Slot) (c : Command) : Bool := ((q.queued c.engine).head?.map Command.id) == some c.id

/-- One hoop named by a fired command or released by it. -/
def State.modEngref (s : State) (core ctx n : Nat) (up : Bool) : State :=
  let h := s.hoop core ctx n
  s.setHoop core ctx n { h with engref := if up then h.engref + 1 else h.engref - 1 }

/-- Entries are taken from a source hoop. -/
def State.takeEntries (s : State) (core ctx n cnt : Nat) : Claim × State :=
  let h := s.hoop core ctx n
  ({ hoop := n, first := h.head, n := cnt }, s.setHoop core ctx n { h with head := h.head + BitVec.ofNat 16 cnt })

/-- Firing as one event (R377); `dst` are the claims that it makes. -/
def State.fireAll (s : State) (core slot : Nat) (c : Command) (src dst : List (Nat × Nat)) (ranges : List Range) (f : Command → Command) : State :=
  let (taken, s) := src.foldl (fun (acc : List Claim × State) e =>
    let (q, s) := acc.2.takeEntries core c.ctx e.1 e.2
    (acc.1 ++ [q], s)) ([], s)
  let (claims, s) := dst.foldl (fun (acc : List Claim × State) e =>
    let (q, s) := acc.2.claimEntries core c.ctx e.1 e.2 false
    (acc.1 ++ [q], s)) ([], s)
  let s := (src ++ dst).foldl (fun s e => s.modEngref core c.ctx e.1 true) s
  let s := { s with ranges := s.ranges ++ (ranges.map fun (g : Range) => { g with since := s.next }) }
  let s := if src.isEmpty && dst.isEmpty then s else s.modCore core fun k => { k with hoopStage := 2 }
  (s.modCommand core slot c.id fun c => f { c with fired := true, taken, claims }).releaseHeld core (· == .queueFull)

/-- May a command act on its hoops by retiring or failing: retirements come before the cycle's hoop instruction and firings (R366)? -/
def State.hoopsOpen (s : State) (core : Nat) (c : Command) : Bool :=
  (c.claims.isEmpty && c.taken.isEmpty) || (s.core core).hoopStage == 0

/-! ### The bulk network (R439, R442) -/

/-- Data of n lines between two cores: packets of at most six flits. -/
def State.bulkPackets (s : State) (src home ctx : Nat) (launch : Word) (slack : BitVec 12) (job : BulkJob) (n : Nat) : State :=
  (List.range ((n + 4) / 5)).foldl (fun s i => s.send src home ctx launch slack false 3 (32 + 64 * Nat.min 5 (n - 5 * i)) (.bulk job)) s

/-- The data of lines of global memory travel between their homes on this chip and a core. -/
def State.sendBulk (s : State) (core ctx : Nat) (launch : Word) (slack : BitVec 12) (job : BulkJob) (lines : List Nat) (write : Bool) : State :=
  let homes := lines.filterMap fun n => ((s.homeLeaf ctx (64 * n)).map Leaf.home).filter fun h => s.onChip h && h != s.homeId core
  homes.eraseDups.foldl (fun s h =>
    let (src, dst) := if write then (core, h) else (coreOfHome h, s.homeId core)
    s.bulkPackets src dst ctx launch slack job (homes.count h)) s

/-- Data of a job are on their way. -/
def State.bulkOut (s : State) (job : BulkJob) : Bool := s.packets.any fun p => p.body == Body.bulk job

/-! ### Reading (R309, R379, R468) -/

/-- The machine carries out the accesses of a command (R460, step 2). -/
def State.serving (s : State) (id : Option Nat) : State := { s with cur := { s.cur with command := id } }

/-- Why an engine's access does not go on. -/
inductive EngStop where
  | page (c : Cause) (va home : Nat)
  | moving
  | fails (addr : Option Nat) (space : Nat)
deriving DecidableEq, Repr

/-- A translation fault of an engine's access: a home fault is served; an uncorrectable table entry fails the command. -/
def State.engFault (s : State) (core ctx va : Nat) (c : Cause) : EngStop :=
  if c == .eccUncorrected then .fails (some va) 0 else .page c va (s.faultHome ctx va (s.homeId core) c)

/-- Up to 64 bytes of one line of global memory. -/
def State.readLine (s : State) (core ctx va n : Nat) : Except EngStop (List Byte) :=
  match s.translate ctx va false with
  | .fault c => .error (s.engFault core ctx va c)
  | .moving => .error .moving
  | .ok dpa => if s.poisoned dpa n then .error (.fails (some va) 0) else .ok (Memory.getBytes s.mem dpa n)

def tweakOf (ctx va : Nat) : Nat := va / 64 + ctx * 2 ^ 42

def cryptLine (enc : Bool) (keys : List Byte) (ctx va : Nat) (data : List Byte) : List Byte :=
  let n := fun (l : List Byte) => l.map BitVec.toNat
  (Crypto.xts enc (n (keys.take 32)) (n (keys.drop 32)) (tweakOf ctx va) (n data)).map (BitVec.ofNat 8)

/-- A piece of a tile: n bytes at an address, which in global memory may reach into the next line. -/
def State.readPiece (s : State) (core ctx space addr n : Nat) (keys : Option (List Byte)) : Except EngStop (List Byte) :=
  if space = 0 then
    match keys with
    | some k => (s.readLine core ctx (addr / 64 * 64) 64).map fun bs => ((cryptLine false k ctx addr bs).drop (addr % 64)).take n
    | none =>
      let m := Nat.min n (64 - addr % 64)
      match s.readLine core ctx addr m with
      | .error e => .error e
      | .ok bs => if m = n then .ok bs else (s.readLine core ctx ((addr + m) % 2 ^ 48) (n - m)).map fun t => bs ++ t
  else
    let key := nearKey core ctx 0 0 space addr
    if s.poisoned key n then .error (.fails (some addr) space) else .ok (Memory.getBytes s.mem key n)

def State.readPieces (s : State) (core ctx space n : Nat) (keys : Option (List Byte)) : List Nat → Except EngStop (List (List Byte))
  | [] => .ok []
  | a :: l =>
    match s.readPiece core ctx space a n keys with
    | .error e => .error e
    | .ok b => (s.readPieces core ctx space n keys l).map fun t => b :: t

/-- The elements of a BPP row of n from its planes, each as its P bits (R121, R122). -/
def bppRow (P n : Nat) (planes : List (List Byte)) : List Nat :=
  (List.range n).map fun i =>
    let bit := fun (p : Nat) => ((planes.getD (i / 256 * P + p) []).getD (i % 256 / 8) 0).getLsbD (i % 8)
    (List.range P).foldl (fun v p => 2 * v + (bit p).toNat) 0

/-- The planes of a BPP row; bits beyond the row are 0. -/
def bppPlanes (P blocks : Nat) (row : List Nat) : List (List Byte) :=
  (List.range (blocks * P)).map fun k =>
    let j := k / P
    let p := k % P
    (List.range 32).map fun b => (List.range 8).foldl (fun (v : Byte) i =>
      setBits v i 1 ((row.getD (256 * j + 8 * b + i) 0).testBit (P - 1 - p)).toNat) 0

/-- Elements of a tile in linear order from its pieces, and pieces from elements. -/
def Pattern.decode (q : Pattern) (pieces : List (List Byte)) : List Nat :=
  if q.bpp then (List.range q.rows).flatMap fun rho => bppRow q.p (q.size 0) ((pieces.drop (rho * q.pieces)).take q.pieces)
  else pieces.map natOfBytes

def Pattern.encode (q : Pattern) (elems : List Nat) : List (List Byte) :=
  if q.bpp then (List.range q.rows).flatMap fun rho => bppPlanes q.p q.blocks ((elems.drop (rho * q.size 0)).take (q.size 0))
  else elems.map (bytesOfNat q.unit)

/-- Cut bytes into pieces of n. -/
def chunks (n : Nat) (l : List Byte) : List (List Byte) := (List.range (l.length / Nat.max 1 n)).map fun i => (l.drop (n * i)).take n

/-- Bytes of taken hoop entries. -/
def State.readTaken (s : State) (core ctx : Nat) (q : Claim) : Except EngStop (List Byte) :=
  let h := s.hoop core ctx q.hoop
  (List.range q.n).foldl (fun acc i =>
    match acc with
    | .error e => .error e
    | .ok bs => (s.readPiece core ctx 3 (h.entry (q.first + BitVec.ofNat 16 i)) h.ent none).map fun t => bs ++ t) (.ok [])

/-- The keys of a tile, read when the command fired; a slot that was empty then fails it (R469). -/
def Command.keysOf (c : Command) (q : Pattern) : Except EngStop (Option (List Byte)) :=
  if q.keyen then (match c.keyed.get? q.key with
    | some k => .ok (some k)
    | none => .error (.fails (some q.base) 0))
  else .ok none

/-- The key slots that a command names, as they stand at its firing. -/
def State.readKeys (s : State) (ctx : Nat) (ends : List EndPt) : KMap (List Byte) :=
  (ends.filterMap EndPt.pattern?).foldl (fun m q =>
    match s.keys.get? (keyIndex ctx q.key) with
    | some k => if q.keyen then m.set q.key (k.k1 ++ k.k2) else m
    | none => m) []

/-- Every key slot of a context, as it stands when a retrieval operation fires (R469). -/
def State.ctxKeys (s : State) (ctx : Nat) : KMap (List Byte) :=
  (s.keys.filter fun e => e.1 / 64 == ctx).map fun e => (e.1 % 64, e.2.k1 ++ e.2.k2)

/-- The pieces of a source tile. -/
def State.readTile (s : State) (core : Nat) (c : Command) (q : Pattern) : Except EngStop (List (List Byte)) :=
  match c.keysOf q with
  | .error e => .error e
  | .ok keys => s.readPieces core c.ctx q.space q.unit keys q.addrs

/-- The pieces of a source end: of the tile, or of the taken entries in the format of the other end. -/
def State.readEnd (s : State) (core : Nat) (c : Command) (e : EndPt) (unit : Nat) : Except EngStop (List (List Byte)) :=
  match e with
  | .pat _ _ =>
    (match e.pattern? with
    | some q => s.readTile core c q
    | none => .ok [])
  | .hoop _ _ =>
    (match c.taken.head? with
    | some k => (s.readTaken core c.ctx k).map (chunks unit)
    | none => .ok [])
  | .empty => .ok []

/-! ### Effects -/

/-- What a command writes at its retirement: near and global bytes, the entries of each claim, the bytes delivered, and GT. -/
structure Effect where
  near : List (Nat × Nat × List Byte) := []
  glob : List (Nat × List Byte) := []
  fills : List (List (List Byte)) := []
  bytes : Nat := 0
  gt : Option Word := none
  /-- lines of global memory that the command has read -/
  reads : List Nat := []
deriving DecidableEq, Repr

/-- Writes of pieces to a tile. A keyed tile is encrypted line by line (R468); of a line that the
pieces do not cover, the other bytes are those of the old pieces. -/
def Pattern.writes (q : Pattern) (ctx : Nat) (keys : Option (List Byte)) (pieces : List (List Byte)) (old : List (Nat × List Byte) := []) : Effect :=
  let at_ := q.addrs.zip pieces
  if q.space != 0 then { near := at_.map fun e => (q.space, e.1, e.2), bytes := sumNat (at_.map fun e => e.2.length) }
  else
    match q.keyen, keys with
    | true, some k =>
      let cellsOf := fun (l : List (Nat × List Byte)) => l.flatMap fun e => e.2.mapIdx fun i b => (e.1 + i, b)
      let cells := cellsOf at_
      let lines := (cells.map fun c => c.1 / 64).eraseDups
      let byte := fun (a : Nat) => ((((cellsOf old ++ cells).filter fun c => c.1 == a).getLast?).map Prod.snd).getD 0
      { glob := lines.map fun l => (64 * l, cryptLine true k ctx (64 * l) ((List.range 64).map fun i => byte (64 * l + i)))
        bytes := sumNat (at_.map fun e => e.2.length) }
    | _, _ => { glob := at_, bytes := sumNat (at_.map fun e => e.2.length) }

/-- The first page that stops one of the global writes (R379): checked before any is made. -/
def State.writeStop (s : State) (core ctx : Nat) (l : List (Nat × List Byte)) : Option EngStop :=
  l.findSome? fun (va, bs) =>
    [va, (va + bs.length - 1) % 2 ^ 48].findSome? fun a =>
      match s.translate ctx a true with
      | .ok _ => none
      | .fault c => some (s.engFault core ctx a c)
      | .moving => some .moving

/-- One global write, line by line. -/
def State.storeGlobal (s : State) (ctx va : Nat) (bs : List Byte) : State :=
  (linePieces va bs).foldl (fun s e =>
    let a := e.1 % 2 ^ 48
    match s.translate ctx a true with
    | .ok dpa => s.store (globalLine ctx a dpa) dpa e.2
    | _ => s) s

/-- Lines of global memory that a tile takes. -/
def Pattern.globalLines (q : Pattern) : List Nat :=
  if q.space = 0 then (q.addrs.flatMap fun a => [a / 64, (a + q.unit - 1) % 2 ^ 48 / 64]).eraseDups else []

def EndPt.globalLines (e : EndPt) : List Nat := ((e.pattern?).map Pattern.globalLines).getD []

/-- Lines that global writes touch. -/
def linesOf (l : List (Nat × List Byte)) : List Nat :=
  (l.flatMap fun (va, bs) => (List.range ((va % 64 + bs.length + 63) / 64)).map fun i => (va / 64 + i) % 2 ^ 42).eraseDups

/-- Charge each line at its home (R510). -/
def State.chargeVas (s : State) (c : Command) (lines : List Nat) : State :=
  lines.foldl (fun s l =>
    match s.translate c.ctx (64 * l) false with
    | .ok dpa => s.lineCost c.ctx c.launch dpa c.system
    | _ => s) s

/-- Fill the entries of a claim and publish it. -/
def State.fillEntries (s : State) (core ctx : Nat) (q : Claim) (entries : List (List Byte)) : State :=
  let h := s.hoop core ctx q.hoop
  let s := (entries.take q.n).zip (List.range q.n) |>.foldl (fun s (bs, i) => s.storeNear core ctx 3 (h.entry (q.first + BitVec.ofNat 16 i)) bs) s
  s.fillClaim core ctx q

/-! ### Reports (R375, R380) -/

/-- Tell the issuer of a failure, or the host when the context is switched out. -/
def State.reportEngine (s : State) (core slot : Nat) (c : Command) (cause : Cause) (addr : Option Nat) (space : Nat) : State :=
  let stop : Stop := { cause, addr := addr.map (BitVec.ofNat 48), space := BitVec.ofNat 3 space }
  let out := ((s.slot? core slot).map Slot.leaving).getD false
  if out then s.postError cause.code c.ctx (s.homeId core) (addr.getD 0) c.pc.toNat c.eord.toNat .other (2 * space) else s.lateStop c.issuer c.ctx stop c.pc.toNat c.eord.toNat

/-- A barrier object receives bytes (R339). -/
def State.deliverBytes (s : State) (core slot : Nat) (c : Command) (space off n : Nat) : State :=
  let key := nearKey core c.ctx 0 0 space off
  let line : Line := ⟨key / 64, off / 64, space, c.ctx⟩
  let (b, wrapped) := (s.barrierAt key).deliver n
  let s := s.setBarrier line key b
  if wrapped then s.reportEngine c.issuer.core slot c .engineFault (some off) space else s

/-- Energy and events of delivered bytes (R507, R510). -/
def State.chargeBytes (s : State) (c : Command) (n : Nat) : State :=
  let units := (n + 255) / 256
  if units = 0 then s else (s.event c.issuer.core c.ctx 0x15 units c.system).charge c.issuer.core c.ctx c.launch 14 units

/-! ### Retirement and failure (R378, R379) -/

/-- Steps 4 and 5: the allowance returns, the hoops and ranges are released, and the command is gone. One that ends at the head of
its queue frees its entry there (R375). -/
def State.finish (s : State) (core slot : Nat) (c : Command) : State :=
  let s := c.taken.foldl (fun s q =>
    let h := s.hoop core c.ctx q.hoop
    s.setHoop core c.ctx q.hoop { h with allow := h.allow + q.n }) s
  let s := (c.taken ++ c.claims).foldl (fun s q => s.modEngref core c.ctx q.hoop false) s
  let boards := s.ranges.any fun g => g.cmd == c.id && g.core.isSome
  let s := { s with ranges := s.ranges.filter fun g => g.cmd != c.id, packets := s.packets.filter fun (p : Packet) => p.body != Body.bulk (.command c.id) }
  let s := if boards then s.cores.foldl (fun s e => s.releaseHeld e.1 (· == .scoreboard)) s else s
  (if c.fired then s else s.releaseHeld core (· == .queueFull)).dropCommand core slot c.id

/-- The runs of storage that writes of an effect cover: first key and length. -/
def State.effectRuns (s : State) (core ctx : Nat) (e : Effect) : List (Nat × Nat) :=
  (e.near.map fun (sp, a, bs) => (nearKey core ctx 0 0 sp a, bs.length))
    ++ (e.glob.flatMap fun (va, bs) => linePieces va bs).filterMap fun p =>
      match s.translate ctx (p.1 % 2 ^ 48) true with
      | .ok dpa => some (dpa, p.2.length)
      | _ => none

/-- Writes that perform together clear the poison of each granule that they cover as a whole (R378, R471). -/
def State.clearCovered (s : State) (runs : List (Nat × Nat)) : State :=
  { s with poison := s.poison.filter fun g =>
      !((List.range (granuleBytes g)).all fun i => runs.any fun e => decide (e.1 ≤ g + i) && decide (g + i < e.1 + e.2)) }

/-- Step 1 for one place of the effect. -/
def State.applyWrites (s : State) (core : Nat) (c : Command) (e : Effect) : State :=
  let s := if s.poison.isEmpty then s else s.clearCovered (s.effectRuns core c.ctx e)
  let s := e.near.foldl (fun s (sp, a, bs) => s.storeNear core c.ctx sp a bs) s
  let s := e.glob.foldl (fun s (va, bs) => s.storeGlobal c.ctx va bs) s
  s.chargeVas c (e.reads ++ linesOf e.glob)

/-- A fired command retires. -/
def State.retire (s : State) (core slot : Nat) (c : Command) (e : Effect) : State :=
  let s := s.applyWrites core c e
  let s := match e.gt with
    | none => s
    | some g => s.modSlot core slot fun q => { q with gt := g }
  let s := (c.claims.zip e.fills).foldl (fun s (q, l) => s.fillEntries core c.ctx q l) s
  let s := match c.barrier with
    | some (sp, off) => s.deliverBytes core slot c sp off e.bytes
    | none => s
  (s.chargeBytes c e.bytes).finish core slot c

/-- A fired command fails: zero bytes, or the given byte, in its claims, no delivery, and the report. -/
def State.failCommand (s : State) (core slot : Nat) (c : Command) (cause : Cause) (addr : Option Nat) (space : Nat) (fill : Byte := 0) : State :=
  let s := c.claims.foldl (fun s q =>
    s.fillEntries core c.ctx q (List.replicate q.n (List.replicate (s.hoop core c.ctx q.hoop).ent fill))) s
  (s.finish core slot c).reportEngine core slot c cause addr space

/-- A command whose access meets a home fault waits for the fault service (R379). -/
def State.commandWaits (s : State) (core slot : Nat) (c : Command) (cause : Cause) (va home : Nat) (write : Bool) : State :=
  (s.modCommand core slot c.id fun c => { c with waiting := some { cause, page := s.pageOf c.ctx va, home, va } }).reportPage (dieOf (coreOfHome home)) c.ctx va
    home cause write 0 c.pc.toNat c.eord.toNat

/-- What a fired command would do if it retired now. -/
inductive Outcome where
  | effect (e : Effect)
  | stop (e : EngStop) (write : Bool)
deriving DecidableEq, Repr

/-- The effect of a command with its global writes checked. -/
def State.outcomeOf (s : State) (core ctx : Nat) (r : Except EngStop Effect) : Outcome :=
  match r with
  | .error e => .stop e false
  | .ok e =>
    match s.writeStop core ctx e.glob with
    | some x => .stop x true
    | none => .effect e

end Sys2Proof.Machine
end

