-- ==== Sys2Proof/Machine/Copy.lean ====
section
/-! DEFINITION. The copy engine (R381 to R383), gather and scatter (R384 to R386) and row binning (R387, R388): the checks at
issue, the conditions of firing, and what each command writes. -/

namespace Sys2Proof.Machine

/-- An engine instruction of one lane, and the queueing of its command; none of the checks may fail. -/
def State.issueCommand (s : State) (r : Ref) (h : Hart) (checks : List (Bool × Stop)) (c : Command) : State :=
  match firstStop (s.hoopStops r.core (s.ctxOf r) ((c.src.hoops ++ c.dst.hoops).map Prod.fst) ++ checks) with
  | some stop => s.raise r stop
  | none => s.enqueue r h c

/-! ### CPY and CPYM -/

/-- The ends of a copy do not match (R381). -/
def copyMismatch (a b : EndPt) : Bool :=
  match a.pattern?, b.pattern? with
  | some p, some q => p.count != q.count || ((p.bpp || q.bpp) && !(p.bpp && q.bpp && p.p == q.p))
  | _, _ => false

/-- Bytes that the hoop end of a copy must have. -/
def EndPt.needed (other : EndPt) : Option Nat := if other.bad then none else other.pattern?.map Pattern.bytes

/-- The checks of R374 that a copy's ends make, in the table's order, up to KEY_INVALID. -/
def State.endChecks (s : State) (core ctx : Nat) (a b : EndPt) (bad : Bool) : List (Bool × Stop) :=
  [(s.hoopBad core ctx a b.needed || s.hoopBad core ctx b a.needed, stopOf .hoopFault),
   (a.bad || b.bad || bad, stopOf .patternInvalid),
   (s.keyBad ctx a || s.keyBad ctx b, stopOf .keyInvalid)]

/-- The checks of R374 that a copy's ends and barrier object make, in the table's order, up to BOUNDS. -/
def State.copyChecks (s : State) (core ctx : Nat) (a b : EndPt) (bad : Bool) (barrier : Option (Nat × Nat)) : List (Bool × Stop) :=
  s.endChecks core ctx a b bad ++ s.nearChecks core ctx [(a, false), (b, true)] barrier

/-- The near checks of a CPYM: alignment of both ends and of the barrier object, bounds of the source on the issuing core, and of
the destination and the barrier object on each core that the mask names (R382). -/
def State.farChecks (s : State) (core ctx : Nat) (cores : List Nat) (a b : EndPt) (barrier : Option (Nat × Nat)) : List (Bool × Stop) :=
  let aligned := fun (e : Bool × Stop) => e.2.cause == .misaligned
  (s.nearChecks core ctx [(a, false), (b, true)] barrier).filter aligned
    ++ (s.nearChecks core ctx [(a, false)] none ++ cores.flatMap fun k => s.nearChecks k ctx [(b, true)] barrier).filter fun e => !aligned e

/-- CPY of one lane. -/
def State.cpyLane (s : State) (r : Ref) (h : Hart) (sh dh : Bool) (bsp : BitVec 2) (src dst : BitVec 8) (a b c : Src) (n : BitVec 12) (sl : BitVec 3) : State :=
  match s.endOf r h sh src.toNat a n.toNat with
  | (none, s) => s
  | (some x, s) =>
    match s.endOf r h dh dst.toNat b n.toNat with
    | (none, s) => s
    | (some y, s) =>
      let barrier := h.barrierOf bsp c
      s.issueCommand r h (s.copyChecks r.core (s.ctxOf r) x y (copyMismatch x y) barrier)
        { id := 0, engine := .copy, work := .copy, issuer := r, ctx := 0, src := x, dst := y, barrier, sl }

def execCpy (g : Guard) (sh dh : Bool) (bsp : BitVec 2) (src dst : BitVec 8) (a b c : Src) (n : BitVec 12) (sl : BitVec 3) (s : State) : Host.Outcome State Fault Refusal :=
  .next (perLane g (outside fun r h s => s.cpyLane r h sh dh bsp src dst a b c n sl) s)

/-- The receivers that a mask names, and whether a bit lies outside the scope (R382). -/
def maskCores (core : Nat) (scope : Scope) (mask : DWord) : List Nat × Bool :=
  let bits := (List.range 64).filter fun i => mask.getLsbD i
  match scope with
  | .die => (bits.map fun i => core / 64 * 64 + i, false)
  | _ => ((bits.filter (· < 4)).map (clusterCore core), bits.any (4 ≤ ·))

/-- CPYM of one lane. -/
def State.cpymLane (s : State) (r : Ref) (h : Hart) (d : Reg) (sh : Bool) (bsp : BitVec 2) (src dst : BitVec 8) (a b c : Src) (n : BitVec 12) (scope : Scope) (sl : BitVec 3) : State :=
  match s.endOf r h sh src.toNat a n.toNat with
  | (none, s) => s
  | (some x, s) =>
    match s.endOf r h false dst.toNat b n.toNat with
    | (none, s) => s
    | (some y, s) =>
      let ctx := s.ctxOf r
      let barrier := h.barrierOf bsp c
      let (cores, stray) := maskCores r.core scope (h.src64 (.reg d))
      let space := match y.pattern? with
        | some q => q.space
        | none => 0
      let absent := stray || cores.any fun k => s.cspb k ctx == 0
      let held := cores.filter fun k => s.cspb k ctx != 0
      s.issueCommand r h
        (s.endChecks r.core ctx x y (copyMismatch x y || space != 3) ++ s.farChecks r.core ctx held x y barrier ++ [(absent, stopOf .engineFault)])
        { id := 0, engine := .copy, work := .multicast cores, issuer := r, ctx := 0, src := x, dst := y, barrier, sl }

def execCpym (g : Guard) (d : Reg) (sh : Bool) (bsp : BitVec 2) (src dst : BitVec 8) (a b c : Src) (n : BitVec 12) (scope : Scope) (sl : BitVec 3) (s : State) : Host.Outcome State Fault Refusal :=
  .next (perLane g (outside fun r h s => s.cpymLane r h d sh bsp src dst a b c n scope sl) s)

/-- Elements converted into a destination's format, and GT after that (R119, R381, R478). -/
def convertTile (p q : Pattern) (gt : Word) (elems : List Nat) : List Nat × Option Word :=
  if p.fmt = q.fmt then (elems, none)
  else
    let c : Conv := { df := q.ty, sf := p.ty, rm := q.round, sat := q.sat }
    let start : Word := if q.seeden then (if q.seed = 0 then 0x9E3779B9 else q.seed) else gt
    let draws := q.round == .rsr
    let word := fun (i : Nat) => if draws then wordBits (laneWord (xorshiftN (i / 64 + 1) start) (i % 64)) else 0
    let groups := (elems.length + 63) / 64
    (elems.mapIdx fun i v => (c.element 0 (word i) v).1,
      if draws then some (xorshiftN groups start) else if q.seeden then some start else none)

/-- What a copy writes: the pieces of its destination in its format, and GT. -/
def State.copyData (s : State) (core slot : Nat) (c : Command) : Except EngStop (List (List Byte) × Option Word) :=
  match c.src.pattern?, c.dst.pattern? with
  | some p, some q =>
    (s.readTile core c p).map fun pieces =>
      let gt := ((s.slot? core slot).map Slot.gt).getD 0
      let (elems, g) := convertTile p q gt (p.decode pieces)
      (q.encode elems, g)
  | none, some q => (s.readEnd core c c.src q.unit).map fun pieces => (q.encode (q.decode pieces), none)
  | some p, none => (s.readTile core c p).map fun pieces => (p.encode (p.decode pieces), none)
  | none, none => .ok ([], none)

/-- Entries of E bytes that a linear run fills. -/
def State.entriesOf (s : State) (core : Nat) (c : Command) (data : List Byte) : List (List (List Byte)) :=
  c.claims.map fun q => chunks (s.hoop core c.ctx q.hoop).ent data

def State.copyEffect (s : State) (core slot : Nat) (c : Command) : Except EngStop Effect :=
  match s.copyData core slot c with
  | .error e => .error e
  | .ok (pieces, gt) =>
    match c.dst.pattern? with
    | some q => (c.keysOf q).map fun keys => { q.writes c.ctx keys pieces with gt, reads := c.src.globalLines }
    | none => .ok { fills := s.entriesOf core c pieces.flatten, bytes := pieces.flatten.length, reads := c.src.globalLines }

/-! ### CPYO (R383) -/

/-- CPYO of one lane. -/
def State.cpyoLane (s : State) (r : Ref) (h : Hart) (any : Bool) (slot : BitVec 2) (bsp : BitVec 2) (a c : Src) (sl : BitVec 3) : State :=
  let ovl : BitVec 16 := (h.src a).setWidth 16
  let barrier := h.barrierOf bsp c
  s.issueCommand r h (s.nearChecks r.core (s.ctxOf r) [] barrier ++ [(ovl == 0xFFFF, stopOf .engineFault)])
    { id := 0, engine := .copy, work := .overlay ovl (if any then none else some slot.toNat) (s.ovtOf r h), issuer := r, ctx := 0, barrier, sl }

def execCpyo (g : Guard) (any : Bool) (slot : BitVec 2) (bsp : BitVec 2) (a c : Src) (sl : BitVec 3) (s : State) : Host.Outcome State Fault Refusal :=
  .next (perLane g (outside fun r h s => s.cpyoLane r h any slot bsp a c sl) s)

/-- A resident lane or a running bobbin holds a PC in the overlay of an instruction-memory slot (R80, R383). -/
def State.slotBusy (s : State) (core slot : Nat) : Bool :=
  match (s.core core).imem.get? slot with
  | none => false
  | some o =>
    (s.core core).waves.any (fun e => e.2.ctx == o.ctx && e.2.lanes.any fun l => ovlOf l.2.pc == o.ovl)
      || (s.core core).slots.any fun e => e.2.ctx == o.ctx && e.2.bobbin.status != .halted && ovlOf e.2.bobbin.pc == o.ovl

/-! ### GATH and SCAT -/

/-- The bolt as a memory instruction of the lane reads it, in its bits. -/
def State.boltBitsOf (s : State) (r : Ref) (h : Hart) (k : BitVec 6) : BitVec 128 :=
  ((s.slotFor? r).map fun q => q.boltBits h.tstate.trapped k).getD 0

/-- An end that holds one element of e bytes for each index of the list. -/
def dataBad (data list : EndPt) (e : Nat) : Bool :=
  (match data.pattern? with
    | some q => q.bpp || q.unit != e || (match list.pattern? with
      | some p => p.count != q.count
      | none => false)
    | none => false)
  || (match list.pattern? with
    | some p => p.fmt != 4
    | none => false)

/-- Bytes that a hoop end of a gather or scatter must have: `each` for every element of the other end. -/
def EndPt.elements (other : EndPt) (each : Nat) : Option Nat := if other.bad then none else other.pattern?.map fun q => each * q.count

def State.gatherChecks (s : State) (core ctx : Nat) (b : Bolt) (list data : EndPt) (write : Bool) (barrier : Option (Nat × Nat)) : List (Bool × Stop) :=
  let need : Need := if write then .store else .load
  [(s.hoopBad core ctx list (data.elements 4) || s.hoopBad core ctx data (list.elements b.width), stopOf .hoopFault),
   (list.bad || data.bad || b.space != 0 || !need.ok b.access || dataBad data list b.width, stopOf .patternInvalid),
   (s.keyBad ctx list || s.keyBad ctx data, stopOf .keyInvalid)]
    ++ s.nearChecks core ctx [(list, false), (data, !write)] barrier ++ [(b.malformed, nearStop .bounds b.space b.base write)]

/-- GATH of one lane. -/
def State.gathLane (s : State) (r : Ref) (h : Hart) (sh dh : Bool) (bsp : BitVec 2) (src dst : BitVec 8) (bolt : BitVec 6) (a b c : Src) (n : BitVec 12) (sl : BitVec 3) : State :=
  match s.endOf r h sh src.toNat a n.toNat with
  | (none, s) => s
  | (some x, s) =>
    match s.endOf r h dh dst.toNat b n.toNat with
    | (none, s) => s
    | (some y, s) =>
      let v := s.boltBitsOf r h bolt
      let barrier := h.barrierOf bsp c
      s.issueCommand r h (s.gatherChecks r.core (s.ctxOf r) (Bolt.ofBits v) x y false barrier)
        { id := 0, engine := .dfi, work := .gather v, issuer := r, ctx := 0, src := x, dst := y, barrier, sl }

def execGath (g : Guard) (sh dh : Bool) (bsp : BitVec 2) (src dst : BitVec 8) (bolt : BitVec 6) (a b c : Src) (n : BitVec 12) (sl : BitVec 3) (s : State) : Host.Outcome State Fault Refusal :=
  .next (perLane g (outside fun r h s => s.gathLane r h sh dh bsp src dst bolt a b c n sl) s)

/-- SCAT names its data as the source end and its index list as the pattern of the destination field (R373). -/
def State.scatLane (s : State) (r : Ref) (h : Hart) (sh : Bool) (bsp : BitVec 2) (src dst : BitVec 8) (bolt : BitVec 6) (a b c : Src) (n : BitVec 12) (sl : BitVec 3) : State :=
  match s.endOf r h sh src.toNat a n.toNat with
  | (none, s) => s
  | (some x, s) =>
    match s.endOf r h false dst.toNat b n.toNat with
    | (none, s) => s
    | (some y, s) =>
      let v := s.boltBitsOf r h bolt
      let barrier := h.barrierOf bsp c
      s.issueCommand r h (s.gatherChecks r.core (s.ctxOf r) (Bolt.ofBits v) y x true barrier)
        { id := 0, engine := .dfi, work := .scatter v, issuer := r, ctx := 0, src := x, dst := y, barrier, sl }

def execScat (g : Guard) (sh : Bool) (bsp : BitVec 2) (src dst : BitVec 8) (bolt : BitVec 6) (a b c : Src) (n : BitVec 12) (sl : BitVec 3) (s : State) : Host.Outcome State Fault Refusal :=
  .next (perLane g (outside fun r h s => s.scatLane r h sh bsp src dst bolt a b c n sl) s)

/-- What index i of a data bolt names: nothing, an address, or a failure (R385). -/
inductive Elem where
  | none
  | at (a : Nat)
  | bad (a : Nat)
deriving DecidableEq, Repr

def Bolt.elem (b : Bolt) (i : Nat) : Elem :=
  if b.extent ≤ i then (if b.btrap then .bad (b.raw i) else .none)
  else if b.raw i % b.width != 0 then .bad (b.raw i)
  else .at (b.at i)

/-- The elements of a gather. -/
def State.gatherElems (s : State) (core ctx : Nat) (b : Bolt) : List Nat → Except EngStop (List (List Byte))
  | [] => .ok []
  | i :: l =>
    let one : Except EngStop (List Byte) := match b.elem i with
      | .none => .ok (List.replicate b.width 0)
      | .bad a => .error (.fails (some a) 0)
      | .at a => s.readPiece core ctx 0 a b.width none
    match one with
    | .error e => .error e
    | .ok v => (s.gatherElems core ctx b l).map fun t => v :: t

/-- The lines of a bolt's elements. -/
def Bolt.elemLines (b : Bolt) (idx : List Nat) : List Nat :=
  (idx.filterMap fun i => match b.elem i with
    | .at a => some (a / 64)
    | _ => none).eraseDups

def State.gatherEffect (s : State) (core : Nat) (c : Command) (b : Bolt) : Except EngStop Effect :=
  match s.readEnd core c c.src 4 with
  | .error e => .error e
  | .ok list =>
    let idx := list.map natOfBytes
    match s.gatherElems core c.ctx b idx with
    | .error e => .error e
    | .ok vals =>
      let reads := (c.src.globalLines ++ b.elemLines idx).eraseDups
      match c.dst.pattern? with
      | some q => (c.keysOf q).map fun keys => { q.writes c.ctx keys vals with reads }
      | none => .ok { fills := s.entriesOf core c vals.flatten, bytes := vals.flatten.length, reads }

/-- The writes of a scatter, in list order. -/
def scatterWrites (b : Bolt) : List (Nat × List Byte) → Except EngStop (List (Nat × List Byte))
  | [] => .ok []
  | (i, v) :: l =>
    match b.elem i with
    | .bad a => .error (.fails (some a) 0)
    | .none => scatterWrites b l
    | .at a => (scatterWrites b l).map fun t => (a, v) :: t

def State.scatterEffect (s : State) (core : Nat) (c : Command) (b : Bolt) : Except EngStop Effect :=
  match s.readEnd core c c.dst 4 with
  | .error e => .error e
  | .ok list =>
    match s.readEnd core c c.src b.width with
    | .error e => .error e
    | .ok vals =>
      (scatterWrites b ((list.map natOfBytes).zip vals)).map fun glob =>
        { glob, bytes := b.width * glob.length, reads := (c.src.globalLines ++ c.dst.globalLines).eraseDups }

/-! ### BIN (R387, R388) -/

/-- The 16-bit halves of the threshold run: k, then the thresholds. -/
def Hart.halves (h : Hart) (c : Reg) : List Nat :=
  if h.isBobbin then (List.range 8).map fun i => (h.reg (c.toNat + i / 4)).toNat / 2 ^ (16 * (i % 4)) % 2 ^ 16
  else (List.range 8).map fun i => (h.reg (c.toNat + i / 2)).toNat / 2 ^ (16 * (i % 2)) % 2 ^ 16

def descends : List Nat → Bool
  | a :: b :: l => decide (b < a) || descends (b :: l)
  | _ => false

/-- BIN of one lane. -/
def State.binLane (s : State) (r : Ref) (h : Hart) (n : BitVec 5) (bolt : BitVec 6) (a b : Src) (c : Reg) (sl : BitVec 3) : State :=
  let v := s.boltBitsOf r h bolt
  let q := Bolt.ofBits v
  let k := (h.halves c).headD 0
  let thresholds := ((h.halves c).drop 1).take (k - 1)
  let ctx := s.ctxOf r
  let range := k < 1 || 8 < k || descends thresholds || 4096 < h.index b || 31 < n.toNat + k - 1
  let named := ((List.range (Nat.min 32 (Nat.max 1 k))).map fun i => n.toNat + i).filter fun i => decide (i < 32)
  s.issueCommand r h (s.hoopStops r.core ctx named ++
    [(named.any fun i => s.hoopBad r.core ctx (.hoop i 0) none, stopOf .hoopFault),
     (q.esize != 2 || !Need.ok .load q.access, stopOf .patternInvalid),
     (q.malformed || decide (3 < q.space), nearStop .bounds q.space q.base false),
     (range, stopOf .engineFault)])
    { id := 0, engine := .dfi, work := .bin v (h.word a) (h.index b) n.toNat thresholds none, issuer := r, ctx := 0, sl }

def execBin (g : Guard) (n : BitVec 5) (bolt : BitVec 6) (a b : Src) (c : Reg) (sl : BitVec 3) (s : State) : Host.Outcome State Fault Refusal :=
  .next (perLane g (outside fun r h s => s.binLane r h n bolt a b c sl) s)

/-- The pointers of BIN's rows (R388). -/
def State.binPointers (s : State) (core ctx : Nat) (b : Bolt) : List Nat → Except EngStop (List Nat)
  | [] => .ok []
  | i :: l =>
    let one : Except EngStop Nat := match b.elem i with
      | .none => .ok 0
      | .bad a => .error (.fails (some a) b.space)
      | .at a =>
        if b.space != 0 && s.nearEnd core ctx b.space a < a + 4 then .error (.fails (some a) b.space)
        else (s.readPiece core ctx b.space a 4 none).map natOfBytes
    match one with
    | .error e => .error e
    | .ok v => (s.binPointers core ctx b l).map fun t => v :: t

/-- The class of a row of a length. -/
def binClass (thresholds : List Nat) (len : Nat) : Nat := thresholds.countP (· ≤ len)

/-- Rows by class: row, start, length. -/
def binRows (first : Nat) (thresholds p : List Nat) : List (List (Nat × Nat × Nat)) :=
  let rows := (List.range (p.length - 1)).map fun i => ((first + i) % 2 ^ 32, p.getD i 0, (p.getD (i + 1) 0 + 2 ^ 32 - p.getD i 0) % 2 ^ 32)
  (List.range (thresholds.length + 1)).map fun k => rows.filter fun e => binClass thresholds e.2.2 == k

/-- The pointer range, registered as a source. -/
def binRanges (b : Bolt) (cmd core ctx first count : Nat) : List Range :=
  let as := (List.range (count + 1)).filterMap fun i => match b.elem (first + i) with
    | .at a => some a
    | _ => none
  if b.space != 0 || as.isEmpty then []
  else [⟨cmd, none, dieOf core, ctx, as.foldl Nat.min (as.headD 0) / 64, (as.foldl Nat.max 0 + 3) / 64, false, 0⟩]

/-- The entries that BIN fills: 16 bytes at the start of each. -/
def binFills (classes : List (List (Nat × Nat × Nat))) : List (List (List Byte)) :=
  classes.mapIdx fun k rows => rows.map fun e => bytesOfNat 4 e.1 ++ bytesOfNat 4 e.2.1 ++ bytesOfNat 4 e.2.2 ++ bytesOfNat 4 k

/-! ### The commands together -/

/-- Hoops that a command takes from and gives to, with their counts. -/
def Command.sources (c : Command) : List (Nat × Nat) := c.src.hoops ++ (match c.work with
  | .scatter _ => c.dst.hoops
  | _ => [])

def Command.dests (c : Command) : List (Nat × Nat) :=
  match c.work with
  | .bin _ _ _ h _ (some classes) => classes.mapIdx fun k rows => (h + k, rows.length)
  | .scatter _ => []
  | _ => c.dst.hoops

/-- The ranges that a copy, gather or scatter registers when it fires. -/
def Command.copyRanges (c : Command) (core : Nat) : List Range :=
  match c.work with
  | .copy => c.src.ranges c.id core c.ctx false ++ c.dst.ranges c.id core c.ctx true
  | .multicast cores => c.src.ranges c.id core c.ctx false ++ cores.flatMap fun k => c.dst.ranges c.id k c.ctx true
  | .gather b => (Bolt.ofBits b).ranges c.id core c.ctx false ++ c.src.ranges c.id core c.ctx false ++ c.dst.ranges c.id core c.ctx true
  | .scatter b => (Bolt.ofBits b).ranges c.id core c.ctx true ++ c.src.ranges c.id core c.ctx false ++ c.dst.ranges c.id core c.ctx false
  | _ => []

/-- May a command of the copy engine or the fabric interface fire now (R376)? -/
def State.copyFires (s : State) (core slot : Nat) (c : Command) : Bool :=
  match s.slot? core slot with
  | none => false
  | some q =>
    q.isHead c && decide (s.firedCount core c.engine < c.engine.limit) && s.hoopsReady core c.ctx c.sources c.dests
      && s.rangesFree (c.copyRanges core)
      && (match c.work with
        | .overlay _ (some k) _ => !s.slotBusy core k
        | .bin _ _ _ _ _ classes => classes.isSome
        | _ => true)

/-- The overlay of a CPYO starts to load, unless a load of it runs. -/
def State.loadFor (s : State) (core ctx : Nat) (ovl : BitVec 16) (slot : Option Nat) (ovt : BitVec 48) (slack : BitVec 12) : State :=
  if (s.core core).loads.any fun l => l.ctx == ctx && l.ovl == ovl then s
  else (s.modCore core fun k => { k with loads := k.loads ++ [{ id := s.next, core, ctx, ovl, ovt, slot, slack }] }).bump

/-- The slack that a command's transfers carry: its class, at its firing (R442). -/
def State.commandSlack (s : State) (core slot : Nat) (c : Command) : BitVec 12 :=
  ((s.slot? core slot).map fun q => q.slackTab.toList.getD c.sl.toNat 0).getD 0xFFF

/-- Firing (R377). A CPYO of an installed overlay retires at once (R383). -/
def State.copyFire (s : State) (core slot : Nat) (c : Command) : State :=
  let parts := match c.work with
    | .multicast cores => cores
    | _ => []
  let s := s.fireAll core slot c c.sources c.dests (c.copyRanges core) fun c => { c with keyed := s.readKeys c.ctx [c.src, c.dst], parts }
  match c.work with
  | .overlay ovl k ovt =>
    match (s.core core).overlay? c.ctx ovl with
    | none => s.loadFor core c.ctx ovl k ovt (s.commandSlack core slot c)
    | some (_, o) =>
      let s := match c.barrier with
        | some (sp, off) => s.deliverBytes core slot c sp off o.size
        | none => s
      s.finish core slot c
  | _ => s

/-- What a fired command would do if it retired now; CPYO retires with its load, and a CPYM whose first part has retired has read
its source already. -/
def State.copyOutcome (s : State) (core slot : Nat) (c : Command) : Option Outcome :=
  if c.applied then some (.effect {})
  else
  match c.work with
  | .copy | .multicast _ => some (s.outcomeOf core c.ctx (s.copyEffect core slot c))
  | .gather b => some (s.outcomeOf core c.ctx (s.gatherEffect core c (Bolt.ofBits b)))
  | .scatter b => some (s.outcomeOf core c.ctx (s.scatterEffect core c (Bolt.ofBits b)))
  | .bin _ _ _ _ _ (some classes) => some (.effect { fills := binFills classes, bytes := 16 * sumNat (classes.map List.length) })
  | _ => none

/-- One receiver's part of a CPYM retires; the source is read once, with the first part (R382). -/
def State.retirePart (s : State) (core slot : Nat) (c : Command) (e : Effect) : State :=
  let data := if c.applied then chunks (match c.dst.pattern? with
    | some q => q.unit
    | none => 1) c.query else e.near.map fun x => x.2.2
  let near := match c.dst.pattern? with
    | some q => (q.addrs.zip data).map fun x => (q.space, x.1, x.2)
    | none => []
  let s := if c.applied then s else
    match e.gt with
    | none => s.chargeVas c e.reads
    | some g => (s.chargeVas c e.reads).modSlot core slot fun q => { q with gt := g }
  let n := sumNat (near.map fun x => x.2.2.length)
  match c.parts with
  | [] => s.finish core slot c
  | l =>
    let i := if l.length = 1 then 0 else Config.choice s.free % l.length
    let k := l.getD i 0
    let s := if l.length = 1 then s else s.spend
    let s := s.applyWrites k c { near }
    let s := match c.barrier with
      | some (sp, off) => s.deliverBytes k slot c sp off n
      | none => s
    let rest := l.eraseIdx i
    match rest with
    | [] =>
      let total := match c.work with
        | .multicast cores => cores.length
        | _ => 1
      (s.chargeBytes c (n * total)).finish core slot c
    | _ => s.modCommand core slot c.id fun c => { c with parts := rest, applied := true, query := data.flatten }

def State.copyRetire (s : State) (core slot : Nat) (c : Command) (e : Effect) : State :=
  match c.work with
  | .multicast _ => s.retirePart core slot c e
  | _ => s.retire core slot c e

/-- Reading a BIN's pointers: the rows by class (R388). -/
def State.binStep (s : State) (core : Nat) (c : Command) : Option (Except EngStop (List (List (Nat × Nat × Nat)))) :=
  match c.work with
  | .bin b first count _ thresholds none =>
    some (((s.serving (some c.id)).binPointers core c.ctx (Bolt.ofBits b) ((List.range (count + 1)).map fun i => first + i)).map (binRows first thresholds))
  | _ => none

/-- May BIN take its first step now? -/
def State.binReady (s : State) (core slot : Nat) (c : Command) : Bool :=
  match s.slot? core slot, c.work with
  | some q, .bin b first count _ _ none =>
    q.isHead c && c.waiting.isNone && c.refused.isNone && (count == 0
      || (s.ranges.any (fun g => g.cmd == c.id) || s.rangesFree (binRanges (Bolt.ofBits b) c.id core c.ctx first count))
      && (match s.binStep core c with
        | some (.error .moving) | some (.error (.fails _ _)) => false
        | _ => true))
  | _, _ => false

def execBinPrepare (id : Nat) (s : State) : Host.Outcome State Fault Refusal :=
  .next (match s.findCommand id with
  | none => s
  | some (core, slot, c) =>
    if !s.binReady core slot c then s
    else
      match c.work with
      | .bin b first count h thresholds none =>
        if count = 0 then (s.dropCommand core slot id).releaseHeld core (· == .queueFull)
        else
          let s := if s.ranges.any (fun g => g.cmd == id) then s
            else { s with ranges := s.ranges ++ (binRanges (Bolt.ofBits b) id core c.ctx first count).map fun (g : Range) => { g with since := s.next } }
          match s.binStep core c with
          | some (.ok classes) => s.modCommand core slot id fun c => { c with work := .bin b first count h thresholds (some classes) }
          | some (.error (.page e va home)) => s.commandWaits core slot c e va home false
          | _ => s
      | _ => s)

/-! ### Overlay loads (R79 to R81, R383, R486) -/

/-- The header checks of R81. -/
def imageOk (ovl : BitVec 16) (image : List Byte) : Bool :=
  let at_ := fun (o n : Nat) => natOfBytes ((image.drop o).take n)
  let code := at_ 8 4
  let cmap := at_ 0x0C 4
  let spt := at_ 0x10 4
  let n := at_ 0x14 4
  let jtd := at_ 0x18 4
  at_ 0 4 == 0x564F584C && at_ 4 2 == ovl.toNat && at_ 6 2 == 1 && decide (0x40 ≤ code) && decide (code ≤ cmap)
    && decide (cmap + (code + 511) / 512 * 16 ≤ spt) && decide (n ≤ 4096) && decide (spt + 16 * n ≤ jtd) && decide (jtd + 256 ≤ image.length)

/-- What a load reads: an image, what makes the load fail with its address (R380), or what it waits for. -/
inductive ImageRead where
  | image (bytes : List Byte)
  | fails (addr : Nat)
  | stop (e : MemStop)
deriving DecidableEq, Repr

/-- A read of the device for a load: an uncorrectable one fails the load at its address (R81). -/
def imageStop (e : MemStop) : ImageRead :=
  match e with
  | .fault .eccUncorrected va => .fails va
  | e => .stop e

/-- The image that a load reads. An overlay that its table does not name, or names wrongly, fails at the table's address, and a bad
image at its own (log 61). -/
def State.loadImage (s : State) (l : OverlayLoad) : ImageRead :=
  match s.overlayEntry l.ctx l.ovt.toNat l.ovl with
  | .error e => imageStop e
  | .ok none => .fails l.ovt.toNat
  | .ok (some (size, va)) =>
    if size < 64 || 65536 < size || va % 64 != 0 then .fails l.ovt.toNat
    else
      match s.readVa l.ctx va size with
      | .error e => imageStop e
      | .ok image => if imageOk l.ovl image then .image image else .fails va

/-- The instruction-memory slot that a load takes: the one named, a free one, or the least recently fetched with no PC in it. -/
def State.loadSlot (s : State) (l : OverlayLoad) : Option Nat :=
  let k := s.core l.core
  match l.slot with
  | some n => if s.slotBusy l.core n then none else some n
  | none =>
    match k.imem.freeKey 4 with
    | some n => some n
    | none => ((sortBy (fun e : Nat × OverlaySlot => e.2.lastFetch) (k.imem.filter fun e => !s.slotBusy l.core e.1)).head?).map Prod.fst

/-- May a load ask for its image, or end, now? -/
def State.loadReady (s : State) (l : OverlayLoad) : Bool :=
  l.waiting.isNone && !s.bulkOut (.load l.id) && (match s.loadImage l with
    | .stop .moving => false
    | .image _ => (s.loadSlot l).isSome
    | .stop (.fault _ _) | .fails _ => true)

/-- What a failed load raises: BAD_CLAUSE, or ECC_UNCORRECTED where a parity error had taken the overlay (R81, R470). -/
def Core.loadCause (k : Core) (ctx : Nat) (ovl : BitVec 16) : Cause := if k.spoiled.contains (ctx, ovl) then .eccUncorrected else .badClause

/-- Lanes that wait for an overlay go on when it is installed: a transfer is checked, others re-execute; when the load has
failed they stop. -/
def State.loadedLane (s : State) (ctx : Nat) (ovl : BitVec 16) (ok : Bool) (r : Ref) : State :=
  match s.hart? r with
  | none => s
  | some h =>
    if s.ctxOf r != ctx then s
    else
      match h.status with
      | .held (.overlay o) =>
        if o != ovl then s else if ok then s.release r
        else (s.release r).raiseCause r ((s.core r.core).loadCause ctx ovl)
      | .held (.transfer target link cut) =>
        if ovlOf target != ovl then s
        else if ok && s.target r.core ctx target == .ok then s.go r target link cut
        else (s.release r).raiseCause r (if ok then .badClause else (s.core r.core).loadCause ctx ovl)
      | _ => s

/-- Arrivals that wait for an overlay: their spools form waves again; after a failed load each stops at its safe point (R37). -/
def Core.loadedArrivals (k : Core) (ctx : Nat) (ovl : BitVec 16) (ok : Bool) : Core :=
  let f := fun (a : Arrival) =>
    if a.waits && a.ctx == ctx && ovlOf a.needle.pc == ovl then
      { a with waits := false, needle := if ok then a.needle else { a.needle with late := [{ cause := k.loadCause ctx ovl }] ++ a.needle.late } }
    else a
  { k with store := k.store.map f, spill := k.spill.map f }

/-- An arrival of the store whose overlay has left instruction memory, and which no failed load stops at its safe point. -/
def Arrival.stranded (a : Arrival) (k : Core) : Bool :=
  !a.waits && (k.overlay? a.ctx (ovlOf a.needle.pc)).isNone && !(a.needle.late.take 1).any fun e => loadStops.contains e

/-- In hardware mode an arrival waits for its overlay in its spool as long as no slot of instruction memory holds it (R37). -/
def State.awaitOverlays (s : State) (core : Nat) : State :=
  let k := s.core core
  if s.hostMode 1 then s
  else
    (k.store.filter fun a => a.stranded k).foldl (fun s a =>
      (s.event core a.ctx 0x11 1).startLoad core a.ctx (ovlOf a.needle.pc) (((s.launch? a.needle.launch).map Launch.ovt).getD 0))
      (s.modCore core fun k => { k with store := k.store.map fun a => if a.stranded k then { a with waits := true } else a })

/-- Fired CPYO commands of an overlay on a core. -/
def State.overlayCommands (s : State) (core ctx : Nat) (ovl : BitVec 16) : List (Nat × Command) :=
  (s.core core).slots.flatMap fun (n, q) => (q.commands.filter fun c => c.fired && c.ctx == ctx && (match c.work with
    | .overlay o _ _ => o == ovl
    | _ => false)).map fun c => (n, c)

/-- What follows when a load has ended: with an image of a size, or without one for what an address holds. -/
def State.loadEnded (s : State) (l : OverlayLoad) (size : Option Nat) (addr : Option Nat := none) : State :=
  let s := s.modCore l.core fun k => (k.loadedArrivals l.ctx l.ovl size.isSome)
  let s := (s.overlayCommands l.core l.ctx l.ovl).foldl (fun s (slot, c) =>
    match size with
    | some n => s.retire l.core slot c { bytes := n }
    | none => s.failCommand l.core slot c .engineFault addr 0) s
  (s.refs.filter fun r => r.core == l.core).foldl (fun s r => s.loadedLane l.ctx l.ovl size.isSome r) s

/-- A load puts its image into a slot of instruction memory. -/
def State.install (s : State) (l : OverlayLoad) (slot : Nat) (image : List Byte) : State :=
  let mem := Memory.setBytes (Memory.clear s.mem (imemKey l.core slot 0) 65536) (imemKey l.core slot 0) image
  ({ s with mem }.overtake l.core (·.isJump l.ctx l.ovl)).modCore l.core fun k =>
    { k with
      imem := k.imem.set slot { ctx := l.ctx, ovl := l.ovl, size := image.length, lastFetch := s.tsc.toNat }
      spoiled := k.spoiled.filter (· != (l.ctx, l.ovl)) }

/-- The lines of a load's image. -/
def State.imageLines (s : State) (l : OverlayLoad) : List Nat :=
  match s.overlayEntry l.ctx l.ovt.toNat l.ovl with
  | .ok (some (size, va)) => (List.range ((size + 63) / 64)).map fun i => va / 64 + i
  | _ => []

/-- The image of a load is on its way from other homes (R439). -/
def State.askImage (s : State) (l : OverlayLoad) : State :=
  let mark := fun (x : OverlayLoad) => if x.id = l.id then { x with asked := true } else x
  (s.modCore l.core fun k => { k with loads := k.loads.map mark }).sendBulk l.core l.ctx 0 l.slack (.load l.id) (s.imageLines l) false

/-- Once its image has come, a load ends: the image is checked and installed, or fails, or waits for the fault service. -/
def execOverlayLoadCompletion (id : Nat) (s : State) : Host.Outcome State Fault Refusal :=
  .next (match s.cores.findSome? fun e => e.2.loads.find? fun l => l.id == id with
  | none => s
  | some l =>
    if !s.loadReady l then s
    else
      let gone := s.modCore l.core fun k => { k with loads := k.loads.filter fun x => x.id != id }
      match s.loadImage l, s.loadSlot l with
      | .image image, some slot =>
        if !l.asked && (s.askImage l).bulkOut (.load id) then s.askImage l else
        ((gone.install l slot image).loadEnded l (some image.length)).awaitOverlays l.core
      | .fails va, _ => gone.loadEnded l none (some va)
      | .stop (.fault c va), _ =>
        let home := s.faultHome l.ctx va (s.homeId l.core) c
        let wait : PageWait := { cause := c, page := s.pageOf l.ctx va, home, va }
        let mark := fun (x : OverlayLoad) => if x.id = id then { x with waiting := some wait } else x
        (s.modCore l.core fun k => { k with loads := k.loads.map mark }).reportPage (dieOf (coreOfHome home)) l.ctx va home c false 0 0 0
      | _, _ => s)

end Sys2Proof.Machine
end

