-- ==== Sys2Proof/Machine/Retrieval.lean ====
section
/-! DEFINITION. Retrieval: hash families and hashing (R489, R490), retrieval tables and their storage (R491 to R493), and the
operations on them (R494 to R501). -/

namespace Sys2Proof.Machine

/-! ### Hashing (R490) -/

/-- Greater than or equal to 0: −0 is, a NaN is not. -/
def nonNegative : FVal → Bool
  | .nan => false
  | .inf neg => !neg
  | .fin neg m _ => !neg || m == 0

/-- dot + sgn × x rounded to FP32. -/
def dotStep (dot x : FVal) (neg : Bool) : FVal :=
  decodeF .f32 (deliverF .f32 {} (addF .rne dot (if neg then negF x else x)).1).1

/-- The signed random projection over the elements, the generator stepping before each. -/
def project (s : Word) (dot : FVal) : List FVal → FVal
  | [] => dot
  | x :: xs =>
    let s := xorshift s
    project s (dotStep dot x (s.getLsbD 31)) xs

/-- One bit of a bucket number. -/
def hashBit (f : Family) (vec : List FVal) (t b : Nat) : Bool :=
  let s := f.seed ^^^ BitVec.ofNat 32 (t * 256 + b)
  let s : Word := if s = 0 then 0x9E3779B9 else s
  if f.kind then nonNegative (vec.getD ((xorshift s).toNat % f.d) .nan) else nonNegative (project s (.fin false 0 0) (vec.take f.d))

/-- The bucket number of sub-table t. -/
def bucketOf (f : Family) (vec : List FVal) (k t : Nat) : Nat := sumNat ((List.range k).map fun b => if hashBit f vec t b then 2 ^ b else 0)

/-! ### Vectors -/

/-- Formats of a key or query pattern (R491). -/
def keyFormat (q : Pattern) : Bool := q.fmt == 1 || (8 ≤ q.fmt && q.fmt ≤ 0xD)

/-- The first d elements of row ρ as patterns with the scale byte of each; 127 where there is none. -/
def State.elements (s : State) (core ctx : Nat) (q : Pattern) (keys : Option (List Byte)) (rho d : Nat) : Except EngStop (List (Nat × Nat)) :=
  let scaleAt := fun (i : Nat) => if q.sck = 0 then .ok 127 else (s.readPiece core ctx q.space (q.scaleAddr rho i) 1 none).map natOfBytes
  let bits : Except EngStop (List Nat) :=
    if q.bpp then
      (s.readPieces core ctx q.space 32 keys ((List.range ((d + 255) / 256 * q.p)).map (q.addr rho))).map fun p => (bppRow q.p d p)
    else (s.readPieces core ctx q.space q.unit keys ((List.range d).map (q.addr rho))).map (List.map natOfBytes)
  match bits with
  | .error e => .error e
  | .ok l => (l.zip (List.range d)).foldr (fun (v, i) acc =>
      match acc, scaleAt i with
      | .ok t, .ok x => .ok ((v, x) :: t)
      | .error e, _ => .error e
      | _, .error e => .error e) (.ok [])

/-- The exact value of an element with its scale (R124). -/
def elementValue (q : Pattern) (v : Nat × Nat) : FVal :=
  if q.bpp then intF (intOf q.p true v.1) ((v.2 : Int) - 127)
  else if q.ty.isInt then intF (intOf q.ty.bits q.ty.signed v.1) ((v.2 : Int) - 127)
  else decodeF q.ty v.1

/-- Elements as the bytes that a command carries, and back: four for the pattern, one for the scale. -/
def packElements (l : List (Nat × Nat)) : List Byte := l.flatMap fun e => bytesOfNat 4 e.1 ++ bytesOfNat 1 e.2
def unpackElements (l : List Byte) : List (Nat × Nat) := (chunks 5 l).map fun c => (natOfBytes (c.take 4), natOfBytes (c.drop 4))

/-! ### Tables and their storage (R491 to R493) -/

def State.tableDieOf (s : State) (core ctx rt : Nat) : Nat := ((s.die (dieOf core)).tableDie.get? (ctx * 16 + rt)).getD (dieOf core)
def State.table? (s : State) (die ctx rt : Nat) : Option Table := ((s.die die).tables.get? (ctx * 16 + rt)).filter Table.valid
def State.setTable (s : State) (die ctx rt : Nat) (t : Table) : State := s.modDie die fun d => { d with tables := d.tables.set (ctx * 16 + rt) t }
def State.family (s : State) (die ctx fam : Nat) : Family := ((s.die die).families.get? (ctx * 8 + fam)).getD {}

/-- A storage of a table: family, bucket bits, base, generation. -/
structure Storage where
  fam : Nat
  k : Nat
  base : Nat
  gen : Bool
deriving DecidableEq, Repr

def Table.current (t : Table) : Storage := ⟨t.fam, t.k, t.base.toNat, t.gen⟩
def Table.fresh (t : Table) : Storage := ⟨t.newFam, t.newK, t.newBase.toNat, !t.gen⟩
def Table.pattern (t : Table) : Pattern := Pattern.ofBits t.key

/-- An engine at work on an operation: its die, the command, the table. -/
structure Work3 where
  die : Nat
  cmd : Command
  table : Table
deriving DecidableEq, Repr

/-- The core that stands for the engine of a die. -/
def dieEngine (die : Nat) : Nat := 64 * die

def Work3.core (w : Work3) : Nat := dieEngine w.die
def Work3.space (w : Work3) : Nat := if w.table.sp then 1 else 0

/-- Bytes of one line, read by the engine. -/
def State.engineRead (s : State) (w : Work3) (addr n : Nat) : Except EngStop (List Byte × State) :=
  match s.readPiece w.core w.cmd.ctx w.space (addr % 2 ^ 48) n none with
  | .error e => .error e
  | .ok bs => .ok (bs, if w.table.sp then s else s.chargeVas w.cmd [addr % 2 ^ 48 / 64])

/-- Bytes of one line, written by the engine as one immediate write. -/
def State.engineWrite (s : State) (w : Work3) (addr : Nat) (bytes : List Byte) : Except EngStop State :=
  let va := addr % 2 ^ 48
  if w.table.sp then .ok (s.storeNear w.core w.cmd.ctx 1 va bytes)
  else
    match s.writeStop w.core w.cmd.ctx [(va, bytes)] with
    | some e => .error e
    | none => .ok ((s.storeGlobal w.cmd.ctx va bytes).chargeVas w.cmd [va / 64])

/-- n lines of empty slots from an address on. -/
def State.clearLines (s : State) (w : Work3) (addr : Nat) : Nat → Except EngStop State
  | 0 => .ok s
  | n + 1 =>
    match s.engineWrite w addr (List.replicate 64 0xFF) with
    | .error e => .error e
    | .ok s => s.clearLines w (addr + 64) n

/-- Bytes of a storage, all sub-tables. -/
def Table.storageBytes (t : Table) (k : Nat) : Nat := t.l * 2 ^ k * 4 * t.slots

/-- Every slot of a storage is emptied: whole lines, and what is left of the last. -/
def State.clearStorage (s : State) (w : Work3) (st : Storage) : Except EngStop State :=
  let n := w.table.storageBytes st.k
  match s.clearLines w st.base (n / 64) with
  | .error e => .error e
  | .ok s => if n % 64 = 0 then .ok s else s.engineWrite w (st.base + n / 64 * 64) (List.replicate (n % 64) 0xFF)

def noRow : Nat := 0xFFFFFFFF

def Table.bucketAddr (t : Table) (st : Storage) (sub b : Nat) : Nat := st.base + (sub * 2 ^ st.k + b) * 4 * t.slots

/-- The rows of a bucket in slot order. -/
def State.readBucket (s : State) (w : Work3) (st : Storage) (sub b : Nat) : Except EngStop (List Nat × State) :=
  (s.engineRead w (w.table.bucketAddr st sub b) (4 * w.table.slots)).map fun (bs, s) =>
    (((chunks 4 bs).map natOfBytes).filter (· != noRow), s)

def State.writeBucket (s : State) (w : Work3) (st : Storage) (sub b : Nat) (rows : List Nat) : Except EngStop State :=
  let all := rows ++ List.replicate (w.table.slots - rows.length) noRow
  s.engineWrite w (w.table.bucketAddr st sub b) ((all.take w.table.slots).flatMap (bytesOfNat 4))

def Table.overflowAddr (t : Table) (i : Nat) : Nat := t.ovbase.toNat + 8 * i

/-- The overflow entries from the first on, as numbers (R493). -/
def State.readOverflow (s : State) (w : Work3) : Nat → Except EngStop (List Nat × State)
  | 0 => .ok ([], s)
  | n + 1 =>
    match s.readOverflow w n with
    | .error e => .error e
    | .ok (l, s) => (s.engineRead w (w.table.overflowAddr n) 8).map fun (bs, s) => (l ++ [natOfBytes bs], s)

def ovRow (e : Nat) : Nat := e % 2 ^ 32
/-- An entry that holds a row of a bucket. -/
def ovFor (st : Storage) (sub b e : Nat) : Bool :=
  ovRow e != noRow && e / 2 ^ 32 % 8 == sub && e.testBit 35 == st.gen && e / 2 ^ 36 % 2 ^ 16 == b

/-- Empty the overflow entries that a test names. -/
def State.dropOverflow (s : State) (w : Work3) (p : Nat → Bool) : List (Nat × Nat) → Except EngStop State
  | [] => .ok s
  | (e, i) :: l =>
    if p e then
      match s.engineWrite w (w.table.overflowAddr i) (List.replicate 4 0xFF) with
      | .error x => .error x
      | .ok s => s.dropOverflow w p l
    else s.dropOverflow w p l

/-! ### Operations (R497 to R499) -/

/-- Row r enters bucket b of a sub-table; the answer is whether it stands there (R497). -/
def State.insertOne (s : State) (w : Work3) (st : Storage) (r sub b : Nat) : Except EngStop (Bool × State) :=
  match s.readBucket w st sub b with
  | .error e => .error e
  | .ok (rows, s) =>
    match s.readOverflow w w.table.ovcap with
    | .error e => .error e
    | .ok (ov, s) =>
      let put := fun (l : List Nat) => (s.writeBucket w st sub b l).map fun s => (true, s)
      if rows.contains r || ov.any (fun e => ovFor st sub b e && ovRow e == r) then .ok (true, s)
      else if rows.length < w.table.slots then put (rows ++ [r])
      else if w.table.pol = 1 then put (rows.drop 1 ++ [r])
      else
        match (if w.table.pol = 2 then ov.findIdx? fun e => ovRow e == noRow else none) with
        | none => .ok (false, s)
        | some i =>
          let e := r + 2 ^ 32 * sub + 2 ^ 35 * st.gen.toNat + 2 ^ 36 * b
          (s.engineWrite w (w.table.overflowAddr i) (bytesOfNat 8 e)).map fun s => (true, s)

/-- Row r enters each of the given sub-tables. -/
def State.insertRow (s : State) (w : Work3) (st : Storage) (r : Nat) : List (Nat × Nat) → Except EngStop (Bool × State)
  | [] => .ok (true, s)
  | (sub, b) :: l =>
    match s.insertOne w st r sub b with
    | .error e => .error e
    | .ok (x, s) => (s.insertRow w st r l).map fun (y, s) => (x && y, s)

/-- Row r leaves each of the given buckets and its overflow entries; the answer is whether it was found. -/
def State.deleteRow (s : State) (w : Work3) (st : Storage) (r : Nat) : List (Nat × Nat) → Except EngStop (Bool × State)
  | [] => .ok (false, s)
  | (sub, b) :: l =>
    match s.readBucket w st sub b with
    | .error e => .error e
    | .ok (rows, s) =>
      match s.readOverflow w w.table.ovcap with
      | .error e => .error e
      | .ok (ov, s) =>
        let mine := fun (e : Nat) => ovFor st sub b e && ovRow e == r
        match (if rows.contains r then s.writeBucket w st sub b (rows.filter (· != r)) else .ok s) with
        | .error e => .error e
        | .ok s =>
          match s.dropOverflow w mine (ov.zip (List.range ov.length)) with
          | .error e => .error e
          | .ok s => (s.deleteRow w st r l).map fun (y, s) => (rows.contains r || ov.any mine || y, s)

/-- The buckets of a vector, with their sub-tables. -/
def Table.buckets (t : Table) (f : Family) (k : Nat) (vec : List FVal) : List (Nat × Nat) := (List.range t.l).map fun i => (i, bucketOf f vec k i)

/-- The buckets of key row r in a storage (R491, R497), under the keys that the operation read at its firing (R469). -/
def State.keyBuckets (s : State) (w : Work3) (st : Storage) (r : Nat) : Except EngStop (List (Nat × Nat)) :=
  let q := w.table.pattern
  let f := s.family w.die w.cmd.ctx st.fam
  let keys := w.cmd.keyed.get? q.key
  if f.d = 0 || q.size 0 < f.d || (q.keyen && keys.isNone) then .error (.fails none 0)
  else (s.elements w.core w.cmd.ctx q (if q.keyen then keys else none) r f.d).map fun l => w.table.buckets f st.k (l.map (elementValue q))

/-- Is r a row of the table (R497)? -/
def Table.hasRow (t : Table) (r : Nat) : Bool := decide (r < t.pattern.rows) && r != noRow

/-- RTINS. -/
def State.opInsert (s : State) (w : Work3) (r : Nat) : Except EngStop (Bool × State) :=
  let st := if w.table.rh then w.table.fresh else w.table.current
  if !w.table.hasRow r then .error (.fails none 0)
  else
    match s.keyBuckets w st r with
    | .error e => .error e
    | .ok bs => s.insertRow w st r bs

/-- RTDEL. -/
def State.opDelete (s : State) (w : Work3) (r : Nat) : Except EngStop (Bool × State) :=
  if !w.table.hasRow r then .error (.fails none 0)
  else
    match s.keyBuckets w w.table.current r with
    | .error e => .error e
    | .ok bs =>
      match s.deleteRow w w.table.current r bs with
      | .error e => .error e
      | .ok (x, s) =>
        if !w.table.rh then .ok (x, s)
        else
          match s.keyBuckets w w.table.fresh r with
          | .error e => .error e
          | .ok bs => (s.deleteRow w w.table.fresh r bs).map fun (y, s) => (x || y, s)

/-- Candidates of one bucket: its slots, then its overflow entries. -/
def State.candidates (s : State) (w : Work3) (st : Storage) (ov : List Nat) (sub b : Nat) : Except EngStop (List Nat × State) :=
  (s.readBucket w st sub b).map fun (rows, s) => (rows ++ (ov.filter (ovFor st sub b)).map ovRow, s)

/-- Candidates of the sub-tables in the order of R498. -/
def State.gatherCandidates (s : State) (w : Work3) (ov : List Nat) : List (Storage × Nat × Nat) → Except EngStop (List Nat × State)
  | [] => .ok ([], s)
  | (st, sub, b) :: l =>
    match s.candidates w st ov sub b with
    | .error e => .error e
    | .ok (x, s) => (s.gatherCandidates w ov l).map fun (y, s) => (x ++ y, s)

/-- The buckets that a probe looks at, in the order of R498. -/
def State.probeOrder (s : State) (w : Work3) : List (Storage × Nat × Nat) :=
  let t := w.table
  let vec := (w.cmd.src.pattern?.map fun q => (unpackElements w.cmd.query).map (elementValue q)).getD []
  let old := t.buckets (s.family w.die w.cmd.ctx t.fam) t.k vec
  let new := t.buckets (s.family w.die w.cmd.ctx t.newFam) t.newK vec
  if t.rh then (new.zip old).flatMap fun (n, o) => (t.fresh, n.1, n.2) :: (if t.cursor ≤ o.2 then [(t.current, o.1, o.2)] else [])
  else old.map fun o => (t.current, o.1, o.2)

/-- RTPRB: the first rows found, each once, and whether there were more. -/
def State.opProbe (s : State) (w : Work3) (max : Nat) : Except EngStop ((List Nat × Bool) × State) :=
  let t := w.table
  let sent := (unpackElements w.cmd.query).length
  let f := s.family w.die w.cmd.ctx t.fam
  let g := s.family w.die w.cmd.ctx t.newFam
  if f.d = 0 || sent < f.d || (t.rh && (g.d = 0 || sent < g.d)) then .error (.fails none 0)
  else
    match s.readOverflow w t.ovcap with
    | .error e => .error e
    | .ok (ov, s) => (s.gatherCandidates w ov (s.probeOrder w)).map fun (l, s) => ((l.eraseDups.take max, decide (max < l.eraseDups.length)), s)

/-- Move rows into the new storage. -/
def State.moveRows (s : State) (w : Work3) : List Nat → Except EngStop State
  | [] => .ok s
  | r :: l =>
    match s.keyBuckets w w.table.fresh r with
    | .error e => .error e
    | .ok bs =>
      match s.insertRow w w.table.fresh r bs with
      | .error e => .error e
      | .ok (_, s) => s.moveRows w l

/-- Move old bucket b of the given sub-tables. -/
def State.moveBucket (s : State) (w : Work3) (b : Nat) : List Nat → Except EngStop State
  | [] => .ok s
  | sub :: l =>
    let st := w.table.current
    match s.readOverflow w w.table.ovcap with
    | .error e => .error e
    | .ok (ov, s) =>
      match s.candidates w st ov sub b with
      | .error e => .error e
      | .ok (rows, s) =>
        match s.moveRows w rows with
        | .error e => .error e
        | .ok s =>
          match s.writeBucket w st sub b [] with
          | .error e => .error e
          | .ok s =>
            match s.readOverflow w w.table.ovcap with
            | .error e => .error e
            | .ok (ov, s) =>
              match s.dropOverflow w (ovFor st sub b) (ov.zip (List.range ov.length)) with
              | .error e => .error e
              | .ok s => s.moveBucket w b l

/-- Move n old buckets from a cursor on. -/
def State.moveBuckets (s : State) (w : Work3) (cursor : Nat) : Nat → Except EngStop State
  | 0 => .ok s
  | n + 1 =>
    match s.moveBucket w cursor (List.range w.table.l) with
    | .error e => .error e
    | .ok s => s.moveBuckets w (cursor + 1) n

/-- The table once its cursor has moved; at the end the families swap (R499). -/
def Table.moved (t : Table) (n : Nat) : Table :=
  if t.cursor + n = 2 ^ t.k then { t with fam := t.newFam, k := t.newK, base := t.newBase, gen := !t.gen, rh := false, cursor := 0 }
  else { t with cursor := t.cursor + n }

/-- RTRHS. -/
def State.opRehash (s : State) (w : Work3) (rt : Nat) (x : Nat) : Except EngStop State :=
  let t := w.table
  if !t.rh then .error (.fails none 0)
  else
    let n := Nat.min x (2 ^ t.k - t.cursor)
    (s.moveBuckets w t.cursor n).map fun s => s.setTable w.die w.cmd.ctx rt (t.moved n)

/-! ### Definition (R491, R499) -/

/-- The table of an image, less its key pattern; none when a field is out of range or a reserved bit is set. -/
def Table.ofImage (v : BitVec 256) : Option Table :=
  let k := field v 4 5
  let sc := field v 12 2
  let pol := field v 14 2
  if !v.getLsbD 0 || k < 1 || 16 < k || sc = 3 || pol = 3 || field v 27 5 != 0 || field v 80 16 != 0 || field v 157 99 != 0
      || field v 32 48 % 64 != 0 || field v 96 48 % 8 != 0 || 4096 < field v 144 13 then none
  else some
    { valid := true, fam := field v 1 3, k, l := field v 9 3 + 1, slots := 4 * 2 ^ sc, pol, sp := v.getLsbD 16, die := field v 17 2
      base := v.extractLsb' 32 48, ovbase := v.extractLsb' 96 48, ovcap := field v 144 13 }

/-- An area of the die scratchpad lies inside the context's allocation there. -/
def State.dieArea (s : State) (die ctx addr n : Nat) : Bool := n == 0 || decide (addr + n ≤ ((s.die die).allocs.get? ctx).getD 0)

/-- RTDEF at its engine. -/
def State.opDefine (s : State) (die : Nat) (c : Command) (rt : Nat) (v : BitVec 256) : Except EngStop State :=
  match Table.ofImage v with
  | none => .error (.fails none 0)
  | some t =>
    let core := dieEngine die
    match s.readPiece core c.ctx 0 ((s.ptab c.ctx + 64 * field v 19 8) % 2 ^ 48) 64 none with
    | .error e => .error e
    | .ok bs =>
      let t := { t with key := BitVec.ofNat 512 (natOfBytes bs) }
      let d := (s.family die c.ctx t.fam).d
      let q := t.pattern
      if d = 0 || !q.ok || 1 < q.space || !keyFormat q || q.size 0 < d
          || (t.sp && !(s.dieArea die c.ctx t.base.toNat (t.storageBytes t.k) && s.dieArea die c.ctx t.ovbase.toNat (8 * t.ovcap))) then
        .error (.fails none 0)
      else
        let w : Work3 := ⟨die, c, t⟩
        match s.clearStorage w t.current with
        | .error e => .error e
        | .ok s => (s.dropOverflow w (fun _ => true) ((List.range t.ovcap).map fun i => (0, i))).map fun s =>
            (s.overtake core (·.isTableDie c.ctx rt)).setTable die c.ctx rt t

/-- RTDEF.rh at the table's engine: an incremental rehash begins. -/
def State.opRehashStart (s : State) (w : Work3) (rt : Nat) (v : BitVec 256) : Except EngStop State :=
  let fam := field v 1 3
  let k := field v 4 5
  let base := field v 32 48
  let d := (s.family w.die w.cmd.ctx fam).d
  let t := { w.table with newFam := fam, newK := k, newBase := v.extractLsb' 32 48, rh := true, cursor := 0 }
  if w.table.rh || k < 1 || 16 < k || base % 64 != 0 || d = 0 || w.table.pattern.size 0 < d
      || (t.sp && !s.dieArea w.die w.cmd.ctx base (t.storageBytes k)) then .error (.fails none 0)
  else
    let w := { w with table := t }
    match s.clearStorage w t.fresh with
    | .error e => .error e
    | .ok s =>
      match s.readOverflow w t.ovcap with
      | .error e => .error e
      | .ok (ov, s) =>
        (s.dropOverflow w (fun e => e.testBit 35 == t.fresh.gen) (ov.zip (List.range ov.length))).map fun s => s.setTable w.die w.cmd.ctx rt t

/-! ### Queueing and firing (R495, R496) -/

def Work.table? : Work → Option Nat
  | .probe rt _ _ _ | .insert rt _ _ | .delete rt _ _ | .rehash rt _ | .define rt _ _ => some rt
  | _ => none

/-- The lane is held until the engine replies (R491, R497). -/
def Work.held : Work → Bool
  | .insert _ _ pd | .delete _ _ pd => pd.isSome
  | .define _ _ _ => true
  | _ => false

/-- Queue an operation of a lane: a posted one lets it go on, the others hold it (R495, R497). -/
def State.enqueueOp (s : State) (r : Ref) (h : Hart) (c : Command) : State :=
  let s' := s.enqueue r h c
  if s'.cmdCount r = s.cmdCount r then s'
  else if c.work.held then s'.setHart r { h with ops := h.ops + 1, status := .acks 1 }
  else s'.modHart r fun h => { h with ops := h.ops + 1 }

/-- The largest D among the families that a table uses (R495). -/
def State.queryLength (s : State) (core ctx rt : Nat) : Nat :=
  let die := s.tableDieOf core ctx rt
  match s.table? die ctx rt with
  | none => 0
  | some t => Nat.max (s.family die ctx t.fam).d (if t.rh then (s.family die ctx t.newFam).d else 0)

/-- The elements that a probe sends: none when the query is too short (R495); an empty key slot fails it (R469). -/
def State.readQuery (s : State) (core : Nat) (c : Command) (rt : Nat) : Except EngStop (List Byte) :=
  match c.src.pattern? with
  | none => .ok []
  | some q =>
    let d := s.queryLength core c.ctx rt
    if q.size 0 < d then .ok []
    else
      match c.keysOf q with
      | .error e => .error e
      | .ok keys => (s.elements core c.ctx q keys 0 d).map packElements

/-- Lines of global memory that the first d elements of a pattern's row take. -/
def Pattern.rowLines (q : Pattern) (r d : Nat) : List Nat :=
  if q.space != 0 || q.size 0 < d then []
  else ((List.range (if q.bpp then (d + 255) / 256 * q.p else d)).flatMap fun i => [q.addr r i / 64, (q.addr r i + q.unit - 1) % 2 ^ 48 / 64]).eraseDups

/-- Lines of global memory that a query's first elements take. -/
def State.queryLines (s : State) (core : Nat) (c : Command) (rt : Nat) : List Nat :=
  (c.src.pattern?.map fun q => q.rowLines 0 (s.queryLength core c.ctx rt)).getD []

/-- The range of a probe's list (R495). -/
def Command.listRanges (c : Command) (core : Nat) : List Range :=
  match c.work with
  | .probe _ _ (some (v, _)) _ =>
    let b := Bolt.ofBits v
    if b.space = 0 then b.ranges c.id core c.ctx true
    else if b.extent = 0 then []
    else
      let key := fun (a : Nat) => nearKey core c.ctx 0 0 b.space a / 64
      [⟨c.id, some core, dieOf core, c.ctx, Nat.min (key b.base) (key (b.at (b.extent - 1) + 3)), Nat.max (key b.base) (key (b.at (b.extent - 1) + 3)), true, 0⟩]
  | _ => []

def State.retrievalFires (s : State) (core slot : Nat) (c : Command) : Bool :=
  match s.slot? core slot with
  | none => false
  | some q =>
    q.isHead c && c.waiting.isNone && s.hoopsReady core c.ctx [] c.dst.hoops && s.rangesFree (c.listRanges core)

/-- A fired probe reads its query from memory only, and waits for the fault service where a page is missing (R495, R379). -/
def State.takeQuery (s : State) (core slot rt : Nat) (c : Command) : State :=
  match s.readQuery core c rt with
  | .ok query => (s.chargeVas c (s.queryLines core c rt)).modCommand core slot c.id fun c => { c with query, unread := false }
  | .error (.page e va home) => s.commandWaits core slot c e va home false
  | .error (.fails _ _) | .error .moving => s

/-- Firing (R377, R469, R495). -/
def State.retrievalFire (s : State) (core slot : Nat) (c : Command) : State :=
  let keyed := s.ctxKeys c.ctx
  match c.work with
  | .probe rt _ _ _ =>
    let s := s.fireAll core slot c [] c.dst.hoops (c.listRanges core) fun c => { c with keyed, unread := true }
    (match s.findCommand c.id with
    | some (_, _, c) => s.takeQuery core slot rt c
    | none => s)
  | _ => s.fireAll core slot c [] [] [] fun c => { c with keyed }

/-- The lines of n bytes of a table's storage, where it lies in global memory. -/
def Table.lines (t : Table) (a n : Nat) : List Nat :=
  if t.sp then [] else (List.range ((a % 64 + n + 63) / 64)).map fun i => (a / 64 + i) % 2 ^ 42

def Table.bucketLines (t : Table) (st : Storage) (bs : List (Nat × Nat)) : List Nat :=
  bs.flatMap fun e => t.lines (t.bucketAddr st e.1 e.2) (4 * t.slots)

def Table.overflowLines (t : Table) : List Nat := t.lines t.ovbase.toNat (8 * t.ovcap)

/-- The lines that the engine of a table reads and writes for an operation, as the table stands when the operation is sent (R439):
key rows, buckets and the overflow area. -/
def State.opLines (s : State) (die : Nat) (c : Command) (rt : Nat) : List Nat × List Nat :=
  match c.work, s.table? die c.ctx rt with
  | .define _ v 0, _ =>
    (match Table.ofImage v with
    | some t => ([], t.lines t.base.toNat (t.storageBytes t.k) ++ t.overflowLines)
    | none => ([], []))
  | .define _ v 1, some t => (t.overflowLines, t.lines (field v 32 48) (t.storageBytes (field v 4 5)))
  | .insert _ r _, some t | .delete _ r _, some t =>
    let st := if t.rh then t.fresh else t.current
    let buckets := t.bucketLines st (((s.keyBuckets ⟨die, c, t⟩ st r.toNat).toOption).getD [])
    (t.pattern.rowLines r.toNat (s.family die c.ctx st.fam).d ++ buckets ++ t.overflowLines, buckets)
  | .rehash _ n, some t =>
    let from_ := (List.range (Nat.min n.toNat (2 ^ t.k - t.cursor))).flatMap fun i => (List.range t.l).map fun sub => (sub, t.cursor + i)
    (t.bucketLines t.current from_ ++ t.overflowLines, t.bucketLines t.current from_)
  | .probe _ _ _ _, some t => ((s.probeOrder ⟨die, c, t⟩).flatMap (fun e => t.bucketLines e.1 [e.2]) ++ t.overflowLines, [])
  | _, _ => ([], [])

/-- Operations that one core fires on one table arrive in firing order (R496). -/
def State.opArrives (s : State) (core slot : Nat) (c : Command) : Bool :=
  c.engine == .retrieval && c.fired && !c.applied && c.waiting.isNone && c.refused.isNone && s.hoopsOpen core c && !s.bulkOut (.command c.id)
    && !((((s.slot? core slot).map Slot.commands).getD []).any fun x =>
      x.engine == .retrieval && x.fired && !x.applied && decide (x.id < c.id) && x.work.table? == c.work.table?)

/-! ### Application, reply and refusal (R496, R501) -/

/-- An operation of a thread has been applied or refused: RTSYNC and stops that wait for it go on (R496, R500). -/
def State.opDone (s : State) (c : Command) : State :=
  match s.whereIs c.issuer.tid with
  | none => s
  | some r =>
    let s := s.modHart r fun h => { h with ops := h.ops - 1 }
    match s.hart? r with
    | none => s
    | some h =>
      match h.status with
      | .sync => if h.ops = 0 then s.goPast r else s
      | .settling _ => s.settle r
      | _ => s

/-- The count that a probe writes, under its done flag (R498). -/
def State.probeCount (s : State) (core : Nat) (c : Command) (d : Reg) (v : Nat) : State :=
  s.send core (s.homeId core) c.ctx c.launch c.left false 1 32
    (.result { ref := c.issuer, writes := [(d.toNat, BitVec.ofNat 64 v)], flag := c.flag })

/-- A refused operation (R501). -/
def State.refuseOp (s : State) (core slot : Nat) (c : Command) (addr : Option Nat) (space : Nat) : State :=
  let s := if c.applied then s else s.opDone c
  match c.work with
  | .probe _ d _ _ => (s.failCommand core slot c .retrievalFault addr space 0xFF).probeCount core c d 0
  | _ =>
    if c.work.held then
      let s := s.finish core slot c
      (s.release c.issuer).raise c.issuer { cause := .retrievalFault, addr := addr.map (BitVec.ofNat 48), space := BitVec.ofNat 3 space }
    else (s.finish core slot c).reportEngine core slot c .retrievalFault addr space

/-- A held lane receives its result, and goes on. -/
def State.replyOp (s : State) (core slot : Nat) (c : Command) (pd : Option (BitVec 3)) (v : Bool) : State :=
  let s := s.finish core slot c
  match pd with
  | none => s
  | some p => (s.modHart c.issuer fun h => h.setPred p v).ackOne c.issuer

/-- RTDEF and RTDEF.off write the table's die on every die's engine, and hold the lane for each (R491). -/
def State.tellDies (s : State) (core slot : Nat) (c : Command) (rt die : Nat) : State :=
  let s := (s.finish core slot c).modHart c.issuer fun h => { h with status := .acks dieCores.length }
  dieCores.foldl (fun s k => s.send k (s.homeId c.issuer.core) c.ctx c.launch c.left false 1 32 (.ack c.issuer (.tableDie c.ctx rt die))) s

/-- The die whose engine an operation is for (R491). -/
def State.opDie (s : State) (core : Nat) (c : Command) (rt : Nat) : Nat :=
  match c.work with
  | .define _ v 0 => field v 17 2
  | _ => s.tableDieOf core c.ctx rt

/-- What an operation would do if its engine applied it now. -/
def State.applyOp (s : State) (core slot : Nat) (c : Command) : Except EngStop State :=
  match c.work.table? with
  | none => .ok s
  | some rt =>
    let die := s.opDie core c rt
    let t? := s.table? die c.ctx rt
    match c.work, t? with
    | .define _ v 0, _ => (s.opDefine die c rt v).map fun s => (s.opDone c).tellDies core slot c rt die
    | .define _ _ 2, _ =>
      let s := match t? with
        | some t => s.setTable die c.ctx rt { t with valid := false }
        | none => s
      .ok ((s.opDone c).tellDies core slot c rt die)
    | _, none => .error (.fails none 0)
    | .define _ v _, some t =>
      (s.opRehashStart ⟨die, c, t⟩ rt v).map fun s => ((s.opDone c).finish core slot c).ackOne c.issuer
    | .insert _ r pd, some t => (s.opInsert ⟨die, c, t⟩ r.toNat).map fun (v, s) => (s.opDone c).replyOp core slot c pd v
    | .delete _ r pd, some t => (s.opDelete ⟨die, c, t⟩ r.toNat).map fun (v, s) => (s.opDone c).replyOp core slot c pd v
    | .rehash _ n, some t => (s.opRehash ⟨die, c, t⟩ rt n.toNat).map fun s => (s.opDone c).finish core slot c
    | .probe _ _ _ max, some t => (s.opProbe ⟨die, c, t⟩ max).map fun ((rows, more), s) =>
        (s.opDone c).modCommand core slot c.id fun c => { c with applied := true, found := rows.map (BitVec.ofNat 32), more }
    | _, _ => .ok s

/-- What an operation would do now: a probe whose query is still to be read reads it; else its engine applies it. -/
def State.tryOp (s : State) (core slot : Nat) (c : Command) : Except EngStop State :=
  match c.unread, c.work with
  | true, .probe rt _ _ _ => (s.readQuery core c rt).map fun _ => s.takeQuery core slot rt c
  | _, _ => ((s.serving (some c.id)).applyOp core slot c).map fun t => t.serving none

/-- An address of a range of the command on a page that began to move before the range was registered (R379): the transfer waits
for the range, so the command fails. -/
def State.movedRange (s : State) (c : Command) : Option Nat :=
  s.ranges.findSome? fun g =>
    if g.cmd = c.id && g.core.isNone then
      (s.moves.find? fun m => m.ctx == g.ctx && !m.transferred && decide (m.id < g.since) && decide (g.lo ≤ (m.va + m.size - 1) / 64)
        && decide (m.va / 64 ≤ g.hi)).map fun m => Nat.max (64 * g.lo) m.va
    else none

def execRetrievalOperationApply (id : Nat) (s : State) : Host.Outcome State Fault Refusal :=
  .next (match s.findCommand id with
  | none => s
  | some (core, slot, c) =>
    if !s.opArrives core slot c then s
    else
      match s.tryOp core slot c with
      | .ok s => s
      | .error (.page e va home) => s.commandWaits core slot c e va home false
      | .error .moving => (match s.movedRange c with
        | some a => s.refuseOp core slot c (some a) 0
        | none => s)
      | .error (.fails addr space) => s.refuseOp core slot c addr space)

/-- The words that a probe writes: the candidates, then 0xFFFF_FFFF up to its places. -/
def Command.places (c : Command) (max : Nat) : List (List Byte) :=
  (List.range max).map fun i => bytesOfNat 4 ((c.found[i]?).map BitVec.toNat |>.getD noRow)

/-- Places of a list as writes: near or global; an index beyond EXTENT is suppressed or fails. -/
def State.listWrites (s : State) (core ctx : Nat) (b : Bolt) : List (Nat × List Byte) → Except EngStop (List (Nat × List Byte))
  | [] => .ok []
  | (i, v) :: l =>
    match b.elem i with
    | .none => s.listWrites core ctx b l
    | .bad a => .error (.fails (some a) b.space)
    | .at a =>
      if b.space != 0 && s.nearEnd core ctx b.space a < a + 4 then .error (.fails (some a) b.space)
      else (s.listWrites core ctx b l).map fun t => (a, v) :: t

/-- A probe that has been applied retires (R498). -/
def State.probeRetire (s : State) (core slot : Nat) (c : Command) : Except (EngStop × Bool) State :=
  match c.work with
  | .probe _ d list max =>
    let words := c.places max
    let eff : Except EngStop Effect := match list with
      | none =>
        let e := (c.claims.head?.map fun q => (s.hoop core c.ctx q.hoop).ent).getD 4
        .ok { fills := [chunks e words.flatten], bytes := 4 * max }
      | some (v, start) =>
        let b := Bolt.ofBits v
        (s.listWrites core c.ctx b (words.mapIdx fun j w => (start + j, w))).map fun l =>
          if b.space = 0 then { glob := l, bytes := 4 * l.length } else { near := l.map fun e => (b.space, e.1, e.2), bytes := 4 * l.length }
    match eff with
    | .error e => .error (e, false)
    | .ok e =>
      match s.writeStop core c.ctx e.glob with
      | some x => .error (x, true)
      | none => .ok ((s.retire core slot c e).probeCount core c d (c.found.length + (if c.more then 2 ^ 31 else 0)))
  | _ => .ok s

/-! ### Issue -/

def execRtprb (g : Guard) (d : Reg) (rt : BitVec 4) (sh : Bool) (n : BitVec 5) (pat : BitVec 8) (a b : Src) (bolt : BitVec 6) (m : BitVec 12)
    (sl : BitVec 3) (s : State) : Host.Outcome State Fault Refusal :=
  .next (perLane g (outside fun r h s =>
    match s.patternRead r h pat.toNat with
    | (none, s) => s
    | (some v, s) =>
      let ctx := s.ctxOf r
      let src := EndPt.pat v ((h.src a).setWidth 48)
      let q := src.pattern?.getD (Pattern.ofBits 0)
      let ent := (s.hoop r.core ctx n.toNat).ent
      let max := if sh then m.toNat * ent / 4 else m.toNat
      let dst := if sh then EndPt.hoop n.toNat m.toNat else .empty
      let vb := s.boltBitsOf r h bolt
      let l := Bolt.ofBits vb
      let checks := s.hoopStops r.core ctx (dst.hoops.map Prod.fst) ++
        [(src.bad || !keyFormat q, stopOf .patternInvalid),
         (sh && (ent % 4 != 0 || decide (4096 < max)), stopOf .hoopFault),
         (s.hoopBad r.core ctx dst none, stopOf .hoopFault),
         (!sh && (l.esize != 2 || !Need.ok .store l.access), stopOf .patternInvalid),
         (s.keyBad ctx src, stopOf .keyInvalid)]
          ++ s.nearChecks r.core ctx [(src, false)] none
          ++ [(!sh && (l.malformed || decide (3 < l.space)), nearStop .bounds l.space l.base true)]
      match firstStop checks with
      | some stop => s.raise r stop
      | none =>
        let before := s.cmdCount r
        let s := s.enqueueOp r h
          { id := 0, engine := .retrieval, issuer := r, ctx := 0, src, dst, sl
            work := .probe rt.toNat d (if sh then none else some (vb, h.index b)) max }
        if s.cmdCount r = before then s
        else
          match s.cur.flag with
          | none => s
          | some f => s.modHart r fun h => h.setDone f (h.doneCount f + 1)) s)

/-- The predicate that a held RTINS or RTDEL writes; none for a posted one. -/
def heldPred (pd : BitVec 3) : Option (BitVec 3) := if pd = 7 then none else some pd

/-- Queue an operation that has no checks at issue. -/
def opInstr (g : Guard) (sl : BitVec 3) (work : Hart → Work) (s : State) : Host.Outcome State Fault Refusal :=
  .next (perLane g (outside fun r h s => s.enqueueOp r h { id := 0, engine := .retrieval, work := work h, issuer := r, ctx := 0, sl }) s)

def execRtins (g : Guard) (pd : BitVec 3) (rt : BitVec 4) (a : Src) (sl : BitVec 3) (s : State) : Host.Outcome State Fault Refusal :=
  opInstr g sl (fun h => .insert rt.toNat (BitVec.ofNat 32 (h.word a)) (heldPred pd)) s

def execRtdel (g : Guard) (pd : BitVec 3) (rt : BitVec 4) (a : Src) (sl : BitVec 3) (s : State) : Host.Outcome State Fault Refusal :=
  opInstr g sl (fun h => .delete rt.toNat (BitVec.ofNat 32 (h.word a)) (heldPred pd)) s

def execRtrhs (g : Guard) (rt : BitVec 4) (a : Src) (sl : BitVec 3) (s : State) : Host.Outcome State Fault Refusal :=
  opInstr g sl (fun h => .rehash rt.toNat (BitVec.ofNat 32 (h.word a))) s

def execRtsync (g : Guard) (s : State) : Host.Outcome State Fault Refusal :=
  .next (perLane g (outside fun r h s => if h.ops = 0 then s.goOn r else s.setHart r { h with status := .sync }) s)

/-- RTDEF of one lane with its image. -/
def State.defineLane (s : State) (r : Ref) (h : Hart) (rt : BitVec 4) (bolt : BitVec 6) (a : Src) (form : Nat) : State :=
  match s.image r h bolt a 32 with
  | (none, s) => s
  | (some bs, s) =>
    s.enqueueOp r h { id := 0, engine := .retrieval, work := .define rt.toNat (BitVec.ofNat 256 (natOfBytes bs)) form, issuer := r, ctx := 0 }

def execRtdef (g : Guard) (rt : BitVec 4) (bolt : BitVec 6) (a : Src) (s : State) : Host.Outcome State Fault Refusal :=
  .next (perLane g (outside fun r h s => s.defineLane r h rt bolt a 0) s)

def execRtdefRh (g : Guard) (rt : BitVec 4) (bolt : BitVec 6) (a : Src) (s : State) : Host.Outcome State Fault Refusal :=
  .next (perLane g (outside fun r h s => s.defineLane r h rt bolt a 1) s)

def execRtdefOff (g : Guard) (rt : BitVec 4) (s : State) : Host.Outcome State Fault Refusal :=
  opInstr g 0 (fun _ => .define rt.toNat 0 2) s

end Sys2Proof.Machine
end

