-- ==== Sys2Proof/Machine/Stitch.lean ====
section
/-! DEFINITION. The stitch array (R390 to R414) with its sums (R125 to R132), and the knots through which many threads issue one
command (R412, R413). -/

namespace Sys2Proof.Machine

/-! ### Banks (R390, R391, R403) -/

/-- Cell byte (k, x) of a bank. -/
def State.cellByte (s : State) (core bank k x : Nat) : Byte := Memory.get s.mem (bankKey core bank k x)

/-- Weight (k, n): a cell, or for BF16 the signed high byte of one cell and the low byte of the one a column group on. -/
def State.weightAt (s : State) (core bank : Nat) (t : Fmt) (k n : Nat) : Int :=
  let int8 := fun (b : Byte) => intOf 8 true b.toNat
  if t = .bf16 then
    let x := n / 64 * 128 + n % 64
    int8 (s.cellByte core bank k x) * 256 + (s.cellByte core bank k (x + 64)).toNat
  else int8 (s.cellByte core bank k n)

/-- A group of elements aligned at W bits: the integers, the scale exponent eG − W + 2, and whether it holds a NaN or an infinity
(R125, R126, R130). -/
def alignGroup (t : Fmt) (w : Nat) (bits : List Nat) : List Int × Int × Bool :=
  let vs := bits.map (decodeF t)
  let eG := groupExp t vs
  let bad := vs.any fun v => match v with
    | .fin _ _ _ => false
    | _ => true
  (vs.map fun v => (match v with
    | .fin neg m e => if m = 0 then 0 else signInt neg (alignMag t w eG m e)
    | _ => 0), eG - w + 2, bad)

/-- The 64 elements of a K-chain from a list of elements; those beyond its end are 0 (R395, R403). -/
def chainBits (l : List Nat) (c : Nat) : List Nat := (List.range 64).map fun j => l.getD (64 * c + j) 0

/-- What a TLDB puts into a bank: its state, and its cells row by row. -/
structure BankLoad where
  bank : Bank
  cells : List (List Byte)
deriving DecidableEq, Repr

def byteOfInt (v : Int) : Byte := BitVec.ofInt 8 v

/-- The bank that the elements of a pattern make; `sb` is the scale byte less 127. -/
def bankOf (q : Pattern) (source : BitVec 512) (off : BitVec 48) (sb : Int) (elems : List Nat) : BankLoad :=
  let t := q.ty
  let n := q.size 0
  let k := q.size 1
  let empty : Bank := { valid := true, fmt := t, kuse := k, nuse := n, sb, source, offset := off }
  if t = .i8 then
    { bank := empty
      cells := (List.range 256).map fun i => (List.range 768).map fun j => if i < k ∧ j < n then BitVec.ofNat 8 (elems.getD (i * n + j) 0) else 0 }
  else
    let column := fun (j : Nat) => (List.range k).map fun i => elems.getD (i * n + j) 0
    let w := if t = .bf16 then 16 else 8
    let groups := (List.range n).map fun j => (List.range 4).map fun c => alignGroup t w (chainBits (column j) c)
    let at_ := fun (i j : Nat) => (((groups.getD j []).getD (i / 64) ([], 0, false)).1).getD (i % 64) 0
    let cell := fun (i x : Nat) =>
      if t = .bf16 then
        let v := at_ i (x / 128 * 64 + x % 64)
        byteOfInt (if x / 64 % 2 = 0 then v.fdiv 256 else v)
      else byteOfInt (at_ i x)
    let exps := (List.range 4).flatMap fun c => (List.range n).map fun j =>
      let g := (groups.getD j []).getD c ([], 0, false)
      (c * 768 + j, (g.2.1, g.2.2))
    { bank := { empty with exps, sb := 0 }, cells := (List.range 256).map fun i => (List.range 768).map (cell i) }

/-- The cells and the state of a bank change together. -/
def State.setBank (s : State) (core n : Nat) (b : BankLoad) : State :=
  let mem := (b.cells.zip (List.range b.cells.length)).foldl (fun m e => Memory.setBytes m (bankKey core n e.2 0) e.1) s.mem
  { s with mem }.modCore core fun k => { k with banks := k.banks.setIfInBounds n b.bank }

/-- The scale of an operand as E − 127; 0 when it has none (R124, R128). -/
def State.scaleByte (s : State) (core ctx space addr : Nat) : Except EngStop Int :=
  (s.readPiece core ctx space addr 1 none).map fun bs => (natOfBytes bs : Int) - 127

/-- A bank read from a source pattern. -/
def State.readBank (s : State) (core ctx : Nat) (source : BitVec 512) (off : BitVec 48) (keys : Option (List Byte)) : Except EngStop BankLoad :=
  let q := (Pattern.ofBits source).shifted off.toNat
  match s.readPieces core ctx q.space q.unit keys q.addrs with
  | .error e => .error e
  | .ok pieces =>
    (if q.sck = 0 then .ok 0 else s.scaleByte core ctx q.space q.sbase).map fun sb => bankOf q source off sb (q.decode pieces)

/-- A parity reload reads the source and the key slot as they stand (R404, R469); its lines are charged to the command (R510). -/
def State.reloadBank (s : State) (core : Nat) (c : Command) (n : Nat) : Except EngStop State :=
  let b := (s.core core).banks.toList.getD n {}
  let q := (Pattern.ofBits b.source).shifted b.offset.toNat
  let keys := (s.keys.get? (keyIndex c.ctx q.key)).map fun k => k.k1 ++ k.k2
  if q.keyen && keys.isNone then .error (.fails (some q.base) 0)
  else (s.readBank core c.ctx b.source b.offset (if q.keyen then keys else none)).map fun l =>
    (s.setBank core n l).chargeVas c (EndPt.globalLines (.pat b.source b.offset))

/-! ### Tiles (R392) -/

def State.tileBits (s : State) (core tile m n : Nat) : Nat := Memory.getNat s.mem (tileKey core tile m n) 4
def State.tileStatus (s : State) (core tile : Nat) : Word := (s.core core).tileStatus.toList.getD tile 0
def State.setTileStatus (s : State) (core tile : Nat) (v : Word) : State :=
  s.modCore core fun k => { k with tileStatus := k.tileStatus.setIfInBounds tile v }

/-- IV, OF and NX of the tile for the flags of an accumulation step. -/
def tileFlags (f : FFlags) : Word := setBits (setBits (setBits 0 0 1 (f.getLsbD 0).toNat) 1 1 (f.getLsbD 2).toNat) 2 1 (f.getLsbD 4).toNat
/-- CIV, COF, CUF and CNX. -/
def convFlags (f : FFlags) : Word :=
  setBits (setBits (setBits (setBits 0 8 1 (f.getLsbD 0).toNat) 9 1 (f.getLsbD 2).toNat) 10 1 (f.getLsbD 3).toNat) 11 1 (f.getLsbD 4).toNat

/-! ### Sums (R128 to R132) -/

/-- A row of the A operand: its elements, its scale less 127, or a row of zeros. -/
structure ARow where
  elems : List Nat := []
  scale : Int := 0
  zero : Bool := false
deriving DecidableEq, Repr

/-- The integers of a K-chain of a row, its scale exponent, and whether its group holds a NaN or an infinity. -/
def ARow.chain (a : ARow) (q : Pattern) (planes c : Nat) : List Int × Int × Bool :=
  let bits := chainBits a.elems c
  if q.bpp then (bits.map fun v => (intOf q.p true v).fdiv (2 ^ (q.p - planes)) * 2 ^ (q.p - planes), a.scale, false)
  else alignGroup q.ty (if q.ty = .bf16 then 16 else if q.wide then 12 else 8) bits

/-- D of one macro column. -/
def dot (a b : List Int) : Int := (a.zip b).foldl (fun v e => v + e.1 * e.2) 0

/-- A sum of two FP32 patterns under RNE, with its flags (R131). -/
def add32 (a b : Nat) : Nat × FFlags :=
  let (v, f) := addF .rne (decodeF .f32 a) (decodeF .f32 b)
  let (r, g) := deliverF .f32 {} v
  (r, f ||| g)

/-- M of a macro from D (R128, R130). -/
def macroSum (bad : Bool) (d e : Int) : Nat × FFlags :=
  if bad then (Fmt.nanCode .f32, FFlags.IV) else roundTo .f32 {} (decide (d < 0)) d.natAbs e

/-- S of four macros in the order of R131. -/
def chainSum (m : List (Nat × FFlags)) : Nat × FFlags :=
  let at_ := fun (i : Nat) => m.getD i (0, 0)
  let (p, f) := add32 (at_ 0).1 (at_ 1).1
  let (q, g) := add32 (at_ 2).1 (at_ 3).1
  let (r, e) := add32 p q
  (r, m.foldl (fun x y => x ||| y.2) (f ||| g ||| e))

/-- Element (m, n) after a row: the new pattern, and what it adds to the status word. -/
def accumulate (acc int : Bool) (old : Nat) (ds : List Int) (ms : List (Nat × FFlags)) : Nat × Word :=
  if int then
    let v := ds.foldl (· + ·) 0
    let t := intOf 32 true old + v
    if acc then ((t % 2 ^ 32).toNat, if t < -(2 ^ 31) ∨ 2 ^ 31 - 1 < t then 8 else 0) else ((v % 2 ^ 32).toNat, 0)
  else
    let (v, f) := chainSum ms
    if acc then
      let (r, g) := add32 old v
      (r, tileFlags (f ||| g))
    else (v, tileFlags f)

/-- What a stream command does with its rows. -/
structure Stream where
  tile : Nat
  bank : Nat
  acc : Bool
  planes : Nat
  int : Bool
deriving DecidableEq, Repr

/-- An element of the first n of a row of a tile is poisoned (R470). -/
def State.tileRowBad (s : State) (core tile m n : Nat) : Bool := decide (0 < n) && s.poisoned (tileKey core tile m 0) (4 * n)

/-- Plane cycles that the array spends on a command (R395): event 0x14 and one unit of class 13 each (R507, R509). -/
def State.planeCycles (s : State) (c : Command) (n : Nat) : State :=
  (s.event c.issuer.core c.ctx 0x14 n c.system).charge c.issuer.core c.ctx c.launch 13 n

/-- Row m passes WR: columns 0 to NUSE − 1 of the tile, its MODE and sticky flags, and the plane cycles (R395, R396, R405). The
elements that it writes are whole words: their poison goes (R471). -/
def State.writeRow (s : State) (core : Nat) (c : Command) (t : Stream) (q : Pattern) (m : Nat) (a : ARow) : State :=
  let b := (s.core core).banks.toList.getD t.bank {}
  let chains := (List.range 4).map (a.chain q t.planes)
  let column := fun (n : Nat) =>
    let parts := (List.range 4).map fun k =>
      let (ints, eA, badA) := chains.getD k ([], 0, false)
      let d := if a.zero then 0 else dot ints ((List.range 64).map fun j => s.weightAt core t.bank b.fmt (64 * k + j) n)
      let (eB, badB) := (b.exps.get? (k * 768 + n)).getD (b.sb, false)
      (d, macroSum (!a.zero && (badA || badB)) d (eA + eB))
    accumulate t.acc t.int (s.tileBits core t.tile m n) (parts.map Prod.fst) (parts.map Prod.snd)
  let cols := (List.range b.nuse).map column
  let s := s.clearPoison (tileKey core t.tile m 0) (4 * b.nuse)
  let mem := Memory.setBytes s.mem (tileKey core t.tile m 0) (cols.flatMap fun e => bytesOfNat 4 e.1)
  let status := cols.foldl (fun v e => v ||| e.2) (setBits (s.tileStatus core t.tile) 4 1 t.int.toNat)
  ({ s with mem }.setTileStatus core t.tile status).planeCycles c t.planes

/-- The format of A pairs with that of the bank (R394). -/
def pairs (q : Pattern) (b : Bank) : Bool :=
  b.valid && (if q.bpp then b.fmt == .i8 else if q.ty = .bf16 then b.fmt == .bf16 else b.fmt == .e4m3 || b.fmt == .e5m2)

/-- Row ρ of a pattern: its elements up to K-row 255, and its scale. -/
def State.patternRow (s : State) (core : Nat) (c : Command) (q : Pattern) (rho : Nat) : Except EngStop ARow :=
  match c.keysOf q with
  | .error e => .error e
  | .ok keys =>
    let n := if q.bpp then q.pieces else Nat.min (q.size 0) 256
    match s.readPieces core c.ctx q.space q.unit keys ((List.range n).map (q.addr rho)) with
    | .error e => .error e
    | .ok pieces =>
      let elems := if q.bpp then bppRow q.p 256 pieces else pieces.map natOfBytes
      (if q.sck = 0 then .ok 0 else s.scaleByte core c.ctx q.space (q.scaleAddr rho 0)).map fun scale => { elems, scale }

/-- The bytes of an A row (R400). -/
def Pattern.rowBytes (q : Pattern) : Nat := if q.bpp then 32 * q.p + (if q.sck = 2 then 1 else 0) else if q.ty = .bf16 then 512 else 256

/-- Entry m of the taken entries as a row. -/
def State.hoopRow (s : State) (core : Nat) (c : Command) (q : Pattern) (m : Nat) : Except EngStop ARow :=
  match c.taken.head? with
  | none => .ok {}
  | some k =>
    let h := s.hoop core c.ctx k.hoop
    match s.readPiece core c.ctx 3 (h.entry (k.first + BitVec.ofNat 16 m)) q.rowBytes none with
    | .error e => .error e
    | .ok bs =>
      let elems := if q.bpp then bppRow q.p 256 (chunks 32 (bs.take (32 * q.p))) else (chunks q.unit bs).map natOfBytes
      (if q.sck = 0 then .ok 0
        else if q.sck = 1 then s.scaleByte core c.ctx q.space q.sbase
        else .ok (((bs.getD (32 * q.p) 0).toNat : Int) - 127)).map fun scale => { elems, scale }

/-- The indices of a bolt's list (R406). DESIGN CHOICE (log 71): a position beyond EXTENT reads as 0xFFFF_FFFF only with BTRAP = 0;
with BTRAP = 1 the command fails there, as an access of a thread faults (R315). -/
def State.listIndices (s : State) (core ctx : Nat) (b : Bolt) : List Nat → Except EngStop (List Nat)
  | [] => .ok []
  | i :: l =>
    let one : Except EngStop Nat := match b.elem i with
      | .none => .ok 0xFFFFFFFF
      | .bad a => .error (.fails (some a) b.space)
      | .at a =>
        if b.space != 0 && s.nearEnd core ctx b.space a < a + 4 then .error (.fails (some a) b.space)
        else (s.readPiece core ctx b.space a 4 none).map natOfBytes
    match one with
    | .error e => .error e
    | .ok v => (s.listIndices core ctx b l).map fun t => v :: t

/-- The rows that a stream reads: of the pattern by number, none for a row of zeros, or the entries of its hoop. -/
def State.streamList (s : State) (core : Nat) (c : Command) (q : Pattern) (rows : Nat) (gathered : Bool) (list : Option (BitVec 128 × Nat)) :
    Except EngStop (List (Option Nat)) :=
  let inside := fun (i : Nat) => if i < q.rows then some i else none
  if !gathered then .ok ((List.range rows).map some)
  else
    match list with
    | some (b, start) => (s.listIndices core c.ctx (Bolt.ofBits b) ((List.range rows).map fun i => start + i)).map (List.map inside)
    | none =>
      match c.taken.head? with
      | none => .ok []
      | some k => (s.readTaken core c.ctx k).map fun bs => (chunks 4 bs).map fun v => inside (natOfBytes v)

/-- Stream rows in order from row m on: the state after the rows that passed WR, how many did, and what stopped the next: its
operand, or a poisoned element that it is to be added to (R471). -/
def State.streamRows (s : State) (core : Nat) (c : Command) (t : Stream) (q : Pattern) (hoop : Bool) :
    Nat → List (Option Nat) → State × Nat × Option EngStop
  | _, [] => (s, 0, none)
  | m, r :: l =>
    let row : Except EngStop ARow := match r with
      | none => .ok { zero := true }
      | some i => if hoop then s.hoopRow core c q i else s.patternRow core c q i
    match row with
    | .error e => (s, 0, some e)
    | .ok a =>
      if t.acc && s.tileRowBad core t.tile m ((s.core core).banks.toList.getD t.bank {}).nuse then (s, 0, some (.fails none 0))
      else
      let (s', n, e) := (s.writeRow core c t q m a).streamRows core c t q hoop (m + 1) l
      (s', n + 1, e)

/-- A stream from its first row not yet written: the rows up to a limit pass WR. -/
def State.streamUpTo (s : State) (core : Nat) (c : Command) (limit : Nat) : State × Nat × Option EngStop :=
  match c.work, c.dst.pattern? with
  | .stream tile bank acc planes int rows gathered list, some q =>
    if !pairs q ((s.core core).banks.toList.getD bank {}) then (s, 0, some (.fails none 0))
    else
      (match s.streamList core c q rows gathered list with
      | .error e => (s, 0, some e)
      | .ok l =>
        s.streamRows core c { tile, bank, acc, planes, int } q (!gathered && c.src != .empty) c.rows ((l.take limit).drop c.rows))
  | _, _ => (s, 0, none)

/-- Lines of global memory that a stream reads, once each. -/
def State.streamLines (s : State) (core : Nat) (c : Command) : List Nat :=
  match c.work, c.dst.pattern? with
  | .stream _ _ _ _ _ rows gathered list, some q =>
    let named := match s.streamList core c q rows gathered list with
      | .ok l => l.filterMap id
      | .error _ => []
    let fromRows := if q.space != 0 || (!gathered && c.src != .empty) then []
      else named.flatMap fun i => (List.range q.pieces).flatMap fun j => [q.addr i j / 64, (q.addr i j + q.unit - 1) % 2 ^ 48 / 64]
    let fromList := match list with
      | some (b, start) => if (Bolt.ofBits b).space = 0 then (Bolt.ofBits b).elemLines ((List.range rows).map fun i => start + i) else []
      | none => []
    (fromRows ++ fromList).eraseDups
  | _, _ => []

/-! ### TSTA (R409, R119) -/

/-- A tile's row converted for its destination: the elements with their flags, and GT after the row. -/
def tstaRow (q : Pattern) (mode : Bool) (scale e : Int) (gt : Word) (row : List Nat) : List (Nat × FFlags) × Word :=
  let c : Conv := { df := q.ty, sf := if mode then .i32 else .f32, planes := q.p, rm := q.round, sat := q.sat, quant := true, scaled := true }
  let n := if mode then scale - e else 127 - e
  let draws := q.round == .rsr
  let word := fun (i : Nat) => if draws then wordBits (laneWord (xorshiftN (i / 64 + 1) gt) (i % 64)) else 0
  (row.mapIdx fun i v => c.element n (word i) v, if draws then xorshiftN ((row.length + 63) / 64) gt else gt)

/-- The rows of a tile converted one after another. -/
def State.tstaRows (s : State) (core tile : Nat) (q : Pattern) (scale e : Int) (gt : Word) (rows : Nat) : List (List (Nat × FFlags)) × Word :=
  let mode := (s.tileStatus core tile).getLsbD 4
  (List.range rows).foldl (fun (acc : List (List (Nat × FFlags)) × Word) m =>
    let (l, g) := tstaRow q mode scale e acc.2 ((List.range (q.size 0)).map (s.tileBits core tile m))
    (acc.1 ++ [l], g)) ([], gt)

/-- The pieces of converted rows. -/
def Pattern.encodeRows (q : Pattern) (rows : List (List Nat)) : List (List Byte) :=
  rows.flatMap fun l => if q.bpp then bppPlanes q.p q.blocks l else l.map (bytesOfNat q.unit)

/-- What a TSTA writes, the tile's status after it, and GT; a poisoned element that it reads makes it fail (R471). -/
def State.tstaEffect (s : State) (core slot : Nat) (c : Command) (tile : Nat) (scale : Word) (rows : Nat) : Except EngStop (Effect × Word) :=
  match (match c.dst with
    | .pat _ _ => c.dst.pattern?
    | _ => c.src.pattern?) with
  | none => .ok ({}, s.tileStatus core tile)
  | some q =>
    if (List.range rows).any fun m => s.tileRowBad core tile m (q.size 0) then .error (.fails none 0)
    else
    match (if q.sck = 0 then .ok 0 else s.scaleByte core c.ctx q.space q.sbase) with
    | .error e => .error e
    | .ok e =>
      let held := ((s.slot? core slot).map Slot.gt).getD 0
      let start : Word := if q.seeden then (if q.seed = 0 then 0x9E3779B9 else q.seed) else held
      let (rs, g) := s.tstaRows core tile q ((field scale 0 8 : Nat) : Int) (e + 127) start rows
      let status := rs.foldl (fun v l => l.foldl (fun v x => v ||| convFlags x.2) v) (s.tileStatus core tile)
      let elems := rs.map (List.map Prod.fst)
      let gt := if q.seeden || q.round == .rsr then some g else none
      match c.dst with
      | .hoop _ _ =>
        let entries := elems.map fun l => (q.encodeRows [l]).flatten
        .ok ({ fills := [entries], bytes := sumNat (entries.map List.length), gt }, status)
      | _ =>
        match c.keysOf q with
        | .error e => .error e
        | .ok keys =>
          match (if q.keyen then (s.readTile core c q).map (fun l => q.addrs.zip l) else .ok []) with
          | .error e => .error e
          | .ok old => .ok ({ q.writes c.ctx keys (q.encodeRows elems) old with gt }, status)

/-! ### The paths (R401) -/

/-- The path of a command (0 load, 1 stream, 2 output), with the bank and the tile that it names. -/
def Work.path : Work → Nat × Option Nat × Option Nat
  | .loadBank b => (0, some b, none)
  | .stream t b _ _ _ _ _ _ => (1, some b, some t)
  | .zeroTile t | .storeTile t _ _ | .storeStatus t => (2, none, some t)
  | _ => (3, none, none)

def State.stitchCommands (s : State) (core : Nat) : List (Nat × Slot × Command) :=
  (s.core core).slots.flatMap fun (n, q) => (q.commands.filter fun c => c.engine == .stitch).map fun c => (n, q, c)

/-- May two commands not be fired together? -/
def Work.blocks (a b : Work) : Bool :=
  let (p, bankA, tileA) := a.path
  let (q, bankB, tileB) := b.path
  p == q || (p + q == 1 && bankA == bankB) || (p + q == 3 && tileA == tileB)

/-- The ranges that a stitch-array command registers when it fires. -/
def Command.stitchRanges (c : Command) (core : Nat) : List Range :=
  match c.work with
  | .stream _ _ _ _ _ _ gathered _ => if !gathered && c.src != .empty then [] else c.dst.ranges c.id core c.ctx false
  | .loadBank _ => c.src.ranges c.id core c.ctx false
  | .storeTile _ _ _ | .storeStatus _ => c.dst.ranges c.id core c.ctx true
  | _ => []

/-- The conditions of R376 and R401 on one command; the reload of a bank goes ahead of each TLDB that waits (R404). -/
def State.stitchCan (s : State) (core : Nat) (q : Slot) (c : Command) : Bool :=
  q.isHead c && s.hoopsReady core c.ctx c.src.hoops c.dst.hoops && s.rangesFree (c.stitchRanges core)
    && (s.stitchCommands core).all fun x => !x.2.2.fired || !(c.work.blocks x.2.2.work || (x.2.2.reload && c.work.path.1 == 0))

/-- Of the heads that could fire on one path, the one with the least remaining slack fires, then the earliest issued. -/
def State.stitchFires (s : State) (core slot : Nat) (c : Command) : Bool :=
  match s.slot? core slot with
  | none => false
  | some q =>
    let rank := fun (q : Slot) (x : Command) => ((q.slackTab.toList.getD x.sl.toNat 0).toNat, x.id)
    let before := fun (a b : Nat × Nat) => decide (a.1 < b.1) || (a.1 == b.1 && decide (a.2 < b.2))
    s.stitchCan core q c && (s.stitchCommands core).all fun (_, p, x) =>
      x.id == c.id || x.work.path.1 != c.work.path.1 || !s.stitchCan core p x || !before (rank p x) (rank q c)

def State.stitchFire (s : State) (core slot : Nat) (c : Command) : State :=
  s.fireAll core slot c c.src.hoops c.dst.hoops (c.stitchRanges core) fun c => { c with keyed := s.readKeys c.ctx [c.src, c.dst] }

/-! ### Retirement and failure (R378, R405, R407) -/

/-- Retirement with a write of near or global memory, whose pages are checked first (R379). -/
def State.retireWrites (s : State) (core slot : Nat) (c : Command) (e : Effect) : Except (EngStop × Bool) State :=
  match s.writeStop core c.ctx e.glob with
  | some x => .error (x, true)
  | none => .ok (s.retire core slot c e)

/-- A fired stitch-array command retires, or meets a stop. -/
def State.stitchRetire (s : State) (core slot : Nat) (c : Command) : Except (EngStop × Bool) State :=
  match c.work with
  | .loadBank n =>
    match c.src with
    | .pat source off =>
      let q := (Pattern.ofBits source).shifted off.toNat
      match c.keysOf q with
      | .error e => .error (e, false)
      | .ok keys =>
        (match s.readBank core c.ctx source off keys with
        | .error e => .error (e, false)
        | .ok l => .ok ((s.setBank core n l).retire core slot c { bytes := q.count * q.unit, reads := c.src.globalLines }))
    | _ => .ok (s.retire core slot c {})
  | .stream _ bank _ _ _ rows _ _ =>
    match (if c.reload then s.reloadBank core c bank else .ok s) with
    | .error e => .error (e, false)
    | .ok s =>
      match s.streamUpTo core c rows with
      | (_, _, some e) => .error (e, false)
      | (s', _, none) =>
        .ok (s'.retire core slot c { bytes := rows * ((s.core core).banks.toList.getD bank {}).nuse * 4, reads := s.streamLines core c })
  | .zeroTile t =>
    let s := (s.clearStore (tileKey core t 0 0) 196608).setTileStatus core t 0
    .ok (s.retire core slot c { bytes := 196608 })
  | .storeTile t scale rows =>
    match s.tstaEffect core slot c t scale rows with
    | .error e => .error (e, false)
    | .ok (e, status) => (s.setTileStatus core t status).retireWrites core slot c e
  | .storeStatus t =>
    let v := s.tileStatus core t
    let base := (c.dst.pattern?.map Pattern.base).getD 0
    .ok ((s.setTileStatus core t (v &&& 0x10)).retire core slot c { near := [(3, base, bytesOfNat 4 v.toNat)], bytes := 4 })
  | _ => .ok s

/-- The tile that a command names. -/
def Work.tile? (w : Work) : Option Nat := w.path.2.2

/-- A fired stitch-array command fails: rows that have passed WR stay, and FAIL is set. How many had passed is open. -/
def State.stitchFail (s : State) (core slot : Nat) (c : Command) (addr : Option Nat) (space : Nat) : State :=
  let s := match c.work with
    | .stream _ _ _ _ _ rows _ _ =>
      if c.reload then s
      else
        let n := (s.streamUpTo core c rows).2.1
        if n = 0 then s else (s.streamUpTo core c (c.rows + Config.choice s.free % (n + 1))).1.spend
    | _ => s
  let s := match c.work.tile? with
    | some t => s.setTileStatus core t (setBits (s.tileStatus core t) 6 1 1)
    | none => s
  s.failCommand core slot c .engineFault addr space

/-- A parity error is found in a row of a fired stream: the rows before it keep their results, the plane cycles of the row in
flight have been spent, and the bank is reloaded (R404). The plane in which it is found is open. -/
def execStitchParityReload (id row : Nat) (s : State) : Host.Outcome State Fault Refusal :=
  .next (match s.findCommand id with
  | none => s
  | some (core, slot, c) =>
    match c.work with
    | .stream tile bank _ planes _ rows _ _ =>
      if !c.fired || c.waiting.isSome || c.refused.isSome || c.reload || row < c.rows || rows ≤ row then s
      else
        match s.streamUpTo core c row with
        | (_, _, some _) => s
        | (s, _, none) =>
          let s := s.setTileStatus core tile (setBits (s.tileStatus core tile) 5 1 1)
          let s := (s.event c.issuer.core c.ctx 0x16 1 c.system).spend.planeCycles c (1 + Config.choice s.free % Nat.max planes 1)
          match s.reloadBank core c bank with
          | .ok s => s.modCommand core slot id fun c => { c with rows := row }
          | .error _ => s.modCommand core slot id fun c => { c with rows := row, reload := true }
    | _ => s)

/-! ### Issue (R400, R406, R408) -/

/-- The link object of `.lk`: offset and generation (R399). -/
def Hart.link (h : Hart) (c : Src) : Nat × Nat :=
  let v := h.src64 c
  (if h.isBobbin then field v 0 21 else field v 0 32, field v 32 16)

/-- Under `.lk` the issue is a transaction on the link object: the lane sleeps while its GEN is the link generation (R408). -/
def linked (lk : Bool) (c : Src) (f : Ref → Hart → State → State) (r : Ref) (h : Hart) (s : State) : State × List Line :=
  if h.tx.depth != 0 then (s.txAbort r .nonlocal 0, [])
  else if !lk then (f r h s, [])
  else
    let ctx := s.ctxOf r
    let (off, gen) := h.link c
    let key := coreKey r.core ctx off
    if off % 16 != 0 then (s.raise r (nearStop .misaligned 3 off false), [])
    else if s.nearEnd r.core ctx 3 off < off + 16 then (s.raise r (nearStop .bounds 3 off false), [])
    else if s.scored key then (s.holdScored r h, [])
    else if s.poisoned key 16 then (s.raise r (nearStop .eccUncorrected 3 off false), [])
    else if (s.barrierAt key).gen = gen then (s, [⟨key / 64, off / 64, 3, ctx⟩])
    else (f r h s, [])

/-- The signal object of `.sg`. -/
def Hart.signal (h : Hart) (sg : Bool) (d : Reg) : Option (Nat × Nat) := if sg then some (3, h.index (.reg d)) else none

/-- A tile or bank that is not reserved to the context (R393). -/
def State.foreign (s : State) (core ctx : Nat) (tile bank : Option Nat) : Bool :=
  let a := ((s.core core).allocs.get? ctx).getD {}
  (tile.map fun t => !a.tiles.getLsbD t).getD false || (bank.map fun b => !a.banks.getLsbD b).getD false

/-- Scale bytes in a near memory beyond the allocation. -/
def State.scaleOut (s : State) (core ctx : Nat) (q : Pattern) : Bool :=
  q.space != 0 && q.sck != 0 && (let last := if q.sck = 1 then q.sbase else q.scaleAddr (q.rows - 1) (q.size 0 - 1)
    decide (s.nearEnd core ctx q.space q.sbase ≤ q.sbase) || decide (s.nearEnd core ctx q.space last ≤ last))

/-- The checks that the commands share, in the order of R374. -/
def State.stitchChecks (s : State) (core ctx : Nat) (hoop : Bool) (pat : EndPt) (bad isEnd write : Bool) (sg : Option (Nat × Nat))
    (foreign : Bool) : List (Bool × Stop) :=
  let q := pat.pattern?.getD (Pattern.ofBits 0)
  [(hoop, stopOf .hoopFault), (pat.bad || bad, stopOf .patternInvalid), (s.keyBad ctx pat, stopOf .keyInvalid)]
    ++ s.nearChecks core ctx (if isEnd then [(pat, write)] else []) sg
    ++ [(s.scaleOut core ctx q, nearStop .bounds q.space q.sbase false), (foreign, stopOf .engineFault)]

/-- The pattern of a command, as the core reads its record. -/
def State.patternOf (s : State) (r : Ref) (h : Hart) (pat : BitVec 8) (off : Option Src) : Option EndPt × State :=
  match s.patternRead r h pat.toNat with
  | (none, s) => (none, s)
  | (some v, s) => (some (.pat v ((off.map fun x => (h.src x).setWidth 48).getD 0)), s)

/-- TLDB of one lane (R403). -/
def State.tldbLane (s : State) (r : Ref) (h : Hart) (bank : BitVec 2) (pat : BitVec 8) (a : Src) (sg : Bool) (d : Reg) (sl : BitVec 3) : State :=
  match s.patternOf r h pat (some a) with
  | (none, s) => s
  | (some e, s) =>
    let q := e.pattern?.getD (Pattern.ofBits 0)
    let ctx := s.ctxOf r
    let wide := if q.ty = .bf16 then 384 else 768
    let bad := !(q.fmt == 0x1 || q.fmt == 0xA || q.fmt == 0xB || q.fmt == 0xC) || q.size 2 != 1 || q.size 3 != 1 || decide (wide < q.size 0)
      || decide (256 < q.size 1) || q.sck == 2
    let sig := h.signal sg d
    s.issueCommand r h (s.stitchChecks r.core ctx false e bad true false sig (s.foreign r.core ctx none (some bank.toNat)))
      { id := 0, engine := .stitch, work := .loadBank bank.toNat, issuer := r, ctx := 0, src := e, barrier := sig, sl }

/-- What R394 and R400 refuse of an A pattern. -/
def streamBad (q : Pattern) (kp : Nat) (int : Bool) : Bool :=
  !(q.fmt == 0xA || q.fmt == 0xB || q.fmt == 0xC || q.bpp) || (!q.bpp && (q.sck != 0 || kp != 0 || int)) || (q.bpp && (q.size 0 != 256 || decide (q.p < kp)))

/-- Planes of a row (R394). -/
def Pattern.planes (q : Pattern) (kp : Nat) : Nat := if q.bpp then (if kp = 0 then q.p else kp) else if q.ty = .bf16 then 16 else if q.wide then 12 else 8

/-- TMMA of one lane (R405, R406). -/
def State.tmmaLane (s : State) (r : Ref) (h : Hart) (acc tile : Bool) (bank : BitVec 2) (sh : Bool) (kp : BitVec 3) (int : Bool) (pat : BitVec 8)
    (n : BitVec 5) (a : Src) (m : BitVec 12) (sg : Bool) (d : Reg) (sl : BitVec 3) : State :=
  match s.patternOf r h pat (if sh then none else some a) with
  | (none, s) => s
  | (some e, s) =>
    let q := e.pattern?.getD (Pattern.ofBits 0)
    let ctx := s.ctxOf r
    let src := if sh then EndPt.hoop n.toNat m.toNat else .empty
    let hoop := sh && (s.hoopBad r.core ctx src none || ((Pattern.ok q) && decide ((s.hoop r.core ctx n.toNat).ent < q.rowBytes)))
    let bad := streamBad q kp.toNat int || (!sh && decide (q.rows < m.toNat))
    let sig := h.signal sg d
    s.issueCommand r h (s.stitchChecks r.core ctx hoop e bad (!sh) false sig (s.foreign r.core ctx (some tile.toNat) (some bank.toNat)))
      { id := 0, engine := .stitch, work := .stream tile.toNat bank.toNat acc (q.planes kp.toNat) int m.toNat false none, issuer := r, ctx := 0
        src, dst := e, barrier := sig, sl }

/-- TMMAG of one lane (R406). -/
def State.tmmagLane (s : State) (r : Ref) (h : Hart) (acc tile : Bool) (bank : BitVec 2) (sh : Bool) (kp : BitVec 3) (int : Bool) (pat : BitVec 8)
    (n : BitVec 5) (bolt : BitVec 6) (a b : Src) (m : BitVec 12) (sg : Bool) (d : Reg) (sl : BitVec 3) : State :=
  match s.patternOf r h pat (some a) with
  | (none, s) => s
  | (some e, s) =>
    let q := e.pattern?.getD (Pattern.ofBits 0)
    let ctx := s.ctxOf r
    let src := if sh then EndPt.hoop n.toNat m.toNat else .empty
    let rows := if sh then m.toNat * (s.hoop r.core ctx n.toNat).ent / 4 else m.toNat
    let hoop := sh && (s.hoopBad r.core ctx src none || decide (64 < rows))
    let v := s.boltBitsOf r h bolt
    let l := Bolt.ofBits v
    let sig := h.signal sg d
    let listBad := !sh && (l.malformed || decide (3 < l.space) || !Need.ok .load l.access)
    let checks := s.stitchChecks r.core ctx hoop e (streamBad q kp.toNat int || (!sh && l.esize != 2)) true false sig false
    s.issueCommand r h (checks ++ [(listBad, nearStop .bounds l.space l.base false),
        (s.foreign r.core ctx (some tile.toNat) (some bank.toNat), stopOf .engineFault)])
      { id := 0, engine := .stitch, issuer := r, ctx := 0, src, dst := e, barrier := sig, sl
        work := .stream tile.toNat bank.toNat acc (q.planes kp.toNat) int rows true (if sh then none else some (v, h.index b)) }

/-- TZERO of one lane (R407). -/
def State.tzeroLane (s : State) (r : Ref) (h : Hart) (tile sg : Bool) (d : Reg) (sl : BitVec 3) : State :=
  let ctx := s.ctxOf r
  let sig := h.signal sg d
  s.issueCommand r h (s.nearChecks r.core ctx [] sig ++ [(s.foreign r.core ctx (some tile.toNat) none, stopOf .engineFault)])
    { id := 0, engine := .stitch, work := .zeroTile tile.toNat, issuer := r, ctx := 0, barrier := sig, sl }

/-- TSTA of one lane (R409). -/
def State.tstaLane (s : State) (r : Ref) (h : Hart) (tile sh : Bool) (pat : BitVec 8) (n : BitVec 5) (a b : Src) (m : BitVec 12) (sg : Bool)
    (d : Reg) (sl : BitVec 3) : State :=
  match s.patternOf r h pat (if sh then none else some a) with
  | (none, s) => s
  | (some e, s) =>
    let q := e.pattern?.getD (Pattern.ofBits 0)
    let ctx := s.ctxOf r
    let dst := if sh then EndPt.hoop n.toNat m.toNat else e
    let row := if q.bpp then 32 * q.pieces else q.size 0 * q.unit
    let hoop := sh && (s.hoopBad r.core ctx dst none || ((Pattern.ok q) && decide ((s.hoop r.core ctx n.toNat).ent < row)))
    let bad := decide (768 < q.size 0) || q.sck == 2 || (!sh && decide (q.rows < m.toNat))
    let sig := h.signal sg d
    s.issueCommand r h (s.stitchChecks r.core ctx hoop e bad (!sh) true sig (s.foreign r.core ctx (some tile.toNat) none))
      { id := 0, engine := .stitch, work := .storeTile tile.toNat (BitVec.ofNat 32 (h.word b)) m.toNat, issuer := r, ctx := 0
        src := if sh then e else .empty, dst, barrier := sig, sl }

/-- TSTA.st of one lane (R410). -/
def State.tstaStLane (s : State) (r : Ref) (h : Hart) (tile : Bool) (pat : BitVec 8) (a : Src) (sg : Bool) (d : Reg) (sl : BitVec 3) : State :=
  match s.patternOf r h pat (some a) with
  | (none, s) => s
  | (some e, s) =>
    let q := e.pattern?.getD (Pattern.ofBits 0)
    let ctx := s.ctxOf r
    let sig := h.signal sg d
    s.issueCommand r h
      (s.stitchChecks r.core ctx false e (q.fmt != 4 || q.space != 3) true true sig (s.foreign r.core ctx (some tile.toNat) none))
      { id := 0, engine := .stitch, work := .storeStatus tile.toNat, issuer := r, ctx := 0, dst := e, barrier := sig, sl }

def execTldb (g : Guard) (bank : BitVec 2) (pat : BitVec 8) (a : Src) (sg lk : Bool) (d : Reg) (c : Src) (sl : BitVec 3) (s : State) :
    Host.Outcome State Fault Refusal :=
  .next (blockLanes g (linked lk c fun r h s => s.tldbLane r h bank pat a sg d sl) s)

def execTmma (g : Guard) (acc tile : Bool) (bank : BitVec 2) (sh : Bool) (kp : BitVec 3) (int : Bool) (pat : BitVec 8) (n : BitVec 5) (a : Src)
    (m : BitVec 12) (sg lk : Bool) (d : Reg) (c : Src) (sl : BitVec 3) (s : State) : Host.Outcome State Fault Refusal :=
  .next (blockLanes g (linked lk c fun r h s => s.tmmaLane r h acc tile bank sh kp int pat n a m sg d sl) s)

def execTmmag (g : Guard) (acc tile : Bool) (bank : BitVec 2) (sh : Bool) (kp : BitVec 3) (int : Bool) (pat : BitVec 8) (n : BitVec 5)
    (bolt : BitVec 6) (a b : Src) (m : BitVec 12) (sg lk : Bool) (d : Reg) (c : Src) (sl : BitVec 3) (s : State) :
    Host.Outcome State Fault Refusal :=
  .next (blockLanes g (linked lk c fun r h s => s.tmmagLane r h acc tile bank sh kp int pat n bolt a b m sg d sl) s)

def execTzero (g : Guard) (tile sg lk : Bool) (d : Reg) (c : Src) (sl : BitVec 3) (s : State) : Host.Outcome State Fault Refusal :=
  .next (blockLanes g (linked lk c fun r h s => s.tzeroLane r h tile sg d sl) s)

def execTsta (g : Guard) (tile sh : Bool) (pat : BitVec 8) (n : BitVec 5) (a b : Src) (m : BitVec 12) (sg lk : Bool) (d : Reg) (c : Src)
    (sl : BitVec 3) (s : State) : Host.Outcome State Fault Refusal :=
  .next (blockLanes g (linked lk c fun r h s => s.tstaLane r h tile sh pat n a b m sg d sl) s)

def execTstaSt (g : Guard) (tile : Bool) (pat : BitVec 8) (a : Src) (sg lk : Bool) (d : Reg) (c : Src) (sl : BitVec 3) (s : State) :
    Host.Outcome State Fault Refusal :=
  .next (blockLanes g (linked lk c fun r h s => s.tstaStLane r h tile pat a sg d sl) s)

/-! ### Knots (R412, R413) -/

/-- The fields of a template as those of an instruction's words; none when a reserved bit is set or the opcode is none of the
list. -/
def templateRaw (v : BitVec 128) : Option Raw :=
  let op := field v 0 8
  if field v 58 6 != 0 || field v 96 32 != 0 || !((0xC0 ≤ op && op ≤ 0xC5) || (0xC8 ≤ op && op ≤ 0xCC)) then none
  else some
    { op := v.extractLsb' 0 8, d := v.extractLsb' 8 6, a := v.extractLsb' 14 6, b := v.extractLsb' 20 6, c := v.extractLsb' 26 6
      mod := v.extractLsb' 32 10, imm := v.extractLsb' 42 16, sl := v.extractLsb' 64 3, scope := v.extractLsb' 67 3
      patn := v.extractLsb' 70 8, bolt := v.extractLsb' 78 6, count := v.extractLsb' 84 12 }

/-- The instruction that a template names for a kind of code, or none where R412 refuses it. -/
def templateInstr (bobbin : Bool) (v : BitVec 128) : Option Instr :=
  (templateRaw v).bind fun q =>
    let stitch := 0xC8 ≤ q.op.toNat
    if q.d = 63 || q.a = 63 || q.b = 63 || q.c = 63 || (stitch && q.mod.getLsbD 9) then none
    else
      match decodeRaw 1 q with
      | .ok i => if runsIn bobbin q.op.toNat && !(i.uses.any fun u => runOdd u bobbin) then some i else none
      | .error _ => none

def Slot.knot (q : Slot) (k : BitVec 4) : Knot := q.knots.toList.getD k.toNat {}
def State.setKnot (s : State) (r : Ref) (k : BitVec 4) (v : Knot) : State :=
  s.modSlotFor r fun q => { q with knots := q.knots.setIfInBounds k.toNat v }

def execKset (g : Guard) (k : BitVec 4) (a : Reg) (n : BitVec 16) (s : State) : Host.Outcome State Fault Refusal :=
  .next (perLane g (outside fun r h s =>
    match s.slotFor? r with
    | none => s
    | some q =>
      let v := h.runRecord (.reg a)
      if n = 0 || (templateInstr h.isBobbin v).isNone then s.raiseCause r .illegalModifier
      else if (q.knot k).armed then s.raiseCause r .knotOversign
      else (s.setKnot r k { expect := n, signed := 0, armed := true, template := v }).goOn r) s)

/-- The command of a completed knot, issued by its last signer. -/
def State.templateLane (s : State) (r : Ref) (h : Hart) (i : Instr) : State :=
  match i with
  | .cpy _ sh dh bsp src dst a b c n sl => s.cpyLane r h sh dh bsp src dst a b c n sl
  | .cpym _ d sh bsp src dst a b c n scope sl => s.cpymLane r h d sh bsp src dst a b c n scope sl
  | .cpyo _ any slot bsp a c sl => s.cpyoLane r h any slot bsp a c sl
  | .gath _ sh dh bsp src dst bolt a b c n sl => s.gathLane r h sh dh bsp src dst bolt a b c n sl
  | .scat _ sh bsp src dst bolt a b c n sl => s.scatLane r h sh bsp src dst bolt a b c n sl
  | .bin _ n bolt a b c sl => s.binLane r h n bolt a b c sl
  | .tldb _ bank pat a sg _ d _ sl => s.tldbLane r h bank pat a sg d sl
  | .tmma _ acc tile bank sh kp int pat n a m sg _ d _ sl => s.tmmaLane r h acc tile bank sh kp int pat n a m sg d sl
  | .tmmag _ acc tile bank sh kp int pat n bolt a b m sg _ d _ sl => s.tmmagLane r h acc tile bank sh kp int pat n bolt a b m sg d sl
  | .tzero _ tile sg _ d _ sl => s.tzeroLane r h tile sg d sl
  | .tsta _ tile sh pat n a b m sg _ d _ sl => s.tstaLane r h tile sh pat n a b m sg d sl
  | .tstaSt _ tile pat a sg _ d _ sl => s.tstaStLane r h tile pat a sg d sl
  | _ => s.raiseCause r .illegalModifier

/-- The last signature: the command is issued, or the count stays one short (R413). -/
def State.signLast (s : State) (r : Ref) (h : Hart) (k : BitVec 4) (q : Knot) : State :=
  match templateInstr h.isBobbin q.template with
  | none => s.raiseCause r .illegalModifier
  | some i =>
    if i.uses.any fun u => runBeyond u h.isBobbin (s.allotOf h) then s.raiseCause r .allotment
    else if h.poison &&& readMask i h.isBobbin != 0 then s.raiseCause r .eccUncorrected
    else
      let s' := s.templateLane r h i
      if s.cmdCount r < s'.cmdCount r then s'.setKnot r k { q with signed := q.signed + 1, armed := false } else s'

def execKsign (g : Guard) (k : BitVec 4) (s : State) : Host.Outcome State Fault Refusal :=
  .next (perLane g (outside fun r h s =>
    match s.slotFor? r with
    | none => s
    | some q =>
      let v := q.knot k
      if !v.armed then s.raiseCause r .knotOversign
      else if v.signed + 1 = v.expect then s.signLast r h k v
      else (s.setKnot r k { v with signed := v.signed + 1 }).goOn r) s)

end Sys2Proof.Machine
end

