-- ==== Sys2Proof/Machine/EngineEvents.lean ====
section
/-! DEFINITION. The events of the engines: a command fires, retires, or fails (R376 to R380). -/

namespace Sys2Proof.Machine

/-- May the command fire now? -/
def State.commandFires (s : State) (core slot : Nat) (c : Command) : Bool :=
  !c.fired && c.waiting.isNone && c.refused.isNone && (match c.engine with
    | .copy | .dfi => s.copyFires core slot c
    | .stitch => s.stitchFires core slot c
    | .retrieval => s.retrievalFires core slot c)

/-- What retiring now would do: the state after it, or what stops an access and whether that is a write; none for a command
that ends with another event. -/
def State.attemptOn (s : State) (core slot : Nat) (c : Command) : Option (Except (EngStop × Bool) State) :=
  if !c.fired || c.waiting.isSome || c.refused.isSome || s.bulkOut (.command c.id) then none
  else
    match c.engine with
    | .copy | .dfi => (s.copyOutcome core slot c).map fun o => match o with
      | .effect e => .ok (s.copyRetire core slot c e)
      | .stop e w => .error (e, w)
    | .stitch => some (s.stitchRetire core slot c)
    | .retrieval => if c.applied then some (s.probeRetire core slot c) else none

def State.attempt (s : State) (core slot : Nat) (c : Command) : Option (Except (EngStop × Bool) State) :=
  ((s.serving (some c.id)).attemptOn core slot c).map fun o => o.map fun t => t.serving none

/-- A command fails, as its engine does (R379, R405, R501). -/
def State.commandFails (s : State) (core slot : Nat) (c : Command) (addr : Option Nat) (space : Nat) : State :=
  match c.engine with
  | .copy | .dfi => s.failCommand core slot c .engineFault addr space
  | .stitch => s.stitchFail core slot c addr space
  | .retrieval => s.refuseOp core slot c addr space

/-- The lines of global memory that a command reads and writes from its core. -/
def State.commandLines (s : State) (core slot : Nat) (c : Command) : List Nat × List Nat :=
  match c.work with
  | .bin b first count _ _ _ =>
    (if (Bolt.ofBits b).space = 0 then (Bolt.ofBits b).elemLines ((List.range (count + 1)).map fun i => first + i) else [], [])
  | .copy | .multicast _ | .gather _ | .scatter _ =>
    (match s.copyOutcome core slot c with
    | some (.effect e) => (e.reads, linesOf e.glob)
    | _ => (c.src.globalLines, c.dst.globalLines))
  | .stream _ _ _ _ _ _ _ _ => (s.streamLines core c, [])
  | .loadBank _ => (c.src.globalLines, [])
  | .storeTile t scale rows =>
    (match s.tstaEffect core slot c t scale rows with
    | .ok (e, _) => ([], linesOf e.glob)
    | .error _ => ([], c.dst.globalLines))
  | .storeStatus _ => ([], c.dst.globalLines)
  | .probe rt _ list max =>
    (s.queryLines core c rt, match list with
      | some (b, start) => if (Bolt.ofBits b).space = 0 then (Bolt.ofBits b).elemLines ((List.range max).map fun i => start + i) else []
      | none => [])
  | .overlay _ _ _ | .zeroTile _ | .insert _ _ _ | .delete _ _ _ | .rehash _ _ | .define _ _ _ => ([], [])

/-- A fired operation goes to its table's engine as a request with the slack of its class, and the engine's data move (R439, R442,
R491). -/
def State.sendOp (s : State) (core slot : Nat) (c : Command) (slack : BitVec 12) (rt : Nat) : State :=
  let die := s.opDie core c rt
  let engine := dieEngine die
  let job := BulkJob.command c.id
  let (reads, writes) := s.opLines die c rt
  let s := s.modCommand core slot c.id fun c => { c with left := slack }
  let s := if core = engine then s else s.send core (s.homeId engine) c.ctx c.launch slack false 0 (32 + c.query.length) (.bulk job)
  (s.sendBulk engine c.ctx c.launch slack job reads false).sendBulk engine c.ctx c.launch slack job writes true

/-- The transfers of a command leave at its firing, with the slack of its class (R439, R442); those of a CPYM go to its receivers
too. -/
def State.sendCommand (s : State) (core slot : Nat) (c : Command) : State :=
  let slack := s.commandSlack core slot c
  let (reads, writes) := s.commandLines core slot c
  let job := BulkJob.command c.id
  let s := (s.sendBulk core c.ctx c.launch slack job reads false).sendBulk core c.ctx c.launch slack job writes true
  let s := match c.work.table? with
    | some rt => s.sendOp core slot c slack rt
    | none => s
  match c.work, c.dst.pattern? with
  | .multicast cores, some q =>
    (cores.filter (· != core)).foldl (fun s k => s.bulkPackets core (s.homeId k) c.ctx c.launch slack job ((q.bytes + 63) / 64)) s
  | _, _ => s

def State.fireCommand (s : State) (core slot : Nat) (c : Command) : State :=
  match c.engine with
  | .copy | .dfi => s.copyFire core slot c
  | .stitch => s.stitchFire core slot c
  | .retrieval => s.retrievalFire core slot c

def execEngineFire (id : Nat) (s : State) : Host.Outcome State Fault Refusal :=
  .next (match s.findCommand id with
  | none => s
  | some (core, slot, c) =>
    if !s.commandFires core slot c then s
    else
      let s := s.fireCommand core slot c
      match s.findCommand id with
      | some (_, _, c) => if c.fired then s.sendCommand core slot c else s
      | none => s)

/-- A fired command takes effect; one whose access meets a home fault waits for the fault service (R379). DESIGN CHOICE (log 71): a
tile is converted in one retirement, so a new GT seed reaches a tile in progress at none of its group boundaries (R190). -/
def execEngineRetire (id : Nat) (s : State) : Host.Outcome State Fault Refusal :=
  .next (match s.findCommand id with
  | none => s
  | some (core, slot, c) =>
    if !s.hoopsOpen core c then s
    else
    match s.attempt core slot c with
    | some (.ok s') => s'
    | some (.error (.page e va home, w)) => s.commandWaits core slot c e va home w
    | _ => s)

/-- What a BIN's first step meets that no service can mend. -/
def State.binStops (s : State) (core slot : Nat) (c : Command) : Option (Option Nat × Nat) :=
  match s.slot? core slot, s.binStep core c with
  | some q, some (.error (.fails a space)) => if q.isHead c && c.waiting.isNone then some (a, space) else none
  | some q, some (.error .moving) =>
    if q.isHead c && c.waiting.isNone then (s.movedRange c).map fun a => (some a, 0) else none
  | _, _ => none

/-- A command fails: at the page whose service is refused, at the address that its own accesses meet, or at one where an error from outside strikes it. -/
def execEngineFailure (id addr : Nat) (s : State) : Host.Outcome State Fault Refusal :=
  .next (match s.findCommand id with
  | none => s
  | some (core, slot, c) =>
    if !s.hoopsOpen core c then s
    else if let some a := c.refused then s.commandFails core slot c (some a) 0
    else
    match s.binStops core slot c, s.attempt core slot c with
    | some (a, space), _ => s.commandFails core slot c a space
    | none, some (.error (.fails a space, _)) => s.commandFails core slot c a space
    | none, some (.error (.moving, _)) => (match s.movedRange c with
      | some a => s.commandFails core slot c (some a) 0
      | none => s)
    | none, some _ => s.commandFails core slot c (some addr) 0
    | none, none => s)

/-- The registrations and firings of a command that its queue makes next (R376, R388). -/
def State.commandFiring (s : State) (core slot : Nat) (c : Command) : List Instr :=
  if c.fired || c.refused.isSome then []
  else
    (if s.binReady core slot c then [.binPrepare c.id] else [])
      ++ (if s.commandFires core slot c then [.engineFire c.id] else [])

/-- The other events of a command that are due. -/
def State.commandDue (s : State) (core slot : Nat) (c : Command) : List Instr :=
  if let some a := c.refused then (if s.hoopsOpen core c then [.engineFailure c.id a] else [])
  else if !c.fired then
    match s.binStops core slot c with
    | some (a, _) => [.engineFailure c.id (a.getD 0)]
    | none => []
  else if !s.hoopsOpen core c then []
  else if s.bulkOut (.command c.id) then []
  else if s.opArrives core slot c then
    match s.tryOp core slot c with
    | .error .moving => if (s.movedRange c).isSome then [.retrievalOperationApply c.id] else []
    | _ => [.retrievalOperationApply c.id]
  else
    match s.attempt core slot c with
    | none => []
    | some (.error (.moving, _)) => ((s.movedRange c).toList).map fun a => .engineFailure c.id a
    | some (.error (.fails a _, _)) => [.engineFailure c.id (a.getD 0)]
    | some _ => [.engineRetire c.id]

/-- The firings that this cycle still makes: each in the first cycle in which its conditions hold, before the accesses of that cycle
(R306, R376). -/
def State.firings (s : State) : List Instr :=
  if s.fireClosed then []
  else s.cores.flatMap fun e => e.2.slots.flatMap fun (n, q) => q.commands.flatMap fun c => s.commandFiring e.1 n c

/-- The engine events that are due on a core. -/
def State.engineDue (s : State) (core : Nat) : List Instr :=
  (s.core core).slots.flatMap fun (n, q) => q.commands.flatMap fun c => s.commandDue core n c

end Sys2Proof.Machine
end

