-- ==== Sys2Proof/Machine/Fabric.lean ====
section
/-! DEFINITION. The torus, the crossings between dies and the way out to other modules (R438 to R440, R445, R531, R533), slack
(R443, R444), and router power (R446). -/

namespace Sys2Proof.Machine

/-! ### The header and the body of a packet (R441) -/

/-- TYPE. -/
def Packet.type (p : Packet) : Nat :=
  if p.rehomed then 5
  else
    match p.body with
    | .needle _ => 0
    | .task _ _ => 1
    | .atomic _ | .read _ | .increment _ _ _ _ | .phaseArrive _ _ _ _ _ | .notice _ | .drain _ | .entryFetch _ _ => 2
    | .atomicReply _ _ _ | .result _ | .failure _ _ | .ack _ _ | .drained _ | .entry _ _ => 3
    | .bulk _ => if p.vn = 0 then 2 else 4
    | .refusal _ _ => 5

/-- The fields that every packet has, in their positions. -/
def Packet.common (p : Packet) : BitVec 256 :=
  setBits (setBits (setBits (setBits (setBits 0 0 16 p.ctx) 80 12 p.slack.toNat) 92 20 p.home) 232 4 p.type) 236 20 p.src

/-- The fields of a needle or task. -/
def Packet.ofThread (p : Packet) (n : Needle) : BitVec 256 :=
  let v := setBits (setBits (setBits p.common 16 32 n.launch.toNat) 48 32 n.pc.toNat) 112 64 n.live.toNat
  let v := setBits (setBits (setBits (setBits v 176 32 n.ordinal.toNat) 208 1 n.spwn.toNat) 209 7 n.preds.toNat) 216 5 n.fpstat.toNat
  let v := setBits (setBits (setBits v 221 1 p.sx.toNat) 222 1 p.ovd.toNat) 223 5 n.chain.length
  n.fibres.foldl (fun v e => setBits v (228 + e.1) 1 1) v

/-- The 32-byte header. The fields that R441 leaves to the device are 0 here. -/
def Packet.header (p : Packet) : BitVec 256 :=
  match p.body with
  | .needle n | .task n _ => p.ofThread n
  | _ => p.common

/-- The body of a needle or task: the chain word, the open fibres, the live registers. -/
def Needle.body (n : Needle) : List Byte :=
  let word : Nat := (n.chain.mapIdx fun i c => c.toNat * 2 ^ (4 * i)).foldl (· + ·) 0
  (if n.chain.isEmpty then [] else bytesOfNat 8 word)
    ++ n.fibres.flatMap (fun e => (List.range 3).flatMap (fun i => bytesOfNat 4 (e.2.word i).toNat) ++ bytesOfNat 4 0)
    ++ n.regs.flatMap fun e => bytesOfNat 4 e.2.toNat

/-! ### Routing (R16, R438, R440) -/

/-- The next position on a ring of eight: the shorter direction, the increasing one at distance 4. -/
def ringNext (a b : Nat) : Nat := if (b + 8 - a) % 8 ≤ 4 then (a + 1) % 8 else (a + 7) % 8

/-- The input port of a router by which a flit comes that moves on its row or column in the given direction. -/
def portFrom (row up : Bool) : Nat :=
  match row, up with
  | true, true => 2
  | true, false => 1
  | false, true => 4
  | false, false => 3

/-- One hop on a torus: the next router and its input port. Row first, then column. -/
def torusHop (c target : Nat) : Option (Nat × Nat) :=
  let (x, y, tx, ty) := (c % 8, c / 8, target % 8, target / 8)
  if x != tx then
    let n := ringNext x tx
    some (y * 8 + n, portFrom true (n == (x + 1) % 8))
  else if y != ty then
    let n := ringNext y ty
    some (n * 8 + x, portFrom false (n == (y + 1) % 8))
  else none

/-- Hops between two positions of a ring. -/
def ringDist (a b : Nat) : Nat := Nat.min ((b + 8 - a) % 8) ((a + 8 - b) % 8)

def torusDist (a b : Nat) : Nat := ringDist (a % 8) (b % 8) + ringDist (a / 8) (b / 8)

/-- The attachment of the interface with the fewest hops to a core, the lowest core on a tie. -/
def attachment (c : Nat) : Nat := ((sortBy (torusDist c) [27, 28, 35, 36]).head?).getD 27

/-- The UCIe link between two dies: its number among 0-1, 2-3, 0-2 and 1-3. -/
def linkBetween (a b : Nat) : Nat := if a / 2 = b / 2 then a / 2 else 2 + a % 2

/-- A link with at least two working modules. -/
def State.linkUp (s : State) (a b : Nat) : Bool := decide (2 ≤ s.links.toList.getD (linkBetween a b) 0)

/-- The two ways between dies: column first, and the other way round the square. -/
def dieWays (a b : Nat) : List (List Nat) :=
  match Nat.xor a b with
  | 1 => [[a, b], [a, Nat.xor a 2, Nat.xor b 2, b]]
  | 2 => [[a, b], [a, Nat.xor a 1, Nat.xor b 1, b]]
  | _ => [[a, Nat.xor a 1, b], [a, Nat.xor a 2, b]]

def State.wayUp (s : State) : List Nat → Bool
  | a :: b :: l => s.linkUp a b && s.wayUp (b :: l)
  | _ => true

/-- The die that traffic goes to next (R16, R531); none while every way is failed. -/
def State.nextDie (s : State) (a b : Nat) : Option Nat := ((dieWays a b).find? s.wayUp).bind fun w => w[1]?

/-- The UP ports of a die that the route table names for a chip (R533), by port number. -/
def State.upPorts (s : State) (die chip : Nat) : List Nat :=
  let mask := Memory.getNat s.mem ((s.bar.rtbase + (die * 4096 + chip) * 2) % 2 ^ 40) 2
  ((List.range 9).filter fun i => mask.testBit i && (s.bar.ports.toList.getD (die * 9 + i) 0).getLsbD 0).map fun i => die * 9 + i

/-- Chips that the dies can reach again are no longer reported as lost (R533). -/
def State.portsBack (s : State) : State :=
  { s with dies := s.dies.mapVals fun die d => { d with lost := d.lost.filter fun c => (s.upPorts die c).isEmpty } }

/-- The port that a flow takes. -/
def State.portOf (s : State) (die : Nat) (p : Packet) : Option Nat :=
  let ups := s.upPorts die (p.home / 256)
  ups[Config.portHash p.ctx p.src p.home % Nat.max 1 ups.length]?

/-- Where a packet goes next from its place. -/
def State.nextPlace (s : State) (p : Packet) : Option Place :=
  match p.place with
  | .arrived => none
  | .source c => some (.router c 0)
  | .router c _ =>
    let here := s.onChip p.home && p.home % 256 / 64 == c / 64
    let target := if here then p.home % 64 else attachment (c % 64)
    (match torusHop (c % 64) target with
    | some (n, port) => some (.router (c / 64 * 64 + n) port)
    | none => some (if here then .arrived else .dfi (c / 64)))
  | .dfi die =>
    if !s.onChip p.home then some (.uet die)
    else if p.home % 256 / 64 = die then some (.router (die * 64 + attachment (p.home % 64)) 5)
    else (s.nextDie die (p.home % 256 / 64)).map (Place.ucie die)
  | .ucie _ other => some (.dfi other)
  | .uet _ => none

/-! ### Room and choice (R439, R445) -/

def Packet.flits (p : Packet) : Nat := (p.bytes + 63) / 64

/-- Flits of a virtual network in an input buffer. -/
def State.flitsAt (s : State) (place : Place) (vn : Nat) : Nat := sumNat ((s.packets.filter fun q => q.place == place && q.vn == vn).map Packet.flits)

/-- Does the hop between two routers stay on its ring? -/
def sameRing (inPort outPort : Nat) : Bool := (inPort == outPort) && decide (1 ≤ inPort ∧ inPort ≤ 4)

/-- A needle that waits in the ejection buffer of its home. -/
def State.ejectionFull (s : State) (home : Nat) : Bool :=
  s.packets.any fun q => q.place == .arrived && q.home == home && (match q.body with
    | .needle _ => true
    | _ => false)

/-- May the packet go to its next place now? -/
def State.canAdvance (s : State) (p : Packet) : Bool :=
  let on := fun (c : Nat) => !(s.core c).routerOff
  let fromOn := match p.place with
    | .router c _ => on c
    | _ => true
  fromOn && (match s.nextPlace p with
    | none => (match p.place with
      | .uet die => (s.portOf die p).isSome
      | _ => false)
    | some (.router c port) =>
      let stays := match p.place with
        | .router _ inPort => sameRing inPort port
        | _ => true
      on c && decide (s.flitsAt (.router c port) p.vn + (if stays then p.flits else 12) ≤ 24)
    | some .arrived => (match p.body with
      | .needle _ => !s.ejectionFull p.home
      | _ => true)
    | some _ => true)

/-- Two packets compete: they leave one point for one place. -/
def State.competes (s : State) (p q : Packet) : Bool :=
  s.nextPlace p == s.nextPlace q && (match p.place, q.place with
    | .router c _, .router d _ => c == d
    | .uet a, .uet b => a == b && s.portOf a p == s.portOf a q
    | a, b => a == b)

/-- The order of R445, smaller first. -/
def Packet.before (p q : Packet) : Bool :=
  match p.promoted, q.promoted with
  | some a, some b => decide (a < b)
  | some _, none => true
  | none, some _ => false
  | none, none =>
    if p.ovd && q.ovd then decide (p.since < q.since)
    else if p.ovd || q.ovd then p.ovd
    else if p.slack != q.slack then decide (p.slack.toNat < q.slack.toNat)
    else if p.since != q.since then decide (p.since < q.since)
    else decide (p.vn < q.vn)

/-- The packets that compete with p and can advance. -/
def State.rivals (s : State) (p : Packet) : List Packet := s.packets.filter fun q => q.id != p.id && s.competes p q && s.canAdvance q

/-- The packet is the choice at its point. -/
def State.chosenNext (s : State) (p : Packet) : Bool := s.canAdvance p && !(s.rivals p).any fun q => q.before p

/-- A router has seen a flit. -/
def State.flitSeen (s : State) (place : Place) : State :=
  match place with
  | .router c _ => if (s.cores.get? c).isSome then s.modCore c fun k => { k with routerSince := s.net } else s
  | _ => s

/-- The packets that a choice passes over; at 64 passes one is promoted (R49). Those that one choice promotes together are numbered in
the order of the packet list: DESIGN CHOICE (log 60). -/
def State.passOver (s : State) (p : Packet) : State :=
  (s.rivals p).foldl (fun s q =>
    let up := q.passed + 1 == 64
    let f := fun (x : Packet) =>
      if x.id = q.id then { x with passed := x.passed + 1, promoted := if up then some s.next else x.promoted } else x
    let s' := { s with packets := s.packets.map f }
    if up then s'.bump else s') s

/-- A packet becomes overdue: SLKX counts at the core of its home, or of its source on the way out (R444). -/
def State.countOverdue (s : State) (p : Packet) : State := s.count (coreOfHome (if s.onChip p.home then p.home else p.src)) p.ctx 0x1D 1

/-- Egress to another module: the port's wire charge (R443). -/
def State.egress (s : State) (die : Nat) (p : Packet) : State :=
  let charge := ((s.portOf die p).map fun n => field (s.bar.ports.toList.getD n 0) 2 12).getD 0
  let slack := if p.slack = 0xFFF then p.slack else BitVec.ofNat 12 (p.slack.toNat - charge)
  let late := slack == 0 && !p.ovd
  let s := { s.dropPacket p.id with outbox := s.outbox ++ [{ p with slack, ovd := p.ovd || late }] }
  if late then s.countOverdue p else s

/-- An operation has reached its table's engine: its replies inherit the slack that is left (R442). -/
def State.opReached (s : State) (p : Packet) : State :=
  match p.body with
  | .bulk (.command c) => if p.vn != 0 then s else (match s.findCommand c with
    | some (core, slot, _) => s.modCommand core slot c fun c => { c with left := p.slack }
    | none => s)
  | _ => s

def execPacketAdvance (id : Nat) (s : State) : Host.Outcome State Fault Refusal :=
  .next (match s.packets.find? fun p => p.id == id with
  | none => s
  | some p =>
    if !s.chosenNext p then s
    else
      let s := s.passOver p
      match s.nextPlace p, p.place with
      | some place, old =>
        let s := (s.flitSeen old).flitSeen place
        let f := fun (x : Packet) => if x.id = id then { x with place, since := s.next, passed := 0, promoted := none } else x
        let refused := place == .arrived && (match p.body with
          | .needle _ => ((s.core (coreOfHome p.home)).placeFor p.ctx p.bytes).isNone
          | _ => false)
        let s := if refused then s.event (coreOfHome p.home) p.ctx 0x0E 1 else s
        let spent := place == .arrived && (match p.body with
          | .bulk _ => true
          | _ => false)
        (if spent then (s.opReached p).dropPacket id else { s with packets := s.packets.map f }).bump
      | none, .uet die => s.egress die p
      | none, _ => s)

/-! ### Slack (R443, R444) -/

/-- One tick of a slack: 0 and 0xFFF stay. -/
def ticked (v : BitVec 12) : BitVec 12 := if v = 0 || v = 0xFFF then v else v - 1

/-- Is a packet held at a point where slack decrements: on its way, or a needle that its home has not taken? -/
def Packet.held (p : Packet) : Bool :=
  p.place != .arrived || (match p.body with
    | .needle _ => true
    | _ => false)

/-- A refused task in its spawn queue: reaching 0 counts at once. -/
def State.tickQueue (s : State) (core : Nat) : State :=
  let tick := fun (t : Task) => { t with left := t.left.map ticked }
  let late := (s.core core).spawnQ.filter fun t => t.left == some 1
  let s := s.modCore core fun k => { k with spawnQ := k.spawnQ.map tick }
  late.foldl (fun s t => s.count core t.ctx 0x1D 1) s

def tickUnits : Nat := 16 * netCycle

def execSlackTick (s : State) : Host.Outcome State Fault Refusal :=
  .next (if s.net / tickUnits ≤ s.ticks then s
    else
      let packets := s.packets.map fun (p : Packet) => if p.held then { p with slack := ticked p.slack } else p
      let arr := fun (a : Arrival) => { a with slack := ticked a.slack }
      let s := { s with ticks := s.ticks + 1, packets, cores := s.cores.mapVals fun _ k => { k with store := k.store.map arr, spill := k.spill.map arr } }
      s.cores.foldl (fun s e => if e.2.spawnQ.any fun t => t.left.isSome then s.tickQueue e.1 else s) s)

/-- Packets and arrivals that have just reached slack 0. -/
def State.newlyOverdue (s : State) : List Nat :=
  ((s.packets.filter fun p => p.slack == 0 && !p.ovd).map Packet.id)
    ++ s.cores.flatMap fun e => ((e.2.store ++ e.2.spill).filter fun a => a.slack == 0 && !a.ovd).map Arrival.id

/-- OVD is set, and SLKX counts once (R444). -/
def execSlackOverdue (id : Nat) (s : State) : Host.Outcome State Fault Refusal :=
  .next (match s.packets.find? fun p => p.id == id with
  | some p =>
    if p.slack != 0 || p.ovd then s
    else { s with packets := s.packets.map fun (x : Packet) => if x.id = id then { x with ovd := true } else x }.countOverdue p
  | none =>
    match s.cores.findSome? fun e => ((e.2.store ++ e.2.spill).find? fun a => a.id == id).map fun a => (e.1, a) with
    | none => s
    | some (core, a) =>
      if a.slack != 0 || a.ovd then s
      else
        let f := fun (x : Arrival) => if x.id = id then { x with ovd := true } else x
        (s.modCore core fun k => { k with store := k.store.map f, spill := k.spill.map f }).count core a.ctx 0x1D 1)

/-! ### Router power (R446) -/

/-- A flit lies in a router, or asks for it. -/
def State.routerBusy (s : State) (core : Nat) : Bool :=
  s.packets.any fun p => (match p.place with
    | .router c _ => c == core
    | _ => false) || (match s.nextPlace p with
    | some (.router c _) => c == core
    | _ => false)

def State.gateDue (s : State) (core : Nat) : Bool :=
  match s.cores.get? core with
  | none => false
  | some k => !k.routerOff && decide (k.routerSince + 256 * netCycle ≤ s.net) && !s.routerBusy core

def State.wakeDue (s : State) (core : Nat) : Bool :=
  match s.cores.get? core with
  | none => false
  | some k => k.routerOff && (k.routerWake.map fun t => decide (t + 20 * netCycle ≤ s.net)).getD false

def execRouterPowerGate (core : Nat) (s : State) : Host.Outcome State Fault Refusal :=
  .next (if s.gateDue core then s.modCore core fun k => { k with routerOff := true, routerWake := none } else s)

def execRouterWake (core : Nat) (s : State) : Host.Outcome State Fault Refusal :=
  .next (if s.wakeDue core then s.modCore core fun k => { k with routerOff := false, routerWake := none, routerSince := s.net } else s)

/-- A gated router notices the request that wakes it. -/
def State.noticeWakes (s : State) : State :=
  s.cores.foldl (fun s e =>
    if e.2.routerOff && e.2.routerWake.isNone && s.routerBusy e.1 then s.modCore e.1 fun k => { k with routerWake := some s.net } else s) s

/-! ### What is due -/

def State.fabricDue (s : State) : List Instr :=
  ((s.packets.filter fun p => p.place != .arrived && s.chosenNext p).map fun p => .packetAdvance p.id)
    ++ s.cores.flatMap fun e =>
      if s.gateDue e.1 then [.routerPowerGate e.1] else if s.wakeDue e.1 then [.routerWake e.1] else []

/-- Ticks and what follows a tick come before anything else. -/
def State.slackDue (s : State) : List Instr :=
  match s.newlyOverdue with
  | [] => if s.net / tickUnits ≤ s.ticks then [] else [.slackTick]
  | l => l.map .slackOverdue

end Sys2Proof.Machine
end

