-- ==== Sys2Proof/Machine/Launch.lean ====
section
/-! DEFINITION. Launch queues and records, dispatch and refusal (R415 to R425), placement, admission and staging (R429, R253,
R238), completion (R430, R295). -/

namespace Sys2Proof.Machine

/-! ### Device records (R430) -/

/-- Work is dispatched at stage 7 only. -/
def State.launchReady (s : State) : Bool := s.bar.stage == 7 && !s.bar.fail && !s.power.stopped

/-- A home fault that the fault service can take (R379): not a write to a page that may not be written. -/
def Cause.servable (c : Cause) : Bool := c == .pageNotPresent || c == .homeMapMiss

/-- Hand a home fault of the device itself to the fault service: what then waits, and the state. -/
def State.deviceFault (s : State) (ctx va origin : Nat) (c : Cause) (write : Bool) : PageWait × State :=
  let home := s.faultHome ctx va origin c
  ({ cause := c, page := s.pageOf ctx va, home, va }, s.reportPage (dieOf (coreOfHome home)) ctx va home c write 0 0 0)

def State.modRecord (s : State) (id : Nat) (f : Record → Record) : State :=
  { s with records := s.records.map fun e => if e.id = id then f e else e }

def State.dropRecord (s : State) (id : Nat) : State := { s with records := s.records.filter fun e => e.id != id }

/-- A record that cannot be written is dropped and reported. -/
def State.recordLost (s : State) (e : Record) (c : Cause) (va : Nat) : State :=
  (s.dropRecord e.id).postError c.code e.ctx (s.homeId 0) va 0 0 .other 1

/-- Write a record, wait for the fault service, or drop it. -/
def State.tryRecord (s : State) (e : Record) : State :=
  match s.storeVa e.ctx e.va e.bytes with
  | .ok s => s.dropRecord e.id
  | .error .moving => s
  | .error (.fault c va) =>
    if c.servable then
      let (w, s) := s.deviceFault e.ctx va (s.homeId 0) c true
      s.modRecord e.id fun e => { e with waiting := some w }
    else s.recordLost e c va

/-- A device write; those of one context are made in order. -/
def State.deviceWrite (s : State) (key : Option Nat) (ctx va : Nat) (bytes : List Byte) : State :=
  let e : Record := { id := s.next, key, ctx, va := va % 2 ^ 48, bytes }
  let first := !s.records.any fun x => x.ctx == ctx
  let s := { s with records := s.records ++ [e], next := s.next + 1 }
  if first then s.tryRecord e else s

/-- Does a page that moves hold the write? -/
def Record.moving (e : Record) (s : State) : Bool :=
  match s.storeVa e.ctx e.va e.bytes with
  | .error .moving => true
  | _ => false

/-- Records that can be tried: the oldest of each context, when nothing holds it. -/
def State.readyRecords (s : State) : List Record :=
  s.records.filter fun e =>
    e.waiting.isNone && ((s.records.find? fun x => x.ctx == e.ctx).map Record.id) == some e.id && !e.moving s

/-! ### Queues (R415, R416) -/

def Queue.enabled (q : Queue) : Bool := q.ctl.getLsbD 0
def Queue.prio (q : Queue) : Nat := field q.ctl 1 3
def Queue.logn (q : Queue) : Nat := field q.ctl 4 4
def Queue.ctx (q : Queue) : Nat := field q.ctl 8 16
def Queue.size (q : Queue) : Nat := 2 ^ (q.logn + 4)
/-- Address of the head record. -/
def Queue.headVa (q : Queue) : Nat := (q.base.toNat + q.head.toNat % q.size * 256) % 2 ^ 48
/-- An enabled queue with a bad ring, or with more records than its ring holds, takes ERR. -/
def Queue.checked (q : Queue) : Queue :=
  if q.enabled && (decide (13 ≤ q.logn) || decide (q.size < (q.tail - q.head).toNat)) then { q with err := true } else q

def State.queue (s : State) (n : Nat) : Queue := (s.queues.get? n).getD {}
def State.setQueue (s : State) (n : Nat) (q : Queue) : State := { s with queues := s.queues.set n q }

/-- A host write of QTAIL. -/
def execQueueDoorbell (q tail : Nat) (s : State) : Host.Outcome State Fault Refusal :=
  .next (if s.hostUp && decide (q < 64) then s.setQueue q { s.queue q with tail := BitVec.ofNat 16 tail }.checked else s)

/-- QCTL without its reserved bits. -/
def qctl (val : Nat) : Word := BitVec.ofNat 32 (val % 2 ^ 24)

/-- A host write of QCTL with EN = 1. -/
def execQueueEnable (q val : Nat) (s : State) : Host.Outcome State Fault Refusal :=
  .next (if s.hostUp && decide (q < 64) && val % 2 == 1 && !(s.queue q).enabled then
      s.setQueue q { s.queue q with ctl := qctl val }.checked
    else s)

/-- A host write of QCTL with EN = 0. -/
def execQueueDisable (q val : Nat) (s : State) : Host.Outcome State Fault Refusal :=
  .next (if s.hostUp && decide (q < 64) && val % 2 == 0 then
      s.setQueue q { s.queue q with ctl := qctl val, err := false, waiting := none }
    else s)

/-! ### Launch records (R418) -/

/-- A field of a record: n bytes at an offset. -/
def recN (r : List Byte) (off n : Nat) : Nat := natOfBytes ((r.drop off).take n)

/-- The launch that a record describes; what dispatch adds is still empty. -/
def launchOf (r : List Byte) (ctx va : Nat) : Launch :=
  { ctx, lid := BitVec.ofNat 32 (recN r 0x18 4), predid := BitVec.ofNat 32 (recN r 0x1C 4), ctl := BitVec.ofNat 32 (recN r 0 4)
    entry := BitVec.ofNat 32 (recN r 8 4), bentry := BitVec.ofNat 32 (recN r 0x0C 4), ovt := BitVec.ofNat 48 (recN r 0x10 8)
    levels := (List.range 8).map fun i => BitVec.ofNat 64 (recN r (0x20 + 8 * i) 8)
    regions := (List.range 4).map fun i => BitVec.ofNat 128 (recN r (0x60 + 16 * i) 16)
    ctl2 := BitVec.ofNat 32 (recN r 0xAC 4), cspb := recN r 0xB0 4, dspb := recN r 0xB4 4, init := BitVec.ofNat 48 (recN r 0xB8 8)
    slacks := (List.range 8).map fun i => BitVec.ofNat 12 (recN r (0xC0 + 2 * i) 2)
    ctxrec := BitVec.ofNat 48 (recN r 0xD0 8), cpla := BitVec.ofNat 48 (recN r 0xD8 8), cplv := BitVec.ofNat 64 (recN r 0xE0 8)
    record := BitVec.ofNat 48 va, places := [], pbase := 0, groups := 0, threads := 0, live := 0 }

def Launch.aff (l : Launch) : Nat := field l.ctl 12 2
def Launch.succ (l : Launch) : Nat := field l.ctl 14 2
def Launch.domain (l : Launch) (n : Nat) : Nat := field (l.levels.getD n 0) 32 3
def Launch.scope (l : Launch) (n : Nat) : Nat := field (l.levels.getD n 0) 35 3
/-- T of R419. -/
def Launch.total (l : Launch) : Nat := (List.range l.nlev).foldl (fun a i => a * l.count i) 1
/-- Number of groups of a level. -/
def Launch.groupsAt (l : Launch) (n : Nat) : Nat := (List.range (n + 1)).foldl (fun a i => a * l.count i) 1
def Launch.waves (l : Launch) : Nat := (l.total + 63) / 64

/-- Narrowest scope of a domain (R30), by the codes of R418 and R54. -/
def narrowest (domain : Nat) : Nat := [0, 1, 1, 1, 2, 3, 4, 5].getD domain 5

/-- R30 holds of a level. -/
def Launch.levelOk (l : Launch) (n : Nat) : Bool :=
  let d := l.domain n
  let c := l.scope n
  decide (c ≤ 5) && decide (narrowest d ≤ c) && (n == 0 || decide (d ≤ l.domain (n - 1)))
    && !(l.roving && decide (1 ≤ d) && decide (d ≤ 5) && c != 4)

/-- A region by its number: source, space, offset, bytes. -/
def Launch.region (l : Launch) (i : Nat) : Nat × Nat × Nat × Nat :=
  let v := l.regions.getD i 0
  (field v 0 48, field v 48 3, field v 64 32, field v 96 32)

/-- Reason 1: a reserved field or byte that is not 0, or another context. -/
def reservedBad (r : List Byte) (l : Launch) (ctx : Nat) : Bool :=
  recN r 4 2 != ctx || recN r 6 2 != 0 || field l.ctl 23 9 != 0 || field l.ctl2 6 26 != 0
    || (List.range 8).any (fun n => if n < l.nlev then field (l.levels.getD n 0) 38 26 != 0 else l.levels.getD n 0 != 0)
    || (l.regions.any fun v => field v 51 13 != 0 || (field v 96 32 == 0 && v != 0))
    || (List.range 8).any (fun i => decide (4096 ≤ recN r (0xC0 + 2 * i) 2))
    || recN r 0xE8 16 != 0 || recN r 0xFC 4 != 0

/-- Reason 2. -/
def Launch.shapeBad (l : Launch) : Bool :=
  (List.range l.nlev).any (fun n => !l.levelOk n || l.count n == 0) || l.domain (l.nlev - 1) != 0 || decide (2 ^ 32 ≤ l.total)
    || l.count (l.nlev - 1) % l.width != 0

/-- Reason 4, given the launches of the context that have not completed. -/
def Launch.succBad (l : Launch) (open_ : List Launch) : Bool :=
  l.succ == 3 || (l.predid != 0 && l.succ == 0) || (l.predid == 0 && (l.succ == 1 || l.succ == 2)) || l.lid == 0
    || open_.any fun x => x.lid == l.lid

/-- A region in use lies wrongly (reason 5). -/
def Launch.regionBad (l : Launch) (i : Nat) : Bool :=
  let (_, sp, off, n) := l.region i
  if n = 0 then false
  else
    let inside := match sp with
      | 1 => decide (off + n ≤ l.dspb)
      | 2 => decide (off + n ≤ 2 ^ 21) && (List.range 4).all fun q =>
          let lo := Nat.max off (q * 0x80000)
          let hi := Nat.min (off + n) (q * 0x80000 + 0x80000)
          decide (hi ≤ lo) || decide (hi ≤ q * 0x80000 + (l.cspb - 0x180000))
      | 3 => decide (off + n ≤ l.cspb)
      | _ => false
    !inside || off % 64 != 0 || n % 64 != 0

def Launch.sizesBad (l : Launch) : Bool :=
  l.cspb % 4096 != 0 || decide (2 ^ 21 < l.cspb) || l.dspb % 4096 != 0 || decide (2 ^ 26 < l.dspb) || (List.range 4).any l.regionBad

/-- What a device read of a record gives: its bytes, nothing, or a wait for a moving page. -/
inductive Rd where
  | bytes (l : List Byte)
  | unreadable
  | moving
deriving DecidableEq, Repr

def State.rd (s : State) (ctx va n : Nat) : Rd :=
  match s.readVa ctx va n with
  | .ok l => .bytes l
  | .error .moving => .moving
  | .error (.fault _ _) => .unreadable

/-- Reason 6, from the context record. -/
def State.ctxBad (s : State) (l : Launch) (rec_ : Rd) : Bool :=
  (match rec_ with
    | .bytes b => recN b 0x18 1 == 0
    | .unreadable | .moving => true)
  || (match s.ctxrecs.get? l.ctx with
    | some v => v != l.ctxrec
    | none => false)

/-- Reason 7, from the hoop-area image. -/
def Launch.initBad (l : Launch) (image : Rd) : Bool :=
  match image with
  | .bytes b => (List.range 32).any fun i => (Hoop.ofNat (recN b (16 * i) 16)).layoutBad l.cspb
  | .unreadable | .moving => true

/-- The overlay table: its header and its entries (R486). -/
def State.ovtRead (s : State) (ctx va : Nat) : Rd :=
  match s.rd ctx va 16 with
  | .bytes b => if recN b 0 4 ≤ 4096 then s.rd ctx (va + 16) (16 * recN b 0 4) else .bytes b
  | e => e

/-- The reasons for which a record is refused (R423); none while a page that the checks read is moving. -/
def State.reasons (s : State) (q : Queue) (r : List Byte) : Option (List Nat) :=
  let ctx := q.ctx
  let l := launchOf r ctx q.headVa
  let rec_ := s.rd ctx l.ctxrec.toNat 128
  let image : Rd := if l.init = 0 then .bytes [] else s.rd ctx l.init.toNat 512
  let ovt := s.ovtRead ctx l.ovt.toNat
  if rec_ == .moving || image == .moving || ovt == .moving then none
  else
    let open_ := (s.launches.filter fun e => e.2.ctx == ctx).map Prod.snd
    let affq := recN r 0xA8 4
    let checks : List (Nat × Bool) :=
      [(1, reservedBad r l ctx), (2, l.shapeBad), (3, l.ctl.getLsbD 11 && decide (l.nlev - 1 < field l.ctl 8 3)), (4, l.succBad open_),
       (5, l.sizesBad), (6, s.ctxBad l rec_), (7, l.initBad image),
       (8, ((l.aff == 0 || l.aff == 3) && affq == 0) || (l.aff == 3 && decide (65536 < affq))),
       (9, ovlOf l.entry == 0xFFFF || ovt == .unreadable)]
    some ((checks.filter Prod.snd).map Prod.fst)

/-! ### The choice of a record (R417, R424, R425) -/

/-- May a launch start, as far as its predecessor goes? -/
def State.succReady (s : State) (l : Launch) : Bool :=
  match s.launches.find? fun e => e.2.ctx == l.ctx && e.2.lid == l.predid with
  | none => true
  | some (_, p) => l.succ == 0 || (l.succ == 2 && p.hinted)

/-- A queue whose head record can be dispatched: its number, itself, the record, and the reasons against it. -/
structure Cand where
  no : Nat
  q : Queue
  record : List Byte
  reasons : List Nat
deriving DecidableEq, Repr

/-- Does the queue have a head record to look at? -/
def Queue.live (q : Queue) : Bool := q.enabled && !q.err && q.tail != q.head && q.waiting.isNone

def State.dispatchable (s : State) : List Cand :=
  s.queues.filterMap fun (n, q) =>
    if !q.live then none
    else
      match s.readVa q.ctx q.headVa 256 with
      | .error _ => none
      | .ok r =>
        match s.reasons q r with
        | none => none
        | some [] => if s.launches.length < 4096 && s.succReady (launchOf r q.ctx q.headVa) then some ⟨n, q, r, []⟩ else none
        | some why => some ⟨n, q, r, why⟩

/-- A queue whose head record cannot be read. -/
def State.unreadable (s : State) : Option (Nat × Queue × Cause × Nat) :=
  s.queues.findSome? fun (n, q) =>
    if !q.live then none
    else
      match s.readVa q.ctx q.headVa 256 with
      | .error (.fault c va) => some (n, q, c, va)
      | _ => none

def State.vtOf (s : State) (ctx : Nat) : Nat := (s.vt.get? ctx).getD 0

/-- The decision of R417 over candidates that are not empty: the record, and the state with VT and the contexts of the decision. -/
def State.decide_ (s : State) (cand : List Cand) : Option Cand × State :=
  let top := (cand.map fun c => c.q.prio).foldl Nat.max 0
  let cand := cand.filter fun c => c.q.prio == top
  let ctxs := (cand.map fun c => c.q.ctx).eraseDups
  let old := ctxs.filter s.lastCtxs.contains
  let least := (old.map s.vtOf).foldl Nat.min ((old.map s.vtOf).headD 0)
  let vt := ctxs.foldl (fun m c => if old.isEmpty || old.contains c then m else m.set c (Nat.max (s.vtOf c) least)) s.vt
  let s := { s with vt, lastCtxs := ctxs }
  let best := cand.foldl (fun (b : Option Cand) c =>
    match b with
    | none => some c
    | some x => if s.vtOf c.q.ctx < s.vtOf x.q.ctx || (s.vtOf c.q.ctx == s.vtOf x.q.ctx && decide (c.no < x.no)) then some c else b) none
  (best, s)

/-! ### Placement (R429) -/

/-- A die that has lost both of its links takes no wave (R531): links 0-1, 2-3, 0-2, 1-3. -/
def State.dieLost (s : State) (d : Nat) : Bool :=
  let down := fun (i : Nat) => decide (s.links.toList.getD i 4 < 2)
  match d with
  | 0 => down 0 && down 2
  | 1 => down 0 && down 3
  | 2 => down 1 && down 2
  | _ => down 1 && down 3

/-- The core of launch wave v; `affp` and `affq` stand in the record. A die that takes no wave is replaced by one that does, which
the spec leaves open. -/
def State.placeOf (s : State) (l : Launch) (affp affq v : Nat) : Nat :=
  let linear := fun (q : Nat) => v / Nat.max q 1 % 256
  let t := match l.aff with
    | 0 => linear affq
    | 1 => Nat.xor (Nat.xor v (v / 2 ^ 8)) (Nat.xor (v / 2 ^ 16) (v / 2 ^ 24)) % 256
    | 2 =>
      (match s.homeLeaf l.ctx ((affp + v * affq) % 2 ^ 48) with
      | some f => if f.home / 256 = s.bar.chipid then f.home % 256 else linear 1
      | none => linear 1)
    | _ =>
      match s.readVa l.ctx (affp + v % Nat.max affq 1) 1 with
      | .ok bs => (bs.getD 0 0).toNat
      | .error _ => linear 1
  let dies := (List.range 4).filter fun d => !s.dieLost d
  if s.dieLost (dieOf t) && !dies.isEmpty then dies.getD (Config.choice (s.free + v) % dies.length) 0 * 64 + t % 64 else t

/-! ### Dispatch (R417, R419, R420, R423) -/

/-- The chip's next key: the lowest list index that nothing of an earlier launch still names (R421). -/
def State.nextKey (s : State) : Nat :=
  let key := fun (i : Nat) => s.bar.chipid * 2 ^ 20 + i
  let listed := fun (k : Nat) => (s.launches.get? k).isSome
  let inSlot := fun (k : Nat) (q : Slot) =>
    (q.bobbin.status != .halted && q.bobbin.launch.toNat == k) || q.commands.any fun c => c.launch.toNat == k
  let used := fun (k : Nat) => listed k || s.records.any (fun e => e.key == some k) || s.packets.any (fun p => p.launch.toNat == k && p.ctx != 0)
    || s.cores.any fun e => e.2.saved.any (fun v => v.keys.contains k || v.bobbin.toNat == k) || e.2.slots.any fun q => inSlot k q.2
  match (List.range 4096).find? fun i => !used (key i) with
  | some i => key i
  | none => key (((List.range 4096).find? fun i => !listed (key i)).getD 0)

/-- STATUS, and CPLV at CPLA where there is one. -/
def State.writeEnd (s : State) (key : Option Nat) (l : Launch) (status : Nat) : State :=
  let s := s.deviceWrite key l.ctx (l.record.toNat + 0xF8) (bytesOfNat 4 status)
  if l.cpla = 0 then s else s.deviceWrite key l.ctx l.cpla.toNat (bytesOfNat 8 l.cplv.toNat)

def State.refuse (s : State) (c : Cand) : State :=
  let why := c.reasons.getD (if c.reasons.length ≤ 1 then 0 else Config.choice s.free % c.reasons.length) 1
  let s := if c.reasons.length ≤ 1 then s else s.spend
  s.writeEnd none (launchOf c.record c.q.ctx c.q.headVa) (3 + 256 * why)

/-- Phase objects of a launch: every group is live with all its threads (R328). -/
def Launch.phaseObjects (l : Launch) (key : Nat) : List Phase :=
  l.phaseLevels.flatMap fun n => (List.range (l.groupsAt n)).map fun g => { key, level := n, group := g, live := l.span n }

def State.startLaunch (s : State) (c : Cand) : State :=
  let l := launchOf c.record c.q.ctx c.q.headVa
  let key := s.nextKey
  let ctx := l.ctx
  let ctxrec := match s.rd ctx l.ctxrec.toNat 128 with
    | .bytes b => b
    | .unreadable | .moving => []
  let pbase := (s.pbase.get? ctx).getD 0
  let groups := match l.party? with
    | none => 1
    | some p => l.groupsAt p
  let hmap : DWord := BitVec.ofNat 64 (recN ctxrec 0x60 8)
  let s := { s with hmaps := s.hmaps.set ctx hmap }
  let places := (List.range l.waves).map fun v => s.placeOf l (recN c.record 0xA0 8) (recN c.record 0xA8 4) v
  let l := { l with pbase, groups, places, threads := l.total, live := l.total, order := s.next }
  let share := recN ctxrec 0x18 1
  let s := { s with
    next := s.next + 1
    free := s.free + l.waves
    launches := s.launches.set key l
    pbase := s.pbase.set ctx (pbase + BitVec.ofNat 32 groups)
    ctxrecs := s.ctxrecs.set ctx l.ctxrec
    ptabs := s.ptabs.set ctx (BitVec.ofNat 64 (recN ctxrec 0x68 8))
    btabs := s.btabs.set ctx (BitVec.ofNat 64 (recN ctxrec 0x70 8))
    vt := s.vt.set ctx (s.vtOf ctx + 65536 / Nat.max share 1)
    phases := s.phases ++ l.phaseObjects key }
  let s := (places.mapIdx fun v t => (t, v)).foldl (fun s (t, v) =>
    s.modCore t fun k => { k with placed := k.placed ++ [{ key, wave := v, since := s.next }] }) s
  s.bump.deviceWrite none ctx (l.record.toNat + 0xF8) (bytesOfNat 4 1)

/-- One step of the dispatcher: a refused or dispatched record whose STATUS is still to be written; a head record that cannot be
read (R416); else the choice of R417. -/
def execDispatch (s : State) : Host.Outcome State Fault Refusal :=
  .next (if !s.launchReady then s
    else
      match s.readyRecords.find? fun e => e.key.isNone with
      | some e => s.tryRecord e
      | none =>
        match s.unreadable with
        | some (n, q, c, va) =>
          if c.servable then
            let (w, s) := s.deviceFault q.ctx va (s.homeId 0) c false
            s.setQueue n { q with waiting := some w }
          else (s.setQueue n { q with err := true }).postError c.code q.ctx (s.homeId 0) q.headVa 0 0 .other
        | none =>
          match s.decide_ s.dispatchable with
          | (some c, s') =>
            let s := s'.setQueue c.no { c.q with head := c.q.head + 1 }
            if c.reasons.isEmpty then s.startLaunch c else s.refuse c
          | (none, _) => s)

/-! ### The slot of a context (R251, R253, R429) -/

/-- The slot number that a context may use on a core: its own, or a free one; none while it is switched, leaves or is saved. -/
def State.slotAvailable (s : State) (core ctx : Nat) : Option Nat :=
  let k := s.core core
  match k.slotOf? ctx with
  | some (n, q) => if q.switch == .none && !q.leaving then some n else none
  | none => if k.saved.any fun v => v.ctx == ctx then none else k.slots.freeKey 4

/-- No command on a core names one of the tiles and banks: a command outlives its launch (R375), and nothing of it may reach the
next reservation (R393). -/
def State.stitchIdle (s : State) (core : Nat) (tiles : BitVec 2) (banks : BitVec 4) : Bool :=
  (s.stitchCommands core).all fun x =>
    let (_, bank, tile) := x.2.2.work.path
    !((tile.map fun t => tiles.getLsbD t).getD false) && !((bank.map fun b => banks.getLsbD b).getD false)

/-- Storage, tiles and banks that a context new on the core, or on the die, needs are free (R393, R429). -/
def State.resourcesFree (s : State) (core : Nat) (l : Launch) : Bool :=
  let k := s.core core
  let d := s.die (dieOf core)
  ((k.allocs.get? l.ctx).isSome
    || (decide (sumNat (k.allocs.map fun e => e.2.cspb) + l.cspb ≤ 2 ^ 21)
      && s.stitchIdle core (BitVec.ofNat 2 (field l.ctl2 0 2)) (BitVec.ofNat 4 (field l.ctl2 2 4))
      && k.allocs.all fun e => e.2.tiles &&& BitVec.ofNat 2 (field l.ctl2 0 2) == 0 && e.2.banks &&& BitVec.ofNat 4 (field l.ctl2 2 4) == 0))
  && ((d.allocs.get? l.ctx).isSome || decide (sumNat (d.allocs.map Prod.snd) + l.dspb ≤ 2 ^ 26))

/-- The records that a grant of a slot reads: the context record and the bolt window (R251, R556). -/
def State.grantReads (s : State) (ctx : Nat) : Except MemStop (List Byte × List Byte) :=
  match s.readVa ctx ((s.ctxrecs.get? ctx).getD 0).toNat 128, s.readVa ctx (field ((s.btabs.get? ctx).getD 0) 0 48) 1024 with
  | .ok a, .ok b => .ok (a, b)
  | .error e, _ => .error e
  | _, .error e => .error e

/-- A slot as it is given to a context (R253). -/
def State.freshSlot (s : State) (core ctx : Nat) (rec_ bolts : List Byte) (slackTab : List (BitVec 12)) (ovt : BitVec 48) : Slot :=
  { ctx, bobbin := { tid := s.next, regs := Regs.zeroW, pc := 0, clause := 0, status := .halted, slack := slackTab.getD 0 0xFFF }
    tvec := BitVec.ofNat 32 (recN rec_ 0 4), svvec := BitVec.ofNat 32 (recN rec_ 4 4), rsvec := BitVec.ofNat 32 (recN rec_ 8 4)
    svstride := BitVec.ofNat 32 (recN rec_ 0x0C 4), svbase := BitVec.ofNat 48 (recN rec_ 0x10 8)
    sbolt := Vector.ofFn fun (i : Fin 4) => BitVec.ofNat 128 (recN rec_ (0x20 + 16 * i.val) 16)
    qcount := (s.core core).quantum
    bolts := Vector.ofFn fun (i : Fin 64) => BitVec.ofNat 128 (recN bolts (16 * i.val) 16)
    slackTab := Vector.ofFn fun (i : Fin 8) => slackTab.getD i.val 0
    ovt, since := s.next }

/-- The hoop area from its image: HEAD, TAIL, CLAIM and ENGREF are 0 and ALLOW is C for each valid descriptor. -/
def hoopImage (image : List Byte) : List Byte :=
  (List.range 32).flatMap fun i =>
    let h := Hoop.ofNat (recN image (16 * i) 16)
    bytesOfNat 16 (if h.valid then { h with head := 0, tail := 0, claim := 0, allow := h.cap, engref := 0 } else h).toNat

/-- Reserve and clear tiles and banks (R393). -/
def State.reserve (s : State) (core : Nat) (tiles : BitVec 2) (banks : BitVec 4) : State :=
  let s := (List.range 2).foldl (fun s i =>
    if tiles.getLsbD i then (s.clearStore (tileKey core i 0 0) (2 ^ 19)).modCore core fun k => { k with tileStatus := k.tileStatus.setIfInBounds i 0 }
    else s) s
  (List.range 4).foldl (fun s i =>
    if banks.getLsbD i then (s.clearStore (bankKey core i 0 0) (2 ^ 20)).modCore core fun k => { k with banks := k.banks.setIfInBounds i {} }
    else s) s

/-- The allocations of a context new on a core. -/
def State.allocate (s : State) (core : Nat) (l : Launch) (image : List Byte) : State :=
  let s := if ((s.core core).allocs.get? l.ctx).isSome then s
    else
      let a : Alloc := { cspb := l.cspb, tiles := BitVec.ofNat 2 (field l.ctl2 0 2), banks := BitVec.ofNat 4 (field l.ctl2 2 4) }
      let s := (s.clearStore (coreKey core l.ctx 0) (2 ^ 21)).modCore core fun k => { k with allocs := k.allocs.set l.ctx a }
      let s := if l.cspb = 0 then s else { s with mem := Memory.setBytes s.mem (coreKey core l.ctx 0) (hoopImage image) }
      s.reserve core a.tiles a.banks
  let d := dieOf core
  if ((s.die d).allocs.get? l.ctx).isSome then s
  else (s.clearStore (dieKey d l.ctx 0) (2 ^ 26)).modDie d fun d => { d with allocs := d.allocs.set l.ctx l.dspb }

/-- Start, or restart, a halted bobbin at the entry that a launch names (R238); it takes the launch's overlay table (R486). -/
def State.startBobbin (s : State) (core n key : Nat) (l : Launch) : State :=
  match s.slot? core n with
  | none => s
  | some q =>
    if ovlOf l.bentry == 0xFFFF || q.bobbin.status != .halted then s
    else
      let b : Hart :=
        { tid := q.bobbin.tid, regs := Regs.zeroW, pc := l.bentry, clause := l.bentry, launch := BitVec.ofNat 32 key
          slack := q.slackTab.toList.getD 0 0xFFF, late := q.bobbin.late }
      s.modSlot core n fun q => { q with bobbin := b.startAt l.bentry, ovt := l.ovt }

/-- The first core of a launch in a unit: that of its lowest wave there; a core that only arrivals reach, where it has none. -/
def Launch.firstCore (l : Launch) (sp core : Nat) : Nat := (l.places.find? fun c => stagingUnit sp c == stagingUnit sp core).getD core

/-- The regions of a launch for a core, its cluster and its die that are not staged, nor to be (R429). -/
def State.newStagings (s : State) (core key : Nat) (l : Launch) : List Staging :=
  (List.range 4).filterMap fun i =>
    let (_, sp, _, n) := l.region i
    let unit := stagingUnit sp core
    if n = 0 || s.stagings.any (fun e => e.key == key && e.region == i && e.unit == unit) then none
    else some { key, region := i, unit, core := l.firstCore sp core }

/-- A launch holds a core from now on (R431); a change of their number clears the L1 (R453). -/
def State.holdCore (s : State) (core n key : Nat) (l : Launch) : State :=
  if l.cores.contains core then s
  else
    let s := { s with launches := s.launches.set key { l with cores := l.cores ++ [core] }, stagings := s.stagings ++ s.newStagings core key l }
    (s.modCore core fun k => { k with resident := k.resident ++ [key], l1 := [] }).startBobbin core n key l

/-- The slot of a context, where it has none; `sizes` is the launch whose slack table and overlay table it takes. -/
def State.giveSlot (s : State) (core n : Nat) (sizes : Launch) : Except MemStop State :=
  if (s.slotOf? core sizes.ctx).isSome then .ok s
  else
    (s.grantReads sizes.ctx).map fun (rec_, bolts) =>
      let q := s.freshSlot core sizes.ctx rec_ bolts sizes.slacks sizes.ovt
      s.bump.modCore core fun k => { k with slots := k.slots.set n q }

/-- Give a launch's context its slot and its allocations on the core, where it has none, and make the core the launch's (R429); for
arrivals the sizes are those of another launch (R436). -/
def State.grant (s : State) (core n key : Nat) (l sizes : Launch) : Except MemStop State :=
  let image := if sizes.init = 0 || ((s.core core).allocs.get? l.ctx).isSome then .ok [] else s.readVa l.ctx sizes.init.toNat 512
  match s.giveSlot core n sizes, image with
  | .ok s, .ok image => .ok ((s.allocate core sizes image).holdCore core n key l)
  | .error e, _ => .error e
  | _, .error e => .error e

/-! ### Waves (R26, R136, R429) -/

/-- The threads of a launch wave. -/
def Launch.waveLanes (l : Launch) (key wave tid : Nat) (slack : BitVec 12) : KMap Hart :=
  ((List.range 64).filter fun i => decide (64 * wave + i < l.threads)).map fun i =>
    let h : Hart := { tid := tid + i, regs := Regs.zeroX, pc := l.entry, clause := l.entry, ordinal := BitVec.ofNat 32 (64 * wave + i)
                      launch := BitVec.ofNat 32 key, slack }
    (i, h.startAt l.entry)

def State.admitWave (s : State) (core n w key wave : Nat) (l : Launch) : State :=
  let slack := ((s.slot? core n).map fun q => q.slackTab.toList.getD 0 0xFFF).getD 0xFFF
  let v : Wave := { ctx := l.ctx, launch := BitVec.ofNat 32 key, arrival := false, lanes := l.waveLanes key wave s.next slack }
  let s := (s.clearSlices core w).modCore core fun k => { k with
    waves := k.waves.set w v, placed := k.placed.filter fun p => !(p.key == key && p.wave == wave) }
  { s with next := s.next + 64 }

/-- Work that waits at a core: a placed wave; or arrivals of a launch, spilled or at a spool, with the launch whose sizes their
admission takes, and since when (R429, R436). -/
inductive Work_ where
  | wave (p : Placed) (l : Launch)
  | arrivals (key : Nat) (l sizes : Launch) (since : Nat)
deriving DecidableEq, Repr

def Work_.launch : Work_ → Launch
  | .wave _ l => l
  | .arrivals _ l _ _ => l
def Work_.sizes : Work_ → Launch
  | .wave _ l => l
  | .arrivals _ _ l _ => l
def Work_.since : Work_ → Nat
  | .wave p _ => p.since
  | .arrivals _ _ _ n => n

/-- The oldest running launch of a context. -/
def State.oldestLaunch (s : State) (ctx : Nat) : Option (Nat × Launch) :=
  (sortBy (fun (e : Nat × Launch) => e.2.order) (s.launches.filter fun e => e.2.ctx == ctx)).head?

/-- Arrivals that wait for an admission: spilled ones of a context without a slot, and those that would form a wave at a spool. -/
def State.waitingArrivals (s : State) (core : Nat) : List Arrival :=
  let k := s.core core
  (k.spill.filter fun a => !a.resend && (k.slotOf? a.ctx).isNone && !k.saved.any (fun v => v.ctx == a.ctx))
    ++ k.spoolKeys.flatMap fun (spool, key) => s.spoolWaits core spool key

/-- The work that waits at a core, by the numbers that its placement or its arrival took. -/
def State.waitNames (s : State) (core : Nat) : List Nat := (s.core core).placed.map Placed.since ++ (s.waitingArrivals core).map Arrival.seq

/-- The launch for which a context asks for a slot: of its first spilled arrival, else its oldest, as for a readmission (R556). -/
def State.askKey (s : State) (core ctx : Nat) : Option Nat :=
  match (s.core core).spill.find? fun a => a.ctx == ctx with
  | some a => some a.needle.launch.toNat
  | none => (s.oldestLaunch ctx).map Prod.fst

/-- The first waiting wave of each context, in dispatch order, and each launch whose arrivals wait. -/
def State.waitingWork (s : State) (core : Nat) : List Work_ :=
  let k := s.core core
  let waves := k.placed.filterMap fun p => (s.launches.get? p.key).map fun l => (p, l)
  let firsts := waves.filter fun e => ((waves.find? fun x => x.2.ctx == e.2.ctx).map Prod.fst) == some e.1
  let arrivals := s.waitingArrivals core
  let keys := (arrivals.map fun a => a.needle.launch.toNat).eraseDups
  (firsts.map fun e => Work_.wave e.1 e.2) ++ keys.filterMap fun key => (s.launches.get? key).map fun l =>
    let seqs := (arrivals.filter fun a => a.needle.launch.toNat == key).map Arrival.seq
    .arrivals key l (((s.oldestLaunch l.ctx).map Prod.snd).getD l) (seqs.foldl Nat.min (seqs.headD 0))

/-- Can the work be taken up now, whatever the memory that it reads holds? -/
def State.workFits (s : State) (core : Nat) (w : Work_) : Bool :=
  (s.slotAvailable core w.launch.ctx).isSome && s.resourcesFree core w.sizes && (match w with
    | .wave p l => !(s.core core).freeWaves.isEmpty && p.waiting.isNone && !p.failed
        && (!l.cores.contains core || s.stagedHere core p.key)
    | .arrivals key l _ _ => ((s.core core).asks.get? l.ctx).isNone && ((s.slotOf? core l.ctx).isNone || !s.holds core key))

/-- The reads of an admission meet a moving page. -/
def State.grantMoving (s : State) (core : Nat) (w : Work_) : Bool :=
  match s.grant core 0 0 w.launch w.sizes with
  | .error .moving => true
  | _ => false

def State.admissible (s : State) (core : Nat) : List Work_ := (s.waitingWork core).filter fun w => s.workFits core w && !s.grantMoving core w

/-- Highest priority of a context's launches. -/
def State.ctxPrio (s : State) (ctx : Nat) : Nat := ((s.launches.filter fun e => e.2.ctx == ctx).map fun e => e.2.prio).foldl Nat.max 0

/-- Does work go before a saved context: by its priority, and at equal priority if it waited before the context left (R435,
R548)? -/
def State.goesBefore (s : State) (v : SavedCtx) (w : Work_) : Bool :=
  decide (s.ctxPrio v.ctx < w.launch.prio) || (w.launch.prio == s.ctxPrio v.ctx && decide (w.since < v.since))

def State.modPlaced (s : State) (core : Nat) (p : Placed) (f : Placed → Placed) : State :=
  s.modCore core fun k => { k with placed := k.placed.map fun x => if x.key == p.key && x.wave == p.wave then f x else x }

/-- The reads that a context's slot needs have failed: served by the fault service, or reported as a staging failure (R556). -/
def State.askFails (s : State) (core ctx : Nat) (c : Cause) (va : Nat) : State :=
  if c.servable then
    let (wait, s) := s.deviceFault ctx va (s.homeId core) c false
    s.modCore core fun k => { k with asks := k.asks.set ctx (some wait) }
  else (s.modCore core fun k => { k with asks := k.asks.set ctx none }).postError c.code ctx (s.homeId core) va 0 0 (.admission core ctx)

/-- An admission whose reads have failed (R556). -/
def State.admissionFails (s : State) (core : Nat) (w : Work_) (c : Cause) (va : Nat) : State :=
  let ctx := w.launch.ctx
  let (wait, s') := s.deviceFault ctx va (s.homeId core) c false
  match w with
  | .wave p _ =>
    if c.servable then s'.modPlaced core p fun p => { p with waiting := some wait }
    else (s.modPlaced core p fun p => { p with failed := true }).postError c.code ctx (s.homeId core) va 0 0 (.staging p.key core 4)
  | .arrivals _ _ _ _ => s.askFails core ctx c va

/-- Take up one piece of work: the slot, then the wave once its regions are staged. -/
def State.takeUp (s : State) (core : Nat) (w : Work_) : State :=
  match s.slotAvailable core w.launch.ctx with
  | none => s
  | some n =>
    match w with
    | .wave p l =>
      (match s.grant core n p.key l l with
      | .error (.fault c va) => s.admissionFails core w c va
      | .error .moving => s
      | .ok s' =>
        match s'.launches.get? p.key, (s'.core core).freeWaves.head? with
        | some l, some slot => if s'.stagedHere core p.key then s'.admitWave core n slot p.key p.wave l else s'
        | _, _ => s')
    | .arrivals key l sizes _ =>
      match s.grant core n key l sizes with
      | .error (.fault c va) => s.admissionFails core w c va
      | .error .moving => s
      | .ok s' => s'

/-- The work that the core takes up next: of the waves the first in dispatch order, or a context of spilled arrivals, which a free
choice ranks among them. -/
def State.nextWork (s : State) (ws : List Work_) : Option Work_ :=
  let isWave := fun (w : Work_) => match w with
    | .wave _ _ => true
    | .arrivals _ _ _ _ => false
  let firsts := (ws.filter isWave).take 1 ++ ws.filter fun w => !isWave w
  firsts[(if firsts.length ≤ 1 then 0 else Config.choice s.free % firsts.length)]?

/-! ### Staging (R429) -/

def State.modStaging (s : State) (e : Staging) (f : Staging → Staging) : State :=
  { s with stagings := s.stagings.map fun x => if x.key == e.key && x.region == e.region && x.unit == e.unit then f x else x }

/-- A cluster region reaches a window that the context does not hold. -/
def State.windowMissing (s : State) (core ctx sp off n : Nat) : Bool :=
  sp == 2 && (List.range 4).any fun q =>
    let lo := Nat.max off (q * 0x80000)
    let hi := Nat.min (off + n) (q * 0x80000 + 0x80000)
    decide (lo < hi) && decide (s.nearEnd core ctx 2 lo < hi)

/-- What staging a region now gives. -/
def State.stage (s : State) (e : Staging) (l : Launch) : Except MemStop State :=
  let (src, sp, off, n) := l.region e.region
  if s.windowMissing e.core l.ctx sp off n then .error (.fault .bounds off)
  else
    match (if src = 0 then .ok (List.replicate n 0) else s.readVa l.ctx src n) with
    | .error x => .error x
    | .ok bs => .ok ((s.storeNear e.core l.ctx sp off bs).modStaging e fun e => { e with done := true })

/-- May the region be staged now? -/
def State.stageDue (s : State) (e : Staging) : Bool :=
  !e.done && e.waiting.isNone && !e.failed && !s.bulkOut (.staging e.key e.region e.unit) && (match s.launches.get? e.key with
    | none => false
    | some l => (match s.slotOf? e.core l.ctx with
        | some (_, q) => q.switch == .none && !q.leaving
        | none => false)
      && (match s.stage e l with
        | .error .moving => false
        | _ => true))

/-- A staging failure is reported to the host (R530). -/
def State.stagingFailed (s : State) (e : Staging) (ctx : Nat) (c : Cause) (va : Nat) : State :=
  (s.modStaging e fun e => { e with failed := true, waiting := none }).postError c.code ctx (s.homeId e.core) va 0 0 (.staging e.key e.core e.region)

/-- The data of a region are on their way from other homes (R439). -/
def State.askStaging (s : State) (e : Staging) (l : Launch) : State :=
  let (src, _, _, n) := l.region e.region
  let lines := if src = 0 then [] else (List.range ((src % 64 + n + 63) / 64)).map fun i => (src / 64 + i) % 2 ^ 42
  (s.modStaging e fun e => { e with asked := true }).sendBulk e.core l.ctx (BitVec.ofNat 32 e.key) 0xFFF (.staging e.key e.region e.unit) lines false

def execStagingCompletion (core key region : Nat) (s : State) : Host.Outcome State Fault Refusal :=
  .next (match s.stagings.find? fun e => e.core == core && e.key == key && e.region == region, s.launches.get? key with
  | some e, some l =>
    if !s.stageDue e then s
    else
      match s.stage e l with
      | .ok s' =>
        let asked := s.askStaging e l
        if !e.asked && asked.bulkOut (.staging e.key e.region e.unit) then asked else s'
      | .error .moving => s
      | .error (.fault c va) =>
        if c.servable then
          let (w, s) := s.deviceFault l.ctx va (s.homeId core) c false
          s.modStaging e fun e => { e with waiting := some w }
        else s.stagingFailed e l.ctx c va
  | _, _ => s)

/-- A launch whose staging the host refuses: its threads end, wherever they are (R530). -/
def State.failLaunch (s : State) (key : Nat) : State :=
  match s.launches.get? key with
  | none => s
  | some l =>
    let k : Word := BitVec.ofNat 32 key
    let mine := s.refs.filter fun r => match r.agent, s.hart? r with
      | .wave _ _, some h => h.launch == k
      | _, _ => false
    let s := mine.foldl (fun s r => (s.unsleep r).debugLeave r) s
    let clean := fun (c : Core) => { c.leaveWaves fun e => e.2.launch == k with
      spawnQ := c.spawnQ.filter fun t => t.needle.launch != k
      store := c.store.filter fun a => a.needle.launch != k
      spill := c.spill.filter fun a => a.needle.launch != k
      placed := c.placed.filter fun p => p.key != key }
    let moving := fun (p : Packet) => match p.body with
      | .needle _ | .task _ _ | .refusal _ _ | .increment _ _ _ _ | .phaseArrive _ _ _ _ _ => p.launch == k
      | _ => false
    { s with
      cores := s.cores.mapVals fun _ c => clean c
      packets := s.packets.filter fun p => !moving p
      phases := s.phases.filter fun p => p.key != key
      stagings := s.stagings.filter fun e => e.key != key
      launches := s.launches.set key { l with live := 0, failed := true } }

/-! ### Completion (R295, R430) -/

/-- Parties of a whole launch. -/
def Launch.allParties (l : Launch) : Word × Nat := (l.pbase, l.groups)

/-- Erase a context's allocations and reservations on a core where it holds no launch any more (R430). -/
def State.releaseAlloc (s : State) (core ctx : Nat) : State :=
  if s.launches.any fun e => e.2.ctx == ctx && e.2.cores.contains core then s
  else
    let s := s.modCore core fun k => { k with allocs := k.allocs.erase ctx, claims := k.claims.filter fun e => e.1 != ctx }
    let d := dieOf core
    if s.cores.any fun e => dieOf e.1 == d && (e.2.allocs.get? ctx).isSome then s
    else s.modDie d fun d => { d with allocs := d.allocs.erase ctx }

/-- Nothing holds a launch's record, launch-state line and resources any more. -/
def State.finishLaunch (s : State) (key : Nat) (l : Launch) : State :=
  let s := { s with
    launches := s.launches.erase key
    eclasses := s.eclasses.set key (field l.ctl 19 4)
    phases := s.phases.filter fun p => p.key != key
    stagings := s.stagings.filter fun e => e.key != key
    dies := s.dies.mapVals fun _ d => { d with launchCache := d.launchCache.filter (· != key) } }
  let s := s.lineChanged (launchState l key)
  let s := l.cores.foldl (fun s c =>
    let s := s.modCore c fun k => if k.resident.contains key then { k with resident := k.resident.filter (· != key), l1 := [] } else k
    if s.launches.any fun e => e.2.ctx == l.ctx && e.2.cores.contains c then s
    else (s.releaseAlloc c l.ctx).modCore c fun k => { k with saved := k.saved.filter fun v => v.ctx != l.ctx }) s
  if l.cpla = 0 then s else s.deviceWrite (some key) l.ctx l.cpla.toNat (bytesOfNat 8 l.cplv.toNat)

/-- STATUS of a launch that ends. -/
def Launch.status (l : Launch) : Nat := if l.failed then 3 + 256 * 10 else 2

/-- The last step of a completion: STATUS, then the rest. -/
def State.complete (s : State) (key : Nat) (l : Launch) : State :=
  let va := (l.record.toNat + 0xF8) % 2 ^ 48
  match s.storeVa l.ctx va (bytesOfNat 4 l.status) with
  | .ok s => s.finishLaunch key l
  | .error .moving => s
  | .error (.fault c a) =>
    if c.servable then
      let (w, s) := s.deviceFault l.ctx a (s.homeId 0) c true
      { s with launches := s.launches.set key { l with waiting := some w } }
    else (s.postError c.code l.ctx (s.homeId 0) a 0 0 .other 1).finishLaunch key l

/-- May the completion of a launch go on? -/
def State.completionDue (s : State) (l : Launch) : Bool :=
  l.live == 0 && l.waiting.isNone && (match l.drained with
    | none => true
    | some false => false
    | some true => !s.records.any (fun e => e.ctx == l.ctx) && (match s.storeVa l.ctx ((l.record.toNat + 0xF8) % 2 ^ 48) (bytesOfNat 4 l.status) with
        | .error .moving => false
        | _ => true))

def execLaunchCompletion (key : Nat) (s : State) : Host.Outcome State Fault Refusal :=
  .next (match s.readyRecords.find? fun e => e.key == some key with
  | some e => s.tryRecord e
  | none =>
    match s.launches.get? key with
    | none => s
    | some l =>
      if !s.completionDue l then s
      else if l.drained = some true then s.complete key l
      else
        let (first, n) := l.allParties
        ({ s with launches := s.launches.set key { l with drained := some false } }).startDrain (l.coordinator 0 0) l.ctx key first n (.completion key))

/-! ### What is due -/

def State.launchDue (s : State) : List Instr :=
  let recs := s.readyRecords
  (if s.launchReady && (recs.any (fun e => e.key.isNone) || s.unreadable.isSome || !s.dispatchable.isEmpty) then [.dispatch] else [])
    ++ ((recs.filterMap Record.key).map .launchCompletion)
    ++ ((s.launches.filter fun e => s.completionDue e.2).map fun e => .launchCompletion e.1)
    ++ ((s.stagings.filter s.stageDue).map fun e => .stagingCompletion e.core e.key e.region)

end Sys2Proof.Machine
end

