-- ==== Sys2Proof/Machine/Switch.lean ====
section
/-! DEFINITION. Which context holds a core: pre-emption (R269 to R271, R435, R558), release of a slot (R271, R431), readmission (R273,
R275), and the admission of waiting work beside it (R429). -/

namespace Sys2Proof.Machine

/-! ### Pre-emption -/

/-- The storage, tiles and banks that work lacks are held by contexts resident on the core. -/
def State.residentHolds (s : State) (core : Nat) (l : Launch) : Bool :=
  let keep := fun {α : Type} (m : KMap α) => m.filter fun e => ((s.core core).slotOf? e.1).isNone
  let s' := (s.modCore core fun k => { k with allocs := keep k.allocs }).modDie (dieOf core) fun d => { d with allocs := keep d.allocs }
  !s.resourcesFree core l && s'.resourcesFree core l

/-- Work that cannot be taken up for want of a slot, or of resources that resident contexts hold. -/
def State.workBlocked (s : State) (core : Nat) (w : Work_) : Bool :=
  let k := s.core core
  let noWave := (k.waves.freeKey 64).isNone && (match w with
    | .wave _ _ => true
    | .arrivals _ l _ _ => (k.slotOf? l.ctx).isSome)
  let noSlot := (k.slotOf? w.launch.ctx).isNone && (k.slots.freeKey 4).isNone
  !(k.saved.any fun v => v.ctx == w.launch.ctx) && (noWave || noSlot || s.residentHolds core w.sizes)

/-- A notice is outstanding for a context on a core (R558). -/
def State.noticed (s : State) (core ctx : Nat) : Bool :=
  (s.posted.map Posted.report ++ s.unposted.map Unposted.report).contains (.notice core ctx)

/-- The host has declined the pre-emption of a context, and no work has started to wait since (R558). -/
def State.declines (s : State) (core ctx : Nat) : Bool :=
  (((s.core core).declined.get? ctx).map fun names => (s.waitNames core).all names.contains).getD false

/-- A resident context that QCOUNT = 0 and waiting work let the core pre-empt. -/
def State.expired (s : State) (core : Nat) (q : Slot) : Bool :=
  q.qcount == 0 && !q.service && q.switch == .none && !q.leaving && !(s.hostMode 2 && (s.noticed core q.ctx || s.declines core q.ctx))
    && (s.waitingWork core).any fun w => w.launch.ctx != q.ctx && s.workBlocked core w && decide (s.ctxPrio q.ctx ≤ w.launch.prio)

/-- The slot to pre-empt: one for which the host has asked; else the lowest priority, then the longest resident; none while the core runs a switch. -/
def State.nextExpired (s : State) (core : Nat) : Option Nat :=
  let k := s.core core
  if k.slots.any fun e => e.2.switch != .none then none
  else if let some e := k.slots.find? fun e => e.2.asked then some e.1
  else ((sortBy (fun (e : Nat × Slot) => s.ctxPrio e.2.ctx * 2 ^ 64 + e.2.since) (k.slots.filter fun e => s.expired core e.2)).head?).map Prod.fst

/-- PRE-EMPTION (R269): stops become pending at every thread of the context on the core. -/
def State.preemptContext (s : State) (core slot : Nat) : State :=
  match s.slot? core slot with
  | none => s
  | some q =>
    let order := ((s.core core).waves.filter fun e => e.2.ctx == q.ctx).map Prod.fst
    let s := s.modSlot core slot fun q => { q with switch := .saving, saveOrder := order, asked := false }
    (s.threadsOf core q.ctx).foldl (fun s r => s.preemptLane r) s

/-- QCOUNT has reached 0 and work waits: the core pre-empts, or posts a notice (R558). -/
def execQuantumExpiry (core slot : Nat) (s : State) : Host.Outcome State Fault Refusal :=
  .next (if s.nextExpired core != some slot then s
    else
      match s.slot? core slot with
      | none => s
      | some q =>
        if q.asked || !s.hostMode 2 then s.preemptContext core slot
        else s.postError 0x19 q.ctx (s.homeId core) 0 0 0 (.notice core q.ctx))

/-- Every thread of the context on the core is saved (R271). -/
def State.allSaved (s : State) (core ctx : Nat) : Bool :=
  (s.threadsOf core ctx).all fun r => ((s.hart? r).map fun h => h.status == .saved).getD true

/-- The bobbin's turn has come: its stop is to become pending, or, once it has halted, its save handler starts. -/
def State.bobbinTurn (s : State) (core : Nat) (q : Slot) : Bool :=
  (q.switch == .saving && s.allSaved core q.ctx) || (q.switch == .bobbin && q.bobbin.status == .halted)

/-- The start of a halted bobbin at SVVEC, which is not a trap entry (R271, R275); REPSTEP keeps its value (R248). -/
def Hart.startSave (h : Hart) (vector : Word) : Hart :=
  { h with status := .running, rep := none, preemptDue := false, debugDue := none, debugStep := false
           tstate := { priv := true, trapped := true, svh := true }
           trap := h.trap.cleared }.startAt vector

def execBobbinPreempt (core slot : Nat) (s : State) : Host.Outcome State Fault Refusal :=
  .next (match s.slot? core slot with
  | none => s
  | some q =>
    if !s.bobbinTurn core q then s
    else
      let s := s.modSlot core slot fun q => { q with switch := .bobbin }
      if q.bobbin.status == .halted then
        (s.modSlot core slot fun q => { q with bobbin := q.bobbin.startSave q.svvec }).freeze core slot
      else s.preemptLane ⟨core, .bobbin slot, q.bobbin.tid⟩)

/-! ### Release of a slot -/

/-- A switched-out context leaves its slot once none of its commands is queued or fired for it (R271). -/
def Slot.leaves (q : Slot) : Bool := q.leaving && q.commands.isEmpty

/-- Waves of the context have left in this cycle: its slot lasts to the end of it (R548). -/
def Core.lingers (k : Core) (ctx : Nat) : Bool := k.departed.any fun e => e.2 == ctx

/-- Nothing keeps the slot but waves that have just left (R431). -/
def State.unheld (s : State) (core : Nat) (q : Slot) : Bool :=
  !q.service && !q.leaving && q.switch == .none && q.commands.isEmpty
    && !(s.launches.any fun e => e.2.ctx == q.ctx && e.2.cores.contains core)
    && (s.threadsOf core q.ctx).isEmpty && !((s.core core).store.any fun a => a.ctx == q.ctx)

/-- Launches of a context leave or join those resident on a core; a change of their number clears the L1 (R453). -/
def State.setResident (s : State) (core ctx : Nat) (on : Bool) : State :=
  let keys := (sortBy (fun (e : Nat × Launch) => e.2.order) (s.launches.filter fun e => e.2.ctx == ctx && e.2.cores.contains core)).map Prod.fst
  if keys.isEmpty then s
  else s.modCore core fun k => { k with
    l1 := [], resident := k.resident.filter (fun x => !keys.contains x) ++ (if on then keys else []) }

/-- The slot is free; copies of the context's records go with it, so that they cannot outlive a change, nor a later change be undone
(R483). -/
def execContextSlotRelease (core slot : Nat) (s : State) : Host.Outcome State Fault Refusal :=
  .next (match s.slot? core slot with
  | none => s
  | some q =>
    if !(q.leaves || s.unheld core q) || (s.core core).lingers q.ctx then s
    else
      let s := ((s.overtake core (·.isBolt q.ctx)).unsleep ⟨core, .bobbin slot, q.bobbin.tid⟩).modCore core fun k => { k with
        slots := k.slots.erase slot, patterns := k.patterns.filter fun e => e.1 != q.ctx }
      if q.leaving then s.setResident core q.ctx false else s.releaseAlloc core q.ctx)

/-! ### Readmission (R273, R275) -/

/-- What a switch record gives: NWAVE, BRUN, SLKT, BOVT, the bytes of the wave table and of the threads. -/
structure SwitchRecord where
  nwave : Nat
  brun : Bool
  slacks : List (BitVec 12)
  ovt : BitVec 48
  waves : List Byte
  threads : List Byte
deriving DecidableEq, Repr

/-- Pieces of a read that counts as a thread's: a registered destination range raises RANGE_LOCK (R306). -/
def State.readThreadPieces (s : State) (ctx : Nat) : List (Nat × Nat) → Except MemStop (List Byte)
  | [] => .ok []
  | (a, n) :: rest =>
    match s.translate ctx (a % 2 ^ 48) false with
    | .fault c => .error (.fault c a)
    | .moving => .error .moving
    | .ok _ =>
      if s.rangeLocked ctx (a % 2 ^ 48) n false then .error (.fault .rangeLock a)
      else
        match s.readVa ctx a n, s.readThreadPieces ctx rest with
        | .ok bs, .ok more => .ok (bs ++ more)
        | .error e, _ | _, .error e => .error e

/-- A read by request of the core, line by line, as a load at TRAPPED = 1 is made (R273, R274). -/
def State.readRun (s : State) (ctx va n : Nat) : Except MemStop (List Byte) :=
  s.readThreadPieces ctx ((linePieces va (List.replicate n 0)).map fun e => (e.1, e.2.length))

/-- The read of a switch record; the outer none says that its CTX or NWAVE is wrong. -/
def State.readSwitch (s : State) (core : Nat) (v : SavedCtx) : Except MemStop (Option SwitchRecord) :=
  let sw := switchBase s core v.svbase
  match s.readRun v.ctx sw 0x20 with
  | .error e => .error e
  | .ok head =>
    let n := recN head 0 2
    if recN head 4 2 != v.ctx || decide (64 < n) then .ok none
    else
      match s.readRun v.ctx (sw + 0x40) (64 * n), s.readRun v.ctx (sw + 0x1040) (1024 * n) with
      | .ok waves, .ok threads =>
        .ok (some { nwave := n, brun := (head.getD 2 0).getLsbD 0
                    slacks := (List.range 8).map fun i => BitVec.ofNat 12 (recN head (8 + 2 * i) 2)
                    ovt := BitVec.ofNat 48 (recN head 0x18 8), waves, threads })
      | .error e, _ => .error e
      | _, .error e => .error e

/-- A saved thread as the record rebuilds it. -/
def SwitchRecord.hart (t : SwitchRecord) (v : SavedCtx) (key : Word) (fresh i : Nat) : Hart :=
  let tid := (v.tids.get? i).getD (fresh + i)
  let flags := t.threads.getD (16 * i + 6) 0
  { tid, regs := Regs.zeroX, pc := 0, clause := 0, ordinal := BitVec.ofNat 32 (recN t.threads (16 * i) 4), launch := key
    slack := BitVec.ofNat 12 (recN t.threads (16 * i + 4) 2), spwn := flags.getLsbD 0, txStopped := flags.getLsbD 1
    trap := { svidx := BitVec.ofNat 12 i }, status := .saved, late := (v.late.filter fun e => e.1 == tid).map Prod.snd
    phaseTrap := (v.phaseTraps.find? fun e => e.1 == tid).map Prod.snd }

/-- The waves of a record whose launches still run, by ordinal. -/
def SwitchRecord.rebuilt (t : SwitchRecord) (s : State) (v : SavedCtx) : List Wave :=
  (List.range t.nwave).filterMap fun k =>
    let mask := recN t.waves (64 * k) 8
    let launch : Word := BitVec.ofNat 32 (recN t.waves (64 * k + 8) 4)
    let lanes := ((List.range 64).filter fun l => mask.testBit l).map fun l => (l, t.hart v launch s.next (64 * k + l))
    if lanes.isEmpty || (s.launch? launch).isNone || s.launches.any (fun e => e.1 == launch.toNat && e.2.failed) then none
    else some { ctx := v.ctx, launch, arrival := (t.waves.getD (64 * k + 12) 0) == 1, lanes }

def State.modSaved (s : State) (core ctx : Nat) (f : SavedCtx → SavedCtx) : State :=
  s.modCore core fun k => { k with saved := k.saved.map fun v => if v.ctx = ctx then f v else v }

/-- The next context to return to a core, in the order in which they left; one whose record the host has still to answer for lets
the next one pass. -/
def State.nextSaved (s : State) (core : Nat) : Option SavedCtx := (s.core core).saved.find? fun v => !v.failed

/-- Can the context return now? A record that cannot be read lets it try, and fail. -/
def State.returns (s : State) (core : Nat) (v : SavedCtx) : Bool :=
  let k := s.core core
  (k.asks.get? v.ctx).isNone && (k.slots.freeKey 4).isSome && !(k.slots.any fun e => e.2.switch != .none || e.2.ctx == v.ctx)
    && (match s.readSwitch core v, s.grantReads v.ctx with
      | .error .moving, _ | _, .error .moving => false
      | .ok (some t), .ok _ => decide ((t.rebuilt s v).length ≤ k.freeWaves.length)
      | _, _ => true)

/-- Waiting work that may be taken up now, beside the context that waits to return. -/
def State.admitNow (s : State) (core : Nat) : List Work_ :=
  let ws := s.admissible core
  match s.nextSaved core with
  | none => ws
  | some v => if s.returns core v then ws.filter fun w => s.goesBefore v w else ws

def execWaveAdmission (core : Nat) (s : State) : Host.Outcome State Fault Refusal :=
  .next (match s.nextWork (s.admitNow core) with
  | none => s
  | some w => s.spend.takeUp core w)

/-- The context that returns next, once no work goes before it. -/
def State.readmits (s : State) (core : Nat) : Option SavedCtx :=
  (s.nextSaved core).filter fun v => s.returns core v && !(s.admissible core).any fun w => s.goesBefore v w

/-- The read of the record has failed (R273). -/
def State.readmissionFails (s : State) (core : Nat) (v : SavedCtx) (cause va : Nat) : State :=
  (s.modSaved core v.ctx fun v => { v with failed := true }).postError cause v.ctx (s.homeId core) va 0 0 (.switchRead core v.ctx)

/-- Step 1 and 2 of R275: the slot, the waves, and the bobbin at RSVEC. -/
def State.readmit (s : State) (core n : Nat) (v : SavedCtx) (t : SwitchRecord) (rec_ bolts : List Byte) : State :=
  let q := s.freshSlot core v.ctx rec_ bolts t.slacks t.ovt
  let bobbin := { q.bobbin with launch := v.bobbin, trap := s.lostTrap q.bobbin.trap }.restart q.rsvec t.brun
  let q := { q with bobbin, switch := .restoring, frozen := true }
  let waves := t.rebuilt s v
  let places := (s.core core).freeWaves.zip waves
  let s := { s with next := s.next + 4096, free := s.free + 5 }
  let s := s.modCore core fun k => { k with
    slots := k.slots.set n q, saved := k.saved.filter fun x => x.ctx != v.ctx
    waves := places.foldl (fun (m : KMap Wave) e => m.set e.1 e.2) k.waves }
  (places.foldl (fun s e => s.clearSlices core e.1) s).setResident core v.ctx true

def execContextReadmission (core ctx : Nat) (s : State) : Host.Outcome State Fault Refusal :=
  .next (match s.readmits core, (s.core core).slots.freeKey 4 with
  | some v, some n =>
    if v.ctx != ctx then s
    else
      match s.readSwitch core v, s.grantReads v.ctx with
      | .ok (some t), .ok (rec_, bolts) => s.readmit core n v t rec_ bolts
      -- CTX or NWAVE is wrong: the spec names no cause
      | .ok none, _ => s.spend.readmissionFails core v (field s.freeVal 0 8) (switchBase s core v.svbase % 2 ^ 48)
      | .error (.fault c va), _ => s.readmissionFails core v c.code va
      | _, .error (.fault c va) => s.askFails core v.ctx c va
      | _, _ => s
  | _, _ => s)

/-- The saved threads of a context on a core end (R273). -/
def State.endSaved (s : State) (core ctx : Nat) : State :=
  match (s.core core).saved.find? fun v => v.ctx == ctx with
  | none => s
  | some v =>
    -- the record may be unreadable: the threads' counts are kept by launch
    let s := s.modCore core fun k => { k with saved := k.saved.filter fun x => x.ctx != ctx }
    v.threads.foldl (fun s e => s.endCounts { regs := Regs.zeroX, pc := 0, clause := 0, launch := e.1, ordinal := e.2 }) s

/-! ### What is due -/

def State.switchDue (s : State) (core : Nat) : List Instr :=
  let k := s.core core
  (match s.nextExpired core with
    | some n => [.quantumExpiry core n]
    | none => [])
  ++ ((k.slots.filter fun e => s.bobbinTurn core e.2).map fun e => .bobbinPreempt core e.1)
  ++ ((k.slots.filter fun e => (e.2.leaves || s.unheld core e.2) && !k.lingers e.2.ctx).map fun e => .contextSlotRelease core e.1)
  ++ (if (s.admitNow core).isEmpty then [] else [.waveAdmission core])
  ++ (match s.readmits core with
    | some v => [.contextReadmission core v.ctx]
    | none => [])

end Sys2Proof.Machine
end

