-- ==== Sys2Proof/Machine/Service.lean ====
section
/-! DEFINITION. The fault service (R457 to R459), and the host's answers to fault records and error records (R458, R530). -/

namespace Sys2Proof.Machine

/-! ### What waits on a record -/

/-- A page fault that is served: context, and what its waiters wait for. -/
structure Served where
  ctx : Nat
  wait : PageWait
deriving DecidableEq, Repr

/-- Something of a context waits for the page that is served. -/
def Served.is (v : Served) (ctx : Nat) (w : Option PageWait) : Bool :=
  v.ctx == ctx && (w.map fun x => x.cause == v.wait.cause && x.page == v.wait.page && x.home == v.wait.home).getD false

/-- The address at which a waiter has met the fault. -/
def Served.addr (v : Served) (w : Option PageWait) : Nat := (w.map PageWait.va).getD v.wait.page

/-- A lane parked for it. -/
def State.parkedFor (s : State) (v : Served) (r : Ref) : Bool :=
  match (s.hart? r).map Hart.status with
  | some (.parked stop) =>
    s.ctxOf r == v.ctx && stop.cause == v.wait.cause && stop.page == v.wait.page && stop.home == v.wait.home
  | _ => false

def State.keyCtx (s : State) (key : Nat) : Nat := ((s.launches.get? key).map Launch.ctx).getD 65536

/-- The service has mended the page: every lane re-executes, and everything of the device itself that waits tries again. -/
def State.serviceDone (s : State) (v : Served) : State :=
  let s := (s.refs.filter (s.parkedFor v)).foldl (fun s r => s.release r) s
  let cmd := fun (c : Command) => if v.is c.ctx c.waiting then { c with waiting := none } else c
  let load := fun (l : OverlayLoad) => if v.is l.ctx l.waiting then { l with waiting := none } else l
  let place := fun (p : Placed) => if v.is (s.keyCtx p.key) p.waiting then { p with waiting := none } else p
  let core := fun (_ : Nat) (k : Core) => { k with
    slots := k.slots.mapVals fun _ q => { q with commands := q.commands.map cmd }
    loads := k.loads.map load, placed := k.placed.map place, asks := k.asks.filter fun e => !v.is e.1 e.2 }
  let packet := fun (p : Packet) => match p.body.access? with
    | some a => if v.is a.ctx a.waiting then p.setWaiting none else p
    | none => p
  { s with
    cores := s.cores.mapVals core
    packets := s.packets.map packet
    queues := s.queues.mapVals fun _ q => if v.is q.ctx q.waiting then { q with waiting := none } else q
    stagings := s.stagings.map fun e => if v.is (s.keyCtx e.key) e.waiting then { e with waiting := none } else e
    records := s.records.map fun e => if v.is e.ctx e.waiting then { e with waiting := none } else e
    launches := s.launches.mapVals fun _ l => if v.is l.ctx l.waiting then { l with waiting := none } else l }

/-! #### A refusal (R257, R379, R416, R429, R430, R557) -/

/-- A command whose service is refused fails at the page, by an event of its own, since its claims and allowance change in their turn
of the cycle (R366, R379). -/
def State.refuseCommands (s : State) (v : Served) : State :=
  let mine := s.cores.flatMap fun (c, k) => k.slots.flatMap fun (n, q) => (q.commands.filter fun x => v.is x.ctx x.waiting).map fun x => (c, n, x)
  mine.foldl (fun s (core, slot, c) =>
    s.modCommand core slot c.id fun c => { c with waiting := none, refused := some (v.addr c.waiting) }) s

def State.refuseLoads (s : State) (v : Served) : State :=
  let mine := s.cores.flatMap fun e => e.2.loads.filter fun l => v.is l.ctx l.waiting
  mine.foldl (fun s l => (s.modCore l.core fun k => { k with loads := k.loads.filter fun x => x.id != l.id }).loadEnded l none (some (v.addr l.waiting))) s

def State.refusePackets (s : State) (v : Served) (c : Cause) : State :=
  let mine := s.packets.filter fun p => ((p.body.access?).map fun a => v.is a.ctx a.waiting).getD false
  mine.foldl (fun s p =>
    match p.body.access? with
    | none => s
    | some a =>
      let va := v.addr a.waiting
      (s.dropPacket p.id).reply p (.failure a (globalStop c va a.write v.wait.home))) s

/-- What the device itself was doing. -/
def State.refuseDevice (s : State) (v : Served) (cause : Cause) : State :=
  let code := cause.code
  let s := (s.queues.filter fun e => v.is e.2.ctx e.2.waiting).foldl (fun s (n, q) =>
    (s.setQueue n { q with err := true, waiting := none }).postError code q.ctx (s.homeId 0) q.headVa 0 0 .other) s
  let placed := s.cores.flatMap fun (c, k) => (k.placed.filter fun p => v.is (s.keyCtx p.key) p.waiting).map fun p => (c, p)
  let s := placed.foldl (fun s (c, p) =>
    (s.modPlaced c p fun p => { p with waiting := none, failed := true }).postError code v.ctx (s.homeId c) (v.addr p.waiting) 0 0 (.staging p.key c 4)) s
  let asks := s.cores.flatMap fun (c, k) => (k.asks.filter fun e => v.is e.1 e.2).map fun e => (c, v.addr e.2)
  let s := asks.foldl (fun s (c, va) =>
    (s.modCore c fun k => { k with asks := k.asks.set v.ctx none }).postError code v.ctx (s.homeId c) va 0 0 (.admission c v.ctx)) s
  let s := (s.stagings.filter fun e => v.is (s.keyCtx e.key) e.waiting).foldl (fun s e => s.stagingFailed e v.ctx cause (v.addr e.waiting)) s
  let s := (s.records.filter fun e => v.is e.ctx e.waiting).foldl (fun s e => s.recordLost e cause (v.addr e.waiting)) s
  (s.launches.filter fun e => v.is e.2.ctx e.2.waiting).foldl (fun s (key, l) =>
    (s.postError code l.ctx (s.homeId 0) (v.addr l.waiting) 0 0 .other 1).finishLaunch key l) s

/-- The service cannot complete: every lane gets the cause that it parked with, or the one that the service itself has met (R470). -/
def State.serviceRefused (s : State) (v : Served) (c : Cause := v.wait.cause) : State :=
  let meets := fun (h : Hart) => match h.status with
    | .parked stop => { h with status := .parked { stop with cause := c } }
    | _ => h
  let s := (s.refs.filter (s.parkedFor v)).foldl (fun s r => (s.modHart r meets).deliver r) s
  ((s.refuseCommands v).refuseLoads v |>.refusePackets v c).refuseDevice v c

/-! ### The device service context (R457, R459) -/

/-- Where a core's page pool lies: COUNT, then the entries. -/
def poolBase (core : Nat) : Nat := nearBase core + Config.pagePool % 2 ^ 31

def State.poolCount (s : State) (core : Nat) : Nat := Memory.getNat s.mem (poolBase core) 4

/-- The frame of a pool entry, as a number of 4 KiB frames. -/
def State.poolFrame (s : State) (core i : Nat) : Nat := core * 2 ^ 20 + Memory.getNat s.mem (poolBase core + 4 + 4 * i) 4 % 2 ^ 20

/-- Bytes that the device's own units write by device physical address; poison of sectors that they cover goes (R471). -/
def State.poke (s : State) (dpa : Nat) (bytes : List Byte) : State :=
  { s with mem := Memory.setBytes s.mem dpa bytes }.clearPoison dpa bytes.length

/-- Frames of a page by its SZ code. -/
def framesOf (sz : Nat) : Nat := pageBytes sz / 4096

/-- The first frame of the run that the pool's last n entries form below the given count; none when they are no aligned run. -/
def State.poolRun (s : State) (core count n : Nat) : Option Nat :=
  let frames := (List.range n).map fun i => s.poolFrame core (count - n + i)
  let lo := frames.foldl Nat.min (frames.headD 0)
  if decide (n ≤ count) && lo % n == 0 && sortBy id frames == (List.range n).map (lo + ·) then some lo else none

/-- Level at which a leaf of a size stands (R450). -/
def leafLevel (sz : Nat) : Nat := if sz = 3 then 2 else if sz = 2 then 3 else 4

/-- What a frame table holds on the way to a page: the leaf is there; a valid leaf of another size or at a higher level is in the
way; or tables are missing from some level on. A table where the leaf belongs is in the way when it leads to a leaf, and is written
over otherwise (R459). An entry that R455 does not let serve (a reserved bit, a frame of
another core) is written over (log 66). -/
inductive Way where
  | present
  | blocked
  | free (tables : Nat)
deriving DecidableEq, Repr

/-- The entries that a leaf takes at its level. -/
def leafEntries (sz idx : Nat) : List Nat := if sz = 1 then (List.range 16).map fun i => idx / 16 * 16 + i else [idx]

/-- The leaves of a frame table under a table: page base and entry. -/
def tableLeaves (m : List Host.Cell) : List (Nat × Nat) → Nat → Nat → List (Nat × DWord)
  | [], _, _ => []
  | (_, shift) :: rest, base, va =>
    (List.range 512).flatMap fun i =>
      let e := tableEntry m base i
      if !e.getLsbD 0 then []
      else if e.getLsbD 1 then (if field e 2 2 = 1 && i % 16 != 0 then [] else [(va + i * 2 ^ shift, e)])
      else tableLeaves m rest (entryNext e) (va + i * 2 ^ shift)

def wayOn (m : List Host.Cell) (sz va : Nat) : List (Nat × Nat) → Nat → Way
  | [], _ => .blocked
  | (level, shift) :: rest, base =>
    let idx := va / 2 ^ shift % 512
    let e := tableEntry m base idx
    if level = leafLevel sz then
      let stands := fun (i : Nat) =>
        let e := tableEntry m base i
        e.getLsbD 0 && (if e.getLsbD 1 then field e 2 2 != sz else !(tableLeaves m rest (entryNext e) 0).isEmpty)
      if (leafEntries sz idx).any stands then .blocked else .free 0
    else if !e.getLsbD 0 then .free (leafLevel sz - level)
    else if e.getLsbD 1 then .blocked
    else if !frameEntryOk e then .free (leafLevel sz - level)
    else wayOn m sz va rest (entryNext e)

/-- The way to a page on its home. -/
def State.wayTo (s : State) (core ctx va sz : Nat) : Way :=
  match s.frameLeaf core ctx va with
  | some (e, _) => if field e 2 2 != sz then .blocked else if field e 8 28 * 4096 / 2 ^ 32 = core then .present else .free 0
  | none =>
    match s.frameRoot core ctx with
    | none => .free (leafLevel sz)
    | some root => wayOn s.mem sz va radixLevels root

/-- Write a leaf, taking the frames in `tables` for the tables that are missing. -/
def State.installOn (s : State) (sz va : Nat) (leaf : Nat) (tables : List Nat) : List (Nat × Nat) → Nat → State
  | [], _ => s
  | (level, shift) :: rest, base =>
    let idx := va / 2 ^ shift % 512
    let e := Machine.tableEntry s.mem base idx
    if level = leafLevel sz then (leafEntries sz idx).foldl (fun s i => s.poke (base + 8 * i) (bytesOfNat 8 leaf)) s
    else if e.getLsbD 0 && frameEntryOk e then s.installOn sz va leaf tables rest (entryNext e)
    else
      match tables with
      | [] => s
      | t :: ts => ((s.clearStore (4096 * t) 4096).poke (base + 8 * idx) (bytesOfNat 8 (1 + 256 * t))).installOn sz va leaf ts rest (4096 * t)

/-- Install a leaf in the frame table of a context on a core. -/
def State.installLeaf (s : State) (core ctx va sz leaf : Nat) (tables : List Nat) : State :=
  let dir := frameDir core + 8 * ctx
  match s.frameRoot core ctx, tables with
  | some root, ts => s.installOn sz va leaf ts radixLevels root
  | none, t :: ts => ((s.clearStore (4096 * t) 4096).poke dir (bytesOfNat 8 (1 + 256 * t))).installOn sz va leaf ts radixLevels (4096 * t)
  | none, [] => s

def leafBits (sz frame : Nat) (writable : Bool) : Nat := 1 + 2 + 4 * sz + 16 * writable.toNat + 256 * frame

/-- The way to a page, or what serving it reads of the pool, holds uncorrectable data (R470). -/
def State.poolSpoiled (s : State) (core ctx va sz : Nat) : Bool :=
  let n := framesOf sz + (match s.wayTo core ctx va sz with
    | .free tables => tables
    | .present | .blocked => 0)
  s.framePoison core ctx va || s.spoiledRun (poolBase core) 4 || s.spoiledRun (poolBase core + 4 + 4 * (s.poolCount core - n)) (4 * n)

/-- Install a page from the pool: its frame run, or none where the pool or the table does not allow it. The frames are not cleared
here. -/
def State.fromPool (s : State) (core ctx va sz : Nat) (writable : Bool) : Option (Nat × State) :=
  match s.wayTo core ctx va sz with
  | .present | .blocked => none
  | .free tables =>
    if s.poolSpoiled core ctx va sz then none else
    let n := framesOf sz
    let count := s.poolCount core
    match s.poolRun core count n with
    | none => none
    | some frame =>
      if count < n + tables then none
      else
        let ts := (List.range tables).map fun i => s.poolFrame core (count - n - 1 - i)
        let s := s.poke (poolBase core) (bytesOfNat 4 (count - n - tables))
        some (frame, s.installLeaf core ctx va sz (leafBits sz frame writable) ts)

/-- Forward a fault to the host (R457, R459). -/
def State.forward (s : State) (v : Service) : State :=
  let report := Report.page v.ctx v.page v.home .pageNotPresent
  (s.join report v.lanes).getD (s.post (dieOf (coreOfHome v.home)) v.bytes report)

/-- The service of one page in hardware mode. -/
def execPageFaultService (id : Nat) (s : State) : Host.Outcome State Fault Refusal :=
  .next (match s.services.find? fun v => v.id == id with
  | none => s
  | some v =>
    let s := { s with services := s.services.filter fun x => x.id != id }.storePhys 0 v.addr [0]
    let served : Served := ⟨v.ctx, { cause := .pageNotPresent, page := v.page, home := v.home }⟩
    let core := coreOfHome v.home
    match s.homeLeaf v.ctx v.va with
    | none => s.serviceDone served
    | some leaf =>
      if leaf.home != v.home then s.serviceDone served
      else
        let page := v.va / pageBytes leaf.sz * pageBytes leaf.sz
        if s.poolSpoiled core v.ctx page leaf.sz then s.serviceRefused served .eccUncorrected else
        match s.wayTo core v.ctx page leaf.sz with
        | .present => s.serviceDone served
        | .blocked => s.forward v
        | .free _ =>
          match s.fromPool core v.ctx page leaf.sz true with
          | none => s.forward v
          | some (frame, s) => (s.clearStore (4096 * frame) (pageBytes leaf.sz)).serviceDone served)

/-! ### Fault records (R458) -/

/-- The device writes STATE = 0; a record that waited for a slot takes it. -/
def State.freeRecord (s : State) (place slot : Nat) : State :=
  let s := { s.storePhys 0 (s.recordAddr place slot) [0] with posted := s.posted.filter fun p => !(p.place == place && p.slot == slot) }
  match s.unposted.find? fun u => u.place == place with
  | none => s
  | some u =>
    let i := (s.unposted.findIdx? fun x => x.place == place).getD 0
    ({ s with unposted := s.unposted.eraseIdx i }).postAt place slot u.bytes u.report

def State.postedAt (s : State) (place slot : Nat) : Option Posted := s.posted.find? fun p => p.place == place && p.slot == slot

/-- The host answers a fault record. -/
def State.answerFault (s : State) (die slot : Nat) (f : Served → State → State) : State :=
  if !s.hostUp || decide (4 ≤ die) then s
  else
    match s.postedAt die slot with
    | some { report := .page ctx page home c, .. } => f ⟨ctx, { cause := c, page, home }⟩ (s.freeRecord die slot)
    | _ => s

def execFaultRecordResolve (die slot : Nat) (s : State) : Host.Outcome State Fault Refusal :=
  .next (s.answerFault die slot fun v s => s.serviceDone v)

def execFaultRecordRefuse (die slot : Nat) (s : State) : Host.Outcome State Fault Refusal :=
  .next (s.answerFault die slot fun v s => s.serviceRefused v)

/-! ### Error records (R530) -/

/-- A lane in a nested fault re-executes at ERES, position EPOS (R262, R530). -/
def State.nestedResume (s : State) (r : Ref) : State :=
  match s.hart? r with
  | none => s
  | some h =>
    if h.status != .nested then s
    else
      let h := { h with status := .running }
      let pos := field h.trap.ecause 8 3
      if pos = h.pos then s.setHart r h
      else
        match s.clauseOf r.core (s.ctxOf r) { h with clause := h.trap.eres } with
        | none => s.setHart r h
        | some (_, c) =>
          if pos = c.count then s.setHart r (h.enter (mkPc (ovlOf h.trap.eres) (BitVec.ofNat 16 c.stop)))
          else s.setHart r { h with pc := mkPc (ovlOf h.trap.eres) (BitVec.ofNat 16 (c.places.getD pos ⟨offOf h.trap.eres, 0, 4⟩).off), pos }

/-- It ends as HALT with SVH = 0 ends it. -/
def State.nestedEnd (s : State) (r : Ref) : State :=
  match s.hart? r with
  | none => s
  | some h => if h.status != .nested then s else (s.setHart r { h with tstate := { h.tstate with svh := false } }).haltNow r

/-- Lanes parked for an overlay that the host is asked for. -/
def State.overlayParked (s : State) (core ctx ovl : Nat) : List Ref :=
  s.refs.filter fun r => r.core == core && s.ctxOf r == ctx && (match (s.hart? r).map Hart.status with
    | some (.parked stop) => stop.cause == .overlayMissing && ((stop.addr.map BitVec.toNat).getD 0) / 2 ^ 16 % 2 ^ 16 == ovl
    | _ => false)

/-- The core loads the overlay, and the lanes re-execute once it is there. -/
def State.loadAsked (s : State) (core ctx ovl : Nat) : State :=
  let o : BitVec 16 := BitVec.ofNat 16 ovl
  (s.overlayParked core ctx ovl).foldl (fun s r =>
    match s.hart? r with
    | none => s
    | some h => (s.startLoad core ctx o (s.ovtOf r h)).hold r (.overlay o)) s

/-- Held entries of a launch leave every home, unwritten (R295). -/
def State.discardHeld (s : State) (l : Launch) : State :=
  let (first, n) := l.allParties
  let keep := fun (e : Baste) => !(e.held && e.inParties l.ctx first n)
  { s with cores := s.cores.mapVals fun _ k => { k with log := k.log.filter keep, buffer := k.buffer.filter keep } }

/-- The saved threads of a switch whose record cannot be written end, and the bobbin halts (R273). -/
def State.abandonSwitch (s : State) (core ctx : Nat) : State :=
  match s.slotOf? core ctx with
  | none => s
  | some (n, q) =>
    let s := (s.threadsOf core ctx).foldl (fun s r => s.endThread r) s
    (s.endThread ⟨core, .bobbin n, q.bobbin.tid⟩).modSlot core n fun q => { q with switch := .none, saveOrder := [], frozen := false, thawWait := false }

/-- STATE = 2. -/
def Report.resolve (p : Report) (s : State) : State :=
  match p with
  | .nested r => s.nestedResume r
  | .staging key core region =>
    if region < 4 then
      { s with stagings := s.stagings.map fun e => if e.key == key && e.core == core && e.region == region then { e with failed := false } else e }
    else s.modCore core fun k => { k with placed := k.placed.map fun x => if x.key = key then { x with failed := false } else x }
  | .admission core ctx => s.modCore core fun k => { k with asks := k.asks.erase ctx }
  | .overlay core ctx ovl => s.loadAsked core ctx ovl
  | .notice core ctx =>
    (match s.slotOf? core ctx with
    | none => s
    | some (n, q) =>
      if q.switch != .none || q.leaving then s
      else if (s.core core).slots.any fun e => e.2.switch != .none then s.modSlot core n fun q => { q with asked := true }
      else s.preemptContext core n)
  | .freeze core ctx =>
    (match s.slotOf? core ctx with
    | none => s
    | some (n, _) => s.modSlot core n fun q => if q.thawWait then { q with thawing := true, thawWait := false } else q)
  | .heldDrain key =>
    (match s.launches.get? key with
    | none => s
    | some l =>
      let (first, n) := l.allParties
      ({ s with launches := s.launches.set key { l with heldPosted := false, drained := some false } }).startDrain (l.coordinator 0 0) l.ctx key first n (.completion key))
  | .switchWrite core ctx =>
    (match s.slotOf? core ctx with
    | some (n, q) => if q.switch == .recording then s.completeSwitch core n else s
    | none => s)
  | .switchRead core ctx => s.modSaved core ctx fun v => { v with failed := false }
  | .page _ _ _ _ | .other => s

/-- STATE = 3. -/
def Report.refuse (p : Report) (s : State) : State :=
  match p with
  | .nested r => s.nestedEnd r
  | .staging key _ _ => s.failLaunch key
  | .admission core ctx =>
    let key := s.askKey core ctx
    let s := s.modCore core fun k => { k with asks := k.asks.erase ctx }
    (match key with
    | none => s
    | some key => s.failLaunch key)
  | .overlay core ctx ovl => (s.overlayParked core ctx ovl).foldl (fun s r => s.deliver r) s
  | .notice core ctx =>
    s.modCore core fun k => { k with declined := k.declined.set ctx (s.waitNames core) }
  | .freeze _ _ => Report.resolve p s
  | .heldDrain key =>
    (match s.launches.get? key with
    | none => s
    | some l => { s.discardHeld l with launches := s.launches.set key { l with heldPosted := false, drained := some true } })
  | .switchWrite core ctx =>
    (match s.slotOf? core ctx with
    | some (_, q) => if q.switch == .recording then s.abandonSwitch core ctx else s
    | none => s)
  | .switchRead core ctx => s.endSaved core ctx
  | .page _ _ _ _ | .other => s

/-- The host answers an error record. -/
def State.answerError (s : State) (slot : Nat) (f : Report → State → State) : State :=
  if !s.hostUp then s
  else
    match s.postedAt 4 slot with
    | some p => f p.report (s.freeRecord 4 slot)
    | none => s

def execErrorRecordResolve (slot : Nat) (s : State) : Host.Outcome State Fault Refusal := .next (s.answerError slot Report.resolve)

def execErrorRecordRefuse (slot : Nat) (s : State) : Host.Outcome State Fault Refusal := .next (s.answerError slot Report.refuse)

def State.serviceDue (s : State) : List Instr := s.services.map fun v => .pageFaultService v.id

end Sys2Proof.Machine
end

