-- ==== Sys2Proof/Machine/Moves.lean ====
section
/-! DEFINITION. Pages that move (R297, R460 to R462), channels that retire (R463), read-only pages (R464, R465), and key slots
(R466, R467). -/

namespace Sys2Proof.Machine

/-! ### Home-map leaves as the service writes them (R450) -/

/-- The addresses of the entries of a page's leaf in the home map: one, or sixteen. -/
def State.homeEntries (s : State) (ctx va : Nat) : List Nat :=
  match radixWalk s.mem homeEntryOk va radixLevels (s.hmapRoot ctx) with
  | none => []
  | some (e, _, a) => if field e 2 2 = 1 then (List.range 16).map fun i => a / 128 * 128 + 8 * i else [a]

/-- The addresses of the entries of a page's leaf in a frame table. -/
def State.frameEntries (s : State) (core ctx va : Nat) : List Nat :=
  match s.frameLeaf core ctx va with
  | none => []
  | some (e, a) => if field e 2 2 = 1 then (List.range 16).map fun i => a / 128 * 128 + 8 * i else [a]

/-- Change bits of every entry of a list. -/
def State.pokeBits (s : State) (entries : List Nat) (lo w x : Nat) : State :=
  entries.foldl (fun s a => s.poke a (bytesOfNat 8 (setBits (BitVec.ofNat 64 (Memory.getNat s.mem a 8)) lo w x).toNat)) s

/-- Every core of the chip and every die fabric interface (R460). -/
def allAgents : List Nat := List.range 260

/-- Start a shootdown of a page. -/
def State.shootPage (s : State) (ctx va size : Nat) (writable : Bool) : State :=
  { s with shootdowns := s.shootdowns ++ [{ id := s.next, ctx, va, size, waits := allAgents, writable }], next := s.next + 1 }

/-! ### The start of a move (R460, step 1) -/

/-- A page may begin to move: it is at home here, it does not move yet, its home has fewer than four moves, and the new home may
take pages. -/
def State.mayMove (s : State) (ctx va new : Nat) : Option (Leaf × Nat) :=
  match s.homeLeaf ctx va with
  | none => none
  | some leaf =>
    match s.frameLeaf (coreOfHome leaf.home) ctx va with
    | none => none
    | some (e, _) =>
      if s.onChip leaf.home && s.onChip new && leaf.home != new && !e.getLsbD 5 && field e 2 2 == leaf.sz
          && decide ((s.moves.filter fun m => m.old == leaf.home).length < 4) && !s.dieLost (dieOf (coreOfHome new))
          && !(s.core (coreOfHome new)).retiring && !s.moves.any (fun m => m.ctx == ctx && m.va == va / pageBytes leaf.sz * pageBytes leaf.sz)
      then some (leaf, field e 8 28 * 4096 / pageBytes leaf.sz * pageBytes leaf.sz)
      else none

/-- A line lies in a frame. -/
def Line.within (l : Line) (dpa size : Nat) : Bool := decide (dpa / 64 ≤ l.phys) && decide (l.phys < (dpa + size) / 64)

/-- Attempts on the lines of a frame abort, and its sleepers wake. -/
def State.disturb (s : State) (dpa size : Nat) : State :=
  let hit := fun (h : Hart) => h.tx.depth != 0 && !(match h.status with | .asleep _ => true | _ => false)
    && (h.tx.reads.any (fun l => l.within dpa size) || h.tx.writes.any fun w => w.line.within dpa size)
  let s := (s.refs.filter fun r => ((s.hart? r).map hit).getD false).foldl (fun s r => s.txAbort r .conflict 0) s
  let lines := (s.cores.flatMap fun e => e.2.wakes.map Wake.line ++ e.2.watched.map Prod.snd).filter fun l => l.within dpa size
  lines.eraseDups.foldl (fun s l => s.lineChanged l) s

def State.startMove (s : State) (ctx va new : Nat) : State :=
  match s.mayMove ctx va new with
  | none => s
  | some (leaf, dpa) =>
    let size := pageBytes leaf.sz
    let page := va / size * size
    let m : Move := { id := s.next, ctx, va := page, size, old := leaf.home, new }
    let s := { s with moves := s.moves ++ [m], next := s.next + 1 }
    (s.pokeBits (s.frameEntries (coreOfHome leaf.home) ctx page) 5 1 1).disturb dpa size

/-- The host, or the device service context, starts a move. -/
def execPageMoveStart (ctx va newHome : Nat) (s : State) : Host.Outcome State Fault Refusal :=
  .next (if s.hostUp then s.startMove ctx (va % 2 ^ 48) newHome else s)

/-! ### The transfer (R460, steps 2 to 5) -/

/-- The frame that the old home holds, the leaf's SZ code, and its W. -/
def State.oldFrame (s : State) (m : Move) : Option (Nat × Nat × Bool) :=
  (s.frameLeaf (coreOfHome m.old) m.ctx m.va).map fun (e, _) => (field e 8 28 * 4096 / m.size * m.size, field e 2 2, e.getLsbD 4)

/-- Registered ranges cover a byte of the page. -/
def State.rangesOn (s : State) (m : Move) : Bool :=
  s.ranges.any fun g => g.core.isNone && g.ctx == m.ctx && decide (g.lo ≤ (m.va + m.size - 1) / 64) && decide (m.va / 64 ≤ g.hi)

/-- May the page be transferred: nothing on it is in progress, and the new home's pool has the frames? -/
def State.transferDue (s : State) (m : Move) : Bool :=
  !m.transferred && !s.rangesOn m && !s.bulkOut (.move m.id) && (match s.oldFrame m with
    | none => false
    | some (_, sz, w) => (s.fromPool (coreOfHome m.new) m.ctx m.va sz w).isSome)

/-- Copy a frame with its poison. -/
def State.copyFrame (s : State) (src dst size : Nat) : State :=
  let s := s.clearStore dst size
  let cells := s.mem.filter fun e => decide (src ≤ e.1) && decide (e.1 < src + size)
  let bad := s.poison.filter fun g => decide (src ≤ g) && decide (g < src + size)
  { s with mem := cells.foldl (fun m e => Memory.set m (e.1 - src + dst) e.2) s.mem, poison := s.poison ++ bad.map fun g => g - src + dst }

/-- The page's entries go to the new home's buffer, in order and with fresh SEQ values (R297). -/
def State.moveEntries (s : State) (m : Move) : State :=
  let a := coreOfHome m.old
  let mine := fun (e : Baste) => e.ctx == m.ctx && decide (m.va ≤ e.addr.toNat) && decide (e.addr.toNat < m.va + m.size)
  let es := ((s.core a).log ++ (s.core a).buffer).filter mine
  let s := s.modCore a fun k => { k with log := k.log.filter fun e => !mine e, buffer := k.buffer.filter fun e => !mine e }
  es.foldl (fun s e => s.enterBuffer (coreOfHome m.new) fun seq => { e with seq }) s

/-- Drains in progress of the context take up the new home (again). -/
def State.drainAlso (s : State) (ctx core : Nat) : State :=
  (s.drains.filter fun d => d.ctx == ctx && !d.cores.contains (core, false)).foldl (fun s d =>
    let stale := fun (p : Packet) => p.body == Body.drained d.id && p.src == s.homeId core
    ({ s with packets := s.packets.filter fun p => !stale p }.modDrain d.id fun d =>
      { d with cores := d.cores.filter (fun (e : Nat × Bool) => e.1 != core) ++ [(core, false)] }).askDrain d core) s

/-- The packet waits at the old home of a page: its first element lies there. -/
def Packet.onPage (p : Packet) (m : Move) : Bool :=
  let va := match p.body with
    | .task n _ | .needle n => n.va
    | .atomic a | .read a => a.parts.head?.map fun (q : Part) => q.va.toNat
    | _ => none
  p.place == .arrived && !p.rehomed && p.ctx == m.ctx && p.home == m.old && ((va.map fun v => decide (m.va ≤ v) && decide (v < m.va + m.size)).getD false)

/-- Send a packet on from a core to another home. -/
def Packet.onward (p : Packet) (s : State) (home : Nat) : Packet :=
  let place := if p.home == home then Place.arrived else .source (coreOfHome p.home)
  { p with home, place, since := s.next, passed := 0, promoted := none }

/-- An arrival as a packet at the home where it lies. -/
def Arrival.packet (a : Arrival) (home : Nat) : Packet :=
  { id := a.id, ctx := a.ctx, launch := a.needle.launch, src := a.src, home, slack := a.slack, ovd := a.ovd, sx := a.sx, bytes := a.bytes, vn := 2
    place := .arrived, since := a.seq, body := .needle a.needle }

/-- Lanes whose accesses to a page its old home holds, with the order of the holds. -/
def State.heldLanes (s : State) (m : Move) : List (Nat × Ref) :=
  s.refs.filterMap fun r => (s.hart? r).bind fun h =>
    match h.status with
    | .held (.pageMove (some va) since) => if m.covers (s.ctxOf r) va then some (since, r) else none
    | _ => none

/-- How the list of the forwarded accesses names a packet: a thread on its way by its own name. -/
def Packet.forwardName (p : Packet) : Nat :=
  match p.body with
  | .needle n => n.tid
  | _ => p.id

/-- The old home forwards the accesses that it held, in arrival order (R460, step 5). -/
def State.forwardHeld (s : State) (m : Move) : State :=
  let core := coreOfHome m.old
  let mine := fun (a : Arrival) => !a.resend && !a.needle.task && (a.needle.va.map fun va => m.covers a.ctx va).getD false
  let threads := ((s.core core).store ++ (s.core core).spill).filter mine
  let held := s.packets.filter fun p => p.onPage m
  let order := sortBy Prod.fst ((held.map fun p => (p.since, p.forwardName)) ++ (threads.map fun a => (a.seq, a.needle.tid))
    ++ (s.heldLanes m).map fun e => (e.1, e.2.tid))
  let on := fun (p : Packet) => if p.onPage m then p.onward s m.new else p
  let mark := fun (x : Move) => if x.id = m.id then { x with forwarded := order.map Prod.snd } else x
  let s := s.modCore core fun k => { k with store := k.store.filter fun a => !mine a, spill := k.spill.filter fun a => !mine a }
  { s with packets := s.packets.map on ++ threads.map fun a => (a.packet m.old).onward s m.new, next := s.next + 1, moves := s.moves.map mark }

/-- The hold of an access to a page, or of one that names none. -/
def Hold.onPage (q : Hold) (va size : Nat) : Bool :=
  match q with
  | .pageMove (some a) _ => decide (va ≤ a) && decide (a < va + size)
  | .pageMove none _ => true
  | _ => false

/-- Lanes that were held by a move re-execute. -/
def State.releaseMoves (s : State) (m : Move) : State :=
  let s := (s.heldLanes m).foldl (fun s e => s.modHart e.2 fun h => { h with moved := true }) s
  s.cores.foldl (fun s e => s.releaseHeld e.1 (·.onPage m.va m.size)) s

/-- The frame's data are on their way to the new home over the bulk network (R460, step 3). -/
def State.askMove (s : State) (m : Move) : State :=
  let mark := fun (x : Move) => if x.id = m.id then { x with asked := true } else x
  { s with moves := s.moves.map mark }.bulkPackets (coreOfHome m.old) m.new m.ctx 0 0xFFF (.move m.id) (m.size / 64)

def execPageMoveTransfer (id : Nat) (s : State) : Host.Outcome State Fault Refusal :=
  .next (match s.moves.find? fun m => m.id == id with
  | none => s
  | some m =>
    if !s.transferDue m then s
    else if !m.asked then s.askMove m
    else
      match s.oldFrame m with
      | none => s
      | some (old, sz, w) =>
        match s.fromPool (coreOfHome m.new) m.ctx m.va sz w with
        | none => s
        | some (frame, s) =>
          let s := (s.copyFrame old (4096 * frame) m.size).moveEntries m
          let s := s.pokeBits (s.homeEntries m.ctx m.va) 8 20 m.new
          let m := { m with transferred := true, shootdown := s.next }
          let s := { s with moves := s.moves.map fun (x : Move) => if x.id = id then m else x }
          let s := ((s.shootPage m.ctx m.va m.size false).drainAlso m.ctx (coreOfHome m.new)).forwardHeld m
          s.releaseMoves m)

/-! ### Shootdowns (R461) -/

/-- An access has an element on a page. -/
def Access.onPage (a : Access) (d : Shootdown) : Bool :=
  a.ctx == d.ctx && a.parts.any fun q => decide (d.va ≤ q.va.toNat) && decide (q.va.toNat < d.va + d.size)

/-- The thread whose request to the page, or whose reply, is under way. -/
def Packet.owes (p : Packet) (d : Shootdown) : Option Ref :=
  match p.body with
  | .atomic a | .read a | .atomicReply a _ _ | .failure a _ => if a.onPage d then some a.dest.ref else none
  | .result r => if r.owed then some r.ref else none
  | _ => none

/-- May an agent take the shootdown now? A die's fabric interface first sends the parts of the gathers and scatters that it holds for
the page (R461). -/
def State.shootReady (s : State) (d : Shootdown) (agent : Nat) : Bool :=
  !s.ranges.any fun g => g.core.isNone && g.die + 256 == agent && g.ctx == d.ctx && decide (g.lo ≤ (d.va + d.size - 1) / 64) && decide (d.va / 64 ≤ g.hi)

/-- An agent takes the shootdown: a core drops its entries, and owes its acknowledgement to the requests that are out. -/
def execShootdown (id agent : Nat) (s : State) : Host.Outcome State Fault Refusal :=
  .next (match s.shootdowns.find? fun d => d.id == id with
  | none => s
  | some d =>
    if !d.waits.contains agent || !s.shootReady d agent then s
    else
      let owed := if agent < 256 then ((s.packets.filterMap fun p => p.owes d).filter fun r => r.core == agent).map Ref.tid else []
      let d' := { d with waits := d.waits.filter (· != agent), owed := (d.owed ++ owed).eraseDups }
      let s := { s with shootdowns := s.shootdowns.map fun x => if x.id = id then d' else x }
      if agent < 256 then (s.modCore agent fun k => k.tlbDrop d.ctx d.va d.size).releaseHeld agent (·.onPage d.va d.size) else s)

/-- Every agent has acknowledged. -/
def State.shotDown (s : State) (d : Shootdown) : Bool :=
  d.waits.isEmpty && !s.packets.any fun p => ((p.owes d).map fun r => d.owed.contains r.tid).getD false

/-- Steps 2 and 3 of R464: the page's lines leave the read-only caches, the frame becomes writable, and the writes that waited for
it re-execute. -/
def State.openPage (s : State) (d : Shootdown) : State :=
  match s.homeLeaf d.ctx d.va with
  | none => s
  | some leaf =>
    let core := coreOfHome leaf.home
    match s.frameLeaf core d.ctx d.va with
    | none => s
    | some (e, _) =>
      let dpa := field e 8 28 * 4096 / d.size * d.size
      let keep := fun (l : List Nat) => l.filter fun x => !(decide (dpa / 64 ≤ x) && decide (x < (dpa + d.size) / 64))
      let s := { s with
        cores := s.cores.mapVals fun _ k => { k with roLines := keep k.roLines }
        dies := s.dies.mapVals fun _ d => { d with roLines := keep d.roLines, gateways := d.gateways.map keep } }
      let s := s.pokeBits (s.frameEntries core d.ctx d.va) 4 1 1
      let report := Report.page d.ctx d.va leaf.home .pageProtection
      let s := match s.posted.find? fun p => p.report == report with
        | some p => s.freeRecord p.place p.slot
        | none => { s with unposted := s.unposted.filter fun u => u.report != report }
      s.serviceDone ⟨d.ctx, { cause := .pageProtection, page := d.va, home := leaf.home }⟩

/-- The last acknowledgement is in: a move's grace window opens (R460, step 6), or a page becomes writable. -/
def execShootdownAcknowledgement (id : Nat) (s : State) : Host.Outcome State Fault Refusal :=
  .next (match s.shootdowns.find? fun d => d.id == id with
  | none => s
  | some d =>
    if !s.shotDown d then s
    else
      let open_ := fun (m : Move) => if m.transferred && m.shootdown == id then { m with grace := some s.net } else m
      let s := { s with shootdowns := s.shootdowns.filter fun x => x.id != id, moves := s.moves.map open_ }
      if d.writable then s.openPage d else s)

/-! ### The grace window and what comes after it (R460, R462) -/

def State.graceOver (s : State) (m : Move) : Bool := (m.grace.map fun g => decide (g + s.bar.grace * netCycle ≤ s.net)).getD false

/-- Frames go back to the end of a core's pool. -/
def State.toPool (s : State) (core frame n : Nat) : State :=
  if (s.core core).retiring then s
  else
    let count := s.poolCount core
    let entries := (List.range n).flatMap fun i => bytesOfNat 4 ((frame + i) % 2 ^ 20)
    (s.poke (poolBase core + 4 + 4 * count) entries).poke (poolBase core) (bytesOfNat 4 (count + n))

/-- After the window the old home clears its leaf and returns the frame to its pool. -/
def execGraceWindowEnd (id : Nat) (s : State) : Host.Outcome State Fault Refusal :=
  .next (match s.moves.find? fun m => m.id == id with
  | none => s
  | some m =>
    if !s.graceOver m then s
    else
      let s' := { s with moves := s.moves.filter fun x => x.id != id }
      match s.oldFrame m with
      | none => s'
      | some (dpa, _, _) =>
        let core := coreOfHome m.old
        ((s.frameEntries core m.ctx m.va).foldl (fun s a => s.poke a (List.replicate 8 0)) s').toPool core (dpa / 4096) (m.size / 4096))

/-- The new home of a packet that stands where its element is no longer at home. -/
def State.newHome (s : State) (p : Packet) : Option Nat :=
  let home := fun (va : Nat) => ((s.homeLeaf p.ctx va).map Leaf.home).filter fun h => h != p.home
  if p.place != .arrived || p.rehomed then none
  else
    match p.body with
    | .atomic a | .read a => if a.waiting.isSome then none else a.parts.head?.bind fun q => home q.va.toNat
    | .task n _ => n.va.bind home
    | .needle n => if s.misplaced p n then n.va.bind home else none
    | _ => none

/-- The element for which a packet was sent. -/
def Packet.elem (p : Packet) : Nat :=
  match p.body with
  | .task n _ | .needle n => n.va.getD 0
  | .atomic a | .read a => (a.parts.head?.map fun q => q.va.toNat).getD 0
  | _ => 0

/-- A packet goes back to its sender with REHOME, on the reply network, and its slack with it. -/
def Packet.refusedHome (p : Packet) (s : State) : Packet := { p with src := p.home, vn := 1, rehomed := true }.onward s p.src

/-- The sender of a packet that was refused with REHOME drops its entry, walks the home map again, and sends the same packet (R462);
without a leaf, to the home that refused it, which raises the fault. -/
def State.resend (s : State) (p : Packet) : Packet × State :=
  let s := s.modCore (coreOfHome p.home) fun k => k.tlbDrop p.ctx p.elem 1
  let home := ((s.homeLeaf p.ctx p.elem).map Leaf.home).getD p.src
  let q := fun (vn : Nat) => { p with src := p.home, vn, rehomed := false }.onward s home
  match p.body with
  | .needle _ => (q 2, ((s.count (coreOfHome p.home) p.ctx 0x12 1).charge (coreOfHome p.home) p.ctx p.launch 11 1).bump)
  | _ => (q 0, s.bump)

/-- A request or task that has come back; a needle too where its origin is retired, whose spill area takes no new entries (R463,
DEDUCED, log 46). -/
def State.resendable (s : State) (p : Packet) : Bool :=
  p.place == .arrived && p.rehomed && (match p.body with
    | .needle _ => (s.core (coreOfHome p.home)).retired
    | _ => true)

/-- Needles that have come back, in the spill areas of their origins. -/
def State.returnedNeedles (s : State) : List (Nat × Arrival) :=
  s.cores.flatMap fun e => (e.2.spill.filter Arrival.resend).map fun a => (e.1, a)

/-- A late arrival: forwarded while its page's move lasts, else refused. One that has come back is sent again: a request or a task at
once, a needle from the spill area of its origin. -/
def execRehome (id : Nat) (s : State) : Host.Outcome State Fault Refusal :=
  .next (let put := fun (s : State) (q : Packet) => { s with packets := s.packets.map fun x => if x.id = id then q else x }
  match s.packet? id with
  | none =>
    (match s.returnedNeedles.find? fun e => e.2.id == id with
    | none => s
    | some (core, a) =>
      let (p, s) := s.resend { a.packet (s.homeId core) with rehomed := true }
      { s with packets := s.packets ++ [p] }.modCore core fun k => { k with spill := k.spill.filter fun x => x.id != id })
  | some p =>
    if s.resendable p then (let (q, s) := s.resend p; put s q) else
    match s.newHome p with
    | none => s
    | some home =>
      if s.moves.any fun m => m.covers p.ctx p.elem && m.old == p.home then put s.bump (p.onward s home)
      else put (s.event (coreOfHome p.home) p.ctx 0x0E 1 ((p.body.access?.map Access.system).getD false)).bump (p.refusedHome s))

/-! ### Retirement (R463) -/

/-- Pages that are homed on a core: context and base. -/
def State.pagesAt (s : State) (core : Nat) : List (Nat × Nat) :=
  ((List.range 65536).filter fun ctx => (s.frameRoot core ctx).isSome).flatMap fun ctx =>
    match s.frameRoot core ctx with
    | none => []
    | some root => ((tableLeaves s.mem radixLevels root 0).filter fun e =>
        ((s.homeLeaf ctx e.1).map fun l => l.home == s.homeId core).getD false).map fun e => (ctx, e.1)

def buddy (core : Nat) : Nat := Nat.xor core 1

/-- Moves that have left a core and have not ended. -/
def State.leaving (s : State) (core : Nat) : Bool := s.moves.any fun m => m.old == s.homeId core

/-- The spilled threads of a retired core become arrivals at its buddy. -/
def State.spillToBuddy (s : State) (core : Nat) : State :=
  let all := (s.core core).spill.filter fun a => !a.resend
  let s := s.modCore core fun k => { k with spill := k.spill.filter Arrival.resend }
  all.foldl (fun s a =>
    match (s.core (buddy core)).placeFor a.ctx a.bytes with
    | some (some e) => s.enterStore (buddy core) a e
    | some none | none => s.modCore (buddy core) fun k => { k with spill := k.spill ++ [a] }) s

/-- Retirement begins: the pool is emptied. -/
def State.beginRetirement (s : State) (core : Nat) : State :=
  (s.modCore core fun k => { k with retiring := true }).poke (poolBase core) (bytesOfNat 4 0)

/-- The host may begin a retirement in the host-assisted mode of error handling, or under its expert control (R536). -/
def State.hostRetires (s : State) : Bool := s.hostMode 4 || s.expert 4

/-- The host begins a retirement; it goes on page by page, and ends when no page is left. -/
def execChannelRetirement (core : Nat) (s : State) : Host.Outcome State Fault Refusal :=
  .next (let k := s.core core
    if decide (256 ≤ core) || k.retired then s
    else if !k.retiring then (if s.hostUp && s.hostRetires then s.beginRetirement core else s)
    else if s.leaving core then s
    else
      match s.pagesAt core with
      | [] => (s.modCore core fun k => { k with retired := true, msLines := [] }).spillToBuddy core
      | pages =>
        match pages[Config.choice s.free % pages.length]? with
        | none => s
        | some (ctx, va) => s.spend.startMove ctx va (s.homeId (buddy core)))

/-! ### Read-only pages (R464, R465) -/

/-- A read-only page is made writable: RO = 0, then the shootdown. W is 0 up to step 3, so that a write before it raises
PAGE_PROTECTION whichever W the frame had (DEDUCED, log 66). -/
def execPageMakeWritable (ctx va : Nat) (s : State) : Host.Outcome State Fault Refusal :=
  .next (match s.homeLeaf ctx va with
  | none => s
  | some leaf =>
    if !s.hostUp || !leaf.ro then s
    else
      let size := pageBytes leaf.sz
      let s := s.pokeBits (s.frameEntries (coreOfHome leaf.home) ctx va) 4 1 0
      (s.pokeBits (s.homeEntries ctx va) 4 1 0).shootPage ctx (va / size * size) size true)

/-- A writable page is made read-only: W = 0, then RO = 1 and the shootdown. -/
def execPageMakeReadOnly (ctx va : Nat) (s : State) : Host.Outcome State Fault Refusal :=
  .next (match s.homeLeaf ctx va with
  | none => s
  | some leaf =>
    if !s.hostUp || leaf.ro then s
    else
      let size := pageBytes leaf.sz
      let s := s.pokeBits (s.frameEntries (coreOfHome leaf.home) ctx va) 4 1 0
      (s.pokeBits (s.homeEntries ctx va) 4 1 1).shootPage ctx (va / size * size) size false)

/-! ### Key slots (R466, R467) -/

/-- The keys of a wrapped blob: ECDH with the device's exchange key, SHA-256 of the shared coordinate with the context and the slot,
AES key unwrap; none when the blob does not unwrap. -/
def unwrapKeys (ctx slot qx qy : Nat) (blob : List Byte) : Option KeySlot :=
  match Crypto.sharedX Config.exchangeKey qx qy with
  | none => none
  | some x =>
    let kek := Crypto.sha256 (x ++ Crypto.bytesOf 2 ctx ++ Crypto.bytesOf 1 slot)
    match Crypto.unwrap kek (blob.map BitVec.toNat) with
    | none => none
    | some ks => if ks.length = 64 then some { k1 := (ks.take 32).map (BitVec.ofNat 8), k2 := (ks.drop 32).map (BitVec.ofNat 8) } else none

def execKeySlotWrite (ctx slot qx qy : Nat) (blob : List (BitVec 8)) (s : State) : Host.Outcome State Fault Refusal :=
  .next (if !s.hostUp || decide (65536 ≤ ctx) || decide (64 ≤ slot) then s
    else
      match unwrapKeys ctx slot qx qy blob with
      | none => { s with keyFailed := true }
      | some k => { s with keys := s.keys.set (keyIndex ctx slot) k, keyFailed := false })

/-! ### What is due -/

def State.retireDue (s : State) (core : Nat) (k : Core) : Bool :=
  k.retiring && !k.retired && !s.leaving core && (match s.pagesAt core with
    | [] => true
    | pages => pages.any fun e => (s.mayMove e.1 e.2 (s.homeId (buddy core))).isSome)

def State.moveDue (s : State) : List Instr :=
  ((s.moves.filter s.transferDue).map fun m => .pageMoveTransfer m.id)
    ++ (s.shootdowns.flatMap fun d => (d.waits.filter (s.shootReady d)).map fun a => .shootdown d.id a)
    ++ ((s.shootdowns.filter s.shotDown).map fun d => .shootdownAcknowledgement d.id)
    ++ ((s.moves.filter s.graceOver).map fun m => .graceWindowEnd m.id)
    ++ ((s.packets.filter fun p => s.resendable p || (s.newHome p).isSome).map fun p => .rehome p.id)
    ++ (s.returnedNeedles.map fun e => .rehome e.2.id)
    ++ ((s.cores.filter fun e => s.retireDue e.1 e.2).map fun e => .channelRetirement e.1)

end Sys2Proof.Machine
end

