-- ==== Sys2Proof/Machine/Bringup.lean ====
section
/-! DEFINITION. Power-on and bring-up (R529, R534), the words of BAR 0 and the BAR 2 window (R527), the duty split (R536, R537),
measurement (R535), links (R531 to R533), and power and cooling (R538, R539). -/

namespace Sys2Proof.Machine

/-! ### Bring-up (R529, R535) -/

/-- The device service context of a die has a slot of core 0 from bring-up on (R457). Its context number is none of a program's. -/
def serviceSlot : Slot :=
  { ctx := 65536, service := true
    bobbin := { regs := Regs.zeroW, pc := 0, clause := 0, status := .halted, tstate := { priv := true } } }

/-- The hash of a public key: its coordinates with the most significant byte first (DESIGN CHOICE, log 65). -/
def keyHash (x y : Nat) : List Nat := Crypto.sha256 ((Crypto.bytesOf 32 x).reverse ++ (Crypto.bytesOf 32 y).reverse)

/-- The key hashes to the fused value. -/
def rootKey (x y : Nat) : Bool := Crypto.natOf (keyHash x y).reverse == Config.rootKeyHash.toNat

/-- The SHA-256 hash of an image's body and version, 4 bytes (R534). -/
def imageHash (m : Image) : List Nat := Crypto.sha256 (m.body.map BitVec.toNat ++ Crypto.bytesOf 4 m.version.toNat)

/-- The image's key is the root key, or the root key signs it: one level of certificate. -/
def imageKeyOk (m : Image) : Bool :=
  rootKey m.keyX m.keyY || (match m.cert with
    | none => false
    | some c => rootKey c.keyX c.keyY && Crypto.verify c.keyX c.keyY c.r c.s (keyHash m.keyX m.keyY))

/-- The boot ROM accepts an image (R534). -/
def imageAccepted (m : Image) : Bool :=
  imageKeyOk m && Crypto.verify m.keyX m.keyY m.r m.s (imageHash m) && decide (Config.minVersion.toNat ≤ m.version.toNat)

/-- Image k in load order extends measurement register k mod 8: M := SHA-256(M followed by the image's hash). -/
def measured (images : List Image) : Vector (BitVec 256) 8 :=
  let ofNats := fun (l : List Nat) => BitVec.ofNat 256 (Crypto.natOf l)
  (images.mapIdx fun k im => (k, im)).foldl (fun (m : Vector (BitVec 256) 8) (k, im) =>
    let old := (m.toList.getD (k % 8) 0).toNat
    m.setIfInBounds (k % 8) (ofNats (Crypto.sha256 (Crypto.bytesOf 32 old ++ imageHash im)))) (Vector.replicate 8 0)

/-- A notice of bring-up or of the duty split: MSI-X vector 5 (R528). When one is signalled is log 65's. -/
def State.notice (s : State) : State := if s.bar.link then { s with msix := s.msix ++ [5] } else s

/-- Bring-up stops: the boot ROM trains PCI Express alone (R529). -/
def State.recovery (s : State) (stage code : Nat) : State :=
  { s with bar := { s.bar with stage, fail := true, code := code % 256, link := true } }.notice

/-- Power is cycled: the machine begins again, and bring-up runs until it waits for GO, or stops in recovery. `failStage` names a
stage that fails, 0, 2, 3, 4 or 6, and `code` the failing item; `links` are the working modules of the UCIe links, `images` the
firmware images in load order. Stage 1 stops at the first image that is not accepted, stage 3 at a link with fewer than two modules. -/
def execPowerOn (failStage code : Nat) (links : List Nat) (images : List Image) (s : State) : Host.Outcome State Fault Refusal :=
  .next (
    let s : State := { State.reset with inputs := s.inputs, free := s.free }
    if failStage = 0 then s.recovery 0 code
    else
      let good := images.takeWhile imageAccepted
      let s := { s with measures := measured good }
      if good.length < images.length then s.recovery 1 good.length
      else if failStage = 2 then s.recovery 2 code
      else
        let s := { s with links := Vector.ofFn fun (i : Fin 4) => Nat.min (links.getD i.val 4) 4 }
        match (if failStage = 3 then some code else s.links.toList.findIdx? (· < 2)) with
        | some code => s.recovery 3 code
        | none =>
          let cores := (List.range 256).map fun c => (c, if c % 64 = 0 then ({ slots := [(0, serviceSlot)] } : Core) else {})
          let bar := { s.bar with stage := 5, waitgo := true, link := failStage != 4, signFails := if failStage = 6 then some (code % 256) else none }
          { s with cores, bar }.notice)

/-- The Ultra Ethernet ports that are enabled. -/
def Bar.enabled (b : Bar) : List Nat := (List.range 36).filter fun n => (b.ports.toList.getD n 0).getLsbD 1

/-- Once stage 5 has trained its ports, the measurements are signed, and the device is ready (R529). -/
def State.trained (s : State) : State :=
  if s.bar.stage != 5 || s.bar.waitgo || !s.bar.training.isEmpty then s
  else
    match s.bar.signFails with
    | some code => s.recovery 6 code
    | none => { s with bar := { s.bar with stage := 7 } }.notice

/-- GO is written: Ultra Ethernet training begins on each enabled port. -/
def State.go_ (s : State) : State := { s with bar := { s.bar with waitgo := false, go := true, training := s.bar.enabled } }.trained

/-- Does the device react to an input: after a thermal shutdown power must be cycled first (R539). -/
def State.heeds (s : State) (i : Instr) : Bool :=
  !s.power.stopped || (match i with
    | .powerOn _ _ _ _ => true
    | _ => false)

/-- The host reaches BRSTAT and DUTY, in recovery too. -/
def State.dutyUp (s : State) : Bool := s.bar.link && !s.power.stopped

/-- A write of 1 to GO. -/
def execDutyGo (s : State) : Host.Outcome State Fault Refusal := .next (if s.dutyUp && s.bar.waitgo then s.go_ else s)

/-- 10 s after stage 5 firmware writes GO. -/
def execGoTimeout (s : State) : Host.Outcome State Fault Refusal := .next (if s.bar.waitgo && !s.power.stopped then s.go_ else s)

/-- A context, other than the device's own, holds a slot on the chip. -/
def State.slotHeld (s : State) : Bool := s.cores.any fun e => e.2.slots.any fun q => !q.2.service

/-- SPLIT takes a value, or keeps its own and sets DERR while a context holds a slot (R537). -/
def State.setSplit (s : State) (val : BitVec 14) : State :=
  { s with bar := if s.slotHeld then { s.bar with derr := true } else { s.bar with split := val } }.notice

/-- A DUTY write with its bits [13:0] (R537). Once the device runs, the write stands at the end of its cycle, unless the first admission
of a context falls in that cycle. -/
def execDutySplitWrite (val : BitVec 14) (s : State) : Host.Outcome State Fault Refusal :=
  .next (if !s.dutyUp || val = s.bar.split then s
    else if s.slotHeld || s.bar.stage != 7 || s.bar.fail then s.setSplit val
    else { s with bar := { s.bar with splitNext := some val } })

/-- The write of a cycle stands, or is ignored. -/
def State.commitSplit (s : State) : State :=
  match s.bar.splitNext with
  | none => s
  | some v => { s with bar := { s.bar with splitNext := none } }.setSplit v

def execDerrClear (s : State) : Host.Outcome State Fault Refusal :=
  .next (if s.dutyUp then { s with bar := { s.bar with derr := false } } else s)

/-! ### BAR 0 words (R527, R415) -/

def execPcapWrite (val : Nat) (s : State) : Host.Outcome State Fault Refusal :=
  .next (if s.hostUp then { s with bar := { s.bar with pcap := if 1200 ≤ val ∧ val ≤ 2400 then val else 2400 } } else s)

/-- Bytes of the BAR 2 window. -/
def windowBytes : Nat := 2 ^ (30 + Config.windowBits % 11)

/-- A host write of a BAR 0 word with no behaviour of its own. What R527 and R415 do not say of a value is log 51's: LOGSZ and GRACE
outside their values change nothing; W2BASE and QBASE lose the bits below their alignment, and QBASE those above [47:0]; CHIPID keeps its
low 12 bits, ERBASE and RTBASE their low 40. GRACE belongs to the expert control of function 0 (R536). -/
def State.barWrite (s : State) (off val : Nat) : State :=
  let bar := s.bar
  if off = 0x18 then (if bar.go then s else { s with bar := { bar with chipid := val % 4096 } })
  else if off = 0x20 then { s with bar := { bar with w2base := val / windowBytes * windowBytes } }
  else if off = 0x28 then
    (if !bar.go && [16, 32, 64, 128, 256].contains val then { s with bar := { bar with logsz := val } } else s)
  else if off = 0x30 then (if s.expert 0 ∧ 4096 ≤ val ∧ val ≤ 2 ^ 24 then { s with bar := { bar with grace := val } } else s)
  else if off = 0x38 then { s with bar := { bar with erbase := val % 2 ^ 40 } }
  else if off = 0x40 then { s with bar := { bar with rtbase := val % 2 ^ 40 } }
  else if 0x10000 ≤ off ∧ off < 0x10800 ∧ off % 0x20 = 0 then
    let q := (off - 0x10000) / 0x20
    s.setQueue q { s.queue q with base := BitVec.ofNat 48 (val / 256 * 256) }
  else s

def execRegisterWrite (off val : Nat) (s : State) : Host.Outcome State Fault Refusal := .next (if s.hostUp then s.barWrite off val else s)

/-- BRSTAT (R529) and DUTY (R537), whose GO reads 0. -/
def Bar.brstat (b : Bar) : Nat := b.stage + 16 * b.fail.toNat + 32 * b.code + 2 ^ 13 * b.waitgo.toNat
def Bar.duty (b : Bar) : Nat := b.split.toNat + 2 ^ 14 * b.derr.toNat

/-- The words of a launch queue (R415). -/
def Queue.read (q : Queue) (off : Nat) : Nat :=
  match off with
  | 0 => q.base.toNat
  | 8 => q.ctl.toNat
  | 0xC => q.tail.toNat
  | 0x10 => q.head.toNat + 2 ^ 16 * q.err.toNat
  | _ => 0

/-- What a host read of a word of BAR 0 gives; it changes nothing (R5, R503, R527). In recovery every word but BRSTAT and DUTY reads 0. -/
def State.barRead (s : State) (off : Nat) : Nat :=
  let b := s.bar
  if !s.dutyUp then 0
  else if off = 0 then b.brstat
  else if off = 8 then b.duty
  else if b.fail then 0
  else if 0x800 ≤ off ∧ off < 0xC80 then (if off % 32 = 0 then (b.ports.toList.getD ((off - 0x800) / 32) 0).toNat else 0)
  else if 0x10000 ≤ off ∧ off < 0x10800 then (s.queue ((off - 0x10000) / 32)).read (off % 32)
  else if 0x400000 ≤ off ∧ off < 0x600000 then
    let o := off - 0x400000
    let n := o % 0x800 / 8
    if (ctrWord? n).isNone || off % 8 != 0 then 0 else (s.ctrRead (o / 0x2000) (o % 0x2000 / 0x800) n).toNat
  else
    match off with
    | 0x10 => b.pcap
    | 0x18 => b.chipid
    | 0x20 => b.w2base
    | 0x28 => b.logsz
    | 0x30 => b.grace
    | 0x38 => b.erbase
    | 0x40 => b.rtbase
    | _ => 0

/-! ### The BAR 2 window (R527) -/

/-- The records whose STATE byte a write sets to 2 or 3 (R458, R530). -/
def State.answers (s : State) (dpa : Nat) (data : List Byte) : List (Posted × Bool) :=
  s.posted.filterMap fun p =>
    let a := s.recordAddr p.place p.slot
    if dpa ≤ a ∧ a < dpa + data.length then
      (match (data.getD (a - dpa) 0).toNat with
      | 2 => some (p, true)
      | 3 => some (p, false)
      | _ => none)
    else none

def State.answer (s : State) (p : Posted) (resolve : Bool) : State :=
  match p.report with
  | .page ctx page home c =>
    let v : Served := ⟨ctx, { cause := c, page, home }⟩
    let s := s.freeRecord p.place p.slot
    if resolve then s.serviceDone v else s.serviceRefused v
  | r =>
    let s := s.freeRecord p.place p.slot
    if resolve then r.resolve s else r.refuse s

/-- A host write through BAR 2: immediate writes; beyond the window's last byte it is no access. A write of a posted record's STATE
is the host's answer. -/
def execHostBar2Write (off : Nat) (data : List (BitVec 8)) (s : State) : Host.Outcome State Fault Refusal :=
  .next (
    let dpa := s.bar.w2base + off
    if !s.hostUp || decide (windowBytes < off + data.length) || decide (2 ^ 40 < dpa + data.length) then s
    else
      let s' := s.storePhys 0 dpa data
      (s.answers dpa data).foldl (fun s (p, ok) => if s.posted.contains p then s.answer p ok else s) s')

/-! ### Measurement (R535) -/

/-- The public half of the key-exchange key. -/
def exchangePublic : List Byte :=
  match Crypto.mulPoint (some (Crypto.baseX, Crypto.baseY)) 256 Config.exchangeKey with
  | some (x, y) => bytesOfNat 32 x ++ bytesOfNat 32 y
  | none => []

/-- The body of a report: the registers, the nonce, the configurations and the public key. -/
def State.reportBody (s : State) (nonce : List Byte) : List Byte :=
  (s.measures.toList.flatMap fun m => bytesOfNat 32 m.toNat) ++ nonce ++ Config.hbmConfig ++ (s.links.toList.flatMap fun n => bytesOfNat 1 n)
    ++ exchangePublic

def execMeasurementReport (nonce : List (BitVec 8)) (s : State) : Host.Outcome State Fault Refusal :=
  .next (if !s.hostUp || s.bar.stage != 7 || nonce.length != 32 then s
    else
      let body := s.reportBody nonce
      { s with reports := s.reports ++ [body ++ Config.signature Config.attestationKey body] })

/-! ### Links (R531 to R533) -/

/-- A UCIe link keeps fewer modules; one that fails gives its traffic back to the interface it came from. -/
def execUcieLinkFailure (link modules : Nat) (s : State) : Host.Outcome State Fault Refusal :=
  .next (
    let s := { s with links := s.links.setIfInBounds link (Nat.min modules (s.links.toList.getD link 0)) }
    let back := fun (p : Packet) => match p.place with
      | .ucie a b => if s.linkUp a b then p else { p with place := .dfi a, since := s.next, passed := 0, promoted := none }
      | _ => p
    { s with packets := s.packets.map back, next := s.next + 1 })

def State.port (s : State) (n : Nat) : BitVec 18 := s.bar.ports.toList.getD n 0
def State.setPort (s : State) (n : Nat) (v : BitVec 18) : State := { s with bar := { s.bar with ports := s.bar.ports.setIfInBounds n v } }

/-- A host write of a PORT word: EN and WCHG (R532). A port that is not enabled is down, and stage 5 waits for it no longer. Written with
EN = 1 after GO, a port is released for training under host-assisted link training (R536, log 65). -/
def execPortEnable (port val : Nat) (s : State) : Host.Outcome State Fault Refusal :=
  .next (if !s.hostUp || decide (36 ≤ port) then s
    else
      let w := setBits (s.port port) 1 13 (val / 2)
      let rest := s.bar.released.filter (· != port)
      if w.getLsbD 1 then
        let s := s.setPort port w
        { s with bar := { s.bar with released := if s.bar.go then rest ++ [port] else rest } }
      else
        let s := s.setPort port (setBits (setBits w 0 1 0) 14 4 0)
        { s with bar := { s.bar with released := rest, training := s.bar.training.filter (· != port) } }.trained)

/-- May the port train now? -/
def State.mayTrain (s : State) (port : Nat) : Bool :=
  s.bar.go && !s.bar.fail && !s.power.stopped && decide (port < 36) && (s.port port).getLsbD 1 && (!s.hostMode 3 || s.bar.released.contains port)

/-- Training of an enabled port ends: at speed 1 or 2 it is UP, else it is marked down. -/
def execUltraEthernetPortUp (port speed : Nat) (s : State) : Host.Outcome State Fault Refusal :=
  .next (if !s.mayTrain port then s
    else
      let up := speed == 1 || speed == 2
      let s := (s.setPort port (setBits (setBits (s.port port) 0 1 up.toNat) 14 4 (if up then speed else 0))).portsBack
      { s with bar := { s.bar with training := s.bar.training.filter (· != port) } }.trained)

/-- A die holds a packet for a chip that no port of the mask reaches. -/
def State.portLost (s : State) (die chip : Nat) : Bool :=
  !(s.die die).lost.contains chip && (s.upPorts die chip).isEmpty && s.packets.any fun p => p.place == .uet die && p.home / 256 == chip

/-- The die reports the loss once (R533). -/
def execPortLoss (die chip : Nat) (s : State) : Host.Outcome State Fault Refusal :=
  .next (if !s.portLost die chip then s
    else
      let s := s.modDie die fun d => { d with lost := d.lost ++ [chip] }
      -- the spec names no cause for this record
      s.spend.postError (field s.freeVal 0 8) 0 (s.homeId (die * 64)) 0 0 0 .other)

/-! ### Power and cooling (R538, R539) -/

/-- The cap that the device acts on. -/
def State.cap (s : State) : Nat := if s.power.hot then 1200 else s.bar.pcap

/-- The average draw of one millisecond. -/
def execPowerWindow (watts : Nat) (s : State) : Host.Outcome State Fault Refusal :=
  .next (
    let p := s.power
    if p.stopped then s
    else if s.cap < watts then { s with power := { p with clock := Nat.max 600 (p.clock - 100), below := 0 } }
    else if watts * 100 < s.cap * 95 then
      let below := p.below + 1
      { s with power := { p with below, clock := if 10 ≤ below then Nat.min 1200 (p.clock + 100) else p.clock } }
    else { s with power := { p with below := 0 } })

def execThermalLimit (s : State) : Host.Outcome State Fault Refusal := .next { s with power := { s.power with hot := true } }
def execThermalLimitClear (s : State) : Host.Outcome State Fault Refusal := .next { s with power := { s.power with hot := false } }

/-- 115 degrees: every core and link stops, and an error record with CAUSE 0 is posted. -/
def execThermalShutdown (s : State) : Host.Outcome State Fault Refusal :=
  .next (if s.power.stopped then s
    else
      let s := s.postError 0 0 (s.homeId 0) 0 0 0 .other
      { s with power := { s.power with stopped := true } })

def State.bringupDue (s : State) : List Instr :=
  (s.packets.filterMap fun p => match p.place with
    | .uet die => if s.portLost die (p.home / 256) then some (die, p.home / 256) else none
    | _ => none).eraseDups.map fun e => .portLoss e.1 e.2

end Sys2Proof.Machine
end

