-- ==== Sys2Proof/Machine/Errors.lean ====
section
/-! DEFINITION. Soft errors in the stores, their counts and what error handling does about them (R470, R471, R536). -/

namespace Sys2Proof.Machine

/-- A second of network time, of 2 GHz (R8, R538). -/
def secondUnits : Nat := 2 * 10 ^ 9 * netCycle

/-- An uncorrectable error of a core: under host-assisted error handling it posts a record; otherwise the eighth that one of its
channels has shown in one second begins their retirement (R536). -/
def State.uncorrectable (s : State) (core addr : Nat) (channel : Option Nat) : State :=
  if s.hostMode 4 then s.postError Cause.eccUncorrected.code 0 (s.homeId core) addr 0 0 .other
  else
    match channel with
    | none => s
    | some n =>
    let recent := (s.core core).errors.filter (fun e => decide (s.net < e.2 + secondUnits)) ++ [(n, s.net)]
    let s := s.modCore core fun k => { k with errors := recent }
    if 8 ≤ recent.countP (fun e => e.1 == n) && !(s.core core).retiring && !(s.core core).retired then s.beginRetirement core else s

/-- A granule of memory is poisoned. -/
def State.spoil (s : State) (key : Nat) : State :=
  { s with poison := if s.poison.contains (granule key) then s.poison else s.poison ++ [granule key] }

/-- A soft error strikes (R470). Translation tables and page pools lie in HBM. A line of a cache is discarded, and an overlay is loaded
anew by the lanes that need it. -/
def State.strike (s : State) (e : Config.SoftError) : State :=
  match e with
  | .corrected core => if (s.cores.get? core).isNone then s else s.modCore core fun k => { k with eccc := counterAdd k.eccc 1 }
  | .storage key =>
    if key < 2 ^ 40 then (s.spoil key).uncorrectable (key / 2 ^ 32) key (some (key / 2 ^ 31 % 2))
    else s.spoil key |>.uncorrectable 0 0 none
  | .register tid reg =>
    (match s.whereIs tid with
    | none => s
    | some r => (s.modHart r fun h => { h with poison := h.poison ||| BitVec.ofNat 64 (2 ^ reg) }).uncorrectable r.core 0 none)
  | .entry core seq =>
    let hit := fun (l : List Baste) => l.map fun e => if e.seq.toNat = seq then { e with poisoned := true } else e
    if (s.cores.get? core).isNone then s
    else (s.modCore core fun k => { k with log := hit k.log, buffer := hit k.buffer }).uncorrectable core 0 none
  | .arrival id reg =>
    let struck := fun (a : Arrival) => a.id = id && (a.needle.regs.get? reg).isSome
    let hit := fun (a : Arrival) => if struck a then { a with needle := { a.needle with poison := a.needle.poison ||| BitVec.ofNat 64 (2 ^ reg) } } else a
    (match s.cores.find? fun e => (e.2.store ++ e.2.spill).any struck with
    | none => s
    | some (core, _) => (s.modCore core fun k => { k with store := k.store.map hit, spill := k.spill.map hit }).uncorrectable core 0 none)
  | .cached core line =>
    if (s.cores.get? core).isNone then s
    else (s.modCore core fun k => { k with roLines := k.roLines.filter (· != line) }).modDie (dieOf core) fun d =>
      { d with roLines := d.roLines.filter (· != line), gateways := d.gateways.map fun l => l.filter (· != line) }
  | .overlay core slot =>
    match (s.core core).imem.get? slot with
    | none => s
    | some o => (s.modCore core fun k => { k with imem := k.imem.erase slot, spoiled := k.spoiled ++ [(o.ctx, o.ovl)] }).awaitOverlays core

/-- The soft error of a cycle, if one strikes. -/
def State.softErrors (s : State) : State :=
  match Config.softError s.free with
  | none => s.spend
  | some e => s.spend.strike e

end Sys2Proof.Machine
end

