-- ==== Sys2Proof/Machine/Cycle.lean ====
section
/-! DEFINITION. The end of a core cycle: clocks, counters, the static share of energy (R505, R506, R511, R513), and what the
ports' next choices need (R433, R434). -/

namespace Sys2Proof.Machine

/-! ### Energy and counters of one slot -/

/-- Wave slots that are occupied in the cycle, by context: one that empties in it is occupied to its end (R511, R548). -/
def Core.occupied (k : Core) : List Nat := k.waves.map (fun e => e.2.ctx) ++ k.departed.map Prod.snd

/-- A context's share of the static weight (R511). -/
def Slot.staticShare (q : Slot) (weight waves all : Nat) : Slot :=
  if q.frozen || waves = 0 then q
  else
    let a := field (q.word 0x1F) 0 16 + weight * waves * 2 ^ 16 / all
    (q.addPending 0x1E (a / 2 ^ 16)).setWord 0x1F (BitVec.ofNat 64 (a % 2 ^ 16))

/-- What the cycle's events add is in the counters from the next cycle on (R513). -/
def Slot.commit (q : Slot) : Slot :=
  { q.pending.foldl (fun q e => q.setWord e.1 (counterAdd (q.word e.1) e.2)) q with pending := [] }

/-- The seeds that SRSEED wrote (R190). -/
def Slot.seeded (q : Slot) : Slot :=
  { q with g0 := (q.seeds.get? 0).getD q.g0, g1 := (q.seeds.get? 1).getD q.g1, gt := (q.seeds.get? 2).getD q.gt, seeds := [] }

/-- QCOUNT counts down to 0 (R252). -/
def Slot.countDown (q : Slot) : Slot := if q.qcount = 0 then q else { q with qcount := q.qcount - 1 }

/-- One slot at the end of a cycle; `starved` are the lanes at user and at system privilege of its context's eligible waves where
no port issued one (event 0x05). DBGST and SREQ of the next cycle's reads are what the parks and commands of this one leave; a bank
that has thawed counts from the next cycle on. -/
def Slot.cycle (q : Slot) (weight waves all : Nat) (starved : Nat × Nat) : Slot :=
  let q := (q.addPending 0x10 1).event 0x05 false starved.1 starved.2 1
  let q := (q.takeSets.staticShare weight waves all).commit.seeded.countDown
  let q := { q with frozen := q.frozen && !q.thawing, thawing := false }
  (q.setWord 0x40 q.dbgst).setWord 0x41 (setBits (q.word 0x41) 1 1 q.sreq.toNat)

/-- The static weight that no context bears. -/
def Core.unshared (k : Core) : Core := if k.occupied.isEmpty then { k with eunaPending := k.eunaPending + k.weight 0 15 } else k

def Core.commitEuna (k : Core) : Core := { k with euna := if k.eunaPending = 0 then k.euna else counterAdd k.euna k.eunaPending, eunaPending := 0 }

/-! ### The cycle of a core -/

/-- The lanes, at user and at system privilege, of a context's eligible waves, where none of its waves has issued in this cycle. -/
def State.starved (s : State) (core ctx : Nat) : Nat × Nat :=
  if (s.core core).issued.contains ctx then (0, 0)
  else
    let lanes := ((s.picks core).filter fun p => !p.bobbin && p.ctx == ctx).flatMap fun p =>
      ((s.wave? core p.member).map fun v => v.lanes.filter fun e => p.lanes.contains e.1).getD []
    let system := lanes.countP fun e => e.2.tstate.priv
    (lanes.length - system, system)

/-- Since when a member has been eligible (R434). -/
def Sched.waiting (c : Sched) (eligible : Bool) (now : Nat) : Sched :=
  if eligible then { c with readySince := some (c.readySince.getD now) } else { c with readySince := none }

def Core.readyUpkeep (k : Core) (eligible : List Nat) (now : Nat) : Core :=
  { k with
    waves := k.waves.mapVals fun w v => { v with sched := v.sched.waiting (eligible.contains w) now }
    slots := k.slots.mapVals fun n q => { q with sched := q.sched.waiting (eligible.contains (64 + n)) now } }

/-- Writes of control words stand from the next cycle on (R513). -/
def State.commitControl (s : State) (core n : Nat) (q : Slot) : State :=
  q.ctlPending.foldl (fun s e => s.setControl core n e.1 e.2) (s.modSlot core n fun q => { q with ctlPending := [] })

/-- A core ends its cycle. -/
def State.coreCycle (s : State) (core : Nat) : State :=
  let starved := (s.core core).slots.map fun e => (e.1, s.starved core e.2.ctx)
  let s := (s.core core).slots.foldl (fun s e => s.flushTrace core e.1) s
  let s := s.modCore core fun k =>
    let held := k.occupied
    let weight := k.weight 0 15
    { (k.takeSets.unshared.commitEuna.takeWeights) with
      slots := k.slots.mapVals fun n q => q.cycle weight (held.count q.ctx) held.length (((starved.find? fun e => e.1 == n).map Prod.snd).getD (0, 0))
      ports := [], chosen := [], issued := [], deferred := none, departed := [], hoopStage := 0 }
  let s := (s.core core).slots.foldl (fun s e => s.commitControl core e.1 e.2) s
  s.modCore core fun k => k.readyUpkeep ((s.picks core).map Pick.member) (s.tsc.toNat + 1)

/-- Network time of one core cycle, in units of 1/27720 network cycle, at the clock of the cores. -/
def Power.cycleUnits (p : Power) : Nat := 20 * netCycle / (p.clock / 100)

/-- Every core ends its cycle, and what stands from the next cycle on is settled (R273, R470, R533, R537); nothing counts before bring-up has ended (R505), or once the device has stopped. -/
def execCoreCycle (s : State) : Host.Outcome State Fault Refusal :=
  .next (if s.bar.stage != 7 || s.bar.fail || s.power.stopped then s
    else
      let s := s.cores.foldl (fun s e => s.coreCycle e.1) s
      let s := { s with tsc := s.tsc + 1, fireClosed := false, net := s.net + s.power.cycleUnits }.noticeWakes
      s.commitSplit.portsBack.retrySwitches.softErrors)

end Sys2Proof.Machine
end

