-- ==== Sys2Proof/Machine/Elementary.lean ====
section
/-! DEFINITION. The single-operand functions of R179, correctly rounded: reciprocals and roots exactly, the elementary
functions by fixed-point series with an error bound. A result is taken where both ends of the bound round alike; that they do
for every operand is not proved, and elsewhere the result is an open constant of Config (log 7). -/

namespace Sys2Proof.Machine

/-! ### Roots -/

/-- The integer square root by its bits from bit n down. -/
def isqrtBits : Nat → Nat → Nat → Nat
  | 0, _, r => r
  | n + 1, v, r => isqrtBits n v (if (r + 2 ^ n) * (r + 2 ^ n) ≤ v then r + 2 ^ n else r)

def isqrt (v : Nat) : Nat := isqrtBits (Nat.log2 v / 2 + 1) v 0

/-- √(m × 2^e) for nonzero m to more bits than any format rounds, its last bit set when more follow. -/
def sqrtVal (m : Nat) (e : Int) : Nat × Int :=
  let k : Nat := if e % 2 = 0 then 200 else 201
  let v := m * 2 ^ k
  let r := isqrt v
  (2 * r + (if r * r = v then 0 else 1), (e - k) / 2 - 1)

/-- 1/√(m × 2^e) for nonzero m. -/
def rsqrtVal (m : Nat) (e : Int) : Nat × Int :=
  let k : Nat := 2 * Nat.log2 m + (if e % 2 = 0 then 200 else 201)
  let v := 2 ^ k
  let r := isqrt (v / m)
  (2 * r + (if r * r * m = v then 0 else 1), -((e + k) / 2) - 1)

def frcpBits (t : Fmt) (rm : Round) (ftz : Bool) (a : Nat) : Nat × FFlags :=
  resultF t { mode := rm, ftz } (divF (.fin false 1 0) (readF t ftz a))

def fsqrtBits (t : Fmt) (rm : Round) (ftz : Bool) (a : Nat) : Nat × FFlags :=
  resultF t { mode := rm, ftz } (match readF t ftz a with
    | .nan => (.nan, 0)
    | .inf neg => if neg then (.nan, FFlags.IV) else (.inf false, 0)
    | .fin neg m e =>
      if m = 0 then (.fin neg 0 0, 0)
      else if neg then (.nan, FFlags.IV)
      else let r := sqrtVal m e; (.fin false r.1 r.2, 0))

def frsqBits (t : Fmt) (rm : Round) (ftz : Bool) (a : Nat) : Nat × FFlags :=
  resultF t { mode := rm, ftz } (match readF t ftz a with
    | .nan => (.nan, 0)
    | .inf neg => if neg then (.nan, FFlags.IV) else (.fin false 0 0, 0)
    | .fin neg m e =>
      if m = 0 then (.inf neg, FFlags.DZ)
      else if neg then (.nan, FFlags.IV)
      else let r := rsqrtVal m e; (.fin false r.1 r.2, 0))

/-! ### Series at 320 fraction bits -/

/-- ⌊π × 2^320⌋ and ⌊ln 2 × 2^320⌋. -/
def piBits : Nat := 0x3243f6a8885a308d313198a2e03707344a4093822299f31d0082efa98ec4e6c89452821e638d01377
def ln2Bits : Nat := 0xb17217f7d1cf79abc9e3b39803f2f6af40f343267298b62d8a0d175b8baafa2be7b876206debac98

/-- Terms of e^y from term i on, for y in fixed point. -/
def expTerms (y : Nat) : Nat → Nat → Nat → Nat
  | 0, _, _ => 0
  | n + 1, i, t => t + expTerms y n (i + 1) (t * y / 2 ^ 320 / (i + 1))

/-- Terms of artanh z: z^i / i for odd i. -/
def artanhTerms (z2 : Nat) : Nat → Nat → Nat → Nat
  | 0, _, _ => 0
  | n + 1, i, t => t / i + artanhTerms z2 n (i + 2) (t * z2 / 2 ^ 320)

/-- Terms of sin x, alternating, for x in fixed point with x2 its square. -/
def sinTerms (x2 : Nat) : Nat → Nat → Nat → Int
  | 0, _, _ => 0
  | n + 1, i, t => (t : Int) - sinTerms x2 n (i + 2) (t * x2 / 2 ^ 320 / ((i + 1) * (i + 2)))

/-- The rounding of an irrational value whose magnitude lies within 2^20 of v, in units of 2^e; below `top` where that bound
is known. -/
def settledF (t : Fmt) (d : Rnd) (neg : Bool) (v : Nat) (e : Int) (top : Option Nat) (fn a : Nat) : Nat × FFlags :=
  let hi := match top with
    | some u => Nat.min (v + 2 ^ 20) (u - 1)
    | none => v + 2 ^ 20
  let x := roundTo t d neg (2 * (v - 2 ^ 20) + 1) (e - 1)
  let y := roundTo t d neg (2 * hi + 1) (e - 1)
  if x = y then x
  else
    let c := Config.elementary fn a
    (c % 2 ^ t.bits, BitVec.ofNat 5 (c / 2 ^ t.bits))

/-- A value too large or too small to have any other rounding than its kind. -/
def hugeF : FVal := .fin false 1 100000
def minuteF : FVal := .fin false 1 (-100000)

/-- 2^a of a finite operand. -/
def exp2Fin (t : Fmt) (d : Rnd) (neg : Bool) (m : Nat) (e : Int) (a : Nat) : Nat × FFlags :=
  if m = 0 then roundTo t d false 1 0
  else if 20 ≤ e + Nat.log2 m then deliverF t d (if neg then minuteF else hugeF)
  else if 0 ≤ e then roundTo t d false 1 (signInt neg (m * 2 ^ e.toNat))
  else
    let k := (-e).toNat
    let x := signInt neg m
    let n := x.fdiv (2 ^ k)
    let frac := (x.fmod (2 ^ k)).toNat
    if frac = 0 then roundTo t d false 1 n
    else
      let y := frac * ln2Bits / 2 ^ k
      settledF t d false (expTerms y 90 0 (2 ^ 320)) (n - 320) none 0 (a + 2 ^ 32 * t.bits)

/-- log2 of a finite positive operand. -/
def log2Fin (t : Fmt) (d : Rnd) (m : Nat) (e : Int) (a : Nat) : Nat × FFlags :=
  let l := Nat.log2 m
  let k := e + l
  if m = 2 ^ l then deliverF t d (intF k 0)
  else
    let z := (m - 2 ^ l) * 2 ^ 320 / (m + 2 ^ l)
    let ln := 2 * artanhTerms (z * z / 2 ^ 320) 120 1 z
    let v := k * 2 ^ 320 + (ln * 2 ^ 320 / ln2Bits : Nat)
    settledF t d (decide (v < 0)) v.natAbs (-320) none 1 (a + 2 ^ 32 * t.bits)

/-- sin(π n / d): an exact 0 with the given sign, an exact ±1, or the rounded value. -/
def sinPi (t : Fmt) (r : Rnd) (neg zeroNeg : Bool) (n d fn a : Nat) : Nat × FFlags :=
  let p := n % (2 * d)
  let flip := decide (d ≤ p)
  let p := if d ≤ p then p - d else p
  let p := if d < 2 * p then d - p else p
  let neg := xor neg flip
  if p = 0 then roundTo t r zeroNeg 0 0
  else if 2 * p = d then roundTo t r neg 1 0
  else
    let x := piBits * p / d
    settledF t r neg (sinTerms (x * x / 2 ^ 320) 60 1 x).toNat (-320) (some (2 ^ 320)) fn (a + 2 ^ 32 * t.bits)

/-- A finite magnitude as a fraction. -/
def fraction (m : Nat) (e : Int) : Nat × Nat := if 0 ≤ e then (m * 2 ^ e.toNat, 1) else (m, 2 ^ (-e).toNat)

def fexp2Bits (t : Fmt) (ftz : Bool) (a : Nat) : Nat × FFlags :=
  let d : Rnd := { ftz }
  match readF t ftz a with
  | .nan => deliverF t d .nan
  | .inf neg => deliverF t d (if neg then .fin false 0 0 else .inf false)
  | .fin neg m e => exp2Fin t d neg m e a

def flog2Bits (t : Fmt) (ftz : Bool) (a : Nat) : Nat × FFlags :=
  let d : Rnd := { ftz }
  match readF t ftz a with
  | .nan => deliverF t d .nan
  | .inf neg => if neg then resultF t d (.nan, FFlags.IV) else deliverF t d (.inf false)
  | .fin neg m e =>
    if m = 0 then resultF t d (.inf true, FFlags.DZ)
    else if neg then resultF t d (.nan, FFlags.IV)
    else log2Fin t d m e a

def fsinBits (t : Fmt) (ftz : Bool) (a : Nat) : Nat × FFlags :=
  let d : Rnd := { ftz }
  match readF t ftz a with
  | .nan => deliverF t d .nan
  | .inf _ => resultF t d (.nan, FFlags.IV)
  | .fin neg m e => let f := fraction m e; sinPi t d neg neg f.1 f.2 2 a

/-- cos(π a) = sin(π (|a| + 1/2)). -/
def fcosBits (t : Fmt) (ftz : Bool) (a : Nat) : Nat × FFlags :=
  let d : Rnd := { ftz }
  match readF t ftz a with
  | .nan => deliverF t d .nan
  | .inf _ => resultF t d (.nan, FFlags.IV)
  | .fin _ m e => let f := fraction m e; sinPi t d false false (2 * f.1 + f.2) (2 * f.2) 3 a

/-! ### The instructions -/

def fop1 (g : Guard) (d : Reg) (a : Src) (t : Option Fmt) (f : Fmt → Nat → Nat × FFlags) (s : State) : Host.Outcome State Fault Refusal :=
  aluOp g (fun h => h.writeF d (f (t.getD .f32) (h.word a))) s

def execFrcp (g : Guard) (d : Reg) (a : Src) (t : Option Fmt) (rm : Round) (ftz : Bool) (s : State) : Host.Outcome State Fault Refusal :=
  fop1 g d a t (fun t => frcpBits t rm ftz) s

def execFrsq (g : Guard) (d : Reg) (a : Src) (t : Option Fmt) (rm : Round) (ftz : Bool) (s : State) : Host.Outcome State Fault Refusal :=
  fop1 g d a t (fun t => frsqBits t rm ftz) s

def execFsqrt (g : Guard) (d : Reg) (a : Src) (t : Option Fmt) (rm : Round) (ftz : Bool) (s : State) : Host.Outcome State Fault Refusal :=
  fop1 g d a t (fun t => fsqrtBits t rm ftz) s

def execFexp2 (g : Guard) (d : Reg) (a : Src) (t : Option Fmt) (ftz : Bool) (s : State) : Host.Outcome State Fault Refusal :=
  fop1 g d a t (fun t => fexp2Bits t ftz) s

def execFlog2 (g : Guard) (d : Reg) (a : Src) (t : Option Fmt) (ftz : Bool) (s : State) : Host.Outcome State Fault Refusal :=
  fop1 g d a t (fun t => flog2Bits t ftz) s

def execFsin (g : Guard) (d : Reg) (a : Src) (t : Option Fmt) (ftz : Bool) (s : State) : Host.Outcome State Fault Refusal :=
  fop1 g d a t (fun t => fsinBits t ftz) s

def execFcos (g : Guard) (d : Reg) (a : Src) (t : Option Fmt) (ftz : Bool) (s : State) : Host.Outcome State Fault Refusal :=
  fop1 g d a t (fun t => fcosBits t ftz) s

end Sys2Proof.Machine
end

