-- ==== Sys2Proof/Machine/Integer.lean ====
section
/-! DEFINITION. The integer, logic and predicate instructions of block 0x20 (R141 to R160). MOV.id stands with the identity
registers. -/

namespace Sys2Proof.Machine

/-- A result at the type from two integer operands (R147). -/
def intOp2 (g : Guard) (d : Reg) (a b : Src) (t : Option Fmt) (dflt : Fmt) (sat : Bool) (f : Fmt → Int → Int → Int) (s : State) :
    Host.Outcome State Fault Refusal :=
  aluOp g (fun h => let T := h.ty t dflt; h.writeInt d.toNat T sat (f T (h.readInt a T) (h.readInt b T))) s

/-- A result at the type from two bit patterns (R153). -/
def logicOp2 (g : Guard) (d : Reg) (a b : Src) (t : Option Fmt) (f : Nat → Nat → Nat) (s : State) : Host.Outcome State Fault Refusal :=
  aluOp g (fun h => let T := h.ty t .n32; h.writePattern d.toNat T (f (h.pattern a T) (h.pattern b T))) s

/-- A shift of the pattern by bits [7:0] of a single register (R153). -/
def shiftOp (g : Guard) (d : Reg) (a b : Src) (t : Option Fmt) (dflt : Fmt) (f : Nat → Nat → Nat → Nat) (s : State) :
    Host.Outcome State Fault Refusal :=
  aluOp g (fun h => let T := h.ty t dflt; h.writePattern d.toNat T (f T.bits (h.pattern a T) ((h.src b).toNat % 256))) s

def execMov (g : Guard) (d : Reg) (a : Src) (t : Option Fmt) (s : State) : Host.Outcome State Fault Refusal :=
  aluOp g (fun h => let T := h.ty t .i32; h.writeInt d.toNat T false (h.readInt a T)) s

/-- MOVI (R149); in bobbin code all 64 bits (R146). -/
def moviValue (h : Hart) (d : Reg) (k : MoviKind) (imm : BitVec 16) : DWord :=
  match k with
  | .sext => imm.signExtend 64
  | .zext => imm.setWidth 64
  | .hi => (imm ++ (h.reg d.toNat).extractLsb' 0 16 : BitVec 32).signExtend 64

def execMovi (g : Guard) (d : Reg) (k : MoviKind) (imm : BitVec 16) (s : State) : Host.Outcome State Fault Refusal :=
  aluOp g (fun h => h.setReg d.toNat (moviValue h d k imm)) s

def execAdd (g : Guard) (d : Reg) (a b : Src) (t : Option Fmt) (sat : Bool) (s : State) : Host.Outcome State Fault Refusal :=
  intOp2 g d a b t .i32 sat (fun _ a b => a + b) s

def execSub (g : Guard) (d : Reg) (a b : Src) (t : Option Fmt) (sat : Bool) (s : State) : Host.Outcome State Fault Refusal :=
  intOp2 g d a b t .i32 sat (fun _ a b => a - b) s

/-- The sum or difference of 32-bit values with a carry (R150): result and carry out. -/
def addCarry (a b k : Nat) : Nat × Bool := ((a + b + k) % 2 ^ 32, decide (2 ^ 32 ≤ a + b + k))
def subBorrow (a b k : Nat) : Nat × Bool := ((a + 2 ^ 33 - b - k) % 2 ^ 32, decide (a < b + k))

def carryOp (g : Guard) (d : Reg) (a b : Src) (pc : BitVec 3) (f : Nat → Nat → Nat → Nat × Bool) (s : State) :
    Host.Outcome State Fault Refusal :=
  aluOp g (fun h =>
    let r := f (h.word a) (h.word b) (h.pred pc).toNat
    (h.setWord d.toNat r.1).setPred pc r.2) s

def execAddc (g : Guard) (d : Reg) (a b : Src) (pc : BitVec 3) (s : State) : Host.Outcome State Fault Refusal :=
  carryOp g d a b pc addCarry s

def execSubb (g : Guard) (d : Reg) (a b : Src) (pc : BitVec 3) (s : State) : Host.Outcome State Fault Refusal :=
  carryOp g d a b pc subBorrow s

def execMul (g : Guard) (d : Reg) (a b : Src) (t : Option Fmt) (sat : Bool) (s : State) : Host.Outcome State Fault Refusal :=
  intOp2 g d a b t .i32 sat (fun _ a b => a * b) s

/-- The high half, by the floor (R151). -/
def execMulhi (g : Guard) (d : Reg) (a b : Src) (t : Option Fmt) (s : State) : Host.Outcome State Fault Refusal :=
  intOp2 g d a b t .n32 false (fun T a b => (a * b).fdiv (2 ^ T.bits)) s

/-- The type of a product of double width (R151). -/
def fmtDouble : Fmt → Fmt
  | .n8 => .n16 | .i8 => .i16 | .n16 => .n32 | .i16 => .i32 | .n32 => .n64 | _ => .i64

/-- MULW (R151); its default type is .i32 in bobbin code too (R146). -/
def execMulw (g : Guard) (d : Reg) (a b : Src) (t : Option Fmt) (s : State) : Host.Outcome State Fault Refusal :=
  aluOp g (fun h => let T := t.getD .i32; h.writeInt d.toNat (fmtDouble T) false (h.readInt a T * h.readInt b T)) s

def execMad (g : Guard) (d : Reg) (a b c : Src) (t : Option Fmt) (sat : Bool) (s : State) : Host.Outcome State Fault Refusal :=
  aluOp g (fun h => let T := h.ty t .i32; h.writeInt d.toNat T sat (h.readInt a T * h.readInt b T + h.readInt c T)) s

def execMin (g : Guard) (d : Reg) (a b : Src) (t : Option Fmt) (s : State) : Host.Outcome State Fault Refusal :=
  intOp2 g d a b t .i32 false (fun _ a b => if a ≤ b then a else b) s

def execMax (g : Guard) (d : Reg) (a b : Src) (t : Option Fmt) (s : State) : Host.Outcome State Fault Refusal :=
  intOp2 g d a b t .i32 false (fun _ a b => if a ≤ b then b else a) s

def execAbs (g : Guard) (d : Reg) (a : Src) (t : Option Fmt) (sat : Bool) (s : State) : Host.Outcome State Fault Refusal :=
  aluOp g (fun h => let T := h.ty t .i32; h.writeInt d.toNat T sat (h.readInt a T).natAbs) s

def execAnd (g : Guard) (d : Reg) (a b : Src) (t : Option Fmt) (s : State) : Host.Outcome State Fault Refusal :=
  logicOp2 g d a b t (fun a b => a &&& b) s

def execOr (g : Guard) (d : Reg) (a b : Src) (t : Option Fmt) (s : State) : Host.Outcome State Fault Refusal :=
  logicOp2 g d a b t (fun a b => a ||| b) s

def execXor (g : Guard) (d : Reg) (a b : Src) (t : Option Fmt) (s : State) : Host.Outcome State Fault Refusal :=
  logicOp2 g d a b t (fun a b => a ^^^ b) s

def execAndn (g : Guard) (d : Reg) (a b : Src) (t : Option Fmt) (s : State) : Host.Outcome State Fault Refusal :=
  logicOp2 g d a b t (fun a b => a ^^^ (a &&& b)) s

def shlN (n a k : Nat) : Nat := if k < n then a * 2 ^ k % 2 ^ n else 0
def shrN (n a k : Nat) : Nat := if k < n then a / 2 ^ k else 0
def sarN (n a k : Nat) : Nat := ((intOf n true a).fdiv (2 ^ (if k < n then k else n)) % 2 ^ n).toNat
def rotN (n a k : Nat) : Nat := (a * 2 ^ (k % n) + a / 2 ^ (n - k % n)) % 2 ^ n

def execShl (g : Guard) (d : Reg) (a b : Src) (t : Option Fmt) (s : State) : Host.Outcome State Fault Refusal :=
  shiftOp g d a b t .n32 shlN s

def execShr (g : Guard) (d : Reg) (a b : Src) (t : Option Fmt) (s : State) : Host.Outcome State Fault Refusal :=
  shiftOp g d a b t .n32 shrN s

def execSar (g : Guard) (d : Reg) (a b : Src) (t : Option Fmt) (s : State) : Host.Outcome State Fault Refusal :=
  shiftOp g d a b t .i32 sarN s

def execRot (g : Guard) (d : Reg) (a b : Src) (t : Option Fmt) (s : State) : Host.Outcome State Fault Refusal :=
  shiftOp g d a b t .n32 rotN s

/-- The field at pos of length len of an n-bit pattern (R154), or none where it is empty. -/
def fieldLen (n ctl : Nat) : Option (Nat × Nat) :=
  let pos := ctl % 256
  let len := ctl / 256 % 256
  if len = 0 ∨ n ≤ pos then none else some (pos, Nat.min len (n - pos))

def bfxN (T : Fmt) (a ctl : Nat) : Int :=
  match fieldLen T.bits ctl with
  | none => 0
  | some (pos, l) => intOf l T.signed (a / 2 ^ pos)

def bfiN (n a b ctl : Nat) : Nat :=
  match fieldLen n ctl with
  | none => a
  | some (pos, l) => a % 2 ^ pos + b % 2 ^ l * 2 ^ pos + a / 2 ^ (pos + l) * 2 ^ (pos + l)

def execBfx (g : Guard) (d : Reg) (a b : Src) (t : Option Fmt) (s : State) : Host.Outcome State Fault Refusal :=
  aluOp g (fun h => let T := h.ty t .n32; h.writeInt d.toNat T false (bfxN T (h.pattern a T) (h.word b))) s

def execBfi (g : Guard) (d : Reg) (a b c : Src) (t : Option Fmt) (s : State) : Host.Outcome State Fault Refusal :=
  aluOp g (fun h => let T := h.ty t .n32; h.writePattern d.toNat T (bfiN T.bits (h.pattern a T) (h.pattern b T) (h.word c))) s

def popN (n a : Nat) : Nat := (List.range n).countP fun i => a.testBit i
/-- Bits above the highest 1. -/
def clzN (n a : Nat) : Nat := if a = 0 then n else n - 1 - Nat.log2 a
def brevN (n a : Nat) : Nat := sumNat ((List.range n).map fun i => if a.testBit i then 2 ^ (n - 1 - i) else 0)

/-- One 32-bit register at every type (R155). -/
def countOp (g : Guard) (d : Reg) (a : Src) (t : Option Fmt) (f : Nat → Nat → Nat) (s : State) : Host.Outcome State Fault Refusal :=
  aluOp g (fun h => let T := h.ty t .n32; h.setWord d.toNat (f T.bits (h.pattern a T))) s

def execPopc (g : Guard) (d : Reg) (a : Src) (t : Option Fmt) (s : State) : Host.Outcome State Fault Refusal :=
  countOp g d a t popN s

def execClz (g : Guard) (d : Reg) (a : Src) (t : Option Fmt) (s : State) : Host.Outcome State Fault Refusal :=
  countOp g d a t clzN s

def execBrev (g : Guard) (d : Reg) (a : Src) (t : Option Fmt) (s : State) : Host.Outcome State Fault Refusal :=
  aluOp g (fun h => let T := h.ty t .n32; h.writePattern d.toNat T (brevN T.bits (h.pattern a T))) s

/-- Result byte i of BPICK (R156). -/
def pickByte (src sel i : Nat) : Nat := if sel.testBit (12 + i) then 0 else src / 256 ^ (sel / 8 ^ i % 8) % 256
def pickBytes (src sel : Nat) : Nat := sumNat ((List.range 4).map fun i => pickByte src sel i * 256 ^ i)

def execBpick (g : Guard) (d : Reg) (a b : Src) (byReg : Bool) (c : Src) (pick : BitVec 16) (s : State) : Host.Outcome State Fault Refusal :=
  aluOp g (fun h => h.setWord d.toNat
    (pickBytes (h.word a + h.word b * 2 ^ 32) (if byReg then h.word c % 2 ^ 16 else pick.toNat))) s

/-- LEA (R157): the 32-bit xB is extended by the type's signedness. -/
def execLea (g : Guard) (d : Reg) (a b : Src) (sh : BitVec 3) (t : Option Fmt) (s : State) : Host.Outcome State Fault Refusal :=
  aluOp g (fun h => let T := h.ty t .n32;
    h.writeInt d.toNat T false (h.readInt a T + intOf 32 T.signed (h.word b) * 2 ^ sh.toNat)) s

def condHolds (c : Cond) (a b : Int) : Bool :=
  match c with
  | .eq => a == b
  | .ne => a != b
  | .lt => decide (a < b)
  | .le => decide (a ≤ b)
  | .gt => decide (b < a)
  | .ge => decide (b ≤ a)

def execCmp (g : Guard) (cond : Cond) (pd : BitVec 3) (a b : Src) (t : Option Fmt) (s : State) : Host.Outcome State Fault Refusal :=
  aluOp g (fun h => let T := h.ty t .i32; h.setPred pd (condHolds cond (h.readInt a T) (h.readInt b T))) s

def execSel (g : Guard) (d : Reg) (a b : Src) (pc : BitVec 3) (neg : Bool) (t : Option Fmt) (s : State) : Host.Outcome State Fault Refusal :=
  aluOp g (fun h => let T := h.ty t .i32;
    h.writeInt d.toNat T false (if xor (h.pred pc) neg then h.readInt a T else h.readInt b T)) s

def execPlop (g : Guard) (pd pa pb pc : BitVec 3) (lut : BitVec 8) (s : State) : Host.Outcome State Fault Refusal :=
  aluOp g (fun h => h.setPred pd (lut.getLsbD (4 * (h.pred pa).toNat + 2 * (h.pred pb).toNat + (h.pred pc).toNat))) s

/-- p0 to p6 with p7 as bit 7 (R160). -/
def execPlopPk (g : Guard) (d : Reg) (s : State) : Host.Outcome State Fault Refusal :=
  aluOp g (fun h => h.setWord d.toNat (h.preds.toNat + 128)) s

def execPlopUpk (g : Guard) (a : Src) (mask : BitVec 7) (s : State) : Host.Outcome State Fault Refusal :=
  aluOp g (fun h => { h with preds := (h.preds &&& ~~~mask) ||| ((h.src a).extractLsb' 0 7 &&& mask) }) s

/-- Quotient and remainder (R152). -/
def divN (T : Fmt) (sat : Bool) (a b : Int) : Int × Int :=
  if b = 0 then (2 ^ T.bits - 1, a)
  else if T.signed && a == fmtLo T && b == -1 then (if sat then fmtHi T else fmtLo T, 0)
  else (a.tdiv b, a.tmod b)

def execDivn (g : Guard) (d : Reg) (a b : Src) (t : Option Fmt) (sat : Bool) (s : State) : Host.Outcome State Fault Refusal :=
  aluOp g (fun h =>
    let T := h.ty t .i32
    let r := divN T sat (h.readInt a T) (h.readInt b T)
    let second := d.toNat + (if T.bits = 64 && !h.isBobbin then 2 else 1)
    (h.writeInt d.toNat T false r.1).writeInt second T false r.2) s

end Sys2Proof.Machine
end

