-- ==== Sys2Proof/Machine/Dispatch.lean ====
section
/-! DEFINITION. One arm per constructor of Instr: a direct call of its meaning. -/

namespace Sys2Proof.Machine

def exec (i : Instr) (s : State) : Host.Outcome State Fault Refusal :=
  match i with
  | .nop g => Sys2Proof.Machine.execNop g s
  | .pad label => Sys2Proof.Machine.execPad label s
  | .bra g target => Sys2Proof.Machine.execBra g target s
  | .braFar g target => Sys2Proof.Machine.execBraFar g target s
  | .brx g jt ix => Sys2Proof.Machine.execBrx g jt ix s
  | .call g d target => Sys2Proof.Machine.execCall g d target s
  | .callFar g d target => Sys2Proof.Machine.execCallFar g d target s
  | .callx g d jt ix => Sys2Proof.Machine.execCallx g d jt ix s
  | .ret g a => Sys2Proof.Machine.execRet g a s
  | .seam g n => Sys2Proof.Machine.execSeam g n s
  | .join g n => Sys2Proof.Machine.execJoin g n s
  | .wait g mask => Sys2Proof.Machine.execWait g mask s
  | .cut g n target => Sys2Proof.Machine.execCut g n target s
  | .cutFar g n target => Sys2Proof.Machine.execCutFar g n target s
  | .rep g byReg a n sd sa sb sc => Sys2Proof.Machine.execRep g byReg a n sd sa sb sc s
  | .exit g => Sys2Proof.Machine.execExit g s
  | .yield g => Sys2Proof.Machine.execYield g s
  | .dqput g pd a => Sys2Proof.Machine.execDqput g pd a s
  | .dqget g d => Sys2Proof.Machine.execDqget g d s
  | .dqgetLo g d => Sys2Proof.Machine.execDqgetLo g d s
  | .dqpeek g d pb => Sys2Proof.Machine.execDqpeek g d pb s
  | .dqpeekLo g d pb => Sys2Proof.Machine.execDqpeekLo g d pb s
  | .mov g d a t => Sys2Proof.Machine.execMov g d a t s
  | .movId g d num => Sys2Proof.Machine.execMovId g d num s
  | .movi g d k imm => Sys2Proof.Machine.execMovi g d k imm s
  | .add g d a b t sat => Sys2Proof.Machine.execAdd g d a b t sat s
  | .sub g d a b t sat => Sys2Proof.Machine.execSub g d a b t sat s
  | .addc g d a b pc => Sys2Proof.Machine.execAddc g d a b pc s
  | .subb g d a b pc => Sys2Proof.Machine.execSubb g d a b pc s
  | .mul g d a b t sat => Sys2Proof.Machine.execMul g d a b t sat s
  | .mulhi g d a b t => Sys2Proof.Machine.execMulhi g d a b t s
  | .mulw g d a b t => Sys2Proof.Machine.execMulw g d a b t s
  | .mad g d a b c t sat => Sys2Proof.Machine.execMad g d a b c t sat s
  | .min g d a b t => Sys2Proof.Machine.execMin g d a b t s
  | .max g d a b t => Sys2Proof.Machine.execMax g d a b t s
  | .abs g d a t sat => Sys2Proof.Machine.execAbs g d a t sat s
  | .and g d a b t => Sys2Proof.Machine.execAnd g d a b t s
  | .or g d a b t => Sys2Proof.Machine.execOr g d a b t s
  | .xor g d a b t => Sys2Proof.Machine.execXor g d a b t s
  | .andn g d a b t => Sys2Proof.Machine.execAndn g d a b t s
  | .shl g d a b t => Sys2Proof.Machine.execShl g d a b t s
  | .shr g d a b t => Sys2Proof.Machine.execShr g d a b t s
  | .sar g d a b t => Sys2Proof.Machine.execSar g d a b t s
  | .rot g d a b t => Sys2Proof.Machine.execRot g d a b t s
  | .bfx g d a b t => Sys2Proof.Machine.execBfx g d a b t s
  | .bfi g d a b c t => Sys2Proof.Machine.execBfi g d a b c t s
  | .popc g d a t => Sys2Proof.Machine.execPopc g d a t s
  | .clz g d a t => Sys2Proof.Machine.execClz g d a t s
  | .brev g d a t => Sys2Proof.Machine.execBrev g d a t s
  | .bpick g d a b byReg c pick => Sys2Proof.Machine.execBpick g d a b byReg c pick s
  | .lea g d a b sh t => Sys2Proof.Machine.execLea g d a b sh t s
  | .cmp g cond pd a b t => Sys2Proof.Machine.execCmp g cond pd a b t s
  | .sel g d a b pc neg t => Sys2Proof.Machine.execSel g d a b pc neg t s
  | .plop g pd pa pb pc lut => Sys2Proof.Machine.execPlop g pd pa pb pc lut s
  | .plopPk g d => Sys2Proof.Machine.execPlopPk g d s
  | .plopUpk g a mask => Sys2Proof.Machine.execPlopUpk g a mask s
  | .divn g d a b t sat => Sys2Proof.Machine.execDivn g d a b t sat s
  | .fadd g d a b t rm ftz => Sys2Proof.Machine.execFadd g d a b t rm ftz s
  | .fsub g d a b t rm ftz => Sys2Proof.Machine.execFsub g d a b t rm ftz s
  | .fmul g d a b t rm ftz => Sys2Proof.Machine.execFmul g d a b t rm ftz s
  | .ffma g d a b c t rm ftz => Sys2Proof.Machine.execFfma g d a b c t rm ftz s
  | .fmin g d a b t ftz => Sys2Proof.Machine.execFmin g d a b t ftz s
  | .fmax g d a b t ftz => Sys2Proof.Machine.execFmax g d a b t ftz s
  | .fcmp g cond pd a b t ftz => Sys2Proof.Machine.execFcmp g cond pd a b t ftz s
  | .fclass g d a t => Sys2Proof.Machine.execFclass g d a t s
  | .frcp g d a t rm ftz => Sys2Proof.Machine.execFrcp g d a t rm ftz s
  | .frsq g d a t rm ftz => Sys2Proof.Machine.execFrsq g d a t rm ftz s
  | .fsqrt g d a t rm ftz => Sys2Proof.Machine.execFsqrt g d a t rm ftz s
  | .fexp2 g d a t ftz => Sys2Proof.Machine.execFexp2 g d a t ftz s
  | .flog2 g d a t ftz => Sys2Proof.Machine.execFlog2 g d a t ftz s
  | .fsin g d a t ftz => Sys2Proof.Machine.execFsin g d a t ftz s
  | .fcos g d a t ftz => Sys2Proof.Machine.execFcos g d a t ftz s
  | .fdiv g d a b t rm ftz => Sys2Proof.Machine.execFdiv g d a b t rm ftz s
  | .hadd2 g d a b t rm ftz => Sys2Proof.Machine.execHadd2 g d a b t rm ftz s
  | .hmul2 g d a b t rm ftz => Sys2Proof.Machine.execHmul2 g d a b t rm ftz s
  | .hfma2 g d a b c t rm ftz => Sys2Proof.Machine.execHfma2 g d a b c t rm ftz s
  | .hmin2 g d a b t ftz => Sys2Proof.Machine.execHmin2 g d a b t ftz s
  | .hmax2 g d a b t ftz => Sys2Proof.Machine.execHmax2 g d a b t ftz s
  | .hcmp2 g cond pd a b t ftz => Sys2Proof.Machine.execHcmp2 g cond pd a b t ftz s
  | .dot4 g d a b c t rm ftz sat => Sys2Proof.Machine.execDot4 g d a b c t rm ftz sat s
  | .dot2 g d a b c t rm ftz => Sys2Proof.Machine.execDot2 g d a b c t rm ftz s
  | .vadd4 g d a b t sat => Sys2Proof.Machine.execVadd4 g d a b t sat s
  | .vsub4 g d a b t sat => Sys2Proof.Machine.execVsub4 g d a b t sat s
  | .cvt g d a df sf rm sat ftz pk => Sys2Proof.Machine.execCvt g d a df sf rm sat ftz pk s
  | .cvtsr g d a df sf b xr sat ftz pk => Sys2Proof.Machine.execCvtsr g d a df sf b xr sat ftz pk s
  | .srseed g a which => Sys2Proof.Machine.execSrseed g a which s
  | .qnt g d a df sf b planes rm sat ftz pk => Sys2Proof.Machine.execQnt g d a df sf b planes rm sat ftz pk s
  | .dqnt g d a df sf b planes rm sat ftz pk => Sys2Proof.Machine.execDqnt g d a df sf b planes rm sat ftz pk s
  | .plpack g d a P p => Sys2Proof.Machine.execPlpack g d a P p s
  | .plunpk g d a P k => Sys2Proof.Machine.execPlunpk g d a P k s
  | .plext g d a P k os => Sys2Proof.Machine.execPlext g d a P k os s
  | .f8algn g d a b f mx => Sys2Proof.Machine.execF8algn g d a b f mx s
  | .sclx g d a b df rm bi sat ftz => Sys2Proof.Machine.execSclx g d a b df rm bi sat ftz s
  | .shfl g d a b t fz => Sys2Proof.Machine.execShfl g d a b t fz s
  | .bfly g d a n t fz => Sys2Proof.Machine.execBfly g d a n t fz s
  | .shup g d a n t fz => Sys2Proof.Machine.execShup g d a n t fz s
  | .shdn g d a n t fz => Sys2Proof.Machine.execShdn g d a n t fz s
  | .bcast g d a n t fz => Sys2Proof.Machine.execBcast g d a n t fz s
  | .pcens g k d pa n => Sys2Proof.Machine.execPcens g k d pa n s
  | .redux g op d a t => Sys2Proof.Machine.execRedux g op d a t s
  | .scan g op d a t ex => Sys2Proof.Machine.execScan g op d a t ex s
  | .matchLane g d a t => Sys2Proof.Machine.execMatchLane g d a t s
  | .ld g d bolt ix t sx sl => Sys2Proof.Machine.execLd g d bolt ix t sx sl s
  | .st g bolt ix b t sx sl => Sys2Proof.Machine.execSt g bolt ix b t sx sl s
  | .ldq g d bolt ix n t sx sl => Sys2Proof.Machine.execLdq g d bolt ix n t sx sl s
  | .stq g bolt ix b n t sx sl => Sys2Proof.Machine.execStq g bolt ix b n t sx sl s
  | .ldro g d bolt ix t sx sl => Sys2Proof.Machine.execLdro g d bolt ix t sx sl s
  | .pref g bolt ix sl => Sys2Proof.Machine.execPref g bolt ix sl s
  | .migr g bolt ix sx sl => Sys2Proof.Machine.execMigr g bolt ix sx sl s
  | .spawn g pd bolt ix b c target sl => Sys2Proof.Machine.execSpawn g pd bolt ix b c target sl s
  | .phaseArv g d level sl => Sys2Proof.Machine.execPhaseArv g d level sl s
  | .phaseWait g a level sl => Sys2Proof.Machine.execPhaseWait g a level sl s
  | .fence g scope => Sys2Proof.Machine.execFence g scope s
  | .fopen g fi bolt ix b step => Sys2Proof.Machine.execFopen g fi bolt ix b step s
  | .fnext g d pb fi sgn sx sl => Sys2Proof.Machine.execFnext g d pb fi sgn sx sl s
  | .fpeek g d pb fi sgn sx sl => Sys2Proof.Machine.execFpeek g d pb fi sgn sx sl s
  | .fend g pd fi => Sys2Proof.Machine.execFend g pd fi s
  | .fclose g fi => Sys2Proof.Machine.execFclose g fi s
  | .atom g op d bolt ix b t sx sl scope => Sys2Proof.Machine.execAtom g op d bolt ix b t sx sl scope s
  | .acas g d bolt ix b c t sx sl scope => Sys2Proof.Machine.execAcas g d bolt ix b c t sx sl scope s
  | .ared g op bolt ix b t sl scope => Sys2Proof.Machine.execAred g op bolt ix b t sl scope s
  | .afadd g d bolt ix b t sx sl scope => Sys2Proof.Machine.execAfadd g d bolt ix b t sx sl scope s
  | .txopen g target => Sys2Proof.Machine.execTxopen g target s
  | .txseal g => Sys2Proof.Machine.execTxseal g s
  | .txretry g => Sys2Proof.Machine.execTxretry g s
  | .txelse g target => Sys2Proof.Machine.execTxelse g target s
  | .txdrop g code => Sys2Proof.Machine.execTxdrop g code s
  | .txstat g d => Sys2Proof.Machine.execTxstat g d s
  | .binit g bolt ix b => Sys2Proof.Machine.execBinit g bolt ix b s
  | .bwait g bolt ix b => Sys2Proof.Machine.execBwait g bolt ix b s
  | .bexp g bolt ix b => Sys2Proof.Machine.execBexp g bolt ix b s
  | .barv g d bolt ix b thr => Sys2Proof.Machine.execBarv g d bolt ix b thr s
  | .hpush g nb pd h b nw => Sys2Proof.Machine.execHpush g nb pd h b nw s
  | .hpop g d h nw ka at_ => Sys2Proof.Machine.execHpop g d h nw ka at_ s
  | .htry g d pb h nw ka at_ => Sys2Proof.Machine.execHtry g d pb h nw ka at_ s
  | .hpeek g d pb h k nw at_ => Sys2Proof.Machine.execHpeek g d pb h k nw at_ s
  | .hallow g h b => Sys2Proof.Machine.execHallow g h b s
  | .hreset g h => Sys2Proof.Machine.execHreset g h s
  | .hresetDef g h b => Sys2Proof.Machine.execHresetDef g h b s
  | .cpy g sh dh bsp src dst a b c n sl => Sys2Proof.Machine.execCpy g sh dh bsp src dst a b c n sl s
  | .cpym g d sh bsp src dst a b c n scope sl => Sys2Proof.Machine.execCpym g d sh bsp src dst a b c n scope sl s
  | .cpyo g any slot bsp a c sl => Sys2Proof.Machine.execCpyo g any slot bsp a c sl s
  | .gath g sh dh bsp src dst bolt a b c n sl => Sys2Proof.Machine.execGath g sh dh bsp src dst bolt a b c n sl s
  | .scat g sh bsp src dst bolt a b c n sl => Sys2Proof.Machine.execScat g sh bsp src dst bolt a b c n sl s
  | .bin g h bolt a b c sl => Sys2Proof.Machine.execBin g h bolt a b c sl s
  | .kset g k a n => Sys2Proof.Machine.execKset g k a n s
  | .ksign g k => Sys2Proof.Machine.execKsign g k s
  | .tldb g bank pat a sg lk d c sl => Sys2Proof.Machine.execTldb g bank pat a sg lk d c sl s
  | .tmma g acc tile bank sh kp int pat h a n sg lk d c sl => Sys2Proof.Machine.execTmma g acc tile bank sh kp int pat h a n sg lk d c sl s
  | .tmmag g acc tile bank sh kp int pat h bolt a b n sg lk d c sl => Sys2Proof.Machine.execTmmag g acc tile bank sh kp int pat h bolt a b n sg lk d c sl s
  | .tzero g tile sg lk d c sl => Sys2Proof.Machine.execTzero g tile sg lk d c sl s
  | .tsta g tile sh pat h a b n sg lk d c sl => Sys2Proof.Machine.execTsta g tile sh pat h a b n sg lk d c sl s
  | .tstaSt g tile pat a sg lk d c sl => Sys2Proof.Machine.execTstaSt g tile pat a sg lk d c sl s
  | .rtprb g d rt sh h pat a b bolt n sl => Sys2Proof.Machine.execRtprb g d rt sh h pat a b bolt n sl s
  | .rtins g pd rt a sl => Sys2Proof.Machine.execRtins g pd rt a sl s
  | .rtdel g pd rt a sl => Sys2Proof.Machine.execRtdel g pd rt a sl s
  | .rtrhs g rt a sl => Sys2Proof.Machine.execRtrhs g rt a sl s
  | .rtsync g => Sys2Proof.Machine.execRtsync g s
  | .movs g d num idx x a => Sys2Proof.Machine.execMovs g d num idx x a s
  | .movsw g num idx x a b => Sys2Proof.Machine.execMovsw g num idx x a b s
  | .trap g code => Sys2Proof.Machine.execTrap g code s
  | .tret g => Sys2Proof.Machine.execTret g s
  | .slack g d => Sys2Proof.Machine.execSlack g d s
  | .slackCls g sl => Sys2Proof.Machine.execSlackCls g sl s
  | .slackSet g a => Sys2Proof.Machine.execSlackSet g a s
  | .halt g => Sys2Proof.Machine.execHalt g s
  | .patdef g n mv a bolt => Sys2Proof.Machine.execPatdef g n mv a bolt s
  | .patrd g d n w => Sys2Proof.Machine.execPatrd g d n w s
  | .bldef g n mv a => Sys2Proof.Machine.execBldef g n mv a s
  | .blrd g d n w => Sys2Proof.Machine.execBlrd g d n w s
  | .hfset g hf a b => Sys2Proof.Machine.execHfset g hf a b s
  | .jtdef g jt ovl a b => Sys2Proof.Machine.execJtdef g jt ovl a b s
  | .rtdef g rt bolt a => Sys2Proof.Machine.execRtdef g rt bolt a s
  | .rtdefRh g rt bolt a => Sys2Proof.Machine.execRtdefRh g rt bolt a s
  | .rtdefOff g rt => Sys2Proof.Machine.execRtdefOff g rt s
  | .ctrrd g d n x a => Sys2Proof.Machine.execCtrrd g d n x a s
  | .ctrset g n x a b => Sys2Proof.Machine.execCtrset g n x a b s
  | .smpl g off tag => Sys2Proof.Machine.execSmpl g off tag s
  | .brkpt g code => Sys2Proof.Machine.execBrkpt g code s
  | .hint g => Sys2Proof.Machine.execHint g s
  | .waitpred g => Sys2Proof.Machine.execWaitpred g s
  | .resultWriteback id => Sys2Proof.Machine.execResultWriteback id s
  | .atomicRequest id => Sys2Proof.Machine.execAtomicRequest id s
  | .atomicReply id => Sys2Proof.Machine.execAtomicReply id s
  | .readRequest id => Sys2Proof.Machine.execReadRequest id s
  | .acknowledgementArrival id => Sys2Proof.Machine.execAcknowledgementArrival id s
  | .needleArrival id => Sys2Proof.Machine.execNeedleArrival id s
  | .spillReturn core => Sys2Proof.Machine.execSpillReturn core s
  | .arrivalWaveFormation core spool key => Sys2Proof.Machine.execArrivalWaveFormation core spool key s
  | .spoolTimeout core spool key => Sys2Proof.Machine.execSpoolTimeout core spool key s
  | .launchEntryFetch die key => Sys2Proof.Machine.execLaunchEntryFetch die key s
  | .spawnTaskSend core => Sys2Proof.Machine.execSpawnTaskSend core s
  | .taskArrival id => Sys2Proof.Machine.execTaskArrival id s
  | .taskRefusal id => Sys2Proof.Machine.execTaskRefusal id s
  | .taskResendTimeout core => Sys2Proof.Machine.execTaskResendTimeout core s
  | .spawnIncrement id => Sys2Proof.Machine.execSpawnIncrement id s
  | .phaseArrival id => Sys2Proof.Machine.execPhaseArrival id s
  | .drainRequest core id => Sys2Proof.Machine.execDrainRequest core id s
  | .drainAcknowledgement core id => Sys2Proof.Machine.execDrainAcknowledgement core id s
  | .changeNotice id => Sys2Proof.Machine.execChangeNotice id s
  | .overlayLoadCompletion id => Sys2Proof.Machine.execOverlayLoadCompletion id s
  | .pageFaultService id => Sys2Proof.Machine.execPageFaultService id s
  | .faultRecordResolve die slot => Sys2Proof.Machine.execFaultRecordResolve die slot s
  | .faultRecordRefuse die slot => Sys2Proof.Machine.execFaultRecordRefuse die slot s
  | .errorRecordResolve slot => Sys2Proof.Machine.execErrorRecordResolve slot s
  | .errorRecordRefuse slot => Sys2Proof.Machine.execErrorRecordRefuse slot s
  | .engineFire id => Sys2Proof.Machine.execEngineFire id s
  | .binPrepare id => Sys2Proof.Machine.execBinPrepare id s
  | .engineRetire id => Sys2Proof.Machine.execEngineRetire id s
  | .engineFailure id addr => Sys2Proof.Machine.execEngineFailure id addr s
  | .stitchParityReload id row => Sys2Proof.Machine.execStitchParityReload id row s
  | .retrievalOperationApply id => Sys2Proof.Machine.execRetrievalOperationApply id s
  | .quantumExpiry core slot => Sys2Proof.Machine.execQuantumExpiry core slot s
  | .bobbinPreempt core slot => Sys2Proof.Machine.execBobbinPreempt core slot s
  | .contextSlotRelease core slot => Sys2Proof.Machine.execContextSlotRelease core slot s
  | .contextReadmission core ctx => Sys2Proof.Machine.execContextReadmission core ctx s
  | .queueDoorbell q tail => Sys2Proof.Machine.execQueueDoorbell q tail s
  | .queueEnable q val => Sys2Proof.Machine.execQueueEnable q val s
  | .queueDisable q val => Sys2Proof.Machine.execQueueDisable q val s
  | .dispatch => Sys2Proof.Machine.execDispatch s
  | .waveAdmission core => Sys2Proof.Machine.execWaveAdmission core s
  | .stagingCompletion core key region => Sys2Proof.Machine.execStagingCompletion core key region s
  | .launchCompletion key => Sys2Proof.Machine.execLaunchCompletion key s
  | .slackTick => Sys2Proof.Machine.execSlackTick s
  | .slackOverdue id => Sys2Proof.Machine.execSlackOverdue id s
  | .packetAdvance id => Sys2Proof.Machine.execPacketAdvance id s
  | .routerPowerGate core => Sys2Proof.Machine.execRouterPowerGate core s
  | .routerWake core => Sys2Proof.Machine.execRouterWake core s
  | .pageMoveStart ctx va newHome => Sys2Proof.Machine.execPageMoveStart ctx va newHome s
  | .pageMoveTransfer id => Sys2Proof.Machine.execPageMoveTransfer id s
  | .shootdown id agent => Sys2Proof.Machine.execShootdown id agent s
  | .shootdownAcknowledgement id => Sys2Proof.Machine.execShootdownAcknowledgement id s
  | .graceWindowEnd id => Sys2Proof.Machine.execGraceWindowEnd id s
  | .rehome id => Sys2Proof.Machine.execRehome id s
  | .channelRetirement core => Sys2Proof.Machine.execChannelRetirement core s
  | .pageMakeWritable ctx va => Sys2Proof.Machine.execPageMakeWritable ctx va s
  | .pageMakeReadOnly ctx va => Sys2Proof.Machine.execPageMakeReadOnly ctx va s
  | .portLoss die chip => Sys2Proof.Machine.execPortLoss die chip s
  | .sampleRecord core slot id => Sys2Proof.Machine.execSampleRecord core slot id s
  | .traceEnable core slot val => Sys2Proof.Machine.execTraceEnable core slot val s
  | .traceDisable core slot val => Sys2Proof.Machine.execTraceDisable core slot val s
  | .resume core slot => Sys2Proof.Machine.execResume core slot s
  | .deliver core slot => Sys2Proof.Machine.execDeliver core slot s
  | .debugStep core slot => Sys2Proof.Machine.execDebugStep core slot s
  | .stopall core slot => Sys2Proof.Machine.execStopall core slot s
  | .counterWrite core slot n val => Sys2Proof.Machine.execCounterWrite core slot n val s
  | .quantumWrite core val => Sys2Proof.Machine.execQuantumWrite core val s
  | .hostBar2Write off data => Sys2Proof.Machine.execHostBar2Write off data s
  | .dutySplitWrite val => Sys2Proof.Machine.execDutySplitWrite val s
  | .dutyGo => Sys2Proof.Machine.execDutyGo s
  | .derrClear => Sys2Proof.Machine.execDerrClear s
  | .goTimeout => Sys2Proof.Machine.execGoTimeout s
  | .pcapWrite val => Sys2Proof.Machine.execPcapWrite val s
  | .registerWrite off val => Sys2Proof.Machine.execRegisterWrite off val s
  | .powerOn failStage code links images => Sys2Proof.Machine.execPowerOn failStage code links images s
  | .powerWindow watts => Sys2Proof.Machine.execPowerWindow watts s
  | .thermalLimit => Sys2Proof.Machine.execThermalLimit s
  | .thermalShutdown => Sys2Proof.Machine.execThermalShutdown s
  | .ucieLinkFailure link modules => Sys2Proof.Machine.execUcieLinkFailure link modules s
  | .keySlotWrite ctx slot qx qy blob => Sys2Proof.Machine.execKeySlotWrite ctx slot qx qy blob s
  | .coreCycle => Sys2Proof.Machine.execCoreCycle s
  | .ultraEthernetPortUp port speed => Sys2Proof.Machine.execUltraEthernetPortUp port speed s
  | .portEnable port val => Sys2Proof.Machine.execPortEnable port val s
  | .thermalLimitClear => Sys2Proof.Machine.execThermalLimitClear s
  | .measurementReport nonce => Sys2Proof.Machine.execMeasurementReport nonce s

end Sys2Proof.Machine
end

