-- ==== Sys2Proof/Machine/Perform.lean ====
section
/-! DEFINITION. Issue: the encoding faults in the order of R86, the lanes that hold or consume poison, and the instruction that is
then carried out. -/

namespace Sys2Proof.Machine

/-! ### Faults of ranks 1 and 2 that a transfer's target shows (R75, R78) -/

/-- The value that a source field of the words names, where the register can be read. -/
def Hart.rawValue (h : Hart) (allot : Nat) (r : Raw) (f : BitVec 6) : Option DWord :=
  match r.src f with
  | .lit v => some (h.src (.lit v))
  | .reg n => if n.toNat < allot && !h.poison.getLsbD n.toNat then some (h.reg n.toNat) else none

/-- The fault that a lane's transfer raises, for words that break a rule of a lower rank too (R86). -/
def State.transferFault (s : State) (r : Ref) (h : Hart) (words : List (BitVec 32)) : Option Stop :=
  let at_ := fun (pc : Word) => if s.target r.core (s.ctxOf r) pc == .bad then some ({ cause := .badClause } : Stop) else none
  match readRaw words with
  | none => none
  | some (len, w, _) =>
    match w.op.toNat with
    | 0x02 | 0x04 | 0x0A =>
      if len = 1 then at_ (mkPc (ovlOf h.pc) w.imm) else if len = 3 then at_ ((w.lit.getD 0).setWidth 32) else none
    | 0xE3 => if h.tstate.priv then at_ h.trap.eres else none
    | 0x06 => (h.rawValue (s.allotOf h) w w.a).bind fun v => at_ (v.setWidth 32)
    | 0x03 | 0x05 =>
      match h.rawValue (s.allotOf h) w w.a with
      | none => if s.jumpTableAt r h w.b then none else some { cause := .controlIntegrity }
      | some v =>
        match s.indirectTo r h w.b v.toNat with
        | .stop e => some e
        | _ => none
    | _ => none

/-! ### Faults that rank above the consumption of poison -/

/-- A lane that the instruction stops with a fault of ranks 2 to 6 of R86 before it reads a register. -/
def State.outranks (s : State) (r : Ref) (h : Hart) (i : Instr) : Bool :=
  let system := fun (num idx : BitVec 8) (x : Bool) =>
    match sysReg? h.isBobbin num.toNat with
    | none => true
    | some q => (!x && !q.legal idx.toNat) || (!q.user && !h.tstate.priv)
  match i with
  | .movs _ _ num idx x _ => system num idx x
  | .movsw _ num idx x _ _ => system num idx x
  | .ctrrd _ _ n x _ => !x && (ctrReadFault n.toNat h.tstate.priv).isSome
  | .ctrset _ n x _ _ => !x && ((ctrWord? n.toNat).isNone || s.ctrSetDenied n.toNat h.tstate.priv)
  | .brx _ jt _ => !s.jumpTableAt r h jt
  | .callx _ _ jt _ => !s.jumpTableAt r h jt
  | _ => false

/-! ### Issue -/

/-- The guard that words carry. -/
def guardOf (words : List (BitVec 32)) : Guard := ((readRaw words).map fun x => x.2.1.guard).getD ⟨7, false⟩

/-- The encoding faults that the words at a position show, REP's with those of its body (R86, R230). -/
def shownFaults (bobbin : Bool) (allot : Nat) (c : Clause) (pos : Nat) (place body : Pos) (instr bodyInstr : Except DecodeError Instr) :
    List Cause :=
  placeFaults place.op (pos + 1 == c.count) (c.safe pos) ++ (encodingFault bobbin allot place.op false instr).toList
    ++ (if place.op == 0x0B then
        if c.count ≤ pos + 1 then [.badClause]
        else
          placeFaults body.op (pos + 2 == c.count) (c.safe (pos + 1))
            ++ (match instr with
              | .ok (.rep _ _ _ _ sd sa sb sc) => repFaults bobbin allot body.op bodyInstr sd sa sb sc
              | _ => (encodingFault bobbin allot body.op true bodyInstr).toList)
      else [])

/-- Issue a member's instruction: the encoding faults in the order of R86, then the lanes that hold or consume poison, then
the instruction itself. -/
def State.issue (s : State) (core port : Nat) (p : Pick) : Next :=
  match s.clauseOf core p.ctx p.hart with
  | none => .stopped s
  | some (n, c) =>
    let h := p.hart
    let bobbin := p.bobbin
    let allot := s.allotOf h
    let place := c.places.getD h.pos ⟨offOf h.pc, p.op, 4⟩
    let words := s.wordsAt core n place.off
    let instr := s.fetch core n place.off
    let bodyPlace := c.places.getD (h.pos + 1) ⟨place.off + place.bytes, 0, 4⟩
    let bodyWords := s.wordsAt core n bodyPlace.off
    let isRep := place.op == 0x0B
    let last := if isRep then bodyPlace else place
    let pcAt := fun (off : Nat) => mkPc (ovlOf h.clause) (BitVec.ofNat 16 off)
    let cur : Issue :=
      { core, member := if bobbin then p.member - 64 else p.member, bobbin, lanes := p.lanes
        nextPc := pcAt (last.off + last.bytes), nextPos := h.pos + 1 + isRep.toNat, count := c.count
        flag := if longLatency place.op then c.flag h.pos else none
        safe := c.safe h.pos, entry := (s.safePoint core p.ctx h.pc h.clause h.pos).2, step := h.rep.isSome
        body := if isRep then (match s.fetch core n bodyPlace.off with | .ok b => some b | .error _ => none) else none }
    let s := { s with cur }.countIssue core port p
    let s := s.mapLanes fun h => { h with entered := true }
    let poisoned := fun (g : Guard) (i : Instr) (s : State) =>
      s.divert (fun r h => h.takes g && h.poison &&& readMask i bobbin != 0 && !s.outranks r h i) fun r s => s.raiseCause r .eccUncorrected
    if h.rep.isSome then
      match instr with
      | .error _ => .stopped (s.raiseAll .illegalModifier)
      | .ok rep =>
        match stepBody bobbin allot bodyWords rep h.repstep.toNat with
        | .error e => .stopped (s.raiseAll e)
        | .ok body => .run body (poisoned (guardOf bodyWords) body s)
    else
      match worst (shownFaults bobbin allot c h.pos place bodyPlace instr (s.fetch core n bodyPlace.off)), instr with
      | some e, _ =>
        if e.rank ≤ 1 then .stopped (s.raiseAll e)
        else
          let g := guardOf words
          let higher := fun (r : Ref) (h : Hart) =>
            ((if h.takes g then s.transferFault r h words else none).toList
              ++ (if isRep && h.takes g && h.takes (guardOf bodyWords) then s.transferFault r h bodyWords else none).toList).find? fun x =>
                decide (x.cause.rank < e.rank)
          let s' := s.divert (fun r h => (higher r h).isSome) fun r s => match (s.hart? r).bind (higher r) with
            | some x => s.raise r x
            | none => s
          .stopped (s'.raiseAll e)
      | none, .error _ => .stopped (s.raiseAll .illegalModifier)
      | none, .ok i =>
        let g : Guard := ((i.raw?).map Raw.guard).getD ⟨7, false⟩
        let s := poisoned g i s
        let s := match cur.flag with
          | some f => s.divert (fun _ h => h.takes g && h.doneCount f == 15) fun r s => s.hold r (.doneCount f)
          | none => s
        .run i s

/-! ### Where the machine fetches -/

/-- Hoop instructions that go before this cycle's firings (R366). -/
def State.hoopIssuable (s : State) : List (Nat × Nat × Pick × List Pick) :=
  s.cores.filterMap fun (c, _) => (s.hoopPick c).map fun (port, w, e) => (c, port, w, e)

/-- A core whose ports have not all chosen, with its next choice. -/
def State.issuable (s : State) : List (Nat × Nat × Pick × List Pick) :=
  s.cores.filterMap fun (c, _) => (s.nextPick c).map fun (port, w, e) => (c, port, w, e)

end Sys2Proof.Machine
end

