-- ==== Sys2Proof/Machine/Due.lean ====
section
/-! DEFINITION. What the machine may do next: the events that are due, and the issues of the cores (R27, R133, R433). -/

namespace Sys2Proof.Machine

/-- An arrived packet that its home may take up. -/
def State.takeUpDue (s : State) (p : Packet) : List Instr :=
  if p.place != .arrived then []
  else
    match p.body with
    | .needle _ | .task _ _ | .refusal _ _ => s.packetDue p
    | .atomic _ => if s.requestReady p then [.atomicRequest p.id] else []
    | .read _ => if s.requestReady p then [.readRequest p.id] else []
    | .atomicReply _ _ _ | .failure _ _ => [.atomicReply p.id]
    | .result _ => [.resultWriteback p.id]
    | .ack _ _ => if s.ackReady p then [.acknowledgementArrival p.id] else []
    | .increment _ _ _ _ => [.spawnIncrement p.id]
    | .phaseArrive _ _ _ _ _ => if s.arrivalReady p then [.phaseArrival p.id] else []
    | .notice _ => [.changeNotice p.id]
    | .entryFetch die key | .entry die key => [.launchEntryFetch die key]
    | .drain _ | .drained _ | .bulk _ => []

/-- The events of a drain in progress: a core drains, or acknowledges. -/
def State.drainDue (s : State) (d : Drain) : List Instr :=
  d.cores.flatMap fun e =>
    if (s.drainPacket e.1 d.id e.2).isNone then []
    else if e.2 then [.drainAcknowledgement e.1 d.id] else if s.drainReady e.1 d then [.drainRequest e.1 d.id] else []

def State.loadDue (s : State) (core : Nat) : List Instr :=
  ((s.core core).loads.filter s.loadReady).map fun l => .overlayLoadCompletion l.id

/-- Samples whose results have all come. -/
def State.sampleDue (s : State) (core : Nat) : List Instr :=
  (s.core core).slots.flatMap fun e => (e.2.samples.filter fun x => x.waits == 0).map fun x => .sampleRecord core e.1 x.id

/-- The events of one core. -/
def State.coreDue (s : State) (core : Nat) : List Instr :=
  s.engineDue core ++ s.loadDue core ++ s.sampleDue core ++ s.arriveDue core ++ s.switchDue core

/-- Every event that is due. -/
def State.due (s : State) : List Instr :=
  s.packets.flatMap s.takeUpDue ++ s.drains.flatMap s.drainDue ++ s.cores.flatMap (fun e => s.coreDue e.1)
    ++ s.fabricDue ++ s.launchDue ++ s.serviceDue ++ s.moveDue ++ s.bringupDue

/-- What a step may do: an event, or an issue at a port. -/
inductive Action where
  | event (i : Instr)
  | issue (core port : Nat) (w : Pick) (e : List Pick)
deriving DecidableEq, Repr

/-- The issues that the ports of the cores make next; with none left in this cycle, the cycle ends. -/
def State.issues (s : State) : List Action :=
  match s.issuable with
  | [] => [.event .coreCycle]
  | l => l.map fun e => .issue e.1 e.2.1 e.2.2.1 e.2.2.2

/-- What goes before the issues of a cycle: its hoop instructions, then its firings (R306, R366, R376). -/
def State.early (s : State) : List Action :=
  match s.hoopIssuable with
  | [] => s.firings.map Action.event
  | l => l.map fun e => .issue e.1 e.2.1 e.2.2.1 e.2.2.2

/-- The service of a request is an access of its thread. -/
def isService : Instr → Bool
  | .atomicRequest _ | .readRequest _ => true
  | _ => false

/-- All that may happen next. The tick of the slacks and what follows it come before anything else (R443, R444), and a cycle's
registrations before its accesses, those of requests at their homes among them (R306). -/
def State.actions (s : State) : List Action :=
  match s.slackDue with
  | [] =>
    let due := s.due
    (match s.early with
    | [] => due.map Action.event ++ s.issues
    | l => (due.filter fun i => !isService i).map Action.event ++ l)
  | l => l.map Action.event

/-- The order of events and issues is free (R133): the choice is made only where there is more than one. -/
def State.choose (s : State) (l : List Action) : Option (Action × State) :=
  match l with
  | [] => none
  | [a] => some (a, s)
  | a :: rest => some ((a :: rest).getD (Config.choice s.free % (rest.length + 1)) a, s.spend)

/-- What a state without inputs does next: its harts make their checks (R68, R432), and one action is chosen. -/
def State.nextAction (s : State) : Next :=
  let s := s.settleAll
  match s.choose s.actions with
  | none => .stopped s
  | some (.event i, s) => .run i { s with fireClosed := s.fireClosed || isService i }
  | some (.issue core port w e, s) => (s.chosen core port w e).issue core port w

end Sys2Proof.Machine
end

