-- ==== Sys2Proof/Machine/Step.lean ====
section
/-! DEFINITION. One step: an event of the outside world, or what the machine does next. -/

namespace Sys2Proof.Machine

/-- An instruction word is no event. -/
def isWord (i : Instr) : Bool := i.raw?.isSome

/-- The inputs come first; a machine that has stopped does nothing more by itself, and heeds no input but POWER_ON (R539). -/
def step (s : State) : Host.Outcome State Fault Refusal :=
  match s.inputs with
  | i :: rest => if isWord i then .fault .notAnEvent else if s.heeds i then exec i { s with inputs := rest } else .next { s with inputs := rest }
  | [] =>
    if s.power.stopped then .next s
    else
      match s.nextAction with
      | .stopped s => .next s
      | .run i s => exec i s

/-! ### An instruction placed where the machine fetches next (log 8) -/

/-- An overlay image whose one clause, at 0x40, holds the words: the clause map marks 0x40, the instruction at 0x44 is a safe
point. REP takes the instruction that follows it as its body: a MOV of x0 or w0 to itself stands there. -/
def placedImage (nbits w : Nat) : List Byte :=
  let words := wordsOfNat 5 (w % 2 ^ nbits)
  let first := words.headD 0
  let isRep := field first 2 8 == 0x0B
  let body := if isRep then encode (.mov { pred := 7, neg := false } 0 (.reg 0) none) else []
  let code := words.take (lenWords (first.extractLsb' 0 2)) ++ body ++ List.replicate 4 0#32
  let header := 4 * (1 + isRep.toNat) + (15 * 2 ^ 17 + 15 * 2 ^ 21 + 2 ^ 25)
  let at_ := fun (n v : Nat) => bytesOfNat n v
  -- 0x08 the end of the code, 0x0C the clause map, 0x10 and 0x14 the safe-point table and its length
  at_ 8 0 ++ at_ 4 0x80 ++ at_ 4 0x80 ++ at_ 4 0x90 ++ at_ 4 1 ++ at_ 40 0
    ++ at_ 4 header ++ (code.take 9).flatMap (fun x => at_ 4 x.toNat) ++ at_ (4 * (15 - (code.take 9).length)) 0
    ++ at_ 2 0 ++ at_ 1 1 ++ at_ 13 0 ++ at_ 2 0x44 ++ at_ 14 0

/-- The launch of the placed thread: 64 registers, groups of 64. -/
def placedLaunch : Launch :=
  { ctx := 0, lid := 1, predid := 0, ctl := 0x1E, entry := 0x40, bentry := 0, ovt := 0, levels := [1], regions := [], ctl2 := 0
    cspb := 0, dspb := 0, init := 0, slacks := List.replicate 8 0xFFF, ctxrec := 0, cpla := 0, cplv := 0, record := 0, places := [1]
    pbase := 0, groups := 1, threads := 1, live := 1, cores := [1] }

/-- A hart at the placed instruction, in a clause that it has entered. -/
def placedHart (tid : Nat) (regs : Regs) (status : Status) : Hart :=
  { tid, regs, pc := 0x44, clause := 0x40, entered := true, launch := 0, status, tstate := { priv := true } }

/-- Core 1 with one thread of context 0, or with its bobbin, at the placed instruction. -/
def placedCore (bobbin : Bool) (net tid : Nat) : Core :=
  let slot : Slot :=
    { ctx := 0, bobbin := placedHart tid .zeroW (if bobbin then .running else .halted), slackTab := Vector.replicate 8 0xFFF
      qcount := 24000 }
  let wave : Wave := { ctx := 0, launch := 0, arrival := false, lanes := [(0, placedHart (tid + 1) .zeroX .running)], frags := [(0, {})] }
  { slots := [(0, slot)], waves := if bobbin then [] else [(0, wave)], imem := [(0, ⟨0, 0, 0xA0, 0⟩)], resident := [0], routerSince := net }

/-- The machine with the instruction where its next step fetches: bring-up has ended, and one thread of a launch (the bobbin,
for DQPUT, which only a bobbin runs) stands at it on core 1; nothing else is in progress. -/
def State.withFetchWord (s : State) (nbits w : Nat) : State :=
  let bobbin := field (BitVec.ofNat 32 (w % 2 ^ nbits)) 2 8 == 0x0E
  { s with
    inputs := []
    bar := { s.bar with stage := 7, fail := false, waitgo := false, link := true, go := true }
    power := { s.power with stopped := false }
    ticks := s.net / tickUnits
    mem := Memory.setBytes s.mem (imemKey 1 0 0) (placedImage nbits w)
    cores := [(1, placedCore bobbin s.net s.next)]
    next := s.next + 2
    hmaps := [(0, 0)], ptabs := [(0, 0)], btabs := [(0, 0)]
    launches := [(0, placedLaunch)]
    queues := [], stagings := [], records := [], phases := [], drains := [], packets := [], ranges := [], moves := []
    shootdowns := [], services := [] }

end Sys2Proof.Machine
end

