-- ==== Sys2Proof/Safety.lean ====
section
/-! DEFINITION. What counts as a safe run: the machine goes on, and the plain facts about a state that its steps keep. -/

namespace Sys2Proof.Machine

/-- An outcome with a next state. -/
def goesOn (o : Host.Outcome State Fault Refusal) : Prop := ∃ t, o = .next t

/-- The next state of an outcome meets a predicate. -/
def nextHas (P : State → Prop) (o : Host.Outcome State Fault Refusal) : Prop := ∀ t, o = .next t → P t

/-- No instruction word stands among the inputs: the outside world gives events only. -/
def State.inputsOk (s : State) : Prop := s.inputs.all (fun i => !isWord i) = true

/-- The memory is in its canonical form. -/
def State.memOk (s : State) : Prop := Memory.wf s.mem = true

/-- A run of n steps that meets no fault. -/
def runsOn : Nat → State → Prop
  | 0, _ => True
  | n + 1, s => ∃ t, step s = .next t ∧ runsOn n t

/-! ### The words that statements about instructions use -/

/-- The issue has one lane: the thread or bobbin r, running, in state h. -/
def State.oneLane (s : State) (r : Ref) (h : Hart) : Prop :=
  s.hart? r = some h ∧ h.status = .running ∧ ∃ l, s.lanes = [(l, h)] ∧ s.curRef l h = r

/-- Is the place of a thread or bobbin one of the issue's lanes? -/
def State.inIssue (s : State) (r : Ref) : Bool :=
  r.core == s.cur.core && (match r.agent with
    | .wave w l => !s.cur.bobbin && w == s.cur.member && s.cur.lanes.contains l
    | .bobbin k => s.cur.bobbin && k == s.cur.member && s.cur.lanes.contains 0)

/-- The lanes of the issue change by a function that does P to each lane that takes part and only moves the others past the
instruction; nothing else changes. -/
def lanesDo (i : Instr) (s : State) (g : Guard) (P : Hart → Hart → Prop) : Prop :=
  ∃ f : Hart → Hart, exec i s = .next (s.mapLanes f) ∧ ∀ h, if h.takes g then P h (f h) else f h = h.advance s.cur

/-- A thread goes past its instruction, with new values in the listed registers only; predicates and FPSTAT as said. -/
def Hart.changes (h h' : Hart) (c : Issue) (l : List Nat) (preds : BitVec 7) (fpstat : BitVec 5) : Prop :=
  h' = ({ h with regs := h'.regs, poison := h'.poison, preds, fpstat } : Hart).advance c ∧ h'.isBobbin = h.isBobbin
    ∧ (∀ n, n ∉ l → h'.reg n = h.reg n ∧ h'.poison.getLsbD n = h.poison.getLsbD n) ∧ ∀ n ∈ l, h'.poison.getLsbD n = false

/-- Registers that a value of n thread registers takes, and whether they lie in the file (R58, R59). -/
def Hart.run (h : Hart) (d : Reg) (n : Nat) : List Nat := (List.range (if h.isBobbin then 1 else n)).map (d.toNat + ·)
def Hart.fits (h : Hart) (d : Reg) (n : Nat) : Prop := d.toNat + (if h.isBobbin then 1 else n) ≤ if h.isBobbin then 32 else 64

/-- Thread registers of a type: a pair for 64 bits (R99). -/
def fmtRuns (t : Fmt) : Nat := if t.bits = 64 then 2 else 1

/-- The register or pair at d holds an integer of a type, extended to the register (R143). -/
def Hart.holds (h : Hart) (d : Nat) (t : Fmt) (v : Int) : Prop :=
  if h.isBobbin then h.reg d = BitVec.ofInt 64 v
  else if t.bits = 64 then h.reg d = ((BitVec.ofInt 64 v).setWidth 32).setWidth 64 ∧ h.reg (d + 1) = BitVec.ofInt 64 v >>> 32
  else h.reg d = (BitVec.ofInt 32 v).setWidth 64

/-- A value wrapped to a type, or saturated to it (R98, R100). -/
def wrapTo (t : Fmt) (v : Int) : Int := if t.signed then v.bmod (2 ^ t.bits) else v % 2 ^ t.bits
def delivered (t : Fmt) (sat : Bool) (v : Int) : Int :=
  if sat then max (if t.signed then -2 ^ (t.bits - 1) else 0) (min (if t.signed then 2 ^ (t.bits - 1) - 1 else 2 ^ t.bits - 1) v) else wrapTo t v

end Sys2Proof.Machine
end

