-- ==== Sys2Proof/Certificates/Slice0/Obligations.lean ====
section
/-! DEFINITION. The statements for the provers. -/

open Sys2Proof Sys2Proof.Machine

/-! ### Encoding, decoding, steps -/

/-- Every well-formed instruction is read back from its words, whatever follows them (R51 to R57, R212). -/
def Obligations.DecodeUndoesEncode : Prop :=
  ∀ (i : Instr) (rest : List (BitVec 32)), isWord i = true → i.wf = true → decode (encode i ++ rest) = .ok (i, rest)

/-- Words of the spec's worked encodings are read as the instructions they stand for: MULHI x6, x5, #349497; MAD x5, x6,
#-12289, x5; BFLY x6, x5, #32 (chapter 19); and the FFMA of chapter 17. -/
def Obligations.DecodeReadsSpecWords : Prop :=
  decode [0x7FC5189E, 0x00055539, 0] = .ok (.mulhi ⟨7, false⟩ 6 (.reg 5) (.lit 349497) none, [])
    ∧ decode [0x7FC614A7, 0x00000005, 0, 0xFFFFCFFF, 0xFFFFFFFF]
        = .ok (.mad ⟨7, false⟩ 5 (.reg 6) (.lit (BitVec.ofInt 64 (-12289))) (.reg 5) none false, [])
    ∧ decode [0x700519AD, 0x00200000, 0] = .ok (.bfly ⟨7, false⟩ 6 (.reg 5) 32 none false, [])
    ∧ decode [0x5658550D, 0x00000015, 0] = .ok (.ffma ⟨5, false⟩ 21 (.reg 24) (.reg 25) (.reg 21) none .rne false, [])

/-- An input of the outside world is carried out before anything else; an instruction word among the inputs is a fault, and after a
thermal shutdown none but POWER_ON has an effect (R539). -/
def inputsFirst : Prop :=
  ∀ (s : State) (i : Instr) (rest : List Instr), s.inputs = i :: rest →
    (isWord i = true → step s = .fault .notAnEvent)
    ∧ (isWord i = false → s.power.stopped = true → (∀ a b c d, i ≠ .powerOn a b c d) → step s = .next { s with inputs := rest })
    ∧ (isWord i = false → (s.power.stopped = false ∨ ∃ a b c d, i = .powerOn a b c d) → step s = exec i { s with inputs := rest })

/-- The state in which the instruction of an issue is carried out: `cur` says which lanes issue it and where they go next,
the issue has been counted, and its lanes have entered their clause. -/
def issued (s : State) (core port : Nat) (p : Pick) (c : Clause) (q : Pos) : State :=
  (({ s with
      cur := {
        core, member := if p.bobbin then p.member - 64 else p.member, bobbin := p.bobbin, lanes := p.lanes
        nextPc := mkPc (ovlOf p.hart.clause) (BitVec.ofNat 16 (q.off + q.bytes)), nextPos := p.hart.pos + 1, count := c.count
        flag := if longLatency q.op then c.flag p.hart.pos else none
        safe := c.safe p.hart.pos, entry := (s.safePoint core p.ctx p.hart.pc p.hart.clause p.hart.pos).2 } } : State).countIssue
    core port p).mapLanes fun h => { h with entered := true }

/-- An input comes first. Where the words at the place of the chosen lanes decode to an instruction that no rank of R86 refuses, and no lane of the
issue holds a poisoned source or a full done count, the step carries out exactly that instruction, on the state as the issue
leaves it. -/
def Obligations.StepRunsDecodedInstruction : Prop := inputsFirst ∧
  ∀ (s s' : State) (core port n : Nat) (p : Pick) (e : List Pick) (c : Clause) (q : Pos) (i : Instr) (rest : List (BitVec 32)) (r : Raw),
    s.inputs = [] → s.power.stopped = false →
    s.settleAll.choose s.settleAll.actions = some (.issue core port p e, s') →
    (s'.chosen core port p e).clauseOf core p.ctx p.hart = some (n, c) →
    c.places[p.hart.pos]? = some q → q.op ≠ 0x0B → p.hart.rep = none →
    decode ((s'.chosen core port p e).wordsAt core n q.off) = .ok (i, rest) → i.raw? = some r → q.op = r.op.toNat →
    encodingFault p.bobbin ((s'.chosen core port p e).allotOf p.hart) q.op false (.ok i) = none →
    (lastOnly q.op = true → p.hart.pos + 1 = c.count) → (mustBeSafe q.op = true → c.safe p.hart.pos = true) →
    (∀ x ∈ (issued (s'.chosen core port p e) core port p c q).lanes, x.2.poison &&& readMask i p.bobbin = 0) →
    (∀ x ∈ (issued (s'.chosen core port p e) core port p c q).lanes, ∀ f, (longLatency q.op = true ∧ c.flag p.hart.pos = some f) →
      x.2.doneCount f ≠ 15) →
    step s = exec i (issued (s'.chosen core port p e) core port p c q)

/-! ### Reset and the form of memory -/

/-- Every step keeps the canonical form of the memory: addresses strictly rising, and no entry equal to what an unlisted
address reads as. -/
def Obligations.StepKeepsMemoryCanonical : Prop := ∀ s t : State, s.memOk → step s = .next t → t.memOk

/-- A byte that is written reads back, and every other byte reads as before; a byte that nothing has written reads 0 (the
model's choice, log 1). -/
def Obligations.MemoryReadsLastWrite : Prop :=
  (∀ a, Memory.get State.reset.mem a = 0)
    ∧ ∀ (m : List Host.Cell) (a x : Nat) (l : List Byte),
        Memory.get (Memory.setBytes m a l) x = if h : a ≤ x ∧ x < a + l.length then l[x - a]'(by omega) else Memory.get m x

/-- What a change of the lanes of an issue, or of one thread, leaves as it was: memory, every other thread, and all state
that no thread holds; the lanes themselves change as said. -/
def Obligations.LaneChangeFrame : Prop :=
  (∀ (s : State) (f : Hart → Hart) (t : State), t = s.mapLanes f →
      (∀ a, Memory.get t.mem a = Memory.get s.mem a) ∧ t = { s with cores := t.cores }
        ∧ (∀ r h, s.hart? r = some h → (f h).tid = h.tid →
            t.hart? r = some (if s.inIssue r then f h else h)))
    ∧ (∀ (s : State) (r q : Ref) (h h' k : Hart), s.hart? r = some h → h'.tid = h.tid →
        (s.setHart r h').hart? r = some h'
          ∧ ((q.core, q.agent) ≠ (r.core, r.agent) → s.hart? q = some k → (s.setHart r h').hart? q = some k)
          ∧ (∀ a, Memory.get (s.setHart r h').mem a = Memory.get s.mem a) ∧ s.setHart r h' = { s with cores := (s.setHart r h').cores })

/-! ### Block 0x20: integers, logic, predicates -/

/-- A lane's result of an integer type: the exact value, wrapped or saturated, in the destination and nowhere else. -/
def writesInt (c : Issue) (d : Reg) (t : Option Fmt) (dflt : Fmt) (sat : Bool) (v : Fmt → Hart → Int) (h h' : Hart) : Prop :=
  let T := h.ty t dflt
  h.fits d (fmtRuns T) → h.changes h' c (h.run d (fmtRuns T)) h.preds h.fpstat ∧ h'.holds d.toNat T (delivered T sat (v T h))

/-- MOV, ADD, SUB, MUL, MAD, MIN, MAX, ABS, MULHI and LEA deliver their exact value at the type (R147, R148, R151, R157). That LEA
in bobbin code extends the low 32 bits of wB is the model's choice (log 28). -/
def Obligations.IntegerValues : Prop :=
  ∀ (s : State) (g : Guard) (d : Reg) (a b c : Src) (t : Option Fmt) (sat : Bool) (sh : BitVec 3), tyIn t intFmts = true →
    lanesDo (.mov g d a t) s g (writesInt s.cur d t .i32 false fun T h => h.readInt a T)
    ∧ lanesDo (.add g d a b t sat) s g (writesInt s.cur d t .i32 sat fun T h => h.readInt a T + h.readInt b T)
    ∧ lanesDo (.sub g d a b t sat) s g (writesInt s.cur d t .i32 sat fun T h => h.readInt a T - h.readInt b T)
    ∧ lanesDo (.mul g d a b t sat) s g (writesInt s.cur d t .i32 sat fun T h => h.readInt a T * h.readInt b T)
    ∧ lanesDo (.mad g d a b c t sat) s g (writesInt s.cur d t .i32 sat fun T h => h.readInt a T * h.readInt b T + h.readInt c T)
    ∧ lanesDo (.min g d a b t) s g (writesInt s.cur d t .i32 false fun T h => min (h.readInt a T) (h.readInt b T))
    ∧ lanesDo (.max g d a b t) s g (writesInt s.cur d t .i32 false fun T h => max (h.readInt a T) (h.readInt b T))
    ∧ lanesDo (.abs g d a t sat) s g (writesInt s.cur d t .i32 sat fun T h => (h.readInt a T).natAbs)
    ∧ lanesDo (.mulhi g d a b t) s g (writesInt s.cur d t .n32 false fun T h => Int.fdiv (h.readInt a T * h.readInt b T) (2 ^ T.bits))
    ∧ lanesDo (.lea g d a b sh t) s g (writesInt s.cur d t .n32 false fun T h =>
        h.readInt a T + intOf 32 T.signed (h.src b).toNat * 2 ^ sh.toNat)

/-- MULW delivers the whole product at the type of double width; DIVN the quotient toward zero and its remainder, with all
ones and the dividend for a zero divisor; MOVI its immediate (R149, R151, R152). -/
def Obligations.WideProductsAndDivision : Prop :=
  ∀ (s : State) (g : Guard) (d : Reg) (a b : Src) (t : Option Fmt) (sat : Bool) (k : MoviKind) (imm : BitVec 16),
    (tyIn t narrowFmts = true → lanesDo (.mulw g d a b t) s g fun h h' =>
      let T := t.getD .i32
      h.fits d (fmtRuns (fmtDouble T)) → h.changes h' s.cur (h.run d (fmtRuns (fmtDouble T))) h.preds h.fpstat
        ∧ h'.holds d.toNat (fmtDouble T) (h.readInt a T * h.readInt b T))
    ∧ (tyIn t intFmts = true → lanesDo (.divn g d a b t sat) s g fun h h' =>
      let T := h.ty t .i32
      let x := h.readInt a T
      let y := h.readInt b T
      let e := if h.isBobbin then 1 else fmtRuns T
      d.toNat + 2 * e ≤ (if h.isBobbin then 32 else 64) →
        h.changes h' s.cur ((List.range (2 * e)).map (d.toNat + ·)) h.preds h.fpstat
        ∧ h'.holds d.toNat T (if y = 0 then wrapTo T (-1) else delivered T sat (x.tdiv y))
        ∧ h'.holds (d.toNat + e) T (if y = 0 then x else x.tmod y))
    ∧ lanesDo (.movi g d k imm) s g fun h h' =>
      h.fits d 1 → h.changes h' s.cur [d.toNat] h.preds h.fpstat
        ∧ h'.holds d.toNat .i32 (match k with
          | .sext => imm.toInt
          | .zext => imm.toNat
          | .hi => (imm ++ (h.reg d.toNat).extractLsb' 0 16 : BitVec 32).toInt)

/-- ADDC and SUBB carry through their predicate: sum or difference modulo 2^32, carry or borrow out (R150). -/
def Obligations.CarryChains : Prop :=
  ∀ (s : State) (g : Guard) (d : Reg) (a b : Src) (p : BitVec 3),
    (lanesDo (.addc g d a b p) s g fun h h' =>
      let x := (h.src a).toNat % 2 ^ 32
      let y := (h.src b).toNat % 2 ^ 32
      h.fits d 1 → h.changes h' s.cur [d.toNat] (h.setPred p (decide (2 ^ 32 ≤ x + y + (h.pred p).toNat))).preds h.fpstat
        ∧ h'.reg d.toNat = BitVec.ofNat 64 ((x + y + (h.pred p).toNat) % 2 ^ 32))
    ∧ lanesDo (.subb g d a b p) s g fun h h' =>
      let x := (h.src a).toNat % 2 ^ 32
      let y := (h.src b).toNat % 2 ^ 32
      h.fits d 1 → h.changes h' s.cur [d.toNat] (h.setPred p (decide (x < y + (h.pred p).toNat))).preds h.fpstat
        ∧ h'.reg d.toNat = BitVec.ofNat 64 ((((x : Int) - y - (h.pred p).toNat) % 2 ^ 32).toNat)

/-- AND, OR, XOR, ANDN, and the four shifts by the low byte of the count, on the pattern of the type (R153). -/
def Obligations.LogicAndShifts : Prop :=
  ∀ (s : State) (g : Guard) (d : Reg) (a b : Src) (t : Option Fmt), tyIn t intFmts = true →
    lanesDo (.and g d a b t) s g (writesInt s.cur d t .n32 false fun T h => (h.pattern a T &&& h.pattern b T : Nat))
    ∧ lanesDo (.or g d a b t) s g (writesInt s.cur d t .n32 false fun T h => (h.pattern a T ||| h.pattern b T : Nat))
    ∧ lanesDo (.xor g d a b t) s g (writesInt s.cur d t .n32 false fun T h => (h.pattern a T ^^^ h.pattern b T : Nat))
    ∧ lanesDo (.andn g d a b t) s g (writesInt s.cur d t .n32 false fun T h =>
        (BitVec.ofNat T.bits (h.pattern a T) &&& ~~~BitVec.ofNat T.bits (h.pattern b T)).toNat)
    ∧ lanesDo (.shl g d a b t) s g (writesInt s.cur d t .n32 false fun T h => (h.pattern a T * 2 ^ ((h.src b).toNat % 256) : Nat))
    ∧ lanesDo (.shr g d a b t) s g (writesInt s.cur d t .n32 false fun T h => (h.pattern a T / 2 ^ ((h.src b).toNat % 256) : Nat))
    ∧ lanesDo (.sar g d a b t) s g (writesInt s.cur d t .i32 false fun T h =>
        Int.fdiv (intOf T.bits true (h.pattern a T)) (2 ^ ((h.src b).toNat % 256)))
    ∧ lanesDo (.rot g d a b t) s g (writesInt s.cur d t .n32 false fun T h =>
        ((BitVec.ofNat T.bits (h.pattern a T)).rotateLeft ((h.src b).toNat % 256)).toNat)

/-- Bit j of a field of length l at pos of an n-bit pattern; the field is cut at the top of the pattern (R154). -/
def fieldWidth (n ctl : Nat) : Nat := min (ctl / 256 % 256) (n - ctl % 256)

/-- BFX, BFI, BREV, POPC, CLZ and BPICK (R154, R155, R156). -/
def Obligations.BitFieldsAndCounts : Prop :=
  ∀ (s : State) (g : Guard) (d : Reg) (a b c : Src) (t : Option Fmt) (r : Bool) (imm : BitVec 16), tyIn t intFmts = true →
    lanesDo (.bfx g d a b t) s g (writesInt s.cur d t .n32 false fun T h =>
        let ctl := (h.src b).toNat % 2 ^ 32
        let l := fieldWidth T.bits ctl
        if l = 0 then 0 else intOf l T.signed (h.pattern a T / 2 ^ (ctl % 256)))
    ∧ (lanesDo (.bfi g d a b c t) s g fun h h' =>
        let T := h.ty t .n32
        let ctl := (h.src c).toNat % 2 ^ 32
        let l := fieldWidth T.bits ctl
        h.fits d (fmtRuns T) → h.changes h' s.cur (h.run d (fmtRuns T)) h.preds h.fpstat
          ∧ h'.holds d.toNat T (wrapTo T (h'.pattern (.reg d) T))
          ∧ ∀ i < T.bits, (h'.pattern (.reg d) T).testBit i =
              if ctl % 256 ≤ i ∧ i < ctl % 256 + l then (h.pattern b T).testBit (i - ctl % 256) else (h.pattern a T).testBit i)
    ∧ lanesDo (.brev g d a t) s g (writesInt s.cur d t .n32 false fun T h => (BitVec.ofNat T.bits (h.pattern a T)).reverse.toNat)
    ∧ (lanesDo (.popc g d a t) s g fun h h' =>
        let T := h.ty t .n32
        h.fits d 1 → h.changes h' s.cur [d.toNat] h.preds h.fpstat
          ∧ h'.reg d.toNat = BitVec.ofNat 64 ((List.range T.bits).countP fun i => (h.pattern a T).testBit i))
    ∧ (lanesDo (.clz g d a t) s g fun h h' =>
        let T := h.ty t .n32
        h.fits d 1 → h.changes h' s.cur [d.toNat] h.preds h.fpstat
          ∧ ∃ n ≤ T.bits, h'.reg d.toNat = BitVec.ofNat 64 n ∧ h.pattern a T < 2 ^ (T.bits - n) ∧ (n < T.bits → 2 ^ (T.bits - n - 1) ≤ h.pattern a T))
    ∧ lanesDo (.bpick g d a b r c imm) s g fun h h' =>
        let src := (h.src a).toNat % 2 ^ 32 + (h.src b).toNat % 2 ^ 32 * 2 ^ 32
        let sel := if r then (h.src c).toNat % 2 ^ 16 else imm.toNat
        h.fits d 1 → h.changes h' s.cur [d.toNat] h.preds h.fpstat
          ∧ ∀ i < 4, (h'.reg d.toNat).toNat / 256 ^ i % 256 = if sel.testBit (12 + i) then 0 else src / 256 ^ (sel / 8 ^ i % 8) % 256

/-- CMP, SEL, PLOP, PLOP.pk and PLOP.upk (R158, R159, R160). -/
def Obligations.ComparesAndPredicates : Prop :=
  ∀ (s : State) (g : Guard) (d : Reg) (a b : Src) (t : Option Fmt) (k : Cond) (pd pa pb pc : BitVec 3) (neg : Bool) (lut : BitVec 8)
    (mask : BitVec 7), tyIn t intFmts = true →
    (lanesDo (.cmp g k pd a b t) s g fun h h' =>
      let x := h.readInt a (h.ty t .i32)
      let y := h.readInt b (h.ty t .i32)
      h.changes h' s.cur [] (h.setPred pd (match k with
        | .eq => decide (x = y)
        | .ne => decide (x ≠ y)
        | .lt => decide (x < y)
        | .le => decide (x ≤ y)
        | .gt => decide (x > y)
        | .ge => decide (x ≥ y))).preds h.fpstat)
    ∧ lanesDo (.sel g d a b pc neg t) s g (writesInt s.cur d t .i32 false fun T h =>
        if (h.pred pc ^^ neg) = true then h.readInt a T else h.readInt b T)
    ∧ (lanesDo (.plop g pd pa pb pc lut) s g fun h h' =>
        h.changes h' s.cur [] (h.setPred pd (lut.getLsbD (4 * (h.pred pa).toNat + 2 * (h.pred pb).toNat + (h.pred pc).toNat))).preds h.fpstat)
    ∧ (lanesDo (.plopPk g d) s g fun h h' =>
        h.fits d 1 → h.changes h' s.cur [d.toNat] h.preds h.fpstat ∧ h'.reg d.toNat = (1#1 ++ h.preds).setWidth 64)
    ∧ (lanesDo (.plopUpk g a mask) s g fun h h' => ∃ p, h.changes h' s.cur [] p h.fpstat
        ∧ ∀ i < 7, p.getLsbD i = if mask.getLsbD i then (h.src a).getLsbD i else h.preds.getLsbD i)
    ∧ ∀ (h : Hart) (p q : BitVec 3) (v : Bool), (h.setPred p v).pred q = if q = 7 then true else if q = p then v else h.pred q

/-! ### Floating point, packed values, conversions -/

/-- A lane's floating result: the pattern in the destination with zeros above it, its flags gathered into FPSTAT (R106, R114). -/
def writesFloat (c : Issue) (d : Reg) (t : Option Fmt) (dflt : Fmt) (r : Fmt → Hart → Nat × FFlags) (h h' : Hart) : Prop :=
  let x := r (t.getD dflt) h
  h.fits d 1 → h.changes h' c [d.toNat] h.preds (h.fpstat ||| x.2) ∧ h'.reg d.toNat = BitVec.ofNat 64 (x.1 % 2 ^ 32)

/-- A lane's low word of a source. -/
def low (h : Hart) (x : Src) : Nat := (h.src x).toNat % 2 ^ 32

/-- The scalar floating instructions deliver their function of the low words at the type, with its flags; FCMP writes its
predicate, FCLASS its mask (R174 to R179). -/
def Obligations.ScalarFloatResults : Prop :=
  ∀ (s : State) (g : Guard) (d : Reg) (a b c : Src) (t : Option Fmt) (rm : Round) (z : Bool) (k : FCond) (p : BitVec 3),
    lanesDo (.fadd g d a b t rm z) s g (writesFloat s.cur d t .f32 fun T h => faddBits T rm z (low h a) (low h b))
    ∧ lanesDo (.fsub g d a b t rm z) s g (writesFloat s.cur d t .f32 fun T h => fsubBits T rm z (low h a) (low h b))
    ∧ lanesDo (.fmul g d a b t rm z) s g (writesFloat s.cur d t .f32 fun T h => fmulBits T rm z (low h a) (low h b))
    ∧ lanesDo (.ffma g d a b c t rm z) s g (writesFloat s.cur d t .f32 fun T h => ffmaBits T rm z (low h a) (low h b) (low h c))
    ∧ lanesDo (.fdiv g d a b t rm z) s g (writesFloat s.cur d t .f32 fun T h => fdivBits T rm z (low h a) (low h b))
    ∧ lanesDo (.fmin g d a b t z) s g (writesFloat s.cur d t .f32 fun T h => fminBits T z false (low h a) (low h b))
    ∧ lanesDo (.fmax g d a b t z) s g (writesFloat s.cur d t .f32 fun T h => fminBits T z true (low h a) (low h b))
    ∧ lanesDo (.fclass g d a t) s g (writesFloat s.cur d t .f32 fun T h => (fclassBits T (low h a), 0))
    ∧ lanesDo (.frcp g d a t rm z) s g (writesFloat s.cur d t .f32 fun T h => frcpBits T rm z (low h a))
    ∧ lanesDo (.frsq g d a t rm z) s g (writesFloat s.cur d t .f32 fun T h => frsqBits T rm z (low h a))
    ∧ lanesDo (.fsqrt g d a t rm z) s g (writesFloat s.cur d t .f32 fun T h => fsqrtBits T rm z (low h a))
    ∧ lanesDo (.fexp2 g d a t z) s g (writesFloat s.cur d t .f32 fun T h => fexp2Bits T z (low h a))
    ∧ lanesDo (.flog2 g d a t z) s g (writesFloat s.cur d t .f32 fun T h => flog2Bits T z (low h a))
    ∧ lanesDo (.fsin g d a t z) s g (writesFloat s.cur d t .f32 fun T h => fsinBits T z (low h a))
    ∧ lanesDo (.fcos g d a t z) s g (writesFloat s.cur d t .f32 fun T h => fcosBits T z (low h a))
    ∧ lanesDo (.fcmp g k p a b t z) s g fun h h' =>
        let r := fcmpBits k (t.getD .f32) z (low h a) (low h b)
        h.changes h' s.cur [] (h.setPred p r.1).preds (h.fpstat ||| r.2)

/-- A zero of a sign, and a value that is neither zero nor a NaN. -/
def isZero (v : FVal) (neg : Bool) : Prop := ∃ e, v = .fin neg 0 e
def nonzero (v : FVal) (neg : Bool) : Prop := v = .inf neg ∨ ∃ m e, v = .fin neg (m + 1) e
def isFinite (v : FVal) : Prop := ∃ neg m e, v = .fin neg m e

/-- The codes of 1, of an infinity and of a zero of a sign. -/
def oneCode (t : Fmt) : Nat := (Fmt.form t).bias * 2 ^ (Fmt.form t).fbits
def infOf (t : Fmt) (neg : Bool) : Nat := signedCode t neg (Fmt.infCode t)
def zeroOf (t : Fmt) (neg : Bool) : Nat := signedCode t neg 0

/-- NaNs, infinities and zeros in FADD, FSUB, FMUL, FFMA and FDIV (R103, R175). -/
def arithmeticSpecials : Prop :=
  ∀ (t : Fmt) (rm : Round) (z : Bool) (a b c : Nat), t ∈ floatFmts →
    let x := readF t z a
    let y := readF t z b
    let w := readF t z c
    let bad := (Fmt.nanCode t, FFlags.IV)
    ((x = .nan ∨ y = .nan) → faddBits t rm z a b = (Fmt.nanCode t, 0) ∧ fsubBits t rm z a b = (Fmt.nanCode t, 0)
      ∧ fmulBits t rm z a b = (Fmt.nanCode t, 0) ∧ fdivBits t rm z a b = (Fmt.nanCode t, 0) ∧ ffmaBits t rm z a b c = (Fmt.nanCode t, 0))
    ∧ (∀ n m, isZero x n → y = .inf m → fmulBits t rm z a b = bad ∧ fmulBits t rm z b a = bad ∧ ffmaBits t rm z a b c = bad
        ∧ ffmaBits t rm z b a c = bad ∧ fdivBits t rm z b a = (infOf t (n ^^ m), 0))
    ∧ (w = .nan → x ≠ .nan → y ≠ .nan → (∀ n m, ¬(isZero x n ∧ y = .inf m) ∧ ¬(x = .inf m ∧ isZero y n)) →
        ffmaBits t rm z a b c = (Fmt.nanCode t, 0))
    ∧ (∀ n m, x = .inf n → nonzero y m → fmulBits t rm z a b = (infOf t (n ^^ m), 0) ∧ fmulBits t rm z b a = (infOf t (n ^^ m), 0)
        ∧ (w = .inf (!(n ^^ m)) → ffmaBits t rm z a b c = bad ∧ ffmaBits t rm z b a c = bad)
        ∧ ((isFinite w ∨ w = .inf (n ^^ m)) → ffmaBits t rm z a b c = (infOf t (n ^^ m), 0) ∧ ffmaBits t rm z b a c = (infOf t (n ^^ m), 0)))
    ∧ (∀ n, isFinite x → isFinite y → w = .inf n → ffmaBits t rm z a b c = (infOf t n, 0))
    ∧ (∀ n, x = .inf n → (isFinite y ∨ y = .inf n) → faddBits t rm z a b = (infOf t n, 0) ∧ faddBits t rm z b a = (infOf t n, 0))
    ∧ (∀ n, x = .inf n → (isFinite y ∨ y = .inf (!n)) → fsubBits t rm z a b = (infOf t n, 0) ∧ fsubBits t rm z b a = (infOf t (!n), 0))
    ∧ (∀ n, x = .inf n → y = .inf (!n) → faddBits t rm z a b = bad)
    ∧ (∀ n m, x = .inf n → y = .inf m → fdivBits t rm z a b = bad ∧ (n = m → fsubBits t rm z a b = bad))
    ∧ (∀ n m, isZero x n → isZero y m → fdivBits t rm z a b = bad)
    ∧ (∀ n m k e, x = .fin n (k + 1) e → isZero y m → fdivBits t rm z a b = (infOf t (n ^^ m), FFlags.DZ))
    ∧ (∀ n k e m, x = .fin n k e → y = .inf m → fdivBits t rm z a b = (zeroOf t (n ^^ m), 0) ∧ fdivBits t rm z b a = (infOf t (n ^^ m), 0))

/-- The table of R179: NaNs, infinities, zeros and negative values in the seven functions. -/
def functionSpecials : Prop :=
  ∀ (t : Fmt) (rm : Round) (z : Bool) (a : Nat), t ∈ floatFmts →
    let x := readF t z a
    let nan := (Fmt.nanCode t, (0 : FFlags))
    let bad := (Fmt.nanCode t, FFlags.IV)
    (x = .nan → frcpBits t rm z a = nan ∧ frsqBits t rm z a = nan ∧ fsqrtBits t rm z a = nan ∧ fexp2Bits t z a = nan
      ∧ flog2Bits t z a = nan ∧ fsinBits t z a = nan ∧ fcosBits t z a = nan)
    ∧ (x = .inf false → frcpBits t rm z a = (zeroOf t false, 0) ∧ frsqBits t rm z a = (zeroOf t false, 0)
      ∧ fsqrtBits t rm z a = (infOf t false, 0) ∧ fexp2Bits t z a = (infOf t false, 0) ∧ flog2Bits t z a = (infOf t false, 0)
      ∧ fsinBits t z a = bad ∧ fcosBits t z a = bad)
    ∧ (x = .inf true → frcpBits t rm z a = (zeroOf t true, 0) ∧ frsqBits t rm z a = bad ∧ fsqrtBits t rm z a = bad
      ∧ fexp2Bits t z a = (zeroOf t false, 0) ∧ flog2Bits t z a = bad ∧ fsinBits t z a = bad ∧ fcosBits t z a = bad)
    ∧ (∀ n, isZero x n → frcpBits t rm z a = (infOf t n, FFlags.DZ) ∧ frsqBits t rm z a = (infOf t n, FFlags.DZ)
      ∧ fsqrtBits t rm z a = (zeroOf t n, 0) ∧ fexp2Bits t z a = (oneCode t, 0) ∧ flog2Bits t z a = (infOf t true, FFlags.DZ)
      ∧ fsinBits t z a = (zeroOf t n, 0) ∧ fcosBits t z a = (oneCode t, 0))
    ∧ ∀ m e, x = .fin true (m + 1) e → fsqrtBits t rm z a = bad ∧ frsqBits t rm z a = bad ∧ flog2Bits t z a = bad

/-- A product of two elements is infinite with a sign. -/
def infTerm (x y : FVal) (neg : Bool) : Prop :=
  ∃ k l, (k ^^ l) = neg ∧ (x = .inf k ∧ nonzero y l ∨ nonzero x k ∧ y = .inf l)

/-- The special operands: NaNs, infinities, zeros and negative values in the arithmetic (R103, R175), in the seven functions (R179), in
FMIN, FMAX and FCMP (R176, R177) and in the floating dot products (R182). A NaN operand gives the canonical NaN without a flag, an
invalid case gives it with IV; an infinite dot product of one sign is that infinity without a flag. -/
def Obligations.FloatSpecialOperands : Prop := arithmeticSpecials ∧ functionSpecials ∧
  (∀ (t : Fmt) (z m : Bool) (a b : Nat), t ∈ floatFmts →
    (readF t z a = .nan → fminBits t z m a b = deliverF t {} (readF t z b))
    ∧ (readF t z b = .nan → fminBits t z m a b = deliverF t {} (readF t z a))
    ∧ (isZero (readF t z a) true → isZero (readF t z b) false →
        fminBits t z m a b = (zeroOf t (!m), 0) ∧ fminBits t z m b a = (zeroOf t (!m), 0))
    ∧ (∀ n, readF t z a = .inf n → isFinite (readF t z b) → fminBits t z n a b = deliverF t {} (readF t z b)
        ∧ fminBits t z (!n) a b = (infOf t n, 0) ∧ fcmpBits .lt t z a b = (n, 0) ∧ fcmpBits .gt t z a b = (!n, 0) ∧ fcmpBits .lt t z b a = (!n, 0)
        ∧ fcmpBits .eq t z a b = (false, 0))
    ∧ (∀ k : FCond, (readF t z a = .nan ∨ readF t z b = .nan) → fcmpBits k t z a b = (decide (k = .ne ∨ k = .un),
        if k = .lt ∨ k = .le ∨ k = .gt ∨ k = .ge then FFlags.IV else 0))
    ∧ (∀ n n', isZero (readF t z a) n → isZero (readF t z b) n' → fcmpBits .eq t z a b = (true, 0)))
  ∧ ∀ (t : Fmt) (n : Nat) (rm : Round) (z : Bool) (a b c : Nat),
    let x := fun i => readF t z (a / 2 ^ (t.bits * i) % 2 ^ t.bits)
    let y := fun i => readF t z (b / 2 ^ (t.bits * i) % 2 ^ t.bits)
    ((readF .f32 z c = .nan ∨ ∃ i < n, x i = .nan ∨ y i = .nan) → dotBits n t rm z a b c = (Fmt.nanCode .f32, 0))
    ∧ (readF .f32 z c ≠ .nan → (∀ i < n, x i ≠ .nan ∧ y i ≠ .nan) →
        (∃ i < n, ∃ k m, isZero (x i) k ∧ y i = .inf m ∨ x i = .inf m ∧ isZero (y i) k) → dotBits n t rm z a b c = (Fmt.nanCode .f32, FFlags.IV))
    ∧ (let has := fun m => readF .f32 z c = .inf m ∨ ∃ i < n, infTerm (x i) (y i) m
       readF .f32 z c ≠ .nan → (∀ i < n, x i ≠ .nan ∧ y i ≠ .nan) →
        (¬∃ i < n, ∃ k m, isZero (x i) k ∧ y i = .inf m ∨ x i = .inf m ∧ isZero (y i) k) →
        (has true → has false → dotBits n t rm z a b c = (Fmt.nanCode .f32, FFlags.IV))
        ∧ ∀ m, has m → ¬has (!m) → dotBits n t rm z a b c = (infOf .f32 m, 0))

/-! #### Rounding, stated over the reals -/

/-- The real number that a finite value is. -/
noncomputable def realOf : FVal → ℝ
  | .fin neg m e => (if neg then -(m : ℝ) else m) * 2 ^ e
  | _ => 0

/-- k units on the grid of a format: with an unbounded exponent range, or no finer than the smallest subnormal (R107). -/
def unitsOn (t : Fmt) (bounded : Bool) (w : ℝ) (k : ℤ) : Prop :=
  k.natAbs ≤ 2 ^ ((Fmt.form t).fbits + 1) ∧ ∃ e : ℤ, (bounded = true → (Fmt.form t).esub ≤ e) ∧ w = k * (2 : ℝ) ^ e
def onGrid (t : Fmt) (bounded : Bool) (w : ℝ) : Prop := ∃ k, unitsOn t bounded w k
def evenOn (t : Fmt) (bounded : Bool) (w : ℝ) : Prop := ∃ k, Even k ∧ unitsOn t bounded w k

/-- w is what a mode chooses for v on a grid G, whose even points are E (R107, R116). -/
def chooses (G E : ℝ → Prop) (d : Rnd) (v w : ℝ) : Prop :=
  let inner := fun x => G x ∧ 0 ≤ v * x ∧ |x| ≤ |v| ∧ ∀ g, G g → |g| ≤ |v| → |g| ≤ |x|
  let outer := fun x => G x ∧ 0 ≤ v * x ∧ |v| ≤ |x| ∧ ∀ g, G g → |v| ≤ |g| → |x| ≤ |g|
  match d.mode with
  | .rne => G w ∧ (∀ g, G g → |v - w| ≤ |v - g|) ∧ ((∃ g, G g ∧ g ≠ w ∧ |v - g| = |v - w|) → E w)
  | .rtz => inner w
  | .rup => G w ∧ v ≤ w ∧ ∀ g, G g → v ≤ g → w ≤ g
  | .rdn => G w ∧ w ≤ v ∧ ∀ g, G g → g ≤ v → g ≤ w
  | .rsr => ∃ x y, inner x ∧ outer y ∧ (x = y → w = x)
      ∧ (x ≠ y → ((d.s : ℤ) < ⌊(|v| - |x|) / (|y| - |x|) * 2 ^ 24⌋ → w = y) ∧ (⌊(|v| - |x|) / (|y| - |x|) * 2 ^ 24⌋ ≤ (d.s : ℤ) → w = x))

/-- The pattern and the flags r are RoundTo of the nonzero real v (R104, R107 to R111, R113). A rounded zero keeps the sign of v: the
model's reading (log 67). -/
def roundsTo (t : Fmt) (d : Rnd) (v : ℝ) (r : Nat × FFlags) : Prop :=
  ∃ (w u : ℝ) (neg : Bool), chooses (onGrid t true) (evenOn t true) d v w ∧ chooses (onGrid t false) (evenOn t false) d v u
    ∧ (neg = true ↔ v < 0) ∧
      let large := realOf (decodeF t (Fmt.maxCode t)) < |w|
      let tiny := |u| < (2 : ℝ) ^ (Fmt.form t).emin
      let flush := d.ftz = true ∧ t.isScalarF = true ∧ tiny
      (large → r = (if d.sat then signedCode t neg (Fmt.maxCode t)
          else if t = .e4m3 then Fmt.nanCode t
          else signedCode t neg (if d.mode = .rtz ∨ d.mode = .rup ∧ neg = true ∨ d.mode = .rdn ∧ neg = false then Fmt.maxCode t
            else Fmt.infCode t), FFlags.OF ||| FFlags.NX))
      ∧ (¬large → flush → r = (zeroOf t neg, FFlags.UF ||| FFlags.NX))
      ∧ (¬large → ¬flush → r.1 < 2 ^ t.bits ∧ (∃ m e, decodeF t r.1 = .fin neg m e ∧ realOf (.fin neg m e) = w)
          ∧ (w = v → r.2 = 0) ∧ (w ≠ v → tiny → r.2 = FFlags.UF ||| FFlags.NX) ∧ (w ≠ v → ¬tiny → r.2 = FFlags.NX))

/-- An exact real delivered: a zero of the sign that its operation gives it, or RoundTo of it. -/
def deliversReal (t : Fmt) (d : Rnd) (v : ℝ) (zeroNeg : Bool) (r : Nat × FFlags) : Prop :=
  (v = 0 → r = (zeroOf t zeroNeg, 0)) ∧ (v ≠ 0 → roundsTo t d v r)

/-- The sign of an exact zero sum: that of two zeros of one sign, else that of R107 step 4. -/
def sumNeg (rm : Round) (p q : Bool) : Bool := if p = q then p else rm == .rdn

/-- Finite operands: FADD, FSUB, FMUL, FFMA and FDIV round the exact value once; FRCP, FSQRT and FRSQ theirs; FEXP2 of an integer, FLOG2 of
a power of two, FSIN and FCOS of multiples of a half are exact; the order of FCMP, FMIN and FMAX is that of the reals; the dot products
round c plus the exact sum of the products (R107, R113, R175 to R177, R179, R182). -/
def arithmeticRounds : Prop :=
  (∀ (t : Fmt) (rm : Round) (z : Bool) (a b c : Nat), t ∈ floatFmts →
    let d : Rnd := { mode := rm, ftz := z }
    let x := readF t z a
    let y := readF t z b
    let w := readF t z c
    isFinite x →
    (isFinite y →
      deliversReal t d (realOf x + realOf y) (sumNeg rm (signOf x) (signOf y)) (faddBits t rm z a b)
      ∧ deliversReal t d (realOf x - realOf y) (sumNeg rm (signOf x) (!signOf y)) (fsubBits t rm z a b)
      ∧ deliversReal t d (realOf x * realOf y) (signOf x ^^ signOf y) (fmulBits t rm z a b)
      ∧ (isFinite w → deliversReal t d (realOf x * realOf y + realOf w) (sumNeg rm (signOf x ^^ signOf y) (signOf w)) (ffmaBits t rm z a b c))
      ∧ (realOf y ≠ 0 → deliversReal t d (realOf x / realOf y) (signOf x ^^ signOf y) (fdivBits t rm z a b))
      ∧ (∀ k, (fcmpBits k t z a b).2 = 0 ∧ ((fcmpBits k t z a b).1 = true ↔ match k with
          | .eq => realOf x = realOf y
          | .ne => realOf x ≠ realOf y
          | .lt => realOf x < realOf y
          | .le => realOf x ≤ realOf y
          | .gt => realOf x > realOf y
          | .ge => realOf x ≥ realOf y
          | .un => False
          | .or => True))
      ∧ (realOf x < realOf y → ∀ m, fminBits t z m a b = deliverF t {} (if m then y else x) ∧ fminBits t z m b a = deliverF t {} (if m then y else x)))
    ∧ (realOf x ≠ 0 → roundsTo t d (1 / realOf x) (frcpBits t rm z a))
    ∧ (0 < realOf x → roundsTo t d (Real.sqrt (realOf x)) (fsqrtBits t rm z a) ∧ roundsTo t d (1 / Real.sqrt (realOf x)) (frsqBits t rm z a))
    ∧ (∀ n : ℤ, realOf x = n → roundsTo t { ftz := z } (2 ^ n) (fexp2Bits t z a))
    ∧ (∀ n : ℤ, realOf x = 2 ^ n → deliversReal t { ftz := z } n false (flog2Bits t z a))
    ∧ ∀ n : ℤ, 2 * realOf x = n → deliversReal t { ftz := z } (Real.sin (Real.pi * realOf x)) (signOf x) (fsinBits t z a)
        ∧ deliversReal t { ftz := z } (Real.cos (Real.pi * realOf x)) false (fcosBits t z a))
  ∧ ∀ (t : Fmt) (n : Nat) (rm : Round) (z : Bool) (a b c : Nat),
    let x := fun i => readF t z (a / 2 ^ (t.bits * i) % 2 ^ t.bits)
    let y := fun i => readF t z (b / 2 ^ (t.bits * i) % 2 ^ t.bits)
    isFinite (readF .f32 z c) → (∀ i < n, isFinite (x i) ∧ isFinite (y i)) →
      let v := realOf (readF .f32 z c) + ∑ i ∈ Finset.range n, realOf (x i) * realOf (y i)
      (v = 0 → ∃ neg, dotBits n t rm z a b c = (zeroOf .f32 neg, 0)) ∧ (v ≠ 0 → roundsTo .f32 { mode := rm, ftz := z } v (dotBits n t rm z a b c))

/-- The exact real value is rounded once, as R107 says: by the arithmetic, the functions where they are exact or algebraic, and the dot
products; by SCLX; by the conversions CVT, CVTSR, QNT and DQNT of one element, to a floating format, and to an integer's range (R109 to
R112, R186, R191 to R193). -/
def Obligations.FloatRoundsExactValue : Prop := arithmeticRounds ∧
  (∀ (t : Fmt) (d : Rnd) (n : Int) (a : Nat), t.isFloat = true → isFinite (readF t d.ftz a) →
    deliversReal t d (realOf (readF t d.ftz a) * 2 ^ n) (signOf (readF t d.ftz a)) (sclxBits t d n a))
  ∧ ∀ (k : Conv) (n : Int) (s bits : Nat),
    let d : Rnd := { mode := k.rm, s, ftz := k.ftz, sat := k.sat }
    let x := k.value bits
    let r := k.element n s bits
    let out := fun (q : Int) (f : FFlags) => ((q % 2 ^ k.df.bits).toNat, f)
    (k.df.isFloat = true →
      (isFinite x → deliversReal k.df d (realOf x * 2 ^ n) (signOf x) r)
      ∧ (x = .nan → r = (Fmt.nanCode k.df, 0))
      ∧ ∀ neg, x = .inf neg → r = if k.sat then (signedCode k.df neg (Fmt.maxCode k.df), 0)
          else if k.df = .e4m3 then (Fmt.nanCode k.df, FFlags.OF ||| FFlags.NX) else (infOf k.df neg, 0))
    ∧ (k.df.isFloat = false → (k.sf.isInt = false ∨ k.scaled = true) →
      let beyond := if k.quant then FFlags.NX else FFlags.IV
      (x = .nan → r = out 0 FFlags.IV)
      ∧ (∀ neg, x = .inf neg → r = out (if neg then k.lo else k.hi) beyond)
      ∧ (isFinite x → ∃ q : ℤ,
          (realOf x = 0 → q = 0)
          ∧ (realOf x ≠ 0 → chooses (fun w => ∃ i : ℤ, w = i) (fun w => ∃ i : ℤ, Even i ∧ w = i) d (realOf x * 2 ^ n) q)
          ∧ (q < k.lo → r = out k.lo beyond) ∧ (k.lo ≤ q → k.hi < q → r = out k.hi beyond)
          ∧ (k.lo ≤ q → q ≤ k.hi → r = out q (if (q : ℝ) = realOf x * 2 ^ n then 0 else FFlags.NX))))
    ∧ (k.df.isFloat = false → k.sf.isInt = true → k.df.isInt = true → k.scaled = false →
      let q := intOf k.sf.bits k.sf.signed bits
      r = out (if k.sat then max k.lo (min k.hi q) else q) 0)

/-- Both halves of a packed result by themselves, their flags together (R180). -/
def writesHalves (c : Issue) (d : Reg) (r : Fmt → Nat → Hart → Nat × FFlags) (t : Option Fmt) (h h' : Hart) : Prop :=
  let x := fun i => r (t.getD .f16) i h
  h.fits d 1 → h.changes h' c [d.toNat] h.preds (h.fpstat ||| ((x 0).2 ||| (x 1).2))
    ∧ h'.reg d.toNat = BitVec.ofNat 64 ((x 0).1 % 2 ^ 16 + (x 1).1 % 2 ^ 16 * 2 ^ 16)

/-- Element i of 16 bits, or of 8, of a lane's source. -/
def half (h : Hart) (x : Src) (i : Nat) : Nat := low h x / 2 ^ (16 * i) % 2 ^ 16
def octet (signed : Bool) (h : Hart) (x : Src) (i : Nat) : Int := intOf 8 signed (low h x / 2 ^ (8 * i))

/-- The packed instructions act on each element by itself, and the dot products sum exactly before they round once or wrap
(R180 to R183). -/
def Obligations.PackedResults : Prop :=
  ∀ (s : State) (g : Guard) (d : Reg) (a b c : Src) (t : Option Fmt) (rm : Round) (z sat : Bool) (k : FCond) (p : BitVec 3),
    lanesDo (.hadd2 g d a b t rm z) s g (writesHalves s.cur d (fun T i h => faddBits T rm z (half h a i) (half h b i)) t)
    ∧ lanesDo (.hmul2 g d a b t rm z) s g (writesHalves s.cur d (fun T i h => fmulBits T rm z (half h a i) (half h b i)) t)
    ∧ lanesDo (.hfma2 g d a b c t rm z) s g (writesHalves s.cur d (fun T i h => ffmaBits T rm z (half h a i) (half h b i) (half h c i)) t)
    ∧ lanesDo (.hmin2 g d a b t z) s g (writesHalves s.cur d (fun T i h => fminBits T z false (half h a i) (half h b i)) t)
    ∧ lanesDo (.hmax2 g d a b t z) s g (writesHalves s.cur d (fun T i h => fminBits T z true (half h a i) (half h b i)) t)
    ∧ (lanesDo (.hcmp2 g k p a b t z) s g fun h h' =>
        let r := fun i => fcmpBits k (t.getD .f16) z (half h a i) (half h b i)
        h.changes h' s.cur [] ((h.setPred p (r 0).1).setPred (p + 1) (r 1).1).preds (h.fpstat ||| ((r 0).2 ||| (r 1).2)))
    ∧ lanesDo (.dot2 g d a b c t rm z) s g (writesFloat s.cur d t .f16 fun T h => dotBits 2 T rm z (low h a) (low h b) (low h c))
    ∧ ((t.getD .e4m3).isInt = false →
        lanesDo (.dot4 g d a b c t rm z sat) s g (writesFloat s.cur d t .e4m3 fun T h => dotBits 4 T rm z (low h a) (low h b) (low h c)))
    ∧ ((t.getD .e4m3).isInt = true → lanesDo (.dot4 g d a b c t rm z sat) s g fun h h' =>
        let q := (t.getD .e4m3).signed
        let W : Fmt := if q then .i32 else .n32
        h.fits d 1 → h.changes h' s.cur [d.toNat] h.preds h.fpstat
          ∧ h'.holds d.toNat W (delivered W sat (h.readInt c W + octet q h a 0 * octet q h b 0 + octet q h a 1 * octet q h b 1
              + octet q h a 2 * octet q h b 2 + octet q h a 3 * octet q h b 3)))
    ∧ (∀ u, u = .vadd4 g d a b t sat ∨ u = .vsub4 g d a b t sat → lanesDo u s g fun h h' =>
        let T : Fmt := if (t.getD .n8).signed then .i8 else .n8
        let v := fun i => if u = .vadd4 g d a b t sat then octet T.signed h a i + octet T.signed h b i else octet T.signed h a i - octet T.signed h b i
        h.fits d 1 → h.changes h' s.cur [d.toNat] h.preds h.fpstat ∧ (h'.reg d.toNat).toNat < 2 ^ 32
          ∧ ∀ i < 4, intOf 8 T.signed ((h'.reg d.toNat).toNat / 2 ^ (8 * i)) = delivered T sat (v i))

/-- A conversion of one lane: each element of the source becomes its element of the destination, at its place in the run, 32 bits to
a register in bobbin code too; the flags are gathered (R171, R186, R187). -/
def converts (c : Issue) (k : Conv) (d : Reg) (a : Src) (n : Int) (rnd : Nat → Word) (h h' : Hart) : Prop :=
  let r := fun j => k.element n (wordBits (rnd j)) (k.source h a j)
  let len := if k.pk then max 1 (k.df.bits / k.sf.bits) else fmtRuns k.df
  d.toNat + len ≤ (if h.isBobbin then 32 else 64) →
    h.changes h' c ((List.range len).map (d.toNat + ·)) h.preds ((List.range k.results).foldl (fun f j => f ||| (r j).2) h.fpstat)
    ∧ ∀ j < k.results,
        if k.pk then h'.runWord (.reg d) (j / (32 / k.df.bits)) / 2 ^ (k.df.bits * (j % (32 / k.df.bits))) % 2 ^ k.df.bits = (r j).1 % 2 ^ k.df.bits
        else if k.df.isFloat then h'.reg d.toNat = BitVec.ofNat 64 ((r j).1 % 2 ^ 32)
        else
          let v := intOf k.df.bits k.df.signed (r j).1
          if k.df.bits = 64 then h'.reg d.toNat = ((BitVec.ofInt 64 v).setWidth 32).setWidth 64 ∧ h'.reg (d.toNat + 1) = BitVec.ofInt 64 v >>> 32
          else h'.reg d.toNat = (BitVec.ofInt 32 v).setWidth 64

/-- CVT, DQNT, and QNT and CVTSR where no generator is drawn on (R186 to R188, R191, R192). -/
def Obligations.ConversionResults : Prop :=
  ∀ (s : State) (g : Guard) (d : Reg) (a b : Src) (df sf : Fmt) (pl : BitVec 4) (rm : Round) (sat z pk : Bool),
    ((Instr.cvt g d a df sf rm sat z pk).wf = true →
      lanesDo (.cvt g d a df sf rm sat z pk) s g (converts s.cur { df, sf, rm, sat, ftz := z, pk } d a 0 fun _ => 0))
    ∧ ((Instr.dqnt g d a df sf b pl rm sat z pk).wf = true →
      lanesDo (.dqnt g d a df sf b pl rm sat z pk) s g fun h h' =>
        converts s.cur { df, sf, planes := pl.toNat, rm, sat, ftz := z, pk, scaled := true } d a (((low h b % 256 : Nat) : Int) - 127) (fun _ => 0) h h')
    ∧ ((Instr.qnt g d a df sf b pl rm sat z pk).wf = true → rm ≠ .rsr →
      lanesDo (.qnt g d a df sf b pl rm sat z pk) s g fun h h' =>
        converts s.cur { df, sf, planes := pl.toNat, rm, sat, ftz := z, pk, quant := true, scaled := true } d a ((127 : Int) - ((low h b % 256 : Nat) : Int))
          (fun _ => 0) h h')
    ∧ ((Instr.cvtsr g d a df sf b true sat z pk).wf = true →
      lanesDo (.cvtsr g d a df sf b true sat z pk) s g fun h h' =>
        converts s.cur { df, sf, rm := .rsr, sat, ftz := z, pk } d a 0 (fun e => (BitVec.ofNat 32 (low h b)).rotateLeft (8 * e)) h h')

/-- The instructions that draw on a generator: result e of physical lane l uses the generator's state after e + 1 steps,
rotated by the lane, and the generator steps once for each result; SRSEED's value stands from the cycle's end (R117, R118,
R120, R188, R189, R190). -/
def Obligations.GeneratorDraws : Prop :=
  (∀ (s : State) (g : Guard) (d : Reg) (a b : Src) (df sf : Fmt) (pl : BitVec 4) (sat z pk : Bool) (i : Instr) (k : Conv) (n : Hart → Int),
    i.wf = true →
    (i = .cvtsr g d a df sf b false sat z pk ∧ k = { df, sf, rm := .rsr, sat, ftz := z, pk } ∧ n = (fun _ => 0)
      ∨ i = .qnt g d a df sf b pl .rsr sat z pk ∧ k = { df, sf, planes := pl.toNat, rm := .rsr, sat, ftz := z, pk, quant := true, scaled := true }
        ∧ n = fun h => (127 : Int) - ((low h b % 256 : Nat) : Int)) →
    let x := ((s.slot? s.cur.core s.issueSlot).map fun q => q.gen s.pipe).getD 0
    ∃ F : Nat → Hart → Hart,
      exec i s = .next ((s.mapLanesAt F).modSlot s.cur.core s.issueSlot fun q => q.setGen s.pipe (xorshiftN k.results x))
      ∧ ∀ l h, if h.takes g then converts s.cur k d a (n h) (fun e => laneWord (xorshiftN (e + 1) x) l) h (F l h) else F l h = h.advance s.cur)
  ∧ (∀ (s : State) (g : Guard) (a : Src) (w : BitVec 2) (l : Nat) (h : Hart) (rest : List (Nat × Hart)), s.active g = (l, h) :: rest →
      let v : Word := if low h a = 0 then 0x9E3779B9 else BitVec.ofNat 32 (low h a)
      exec (.srseed g a w) s = .next ((s.mapLanes fun h => h.advance s.cur).modSlot s.cur.core s.issueSlot fun q =>
        { q with seeds := (if w = 3 then [0, 1, 2] else [w.toNat]).foldl (fun m n => m.set n v) q.seeds }))
  ∧ (∀ (q : Slot) (v : Word) (n : Nat), q.seeds.get? n = some v → n < 3 → q.seeded.gen n = v ∧ q.seeded.seeds = [])

/-- e of R125 of a nonzero finite element: that of its unit bit, no less than that of the smallest normal. -/
noncomputable def exponentOf (t : Fmt) (v : FVal) : ℤ := max (Int.log 2 |realOf v|) (1 - ((Fmt.form t).bias : ℤ))

/-- e is the largest exponent among the nonzero finite elements of a list, or 1 − bias where it has none (R125, R198). -/
def groupExponent (t : Fmt) (l : List FVal) (e : ℤ) : Prop :=
  let counts := fun v => v ∈ l ∧ isFinite v ∧ realOf v ≠ 0
  ((∃ v, counts v) → (∃ v, counts v ∧ exponentOf t v = e) ∧ ∀ v, counts v → exponentOf t v ≤ e)
    ∧ ((¬∃ v, counts v) → e = 1 - ((Fmt.form t).bias : ℤ))

/-- r is an element aligned to eG at W bits, and its flags: its value in units of 2^(eG − W + 2), truncated toward zero, or the
saturated one of F8ALGN (R126, R198). -/
def alignsTo (t : Fmt) (w : Nat) (eG : ℤ) (v : FVal) (r : Int × FFlags) : Prop :=
  let sign : ℤ := if realOf v < 0 then -1 else 1
  (¬isFinite v → r = (-(2 ^ (w - 1)), FFlags.IV))
    ∧ (isFinite v → realOf v = 0 → r = (0, 0))
    ∧ (isFinite v → realOf v ≠ 0 → eG < exponentOf t v → r = (sign * (2 ^ (w - 1) - 1), FFlags.IV))
    ∧ (isFinite v → realOf v ≠ 0 → exponentOf t v ≤ eG → r = (sign * ⌊|realOf v| * (2 : ℝ) ^ ((w : ℤ) - 2 - eG)⌋, 0))

/-- PLPACK, PLUNPK, PLEXT, F8ALGN and SCLX (R193 to R198). -/
def Obligations.BitPlanesAndAlignment : Prop :=
  ∀ (s : State) (g : Guard) (d ra : Reg) (a b : Src) (P p : BitVec 4) (df : Fmt) (rm : Round) (q sat z : Bool),
    ((Instr.plpack g d ra P p).wf = true → lanesDo (.plpack g d ra P p) s g fun h h' =>
      h.fits d 1 → h.changes h' s.cur [d.toNat] h.preds h.fpstat ∧ (h'.reg d.toNat).toNat < 2 ^ 32
        ∧ ∀ i < 32, (h'.reg d.toNat).getLsbD i = (h.reg (ra.toNat + i / 4)).getLsbD (8 * (i % 4) + (P.toNat - 1 - p.toNat)))
    ∧ ((Instr.plunpk g d a P p).wf = true → lanesDo (.plunpk g d a P p) s g fun h h' =>
      d.toNat + 8 ≤ (if h.isBobbin then 32 else 64) → h.changes h' s.cur ((List.range 8).map (d.toNat + ·)) h.preds h.fpstat
        ∧ ∀ i < 32, ∃ w : Int, -(2 ^ (p.toNat - 1)) ≤ w ∧ w < 2 ^ (p.toNat - 1)
            ∧ (∀ j < p.toNat, (w % 2 ^ p.toNat).toNat.testBit (p.toNat - 1 - j) = (h.runWord a j).testBit i)
            ∧ intOf 8 true (h'.runWord (.reg d) (i / 4) / 256 ^ (i % 4)) = wrapTo .i8 (w * 2 ^ (P.toNat - p.toNat)))
    ∧ ((Instr.plext g d a P p q).wf = true → lanesDo (.plext g d a P p q) s g fun h h' =>
      h.fits d 1 → h.changes h' s.cur [d.toNat] h.preds h.fpstat ∧ (h'.reg d.toNat).toNat < 2 ^ 32
        ∧ ∀ i < 4,
            let w := Int.fdiv (intOf P.toNat true (low h a / 256 ^ i % 256)) (2 ^ (P.toNat - p.toNat))
            intOf 8 true ((h'.reg d.toNat).toNat / 256 ^ i) = wrapTo .i8 (if q then w * 2 ^ (P.toNat - p.toNat) else w))
    ∧ (df = .e4m3 ∨ df = .e5m2 ∨ df = .bf16 →
      let elem := fun h i => decodeF df (low h a / 2 ^ (df.bits * i) % 2 ^ df.bits)
      (lanesDo (.f8algn g d a b df true) s g fun h h' =>
        h.fits d 1 → h.changes h' s.cur [d.toNat] h.preds h.fpstat
          ∧ ∃ e : ℤ, groupExponent df ((List.range (32 / df.bits)).map (elem h)) e ∧ h'.reg d.toNat = BitVec.ofNat 64 (e % 2 ^ 32).toNat)
      ∧ lanesDo (.f8algn g d a b df false) s g fun h h' =>
        h.fits d 1 → ∃ x : Nat → Int × FFlags, (∀ i < 32 / df.bits, alignsTo df df.bits (intOf 8 true (low h b)) (elem h i) (x i))
          ∧ h.changes h' s.cur [d.toNat] h.preds (h.fpstat ||| (List.range (32 / df.bits)).foldl (fun f i => f ||| (x i).2) 0)
          ∧ (h'.reg d.toNat).toNat < 2 ^ 32
          ∧ ∀ i < 32 / df.bits, ((h'.reg d.toNat).toNat / 2 ^ (df.bits * i) % 2 ^ df.bits : Nat) = (x i).1 % 2 ^ df.bits)
    ∧ lanesDo (.sclx g d a b df rm q sat z) s g (writesFloat s.cur d (some df) .f32 fun T h =>
        sclxBits T { mode := rm, ftz := z, sat } (if q then ((low h b % 256 : Nat) : Int) - 127 else intOf 32 true (low h b)) (low h a))

/-! ### Block 0x6A to 0x72: lanes of a group -/

/-- The lane of a thread's fragment that takes part and whose logical lane is n (R199, R200). -/
def peer (s : State) (g : Guard) (h : Hart) (n : Nat) : Option Hart :=
  ((s.active g).find? fun e => s.fragOf e.2 == s.fragOf h && s.laneOf e.2 == n).map Prod.snd

/-- What a lane reads of A from a named lane: an absent one gives the lane's own value, or zero under .fz (R200, R203). -/
def fromLane (s : State) (g : Guard) (a : Src) (fz : Bool) (T : Fmt) (h : Hart) (n : Option Nat) : Nat :=
  match (n.filter fun n => n < s.widthOf h).bind (peer s g h) with
  | some k => k.pattern a T
  | none => if fz then 0 else h.pattern a T

/-- The lane moves: each lane reads A of the lane that SHFL, BFLY, SHUP, SHDN or BCAST names, all as they stood at issue (R200,
R203, R208). -/
def Obligations.LaneMoves : Prop :=
  ∀ (s : State) (g : Guard) (d : Reg) (a b : Src) (n : BitVec 6) (t : Option Fmt) (fz : Bool), tyIn t intFmts = true →
    let moves := fun (src : Hart → Nat → Option Nat) (h h' : Hart) =>
      let T := t.getD .n32
      h.fits d (fmtRuns T) → h.changes h' s.cur (h.run d (fmtRuns T)) h.preds h.fpstat
        ∧ h'.holds d.toNat T (wrapTo T (fromLane s g a fz T h (src h (s.laneOf h))))
    lanesDo (.shfl g d a b t fz) s g (moves fun h _ => some (low h b))
    ∧ lanesDo (.bfly g d a n t fz) s g (moves fun _ l => some (l ^^^ n.toNat))
    ∧ lanesDo (.shup g d a n t fz) s g (moves fun _ l => if n.toNat ≤ l then some (l - n.toNat) else none)
    ∧ lanesDo (.shdn g d a n t fz) s g (moves fun _ l => some (l + n.toNat))
    ∧ lanesDo (.bcast g d a n t fz) s g (moves fun _ _ => some n.toNat)

/-- PCENS counts the present lanes of the group whose predicate is true, and MATCH marks those that hold an equal value
(R204, R205). -/
def Obligations.CensusAndMatch : Prop :=
  ∀ (s : State) (g : Guard) (d n : BitVec 6) (a : Src) (pa : BitVec 3) (t : Option Fmt), tyIn t intFmts = true →
    let here := fun h => (s.active g).filter fun e => s.fragOf e.2 == s.fragOf h
    let yes := fun h => ((here h).filter fun e => e.2.pred pa).length
    let pd := d.extractLsb' 0 3
    let counted := fun (v : Nat → Nat → Bool) (h h' : Hart) => h.changes h' s.cur [] (h.setPred pd (v (yes h) (here h).length)).preds h.fpstat
    let marks := fun (p : Hart → Hart → Bool) (h h' : Hart) =>
      h.fits d 2 → h.changes h' s.cur (h.run d 2) h.preds h.fpstat
        ∧ ∃ m : DWord, h'.holds d.toNat .n64 m.toNat ∧ ∀ l, m.getLsbD l = (here h).any fun e => s.laneOf e.2 == l && p h e.2
    lanesDo (.pcens g .mask d pa n) s g (marks fun _ k => k.pred pa)
    ∧ (lanesDo (.pcens g .cnt d pa n) s g fun h h' =>
        h.fits d 1 → h.changes h' s.cur [d.toNat] h.preds h.fpstat
          ∧ h'.reg d.toNat = BitVec.ofNat 64 ((yes h + 256 * (here h).length) % 2 ^ 32))
    ∧ lanesDo (.pcens g .atl d pa n) s g (counted fun c _ => decide (n.toNat + 1 ≤ c))
    ∧ lanesDo (.pcens g .maj d pa n) s g (counted fun c m => decide (m < 2 * c))
    ∧ lanesDo (.pcens g .full d pa n) s g (counted fun c m => decide (c = m))
    ∧ lanesDo (.matchLane g d a t) s g (marks fun h k => k.pattern a (t.getD .n32) == h.pattern a (t.getD .n32))

/-- The values of A in the present lanes of a group with a logical lane below n, in lane order. -/
def laneInts (s : State) (g : Guard) (a : Src) (T : Fmt) (h : Hart) (n : Nat) : List Int :=
  (List.range n).filterMap fun l => (peer s g h l).map fun k => k.readInt a T
def lanePats (s : State) (g : Guard) (a : Src) (T : Fmt) (h : Hart) (n : Nat) : List Nat :=
  (List.range n).filterMap fun l => (peer s g h l).map fun k => k.pattern a T

/-- An integer reduction over the lanes below n. -/
def reduced (s : State) (g : Guard) (op : RedOp) (a : Src) (T : Fmt) (h : Hart) (n : Nat) : Int :=
  match op with
  | .add => (laneInts s g a T h n).foldl (· + ·) 0
  | .min => (laneInts s g a T h n).foldl min (if T.signed then 2 ^ (T.bits - 1) - 1 else 2 ^ T.bits - 1)
  | .max => (laneInts s g a T h n).foldl max (if T.signed then -2 ^ (T.bits - 1) else 0)
  | .and => ((lanePats s g a T h n).foldl (· &&& ·) (2 ^ T.bits - 1) : Nat)
  | .or => ((lanePats s g a T h n).foldl (· ||| ·) 0 : Nat)
  | .xor => ((lanePats s g a T h n).foldl (· ^^^ ·) 0 : Nat)

/-- The operation of a floating reduction and its identity (R206). -/
def floatOp (op : RedOp) (T : Fmt) : Nat → Nat → Nat × FFlags :=
  if op = .min then fminBits T false false else if op = .max then fminBits T false true else faddBits T .rne false
def floatIdent (op : RedOp) (T : Fmt) : Nat := if op = .add then zeroOf T true else Fmt.nanCode T

/-- The values of A by logical lane, the identity where a lane is absent. -/
def floatLanes (s : State) (g : Guard) (op : RedOp) (a : Src) (T : Fmt) (h : Hart) (l : Nat) : Nat :=
  ((peer s g h l).map fun k => k.pattern a T).getD (floatIdent op T)

/-- The fixed tree of R206 over W lanes: at step s the lanes at multiples of 2^(s+1) take in the one 2^s above; with all flags. -/
def treeOver (f : Nat → Nat → Nat × FFlags) (w : Nat) (v : Nat → Nat) : (Nat → Nat) × FFlags :=
  (List.range (Nat.log2 w)).foldl (fun (v, fl) s =>
    let d := 2 ^ s
    (fun i => if i % (2 * d) = 0 then (f (v i) (v (i + d))).1 else v i,
      (List.range (w / (2 * d))).foldl (fun fl j => fl ||| (f (v (2 * d * j)) (v (2 * d * j + d))).2) fl)) (v, 0)

/-- The steps of R207 over W lanes: at step s every lane from 2^s on takes in the one 2^s below, all from the old values. -/
def scanOver (f : Nat → Nat → Nat × FFlags) (w : Nat) (v : Nat → Nat) : (Nat → Nat) × FFlags :=
  (List.range (Nat.log2 w)).foldl (fun (v, fl) s =>
    let d := 2 ^ s
    (fun l => if d ≤ l then (f (v (l - d)) (v l)).1 else v l,
      (List.range (w - d)).foldl (fun fl j => fl ||| (f (v j) (v (j + d))).2) fl)) (v, 0)

/-- REDUX of an integer type leaves the sum, least, greatest, conjunction, disjunction or parity of the group in every lane,
SCAN that of the lanes up to its own, or below it under .ex; floating forms go through the fixed tree and steps, with the
flags of all their operations (R206, R207). -/
def Obligations.ReductionsAndScans : Prop :=
  ∀ (s : State) (g : Guard) (op : RedOp) (d : Reg) (a : Src) (t : Option Fmt) (ex : Bool),
    let T := t.getD .i32
    (tyIn t intFmts = true →
      (lanesDo (.redux g op d a t) s g fun h h' =>
        h.fits d (fmtRuns T) → h.changes h' s.cur (h.run d (fmtRuns T)) h.preds h.fpstat
          ∧ h'.holds d.toNat T (wrapTo T (reduced s g op a T h (s.widthOf h))))
      ∧ lanesDo (.scan g op d a t ex) s g fun h h' =>
        h.fits d (fmtRuns T) → h.changes h' s.cur (h.run d (fmtRuns T)) h.preds h.fpstat
          ∧ h'.holds d.toNat T (wrapTo T (reduced s g op a T h (if ex then s.laneOf h else s.laneOf h + 1))))
    ∧ (T.isFloat = true → (op = .add ∨ op = .min ∨ op = .max) →
      (lanesDo (.redux g op d a t) s g fun h h' =>
        let r := treeOver (floatOp op T) (s.widthOf h) (floatLanes s g op a T h)
        h.fits d 1 → h.changes h' s.cur [d.toNat] h.preds (h.fpstat ||| r.2) ∧ h'.holds d.toNat T (wrapTo T (r.1 0)))
      ∧ lanesDo (.scan g op d a t ex) s g fun h h' =>
        let r := scanOver (floatOp op T) (s.widthOf h) (floatLanes s g op a T h)
        let l := s.laneOf h
        h.fits d 1 → h.changes h' s.cur [d.toNat] h.preds (h.fpstat ||| r.2)
          ∧ h'.holds d.toNat T (wrapTo T (if ex then (if l = 0 then floatIdent op T else r.1 (l - 1)) else r.1 l)))

/-! ### Block 0x00: control -/

/-- An issue of one lane r, in state h: where the lane takes part the machine goes on to t, and where it sits the instruction
out it only goes past it. -/
def lane (i : Instr) (s : State) (g : Guard) (r : Ref) (h : Hart) (t : State) : Prop :=
  exec i s = .next (if h.takes g then t else s.setHart r (h.advance s.cur))

/-- NOP and PAD change nothing but the PC; YIELD clears the wave's standing in the choice of issue too; HINT marks the launch;
MOV.id reads the identity registers; WAITPRED goes on once no predecessor runs, and sleeps on its launch-state line before
(R82, R139, R214, R233, R427, R428). -/
def Obligations.PlainControl : Prop :=
  (∀ (s : State) (g : Guard) (label : BitVec 16),
    lanesDo (.nop g) s g (fun h h' => h' = h.advance s.cur)
    ∧ exec (.pad label) s = .next (s.mapLanes fun h => h.advance s.cur)
    ∧ (s.active g ≠ [] → s.cur.bobbin = false → exec (.yield g) s = .next
        ((s.mapLanes fun h => h.advance s.cur).modWave s.cur.core s.cur.member fun v =>
          { v with sched := { v.sched with promoted := none, readySince := none } }))
    ∧ (s.active g ≠ [] → s.cur.bobbin = true → exec (.yield g) s = .next
        ((s.mapLanes fun h => h.advance s.cur).modSlot s.cur.core s.cur.member fun q =>
          { q with sched := { q.sched with promoted := none, readySince := none } })))
  ∧ ∀ (s : State) (g : Guard) (r : Ref) (h : Hart) (l : Launch) (d : Reg) (i : BitVec 4), s.oneLane r h → s.launch? h.launch = some l →
    lane (.hint g) s g r h (({ s with launches := s.launches.set h.launch.toNat { l with hinted := true } } : State).goOn r)
    ∧ lane (.movId g d i) s g r h ((s.modHart r fun k => k.setReg d.toNat (BitVec.setWidth 64
        (if i = 0 then BitVec.ofNat 32 (s.laneOf h) else if i = 1 then BitVec.ofNat 32 l.width else if i = 2 then l.party h.ordinal.toNat
          else if i = 3 then BitVec.ofNat 32 (s.ctxOf r) else if i = 4 then BitVec.ofNat 32 (s.homeId r.core)
          else if i = 5 then BitVec.ofNat 32 r.plane else if i = 6 then BitVec.ofNat 32 r.wslot
          else if i = 7 then l.kind h else l.grp h (i.toNat - 8)))).goOn r)
    ∧ (h.tx.depth = 0 → s.runningPred h = none → lane (.waitpred g) s g r h (s.goOn r))
    ∧ (∀ key p, h.tx.depth = 0 → s.runningPred h = some (key, p) →
        lane (.waitpred g) s g r h (s.formSleepers r.core (s.ctxOf r) [r] [launchState p key]))
    ∧ (h.tx.depth ≠ 0 → lane (.waitpred g) s g r h (s.txAbort r .nonlocal 0))

/-- A transfer to a PC: to the clause there, BAD_CLAUSE where no clause header stands, an overlay miss where its overlay is not
resident (R72, R75, R79). -/
def wentTo (s : State) (r : Ref) (pc : Word) (d : Option Reg) : State :=
  match s.target r.core (s.ctxOf r) pc with
  | .ok => s.modHart r fun k =>
      let k' : Hart := { k with status := .running }
      ((d.map fun d => k'.setReg d.toNat (s.cur.nextPc.setWidth 64)).getD k').enter pc
  | .bad => s.raiseCause r .badClause
  | .miss => s.overlayMiss r pc (.transfer pc (d.map fun d => (d, s.cur.nextPc.setWidth 64)) none)

/-- BRA, CALL and RET and their far forms transfer to their target, a CALL with the next header's PC in its link register; a
target is good exactly where its overlay is resident and the clause map marks it (R72 to R75, R212, R214, R216). -/
def Obligations.DirectTransfers : Prop :=
  ∀ (s : State) (g : Guard) (r : Ref) (h : Hart) (d : Reg) (a : Src) (near : BitVec 16) (far : BitVec 32), s.oneLane r h →
    lane (.bra g near) s g r h (wentTo s r (mkPc (ovlOf h.pc) near) none)
    ∧ lane (.braFar g far) s g r h (wentTo s r far none)
    ∧ lane (.call g d near) s g r h (wentTo s r (mkPc (ovlOf h.pc) near) (some d))
    ∧ lane (.callFar g d far) s g r h (wentTo s r far (some d))
    ∧ lane (.ret g a) s g r h (wentTo s r ((h.src a).setWidth 32) none)
    ∧ ∀ pc, s.target r.core (s.ctxOf r) pc = .ok ↔ ovlOf pc ≠ 0xFFFF ∧ ∃ n o, (s.core r.core).overlay? (s.ctxOf r) (ovlOf pc) = some (n, o)
        ∧ offOf pc % 4 = 0 ∧ 0x40 ≤ offOf pc ∧ offOf pc + 4 ≤ s.imemWord r.core n 8
        ∧ (Memory.get s.mem (imemKey r.core n (s.imemWord r.core n 12 + offOf pc / 32))).getLsbD (offOf pc / 4 % 8) = true

/-- BRX and CALLX go to the entry that the index chooses in the jump table of the lane's overlay, entry 0 for an index past its
end, where a PAD with the table's label stands; anything else is CONTROL_INTEGRITY (R77, R78, R215). -/
def Obligations.IndirectTransfers : Prop :=
  ∀ (s : State) (g : Guard) (r : Ref) (h : Hart) (d : Reg) (jt : BitVec 6) (ix : Src) (n : Nat) (o : OverlaySlot), s.oneLane r h →
    (s.core r.core).overlay? (s.ctxOf r) (ovlOf h.pc) = some (n, o) →
    let off := s.imemWord r.core n (s.imemWord r.core n 0x18 + 4 * jt.toNat)
    let head := s.imemWord r.core n off
    let count := head / 2 ^ 16 % 2 ^ 12
    let i := (h.src ix).toNat
    let pc := BitVec.ofNat 32 (s.imemWord r.core n (off + 4 + 4 * (if i < count then i else 0)))
    ((off = 0 ∨ count = 0) → lane (.brx g jt ix) s g r h (s.raiseCause r .controlIntegrity)
      ∧ lane (.callx g d jt ix) s g r h (s.raiseCause r .controlIntegrity))
    ∧ (off ≠ 0 → count ≠ 0 → ovlOf pc = 0xFFFF → lane (.brx g jt ix) s g r h (s.raiseCause r .badClause)
      ∧ lane (.callx g d jt ix) s g r h (s.raiseCause r .badClause))
    ∧ (off ≠ 0 → count ≠ 0 → ovlOf pc ≠ 0xFFFF → (s.core r.core).overlay? (s.ctxOf r) (ovlOf pc) = none →
      lane (.brx g jt ix) s g r h (s.overlayMiss r pc (.overlay (ovlOf pc))) ∧ lane (.callx g d jt ix) s g r h (s.overlayMiss r pc (.overlay (ovlOf pc))))
    ∧ ∀ m o', off ≠ 0 → count ≠ 0 → ovlOf pc ≠ 0xFFFF → (s.core r.core).overlay? (s.ctxOf r) (ovlOf pc) = some (m, o') →
      let good := s.headerAt r.core m (offOf pc) = true
        ∧ s.imemWord r.core m (offOf pc + 4) = head % 2 ^ 16 * 2 ^ 10 + 0x01 * 4 + 7 * 2 ^ 28
      (good → lane (.brx g jt ix) s g r h (s.modHart r fun k => ({ k with status := .running } : Hart).enter pc)
        ∧ lane (.callx g d jt ix) s g r h (s.modHart r fun k =>
            (({ k with status := .running } : Hart).setReg d.toNat (s.cur.nextPc.setWidth 64)).enter pc))
      ∧ (¬good → lane (.brx g jt ix) s g r h (s.raise r { cause := .controlIntegrity, addr := some (pc.setWidth 48) })
        ∧ lane (.callx g d jt ix) s g r h (s.raise r { cause := .controlIntegrity, addr := some (pc.setWidth 48) }))

/-- A member that a completing seam n releases takes the parent as its seam, and one that is parked there goes on at the header after
its JOIN. -/
def freed (n : BitVec 4) (m : Seam) (h : Hart) : Hart :=
  let h : Hart := { h with scur := m.parent, scv := m.hasp }
  match h.status with
  | .atJoin k next => if k = n then ({ h with status := .running } : Hart).enter next else h
  | _ => h

/-- SEAM acts on each fragment that has taking-part lanes: it opens the fragment's seam with those lanes as MASK and the seam of the
lowest logical lane as PARENT, and they become its members. Where the seam is open already, the lanes parked at it are released
first. Everything else of the fragments stays (R220). -/
def Obligations.SeamOpens : Prop :=
  ∀ (s : State) (g : Guard) (n : BitVec 4) (v : Wave),
    s.cur.bobbin = false → s.wave? s.cur.core s.cur.member = some v → (v.lanes.map Prod.fst).Nodup →
    let seam := fun (v : Wave) (key : Nat) (k : BitVec 4) => (v.frag key).seams.toList.getD k.toNat {}
    let acts := fun (key : Nat) => (s.active g).any fun e => s.fragOf e.2 == key
    (∀ e ∈ s.active g, (seam v (s.fragOf e.2) n).opened = true → (seam v (s.fragOf e.2) n).arr.getLsbD (s.laneOf e.2) = false) →
    ∃ (t : State) (v' : Wave), exec (.seam g n) s = .next t ∧ t.wave? s.cur.core s.cur.member = some v' ∧ t = { s with cores := t.cores }
      ∧ (∀ (key l : Nat) (low : Hart), (l, low) ∈ s.active g → s.fragOf low = key →
          (∀ e ∈ s.active g, s.fragOf e.2 = key → e ≠ (l, low) → s.laneOf low < s.laneOf e.2) →
          ∃ mask : DWord, (∀ i < 64, mask.getLsbD i = (s.active g).any fun e => s.fragOf e.2 == key && s.laneOf e.2 == i)
            ∧ seam v' key n =
              { mask, arr := 0, opened := true, parent := if low.scv && low.scur != n then low.scur else (seam v key n).parent
                hasp := if low.scv then (if low.scur = n then (seam v key n).hasp else true) else false })
      ∧ (∀ key k, (k ≠ n ∨ acts key = false) → seam v' key k = seam v key k)
      ∧ v'.lanes = v.lanes.map fun e =>
          let m := seam v (s.fragOf e.2) n
          let a := if acts (s.fragOf e.2) && m.opened && m.arr.getLsbD (s.laneOf e.2) then freed n m e.2 else e.2
          let b := if (s.active g).any fun x => x.1 == e.1 then ({ a with scur := n, scv := true } : Hart) else a
          (e.1, if s.cur.lanes.contains e.1 then b.advance s.cur else b)

/-- A stop that is pending at a lane parked at a JOIN lands there before anything else issues: pre-emption first, then, with a debugger
attached, a debug stop, in whose place BAD_CLAUSE stands where the JOIN's STOP bit is clear and the lane is in no attempt (R227). -/
def joinStops : Prop :=
  ∀ (s : State) (r : Ref) (h : Hart) (n : BitVec 4) (next : Word), s.hart? r = some h → h.status = .atJoin n next → h.tstate.trapped = false →
    (h.preemptDue = true → s.before r = (s.preemptAbort r).landPreempt r)
    ∧ (∀ code, h.preemptDue = false → h.debugDue = some code → s.attached r = true →
        s.before r = if h.tx.depth = 0 ∧ (s.safePoint r.core (s.ctxOf r) h.pc h.clause h.pos).1 = false then s.stopAt r { cause := .badClause }
          else s.landDebug r h code)
    ∧ (h.preemptDue = false → (h.debugDue = none ∨ s.attached r = false) → s.before r = s)

/-- JOIN parks a member at its seam with the header that follows, where a pending stop lands, and passes anyone else; WAIT holds until its flags are clear;
REP begins its steps, goes past the body when none is left, and takes at most 64; CUT leaves the seams up to its own and
branches (R221, R223, R227, R228, R231). -/
def Obligations.JoinWaitRepCut : Prop := joinStops ∧
  ∀ (s : State) (g : Guard) (r : Ref) (h : Hart) (n : BitVec 4) (mask : BitVec 12) (byReg : Bool) (a : Src) (c near : BitVec 16)
    (far : BitVec 32) (x y z u : BitVec 2), s.oneLane r h →
    (∀ w k, r.agent = .wave w k →
      let key := s.fragOf h
      let m := ((s.wave? r.core w).map fun v => (v.frag key).seams.toList.getD n.toNat {}).getD {}
      exec (.join g n) s = .next (if h.takes g = false then s.setHart r (h.advance s.cur)
        else State.completeSeams (if m.opened && m.mask.getLsbD (s.laneOf h) then
            (s.modWave r.core w fun v => v.setFrag key ((v.frag key).modSeam n fun q =>
              { q with arr := setBits q.arr (s.laneOf h) 1 1 })).modHart r fun h => { h with status := .atJoin n s.cur.nextPc }
          else s.goOn r) r.core w key))
    ∧ ((∀ f < 12, mask.getLsbD f = true → h.doneCount f = 0) → lane (.wait g mask) s g r h (s.goOn r))
    ∧ ((∃ f < 12, mask.getLsbD f = true ∧ h.doneCount f ≠ 0) →
        lane (.wait g mask) s g r h (s.modHart r fun k => { k with status := .held (.waitFlags mask) }))
    ∧ (let count := if byReg then (h.src a).toNat else c.toNat
       lane (.rep g byReg a c x y z u) s g r h (if 64 < count then s.raiseCause r .illegalModifier
        else if count ≤ h.repstep.toNat then s.modHart r fun k => Hart.past { k with repstep := 0, rep := none } s.cur
        else s.modHart r fun k => { k with rep := some count }))
    ∧ ∀ (pc : Word) (i : Instr), (i = .cut g n near ∧ pc = mkPc (ovlOf h.pc) near ∨ i = .cutFar g n far ∧ pc = far) →
        (s.target r.core (s.ctxOf r) pc = .ok →
          lane i s g r h ((s.cutSeams r h n).modHart r fun k => ({ k with status := .running } : Hart).enter pc))
        ∧ (s.target r.core (s.ctxOf r) pc = .bad → lane i s g r h (s.raiseCause r .badClause))
        ∧ (s.target r.core (s.ctxOf r) pc = .miss → lane i s g r h (s.overlayMiss r pc (.transfer pc none (some n))))

/-- A seam whose members have all arrived closes and releases them: each takes the parent as its seam, and those parked at it
go on at the header after their JOIN. A seam with members that have not arrived stays as it is (R222). -/
def Obligations.SeamCompletes : Prop :=
  ∀ (s : State) (core w key : Nat) (n : BitVec 4) (v : Wave), s.wave? core w = some v →
    let m := (v.frag key).seams.toList.getD n.toNat {}
    (m.opened = false → s.completeSeam core w key n false = s)
    ∧ (m.mask ≠ 0 → m.arr ≠ m.mask → s.completeSeam core w key n false = s)
    ∧ (m.opened = true → m.arr ≠ 0 → m.arr = m.mask → ∃ v', (s.completeSeam core w key n false).wave? core w = some v'
        ∧ (v'.frag key).seams.toList.getD n.toNat {} = { m with opened := false, arr := 0 }
        ∧ v'.lanes = v.lanes.map fun e => if s.fragOf e.2 == key && m.arr.getLsbD (s.laneOf e.2) then
            (e.1, freed n m e.2) else e)

/-- EXIT waits for the lane's flags and then ends the thread: its lane is empty, its launch counts one thread less, memory is
as it was; a bobbin halts and keeps its TSTATE (R232, R238, R255). -/
def Obligations.ExitEndsThread : Prop :=
  ∀ (s : State) (g : Guard) (r : Ref) (h : Hart), s.oneLane r h → h.takes g = true →
    (h.doneClear = false → exec (.exit g) s = .next (s.modHart r fun k => { k with status := .settling .exit }))
    ∧ (h.doneClear = true → ∀ k, r.agent = .bobbin k → exec (.exit g) s = .next (s.modHart r fun k => { k with status := .halted }))
    ∧ (h.doneClear = true → ∀ w k, r.agent = .wave w k → ∃ t, exec (.exit g) s = .next t ∧ t.hart? r = none ∧ t.mem = s.mem
        ∧ ∀ l, s.launch? h.launch = some l → t.launch? h.launch = some { l with live := l.live - 1 })

/-- The entries of a shuttle, the head first. -/
def shuttleList (q : Slot) : List DWord := (List.range q.count).map fun i => q.entries.toList.getD ((q.head.toNat + i) % 64) 0

/-- DQGET of several lanes pops one entry for the whole issue, and each taking-part lane receives it (R244). -/
def dqgetPopsOnce : Prop :=
  ∀ (s : State) (g : Guard) (v : Wave) (k : Nat) (q : Slot) (d : Reg) (i : Instr) (f : Hart → Hart),
    s.cur.bobbin = false → s.wave? s.cur.core s.cur.member = some v → (v.lanes.map Prod.fst).Nodup → s.slotOf? s.cur.core v.ctx = some (k, q) →
    (∀ e ∈ s.lanes, e.2.status = .running ∧ e.2.tx.depth = 0) → s.active g ≠ [] → q.count ≠ 0 →
    (i = .dqget g d ∧ f = (fun h => h.setReg64 d.toNat q.shuttleHead)
      ∨ i = .dqgetLo g d ∧ f = fun h => h.setReg d.toNat ((q.shuttleHead.setWidth 32).setWidth 64)) →
    ∃ t, exec i s = .next t ∧ t.slot? s.cur.core k = some q.pop ∧ t.mem = s.mem
      ∧ ∀ e ∈ s.lanes, t.hart? (s.curRef e.1 e.2) = some ((if e.2.takes g then f e.2 else e.2).advance s.cur)

/-- The shuttle is a queue of 64: DQPUT appends and says so, DQGET takes the head for every lane of the issue in one pop, or
sleeps on an empty one, DQPEEK reads it (R242 to R245). -/
def Obligations.ShuttleIsAQueue : Prop := dqgetPopsOnce ∧
  (∀ (q : Slot) (v : DWord), (q.count < 64 → shuttleList (q.put v) = shuttleList q ++ [v])
    ∧ (0 < q.count → shuttleList q.pop = (shuttleList q).tail ∧ (shuttleList q).head? = some q.shuttleHead))
  ∧ ∀ (s : State) (g : Guard) (r : Ref) (h : Hart) (q : Slot) (pd : BitVec 3) (a : Src) (d : Reg), s.oneLane r h → s.slotFor? r = some q →
    let k := s.slotNo r
    let line : Line := ⟨shuttleLine r.core k, 0, 5, q.ctx⟩
    let head := if q.count = 0 then 0 else q.shuttleHead
    (q.count = 64 → lane (.dqput g pd a) s g r h ((s.modHart r fun h => h.setPred pd false).goOn r))
    ∧ (q.count ≠ 64 → lane (.dqput g pd a) s g r h
        ((((s.modSlot r.core k fun q => q.put (h.src a)).lineNotice r.core line).modHart r fun h => h.setPred pd true).goOn r))
    ∧ lane (.dqpeek g d pd) s g r h ((s.setHart r ((h.setReg64 d.toNat head).setPred pd (q.count != 0))).goOn r)
    ∧ lane (.dqpeekLo g d pd) s g r h ((s.setHart r ((h.setReg d.toNat ((head.setWidth 32).setWidth 64)).setPred pd (q.count != 0))).goOn r)
    ∧ (h.tx.depth ≠ 0 → lane (.dqget g d) s g r h (s.txAbort r .nonlocal 0) ∧ lane (.dqgetLo g d) s g r h (s.txAbort r .nonlocal 0))
    ∧ (h.tx.depth = 0 → q.count = 0 → lane (.dqget g d) s g r h (s.formSleepers r.core (s.ctxOf r) [r] [line])
        ∧ lane (.dqgetLo g d) s g r h (s.formSleepers r.core (s.ctxOf r) [r] [line]))
    ∧ (h.tx.depth = 0 → q.count ≠ 0 →
        lane (.dqget g d) s g r h (((s.modSlot r.core k Slot.pop).setHart r (h.setReg64 d.toNat q.shuttleHead)).goOn r)
        ∧ lane (.dqgetLo g d) s g r h (((s.modSlot r.core k Slot.pop).setHart r
            (h.setReg d.toNat ((q.shuttleHead.setWidth 32).setWidth 64))).goOn r))

/-! ### Block 0x80: loads, stores, migration, fibres -/

/-- The load that an instruction makes where its element size and register run are in order (R315, R319, R321, R322, R164). -/
def loadForm (s : State) (r : Ref) (h : Hart) (g : Guard) (i : Instr) (q : Load) : Prop :=
  (∃ d bolt ix t sx sl, i = .ld g d bolt ix t sx sl ∧ s.elemFault h (s.boltOf r h bolt) t (.reg d) 1 false = none
      ∧ q = { d := d.toNat, bolt := s.boltOf r h bolt, ix := low h ix, signed := signedOf t, sl, sx })
    ∨ (∃ d bolt ix n t sx sl, i = .ldq g d bolt ix n t sx sl ∧ s.elemFault h (s.boltOf r h bolt) t (.reg d) n.toNat true = none
      ∧ q = { d := d.toNat, bolt := s.boltOf r h bolt, ix := low h ix, n := n.toNat, signed := signedOf t, sl, sx })
    ∨ (∃ d bolt ix t sx sl, i = .ldro g d bolt ix t sx sl ∧ s.elemFault h (s.boltOf r h bolt) t (.reg d) 1 false = none
      ∧ q = { d := d.toNat, bolt := s.boltOf r h bolt, ix := low h ix, signed := signedOf t, sl, sx, ro := true })
    ∨ ∃ d pb fi sgn sx sl, (i = .fnext g d pb fi sgn sx sl ∨ i = .fpeek g d pb fi sgn sx sl)
      ∧ (h.fibre fi).opened = true ∧ (h.fibre fi).count ≠ 0
      ∧ s.elemFault h (s.boltOf r h (h.fibre fi).bolt) none (.reg d) 1 false = none
      ∧ q = { d := d.toNat, bolt := s.boltOf r h (h.fibre fi).bolt, ix := (h.fibre fi).pos.toNat, signed := sgn, sl, sx
              cursor := some (fi, if i = .fnext g d pb fi sgn sx sl then
                { h.fibre fi with pos := (h.fibre fi).pos + (h.fibre fi).step.signExtend 32, count := (h.fibre fi).count - 1 } else h.fibre fi, pb) }

/-- The lane's result is on its way under its flag, and the lane has gone past the instruction; memory, every register and
every other thread are as they were. -/
def loadedTo (s t : State) (r : Ref) (h : Hart) (q : Load) (vals : List (Option (List Byte × Bool))) : Prop :=
  t.hart? r = some ((Hart.setCursor (match s.cur.flag with | none => h | some f => h.setDone f (h.doneCount f + 1)) q.cursor).advance s.cur)
    ∧ (∀ r', (r'.core, r'.agent) ≠ (r.core, r.agent) → t.hart? r' = s.hart? r')
    ∧ t.mem = s.mem
    ∧ ∃ p w, t.packets = s.packets ++ [p] ∧ p.place = .arrived ∧ p.body = .result w ∧ w.ref = r ∧ w.flag = s.cur.flag
        ∧ w.writes = (q.writes h.isBobbin vals).1 ∧ w.poison = (q.writes h.isBobbin vals).2

/-- The other attempts that an access of h meets on a line. -/
def rivals (s : State) (h : Hart) (phys : Nat) (write : Bool) : List (Ref × Hart) :=
  (s.attemptsOn phys write).filter fun e => e.2.tid != h.tid

/-- The state with those attempts aborted with CONFLICT. -/
def rivalsAborted (s : State) (l : List (Ref × Hart)) : State := l.foldl (fun s e => s.txAbort e.1 .conflict 0) s

/-- A read set with a line added. -/
def addLine (l : List Line) (x : Line) : List Line := if l.any fun y => y.phys == x.phys then l else l ++ [x]

/-- Loads inside an attempt: each byte as the attempt's own write set has it, else as memory has it, and its line in the read set;
the older of two attempts stays, a poisoned byte aborts with FAULT, a 65th line with CAPACITY (R343, R346). -/
def attemptLoads (s : State) (i : Instr) (r : Ref) (h : Hart) (q : Load) (as : List (Option Nat)) : Prop :=
  (∀ a loc s', as = [some a] → s.locate r h q.bolt.space a q.bolt.width false q.sl q.sx = (some loc, s') →
    let others := rivals s' h loc.line.phys false
    let seen := (List.range q.bolt.width).map fun j =>
      h.tx.byteAt (loc.key + j) (Memory.get s.mem (loc.key + j), s.poison.contains (granule (loc.key + j)))
    let reads := addLine h.tx.reads loc.line
    ((∃ e ∈ others, e.2.older h = true) → ∃ t, exec i s = .next t ∧ t.hart? r = some (h.abort .conflict 0) ∧ t.mem = s.mem)
    ∧ ((∀ e ∈ others, e.2.older h = false) → (∃ b ∈ seen, b.2 = true) → s.safePoint r.core (s.ctxOf r) h.pc h.clause h.pos ≠ (true, none) →
        ∃ t, exec i s = .next t ∧ t.hart? r = some (h.abort .fault 0x1A) ∧ t.mem = s.mem)
    ∧ ((∀ e ∈ others, e.2.older h = false) → (∀ b ∈ seen, b.2 = false) → h.tx.reads.length ≤ 64 →
        (64 < reads.length → ∃ t, exec i s = .next t ∧ t.hart? r = some (h.abort .capacity 0) ∧ t.mem = s.mem)
        ∧ (reads.length ≤ 64 → ∃ t, exec i s = .next t
          ∧ loadedTo (rivalsAborted s others) t r { h with tx := { h.tx with reads } } q [some (seen.map Prod.fst, false)])))
  ∧ ∀ locs s', s.locateAll r h q.bolt.space q.bolt.width false q.sl q.sx as = (some locs, s') →
    (∀ l a, some (l, a) ∈ locs → rivals s' h l.line.phys false = [] ∧ ∀ j < q.bolt.width,
      (h.tx.byteAt (l.key + j) (Memory.get s.mem (l.key + j), s.poison.contains (granule (l.key + j)))).2 = false) →
    let reads := (locs.filterMap id).foldl (fun acc e => addLine acc e.1.line) h.tx.reads
    reads.length ≤ 64 → ∃ t, exec i s = .next t ∧ loadedTo s t r { h with tx := { h.tx with reads } } q (locs.map fun l => l.map fun l =>
      ((List.range q.bolt.width).map fun j => (h.tx.byteAt (l.1.key + j) (Memory.get s.mem (l.1.key + j), false)).1, false))

/-- A load of global memory at TRAPPED = 1 leaves by request to the home of its first element and holds its lane; the flag counts it,
and the zeros of suppressed elements are written when the reply comes, since a request that fails has no effect on any element (R63,
R274, R321, R557). -/
def requestedLoad (s : State) (i : Instr) (r : Ref) (h : Hart) (q : Load) (as : List (Option Nat)) : Prop :=
  ∀ a rest leaf s', as.filterMap id = a :: rest → s.walk r h a false = (some leaf, s') → (∀ v ∈ rest, (s.homeLeaf (s.ctxOf r) v).isSome = true) →
    let k : Hart := { h with status := .acks 1 }
    ∃ t p acc, exec i s = .next t ∧ t.mem = s.mem
      ∧ t.hart? r = some (match s.cur.flag with | none => k | some f => k.setDone f (k.doneCount f + 1))
      ∧ (∀ r', (r'.core, r'.agent) ≠ (r.core, r.agent) → t.hart? r' = s.hart? r')
      ∧ t.packets = s.packets ++ [p] ∧ p.home = leaf.home ∧ p.src = s.homeId r.core ∧ p.slack = s.slackClass r q.sl ∧ p.body = .read acc
      ∧ acc.dest.ref = r ∧ acc.dest.flag = s.cur.flag ∧ acc.bytes = q.bolt.width ∧ acc.write = false ∧ acc.held = true ∧ acc.overlay = !q.ro
      ∧ acc.pc = h.pc ∧ acc.party = s.partyOf h
      ∧ acc.zeros = (as.mapIdx fun j a => if a.isSome then [] else
          placeElem h.isBobbin (q.d + j * q.per h.isBobbin) q.bolt.width q.signed 0).flatten
      ∧ acc.parts.map (fun x => (x.va.toNat, x.reg)) = (as.mapIdx fun j a => a.map fun a => (a % 2 ^ 48, q.d + j * q.per h.isBobbin)).filterMap id

/-- Loads deliver the bytes of near memory, or of their home page with the party's own plain stores there over them, a read-only page's
too, zero for a suppressed element, and change no memory. LDRO of a read-only page sees memory alone. Inside an attempt the attempt's own writes stand over
memory, and at TRAPPED = 1 a global load goes by request (R274, R281, R291, R315, R316, R319, R321, R322, R343, R346). -/
def Obligations.LoadsDeliver : Prop :=
  ∀ (s : State) (g : Guard) (r : Ref) (h : Hart) (i : Instr) (q : Load) (as : List (Option Nat)),
    s.oneLane r h → h.takes g = true → s.sampleTag g = (none, s) → loadForm s r h g i q →
    s.elems r q.bolt .load q.ix q.n = .ok as →
    (h.tx.depth = 0 → (q.bolt.space ≠ 0 ∨ ∀ a ∈ as, a = none) → (∀ a, some a ∈ as → s.scored (r.key (s.ctxOf r) q.bolt.space a) = false) →
      ∃ t, exec i s = .next t ∧ loadedTo s t r h q (as.map fun a => a.map fun a =>
        let k := r.key (s.ctxOf r) q.bolt.space a
        (Memory.getBytes s.mem k q.bolt.width, s.poisoned k q.bolt.width)))
    ∧ (∀ locs s', h.tx.depth = 0 → q.bolt.space = 0 → h.tstate.trapped = false → q.ro = false → (∃ a ∈ as, a ≠ none) →
      s.roElsewhere (s.ctxOf r) ((as.filterMap id).headD 0) = false →
      s.locateAll r h 0 q.bolt.width false q.sl q.sx as = (some locs, s') →
      ∃ t, exec i s = .next t ∧ loadedTo s t r h q (locs.map fun l => l.map fun l =>
        let b := s'.plainBytes (l.1.key / 2 ^ 32) (s.ctxOf r) (s.partyOf h) l.2 l.1.key q.bolt.width
        (b.map Prod.fst, b.any Prod.snd)))
    ∧ (∀ a leaf s' l s'', h.tx.depth = 0 → q.bolt.space = 0 → h.tstate.trapped = false → q.ro = true → as = [some a] →
      s.walk r h a false = (some leaf, s') → leaf.ro = true → s.onChip leaf.home = true → s'.locate r h 0 a q.bolt.width false q.sl q.sx = (some l, s'') →
      ∃ t, exec i s = .next t ∧ loadedTo s t r h q [some (Memory.getBytes s.mem l.key q.bolt.width, s.poisoned l.key q.bolt.width)])
    ∧ (h.tx.depth ≠ 0 → (q.bolt.space ≠ 0 ∨ h.tstate.trapped = false) → (∃ a ∈ as, a ≠ none) → attemptLoads s i r h q as)
    ∧ (q.bolt.space = 0 → h.tstate.trapped = true → requestedLoad s i r h q as)

/-- The store that an instruction makes where its element size and register run are in order. -/
def storeForm (s : State) (r : Ref) (h : Hart) (g : Guard) (i : Instr) (q : Store) : Prop :=
  (∃ bolt ix b t sx sl, i = .st g bolt ix b t sx sl ∧ s.elemFault h (s.boltOf r h bolt) t b 1 false = none
      ∧ q = { bolt := s.boltOf r h bolt, ix := low h ix, src := b, sl, sx })
    ∨ ∃ bolt ix b n t sx sl, i = .stq g bolt ix b n t sx sl ∧ s.elemFault h (s.boltOf r h bolt) t b n.toNat true = none
      ∧ q = { bolt := s.boltOf r h bolt, ix := low h ix, n := n.toNat, src := b, sl, sx }

/-- The bytes of one lane's near store, element after element; the hoop area keeps its bytes (R359). -/
def nearWritten (s : State) (r : Ref) (h : Hart) (q : Store) (as : List (Option Nat)) (m : List Host.Cell) : List Host.Cell :=
  (as.mapIdx fun j a => (a, (q.value h j).1)).foldl (fun m e => match e.1 with
    | none => m
    | some a =>
      let k := r.key (s.ctxOf r) q.bolt.space a
      if inHoops k then m else Memory.setBytes m k (bytesOfNat q.bolt.width e.2)) m

/-- The lanes of one issue store to near memory one after another, the lowest physical lane first (R320). -/
def lanesStoreInOrder : Prop :=
  ∀ (s : State) (g : Guard) (i : Instr) (v : Wave) (q : Nat × Hart → Store) (as : Nat × Hart → List (Option Nat)),
    s.cur.bobbin = false → s.wave? s.cur.core s.cur.member = some v → (v.lanes.map Prod.fst).Pairwise (· < ·) →
    (∀ e ∈ s.lanes, e.2.status = .running ∧ e.2.tx.depth = 0) → s.active g ≠ [] → s.sampleTag g = (none, s) →
    (∀ e ∈ s.active g, let r := s.curRef e.1 e.2
      storeForm s r e.2 g i (q e) ∧ (q e).bolt.space ≠ 0 ∧ s.elems r (q e).bolt .store (q e).ix (q e).n = .ok (as e)
        ∧ ∀ a, some a ∈ as e → s.scored (r.key (s.ctxOf r) (q e).bolt.space a) = false) →
    ∃ t, exec i s = .next t ∧ (∀ e ∈ s.lanes, t.hart? (s.curRef e.1 e.2) = some (e.2.advance s.cur))
      ∧ t.mem = (s.active g).foldl (fun m e => nearWritten s (s.curRef e.1 e.2) e.2 (q e) (as e) m) s.mem

/-- Stores to near memory write the bytes of their elements, in order, at the elements' places and nowhere else; a hoop's area
keeps its bytes; a suppressed element stores nothing (R281, R316, R320, R321, R359). -/
def Obligations.NearStoresPerform : Prop := lanesStoreInOrder ∧
  ∀ (s : State) (g : Guard) (r : Ref) (h : Hart) (i : Instr) (q : Store) (as : List (Option Nat)),
    s.oneLane r h → h.takes g = true → s.sampleTag g = (none, s) → storeForm s r h g i q → h.tx.depth = 0 → q.bolt.space ≠ 0 →
    s.elems r q.bolt .store q.ix q.n = .ok as → (∀ a, some a ∈ as → s.scored (r.key (s.ctxOf r) q.bolt.space a) = false) →
    ∃ t, exec i s = .next t ∧ t.hart? r = some (h.advance s.cur)
      ∧ t.mem = nearWritten s r h q as s.mem
      ∧ ∀ x, (∀ a, some a ∈ as → ¬(r.key (s.ctxOf r) q.bolt.space a ≤ x ∧ x < r.key (s.ctxOf r) q.bolt.space a + q.bolt.width)) →
          Memory.get t.mem x = Memory.get s.mem x

/-- After a plain store a party reads the bytes it stored, and every other party reads what it read before (R288, R291). -/
def partySeesItsStores : Prop :=
  ∀ (s : State) (r : Ref) (h : Hart) (poisoned : Bool) (va e v : Nat), e ≤ 4 → va % 2 ^ e = 0 → va + 2 ^ e ≤ 2 ^ 48 →
    let t := s.baste r h poisoned va (2 ^ e) v
    (∀ i m, i < 2 ^ e → t.plainByte r.core (s.ctxOf r) (s.partyOf h) (va + i) m = (BitVec.ofNat 8 (v / 256 ^ i), poisoned))
    ∧ ∀ core ctx party x m, ((core, ctx, party) ≠ (r.core, s.ctxOf r, s.partyOf h) ∨ x < va ∨ va + 2 ^ e ≤ x) →
        t.plainByte core ctx party x m = s.plainByte core ctx party x m

/-- Stores inside an attempt put their bytes into its write set and change no memory; the older of two attempts stays, and a
17th line aborts with CAPACITY (R343, R346). -/
def attemptStores (s : State) (i : Instr) (r : Ref) (h : Hart) (q : Store) (as : List (Option Nat)) : Prop :=
  (∀ a loc s', as = [some a] → s.locate r h q.bolt.space a q.bolt.width true q.sl q.sx = (some loc, s') →
    (∃ e ∈ rivals s' h loc.line.phys true, e.2.older h = true) →
    ∃ t, exec i s = .next t ∧ t.hart? r = some (h.abort .conflict 0) ∧ t.mem = s.mem)
  ∧ ∀ locs s', s.locateAll r h q.bolt.space q.bolt.width true q.sl q.sx as = (some locs, s') →
    (∀ l a, some (l, a) ∈ locs → ∀ e ∈ rivals s' h l.line.phys true, e.2.older h = false) →
    let others := ((locs.filterMap id).map fun e => rivals s' h e.1.line.phys true).flatten
    let writes := h.tx.writes ++ (locs.mapIdx fun j l => match l with
      | none => []
      | some l => (bytesOfNat q.bolt.width (q.value h j).1).mapIdx fun n b => (⟨l.1.line, l.1.key + n, b, (q.value h j).2⟩ : TxWrite)).flatten
    let tx : Tx := { h.tx with writes }
    (h.tx.wlines.length ≤ 16 → 16 < tx.wlines.length → ∃ t, exec i s = .next t ∧ t.hart? r = some (h.abort .capacity 0) ∧ t.mem = s.mem)
    ∧ (tx.wlines.length ≤ 16 → ∃ t, exec i s = .next t ∧ t.hart? r = some (({ h with tx } : Hart).advance s.cur) ∧ t.mem = s.mem
      ∧ (∀ e ∈ others, t.hart? e.1 = some (e.2.abort .conflict 0))
      ∧ ∀ r', (r'.core, r'.agent) ≠ (r.core, r.agent) → (∀ e ∈ others, (e.1.core, e.1.agent) ≠ (r'.core, r'.agent)) → t.hart? r' = s.hart? r')

/-- A store to global memory at TRAPPED = 1 leaves by request with its bytes and holds its lane (R274, R557). -/
def requestedStore (s : State) (i : Instr) (r : Ref) (h : Hart) (q : Store) (as : List (Option Nat)) : Prop :=
  ∀ a rest leaf s', as.filterMap id = a :: rest → s.walk r h a true = (some leaf, s') → (∀ v ∈ rest, (s.homeLeaf (s.ctxOf r) v).isSome = true) →
    ∃ t p acc, exec i s = .next t ∧ t.mem = s.mem ∧ t.hart? r = some { h with status := .acks 1 }
      ∧ (∀ r', (r'.core, r'.agent) ≠ (r.core, r.agent) → t.hart? r' = s.hart? r')
      ∧ t.packets = s.packets ++ [p] ∧ p.home = leaf.home ∧ p.src = s.homeId r.core ∧ p.slack = s.slackClass r q.sl ∧ p.body = .read acc
      ∧ acc.dest.ref = r ∧ acc.bytes = q.bolt.width ∧ acc.write = true ∧ acc.held = true ∧ acc.pc = h.pc ∧ acc.party = s.partyOf h
      ∧ acc.parts.map (fun x => (x.va.toNat, x.data)) = (as.mapIdx fun j a => a.map fun a => (a % 2 ^ 48, (q.value h j).1)).filterMap id

/-- What a store inside an attempt, and a global store at TRAPPED = 1, do (R274, R343, R346, R557). -/
def specialStores : Prop :=
  ∀ (s : State) (g : Guard) (r : Ref) (h : Hart) (i : Instr) (q : Store) (as : List (Option Nat)),
    s.oneLane r h → h.takes g = true → s.sampleTag g = (none, s) → storeForm s r h g i q →
    s.elems r q.bolt .store q.ix q.n = .ok as → (∃ a ∈ as, a ≠ none) →
    (h.tx.depth ≠ 0 → (q.bolt.space ≠ 0 ∨ h.tstate.trapped = false) → attemptStores s i r h q as)
    ∧ (q.bolt.space = 0 → h.tstate.trapped = true → requestedStore s i r h q as)

/-- Address, bytes, value and poison of the basting entries of a plain store: one for an element, two for one of 16 bytes (R288). -/
def bastedPieces (q : Store) (h : Hart) (as : List (Option Nat)) : List (Nat × Nat × Nat × Bool) :=
  (as.mapIdx fun j a => match a with
    | none => []
    | some a =>
      let v := (q.value h j).1 % 2 ^ (8 * q.bolt.width)
      if q.bolt.width = 16 then [(a, 8, v % 2 ^ 64, (q.value h j).2), (a + 8, 8, v / 2 ^ 64, (q.value h j).2)]
      else [(a, q.bolt.width, v, (q.value h j).2)]).flatten

/-- A plain store to a page of the core's own enters its basting buffer, each element in order, 16 bytes as two entries, and
changes no memory; without room for all it raises BASTE_FULL; from then on its party, and no other, reads the bytes it stored. A store
inside an attempt enters its write set, and one at TRAPPED = 1 goes by request (R274, R288, R290, R320, R343, R346). -/
def Obligations.PlainStoresBaste : Prop := partySeesItsStores ∧ specialStores ∧
  ∀ (s : State) (g : Guard) (r : Ref) (h : Hart) (i : Instr) (q : Store) (as : List (Option Nat)) (locs : List (Option (Loc × Nat))) (s' : State),
    s.oneLane r h → h.takes g = true → s.sampleTag g = (none, s) → storeForm s r h g i q → h.tx.depth = 0 → h.tstate.trapped = false →
    q.bolt.space = 0 → s.elems r q.bolt .store q.ix q.n = .ok as → (∃ a ∈ as, a ≠ none) →
    s.locateAll r h 0 q.bolt.width true q.sl q.sx as = (some locs, s') → (∀ l a, some (l, a) ∈ locs → ∃ n k, l = .home n k) →
    let entries := bastedPieces q h as
    let n := entries.length
    (s'.basteRoom r.core n = false → exec i s = .next (s'.raise r (globalStop .basteFull ((as.filterMap id).headD 0) true (s'.homeId r.core))))
    ∧ ((s'.core r.core).buffer.length + n ≤ 16384 → (∀ e ∈ ((s'.core r.core).log ++ (s'.core r.core).buffer).head?,
        (s'.core r.core).seq.toNat - e.seq.toNat + n < 2 ^ 30 ∧ e.seq.toNat ≤ (s'.core r.core).seq.toNat) → (s'.core r.core).seq.toNat + n < 2 ^ 32 →
      ∃ t, exec i s = .next t ∧ t.hart? r = some (h.advance s.cur) ∧ t.mem = s.mem ∧ (t.core r.core).log = (s'.core r.core).log
        ∧ (t.core r.core).seq = (s'.core r.core).seq + BitVec.ofNat 32 n
        ∧ (t.core r.core).buffer = (s'.core r.core).buffer ++
            entries.mapIdx fun k e =>
              { addr := BitVec.ofNat 48 e.1, esize := BitVec.ofNat 3 (Nat.log2 e.2.1), held := false, ctx := s.ctxOf r
                party := s.partyOf h, ovl := ovlOf h.pc, ord := s.ordOf r h, seq := (s'.core r.core).seq + BitVec.ofNat 32 k
                data := BitVec.ofNat 64 (e.2.2.1 * 256 ^ (e.1 % 8)), poisoned := e.2.2.2 })

/-- How a global access of a lane is routed: a walk that finds no leaf raises HOME_MAP_MISS at the lane; a pinned thread reads read-only pages only; an attempt
stays on its core; an access waits behind the thread's own earlier request to its element (how is the model's, log 70) and while its page
moves; a page that lives elsewhere is reached by migrating, a read-only one read through the caches where the lane is (R23, R285,
R318, R343, R451). -/
def Obligations.GlobalAccessRoutes : Prop :=
  ∀ (s s' : State) (r : Ref) (h : Hart) (va n : Nat) (write : Bool) (sl : BitVec 3) (sx : Bool) (leaf : Leaf), s.hart? r = some h →
    (∀ missed s1, s.tlbLookup r.core (s.ctxOf r) h.launch.toNat va = (none, missed, s1) → s.missCause (s.ctxOf r) va = .homeMapMiss →
      s.locate r h 0 va n write sl sx = (none, ((if missed then s1.event r.core (s.ctxOf r) 0x10 1 h.tstate.priv else s1).raise r
        { cause := .homeMapMiss, addr := some (BitVec.ofNat 48 va), write, space := 0, home := s.homeId r.core })))
    ∧ (s.walk r h va write = (some leaf, s') →
      let here := leaf.home == s.homeId r.core
      let read := leaf.ro && !write
      (s'.pinned h = true → read = false → s.locate r h 0 va n write sl sx = (none, s'.raise r (globalStop .pinnedGlobal va write leaf.home)))
      ∧ (¬(s'.pinned h = true ∧ read = false) → h.tx.depth ≠ 0 → here = false →
          s.locate r h 0 va n write sl sx = (none, s'.txAbort r .nonlocal 0))
      ∧ (s'.pinned h = false → h.tx.depth = 0 → here = false → read = false →
          s.locate r h 0 va n write sl sx = (none, s'.migrate r leaf.home sl sx va))
      ∧ (¬(s'.pinned h = true ∧ read = false) → (h.tx.depth = 0 ∨ here = true) → (here = true ∨ read = true) →
          s'.requestOut h.tid (s.ctxOf r) va n = true → s.locate r h 0 va n write sl sx = (none, s'.hold r (.ordered va n)))
      ∧ (¬(s'.pinned h = true ∧ read = false) → (h.tx.depth = 0 ∨ here = true) → (here = true ∨ read = true) →
          s'.requestOut h.tid (s.ctxOf r) va n = false → s'.rangeLocked (s.ctxOf r) va n write = false →
          s'.firstForwarded h.tid (s.ctxOf r) va = false → s'.homeCheck (s.ctxOf r) va write leaf = .moving →
          s.locate r h 0 va n write sl sx = (none, (s'.hold r (.pageMove (some va) s'.next)).bump))
      ∧ (¬(s'.pinned h = true ∧ read = false) → (h.tx.depth = 0 ∨ here = true) → (here = true ∨ read = true) →
          s'.requestOut h.tid (s.ctxOf r) va n = false → s'.rangeLocked (s.ctxOf r) va n write = false → s'.firstForwarded h.tid (s.ctxOf r) va = false →
          ∀ dpa, s'.homeCheck (s.ctxOf r) va write leaf = .ok dpa →
          s.locate r h 0 va n write sl sx = (if read then (some (.cached ⟨dpa / 64, va / 64, 0, s.ctxOf r⟩ dpa), s'.roCost r h dpa)
            else (some (.home ⟨dpa / 64, va / 64, 0, s.ctxOf r⟩ dpa), s'))))

/-- MIGR moves a roving thread to the home of the element and otherwise goes on; PREF changes no register and no memory; the
fibre instructions set, test and close a cursor, and an empty one delivers zero and false (R161 to R166, R323, R324). What PREF touches, that it drops its
access on a fault, and MIGR at TRAPPED = 1 and after its departure are the model's choices (logs 14, 15). -/
def Obligations.MigrationPrefetchFibres : Prop :=
  (∀ (s : State) (g : Guard) (r : Ref) (h : Hart) (bolt : BitVec 6) (ix : Src) (sx : Bool) (sl : BitVec 3) (va : Nat), s.oneLane r h →
    h.takes g = true →
    let b := s.boltOf r h bolt
    let migr := exec (.migr g bolt ix sx sl) s
    (h.tx.depth ≠ 0 → migr = .next (s.txAbort r .nonlocal 0))
    ∧ (h.tx.depth = 0 → s.spot r b (low h ix) .move = .suppressed → migr = .next (s.goOn r))
    ∧ (h.tx.depth = 0 → s.spot r b (low h ix) .move = .at va → (b.space ≠ 0 ∨ h.arrived = true) → migr = .next (s.goOn r))
    ∧ (∀ leaf s', h.tx.depth = 0 → s.spot r b (low h ix) .move = .at va → b.space = 0 → h.arrived = false → s.walk r h va false = (some leaf, s') →
      migr = .next (if h.tstate.trapped then s'.goOn r else if s'.pinned h then s'.raise r (globalStop .pinnedGlobal va false leaf.home)
        else if leaf.home = s'.homeId r.core then s'.goOn r else s'.migrate r leaf.home sl sx va))
    ∧ (b.malformed = false → (b.extent ≤ low h ix ∧ b.btrap = false ∨ low h ix < b.extent ∧ Need.load.ok b.access = true) →
      ∃ t, exec (.pref g bolt ix sl) s = .next t ∧ t.hart? r = some (h.advance s.cur) ∧ t.mem = s.mem ∧ t.packets = s.packets
        ∧ ∀ r', (r'.core, r'.agent) ≠ (r.core, r.agent) → t.hart? r' = s.hart? r'))
  ∧ (∀ (s : State) (g : Guard) (fi : BitVec 1) (bolt : BitVec 6) (ix b : Src) (step : BitVec 16) (pd : BitVec 3),
    (lanesDo (.fopen g fi bolt ix b step) s g fun h h' =>
      h' = (h.setFibre fi { pos := BitVec.ofNat 32 (low h ix), count := BitVec.ofNat 32 (low h b), step, bolt, opened := true }).advance s.cur)
    ∧ (lanesDo (.fend g pd fi) s g fun h h' => h' = (h.setPred pd (!((h.fibre fi).opened && (h.fibre fi).count != 0))).advance s.cur)
    ∧ lanesDo (.fclose g fi) s g fun h h' => h' = (h.setFibre fi { h.fibre fi with opened := false }).advance s.cur)
  ∧ ∀ (s : State) (g : Guard) (r : Ref) (h : Hart) (d : Reg) (pb : BitVec 3) (fi : BitVec 1) (sgn sx : Bool) (sl : BitVec 3) (i : Instr),
    s.oneLane r h → h.takes g = true → s.sampleTag g = (none, s) →
    (i = .fnext g d pb fi sgn sx sl ∨ i = .fpeek g d pb fi sgn sx sl) → ((h.fibre fi).opened = false ∨ (h.fibre fi).count = 0) →
    let b := s.boltOf r h (h.fibre fi).bolt
    b.esize ≤ 4 → s.elemFault h b none (.reg d) 1 false = none →
    ∃ t p w, exec i s = .next t ∧ t.packets = s.packets ++ [p] ∧ p.body = .result w ∧ w.ref = r
      ∧ (∀ e ∈ w.writes, e.2 = 0) ∧ w.writes.map Prod.fst = (List.range (elemRegs h.isBobbin b.width)).map (d.toNat + ·)
      ∧ t.hart? r = some (((match s.cur.flag with
          | none => h.setPred pb false
          | some f => (h.setPred pb false).setDone f (h.doneCount f + 1)) : Hart).advance s.cur)

/-- SPAWN queues a task for the home of its element and says so, PHASE.arv sends its arrival to the group's coordinator,
PHASE.wait passes once the epoch has moved on and the party holds no failed store, FENCE waits for what the lane still owes
(R284, R325 to R331). What a lane owes, the re-execution after PHASE_DRAIN and the order in which a mark
is set are the model's choices (logs 6, 19, 39). -/
def Obligations.SpawnPhaseFence : Prop :=
  ∀ (s : State) (g : Guard) (r : Ref) (h : Hart) (pd level sl : BitVec 3) (bolt : BitVec 6) (ix b c : Src) (target : BitVec 16) (d : Reg)
    (scope : Scope), s.oneLane r h → h.takes g = true →
    let spawn := exec (.spawn g pd bolt ix b c target sl) s
    let q := s.boltOf r h bolt
    let pc := mkPc (ovlOf h.pc) target
    let ctx := s.ctxOf r
    (h.tx.depth ≠ 0 → spawn = .next (s.txAbort r .nonlocal 0) ∧ exec (.phaseArv g d level sl) s = .next (s.txAbort r .nonlocal 0)
      ∧ exec (.phaseWait g b level sl) s = .next (s.txAbort r .nonlocal 0))
    ∧ (h.tx.depth = 0 → s.target r.core ctx pc = .ok → s.spot r q (low h ix) .move = .suppressed →
        spawn = .next ((s.modHart r fun h => h.setPred pd false).goOn r))
    ∧ (∀ va home s', h.tx.depth = 0 → s.target r.core ctx pc = .ok → s.spot r q (low h ix) .move = .at va →
        (q.space ≠ 0 ∧ home = s.homeId r.core ∧ s' = s ∨ ∃ leaf, q.space = 0 ∧ s.walk r h va false = (some leaf, s') ∧ home = leaf.home) →
        (256 ≤ (s'.core r.core).spawnQ.length →
          spawn = .next (((s'.count r.core ctx 0x14 1).modHart r fun h => h.setPred pd false).goOn r))
        ∧ ((s'.core r.core).spawnQ.length < 256 → ∃ t task, spawn = .next t ∧ t.hart? r = some ((h.setPred pd true).advance s.cur)
            ∧ (t.core r.core).spawnQ = (s'.core r.core).spawnQ ++ [task] ∧ t.mem = s.mem
            ∧ task.home = home ∧ task.ctx = ctx ∧ task.slack = sl ∧ task.issuer = r ∧ task.needle.pc = pc ∧ task.needle.launch = h.launch
            ∧ task.needle.ordinal = h.ordinal ∧ task.needle.spwn = true ∧ task.needle.live = 0xF ∧ task.needle.preds = 0 ∧ task.needle.fpstat = 0
            ∧ task.needle.regs = [(0, (h.src b).setWidth 32), (1, (h.src c).setWidth 32), (2, BitVec.ofNat 32 va), (3, BitVec.ofNat 32 (va / 2 ^ 32))]
            ∧ ∀ l, s.launch? h.launch = some l → t.launch? h.launch = some { l with live := l.live + 1 }))
    ∧ (∀ l, h.tx.depth = 0 → s.launch? h.launch = some l →
        let group := l.groupAt h.ordinal.toNat level.toNat
        let slack := s.slackClass r sl
        (level.toNat ∉ l.phaseLevels → exec (.phaseArv g d level sl) s = .next (s.raiseCause r .illegalModifier)
          ∧ exec (.phaseWait g b level sl) s = .next (s.raiseCause r .illegalModifier))
        ∧ (level.toNat ∈ l.phaseLevels → h.doneClear = false →
            exec (.phaseArv g d level sl) s = .next (s.setHart r { h with status := .settling (.arrive d.toNat level.toNat slack) }))
        ∧ (level.toNat ∈ l.phaseLevels → h.doneClear = true → exec (.phaseArv g d level sl) s = .next
            (let home := s.homeId (l.places.getD (group * l.span level.toNat / 64) 0)
             let t := s.setHart r { h with status := .acks 1 }
             (if home = s.homeId r.core then t else t.charge r.core ctx h.launch 12 1).send r.core home l.ctx h.launch slack
              false 0 32 (.phaseArrive h.launch level.toNat group { ref := r, reg := d.toNat } slack)))
        ∧ (∀ p, level.toNat ∈ l.phaseLevels → s.phase? h.launch.toNat level.toNat group = some p →
            (p.epoch.toNat = low h b → exec (.phaseWait g b level sl) s = .next
              (s.formSleepers r.core ctx [r] [phaseState l h.launch.toNat level.toNat group]))
            ∧ (p.epoch.toNat ≠ low h b → s.heldEntry ctx (s.partyOf h) 1 = none → exec (.phaseWait g b level sl) s = .next
              ((s.modHart r fun h => { h with phaseTrap := none }).goOn r))
            ∧ (∀ e, p.epoch.toNat ≠ low h b → s.heldEntry ctx (s.partyOf h) 1 = some e → h.phaseTrap ≠ some h.pc →
              exec (.phaseWait g b level sl) s = .next ((s.modHart r fun h => { h with phaseTrap := some h.pc }).raise r
                { cause := .phaseDrain, addr := some e.addr, write := true, eord := some (e.ord ++ e.ovl) }))
            ∧ (∀ e, p.epoch.toNat ≠ low h b → s.heldEntry ctx (s.partyOf h) 1 = some e → h.phaseTrap = some h.pc →
              exec (.phaseWait g b level sl) s = .next
                ((s.modHart r fun h => { h with status := .drain }).startDrain r.core ctx h.launch.toNat (s.partyOf h) 1 (.heldBy r) slack))))
    ∧ exec (.fence g scope) s = .next (if (scope = .device ∨ scope = .system) ∧ s.owes h.tid = true then
        s.modHart r fun h => { h with status := .fence scope } else s.goOn r)

/-! ### Block 0xA0: atomics, transactions, barriers -/

/-- What ATOM, ARED, ACAS and AFADD carry to their execution point. -/
def atomForm (g : Guard) (i : Instr) (f : AtomForm) (ix b c : Src) : Prop :=
  (∃ op d t, i = .atom g op d f.bolt ix b t f.sx f.sl f.scope ∧ f.kind = .op op ∧ f.ty = t.getD .n32 ∧ f.d = d.toNat ∧ f.silent = false ∧ c = b)
    ∨ (∃ d t, i = .acas g d f.bolt ix b c t f.sx f.sl f.scope ∧ f.kind = .cas ∧ f.ty = t.getD .n32 ∧ f.d = d.toNat ∧ f.silent = false)
    ∨ (∃ op t, i = .ared g op f.bolt ix b t f.sl f.scope ∧ f.kind = .op op ∧ f.ty = t.getD .n32 ∧ f.d = 0 ∧ f.silent = true ∧ f.sx = false ∧ c = b)
    ∨ ∃ d t, i = .afadd g d f.bolt ix b t f.sx f.sl f.scope ∧ f.kind = .fadd ∧ f.ty = t.getD .f32 ∧ f.d = d.toNat ∧ f.silent = false ∧ c = b

/-- The value that an atomic stores over the old one; ACAS stores only where the old value is the compared one (R332). -/
def atomStores (k : AtomKind) (t : Fmt) (b c old : Nat) : Option Nat :=
  let less := decide (intOf t.bits t.signed b < intOf t.bits t.signed old)
  match k with
  | .op .exch => some b
  | .op .add => some ((old + b) % 2 ^ t.bits)
  | .op .min => some (if less then b else old)
  | .op .max => some (if less then old else b)
  | .op .and => some (old &&& b)
  | .op .or => some (old ||| b)
  | .op .xor => some (old ^^^ b)
  | .cas => if old = b then some c else none
  | .fadd => some (faddBits t .rne false old b).1

/-- A near atomic reads and writes its element in one step and delivers the old value; a global one leaves as one request and
changes no memory; the pairing of scope and space is checked first; a suppressed element gives 0 and changes no memory, and a near
element in a registered range holds the lane (R302, R303, R305, R316, R332 to R334). Where a request is checked, and a
SPACE that R302 does not list, are the model's choices (logs 10, 16). -/
def Obligations.AtomicsPerform : Prop :=
  ∀ (s : State) (g : Guard) (r : Ref) (h : Hart) (i : Instr) (f : AtomForm) (ix b c : Src), s.oneLane r h → h.takes g = true →
    s.sampleTag g = (none, s) → i.wf = true → atomForm g i f ix b c →
    let q := s.boltOf r h f.bolt
    let w := f.ty.bits / 8
    (h.tx.depth ≠ 0 → exec i s = .next (s.txAbort r .nonlocal 0))
    ∧ (h.tx.depth = 0 → (q.space ≤ 4 ∧ scopeServes f.scope q.space = false ∨ q.width ≠ w) → exec i s = .next (s.raiseCause r .illegalModifier))
    ∧ (h.tx.depth = 0 → scopeServes f.scope q.space = true → q.width = w → s.spot r q (low h ix) .update = .suppressed → exec i s = .next
        ((if f.silent then s else s.launchResult r s.cur.flag (placeElem r.isBobbin f.d w (f.ty.isInt && f.ty.signed) 0)).goOn r))
    ∧ (∀ va, h.tx.depth = 0 → scopeServes f.scope q.space = true → q.width = w → s.spot r q (low h ix) .update = .at va → q.space ≠ 0 →
        s.scored (r.key (s.ctxOf r) q.space va) = true → exec i s = .next (s.holdScored r h))
    ∧ (∀ va, h.tx.depth = 0 → scopeServes f.scope q.space = true → q.width = w → s.spot r q (low h ix) .update = .at va → q.space ≠ 0 →
        let k := r.key (s.ctxOf r) q.space va
        let old := Memory.getNat s.mem k w
        s.scored k = false →
        ∃ t, exec i s = .next t ∧ t.hart? r = some (Hart.advance (if f.silent then h else match s.cur.flag with
            | none => h
            | some n => h.setDone n (h.doneCount n + 1)) s.cur)
          ∧ t.mem = (match atomStores f.kind f.ty (h.pattern b f.ty) (h.pattern c f.ty) old with
            | none => s.mem
            | some v => if inHoops k then s.mem else Memory.setBytes s.mem k (bytesOfNat w v))
          ∧ (f.silent = false → ∃ p v, p ∈ t.packets ∧ p.body = .result v ∧ v.ref = r ∧ v.flag = s.cur.flag
              ∧ v.writes = placeElem r.isBobbin f.d w (f.ty.isInt && f.ty.signed) old))
    ∧ ∀ va leaf s', h.tx.depth = 0 → scopeServes f.scope q.space = true → q.width = w → s.spot r q (low h ix) .update = .at va → q.space = 0 →
        s.walk r h va true = (some leaf, s') →
        ∃ t p a, exec i s = .next t ∧ t.mem = s.mem ∧ t.packets = s'.packets ++ [p] ∧ p.home = leaf.home ∧ p.body = .atomic a
          ∧ a.kind = some f.kind ∧ a.fmt = f.ty ∧ a.bytes = w ∧ a.b = h.pattern b f.ty ∧ a.dest.ref = r ∧ a.dest.reg = f.d ∧ a.dest.silent = f.silent
          ∧ a.parts = [⟨BitVec.ofNat 48 va, if f.kind = .cas then h.pattern c f.ty else h.pattern b f.ty, f.d⟩]
          ∧ t.hart? r = some (Hart.advance (if f.silent then h else match s.cur.flag with
            | none => h
            | some n => h.setDone n (h.doneCount n + 1)) s.cur)

/-- TXOPEN begins an attempt or nests, TXSEAL ends a nesting or commits its whole write set in one step, TXRETRY takes the
latest alternative or sleeps on the read set, TXELSE adds one, seven at most in an attempt, TXDROP aborts, TXSTAT delivers the status
word with CAUSE, DEPTH, ACTIVE, CODE, RLINES and WLINES (R341 to R351). What the commit check meets at TXSEAL, the sleep of
a TXRETRY inside its attempt, and a nested TXOPEN's counts are the model's readings (log 18). -/
def Obligations.Transactions : Prop :=
  ∀ (s : State) (g : Guard) (r : Ref) (h : Hart) (target : BitVec 16) (code : BitVec 8) (d : Reg), s.oneLane r h → h.takes g = true →
    let pc := mkPc (ovlOf h.pc) target
    let good := s.target r.core (s.ctxOf r) pc = .ok
    let txopen := exec (.txopen g target) s
    let txseal := exec (.txseal g) s
    (h.tstate.trapped = true → txopen = .next (s.raiseCause r .txNesting))
    ∧ (h.tstate.trapped = false → h.tx.depth = 0 → ¬good → txopen = .next (s.raiseCause r .badClause))
    ∧ (h.tstate.trapped = false → h.tx.depth = 0 → good → txopen = .next ((s.modHart r fun k => { k with tx := { k.tx with
        depth := 1, target := pc, alts := [], elses := 0, reads := [], writes := [], age := some (h.tx.age.getD ⟨s.tsc.toNat, r.core, r.wslot, r.plane⟩)
        openPc := k.pc, openClause := k.clause, openPos := k.pos } }).goOn r))
    ∧ (h.tstate.trapped = false → h.tx.depth ≠ 0 → h.tx.depth ≠ 7 →
        txopen = .next ((s.modHart r fun k => { k with tx := { k.tx with depth := k.tx.depth + 1 } }).goOn r))
    ∧ (h.tstate.trapped = false → h.tx.depth = 7 → txopen = .next (s.txAbort r .nesting 0))
    ∧ (h.tx.depth = 0 → txseal = .next (s.raiseCause r .txNesting) ∧ exec (.txretry g) s = .next (s.raiseCause r .txNesting)
        ∧ exec (.txelse g target) s = .next (s.raiseCause r .txNesting) ∧ exec (.txdrop g code) s = .next (s.raiseCause r .txNesting))
    ∧ (1 < h.tx.depth → txseal = .next ((s.modHart r fun k => { k with tx := { k.tx with depth := k.tx.depth - 1 } }).goOn r))
    ∧ (h.tx.depth = 1 → s.commitCheck r h.tx = .held .scoreboard → txseal = .next ((s.event r.core (s.ctxOf r) 0x17 1 h.tstate.priv).modHart r fun k =>
        { k with status := .held .scoreboard }))
    ∧ (∀ q, h.tx.depth = 1 → q ≠ .scoreboard → s.commitCheck r h.tx = .held q → txseal = .next (s.modHart r fun k => { k with status := .held q }))
    ∧ (∀ stop, h.tx.depth = 1 → s.commitCheck r h.tx = .stop stop → txseal = .next
        ((if stop.cause = .rangeLock then s.event r.core (s.ctxOf r) 0x17 1 h.tstate.priv else s).raise r stop))
    ∧ (h.tx.depth = 1 → s.commitCheck r h.tx = .ok → ∃ t, txseal = .next t
        ∧ t.mem = (h.tx.writes.filter fun w => !inHoops w.key).foldl (fun m w => Memory.set m w.key w.byte) s.mem
        ∧ t.hart? r = some (({ h with tx := { h.tx with
            depth := 0, alts := [], elses := 0, reads := [], writes := [], age := none, cause := .none, code := 0 } } : Hart).advance s.cur))
    ∧ (∀ a, h.tx.depth ≠ 0 → h.tx.alts.getLast? = some a → exec (.txretry g) s = .next (s.setHart r (({ h with tx := { h.tx with
        writes := h.tx.writes.take a.mark, depth := a.depth, alts := h.tx.alts.dropLast } } : Hart).enter a.pc)))
    ∧ (h.tx.depth ≠ 0 → h.tx.alts = [] → h.tx.reads ≠ [] → exec (.txretry g) s = .next
        ((s.modHart r fun k => { k with tx := { k.tx with writes := [] } }).formSleepers r.core (s.ctxOf r) [r] h.tx.reads))
    ∧ (h.tx.depth ≠ 0 → h.tx.alts = [] → h.tx.reads = [] → exec (.txretry g) s = .next (s.txAbort r .woken 0))
    ∧ (h.tx.depth ≠ 0 → good → h.tx.elses < 7 → exec (.txelse g target) s = .next ((s.modHart r fun k => { k with tx := { k.tx with
        alts := k.tx.alts ++ [⟨pc, k.tx.writes.length, k.tx.depth⟩], elses := k.tx.elses + 1 } }).goOn r))
    ∧ (h.tx.depth ≠ 0 → ¬good → exec (.txelse g target) s = .next (s.raiseCause r .badClause))
    ∧ (h.tx.depth ≠ 0 → good → 7 ≤ h.tx.elses → exec (.txelse g target) s = .next (s.txAbort r .nesting 0))
    ∧ (h.tx.depth ≠ 0 → exec (.txdrop g code) s = .next (s.txAbort r .explicit code))
    ∧ ∃ t p w, exec (.txstat g d) s = .next t ∧ t.packets = s.packets ++ [p] ∧ p.body = .result w ∧ w.ref = r ∧ w.flag = s.cur.flag
        ∧ ∃ v : Word, w.writes = [(d.toNat, v.setWidth 64)] ∧ v.toNat % 2 ^ 4 = h.tx.cause.code ∧ (h.tx.depth < 8 → v.toNat / 2 ^ 4 % 2 ^ 3 = h.tx.depth)
          ∧ (h.tx.depth < 8 → v.getLsbD 7 = decide (h.tx.depth ≠ 0) ∧ v.toNat / 2 ^ 8 % 2 ^ 8 = h.tx.code.toNat)
          ∧ (h.tx.depth < 8 → h.tx.reads.length ≤ 64 → v.toNat / 2 ^ 16 % 2 ^ 7 = h.tx.reads.length
            ∧ (h.tx.wlines.length ≤ 16 → v.toNat / 2 ^ 23 = h.tx.wlines.length))

/-- An abort empties the attempt's sets and leaves memory as it was; the lane goes on at the abort target, or at the outermost
TXOPEN under WOKEN and PREEMPTED; the age stays for the next try after CONFLICT, CAPACITY, WOKEN and PREEMPTED (R341, R347,
R349, R350). -/
def Obligations.AbortsRollBack : Prop :=
  ∀ (s : State) (r : Ref) (h : Hart) (c : TxCause) (code : BitVec 8), s.hart? r = some h →
    ∃ h', (s.txAbort r c code).hart? r = some h' ∧ (s.txAbort r c code).mem = s.mem
      ∧ h'.tx.depth = 0 ∧ h'.tx.reads = [] ∧ h'.tx.writes = [] ∧ h'.tx.alts = [] ∧ h'.tx.cause = c ∧ h'.tx.code = code
      ∧ h'.regs = h.regs ∧ h'.preds = h.preds ∧ h'.done = h.done
      ∧ (c = .woken ∨ c = .preempted → h'.pc = h.tx.openPc ∧ h'.clause = h.tx.openClause ∧ h'.pos = h.tx.openPos)
      ∧ (c ≠ .woken → c ≠ .preempted → h'.clause = h.tx.target ∧ h'.pos = 0)
      ∧ h'.tx.age = if c = .conflict ∨ c = .capacity ∨ c = .woken ∨ c = .preempted then h.tx.age else none

/-- Barrier objects: the first arrival of a generation latches its count, the last one with no bytes pending starts the next
generation, a wrong count or one too many conflicts; BEXP adds pending bytes (R335 to R339). -/
def Obligations.BarrierObjects : Prop :=
  ∀ (b : Barrier) (cnt : Nat) (n : Int),
    (b.latched = false → 0 < cnt → cnt ≠ b.arrived + 1 → b.arrived + 1 < 2 ^ 16 →
      b.arrive cnt = some { b with expect := cnt, latched := true, arrived := b.arrived + 1 })
    ∧ (b.latched = false → cnt = b.arrived + 1 → cnt < 2 ^ 16 → b.pendb = 0 → b.arrive cnt = some ⟨0, 0, (b.gen + 1) % 2 ^ 16, 0, false⟩)
    ∧ (b.latched = false → cnt = b.arrived + 1 → cnt < 2 ^ 16 → b.pendb ≠ 0 →
        b.arrive cnt = some { b with expect := cnt, latched := true, arrived := b.arrived + 1 })
    ∧ (b.latched = false → cnt = 0 → b.arrive cnt = none)
    ∧ (b.latched = true → (cnt ≠ b.expect ∨ b.expect ≤ b.arrived) → b.arrive cnt = none)
    ∧ (b.latched = true → cnt = b.expect → b.arrived + 1 < b.expect → b.arrive cnt = some { b with arrived := b.arrived + 1 })
    ∧ (b.latched = true → cnt = b.expect → b.arrived + 1 = b.expect → b.arrive cnt = some
        (if b.pendb = 0 then ⟨0, 0, (b.gen + 1) % 2 ^ 16, 0, false⟩ else { b with arrived := b.arrived + 1 }))
    ∧ ((b.pendb + n < -2 ^ 23 ∨ 2 ^ 23 ≤ b.pendb + n) → b.expectBytes n = none)
    ∧ (-2 ^ 23 ≤ b.pendb + n → b.pendb + n < 2 ^ 23 → b.pendb + n ≠ 0 → b.expectBytes n = some { b with pendb := b.pendb + n })
    ∧ (b.pendb + n = 0 → ¬(b.latched = true ∧ b.arrived = b.expect) → b.expectBytes n = some { b with pendb := 0 })
    ∧ (b.latched = true → b.arrived = b.expect → b.pendb + n = 0 → b.expectBytes n = some ⟨0, 0, (b.gen + 1) % 2 ^ 16, 0, false⟩)
    ∧ (b.expect < 2 ^ 16 → b.arrived < 2 ^ 16 → b.gen < 2 ^ 16 → -2 ^ 23 ≤ b.pendb → b.pendb < 2 ^ 23 → Barrier.ofNat b.toNat = b)

/-- BINIT, BEXP, BWAIT and BARV of a lane on the object that its element names: the object's new bytes are written, BARV
delivers the generation, BWAIT sleeps on the object's line while the generation is the one it names (R235, R337 to R340). -/
def Obligations.BarrierInstructions : Prop :=
  ∀ (s s' : State) (g : Guard) (r : Ref) (h : Hart) (bolt : BitVec 6) (ix b : Src) (d : Reg) (line : Line) (key va : Nat) (q : Bolt),
    s.oneLane r h → h.takes g = true →
    let n := low h b % 2 ^ 16
    let o := Barrier.ofNat (Memory.getNat s'.mem key 16)
    let conflict : Stop := { cause := .barrierConflict, addr := some (BitVec.ofNat 48 va), write := true, space := BitVec.ofNat 3 q.space }
    let put := fun (x : Barrier) (t : State) => t.store line key (bytesOfNat 16 x.toNat)
    (h.tx.depth ≠ 0 → ∀ i, (i = .binit g bolt ix b ∨ i = .bexp g bolt ix b ∨ i = .bwait g bolt ix b ∨ i = .barv g d bolt ix b true ∨ i = .barv g d bolt ix b false)
        → exec i s = .next (s.txAbort r .nonlocal 0))
    ∧ (h.tx.depth = 0 → s.object r h bolt ix .update (fun s => s.goOn r) = (some (line, key, q, va), s') →
        exec (.binit g bolt ix b) s = .next ((put { expect := n, arrived := 0, gen := o.gen, pendb := 0, latched := n != 0 } s').goOn r)
        ∧ exec (.bexp g bolt ix b) s = .next (match o.expectBytes (intOf 32 true (low h b)) with
          | none => s'.raise r conflict
          | some x => (put x s').goOn r))
    ∧ (h.tx.depth = 0 → s.object r h bolt ix .move (fun s => s.goOn r) = (some (line, key, q, va), s') →
        exec (.bwait g bolt ix b) s = .next (if o.gen = n then s'.formSleepers r.core (s'.ctxOf r) [r] [line] else s'.goOn r))
    ∧ (h.tx.depth = 0 → s.object r h bolt ix .update (fun s => (s.modHart r fun h => h.setReg d.toNat 0).goOn r) = (some (line, key, q, va), s') →
        exec (.barv g d bolt ix b true) s = .next (match o.arrive n with
          | none => s'.raise r conflict
          | some x => ((put x s').modHart r fun h => h.setReg d.toNat (BitVec.ofNat 64 o.gen)).goOn r)
        ∧ (let m := s'.markOf r h
           let counted := m.valid = true ∧ m.addr.toNat = va ∧ m.space.toNat = q.space ∧ m.gen.toNat = o.gen
           (counted → exec (.barv g d bolt ix b false) s = .next ((s'.modHart r fun h => h.setReg d.toNat (BitVec.ofNat 64 o.gen)).goOn r))
           ∧ (¬counted → exec (.barv g d bolt ix b false) s = .next (match o.arrive n with
              | none => s'.raise r conflict
              | some x => ((put x (s'.setMark r h ⟨BitVec.ofNat 48 va, BitVec.ofNat 3 q.space, true, BitVec.ofNat 16 o.gen⟩)).modHart r fun h =>
                  h.setReg d.toNat (BitVec.ofNat 64 o.gen)).goOn r))))

/-! ### Block 0xB0: hoops -/

/-- A hoop instruction's lane may act: outside an attempt, on a hoop that its checks admit (R365), whose descriptor holds no
poison. -/
def mayHoop (s : State) (r : Ref) (h : Hart) (n : BitVec 5) (bytes : Nat) : Prop :=
  h.tx.depth = 0 ∧ s.cspb r.core (s.ctxOf r) ≠ 0 ∧ s.poisoned (hoopKey r.core (s.ctxOf r) n.toNat) 16 = false
    ∧ (s.hoop r.core (s.ctxOf r) n.toNat).valid = true ∧ bytes ≤ (s.hoop r.core (s.ctxOf r) n.toNat).ent

/-- Inside an attempt a hoop instruction aborts it with NONLOCAL; a context without core scratchpad, an invalid hoop and a data run
longer than an entry raise HOOP_FAULT (R347, R365), a poisoned word of the descriptor ECC_UNCORRECTED (R471; where that stands among
the checks is the model's choice, log 72). -/
def hoopRefusals : Prop :=
  ∀ (s : State) (g : Guard) (r : Ref) (h : Hart) (d : Reg) (nb : Bool) (pd : BitVec 3) (n : BitVec 5) (k : BitVec 12) (b : Src) (nw : BitVec 2)
    (ka at_ : Bool), s.oneLane r h → h.takes g = true →
    let ctx := s.ctxOf r
    let q := s.hoop r.core ctx n.toNat
    let struck := s.poisoned (hoopKey r.core ctx n.toNat) 16 = true
    let check := fun (i : Instr) (bad : Prop) =>
      (h.tx.depth ≠ 0 → exec i s = .next (s.txAbort r .nonlocal 0))
      ∧ (h.tx.depth = 0 → s.cspb r.core ctx ≠ 0 → struck → exec i s = .next
          (s.raise r { cause := .eccUncorrected, addr := some (BitVec.ofNat 48 (16 * n.toNat)), write := false, space := 3 }))
      ∧ (h.tx.depth = 0 → (s.cspb r.core ctx = 0 ∨ ¬struck ∧ bad) → exec i s = .next (s.raiseCause r .hoopFault))
    let short := q.ent < (if at_ then 0 else h.runBytes nw)
    check (.hpush g nb pd n b nw) (q.valid = false ∨ q.ent < h.runBytes nw) ∧ check (.hpop g d n nw ka at_) (q.valid = false ∨ short)
      ∧ check (.htry g d pd n nw ka at_) (q.valid = false ∨ short) ∧ check (.hpeek g d pd n k nw at_) (q.valid = false ∨ short)
      ∧ check (.hallow g n b) (q.valid = false) ∧ check (.hreset g n) (q.valid = false) ∧ check (.hresetDef g n b) False

/-- Lanes of one issue pop one after another, the lowest first: lane j of those that take part gets entry HEAD + j (R366, R368). -/
def lanesPopInOrder : Prop :=
  ∀ (s : State) (g : Guard) (v : Wave) (d : Reg) (n : BitVec 5) (nw : BitVec 2) (ka at_ : Bool),
    s.cur.bobbin = false → s.wave? s.cur.core s.cur.member = some v → (v.lanes.map Prod.fst).Pairwise (· < ·) →
    (∀ e ∈ s.lanes, e.2.status = .running ∧ e.2.tx.depth = 0) →
    let core := s.cur.core
    let ctx := v.ctx
    let q := s.hoop core ctx n.toNat
    let m := (s.active g).length
    let bytes := fun (h : Hart) => if at_ then 0 else h.runBytes nw
    let off := fun (j : Nat) => q.entry (q.head + BitVec.ofNat 16 j)
    s.cspb core ctx ≠ 0 → q.valid = true → s.poisoned (hoopKey core ctx n.toNat) 16 = false → m ≤ q.ready → q.allow + m < 2 ^ 13 → core < 256 →
    ctx < 2 ^ 16 →
    (∀ j e, (s.active g)[j]? = some e → bytes e.2 ≤ q.ent ∧ 0x200 ≤ off j ∧ off j + q.ent ≤ 2 ^ 21
      ∧ (at_ = true ∨ s.scoredRun core ctx (off j) (bytes e.2) = false)) →
    ∃ t, exec (.hpop g d n nw ka at_) s = .next t
      ∧ t.hoop core ctx n.toNat = { q with head := q.head + BitVec.ofNat 16 m, allow := if at_ || ka then q.allow else q.allow + m }
      ∧ (∀ e ∈ s.lanes, e.2.takes g = false → t.hart? (s.curRef e.1 e.2) = some (e.2.advance s.cur))
      ∧ ∀ j e, (s.active g)[j]? = some e →
          let writes := if at_ then [(d.toNat, BitVec.ofNat 64 (off j))]
            else runWrites e.2.isBobbin d.toNat nw (Memory.getBytes s.mem (coreKey core ctx (off j)) (bytes e.2))
          let h := writes.foldl (fun (h : Hart) w => h.setReg w.1 w.2) e.2
          t.hart? (s.curRef e.1 e.2) = some (Hart.advance
            { h with poison := h.poison ||| (if at_ then 0 else s.runPoison e.2.isBobbin (coreKey core ctx (off j)) d.toNat nw) } s.cur)

/-- HPUSH fills the entry at CLAIM and publishes it, unless an engine's earlier claim of the hoop is not yet filled; without room it
sleeps, or says so under .nb. HALLOW returns entries, and
HRESET empties the hoop, writing its descriptor even where it was so already (R361, R365, R367, R370, R371). -/
def hoopFillRules : Prop :=
  ∀ (s : State) (g : Guard) (r : Ref) (h : Hart) (nb : Bool) (pd : BitVec 3) (n : BitVec 5) (b : Src) (nw : BitVec 2), s.oneLane r h →
    h.takes g = true →
    let ctx := s.ctxOf r
    let q := s.hoop r.core ctx n.toNat
    let key := coreKey r.core ctx (q.entry q.claim)
    let data := h.runData b nw
    (mayHoop s r h n (h.runBytes nw) → q.allow = 0 → exec (.hpush g nb pd n b nw) s = .next (if nb then
        (s.modHart r fun h => h.setPred pd false).hoopGo r h else s.formSleepers r.core ctx [r] [hoopLine r.core ctx n.toNat]))
    ∧ (mayHoop s r h n (h.runBytes nw) → q.allow ≠ 0 → s.scoredRun r.core ctx (q.entry q.claim) q.ent = true →
        exec (.hpush g nb pd n b nw) s = .next (s.holdScored r h))
    ∧ (mayHoop s r h n (h.runBytes nw) → q.allow ≠ 0 → s.scoredRun r.core ctx (q.entry q.claim) q.ent = false → r.core < 256 → ctx < 2 ^ 16 →
        q.entry q.claim + q.ent ≤ 2 ^ 21 → 0x200 ≤ q.entry q.claim →
        let first := (s.core r.core).claims.find? fun e => e.1 == ctx && e.2.1.hoop == n.toNat
        (first = none ∨ ∃ e, first = some e ∧ e.2.2 = false) →
        ∃ t, exec (.hpush g nb pd n b nw) s = .next t
          ∧ t.hart? r = some (Hart.advance (if nb then h.setPred pd true else h) s.cur)
          ∧ t.hoop r.core ctx n.toNat = { q with
              allow := q.allow - 1, claim := q.claim + 1, tail := if first = none then q.tail + 1 else q.tail }
          ∧ (∀ i (hi : i < data.length), Memory.get t.mem (key + i) = data[i])
          ∧ ∀ x, ¬(key ≤ x ∧ x < key + data.length) → ¬(hoopKey r.core ctx n.toNat ≤ x ∧ x < hoopKey r.core ctx n.toNat + 16) →
              Memory.get t.mem x = Memory.get s.mem x)
    ∧ (mayHoop s r h n 0 → q.held < low h b → exec (.hallow g n b) s = .next (s.raiseCause r .hoopFault))
    ∧ (mayHoop s r h n 0 → low h b ≤ q.held →
        exec (.hallow g n b) s = .next ((s.setHoop r.core ctx n.toNat { q with allow := q.allow + low h b }).hoopGo r h))
    ∧ (mayHoop s r h n 0 → (q.engref ≠ 0 ∨ q.claim ≠ q.tail) → exec (.hreset g n) s = .next (s.raiseCause r .hoopFault))
    ∧ (mayHoop s r h n 0 → q.engref = 0 → q.claim = q.tail → exec (.hreset g n) s = .next
        ((s.writeHoop r.core ctx n.toNat { q with head := 0, tail := 0, claim := 0, allow := q.cap, engref := 0 }).hoopGo r h))
    ∧ (let new := Hoop.ofNat (low h b % 2 ^ 30)
       let bad := new.valid = true ∧ (new.esz < 4 ∨ 12 < new.esz ∨ 12 < new.capl ∨ new.base % new.ent ≠ 0 ∨ new.base < 0x200
         ∨ s.cspb r.core ctx < new.base + new.cap * new.ent)
       h.tx.depth = 0 → s.cspb r.core ctx ≠ 0 → s.poisoned (hoopKey r.core ctx n.toNat) 16 = false →
        ((bad ∨ q.engref ≠ 0 ∨ q.claim ≠ q.tail) → exec (.hresetDef g n b) s = .next (s.raiseCause r .hoopFault))
        ∧ (¬bad → q.engref = 0 → q.claim = q.tail → exec (.hresetDef g n b) s = .next
          ((s.writeHoop r.core ctx n.toNat { new with head := 0, tail := 0, claim := 0, allow := new.cap, engref := 0 }).hoopGo r h)))

/-- HPOP takes the entry at HEAD, or sleeps on an empty hoop; HTRY and HPEEK say whether there was one and give zeros where
there was none; HPEEK takes nothing. HPUSH fills the entry at CLAIM; HALLOW returns entries, HRESET empties the hoop; bad uses
raise HOOP_FAULT, an attempt aborts; the lanes of an issue pop in their order (R360, R361, R365 to R371). -/
def Obligations.Hoops : Prop := hoopRefusals ∧ lanesPopInOrder ∧ hoopFillRules ∧
  ∀ (s : State) (g : Guard) (r : Ref) (h : Hart) (d : Reg) (pb : BitVec 3) (n : BitVec 5) (k : BitVec 12) (nw : BitVec 2) (ka at_ : Bool),
    s.oneLane r h → h.takes g = true → mayHoop s r h n (if at_ then 0 else h.runBytes nw) →
    let ctx := s.ctxOf r
    let q := s.hoop r.core ctx n.toNat
    let off := q.entry q.head
    let taken := s.setHoop r.core ctx n.toNat { q with head := q.head + 1, allow := if at_ || ka then q.allow else q.allow + 1 }
    let writes := fun (o : Nat) => if at_ then [(d.toNat, BitVec.ofNat 64 o)]
      else runWrites h.isBobbin d.toNat nw (Memory.getBytes s.mem (coreKey r.core ctx o) (h.runBytes nw))
    let poison := fun (o : Nat) => if at_ then 0 else s.runPoison h.isBobbin (coreKey r.core ctx o) d.toNat nw
    let peeked := q.entry (q.head + k.setWidth 16)
    let zeros := ((s.launchResult r s.cur.flag (runWrites h.isBobbin d.toNat nw [])).modHart r fun h => h.setPred pb false).hoopGo r h
    let clear := at_ = true ∨ s.scoredRun r.core ctx off (h.runBytes nw) = false
    (q.ready = 0 → exec (.hpop g d n nw ka at_) s = .next (s.formSleepers r.core ctx [r] [hoopLine r.core ctx n.toNat])
      ∧ exec (.htry g d pb n nw ka at_) s = .next zeros)
    ∧ (q.ready ≠ 0 → ¬clear → exec (.hpop g d n nw ka at_) s = .next (s.holdScored r h) ∧ exec (.htry g d pb n nw ka at_) s = .next (s.holdScored r h))
    ∧ (q.ready ≠ 0 → clear →
        exec (.hpop g d n nw ka at_) s = .next ((taken.modHart r fun h =>
          let h := (writes off).foldl (fun (h : Hart) e => h.setReg e.1 e.2) h
          { h with poison := h.poison ||| poison off }).hoopGo r h)
        ∧ exec (.htry g d pb n nw ka at_) s =
          .next (((taken.launchResult r s.cur.flag (writes off) (poison off)).modHart r fun h => h.setPred pb true).hoopGo r h))
    ∧ (q.ready ≤ k.toNat → exec (.hpeek g d pb n k nw at_) s = .next zeros)
    ∧ (k.toNat < q.ready → (at_ = true ∨ s.scoredRun r.core ctx peeked (h.runBytes nw) = false) → exec (.hpeek g d pb n k nw at_) s =
        .next (((s.launchResult r s.cur.flag (writes peeked) (poison peeked)).modHart r fun h => h.setPred pb true).hoopGo r h))
    ∧ (k.toNat < q.ready → at_ = false → s.scoredRun r.core ctx peeked (h.runBytes nw) = true →
        exec (.hpeek g d pb n k nw at_) s = .next (s.holdScored r h))

/-! ### Exceptions -/

/-- Taking an exception: a fault of a settled lane outside an attempt, not in a handler, enters the handler at TVEC at system
privilege, with the PC, the clause, the cause and the old privilege saved; in a handler it is recorded as nested and parks the
lane; in an attempt it aborts the attempt (R68, R256 to R262, R345). Registers, predicates and memory keep their values. -/
def Obligations.ExceptionEntry : Prop :=
  ∀ (s : State) (r : Ref) (h : Hart) (q : Slot) (stop : Stop), s.hart? r = some h → s.slotFor? r = some q → stop.served = false →
    stop.cause.route = .handler →
    let sp := s.safePoint r.core (s.ctxOf r) h.pc h.clause h.pos
    (h.tx.depth ≠ 0 → sp ≠ (true, none) → s.raise r stop = s.txAbort r .fault (BitVec.ofNat 8 stop.cause.code))
    ∧ (h.tx.depth = 0 → sp ≠ (true, none) → h.settled = false → s.raise r stop = s.setHart r { h with status := .settling (.trap stop) })
    ∧ (h.tx.depth = 0 → sp ≠ (true, none) → h.settled = true → h.tstate.trapped = false → ∃ h', (s.raise r stop).hart? r = some h'
        ∧ h'.pc = q.tvec ∧ h'.clause = q.tvec ∧ h'.pos = 0 ∧ h'.status = .running
        ∧ h'.tstate = { h.tstate with priv := true, trapped := true, svh := false, flast := false, epriv := h.tstate.priv }
        ∧ h'.trap.epc = h.pc ∧ h'.trap.eres = h.clause ∧ h'.trap.einfo = h.einfo stop ∧ h'.trap.live = s.liveOf r h
        ∧ field h'.trap.ecause 0 8 = stop.cause.code
        ∧ (h.pos + stop.after.isSome.toNat < 8 → field h'.trap.ecause 8 3 = h.pos + stop.after.isSome.toNat)
        ∧ h'.trap.ecause.getLsbD 12 = stop.addr.isSome ∧ h'.trap.ecause.getLsbD 13 = false
        ∧ (∀ a, stop.addr = some a → h'.trap.eaddr = a) ∧ (∀ e, stop.eord = some e → h'.trap.eord = e)
        ∧ (∀ o l, stop.eord = none → sp = (true, some (o, l)) → h'.trap.eord = o ++ ovlOf h.pc ∧ h'.trap.ecause.getLsbD 11 = true)
        ∧ h'.regs = h.regs ∧ h'.preds = h.preds ∧ h'.fpstat = h.fpstat ∧ h'.repstep = h.repstep ∧ h'.rep = none
        ∧ (s.raise r stop).mem = s.mem)
    ∧ (h.tx.depth = 0 → sp ≠ (true, none) → h.settled = true → h.tstate.trapped = true → ∃ h', (s.raise r stop).hart? r = some h'
        ∧ h'.status = .nested ∧ h'.pc = h.pc ∧ h'.trap.ecause.getLsbD 13 = true ∧ field h'.trap.ecause 0 8 = stop.cause.code
        ∧ h'.trap.epc = h.pc ∧ h'.trap.live = h.trap.live ∧ h'.trap.escr = h.trap.escr ∧ h'.tstate = h.tstate ∧ h'.regs = h.regs
        ∧ h'.sample = h.sample)
    ∧ (sp = (true, none) → s.raise r stop = s.raise r (if stop.cause = .badClause then stop else { cause := .badClause }))

/-! ### Block 0xE0: system registers, traps, slack -/

/-- The lane raises a cause whatever its guard says, and issues nothing (R56, R86). -/
def denied (s : State) (r : Ref) (c : Cause) : Host.Outcome State Fault Refusal :=
  .next (State.raiseCause { s with cur := { s.cur with lanes := s.cur.lanes.filter (· != r.plane) } } r c)

/-- What a write of a word of a seam, an arrival mark or a knot reads back as: its own bits, and no reserved one (R218, R235, R247). -/
def recordWords : Prop :=
  ∀ (m : Seam) (a : Mark) (k : Knot) (f : Fragment) (q : Slot) (i : Nat) (w : Word),
    (i < 4 → (m.setWord i w).word i = w) ∧ (m.setWord 4 w).word 4 = w &&& 0x3F
    ∧ (a.setWord 0 w).word 0 = w ∧ (a.setWord 1 w).word 1 = w &&& 0xFFFFF ∧ (a.setWord 2 w).word 2 = w &&& 0xFFFF
    ∧ (k.setWord 0 w).word 0 = w ∧ (k.setWord 1 w).word 1 = w &&& 1 ∧ (2 ≤ i → i < 6 → (k.setWord i w).word i = w)
    ∧ (i < 128 → i % 8 < 5 → (f.setSysWord 0x20 i w).sysWord 0x20 i = if i % 8 = 4 then w &&& 0x3F else w)
    ∧ (i < 3 → (f.setSysWord 0x21 i w).sysWord 0x21 i = if i = 0 then w else if i = 1 then w &&& 0xFFFFF else w &&& 0xFFFF)
    ∧ (i < 128 → i % 8 < 6 → (q.setSysWord 0x44 i w).sysWord 0x44 i = if i % 8 = 1 then w &&& 1 else w)
    ∧ (q.setSysWord 0x42 0 w).sysWord 0x42 0 = BitVec.ofNat 32 (w.toNat % 64 + 64 * min 64 (w.toNat / 64 % 128))
    ∧ (q.setSysWord 0x48 0 w).sysWord 0x48 0 = w ∧ (q.setSysWord 0x48 1 w).sysWord 0x48 1 = w &&& 0xFFFF

/-- MOVS reads and MOVSW writes the word that number and index name, at system privilege where the table of R250 says so; what
is written reads back but for read-only and reserved bits, a SHCTL count above 64 as 64, a quantum below 24,000 as that, a zero
seed as 0x9E3779B9; that SVBASE and SVSTRIDE keep their low bits as written is the model's reading (log 30). SLACK reads and writes the lane's slack (R249 to R256, R265, R267). -/
def Obligations.SystemRegisters : Prop :=
  (∀ (s : State) (g : Guard) (r : Ref) (h : Hart) (d : Reg) (num idx : BitVec 8) (x : Bool) (a b : Src) (sl : BitVec 3), s.oneLane r h →
    let reg := sysReg? s.cur.bobbin num.toNat
    let index := fun y => if x then (h.src y).toNat else idx.toNat
    let movs := Instr.movs g d num idx x a
    let movsw := Instr.movsw g num idx x a b
    (reg = none → exec movs s = .next (s.raise r { cause := .illegalModifier }) ∧ exec movsw s = .next (s.raise r { cause := .illegalModifier }))
    ∧ (∀ q, reg = some q → x = false → q.legal idx.toNat = false →
        exec movs s = .next (s.raise r { cause := .illegalModifier }) ∧ exec movsw s = .next (s.raise r { cause := .illegalModifier }))
    ∧ (∀ q, reg = some q → (x = true ∨ q.legal idx.toNat = true) → q.user = false → h.tstate.priv = false →
        exec movs s = denied s r .privilege ∧ exec movsw s = denied s r .privilege)
    ∧ (∀ q, reg = some q → x = true → (q.user = true ∨ h.tstate.priv = true) →
        (q.legal (index a) = false → lane movs s g r h (s.raiseCause r .illegalModifier))
        ∧ (q.legal (index b) = false → lane movsw s g r h (s.raiseCause r .illegalModifier)))
    ∧ (∀ q, reg = some q → q.legal (index a) = true → (q.user = true ∨ h.tstate.priv = true) →
        lane movs s g r h ((s.modHart r fun k => k.setReg d.toNat ((s.sysRead r h q.scope num.toNat (index a)).setWidth 64)).goOn r))
    ∧ (∀ q, reg = some q → q.legal (index b) = true → (q.user = true ∨ h.tstate.priv = true) →
        lane movsw s g r h ((s.sysWrite r h q.scope num.toNat (index b) (BitVec.ofNat 32 (low h a))).goOn r))
    ∧ lane (.slackCls g sl) s g r h ((s.modHart r fun k => { k with slack := s.slackClass r sl }).goOn r))
  ∧ (∀ (s : State) (g : Guard) (d : Reg) (a : Src),
      (lanesDo (.slack g d) s g fun h h' => h.fits d 1 → h.changes h' s.cur [d.toNat] h.preds h.fpstat ∧ h'.reg d.toNat = h.slack.setWidth 64)
      ∧ lanesDo (.slackSet g a) s g fun h h' => h' = ({ h with slack := (h.src a).setWidth 12 } : Hart).advance s.cur)
  ∧ (∀ (h : Hart) (i : Nat) (w : Word), (i < 4 → (h.setSysWord 0x0C i w).sysWord 0x0C i = w)
      ∧ (∀ n, n = 0x02 ∨ n = 0x04 ∨ n = 0x07 → (h.setSysWord n 0 w).sysWord n 0 = w)
      ∧ (h.setSysWord 0x00 0 w).sysWord 0x00 0 = w &&& 0x1F ∧ h.setSysWord 0x01 0 w = h
      ∧ (h.setSysWord 0x05 0 w).sysWord 0x05 0 = w ∧ (h.setSysWord 0x05 1 w).sysWord 0x05 1 = w &&& 0xFFFF
      ∧ (h.setSysWord 0x08 0 w).sysWord 0x08 0 = w &&& 0xFFF
      ∧ ((h.setSysWord 0x03 0 w).sysWord 0x03 0).toNat = w.toNat % 2 ^ 14 + h.trap.ecause.toNat / 2 ^ 14 * 2 ^ 14
      ∧ ((h.setSysWord 0x06 0 w).sysWord 0x06 0).toNat = w.toNat % 2 ^ 18 + h.trap.einfo.toNat / 2 ^ 18 * 2 ^ 18
      ∧ (i < 7 → i ≠ 3 → (h.setSysWord 0x0B i w).sysWord 0x0B i = if i = 2 ∨ i = 6 then w &&& 0x7FFFFF else w)
      ∧ (∀ n, n = 0x09 ∨ n = 0x0A → h.setSysWord n i w = h))
  ∧ recordWords
  ∧ ∀ (q : Slot) (i : Nat) (w : Word), (∀ n, n = 0x45 ∨ n = 0x46 ∨ n = 0x47 ∨ n = 0x49 → (q.setSysWord n 0 w).sysWord n 0 = w)
      ∧ (i < 128 → (q.setSysWord 0x43 i w).sysWord 0x43 i = w) ∧ (i < 16 → (q.setSysWord 0x4A i w).sysWord 0x4A i = w)
      ∧ (i < 3 → (q.setSysWord 0x41 i w).sysWord 0x41 i = if w = 0 then 0x9E3779B9 else w)
      ∧ (∀ n, n = 0x40 ∨ n = 0x4B → q.setSysWord n i w = q)
      ∧ quantumOf w = if w.toNat < 24000 then 24000 else w

/-- What TRET at RST = 1 leaves (R275): a thread is ready only when no other lane of its fragment is in the restore handler, and the
last one frees those that wait for it; a bobbin goes on and every saved thread of its context starts at RSVEC. -/
def restoreEnds (s t : State) (r : Ref) (h h' : Hart) : Prop :=
  (∀ w l v, r.agent = .wave w l → s.wave? r.core w = some v → (v.lanes.map Prod.fst).Nodup →
    let mates := v.lanes.filter fun e => e.1 != l && s.fragOf e.2 == s.fragOf h
    h'.tx.cause = (if h.txStopped then .preempted else .none) ∧ h'.tx.code = 0
    ∧ ((∃ e ∈ mates, e.2.tstate.rst = true) → h'.status = .restored ∧ ∀ e ∈ mates, t.hart? ⟨r.core, .wave w e.1, e.2.tid⟩ = some e.2)
    ∧ ((∀ e ∈ mates, e.2.tstate.rst = false) → h'.status = .running ∧ ∀ e ∈ mates, t.hart? ⟨r.core, .wave w e.1, e.2.tid⟩ =
        some (if e.2.status = .restored then { e.2 with status := .running } else e.2)))
  ∧ ∀ k q, r.agent = .bobbin k → s.slot? r.core k = some q → h'.status = .running ∧
      ∀ w l tid p, s.hart? ⟨r.core, .wave w l, tid⟩ = some p → s.ctxOf ⟨r.core, .wave w l, tid⟩ = q.ctx → p.status = .saved →
        ∃ p', t.hart? ⟨r.core, .wave w l, tid⟩ = some p' ∧ p'.pc = q.rsvec ∧ p'.clause = q.rsvec ∧ p'.pos = 0 ∧ p'.status = .running
          ∧ (∀ i < 64, p'.reg i = 0) ∧ p'.tstate = { priv := true, trapped := true, rst := true } ∧ p'.trap.svidx = p.trap.svidx
          ∧ p'.trap.epc = 0 ∧ p'.trap.eres = 0 ∧ p'.trap.ecause = 0 ∧ p'.trap.eord = 0 ∧ p'.trap.eaddr = 0 ∧ p'.trap.einfo = 0

/-- TRAP raises SOFTWARE_TRAP with its code; TRET goes back to the saved clause and position at the saved privilege; HALT ends
or saves its lane; TRET and HALT at user privilege raise PRIVILEGE (R263, R266, R268, R275). That the HALT of a bobbin at SVH = 1
completes the switch is the model's choice (log 28). -/
def Obligations.TrapsAndReturns : Prop :=
  ∀ (s : State) (g : Guard) (r : Ref) (h : Hart) (code : BitVec 16), s.oneLane r h →
    let pos := field h.trap.ecause 8 3
    let next := (s.cur.nextPc, if s.cur.nextPos < s.cur.count then s.cur.nextPos else 0)
    lane (.trap g code) s g r h (s.raise r { cause := .softwareTrap, addr := some (code.setWidth 48), after := some next })
    ∧ (h.tstate.priv = false → exec (.tret g) s = denied s r .privilege ∧ exec (.halt g) s = denied s r .privilege)
    ∧ (h.tstate.priv = true → h.tstate.trapped = false → lane (.tret g) s g r h (s.raiseCause r .privilege))
    ∧ (∀ n c, h.tstate.priv = true → h.tstate.trapped = true → s.target r.core (s.ctxOf r) h.trap.eres = .ok →
        s.clauseOf r.core (s.ctxOf r) { h with clause := h.trap.eres } = some (n, c) → c.bad = false →
        (c.count < pos → lane (.tret g) s g r h (s.raiseCause r .badClause))
        ∧ (pos ≤ c.count → h.takes g = true → ∃ t h', exec (.tret g) s = .next t ∧ t.hart? r = some h' ∧ t.mem = s.mem
            ∧ h'.tstate = { h.tstate with priv := h.tstate.epriv, trapped := false, svh := false, rst := false, flast := false }
            ∧ h'.regs = h.regs ∧ h'.preds = h.preds ∧ (h.tstate.rst = false → h'.status = .running ∧ h'.tx = h.tx)
            ∧ (h.tstate.rst = true → restoreEnds s t r h h')
            ∧ (pos < c.count → h'.clause = h.trap.eres ∧ h'.pos = pos)
            ∧ (pos = c.count → h'.clause = mkPc (ovlOf h.trap.eres) (BitVec.ofNat 16 c.stop) ∧ h'.pos = 0)))
    ∧ (h.tstate.priv = true → h.doneClear = false → lane (.halt g) s g r h (s.modHart r fun k => { k with status := .settling .halt }))
    ∧ (h.tstate.priv = true → h.doneClear = true → h.tstate.svh = true → (∃ w l, r.agent = .wave w l) →
        lane (.halt g) s g r h (s.setHart r { h with status := .saved, tstate := { h.tstate with trapped := false } }))
    ∧ (h.tstate.priv = true → h.doneClear = true → h.tstate.svh = false → ∀ w l, r.agent = .wave w l →
        lane (.halt g) s g r h ((s.endThread r).restoredCheck r.core w (s.fragOf h)))
    ∧ (h.tstate.priv = true → h.doneClear = true → ∀ k, r.agent = .bobbin k → lane (.halt g) s g r h
        (let ended := (s.modHart r fun h => { h with status := .halted }).modHart r fun h => { h with tstate := {} }
         if h.tstate.svh then (s.setHart r { h with status := .saved, tstate := { h.tstate with trapped := false } }).completeSwitch r.core k
         else if h.tstate.rst then ended.startRestore r.core k else ended))

/-! ### Block 0xF0: tables, counters, samples, the debugger -/

/-- A record has been written to its place, and the lane is held until each of the cores, which may hold a copy, has made its
update and acknowledged (R483). -/
def defined (s t : State) (r : Ref) (dpa : Nat) (bytes : List Byte) (cores : List Nat) (u : Update) : Prop :=
  t.mem = Memory.setBytes s.mem dpa bytes ∧ (∃ h', t.hart? r = some h' ∧ h'.status = .acks cores.length)
    ∧ ∀ c ∈ cores, ∃ p ∈ t.packets, p.src = s.homeId c ∧ p.home = s.homeId r.core ∧ p.body = .ack r u

/-- PATDEF and BLDEF write their record to the context's table, JTDEF an entry of a jump table, HFSET a hash family, and each
waits for the holders of copies; PATRD and BLRD read a word of a record at its home by request (R473, R481 to R489). The alignment of PATDEF's
element, when a copy changes, and the check at issue are the model's choices (log 32). -/
def Obligations.DescriptorTables : Prop :=
  ∀ (s s' s'' : State) (g : Guard) (r : Ref) (h : Hart) (n : BitVec 10) (mv : Bool) (a b : Src) (bolt : BitVec 6) (bs : List Byte)
    (dpa : Nat) (leaf : Leaf), s.oneLane r h → h.takes g = true →
    let ctx := s.ctxOf r
    let word := if h.isBobbin then 8 else 4
    let nextHart := match s.cur.flag with | none => h | some f => h.setDone f (h.doneCount f + 1)
    (h.tx.depth ≠ 0 → ∀ i, (i = .patdef g n mv a bolt ∨ i = .bldef g n mv a ∨ i = .hfset g (n.setWidth 3) a b
        ∨ i = .jtdef g (n.setWidth 6) (n.setWidth 16) a b ∨ i = .patrd g bolt n (n.setWidth 4) ∨ i = .blrd g bolt n (n.setWidth 2)) →
      exec i s = .next (s.txAbort r .nonlocal 0))
    ∧ (h.tx.depth = 0 → (if mv then s.movedRecord r h a (s.ptab ctx) 64 else s.image r h bolt a 64) = (some bs, s') →
        s'.recordAt r h (s'.ptab ctx + 64 * n.toNat) bs.length true = (some (dpa, leaf), s'') → inHoops dpa = false → s.coresOf ctx ≠ [] →
        ∃ t, exec (.patdef g n mv a bolt) s = .next t ∧ defined s t r dpa bs (s.coresOf ctx) (.pattern ctx n.toNat))
    ∧ (h.tx.depth = 0 →
        (if mv then s.movedRecord r h a (s.btab ctx) 16 else (some (bytesOfNat 16 (h.runRecord a).toNat), s)) = (some bs, s') →
        let rec_ := BitVec.ofNat 128 (natOfBytes bs)
        ((Bolt.ofBits rec_).malformed = true → exec (.bldef g n mv a) s = .next (s'.raiseCause r .patternInvalid))
        ∧ ((Bolt.ofBits rec_).malformed = false →
            s'.recordAt r h (s'.btab ctx + 16 * n.toNat) bs.length true = (some (dpa, leaf), s'') → inHoops dpa = false → s.coresOf ctx ≠ [] →
            ∃ t, exec (.bldef g n mv a) s = .next t ∧ defined s t r dpa bs (s.coresOf ctx) (.bolt ctx n.toNat rec_)))
    ∧ (∀ (hf : BitVec 3), h.tx.depth = 0 →
        let v : DWord := if h.isBobbin then h.src a else BitVec.ofNat 64 (low h a + 2 ^ 32 * low h b)
        (Family.ofBits v = none → exec (.hfset g hf a b) s = .next (s.raiseCause r .retrievalFault))
        ∧ (∀ f, Family.ofBits v = some f → ∃ t, exec (.hfset g hf a b) s = .next t ∧ t.mem = s.mem
            ∧ (∃ h', t.hart? r = some h' ∧ h'.status = .acks 4)
            ∧ ∀ c ∈ [0, 64, 128, 192], ∃ p ∈ t.packets, p.src = s.homeId c ∧ p.body = .ack r (.family ctx hf.toNat f)))
    ∧ (∀ (jt : BitVec 6) (ovl : BitVec 16) image off k, h.tx.depth = 0 →
        s.jumpTable ctx (s.ovtOf r h).toNat ovl jt.toNat = .ok (some (image, off, k)) → (h.src a).toNat < k →
        s.recordAt r h (image + (off + 4 + 4 * (h.src a).toNat)) 4 true = (some (dpa, leaf), s') → inHoops dpa = false →
        let holders := (s.cores.filter fun e => (e.2.overlay? ctx ovl).isSome).map Prod.fst
        holders ≠ [] → ∃ t, exec (.jtdef g jt ovl a b) s = .next t
          ∧ defined s t r dpa (bytesOfNat 4 (low h b)) holders (.jump ctx ovl (off + 4 + 4 * (h.src a).toNat) (bytesOfNat 4 (low h b))))
    ∧ ∀ (d : Reg) (i : Instr) (va : Nat), h.tx.depth = 0 →
        ((∃ w : BitVec 4, i = .patrd g d n w ∧ va = s.ptab ctx + 64 * n.toNat + w.toNat * word)
          ∨ ∃ w : BitVec 2, i = .blrd g d n w ∧ va = s.btab ctx + 16 * n.toNat + w.toNat * word) →
        s.recordAt r h va word false = (some (dpa, leaf), s') →
        ∃ t p q, exec i s = .next t ∧ t.mem = s.mem ∧ t.packets = s'.packets ++ [p] ∧ p.home = leaf.home ∧ p.body = .read q ∧ q.write = false
          ∧ q.overlay = false ∧ q.bytes = word ∧ q.parts = [⟨BitVec.ofNat 48 va, 0, d.toNat⟩] ∧ q.dest.ref = r ∧ q.dest.reg = d.toNat
          ∧ q.dest.bytes = word ∧ t.hart? r = some (nextHart.advance s.cur)

/-- CTRRD delivers the word's value from the start of the cycle, CTRSET leaves a value that its word takes when the cycle
ends and acts at once on a debug command, at the privilege of R503; SMPL arms the lane's sample; BRKPT parks for an attached debugger and traps without one; RTSYNC
waits for the lane's retrieval operations (R500, R503, R504, R513, R516, R523). BRKPT in an attempt is the model's choice (log 43). -/
def Obligations.CountersAndDebug : Prop :=
  ∀ (s : State) (g : Guard) (r : Ref) (h : Hart) (q : Slot) (d : Reg) (n : BitVec 8) (x : Bool) (a b : Src) (tag code : BitVec 16), s.oneLane r h →
    s.slotFor? r = some q →
    let read := if x then (h.src a).toNat else n.toNat
    let write := if x then (h.src b).toNat else n.toNat
    let v := s.ctrRead r.core (s.slotNo r) read
    (ctrReadFault read h.tstate.priv = none → lane (.ctrrd g d n x a) s g r h ((s.launchResult r s.cur.flag
        (if h.isBobbin then [(d.toNat, v)] else [(d.toNat, (v.setWidth 32).setWidth 64), (d.toNat + 1, v >>> 32)])).goOn r))
    ∧ (x = false → (ctrWord? n.toNat).isNone = true → exec (.ctrrd g d n x a) s = .next (s.raise r { cause := .illegalModifier })
        ∧ exec (.ctrset g n x a b) s = .next (s.raise r { cause := .illegalModifier }))
    ∧ (x = false → ctrReadFault n.toNat h.tstate.priv = some .privilege → exec (.ctrrd g d n x a) s = denied s r .privilege)
    ∧ (s.ctrWriteFault r.core (s.slotNo r) write (h.src64 a) h.tstate.priv = none → lane (.ctrset g n x a b) s g r h
        (if ((ctrWord? write).map CtrWord.sysWrite).getD false then
          (if write = 0x42 then (s.goOn r).debugCommand r.core (s.slotNo r) (field (h.src64 a) 0 3)
           else if 0x50 ≤ write then (s.goOn r).modCore r.core fun c => { c with sets := c.sets.set write (h.src64 a) }
           else (s.goOn r).modSlot r.core (s.slotNo r) fun q => { q with ctlPending := q.ctlPending.set write (h.src64 a) })
         else s.goOn r))
    ∧ (∀ off, lanesDo (.smpl g off tag) s g fun h h' =>
        h' = ({ h with sample := if off then { armed := false, tag := 0 } else { armed := true, tag } } : Hart).advance s.cur)
    ∧ (let aft : Option (Word × Nat) := some (s.cur.nextPc, if s.cur.nextPos < s.cur.count then s.cur.nextPos else 0)
       let attached := (q.word 0x41).getLsbD 0
       (attached = false → lane (.brkpt g code) s g r h (s.raise r { cause := Cause.debugStop, after := aft, code := code, served := true }))
       ∧ (attached = true → h.tstate.trapped = true → lane (.brkpt g code) s g r h ((s.modHart r fun k => { k with debugDue := some code }).goOn r))
       ∧ (attached = true → h.tstate.trapped = false → h.tx.depth ≠ 0 →
          lane (.brkpt g code) s g r h ((s.txAbort r .preempted 0).stopAt r { cause := .debugStop, code }))
       ∧ (attached = true → h.tstate.trapped = false → h.tx.depth = 0 → h.settled = true → h.takes g = true →
          s.safePoint r.core (s.ctxOf r) h.pc h.clause h.pos ≠ (true, none) → 0 < s.cur.nextPos →
          ∃ t h' stop, exec (.brkpt g code) s = .next t ∧ t.hart? r = some h' ∧ h'.status = .debug stop ∧ h'.regs = h.regs ∧ t.mem = s.mem
            ∧ stop.cause = .debugStop ∧ stop.code = code ∧ stop.after = aft ∧ h'.pc = h.pc ∧ h'.clause = h.clause ∧ h'.pos = h.pos))

/-! ### Block 0xC0: the engines -/

/-- Both ends of a command have been read, the source first (R373, R374). -/
def endsRead (s s2 : State) (r : Ref) (h : Hart) (sh : Bool) (src : BitVec 8) (a : Src) (dh : Bool) (dst : BitVec 8) (b : Src)
    (n : BitVec 12) (x y : EndPt) : Prop :=
  ∃ s1, s.endOf r h sh src.toNat a n.toNat = (some x, s1) ∧ s1.endOf r h dh dst.toNat b n.toNat = (some y, s2)

/-- Under `.lk` the link object is in order and its generation is not the link generation (R408). -/
def linkOpen (s : State) (r : Ref) (h : Hart) (lk : Bool) (c : Src) : Prop :=
  let off := (h.link c).1
  let key := coreKey r.core (s.ctxOf r) off
  lk = true → off % 16 = 0 ∧ off + 16 ≤ s.nearEnd r.core (s.ctxOf r) 3 off ∧ s.scored key = false ∧ s.poisoned key 16 = false
    ∧ (s.barrierAt key).gen ≠ (h.link c).2

/-- The command of a copy, gather, scatter or binning instruction, s₂ after the records of its patterns have been read, with its
checks at issue in the order of R374. -/
def copyForm (s s2 : State) (r : Ref) (h : Hart) (g : Guard) (i : Instr) (checks : List (Bool × Stop)) (c : Command) : Prop :=
  let ctx := s2.ctxOf r
  (∃ sh dh bsp src dst a b k n sl x y, i = .cpy g sh dh bsp src dst a b k n sl ∧ endsRead s s2 r h sh src a dh dst b n x y
      ∧ checks = s2.copyChecks r.core ctx x y (copyMismatch x y) (h.barrierOf bsp k)
      ∧ c = { id := 0, engine := .copy, work := .copy, issuer := r, ctx := 0, src := x, dst := y, barrier := h.barrierOf bsp k, sl })
    ∨ (∃ d sh bsp src dst a b k n scope sl x y, i = .cpym g d sh bsp src dst a b k n scope sl
      ∧ endsRead s s2 r h sh src a false dst b n x y
      ∧ (let (cores, stray) := maskCores r.core scope (h.src64 (.reg d))
         let absent := stray || cores.any fun k => s2.cspb k ctx == 0
         checks = s2.endChecks r.core ctx x y (copyMismatch x y || (y.pattern?.map Pattern.space).getD 0 != 3)
            ++ s2.farChecks r.core ctx (cores.filter fun k => s2.cspb k ctx != 0) x y (h.barrierOf bsp k) ++ [(absent, stopOf .engineFault)]
         ∧ c = { id := 0, engine := .copy, work := .multicast cores, issuer := r, ctx := 0, src := x, dst := y
                 barrier := h.barrierOf bsp k, sl }))
    ∨ (∃ any slot bsp a k sl, i = .cpyo g any slot bsp a k sl ∧ s2 = s
      ∧ checks = s2.nearChecks r.core ctx [] (h.barrierOf bsp k) ++ [((h.src a).setWidth 16 == (0xFFFF : BitVec 16), stopOf .engineFault)]
      ∧ c = { id := 0, engine := .copy, work := .overlay ((h.src a).setWidth 16) (if any then none else some slot.toNat) (s.ovtOf r h)
              issuer := r, ctx := 0, barrier := h.barrierOf bsp k, sl })
    ∨ (∃ sh dh bsp src dst bolt a b k n sl x y, i = .gath g sh dh bsp src dst bolt a b k n sl
      ∧ endsRead s s2 r h sh src a dh dst b n x y
      ∧ checks = s2.gatherChecks r.core ctx (Bolt.ofBits (s2.boltBitsOf r h bolt)) x y false (h.barrierOf bsp k)
      ∧ c = { id := 0, engine := .dfi, work := .gather (s2.boltBitsOf r h bolt), issuer := r, ctx := 0, src := x, dst := y
              barrier := h.barrierOf bsp k, sl })
    ∨ (∃ sh bsp src dst bolt a b k n sl x y, i = .scat g sh bsp src dst bolt a b k n sl
      ∧ endsRead s s2 r h sh src a false dst b n x y
      ∧ checks = s2.gatherChecks r.core ctx (Bolt.ofBits (s2.boltBitsOf r h bolt)) y x true (h.barrierOf bsp k)
      ∧ c = { id := 0, engine := .dfi, work := .scatter (s2.boltBitsOf r h bolt), issuer := r, ctx := 0, src := x, dst := y
              barrier := h.barrierOf bsp k, sl })
    ∨ ∃ n bolt a b d sl, i = .bin g n bolt a b d sl ∧ s2 = s
      ∧ (let v := s.boltBitsOf r h bolt
         let q := Bolt.ofBits v
         let k := (h.halves d).headD 0
         let thresholds := ((h.halves d).drop 1).take (k - 1)
         let range := k < 1 || 8 < k || descends thresholds || 4096 < h.index b || 31 < n.toNat + k - 1
         let named := ((List.range (Nat.min 32 (Nat.max 1 k))).map fun j => n.toNat + j).filter fun j => decide (j < 32)
         checks = s.hoopStops r.core ctx named ++ [(named.any fun j => s.hoopBad r.core ctx (.hoop j 0) none, stopOf .hoopFault),
            (q.esize != 2 || !Need.ok .load q.access, stopOf .patternInvalid),
            (q.malformed || decide (3 < q.space), nearStop .bounds q.space q.base false), (range, stopOf .engineFault)]
         ∧ c = { id := 0, engine := .dfi, work := .bin v (h.word a) (h.index b) n.toNat thresholds none, issuer := r, ctx := 0, sl })

/-- The same of the stitch array's instructions. -/
def stitchForm (s s2 : State) (r : Ref) (h : Hart) (g : Guard) (i : Instr) (checks : List (Bool × Stop)) (c : Command) : Prop :=
  let ctx := s2.ctxOf r
  let pattern := fun (e : EndPt) => e.pattern?.getD (Pattern.ofBits 0)
  (∃ bank pat a sg lk d k sl e, i = .tldb g bank pat a sg lk d k sl ∧ linkOpen s r h lk k ∧ s.patternOf r h pat (some a) = (some e, s2)
      ∧ (let q := pattern e
         checks = s2.stitchChecks r.core ctx false e (!(q.fmt == 0x1 || q.fmt == 0xA || q.fmt == 0xB || q.fmt == 0xC) || q.size 2 != 1
              || q.size 3 != 1 || decide ((if q.ty = .bf16 then 384 else 768) < q.size 0) || decide (256 < q.size 1) || q.sck == 2) true false
            (h.signal sg d) (s2.foreign r.core ctx none (some bank.toNat)))
      ∧ c = { id := 0, engine := .stitch, work := .loadBank bank.toNat, issuer := r, ctx := 0, src := e, barrier := h.signal sg d, sl })
    ∨ (∃ acc tile bank sh kp int pat n a m sg lk d k sl e, i = .tmma g acc tile bank sh kp int pat n a m sg lk d k sl ∧ linkOpen s r h lk k
      ∧ s.patternOf r h pat (if sh then none else some a) = (some e, s2)
      ∧ (let q := pattern e
         let src := if sh then EndPt.hoop n.toNat m.toNat else .empty
         checks = s2.stitchChecks r.core ctx (sh && (s2.hoopBad r.core ctx src none || (q.ok && decide ((s2.hoop r.core ctx n.toNat).ent < q.rowBytes))))
            e (streamBad q kp.toNat int || (!sh && decide (q.rows < m.toNat))) (!sh) false (h.signal sg d)
            (s2.foreign r.core ctx (some tile.toNat) (some bank.toNat))
         ∧ c = { id := 0, engine := .stitch, work := .stream tile.toNat bank.toNat acc (q.planes kp.toNat) int m.toNat false none, issuer := r
                 ctx := 0, src, dst := e, barrier := h.signal sg d, sl }))
    ∨ (∃ acc tile bank sh kp int pat n bolt a b m sg lk d k sl e, i = .tmmag g acc tile bank sh kp int pat n bolt a b m sg lk d k sl
      ∧ linkOpen s r h lk k ∧ s.patternOf r h pat (some a) = (some e, s2)
      ∧ (let q := pattern e
         let src := if sh then EndPt.hoop n.toNat m.toNat else .empty
         let rows := if sh then m.toNat * (s2.hoop r.core ctx n.toNat).ent / 4 else m.toNat
         let v := s2.boltBitsOf r h bolt
         let l := Bolt.ofBits v
         checks = s2.stitchChecks r.core ctx (sh && (s2.hoopBad r.core ctx src none || decide (64 < rows))) e
              (streamBad q kp.toNat int || (!sh && l.esize != 2)) true false (h.signal sg d) false
            ++ [(!sh && (l.malformed || decide (3 < l.space) || !Need.ok .load l.access), nearStop .bounds l.space l.base false),
                (s2.foreign r.core ctx (some tile.toNat) (some bank.toNat), stopOf .engineFault)]
         ∧ c = { id := 0, engine := .stitch, issuer := r, ctx := 0, src, dst := e, barrier := h.signal sg d, sl
                 work := .stream tile.toNat bank.toNat acc (q.planes kp.toNat) int rows true (if sh then none else some (v, h.index b)) }))
    ∨ (∃ tile sg lk d k sl, i = .tzero g tile sg lk d k sl ∧ linkOpen s r h lk k ∧ s2 = s
      ∧ checks = s.nearChecks r.core ctx [] (h.signal sg d) ++ [(s.foreign r.core ctx (some tile.toNat) none, stopOf .engineFault)]
      ∧ c = { id := 0, engine := .stitch, work := .zeroTile tile.toNat, issuer := r, ctx := 0, barrier := h.signal sg d, sl })
    ∨ (∃ tile sh pat n a b m sg lk d k sl e, i = .tsta g tile sh pat n a b m sg lk d k sl ∧ linkOpen s r h lk k
      ∧ s.patternOf r h pat (if sh then none else some a) = (some e, s2)
      ∧ (let q := pattern e
         let dst := if sh then EndPt.hoop n.toNat m.toNat else e
         let row := if q.bpp then 32 * q.pieces else q.size 0 * q.unit
         checks = s2.stitchChecks r.core ctx (sh && (s2.hoopBad r.core ctx dst none || (q.ok && decide ((s2.hoop r.core ctx n.toNat).ent < row)))) e
            (decide (768 < q.size 0) || q.sck == 2 || (!sh && decide (q.rows < m.toNat))) (!sh) true (h.signal sg d)
            (s2.foreign r.core ctx (some tile.toNat) none)
         ∧ c = { id := 0, engine := .stitch, work := .storeTile tile.toNat (BitVec.ofNat 32 (h.word b)) m.toNat, issuer := r, ctx := 0
                 src := if sh then e else .empty, dst, barrier := h.signal sg d, sl }))
    ∨ ∃ tile pat a sg lk d k sl e, i = .tstaSt g tile pat a sg lk d k sl ∧ linkOpen s r h lk k ∧ s.patternOf r h pat (some a) = (some e, s2)
      ∧ checks = s2.stitchChecks r.core ctx false e ((pattern e).fmt != 4 || (pattern e).space != 3) true true (h.signal sg d)
          (s2.foreign r.core ctx (some tile.toNat) none)
      ∧ c = { id := 0, engine := .stitch, work := .storeStatus tile.toNat, issuer := r, ctx := 0, dst := e, barrier := h.signal sg d, sl }

/-- The checks that come first: the descriptors of the hoops at its ends hold no uncorrectable data (R470, R471). -/
def hoopChecks (s : State) (r : Ref) (c : Command) : List (Bool × Stop) :=
  s.hoopStops r.core (s.ctxOf r) ((c.src.hoops ++ c.dst.hoops).map Prod.fst)

/-- The command has joined its slot's commands, under the lane's name, and the lane has gone past the instruction. -/
def queuedWith (s : State) (r : Ref) (h : Hart) (c : Command) : State :=
  ((s.modSlotFor r fun q => { q with commands := q.commands ++ [{ c with
      id := s.next, issuer := r, ctx := q.ctx, pc := h.pc, eord := s.ordOf r h ++ ovlOf h.pc, launch := h.launch, system := h.tstate.priv
      flag := s.cur.flag }] }).bump).goOn r

/-- KSET arms a knot with its template, KSIGN counts a signature, and the last one issues the template's command and disarms the
knot; a knot armed twice, or signed when it is not armed, is KNOT_OVERSIGN (R411 to R413). -/
def knotRules : Prop :=
  ∀ (s : State) (g : Guard) (r : Ref) (h : Hart) (k : BitVec 4) (a : Reg) (n : BitVec 16) (q : Slot), s.oneLane r h → s.slotFor? r = some q →
    h.tx.depth = 0 →
    let v := h.runRecord (.reg a)
    let knot := q.knot k
    ((n = 0 ∨ templateInstr h.isBobbin v = none) → lane (.kset g k a n) s g r h (s.raiseCause r .illegalModifier))
    ∧ (n ≠ 0 → templateInstr h.isBobbin v ≠ none →
        lane (.kset g k a n) s g r h (if knot.armed then s.raiseCause r .knotOversign
          else (s.setKnot r k { expect := n, signed := 0, armed := true, template := v }).goOn r))
    ∧ (knot.armed = false → lane (.ksign g k) s g r h (s.raiseCause r .knotOversign))
    ∧ (knot.armed = true → knot.signed + 1 ≠ knot.expect →
        lane (.ksign g k) s g r h ((s.setKnot r k { knot with signed := knot.signed + 1 }).goOn r))
    ∧ ∀ (s2 : State) (g' : Guard) (i : Instr) (checks : List (Bool × Stop)) (c : Command) (q2 : Slot),
        knot.armed = true → knot.signed + 1 = knot.expect → templateInstr h.isBobbin knot.template = some i →
        (i.uses.any fun u => runBeyond u h.isBobbin (s.allotOf h)) = false → h.poison &&& readMask i h.isBobbin = 0 →
        copyForm s s2 r h g' i checks c ∨ stitchForm s s2 r h g' i checks c → firstStop (hoopChecks s2 r c ++ checks) = none →
        s2.slotFor? r = some q2 → q2.commands = q.commands → (q2.queued c.engine).length < c.engine.depth →
        lane (.ksign g k) s g r h ((queuedWith s2 r h c).setKnot r k { knot with signed := knot.signed + 1, armed := false })

/-- An engine instruction raises the first of its failing checks; with none it queues its command, or waits while its queue is
full. In an attempt it aborts; under `.lk` it sleeps on the link object while the generation is the link generation. Knots arm, count their
signatures and issue their template (R374, R375, R381 to R388, R400 to R413). Which words and records the checks at issue look at, the
checks of a link object and of a template, are the model's choices (logs 34, 39). -/
def Obligations.EngineCommands : Prop := knotRules ∧
  (∀ (s s2 : State) (g : Guard) (r : Ref) (h : Hart) (i : Instr) (checks : List (Bool × Stop)) (c : Command) (q : Slot),
    s.oneLane r h → h.takes g = true → copyForm s s2 r h g i checks c ∨ stitchForm s s2 r h g i checks c →
    s2.slotFor? r = some q →
    (h.tx.depth ≠ 0 → exec i s = .next (s.txAbort r .nonlocal 0))
    ∧ (h.tx.depth = 0 → ∀ stop, firstStop (hoopChecks s2 r c ++ checks) = some stop → exec i s = .next (s2.raise r stop))
    ∧ (h.tx.depth = 0 → firstStop (hoopChecks s2 r c ++ checks) = none →
        (c.engine.depth ≤ (q.queued c.engine).length → exec i s = .next (s2.hold r .queueFull))
        ∧ ((q.queued c.engine).length < c.engine.depth → exec i s = .next (queuedWith s2 r h c))))
  ∧ ∀ (s : State) (g : Guard) (r : Ref) (h : Hart) (i : Instr) (c : Src), s.oneLane r h → h.tx.depth = 0 →
    ((∃ bank pat a sg d sl, i = .tldb g bank pat a sg true d c sl)
      ∨ (∃ acc tile bank sh kp int pat n a m sg d sl, i = .tmma g acc tile bank sh kp int pat n a m sg true d c sl)
      ∨ (∃ acc tile bank sh kp int pat n bolt a b m sg d sl, i = .tmmag g acc tile bank sh kp int pat n bolt a b m sg true d c sl)
      ∨ (∃ tile sg d sl, i = .tzero g tile sg true d c sl)
      ∨ (∃ tile sh pat n a b m sg d sl, i = .tsta g tile sh pat n a b m sg true d c sl)
      ∨ ∃ tile pat a sg d sl, i = .tstaSt g tile pat a sg true d c sl) →
    let off := (h.link c).1
    let key := coreKey r.core (s.ctxOf r) off
    off % 16 = 0 → off + 16 ≤ s.nearEnd r.core (s.ctxOf r) 3 off → s.scored key = false → s.poisoned key 16 = false →
    (s.barrierAt key).gen = (h.link c).2 →
    lane i s g r h (s.formSleepers r.core (s.ctxOf r) [r] [⟨key / 64, off / 64, 3, s.ctxOf r⟩])

/-- The commands of a slot. -/
def commandsOf (s : State) (core slot : Nat) : List Command := ((s.slot? core slot).map Slot.commands).getD []

/-- The ranges that a command registers when it fires. -/
def rangesOf (c : Command) (core : Nat) : List Range :=
  match c.engine with
  | .copy | .dfi => c.copyRanges core
  | .stitch => c.stitchRanges core
  | .retrieval => c.listRanges core

/-! #### The sums of the stitch array -/

/-- The aligned integers of a group's finite elements, its scale exponent, and the mark of a NaN or an infinity (R125, R126, R130). -/
def groupsAlign : Prop :=
  ∀ (t : Fmt) (w : Nat) (bits : List Nat), (t = .e4m3 ∨ t = .e5m2 ∨ t = .bf16) → ∃ e : ℤ,
    let vs := bits.map (decodeF t)
    let r := alignGroup t w bits
    groupExponent t vs e ∧ r.2.1 = e - w + 2 ∧ (r.2.2 = true ↔ ∃ v ∈ vs, ¬isFinite v)
      ∧ ∀ (i : Nat) (v : FVal), vs[i]? = some v → isFinite v → ∃ a, r.1[i]? = some a ∧ alignsTo t w e v (a, 0)

/-- What a macro delivers (R128, R130), the order of the sums of four and their flags (R131), and INT32 accumulation (R132). -/
def sumsAccumulate : Prop :=
  (∀ d e : ℤ, macroSum true d e = (Fmt.nanCode .f32, FFlags.IV) ∧ deliversReal .f32 {} (d * (2 : ℝ) ^ e) false (macroSum false d e))
  ∧ (∀ f : FFlags, (tileFlags f).toNat = (f.getLsbD 0).toNat + 2 * (f.getLsbD 2).toNat + 4 * (f.getLsbD 4).toNat
      ∧ (convFlags f).toNat = 2 ^ 8 * ((f.getLsbD 0).toNat + 2 * (f.getLsbD 2).toNat + 4 * (f.getLsbD 3).toNat + 8 * (f.getLsbD 4).toNat))
  ∧ ∀ (old : Nat) (d0 d1 d2 d3 : Int) (m0 m1 m2 m3 : Nat × FFlags),
      let p := faddBits .f32 .rne false m0.1 m1.1
      let q := faddBits .f32 .rne false m2.1 m3.1
      let r := faddBits .f32 .rne false p.1 q.1
      let flags := m0.2 ||| m1.2 ||| m2.2 ||| m3.2 ||| p.2 ||| q.2 ||| r.2
      let c := faddBits .f32 .rne false old r.1
      let v := d0 + d1 + d2 + d3
      let sum := intOf 32 true old + v
      accumulate false false old [d0, d1, d2, d3] [m0, m1, m2, m3] = (r.1, tileFlags flags)
      ∧ accumulate true false old [d0, d1, d2, d3] [m0, m1, m2, m3] = (c.1, tileFlags (flags ||| c.2))
      ∧ accumulate false true old [d0, d1, d2, d3] [m0, m1, m2, m3] = ((v % 2 ^ 32).toNat, 0)
      ∧ accumulate true true old [d0, d1, d2, d3] [m0, m1, m2, m3] = ((sum % 2 ^ 32).toNat, if sum < -2 ^ 31 ∨ 2 ^ 31 ≤ sum then 8 else 0)

/-- The integers of a K-chain of an A row: of BPP elements the planes read, at the original scale; else the aligned ones of its group
(R123, R126, R128, R395). -/
def chainsRead : Prop :=
  ∀ (a : ARow) (q : Pattern) (planes k : Nat),
    let elem := fun j => a.elems.getD (64 * k + j) 0
    (q.bpp = true → a.chain q planes k =
      ((List.range 64).map fun j => Int.fdiv (intOf q.p true (elem j)) (2 ^ (q.p - planes)) * 2 ^ (q.p - planes), a.scale, false))
    ∧ (q.bpp = false → a.chain q planes k =
      alignGroup q.ty (if q.ty = .bf16 then 16 else if q.wide then 12 else 8) ((List.range 64).map elem))

/-- A row of a stream passes: each of the first NUSE elements of the tile's row m becomes the accumulation of the exact sums of the
four macros with the bank's weights; MODE is set, the flags gather, and no other byte changes (R128 to R132, R395, R396, R405). -/
def rowPasses : Prop :=
  ∀ (s : State) (core m : Nat) (c : Command) (t : Stream) (q : Pattern) (a : ARow), core < 256 → t.tile < 2 → m < 64 →
    let b := (s.core core).banks.toList.getD t.bank {}
    let s' := s.writeRow core c t q m a
    let d := fun k n => if a.zero then 0 else
      ∑ j ∈ Finset.range 64, ((a.chain q t.planes k).1).getD j 0 * s.weightAt core t.bank b.fmt (64 * k + j) n
    let mac := fun k n =>
      let eB := (b.exps.get? (k * 768 + n)).getD (b.sb, false)
      macroSum (!a.zero && ((a.chain q t.planes k).2.2 || eB.2)) (d k n) ((a.chain q t.planes k).2.1 + eB.1)
    let el := fun n => accumulate t.acc t.int (s.tileBits core t.tile m n) [d 0 n, d 1 n, d 2 n, d 3 n] [mac 0 n, mac 1 n, mac 2 n, mac 3 n]
    b.nuse ≤ 768 → (∀ n < b.nuse, s'.tileBits core t.tile m n = (el n).1)
      ∧ s'.tileStatus core t.tile = (List.range b.nuse).foldl (fun v n => v ||| (el n).2) (setBits (s.tileStatus core t.tile) 4 1 t.int.toNat)
      ∧ ∀ x, ¬(tileKey core t.tile m 0 ≤ x ∧ x < tileKey core t.tile m 0 + 4 * b.nuse) → Memory.get s'.mem x = Memory.get s.mem x

/-- The rows of a stream pass in order; a row of zeros stands for an index outside the pattern (R405, R406). -/
def rowsInOrder : Prop :=
  ∀ (s : State) (core m : Nat) (c : Command) (t : Stream) (q : Pattern) (hoop : Bool) (row : Option Nat) (l : List (Option Nat)) (a : ARow),
    s.streamRows core c t q hoop m [] = (s, 0, none)
    ∧ ((row = none ∧ a = { zero := true } ∨ ∃ i, row = some i ∧ (if hoop then s.hoopRow core c q i else s.patternRow core c q i) = .ok a) →
        (t.acc = false ∨ s.tileRowBad core t.tile m ((s.core core).banks.toList.getD t.bank {}).nuse = false) →
        let x := (s.writeRow core c t q m a).streamRows core c t q hoop (m + 1) l
        s.streamRows core c t q hoop m (row :: l) = (x.1, x.2.1 + 1, x.2.2))

/-! #### What the engines' commands write -/

/-- A near tile that may be written, and what it is after pieces have been written to it in order. -/
def nearTo (core ctx : Nat) (q : Pattern) : Prop :=
  q.space ≠ 0 ∧ q.keyen = false ∧ q.bpp = false
    ∧ ∀ a ∈ q.addrs, inHoops (nearKey core ctx 0 0 q.space a) = false ∧ a % 64 + q.unit ≤ 64
def tileWritten (core ctx : Nat) (q : Pattern) (data : List (List Byte)) (m : List Host.Cell) : List Host.Cell :=
  (q.addrs.zip data).foldl (fun m e => Memory.setBytes m (nearKey core ctx 0 0 q.space e.1) e.2) m

/-- A near tile that may be read, its pieces, and their values. -/
def nearFrom (s : State) (core ctx : Nat) (q : Pattern) : Prop :=
  q.space ≠ 0 ∧ q.keyen = false ∧ q.bpp = false ∧ ∀ a ∈ q.addrs, s.poisoned (nearKey core ctx 0 0 q.space a) q.unit = false
def tileData (s : State) (core ctx : Nat) (q : Pattern) : List (List Byte) :=
  q.addrs.map fun a => Memory.getBytes s.mem (nearKey core ctx 0 0 q.space a) q.unit

/-- A fired command that may retire now, and one that holds no hoop entries and names no barrier object. -/
def mayRetire (s : State) (core : Nat) (c : Command) : Prop :=
  c.fired = true ∧ c.waiting = none ∧ c.refused = none ∧ s.bulkOut (.command c.id) = false ∧ s.hoopsOpen core c = true
def plainCommand (c : Command) : Prop := c.claims = [] ∧ c.taken = [] ∧ c.barrier = none

/-- TLDB leaves the bank valid with its type and size, each weight the 8-bit integer of its element or the aligned integer of its column's
group, 0 outside the matrix, and each group's exponent (R126, R390, R391, R403). -/
def bankLoads : Prop :=
  ∀ (s : State) (core slot n : Nat) (c : Command) (source : BitVec 512) (off : BitVec 48), s.findCommand c.id = some (core, slot, c) → mayRetire s core c →
    plainCommand c → c.engine = .stitch → c.work = .loadBank n → c.src = .pat source off → n < 4 → core < 256 →
    let q := (Pattern.ofBits source).shifted off.toNat
    let cols := if q.ty = .bf16 then 384 else 768
    nearFrom s core c.ctx q → q.sck = 0 → q.size 2 = 1 → q.size 3 = 1 → q.size 0 ≤ cols → q.size 1 ≤ 256 →
    (q.ty = .i8 ∨ q.ty = .e4m3 ∨ q.ty = .e5m2 ∨ q.ty = .bf16) →
    let elem := fun k x => if k < q.size 1 ∧ x < q.size 0 then Memory.getNat s.mem (nearKey core c.ctx 0 0 q.space (q.addr k x)) q.unit else 0
    ∃ t, exec (.engineRetire c.id) s = .next t ∧
      let b := (t.core core).banks.toList.getD n {}
      b.valid = true ∧ b.fmt = q.ty ∧ b.kuse = q.size 1 ∧ b.nuse = q.size 0 ∧ b.source = source ∧ b.offset = off
      ∧ ∀ k x, k < 256 → x < cols →
          (q.ty = .i8 → t.weightAt core n q.ty k x = intOf 8 true (elem k x))
          ∧ (q.ty ≠ .i8 →
            let g := alignGroup q.ty (if q.ty = .bf16 then 16 else 8) ((List.range 64).map fun j => elem (64 * (k / 64) + j) x)
            g.1[k % 64]? = some (t.weightAt core n q.ty k x) ∧ (x < q.size 0 → b.exps.get? (k / 64 * 768 + x) = some (g.2.1, g.2.2)))

/-- TMMA and TMMAG retire with every row passed in order; the rows of a near FP8 or BF16 pattern are its elements (R405, R406). -/
def streamsRetire : Prop :=
  (∀ (s : State) (core i : Nat) (c : Command) (q : Pattern), q.space ≠ 0 → q.keyen = false → q.bpp = false → q.sck = 0 →
    (∀ k < min (q.size 0) 256, s.poisoned (nearKey core c.ctx 0 0 q.space (q.addr i k)) q.unit = false) →
    let elem := fun k => Memory.getNat s.mem (nearKey core c.ctx 0 0 q.space (q.addr i k)) q.unit
    s.patternRow core c q i = .ok { elems := (List.range (min (q.size 0) 256)).map elem })
  ∧ ∀ (s s2 : State) (core slot tile bank pl rows n : Nat) (acc int ga : Bool) (li : Option (BitVec 128 × Nat)) (c : Command) (q : Pattern)
      (l : List (Option Nat)), s.findCommand c.id = some (core, slot, c) → mayRetire s core c → c.engine = .stitch →
    c.work = .stream tile bank acc pl int rows ga li → c.reload = false → c.dst.pattern? = some q →
    let s1 := s.serving (some c.id)
    let b := (s.core core).banks.toList.getD bank {}
    pairs q b = true → (ga = false → l = (List.range rows).map some) → (ga = true → s1.streamList core c q rows ga li = .ok l) →
    s1.streamRows core c ⟨tile, bank, acc, pl, int⟩ q (!ga && c.src != .empty) c.rows ((l.take rows).drop c.rows) = (s2, n, none) →
    exec (.engineRetire c.id) s = .next ((s2.retire core slot c { bytes := rows * b.nuse * 4, reads := s1.streamLines core c }).serving none)

/-- TSTA converts the tile's elements into a near destination and gathers the flags; TSTA.st writes the status word and leaves
MODE alone in it (R409, R410). -/
def tileStores : Prop :=
  ∀ (s : State) (core slot tile : Nat) (c : Command) (q : Pattern), s.findCommand c.id = some (core, slot, c) → mayRetire s core c → plainCommand c →
    c.engine = .stitch → tile < 2 → c.dst.pattern? = some q →
    (∀ (scale : Word) (rows : Nat), c.work = .storeTile tile scale rows → nearTo core c.ctx q → q.sck = 0 → q.seeden = false → q.round ≠ .rsr →
      (∀ m < rows, s.tileRowBad core tile m (q.size 0) = false) →
      let mode := (s.tileStatus core tile).getLsbD 4
      let k : Conv := { df := q.ty, sf := if mode then .i32 else .f32, planes := q.p, rm := q.round, sat := q.sat, quant := true, scaled := true }
      let out := (List.range rows).flatMap fun m => (List.range (q.size 0)).map fun n =>
        k.element (if mode then ((scale.toNat % 256 : Nat) : Int) - 127 else 0) 0 (s.tileBits core tile m n)
      ∃ t, exec (.engineRetire c.id) s = .next t ∧ t.mem = tileWritten core c.ctx q (out.map fun e => bytesOfNat q.unit e.1) s.mem
        ∧ t.tileStatus core tile = out.foldl (fun v e => v ||| convFlags e.2) (s.tileStatus core tile))
    ∧ (c.work = .storeStatus tile → let key := nearKey core c.ctx 0 0 3 q.base
      inHoops key = false → q.base % 64 + 4 ≤ 64 →
      ∃ t, exec (.engineRetire c.id) s = .next t ∧ t.mem = Memory.setBytes s.mem key (bytesOfNat 4 (s.tileStatus core tile).toNat)
        ∧ t.tileStatus core tile = s.tileStatus core tile &&& 0x10)

/-- CPYM writes the copy of its tile at its receivers, one part at a time, in an order that is open, each with what the first part read; the
last part ends the command (R382). -/
def multicastParts : Prop :=
  ∀ (s : State) (core slot : Nat) (c : Command) (p q : Pattern) (cores : List Nat), s.findCommand c.id = some (core, slot, c) →
    c ∈ commandsOf s core slot → mayRetire s core c → plainCommand c → c.engine = .copy → c.work = .multicast cores → c.parts ≠ [] →
    c.src.pattern? = some p → c.dst.pattern? = some q → (∀ k ∈ c.parts, nearTo k c.ctx q) →
    (c.applied = false → p.fmt = q.fmt ∧ nearFrom s core c.ctx p) →
    let data := if c.applied then chunks q.unit c.query else ((q.addrs.zip (tileData s core c.ctx p)).map Prod.snd)
    ∃ t i k, exec (.engineRetire c.id) s = .next t ∧ c.parts[i]? = some k ∧ t.mem = tileWritten k c.ctx q data s.mem
      ∧ (c.parts.length = 1 → (∀ x ∈ commandsOf t core slot, x.id ≠ c.id) ∧ t.ranges = s.ranges.filter (fun g => g.cmd != c.id))
      ∧ (c.parts.length ≠ 1 → t.ranges = s.ranges ∧ ∃ x ∈ commandsOf t core slot, x.id = c.id ∧ x.applied = true
          ∧ x.parts = c.parts.eraseIdx i ∧ x.query = data.flatten)

/-- GATH writes the element of each index of its list, zeros for an index outside its bolt's EXTENT without BTRAP; SCAT writes each data element
to the element of its index, in list order, and leaves out those outside (R384 to R386). -/
def gathersAndScatters : Prop :=
  ∀ (s : State) (core slot : Nat) (c : Command) (p q : Pattern) (v : BitVec 128), s.findCommand c.id = some (core, slot, c) → mayRetire s core c →
    plainCommand c → c.engine = .dfi → c.applied = false → c.src.pattern? = some p → c.dst.pattern? = some q →
    let b := Bolt.ofBits v
    let s1 := s.serving (some c.id)
    (∀ vals : List (List Byte), c.work = .gather v → nearFrom s core c.ctx p → p.unit = 4 → nearTo core c.ctx q →
      (let idx := (tileData s core c.ctx p).map natOfBytes
       vals.length = idx.length ∧ ∀ j i : Nat, idx[j]? = some i → ∃ x, vals[j]? = some x
        ∧ (b.extent ≤ i → b.btrap = false ∧ x = List.replicate b.width 0)
        ∧ (i < b.extent → b.raw i % b.width = 0 ∧ b.at i % 64 + b.width ≤ 64 ∧ ∃ dpa, s1.translate c.ctx (b.at i) false = .ok dpa
            ∧ s.poisoned dpa b.width = false ∧ x = Memory.getBytes s.mem dpa b.width)) →
      ∃ t, exec (.engineRetire c.id) s = .next t ∧ t.mem = tileWritten core c.ctx q vals s.mem)
    ∧ (c.work = .scatter v → nearFrom s core c.ctx p → p.unit = b.width → nearFrom s core c.ctx q → q.unit = 4 → s.poison = [] →
      let both := ((tileData s core c.ctx q).map natOfBytes).zip (tileData s core c.ctx p)
      let writes := (both.filter fun e => decide (e.1 < b.extent)).map fun e => (b.at e.1, e.2)
      (∀ e ∈ both, if e.1 < b.extent then b.raw e.1 % b.width = 0 else b.btrap = false) → s1.writeStop core c.ctx writes = none →
      ∃ t, exec (.engineRetire c.id) s = .next t ∧ t.mem = (writes.foldl (fun s e => s.storeGlobal c.ctx e.1 e.2) s1).mem)

/-- BIN sorts its rows by the thresholds that their lengths reach, in row order, and fills the entries of its classes at one
retirement with row, start, length and class (R388). -/
def binsFill : Prop :=
  (∀ (first k : Nat) (th p : List Nat), (∀ x ∈ p, x < 2 ^ 32) → k ≤ th.length →
    (binRows first th p)[k]? = some ((List.range (p.length - 1)).filterMap fun i =>
      let len := (((p.getD (i + 1) 0 : Int) - (p.getD i 0 : Int)) % 2 ^ 32).toNat
      if th.countP (· ≤ len) = k then some ((first + i) % 2 ^ 32, p.getD i 0, len) else none))
  ∧ (∀ (classes : List (List (Nat × Nat × Nat))) (k : Nat) (l : List (Nat × Nat × Nat)), classes[k]? = some l → k < 2 ^ 32 →
      (∀ e ∈ l, e.1 < 2 ^ 32 ∧ e.2.1 < 2 ^ 32 ∧ e.2.2 < 2 ^ 32) →
      (binFills classes)[k]? = some (l.map fun e => bytesOfNat 16 (e.1 + 2 ^ 32 * e.2.1 + 2 ^ 64 * e.2.2 + 2 ^ 96 * k)))
  ∧ ∀ (s : State) (core slot : Nat) (c : Command) (b : BitVec 128) (first count hoop : Nat) (th : List Nat) (classes : List (List (Nat × Nat × Nat))),
      s.findCommand c.id = some (core, slot, c) → mayRetire s core c → c.barrier = none → c.engine = .dfi → c.applied = false → s.poison = [] →
      c.work = .bin b first count hoop th (some classes) →
      exec (.engineRetire c.id) s = .next (((((c.claims.zip (binFills classes)).foldl (fun s e => s.fillEntries core c.ctx e.1 e.2)
        (s.serving (some c.id))).chargeBytes c (16 * (classes.map List.length).sum)).finish core slot c).serving none)

/-! #### What the retrieval engines apply -/

/-- RTDEL, RTRHS, RTDEF and its forms, and RTPRB are applied at the table's engine, each as one event, and reply as their instructions ask; a
rehash moves the cursor and swaps the families at its end; a probe finds each row once, no more than its limit, and writes the rows, then
0xFFFFFFFF, and the count (R491, R496 to R499). -/
def operationsApply : Prop :=
  (∀ (s s' : State) (core slot rt : Nat) (c : Command), s.findCommand c.id = some (core, slot, c) → s.opArrives core slot c = true →
    let s1 := s.serving (some c.id)
    let die := s.tableDieOf core c.ctx rt
    let becomes := fun (t : State) => exec (.retrievalOperationApply c.id) s = .next (t.serving none)
    (∀ t row pd v, c.unread = false → c.work = .delete rt row pd → s.table? die c.ctx rt = some t → s1.opDelete ⟨die, c, t⟩ row.toNat = .ok (v, s') →
        becomes ((s'.opDone c).replyOp core slot c pd v))
    ∧ (∀ t n, c.unread = false → c.work = .rehash rt n → s.table? die c.ctx rt = some t → s1.opRehash ⟨die, c, t⟩ rt n.toNat = .ok s' →
        becomes ((s'.opDone c).finish core slot c))
    ∧ (∀ v, c.unread = false → c.work = .define rt v 0 → s1.opDefine (field v 17 2) c rt v = .ok s' →
        becomes ((s'.opDone c).tellDies core slot c rt (field v 17 2)))
    ∧ (∀ t v, c.unread = false → c.work = .define rt v 1 → s.table? die c.ctx rt = some t → s1.opRehashStart ⟨die, c, t⟩ rt v = .ok s' →
        becomes (((s'.opDone c).finish core slot c).ackOne c.issuer))
    ∧ (∀ v, c.unread = false → c.work = .define rt v 2 →
        becomes ((((match s.table? die c.ctx rt with
          | some t => s1.setTable die c.ctx rt { t with valid := false }
          | none => s1)).opDone c).tellDies core slot c rt die))
    ∧ (∀ t d list max rows more, c.unread = false → c.work = .probe rt d list max → s.table? die c.ctx rt = some t →
        s1.opProbe ⟨die, c, t⟩ max = .ok ((rows, more), s') →
        becomes ((s'.opDone c).modCommand core slot c.id fun c => { c with applied := true, found := rows.map (BitVec.ofNat 32), more })))
  ∧ (∀ (s s' : State) (w : Work3) (rt : Nat),
      (∀ max rows more, s.opProbe w max = .ok ((rows, more), s') → rows.Nodup ∧ rows.length ≤ max ∧ (more = true → rows.length = max))
      ∧ (∀ x, w.table.valid = true → s.opRehash w rt x = .ok s' →
          let n := min x (2 ^ w.table.k - w.table.cursor)
          let t := w.table
          w.table.rh = true ∧ s'.table? w.die w.cmd.ctx rt = some (if t.cursor + n = 2 ^ t.k then
            { t with fam := t.newFam, k := t.newK, base := t.newBase, gen := !t.gen, rh := false, cursor := 0 } else { t with cursor := t.cursor + n }))
      ∧ ∀ die c v, s.opDefine die c rt v = .ok s' → ∃ t, s'.table? die c.ctx rt = some t ∧ t.fam = field v 1 3 ∧ t.k = field v 4 5
          ∧ t.l = field v 9 3 + 1 ∧ t.slots = 4 * 2 ^ field v 12 2 ∧ t.pol = field v 14 2 ∧ t.sp = v.getLsbD 16 ∧ t.die = field v 17 2
          ∧ t.base.toNat = field v 32 48 ∧ t.ovbase.toNat = field v 96 48 ∧ t.ovcap = field v 144 13 ∧ t.rh = false)
  ∧ ∀ (s : State) (core slot rt start max : Nat) (d : Reg) (c : Command) (v : BitVec 128), s.findCommand c.id = some (core, slot, c) → mayRetire s core c →
      plainCommand c → c.engine = .retrieval → c.applied = true → c.work = .probe rt d (some (v, start)) max →
      let b := Bolt.ofBits v
      b.space ≠ 0 → b.width = 4 → (∀ j < max, start + j < b.extent ∧ b.raw (start + j) % 4 = 0 ∧ b.at (start + j) % 64 + 4 ≤ 64
        ∧ b.at (start + j) + 4 ≤ s.nearEnd core c.ctx b.space (b.at (start + j))
        ∧ inHoops (nearKey core c.ctx 0 0 b.space (b.at (start + j))) = false) →
      ∃ t p w, exec (.engineRetire c.id) s = .next t
        ∧ t.mem = (List.range max).foldl (fun m j => Memory.setBytes m (nearKey core c.ctx 0 0 b.space (b.at (start + j)))
            (bytesOfNat 4 (((c.found[j]?).map BitVec.toNat).getD 0xFFFFFFFF))) s.mem
        ∧ p ∈ t.packets ∧ p.body = .result w ∧ w.ref = c.issuer ∧ w.flag = c.flag
        ∧ w.writes = [(d.toNat, BitVec.ofNat 64 (c.found.length + if c.more then 2 ^ 31 else 0))]

/-- The retrieval instructions queue their operations and count them for RTSYNC, and the engines apply each as one event; RTDEF and its forms, and RTINS and RTDEL with a
predicate, hold the lane for the reply; a probe checks its ends first and counts its done flag; RTSYNC goes on when no operation
is open (R491, R495 to R500). In which event an operation applies, and a move by RTDEF, are the model's
choices (log 40). -/
def Obligations.RetrievalInstructions : Prop := operationsApply ∧
  ∀ (s : State) (g : Guard) (r : Ref) (h : Hart) (pd : BitVec 3) (rt : BitVec 4) (a : Src) (sl : BitVec 3) (bolt : BitVec 6) (q : Slot),
    s.oneLane r h → s.slotFor? r = some q → h.tx.depth = 0 →
    let op := fun (w : Work) (sl : BitVec 3) => ({ id := 0, engine := .retrieval, work := w, issuer := r, ctx := 0, sl } : Command)
    let posted := fun (c : Command) (s : State) => (queuedWith s r h c).modHart r fun h => { h with ops := h.ops + 1 }
    let held := fun (c : Command) (s : State) => (queuedWith s r h c).setHart r { h with ops := h.ops + 1, status := .acks 1 }
    let row := BitVec.ofNat 32 (h.word a)
    let full := 8 ≤ (q.queued .retrieval).length
    (∀ i, (i = .rtins g pd rt a sl ∨ i = .rtdel g pd rt a sl ∨ i = .rtrhs g rt a sl ∨ i = .rtdefOff g rt) → full →
        lane i s g r h (s.hold r .queueFull))
    ∧ (¬full → pd = 7 → lane (.rtins g pd rt a sl) s g r h (posted (op (.insert rt.toNat row none) sl) s)
        ∧ lane (.rtdel g pd rt a sl) s g r h (posted (op (.delete rt.toNat row none) sl) s))
    ∧ (¬full → pd ≠ 7 → lane (.rtins g pd rt a sl) s g r h (held (op (.insert rt.toNat row (some pd)) sl) s)
        ∧ lane (.rtdel g pd rt a sl) s g r h (held (op (.delete rt.toNat row (some pd)) sl) s))
    ∧ (¬full → lane (.rtrhs g rt a sl) s g r h (posted (op (.rehash rt.toNat row) sl) s)
        ∧ lane (.rtdefOff g rt) s g r h (held (op (.define rt.toNat 0 2) 0) s))
    ∧ (∀ bs s2 q2, s.image r h bolt a 32 = (some bs, s2) → s2.slotFor? r = some q2 → (q2.queued .retrieval).length < 8 →
        let v := BitVec.ofNat 256 (natOfBytes bs)
        lane (.rtdef g rt bolt a) s g r h (held (op (.define rt.toNat v 0) 0) s2)
          ∧ lane (.rtdefRh g rt bolt a) s g r h (held (op (.define rt.toNat v 1) 0) s2))
    ∧ lane (.rtsync g) s g r h (if h.ops = 0 then s.goOn r else s.setHart r { h with status := .sync })
    ∧ ∀ (d : Reg) (sh : Bool) (n : BitVec 5) (pat : BitVec 8) (b : Src) (m : BitVec 12) (rec_ : BitVec 512) (s2 : State) (q2 : Slot),
        s.patternRead r h pat.toNat = (some rec_, s2) → s2.slotFor? r = some q2 → (q2.queued .retrieval).length < 8 →
        let ctx := s2.ctxOf r
        let src := EndPt.pat rec_ ((h.src a).setWidth 48)
        let ent := (s2.hoop r.core ctx n.toNat).ent
        let max := if sh then m.toNat * ent / 4 else m.toNat
        let dst := if sh then EndPt.hoop n.toNat m.toNat else .empty
        let vb := s2.boltBitsOf r h bolt
        let l := Bolt.ofBits vb
        let checks := s2.hoopStops r.core ctx (dst.hoops.map Prod.fst) ++ [(src.bad || !keyFormat (src.pattern?.getD (Pattern.ofBits 0)), stopOf .patternInvalid),
            (sh && (ent % 4 != 0 || decide (4096 < max)), stopOf .hoopFault), (s2.hoopBad r.core ctx dst none, stopOf .hoopFault),
            (!sh && (l.esize != 2 || !Need.ok .store l.access), stopOf .patternInvalid), (s2.keyBad ctx src, stopOf .keyInvalid)]
          ++ s2.nearChecks r.core ctx [(src, false)] none ++ [(!sh && (l.malformed || decide (3 < l.space)), nearStop .bounds l.space l.base true)]
        (∀ stop, firstStop checks = some stop → lane (.rtprb g d rt sh n pat a b bolt m sl) s g r h (s2.raise r stop))
        ∧ (firstStop checks = none → lane (.rtprb g d rt sh n pat a b bolt m sl) s g r h
            (let t := posted { op (.probe rt.toNat d (if sh then none else some (vb, h.index b)) max) sl with src, dst } s2
             match s2.cur.flag with
             | none => t
             | some f => t.modHart r fun k => k.setDone f (k.doneCount f + 1)))

/-- A command that may not fire does nothing; one that may fires, with its ranges registered; a fired copy between near tiles of
one format writes each element where the destination pattern puts it; a fired TZERO clears its tile; a fired command whose access
fails, fails with no effect but its report; BIN's first step keeps its rows by class; a parity error reloads the bank and goes on
at the row, having spent planes of which the spec leaves the number open; an engine applies an operation or refuses it; an overlay image
that has come and passes its checks is installed, and a bad one fails at its address; what each command writes when it retires, with the sums of the
stitch array (R81, R125 to R132, R376 to R388, R396, R403 to R410, R496, R501).
That an event whose
condition does not hold changes nothing is the model's choice (log 9); that a retirement is one event, where an overlay image fails, how
many planes and rows have passed, and the single event of an operation are its readings (logs 33, 36, 38, 40, 61). -/
def Obligations.EngineEvents : Prop := (groupsAlign ∧ sumsAccumulate ∧ chainsRead ∧ rowPasses ∧ rowsInOrder)
  ∧ (bankLoads ∧ streamsRetire ∧ tileStores ∧ multicastParts ∧ gathersAndScatters ∧ binsFill) ∧
  ∀ (s : State) (core slot : Nat) (c : Command), s.findCommand c.id = some (core, slot, c) → c ∈ commandsOf s core slot →
    (s.commandFires core slot c = false → exec (.engineFire c.id) s = .next s)
    ∧ (s.commandFires core slot c = true → (∀ o k t, c.work ≠ .overlay o k t) → (∀ rt d l m, c.work ≠ .probe rt d l m) →
        ∃ t n, exec (.engineFire c.id) s = .next t ∧ t.ranges = s.ranges ++ (rangesOf c core).map (fun g => { g with since := n })
          ∧ ∃ x ∈ commandsOf t core slot, x.id = c.id ∧ x.fired = true ∧ x.work = c.work ∧ x.src = c.src ∧ x.dst = c.dst)
    ∧ (∀ a addr, c.refused = some a → s.hoopsOpen core c = true →
        exec (.engineFailure c.id addr) s = .next (s.commandFails core slot c (some a) 0) ∧ exec (.engineRetire c.id) s = .next s)
    ∧ (c.fired = true → c.waiting = none → c.refused = none → s.bulkOut (.command c.id) = false → s.hoopsOpen core c = true →
        (∀ p q : Pattern, c.engine = .copy → c.work = .copy → c.applied = false → c.src.pattern? = some p → c.dst.pattern? = some q → p.fmt = q.fmt → p.bpp = false →
          p.space ≠ 0 → q.space ≠ 0 → p.keyen = false → q.keyen = false →
          (∀ a ∈ p.addrs, s.poisoned (nearKey core c.ctx 0 0 p.space a) q.unit = false) →
          (∀ a ∈ q.addrs, inHoops (nearKey core c.ctx 0 0 q.space a) = false ∧ a % 64 + q.unit ≤ 64) →
          c.claims = [] → c.taken = [] → c.barrier = none →
          ∃ t, exec (.engineRetire c.id) s = .next t ∧ (∀ x ∈ commandsOf t core slot, x.id ≠ c.id)
            ∧ t.ranges = s.ranges.filter (fun g => g.cmd != c.id)
            ∧ t.mem = (p.addrs.zip q.addrs).foldl (fun m e =>
                Memory.setBytes m (nearKey core c.ctx 0 0 q.space e.2) (Memory.getBytes s.mem (nearKey core c.ctx 0 0 p.space e.1) q.unit)) s.mem)
        ∧ (∀ tile, c.engine = .stitch → c.work = .zeroTile tile → c.taken = [] → c.claims = [] → c.barrier = none → tile < 2 →
          ∃ t, exec (.engineRetire c.id) s = .next t ∧ t.mem = Memory.clear s.mem (tileKey core tile 0 0) 196608 ∧ t.tileStatus core tile = 0)
        ∧ (∀ a space w, (c.engine = .copy ∨ c.engine = .dfi) → s.attempt core slot c = some (.error (.fails a space, w)) → c.claims = [] →
          (∀ addr, exec (.engineFailure c.id addr) s = .next ((s.finish core slot c).reportEngine core slot c .engineFault a space))
            ∧ exec (.engineRetire c.id) s = .next s))
    ∧ (∀ b first count hoop th classes, c.work = .bin b first count hoop th none → s.binReady core slot c = true →
        (count = 0 → exec (.binPrepare c.id) s = .next ((s.dropCommand core slot c.id).releaseHeld core (· == .queueFull)))
        ∧ (count ≠ 0 → s.binStep core c = some (.ok classes) → ∃ t, exec (.binPrepare c.id) s = .next t ∧ t.mem = s.mem
            ∧ commandsOf t core slot = (commandsOf s core slot).map fun x =>
                if x.id = c.id then { x with work := .bin b first count hoop th (some classes) } else x))
    ∧ (∀ tile bank acc pl int rows ga li row s1 n s2, c.work = .stream tile bank acc pl int rows ga li → c.fired = true → c.waiting = none → c.refused = none →
        c.reload = false → c.rows ≤ row → row < rows → s.streamUpTo core c row = (s1, n, none) →
        (((s1.setTileStatus core tile (setBits (s1.tileStatus core tile) 5 1 1)).event c.issuer.core c.ctx 0x16 1 c.system).spend.planeCycles c
          (1 + Config.choice s1.free % Nat.max pl 1)).reloadBank core c bank = .ok s2 →
        exec (.stitchParityReload c.id row) s = .next (s2.modCommand core slot c.id fun x => { x with rows := row }))
    ∧ (s.opArrives core slot c = true → ∀ rt row pd, c.work = .insert rt row pd →
        let die := s.tableDieOf core c.ctx rt
        (∀ t v s', s.table? die c.ctx rt = some t → (s.serving (some c.id)).opInsert ⟨die, c, t⟩ row.toNat = .ok (v, s') →
          exec (.retrievalOperationApply c.id) s = .next (((s'.opDone c).replyOp core slot c pd v).serving none))
        ∧ (s.table? die c.ctx rt = none → pd = none → exec (.retrievalOperationApply c.id) s =
            .next (((s.opDone c).finish core slot c).reportEngine core slot c .retrievalFault none 0)))
    ∧ ∀ (l : OverlayLoad) (image : List Byte) (n : Nat), (s.cores.findSome? fun e => e.2.loads.find? fun x => x.id == l.id) = some l →
        s.loadReady l = true → l.asked = true →
        let gone := s.modCore l.core fun k => { k with loads := k.loads.filter fun x => x.id != l.id }
        (∀ va, s.loadImage l = .fails va → exec (.overlayLoadCompletion l.id) s = .next (gone.loadEnded l none (some va)))
        ∧ (s.loadImage l = .image image → s.loadSlot l = some n → exec (.overlayLoadCompletion l.id) s =
            .next (((gone.install l n image).loadEnded l (some image.length)).awaitOverlays l.core)
          ∧ ((gone.install l n image).core l.core).imem.get? n = some { ctx := l.ctx, ovl := l.ovl, size := image.length, lastFetch := s.tsc.toNat }
          ∧ (image.length ≤ 65536 → Memory.getBytes (gone.install l n image).mem (imemKey l.core n 0) image.length = image))
/-! ### Requests, replies and arrivals -/

/-- The packet has been taken, and a reply stands in its stead on its way to the packet's origin (R39, R442). -/
def repliedBy (s t : State) (p : Packet) (b : Body) : Prop :=
  ∃ q, t.packets = s.packets.filter (fun x => x.id != p.id) ++ [q] ∧ q.body = b ∧ q.src = p.home ∧ q.home = p.src ∧ q.slack = p.slack ∧ q.ctx = p.ctx
    ∧ q.place = if p.src == p.home then .arrived else .source (coreOfHome p.home)

/-- A lane that receives a result: its registers, what they hold of poison, and its done flag (R63, R471). -/
def received (h : Hart) (writes : List (Nat × DWord)) (poison : DWord) (flag : Option Nat) : Hart :=
  let k := { writes.foldl (fun (h : Hart) e => h.setReg e.1 e.2) h with
    poison := (writes.foldl (fun (h : Hart) e => h.setReg e.1 e.2) h).poison ||| poison }
  match flag with
  | none => k
  | some f => k.setDone f (k.doneCount f - 1)

/-- A result is written to its thread and lowers its done flag; a request performs at its home and is answered with what it read,
a failed one with its cause; an atomic is one read and write; an acknowledgement makes its update and counts for the lane that
waits (R43, R63, R318, R334, R354, R471, R483, R557). That a request which a command's range stops is answered as failed, and that an
atomic writes at its home in one event, are the model's choices (logs 10, 16); that an event whose condition does not hold changes
nothing is its choice too (log 9). -/
def Obligations.RequestsAndReplies : Prop :=
  ∀ (s : State) (p : Packet), s.packet? p.id = some p → s.packets.filter (fun q => q.id == p.id) = [p] → p.ovd = false →
    (∀ w r h, p.body = .result w → w.twin = none → w.release = false → w.sample = none → w.cursor = none → s.whereIs w.ref.tid = some r →
      s.hart? r = some h → h.status = .running →
      exec (.resultWriteback p.id) s = .next ((s.dropPacket p.id).modHart r fun h => received h w.writes w.poison w.flag))
    ∧ (∀ a old poisoned r h, p.body = .atomicReply a old poisoned → a.dest.sample = none → s.whereIs a.dest.ref.tid = some r → s.hart? r = some h →
      h.status = .running →
      exec (.atomicReply p.id) s = .next ((s.dropPacket p.id).modHart r fun h =>
        received h (a.dest.writes old.toNat) (if poisoned then a.dest.poison else 0) a.dest.flag))
    ∧ (∀ a stop r h, p.body = .failure a stop → a.dest.sample = none → a.held = false → a.parts.length ≤ 1 →
      s.whereIs a.dest.ref.tid = some r → s.hart? r = some h → h.status = .running →
      exec (.atomicReply p.id) s = .next ((((s.dropPacket p.id).modHart r fun h => received h (a.dest.writes 0 ++ a.zeros) 0 a.dest.flag).lateStop
        a.dest.ref a.ctx { stop with served := true } a.pc.toNat a.eord.toNat).fenceCheck a.dest.ref.tid))
    ∧ (∀ a, (p.body = .read a ∨ p.body = .atomic a) → ∀ i, i = (if p.body = .read a then Instr.readRequest p.id else .atomicRequest p.id) →
      (s.requestReady p = false → exec i s = .next s)
      ∧ (s.requestReady p = true → (∀ stop, s.serve p a = .fails stop → stop.cause ≠ .rangeLock →
          ∃ t, exec i s = .next t ∧ t.mem = s.mem ∧ repliedBy s t p (.failure a stop))
        ∧ (∀ c va, s.serve p a = .faults c va → exec i s = .next (s.requestWaits p a c va))))
    ∧ (∀ a x dpa, p.body = .read a → s.requestReady p = true → s.serve p a = .performs [dpa] → a.parts = [x] →
      (a.write = false → ∃ t w, exec (.readRequest p.id) s = .next t ∧ t.mem = s.mem ∧ repliedBy s t p (.result w) ∧ w.ref = a.dest.ref ∧ w.flag = a.dest.flag
        ∧ w.release = a.held ∧ w.owed = true ∧ w.cursor = a.cursor ∧ w.writes = { a.dest with reg := x.reg }.writes (if a.overlay then
            natOfBytes ((s.plainBytes (coreOfHome p.home) a.ctx a.party x.va.toNat dpa a.bytes).map Prod.fst) else Memory.getNat s.mem dpa a.bytes)
            ++ a.zeros)
      ∧ (a.write = true → inHoops dpa = false → ∃ t w, exec (.readRequest p.id) s = .next t ∧ w.writes = [] ∧ w.flag = a.dest.flag
        ∧ t.mem = Memory.setBytes s.mem dpa (bytesOfNat a.bytes x.data) ∧ ∃ q ∈ t.packets, q.body = .result w ∧ q.home = p.src))
    ∧ (∀ a x dpa k, p.body = .atomic a → s.requestReady p = true → s.serve p a = .performs [dpa] → a.parts = [x] → a.kind = some k →
      inHoops dpa = false →
      let old := Memory.getNat s.mem dpa a.bytes
      ∃ t b, exec (.atomicRequest p.id) s = .next t
        ∧ t.mem = (match atomNew k a.fmt (if k == .cas then a.b else x.data) x.data old with
          | none => s.mem
          | some v => Memory.setBytes s.mem dpa (bytesOfNat a.bytes v))
        ∧ ∃ q ∈ t.packets, q.body = .atomicReply a (BitVec.ofNat 64 old) b ∧ q.home = p.src)
    ∧ (∀ r u, p.body = .ack r u → s.ackReady p = true →
      exec (.acknowledgementArrival p.id) s = .next (((s.dropPacket p.id).applyUpdate (coreOfHome p.src) u).ackOne r)
      ∧ (∀ t h n, t = ((s.dropPacket p.id).applyUpdate (coreOfHome p.src) u) → t.hart? r = some h → h.status = .acks (n + 2) →
          t.ackOne r = t.setHart r { h with status := .acks (n + 1) }))
    ∧ (∀ core ctx n, (s.applyUpdate core (.pattern ctx n)).mem = s.mem
        ∧ ((s.applyUpdate core (.pattern ctx n)).core core).patterns.all fun e => !(e.1 == ctx && e.2.1 == n))
    ∧ (∀ core ctx n v k q, s.slotOf? core ctx = some (k, q) → s.slot? core k = some q → n < q.bolts.size →
        ((s.applyUpdate core (.bolt ctx n v)).slot? core k).map (fun q => q.bolts.toList.getD n 0) = some v)
    ∧ ∀ l, p.body = .notice l → exec (.changeNotice p.id) s = .next ((s.dropPacket p.id).lineNotice (coreOfHome p.home) l)
        ∧ ((s.core (coreOfHome p.home)).setsFor l = [] → exec (.changeNotice p.id) s = .next (s.dropPacket p.id))

/-- A needle or a task that arrives enters the store, or the spill area, and waits as a thread of its own; without room a needle
stays and a task goes back; a needle that its home refuses comes back to the spill area of the core that it came from. A spool that is
full, or whose oldest thread has waited 256 cycles, forms a wave of its threads in order of slack, whose lane slices hold 0; a task
waits for its increments before it leaves; a launch entry that a die lacks is fetched from the dispatcher by a request and a reply; a
phase arrival counts and is answered with the epoch it found (R34 to R37, R280, R325 to R329, R421, R436, R437, R462). The place of an
entry in the store, the core at whose router a die takes packets of its own and the entry that a full cache gives up are the model's
choices (logs 11, 12, 20, 21, 22, 44, 55, 65); that an event whose condition does not hold changes
nothing is its choice too (log 9). -/
def Obligations.ArrivalsAndTasks : Prop :=
  (∀ (s : State) (p : Packet) (n : Needle) (issuer : Ref), s.packet? p.id = some p → p.rehomed = false →
    let core := coreOfHome p.home
    let k := s.core core
    let a : Arrival := { id := p.id, needle := { n with placed := true }, ctx := p.ctx, slack := p.slack, ovd := p.ovd, sx := p.sx, bytes := p.bytes
                         since := s.tsc.toNat, seq := s.next, src := p.src }
    let here := (k.overlay? p.ctx (ovlOf n.pc)).isSome = true ∨ s.hostMode 1 = true
    (p.body = .needle n ∨ p.body = .task n issuer ∧ s.taskCheck p n = .accept) →
    let i := match p.body with
      | .needle _ => Instr.needleArrival p.id
      | _ => .taskArrival p.id
    (k.placeFor p.ctx p.bytes = none → p.body = .needle n → exec i s = .next s)
    ∧ (k.placeFor p.ctx p.bytes = none → p.body = .task n issuer → ∃ t, exec i s = .next t ∧ t.mem = s.mem ∧ repliedBy s t p (.refusal n issuer))
    ∧ (∀ e, k.placeFor p.ctx p.bytes = some (some e) → here → p.body = .needle n →
        ∃ t, exec i s = .next t ∧ t.mem = s.mem ∧ t.packets = s.packets.filter (fun x => x.id != p.id)
          ∧ (t.core core).store = k.store ++ [{ a with entry := e }])
    ∧ (∀ e, k.placeFor p.ctx p.bytes = some (some e) → ¬here → p.body = .needle n →
        ∃ t, exec i s = .next t ∧ t.mem = s.mem ∧ (t.core core).store = k.store ++ [{ a with entry := e, waits := true }]
          ∧ ∃ l ∈ (t.core core).loads, l.ctx = p.ctx ∧ l.ovl = ovlOf n.pc)
    ∧ (k.placeFor p.ctx p.bytes = some none → p.body = .needle n →
        ∃ t, exec i s = .next t ∧ t.mem = s.mem ∧ t.packets = s.packets.filter (fun x => x.id != p.id) ∧ (t.core core).spill = k.spill ++ [a])
    ∧ (∀ t, s.arrive p n = some t → p.body = .task n issuer → exec i s = .next (t.fenceCheck issuer.tid)))
  ∧ (∀ (s : State) (p : Packet) (n : Needle) (issuer : Ref), s.packet? p.id = some p →
      (p.body = .task n issuer → (p.rehomed = true ∨ s.taskCheck p n ≠ .accept) → exec (.taskArrival p.id) s = .next s)
      ∧ (p.body = .needle n → p.rehomed = true →
        let k := s.core (coreOfHome p.home)
        (k.spillRoom = false → exec (.needleArrival p.id) s = .next s)
        ∧ (k.spillRoom = true → ∃ t a, exec (.needleArrival p.id) s = .next t ∧ t.mem = s.mem
            ∧ t.packets = s.packets.filter (fun x => x.id != p.id) ∧ (t.core (coreOfHome p.home)).spill = k.spill ++ [a]
            ∧ a.needle = { n with placed := true } ∧ a.resend = true ∧ a.src = p.src ∧ a.slack = p.slack)))
  ∧ (∀ (s : State) (core : Nat) (a : Arrival) (e : Nat), (s.core core).nextSpilled = some a → (s.core core).freeEntry (entriesFor a.bytes) = some e →
      (((s.core core).overlay? a.ctx (ovlOf a.needle.pc)).isSome = true ∨ s.hostMode 1 = true) →
      ∃ t, exec (.spillReturn core) s = .next t ∧ t.mem = s.mem ∧ (t.core core).spill = (s.core core).spill.filter (fun x => x.id != a.id)
        ∧ (t.core core).store = (s.core core).store ++ [{ a with entry := e, since := s.tsc.toNat, waits := false }])
  ∧ (∀ (s : State) (core spool key w : Nat) (i : Instr),
      (i = .arrivalWaveFormation core spool key ∧ s.spoolFull core spool key = true ∨ i = .spoolTimeout core spool key ∧ s.spoolTimed core spool key = true) →
      (s.core core).freeWaves.head? = some w →
      let threads := (sortBy (fun a : Arrival => a.slack.toNat * 2 ^ 64 + a.seq) (s.spoolThreads core spool key)).take 64
      ∃ t v, exec i s = .next t ∧ t.wave? core w = some v ∧ v.arrival = true ∧ v.lanes = threads.mapIdx (fun i a => (i, a.hart))
        ∧ t.mem = Memory.clear s.mem (laneKey core w 0 0) (64 * 256)
        ∧ (t.core core).store = (s.core core).store.filter (fun x => !(threads.map Arrival.id).contains x.id))
  ∧ (∀ (s : State) (core spool key : Nat), (s.spoolFull core spool key = false → exec (.arrivalWaveFormation core spool key) s = .next s)
      ∧ (s.spoolTimed core spool key = false → exec (.spoolTimeout core spool key) s = .next s))
  ∧ (∀ (s : State) (die key : Nat),
      (s.entryDue die key = false → exec (.launchEntryFetch die key) s = .next s)
      ∧ (s.entryPacket die key = none → s.entryWanted die key = true →
          ∃ t q, exec (.launchEntryFetch die key) s = .next t ∧ t.packets = s.packets ++ [q] ∧ q.body = .entryFetch die key
            ∧ q.src = s.homeId (dieCore die) ∧ q.home = s.homeId 0 ∧ t.mem = s.mem ∧ t.dies = s.dies)
      ∧ ∀ p, s.entryPacket die key = some p → p.place = .arrived →
          (p.body = .entryFetch die key → ∃ t, exec (.launchEntryFetch die key) s = .next t ∧ t.mem = s.mem ∧ t.dies = s.dies
            ∧ repliedBy s t p (.entry die key))
          ∧ (p.body = .entry die key → (s.launches.get? key).isSome = true →
            ∃ t, exec (.launchEntryFetch die key) s = .next t ∧ key ∈ (t.die die).launchCache ∧ t.mem = s.mem ∧ t.cores = s.cores
              ∧ t.packets = s.packets.filter (fun x => x.id != p.id)))
  ∧ (∀ (s : State) (core : Nat) (k : Task) (rest : List Task), (s.core core).spawnQ = k :: rest →
      (k.sendable = false → exec (.spawnTaskSend core) s = .next s)
      ∧ (k.sendable = true → ∃ t q, exec (.spawnTaskSend core) s = .next t ∧ (t.core core).spawnQ = rest ∧ t.packets = s.packets ++ [q]
          ∧ q.body = .task k.needle k.issuer ∧ q.home = k.home ∧ q.slack = s.taskSlack core k ∧ t.mem = s.mem)
      ∧ (s.resendDue core = true → ∃ t, exec (.taskResendTimeout core) s = .next t ∧ t.mem = s.mem
          ∧ (t.core core).spawnQ = { k with refused := none } :: rest))
  ∧ (∀ (s : State) (p : Packet) (n : Needle) (issuer : Ref), s.packet? p.id = some p → p.body = .refusal n issuer →
      ∃ t k, exec (.taskRefusal p.id) s = .next t ∧ (t.core (coreOfHome p.home)).spawnQ = k :: (s.core (coreOfHome p.home)).spawnQ
        ∧ k.needle = n ∧ k.issuer = issuer ∧ k.home = p.src ∧ k.refused = some s.net ∧ k.left = some p.slack ∧ t.mem = s.mem)
  ∧ ∀ (s : State) (p : Packet) (launch : Word) (level group : Nat) (q : Phase), s.packet? p.id = some p → s.phase? launch.toNat level group = some q →
      (∀ r, p.body = .increment launch level group r → ∃ t, exec (.spawnIncrement p.id) s = .next t ∧ t.mem = s.mem
        ∧ t.phase? launch.toNat level group = some { q with live := q.live + 1 }
        ∧ (t.core r.core).spawnQ = (s.core r.core).spawnQ.map fun k => if k.needle.tid = r.tid then { k with waits := k.waits - 1 } else k)
      ∧ ∀ d slack, p.body = .phaseArrive launch level group d slack →
        (s.arrivalReady p = false → exec (.phaseArrival p.id) s = .next s)
        ∧ (s.arrivalReady p = true →
          let q' := { q with arrived := q.arrived + 1 }
          let w : Result := { ref := d.ref, writes := [(d.reg, q.epoch.setWidth 64)], flag := none, release := true }
          ((q.draining = true ∨ q'.arrived ≠ q.live) → ∃ t, exec (.phaseArrival p.id) s = .next t ∧ t.mem = s.mem
            ∧ repliedBy s t p (.result w) ∧ t.phase? launch.toNat level group = some q' ∧ t.drains = s.drains)
          ∧ ∀ l, q.draining = false → q'.arrived = q.live → s.launches.get? launch.toNat = some l →
            ∃ t e, exec (.phaseArrival p.id) s = .next t ∧ t.mem = s.mem
              ∧ t.phase? launch.toNat level group = some { q' with draining := true }
              ∧ t.drains = s.drains ++ [e] ∧ e.purpose = .boundary launch.toNat level group ∧ e.ctx = l.ctx ∧ e.slack = slack
              ∧ e.src = l.coordinator level group
              ∧ (∃ m ∈ t.packets, m.body = .result w ∧ m.home = p.src)
              ∧ ∀ c ∈ e.cores, ∃ m ∈ t.packets, m.body = .drain e.id ∧ m.home = s.homeId c.1 ∧ m.slack = slack)
/-! ### Drains, and the fault service -/

/-- A drain writes a basted store to memory and takes it out of its buffer, or holds it where its home does not take it; the last
acknowledgement ends the phase boundary with its epoch one higher, or the drain of a launch, which an entry still held keeps from
its end with an error record; a request goes to every home of the context as a packet, and each answers (R292, R295, R296, R329, R330,
R439). -/
def drainRules : Prop :=
  (∀ (s : State) (core id : Nat) (d : Drain), s.drain? id = some d →
    (s.drainPacket core id false = none → exec (.drainRequest core id) s = .next s)
    ∧ (s.drainReady core d = false → exec (.drainRequest core id) s = .next s)
    ∧ ∀ p, s.drainPacket core id false = some p → d.cores.contains (core, false) = true →
    let k := s.core core
    let marked := d.cores.map fun x => if x.1 = core then (core, true) else x
    ((k.log ++ k.buffer).filter d.takes = [] → exec (.drainRequest core id) s =
        .next (((s.modDrain id fun d => { d with cores := marked }).dropPacket p.id).reply p (.drained id)))
    ∧ ∀ e, (k.log ++ k.buffer).filter d.takes = [e] →
        (∀ dpa, s.drainCheck core e = .writes dpa → inHoops dpa = false → ∃ t, exec (.drainRequest core id) s = .next t
          ∧ t.mem = Memory.setBytes s.mem dpa e.bytes ∧ (t.core core).log = k.log.filter (fun x => x.seq != e.seq)
          ∧ (t.core core).buffer = k.buffer.filter (fun x => x.seq != e.seq)
          ∧ t.drain? id = some { d with cores := marked } ∧ ∃ q ∈ t.packets, q.body = .drained id ∧ q.home = p.src)
        ∧ (s.drainCheck core e = .fails → ∃ t, exec (.drainRequest core id) s = .next t ∧ t.mem = s.mem
          ∧ (t.core core).log = k.log.map (fun x => if x.seq = e.seq then { x with held := true } else x)
          ∧ (t.core core).buffer = k.buffer.map (fun x => if x.seq = e.seq then { x with held := true } else x)
          ∧ ((∀ x ∈ k.log ++ k.buffer, x.seq = e.seq → x = e) →
              t.drain? id = some { d with cores := marked } ∧ repliedBy s t p (.drained id))))
  ∧ (∀ (s : State) (core id : Nat) (d : Drain), s.drain? id = some d →
    (s.drainPacket core id true = none → exec (.drainAcknowledgement core id) s = .next s)
    ∧ ∀ p, s.drainPacket core id true = some p → d.cores.contains (core, true) = true →
    let s' := s.dropPacket p.id
    let rest := d.cores.filter fun e => e.1 != core
    let gone : State := { s' with drains := s.drains.filter fun x => x.id != id }
    (rest ≠ [] → exec (.drainAcknowledgement core id) s = .next (s'.modDrain id fun _ => { d with cores := rest }))
    ∧ (∀ key level group p, rest = [] → d.purpose = .boundary key level group → s.phase? key level group = some p →
        ∃ t, exec (.drainAcknowledgement core id) s = .next t ∧ t.drains = gone.drains ∧ t.mem = s.mem
          ∧ t.phase? key level group = some { p with arrived := 0, epoch := p.epoch + 1, draining := false })
    ∧ (∀ key l, rest = [] → d.purpose = .completion key → s.launches.get? key = some l →
        (s.heldEntry d.ctx d.firstParty d.parties = none →
          exec (.drainAcknowledgement core id) s = .next { gone with launches := s.launches.set key { l with drained := some true } })
        ∧ ∀ e, s.heldEntry d.ctx d.firstParty d.parties = some e → exec (.drainAcknowledgement core id) s =
            .next (({ gone with launches := s.launches.set key { l with heldPosted := true } } : State).postError 0x0F d.ctx (s.homeId 0) e.addr.toNat 0
              (e.ord ++ e.ovl : Word).toNat (.heldDrain key) 1))
    ∧ (∀ r r', rest = [] → d.purpose = .heldBy r → s.whereIs r.tid = some r' →
        (s.heldEntry d.ctx d.firstParty d.parties = none →
          exec (.drainAcknowledgement core id) s = .next ((gone.modHart r' fun h => { h with phaseTrap := none }).goPast r'))
        ∧ ∀ e, s.heldEntry d.ctx d.firstParty d.parties = some e → exec (.drainAcknowledgement core id) s =
            .next ((gone.release r').raise r' { cause := .phaseDrain, addr := some e.addr, write := true, eord := some (e.ord ++ e.ovl) })))
  ∧ ∀ (s : State) (ctx : Nat) (first : Word) (n : Nat) (b : Baste), s.heldEntry ctx first n = some b →
      b.held = true ∧ b.ctx = ctx ∧ (b.party - first).toNat < n ∧ ∃ c k, (c, k) ∈ s.cores ∧ b ∈ k.log ++ k.buffer

/-- Drains write or hold their stores, and the last acknowledgement ends what they served. A page fault that the service mends lets everything that waits for the page go on: the lanes re-execute, the requests and
commands try again. The device service gives a missing page frames from its pool, cleared, or forwards the fault to the host, where
it joins a record of the page that stands; the host's answer to a fault record frees its slot and mends or refuses; its answer to an
error record resumes or ends what the record reports (R262, R292 to R296, R457 to R459, R530, R542, R557). What the host's answers do to
a record of a cause that the spec does not name there, and which tables the service writes over, are the model's choices
(logs 5, 29, 58, 66); that an event whose condition does not hold changes
nothing is its choice too (log 9). -/
def Obligations.DrainsAndFaultService : Prop := drainRules ∧
  (∀ (s : State) (v : Served), (s.serviceDone v).mem = s.mem
      ∧ (∀ r h, s.hart? r = some h → s.parkedFor v r = false → (s.serviceDone v).hart? r = some h)
      ∧ (∀ r h, s.hart? r = some h → s.parkedFor v r = true → r ∈ s.refs → (s.serviceDone v).hart? r = some { h with status := .running })
      ∧ (∀ p a w, p ∈ s.packets → p.body = .read a → a.ctx = v.ctx → a.waiting = some w → w.cause = v.wait.cause → w.page = v.wait.page →
          w.home = v.wait.home →
          { p with body := .read { a with waiting := none } } ∈ (s.serviceDone v).packets))
  ∧ (∀ (s : State) (id : Nat) (v : Service), s.services.find? (fun v => v.id == id) = some v →
      let s' : State := ({ s with services := s.services.filter fun x => x.id != id } : State).storePhys 0 v.addr [0]
      let served : Served := ⟨v.ctx, { cause := .pageNotPresent, page := v.page, home := v.home }⟩
      let report := Report.page v.ctx v.page v.home .pageNotPresent
      let core := coreOfHome v.home
      let page := fun (leaf : Leaf) => v.va / pageBytes leaf.sz * pageBytes leaf.sz
      Memory.get s'.mem v.addr = 0
      ∧ (s'.homeLeaf v.ctx v.va = none → exec (.pageFaultService id) s = .next (s'.serviceDone served))
      ∧ ∀ leaf, s'.homeLeaf v.ctx v.va = some leaf →
        let spoiled := s'.poolSpoiled core v.ctx (page leaf) leaf.sz
        ((leaf.home ≠ v.home ∨ spoiled = false ∧ s'.wayTo core v.ctx (page leaf) leaf.sz = .present) →
          exec (.pageFaultService id) s = .next (s'.serviceDone served))
        ∧ (leaf.home = v.home → spoiled = true → exec (.pageFaultService id) s = .next (s'.serviceRefused served .eccUncorrected))
        ∧ (leaf.home = v.home → spoiled = false → (s'.wayTo core v.ctx (page leaf) leaf.sz = .blocked
            ∨ s'.wayTo core v.ctx (page leaf) leaf.sz ≠ .present ∧ s'.fromPool core v.ctx (page leaf) leaf.sz true = none) →
            (s'.join report v.lanes = none → exec (.pageFaultService id) s = .next (s'.post (dieOf core)
              (recordBytes 0x09 (v.write.toNat + 2 * v.space) v.ctx v.lanes v.home v.va v.pc v.eord) report))
            ∧ ∀ p, s'.posted.find? (fun p => p.report == report) = some p →
              let a := s'.recordAddr p.place p.slot + 6
              ∃ t, exec (.pageFaultService id) s = .next t ∧ t.posted = s'.posted ∧ t.msix = s'.msix
                ∧ Memory.getNat t.mem a 2 = Nat.min (Memory.getNat s'.mem a 2 + v.lanes) 0xFFFF)
        ∧ ∀ frame s2, leaf.home = v.home → s'.fromPool core v.ctx (page leaf) leaf.sz true = some (frame, s2) →
            ∃ t, exec (.pageFaultService id) s = .next t
              ∧ ∀ a, Memory.get t.mem a = if 4096 * frame ≤ a ∧ a < 4096 * frame + pageBytes leaf.sz then 0 else Memory.get s2.mem a)
  ∧ (∀ (s : State) (die slot : Nat) (ctx page home : Nat) (c : Cause), s.hostUp = true → die < 4 →
      (s.postedAt die slot = none → exec (.faultRecordResolve die slot) s = .next s ∧ exec (.faultRecordRefuse die slot) s = .next s)
      ∧ (s.postedAt die slot = some ⟨die, slot, .page ctx page home c⟩ →
          exec (.faultRecordResolve die slot) s = .next ((s.freeRecord die slot).serviceDone ⟨ctx, { cause := c, page, home }⟩)
          ∧ exec (.faultRecordRefuse die slot) s = .next ((s.freeRecord die slot).serviceRefused ⟨ctx, { cause := c, page, home }⟩)))
  ∧ (∀ (s : State) (place slot : Nat), s.unposted = [] → inHoops (s.recordAddr place slot) = false →
      (s.freeRecord place slot).postedAt place slot = none ∧ Memory.get (s.freeRecord place slot).mem (s.recordAddr place slot) = 0)
  ∧ ∀ (s : State) (slot : Nat) (p : Posted), s.hostUp = true → s.postedAt 4 slot = some p →
      exec (.errorRecordResolve slot) s = .next (p.report.resolve (s.freeRecord 4 slot))
      ∧ exec (.errorRecordRefuse slot) s = .next (p.report.refuse (s.freeRecord 4 slot))
      ∧ (∀ r h t, p.report = .nested r → t.hart? r = some h → h.status = .nested → h.pos = field h.trap.ecause 8 3 →
          p.report.resolve t = t.setHart r { h with status := .running }
            ∧ p.report.refuse t = (t.setHart r { h with tstate := { h.tstate with svh := false } }).haltNow r)
      ∧ (∀ core ctx ovl t, p.report = .overlay core ctx ovl → t.overlayParked core ctx ovl = [] → p.report.refuse t = t ∧ p.report.resolve t = t)
/-! ### Launches, and which context holds a core -/

/-- The core pre-empts the context that it has chosen, or posts a notice where the host decides; the bobbin is saved last, a halted
one from SVVEC; a slot that nothing keeps is released; a saved context returns to a free slot with its waves and its bobbin at RSVEC
(R269 to R275, R431, R435, R483, R558). What waits as work, the order of what returns, and a failed read
of a switch record are the model's choices where the spec gives none (logs 23, 24, 49); that an event whose condition does not hold changes
nothing is its choice too (log 9). -/
def Obligations.ContextSwitches : Prop :=
  (∀ (s : State) (core slot : Nat) (q : Slot), s.slot? core slot = some q →
    (s.nextExpired core ≠ some slot → exec (.quantumExpiry core slot) s = .next s)
    ∧ (s.nextExpired core = some slot →
        ((q.asked = true ∨ s.hostMode 2 = false) → exec (.quantumExpiry core slot) s = .next (s.preemptContext core slot))
        ∧ (q.asked = false → s.hostMode 2 = true → exec (.quantumExpiry core slot) s = .next
            (s.postError 0x19 q.ctx (s.homeId core) 0 0 0 (.notice core q.ctx))))
    ∧ ((s.noticed core q.ctx = true ∨ s.declines core q.ctx = true) → s.hostMode 2 = true → s.expired core q = false)
    ∧ ((∀ r ∈ s.threadsOf core q.ctx, ∀ h, s.hart? r = some h → h.status = .running) →
        ((s.preemptContext core slot).slot? core slot).map Slot.switch = some .saving
        ∧ (s.preemptContext core slot).mem = s.mem
        ∧ ∀ r ∈ s.threadsOf core q.ctx, ∀ h, s.hart? r = some h → (s.preemptContext core slot).hart? r = some { h with preemptDue := true })
    ∧ (s.bobbinTurn core q = false → exec (.bobbinPreempt core slot) s = .next s)
    ∧ (s.bobbinTurn core q = true → q.bobbin.status = .halted → exec (.bobbinPreempt core slot) s = .next
        (((s.modSlot core slot fun q => { q with switch := .bobbin }).modSlot core slot fun q =>
          { q with bobbin := q.bobbin.startSave q.svvec }).freeze core slot))
    ∧ (s.bobbinTurn core q = true → q.bobbin.status ≠ .halted → exec (.bobbinPreempt core slot) s = .next
        ((s.modSlot core slot fun q => { q with switch := .bobbin }).preemptLane ⟨core, .bobbin slot, q.bobbin.tid⟩))
    ∧ ((q.leaves = false ∧ s.unheld core q = false ∨ (s.core core).lingers q.ctx = true) → exec (.contextSlotRelease core slot) s = .next s)
    ∧ ((q.leaves = true ∨ s.unheld core q = true) → (s.core core).lingers q.ctx = false → ∃ t, exec (.contextSlotRelease core slot) s = .next t ∧ t.slot? core slot = none ∧ t.mem = s.mem
        ∧ t.launches = s.launches ∧ ((t.core core).patterns.any fun e => e.1 == q.ctx) = false))
  ∧ (∀ (h : Hart) (vector : Word),
      let k := h.startSave vector
      k.status = .running ∧ k.pc = vector ∧ k.clause = vector ∧ k.regs = h.regs ∧ k.tstate.priv = true ∧ k.tstate.trapped = true
        ∧ k.tstate.svh = true
        ∧ k.repstep = h.repstep ∧ k.trap = { h.trap with epc := 0, ecause := 0, eord := 0, eaddr := 0, einfo := 0, eres := 0 })
  ∧ ∀ (s : State) (core n : Nat) (v : SavedCtx), s.readmits core = some v → (s.core core).slots.freeKey 4 = some n →
      (∀ t rec_ bolts, s.readSwitch core v = .ok (some t) → s.grantReads v.ctx = .ok (rec_, bolts) →
        ∃ s' q, exec (.contextReadmission core v.ctx) s = .next s' ∧ s'.slot? core n = some q ∧ q.ctx = v.ctx ∧ q.switch = .restoring
          ∧ q.frozen = true ∧ q.ovt = t.ovt ∧ q.rsvec = BitVec.ofNat 32 (recN rec_ 8 4)
          ∧ (s'.core core).saved = (s.core core).saved.filter (fun x => x.ctx != v.ctx))
      ∧ (∀ c va, s.readSwitch core v = .error (.fault c va) → exec (.contextReadmission core v.ctx) s =
          .next (s.readmissionFails core v c.code va))
      ∧ (∀ t c va, s.readSwitch core v = .ok (some t) → s.grantReads v.ctx = .error (.fault c va) → exec (.contextReadmission core v.ctx) s =
          .next (s.askFails core v.ctx c va))
      ∧ ∀ ctx, ctx ≠ v.ctx → exec (.contextReadmission core ctx) s = .next s

/-- The host's writes of QTAIL and QCTL; the dispatcher takes up the record that it has chosen, refused or started, with every thread
of the launch live and its waves placed; a wave that is admitted stands at the launch's entry, one thread for each ordinal; a region
is copied once its data have come; a launch without live threads drains, and ends with its STATUS written (R415 to R430, R136, R295). Which
of several reasons STATUS names, the number of a thread, a device write that fails and the free choices among work are the model's (logs
47, 48, 58); that an event whose condition does not hold changes
nothing is its choice too (log 9). -/
def Obligations.LaunchesRun : Prop :=
  (∀ (s : State) (q n : Nat), s.hostUp = true → q < 64 →
    exec (.queueDoorbell q n) s = .next (s.setQueue q ({ s.queue q with tail := BitVec.ofNat 16 n } : Queue).checked)
    ∧ (n % 2 = 1 → (s.queue q).enabled = false →
        exec (.queueEnable q n) s = .next (s.setQueue q ({ s.queue q with ctl := BitVec.ofNat 32 (n % 2 ^ 24) } : Queue).checked))
    ∧ (n % 2 = 1 → (s.queue q).enabled = true → exec (.queueEnable q n) s = .next s)
    ∧ (n % 2 = 0 → exec (.queueDisable q n) s =
        .next (s.setQueue q { s.queue q with ctl := BitVec.ofNat 32 (n % 2 ^ 24), err := false, waiting := none })))
  ∧ (∀ (s : State), (s.launchReady = false → exec .dispatch s = .next s)
    ∧ (∀ e, s.launchReady = true → s.readyRecords.find? (fun e => e.key.isNone) = some e → exec .dispatch s = .next (s.tryRecord e))
    ∧ ∀ c s', s.launchReady = true → s.readyRecords.find? (fun e => e.key.isNone) = none → s.unreadable = none →
        s.decide_ s.dispatchable = (some c, s') →
        let s2 := s'.setQueue c.no { c.q with head := c.q.head + 1 }
        let l := launchOf c.record c.q.ctx c.q.headVa
        (c.reasons ≠ [] → exec .dispatch s = .next (s2.refuse c))
        ∧ (c.reasons = [] → ∃ t l', exec .dispatch s = .next t ∧ t.launches.get? s2.nextKey = some l' ∧ (t.queue c.no).head = c.q.head + 1
            ∧ l'.ctx = c.q.ctx ∧ l'.lid = l.lid ∧ l'.threads = l.total ∧ l'.live = l.total ∧ l'.entry = l.entry
            ∧ l'.pbase = (s2.pbase.get? l.ctx).getD 0 ∧ l'.places.length = l.waves
            ∧ t.phases = s2.phases ++ l'.phaseObjects s2.nextKey))
  ∧ (∀ (s : State) (core : Nat), (s.nextWork (s.admitNow core) = none → exec (.waveAdmission core) s = .next s)
    ∧ ∀ p l n q w, s.nextWork (s.admitNow core) = some (.wave p l) → s.slotAvailable core l.ctx = some n → s.slotOf? core l.ctx = some (n, q) →
        l.cores.contains core = true → ((s.core core).allocs.get? l.ctx).isSome = true → ((s.die (dieOf core)).allocs.get? l.ctx).isSome = true →
        s.launches.get? p.key = some l → (s.core core).freeWaves.head? = some w → s.stagedHere core p.key = true →
        s.slot? core n = some q →
        ∃ t v, exec (.waveAdmission core) s = .next t ∧ t.wave? core w = some v ∧ v.ctx = l.ctx ∧ v.arrival = false
          ∧ v.lanes = l.waveLanes p.key p.wave s.next (q.slackTab.toList.getD 0 0xFFF)
          ∧ ∀ a, Memory.get t.mem a = if laneKey core w 0 0 ≤ a ∧ a < laneKey core w 0 0 + 64 * 256 then 0 else Memory.get s.mem a)
  ∧ (∀ (l : Launch) (key wave tid : Nat) (slack : BitVec 12) (i : Nat) (h : Hart), (i, h) ∈ l.waveLanes key wave tid slack →
      i < 64 ∧ 64 * wave + i < l.threads ∧ h.tid = tid + i ∧ h.ordinal = BitVec.ofNat 32 (64 * wave + i) ∧ h.pc = l.entry ∧ h.clause = l.entry
        ∧ h.launch = BitVec.ofNat 32 key ∧ h.slack = slack ∧ h.regs = Regs.zeroX ∧ h.preds = 0 ∧ h.spwn = false ∧ h.status = .running)
  ∧ (∀ (s : State) (core key region : Nat) (e : Staging) (l : Launch) (src sp off n : Nat) (bs : List Byte),
      s.stagings.find? (fun e => e.core == core && e.key == key && e.region == region) = some e → s.launches.get? key = some l →
      l.region region = (src, sp, off, n) → s.windowMissing core l.ctx sp off n = false →
      (if src = 0 then .ok (List.replicate n 0) else s.readVa l.ctx src n) = .ok bs →
      (s.stageDue e = false → exec (.stagingCompletion core key region) s = .next s)
      ∧ (s.stageDue e = true → (e.asked = true ∨ (s.askStaging e l).bulkOut (.staging e.key e.region e.unit) = false) →
          exec (.stagingCompletion core key region) s = .next ((s.storeNear core l.ctx sp off bs).modStaging e fun e => { e with done := true }))
      ∧ (s.stageDue e = true → e.asked = false → (s.askStaging e l).bulkOut (.staging e.key e.region e.unit) = true →
          exec (.stagingCompletion core key region) s = .next (s.askStaging e l)))
  ∧ ∀ (s : State) (key : Nat) (l : Launch), s.readyRecords.find? (fun e => e.key == some key) = none → s.launches.get? key = some l →
      (s.completionDue l = false → exec (.launchCompletion key) s = .next s)
      ∧ (s.completionDue l = true → l.drained = none → ∃ t, exec (.launchCompletion key) s = .next t ∧ t.mem = s.mem
          ∧ t.launches.get? key = some { l with drained := some false }
          ∧ ∃ d, t.drains = s.drains ++ [d] ∧ d.purpose = .completion key ∧ d.ctx = l.ctx ∧ d.firstParty = l.pbase ∧ d.parties = l.groups)
      ∧ ∀ s2, s.completionDue l = true → l.drained = some true →
          s.storeVa l.ctx ((l.record.toNat + 0xF8) % 2 ^ 48) (bytesOfNat 4 (if l.failed then 3 + 256 * 10 else 2)) = .ok s2 →
          ∃ t, exec (.launchCompletion key) s = .next t ∧ t = s2.finishLaunch key l ∧ t.launches.get? key = none
/-! ### The fabric, and pages that move -/

/-- A packet goes along its row before its column, by the shorter way round each ring, one hop nearer with each hop; at its point the
choice falls on it by R445, and it stands at the next place; a tick takes one unit of slack from what it finds, 0 and 0xFFF stay; a
packet that reaches 0 is overdue once; a router sleeps after 256 idle network cycles and wakes; every packet has its header fields in
their places (R16, R438 to R446, R49). Which of several waiting places compete, the units of network time and the order of those that one
choice promotes are the model's choices (logs 45, 56, 60); that an event whose condition does not hold changes
nothing is its choice too (log 9). -/
def Obligations.FabricAndSlack : Prop :=
  (∀ c t, c < 64 → t < 64 → (torusHop c t = none ↔ c = t)
      ∧ ∀ n port, torusHop c t = some (n, port) → n < 64 ∧ torusDist n t + 1 = torusDist c t ∧ (c % 8 ≠ t % 8 → n / 8 = c / 8) ∧ 1 ≤ port ∧ port ≤ 4)
  ∧ (∀ (s : State) (id : Nat) (p : Packet), s.packets.find? (fun p => p.id == id) = some p →
      (s.chosenNext p = false → exec (.packetAdvance id) s = .next s)
      ∧ (∀ j, s.chosenNext p = true → s.nextPlace p = some .arrived → p.body = .bulk j → ∃ t, exec (.packetAdvance id) s = .next t ∧ t.mem = s.mem
          ∧ ∀ q ∈ t.packets, q.id ≠ id)
      ∧ (∀ place, s.chosenNext p = true → s.nextPlace p = some place → (place = .arrived → ∀ j, p.body ≠ .bulk j) → ∃ t n, exec (.packetAdvance id) s = .next t ∧ t.mem = s.mem
          ∧ t.packets.length = s.packets.length ∧ { p with place, since := n, passed := 0, promoted := none } ∈ t.packets
          ∧ ∀ q ∈ s.packets, q.id ≠ id → (∀ x ∈ s.rivals p, x.id ≠ q.id) → q ∈ t.packets)
      ∧ (∀ die, s.chosenNext p = true → s.nextPlace p = none → p.place = .uet die → s.rivals p = [] → ∃ t q, exec (.packetAdvance id) s = .next t
          ∧ t.packets = s.packets.filter (fun x => x.id != id) ∧ t.outbox = s.outbox ++ [q] ∧ q.body = p.body ∧ q.home = p.home ∧ t.mem = s.mem)
      ∧ (p.slack = 0 → p.ovd = false → exec (.slackOverdue id) s = .next (({ s with packets := s.packets.map fun x =>
          if x.id = id then { x with ovd := true } else x } : State).countOverdue p))
      ∧ ((p.slack ≠ 0 ∨ p.ovd = true) → exec (.slackOverdue id) s = .next s))
  ∧ (∀ s : State, (s.net / (16 * 27720) ≤ s.ticks → exec .slackTick s = .next s)
      ∧ (s.ticks < s.net / (16 * 27720) → ∃ t, exec .slackTick s = .next t ∧ t.ticks = s.ticks + 1 ∧ t.mem = s.mem
          ∧ t.packets = s.packets.map fun p => if p.held then { p with slack := ticked p.slack } else p))
  ∧ (∀ p : Packet, p.ctx < 2 ^ 16 → p.home < 2 ^ 20 → p.src < 2 ^ 20 →
      (∀ n i, (p.body = .needle n ∨ p.body = .task n i) → ∀ e ∈ n.fibres, e.1 < 2) →
      let v := p.header.toNat
      v % 2 ^ 16 = p.ctx ∧ v / 2 ^ 80 % 2 ^ 12 = p.slack.toNat ∧ v / 2 ^ 92 % 2 ^ 20 = p.home ∧ v / 2 ^ 232 % 2 ^ 4 = p.type
        ∧ v / 2 ^ 236 % 2 ^ 20 = p.src
        ∧ ∀ n, p.body = .needle n → v / 2 ^ 16 % 2 ^ 32 = n.launch.toNat ∧ v / 2 ^ 48 % 2 ^ 32 = n.pc.toNat ∧ v / 2 ^ 112 % 2 ^ 64 = n.live.toNat
            ∧ v / 2 ^ 176 % 2 ^ 32 = n.ordinal.toNat ∧ (p.rehomed = false → p.type = 0))
  ∧ (∀ v : BitVec 12, ticked v = if v = 0 ∨ v = 0xFFF then v else v - 1)
  ∧ ∀ (s : State) (core : Nat),
      (s.gateDue core = true → exec (.routerPowerGate core) s = .next (s.modCore core fun k => { k with routerOff := true, routerWake := none }))
      ∧ (s.gateDue core = false → exec (.routerPowerGate core) s = .next s)
      ∧ (s.wakeDue core = true → exec (.routerWake core) s =
          .next (s.modCore core fun k => { k with routerOff := false, routerWake := none, routerSince := s.net }))
      ∧ (s.wakeDue core = false → exec (.routerWake core) s = .next s)

/-- A page that may move is marked at its home; its transfer copies the frame, writes the new home into the home map and starts a
shootdown of every core and die; each agent drops its copies; the last acknowledgement opens the grace window or makes the page
writable; after the window the move ends; a packet that finds its page gone is forwarded while the move lasts, goes back with REHOME after it, and
is sent again to the new home; a core that retires gives up its pool and then its pages to its buddy; a page becomes writable or read-only
by its bits and a shootdown (R297, R460 to R465). When the host may begin a retirement, the page that leaves next and the choice of what
a fabric interface holds are the model's (logs 46, 50, 62, 65); that an event whose condition does not hold changes
nothing is its choice too (log 9). -/
def Obligations.PagesMove : Prop :=
  (∀ (s : State) (ctx va new : Nat), s.hostUp = true →
      (s.mayMove ctx (va % 2 ^ 48) new = none → exec (.pageMoveStart ctx va new) s = .next s)
      ∧ (∀ leaf dpa, s.mayMove ctx (va % 2 ^ 48) new = some (leaf, dpa) →
          let page := va % 2 ^ 48 / pageBytes leaf.sz * pageBytes leaf.sz
          ∃ t m, exec (.pageMoveStart ctx va new) s = .next t ∧ t.moves = s.moves ++ [m] ∧ m.ctx = ctx ∧ m.va = page
            ∧ m.size = pageBytes leaf.sz ∧ m.old = leaf.home ∧ m.new = new ∧ m.transferred = false
            ∧ t.mem = (s.pokeBits (s.frameEntries (coreOfHome leaf.home) ctx page) 5 1 1).mem)
      ∧ ∀ leaf, s.homeLeaf ctx va = some leaf →
          let size := pageBytes leaf.sz
          (leaf.ro = true → exec (.pageMakeReadOnly ctx va) s = .next s
            ∧ (let s' := s.pokeBits (s.frameEntries (coreOfHome leaf.home) ctx va) 4 1 0
               exec (.pageMakeWritable ctx va) s = .next ((s'.pokeBits (s'.homeEntries ctx va) 4 1 0).shootPage ctx (va / size * size) size true)))
          ∧ (leaf.ro = false → exec (.pageMakeWritable ctx va) s = .next s
            ∧ (let s' := s.pokeBits (s.frameEntries (coreOfHome leaf.home) ctx va) 4 1 0
               exec (.pageMakeReadOnly ctx va) s = .next ((s'.pokeBits (s'.homeEntries ctx va) 4 1 1).shootPage ctx (va / size * size) size false))))
  ∧ (∀ (s : State) (src dst size : Nat), s.memOk → (src + size ≤ dst ∨ dst + size ≤ src) →
      (∀ i, i < size → Memory.get (s.copyFrame src dst size).mem (dst + i) = Memory.get s.mem (src + i))
      ∧ ∀ a, (a < dst ∨ dst + size ≤ a) → Memory.get (s.copyFrame src dst size).mem a = Memory.get s.mem a)
  ∧ (∀ (s s1 : State) (m : Move) (old sz frame : Nat) (w : Bool), s.moves.find? (fun x => x.id == m.id) = some m → s.transferDue m = true →
      s.oldFrame m = some (old, sz, w) → s.fromPool (coreOfHome m.new) m.ctx m.va sz w = some (frame, s1) →
      (m.asked = false → exec (.pageMoveTransfer m.id) s = .next (s.askMove m) ∧ (s.askMove m).mem = s.mem) ∧ (m.asked = true →
      let c := s1.copyFrame old (4096 * frame) m.size
      ∃ t x d, exec (.pageMoveTransfer m.id) s = .next t ∧ t.mem = (c.pokeBits (c.homeEntries m.ctx m.va) 8 20 m.new).mem
        ∧ x ∈ t.moves ∧ x.id = m.id ∧ x.transferred = true ∧ x.shootdown = d.id ∧ t.shootdowns = s.shootdowns ++ [d]
        ∧ d.waits = List.range 260 ∧ d.ctx = m.ctx ∧ d.va = m.va ∧ d.size = m.size))
  ∧ (∀ (s : State) (id : Nat) (d : Shootdown), s.shootdowns.find? (fun d => d.id == id) = some d →
      (∀ agent, (agent ∉ d.waits ∨ s.shootReady d agent = false) → exec (.shootdown id agent) s = .next s)
      ∧ (∀ agent, agent ∈ d.waits → s.shootReady d agent = true → ∃ t owed, exec (.shootdown id agent) s = .next t ∧ t.mem = s.mem ∧ t.packets = s.packets
          ∧ t.shootdowns = s.shootdowns.map (fun x => if x.id = id then { d with waits := d.waits.filter (· != agent), owed } else x)
          ∧ (256 ≤ agent → t.cores = s.cores))
      ∧ (s.shotDown d = false → exec (.shootdownAcknowledgement id) s = .next s)
      ∧ (s.shotDown d = true →
          let t : State := { s with
            shootdowns := s.shootdowns.filter fun x => x.id != id
            moves := s.moves.map fun m => if m.transferred && m.shootdown == id then { m with grace := some s.net } else m }
          exec (.shootdownAcknowledgement id) s = .next (if d.writable then t.openPage d else t)))
  ∧ (∀ (s : State) (id : Nat) (m : Move), s.moves.find? (fun m => m.id == id) = some m →
      (s.graceOver m = false → exec (.graceWindowEnd id) s = .next s)
      ∧ (s.graceOver m = true → ∃ t, exec (.graceWindowEnd id) s = .next t ∧ t.moves = s.moves.filter (fun x => x.id != id) ∧ t.packets = s.packets))
  ∧ (∀ (s : State) (p : Packet), s.packet? p.id = some p →
      let becomes := fun (f : Packet → Prop) => ∃ t q, exec (.rehome p.id) s = .next t ∧ q ∈ t.packets ∧ q.id = p.id ∧ q.body = p.body
          ∧ q.slack = p.slack ∧ f q ∧ t.mem = s.mem ∧ t.packets.length = s.packets.length
      (s.resendable p = false → s.newHome p = none → exec (.rehome p.id) s = .next s)
      ∧ (∀ home, s.newHome p = some home →
          let moving := s.moves.any fun m => m.covers p.ctx p.elem && m.old == p.home
          (moving = true → becomes fun q => q.home = home ∧ q.src = p.src ∧ q.rehomed = false)
          ∧ (moving = false → becomes fun q => q.home = p.src ∧ q.src = p.home ∧ q.rehomed = true ∧ q.vn = 1 ∧ q.type = 5))
      ∧ (s.resendable p = true → becomes fun q => q.home = ((s.homeLeaf p.ctx p.elem).map Leaf.home).getD p.src ∧ q.src = p.home ∧ q.rehomed = false
          ∧ q.vn = match p.body with
            | .needle _ => 2
            | _ => 0))
  ∧ (∀ (s : State) (id core : Nat) (a : Arrival), s.packet? id = none → s.returnedNeedles.find? (fun e => e.2.id == id) = some (core, a) → core < 256 →
      ∃ t q, exec (.rehome id) s = .next t ∧ t.packets = s.packets ++ [q] ∧ q.body = .needle a.needle ∧ q.rehomed = false ∧ q.slack = a.slack
        ∧ (t.core core).spill = (s.core core).spill.filter (fun x => x.id != id) ∧ t.mem = s.mem)
  ∧ ∀ (s : State) (core : Nat), s.hostUp = true → core < 256 → (s.core core).retired = false →
      ((s.core core).retiring = false → s.hostRetires = false → exec (.channelRetirement core) s = .next s)
      ∧ ((s.core core).retiring = false → s.hostRetires = true → exec (.channelRetirement core) s =
          .next ((s.modCore core fun k => { k with retiring := true }).poke (poolBase core) (bytesOfNat 4 0)))
      ∧ ((s.core core).retiring = true → s.leaving core = true → exec (.channelRetirement core) s = .next s)
      ∧ ((s.core core).retiring = true → s.leaving core = false → s.pagesAt core = [] → (s.core core).spill = [] →
          ∃ t, exec (.channelRetirement core) s = .next t ∧ (t.core core).retired = true ∧ t.mem = s.mem)
      ∧ ∀ ctx va, (s.core core).retiring = true → s.leaving core = false → s.pagesAt core = [(ctx, va)] →
          exec (.channelRetirement core) s = .next (s.spend.startMove ctx va (s.homeId (Nat.xor core 1)))
/-! ### The host, the debugger, the cycle, bring-up and power -/

/-- Host writes of counter, control and trace words stand when the cycle ends; the debugger's commands; a sample whose results have come
enters its hoop as a record of 32 bytes; a cycle counts time, and each slot's quantum and cycles (R6, R252, R504 to R519, R524). What LAST
says where no result was out, when a written word stands, and the order of the cycle's end are the model's (logs 3, 30, 41, 42, 43); that an event whose condition does not hold changes
nothing is its choice too (log 9). -/
def Obligations.HostAndDebugger : Prop :=
  (∀ (s : State) (core slot : Nat) (v : DWord), let q? := s.slot? core slot
    (q? = none → ∀ n, (ctrWord? n).map CtrWord.core ≠ some true → exec (.counterWrite core slot n v) s = .next s)
    ∧ (∀ n, (ctrWord? n = none ∨ s.hostUp = false) → exec (.counterWrite core slot n v) s = .next s)
    ∧ (∀ q n w, s.hostUp = true → q? = some q → ctrWord? n = some w → w.core = false → n ≠ 0x32 → n ≠ 0x42 →
        ((w.sysWrite = false ∨ q.traceShut n = true) → exec (.counterWrite core slot n v) s = .next s)
        ∧ (w.sysWrite = true → q.traceShut n = false → exec (.counterWrite core slot n v) s =
            .next (s.modSlot core slot fun q => { q with ctlPending := q.ctlPending.set n v })))
    ∧ (∀ n, s.hostUp = true → (n = 0x51 ∨ n = 0x52 ∨ 0x80 ≤ n ∧ n < 0xC0 ∧ s.expert 5 = true) →
        exec (.counterWrite core slot n v) s = .next (s.modCore core fun k => { k with sets := k.sets.set n v }))
    ∧ (∀ n, 0x80 ≤ n → s.expert 5 = false → exec (.counterWrite core slot n v) s = .next s)
    ∧ (∀ q, s.hostUp = true → q? = some q → exec (if v.getLsbD 0 then .traceEnable core slot v else .traceDisable core slot v) s =
        .next (s.modSlot core slot fun q => { q with ctlPending := q.ctlPending.set 0x32 v }))
    ∧ (∀ q n, q.ctlPending = [(n, v)] →
        let t := s.modSlot core slot fun q => { q with ctlPending := [] }
        let write := fun (s : State) => s.modSlot core slot fun q => q.setWord n (controlWritten n (q.word n) v)
        (n ≠ 0x32 → s.commitControl core slot q = write t)
        ∧ (n = 0x32 → v.getLsbD 0 = true → s.commitControl core slot q = (write t).openFrame core slot)
        ∧ (n = 0x32 → v.getLsbD 0 = false → s.commitControl core slot q = write ((t.flushTrace core slot).closeFrame core slot)))
    ∧ (∀ n, 0x20 ≤ n → n < 0x30 → ∀ old : DWord, controlWritten n old v = BitVec.ofNat 64 (field v 0 12))
    ∧ (∀ n, 0x33 ≤ n → n < 0x36 → ∀ old : DWord, (controlWritten n old v).toNat = v.toNat % 2 ^ 48 / 256 * 256)
    ∧ (s.hostUp = false → exec (.deliver core slot) s = .next s ∧ exec (.resume core slot) s = .next s ∧ exec (.debugStep core slot) s = .next s
        ∧ exec (.stopall core slot) s = .next s)
    ∧ (s.hostUp = true → s.debugged core slot = [] → exec (.deliver core slot) s = .next s
        ∧ exec (.stopall core slot) s = .next (s.modSlot core slot fun q => { q with sreq := true }))
    ∧ (∀ r h stop, s.hostUp = true → s.debugged core slot = [r] → s.hart? r = some h → h.status = .debug stop →
        let k := match stop.after with
          | none => h
          | some (pc, pos) => if pos = 0 then h.enter pc else { h with pc, pos, reached := false }
        (∃ t, exec (.resume core slot) s = .next t ∧ t.hart? r = some { k with status := .running, debugStep := false } ∧ t.mem = s.mem)
        ∧ (∃ t, exec (.debugStep core slot) s = .next t ∧ t.hart? r = some { k with status := .running, debugStep := true } ∧ t.mem = s.mem)
        ∧ exec (.deliver core slot) s = .next ((s.debugLeave r).toHandler r stop)))
  ∧ (∀ (s : State) (core : Nat) (w : Word), core < 256 → s.hostUp = true → exec (.quantumWrite core w) s =
      .next (s.modCore core fun k => { k with quantum := if w.toNat < 24000 then 24000 else w }))
  ∧ (∀ (s : State) (core slot id : Nat) (q : Slot) (e : Sample), s.slot? core slot = some q →
      q.samples.find? (fun e => e.id == id && e.waits == 0) = some e →
      let gone := s.modSlot core slot fun q => { q with samples := q.samples.filter fun x => x.id != id }
      let n := field (q.word 0x30) 1 5
      let h := s.hoop core q.ctx n
      (s.sampleBytes e).length = 32 ∧ (s.sampleBytes e).take 8 = bytesOfNat 8 e.lmask.toNat
      ∧ ((h.valid = false ∨ h.ent < 32 ∨ h.allow = 0) → exec (.sampleRecord core slot id) s =
          .next (gone.modSlot core slot fun q => q.addPending 0x31 1))
      ∧ (h.valid = true → 32 ≤ h.ent → h.allow ≠ 0 → (s.core core).allocs.any (fun a => a.1 == q.ctx && a.2.cspb != 0) = true →
          exec (.sampleRecord core slot id) s = .next ((({ gone with free := s.free + 6 } : State).storeNear core q.ctx 3 (h.entry h.claim)
            (s.sampleBytes e)).claimEntries core q.ctx n 1 true).2))
  ∧ (∀ s : State, ((s.bar.stage ≠ 7 ∨ s.bar.fail = true ∨ s.power.stopped = true) → exec .coreCycle s = .next s)
      ∧ (s.bar.stage = 7 → s.bar.fail = false → s.power.stopped = false → ∃ t, exec .coreCycle s = .next t ∧ t.tsc = s.tsc + 1
          ∧ t.net = s.net + s.power.cycleUnits))
  ∧ ∀ (q : Slot) (weight waves all : Nat) (starved : Nat × Nat), let q' := q.cycle weight waves all starved
      q'.qcount = (if q.qcount = 0 then 0 else q.qcount - 1) ∧ q'.pending = [] ∧ q'.seeds = [] ∧ (∀ w, q.seeds.get? 0 = some w → q'.g0 = w)
        ∧ (q.frozen = true → q.pending = [] → q.ctlPending = [] → ∀ n, n ≠ 0x40 → n ≠ 0x41 → q'.word n = q.word n)
        ∧ (q'.word 0x41).getLsbD 1 = q.sreq ∧ q'.frozen = (q.frozen && !q.thawing)
        ∧ (∀ n v, q.frozen = true → q.pending = [] → q.ctlPending = [(n, v)] → n < 0x1F →
            q'.word n = if v.getLsbD 48 then BitVec.ofNat 64 (2 ^ 49 - 1) else BitVec.ofNat 64 (field v 0 48))
        ∧ q'.word 0x40 = q.dbgst
        ∧ (q.frozen = false → q.pending = [] → q.ctlPending = [] → starved = (0, 0) → waves = 0 → q'.word 0x10 = counterAdd (q.word 0x10) 1)

/-- Power-on brings the device to the wait for GO, or to recovery at the stage and item that fail: an image is accepted when its key is
the root key or is signed by it, its signature holds and its version is not too low. GO trains the enabled ports, and the device is ready
once they have ended. The words of BAR 0 and the duty split take the values that the host may write, and are read; a write through BAR 2
is a write to memory; links, ports and chips that are lost; a report of the measurements; a key slot takes the keys of a blob that
unwraps; the clock follows the power cap, and at the last temperature everything stops (R5, R466, R467, R526 to R539). The values that
the spec does not say a word keeps, the order of a hash's bytes, and when a port counts as released are the model's choices
(logs 51, 52, 53, 65); that an event whose condition does not hold changes
nothing is its choice too (log 9). -/
def Obligations.BringUpAndPower : Prop :=
  (∀ (s : State) (stage code : Nat) (links : List Nat) (images : List Image), ∃ t, exec (.powerOn stage code links images) s = .next t
      ∧ t.mem = [] ∧ t.packets = [] ∧ t.launches = [] ∧ t.inputs = s.inputs
      ∧ let good := images.takeWhile imageAccepted
        let stopsAt := fun (n c : Nat) => t.bar.stage = n ∧ t.bar.fail = true ∧ t.bar.code = c % 256 ∧ t.cores = []
        (stage = 0 → stopsAt 0 code)
        ∧ (stage ≠ 0 → t.measures = measured good)
        ∧ (stage ≠ 0 → good.length < images.length → stopsAt 1 good.length)
        ∧ (good = images → stage = 2 → stopsAt 2 code)
        ∧ (good = images → stage = 3 → stopsAt 3 code)
        ∧ (good = images → stage ≠ 0 → stage ≠ 2 → stage ≠ 3 →
            (∀ i, i < 4 → links.getD i 4 < 2 → (∀ j, j < i → 2 ≤ links.getD j 4) → stopsAt 3 i)
            ∧ ((∀ i, i < 4 → 2 ≤ links.getD i 4) → t.bar.stage = 5 ∧ t.bar.waitgo = true ∧ t.bar.fail = false ∧ t.cores.length = 256
                ∧ t.bar.link = (stage != 4))))
  ∧ (∀ m : Image, imageAccepted m = true ↔ Config.minVersion.toNat ≤ m.version.toNat
      ∧ Crypto.verify m.keyX m.keyY m.r m.s (imageHash m) = true
      ∧ (rootKey m.keyX m.keyY = true
          ∨ ∃ c, m.cert = some c ∧ rootKey c.keyX c.keyY = true ∧ Crypto.verify c.keyX c.keyY c.r c.s (keyHash m.keyX m.keyY) = true))
  ∧ (∀ s : State,
      (s.bar.waitgo = true → s.dutyUp = true → exec .dutyGo s = .next s.go_)
      ∧ (s.bar.waitgo = true → s.power.stopped = false → exec .goTimeout s = .next s.go_)
      ∧ (s.bar.waitgo = false → exec .dutyGo s = .next s ∧ exec .goTimeout s = .next s)
      ∧ s.go_.bar.waitgo = false ∧ s.go_.bar.go = true ∧ s.go_.bar.training = s.bar.enabled
      ∧ (s.bar.enabled ≠ [] → s.go_.bar.stage = s.bar.stage ∧ s.go_.bar.fail = s.bar.fail)
      ∧ (s.bar.stage = 5 → s.bar.enabled = [] → s.bar.signFails = none → s.go_.bar.stage = 7 ∧ s.go_.bar.fail = s.bar.fail)
      ∧ (∀ c, s.bar.stage = 5 → s.bar.enabled = [] → s.bar.signFails = some c →
          s.go_.bar.stage = 6 ∧ s.go_.bar.fail = true ∧ s.go_.bar.code = c % 256)
      ∧ (s.dutyUp = true → exec .derrClear s = .next { s with bar := { s.bar with derr := false } })
      ∧ (∀ v, s.dutyUp = true → v ≠ s.bar.split →
          ((s.slotHeld = true ∨ s.bar.stage ≠ 7 ∨ s.bar.fail = true) → exec (.dutySplitWrite v) s = .next (s.setSplit v))
          ∧ (s.slotHeld = false → s.bar.stage = 7 → s.bar.fail = false →
              exec (.dutySplitWrite v) s = .next { s with bar := { s.bar with splitNext := some v } }))
      ∧ (∀ v, (s.setSplit v).bar.split = (if s.slotHeld then s.bar.split else v) ∧ (s.setSplit v).bar.derr = (s.bar.derr || s.slotHeld)
          ∧ (s.setSplit v).mem = s.mem)
      ∧ (∀ v, s.bar.splitNext = some v → s.commitSplit = ({ s with bar := { s.bar with splitNext := none } } : State).setSplit v)
      ∧ (s.dutyUp = true → s.barRead 0 = s.bar.stage + 16 * s.bar.fail.toNat + 32 * s.bar.code + 2 ^ 13 * s.bar.waitgo.toNat
          ∧ s.barRead 8 = s.bar.split.toNat + 2 ^ 14 * s.bar.derr.toNat
          ∧ (s.bar.fail = true → ∀ off, off ≠ 0 → off ≠ 8 → s.barRead off = 0)
          ∧ (s.bar.fail = false → s.barRead 0x10 = s.bar.pcap ∧ s.barRead 0x18 = s.bar.chipid ∧ s.barRead 0x38 = s.bar.erbase
            ∧ ∀ n, n < 36 → s.barRead (0x800 + 32 * n) = (s.port n).toNat)))
  ∧ (∀ (s : State) (v : Nat), s.hostUp = true →
      exec (.pcapWrite v) s = .next { s with bar := { s.bar with pcap := if 1200 ≤ v ∧ v ≤ 2400 then v else 2400 } }
      ∧ exec (.registerWrite 0x18 v) s = .next (if s.bar.go then s else { s with bar := { s.bar with chipid := v % 4096 } })
      ∧ exec (.registerWrite 0x28 v) s =
          .next (if s.bar.go = false ∧ v ∈ [16, 32, 64, 128, 256] then { s with bar := { s.bar with logsz := v } } else s)
      ∧ exec (.registerWrite 0x20 v) s = .next { s with bar := { s.bar with w2base := v / windowBytes * windowBytes } }
      ∧ exec (.registerWrite 0x38 v) s = .next { s with bar := { s.bar with erbase := v % 2 ^ 40 } }
      ∧ exec (.registerWrite 0x40 v) s = .next { s with bar := { s.bar with rtbase := v % 2 ^ 40 } }
      ∧ (s.expert 0 = true → 4096 ≤ v → v ≤ 2 ^ 24 → exec (.registerWrite 0x30 v) s = .next { s with bar := { s.bar with grace := v } })
      ∧ (s.expert 0 = false → exec (.registerWrite 0x30 v) s = .next s)
      ∧ (∀ q, q < 64 → exec (.registerWrite (0x10000 + 32 * q) v) s = .next (s.setQueue q { s.queue q with base := BitVec.ofNat 48 (v / 256 * 256) }))
      ∧ ∀ data : List (BitVec 8), v + data.length ≤ windowBytes → s.bar.w2base + v + data.length ≤ 2 ^ 40 → s.posted = [] →
          exec (.hostBar2Write v data) s = .next (s.storePhys 0 (s.bar.w2base + v) data))
  ∧ (∀ (s : State) (a n : Nat), a < 4 → ∃ t, exec (.ucieLinkFailure a n) s = .next t ∧ t.links.toList.getD a 0 = Nat.min n (s.links.toList.getD a 0)
      ∧ t.mem = s.mem ∧ t.packets.length = s.packets.length)
  ∧ (∀ (s : State) (port v : Nat), port < 36 →
      (s.hostUp = true → ∃ t, exec (.portEnable port v) s = .next t ∧ (t.port port).getLsbD 1 = v.testBit 1 ∧ field (t.port port) 2 12 = v / 4 % 2 ^ 12
        ∧ (v.testBit 1 = false → (t.port port).getLsbD 0 = false) ∧ t.mem = s.mem
        ∧ (v.testBit 1 = true → s.bar.go = true → port ∈ t.bar.released))
      ∧ (s.mayTrain port = false → exec (.ultraEthernetPortUp port v) s = .next s)
      ∧ (s.mayTrain port = false ∨ (s.bar.go = true ∧ (s.port port).getLsbD 1 = true ∧ (s.hostMode 3 = false ∨ port ∈ s.bar.released)))
      ∧ (s.mayTrain port = true →
        ∃ t, exec (.ultraEthernetPortUp port v) s = .next t ∧ (t.port port).getLsbD 0 = (v == 1 || v == 2)
          ∧ field (t.port port) 14 4 = (if v = 1 ∨ v = 2 then v else 0) ∧ port ∉ t.bar.training
          ∧ (s.bar.stage = 5 → s.bar.waitgo = false → s.bar.training = [port] → s.bar.signFails = none → t.bar.stage = 7)))
  ∧ (∀ (s : State) (die chip : Nat), (s.portLost die chip = false → exec (.portLoss die chip) s = .next s)
      ∧ (s.portLost die chip = true → ∃ t, exec (.portLoss die chip) s = .next t ∧ chip ∈ (t.die die).lost))
  ∧ (∀ (s : State) (nonce : List (BitVec 8)), s.hostUp = true → s.bar.stage = 7 → nonce.length = 32 →
      exec (.measurementReport nonce) s =
        .next { s with reports := s.reports ++ [s.reportBody nonce ++ Config.signature Config.attestationKey (s.reportBody nonce)] })
  ∧ (∀ (s : State) (ctx slot x y : Nat) (blob : List (BitVec 8)), s.hostUp = true → ctx < 65536 → slot < 64 →
      exec (.keySlotWrite ctx slot x y blob) s = .next (match unwrapKeys ctx slot x y blob with
        | none => { s with keyFailed := true }
        | some k => { s with keys := s.keys.set (ctx * 64 + slot) k, keyFailed := false }))
  ∧ ∀ (s : State) (watts : Nat), s.power.stopped = false →
      (s.cap < watts → exec (.powerWindow watts) s = .next { s with power := { s.power with clock := Nat.max 600 (s.power.clock - 100), below := 0 } })
      ∧ (watts * 100 < s.cap * 95 → watts ≤ s.cap → exec (.powerWindow watts) s = .next { s with power := { s.power with
          below := s.power.below + 1, clock := if 9 ≤ s.power.below then Nat.min 1200 (s.power.clock + 100) else s.power.clock } })
      ∧ (s.cap * 95 ≤ watts * 100 → watts ≤ s.cap → exec (.powerWindow watts) s = .next { s with power := { s.power with below := 0 } })
      ∧ (∃ t u, exec .thermalLimit s = .next t ∧ t.cap = 1200 ∧ exec .thermalLimitClear s = .next u ∧ u.cap = s.bar.pcap ∧ t.mem = s.mem ∧ u.mem = s.mem)
      ∧ (∃ t, exec .thermalShutdown s = .next t ∧ t.power.stopped = true ∧ (t.inputs = [] → step t = .next t))

/-- At power-on memory is in canonical form, no context is on any core, BRSTAT is 0, and every word that has a reset value holds it; a
slot that is given to a context holds what R253 says (R161, R253, R255, R505, R512, R527, R529, R532). PCAP before a write is the model's choice (log 2). -/
def Obligations.ResetState : Prop :=
  State.reset.memOk ∧ State.reset.tsc = 0 ∧ State.reset.bar.stage = 0 ∧ State.reset.bar.fail = false ∧ State.reset.bar.code = 0
    ∧ State.reset.bar.waitgo = false ∧ State.reset.bar.split = 0 ∧ State.reset.bar.derr = false
    ∧ State.reset.bar.pcap = 2400 ∧ (∀ n, n < 64 → (State.reset.queue n).enabled = false)
    ∧ (∀ n, n < 36 → field (State.reset.port n) 2 12 = 250) ∧ State.reset.packets = [] ∧ State.reset.launches = [] ∧ State.reset.cores = []
    ∧ (∀ (regs : Regs) (pc : Word), let h : Hart := { regs, pc, clause := pc }
        h.tstate = {} ∧ (h.fi0.opened = false ∧ h.fi0.pos = 0 ∧ h.fi0.count = 0 ∧ h.fi0.step = 0) ∧ h.fi1 = h.fi0 ∧ h.preds = 0 ∧ h.fpstat = 0
          ∧ h.repstep = 0 ∧ h.doneClear = true ∧ h.trap.ecause = 0)
    ∧ ∀ (s : State) (core ctx : Nat) (rec_ bolts : List Byte) (slacks : List (BitVec 12)) (ovt : BitVec 48),
        let q := s.freshSlot core ctx rec_ bolts slacks ovt
        q.ctx = ctx ∧ q.g0 = 0x9E3779B9 ∧ q.g1 = 0x9E3779B9 ∧ q.gt = 0x9E3779B9 ∧ q.head = 0 ∧ q.count = 0
          ∧ (∀ i : Nat, q.entries.toList.getD i 0 = 0) ∧ (∀ k : BitVec 4, (q.knot k).armed = false ∧ (q.knot k).expect = 0 ∧ (q.knot k).signed = 0)
          ∧ (∀ n, q.word n = 0) ∧ (∀ n, q.bobbin.reg n = 0) ∧ q.bobbin.preds = 0 ∧ q.bobbin.doneClear = true ∧ q.bobbin.repstep = 0
          ∧ q.qcount = (s.core core).quantum ∧ q.tvec = BitVec.ofNat 32 (recN rec_ 0 4) ∧ q.svvec = BitVec.ofNat 32 (recN rec_ 4 4)
          ∧ q.rsvec = BitVec.ofNat 32 (recN rec_ 8 4) ∧ q.svstride = BitVec.ofNat 32 (recN rec_ 0x0C 4)
          ∧ q.svbase = BitVec.ofNat 48 (recN rec_ 0x10 8) ∧ (∀ i < 8, q.slackTab.toList.getD i 0 = slacks.getD i 0) ∧ q.ovt = ovt
end

