-- ==== Sys2Proof/Laws/Memory.lean ====
section
/-! SUPPORT. Sparse tables and memory: reading after writing, and the canonical form that every memory operation keeps. -/

namespace Sys2Proof.Machine

/-! ### Sparse tables -/

section tables
variable {α : Type} (m : KMap α) (j k : Nat)

@[simp] theorem KMap.get?_nil : KMap.get? ([] : KMap α) k = none := rfl

@[simp] theorem KMap.get?_set_self (v : α) : (m.set k v).get? k = some v := by
  induction m with
  | nil => simp [KMap.set, KMap.get?]
  | cons e r ih =>
    obtain ⟨a, b⟩ := e
    unfold KMap.set
    split
    · simp [KMap.get?]
    · split
      · simp [KMap.get?]
      · simp_all [KMap.get?, eq_comm]

theorem KMap.get?_set_of_ne (v : α) (h : j ≠ k) : (m.set k v).get? j = m.get? j := by
  induction m with
  | nil => simp [KMap.set, KMap.get?, Ne.symm h]
  | cons e r ih =>
    obtain ⟨a, b⟩ := e
    unfold KMap.set
    split
    · simp [KMap.get?, Ne.symm h]
    · split
      · simp_all [KMap.get?, eq_comm]
      · simp [KMap.get?, ih]

theorem KMap.get?_set (v : α) : (m.set k v).get? j = if j = k then some v else m.get? j := by
  split
  · next h => rw [h, KMap.get?_set_self]
  · next h => exact KMap.get?_set_of_ne m j k v h

theorem KMap.get?_modify (f : α → α) : (m.modify k f).get? j = if j = k then (m.get? j).map f else m.get? j := by
  induction m with
  | nil => simp [KMap.modify, KMap.get?]
  | cons e r ih =>
    obtain ⟨a, b⟩ := e
    simp only [KMap.modify, List.map_cons] at ih ⊢
    by_cases hk : a = k
    · subst hk; by_cases hj : a = j
      · simp [KMap.get?, hj]
      · simp [KMap.get?, hj, Ne.symm hj, ih]
    · by_cases hj : a = j
      · subst hj; simp [KMap.get?, hk]
      · simp [KMap.get?, hk, hj, ih]

@[simp] theorem KMap.get?_modify_self (f : α → α) : (m.modify k f).get? k = (m.get? k).map f := by
  simp [KMap.get?_modify]

theorem KMap.get?_modify_of_ne (f : α → α) (h : j ≠ k) : (m.modify k f).get? j = m.get? j := by
  simp [KMap.get?_modify, h]

@[simp] theorem KMap.get?_mapVals (f : Nat → α → α) : (m.mapVals f).get? j = (m.get? j).map (f j) := by
  induction m with
  | nil => simp [KMap.mapVals, KMap.get?]
  | cons e r ih =>
    obtain ⟨a, b⟩ := e
    simp only [KMap.mapVals, List.map_cons] at ih ⊢
    by_cases hj : a = j <;> simp_all [KMap.get?]

theorem KMap.get?_erase : (m.erase k).get? j = if j = k then none else m.get? j := by
  induction m with
  | nil => simp [KMap.erase, KMap.get?]
  | cons e r ih =>
    obtain ⟨a, b⟩ := e
    simp only [KMap.erase, List.filter_cons] at ih ⊢
    by_cases ha : a = k
    · subst ha; by_cases hj : a = j
      · subst hj; simp [ih]
      · simp [KMap.get?, hj, Ne.symm hj, ih]
    · by_cases hj : a = j
      · subst hj; simp [KMap.get?, ha]
      · simp [KMap.get?, ha, hj, ih]

end tables

/-! ### Reading after writing -/

@[simp] theorem Memory.get_nil (a : Nat) : Memory.get [] a = Memory.rest := rfl

theorem Memory.get_insert (m : List Host.Cell) (a x : Nat) (b : Byte) :
    Memory.get (Memory.insert m a b) x = if x = a then b else Memory.get m x := by
  induction m with
  | nil => simp [Memory.insert, Memory.get, eq_comm]
  | cons e r ih =>
    obtain ⟨a', b'⟩ := e
    unfold Memory.insert
    split
    · by_cases hx : x = a
      · simp [Memory.get, hx]
      · simp [Memory.get, hx, Ne.symm hx]
    · split
      · next h1 h2 =>
        subst h2
        by_cases hx : x = a
        · simp [Memory.get, hx]
        · simp [Memory.get, hx, Ne.symm hx]
      · next h1 h2 =>
        by_cases hx : a' = x
        · simp [Memory.get, hx]; omega
        · simp [Memory.get, hx, ih]

theorem Memory.get_filter (m : List Host.Cell) (p : Nat → Bool) (x : Nat) :
    Memory.get (m.filter fun e => p e.1) x = if p x then Memory.get m x else Memory.rest := by
  induction m with
  | nil => simp
  | cons e r ih =>
    obtain ⟨a, b⟩ := e
    by_cases hp : p a <;> by_cases hx : a = x <;> simp_all [Memory.get]

/-- A byte reads as what was written last at its address. -/
theorem Memory.get_set (m : List Host.Cell) (a x : Nat) (b : Byte) :
    Memory.get (Memory.set m a b) x = if x = a then b else Memory.get m x := by
  unfold Memory.set
  split
  · next h =>
    have := Memory.get_filter m (fun k => k != a) x
    rw [this]; by_cases hx : x = a <;> simp_all
  · exact Memory.get_insert m a x b

/-- A run of bytes: inside it the bytes written, elsewhere what was there. -/
theorem Memory.get_setBytes (l : List Byte) (m : List Host.Cell) (a x : Nat) :
    Memory.get (Memory.setBytes m a l) x = if a ≤ x ∧ x < a + l.length then l.getD (x - a) 0 else Memory.get m x := by
  induction l generalizing m a with
  | nil => simp [Memory.setBytes] <;> omega
  | cons b bs ih =>
    rw [Memory.setBytes, ih, Memory.get_set]
    by_cases h1 : a + 1 ≤ x ∧ x < a + 1 + bs.length
    · have h2 : a ≤ x ∧ x < a + (b :: bs).length := by simp; omega
      have h3 : x - a = (x - (a + 1)) + 1 := by omega
      rw [if_pos h1, if_pos h2, h3]; simp
    · by_cases h4 : x = a
      · subst h4; rw [if_neg h1]; simp
      · rw [if_neg h1, if_neg h4, if_neg (by simp; omega)]

theorem Memory.get_clear (m : List Host.Cell) (a n x : Nat) :
    Memory.get (Memory.clear m a n) x = if a ≤ x ∧ x < a + n then Memory.rest else Memory.get m x := by
  have := Memory.get_filter m (fun k => !(decide (a ≤ k) && decide (k < a + n))) x
  rw [Memory.clear, this]
  by_cases h1 : a ≤ x <;> by_cases h2 : x < a + n <;> simp [h1, h2]

/-! ### The canonical form -/

/-- The canonical form, without the case split of its definition. -/
theorem Memory.wf_iff (m : List Host.Cell) :
    Memory.wf m = true ↔ m.Pairwise (fun a b => a.1 < b.1) ∧ ∀ e ∈ m, e.2 ≠ Memory.rest := by
  induction m with
  | nil => simp [Memory.wf]
  | cons e r ih =>
    obtain ⟨a, b⟩ := e
    cases r with
    | nil => simp [Memory.wf]
    | cons e' r =>
      obtain ⟨a', b'⟩ := e'
      rw [Memory.wf, Bool.and_eq_true, Bool.and_eq_true, ih]
      simp only [bne_iff_ne, ne_eq, decide_eq_true_eq, List.pairwise_cons, List.mem_cons, forall_eq_or_imp]
      constructor
      · rintro ⟨⟨h1, h2⟩, ⟨h3, h4⟩, h5, h6⟩
        exact ⟨⟨⟨h2, fun x hx => Nat.lt_trans h2 (h3 x hx)⟩, h3, h4⟩, h1, h5, h6⟩
      · rintro ⟨⟨⟨h2, _⟩, h3, h4⟩, h1, h5, h6⟩
        exact ⟨⟨h1, h2⟩, ⟨h3, h4⟩, h5, h6⟩

theorem Memory.wf_filter (m : List Host.Cell) (p : Host.Cell → Bool) (h : Memory.wf m = true) : Memory.wf (m.filter p) = true := by
  rw [Memory.wf_iff] at h ⊢
  exact ⟨h.1.sublist List.filter_sublist, fun e he => h.2 e ((List.mem_filter.mp he).1)⟩

theorem Memory.mem_insert {m : List Host.Cell} {a : Nat} {b : Byte} {e : Host.Cell} (he : e ∈ Memory.insert m a b) :
    e = (a, b) ∨ e ∈ m := by
  induction m with
  | nil => simp_all [Memory.insert]
  | cons x r ih =>
    obtain ⟨a', b'⟩ := x
    unfold Memory.insert at he
    rw [List.mem_cons]
    split at he
    · rcases List.mem_cons.mp he with h | h
      · exact .inl h
      · exact .inr (List.mem_cons.mp h)
    · split at he
      · rcases List.mem_cons.mp he with h | h
        · exact .inl h
        · exact .inr (.inr h)
      · rcases List.mem_cons.mp he with h | h
        · exact .inr (.inl h)
        · rcases ih h with h | h
          · exact .inl h
          · exact .inr (.inr h)

theorem Memory.wf_insert (m : List Host.Cell) (a : Nat) (b : Byte) (hb : b ≠ Memory.rest) (h : Memory.wf m = true) :
    Memory.wf (Memory.insert m a b) = true := by
  rw [Memory.wf_iff] at h ⊢
  refine ⟨?_, fun e he => ?_⟩
  · induction m with
    | nil => simp [Memory.insert]
    | cons x r ih =>
      obtain ⟨a', b'⟩ := x
      have h1 := List.pairwise_cons.mp h.1
      have hr : ∀ e ∈ r, e.2 ≠ Memory.rest := fun e he => h.2 e (List.mem_cons_of_mem _ he)
      unfold Memory.insert
      split
      · next hlt =>
        refine List.pairwise_cons.mpr ⟨?_, h.1⟩
        rintro e he
        rcases List.mem_cons.mp he with rfl | he
        · exact hlt
        · exact Nat.lt_trans hlt (h1.1 e he)
      · split
        · next heq => subst heq; exact List.pairwise_cons.mpr ⟨h1.1, h1.2⟩
        · next h3 h4 =>
          refine List.pairwise_cons.mpr ⟨?_, ih ⟨h1.2, hr⟩⟩
          intro e he
          rcases Memory.mem_insert he with rfl | he
          · show a' < a; omega
          · exact h1.1 e he
  · rcases Memory.mem_insert he with rfl | he
    · exact hb
    · exact h.2 e he

theorem Memory.wf_set (m : List Host.Cell) (a : Nat) (b : Byte) (h : Memory.wf m = true) : Memory.wf (Memory.set m a b) = true := by
  unfold Memory.set
  split
  · exact Memory.wf_filter m _ h
  · next hb => exact Memory.wf_insert m a b hb h

theorem Memory.wf_setBytes (l : List Byte) (m : List Host.Cell) (a : Nat) (h : Memory.wf m = true) :
    Memory.wf (Memory.setBytes m a l) = true := by
  induction l generalizing m a with
  | nil => exact h
  | cons b bs ih => exact ih _ _ (Memory.wf_set m a b h)

theorem Memory.wf_clear (m : List Host.Cell) (a n : Nat) (h : Memory.wf m = true) : Memory.wf (Memory.clear m a n) = true :=
  Memory.wf_filter m _ h

/-- Writes one after another keep the form. -/
theorem Memory.wf_foldl {β : Type} (f : List Host.Cell → β → List Host.Cell) (hf : ∀ m e, Memory.wf m = true → Memory.wf (f m e) = true)
    (l : List β) (m : List Host.Cell) (h : Memory.wf m = true) : Memory.wf (l.foldl f m) = true := by
  induction l generalizing m with
  | nil => exact h
  | cons e es ih => exact ih _ (hf m e h)

/-- Memory at power-on has the form. -/
theorem State.reset_wf : Memory.wf State.reset.mem = true := rfl

end Sys2Proof.Machine
end

