-- ==== Sys2Proof/Laws/State.lean ====
section
/-! SUPPORT. What each update of the state and of a thread leaves in each field. -/

namespace Sys2Proof.Machine

variable (s : State) (h : Hart)

/-! ### State.setCore -/

@[simp] theorem State.setCore_inputs (c : Nat) (k : Core) : (s.setCore c k).inputs = s.inputs := rfl
@[simp] theorem State.setCore_cur (c : Nat) (k : Core) : (s.setCore c k).cur = s.cur := rfl
@[simp] theorem State.setCore_free (c : Nat) (k : Core) : (s.setCore c k).free = s.free := rfl
@[simp] theorem State.setCore_next (c : Nat) (k : Core) : (s.setCore c k).next = s.next := rfl
@[simp] theorem State.setCore_tsc (c : Nat) (k : Core) : (s.setCore c k).tsc = s.tsc := rfl
@[simp] theorem State.setCore_fireClosed (c : Nat) (k : Core) : (s.setCore c k).fireClosed = s.fireClosed := rfl
@[simp] theorem State.setCore_net (c : Nat) (k : Core) : (s.setCore c k).net = s.net := rfl
@[simp] theorem State.setCore_ticks (c : Nat) (k : Core) : (s.setCore c k).ticks = s.ticks := rfl
@[simp] theorem State.setCore_mem (c : Nat) (k : Core) : (s.setCore c k).mem = s.mem := rfl
@[simp] theorem State.setCore_poison (c : Nat) (k : Core) : (s.setCore c k).poison = s.poison := rfl
@[simp] theorem State.setCore_dies (c : Nat) (k : Core) : (s.setCore c k).dies = s.dies := rfl
@[simp] theorem State.setCore_queues (c : Nat) (k : Core) : (s.setCore c k).queues = s.queues := rfl
@[simp] theorem State.setCore_vt (c : Nat) (k : Core) : (s.setCore c k).vt = s.vt := rfl
@[simp] theorem State.setCore_pbase (c : Nat) (k : Core) : (s.setCore c k).pbase = s.pbase := rfl
@[simp] theorem State.setCore_lastCtxs (c : Nat) (k : Core) : (s.setCore c k).lastCtxs = s.lastCtxs := rfl
@[simp] theorem State.setCore_ctxrecs (c : Nat) (k : Core) : (s.setCore c k).ctxrecs = s.ctxrecs := rfl
@[simp] theorem State.setCore_hmaps (c : Nat) (k : Core) : (s.setCore c k).hmaps = s.hmaps := rfl
@[simp] theorem State.setCore_ptabs (c : Nat) (k : Core) : (s.setCore c k).ptabs = s.ptabs := rfl
@[simp] theorem State.setCore_btabs (c : Nat) (k : Core) : (s.setCore c k).btabs = s.btabs := rfl
@[simp] theorem State.setCore_launches (c : Nat) (k : Core) : (s.setCore c k).launches = s.launches := rfl
@[simp] theorem State.setCore_eclasses (c : Nat) (k : Core) : (s.setCore c k).eclasses = s.eclasses := rfl
@[simp] theorem State.setCore_stagings (c : Nat) (k : Core) : (s.setCore c k).stagings = s.stagings := rfl
@[simp] theorem State.setCore_records (c : Nat) (k : Core) : (s.setCore c k).records = s.records := rfl
@[simp] theorem State.setCore_phases (c : Nat) (k : Core) : (s.setCore c k).phases = s.phases := rfl
@[simp] theorem State.setCore_drains (c : Nat) (k : Core) : (s.setCore c k).drains = s.drains := rfl
@[simp] theorem State.setCore_packets (c : Nat) (k : Core) : (s.setCore c k).packets = s.packets := rfl
@[simp] theorem State.setCore_outbox (c : Nat) (k : Core) : (s.setCore c k).outbox = s.outbox := rfl
@[simp] theorem State.setCore_keys (c : Nat) (k : Core) : (s.setCore c k).keys = s.keys := rfl
@[simp] theorem State.setCore_keyFailed (c : Nat) (k : Core) : (s.setCore c k).keyFailed = s.keyFailed := rfl
@[simp] theorem State.setCore_ranges (c : Nat) (k : Core) : (s.setCore c k).ranges = s.ranges := rfl
@[simp] theorem State.setCore_moves (c : Nat) (k : Core) : (s.setCore c k).moves = s.moves := rfl
@[simp] theorem State.setCore_shootdowns (c : Nat) (k : Core) : (s.setCore c k).shootdowns = s.shootdowns := rfl
@[simp] theorem State.setCore_posted (c : Nat) (k : Core) : (s.setCore c k).posted = s.posted := rfl
@[simp] theorem State.setCore_unposted (c : Nat) (k : Core) : (s.setCore c k).unposted = s.unposted := rfl
@[simp] theorem State.setCore_services (c : Nat) (k : Core) : (s.setCore c k).services = s.services := rfl
@[simp] theorem State.setCore_msix (c : Nat) (k : Core) : (s.setCore c k).msix = s.msix := rfl
@[simp] theorem State.setCore_bar (c : Nat) (k : Core) : (s.setCore c k).bar = s.bar := rfl
@[simp] theorem State.setCore_power (c : Nat) (k : Core) : (s.setCore c k).power = s.power := rfl
@[simp] theorem State.setCore_measures (c : Nat) (k : Core) : (s.setCore c k).measures = s.measures := rfl
@[simp] theorem State.setCore_reports (c : Nat) (k : Core) : (s.setCore c k).reports = s.reports := rfl
@[simp] theorem State.setCore_links (c : Nat) (k : Core) : (s.setCore c k).links = s.links := rfl

/-! ### State.modCore -/

@[simp] theorem State.modCore_inputs (c : Nat) (f : Core → Core) : (s.modCore c f).inputs = s.inputs := rfl
@[simp] theorem State.modCore_cur (c : Nat) (f : Core → Core) : (s.modCore c f).cur = s.cur := rfl
@[simp] theorem State.modCore_free (c : Nat) (f : Core → Core) : (s.modCore c f).free = s.free := rfl
@[simp] theorem State.modCore_next (c : Nat) (f : Core → Core) : (s.modCore c f).next = s.next := rfl
@[simp] theorem State.modCore_tsc (c : Nat) (f : Core → Core) : (s.modCore c f).tsc = s.tsc := rfl
@[simp] theorem State.modCore_fireClosed (c : Nat) (f : Core → Core) : (s.modCore c f).fireClosed = s.fireClosed := rfl
@[simp] theorem State.modCore_net (c : Nat) (f : Core → Core) : (s.modCore c f).net = s.net := rfl
@[simp] theorem State.modCore_ticks (c : Nat) (f : Core → Core) : (s.modCore c f).ticks = s.ticks := rfl
@[simp] theorem State.modCore_mem (c : Nat) (f : Core → Core) : (s.modCore c f).mem = s.mem := rfl
@[simp] theorem State.modCore_poison (c : Nat) (f : Core → Core) : (s.modCore c f).poison = s.poison := rfl
@[simp] theorem State.modCore_dies (c : Nat) (f : Core → Core) : (s.modCore c f).dies = s.dies := rfl
@[simp] theorem State.modCore_queues (c : Nat) (f : Core → Core) : (s.modCore c f).queues = s.queues := rfl
@[simp] theorem State.modCore_vt (c : Nat) (f : Core → Core) : (s.modCore c f).vt = s.vt := rfl
@[simp] theorem State.modCore_pbase (c : Nat) (f : Core → Core) : (s.modCore c f).pbase = s.pbase := rfl
@[simp] theorem State.modCore_lastCtxs (c : Nat) (f : Core → Core) : (s.modCore c f).lastCtxs = s.lastCtxs := rfl
@[simp] theorem State.modCore_ctxrecs (c : Nat) (f : Core → Core) : (s.modCore c f).ctxrecs = s.ctxrecs := rfl
@[simp] theorem State.modCore_hmaps (c : Nat) (f : Core → Core) : (s.modCore c f).hmaps = s.hmaps := rfl
@[simp] theorem State.modCore_ptabs (c : Nat) (f : Core → Core) : (s.modCore c f).ptabs = s.ptabs := rfl
@[simp] theorem State.modCore_btabs (c : Nat) (f : Core → Core) : (s.modCore c f).btabs = s.btabs := rfl
@[simp] theorem State.modCore_launches (c : Nat) (f : Core → Core) : (s.modCore c f).launches = s.launches := rfl
@[simp] theorem State.modCore_eclasses (c : Nat) (f : Core → Core) : (s.modCore c f).eclasses = s.eclasses := rfl
@[simp] theorem State.modCore_stagings (c : Nat) (f : Core → Core) : (s.modCore c f).stagings = s.stagings := rfl
@[simp] theorem State.modCore_records (c : Nat) (f : Core → Core) : (s.modCore c f).records = s.records := rfl
@[simp] theorem State.modCore_phases (c : Nat) (f : Core → Core) : (s.modCore c f).phases = s.phases := rfl
@[simp] theorem State.modCore_drains (c : Nat) (f : Core → Core) : (s.modCore c f).drains = s.drains := rfl
@[simp] theorem State.modCore_packets (c : Nat) (f : Core → Core) : (s.modCore c f).packets = s.packets := rfl
@[simp] theorem State.modCore_outbox (c : Nat) (f : Core → Core) : (s.modCore c f).outbox = s.outbox := rfl
@[simp] theorem State.modCore_keys (c : Nat) (f : Core → Core) : (s.modCore c f).keys = s.keys := rfl
@[simp] theorem State.modCore_keyFailed (c : Nat) (f : Core → Core) : (s.modCore c f).keyFailed = s.keyFailed := rfl
@[simp] theorem State.modCore_ranges (c : Nat) (f : Core → Core) : (s.modCore c f).ranges = s.ranges := rfl
@[simp] theorem State.modCore_moves (c : Nat) (f : Core → Core) : (s.modCore c f).moves = s.moves := rfl
@[simp] theorem State.modCore_shootdowns (c : Nat) (f : Core → Core) : (s.modCore c f).shootdowns = s.shootdowns := rfl
@[simp] theorem State.modCore_posted (c : Nat) (f : Core → Core) : (s.modCore c f).posted = s.posted := rfl
@[simp] theorem State.modCore_unposted (c : Nat) (f : Core → Core) : (s.modCore c f).unposted = s.unposted := rfl
@[simp] theorem State.modCore_services (c : Nat) (f : Core → Core) : (s.modCore c f).services = s.services := rfl
@[simp] theorem State.modCore_msix (c : Nat) (f : Core → Core) : (s.modCore c f).msix = s.msix := rfl
@[simp] theorem State.modCore_bar (c : Nat) (f : Core → Core) : (s.modCore c f).bar = s.bar := rfl
@[simp] theorem State.modCore_power (c : Nat) (f : Core → Core) : (s.modCore c f).power = s.power := rfl
@[simp] theorem State.modCore_measures (c : Nat) (f : Core → Core) : (s.modCore c f).measures = s.measures := rfl
@[simp] theorem State.modCore_reports (c : Nat) (f : Core → Core) : (s.modCore c f).reports = s.reports := rfl
@[simp] theorem State.modCore_links (c : Nat) (f : Core → Core) : (s.modCore c f).links = s.links := rfl

/-! ### State.modWave -/

@[simp] theorem State.modWave_inputs (c w : Nat) (f : Wave → Wave) : (s.modWave c w f).inputs = s.inputs := rfl
@[simp] theorem State.modWave_cur (c w : Nat) (f : Wave → Wave) : (s.modWave c w f).cur = s.cur := rfl
@[simp] theorem State.modWave_free (c w : Nat) (f : Wave → Wave) : (s.modWave c w f).free = s.free := rfl
@[simp] theorem State.modWave_next (c w : Nat) (f : Wave → Wave) : (s.modWave c w f).next = s.next := rfl
@[simp] theorem State.modWave_tsc (c w : Nat) (f : Wave → Wave) : (s.modWave c w f).tsc = s.tsc := rfl
@[simp] theorem State.modWave_fireClosed (c w : Nat) (f : Wave → Wave) : (s.modWave c w f).fireClosed = s.fireClosed := rfl
@[simp] theorem State.modWave_net (c w : Nat) (f : Wave → Wave) : (s.modWave c w f).net = s.net := rfl
@[simp] theorem State.modWave_ticks (c w : Nat) (f : Wave → Wave) : (s.modWave c w f).ticks = s.ticks := rfl
@[simp] theorem State.modWave_mem (c w : Nat) (f : Wave → Wave) : (s.modWave c w f).mem = s.mem := rfl
@[simp] theorem State.modWave_poison (c w : Nat) (f : Wave → Wave) : (s.modWave c w f).poison = s.poison := rfl
@[simp] theorem State.modWave_dies (c w : Nat) (f : Wave → Wave) : (s.modWave c w f).dies = s.dies := rfl
@[simp] theorem State.modWave_queues (c w : Nat) (f : Wave → Wave) : (s.modWave c w f).queues = s.queues := rfl
@[simp] theorem State.modWave_vt (c w : Nat) (f : Wave → Wave) : (s.modWave c w f).vt = s.vt := rfl
@[simp] theorem State.modWave_pbase (c w : Nat) (f : Wave → Wave) : (s.modWave c w f).pbase = s.pbase := rfl
@[simp] theorem State.modWave_lastCtxs (c w : Nat) (f : Wave → Wave) : (s.modWave c w f).lastCtxs = s.lastCtxs := rfl
@[simp] theorem State.modWave_ctxrecs (c w : Nat) (f : Wave → Wave) : (s.modWave c w f).ctxrecs = s.ctxrecs := rfl
@[simp] theorem State.modWave_hmaps (c w : Nat) (f : Wave → Wave) : (s.modWave c w f).hmaps = s.hmaps := rfl
@[simp] theorem State.modWave_ptabs (c w : Nat) (f : Wave → Wave) : (s.modWave c w f).ptabs = s.ptabs := rfl
@[simp] theorem State.modWave_btabs (c w : Nat) (f : Wave → Wave) : (s.modWave c w f).btabs = s.btabs := rfl
@[simp] theorem State.modWave_launches (c w : Nat) (f : Wave → Wave) : (s.modWave c w f).launches = s.launches := rfl
@[simp] theorem State.modWave_eclasses (c w : Nat) (f : Wave → Wave) : (s.modWave c w f).eclasses = s.eclasses := rfl
@[simp] theorem State.modWave_stagings (c w : Nat) (f : Wave → Wave) : (s.modWave c w f).stagings = s.stagings := rfl
@[simp] theorem State.modWave_records (c w : Nat) (f : Wave → Wave) : (s.modWave c w f).records = s.records := rfl
@[simp] theorem State.modWave_phases (c w : Nat) (f : Wave → Wave) : (s.modWave c w f).phases = s.phases := rfl
@[simp] theorem State.modWave_drains (c w : Nat) (f : Wave → Wave) : (s.modWave c w f).drains = s.drains := rfl
@[simp] theorem State.modWave_packets (c w : Nat) (f : Wave → Wave) : (s.modWave c w f).packets = s.packets := rfl
@[simp] theorem State.modWave_outbox (c w : Nat) (f : Wave → Wave) : (s.modWave c w f).outbox = s.outbox := rfl
@[simp] theorem State.modWave_keys (c w : Nat) (f : Wave → Wave) : (s.modWave c w f).keys = s.keys := rfl
@[simp] theorem State.modWave_keyFailed (c w : Nat) (f : Wave → Wave) : (s.modWave c w f).keyFailed = s.keyFailed := rfl
@[simp] theorem State.modWave_ranges (c w : Nat) (f : Wave → Wave) : (s.modWave c w f).ranges = s.ranges := rfl
@[simp] theorem State.modWave_moves (c w : Nat) (f : Wave → Wave) : (s.modWave c w f).moves = s.moves := rfl
@[simp] theorem State.modWave_shootdowns (c w : Nat) (f : Wave → Wave) : (s.modWave c w f).shootdowns = s.shootdowns := rfl
@[simp] theorem State.modWave_posted (c w : Nat) (f : Wave → Wave) : (s.modWave c w f).posted = s.posted := rfl
@[simp] theorem State.modWave_unposted (c w : Nat) (f : Wave → Wave) : (s.modWave c w f).unposted = s.unposted := rfl
@[simp] theorem State.modWave_services (c w : Nat) (f : Wave → Wave) : (s.modWave c w f).services = s.services := rfl
@[simp] theorem State.modWave_msix (c w : Nat) (f : Wave → Wave) : (s.modWave c w f).msix = s.msix := rfl
@[simp] theorem State.modWave_bar (c w : Nat) (f : Wave → Wave) : (s.modWave c w f).bar = s.bar := rfl
@[simp] theorem State.modWave_power (c w : Nat) (f : Wave → Wave) : (s.modWave c w f).power = s.power := rfl
@[simp] theorem State.modWave_measures (c w : Nat) (f : Wave → Wave) : (s.modWave c w f).measures = s.measures := rfl
@[simp] theorem State.modWave_reports (c w : Nat) (f : Wave → Wave) : (s.modWave c w f).reports = s.reports := rfl
@[simp] theorem State.modWave_links (c w : Nat) (f : Wave → Wave) : (s.modWave c w f).links = s.links := rfl

/-! ### State.modSlot -/

@[simp] theorem State.modSlot_inputs (c k : Nat) (f : Slot → Slot) : (s.modSlot c k f).inputs = s.inputs := rfl
@[simp] theorem State.modSlot_cur (c k : Nat) (f : Slot → Slot) : (s.modSlot c k f).cur = s.cur := rfl
@[simp] theorem State.modSlot_free (c k : Nat) (f : Slot → Slot) : (s.modSlot c k f).free = s.free := rfl
@[simp] theorem State.modSlot_next (c k : Nat) (f : Slot → Slot) : (s.modSlot c k f).next = s.next := rfl
@[simp] theorem State.modSlot_tsc (c k : Nat) (f : Slot → Slot) : (s.modSlot c k f).tsc = s.tsc := rfl
@[simp] theorem State.modSlot_fireClosed (c k : Nat) (f : Slot → Slot) : (s.modSlot c k f).fireClosed = s.fireClosed := rfl
@[simp] theorem State.modSlot_net (c k : Nat) (f : Slot → Slot) : (s.modSlot c k f).net = s.net := rfl
@[simp] theorem State.modSlot_ticks (c k : Nat) (f : Slot → Slot) : (s.modSlot c k f).ticks = s.ticks := rfl
@[simp] theorem State.modSlot_mem (c k : Nat) (f : Slot → Slot) : (s.modSlot c k f).mem = s.mem := rfl
@[simp] theorem State.modSlot_poison (c k : Nat) (f : Slot → Slot) : (s.modSlot c k f).poison = s.poison := rfl
@[simp] theorem State.modSlot_dies (c k : Nat) (f : Slot → Slot) : (s.modSlot c k f).dies = s.dies := rfl
@[simp] theorem State.modSlot_queues (c k : Nat) (f : Slot → Slot) : (s.modSlot c k f).queues = s.queues := rfl
@[simp] theorem State.modSlot_vt (c k : Nat) (f : Slot → Slot) : (s.modSlot c k f).vt = s.vt := rfl
@[simp] theorem State.modSlot_pbase (c k : Nat) (f : Slot → Slot) : (s.modSlot c k f).pbase = s.pbase := rfl
@[simp] theorem State.modSlot_lastCtxs (c k : Nat) (f : Slot → Slot) : (s.modSlot c k f).lastCtxs = s.lastCtxs := rfl
@[simp] theorem State.modSlot_ctxrecs (c k : Nat) (f : Slot → Slot) : (s.modSlot c k f).ctxrecs = s.ctxrecs := rfl
@[simp] theorem State.modSlot_hmaps (c k : Nat) (f : Slot → Slot) : (s.modSlot c k f).hmaps = s.hmaps := rfl
@[simp] theorem State.modSlot_ptabs (c k : Nat) (f : Slot → Slot) : (s.modSlot c k f).ptabs = s.ptabs := rfl
@[simp] theorem State.modSlot_btabs (c k : Nat) (f : Slot → Slot) : (s.modSlot c k f).btabs = s.btabs := rfl
@[simp] theorem State.modSlot_launches (c k : Nat) (f : Slot → Slot) : (s.modSlot c k f).launches = s.launches := rfl
@[simp] theorem State.modSlot_eclasses (c k : Nat) (f : Slot → Slot) : (s.modSlot c k f).eclasses = s.eclasses := rfl
@[simp] theorem State.modSlot_stagings (c k : Nat) (f : Slot → Slot) : (s.modSlot c k f).stagings = s.stagings := rfl
@[simp] theorem State.modSlot_records (c k : Nat) (f : Slot → Slot) : (s.modSlot c k f).records = s.records := rfl
@[simp] theorem State.modSlot_phases (c k : Nat) (f : Slot → Slot) : (s.modSlot c k f).phases = s.phases := rfl
@[simp] theorem State.modSlot_drains (c k : Nat) (f : Slot → Slot) : (s.modSlot c k f).drains = s.drains := rfl
@[simp] theorem State.modSlot_packets (c k : Nat) (f : Slot → Slot) : (s.modSlot c k f).packets = s.packets := rfl
@[simp] theorem State.modSlot_outbox (c k : Nat) (f : Slot → Slot) : (s.modSlot c k f).outbox = s.outbox := rfl
@[simp] theorem State.modSlot_keys (c k : Nat) (f : Slot → Slot) : (s.modSlot c k f).keys = s.keys := rfl
@[simp] theorem State.modSlot_keyFailed (c k : Nat) (f : Slot → Slot) : (s.modSlot c k f).keyFailed = s.keyFailed := rfl
@[simp] theorem State.modSlot_ranges (c k : Nat) (f : Slot → Slot) : (s.modSlot c k f).ranges = s.ranges := rfl
@[simp] theorem State.modSlot_moves (c k : Nat) (f : Slot → Slot) : (s.modSlot c k f).moves = s.moves := rfl
@[simp] theorem State.modSlot_shootdowns (c k : Nat) (f : Slot → Slot) : (s.modSlot c k f).shootdowns = s.shootdowns := rfl
@[simp] theorem State.modSlot_posted (c k : Nat) (f : Slot → Slot) : (s.modSlot c k f).posted = s.posted := rfl
@[simp] theorem State.modSlot_unposted (c k : Nat) (f : Slot → Slot) : (s.modSlot c k f).unposted = s.unposted := rfl
@[simp] theorem State.modSlot_services (c k : Nat) (f : Slot → Slot) : (s.modSlot c k f).services = s.services := rfl
@[simp] theorem State.modSlot_msix (c k : Nat) (f : Slot → Slot) : (s.modSlot c k f).msix = s.msix := rfl
@[simp] theorem State.modSlot_bar (c k : Nat) (f : Slot → Slot) : (s.modSlot c k f).bar = s.bar := rfl
@[simp] theorem State.modSlot_power (c k : Nat) (f : Slot → Slot) : (s.modSlot c k f).power = s.power := rfl
@[simp] theorem State.modSlot_measures (c k : Nat) (f : Slot → Slot) : (s.modSlot c k f).measures = s.measures := rfl
@[simp] theorem State.modSlot_reports (c k : Nat) (f : Slot → Slot) : (s.modSlot c k f).reports = s.reports := rfl
@[simp] theorem State.modSlot_links (c k : Nat) (f : Slot → Slot) : (s.modSlot c k f).links = s.links := rfl

/-! ### State.modDie -/

@[simp] theorem State.modDie_inputs (d : Nat) (f : Die → Die) : (s.modDie d f).inputs = s.inputs := rfl
@[simp] theorem State.modDie_cur (d : Nat) (f : Die → Die) : (s.modDie d f).cur = s.cur := rfl
@[simp] theorem State.modDie_free (d : Nat) (f : Die → Die) : (s.modDie d f).free = s.free := rfl
@[simp] theorem State.modDie_next (d : Nat) (f : Die → Die) : (s.modDie d f).next = s.next := rfl
@[simp] theorem State.modDie_tsc (d : Nat) (f : Die → Die) : (s.modDie d f).tsc = s.tsc := rfl
@[simp] theorem State.modDie_fireClosed (d : Nat) (f : Die → Die) : (s.modDie d f).fireClosed = s.fireClosed := rfl
@[simp] theorem State.modDie_net (d : Nat) (f : Die → Die) : (s.modDie d f).net = s.net := rfl
@[simp] theorem State.modDie_ticks (d : Nat) (f : Die → Die) : (s.modDie d f).ticks = s.ticks := rfl
@[simp] theorem State.modDie_mem (d : Nat) (f : Die → Die) : (s.modDie d f).mem = s.mem := rfl
@[simp] theorem State.modDie_poison (d : Nat) (f : Die → Die) : (s.modDie d f).poison = s.poison := rfl
@[simp] theorem State.modDie_cores (d : Nat) (f : Die → Die) : (s.modDie d f).cores = s.cores := rfl
@[simp] theorem State.modDie_queues (d : Nat) (f : Die → Die) : (s.modDie d f).queues = s.queues := rfl
@[simp] theorem State.modDie_vt (d : Nat) (f : Die → Die) : (s.modDie d f).vt = s.vt := rfl
@[simp] theorem State.modDie_pbase (d : Nat) (f : Die → Die) : (s.modDie d f).pbase = s.pbase := rfl
@[simp] theorem State.modDie_lastCtxs (d : Nat) (f : Die → Die) : (s.modDie d f).lastCtxs = s.lastCtxs := rfl
@[simp] theorem State.modDie_ctxrecs (d : Nat) (f : Die → Die) : (s.modDie d f).ctxrecs = s.ctxrecs := rfl
@[simp] theorem State.modDie_hmaps (d : Nat) (f : Die → Die) : (s.modDie d f).hmaps = s.hmaps := rfl
@[simp] theorem State.modDie_ptabs (d : Nat) (f : Die → Die) : (s.modDie d f).ptabs = s.ptabs := rfl
@[simp] theorem State.modDie_btabs (d : Nat) (f : Die → Die) : (s.modDie d f).btabs = s.btabs := rfl
@[simp] theorem State.modDie_launches (d : Nat) (f : Die → Die) : (s.modDie d f).launches = s.launches := rfl
@[simp] theorem State.modDie_eclasses (d : Nat) (f : Die → Die) : (s.modDie d f).eclasses = s.eclasses := rfl
@[simp] theorem State.modDie_stagings (d : Nat) (f : Die → Die) : (s.modDie d f).stagings = s.stagings := rfl
@[simp] theorem State.modDie_records (d : Nat) (f : Die → Die) : (s.modDie d f).records = s.records := rfl
@[simp] theorem State.modDie_phases (d : Nat) (f : Die → Die) : (s.modDie d f).phases = s.phases := rfl
@[simp] theorem State.modDie_drains (d : Nat) (f : Die → Die) : (s.modDie d f).drains = s.drains := rfl
@[simp] theorem State.modDie_packets (d : Nat) (f : Die → Die) : (s.modDie d f).packets = s.packets := rfl
@[simp] theorem State.modDie_outbox (d : Nat) (f : Die → Die) : (s.modDie d f).outbox = s.outbox := rfl
@[simp] theorem State.modDie_keys (d : Nat) (f : Die → Die) : (s.modDie d f).keys = s.keys := rfl
@[simp] theorem State.modDie_keyFailed (d : Nat) (f : Die → Die) : (s.modDie d f).keyFailed = s.keyFailed := rfl
@[simp] theorem State.modDie_ranges (d : Nat) (f : Die → Die) : (s.modDie d f).ranges = s.ranges := rfl
@[simp] theorem State.modDie_moves (d : Nat) (f : Die → Die) : (s.modDie d f).moves = s.moves := rfl
@[simp] theorem State.modDie_shootdowns (d : Nat) (f : Die → Die) : (s.modDie d f).shootdowns = s.shootdowns := rfl
@[simp] theorem State.modDie_posted (d : Nat) (f : Die → Die) : (s.modDie d f).posted = s.posted := rfl
@[simp] theorem State.modDie_unposted (d : Nat) (f : Die → Die) : (s.modDie d f).unposted = s.unposted := rfl
@[simp] theorem State.modDie_services (d : Nat) (f : Die → Die) : (s.modDie d f).services = s.services := rfl
@[simp] theorem State.modDie_msix (d : Nat) (f : Die → Die) : (s.modDie d f).msix = s.msix := rfl
@[simp] theorem State.modDie_bar (d : Nat) (f : Die → Die) : (s.modDie d f).bar = s.bar := rfl
@[simp] theorem State.modDie_power (d : Nat) (f : Die → Die) : (s.modDie d f).power = s.power := rfl
@[simp] theorem State.modDie_measures (d : Nat) (f : Die → Die) : (s.modDie d f).measures = s.measures := rfl
@[simp] theorem State.modDie_reports (d : Nat) (f : Die → Die) : (s.modDie d f).reports = s.reports := rfl
@[simp] theorem State.modDie_links (d : Nat) (f : Die → Die) : (s.modDie d f).links = s.links := rfl

/-! ### State.bump -/

@[simp] theorem State.bump_inputs : (s.bump).inputs = s.inputs := rfl
@[simp] theorem State.bump_cur : (s.bump).cur = s.cur := rfl
@[simp] theorem State.bump_free : (s.bump).free = s.free := rfl
@[simp] theorem State.bump_tsc : (s.bump).tsc = s.tsc := rfl
@[simp] theorem State.bump_fireClosed : (s.bump).fireClosed = s.fireClosed := rfl
@[simp] theorem State.bump_net : (s.bump).net = s.net := rfl
@[simp] theorem State.bump_ticks : (s.bump).ticks = s.ticks := rfl
@[simp] theorem State.bump_mem : (s.bump).mem = s.mem := rfl
@[simp] theorem State.bump_poison : (s.bump).poison = s.poison := rfl
@[simp] theorem State.bump_cores : (s.bump).cores = s.cores := rfl
@[simp] theorem State.bump_dies : (s.bump).dies = s.dies := rfl
@[simp] theorem State.bump_queues : (s.bump).queues = s.queues := rfl
@[simp] theorem State.bump_vt : (s.bump).vt = s.vt := rfl
@[simp] theorem State.bump_pbase : (s.bump).pbase = s.pbase := rfl
@[simp] theorem State.bump_lastCtxs : (s.bump).lastCtxs = s.lastCtxs := rfl
@[simp] theorem State.bump_ctxrecs : (s.bump).ctxrecs = s.ctxrecs := rfl
@[simp] theorem State.bump_hmaps : (s.bump).hmaps = s.hmaps := rfl
@[simp] theorem State.bump_ptabs : (s.bump).ptabs = s.ptabs := rfl
@[simp] theorem State.bump_btabs : (s.bump).btabs = s.btabs := rfl
@[simp] theorem State.bump_launches : (s.bump).launches = s.launches := rfl
@[simp] theorem State.bump_eclasses : (s.bump).eclasses = s.eclasses := rfl
@[simp] theorem State.bump_stagings : (s.bump).stagings = s.stagings := rfl
@[simp] theorem State.bump_records : (s.bump).records = s.records := rfl
@[simp] theorem State.bump_phases : (s.bump).phases = s.phases := rfl
@[simp] theorem State.bump_drains : (s.bump).drains = s.drains := rfl
@[simp] theorem State.bump_packets : (s.bump).packets = s.packets := rfl
@[simp] theorem State.bump_outbox : (s.bump).outbox = s.outbox := rfl
@[simp] theorem State.bump_keys : (s.bump).keys = s.keys := rfl
@[simp] theorem State.bump_keyFailed : (s.bump).keyFailed = s.keyFailed := rfl
@[simp] theorem State.bump_ranges : (s.bump).ranges = s.ranges := rfl
@[simp] theorem State.bump_moves : (s.bump).moves = s.moves := rfl
@[simp] theorem State.bump_shootdowns : (s.bump).shootdowns = s.shootdowns := rfl
@[simp] theorem State.bump_posted : (s.bump).posted = s.posted := rfl
@[simp] theorem State.bump_unposted : (s.bump).unposted = s.unposted := rfl
@[simp] theorem State.bump_services : (s.bump).services = s.services := rfl
@[simp] theorem State.bump_msix : (s.bump).msix = s.msix := rfl
@[simp] theorem State.bump_bar : (s.bump).bar = s.bar := rfl
@[simp] theorem State.bump_power : (s.bump).power = s.power := rfl
@[simp] theorem State.bump_measures : (s.bump).measures = s.measures := rfl
@[simp] theorem State.bump_reports : (s.bump).reports = s.reports := rfl
@[simp] theorem State.bump_links : (s.bump).links = s.links := rfl

/-! ### State.spend -/

@[simp] theorem State.spend_inputs : (s.spend).inputs = s.inputs := rfl
@[simp] theorem State.spend_cur : (s.spend).cur = s.cur := rfl
@[simp] theorem State.spend_next : (s.spend).next = s.next := rfl
@[simp] theorem State.spend_tsc : (s.spend).tsc = s.tsc := rfl
@[simp] theorem State.spend_fireClosed : (s.spend).fireClosed = s.fireClosed := rfl
@[simp] theorem State.spend_net : (s.spend).net = s.net := rfl
@[simp] theorem State.spend_ticks : (s.spend).ticks = s.ticks := rfl
@[simp] theorem State.spend_mem : (s.spend).mem = s.mem := rfl
@[simp] theorem State.spend_poison : (s.spend).poison = s.poison := rfl
@[simp] theorem State.spend_cores : (s.spend).cores = s.cores := rfl
@[simp] theorem State.spend_dies : (s.spend).dies = s.dies := rfl
@[simp] theorem State.spend_queues : (s.spend).queues = s.queues := rfl
@[simp] theorem State.spend_vt : (s.spend).vt = s.vt := rfl
@[simp] theorem State.spend_pbase : (s.spend).pbase = s.pbase := rfl
@[simp] theorem State.spend_lastCtxs : (s.spend).lastCtxs = s.lastCtxs := rfl
@[simp] theorem State.spend_ctxrecs : (s.spend).ctxrecs = s.ctxrecs := rfl
@[simp] theorem State.spend_hmaps : (s.spend).hmaps = s.hmaps := rfl
@[simp] theorem State.spend_ptabs : (s.spend).ptabs = s.ptabs := rfl
@[simp] theorem State.spend_btabs : (s.spend).btabs = s.btabs := rfl
@[simp] theorem State.spend_launches : (s.spend).launches = s.launches := rfl
@[simp] theorem State.spend_eclasses : (s.spend).eclasses = s.eclasses := rfl
@[simp] theorem State.spend_stagings : (s.spend).stagings = s.stagings := rfl
@[simp] theorem State.spend_records : (s.spend).records = s.records := rfl
@[simp] theorem State.spend_phases : (s.spend).phases = s.phases := rfl
@[simp] theorem State.spend_drains : (s.spend).drains = s.drains := rfl
@[simp] theorem State.spend_packets : (s.spend).packets = s.packets := rfl
@[simp] theorem State.spend_outbox : (s.spend).outbox = s.outbox := rfl
@[simp] theorem State.spend_keys : (s.spend).keys = s.keys := rfl
@[simp] theorem State.spend_keyFailed : (s.spend).keyFailed = s.keyFailed := rfl
@[simp] theorem State.spend_ranges : (s.spend).ranges = s.ranges := rfl
@[simp] theorem State.spend_moves : (s.spend).moves = s.moves := rfl
@[simp] theorem State.spend_shootdowns : (s.spend).shootdowns = s.shootdowns := rfl
@[simp] theorem State.spend_posted : (s.spend).posted = s.posted := rfl
@[simp] theorem State.spend_unposted : (s.spend).unposted = s.unposted := rfl
@[simp] theorem State.spend_services : (s.spend).services = s.services := rfl
@[simp] theorem State.spend_msix : (s.spend).msix = s.msix := rfl
@[simp] theorem State.spend_bar : (s.spend).bar = s.bar := rfl
@[simp] theorem State.spend_power : (s.spend).power = s.power := rfl
@[simp] theorem State.spend_measures : (s.spend).measures = s.measures := rfl
@[simp] theorem State.spend_reports : (s.spend).reports = s.reports := rfl
@[simp] theorem State.spend_links : (s.spend).links = s.links := rfl

/-! ### State.dropPacket -/

@[simp] theorem State.dropPacket_inputs (n : Nat) : (s.dropPacket n).inputs = s.inputs := rfl
@[simp] theorem State.dropPacket_cur (n : Nat) : (s.dropPacket n).cur = s.cur := rfl
@[simp] theorem State.dropPacket_free (n : Nat) : (s.dropPacket n).free = s.free := rfl
@[simp] theorem State.dropPacket_next (n : Nat) : (s.dropPacket n).next = s.next := rfl
@[simp] theorem State.dropPacket_tsc (n : Nat) : (s.dropPacket n).tsc = s.tsc := rfl
@[simp] theorem State.dropPacket_fireClosed (n : Nat) : (s.dropPacket n).fireClosed = s.fireClosed := rfl
@[simp] theorem State.dropPacket_net (n : Nat) : (s.dropPacket n).net = s.net := rfl
@[simp] theorem State.dropPacket_ticks (n : Nat) : (s.dropPacket n).ticks = s.ticks := rfl
@[simp] theorem State.dropPacket_mem (n : Nat) : (s.dropPacket n).mem = s.mem := rfl
@[simp] theorem State.dropPacket_poison (n : Nat) : (s.dropPacket n).poison = s.poison := rfl
@[simp] theorem State.dropPacket_cores (n : Nat) : (s.dropPacket n).cores = s.cores := rfl
@[simp] theorem State.dropPacket_dies (n : Nat) : (s.dropPacket n).dies = s.dies := rfl
@[simp] theorem State.dropPacket_queues (n : Nat) : (s.dropPacket n).queues = s.queues := rfl
@[simp] theorem State.dropPacket_vt (n : Nat) : (s.dropPacket n).vt = s.vt := rfl
@[simp] theorem State.dropPacket_pbase (n : Nat) : (s.dropPacket n).pbase = s.pbase := rfl
@[simp] theorem State.dropPacket_lastCtxs (n : Nat) : (s.dropPacket n).lastCtxs = s.lastCtxs := rfl
@[simp] theorem State.dropPacket_ctxrecs (n : Nat) : (s.dropPacket n).ctxrecs = s.ctxrecs := rfl
@[simp] theorem State.dropPacket_hmaps (n : Nat) : (s.dropPacket n).hmaps = s.hmaps := rfl
@[simp] theorem State.dropPacket_ptabs (n : Nat) : (s.dropPacket n).ptabs = s.ptabs := rfl
@[simp] theorem State.dropPacket_btabs (n : Nat) : (s.dropPacket n).btabs = s.btabs := rfl
@[simp] theorem State.dropPacket_launches (n : Nat) : (s.dropPacket n).launches = s.launches := rfl
@[simp] theorem State.dropPacket_eclasses (n : Nat) : (s.dropPacket n).eclasses = s.eclasses := rfl
@[simp] theorem State.dropPacket_stagings (n : Nat) : (s.dropPacket n).stagings = s.stagings := rfl
@[simp] theorem State.dropPacket_records (n : Nat) : (s.dropPacket n).records = s.records := rfl
@[simp] theorem State.dropPacket_phases (n : Nat) : (s.dropPacket n).phases = s.phases := rfl
@[simp] theorem State.dropPacket_drains (n : Nat) : (s.dropPacket n).drains = s.drains := rfl
@[simp] theorem State.dropPacket_outbox (n : Nat) : (s.dropPacket n).outbox = s.outbox := rfl
@[simp] theorem State.dropPacket_keys (n : Nat) : (s.dropPacket n).keys = s.keys := rfl
@[simp] theorem State.dropPacket_keyFailed (n : Nat) : (s.dropPacket n).keyFailed = s.keyFailed := rfl
@[simp] theorem State.dropPacket_ranges (n : Nat) : (s.dropPacket n).ranges = s.ranges := rfl
@[simp] theorem State.dropPacket_moves (n : Nat) : (s.dropPacket n).moves = s.moves := rfl
@[simp] theorem State.dropPacket_shootdowns (n : Nat) : (s.dropPacket n).shootdowns = s.shootdowns := rfl
@[simp] theorem State.dropPacket_posted (n : Nat) : (s.dropPacket n).posted = s.posted := rfl
@[simp] theorem State.dropPacket_unposted (n : Nat) : (s.dropPacket n).unposted = s.unposted := rfl
@[simp] theorem State.dropPacket_services (n : Nat) : (s.dropPacket n).services = s.services := rfl
@[simp] theorem State.dropPacket_msix (n : Nat) : (s.dropPacket n).msix = s.msix := rfl
@[simp] theorem State.dropPacket_bar (n : Nat) : (s.dropPacket n).bar = s.bar := rfl
@[simp] theorem State.dropPacket_power (n : Nat) : (s.dropPacket n).power = s.power := rfl
@[simp] theorem State.dropPacket_measures (n : Nat) : (s.dropPacket n).measures = s.measures := rfl
@[simp] theorem State.dropPacket_reports (n : Nat) : (s.dropPacket n).reports = s.reports := rfl
@[simp] theorem State.dropPacket_links (n : Nat) : (s.dropPacket n).links = s.links := rfl

/-! ### State.modHart -/

@[simp] theorem State.modHart_inputs (r : Ref) (f : Hart → Hart) : (s.modHart r f).inputs = s.inputs := by unfold State.modHart; split <;> rfl
@[simp] theorem State.modHart_cur (r : Ref) (f : Hart → Hart) : (s.modHart r f).cur = s.cur := by unfold State.modHart; split <;> rfl
@[simp] theorem State.modHart_free (r : Ref) (f : Hart → Hart) : (s.modHart r f).free = s.free := by unfold State.modHart; split <;> rfl
@[simp] theorem State.modHart_next (r : Ref) (f : Hart → Hart) : (s.modHart r f).next = s.next := by unfold State.modHart; split <;> rfl
@[simp] theorem State.modHart_tsc (r : Ref) (f : Hart → Hart) : (s.modHart r f).tsc = s.tsc := by unfold State.modHart; split <;> rfl
@[simp] theorem State.modHart_fireClosed (r : Ref) (f : Hart → Hart) : (s.modHart r f).fireClosed = s.fireClosed := by unfold State.modHart; split <;> rfl
@[simp] theorem State.modHart_net (r : Ref) (f : Hart → Hart) : (s.modHart r f).net = s.net := by unfold State.modHart; split <;> rfl
@[simp] theorem State.modHart_ticks (r : Ref) (f : Hart → Hart) : (s.modHart r f).ticks = s.ticks := by unfold State.modHart; split <;> rfl
@[simp] theorem State.modHart_mem (r : Ref) (f : Hart → Hart) : (s.modHart r f).mem = s.mem := by unfold State.modHart; split <;> rfl
@[simp] theorem State.modHart_poison (r : Ref) (f : Hart → Hart) : (s.modHart r f).poison = s.poison := by unfold State.modHart; split <;> rfl
@[simp] theorem State.modHart_dies (r : Ref) (f : Hart → Hart) : (s.modHart r f).dies = s.dies := by unfold State.modHart; split <;> rfl
@[simp] theorem State.modHart_queues (r : Ref) (f : Hart → Hart) : (s.modHart r f).queues = s.queues := by unfold State.modHart; split <;> rfl
@[simp] theorem State.modHart_vt (r : Ref) (f : Hart → Hart) : (s.modHart r f).vt = s.vt := by unfold State.modHart; split <;> rfl
@[simp] theorem State.modHart_pbase (r : Ref) (f : Hart → Hart) : (s.modHart r f).pbase = s.pbase := by unfold State.modHart; split <;> rfl
@[simp] theorem State.modHart_lastCtxs (r : Ref) (f : Hart → Hart) : (s.modHart r f).lastCtxs = s.lastCtxs := by unfold State.modHart; split <;> rfl
@[simp] theorem State.modHart_ctxrecs (r : Ref) (f : Hart → Hart) : (s.modHart r f).ctxrecs = s.ctxrecs := by unfold State.modHart; split <;> rfl
@[simp] theorem State.modHart_hmaps (r : Ref) (f : Hart → Hart) : (s.modHart r f).hmaps = s.hmaps := by unfold State.modHart; split <;> rfl
@[simp] theorem State.modHart_ptabs (r : Ref) (f : Hart → Hart) : (s.modHart r f).ptabs = s.ptabs := by unfold State.modHart; split <;> rfl
@[simp] theorem State.modHart_btabs (r : Ref) (f : Hart → Hart) : (s.modHart r f).btabs = s.btabs := by unfold State.modHart; split <;> rfl
@[simp] theorem State.modHart_launches (r : Ref) (f : Hart → Hart) : (s.modHart r f).launches = s.launches := by unfold State.modHart; split <;> rfl
@[simp] theorem State.modHart_eclasses (r : Ref) (f : Hart → Hart) : (s.modHart r f).eclasses = s.eclasses := by unfold State.modHart; split <;> rfl
@[simp] theorem State.modHart_stagings (r : Ref) (f : Hart → Hart) : (s.modHart r f).stagings = s.stagings := by unfold State.modHart; split <;> rfl
@[simp] theorem State.modHart_records (r : Ref) (f : Hart → Hart) : (s.modHart r f).records = s.records := by unfold State.modHart; split <;> rfl
@[simp] theorem State.modHart_phases (r : Ref) (f : Hart → Hart) : (s.modHart r f).phases = s.phases := by unfold State.modHart; split <;> rfl
@[simp] theorem State.modHart_drains (r : Ref) (f : Hart → Hart) : (s.modHart r f).drains = s.drains := by unfold State.modHart; split <;> rfl
@[simp] theorem State.modHart_packets (r : Ref) (f : Hart → Hart) : (s.modHart r f).packets = s.packets := by unfold State.modHart; split <;> rfl
@[simp] theorem State.modHart_outbox (r : Ref) (f : Hart → Hart) : (s.modHart r f).outbox = s.outbox := by unfold State.modHart; split <;> rfl
@[simp] theorem State.modHart_keys (r : Ref) (f : Hart → Hart) : (s.modHart r f).keys = s.keys := by unfold State.modHart; split <;> rfl
@[simp] theorem State.modHart_keyFailed (r : Ref) (f : Hart → Hart) : (s.modHart r f).keyFailed = s.keyFailed := by unfold State.modHart; split <;> rfl
@[simp] theorem State.modHart_ranges (r : Ref) (f : Hart → Hart) : (s.modHart r f).ranges = s.ranges := by unfold State.modHart; split <;> rfl
@[simp] theorem State.modHart_moves (r : Ref) (f : Hart → Hart) : (s.modHart r f).moves = s.moves := by unfold State.modHart; split <;> rfl
@[simp] theorem State.modHart_shootdowns (r : Ref) (f : Hart → Hart) : (s.modHart r f).shootdowns = s.shootdowns := by unfold State.modHart; split <;> rfl
@[simp] theorem State.modHart_posted (r : Ref) (f : Hart → Hart) : (s.modHart r f).posted = s.posted := by unfold State.modHart; split <;> rfl
@[simp] theorem State.modHart_unposted (r : Ref) (f : Hart → Hart) : (s.modHart r f).unposted = s.unposted := by unfold State.modHart; split <;> rfl
@[simp] theorem State.modHart_services (r : Ref) (f : Hart → Hart) : (s.modHart r f).services = s.services := by unfold State.modHart; split <;> rfl
@[simp] theorem State.modHart_msix (r : Ref) (f : Hart → Hart) : (s.modHart r f).msix = s.msix := by unfold State.modHart; split <;> rfl
@[simp] theorem State.modHart_bar (r : Ref) (f : Hart → Hart) : (s.modHart r f).bar = s.bar := by unfold State.modHart; split <;> rfl
@[simp] theorem State.modHart_power (r : Ref) (f : Hart → Hart) : (s.modHart r f).power = s.power := by unfold State.modHart; split <;> rfl
@[simp] theorem State.modHart_measures (r : Ref) (f : Hart → Hart) : (s.modHart r f).measures = s.measures := by unfold State.modHart; split <;> rfl
@[simp] theorem State.modHart_reports (r : Ref) (f : Hart → Hart) : (s.modHart r f).reports = s.reports := by unfold State.modHart; split <;> rfl
@[simp] theorem State.modHart_links (r : Ref) (f : Hart → Hart) : (s.modHart r f).links = s.links := by unfold State.modHart; split <;> rfl

/-! ### State.setHart -/

@[simp] theorem State.setHart_inputs (r : Ref) (k : Hart) : (s.setHart r k).inputs = s.inputs := by unfold State.setHart; simp
@[simp] theorem State.setHart_cur (r : Ref) (k : Hart) : (s.setHart r k).cur = s.cur := by unfold State.setHart; simp
@[simp] theorem State.setHart_free (r : Ref) (k : Hart) : (s.setHart r k).free = s.free := by unfold State.setHart; simp
@[simp] theorem State.setHart_next (r : Ref) (k : Hart) : (s.setHart r k).next = s.next := by unfold State.setHart; simp
@[simp] theorem State.setHart_tsc (r : Ref) (k : Hart) : (s.setHart r k).tsc = s.tsc := by unfold State.setHart; simp
@[simp] theorem State.setHart_fireClosed (r : Ref) (k : Hart) : (s.setHart r k).fireClosed = s.fireClosed := by unfold State.setHart; simp
@[simp] theorem State.setHart_net (r : Ref) (k : Hart) : (s.setHart r k).net = s.net := by unfold State.setHart; simp
@[simp] theorem State.setHart_ticks (r : Ref) (k : Hart) : (s.setHart r k).ticks = s.ticks := by unfold State.setHart; simp
@[simp] theorem State.setHart_mem (r : Ref) (k : Hart) : (s.setHart r k).mem = s.mem := by unfold State.setHart; simp
@[simp] theorem State.setHart_poison (r : Ref) (k : Hart) : (s.setHart r k).poison = s.poison := by unfold State.setHart; simp
@[simp] theorem State.setHart_dies (r : Ref) (k : Hart) : (s.setHart r k).dies = s.dies := by unfold State.setHart; simp
@[simp] theorem State.setHart_queues (r : Ref) (k : Hart) : (s.setHart r k).queues = s.queues := by unfold State.setHart; simp
@[simp] theorem State.setHart_vt (r : Ref) (k : Hart) : (s.setHart r k).vt = s.vt := by unfold State.setHart; simp
@[simp] theorem State.setHart_pbase (r : Ref) (k : Hart) : (s.setHart r k).pbase = s.pbase := by unfold State.setHart; simp
@[simp] theorem State.setHart_lastCtxs (r : Ref) (k : Hart) : (s.setHart r k).lastCtxs = s.lastCtxs := by unfold State.setHart; simp
@[simp] theorem State.setHart_ctxrecs (r : Ref) (k : Hart) : (s.setHart r k).ctxrecs = s.ctxrecs := by unfold State.setHart; simp
@[simp] theorem State.setHart_hmaps (r : Ref) (k : Hart) : (s.setHart r k).hmaps = s.hmaps := by unfold State.setHart; simp
@[simp] theorem State.setHart_ptabs (r : Ref) (k : Hart) : (s.setHart r k).ptabs = s.ptabs := by unfold State.setHart; simp
@[simp] theorem State.setHart_btabs (r : Ref) (k : Hart) : (s.setHart r k).btabs = s.btabs := by unfold State.setHart; simp
@[simp] theorem State.setHart_launches (r : Ref) (k : Hart) : (s.setHart r k).launches = s.launches := by unfold State.setHart; simp
@[simp] theorem State.setHart_eclasses (r : Ref) (k : Hart) : (s.setHart r k).eclasses = s.eclasses := by unfold State.setHart; simp
@[simp] theorem State.setHart_stagings (r : Ref) (k : Hart) : (s.setHart r k).stagings = s.stagings := by unfold State.setHart; simp
@[simp] theorem State.setHart_records (r : Ref) (k : Hart) : (s.setHart r k).records = s.records := by unfold State.setHart; simp
@[simp] theorem State.setHart_phases (r : Ref) (k : Hart) : (s.setHart r k).phases = s.phases := by unfold State.setHart; simp
@[simp] theorem State.setHart_drains (r : Ref) (k : Hart) : (s.setHart r k).drains = s.drains := by unfold State.setHart; simp
@[simp] theorem State.setHart_packets (r : Ref) (k : Hart) : (s.setHart r k).packets = s.packets := by unfold State.setHart; simp
@[simp] theorem State.setHart_outbox (r : Ref) (k : Hart) : (s.setHart r k).outbox = s.outbox := by unfold State.setHart; simp
@[simp] theorem State.setHart_keys (r : Ref) (k : Hart) : (s.setHart r k).keys = s.keys := by unfold State.setHart; simp
@[simp] theorem State.setHart_keyFailed (r : Ref) (k : Hart) : (s.setHart r k).keyFailed = s.keyFailed := by unfold State.setHart; simp
@[simp] theorem State.setHart_ranges (r : Ref) (k : Hart) : (s.setHart r k).ranges = s.ranges := by unfold State.setHart; simp
@[simp] theorem State.setHart_moves (r : Ref) (k : Hart) : (s.setHart r k).moves = s.moves := by unfold State.setHart; simp
@[simp] theorem State.setHart_shootdowns (r : Ref) (k : Hart) : (s.setHart r k).shootdowns = s.shootdowns := by unfold State.setHart; simp
@[simp] theorem State.setHart_posted (r : Ref) (k : Hart) : (s.setHart r k).posted = s.posted := by unfold State.setHart; simp
@[simp] theorem State.setHart_unposted (r : Ref) (k : Hart) : (s.setHart r k).unposted = s.unposted := by unfold State.setHart; simp
@[simp] theorem State.setHart_services (r : Ref) (k : Hart) : (s.setHart r k).services = s.services := by unfold State.setHart; simp
@[simp] theorem State.setHart_msix (r : Ref) (k : Hart) : (s.setHart r k).msix = s.msix := by unfold State.setHart; simp
@[simp] theorem State.setHart_bar (r : Ref) (k : Hart) : (s.setHart r k).bar = s.bar := by unfold State.setHart; simp
@[simp] theorem State.setHart_power (r : Ref) (k : Hart) : (s.setHart r k).power = s.power := by unfold State.setHart; simp
@[simp] theorem State.setHart_measures (r : Ref) (k : Hart) : (s.setHart r k).measures = s.measures := by unfold State.setHart; simp
@[simp] theorem State.setHart_reports (r : Ref) (k : Hart) : (s.setHart r k).reports = s.reports := by unfold State.setHart; simp
@[simp] theorem State.setHart_links (r : Ref) (k : Hart) : (s.setHart r k).links = s.links := by unfold State.setHart; simp

/-! ### State.goOn -/

@[simp] theorem State.goOn_inputs (r : Ref) : (s.goOn r).inputs = s.inputs := by unfold State.goOn; simp
@[simp] theorem State.goOn_cur (r : Ref) : (s.goOn r).cur = s.cur := by unfold State.goOn; simp
@[simp] theorem State.goOn_free (r : Ref) : (s.goOn r).free = s.free := by unfold State.goOn; simp
@[simp] theorem State.goOn_next (r : Ref) : (s.goOn r).next = s.next := by unfold State.goOn; simp
@[simp] theorem State.goOn_tsc (r : Ref) : (s.goOn r).tsc = s.tsc := by unfold State.goOn; simp
@[simp] theorem State.goOn_fireClosed (r : Ref) : (s.goOn r).fireClosed = s.fireClosed := by unfold State.goOn; simp
@[simp] theorem State.goOn_net (r : Ref) : (s.goOn r).net = s.net := by unfold State.goOn; simp
@[simp] theorem State.goOn_ticks (r : Ref) : (s.goOn r).ticks = s.ticks := by unfold State.goOn; simp
@[simp] theorem State.goOn_mem (r : Ref) : (s.goOn r).mem = s.mem := by unfold State.goOn; simp
@[simp] theorem State.goOn_poison (r : Ref) : (s.goOn r).poison = s.poison := by unfold State.goOn; simp
@[simp] theorem State.goOn_dies (r : Ref) : (s.goOn r).dies = s.dies := by unfold State.goOn; simp
@[simp] theorem State.goOn_queues (r : Ref) : (s.goOn r).queues = s.queues := by unfold State.goOn; simp
@[simp] theorem State.goOn_vt (r : Ref) : (s.goOn r).vt = s.vt := by unfold State.goOn; simp
@[simp] theorem State.goOn_pbase (r : Ref) : (s.goOn r).pbase = s.pbase := by unfold State.goOn; simp
@[simp] theorem State.goOn_lastCtxs (r : Ref) : (s.goOn r).lastCtxs = s.lastCtxs := by unfold State.goOn; simp
@[simp] theorem State.goOn_ctxrecs (r : Ref) : (s.goOn r).ctxrecs = s.ctxrecs := by unfold State.goOn; simp
@[simp] theorem State.goOn_hmaps (r : Ref) : (s.goOn r).hmaps = s.hmaps := by unfold State.goOn; simp
@[simp] theorem State.goOn_ptabs (r : Ref) : (s.goOn r).ptabs = s.ptabs := by unfold State.goOn; simp
@[simp] theorem State.goOn_btabs (r : Ref) : (s.goOn r).btabs = s.btabs := by unfold State.goOn; simp
@[simp] theorem State.goOn_launches (r : Ref) : (s.goOn r).launches = s.launches := by unfold State.goOn; simp
@[simp] theorem State.goOn_eclasses (r : Ref) : (s.goOn r).eclasses = s.eclasses := by unfold State.goOn; simp
@[simp] theorem State.goOn_stagings (r : Ref) : (s.goOn r).stagings = s.stagings := by unfold State.goOn; simp
@[simp] theorem State.goOn_records (r : Ref) : (s.goOn r).records = s.records := by unfold State.goOn; simp
@[simp] theorem State.goOn_phases (r : Ref) : (s.goOn r).phases = s.phases := by unfold State.goOn; simp
@[simp] theorem State.goOn_drains (r : Ref) : (s.goOn r).drains = s.drains := by unfold State.goOn; simp
@[simp] theorem State.goOn_packets (r : Ref) : (s.goOn r).packets = s.packets := by unfold State.goOn; simp
@[simp] theorem State.goOn_outbox (r : Ref) : (s.goOn r).outbox = s.outbox := by unfold State.goOn; simp
@[simp] theorem State.goOn_keys (r : Ref) : (s.goOn r).keys = s.keys := by unfold State.goOn; simp
@[simp] theorem State.goOn_keyFailed (r : Ref) : (s.goOn r).keyFailed = s.keyFailed := by unfold State.goOn; simp
@[simp] theorem State.goOn_ranges (r : Ref) : (s.goOn r).ranges = s.ranges := by unfold State.goOn; simp
@[simp] theorem State.goOn_moves (r : Ref) : (s.goOn r).moves = s.moves := by unfold State.goOn; simp
@[simp] theorem State.goOn_shootdowns (r : Ref) : (s.goOn r).shootdowns = s.shootdowns := by unfold State.goOn; simp
@[simp] theorem State.goOn_posted (r : Ref) : (s.goOn r).posted = s.posted := by unfold State.goOn; simp
@[simp] theorem State.goOn_unposted (r : Ref) : (s.goOn r).unposted = s.unposted := by unfold State.goOn; simp
@[simp] theorem State.goOn_services (r : Ref) : (s.goOn r).services = s.services := by unfold State.goOn; simp
@[simp] theorem State.goOn_msix (r : Ref) : (s.goOn r).msix = s.msix := by unfold State.goOn; simp
@[simp] theorem State.goOn_bar (r : Ref) : (s.goOn r).bar = s.bar := by unfold State.goOn; simp
@[simp] theorem State.goOn_power (r : Ref) : (s.goOn r).power = s.power := by unfold State.goOn; simp
@[simp] theorem State.goOn_measures (r : Ref) : (s.goOn r).measures = s.measures := by unfold State.goOn; simp
@[simp] theorem State.goOn_reports (r : Ref) : (s.goOn r).reports = s.reports := by unfold State.goOn; simp
@[simp] theorem State.goOn_links (r : Ref) : (s.goOn r).links = s.links := by unfold State.goOn; simp

/-! ### State.hold -/

@[simp] theorem State.hold_inputs (r : Ref) (q : Hold) : (s.hold r q).inputs = s.inputs := by unfold State.hold; simp
@[simp] theorem State.hold_cur (r : Ref) (q : Hold) : (s.hold r q).cur = s.cur := by unfold State.hold; simp
@[simp] theorem State.hold_free (r : Ref) (q : Hold) : (s.hold r q).free = s.free := by unfold State.hold; simp
@[simp] theorem State.hold_next (r : Ref) (q : Hold) : (s.hold r q).next = s.next := by unfold State.hold; simp
@[simp] theorem State.hold_tsc (r : Ref) (q : Hold) : (s.hold r q).tsc = s.tsc := by unfold State.hold; simp
@[simp] theorem State.hold_fireClosed (r : Ref) (q : Hold) : (s.hold r q).fireClosed = s.fireClosed := by unfold State.hold; simp
@[simp] theorem State.hold_net (r : Ref) (q : Hold) : (s.hold r q).net = s.net := by unfold State.hold; simp
@[simp] theorem State.hold_ticks (r : Ref) (q : Hold) : (s.hold r q).ticks = s.ticks := by unfold State.hold; simp
@[simp] theorem State.hold_mem (r : Ref) (q : Hold) : (s.hold r q).mem = s.mem := by unfold State.hold; simp
@[simp] theorem State.hold_poison (r : Ref) (q : Hold) : (s.hold r q).poison = s.poison := by unfold State.hold; simp
@[simp] theorem State.hold_dies (r : Ref) (q : Hold) : (s.hold r q).dies = s.dies := by unfold State.hold; simp
@[simp] theorem State.hold_queues (r : Ref) (q : Hold) : (s.hold r q).queues = s.queues := by unfold State.hold; simp
@[simp] theorem State.hold_vt (r : Ref) (q : Hold) : (s.hold r q).vt = s.vt := by unfold State.hold; simp
@[simp] theorem State.hold_pbase (r : Ref) (q : Hold) : (s.hold r q).pbase = s.pbase := by unfold State.hold; simp
@[simp] theorem State.hold_lastCtxs (r : Ref) (q : Hold) : (s.hold r q).lastCtxs = s.lastCtxs := by unfold State.hold; simp
@[simp] theorem State.hold_ctxrecs (r : Ref) (q : Hold) : (s.hold r q).ctxrecs = s.ctxrecs := by unfold State.hold; simp
@[simp] theorem State.hold_hmaps (r : Ref) (q : Hold) : (s.hold r q).hmaps = s.hmaps := by unfold State.hold; simp
@[simp] theorem State.hold_ptabs (r : Ref) (q : Hold) : (s.hold r q).ptabs = s.ptabs := by unfold State.hold; simp
@[simp] theorem State.hold_btabs (r : Ref) (q : Hold) : (s.hold r q).btabs = s.btabs := by unfold State.hold; simp
@[simp] theorem State.hold_launches (r : Ref) (q : Hold) : (s.hold r q).launches = s.launches := by unfold State.hold; simp
@[simp] theorem State.hold_eclasses (r : Ref) (q : Hold) : (s.hold r q).eclasses = s.eclasses := by unfold State.hold; simp
@[simp] theorem State.hold_stagings (r : Ref) (q : Hold) : (s.hold r q).stagings = s.stagings := by unfold State.hold; simp
@[simp] theorem State.hold_records (r : Ref) (q : Hold) : (s.hold r q).records = s.records := by unfold State.hold; simp
@[simp] theorem State.hold_phases (r : Ref) (q : Hold) : (s.hold r q).phases = s.phases := by unfold State.hold; simp
@[simp] theorem State.hold_drains (r : Ref) (q : Hold) : (s.hold r q).drains = s.drains := by unfold State.hold; simp
@[simp] theorem State.hold_packets (r : Ref) (q : Hold) : (s.hold r q).packets = s.packets := by unfold State.hold; simp
@[simp] theorem State.hold_outbox (r : Ref) (q : Hold) : (s.hold r q).outbox = s.outbox := by unfold State.hold; simp
@[simp] theorem State.hold_keys (r : Ref) (q : Hold) : (s.hold r q).keys = s.keys := by unfold State.hold; simp
@[simp] theorem State.hold_keyFailed (r : Ref) (q : Hold) : (s.hold r q).keyFailed = s.keyFailed := by unfold State.hold; simp
@[simp] theorem State.hold_ranges (r : Ref) (q : Hold) : (s.hold r q).ranges = s.ranges := by unfold State.hold; simp
@[simp] theorem State.hold_moves (r : Ref) (q : Hold) : (s.hold r q).moves = s.moves := by unfold State.hold; simp
@[simp] theorem State.hold_shootdowns (r : Ref) (q : Hold) : (s.hold r q).shootdowns = s.shootdowns := by unfold State.hold; simp
@[simp] theorem State.hold_posted (r : Ref) (q : Hold) : (s.hold r q).posted = s.posted := by unfold State.hold; simp
@[simp] theorem State.hold_unposted (r : Ref) (q : Hold) : (s.hold r q).unposted = s.unposted := by unfold State.hold; simp
@[simp] theorem State.hold_services (r : Ref) (q : Hold) : (s.hold r q).services = s.services := by unfold State.hold; simp
@[simp] theorem State.hold_msix (r : Ref) (q : Hold) : (s.hold r q).msix = s.msix := by unfold State.hold; simp
@[simp] theorem State.hold_bar (r : Ref) (q : Hold) : (s.hold r q).bar = s.bar := by unfold State.hold; simp
@[simp] theorem State.hold_power (r : Ref) (q : Hold) : (s.hold r q).power = s.power := by unfold State.hold; simp
@[simp] theorem State.hold_measures (r : Ref) (q : Hold) : (s.hold r q).measures = s.measures := by unfold State.hold; simp
@[simp] theorem State.hold_reports (r : Ref) (q : Hold) : (s.hold r q).reports = s.reports := by unfold State.hold; simp
@[simp] theorem State.hold_links (r : Ref) (q : Hold) : (s.hold r q).links = s.links := by unfold State.hold; simp

/-! ### State.release -/

@[simp] theorem State.release_inputs (r : Ref) : (s.release r).inputs = s.inputs := by unfold State.release; simp
@[simp] theorem State.release_cur (r : Ref) : (s.release r).cur = s.cur := by unfold State.release; simp
@[simp] theorem State.release_free (r : Ref) : (s.release r).free = s.free := by unfold State.release; simp
@[simp] theorem State.release_next (r : Ref) : (s.release r).next = s.next := by unfold State.release; simp
@[simp] theorem State.release_tsc (r : Ref) : (s.release r).tsc = s.tsc := by unfold State.release; simp
@[simp] theorem State.release_fireClosed (r : Ref) : (s.release r).fireClosed = s.fireClosed := by unfold State.release; simp
@[simp] theorem State.release_net (r : Ref) : (s.release r).net = s.net := by unfold State.release; simp
@[simp] theorem State.release_ticks (r : Ref) : (s.release r).ticks = s.ticks := by unfold State.release; simp
@[simp] theorem State.release_mem (r : Ref) : (s.release r).mem = s.mem := by unfold State.release; simp
@[simp] theorem State.release_poison (r : Ref) : (s.release r).poison = s.poison := by unfold State.release; simp
@[simp] theorem State.release_dies (r : Ref) : (s.release r).dies = s.dies := by unfold State.release; simp
@[simp] theorem State.release_queues (r : Ref) : (s.release r).queues = s.queues := by unfold State.release; simp
@[simp] theorem State.release_vt (r : Ref) : (s.release r).vt = s.vt := by unfold State.release; simp
@[simp] theorem State.release_pbase (r : Ref) : (s.release r).pbase = s.pbase := by unfold State.release; simp
@[simp] theorem State.release_lastCtxs (r : Ref) : (s.release r).lastCtxs = s.lastCtxs := by unfold State.release; simp
@[simp] theorem State.release_ctxrecs (r : Ref) : (s.release r).ctxrecs = s.ctxrecs := by unfold State.release; simp
@[simp] theorem State.release_hmaps (r : Ref) : (s.release r).hmaps = s.hmaps := by unfold State.release; simp
@[simp] theorem State.release_ptabs (r : Ref) : (s.release r).ptabs = s.ptabs := by unfold State.release; simp
@[simp] theorem State.release_btabs (r : Ref) : (s.release r).btabs = s.btabs := by unfold State.release; simp
@[simp] theorem State.release_launches (r : Ref) : (s.release r).launches = s.launches := by unfold State.release; simp
@[simp] theorem State.release_eclasses (r : Ref) : (s.release r).eclasses = s.eclasses := by unfold State.release; simp
@[simp] theorem State.release_stagings (r : Ref) : (s.release r).stagings = s.stagings := by unfold State.release; simp
@[simp] theorem State.release_records (r : Ref) : (s.release r).records = s.records := by unfold State.release; simp
@[simp] theorem State.release_phases (r : Ref) : (s.release r).phases = s.phases := by unfold State.release; simp
@[simp] theorem State.release_drains (r : Ref) : (s.release r).drains = s.drains := by unfold State.release; simp
@[simp] theorem State.release_packets (r : Ref) : (s.release r).packets = s.packets := by unfold State.release; simp
@[simp] theorem State.release_outbox (r : Ref) : (s.release r).outbox = s.outbox := by unfold State.release; simp
@[simp] theorem State.release_keys (r : Ref) : (s.release r).keys = s.keys := by unfold State.release; simp
@[simp] theorem State.release_keyFailed (r : Ref) : (s.release r).keyFailed = s.keyFailed := by unfold State.release; simp
@[simp] theorem State.release_ranges (r : Ref) : (s.release r).ranges = s.ranges := by unfold State.release; simp
@[simp] theorem State.release_moves (r : Ref) : (s.release r).moves = s.moves := by unfold State.release; simp
@[simp] theorem State.release_shootdowns (r : Ref) : (s.release r).shootdowns = s.shootdowns := by unfold State.release; simp
@[simp] theorem State.release_posted (r : Ref) : (s.release r).posted = s.posted := by unfold State.release; simp
@[simp] theorem State.release_unposted (r : Ref) : (s.release r).unposted = s.unposted := by unfold State.release; simp
@[simp] theorem State.release_services (r : Ref) : (s.release r).services = s.services := by unfold State.release; simp
@[simp] theorem State.release_msix (r : Ref) : (s.release r).msix = s.msix := by unfold State.release; simp
@[simp] theorem State.release_bar (r : Ref) : (s.release r).bar = s.bar := by unfold State.release; simp
@[simp] theorem State.release_power (r : Ref) : (s.release r).power = s.power := by unfold State.release; simp
@[simp] theorem State.release_measures (r : Ref) : (s.release r).measures = s.measures := by unfold State.release; simp
@[simp] theorem State.release_reports (r : Ref) : (s.release r).reports = s.reports := by unfold State.release; simp
@[simp] theorem State.release_links (r : Ref) : (s.release r).links = s.links := by unfold State.release; simp

/-! ### State.mapLanes -/

@[simp] theorem State.mapLanes_inputs (f : Hart → Hart) : (s.mapLanes f).inputs = s.inputs := by unfold State.mapLanes; split <;> rfl
@[simp] theorem State.mapLanes_cur (f : Hart → Hart) : (s.mapLanes f).cur = s.cur := by unfold State.mapLanes; split <;> rfl
@[simp] theorem State.mapLanes_free (f : Hart → Hart) : (s.mapLanes f).free = s.free := by unfold State.mapLanes; split <;> rfl
@[simp] theorem State.mapLanes_next (f : Hart → Hart) : (s.mapLanes f).next = s.next := by unfold State.mapLanes; split <;> rfl
@[simp] theorem State.mapLanes_tsc (f : Hart → Hart) : (s.mapLanes f).tsc = s.tsc := by unfold State.mapLanes; split <;> rfl
@[simp] theorem State.mapLanes_fireClosed (f : Hart → Hart) : (s.mapLanes f).fireClosed = s.fireClosed := by unfold State.mapLanes; split <;> rfl
@[simp] theorem State.mapLanes_net (f : Hart → Hart) : (s.mapLanes f).net = s.net := by unfold State.mapLanes; split <;> rfl
@[simp] theorem State.mapLanes_ticks (f : Hart → Hart) : (s.mapLanes f).ticks = s.ticks := by unfold State.mapLanes; split <;> rfl
@[simp] theorem State.mapLanes_mem (f : Hart → Hart) : (s.mapLanes f).mem = s.mem := by unfold State.mapLanes; split <;> rfl
@[simp] theorem State.mapLanes_poison (f : Hart → Hart) : (s.mapLanes f).poison = s.poison := by unfold State.mapLanes; split <;> rfl
@[simp] theorem State.mapLanes_dies (f : Hart → Hart) : (s.mapLanes f).dies = s.dies := by unfold State.mapLanes; split <;> rfl
@[simp] theorem State.mapLanes_queues (f : Hart → Hart) : (s.mapLanes f).queues = s.queues := by unfold State.mapLanes; split <;> rfl
@[simp] theorem State.mapLanes_vt (f : Hart → Hart) : (s.mapLanes f).vt = s.vt := by unfold State.mapLanes; split <;> rfl
@[simp] theorem State.mapLanes_pbase (f : Hart → Hart) : (s.mapLanes f).pbase = s.pbase := by unfold State.mapLanes; split <;> rfl
@[simp] theorem State.mapLanes_lastCtxs (f : Hart → Hart) : (s.mapLanes f).lastCtxs = s.lastCtxs := by unfold State.mapLanes; split <;> rfl
@[simp] theorem State.mapLanes_ctxrecs (f : Hart → Hart) : (s.mapLanes f).ctxrecs = s.ctxrecs := by unfold State.mapLanes; split <;> rfl
@[simp] theorem State.mapLanes_hmaps (f : Hart → Hart) : (s.mapLanes f).hmaps = s.hmaps := by unfold State.mapLanes; split <;> rfl
@[simp] theorem State.mapLanes_ptabs (f : Hart → Hart) : (s.mapLanes f).ptabs = s.ptabs := by unfold State.mapLanes; split <;> rfl
@[simp] theorem State.mapLanes_btabs (f : Hart → Hart) : (s.mapLanes f).btabs = s.btabs := by unfold State.mapLanes; split <;> rfl
@[simp] theorem State.mapLanes_launches (f : Hart → Hart) : (s.mapLanes f).launches = s.launches := by unfold State.mapLanes; split <;> rfl
@[simp] theorem State.mapLanes_eclasses (f : Hart → Hart) : (s.mapLanes f).eclasses = s.eclasses := by unfold State.mapLanes; split <;> rfl
@[simp] theorem State.mapLanes_stagings (f : Hart → Hart) : (s.mapLanes f).stagings = s.stagings := by unfold State.mapLanes; split <;> rfl
@[simp] theorem State.mapLanes_records (f : Hart → Hart) : (s.mapLanes f).records = s.records := by unfold State.mapLanes; split <;> rfl
@[simp] theorem State.mapLanes_phases (f : Hart → Hart) : (s.mapLanes f).phases = s.phases := by unfold State.mapLanes; split <;> rfl
@[simp] theorem State.mapLanes_drains (f : Hart → Hart) : (s.mapLanes f).drains = s.drains := by unfold State.mapLanes; split <;> rfl
@[simp] theorem State.mapLanes_packets (f : Hart → Hart) : (s.mapLanes f).packets = s.packets := by unfold State.mapLanes; split <;> rfl
@[simp] theorem State.mapLanes_outbox (f : Hart → Hart) : (s.mapLanes f).outbox = s.outbox := by unfold State.mapLanes; split <;> rfl
@[simp] theorem State.mapLanes_keys (f : Hart → Hart) : (s.mapLanes f).keys = s.keys := by unfold State.mapLanes; split <;> rfl
@[simp] theorem State.mapLanes_keyFailed (f : Hart → Hart) : (s.mapLanes f).keyFailed = s.keyFailed := by unfold State.mapLanes; split <;> rfl
@[simp] theorem State.mapLanes_ranges (f : Hart → Hart) : (s.mapLanes f).ranges = s.ranges := by unfold State.mapLanes; split <;> rfl
@[simp] theorem State.mapLanes_moves (f : Hart → Hart) : (s.mapLanes f).moves = s.moves := by unfold State.mapLanes; split <;> rfl
@[simp] theorem State.mapLanes_shootdowns (f : Hart → Hart) : (s.mapLanes f).shootdowns = s.shootdowns := by unfold State.mapLanes; split <;> rfl
@[simp] theorem State.mapLanes_posted (f : Hart → Hart) : (s.mapLanes f).posted = s.posted := by unfold State.mapLanes; split <;> rfl
@[simp] theorem State.mapLanes_unposted (f : Hart → Hart) : (s.mapLanes f).unposted = s.unposted := by unfold State.mapLanes; split <;> rfl
@[simp] theorem State.mapLanes_services (f : Hart → Hart) : (s.mapLanes f).services = s.services := by unfold State.mapLanes; split <;> rfl
@[simp] theorem State.mapLanes_msix (f : Hart → Hart) : (s.mapLanes f).msix = s.msix := by unfold State.mapLanes; split <;> rfl
@[simp] theorem State.mapLanes_bar (f : Hart → Hart) : (s.mapLanes f).bar = s.bar := by unfold State.mapLanes; split <;> rfl
@[simp] theorem State.mapLanes_power (f : Hart → Hart) : (s.mapLanes f).power = s.power := by unfold State.mapLanes; split <;> rfl
@[simp] theorem State.mapLanes_measures (f : Hart → Hart) : (s.mapLanes f).measures = s.measures := by unfold State.mapLanes; split <;> rfl
@[simp] theorem State.mapLanes_reports (f : Hart → Hart) : (s.mapLanes f).reports = s.reports := by unfold State.mapLanes; split <;> rfl
@[simp] theorem State.mapLanes_links (f : Hart → Hart) : (s.mapLanes f).links = s.links := by unfold State.mapLanes; split <;> rfl

@[simp] theorem State.bump_next : s.bump.next = s.next + 1 := rfl
@[simp] theorem State.spend_free : s.spend.free = s.free + 1 := rfl

/-! ### Hart.setReg -/

@[simp] theorem Hart.setReg_tid (n : Nat) (v : DWord) : (h.setReg n v).tid = h.tid := rfl
@[simp] theorem Hart.setReg_preds (n : Nat) (v : DWord) : (h.setReg n v).preds = h.preds := rfl
@[simp] theorem Hart.setReg_done (n : Nat) (v : DWord) : (h.setReg n v).done = h.done := rfl
@[simp] theorem Hart.setReg_pc (n : Nat) (v : DWord) : (h.setReg n v).pc = h.pc := rfl
@[simp] theorem Hart.setReg_clause (n : Nat) (v : DWord) : (h.setReg n v).clause = h.clause := rfl
@[simp] theorem Hart.setReg_pos (n : Nat) (v : DWord) : (h.setReg n v).pos = h.pos := rfl
@[simp] theorem Hart.setReg_entered (n : Nat) (v : DWord) : (h.setReg n v).entered = h.entered := rfl
@[simp] theorem Hart.setReg_fi0 (n : Nat) (v : DWord) : (h.setReg n v).fi0 = h.fi0 := rfl
@[simp] theorem Hart.setReg_fi1 (n : Nat) (v : DWord) : (h.setReg n v).fi1 = h.fi1 := rfl
@[simp] theorem Hart.setReg_ordinal (n : Nat) (v : DWord) : (h.setReg n v).ordinal = h.ordinal := rfl
@[simp] theorem Hart.setReg_launch (n : Nat) (v : DWord) : (h.setReg n v).launch = h.launch := rfl
@[simp] theorem Hart.setReg_spwn (n : Nat) (v : DWord) : (h.setReg n v).spwn = h.spwn := rfl
@[simp] theorem Hart.setReg_scur (n : Nat) (v : DWord) : (h.setReg n v).scur = h.scur := rfl
@[simp] theorem Hart.setReg_scv (n : Nat) (v : DWord) : (h.setReg n v).scv = h.scv := rfl
@[simp] theorem Hart.setReg_repstep (n : Nat) (v : DWord) : (h.setReg n v).repstep = h.repstep := rfl
@[simp] theorem Hart.setReg_rep (n : Nat) (v : DWord) : (h.setReg n v).rep = h.rep := rfl
@[simp] theorem Hart.setReg_fpstat (n : Nat) (v : DWord) : (h.setReg n v).fpstat = h.fpstat := rfl
@[simp] theorem Hart.setReg_tstate (n : Nat) (v : DWord) : (h.setReg n v).tstate = h.tstate := rfl
@[simp] theorem Hart.setReg_trap (n : Nat) (v : DWord) : (h.setReg n v).trap = h.trap := rfl
@[simp] theorem Hart.setReg_slack (n : Nat) (v : DWord) : (h.setReg n v).slack = h.slack := rfl
@[simp] theorem Hart.setReg_tx (n : Nat) (v : DWord) : (h.setReg n v).tx = h.tx := rfl
@[simp] theorem Hart.setReg_sample (n : Nat) (v : DWord) : (h.setReg n v).sample = h.sample := rfl
@[simp] theorem Hart.setReg_status (n : Nat) (v : DWord) : (h.setReg n v).status = h.status := rfl
@[simp] theorem Hart.setReg_preemptDue (n : Nat) (v : DWord) : (h.setReg n v).preemptDue = h.preemptDue := rfl
@[simp] theorem Hart.setReg_debugDue (n : Nat) (v : DWord) : (h.setReg n v).debugDue = h.debugDue := rfl
@[simp] theorem Hart.setReg_debugStep (n : Nat) (v : DWord) : (h.setReg n v).debugStep = h.debugStep := rfl
@[simp] theorem Hart.setReg_reached (n : Nat) (v : DWord) : (h.setReg n v).reached = h.reached := rfl
@[simp] theorem Hart.setReg_arrived (n : Nat) (v : DWord) : (h.setReg n v).arrived = h.arrived := rfl
@[simp] theorem Hart.setReg_arrivalOrd (n : Nat) (v : DWord) : (h.setReg n v).arrivalOrd = h.arrivalOrd := rfl
@[simp] theorem Hart.setReg_late (n : Nat) (v : DWord) : (h.setReg n v).late = h.late := rfl
@[simp] theorem Hart.setReg_phaseTrap (n : Nat) (v : DWord) : (h.setReg n v).phaseTrap = h.phaseTrap := rfl
@[simp] theorem Hart.setReg_ops (n : Nat) (v : DWord) : (h.setReg n v).ops = h.ops := rfl
@[simp] theorem Hart.setReg_txStopped (n : Nat) (v : DWord) : (h.setReg n v).txStopped = h.txStopped := rfl

/-! ### Hart.setDone -/

@[simp] theorem Hart.setDone_tid (f n : Nat) : (h.setDone f n).tid = h.tid := rfl
@[simp] theorem Hart.setDone_regs (f n : Nat) : (h.setDone f n).regs = h.regs := rfl
@[simp] theorem Hart.setDone_poison (f n : Nat) : (h.setDone f n).poison = h.poison := rfl
@[simp] theorem Hart.setDone_preds (f n : Nat) : (h.setDone f n).preds = h.preds := rfl
@[simp] theorem Hart.setDone_pc (f n : Nat) : (h.setDone f n).pc = h.pc := rfl
@[simp] theorem Hart.setDone_clause (f n : Nat) : (h.setDone f n).clause = h.clause := rfl
@[simp] theorem Hart.setDone_pos (f n : Nat) : (h.setDone f n).pos = h.pos := rfl
@[simp] theorem Hart.setDone_entered (f n : Nat) : (h.setDone f n).entered = h.entered := rfl
@[simp] theorem Hart.setDone_fi0 (f n : Nat) : (h.setDone f n).fi0 = h.fi0 := rfl
@[simp] theorem Hart.setDone_fi1 (f n : Nat) : (h.setDone f n).fi1 = h.fi1 := rfl
@[simp] theorem Hart.setDone_ordinal (f n : Nat) : (h.setDone f n).ordinal = h.ordinal := rfl
@[simp] theorem Hart.setDone_launch (f n : Nat) : (h.setDone f n).launch = h.launch := rfl
@[simp] theorem Hart.setDone_spwn (f n : Nat) : (h.setDone f n).spwn = h.spwn := rfl
@[simp] theorem Hart.setDone_scur (f n : Nat) : (h.setDone f n).scur = h.scur := rfl
@[simp] theorem Hart.setDone_scv (f n : Nat) : (h.setDone f n).scv = h.scv := rfl
@[simp] theorem Hart.setDone_repstep (f n : Nat) : (h.setDone f n).repstep = h.repstep := rfl
@[simp] theorem Hart.setDone_rep (f n : Nat) : (h.setDone f n).rep = h.rep := rfl
@[simp] theorem Hart.setDone_fpstat (f n : Nat) : (h.setDone f n).fpstat = h.fpstat := rfl
@[simp] theorem Hart.setDone_tstate (f n : Nat) : (h.setDone f n).tstate = h.tstate := rfl
@[simp] theorem Hart.setDone_trap (f n : Nat) : (h.setDone f n).trap = h.trap := rfl
@[simp] theorem Hart.setDone_slack (f n : Nat) : (h.setDone f n).slack = h.slack := rfl
@[simp] theorem Hart.setDone_tx (f n : Nat) : (h.setDone f n).tx = h.tx := rfl
@[simp] theorem Hart.setDone_sample (f n : Nat) : (h.setDone f n).sample = h.sample := rfl
@[simp] theorem Hart.setDone_status (f n : Nat) : (h.setDone f n).status = h.status := rfl
@[simp] theorem Hart.setDone_preemptDue (f n : Nat) : (h.setDone f n).preemptDue = h.preemptDue := rfl
@[simp] theorem Hart.setDone_debugDue (f n : Nat) : (h.setDone f n).debugDue = h.debugDue := rfl
@[simp] theorem Hart.setDone_debugStep (f n : Nat) : (h.setDone f n).debugStep = h.debugStep := rfl
@[simp] theorem Hart.setDone_reached (f n : Nat) : (h.setDone f n).reached = h.reached := rfl
@[simp] theorem Hart.setDone_arrived (f n : Nat) : (h.setDone f n).arrived = h.arrived := rfl
@[simp] theorem Hart.setDone_arrivalOrd (f n : Nat) : (h.setDone f n).arrivalOrd = h.arrivalOrd := rfl
@[simp] theorem Hart.setDone_late (f n : Nat) : (h.setDone f n).late = h.late := rfl
@[simp] theorem Hart.setDone_phaseTrap (f n : Nat) : (h.setDone f n).phaseTrap = h.phaseTrap := rfl
@[simp] theorem Hart.setDone_ops (f n : Nat) : (h.setDone f n).ops = h.ops := rfl
@[simp] theorem Hart.setDone_txStopped (f n : Nat) : (h.setDone f n).txStopped = h.txStopped := rfl

/-! ### Hart.enter -/

@[simp] theorem Hart.enter_tid (q : Word) : (h.enter q).tid = h.tid := rfl
@[simp] theorem Hart.enter_regs (q : Word) : (h.enter q).regs = h.regs := rfl
@[simp] theorem Hart.enter_poison (q : Word) : (h.enter q).poison = h.poison := rfl
@[simp] theorem Hart.enter_preds (q : Word) : (h.enter q).preds = h.preds := rfl
@[simp] theorem Hart.enter_done (q : Word) : (h.enter q).done = h.done := rfl
@[simp] theorem Hart.enter_fi0 (q : Word) : (h.enter q).fi0 = h.fi0 := rfl
@[simp] theorem Hart.enter_fi1 (q : Word) : (h.enter q).fi1 = h.fi1 := rfl
@[simp] theorem Hart.enter_ordinal (q : Word) : (h.enter q).ordinal = h.ordinal := rfl
@[simp] theorem Hart.enter_launch (q : Word) : (h.enter q).launch = h.launch := rfl
@[simp] theorem Hart.enter_spwn (q : Word) : (h.enter q).spwn = h.spwn := rfl
@[simp] theorem Hart.enter_scur (q : Word) : (h.enter q).scur = h.scur := rfl
@[simp] theorem Hart.enter_scv (q : Word) : (h.enter q).scv = h.scv := rfl
@[simp] theorem Hart.enter_repstep (q : Word) : (h.enter q).repstep = h.repstep := rfl
@[simp] theorem Hart.enter_rep (q : Word) : (h.enter q).rep = h.rep := rfl
@[simp] theorem Hart.enter_fpstat (q : Word) : (h.enter q).fpstat = h.fpstat := rfl
@[simp] theorem Hart.enter_tstate (q : Word) : (h.enter q).tstate = h.tstate := rfl
@[simp] theorem Hart.enter_trap (q : Word) : (h.enter q).trap = h.trap := rfl
@[simp] theorem Hart.enter_slack (q : Word) : (h.enter q).slack = h.slack := rfl
@[simp] theorem Hart.enter_tx (q : Word) : (h.enter q).tx = h.tx := rfl
@[simp] theorem Hart.enter_sample (q : Word) : (h.enter q).sample = h.sample := rfl
@[simp] theorem Hart.enter_status (q : Word) : (h.enter q).status = h.status := rfl
@[simp] theorem Hart.enter_preemptDue (q : Word) : (h.enter q).preemptDue = h.preemptDue := rfl
@[simp] theorem Hart.enter_debugDue (q : Word) : (h.enter q).debugDue = h.debugDue := rfl
@[simp] theorem Hart.enter_debugStep (q : Word) : (h.enter q).debugStep = h.debugStep := rfl
@[simp] theorem Hart.enter_arrivalOrd (q : Word) : (h.enter q).arrivalOrd = h.arrivalOrd := rfl
@[simp] theorem Hart.enter_late (q : Word) : (h.enter q).late = h.late := rfl
@[simp] theorem Hart.enter_phaseTrap (q : Word) : (h.enter q).phaseTrap = h.phaseTrap := rfl
@[simp] theorem Hart.enter_ops (q : Word) : (h.enter q).ops = h.ops := rfl
@[simp] theorem Hart.enter_txStopped (q : Word) : (h.enter q).txStopped = h.txStopped := rfl

/-! ### Hart.startAt -/

@[simp] theorem Hart.startAt_tid (q : Word) : (h.startAt q).tid = h.tid := rfl
@[simp] theorem Hart.startAt_regs (q : Word) : (h.startAt q).regs = h.regs := rfl
@[simp] theorem Hart.startAt_poison (q : Word) : (h.startAt q).poison = h.poison := rfl
@[simp] theorem Hart.startAt_preds (q : Word) : (h.startAt q).preds = h.preds := rfl
@[simp] theorem Hart.startAt_done (q : Word) : (h.startAt q).done = h.done := rfl
@[simp] theorem Hart.startAt_fi0 (q : Word) : (h.startAt q).fi0 = h.fi0 := rfl
@[simp] theorem Hart.startAt_fi1 (q : Word) : (h.startAt q).fi1 = h.fi1 := rfl
@[simp] theorem Hart.startAt_ordinal (q : Word) : (h.startAt q).ordinal = h.ordinal := rfl
@[simp] theorem Hart.startAt_launch (q : Word) : (h.startAt q).launch = h.launch := rfl
@[simp] theorem Hart.startAt_spwn (q : Word) : (h.startAt q).spwn = h.spwn := rfl
@[simp] theorem Hart.startAt_scur (q : Word) : (h.startAt q).scur = h.scur := rfl
@[simp] theorem Hart.startAt_scv (q : Word) : (h.startAt q).scv = h.scv := rfl
@[simp] theorem Hart.startAt_repstep (q : Word) : (h.startAt q).repstep = h.repstep := rfl
@[simp] theorem Hart.startAt_rep (q : Word) : (h.startAt q).rep = h.rep := rfl
@[simp] theorem Hart.startAt_fpstat (q : Word) : (h.startAt q).fpstat = h.fpstat := rfl
@[simp] theorem Hart.startAt_tstate (q : Word) : (h.startAt q).tstate = h.tstate := rfl
@[simp] theorem Hart.startAt_trap (q : Word) : (h.startAt q).trap = h.trap := rfl
@[simp] theorem Hart.startAt_slack (q : Word) : (h.startAt q).slack = h.slack := rfl
@[simp] theorem Hart.startAt_tx (q : Word) : (h.startAt q).tx = h.tx := rfl
@[simp] theorem Hart.startAt_sample (q : Word) : (h.startAt q).sample = h.sample := rfl
@[simp] theorem Hart.startAt_status (q : Word) : (h.startAt q).status = h.status := rfl
@[simp] theorem Hart.startAt_preemptDue (q : Word) : (h.startAt q).preemptDue = h.preemptDue := rfl
@[simp] theorem Hart.startAt_debugDue (q : Word) : (h.startAt q).debugDue = h.debugDue := rfl
@[simp] theorem Hart.startAt_debugStep (q : Word) : (h.startAt q).debugStep = h.debugStep := rfl
@[simp] theorem Hart.startAt_arrivalOrd (q : Word) : (h.startAt q).arrivalOrd = h.arrivalOrd := rfl
@[simp] theorem Hart.startAt_late (q : Word) : (h.startAt q).late = h.late := rfl
@[simp] theorem Hart.startAt_phaseTrap (q : Word) : (h.startAt q).phaseTrap = h.phaseTrap := rfl
@[simp] theorem Hart.startAt_ops (q : Word) : (h.startAt q).ops = h.ops := rfl
@[simp] theorem Hart.startAt_txStopped (q : Word) : (h.startAt q).txStopped = h.txStopped := rfl

/-! ### Hart.past -/

@[simp] theorem Hart.past_tid (i : Issue) : (h.past i).tid = h.tid := by unfold Hart.past; split <;> rfl
@[simp] theorem Hart.past_regs (i : Issue) : (h.past i).regs = h.regs := by unfold Hart.past; split <;> rfl
@[simp] theorem Hart.past_poison (i : Issue) : (h.past i).poison = h.poison := by unfold Hart.past; split <;> rfl
@[simp] theorem Hart.past_preds (i : Issue) : (h.past i).preds = h.preds := by unfold Hart.past; split <;> rfl
@[simp] theorem Hart.past_done (i : Issue) : (h.past i).done = h.done := by unfold Hart.past; split <;> rfl
@[simp] theorem Hart.past_fi0 (i : Issue) : (h.past i).fi0 = h.fi0 := by unfold Hart.past; split <;> rfl
@[simp] theorem Hart.past_fi1 (i : Issue) : (h.past i).fi1 = h.fi1 := by unfold Hart.past; split <;> rfl
@[simp] theorem Hart.past_ordinal (i : Issue) : (h.past i).ordinal = h.ordinal := by unfold Hart.past; split <;> rfl
@[simp] theorem Hart.past_launch (i : Issue) : (h.past i).launch = h.launch := by unfold Hart.past; split <;> rfl
@[simp] theorem Hart.past_spwn (i : Issue) : (h.past i).spwn = h.spwn := by unfold Hart.past; split <;> rfl
@[simp] theorem Hart.past_scur (i : Issue) : (h.past i).scur = h.scur := by unfold Hart.past; split <;> rfl
@[simp] theorem Hart.past_scv (i : Issue) : (h.past i).scv = h.scv := by unfold Hart.past; split <;> rfl
@[simp] theorem Hart.past_repstep (i : Issue) : (h.past i).repstep = h.repstep := by unfold Hart.past; split <;> rfl
@[simp] theorem Hart.past_rep (i : Issue) : (h.past i).rep = h.rep := by unfold Hart.past; split <;> rfl
@[simp] theorem Hart.past_fpstat (i : Issue) : (h.past i).fpstat = h.fpstat := by unfold Hart.past; split <;> rfl
@[simp] theorem Hart.past_tstate (i : Issue) : (h.past i).tstate = h.tstate := by unfold Hart.past; split <;> rfl
@[simp] theorem Hart.past_trap (i : Issue) : (h.past i).trap = h.trap := by unfold Hart.past; split <;> rfl
@[simp] theorem Hart.past_slack (i : Issue) : (h.past i).slack = h.slack := by unfold Hart.past; split <;> rfl
@[simp] theorem Hart.past_tx (i : Issue) : (h.past i).tx = h.tx := by unfold Hart.past; split <;> rfl
@[simp] theorem Hart.past_sample (i : Issue) : (h.past i).sample = h.sample := by unfold Hart.past; split <;> rfl
@[simp] theorem Hart.past_status (i : Issue) : (h.past i).status = h.status := by unfold Hart.past; split <;> rfl
@[simp] theorem Hart.past_preemptDue (i : Issue) : (h.past i).preemptDue = h.preemptDue := by unfold Hart.past; split <;> rfl
@[simp] theorem Hart.past_debugDue (i : Issue) : (h.past i).debugDue = h.debugDue := by unfold Hart.past; split <;> rfl
@[simp] theorem Hart.past_debugStep (i : Issue) : (h.past i).debugStep = h.debugStep := by unfold Hart.past; split <;> rfl
@[simp] theorem Hart.past_arrivalOrd (i : Issue) : (h.past i).arrivalOrd = h.arrivalOrd := by unfold Hart.past; split <;> rfl
@[simp] theorem Hart.past_late (i : Issue) : (h.past i).late = h.late := by unfold Hart.past; split <;> rfl
@[simp] theorem Hart.past_phaseTrap (i : Issue) : (h.past i).phaseTrap = h.phaseTrap := by unfold Hart.past; split <;> rfl
@[simp] theorem Hart.past_ops (i : Issue) : (h.past i).ops = h.ops := by unfold Hart.past; split <;> rfl
@[simp] theorem Hart.past_txStopped (i : Issue) : (h.past i).txStopped = h.txStopped := by unfold Hart.past; split <;> rfl

/-! ### Hart.advance -/

@[simp] theorem Hart.advance_tid (i : Issue) : (h.advance i).tid = h.tid := by unfold Hart.advance; (repeat' split) <;> simp
@[simp] theorem Hart.advance_regs (i : Issue) : (h.advance i).regs = h.regs := by unfold Hart.advance; (repeat' split) <;> simp
@[simp] theorem Hart.advance_poison (i : Issue) : (h.advance i).poison = h.poison := by unfold Hart.advance; (repeat' split) <;> simp
@[simp] theorem Hart.advance_preds (i : Issue) : (h.advance i).preds = h.preds := by unfold Hart.advance; (repeat' split) <;> simp
@[simp] theorem Hart.advance_done (i : Issue) : (h.advance i).done = h.done := by unfold Hart.advance; (repeat' split) <;> simp
@[simp] theorem Hart.advance_fi0 (i : Issue) : (h.advance i).fi0 = h.fi0 := by unfold Hart.advance; (repeat' split) <;> simp
@[simp] theorem Hart.advance_fi1 (i : Issue) : (h.advance i).fi1 = h.fi1 := by unfold Hart.advance; (repeat' split) <;> simp
@[simp] theorem Hart.advance_ordinal (i : Issue) : (h.advance i).ordinal = h.ordinal := by unfold Hart.advance; (repeat' split) <;> simp
@[simp] theorem Hart.advance_launch (i : Issue) : (h.advance i).launch = h.launch := by unfold Hart.advance; (repeat' split) <;> simp
@[simp] theorem Hart.advance_spwn (i : Issue) : (h.advance i).spwn = h.spwn := by unfold Hart.advance; (repeat' split) <;> simp
@[simp] theorem Hart.advance_scur (i : Issue) : (h.advance i).scur = h.scur := by unfold Hart.advance; (repeat' split) <;> simp
@[simp] theorem Hart.advance_scv (i : Issue) : (h.advance i).scv = h.scv := by unfold Hart.advance; (repeat' split) <;> simp
@[simp] theorem Hart.advance_fpstat (i : Issue) : (h.advance i).fpstat = h.fpstat := by unfold Hart.advance; (repeat' split) <;> simp
@[simp] theorem Hart.advance_tstate (i : Issue) : (h.advance i).tstate = h.tstate := by unfold Hart.advance; (repeat' split) <;> simp
@[simp] theorem Hart.advance_trap (i : Issue) : (h.advance i).trap = h.trap := by unfold Hart.advance; (repeat' split) <;> simp
@[simp] theorem Hart.advance_slack (i : Issue) : (h.advance i).slack = h.slack := by unfold Hart.advance; (repeat' split) <;> simp
@[simp] theorem Hart.advance_tx (i : Issue) : (h.advance i).tx = h.tx := by unfold Hart.advance; (repeat' split) <;> simp
@[simp] theorem Hart.advance_sample (i : Issue) : (h.advance i).sample = h.sample := by unfold Hart.advance; (repeat' split) <;> simp
@[simp] theorem Hart.advance_status (i : Issue) : (h.advance i).status = h.status := by unfold Hart.advance; (repeat' split) <;> simp
@[simp] theorem Hart.advance_preemptDue (i : Issue) : (h.advance i).preemptDue = h.preemptDue := by unfold Hart.advance; (repeat' split) <;> simp
@[simp] theorem Hart.advance_debugDue (i : Issue) : (h.advance i).debugDue = h.debugDue := by unfold Hart.advance; (repeat' split) <;> simp
@[simp] theorem Hart.advance_debugStep (i : Issue) : (h.advance i).debugStep = h.debugStep := by unfold Hart.advance; (repeat' split) <;> simp
@[simp] theorem Hart.advance_arrivalOrd (i : Issue) : (h.advance i).arrivalOrd = h.arrivalOrd := by unfold Hart.advance; (repeat' split) <;> simp
@[simp] theorem Hart.advance_late (i : Issue) : (h.advance i).late = h.late := by unfold Hart.advance; (repeat' split) <;> simp
@[simp] theorem Hart.advance_phaseTrap (i : Issue) : (h.advance i).phaseTrap = h.phaseTrap := by unfold Hart.advance; (repeat' split) <;> simp
@[simp] theorem Hart.advance_ops (i : Issue) : (h.advance i).ops = h.ops := by unfold Hart.advance; (repeat' split) <;> simp
@[simp] theorem Hart.advance_txStopped (i : Issue) : (h.advance i).txStopped = h.txStopped := by unfold Hart.advance; (repeat' split) <;> simp

/-! ### Hart.setPred -/

@[simp] theorem Hart.setPred_tid (p : BitVec 3) (v : Bool) : (h.setPred p v).tid = h.tid := by unfold Hart.setPred; split <;> rfl
@[simp] theorem Hart.setPred_regs (p : BitVec 3) (v : Bool) : (h.setPred p v).regs = h.regs := by unfold Hart.setPred; split <;> rfl
@[simp] theorem Hart.setPred_poison (p : BitVec 3) (v : Bool) : (h.setPred p v).poison = h.poison := by unfold Hart.setPred; split <;> rfl
@[simp] theorem Hart.setPred_done (p : BitVec 3) (v : Bool) : (h.setPred p v).done = h.done := by unfold Hart.setPred; split <;> rfl
@[simp] theorem Hart.setPred_pc (p : BitVec 3) (v : Bool) : (h.setPred p v).pc = h.pc := by unfold Hart.setPred; split <;> rfl
@[simp] theorem Hart.setPred_clause (p : BitVec 3) (v : Bool) : (h.setPred p v).clause = h.clause := by unfold Hart.setPred; split <;> rfl
@[simp] theorem Hart.setPred_pos (p : BitVec 3) (v : Bool) : (h.setPred p v).pos = h.pos := by unfold Hart.setPred; split <;> rfl
@[simp] theorem Hart.setPred_entered (p : BitVec 3) (v : Bool) : (h.setPred p v).entered = h.entered := by unfold Hart.setPred; split <;> rfl
@[simp] theorem Hart.setPred_fi0 (p : BitVec 3) (v : Bool) : (h.setPred p v).fi0 = h.fi0 := by unfold Hart.setPred; split <;> rfl
@[simp] theorem Hart.setPred_fi1 (p : BitVec 3) (v : Bool) : (h.setPred p v).fi1 = h.fi1 := by unfold Hart.setPred; split <;> rfl
@[simp] theorem Hart.setPred_ordinal (p : BitVec 3) (v : Bool) : (h.setPred p v).ordinal = h.ordinal := by unfold Hart.setPred; split <;> rfl
@[simp] theorem Hart.setPred_launch (p : BitVec 3) (v : Bool) : (h.setPred p v).launch = h.launch := by unfold Hart.setPred; split <;> rfl
@[simp] theorem Hart.setPred_spwn (p : BitVec 3) (v : Bool) : (h.setPred p v).spwn = h.spwn := by unfold Hart.setPred; split <;> rfl
@[simp] theorem Hart.setPred_scur (p : BitVec 3) (v : Bool) : (h.setPred p v).scur = h.scur := by unfold Hart.setPred; split <;> rfl
@[simp] theorem Hart.setPred_scv (p : BitVec 3) (v : Bool) : (h.setPred p v).scv = h.scv := by unfold Hart.setPred; split <;> rfl
@[simp] theorem Hart.setPred_repstep (p : BitVec 3) (v : Bool) : (h.setPred p v).repstep = h.repstep := by unfold Hart.setPred; split <;> rfl
@[simp] theorem Hart.setPred_rep (p : BitVec 3) (v : Bool) : (h.setPred p v).rep = h.rep := by unfold Hart.setPred; split <;> rfl
@[simp] theorem Hart.setPred_fpstat (p : BitVec 3) (v : Bool) : (h.setPred p v).fpstat = h.fpstat := by unfold Hart.setPred; split <;> rfl
@[simp] theorem Hart.setPred_tstate (p : BitVec 3) (v : Bool) : (h.setPred p v).tstate = h.tstate := by unfold Hart.setPred; split <;> rfl
@[simp] theorem Hart.setPred_trap (p : BitVec 3) (v : Bool) : (h.setPred p v).trap = h.trap := by unfold Hart.setPred; split <;> rfl
@[simp] theorem Hart.setPred_slack (p : BitVec 3) (v : Bool) : (h.setPred p v).slack = h.slack := by unfold Hart.setPred; split <;> rfl
@[simp] theorem Hart.setPred_tx (p : BitVec 3) (v : Bool) : (h.setPred p v).tx = h.tx := by unfold Hart.setPred; split <;> rfl
@[simp] theorem Hart.setPred_sample (p : BitVec 3) (v : Bool) : (h.setPred p v).sample = h.sample := by unfold Hart.setPred; split <;> rfl
@[simp] theorem Hart.setPred_status (p : BitVec 3) (v : Bool) : (h.setPred p v).status = h.status := by unfold Hart.setPred; split <;> rfl
@[simp] theorem Hart.setPred_preemptDue (p : BitVec 3) (v : Bool) : (h.setPred p v).preemptDue = h.preemptDue := by unfold Hart.setPred; split <;> rfl
@[simp] theorem Hart.setPred_debugDue (p : BitVec 3) (v : Bool) : (h.setPred p v).debugDue = h.debugDue := by unfold Hart.setPred; split <;> rfl
@[simp] theorem Hart.setPred_debugStep (p : BitVec 3) (v : Bool) : (h.setPred p v).debugStep = h.debugStep := by unfold Hart.setPred; split <;> rfl
@[simp] theorem Hart.setPred_reached (p : BitVec 3) (v : Bool) : (h.setPred p v).reached = h.reached := by unfold Hart.setPred; split <;> rfl
@[simp] theorem Hart.setPred_arrived (p : BitVec 3) (v : Bool) : (h.setPred p v).arrived = h.arrived := by unfold Hart.setPred; split <;> rfl
@[simp] theorem Hart.setPred_arrivalOrd (p : BitVec 3) (v : Bool) : (h.setPred p v).arrivalOrd = h.arrivalOrd := by unfold Hart.setPred; split <;> rfl
@[simp] theorem Hart.setPred_late (p : BitVec 3) (v : Bool) : (h.setPred p v).late = h.late := by unfold Hart.setPred; split <;> rfl
@[simp] theorem Hart.setPred_phaseTrap (p : BitVec 3) (v : Bool) : (h.setPred p v).phaseTrap = h.phaseTrap := by unfold Hart.setPred; split <;> rfl
@[simp] theorem Hart.setPred_ops (p : BitVec 3) (v : Bool) : (h.setPred p v).ops = h.ops := by unfold Hart.setPred; split <;> rfl
@[simp] theorem Hart.setPred_txStopped (p : BitVec 3) (v : Bool) : (h.setPred p v).txStopped = h.txStopped := by unfold Hart.setPred; split <;> rfl

/-! ### Hart.setFibre -/

@[simp] theorem Hart.setFibre_tid (q : BitVec 1) (f : Fibre) : (h.setFibre q f).tid = h.tid := by unfold Hart.setFibre; split <;> rfl
@[simp] theorem Hart.setFibre_regs (q : BitVec 1) (f : Fibre) : (h.setFibre q f).regs = h.regs := by unfold Hart.setFibre; split <;> rfl
@[simp] theorem Hart.setFibre_poison (q : BitVec 1) (f : Fibre) : (h.setFibre q f).poison = h.poison := by unfold Hart.setFibre; split <;> rfl
@[simp] theorem Hart.setFibre_preds (q : BitVec 1) (f : Fibre) : (h.setFibre q f).preds = h.preds := by unfold Hart.setFibre; split <;> rfl
@[simp] theorem Hart.setFibre_done (q : BitVec 1) (f : Fibre) : (h.setFibre q f).done = h.done := by unfold Hart.setFibre; split <;> rfl
@[simp] theorem Hart.setFibre_pc (q : BitVec 1) (f : Fibre) : (h.setFibre q f).pc = h.pc := by unfold Hart.setFibre; split <;> rfl
@[simp] theorem Hart.setFibre_clause (q : BitVec 1) (f : Fibre) : (h.setFibre q f).clause = h.clause := by unfold Hart.setFibre; split <;> rfl
@[simp] theorem Hart.setFibre_pos (q : BitVec 1) (f : Fibre) : (h.setFibre q f).pos = h.pos := by unfold Hart.setFibre; split <;> rfl
@[simp] theorem Hart.setFibre_entered (q : BitVec 1) (f : Fibre) : (h.setFibre q f).entered = h.entered := by unfold Hart.setFibre; split <;> rfl
@[simp] theorem Hart.setFibre_ordinal (q : BitVec 1) (f : Fibre) : (h.setFibre q f).ordinal = h.ordinal := by unfold Hart.setFibre; split <;> rfl
@[simp] theorem Hart.setFibre_launch (q : BitVec 1) (f : Fibre) : (h.setFibre q f).launch = h.launch := by unfold Hart.setFibre; split <;> rfl
@[simp] theorem Hart.setFibre_spwn (q : BitVec 1) (f : Fibre) : (h.setFibre q f).spwn = h.spwn := by unfold Hart.setFibre; split <;> rfl
@[simp] theorem Hart.setFibre_scur (q : BitVec 1) (f : Fibre) : (h.setFibre q f).scur = h.scur := by unfold Hart.setFibre; split <;> rfl
@[simp] theorem Hart.setFibre_scv (q : BitVec 1) (f : Fibre) : (h.setFibre q f).scv = h.scv := by unfold Hart.setFibre; split <;> rfl
@[simp] theorem Hart.setFibre_repstep (q : BitVec 1) (f : Fibre) : (h.setFibre q f).repstep = h.repstep := by unfold Hart.setFibre; split <;> rfl
@[simp] theorem Hart.setFibre_rep (q : BitVec 1) (f : Fibre) : (h.setFibre q f).rep = h.rep := by unfold Hart.setFibre; split <;> rfl
@[simp] theorem Hart.setFibre_fpstat (q : BitVec 1) (f : Fibre) : (h.setFibre q f).fpstat = h.fpstat := by unfold Hart.setFibre; split <;> rfl
@[simp] theorem Hart.setFibre_tstate (q : BitVec 1) (f : Fibre) : (h.setFibre q f).tstate = h.tstate := by unfold Hart.setFibre; split <;> rfl
@[simp] theorem Hart.setFibre_trap (q : BitVec 1) (f : Fibre) : (h.setFibre q f).trap = h.trap := by unfold Hart.setFibre; split <;> rfl
@[simp] theorem Hart.setFibre_slack (q : BitVec 1) (f : Fibre) : (h.setFibre q f).slack = h.slack := by unfold Hart.setFibre; split <;> rfl
@[simp] theorem Hart.setFibre_tx (q : BitVec 1) (f : Fibre) : (h.setFibre q f).tx = h.tx := by unfold Hart.setFibre; split <;> rfl
@[simp] theorem Hart.setFibre_sample (q : BitVec 1) (f : Fibre) : (h.setFibre q f).sample = h.sample := by unfold Hart.setFibre; split <;> rfl
@[simp] theorem Hart.setFibre_status (q : BitVec 1) (f : Fibre) : (h.setFibre q f).status = h.status := by unfold Hart.setFibre; split <;> rfl
@[simp] theorem Hart.setFibre_preemptDue (q : BitVec 1) (f : Fibre) : (h.setFibre q f).preemptDue = h.preemptDue := by unfold Hart.setFibre; split <;> rfl
@[simp] theorem Hart.setFibre_debugDue (q : BitVec 1) (f : Fibre) : (h.setFibre q f).debugDue = h.debugDue := by unfold Hart.setFibre; split <;> rfl
@[simp] theorem Hart.setFibre_debugStep (q : BitVec 1) (f : Fibre) : (h.setFibre q f).debugStep = h.debugStep := by unfold Hart.setFibre; split <;> rfl
@[simp] theorem Hart.setFibre_reached (q : BitVec 1) (f : Fibre) : (h.setFibre q f).reached = h.reached := by unfold Hart.setFibre; split <;> rfl
@[simp] theorem Hart.setFibre_arrived (q : BitVec 1) (f : Fibre) : (h.setFibre q f).arrived = h.arrived := by unfold Hart.setFibre; split <;> rfl
@[simp] theorem Hart.setFibre_arrivalOrd (q : BitVec 1) (f : Fibre) : (h.setFibre q f).arrivalOrd = h.arrivalOrd := by unfold Hart.setFibre; split <;> rfl
@[simp] theorem Hart.setFibre_late (q : BitVec 1) (f : Fibre) : (h.setFibre q f).late = h.late := by unfold Hart.setFibre; split <;> rfl
@[simp] theorem Hart.setFibre_phaseTrap (q : BitVec 1) (f : Fibre) : (h.setFibre q f).phaseTrap = h.phaseTrap := by unfold Hart.setFibre; split <;> rfl
@[simp] theorem Hart.setFibre_ops (q : BitVec 1) (f : Fibre) : (h.setFibre q f).ops = h.ops := by unfold Hart.setFibre; split <;> rfl
@[simp] theorem Hart.setFibre_txStopped (q : BitVec 1) (f : Fibre) : (h.setFibre q f).txStopped = h.txStopped := by unfold Hart.setFibre; split <;> rfl

/-! ### Hart.setReg64 -/

@[simp] theorem Hart.setReg64_tid (n : Nat) (v : DWord) : (h.setReg64 n v).tid = h.tid := by unfold Hart.setReg64; split <;> simp
@[simp] theorem Hart.setReg64_preds (n : Nat) (v : DWord) : (h.setReg64 n v).preds = h.preds := by unfold Hart.setReg64; split <;> simp
@[simp] theorem Hart.setReg64_done (n : Nat) (v : DWord) : (h.setReg64 n v).done = h.done := by unfold Hart.setReg64; split <;> simp
@[simp] theorem Hart.setReg64_pc (n : Nat) (v : DWord) : (h.setReg64 n v).pc = h.pc := by unfold Hart.setReg64; split <;> simp
@[simp] theorem Hart.setReg64_clause (n : Nat) (v : DWord) : (h.setReg64 n v).clause = h.clause := by unfold Hart.setReg64; split <;> simp
@[simp] theorem Hart.setReg64_pos (n : Nat) (v : DWord) : (h.setReg64 n v).pos = h.pos := by unfold Hart.setReg64; split <;> simp
@[simp] theorem Hart.setReg64_entered (n : Nat) (v : DWord) : (h.setReg64 n v).entered = h.entered := by unfold Hart.setReg64; split <;> simp
@[simp] theorem Hart.setReg64_fi0 (n : Nat) (v : DWord) : (h.setReg64 n v).fi0 = h.fi0 := by unfold Hart.setReg64; split <;> simp
@[simp] theorem Hart.setReg64_fi1 (n : Nat) (v : DWord) : (h.setReg64 n v).fi1 = h.fi1 := by unfold Hart.setReg64; split <;> simp
@[simp] theorem Hart.setReg64_ordinal (n : Nat) (v : DWord) : (h.setReg64 n v).ordinal = h.ordinal := by unfold Hart.setReg64; split <;> simp
@[simp] theorem Hart.setReg64_launch (n : Nat) (v : DWord) : (h.setReg64 n v).launch = h.launch := by unfold Hart.setReg64; split <;> simp
@[simp] theorem Hart.setReg64_spwn (n : Nat) (v : DWord) : (h.setReg64 n v).spwn = h.spwn := by unfold Hart.setReg64; split <;> simp
@[simp] theorem Hart.setReg64_scur (n : Nat) (v : DWord) : (h.setReg64 n v).scur = h.scur := by unfold Hart.setReg64; split <;> simp
@[simp] theorem Hart.setReg64_scv (n : Nat) (v : DWord) : (h.setReg64 n v).scv = h.scv := by unfold Hart.setReg64; split <;> simp
@[simp] theorem Hart.setReg64_repstep (n : Nat) (v : DWord) : (h.setReg64 n v).repstep = h.repstep := by unfold Hart.setReg64; split <;> simp
@[simp] theorem Hart.setReg64_rep (n : Nat) (v : DWord) : (h.setReg64 n v).rep = h.rep := by unfold Hart.setReg64; split <;> simp
@[simp] theorem Hart.setReg64_fpstat (n : Nat) (v : DWord) : (h.setReg64 n v).fpstat = h.fpstat := by unfold Hart.setReg64; split <;> simp
@[simp] theorem Hart.setReg64_tstate (n : Nat) (v : DWord) : (h.setReg64 n v).tstate = h.tstate := by unfold Hart.setReg64; split <;> simp
@[simp] theorem Hart.setReg64_trap (n : Nat) (v : DWord) : (h.setReg64 n v).trap = h.trap := by unfold Hart.setReg64; split <;> simp
@[simp] theorem Hart.setReg64_slack (n : Nat) (v : DWord) : (h.setReg64 n v).slack = h.slack := by unfold Hart.setReg64; split <;> simp
@[simp] theorem Hart.setReg64_tx (n : Nat) (v : DWord) : (h.setReg64 n v).tx = h.tx := by unfold Hart.setReg64; split <;> simp
@[simp] theorem Hart.setReg64_sample (n : Nat) (v : DWord) : (h.setReg64 n v).sample = h.sample := by unfold Hart.setReg64; split <;> simp
@[simp] theorem Hart.setReg64_status (n : Nat) (v : DWord) : (h.setReg64 n v).status = h.status := by unfold Hart.setReg64; split <;> simp
@[simp] theorem Hart.setReg64_preemptDue (n : Nat) (v : DWord) : (h.setReg64 n v).preemptDue = h.preemptDue := by unfold Hart.setReg64; split <;> simp
@[simp] theorem Hart.setReg64_debugDue (n : Nat) (v : DWord) : (h.setReg64 n v).debugDue = h.debugDue := by unfold Hart.setReg64; split <;> simp
@[simp] theorem Hart.setReg64_debugStep (n : Nat) (v : DWord) : (h.setReg64 n v).debugStep = h.debugStep := by unfold Hart.setReg64; split <;> simp
@[simp] theorem Hart.setReg64_reached (n : Nat) (v : DWord) : (h.setReg64 n v).reached = h.reached := by unfold Hart.setReg64; split <;> simp
@[simp] theorem Hart.setReg64_arrived (n : Nat) (v : DWord) : (h.setReg64 n v).arrived = h.arrived := by unfold Hart.setReg64; split <;> simp
@[simp] theorem Hart.setReg64_arrivalOrd (n : Nat) (v : DWord) : (h.setReg64 n v).arrivalOrd = h.arrivalOrd := by unfold Hart.setReg64; split <;> simp
@[simp] theorem Hart.setReg64_late (n : Nat) (v : DWord) : (h.setReg64 n v).late = h.late := by unfold Hart.setReg64; split <;> simp
@[simp] theorem Hart.setReg64_phaseTrap (n : Nat) (v : DWord) : (h.setReg64 n v).phaseTrap = h.phaseTrap := by unfold Hart.setReg64; split <;> simp
@[simp] theorem Hart.setReg64_ops (n : Nat) (v : DWord) : (h.setReg64 n v).ops = h.ops := by unfold Hart.setReg64; split <;> simp
@[simp] theorem Hart.setReg64_txStopped (n : Nat) (v : DWord) : (h.setReg64 n v).txStopped = h.txStopped := by unfold Hart.setReg64; split <;> simp

end Sys2Proof.Machine
end

