-- ==== Sys2Proof/Laws/Lanes.lean ====
section
/-! SUPPORT. Threads after an update: reading a core, a wave, a slot or a thread after a change of one, and what the two ways
of carrying out an instruction over its lanes do. -/

namespace Sys2Proof.Machine

variable (s : State)

/-! ### Cores, waves, slots -/

@[simp] theorem State.core_setCore_self (c : Nat) (k : Core) : (s.setCore c k).core c = k := by
  simp [State.core, State.setCore]

theorem State.core_setCore_of_ne {c d : Nat} (k : Core) (h : d ≠ c) : (s.setCore c k).core d = s.core d := by
  simp [State.core, State.setCore, KMap.get?_set_of_ne _ _ _ _ h]

@[simp] theorem State.core_modCore_self (c : Nat) (f : Core → Core) : (s.modCore c f).core c = f (s.core c) := by
  simp [State.modCore]

theorem State.core_modCore_of_ne {c d : Nat} (f : Core → Core) (h : d ≠ c) : (s.modCore c f).core d = s.core d :=
  s.core_setCore_of_ne _ h

@[simp] theorem State.wave?_modWave_self (c w : Nat) (f : Wave → Wave) : (s.modWave c w f).wave? c w = (s.wave? c w).map f := by
  simp [State.modWave, State.wave?]

theorem State.wave?_modWave_of_ne {c w d v : Nat} (f : Wave → Wave) (h : (d, v) ≠ (c, w)) : (s.modWave c w f).wave? d v = s.wave? d v := by
  unfold State.modWave State.wave?
  by_cases hd : d = c
  · subst hd
    have : v ≠ w := fun e => h (by rw [e])
    simp [KMap.get?_modify_of_ne _ _ _ f this]
  · rw [s.core_modCore_of_ne _ hd]

@[simp] theorem State.wave?_modSlot (c k d v : Nat) (f : Slot → Slot) : (s.modSlot c k f).wave? d v = s.wave? d v := by
  unfold State.modSlot State.wave?
  by_cases hd : d = c
  · subst hd; simp
  · rw [s.core_modCore_of_ne _ hd]

@[simp] theorem State.slot?_modSlot_self (c k : Nat) (f : Slot → Slot) : (s.modSlot c k f).slot? c k = (s.slot? c k).map f := by
  simp [State.modSlot, State.slot?]

theorem State.slot?_modSlot_of_ne {c k d n : Nat} (f : Slot → Slot) (h : (d, n) ≠ (c, k)) : (s.modSlot c k f).slot? d n = s.slot? d n := by
  unfold State.modSlot State.slot?
  by_cases hd : d = c
  · subst hd
    have : n ≠ k := fun e => h (by rw [e])
    simp [KMap.get?_modify_of_ne _ _ _ f this]
  · rw [s.core_modCore_of_ne _ hd]

@[simp] theorem State.slot?_modWave (c w d n : Nat) (f : Wave → Wave) : (s.modWave c w f).slot? d n = s.slot? d n := by
  unfold State.modWave State.slot?
  by_cases hd : d = c
  · subst hd; simp
  · rw [s.core_modCore_of_ne _ hd]

/-! ### Threads -/

/-- A thread after a change that keeps its name. -/
theorem State.hart?_modHart_self (r : Ref) (f : Hart → Hart) (h : Hart) (hs : s.hart? r = some h) (hf : (f h).tid = h.tid) :
    (s.modHart r f).hart? r = some (f h) := by
  obtain ⟨c, a, n⟩ := r
  cases a with
  | wave w l =>
    simp only [State.hart?, State.modHart, State.wave?_modWave_self, Option.filter_eq_some_iff, Option.bind_eq_some_iff,
      Option.map_eq_some_iff] at hs ⊢
    obtain ⟨⟨v, hv, hl⟩, ht⟩ := hs
    exact ⟨⟨_, ⟨v, hv, rfl⟩, by simp [hl]⟩, by rw [hf]; exact ht⟩
  | bobbin k =>
    simp only [State.hart?, State.modHart, State.slot?_modSlot_self, Option.filter_eq_some_iff, Option.map_eq_some_iff] at hs ⊢
    obtain ⟨⟨q, hq, rfl⟩, ht⟩ := hs
    exact ⟨⟨_, ⟨q, hq, rfl⟩, rfl⟩, by rw [hf]; exact ht⟩

theorem State.hart?_setHart_self (r : Ref) (h k : Hart) (hs : s.hart? r = some h) (hk : k.tid = h.tid) :
    (s.setHart r k).hart? r = some k :=
  s.hart?_modHart_self r (fun _ => k) h hs hk

/-- Threads at other places stay as they are. -/
theorem State.hart?_modHart_of_ne (r q : Ref) (f : Hart → Hart) (h : (q.core, q.agent) ≠ (r.core, r.agent)) :
    (s.modHart r f).hart? q = s.hart? q := by
  obtain ⟨c, a, n⟩ := r
  obtain ⟨d, b, m⟩ := q
  cases a with
  | wave w l =>
    cases b with
    | bobbin k => simp [State.hart?, State.modHart]
    | wave v j =>
      simp only [State.hart?, State.modHart]
      by_cases he : (d, v) = (c, w)
      · obtain ⟨rfl, rfl⟩ := Prod.mk.inj he
        have hj : j ≠ l := fun e => h (by rw [e])
        rw [State.wave?_modWave_self]
        congr 1
        cases s.wave? d v with
        | none => rfl
        | some v => simp [KMap.get?_modify_of_ne _ _ _ f hj]
      · rw [s.wave?_modWave_of_ne _ he]
  | bobbin k =>
    cases b with
    | wave v j => simp [State.hart?, State.modHart]
    | bobbin j =>
      simp only [State.hart?, State.modHart]
      rw [s.slot?_modSlot_of_ne]
      intro e
      obtain ⟨rfl, rfl⟩ := Prod.mk.inj e
      exact h rfl

theorem State.hart?_setHart_of_ne (r q : Ref) (k : Hart) (h : (q.core, q.agent) ≠ (r.core, r.agent)) :
    (s.setHart r k).hart? q = s.hart? q := s.hart?_modHart_of_ne r q _ h

/-! ### Carrying out an instruction over its lanes -/

/-- An issue of one lane: the instruction does what it does for that lane. -/
theorem perLane_oneLane (g : Guard) (f : Ref → Hart → State → State) (r : Ref) (h : Hart) (hs : s.oneLane r h) :
    perLane g f s = if h.takes g then f r h s else s.setHart r (h.advance s.cur) := by
  obtain ⟨h1, h2, l, h3, h4⟩ := hs
  have : h.stands h = true := by simp [Hart.stands, h2]
  simp [perLane, h3, h4, h1, this]

/-- An instruction that acts on each lane by itself always has a next state: its lanes change by f or sit it out, and each
goes past the instruction. -/
theorem aluOp_next (g : Guard) (f : Hart → Hart) :
    aluOp g f s = .next (s.mapLanes fun h => (if h.takes g then f h else h).advance s.cur) := rfl

end Sys2Proof.Machine
end

