-- ==== Sys2Proof/Laws/PerInstr.lean ====
section
/-! SUPPORT. One lemma per constructor of Instr: the field record of a well-formed instruction is read back as that
instruction; an event has no record. -/

set_option linter.unusedSimpArgs false

namespace Sys2Proof

/-! ### Codes and fields -/

@[simp] theorem tyOfField_tyField (t : Option Fmt) : tyOfField (tyField t) = some t := by
  rcases t with _ | t
  · rfl
  · cases t <;> rfl
@[simp] theorem Fmt.ofCode_code (f : Fmt) : Fmt.ofCode f.code = some f := by cases f <;> rfl
@[simp] theorem Round.ofCode_code (r : Round) : Round.ofCode r.code = some r := by cases r <;> rfl
@[simp] theorem MoviKind.ofCode_code (k : MoviKind) : MoviKind.ofCode k.code = some k := by cases k <;> rfl
@[simp] theorem Cond.ofCode_code (c : Cond) : Cond.ofCode c.code = some c := by cases c <;> rfl
@[simp] theorem FCond.ofCode_code (c : FCond) : FCond.ofCode c.code = some c := by cases c <;> rfl
@[simp] theorem Census.ofCode_code (k : Census) : Census.ofCode k.code = some k := by cases k <;> rfl
@[simp] theorem RedOp.ofCode_code (o : RedOp) : RedOp.ofCode o.code = some o := by cases o <;> rfl
@[simp] theorem AtomOp.ofCode_code (o : AtomOp) : AtomOp.ofCode o.code = some o := by cases o <;> rfl
@[simp] theorem Scope.ofCode_code (c : Scope) : Scope.ofCode c.code = some c := by cases c <;> rfl
theorem Round.ofCode2_code2 (r : Round) (h : r ≠ .rsr) : Round.ofCode2 r.code2 = r := by cases r <;> first | rfl | exact absurd rfl h

section fields
variable {v w : Nat} (x : BitVec v) (y : BitVec w)

theorem field_all : x.extractLsb' 0 v = x := BitVec.extractLsb'_eq_self
theorem field_low (k n : Nat) (h : k + n ≤ w) : (x ++ y).extractLsb' k n = y.extractLsb' k n :=
  BitVec.extractLsb'_append_eq_of_add_le h
theorem field_high (k n : Nat) (h : w ≤ k) : (x ++ y).extractLsb' k n = x.extractLsb' (k - w) n :=
  BitVec.extractLsb'_append_eq_of_le h
theorem bit_low (k : Nat) (h : k < w) : (x ++ y).getLsbD k = y.getLsbD k := by rw [BitVec.getLsbD_append, if_pos h]
theorem bit_high (k : Nat) (h : w ≤ k) : (x ++ y).getLsbD k = x.getLsbD (k - w) := by
  rw [BitVec.getLsbD_append, if_neg (by omega)]
theorem fields_join (j k n : Nat) : x.extractLsb' (j + k) n ++ x.extractLsb' j k = x.extractLsb' j (n + k) := by
  apply BitVec.eq_of_getLsbD_eq
  intro i hi
  rw [BitVec.getLsbD_append]
  split
  · simp [*]
  · simp [show i - k < n by omega, show j + k + (i - k) = j + i by omega, hi]
theorem bit_bool (b : Bool) : (BitVec.ofBool b).getLsbD 0 = b := by cases b <;> rfl

end fields

theorem and_left {a b : Bool} (h : (a && b) = true) : a = true := (Bool.and_eq_true _ _ ▸ h : _ ∧ _).1

theorem litOf_none (l : List Src) (h : l.find? Src.isLit = none) : litOf l = none := by
  induction l with
  | nil => rfl
  | cons x l ih => cases x <;> simp_all [litOf, Src.isLit]

theorem litOf_some (l : List Src) (y : Src) (h : l.find? Src.isLit = some y) : ∃ v, y = .lit v ∧ litOf l = some v := by
  induction l with
  | nil => simp at h
  | cons x l ih =>
    cases x with
    | reg r => exact ih (by simpa [Src.isLit] using h)
    | lit v => exact ⟨v, (Option.some.inj (h : some (Src.lit v) = some y)).symm, rfl⟩

/-- Each source of a list that shares its literal is read back from its field (R57). -/
theorem src_of (l : List Src) (h : litsAgree l = true) (x : Src) (hx : x ∈ l) (r : Raw) (hr : r.lit = litOf l) :
    r.src x.field = x := by
  unfold litsAgree at h
  cases hf : l.find? Src.isLit with
  | none =>
    have hn := litOf_none l hf
    have := List.find?_eq_none.mp hf x hx
    cases x <;> simp_all [Raw.src, Src.field, Src.isLit]
  | some y =>
    obtain ⟨v, rfl, hv⟩ := litOf_some l y hf
    rw [hf] at h
    have := List.all_eq_true.mp h x hx
    cases x <;> simp_all [Raw.src, Src.field, Src.isLit]

/-! ### The family -/

/-- The record of a well-formed instruction is read back as the instruction; an event has no record. -/
def Laws.RoundTrip.Statement (i : Instr) : Prop :=
  (i.wf = true → ∀ r, i.raw? = some r → r.candidate = some i) ∧ (i.raw? = none → encode i = [])

/-- An event has no record and no words. -/
theorem Laws.RoundTrip.of_event (i : Instr) (h : i.raw? = none) : Laws.RoundTrip.Statement i :=
  And.intro (fun _ r e => by rw [h] at e; exact nomatch e) fun _ => by unfold encode; rw [h]

/-- An instruction with words: its record is read back. -/
theorem Laws.RoundTrip.of_word (i : Instr) (r : Raw) (hr : i.raw? = some r) (h : i.wf = true → r.candidate = some i) :
    Laws.RoundTrip.Statement i :=
  And.intro (fun w q e => by rw [hr] at e; exact Option.some.inj e ▸ h w) fun e => by rw [hr] at e; exact nomatch e

theorem Laws.RoundTrip.nop (g : Guard) : Laws.RoundTrip.Statement (.nop g) := by
  refine Laws.RoundTrip.of_word _ _ rfl fun w => ?_
  rw [show ∀ r : Raw, r.op = 0x00 → r.candidate = (some (.nop r.guard)) from
    fun r h => by rcases r; cases h; rfl]
  · dsimp only [Raw.guard, Option.isSome, Option.getD]
    try simp (disch := decide) only [field_high, field_low, field_all, bit_low, bit_high, bit_bool]
    try simp
  · rfl
theorem Laws.RoundTrip.pad (label : BitVec 16) : Laws.RoundTrip.Statement (.pad label) := by
  refine Laws.RoundTrip.of_word _ _ rfl fun w => ?_
  rw [show ∀ r : Raw, r.op = 0x01 → r.candidate = (some (.pad (r.b.extractLsb' 0 4 ++ r.a ++ r.d))) from
    fun r h => by rcases r; cases h; rfl]
  · dsimp only [Raw.guard, Option.isSome, Option.getD]
    try simp (disch := decide) only [field_high, field_low, field_all, bit_low, bit_high, bit_bool]
    simp
    rw [show label.extractLsb' 12 4 ++ label.extractLsb' 6 6 = label.extractLsb' 6 10 from fields_join label 6 6 4]
    exact (fields_join label 0 6 10).trans (field_all label)
  · rfl
theorem Laws.RoundTrip.bra (g : Guard) (target : BitVec 16) : Laws.RoundTrip.Statement (.bra g target) := by
  refine Laws.RoundTrip.of_word _ _ rfl fun w => ?_
  rw [show ∀ r : Raw, r.op = 0x02 → r.candidate = (if r.lit.isSome then some (.braFar r.guard ((r.lit.getD 0).extractLsb' 0 32)) else some (.bra r.guard r.imm)) from
    fun r h => by rcases r; cases h; rfl]
  · dsimp only [Raw.guard, Option.isSome, Option.getD]
    try simp (disch := decide) only [field_high, field_low, field_all, bit_low, bit_high, bit_bool]
    try simp
  · rfl
theorem Laws.RoundTrip.braFar (g : Guard) (target : BitVec 32) : Laws.RoundTrip.Statement (.braFar g target) := by
  refine Laws.RoundTrip.of_word _ _ rfl fun w => ?_
  rw [show ∀ r : Raw, r.op = 0x02 → r.candidate = (if r.lit.isSome then some (.braFar r.guard ((r.lit.getD 0).extractLsb' 0 32)) else some (.bra r.guard r.imm)) from
    fun r h => by rcases r; cases h; rfl]
  · dsimp only [Raw.guard, Option.isSome, Option.getD]
    try simp (disch := decide) only [field_high, field_low, field_all, bit_low, bit_high, bit_bool]
    try simp
  · rfl
theorem Laws.RoundTrip.brx (g : Guard) (jt : BitVec 6) (ix : Src) : Laws.RoundTrip.Statement (.brx g jt ix) := by
  refine Laws.RoundTrip.of_word _ _ rfl fun w => ?_
  have hl : litsAgree [ix] = true := by
    exact w
  rw [show ∀ r : Raw, r.op = 0x03 → r.candidate = (some (.brx r.guard r.b (r.src r.a))) from
    fun r h => by rcases r; cases h; rfl]
  · try rw [src_of _ hl ix (by simp) _ rfl]
    dsimp only [Raw.guard, Option.isSome, Option.getD]
    try simp (disch := decide) only [field_high, field_low, field_all, bit_low, bit_high, bit_bool]
    try simp
  · rfl
theorem Laws.RoundTrip.call (g : Guard) (d : Reg) (target : BitVec 16) : Laws.RoundTrip.Statement (.call g d target) := by
  refine Laws.RoundTrip.of_word _ _ rfl fun w => ?_
  rw [show ∀ r : Raw, r.op = 0x04 → r.candidate = (if r.lit.isSome then some (.callFar r.guard r.d ((r.lit.getD 0).extractLsb' 0 32)) else some (.call r.guard r.d r.imm)) from
    fun r h => by rcases r; cases h; rfl]
  · dsimp only [Raw.guard, Option.isSome, Option.getD]
    try simp (disch := decide) only [field_high, field_low, field_all, bit_low, bit_high, bit_bool]
    try simp
  · rfl
theorem Laws.RoundTrip.callFar (g : Guard) (d : Reg) (target : BitVec 32) : Laws.RoundTrip.Statement (.callFar g d target) := by
  refine Laws.RoundTrip.of_word _ _ rfl fun w => ?_
  rw [show ∀ r : Raw, r.op = 0x04 → r.candidate = (if r.lit.isSome then some (.callFar r.guard r.d ((r.lit.getD 0).extractLsb' 0 32)) else some (.call r.guard r.d r.imm)) from
    fun r h => by rcases r; cases h; rfl]
  · dsimp only [Raw.guard, Option.isSome, Option.getD]
    try simp (disch := decide) only [field_high, field_low, field_all, bit_low, bit_high, bit_bool]
    try simp
  · rfl
theorem Laws.RoundTrip.callx (g : Guard) (d : Reg) (jt : BitVec 6) (ix : Src) : Laws.RoundTrip.Statement (.callx g d jt ix) := by
  refine Laws.RoundTrip.of_word _ _ rfl fun w => ?_
  have hl : litsAgree [ix] = true := by
    exact w
  rw [show ∀ r : Raw, r.op = 0x05 → r.candidate = (some (.callx r.guard r.d r.b (r.src r.a))) from
    fun r h => by rcases r; cases h; rfl]
  · try rw [src_of _ hl ix (by simp) _ rfl]
    dsimp only [Raw.guard, Option.isSome, Option.getD]
    try simp (disch := decide) only [field_high, field_low, field_all, bit_low, bit_high, bit_bool]
    try simp
  · rfl
theorem Laws.RoundTrip.ret (g : Guard) (a : Src) : Laws.RoundTrip.Statement (.ret g a) := by
  refine Laws.RoundTrip.of_word _ _ rfl fun w => ?_
  have hl : litsAgree [a] = true := by
    exact w
  rw [show ∀ r : Raw, r.op = 0x06 → r.candidate = (some (.ret r.guard (r.src r.a))) from
    fun r h => by rcases r; cases h; rfl]
  · try rw [src_of _ hl a (by simp) _ rfl]
    dsimp only [Raw.guard, Option.isSome, Option.getD]
    try simp (disch := decide) only [field_high, field_low, field_all, bit_low, bit_high, bit_bool]
    try simp
  · rfl
theorem Laws.RoundTrip.seam (g : Guard) (n : BitVec 4) : Laws.RoundTrip.Statement (.seam g n) := by
  refine Laws.RoundTrip.of_word _ _ rfl fun w => ?_
  rw [show ∀ r : Raw, r.op = 0x07 → r.candidate = (some (.seam r.guard (r.d.extractLsb' 0 4))) from
    fun r h => by rcases r; cases h; rfl]
  · dsimp only [Raw.guard, Option.isSome, Option.getD]
    try simp (disch := decide) only [field_high, field_low, field_all, bit_low, bit_high, bit_bool]
    try simp
  · rfl
theorem Laws.RoundTrip.join (g : Guard) (n : BitVec 4) : Laws.RoundTrip.Statement (.join g n) := by
  refine Laws.RoundTrip.of_word _ _ rfl fun w => ?_
  rw [show ∀ r : Raw, r.op = 0x08 → r.candidate = (some (.join r.guard (r.d.extractLsb' 0 4))) from
    fun r h => by rcases r; cases h; rfl]
  · dsimp only [Raw.guard, Option.isSome, Option.getD]
    try simp (disch := decide) only [field_high, field_low, field_all, bit_low, bit_high, bit_bool]
    try simp
  · rfl
theorem Laws.RoundTrip.wait (g : Guard) (mask : BitVec 12) : Laws.RoundTrip.Statement (.wait g mask) := by
  refine Laws.RoundTrip.of_word _ _ rfl fun w => ?_
  rw [show ∀ r : Raw, r.op = 0x09 → r.candidate = (some (.wait r.guard (r.a ++ r.d))) from
    fun r h => by rcases r; cases h; rfl]
  · dsimp only [Raw.guard, Option.isSome, Option.getD]
    try simp (disch := decide) only [field_high, field_low, field_all, bit_low, bit_high, bit_bool]
    exact congrArg (some <| Instr.wait g ·) ((fields_join mask 0 6 6).trans (field_all mask))
  · rfl
theorem Laws.RoundTrip.cut (g : Guard) (n : BitVec 4) (target : BitVec 16) : Laws.RoundTrip.Statement (.cut g n target) := by
  refine Laws.RoundTrip.of_word _ _ rfl fun w => ?_
  rw [show ∀ r : Raw, r.op = 0x0A → r.candidate = (if r.lit.isSome then some (.cutFar r.guard (r.d.extractLsb' 0 4) ((r.lit.getD 0).extractLsb' 0 32)) else some (.cut r.guard (r.d.extractLsb' 0 4) r.imm)) from
    fun r h => by rcases r; cases h; rfl]
  · dsimp only [Raw.guard, Option.isSome, Option.getD]
    try simp (disch := decide) only [field_high, field_low, field_all, bit_low, bit_high, bit_bool]
    try simp
  · rfl
theorem Laws.RoundTrip.cutFar (g : Guard) (n : BitVec 4) (target : BitVec 32) : Laws.RoundTrip.Statement (.cutFar g n target) := by
  refine Laws.RoundTrip.of_word _ _ rfl fun w => ?_
  rw [show ∀ r : Raw, r.op = 0x0A → r.candidate = (if r.lit.isSome then some (.cutFar r.guard (r.d.extractLsb' 0 4) ((r.lit.getD 0).extractLsb' 0 32)) else some (.cut r.guard (r.d.extractLsb' 0 4) r.imm)) from
    fun r h => by rcases r; cases h; rfl]
  · dsimp only [Raw.guard, Option.isSome, Option.getD]
    try simp (disch := decide) only [field_high, field_low, field_all, bit_low, bit_high, bit_bool]
    try simp
  · rfl
theorem Laws.RoundTrip.rep (g : Guard) (byReg : Bool) (a : Src) (n : BitVec 16) (sd : BitVec 2) (sa : BitVec 2) (sb : BitVec 2) (sc : BitVec 2) : Laws.RoundTrip.Statement (.rep g byReg a n sd sa sb sc) := by
  refine Laws.RoundTrip.of_word _ _ rfl fun w => ?_
  have hl : litsAgree [a] = true := by
    exact and_left w
  rw [show ∀ r : Raw, r.op = 0x0B → r.candidate = (some (.rep r.guard (r.mod.getLsbD 8) (r.src r.a) r.imm (r.mod.extractLsb' 0 2) (r.mod.extractLsb' 2 2) (r.mod.extractLsb' 4 2) (r.mod.extractLsb' 6 2))) from
    fun r h => by rcases r; cases h; rfl]
  · try rw [src_of _ hl a (by simp) _ rfl]
    dsimp only [Raw.guard, Option.isSome, Option.getD]
    try simp (disch := decide) only [field_high, field_low, field_all, bit_low, bit_high, bit_bool]
    try simp
  · rfl
theorem Laws.RoundTrip.exit (g : Guard) : Laws.RoundTrip.Statement (.exit g) := by
  refine Laws.RoundTrip.of_word _ _ rfl fun w => ?_
  rw [show ∀ r : Raw, r.op = 0x0C → r.candidate = (some (.exit r.guard)) from
    fun r h => by rcases r; cases h; rfl]
  · dsimp only [Raw.guard, Option.isSome, Option.getD]
    try simp (disch := decide) only [field_high, field_low, field_all, bit_low, bit_high, bit_bool]
    try simp
  · rfl
theorem Laws.RoundTrip.yield (g : Guard) : Laws.RoundTrip.Statement (.yield g) := by
  refine Laws.RoundTrip.of_word _ _ rfl fun w => ?_
  rw [show ∀ r : Raw, r.op = 0x0D → r.candidate = (some (.yield r.guard)) from
    fun r h => by rcases r; cases h; rfl]
  · dsimp only [Raw.guard, Option.isSome, Option.getD]
    try simp (disch := decide) only [field_high, field_low, field_all, bit_low, bit_high, bit_bool]
    try simp
  · rfl
theorem Laws.RoundTrip.dqput (g : Guard) (pd : BitVec 3) (a : Src) : Laws.RoundTrip.Statement (.dqput g pd a) := by
  refine Laws.RoundTrip.of_word _ _ rfl fun w => ?_
  have hl : litsAgree [a] = true := by
    exact w
  rw [show ∀ r : Raw, r.op = 0x0E → r.candidate = (some (.dqput r.guard (r.d.extractLsb' 0 3) (r.src r.a))) from
    fun r h => by rcases r; cases h; rfl]
  · try rw [src_of _ hl a (by simp) _ rfl]
    dsimp only [Raw.guard, Option.isSome, Option.getD]
    try simp (disch := decide) only [field_high, field_low, field_all, bit_low, bit_high, bit_bool]
    try simp
  · rfl
theorem Laws.RoundTrip.dqget (g : Guard) (d : Reg) : Laws.RoundTrip.Statement (.dqget g d) := by
  refine Laws.RoundTrip.of_word _ _ rfl fun w => ?_
  rw [show ∀ r : Raw, r.op = 0x0F → r.candidate = (if r.mod.extractLsb' 0 1 == 1#1 then some (.dqgetLo r.guard r.d) else some (.dqget r.guard r.d)) from
    fun r h => by rcases r; cases h; rfl]
  · dsimp only [Raw.guard, Option.isSome, Option.getD]
    try simp (disch := decide) only [field_high, field_low, field_all, bit_low, bit_high, bit_bool]
    try simp
  · rfl
theorem Laws.RoundTrip.dqgetLo (g : Guard) (d : Reg) : Laws.RoundTrip.Statement (.dqgetLo g d) := by
  refine Laws.RoundTrip.of_word _ _ rfl fun w => ?_
  rw [show ∀ r : Raw, r.op = 0x0F → r.candidate = (if r.mod.extractLsb' 0 1 == 1#1 then some (.dqgetLo r.guard r.d) else some (.dqget r.guard r.d)) from
    fun r h => by rcases r; cases h; rfl]
  · dsimp only [Raw.guard, Option.isSome, Option.getD]
    try simp (disch := decide) only [field_high, field_low, field_all, bit_low, bit_high, bit_bool]
    try simp
  · rfl
theorem Laws.RoundTrip.dqpeek (g : Guard) (d : Reg) (pb : BitVec 3) : Laws.RoundTrip.Statement (.dqpeek g d pb) := by
  refine Laws.RoundTrip.of_word _ _ rfl fun w => ?_
  rw [show ∀ r : Raw, r.op = 0x10 → r.candidate = (if r.mod.extractLsb' 0 1 == 1#1 then some (.dqpeekLo r.guard r.d (r.b.extractLsb' 0 3)) else some (.dqpeek r.guard r.d (r.b.extractLsb' 0 3))) from
    fun r h => by rcases r; cases h; rfl]
  · dsimp only [Raw.guard, Option.isSome, Option.getD]
    try simp (disch := decide) only [field_high, field_low, field_all, bit_low, bit_high, bit_bool]
    try simp
  · rfl
theorem Laws.RoundTrip.dqpeekLo (g : Guard) (d : Reg) (pb : BitVec 3) : Laws.RoundTrip.Statement (.dqpeekLo g d pb) := by
  refine Laws.RoundTrip.of_word _ _ rfl fun w => ?_
  rw [show ∀ r : Raw, r.op = 0x10 → r.candidate = (if r.mod.extractLsb' 0 1 == 1#1 then some (.dqpeekLo r.guard r.d (r.b.extractLsb' 0 3)) else some (.dqpeek r.guard r.d (r.b.extractLsb' 0 3))) from
    fun r h => by rcases r; cases h; rfl]
  · dsimp only [Raw.guard, Option.isSome, Option.getD]
    try simp (disch := decide) only [field_high, field_low, field_all, bit_low, bit_high, bit_bool]
    try simp
  · rfl
theorem Laws.RoundTrip.mov (g : Guard) (d : Reg) (a : Src) (t : Option Fmt) : Laws.RoundTrip.Statement (.mov g d a t) := by
  refine Laws.RoundTrip.of_word _ _ rfl fun w => ?_
  have hl : litsAgree [a] = true := by
    exact and_left w
  rw [show ∀ r : Raw, r.op = 0x20 → r.candidate = (if r.mod.extractLsb' 6 3 == 1#3 then some (.movId r.guard r.d (r.a.extractLsb' 0 4)) else (tyOfField (r.mod.extractLsb' 0 5)).bind fun t' => some (.mov r.guard r.d (r.src r.a) t')) from
    fun r h => by rcases r; cases h; rfl]
  · try rw [src_of _ hl a (by simp) _ rfl]
    dsimp only [Raw.guard, Option.isSome, Option.getD]
    try simp (disch := decide) only [field_high, field_low, field_all, bit_low, bit_high, bit_bool]
    try simp
  · rfl
theorem Laws.RoundTrip.movId (g : Guard) (d : Reg) (i : BitVec 4) : Laws.RoundTrip.Statement (.movId g d i) := by
  refine Laws.RoundTrip.of_word _ _ rfl fun w => ?_
  rw [show ∀ r : Raw, r.op = 0x20 → r.candidate = (if r.mod.extractLsb' 6 3 == 1#3 then some (.movId r.guard r.d (r.a.extractLsb' 0 4)) else (tyOfField (r.mod.extractLsb' 0 5)).bind fun t' => some (.mov r.guard r.d (r.src r.a) t')) from
    fun r h => by rcases r; cases h; rfl]
  · dsimp only [Raw.guard, Option.isSome, Option.getD]
    try simp (disch := decide) only [field_high, field_low, field_all, bit_low, bit_high, bit_bool]
    try simp
  · rfl
theorem Laws.RoundTrip.movi (g : Guard) (d : Reg) (k : MoviKind) (imm : BitVec 16) : Laws.RoundTrip.Statement (.movi g d k imm) := by
  refine Laws.RoundTrip.of_word _ _ rfl fun w => ?_
  rw [show ∀ r : Raw, r.op = 0x21 → r.candidate = ((MoviKind.ofCode (r.mod.extractLsb' 6 3)).bind fun k' => some (.movi r.guard r.d k' r.imm)) from
    fun r h => by rcases r; cases h; rfl]
  · dsimp only [Raw.guard, Option.isSome, Option.getD]
    try simp (disch := decide) only [field_high, field_low, field_all, bit_low, bit_high, bit_bool]
    try simp
  · rfl
theorem Laws.RoundTrip.add (g : Guard) (d : Reg) (a : Src) (b : Src) (t : Option Fmt) (sat : Bool) : Laws.RoundTrip.Statement (.add g d a b t sat) := by
  refine Laws.RoundTrip.of_word _ _ rfl fun w => ?_
  have hl : litsAgree [a, b] = true := by
    exact and_left w
  rw [show ∀ r : Raw, r.op = 0x22 → r.candidate = ((tyOfField (r.mod.extractLsb' 0 5)).bind fun t' => some (.add r.guard r.d (r.src r.a) (r.src r.b) t' (r.mod.getLsbD 5))) from
    fun r h => by rcases r; cases h; rfl]
  · try rw [src_of _ hl a (by simp) _ rfl, src_of _ hl b (by simp) _ rfl]
    dsimp only [Raw.guard, Option.isSome, Option.getD]
    try simp (disch := decide) only [field_high, field_low, field_all, bit_low, bit_high, bit_bool]
    try simp
  · rfl
theorem Laws.RoundTrip.sub (g : Guard) (d : Reg) (a : Src) (b : Src) (t : Option Fmt) (sat : Bool) : Laws.RoundTrip.Statement (.sub g d a b t sat) := by
  refine Laws.RoundTrip.of_word _ _ rfl fun w => ?_
  have hl : litsAgree [a, b] = true := by
    exact and_left w
  rw [show ∀ r : Raw, r.op = 0x23 → r.candidate = ((tyOfField (r.mod.extractLsb' 0 5)).bind fun t' => some (.sub r.guard r.d (r.src r.a) (r.src r.b) t' (r.mod.getLsbD 5))) from
    fun r h => by rcases r; cases h; rfl]
  · try rw [src_of _ hl a (by simp) _ rfl, src_of _ hl b (by simp) _ rfl]
    dsimp only [Raw.guard, Option.isSome, Option.getD]
    try simp (disch := decide) only [field_high, field_low, field_all, bit_low, bit_high, bit_bool]
    try simp
  · rfl
theorem Laws.RoundTrip.addc (g : Guard) (d : Reg) (a : Src) (b : Src) (pc : BitVec 3) : Laws.RoundTrip.Statement (.addc g d a b pc) := by
  refine Laws.RoundTrip.of_word _ _ rfl fun w => ?_
  have hl : litsAgree [a, b] = true := by
    exact w
  rw [show ∀ r : Raw, r.op = 0x24 → r.candidate = (some (.addc r.guard r.d (r.src r.a) (r.src r.b) (r.c.extractLsb' 0 3))) from
    fun r h => by rcases r; cases h; rfl]
  · try rw [src_of _ hl a (by simp) _ rfl, src_of _ hl b (by simp) _ rfl]
    dsimp only [Raw.guard, Option.isSome, Option.getD]
    try simp (disch := decide) only [field_high, field_low, field_all, bit_low, bit_high, bit_bool]
    try simp
  · rfl
theorem Laws.RoundTrip.subb (g : Guard) (d : Reg) (a : Src) (b : Src) (pc : BitVec 3) : Laws.RoundTrip.Statement (.subb g d a b pc) := by
  refine Laws.RoundTrip.of_word _ _ rfl fun w => ?_
  have hl : litsAgree [a, b] = true := by
    exact w
  rw [show ∀ r : Raw, r.op = 0x25 → r.candidate = (some (.subb r.guard r.d (r.src r.a) (r.src r.b) (r.c.extractLsb' 0 3))) from
    fun r h => by rcases r; cases h; rfl]
  · try rw [src_of _ hl a (by simp) _ rfl, src_of _ hl b (by simp) _ rfl]
    dsimp only [Raw.guard, Option.isSome, Option.getD]
    try simp (disch := decide) only [field_high, field_low, field_all, bit_low, bit_high, bit_bool]
    try simp
  · rfl
theorem Laws.RoundTrip.mul (g : Guard) (d : Reg) (a : Src) (b : Src) (t : Option Fmt) (sat : Bool) : Laws.RoundTrip.Statement (.mul g d a b t sat) := by
  refine Laws.RoundTrip.of_word _ _ rfl fun w => ?_
  have hl : litsAgree [a, b] = true := by
    exact and_left w
  rw [show ∀ r : Raw, r.op = 0x26 → r.candidate = ((tyOfField (r.mod.extractLsb' 0 5)).bind fun t' => some (.mul r.guard r.d (r.src r.a) (r.src r.b) t' (r.mod.getLsbD 5))) from
    fun r h => by rcases r; cases h; rfl]
  · try rw [src_of _ hl a (by simp) _ rfl, src_of _ hl b (by simp) _ rfl]
    dsimp only [Raw.guard, Option.isSome, Option.getD]
    try simp (disch := decide) only [field_high, field_low, field_all, bit_low, bit_high, bit_bool]
    try simp
  · rfl
theorem Laws.RoundTrip.mulhi (g : Guard) (d : Reg) (a : Src) (b : Src) (t : Option Fmt) : Laws.RoundTrip.Statement (.mulhi g d a b t) := by
  refine Laws.RoundTrip.of_word _ _ rfl fun w => ?_
  have hl : litsAgree [a, b] = true := by
    exact and_left w
  rw [show ∀ r : Raw, r.op = 0x27 → r.candidate = ((tyOfField (r.mod.extractLsb' 0 5)).bind fun t' => some (.mulhi r.guard r.d (r.src r.a) (r.src r.b) t')) from
    fun r h => by rcases r; cases h; rfl]
  · try rw [src_of _ hl a (by simp) _ rfl, src_of _ hl b (by simp) _ rfl]
    dsimp only [Raw.guard, Option.isSome, Option.getD]
    try simp (disch := decide) only [field_high, field_low, field_all, bit_low, bit_high, bit_bool]
    try simp
  · rfl
theorem Laws.RoundTrip.mulw (g : Guard) (d : Reg) (a : Src) (b : Src) (t : Option Fmt) : Laws.RoundTrip.Statement (.mulw g d a b t) := by
  refine Laws.RoundTrip.of_word _ _ rfl fun w => ?_
  have hl : litsAgree [a, b] = true := by
    exact and_left w
  rw [show ∀ r : Raw, r.op = 0x28 → r.candidate = ((tyOfField (r.mod.extractLsb' 0 5)).bind fun t' => some (.mulw r.guard r.d (r.src r.a) (r.src r.b) t')) from
    fun r h => by rcases r; cases h; rfl]
  · try rw [src_of _ hl a (by simp) _ rfl, src_of _ hl b (by simp) _ rfl]
    dsimp only [Raw.guard, Option.isSome, Option.getD]
    try simp (disch := decide) only [field_high, field_low, field_all, bit_low, bit_high, bit_bool]
    try simp
  · rfl
theorem Laws.RoundTrip.mad (g : Guard) (d : Reg) (a : Src) (b : Src) (c : Src) (t : Option Fmt) (sat : Bool) : Laws.RoundTrip.Statement (.mad g d a b c t sat) := by
  refine Laws.RoundTrip.of_word _ _ rfl fun w => ?_
  have hl : litsAgree [a, b, c] = true := by
    exact and_left w
  rw [show ∀ r : Raw, r.op = 0x29 → r.candidate = ((tyOfField (r.mod.extractLsb' 0 5)).bind fun t' => some (.mad r.guard r.d (r.src r.a) (r.src r.b) (r.src r.c) t' (r.mod.getLsbD 5))) from
    fun r h => by rcases r; cases h; rfl]
  · try rw [src_of _ hl a (by simp) _ rfl, src_of _ hl b (by simp) _ rfl, src_of _ hl c (by simp) _ rfl]
    dsimp only [Raw.guard, Option.isSome, Option.getD]
    try simp (disch := decide) only [field_high, field_low, field_all, bit_low, bit_high, bit_bool]
    try simp
  · rfl
theorem Laws.RoundTrip.min (g : Guard) (d : Reg) (a : Src) (b : Src) (t : Option Fmt) : Laws.RoundTrip.Statement (.min g d a b t) := by
  refine Laws.RoundTrip.of_word _ _ rfl fun w => ?_
  have hl : litsAgree [a, b] = true := by
    exact and_left w
  rw [show ∀ r : Raw, r.op = 0x2A → r.candidate = ((tyOfField (r.mod.extractLsb' 0 5)).bind fun t' => some (.min r.guard r.d (r.src r.a) (r.src r.b) t')) from
    fun r h => by rcases r; cases h; rfl]
  · try rw [src_of _ hl a (by simp) _ rfl, src_of _ hl b (by simp) _ rfl]
    dsimp only [Raw.guard, Option.isSome, Option.getD]
    try simp (disch := decide) only [field_high, field_low, field_all, bit_low, bit_high, bit_bool]
    try simp
  · rfl
theorem Laws.RoundTrip.max (g : Guard) (d : Reg) (a : Src) (b : Src) (t : Option Fmt) : Laws.RoundTrip.Statement (.max g d a b t) := by
  refine Laws.RoundTrip.of_word _ _ rfl fun w => ?_
  have hl : litsAgree [a, b] = true := by
    exact and_left w
  rw [show ∀ r : Raw, r.op = 0x2B → r.candidate = ((tyOfField (r.mod.extractLsb' 0 5)).bind fun t' => some (.max r.guard r.d (r.src r.a) (r.src r.b) t')) from
    fun r h => by rcases r; cases h; rfl]
  · try rw [src_of _ hl a (by simp) _ rfl, src_of _ hl b (by simp) _ rfl]
    dsimp only [Raw.guard, Option.isSome, Option.getD]
    try simp (disch := decide) only [field_high, field_low, field_all, bit_low, bit_high, bit_bool]
    try simp
  · rfl
theorem Laws.RoundTrip.abs (g : Guard) (d : Reg) (a : Src) (t : Option Fmt) (sat : Bool) : Laws.RoundTrip.Statement (.abs g d a t sat) := by
  refine Laws.RoundTrip.of_word _ _ rfl fun w => ?_
  have hl : litsAgree [a] = true := by
    exact and_left w
  rw [show ∀ r : Raw, r.op = 0x2C → r.candidate = ((tyOfField (r.mod.extractLsb' 0 5)).bind fun t' => some (.abs r.guard r.d (r.src r.a) t' (r.mod.getLsbD 5))) from
    fun r h => by rcases r; cases h; rfl]
  · try rw [src_of _ hl a (by simp) _ rfl]
    dsimp only [Raw.guard, Option.isSome, Option.getD]
    try simp (disch := decide) only [field_high, field_low, field_all, bit_low, bit_high, bit_bool]
    try simp
  · rfl
theorem Laws.RoundTrip.and (g : Guard) (d : Reg) (a : Src) (b : Src) (t : Option Fmt) : Laws.RoundTrip.Statement (.and g d a b t) := by
  refine Laws.RoundTrip.of_word _ _ rfl fun w => ?_
  have hl : litsAgree [a, b] = true := by
    exact and_left w
  rw [show ∀ r : Raw, r.op = 0x2D → r.candidate = ((tyOfField (r.mod.extractLsb' 0 5)).bind fun t' => some (.and r.guard r.d (r.src r.a) (r.src r.b) t')) from
    fun r h => by rcases r; cases h; rfl]
  · try rw [src_of _ hl a (by simp) _ rfl, src_of _ hl b (by simp) _ rfl]
    dsimp only [Raw.guard, Option.isSome, Option.getD]
    try simp (disch := decide) only [field_high, field_low, field_all, bit_low, bit_high, bit_bool]
    try simp
  · rfl
theorem Laws.RoundTrip.or (g : Guard) (d : Reg) (a : Src) (b : Src) (t : Option Fmt) : Laws.RoundTrip.Statement (.or g d a b t) := by
  refine Laws.RoundTrip.of_word _ _ rfl fun w => ?_
  have hl : litsAgree [a, b] = true := by
    exact and_left w
  rw [show ∀ r : Raw, r.op = 0x2E → r.candidate = ((tyOfField (r.mod.extractLsb' 0 5)).bind fun t' => some (.or r.guard r.d (r.src r.a) (r.src r.b) t')) from
    fun r h => by rcases r; cases h; rfl]
  · try rw [src_of _ hl a (by simp) _ rfl, src_of _ hl b (by simp) _ rfl]
    dsimp only [Raw.guard, Option.isSome, Option.getD]
    try simp (disch := decide) only [field_high, field_low, field_all, bit_low, bit_high, bit_bool]
    try simp
  · rfl
theorem Laws.RoundTrip.xor (g : Guard) (d : Reg) (a : Src) (b : Src) (t : Option Fmt) : Laws.RoundTrip.Statement (.xor g d a b t) := by
  refine Laws.RoundTrip.of_word _ _ rfl fun w => ?_
  have hl : litsAgree [a, b] = true := by
    exact and_left w
  rw [show ∀ r : Raw, r.op = 0x2F → r.candidate = ((tyOfField (r.mod.extractLsb' 0 5)).bind fun t' => some (.xor r.guard r.d (r.src r.a) (r.src r.b) t')) from
    fun r h => by rcases r; cases h; rfl]
  · try rw [src_of _ hl a (by simp) _ rfl, src_of _ hl b (by simp) _ rfl]
    dsimp only [Raw.guard, Option.isSome, Option.getD]
    try simp (disch := decide) only [field_high, field_low, field_all, bit_low, bit_high, bit_bool]
    try simp
  · rfl
theorem Laws.RoundTrip.andn (g : Guard) (d : Reg) (a : Src) (b : Src) (t : Option Fmt) : Laws.RoundTrip.Statement (.andn g d a b t) := by
  refine Laws.RoundTrip.of_word _ _ rfl fun w => ?_
  have hl : litsAgree [a, b] = true := by
    exact and_left w
  rw [show ∀ r : Raw, r.op = 0x30 → r.candidate = ((tyOfField (r.mod.extractLsb' 0 5)).bind fun t' => some (.andn r.guard r.d (r.src r.a) (r.src r.b) t')) from
    fun r h => by rcases r; cases h; rfl]
  · try rw [src_of _ hl a (by simp) _ rfl, src_of _ hl b (by simp) _ rfl]
    dsimp only [Raw.guard, Option.isSome, Option.getD]
    try simp (disch := decide) only [field_high, field_low, field_all, bit_low, bit_high, bit_bool]
    try simp
  · rfl
theorem Laws.RoundTrip.shl (g : Guard) (d : Reg) (a : Src) (b : Src) (t : Option Fmt) : Laws.RoundTrip.Statement (.shl g d a b t) := by
  refine Laws.RoundTrip.of_word _ _ rfl fun w => ?_
  have hl : litsAgree [a, b] = true := by
    exact and_left w
  rw [show ∀ r : Raw, r.op = 0x31 → r.candidate = ((tyOfField (r.mod.extractLsb' 0 5)).bind fun t' => some (.shl r.guard r.d (r.src r.a) (r.src r.b) t')) from
    fun r h => by rcases r; cases h; rfl]
  · try rw [src_of _ hl a (by simp) _ rfl, src_of _ hl b (by simp) _ rfl]
    dsimp only [Raw.guard, Option.isSome, Option.getD]
    try simp (disch := decide) only [field_high, field_low, field_all, bit_low, bit_high, bit_bool]
    try simp
  · rfl
theorem Laws.RoundTrip.shr (g : Guard) (d : Reg) (a : Src) (b : Src) (t : Option Fmt) : Laws.RoundTrip.Statement (.shr g d a b t) := by
  refine Laws.RoundTrip.of_word _ _ rfl fun w => ?_
  have hl : litsAgree [a, b] = true := by
    exact and_left w
  rw [show ∀ r : Raw, r.op = 0x32 → r.candidate = ((tyOfField (r.mod.extractLsb' 0 5)).bind fun t' => some (.shr r.guard r.d (r.src r.a) (r.src r.b) t')) from
    fun r h => by rcases r; cases h; rfl]
  · try rw [src_of _ hl a (by simp) _ rfl, src_of _ hl b (by simp) _ rfl]
    dsimp only [Raw.guard, Option.isSome, Option.getD]
    try simp (disch := decide) only [field_high, field_low, field_all, bit_low, bit_high, bit_bool]
    try simp
  · rfl
theorem Laws.RoundTrip.sar (g : Guard) (d : Reg) (a : Src) (b : Src) (t : Option Fmt) : Laws.RoundTrip.Statement (.sar g d a b t) := by
  refine Laws.RoundTrip.of_word _ _ rfl fun w => ?_
  have hl : litsAgree [a, b] = true := by
    exact and_left w
  rw [show ∀ r : Raw, r.op = 0x33 → r.candidate = ((tyOfField (r.mod.extractLsb' 0 5)).bind fun t' => some (.sar r.guard r.d (r.src r.a) (r.src r.b) t')) from
    fun r h => by rcases r; cases h; rfl]
  · try rw [src_of _ hl a (by simp) _ rfl, src_of _ hl b (by simp) _ rfl]
    dsimp only [Raw.guard, Option.isSome, Option.getD]
    try simp (disch := decide) only [field_high, field_low, field_all, bit_low, bit_high, bit_bool]
    try simp
  · rfl
theorem Laws.RoundTrip.rot (g : Guard) (d : Reg) (a : Src) (b : Src) (t : Option Fmt) : Laws.RoundTrip.Statement (.rot g d a b t) := by
  refine Laws.RoundTrip.of_word _ _ rfl fun w => ?_
  have hl : litsAgree [a, b] = true := by
    exact and_left w
  rw [show ∀ r : Raw, r.op = 0x34 → r.candidate = ((tyOfField (r.mod.extractLsb' 0 5)).bind fun t' => some (.rot r.guard r.d (r.src r.a) (r.src r.b) t')) from
    fun r h => by rcases r; cases h; rfl]
  · try rw [src_of _ hl a (by simp) _ rfl, src_of _ hl b (by simp) _ rfl]
    dsimp only [Raw.guard, Option.isSome, Option.getD]
    try simp (disch := decide) only [field_high, field_low, field_all, bit_low, bit_high, bit_bool]
    try simp
  · rfl
theorem Laws.RoundTrip.bfx (g : Guard) (d : Reg) (a : Src) (b : Src) (t : Option Fmt) : Laws.RoundTrip.Statement (.bfx g d a b t) := by
  refine Laws.RoundTrip.of_word _ _ rfl fun w => ?_
  have hl : litsAgree [a, b] = true := by
    exact and_left w
  rw [show ∀ r : Raw, r.op = 0x35 → r.candidate = ((tyOfField (r.mod.extractLsb' 0 5)).bind fun t' => some (.bfx r.guard r.d (r.src r.a) (r.src r.b) t')) from
    fun r h => by rcases r; cases h; rfl]
  · try rw [src_of _ hl a (by simp) _ rfl, src_of _ hl b (by simp) _ rfl]
    dsimp only [Raw.guard, Option.isSome, Option.getD]
    try simp (disch := decide) only [field_high, field_low, field_all, bit_low, bit_high, bit_bool]
    try simp
  · rfl
theorem Laws.RoundTrip.bfi (g : Guard) (d : Reg) (a : Src) (b : Src) (c : Src) (t : Option Fmt) : Laws.RoundTrip.Statement (.bfi g d a b c t) := by
  refine Laws.RoundTrip.of_word _ _ rfl fun w => ?_
  have hl : litsAgree [a, b, c] = true := by
    exact and_left w
  rw [show ∀ r : Raw, r.op = 0x36 → r.candidate = ((tyOfField (r.mod.extractLsb' 0 5)).bind fun t' => some (.bfi r.guard r.d (r.src r.a) (r.src r.b) (r.src r.c) t')) from
    fun r h => by rcases r; cases h; rfl]
  · try rw [src_of _ hl a (by simp) _ rfl, src_of _ hl b (by simp) _ rfl, src_of _ hl c (by simp) _ rfl]
    dsimp only [Raw.guard, Option.isSome, Option.getD]
    try simp (disch := decide) only [field_high, field_low, field_all, bit_low, bit_high, bit_bool]
    try simp
  · rfl
theorem Laws.RoundTrip.popc (g : Guard) (d : Reg) (a : Src) (t : Option Fmt) : Laws.RoundTrip.Statement (.popc g d a t) := by
  refine Laws.RoundTrip.of_word _ _ rfl fun w => ?_
  have hl : litsAgree [a] = true := by
    exact and_left w
  rw [show ∀ r : Raw, r.op = 0x37 → r.candidate = ((tyOfField (r.mod.extractLsb' 0 5)).bind fun t' => some (.popc r.guard r.d (r.src r.a) t')) from
    fun r h => by rcases r; cases h; rfl]
  · try rw [src_of _ hl a (by simp) _ rfl]
    dsimp only [Raw.guard, Option.isSome, Option.getD]
    try simp (disch := decide) only [field_high, field_low, field_all, bit_low, bit_high, bit_bool]
    try simp
  · rfl
theorem Laws.RoundTrip.clz (g : Guard) (d : Reg) (a : Src) (t : Option Fmt) : Laws.RoundTrip.Statement (.clz g d a t) := by
  refine Laws.RoundTrip.of_word _ _ rfl fun w => ?_
  have hl : litsAgree [a] = true := by
    exact and_left w
  rw [show ∀ r : Raw, r.op = 0x38 → r.candidate = ((tyOfField (r.mod.extractLsb' 0 5)).bind fun t' => some (.clz r.guard r.d (r.src r.a) t')) from
    fun r h => by rcases r; cases h; rfl]
  · try rw [src_of _ hl a (by simp) _ rfl]
    dsimp only [Raw.guard, Option.isSome, Option.getD]
    try simp (disch := decide) only [field_high, field_low, field_all, bit_low, bit_high, bit_bool]
    try simp
  · rfl
theorem Laws.RoundTrip.brev (g : Guard) (d : Reg) (a : Src) (t : Option Fmt) : Laws.RoundTrip.Statement (.brev g d a t) := by
  refine Laws.RoundTrip.of_word _ _ rfl fun w => ?_
  have hl : litsAgree [a] = true := by
    exact and_left w
  rw [show ∀ r : Raw, r.op = 0x39 → r.candidate = ((tyOfField (r.mod.extractLsb' 0 5)).bind fun t' => some (.brev r.guard r.d (r.src r.a) t')) from
    fun r h => by rcases r; cases h; rfl]
  · try rw [src_of _ hl a (by simp) _ rfl]
    dsimp only [Raw.guard, Option.isSome, Option.getD]
    try simp (disch := decide) only [field_high, field_low, field_all, bit_low, bit_high, bit_bool]
    try simp
  · rfl
theorem Laws.RoundTrip.bpick (g : Guard) (d : Reg) (a : Src) (b : Src) (byReg : Bool) (c : Src) (pick : BitVec 16) : Laws.RoundTrip.Statement (.bpick g d a b byReg c pick) := by
  refine Laws.RoundTrip.of_word _ _ rfl fun w => ?_
  have hl : litsAgree [a, b, c] = true := by
    exact and_left w
  rw [show ∀ r : Raw, r.op = 0x3A → r.candidate = (some (.bpick r.guard r.d (r.src r.a) (r.src r.b) (r.mod.getLsbD 6) (r.src r.c) r.imm)) from
    fun r h => by rcases r; cases h; rfl]
  · try rw [src_of _ hl a (by simp) _ rfl, src_of _ hl b (by simp) _ rfl, src_of _ hl c (by simp) _ rfl]
    dsimp only [Raw.guard, Option.isSome, Option.getD]
    try simp (disch := decide) only [field_high, field_low, field_all, bit_low, bit_high, bit_bool]
    try simp
  · rfl
theorem Laws.RoundTrip.lea (g : Guard) (d : Reg) (a : Src) (b : Src) (s : BitVec 3) (t : Option Fmt) : Laws.RoundTrip.Statement (.lea g d a b s t) := by
  refine Laws.RoundTrip.of_word _ _ rfl fun w => ?_
  have hl : litsAgree [a, b] = true := by
    exact and_left w
  rw [show ∀ r : Raw, r.op = 0x3B → r.candidate = ((tyOfField (r.mod.extractLsb' 0 5)).bind fun t' => some (.lea r.guard r.d (r.src r.a) (r.src r.b) (r.imm.extractLsb' 0 3) t')) from
    fun r h => by rcases r; cases h; rfl]
  · try rw [src_of _ hl a (by simp) _ rfl, src_of _ hl b (by simp) _ rfl]
    dsimp only [Raw.guard, Option.isSome, Option.getD]
    try simp (disch := decide) only [field_high, field_low, field_all, bit_low, bit_high, bit_bool]
    try simp
  · rfl
theorem Laws.RoundTrip.cmp (g : Guard) (cond : Cond) (pd : BitVec 3) (a : Src) (b : Src) (t : Option Fmt) : Laws.RoundTrip.Statement (.cmp g cond pd a b t) := by
  refine Laws.RoundTrip.of_word _ _ rfl fun w => ?_
  have hl : litsAgree [a, b] = true := by
    exact and_left w
  rw [show ∀ r : Raw, r.op = 0x3C → r.candidate = ((Cond.ofCode (r.mod.extractLsb' 6 3)).bind fun cond' => (tyOfField (r.mod.extractLsb' 0 5)).bind fun t' => some (.cmp r.guard cond' (r.d.extractLsb' 0 3) (r.src r.a) (r.src r.b) t')) from
    fun r h => by rcases r; cases h; rfl]
  · try rw [src_of _ hl a (by simp) _ rfl, src_of _ hl b (by simp) _ rfl]
    dsimp only [Raw.guard, Option.isSome, Option.getD]
    try simp (disch := decide) only [field_high, field_low, field_all, bit_low, bit_high, bit_bool]
    try simp
  · rfl
theorem Laws.RoundTrip.sel (g : Guard) (d : Reg) (a : Src) (b : Src) (pc : BitVec 3) (neg : Bool) (t : Option Fmt) : Laws.RoundTrip.Statement (.sel g d a b pc neg t) := by
  refine Laws.RoundTrip.of_word _ _ rfl fun w => ?_
  have hl : litsAgree [a, b] = true := by
    exact and_left w
  rw [show ∀ r : Raw, r.op = 0x3D → r.candidate = ((tyOfField (r.mod.extractLsb' 0 5)).bind fun t' => some (.sel r.guard r.d (r.src r.a) (r.src r.b) (r.c.extractLsb' 0 3) (r.mod.getLsbD 6) t')) from
    fun r h => by rcases r; cases h; rfl]
  · try rw [src_of _ hl a (by simp) _ rfl, src_of _ hl b (by simp) _ rfl]
    dsimp only [Raw.guard, Option.isSome, Option.getD]
    try simp (disch := decide) only [field_high, field_low, field_all, bit_low, bit_high, bit_bool]
    try simp
  · rfl
theorem Laws.RoundTrip.plop (g : Guard) (pd : BitVec 3) (pa : BitVec 3) (pb : BitVec 3) (pc : BitVec 3) (lut : BitVec 8) : Laws.RoundTrip.Statement (.plop g pd pa pb pc lut) := by
  refine Laws.RoundTrip.of_word _ _ rfl fun w => ?_
  rw [show ∀ r : Raw, r.op = 0x3E → r.candidate = (if r.mod.extractLsb' 6 3 == 1#3 then some (.plopPk r.guard r.d) else if r.mod.extractLsb' 6 3 == 2#3 then some (.plopUpk r.guard (r.src r.a) (r.imm.extractLsb' 0 7)) else some (.plop r.guard (r.d.extractLsb' 0 3) (r.a.extractLsb' 0 3) (r.b.extractLsb' 0 3) (r.c.extractLsb' 0 3) (r.imm.extractLsb' 0 8))) from
    fun r h => by rcases r; cases h; rfl]
  · dsimp only [Raw.guard, Option.isSome, Option.getD]
    try simp (disch := decide) only [field_high, field_low, field_all, bit_low, bit_high, bit_bool]
    try simp
  · rfl
theorem Laws.RoundTrip.plopPk (g : Guard) (d : Reg) : Laws.RoundTrip.Statement (.plopPk g d) := by
  refine Laws.RoundTrip.of_word _ _ rfl fun w => ?_
  rw [show ∀ r : Raw, r.op = 0x3E → r.candidate = (if r.mod.extractLsb' 6 3 == 1#3 then some (.plopPk r.guard r.d) else if r.mod.extractLsb' 6 3 == 2#3 then some (.plopUpk r.guard (r.src r.a) (r.imm.extractLsb' 0 7)) else some (.plop r.guard (r.d.extractLsb' 0 3) (r.a.extractLsb' 0 3) (r.b.extractLsb' 0 3) (r.c.extractLsb' 0 3) (r.imm.extractLsb' 0 8))) from
    fun r h => by rcases r; cases h; rfl]
  · dsimp only [Raw.guard, Option.isSome, Option.getD]
    try simp (disch := decide) only [field_high, field_low, field_all, bit_low, bit_high, bit_bool]
    try simp
  · rfl
theorem Laws.RoundTrip.plopUpk (g : Guard) (a : Src) (mask : BitVec 7) : Laws.RoundTrip.Statement (.plopUpk g a mask) := by
  refine Laws.RoundTrip.of_word _ _ rfl fun w => ?_
  have hl : litsAgree [a] = true := by
    exact w
  rw [show ∀ r : Raw, r.op = 0x3E → r.candidate = (if r.mod.extractLsb' 6 3 == 1#3 then some (.plopPk r.guard r.d) else if r.mod.extractLsb' 6 3 == 2#3 then some (.plopUpk r.guard (r.src r.a) (r.imm.extractLsb' 0 7)) else some (.plop r.guard (r.d.extractLsb' 0 3) (r.a.extractLsb' 0 3) (r.b.extractLsb' 0 3) (r.c.extractLsb' 0 3) (r.imm.extractLsb' 0 8))) from
    fun r h => by rcases r; cases h; rfl]
  · try rw [src_of _ hl a (by simp) _ rfl]
    dsimp only [Raw.guard, Option.isSome, Option.getD]
    try simp (disch := decide) only [field_high, field_low, field_all, bit_low, bit_high, bit_bool]
    try simp
  · rfl
theorem Laws.RoundTrip.divn (g : Guard) (d : Reg) (a : Src) (b : Src) (t : Option Fmt) (sat : Bool) : Laws.RoundTrip.Statement (.divn g d a b t sat) := by
  refine Laws.RoundTrip.of_word _ _ rfl fun w => ?_
  have hl : litsAgree [a, b] = true := by
    exact and_left w
  rw [show ∀ r : Raw, r.op = 0x3F → r.candidate = ((tyOfField (r.mod.extractLsb' 0 5)).bind fun t' => some (.divn r.guard r.d (r.src r.a) (r.src r.b) t' (r.mod.getLsbD 5))) from
    fun r h => by rcases r; cases h; rfl]
  · try rw [src_of _ hl a (by simp) _ rfl, src_of _ hl b (by simp) _ rfl]
    dsimp only [Raw.guard, Option.isSome, Option.getD]
    try simp (disch := decide) only [field_high, field_low, field_all, bit_low, bit_high, bit_bool]
    try simp
  · rfl
theorem Laws.RoundTrip.fadd (g : Guard) (d : Reg) (a : Src) (b : Src) (t : Option Fmt) (rm : Round) (ftz : Bool) : Laws.RoundTrip.Statement (.fadd g d a b t rm ftz) := by
  refine Laws.RoundTrip.of_word _ _ rfl fun w => ?_
  have hl : litsAgree [a, b] = true := by
    exact and_left w
  rw [show ∀ r : Raw, r.op = 0x40 → r.candidate = ((tyOfField (r.mod.extractLsb' 0 5)).bind fun t' => (Round.ofCode (r.mod.extractLsb' 5 3)).bind fun rm' => some (.fadd r.guard r.d (r.src r.a) (r.src r.b) t' rm' (r.mod.getLsbD 8))) from
    fun r h => by rcases r; cases h; rfl]
  · try rw [src_of _ hl a (by simp) _ rfl, src_of _ hl b (by simp) _ rfl]
    dsimp only [Raw.guard, Option.isSome, Option.getD]
    try simp (disch := decide) only [field_high, field_low, field_all, bit_low, bit_high, bit_bool]
    try simp
  · rfl
theorem Laws.RoundTrip.fsub (g : Guard) (d : Reg) (a : Src) (b : Src) (t : Option Fmt) (rm : Round) (ftz : Bool) : Laws.RoundTrip.Statement (.fsub g d a b t rm ftz) := by
  refine Laws.RoundTrip.of_word _ _ rfl fun w => ?_
  have hl : litsAgree [a, b] = true := by
    exact and_left w
  rw [show ∀ r : Raw, r.op = 0x41 → r.candidate = ((tyOfField (r.mod.extractLsb' 0 5)).bind fun t' => (Round.ofCode (r.mod.extractLsb' 5 3)).bind fun rm' => some (.fsub r.guard r.d (r.src r.a) (r.src r.b) t' rm' (r.mod.getLsbD 8))) from
    fun r h => by rcases r; cases h; rfl]
  · try rw [src_of _ hl a (by simp) _ rfl, src_of _ hl b (by simp) _ rfl]
    dsimp only [Raw.guard, Option.isSome, Option.getD]
    try simp (disch := decide) only [field_high, field_low, field_all, bit_low, bit_high, bit_bool]
    try simp
  · rfl
theorem Laws.RoundTrip.fmul (g : Guard) (d : Reg) (a : Src) (b : Src) (t : Option Fmt) (rm : Round) (ftz : Bool) : Laws.RoundTrip.Statement (.fmul g d a b t rm ftz) := by
  refine Laws.RoundTrip.of_word _ _ rfl fun w => ?_
  have hl : litsAgree [a, b] = true := by
    exact and_left w
  rw [show ∀ r : Raw, r.op = 0x42 → r.candidate = ((tyOfField (r.mod.extractLsb' 0 5)).bind fun t' => (Round.ofCode (r.mod.extractLsb' 5 3)).bind fun rm' => some (.fmul r.guard r.d (r.src r.a) (r.src r.b) t' rm' (r.mod.getLsbD 8))) from
    fun r h => by rcases r; cases h; rfl]
  · try rw [src_of _ hl a (by simp) _ rfl, src_of _ hl b (by simp) _ rfl]
    dsimp only [Raw.guard, Option.isSome, Option.getD]
    try simp (disch := decide) only [field_high, field_low, field_all, bit_low, bit_high, bit_bool]
    try simp
  · rfl
theorem Laws.RoundTrip.ffma (g : Guard) (d : Reg) (a : Src) (b : Src) (c : Src) (t : Option Fmt) (rm : Round) (ftz : Bool) : Laws.RoundTrip.Statement (.ffma g d a b c t rm ftz) := by
  refine Laws.RoundTrip.of_word _ _ rfl fun w => ?_
  have hl : litsAgree [a, b, c] = true := by
    exact and_left w
  rw [show ∀ r : Raw, r.op = 0x43 → r.candidate = ((tyOfField (r.mod.extractLsb' 0 5)).bind fun t' => (Round.ofCode (r.mod.extractLsb' 5 3)).bind fun rm' => some (.ffma r.guard r.d (r.src r.a) (r.src r.b) (r.src r.c) t' rm' (r.mod.getLsbD 8))) from
    fun r h => by rcases r; cases h; rfl]
  · try rw [src_of _ hl a (by simp) _ rfl, src_of _ hl b (by simp) _ rfl, src_of _ hl c (by simp) _ rfl]
    dsimp only [Raw.guard, Option.isSome, Option.getD]
    try simp (disch := decide) only [field_high, field_low, field_all, bit_low, bit_high, bit_bool]
    try simp
  · rfl
theorem Laws.RoundTrip.fmin (g : Guard) (d : Reg) (a : Src) (b : Src) (t : Option Fmt) (ftz : Bool) : Laws.RoundTrip.Statement (.fmin g d a b t ftz) := by
  refine Laws.RoundTrip.of_word _ _ rfl fun w => ?_
  have hl : litsAgree [a, b] = true := by
    exact and_left w
  rw [show ∀ r : Raw, r.op = 0x44 → r.candidate = ((tyOfField (r.mod.extractLsb' 0 5)).bind fun t' => some (.fmin r.guard r.d (r.src r.a) (r.src r.b) t' (r.mod.getLsbD 8))) from
    fun r h => by rcases r; cases h; rfl]
  · try rw [src_of _ hl a (by simp) _ rfl, src_of _ hl b (by simp) _ rfl]
    dsimp only [Raw.guard, Option.isSome, Option.getD]
    try simp (disch := decide) only [field_high, field_low, field_all, bit_low, bit_high, bit_bool]
    try simp
  · rfl
theorem Laws.RoundTrip.fmax (g : Guard) (d : Reg) (a : Src) (b : Src) (t : Option Fmt) (ftz : Bool) : Laws.RoundTrip.Statement (.fmax g d a b t ftz) := by
  refine Laws.RoundTrip.of_word _ _ rfl fun w => ?_
  have hl : litsAgree [a, b] = true := by
    exact and_left w
  rw [show ∀ r : Raw, r.op = 0x45 → r.candidate = ((tyOfField (r.mod.extractLsb' 0 5)).bind fun t' => some (.fmax r.guard r.d (r.src r.a) (r.src r.b) t' (r.mod.getLsbD 8))) from
    fun r h => by rcases r; cases h; rfl]
  · try rw [src_of _ hl a (by simp) _ rfl, src_of _ hl b (by simp) _ rfl]
    dsimp only [Raw.guard, Option.isSome, Option.getD]
    try simp (disch := decide) only [field_high, field_low, field_all, bit_low, bit_high, bit_bool]
    try simp
  · rfl
theorem Laws.RoundTrip.fcmp (g : Guard) (cond : FCond) (pd : BitVec 3) (a : Src) (b : Src) (t : Option Fmt) (ftz : Bool) : Laws.RoundTrip.Statement (.fcmp g cond pd a b t ftz) := by
  refine Laws.RoundTrip.of_word _ _ rfl fun w => ?_
  have hl : litsAgree [a, b] = true := by
    exact and_left w
  rw [show ∀ r : Raw, r.op = 0x46 → r.candidate = ((FCond.ofCode (r.mod.extractLsb' 5 3)).bind fun cond' => (tyOfField (r.mod.extractLsb' 0 5)).bind fun t' => some (.fcmp r.guard cond' (r.d.extractLsb' 0 3) (r.src r.a) (r.src r.b) t' (r.mod.getLsbD 8))) from
    fun r h => by rcases r; cases h; rfl]
  · try rw [src_of _ hl a (by simp) _ rfl, src_of _ hl b (by simp) _ rfl]
    dsimp only [Raw.guard, Option.isSome, Option.getD]
    try simp (disch := decide) only [field_high, field_low, field_all, bit_low, bit_high, bit_bool]
    try simp
  · rfl
theorem Laws.RoundTrip.fclass (g : Guard) (d : Reg) (a : Src) (t : Option Fmt) : Laws.RoundTrip.Statement (.fclass g d a t) := by
  refine Laws.RoundTrip.of_word _ _ rfl fun w => ?_
  have hl : litsAgree [a] = true := by
    exact and_left w
  rw [show ∀ r : Raw, r.op = 0x47 → r.candidate = ((tyOfField (r.mod.extractLsb' 0 5)).bind fun t' => some (.fclass r.guard r.d (r.src r.a) t')) from
    fun r h => by rcases r; cases h; rfl]
  · try rw [src_of _ hl a (by simp) _ rfl]
    dsimp only [Raw.guard, Option.isSome, Option.getD]
    try simp (disch := decide) only [field_high, field_low, field_all, bit_low, bit_high, bit_bool]
    try simp
  · rfl
theorem Laws.RoundTrip.frcp (g : Guard) (d : Reg) (a : Src) (t : Option Fmt) (rm : Round) (ftz : Bool) : Laws.RoundTrip.Statement (.frcp g d a t rm ftz) := by
  refine Laws.RoundTrip.of_word _ _ rfl fun w => ?_
  have hl : litsAgree [a] = true := by
    exact and_left w
  rw [show ∀ r : Raw, r.op = 0x48 → r.candidate = ((tyOfField (r.mod.extractLsb' 0 5)).bind fun t' => (Round.ofCode (r.mod.extractLsb' 5 3)).bind fun rm' => some (.frcp r.guard r.d (r.src r.a) t' rm' (r.mod.getLsbD 8))) from
    fun r h => by rcases r; cases h; rfl]
  · try rw [src_of _ hl a (by simp) _ rfl]
    dsimp only [Raw.guard, Option.isSome, Option.getD]
    try simp (disch := decide) only [field_high, field_low, field_all, bit_low, bit_high, bit_bool]
    try simp
  · rfl
theorem Laws.RoundTrip.frsq (g : Guard) (d : Reg) (a : Src) (t : Option Fmt) (rm : Round) (ftz : Bool) : Laws.RoundTrip.Statement (.frsq g d a t rm ftz) := by
  refine Laws.RoundTrip.of_word _ _ rfl fun w => ?_
  have hl : litsAgree [a] = true := by
    exact and_left w
  rw [show ∀ r : Raw, r.op = 0x49 → r.candidate = ((tyOfField (r.mod.extractLsb' 0 5)).bind fun t' => (Round.ofCode (r.mod.extractLsb' 5 3)).bind fun rm' => some (.frsq r.guard r.d (r.src r.a) t' rm' (r.mod.getLsbD 8))) from
    fun r h => by rcases r; cases h; rfl]
  · try rw [src_of _ hl a (by simp) _ rfl]
    dsimp only [Raw.guard, Option.isSome, Option.getD]
    try simp (disch := decide) only [field_high, field_low, field_all, bit_low, bit_high, bit_bool]
    try simp
  · rfl
theorem Laws.RoundTrip.fsqrt (g : Guard) (d : Reg) (a : Src) (t : Option Fmt) (rm : Round) (ftz : Bool) : Laws.RoundTrip.Statement (.fsqrt g d a t rm ftz) := by
  refine Laws.RoundTrip.of_word _ _ rfl fun w => ?_
  have hl : litsAgree [a] = true := by
    exact and_left w
  rw [show ∀ r : Raw, r.op = 0x4A → r.candidate = ((tyOfField (r.mod.extractLsb' 0 5)).bind fun t' => (Round.ofCode (r.mod.extractLsb' 5 3)).bind fun rm' => some (.fsqrt r.guard r.d (r.src r.a) t' rm' (r.mod.getLsbD 8))) from
    fun r h => by rcases r; cases h; rfl]
  · try rw [src_of _ hl a (by simp) _ rfl]
    dsimp only [Raw.guard, Option.isSome, Option.getD]
    try simp (disch := decide) only [field_high, field_low, field_all, bit_low, bit_high, bit_bool]
    try simp
  · rfl
theorem Laws.RoundTrip.fexp2 (g : Guard) (d : Reg) (a : Src) (t : Option Fmt) (ftz : Bool) : Laws.RoundTrip.Statement (.fexp2 g d a t ftz) := by
  refine Laws.RoundTrip.of_word _ _ rfl fun w => ?_
  have hl : litsAgree [a] = true := by
    exact and_left w
  rw [show ∀ r : Raw, r.op = 0x4B → r.candidate = ((tyOfField (r.mod.extractLsb' 0 5)).bind fun t' => some (.fexp2 r.guard r.d (r.src r.a) t' (r.mod.getLsbD 8))) from
    fun r h => by rcases r; cases h; rfl]
  · try rw [src_of _ hl a (by simp) _ rfl]
    dsimp only [Raw.guard, Option.isSome, Option.getD]
    try simp (disch := decide) only [field_high, field_low, field_all, bit_low, bit_high, bit_bool]
    try simp
  · rfl
theorem Laws.RoundTrip.flog2 (g : Guard) (d : Reg) (a : Src) (t : Option Fmt) (ftz : Bool) : Laws.RoundTrip.Statement (.flog2 g d a t ftz) := by
  refine Laws.RoundTrip.of_word _ _ rfl fun w => ?_
  have hl : litsAgree [a] = true := by
    exact and_left w
  rw [show ∀ r : Raw, r.op = 0x4C → r.candidate = ((tyOfField (r.mod.extractLsb' 0 5)).bind fun t' => some (.flog2 r.guard r.d (r.src r.a) t' (r.mod.getLsbD 8))) from
    fun r h => by rcases r; cases h; rfl]
  · try rw [src_of _ hl a (by simp) _ rfl]
    dsimp only [Raw.guard, Option.isSome, Option.getD]
    try simp (disch := decide) only [field_high, field_low, field_all, bit_low, bit_high, bit_bool]
    try simp
  · rfl
theorem Laws.RoundTrip.fsin (g : Guard) (d : Reg) (a : Src) (t : Option Fmt) (ftz : Bool) : Laws.RoundTrip.Statement (.fsin g d a t ftz) := by
  refine Laws.RoundTrip.of_word _ _ rfl fun w => ?_
  have hl : litsAgree [a] = true := by
    exact and_left w
  rw [show ∀ r : Raw, r.op = 0x4D → r.candidate = ((tyOfField (r.mod.extractLsb' 0 5)).bind fun t' => some (.fsin r.guard r.d (r.src r.a) t' (r.mod.getLsbD 8))) from
    fun r h => by rcases r; cases h; rfl]
  · try rw [src_of _ hl a (by simp) _ rfl]
    dsimp only [Raw.guard, Option.isSome, Option.getD]
    try simp (disch := decide) only [field_high, field_low, field_all, bit_low, bit_high, bit_bool]
    try simp
  · rfl
theorem Laws.RoundTrip.fcos (g : Guard) (d : Reg) (a : Src) (t : Option Fmt) (ftz : Bool) : Laws.RoundTrip.Statement (.fcos g d a t ftz) := by
  refine Laws.RoundTrip.of_word _ _ rfl fun w => ?_
  have hl : litsAgree [a] = true := by
    exact and_left w
  rw [show ∀ r : Raw, r.op = 0x4E → r.candidate = ((tyOfField (r.mod.extractLsb' 0 5)).bind fun t' => some (.fcos r.guard r.d (r.src r.a) t' (r.mod.getLsbD 8))) from
    fun r h => by rcases r; cases h; rfl]
  · try rw [src_of _ hl a (by simp) _ rfl]
    dsimp only [Raw.guard, Option.isSome, Option.getD]
    try simp (disch := decide) only [field_high, field_low, field_all, bit_low, bit_high, bit_bool]
    try simp
  · rfl
theorem Laws.RoundTrip.fdiv (g : Guard) (d : Reg) (a : Src) (b : Src) (t : Option Fmt) (rm : Round) (ftz : Bool) : Laws.RoundTrip.Statement (.fdiv g d a b t rm ftz) := by
  refine Laws.RoundTrip.of_word _ _ rfl fun w => ?_
  have hl : litsAgree [a, b] = true := by
    exact and_left w
  rw [show ∀ r : Raw, r.op = 0x4F → r.candidate = ((tyOfField (r.mod.extractLsb' 0 5)).bind fun t' => (Round.ofCode (r.mod.extractLsb' 5 3)).bind fun rm' => some (.fdiv r.guard r.d (r.src r.a) (r.src r.b) t' rm' (r.mod.getLsbD 8))) from
    fun r h => by rcases r; cases h; rfl]
  · try rw [src_of _ hl a (by simp) _ rfl, src_of _ hl b (by simp) _ rfl]
    dsimp only [Raw.guard, Option.isSome, Option.getD]
    try simp (disch := decide) only [field_high, field_low, field_all, bit_low, bit_high, bit_bool]
    try simp
  · rfl
theorem Laws.RoundTrip.hadd2 (g : Guard) (d : Reg) (a : Src) (b : Src) (t : Option Fmt) (rm : Round) (ftz : Bool) : Laws.RoundTrip.Statement (.hadd2 g d a b t rm ftz) := by
  refine Laws.RoundTrip.of_word _ _ rfl fun w => ?_
  have hl : litsAgree [a, b] = true := by
    exact and_left w
  rw [show ∀ r : Raw, r.op = 0x50 → r.candidate = ((tyOfField (r.mod.extractLsb' 0 5)).bind fun t' => (Round.ofCode (r.mod.extractLsb' 5 3)).bind fun rm' => some (.hadd2 r.guard r.d (r.src r.a) (r.src r.b) t' rm' (r.mod.getLsbD 8))) from
    fun r h => by rcases r; cases h; rfl]
  · try rw [src_of _ hl a (by simp) _ rfl, src_of _ hl b (by simp) _ rfl]
    dsimp only [Raw.guard, Option.isSome, Option.getD]
    try simp (disch := decide) only [field_high, field_low, field_all, bit_low, bit_high, bit_bool]
    try simp
  · rfl
theorem Laws.RoundTrip.hmul2 (g : Guard) (d : Reg) (a : Src) (b : Src) (t : Option Fmt) (rm : Round) (ftz : Bool) : Laws.RoundTrip.Statement (.hmul2 g d a b t rm ftz) := by
  refine Laws.RoundTrip.of_word _ _ rfl fun w => ?_
  have hl : litsAgree [a, b] = true := by
    exact and_left w
  rw [show ∀ r : Raw, r.op = 0x51 → r.candidate = ((tyOfField (r.mod.extractLsb' 0 5)).bind fun t' => (Round.ofCode (r.mod.extractLsb' 5 3)).bind fun rm' => some (.hmul2 r.guard r.d (r.src r.a) (r.src r.b) t' rm' (r.mod.getLsbD 8))) from
    fun r h => by rcases r; cases h; rfl]
  · try rw [src_of _ hl a (by simp) _ rfl, src_of _ hl b (by simp) _ rfl]
    dsimp only [Raw.guard, Option.isSome, Option.getD]
    try simp (disch := decide) only [field_high, field_low, field_all, bit_low, bit_high, bit_bool]
    try simp
  · rfl
theorem Laws.RoundTrip.hfma2 (g : Guard) (d : Reg) (a : Src) (b : Src) (c : Src) (t : Option Fmt) (rm : Round) (ftz : Bool) : Laws.RoundTrip.Statement (.hfma2 g d a b c t rm ftz) := by
  refine Laws.RoundTrip.of_word _ _ rfl fun w => ?_
  have hl : litsAgree [a, b, c] = true := by
    exact and_left w
  rw [show ∀ r : Raw, r.op = 0x52 → r.candidate = ((tyOfField (r.mod.extractLsb' 0 5)).bind fun t' => (Round.ofCode (r.mod.extractLsb' 5 3)).bind fun rm' => some (.hfma2 r.guard r.d (r.src r.a) (r.src r.b) (r.src r.c) t' rm' (r.mod.getLsbD 8))) from
    fun r h => by rcases r; cases h; rfl]
  · try rw [src_of _ hl a (by simp) _ rfl, src_of _ hl b (by simp) _ rfl, src_of _ hl c (by simp) _ rfl]
    dsimp only [Raw.guard, Option.isSome, Option.getD]
    try simp (disch := decide) only [field_high, field_low, field_all, bit_low, bit_high, bit_bool]
    try simp
  · rfl
theorem Laws.RoundTrip.hmin2 (g : Guard) (d : Reg) (a : Src) (b : Src) (t : Option Fmt) (ftz : Bool) : Laws.RoundTrip.Statement (.hmin2 g d a b t ftz) := by
  refine Laws.RoundTrip.of_word _ _ rfl fun w => ?_
  have hl : litsAgree [a, b] = true := by
    exact and_left w
  rw [show ∀ r : Raw, r.op = 0x53 → r.candidate = ((tyOfField (r.mod.extractLsb' 0 5)).bind fun t' => some (.hmin2 r.guard r.d (r.src r.a) (r.src r.b) t' (r.mod.getLsbD 8))) from
    fun r h => by rcases r; cases h; rfl]
  · try rw [src_of _ hl a (by simp) _ rfl, src_of _ hl b (by simp) _ rfl]
    dsimp only [Raw.guard, Option.isSome, Option.getD]
    try simp (disch := decide) only [field_high, field_low, field_all, bit_low, bit_high, bit_bool]
    try simp
  · rfl
theorem Laws.RoundTrip.hmax2 (g : Guard) (d : Reg) (a : Src) (b : Src) (t : Option Fmt) (ftz : Bool) : Laws.RoundTrip.Statement (.hmax2 g d a b t ftz) := by
  refine Laws.RoundTrip.of_word _ _ rfl fun w => ?_
  have hl : litsAgree [a, b] = true := by
    exact and_left w
  rw [show ∀ r : Raw, r.op = 0x54 → r.candidate = ((tyOfField (r.mod.extractLsb' 0 5)).bind fun t' => some (.hmax2 r.guard r.d (r.src r.a) (r.src r.b) t' (r.mod.getLsbD 8))) from
    fun r h => by rcases r; cases h; rfl]
  · try rw [src_of _ hl a (by simp) _ rfl, src_of _ hl b (by simp) _ rfl]
    dsimp only [Raw.guard, Option.isSome, Option.getD]
    try simp (disch := decide) only [field_high, field_low, field_all, bit_low, bit_high, bit_bool]
    try simp
  · rfl
theorem Laws.RoundTrip.hcmp2 (g : Guard) (cond : FCond) (pd : BitVec 3) (a : Src) (b : Src) (t : Option Fmt) (ftz : Bool) : Laws.RoundTrip.Statement (.hcmp2 g cond pd a b t ftz) := by
  refine Laws.RoundTrip.of_word _ _ rfl fun w => ?_
  have hl : litsAgree [a, b] = true := by
    exact and_left w
  rw [show ∀ r : Raw, r.op = 0x55 → r.candidate = ((FCond.ofCode (r.mod.extractLsb' 5 3)).bind fun cond' => (tyOfField (r.mod.extractLsb' 0 5)).bind fun t' => some (.hcmp2 r.guard cond' (r.d.extractLsb' 0 3) (r.src r.a) (r.src r.b) t' (r.mod.getLsbD 8))) from
    fun r h => by rcases r; cases h; rfl]
  · try rw [src_of _ hl a (by simp) _ rfl, src_of _ hl b (by simp) _ rfl]
    dsimp only [Raw.guard, Option.isSome, Option.getD]
    try simp (disch := decide) only [field_high, field_low, field_all, bit_low, bit_high, bit_bool]
    try simp
  · rfl
theorem Laws.RoundTrip.dot4 (g : Guard) (d : Reg) (a : Src) (b : Src) (c : Src) (t : Option Fmt) (rm : Round) (ftz : Bool) (sat : Bool) : Laws.RoundTrip.Statement (.dot4 g d a b c t rm ftz sat) := by
  refine Laws.RoundTrip.of_word _ _ rfl fun w => ?_
  have hl : litsAgree [a, b, c] = true := by
    exact and_left w
  rw [show ∀ r : Raw, r.op = 0x56 → r.candidate = ((tyOfField (r.mod.extractLsb' 0 5)).bind fun t' => (Round.ofCode (r.mod.extractLsb' 5 3)).bind fun rm' => some (.dot4 r.guard r.d (r.src r.a) (r.src r.b) (r.src r.c) t' rm' (r.mod.getLsbD 8) (r.mod.getLsbD 9))) from
    fun r h => by rcases r; cases h; rfl]
  · try rw [src_of _ hl a (by simp) _ rfl, src_of _ hl b (by simp) _ rfl, src_of _ hl c (by simp) _ rfl]
    dsimp only [Raw.guard, Option.isSome, Option.getD]
    try simp (disch := decide) only [field_high, field_low, field_all, bit_low, bit_high, bit_bool]
    try simp
  · rfl
theorem Laws.RoundTrip.dot2 (g : Guard) (d : Reg) (a : Src) (b : Src) (c : Src) (t : Option Fmt) (rm : Round) (ftz : Bool) : Laws.RoundTrip.Statement (.dot2 g d a b c t rm ftz) := by
  refine Laws.RoundTrip.of_word _ _ rfl fun w => ?_
  have hl : litsAgree [a, b, c] = true := by
    exact and_left w
  rw [show ∀ r : Raw, r.op = 0x57 → r.candidate = ((tyOfField (r.mod.extractLsb' 0 5)).bind fun t' => (Round.ofCode (r.mod.extractLsb' 5 3)).bind fun rm' => some (.dot2 r.guard r.d (r.src r.a) (r.src r.b) (r.src r.c) t' rm' (r.mod.getLsbD 8))) from
    fun r h => by rcases r; cases h; rfl]
  · try rw [src_of _ hl a (by simp) _ rfl, src_of _ hl b (by simp) _ rfl, src_of _ hl c (by simp) _ rfl]
    dsimp only [Raw.guard, Option.isSome, Option.getD]
    try simp (disch := decide) only [field_high, field_low, field_all, bit_low, bit_high, bit_bool]
    try simp
  · rfl
theorem Laws.RoundTrip.vadd4 (g : Guard) (d : Reg) (a : Src) (b : Src) (t : Option Fmt) (sat : Bool) : Laws.RoundTrip.Statement (.vadd4 g d a b t sat) := by
  refine Laws.RoundTrip.of_word _ _ rfl fun w => ?_
  have hl : litsAgree [a, b] = true := by
    exact and_left w
  rw [show ∀ r : Raw, r.op = 0x58 → r.candidate = ((tyOfField (r.mod.extractLsb' 0 5)).bind fun t' => some (.vadd4 r.guard r.d (r.src r.a) (r.src r.b) t' (r.mod.getLsbD 9))) from
    fun r h => by rcases r; cases h; rfl]
  · try rw [src_of _ hl a (by simp) _ rfl, src_of _ hl b (by simp) _ rfl]
    dsimp only [Raw.guard, Option.isSome, Option.getD]
    try simp (disch := decide) only [field_high, field_low, field_all, bit_low, bit_high, bit_bool]
    try simp
  · rfl
theorem Laws.RoundTrip.vsub4 (g : Guard) (d : Reg) (a : Src) (b : Src) (t : Option Fmt) (sat : Bool) : Laws.RoundTrip.Statement (.vsub4 g d a b t sat) := by
  refine Laws.RoundTrip.of_word _ _ rfl fun w => ?_
  have hl : litsAgree [a, b] = true := by
    exact and_left w
  rw [show ∀ r : Raw, r.op = 0x59 → r.candidate = ((tyOfField (r.mod.extractLsb' 0 5)).bind fun t' => some (.vsub4 r.guard r.d (r.src r.a) (r.src r.b) t' (r.mod.getLsbD 9))) from
    fun r h => by rcases r; cases h; rfl]
  · try rw [src_of _ hl a (by simp) _ rfl, src_of _ hl b (by simp) _ rfl]
    dsimp only [Raw.guard, Option.isSome, Option.getD]
    try simp (disch := decide) only [field_high, field_low, field_all, bit_low, bit_high, bit_bool]
    try simp
  · rfl
theorem Laws.RoundTrip.cvt (g : Guard) (d : Reg) (a : Src) (df : Fmt) (sf : Fmt) (rm : Round) (sat : Bool) (ftz : Bool) (pk : Bool) : Laws.RoundTrip.Statement (.cvt g d a df sf rm sat ftz pk) := by
  refine Laws.RoundTrip.of_word _ _ rfl fun w => ?_
  have hl : litsAgree [a] = true := by
    exact and_left w
  rw [show ∀ r : Raw, r.op = 0x60 → r.candidate = ((Fmt.ofCode (r.mod.extractLsb' 0 4)).bind fun df' => (Fmt.ofCode (r.imm.extractLsb' 0 4)).bind fun sf' => (Round.ofCode (r.mod.extractLsb' 4 3)).bind fun rm' => some (.cvt r.guard r.d (r.src r.a) df' sf' rm' (r.mod.getLsbD 7) (r.mod.getLsbD 8) (r.mod.getLsbD 9))) from
    fun r h => by rcases r; cases h; rfl]
  · try rw [src_of _ hl a (by simp) _ rfl]
    dsimp only [Raw.guard, Option.isSome, Option.getD]
    try simp (disch := decide) only [field_high, field_low, field_all, bit_low, bit_high, bit_bool]
    try simp
  · rfl
theorem Laws.RoundTrip.cvtsr (g : Guard) (d : Reg) (a : Src) (df : Fmt) (sf : Fmt) (b : Src) (xr : Bool) (sat : Bool) (ftz : Bool) (pk : Bool) : Laws.RoundTrip.Statement (.cvtsr g d a df sf b xr sat ftz pk) := by
  refine Laws.RoundTrip.of_word _ _ rfl fun w => ?_
  have hl : litsAgree [a, b] = true := by
    exact and_left w
  rw [show ∀ r : Raw, r.op = 0x61 → r.candidate = ((Fmt.ofCode (r.mod.extractLsb' 0 4)).bind fun df' => (Fmt.ofCode (r.imm.extractLsb' 0 4)).bind fun sf' => some (.cvtsr r.guard r.d (r.src r.a) df' sf' (r.src r.b) (r.mod.getLsbD 4) (r.mod.getLsbD 7) (r.mod.getLsbD 8) (r.mod.getLsbD 9))) from
    fun r h => by rcases r; cases h; rfl]
  · try rw [src_of _ hl a (by simp) _ rfl, src_of _ hl b (by simp) _ rfl]
    dsimp only [Raw.guard, Option.isSome, Option.getD]
    try simp (disch := decide) only [field_high, field_low, field_all, bit_low, bit_high, bit_bool]
    try simp
  · rfl
theorem Laws.RoundTrip.srseed (g : Guard) (a : Src) (which : BitVec 2) : Laws.RoundTrip.Statement (.srseed g a which) := by
  refine Laws.RoundTrip.of_word _ _ rfl fun w => ?_
  have hl : litsAgree [a] = true := by
    exact w
  rw [show ∀ r : Raw, r.op = 0x62 → r.candidate = (some (.srseed r.guard (r.src r.a) (r.mod.extractLsb' 0 2))) from
    fun r h => by rcases r; cases h; rfl]
  · try rw [src_of _ hl a (by simp) _ rfl]
    dsimp only [Raw.guard, Option.isSome, Option.getD]
    try simp (disch := decide) only [field_high, field_low, field_all, bit_low, bit_high, bit_bool]
    try simp
  · rfl
theorem Laws.RoundTrip.qnt (g : Guard) (d : Reg) (a : Src) (df : Fmt) (sf : Fmt) (b : Src) (planes : BitVec 4) (rm : Round) (sat : Bool) (ftz : Bool) (pk : Bool) : Laws.RoundTrip.Statement (.qnt g d a df sf b planes rm sat ftz pk) := by
  refine Laws.RoundTrip.of_word _ _ rfl fun w => ?_
  have hl : litsAgree [a, b] = true := by
    exact and_left w
  rw [show ∀ r : Raw, r.op = 0x63 → r.candidate = ((Fmt.ofCode (r.mod.extractLsb' 0 4)).bind fun df' => (Fmt.ofCode (r.imm.extractLsb' 0 4)).bind fun sf' => (Round.ofCode (r.mod.extractLsb' 4 3)).bind fun rm' => some (.qnt r.guard r.d (r.src r.a) df' sf' (r.src r.b) (r.imm.extractLsb' 4 4) rm' (r.mod.getLsbD 7) (r.mod.getLsbD 8) (r.mod.getLsbD 9))) from
    fun r h => by rcases r; cases h; rfl]
  · try rw [src_of _ hl a (by simp) _ rfl, src_of _ hl b (by simp) _ rfl]
    dsimp only [Raw.guard, Option.isSome, Option.getD]
    try simp (disch := decide) only [field_high, field_low, field_all, bit_low, bit_high, bit_bool]
    try simp
  · rfl
theorem Laws.RoundTrip.dqnt (g : Guard) (d : Reg) (a : Src) (df : Fmt) (sf : Fmt) (b : Src) (planes : BitVec 4) (rm : Round) (sat : Bool) (ftz : Bool) (pk : Bool) : Laws.RoundTrip.Statement (.dqnt g d a df sf b planes rm sat ftz pk) := by
  refine Laws.RoundTrip.of_word _ _ rfl fun w => ?_
  have hl : litsAgree [a, b] = true := by
    exact and_left w
  rw [show ∀ r : Raw, r.op = 0x64 → r.candidate = ((Fmt.ofCode (r.mod.extractLsb' 0 4)).bind fun df' => (Fmt.ofCode (r.imm.extractLsb' 0 4)).bind fun sf' => (Round.ofCode (r.mod.extractLsb' 4 3)).bind fun rm' => some (.dqnt r.guard r.d (r.src r.a) df' sf' (r.src r.b) (r.imm.extractLsb' 4 4) rm' (r.mod.getLsbD 7) (r.mod.getLsbD 8) (r.mod.getLsbD 9))) from
    fun r h => by rcases r; cases h; rfl]
  · try rw [src_of _ hl a (by simp) _ rfl, src_of _ hl b (by simp) _ rfl]
    dsimp only [Raw.guard, Option.isSome, Option.getD]
    try simp (disch := decide) only [field_high, field_low, field_all, bit_low, bit_high, bit_bool]
    try simp
  · rfl
theorem Laws.RoundTrip.plpack (g : Guard) (d : Reg) (a : Reg) (P : BitVec 4) (p : BitVec 4) : Laws.RoundTrip.Statement (.plpack g d a P p) := by
  refine Laws.RoundTrip.of_word _ _ rfl fun w => ?_
  rw [show ∀ r : Raw, r.op = 0x65 → r.candidate = (some (.plpack r.guard r.d r.a (r.imm.extractLsb' 0 4) (r.imm.extractLsb' 4 4))) from
    fun r h => by rcases r; cases h; rfl]
  · dsimp only [Raw.guard, Option.isSome, Option.getD]
    try simp (disch := decide) only [field_high, field_low, field_all, bit_low, bit_high, bit_bool]
    try simp
  · rfl
theorem Laws.RoundTrip.plunpk (g : Guard) (d : Reg) (a : Src) (P : BitVec 4) (k : BitVec 4) : Laws.RoundTrip.Statement (.plunpk g d a P k) := by
  refine Laws.RoundTrip.of_word _ _ rfl fun w => ?_
  have hl : litsAgree [a] = true := by
    exact and_left w
  rw [show ∀ r : Raw, r.op = 0x66 → r.candidate = (some (.plunpk r.guard r.d (r.src r.a) (r.imm.extractLsb' 0 4) (r.imm.extractLsb' 4 4))) from
    fun r h => by rcases r; cases h; rfl]
  · try rw [src_of _ hl a (by simp) _ rfl]
    dsimp only [Raw.guard, Option.isSome, Option.getD]
    try simp (disch := decide) only [field_high, field_low, field_all, bit_low, bit_high, bit_bool]
    try simp
  · rfl
theorem Laws.RoundTrip.plext (g : Guard) (d : Reg) (a : Src) (P : BitVec 4) (k : BitVec 4) (os : Bool) : Laws.RoundTrip.Statement (.plext g d a P k os) := by
  refine Laws.RoundTrip.of_word _ _ rfl fun w => ?_
  have hl : litsAgree [a] = true := by
    exact and_left w
  rw [show ∀ r : Raw, r.op = 0x67 → r.candidate = (some (.plext r.guard r.d (r.src r.a) (r.imm.extractLsb' 0 4) (r.imm.extractLsb' 4 4) (r.mod.getLsbD 0))) from
    fun r h => by rcases r; cases h; rfl]
  · try rw [src_of _ hl a (by simp) _ rfl]
    dsimp only [Raw.guard, Option.isSome, Option.getD]
    try simp (disch := decide) only [field_high, field_low, field_all, bit_low, bit_high, bit_bool]
    try simp
  · rfl
theorem Laws.RoundTrip.f8algn (g : Guard) (d : Reg) (a : Src) (b : Src) (f : Fmt) (mx : Bool) : Laws.RoundTrip.Statement (.f8algn g d a b f mx) := by
  refine Laws.RoundTrip.of_word _ _ rfl fun w => ?_
  have hl : litsAgree [a, b] = true := by
    exact and_left w
  rw [show ∀ r : Raw, r.op = 0x68 → r.candidate = ((Fmt.ofCode (r.mod.extractLsb' 0 4)).bind fun f' => some (.f8algn r.guard r.d (r.src r.a) (r.src r.b) f' (r.mod.getLsbD 4))) from
    fun r h => by rcases r; cases h; rfl]
  · try rw [src_of _ hl a (by simp) _ rfl, src_of _ hl b (by simp) _ rfl]
    dsimp only [Raw.guard, Option.isSome, Option.getD]
    try simp (disch := decide) only [field_high, field_low, field_all, bit_low, bit_high, bit_bool]
    try simp
  · rfl
theorem Laws.RoundTrip.sclx (g : Guard) (d : Reg) (a : Src) (b : Src) (df : Fmt) (rm : Round) (bi : Bool) (sat : Bool) (ftz : Bool) : Laws.RoundTrip.Statement (.sclx g d a b df rm bi sat ftz) := by
  refine Laws.RoundTrip.of_word _ _ rfl fun w => ?_
  have hl : litsAgree [a, b] = true := by
    exact and_left w
  rw [show ∀ r : Raw, r.op = 0x69 → r.candidate = ((Fmt.ofCode (r.mod.extractLsb' 0 4)).bind fun df' => some (.sclx r.guard r.d (r.src r.a) (r.src r.b) df' (Round.ofCode2 (r.mod.extractLsb' 4 2)) (r.mod.getLsbD 6) (r.mod.getLsbD 7) (r.mod.getLsbD 8))) from
    fun r h => by rcases r; cases h; rfl]
  · try rw [src_of _ hl a (by simp) _ rfl, src_of _ hl b (by simp) _ rfl]
    dsimp only [Raw.guard, Option.isSome, Option.getD]
    try simp (disch := decide) only [field_high, field_low, field_all, bit_low, bit_high, bit_bool]
    have hr : rm ≠ .rsr := by revert w; cases rm <;> simp [Instr.wf]
    simp [Round.ofCode2_code2 rm hr]
  · rfl
theorem Laws.RoundTrip.shfl (g : Guard) (d : Reg) (a : Src) (b : Src) (t : Option Fmt) (fz : Bool) : Laws.RoundTrip.Statement (.shfl g d a b t fz) := by
  refine Laws.RoundTrip.of_word _ _ rfl fun w => ?_
  have hl : litsAgree [a, b] = true := by
    exact and_left w
  rw [show ∀ r : Raw, r.op = 0x6A → r.candidate = ((tyOfField (r.mod.extractLsb' 0 5)).bind fun t' => some (.shfl r.guard r.d (r.src r.a) (r.src r.b) t' (r.mod.getLsbD 8))) from
    fun r h => by rcases r; cases h; rfl]
  · try rw [src_of _ hl a (by simp) _ rfl, src_of _ hl b (by simp) _ rfl]
    dsimp only [Raw.guard, Option.isSome, Option.getD]
    try simp (disch := decide) only [field_high, field_low, field_all, bit_low, bit_high, bit_bool]
    try simp
  · rfl
theorem Laws.RoundTrip.bfly (g : Guard) (d : Reg) (a : Src) (n : BitVec 6) (t : Option Fmt) (fz : Bool) : Laws.RoundTrip.Statement (.bfly g d a n t fz) := by
  refine Laws.RoundTrip.of_word _ _ rfl fun w => ?_
  have hl : litsAgree [a] = true := by
    exact and_left w
  rw [show ∀ r : Raw, r.op = 0x6B → r.candidate = ((tyOfField (r.mod.extractLsb' 0 5)).bind fun t' => some (.bfly r.guard r.d (r.src r.a) (r.imm.extractLsb' 0 6) t' (r.mod.getLsbD 8))) from
    fun r h => by rcases r; cases h; rfl]
  · try rw [src_of _ hl a (by simp) _ rfl]
    dsimp only [Raw.guard, Option.isSome, Option.getD]
    try simp (disch := decide) only [field_high, field_low, field_all, bit_low, bit_high, bit_bool]
    try simp
  · rfl
theorem Laws.RoundTrip.shup (g : Guard) (d : Reg) (a : Src) (n : BitVec 6) (t : Option Fmt) (fz : Bool) : Laws.RoundTrip.Statement (.shup g d a n t fz) := by
  refine Laws.RoundTrip.of_word _ _ rfl fun w => ?_
  have hl : litsAgree [a] = true := by
    exact and_left w
  rw [show ∀ r : Raw, r.op = 0x6C → r.candidate = ((tyOfField (r.mod.extractLsb' 0 5)).bind fun t' => some (.shup r.guard r.d (r.src r.a) (r.imm.extractLsb' 0 6) t' (r.mod.getLsbD 8))) from
    fun r h => by rcases r; cases h; rfl]
  · try rw [src_of _ hl a (by simp) _ rfl]
    dsimp only [Raw.guard, Option.isSome, Option.getD]
    try simp (disch := decide) only [field_high, field_low, field_all, bit_low, bit_high, bit_bool]
    try simp
  · rfl
theorem Laws.RoundTrip.shdn (g : Guard) (d : Reg) (a : Src) (n : BitVec 6) (t : Option Fmt) (fz : Bool) : Laws.RoundTrip.Statement (.shdn g d a n t fz) := by
  refine Laws.RoundTrip.of_word _ _ rfl fun w => ?_
  have hl : litsAgree [a] = true := by
    exact and_left w
  rw [show ∀ r : Raw, r.op = 0x6D → r.candidate = ((tyOfField (r.mod.extractLsb' 0 5)).bind fun t' => some (.shdn r.guard r.d (r.src r.a) (r.imm.extractLsb' 0 6) t' (r.mod.getLsbD 8))) from
    fun r h => by rcases r; cases h; rfl]
  · try rw [src_of _ hl a (by simp) _ rfl]
    dsimp only [Raw.guard, Option.isSome, Option.getD]
    try simp (disch := decide) only [field_high, field_low, field_all, bit_low, bit_high, bit_bool]
    try simp
  · rfl
theorem Laws.RoundTrip.bcast (g : Guard) (d : Reg) (a : Src) (n : BitVec 6) (t : Option Fmt) (fz : Bool) : Laws.RoundTrip.Statement (.bcast g d a n t fz) := by
  refine Laws.RoundTrip.of_word _ _ rfl fun w => ?_
  have hl : litsAgree [a] = true := by
    exact and_left w
  rw [show ∀ r : Raw, r.op = 0x6E → r.candidate = ((tyOfField (r.mod.extractLsb' 0 5)).bind fun t' => some (.bcast r.guard r.d (r.src r.a) (r.imm.extractLsb' 0 6) t' (r.mod.getLsbD 8))) from
    fun r h => by rcases r; cases h; rfl]
  · try rw [src_of _ hl a (by simp) _ rfl]
    dsimp only [Raw.guard, Option.isSome, Option.getD]
    try simp (disch := decide) only [field_high, field_low, field_all, bit_low, bit_high, bit_bool]
    try simp
  · rfl
theorem Laws.RoundTrip.pcens (g : Guard) (k : Census) (d : BitVec 6) (pa : BitVec 3) (n : BitVec 6) : Laws.RoundTrip.Statement (.pcens g k d pa n) := by
  refine Laws.RoundTrip.of_word _ _ rfl fun w => ?_
  rw [show ∀ r : Raw, r.op = 0x6F → r.candidate = ((Census.ofCode (r.mod.extractLsb' 5 3)).bind fun k' => some (.pcens r.guard k' r.d (r.a.extractLsb' 0 3) (r.imm.extractLsb' 0 6))) from
    fun r h => by rcases r; cases h; rfl]
  · dsimp only [Raw.guard, Option.isSome, Option.getD]
    try simp (disch := decide) only [field_high, field_low, field_all, bit_low, bit_high, bit_bool]
    try simp
  · rfl
theorem Laws.RoundTrip.redux (g : Guard) (op : RedOp) (d : Reg) (a : Src) (t : Option Fmt) : Laws.RoundTrip.Statement (.redux g op d a t) := by
  refine Laws.RoundTrip.of_word _ _ rfl fun w => ?_
  have hl : litsAgree [a] = true := by
    exact and_left w
  rw [show ∀ r : Raw, r.op = 0x70 → r.candidate = ((RedOp.ofCode (r.mod.extractLsb' 5 3)).bind fun op' => (tyOfField (r.mod.extractLsb' 0 5)).bind fun t' => some (.redux r.guard op' r.d (r.src r.a) t')) from
    fun r h => by rcases r; cases h; rfl]
  · try rw [src_of _ hl a (by simp) _ rfl]
    dsimp only [Raw.guard, Option.isSome, Option.getD]
    try simp (disch := decide) only [field_high, field_low, field_all, bit_low, bit_high, bit_bool]
    try simp
  · rfl
theorem Laws.RoundTrip.scan (g : Guard) (op : RedOp) (d : Reg) (a : Src) (t : Option Fmt) (ex : Bool) : Laws.RoundTrip.Statement (.scan g op d a t ex) := by
  refine Laws.RoundTrip.of_word _ _ rfl fun w => ?_
  have hl : litsAgree [a] = true := by
    exact and_left w
  rw [show ∀ r : Raw, r.op = 0x71 → r.candidate = ((RedOp.ofCode (r.mod.extractLsb' 5 3)).bind fun op' => (tyOfField (r.mod.extractLsb' 0 5)).bind fun t' => some (.scan r.guard op' r.d (r.src r.a) t' (r.mod.getLsbD 9))) from
    fun r h => by rcases r; cases h; rfl]
  · try rw [src_of _ hl a (by simp) _ rfl]
    dsimp only [Raw.guard, Option.isSome, Option.getD]
    try simp (disch := decide) only [field_high, field_low, field_all, bit_low, bit_high, bit_bool]
    try simp
  · rfl
theorem Laws.RoundTrip.matchLane (g : Guard) (d : Reg) (a : Src) (t : Option Fmt) : Laws.RoundTrip.Statement (.matchLane g d a t) := by
  refine Laws.RoundTrip.of_word _ _ rfl fun w => ?_
  have hl : litsAgree [a] = true := by
    exact and_left w
  rw [show ∀ r : Raw, r.op = 0x72 → r.candidate = ((tyOfField (r.mod.extractLsb' 0 5)).bind fun t' => some (.matchLane r.guard r.d (r.src r.a) t')) from
    fun r h => by rcases r; cases h; rfl]
  · try rw [src_of _ hl a (by simp) _ rfl]
    dsimp only [Raw.guard, Option.isSome, Option.getD]
    try simp (disch := decide) only [field_high, field_low, field_all, bit_low, bit_high, bit_bool]
    try simp
  · rfl
theorem Laws.RoundTrip.ld (g : Guard) (d : Reg) (bolt : BitVec 6) (ix : Src) (t : Option Fmt) (sx : Bool) (sl : BitVec 3) : Laws.RoundTrip.Statement (.ld g d bolt ix t sx sl) := by
  refine Laws.RoundTrip.of_word _ _ rfl fun w => ?_
  have hl : litsAgree [ix] = true := by
    exact and_left w
  rw [show ∀ r : Raw, r.op = 0x80 → r.candidate = ((tyOfField (r.mod.extractLsb' 0 5)).bind fun t' => some (.ld r.guard r.d r.bolt (r.src r.a) t' (r.mod.getLsbD 5) r.sl)) from
    fun r h => by rcases r; cases h; rfl]
  · try rw [src_of _ hl ix (by simp) _ rfl]
    dsimp only [Raw.guard, Option.isSome, Option.getD]
    try simp (disch := decide) only [field_high, field_low, field_all, bit_low, bit_high, bit_bool]
    try simp
  · rfl
theorem Laws.RoundTrip.st (g : Guard) (bolt : BitVec 6) (ix : Src) (b : Src) (t : Option Fmt) (sx : Bool) (sl : BitVec 3) : Laws.RoundTrip.Statement (.st g bolt ix b t sx sl) := by
  refine Laws.RoundTrip.of_word _ _ rfl fun w => ?_
  have hl : litsAgree [ix, b] = true := by
    exact and_left w
  rw [show ∀ r : Raw, r.op = 0x81 → r.candidate = ((tyOfField (r.mod.extractLsb' 0 5)).bind fun t' => some (.st r.guard r.bolt (r.src r.a) (r.src r.b) t' (r.mod.getLsbD 5) r.sl)) from
    fun r h => by rcases r; cases h; rfl]
  · try rw [src_of _ hl ix (by simp) _ rfl, src_of _ hl b (by simp) _ rfl]
    dsimp only [Raw.guard, Option.isSome, Option.getD]
    try simp (disch := decide) only [field_high, field_low, field_all, bit_low, bit_high, bit_bool]
    try simp
  · rfl
theorem Laws.RoundTrip.ldq (g : Guard) (d : Reg) (bolt : BitVec 6) (ix : Src) (n : BitVec 12) (t : Option Fmt) (sx : Bool) (sl : BitVec 3) : Laws.RoundTrip.Statement (.ldq g d bolt ix n t sx sl) := by
  refine Laws.RoundTrip.of_word _ _ rfl fun w => ?_
  have hl : litsAgree [ix] = true := by
    exact and_left w
  rw [show ∀ r : Raw, r.op = 0x82 → r.candidate = ((tyOfField (r.mod.extractLsb' 0 5)).bind fun t' => some (.ldq r.guard r.d r.bolt (r.src r.a) r.count t' (r.mod.getLsbD 5) r.sl)) from
    fun r h => by rcases r; cases h; rfl]
  · try rw [src_of _ hl ix (by simp) _ rfl]
    dsimp only [Raw.guard, Option.isSome, Option.getD]
    try simp (disch := decide) only [field_high, field_low, field_all, bit_low, bit_high, bit_bool]
    try simp
  · rfl
theorem Laws.RoundTrip.stq (g : Guard) (bolt : BitVec 6) (ix : Src) (b : Src) (n : BitVec 12) (t : Option Fmt) (sx : Bool) (sl : BitVec 3) : Laws.RoundTrip.Statement (.stq g bolt ix b n t sx sl) := by
  refine Laws.RoundTrip.of_word _ _ rfl fun w => ?_
  have hl : litsAgree [ix, b] = true := by
    exact and_left w
  rw [show ∀ r : Raw, r.op = 0x83 → r.candidate = ((tyOfField (r.mod.extractLsb' 0 5)).bind fun t' => some (.stq r.guard r.bolt (r.src r.a) (r.src r.b) r.count t' (r.mod.getLsbD 5) r.sl)) from
    fun r h => by rcases r; cases h; rfl]
  · try rw [src_of _ hl ix (by simp) _ rfl, src_of _ hl b (by simp) _ rfl]
    dsimp only [Raw.guard, Option.isSome, Option.getD]
    try simp (disch := decide) only [field_high, field_low, field_all, bit_low, bit_high, bit_bool]
    try simp
  · rfl
theorem Laws.RoundTrip.ldro (g : Guard) (d : Reg) (bolt : BitVec 6) (ix : Src) (t : Option Fmt) (sx : Bool) (sl : BitVec 3) : Laws.RoundTrip.Statement (.ldro g d bolt ix t sx sl) := by
  refine Laws.RoundTrip.of_word _ _ rfl fun w => ?_
  have hl : litsAgree [ix] = true := by
    exact and_left w
  rw [show ∀ r : Raw, r.op = 0x84 → r.candidate = ((tyOfField (r.mod.extractLsb' 0 5)).bind fun t' => some (.ldro r.guard r.d r.bolt (r.src r.a) t' (r.mod.getLsbD 5) r.sl)) from
    fun r h => by rcases r; cases h; rfl]
  · try rw [src_of _ hl ix (by simp) _ rfl]
    dsimp only [Raw.guard, Option.isSome, Option.getD]
    try simp (disch := decide) only [field_high, field_low, field_all, bit_low, bit_high, bit_bool]
    try simp
  · rfl
theorem Laws.RoundTrip.pref (g : Guard) (bolt : BitVec 6) (ix : Src) (sl : BitVec 3) : Laws.RoundTrip.Statement (.pref g bolt ix sl) := by
  refine Laws.RoundTrip.of_word _ _ rfl fun w => ?_
  have hl : litsAgree [ix] = true := by
    exact w
  rw [show ∀ r : Raw, r.op = 0x85 → r.candidate = (some (.pref r.guard r.bolt (r.src r.a) r.sl)) from
    fun r h => by rcases r; cases h; rfl]
  · try rw [src_of _ hl ix (by simp) _ rfl]
    dsimp only [Raw.guard, Option.isSome, Option.getD]
    try simp (disch := decide) only [field_high, field_low, field_all, bit_low, bit_high, bit_bool]
    try simp
  · rfl
theorem Laws.RoundTrip.migr (g : Guard) (bolt : BitVec 6) (ix : Src) (sx : Bool) (sl : BitVec 3) : Laws.RoundTrip.Statement (.migr g bolt ix sx sl) := by
  refine Laws.RoundTrip.of_word _ _ rfl fun w => ?_
  have hl : litsAgree [ix] = true := by
    exact w
  rw [show ∀ r : Raw, r.op = 0x86 → r.candidate = (some (.migr r.guard r.bolt (r.src r.a) (r.mod.getLsbD 5) r.sl)) from
    fun r h => by rcases r; cases h; rfl]
  · try rw [src_of _ hl ix (by simp) _ rfl]
    dsimp only [Raw.guard, Option.isSome, Option.getD]
    try simp (disch := decide) only [field_high, field_low, field_all, bit_low, bit_high, bit_bool]
    try simp
  · rfl
theorem Laws.RoundTrip.spawn (g : Guard) (pd : BitVec 3) (bolt : BitVec 6) (ix : Src) (b : Src) (c : Src) (target : BitVec 16) (sl : BitVec 3) : Laws.RoundTrip.Statement (.spawn g pd bolt ix b c target sl) := by
  refine Laws.RoundTrip.of_word _ _ rfl fun w => ?_
  have hl : litsAgree [ix, b, c] = true := by
    exact w
  rw [show ∀ r : Raw, r.op = 0x87 → r.candidate = (some (.spawn r.guard (r.d.extractLsb' 0 3) r.bolt (r.src r.a) (r.src r.b) (r.src r.c) r.imm r.sl)) from
    fun r h => by rcases r; cases h; rfl]
  · try rw [src_of _ hl ix (by simp) _ rfl, src_of _ hl b (by simp) _ rfl, src_of _ hl c (by simp) _ rfl]
    dsimp only [Raw.guard, Option.isSome, Option.getD]
    try simp (disch := decide) only [field_high, field_low, field_all, bit_low, bit_high, bit_bool]
    try simp
  · rfl
theorem Laws.RoundTrip.phaseArv (g : Guard) (d : Reg) (level : BitVec 3) (sl : BitVec 3) : Laws.RoundTrip.Statement (.phaseArv g d level sl) := by
  refine Laws.RoundTrip.of_word _ _ rfl fun w => ?_
  rw [show ∀ r : Raw, r.op = 0x88 → r.candidate = (if r.mod.extractLsb' 6 3 == 1#3 then some (.phaseWait r.guard (r.src r.a) (r.imm.extractLsb' 0 3) r.sl) else some (.phaseArv r.guard r.d (r.imm.extractLsb' 0 3) r.sl)) from
    fun r h => by rcases r; cases h; rfl]
  · dsimp only [Raw.guard, Option.isSome, Option.getD]
    try simp (disch := decide) only [field_high, field_low, field_all, bit_low, bit_high, bit_bool]
    try simp
  · rfl
theorem Laws.RoundTrip.phaseWait (g : Guard) (a : Src) (level : BitVec 3) (sl : BitVec 3) : Laws.RoundTrip.Statement (.phaseWait g a level sl) := by
  refine Laws.RoundTrip.of_word _ _ rfl fun w => ?_
  have hl : litsAgree [a] = true := by
    exact w
  rw [show ∀ r : Raw, r.op = 0x88 → r.candidate = (if r.mod.extractLsb' 6 3 == 1#3 then some (.phaseWait r.guard (r.src r.a) (r.imm.extractLsb' 0 3) r.sl) else some (.phaseArv r.guard r.d (r.imm.extractLsb' 0 3) r.sl)) from
    fun r h => by rcases r; cases h; rfl]
  · try rw [src_of _ hl a (by simp) _ rfl]
    dsimp only [Raw.guard, Option.isSome, Option.getD]
    try simp (disch := decide) only [field_high, field_low, field_all, bit_low, bit_high, bit_bool]
    try simp
  · rfl
theorem Laws.RoundTrip.fence (g : Guard) (scope : Scope) : Laws.RoundTrip.Statement (.fence g scope) := by
  refine Laws.RoundTrip.of_word _ _ rfl fun w => ?_
  rw [show ∀ r : Raw, r.op = 0x89 → r.candidate = ((Scope.ofCode r.scope).bind fun scope' => some (.fence r.guard scope')) from
    fun r h => by rcases r; cases h; rfl]
  · dsimp only [Raw.guard, Option.isSome, Option.getD]
    try simp (disch := decide) only [field_high, field_low, field_all, bit_low, bit_high, bit_bool]
    try simp
  · rfl
theorem Laws.RoundTrip.fopen (g : Guard) (fi : BitVec 1) (bolt : BitVec 6) (ix : Src) (b : Src) (step : BitVec 16) : Laws.RoundTrip.Statement (.fopen g fi bolt ix b step) := by
  refine Laws.RoundTrip.of_word _ _ rfl fun w => ?_
  have hl : litsAgree [ix, b] = true := by
    exact w
  rw [show ∀ r : Raw, r.op = 0x8A → r.candidate = (some (.fopen r.guard (r.d.extractLsb' 0 1) r.bolt (r.src r.a) (r.src r.b) r.imm)) from
    fun r h => by rcases r; cases h; rfl]
  · try rw [src_of _ hl ix (by simp) _ rfl, src_of _ hl b (by simp) _ rfl]
    dsimp only [Raw.guard, Option.isSome, Option.getD]
    try simp (disch := decide) only [field_high, field_low, field_all, bit_low, bit_high, bit_bool]
    try simp
  · rfl
theorem Laws.RoundTrip.fnext (g : Guard) (d : Reg) (pb : BitVec 3) (fi : BitVec 1) (sgn : Bool) (sx : Bool) (sl : BitVec 3) : Laws.RoundTrip.Statement (.fnext g d pb fi sgn sx sl) := by
  refine Laws.RoundTrip.of_word _ _ rfl fun w => ?_
  rw [show ∀ r : Raw, r.op = 0x8B → r.candidate = (some (.fnext r.guard r.d (r.b.extractLsb' 0 3) (r.a.extractLsb' 0 1) (r.mod.getLsbD 0) (r.mod.getLsbD 1) r.sl)) from
    fun r h => by rcases r; cases h; rfl]
  · dsimp only [Raw.guard, Option.isSome, Option.getD]
    try simp (disch := decide) only [field_high, field_low, field_all, bit_low, bit_high, bit_bool]
    try simp
  · rfl
theorem Laws.RoundTrip.fpeek (g : Guard) (d : Reg) (pb : BitVec 3) (fi : BitVec 1) (sgn : Bool) (sx : Bool) (sl : BitVec 3) : Laws.RoundTrip.Statement (.fpeek g d pb fi sgn sx sl) := by
  refine Laws.RoundTrip.of_word _ _ rfl fun w => ?_
  rw [show ∀ r : Raw, r.op = 0x8C → r.candidate = (some (.fpeek r.guard r.d (r.b.extractLsb' 0 3) (r.a.extractLsb' 0 1) (r.mod.getLsbD 0) (r.mod.getLsbD 1) r.sl)) from
    fun r h => by rcases r; cases h; rfl]
  · dsimp only [Raw.guard, Option.isSome, Option.getD]
    try simp (disch := decide) only [field_high, field_low, field_all, bit_low, bit_high, bit_bool]
    try simp
  · rfl
theorem Laws.RoundTrip.fend (g : Guard) (pd : BitVec 3) (fi : BitVec 1) : Laws.RoundTrip.Statement (.fend g pd fi) := by
  refine Laws.RoundTrip.of_word _ _ rfl fun w => ?_
  rw [show ∀ r : Raw, r.op = 0x8D → r.candidate = (some (.fend r.guard (r.d.extractLsb' 0 3) (r.a.extractLsb' 0 1))) from
    fun r h => by rcases r; cases h; rfl]
  · dsimp only [Raw.guard, Option.isSome, Option.getD]
    try simp (disch := decide) only [field_high, field_low, field_all, bit_low, bit_high, bit_bool]
    try simp
  · rfl
theorem Laws.RoundTrip.fclose (g : Guard) (fi : BitVec 1) : Laws.RoundTrip.Statement (.fclose g fi) := by
  refine Laws.RoundTrip.of_word _ _ rfl fun w => ?_
  rw [show ∀ r : Raw, r.op = 0x8E → r.candidate = (some (.fclose r.guard (r.a.extractLsb' 0 1))) from
    fun r h => by rcases r; cases h; rfl]
  · dsimp only [Raw.guard, Option.isSome, Option.getD]
    try simp (disch := decide) only [field_high, field_low, field_all, bit_low, bit_high, bit_bool]
    try simp
  · rfl
theorem Laws.RoundTrip.atom (g : Guard) (op : AtomOp) (d : Reg) (bolt : BitVec 6) (ix : Src) (b : Src) (t : Option Fmt) (sx : Bool) (sl : BitVec 3) (scope : Scope) : Laws.RoundTrip.Statement (.atom g op d bolt ix b t sx sl scope) := by
  refine Laws.RoundTrip.of_word _ _ rfl fun w => ?_
  have hl : litsAgree [ix, b] = true := by
    exact and_left w
  rw [show ∀ r : Raw, r.op = 0xA0 → r.candidate = ((AtomOp.ofCode (r.mod.extractLsb' 6 3)).bind fun op' => (tyOfField (r.mod.extractLsb' 0 5)).bind fun t' => (Scope.ofCode r.scope).bind fun scope' => some (.atom r.guard op' r.d r.bolt (r.src r.a) (r.src r.b) t' (r.mod.getLsbD 5) r.sl scope')) from
    fun r h => by rcases r; cases h; rfl]
  · try rw [src_of _ hl ix (by simp) _ rfl, src_of _ hl b (by simp) _ rfl]
    dsimp only [Raw.guard, Option.isSome, Option.getD]
    try simp (disch := decide) only [field_high, field_low, field_all, bit_low, bit_high, bit_bool]
    try simp
  · rfl
theorem Laws.RoundTrip.acas (g : Guard) (d : Reg) (bolt : BitVec 6) (ix : Src) (b : Src) (c : Src) (t : Option Fmt) (sx : Bool) (sl : BitVec 3) (scope : Scope) : Laws.RoundTrip.Statement (.acas g d bolt ix b c t sx sl scope) := by
  refine Laws.RoundTrip.of_word _ _ rfl fun w => ?_
  have hl : litsAgree [ix, b, c] = true := by
    exact and_left w
  rw [show ∀ r : Raw, r.op = 0xA1 → r.candidate = ((tyOfField (r.mod.extractLsb' 0 5)).bind fun t' => (Scope.ofCode r.scope).bind fun scope' => some (.acas r.guard r.d r.bolt (r.src r.a) (r.src r.b) (r.src r.c) t' (r.mod.getLsbD 5) r.sl scope')) from
    fun r h => by rcases r; cases h; rfl]
  · try rw [src_of _ hl ix (by simp) _ rfl, src_of _ hl b (by simp) _ rfl, src_of _ hl c (by simp) _ rfl]
    dsimp only [Raw.guard, Option.isSome, Option.getD]
    try simp (disch := decide) only [field_high, field_low, field_all, bit_low, bit_high, bit_bool]
    try simp
  · rfl
theorem Laws.RoundTrip.ared (g : Guard) (op : AtomOp) (bolt : BitVec 6) (ix : Src) (b : Src) (t : Option Fmt) (sl : BitVec 3) (scope : Scope) : Laws.RoundTrip.Statement (.ared g op bolt ix b t sl scope) := by
  refine Laws.RoundTrip.of_word _ _ rfl fun w => ?_
  have hl : litsAgree [ix, b] = true := by
    exact and_left w
  rw [show ∀ r : Raw, r.op = 0xA2 → r.candidate = ((AtomOp.ofCode (r.mod.extractLsb' 6 3)).bind fun op' => (tyOfField (r.mod.extractLsb' 0 5)).bind fun t' => (Scope.ofCode r.scope).bind fun scope' => some (.ared r.guard op' r.bolt (r.src r.a) (r.src r.b) t' r.sl scope')) from
    fun r h => by rcases r; cases h; rfl]
  · try rw [src_of _ hl ix (by simp) _ rfl, src_of _ hl b (by simp) _ rfl]
    dsimp only [Raw.guard, Option.isSome, Option.getD]
    try simp (disch := decide) only [field_high, field_low, field_all, bit_low, bit_high, bit_bool]
    try simp
  · rfl
theorem Laws.RoundTrip.afadd (g : Guard) (d : Reg) (bolt : BitVec 6) (ix : Src) (b : Src) (t : Option Fmt) (sx : Bool) (sl : BitVec 3) (scope : Scope) : Laws.RoundTrip.Statement (.afadd g d bolt ix b t sx sl scope) := by
  refine Laws.RoundTrip.of_word _ _ rfl fun w => ?_
  have hl : litsAgree [ix, b] = true := by
    exact and_left w
  rw [show ∀ r : Raw, r.op = 0xA3 → r.candidate = ((tyOfField (r.mod.extractLsb' 0 5)).bind fun t' => (Scope.ofCode r.scope).bind fun scope' => some (.afadd r.guard r.d r.bolt (r.src r.a) (r.src r.b) t' (r.mod.getLsbD 5) r.sl scope')) from
    fun r h => by rcases r; cases h; rfl]
  · try rw [src_of _ hl ix (by simp) _ rfl, src_of _ hl b (by simp) _ rfl]
    dsimp only [Raw.guard, Option.isSome, Option.getD]
    try simp (disch := decide) only [field_high, field_low, field_all, bit_low, bit_high, bit_bool]
    try simp
  · rfl
theorem Laws.RoundTrip.txopen (g : Guard) (target : BitVec 16) : Laws.RoundTrip.Statement (.txopen g target) := by
  refine Laws.RoundTrip.of_word _ _ rfl fun w => ?_
  rw [show ∀ r : Raw, r.op = 0xA4 → r.candidate = (some (.txopen r.guard r.imm)) from
    fun r h => by rcases r; cases h; rfl]
  · dsimp only [Raw.guard, Option.isSome, Option.getD]
    try simp (disch := decide) only [field_high, field_low, field_all, bit_low, bit_high, bit_bool]
    try simp
  · rfl
theorem Laws.RoundTrip.txseal (g : Guard) : Laws.RoundTrip.Statement (.txseal g) := by
  refine Laws.RoundTrip.of_word _ _ rfl fun w => ?_
  rw [show ∀ r : Raw, r.op = 0xA5 → r.candidate = (some (.txseal r.guard)) from
    fun r h => by rcases r; cases h; rfl]
  · dsimp only [Raw.guard, Option.isSome, Option.getD]
    try simp (disch := decide) only [field_high, field_low, field_all, bit_low, bit_high, bit_bool]
    try simp
  · rfl
theorem Laws.RoundTrip.txretry (g : Guard) : Laws.RoundTrip.Statement (.txretry g) := by
  refine Laws.RoundTrip.of_word _ _ rfl fun w => ?_
  rw [show ∀ r : Raw, r.op = 0xA6 → r.candidate = (some (.txretry r.guard)) from
    fun r h => by rcases r; cases h; rfl]
  · dsimp only [Raw.guard, Option.isSome, Option.getD]
    try simp (disch := decide) only [field_high, field_low, field_all, bit_low, bit_high, bit_bool]
    try simp
  · rfl
theorem Laws.RoundTrip.txelse (g : Guard) (target : BitVec 16) : Laws.RoundTrip.Statement (.txelse g target) := by
  refine Laws.RoundTrip.of_word _ _ rfl fun w => ?_
  rw [show ∀ r : Raw, r.op = 0xA7 → r.candidate = (some (.txelse r.guard r.imm)) from
    fun r h => by rcases r; cases h; rfl]
  · dsimp only [Raw.guard, Option.isSome, Option.getD]
    try simp (disch := decide) only [field_high, field_low, field_all, bit_low, bit_high, bit_bool]
    try simp
  · rfl
theorem Laws.RoundTrip.txdrop (g : Guard) (code : BitVec 8) : Laws.RoundTrip.Statement (.txdrop g code) := by
  refine Laws.RoundTrip.of_word _ _ rfl fun w => ?_
  rw [show ∀ r : Raw, r.op = 0xA8 → r.candidate = (some (.txdrop r.guard (r.imm.extractLsb' 0 8))) from
    fun r h => by rcases r; cases h; rfl]
  · dsimp only [Raw.guard, Option.isSome, Option.getD]
    try simp (disch := decide) only [field_high, field_low, field_all, bit_low, bit_high, bit_bool]
    try simp
  · rfl
theorem Laws.RoundTrip.txstat (g : Guard) (d : Reg) : Laws.RoundTrip.Statement (.txstat g d) := by
  refine Laws.RoundTrip.of_word _ _ rfl fun w => ?_
  rw [show ∀ r : Raw, r.op = 0xA9 → r.candidate = (some (.txstat r.guard r.d)) from
    fun r h => by rcases r; cases h; rfl]
  · dsimp only [Raw.guard, Option.isSome, Option.getD]
    try simp (disch := decide) only [field_high, field_low, field_all, bit_low, bit_high, bit_bool]
    try simp
  · rfl
theorem Laws.RoundTrip.binit (g : Guard) (bolt : BitVec 6) (ix : Src) (b : Src) : Laws.RoundTrip.Statement (.binit g bolt ix b) := by
  refine Laws.RoundTrip.of_word _ _ rfl fun w => ?_
  have hl : litsAgree [ix, b] = true := by
    exact w
  rw [show ∀ r : Raw, r.op = 0xAA → r.candidate = (some (.binit r.guard r.bolt (r.src r.a) (r.src r.b))) from
    fun r h => by rcases r; cases h; rfl]
  · try rw [src_of _ hl ix (by simp) _ rfl, src_of _ hl b (by simp) _ rfl]
    dsimp only [Raw.guard, Option.isSome, Option.getD]
    try simp (disch := decide) only [field_high, field_low, field_all, bit_low, bit_high, bit_bool]
    try simp
  · rfl
theorem Laws.RoundTrip.bwait (g : Guard) (bolt : BitVec 6) (ix : Src) (b : Src) : Laws.RoundTrip.Statement (.bwait g bolt ix b) := by
  refine Laws.RoundTrip.of_word _ _ rfl fun w => ?_
  have hl : litsAgree [ix, b] = true := by
    exact w
  rw [show ∀ r : Raw, r.op = 0xAC → r.candidate = (some (.bwait r.guard r.bolt (r.src r.a) (r.src r.b))) from
    fun r h => by rcases r; cases h; rfl]
  · try rw [src_of _ hl ix (by simp) _ rfl, src_of _ hl b (by simp) _ rfl]
    dsimp only [Raw.guard, Option.isSome, Option.getD]
    try simp (disch := decide) only [field_high, field_low, field_all, bit_low, bit_high, bit_bool]
    try simp
  · rfl
theorem Laws.RoundTrip.bexp (g : Guard) (bolt : BitVec 6) (ix : Src) (b : Src) : Laws.RoundTrip.Statement (.bexp g bolt ix b) := by
  refine Laws.RoundTrip.of_word _ _ rfl fun w => ?_
  have hl : litsAgree [ix, b] = true := by
    exact w
  rw [show ∀ r : Raw, r.op = 0xAD → r.candidate = (some (.bexp r.guard r.bolt (r.src r.a) (r.src r.b))) from
    fun r h => by rcases r; cases h; rfl]
  · try rw [src_of _ hl ix (by simp) _ rfl, src_of _ hl b (by simp) _ rfl]
    dsimp only [Raw.guard, Option.isSome, Option.getD]
    try simp (disch := decide) only [field_high, field_low, field_all, bit_low, bit_high, bit_bool]
    try simp
  · rfl
theorem Laws.RoundTrip.barv (g : Guard) (d : Reg) (bolt : BitVec 6) (ix : Src) (b : Src) (thr : Bool) : Laws.RoundTrip.Statement (.barv g d bolt ix b thr) := by
  refine Laws.RoundTrip.of_word _ _ rfl fun w => ?_
  have hl : litsAgree [ix, b] = true := by
    exact w
  rw [show ∀ r : Raw, r.op = 0xAB → r.candidate = (some (.barv r.guard r.d r.bolt (r.src r.a) (r.src r.b) (r.mod.getLsbD 6))) from
    fun r h => by rcases r; cases h; rfl]
  · try rw [src_of _ hl ix (by simp) _ rfl, src_of _ hl b (by simp) _ rfl]
    dsimp only [Raw.guard, Option.isSome, Option.getD]
    try simp (disch := decide) only [field_high, field_low, field_all, bit_low, bit_high, bit_bool]
    try simp
  · rfl
theorem Laws.RoundTrip.hpush (g : Guard) (nb : Bool) (pd : BitVec 3) (h : BitVec 5) (b : Src) (nw : BitVec 2) : Laws.RoundTrip.Statement (.hpush g nb pd h b nw) := by
  refine Laws.RoundTrip.of_word _ _ rfl fun w => ?_
  have hl : litsAgree [b] = true := by
    exact and_left w
  rw [show ∀ r : Raw, r.op = 0xAE → r.candidate = (some (.hpush r.guard (r.mod.getLsbD 2) (r.d.extractLsb' 0 3) (r.a.extractLsb' 0 5) (r.src r.b) (r.mod.extractLsb' 0 2))) from
    fun r h => by rcases r; cases h; rfl]
  · try rw [src_of _ hl b (by simp) _ rfl]
    dsimp only [Raw.guard, Option.isSome, Option.getD]
    try simp (disch := decide) only [field_high, field_low, field_all, bit_low, bit_high, bit_bool]
    try simp
  · rfl
theorem Laws.RoundTrip.hpop (g : Guard) (d : Reg) (h : BitVec 5) (nw : BitVec 2) (ka : Bool) (at_ : Bool) : Laws.RoundTrip.Statement (.hpop g d h nw ka at_) := by
  refine Laws.RoundTrip.of_word _ _ rfl fun w => ?_
  rw [show ∀ r : Raw, r.op = 0xAF → r.candidate = (some (.hpop r.guard r.d (r.a.extractLsb' 0 5) (r.mod.extractLsb' 0 2) (r.mod.getLsbD 4) (r.mod.getLsbD 3))) from
    fun r h => by rcases r; cases h; rfl]
  · dsimp only [Raw.guard, Option.isSome, Option.getD]
    try simp (disch := decide) only [field_high, field_low, field_all, bit_low, bit_high, bit_bool]
    try simp
  · rfl
theorem Laws.RoundTrip.htry (g : Guard) (d : Reg) (pb : BitVec 3) (h : BitVec 5) (nw : BitVec 2) (ka : Bool) (at_ : Bool) : Laws.RoundTrip.Statement (.htry g d pb h nw ka at_) := by
  refine Laws.RoundTrip.of_word _ _ rfl fun w => ?_
  rw [show ∀ r : Raw, r.op = 0xB0 → r.candidate = (some (.htry r.guard r.d (r.b.extractLsb' 0 3) (r.a.extractLsb' 0 5) (r.mod.extractLsb' 0 2) (r.mod.getLsbD 4) (r.mod.getLsbD 3))) from
    fun r h => by rcases r; cases h; rfl]
  · dsimp only [Raw.guard, Option.isSome, Option.getD]
    try simp (disch := decide) only [field_high, field_low, field_all, bit_low, bit_high, bit_bool]
    try simp
  · rfl
theorem Laws.RoundTrip.hpeek (g : Guard) (d : Reg) (pb : BitVec 3) (h : BitVec 5) (k : BitVec 12) (nw : BitVec 2) (at_ : Bool) : Laws.RoundTrip.Statement (.hpeek g d pb h k nw at_) := by
  refine Laws.RoundTrip.of_word _ _ rfl fun w => ?_
  rw [show ∀ r : Raw, r.op = 0xB1 → r.candidate = (some (.hpeek r.guard r.d (r.b.extractLsb' 0 3) (r.a.extractLsb' 0 5) (r.imm.extractLsb' 0 12) (r.mod.extractLsb' 0 2) (r.mod.getLsbD 3))) from
    fun r h => by rcases r; cases h; rfl]
  · dsimp only [Raw.guard, Option.isSome, Option.getD]
    try simp (disch := decide) only [field_high, field_low, field_all, bit_low, bit_high, bit_bool]
    try simp
  · rfl
theorem Laws.RoundTrip.hallow (g : Guard) (h : BitVec 5) (b : Src) : Laws.RoundTrip.Statement (.hallow g h b) := by
  refine Laws.RoundTrip.of_word _ _ rfl fun w => ?_
  have hl : litsAgree [b] = true := by
    exact w
  rw [show ∀ r : Raw, r.op = 0xB2 → r.candidate = (some (.hallow r.guard (r.a.extractLsb' 0 5) (r.src r.b))) from
    fun r h => by rcases r; cases h; rfl]
  · try rw [src_of _ hl b (by simp) _ rfl]
    dsimp only [Raw.guard, Option.isSome, Option.getD]
    try simp (disch := decide) only [field_high, field_low, field_all, bit_low, bit_high, bit_bool]
    try simp
  · rfl
theorem Laws.RoundTrip.hreset (g : Guard) (h : BitVec 5) : Laws.RoundTrip.Statement (.hreset g h) := by
  refine Laws.RoundTrip.of_word _ _ rfl fun w => ?_
  rw [show ∀ r : Raw, r.op = 0xB3 → r.candidate = (if r.mod.extractLsb' 5 1 == 1#1 then some (.hresetDef r.guard (r.a.extractLsb' 0 5) (r.src r.b)) else some (.hreset r.guard (r.a.extractLsb' 0 5))) from
    fun r h => by rcases r; cases h; rfl]
  · dsimp only [Raw.guard, Option.isSome, Option.getD]
    try simp (disch := decide) only [field_high, field_low, field_all, bit_low, bit_high, bit_bool]
    try simp
  · rfl
theorem Laws.RoundTrip.hresetDef (g : Guard) (h : BitVec 5) (b : Src) : Laws.RoundTrip.Statement (.hresetDef g h b) := by
  refine Laws.RoundTrip.of_word _ _ rfl fun w => ?_
  have hl : litsAgree [b] = true := by
    exact w
  rw [show ∀ r : Raw, r.op = 0xB3 → r.candidate = (if r.mod.extractLsb' 5 1 == 1#1 then some (.hresetDef r.guard (r.a.extractLsb' 0 5) (r.src r.b)) else some (.hreset r.guard (r.a.extractLsb' 0 5))) from
    fun r h => by rcases r; cases h; rfl]
  · try rw [src_of _ hl b (by simp) _ rfl]
    dsimp only [Raw.guard, Option.isSome, Option.getD]
    try simp (disch := decide) only [field_high, field_low, field_all, bit_low, bit_high, bit_bool]
    try simp
  · rfl
theorem Laws.RoundTrip.cpy (g : Guard) (sh : Bool) (dh : Bool) (bsp : BitVec 2) (src : BitVec 8) (dst : BitVec 8) (a : Src) (b : Src) (c : Src) (n : BitVec 12) (sl : BitVec 3) : Laws.RoundTrip.Statement (.cpy g sh dh bsp src dst a b c n sl) := by
  refine Laws.RoundTrip.of_word _ _ rfl fun w => ?_
  have hl : litsAgree [a, b, c] = true := by
    exact and_left w
  rw [show ∀ r : Raw, r.op = 0xC0 → r.candidate = (some (.cpy r.guard (r.mod.getLsbD 0) (r.mod.getLsbD 1) (r.mod.extractLsb' 2 2) (r.imm.extractLsb' 0 8) (r.imm.extractLsb' 8 8) (r.src r.a) (r.src r.b) (r.src r.c) r.count r.sl)) from
    fun r h => by rcases r; cases h; rfl]
  · try rw [src_of _ hl a (by simp) _ rfl, src_of _ hl b (by simp) _ rfl, src_of _ hl c (by simp) _ rfl]
    dsimp only [Raw.guard, Option.isSome, Option.getD]
    try simp (disch := decide) only [field_high, field_low, field_all, bit_low, bit_high, bit_bool]
    try simp
  · rfl
theorem Laws.RoundTrip.cpym (g : Guard) (d : Reg) (sh : Bool) (bsp : BitVec 2) (src : BitVec 8) (dst : BitVec 8) (a : Src) (b : Src) (c : Src) (n : BitVec 12) (scope : Scope) (sl : BitVec 3) : Laws.RoundTrip.Statement (.cpym g d sh bsp src dst a b c n scope sl) := by
  refine Laws.RoundTrip.of_word _ _ rfl fun w => ?_
  have hl : litsAgree [a, b, c] = true := by
    exact and_left w
  rw [show ∀ r : Raw, r.op = 0xC1 → r.candidate = ((Scope.ofCode r.scope).bind fun scope' => some (.cpym r.guard r.d (r.mod.getLsbD 0) (r.mod.extractLsb' 2 2) (r.imm.extractLsb' 0 8) (r.imm.extractLsb' 8 8) (r.src r.a) (r.src r.b) (r.src r.c) r.count scope' r.sl)) from
    fun r h => by rcases r; cases h; rfl]
  · try rw [src_of _ hl a (by simp) _ rfl, src_of _ hl b (by simp) _ rfl, src_of _ hl c (by simp) _ rfl]
    dsimp only [Raw.guard, Option.isSome, Option.getD]
    try simp (disch := decide) only [field_high, field_low, field_all, bit_low, bit_high, bit_bool]
    try simp
  · rfl
theorem Laws.RoundTrip.cpyo (g : Guard) (any : Bool) (slot : BitVec 2) (bsp : BitVec 2) (a : Src) (c : Src) (sl : BitVec 3) : Laws.RoundTrip.Statement (.cpyo g any slot bsp a c sl) := by
  refine Laws.RoundTrip.of_word _ _ rfl fun w => ?_
  have hl : litsAgree [a, c] = true := by
    exact and_left w
  rw [show ∀ r : Raw, r.op = 0xC2 → r.candidate = (some (.cpyo r.guard (r.mod.getLsbD 4) (r.imm.extractLsb' 0 2) (r.mod.extractLsb' 2 2) (r.src r.a) (r.src r.c) r.sl)) from
    fun r h => by rcases r; cases h; rfl]
  · try rw [src_of _ hl a (by simp) _ rfl, src_of _ hl c (by simp) _ rfl]
    dsimp only [Raw.guard, Option.isSome, Option.getD]
    try simp (disch := decide) only [field_high, field_low, field_all, bit_low, bit_high, bit_bool]
    try simp
  · rfl
theorem Laws.RoundTrip.gath (g : Guard) (sh : Bool) (dh : Bool) (bsp : BitVec 2) (src : BitVec 8) (dst : BitVec 8) (bolt : BitVec 6) (a : Src) (b : Src) (c : Src) (n : BitVec 12) (sl : BitVec 3) : Laws.RoundTrip.Statement (.gath g sh dh bsp src dst bolt a b c n sl) := by
  refine Laws.RoundTrip.of_word _ _ rfl fun w => ?_
  have hl : litsAgree [a, b, c] = true := by
    exact and_left w
  rw [show ∀ r : Raw, r.op = 0xC3 → r.candidate = (some (.gath r.guard (r.mod.getLsbD 0) (r.mod.getLsbD 1) (r.mod.extractLsb' 2 2) (r.imm.extractLsb' 0 8) (r.imm.extractLsb' 8 8) r.bolt (r.src r.a) (r.src r.b) (r.src r.c) r.count r.sl)) from
    fun r h => by rcases r; cases h; rfl]
  · try rw [src_of _ hl a (by simp) _ rfl, src_of _ hl b (by simp) _ rfl, src_of _ hl c (by simp) _ rfl]
    dsimp only [Raw.guard, Option.isSome, Option.getD]
    try simp (disch := decide) only [field_high, field_low, field_all, bit_low, bit_high, bit_bool]
    try simp
  · rfl
theorem Laws.RoundTrip.scat (g : Guard) (sh : Bool) (bsp : BitVec 2) (src : BitVec 8) (dst : BitVec 8) (bolt : BitVec 6) (a : Src) (b : Src) (c : Src) (n : BitVec 12) (sl : BitVec 3) : Laws.RoundTrip.Statement (.scat g sh bsp src dst bolt a b c n sl) := by
  refine Laws.RoundTrip.of_word _ _ rfl fun w => ?_
  have hl : litsAgree [a, b, c] = true := by
    exact and_left w
  rw [show ∀ r : Raw, r.op = 0xC4 → r.candidate = (some (.scat r.guard (r.mod.getLsbD 0) (r.mod.extractLsb' 2 2) (r.imm.extractLsb' 0 8) (r.imm.extractLsb' 8 8) r.bolt (r.src r.a) (r.src r.b) (r.src r.c) r.count r.sl)) from
    fun r h => by rcases r; cases h; rfl]
  · try rw [src_of _ hl a (by simp) _ rfl, src_of _ hl b (by simp) _ rfl, src_of _ hl c (by simp) _ rfl]
    dsimp only [Raw.guard, Option.isSome, Option.getD]
    try simp (disch := decide) only [field_high, field_low, field_all, bit_low, bit_high, bit_bool]
    try simp
  · rfl
theorem Laws.RoundTrip.bin (g : Guard) (h : BitVec 5) (bolt : BitVec 6) (a : Src) (b : Src) (c : Reg) (sl : BitVec 3) : Laws.RoundTrip.Statement (.bin g h bolt a b c sl) := by
  refine Laws.RoundTrip.of_word _ _ rfl fun w => ?_
  have hl : litsAgree [a, b] = true := by
    exact w
  rw [show ∀ r : Raw, r.op = 0xC5 → r.candidate = (some (.bin r.guard (r.imm.extractLsb' 8 5) r.bolt (r.src r.a) (r.src r.b) r.c r.sl)) from
    fun r h => by rcases r; cases h; rfl]
  · try rw [src_of _ hl a (by simp) _ rfl, src_of _ hl b (by simp) _ rfl]
    dsimp only [Raw.guard, Option.isSome, Option.getD]
    try simp (disch := decide) only [field_high, field_low, field_all, bit_low, bit_high, bit_bool]
    try simp
  · rfl
theorem Laws.RoundTrip.kset (g : Guard) (k : BitVec 4) (a : Reg) (n : BitVec 16) : Laws.RoundTrip.Statement (.kset g k a n) := by
  refine Laws.RoundTrip.of_word _ _ rfl fun w => ?_
  rw [show ∀ r : Raw, r.op = 0xC6 → r.candidate = (some (.kset r.guard (r.d.extractLsb' 0 4) r.a r.imm)) from
    fun r h => by rcases r; cases h; rfl]
  · dsimp only [Raw.guard, Option.isSome, Option.getD]
    try simp (disch := decide) only [field_high, field_low, field_all, bit_low, bit_high, bit_bool]
    try simp
  · rfl
theorem Laws.RoundTrip.ksign (g : Guard) (k : BitVec 4) : Laws.RoundTrip.Statement (.ksign g k) := by
  refine Laws.RoundTrip.of_word _ _ rfl fun w => ?_
  rw [show ∀ r : Raw, r.op = 0xC7 → r.candidate = (some (.ksign r.guard (r.d.extractLsb' 0 4))) from
    fun r h => by rcases r; cases h; rfl]
  · dsimp only [Raw.guard, Option.isSome, Option.getD]
    try simp (disch := decide) only [field_high, field_low, field_all, bit_low, bit_high, bit_bool]
    try simp
  · rfl
theorem Laws.RoundTrip.tldb (g : Guard) (bank : BitVec 2) (pat : BitVec 8) (a : Src) (sg : Bool) (lk : Bool) (d : Reg) (c : Src) (sl : BitVec 3) : Laws.RoundTrip.Statement (.tldb g bank pat a sg lk d c sl) := by
  refine Laws.RoundTrip.of_word _ _ rfl fun w => ?_
  have hl : litsAgree [a, c] = true := by
    exact and_left w
  rw [show ∀ r : Raw, r.op = 0xC8 → r.candidate = (some (.tldb r.guard (r.mod.extractLsb' 2 2) r.patn (r.src r.a) (r.imm.getLsbD 8) (r.mod.getLsbD 9) r.d (r.src r.c) r.sl)) from
    fun r h => by rcases r; cases h; rfl]
  · try rw [src_of _ hl a (by simp) _ rfl, src_of _ hl c (by simp) _ rfl]
    dsimp only [Raw.guard, Option.isSome, Option.getD]
    try simp (disch := decide) only [field_high, field_low, field_all, bit_low, bit_high, bit_bool]
    try simp
  · rfl
theorem Laws.RoundTrip.tmma (g : Guard) (acc : Bool) (tile : Bool) (bank : BitVec 2) (sh : Bool) (kp : BitVec 3) (int : Bool) (pat : BitVec 8) (h : BitVec 5) (a : Src) (n : BitVec 12) (sg : Bool) (lk : Bool) (d : Reg) (c : Src) (sl : BitVec 3) : Laws.RoundTrip.Statement (.tmma g acc tile bank sh kp int pat h a n sg lk d c sl) := by
  refine Laws.RoundTrip.of_word _ _ rfl fun w => ?_
  have hl : litsAgree [a, c] = true := by
    exact and_left w
  rw [show ∀ r : Raw, r.op = 0xC9 → r.candidate = (some (.tmma r.guard (r.mod.getLsbD 0) (r.mod.getLsbD 1) (r.mod.extractLsb' 2 2) (r.mod.getLsbD 4) (r.mod.extractLsb' 5 3) (r.mod.getLsbD 8) r.patn (r.imm.extractLsb' 0 5) (r.src r.a) r.count (r.imm.getLsbD 8) (r.mod.getLsbD 9) r.d (r.src r.c) r.sl)) from
    fun r h => by rcases r; cases h; rfl]
  · try rw [src_of _ hl a (by simp) _ rfl, src_of _ hl c (by simp) _ rfl]
    dsimp only [Raw.guard, Option.isSome, Option.getD]
    try simp (disch := decide) only [field_high, field_low, field_all, bit_low, bit_high, bit_bool]
    try simp
  · rfl
theorem Laws.RoundTrip.tmmag (g : Guard) (acc : Bool) (tile : Bool) (bank : BitVec 2) (sh : Bool) (kp : BitVec 3) (int : Bool) (pat : BitVec 8) (h : BitVec 5) (bolt : BitVec 6) (a : Src) (b : Src) (n : BitVec 12) (sg : Bool) (lk : Bool) (d : Reg) (c : Src) (sl : BitVec 3) : Laws.RoundTrip.Statement (.tmmag g acc tile bank sh kp int pat h bolt a b n sg lk d c sl) := by
  refine Laws.RoundTrip.of_word _ _ rfl fun w => ?_
  have hl : litsAgree [a, b, c] = true := by
    exact and_left w
  rw [show ∀ r : Raw, r.op = 0xCA → r.candidate = (some (.tmmag r.guard (r.mod.getLsbD 0) (r.mod.getLsbD 1) (r.mod.extractLsb' 2 2) (r.mod.getLsbD 4) (r.mod.extractLsb' 5 3) (r.mod.getLsbD 8) r.patn (r.imm.extractLsb' 0 5) r.bolt (r.src r.a) (r.src r.b) r.count (r.imm.getLsbD 8) (r.mod.getLsbD 9) r.d (r.src r.c) r.sl)) from
    fun r h => by rcases r; cases h; rfl]
  · try rw [src_of _ hl a (by simp) _ rfl, src_of _ hl b (by simp) _ rfl, src_of _ hl c (by simp) _ rfl]
    dsimp only [Raw.guard, Option.isSome, Option.getD]
    try simp (disch := decide) only [field_high, field_low, field_all, bit_low, bit_high, bit_bool]
    try simp
  · rfl
theorem Laws.RoundTrip.tzero (g : Guard) (tile : Bool) (sg : Bool) (lk : Bool) (d : Reg) (c : Src) (sl : BitVec 3) : Laws.RoundTrip.Statement (.tzero g tile sg lk d c sl) := by
  refine Laws.RoundTrip.of_word _ _ rfl fun w => ?_
  have hl : litsAgree [c] = true := by
    exact and_left w
  rw [show ∀ r : Raw, r.op = 0xCB → r.candidate = (some (.tzero r.guard (r.mod.getLsbD 1) (r.imm.getLsbD 8) (r.mod.getLsbD 9) r.d (r.src r.c) r.sl)) from
    fun r h => by rcases r; cases h; rfl]
  · try rw [src_of _ hl c (by simp) _ rfl]
    dsimp only [Raw.guard, Option.isSome, Option.getD]
    try simp (disch := decide) only [field_high, field_low, field_all, bit_low, bit_high, bit_bool]
    try simp
  · rfl
theorem Laws.RoundTrip.tsta (g : Guard) (tile : Bool) (sh : Bool) (pat : BitVec 8) (h : BitVec 5) (a : Src) (b : Src) (n : BitVec 12) (sg : Bool) (lk : Bool) (d : Reg) (c : Src) (sl : BitVec 3) : Laws.RoundTrip.Statement (.tsta g tile sh pat h a b n sg lk d c sl) := by
  refine Laws.RoundTrip.of_word _ _ rfl fun w => ?_
  have hl : litsAgree [a, b, c] = true := by
    exact and_left w
  rw [show ∀ r : Raw, r.op = 0xCC → r.candidate = (if r.mod.extractLsb' 5 1 == 1#1 then some (.tstaSt r.guard (r.mod.getLsbD 1) r.patn (r.src r.a) (r.imm.getLsbD 8) (r.mod.getLsbD 9) r.d (r.src r.c) r.sl) else some (.tsta r.guard (r.mod.getLsbD 1) (r.mod.getLsbD 4) r.patn (r.imm.extractLsb' 0 5) (r.src r.a) (r.src r.b) r.count (r.imm.getLsbD 8) (r.mod.getLsbD 9) r.d (r.src r.c) r.sl)) from
    fun r h => by rcases r; cases h; rfl]
  · try rw [src_of _ hl a (by simp) _ rfl, src_of _ hl b (by simp) _ rfl, src_of _ hl c (by simp) _ rfl]
    dsimp only [Raw.guard, Option.isSome, Option.getD]
    try simp (disch := decide) only [field_high, field_low, field_all, bit_low, bit_high, bit_bool]
    try simp
  · rfl
theorem Laws.RoundTrip.tstaSt (g : Guard) (tile : Bool) (pat : BitVec 8) (a : Src) (sg : Bool) (lk : Bool) (d : Reg) (c : Src) (sl : BitVec 3) : Laws.RoundTrip.Statement (.tstaSt g tile pat a sg lk d c sl) := by
  refine Laws.RoundTrip.of_word _ _ rfl fun w => ?_
  have hl : litsAgree [a, c] = true := by
    exact and_left w
  rw [show ∀ r : Raw, r.op = 0xCC → r.candidate = (if r.mod.extractLsb' 5 1 == 1#1 then some (.tstaSt r.guard (r.mod.getLsbD 1) r.patn (r.src r.a) (r.imm.getLsbD 8) (r.mod.getLsbD 9) r.d (r.src r.c) r.sl) else some (.tsta r.guard (r.mod.getLsbD 1) (r.mod.getLsbD 4) r.patn (r.imm.extractLsb' 0 5) (r.src r.a) (r.src r.b) r.count (r.imm.getLsbD 8) (r.mod.getLsbD 9) r.d (r.src r.c) r.sl)) from
    fun r h => by rcases r; cases h; rfl]
  · try rw [src_of _ hl a (by simp) _ rfl, src_of _ hl c (by simp) _ rfl]
    dsimp only [Raw.guard, Option.isSome, Option.getD]
    try simp (disch := decide) only [field_high, field_low, field_all, bit_low, bit_high, bit_bool]
    try simp
  · rfl
theorem Laws.RoundTrip.rtprb (g : Guard) (d : Reg) (rt : BitVec 4) (sh : Bool) (h : BitVec 5) (pat : BitVec 8) (a : Src) (b : Src) (bolt : BitVec 6) (n : BitVec 12) (sl : BitVec 3) : Laws.RoundTrip.Statement (.rtprb g d rt sh h pat a b bolt n sl) := by
  refine Laws.RoundTrip.of_word _ _ rfl fun w => ?_
  have hl : litsAgree [a, b] = true := by
    exact and_left w
  rw [show ∀ r : Raw, r.op = 0xCD → r.candidate = (some (.rtprb r.guard r.d (r.imm.extractLsb' 0 4) (r.mod.getLsbD 0) (r.imm.extractLsb' 4 5) r.patn (r.src r.a) (r.src r.b) r.bolt r.count r.sl)) from
    fun r h => by rcases r; cases h; rfl]
  · try rw [src_of _ hl a (by simp) _ rfl, src_of _ hl b (by simp) _ rfl]
    dsimp only [Raw.guard, Option.isSome, Option.getD]
    try simp (disch := decide) only [field_high, field_low, field_all, bit_low, bit_high, bit_bool]
    try simp
  · rfl
theorem Laws.RoundTrip.rtins (g : Guard) (pd : BitVec 3) (rt : BitVec 4) (a : Src) (sl : BitVec 3) : Laws.RoundTrip.Statement (.rtins g pd rt a sl) := by
  refine Laws.RoundTrip.of_word _ _ rfl fun w => ?_
  have hl : litsAgree [a] = true := by
    exact w
  rw [show ∀ r : Raw, r.op = 0xCE → r.candidate = (some (.rtins r.guard (r.d.extractLsb' 0 3) (r.imm.extractLsb' 0 4) (r.src r.a) r.sl)) from
    fun r h => by rcases r; cases h; rfl]
  · try rw [src_of _ hl a (by simp) _ rfl]
    dsimp only [Raw.guard, Option.isSome, Option.getD]
    try simp (disch := decide) only [field_high, field_low, field_all, bit_low, bit_high, bit_bool]
    try simp
  · rfl
theorem Laws.RoundTrip.rtdel (g : Guard) (pd : BitVec 3) (rt : BitVec 4) (a : Src) (sl : BitVec 3) : Laws.RoundTrip.Statement (.rtdel g pd rt a sl) := by
  refine Laws.RoundTrip.of_word _ _ rfl fun w => ?_
  have hl : litsAgree [a] = true := by
    exact w
  rw [show ∀ r : Raw, r.op = 0xCF → r.candidate = (some (.rtdel r.guard (r.d.extractLsb' 0 3) (r.imm.extractLsb' 0 4) (r.src r.a) r.sl)) from
    fun r h => by rcases r; cases h; rfl]
  · try rw [src_of _ hl a (by simp) _ rfl]
    dsimp only [Raw.guard, Option.isSome, Option.getD]
    try simp (disch := decide) only [field_high, field_low, field_all, bit_low, bit_high, bit_bool]
    try simp
  · rfl
theorem Laws.RoundTrip.rtrhs (g : Guard) (rt : BitVec 4) (a : Src) (sl : BitVec 3) : Laws.RoundTrip.Statement (.rtrhs g rt a sl) := by
  refine Laws.RoundTrip.of_word _ _ rfl fun w => ?_
  have hl : litsAgree [a] = true := by
    exact w
  rw [show ∀ r : Raw, r.op = 0xD0 → r.candidate = (some (.rtrhs r.guard (r.imm.extractLsb' 0 4) (r.src r.a) r.sl)) from
    fun r h => by rcases r; cases h; rfl]
  · try rw [src_of _ hl a (by simp) _ rfl]
    dsimp only [Raw.guard, Option.isSome, Option.getD]
    try simp (disch := decide) only [field_high, field_low, field_all, bit_low, bit_high, bit_bool]
    try simp
  · rfl
theorem Laws.RoundTrip.rtsync (g : Guard) : Laws.RoundTrip.Statement (.rtsync g) := by
  refine Laws.RoundTrip.of_word _ _ rfl fun w => ?_
  rw [show ∀ r : Raw, r.op = 0xD1 → r.candidate = (some (.rtsync r.guard)) from
    fun r h => by rcases r; cases h; rfl]
  · dsimp only [Raw.guard, Option.isSome, Option.getD]
    try simp (disch := decide) only [field_high, field_low, field_all, bit_low, bit_high, bit_bool]
    try simp
  · rfl
theorem Laws.RoundTrip.movs (g : Guard) (d : Reg) (num : BitVec 8) (idx : BitVec 8) (x : Bool) (a : Src) : Laws.RoundTrip.Statement (.movs g d num idx x a) := by
  refine Laws.RoundTrip.of_word _ _ rfl fun w => ?_
  have hl : litsAgree [a] = true := by
    exact and_left w
  rw [show ∀ r : Raw, r.op = 0xE0 → r.candidate = (some (.movs r.guard r.d (r.imm.extractLsb' 0 8) (r.imm.extractLsb' 8 8) (r.mod.getLsbD 0) (r.src r.a))) from
    fun r h => by rcases r; cases h; rfl]
  · try rw [src_of _ hl a (by simp) _ rfl]
    dsimp only [Raw.guard, Option.isSome, Option.getD]
    try simp (disch := decide) only [field_high, field_low, field_all, bit_low, bit_high, bit_bool]
    try simp
  · rfl
theorem Laws.RoundTrip.movsw (g : Guard) (num : BitVec 8) (idx : BitVec 8) (x : Bool) (a : Src) (b : Src) : Laws.RoundTrip.Statement (.movsw g num idx x a b) := by
  refine Laws.RoundTrip.of_word _ _ rfl fun w => ?_
  have hl : litsAgree [a, b] = true := by
    exact and_left w
  rw [show ∀ r : Raw, r.op = 0xE1 → r.candidate = (some (.movsw r.guard (r.imm.extractLsb' 0 8) (r.imm.extractLsb' 8 8) (r.mod.getLsbD 0) (r.src r.a) (r.src r.b))) from
    fun r h => by rcases r; cases h; rfl]
  · try rw [src_of _ hl a (by simp) _ rfl, src_of _ hl b (by simp) _ rfl]
    dsimp only [Raw.guard, Option.isSome, Option.getD]
    try simp (disch := decide) only [field_high, field_low, field_all, bit_low, bit_high, bit_bool]
    try simp
  · rfl
theorem Laws.RoundTrip.trap (g : Guard) (code : BitVec 16) : Laws.RoundTrip.Statement (.trap g code) := by
  refine Laws.RoundTrip.of_word _ _ rfl fun w => ?_
  rw [show ∀ r : Raw, r.op = 0xE2 → r.candidate = (some (.trap r.guard r.imm)) from
    fun r h => by rcases r; cases h; rfl]
  · dsimp only [Raw.guard, Option.isSome, Option.getD]
    try simp (disch := decide) only [field_high, field_low, field_all, bit_low, bit_high, bit_bool]
    try simp
  · rfl
theorem Laws.RoundTrip.tret (g : Guard) : Laws.RoundTrip.Statement (.tret g) := by
  refine Laws.RoundTrip.of_word _ _ rfl fun w => ?_
  rw [show ∀ r : Raw, r.op = 0xE3 → r.candidate = (some (.tret r.guard)) from
    fun r h => by rcases r; cases h; rfl]
  · dsimp only [Raw.guard, Option.isSome, Option.getD]
    try simp (disch := decide) only [field_high, field_low, field_all, bit_low, bit_high, bit_bool]
    try simp
  · rfl
theorem Laws.RoundTrip.slack (g : Guard) (d : Reg) : Laws.RoundTrip.Statement (.slack g d) := by
  refine Laws.RoundTrip.of_word _ _ rfl fun w => ?_
  rw [show ∀ r : Raw, r.op = 0xE4 → r.candidate = (if r.mod.extractLsb' 0 2 == 1#2 then some (.slackCls r.guard r.sl) else if r.mod.extractLsb' 0 2 == 2#2 then some (.slackSet r.guard (r.src r.a)) else some (.slack r.guard r.d)) from
    fun r h => by rcases r; cases h; rfl]
  · dsimp only [Raw.guard, Option.isSome, Option.getD]
    try simp (disch := decide) only [field_high, field_low, field_all, bit_low, bit_high, bit_bool]
    try simp
  · rfl
theorem Laws.RoundTrip.slackCls (g : Guard) (sl : BitVec 3) : Laws.RoundTrip.Statement (.slackCls g sl) := by
  refine Laws.RoundTrip.of_word _ _ rfl fun w => ?_
  rw [show ∀ r : Raw, r.op = 0xE4 → r.candidate = (if r.mod.extractLsb' 0 2 == 1#2 then some (.slackCls r.guard r.sl) else if r.mod.extractLsb' 0 2 == 2#2 then some (.slackSet r.guard (r.src r.a)) else some (.slack r.guard r.d)) from
    fun r h => by rcases r; cases h; rfl]
  · dsimp only [Raw.guard, Option.isSome, Option.getD]
    try simp (disch := decide) only [field_high, field_low, field_all, bit_low, bit_high, bit_bool]
    try simp
  · rfl
theorem Laws.RoundTrip.slackSet (g : Guard) (a : Src) : Laws.RoundTrip.Statement (.slackSet g a) := by
  refine Laws.RoundTrip.of_word _ _ rfl fun w => ?_
  have hl : litsAgree [a] = true := by
    exact w
  rw [show ∀ r : Raw, r.op = 0xE4 → r.candidate = (if r.mod.extractLsb' 0 2 == 1#2 then some (.slackCls r.guard r.sl) else if r.mod.extractLsb' 0 2 == 2#2 then some (.slackSet r.guard (r.src r.a)) else some (.slack r.guard r.d)) from
    fun r h => by rcases r; cases h; rfl]
  · try rw [src_of _ hl a (by simp) _ rfl]
    dsimp only [Raw.guard, Option.isSome, Option.getD]
    try simp (disch := decide) only [field_high, field_low, field_all, bit_low, bit_high, bit_bool]
    try simp
  · rfl
theorem Laws.RoundTrip.halt (g : Guard) : Laws.RoundTrip.Statement (.halt g) := by
  refine Laws.RoundTrip.of_word _ _ rfl fun w => ?_
  rw [show ∀ r : Raw, r.op = 0xE5 → r.candidate = (some (.halt r.guard)) from
    fun r h => by rcases r; cases h; rfl]
  · dsimp only [Raw.guard, Option.isSome, Option.getD]
    try simp (disch := decide) only [field_high, field_low, field_all, bit_low, bit_high, bit_bool]
    try simp
  · rfl
theorem Laws.RoundTrip.patdef (g : Guard) (n : BitVec 10) (mv : Bool) (a : Src) (bolt : BitVec 6) : Laws.RoundTrip.Statement (.patdef g n mv a bolt) := by
  refine Laws.RoundTrip.of_word _ _ rfl fun w => ?_
  have hl : litsAgree [a] = true := by
    exact and_left w
  rw [show ∀ r : Raw, r.op = 0xE6 → r.candidate = (some (.patdef r.guard (r.imm.extractLsb' 0 10) (r.mod.getLsbD 0) (r.src r.a) r.bolt)) from
    fun r h => by rcases r; cases h; rfl]
  · try rw [src_of _ hl a (by simp) _ rfl]
    dsimp only [Raw.guard, Option.isSome, Option.getD]
    try simp (disch := decide) only [field_high, field_low, field_all, bit_low, bit_high, bit_bool]
    try simp
  · rfl
theorem Laws.RoundTrip.patrd (g : Guard) (d : Reg) (n : BitVec 10) (w : BitVec 4) : Laws.RoundTrip.Statement (.patrd g d n w) := by
  refine Laws.RoundTrip.of_word _ _ rfl fun w => ?_
  rw [show ∀ r : Raw, r.op = 0xE7 → r.candidate = (some (.patrd r.guard r.d (r.imm.extractLsb' 0 10) (r.imm.extractLsb' 10 4))) from
    fun r h => by rcases r; cases h; rfl]
  · dsimp only [Raw.guard, Option.isSome, Option.getD]
    try simp (disch := decide) only [field_high, field_low, field_all, bit_low, bit_high, bit_bool]
    try simp
  · rfl
theorem Laws.RoundTrip.bldef (g : Guard) (n : BitVec 10) (mv : Bool) (a : Src) : Laws.RoundTrip.Statement (.bldef g n mv a) := by
  refine Laws.RoundTrip.of_word _ _ rfl fun w => ?_
  have hl : litsAgree [a] = true := by
    exact and_left w
  rw [show ∀ r : Raw, r.op = 0xE8 → r.candidate = (some (.bldef r.guard (r.imm.extractLsb' 0 10) (r.mod.getLsbD 0) (r.src r.a))) from
    fun r h => by rcases r; cases h; rfl]
  · try rw [src_of _ hl a (by simp) _ rfl]
    dsimp only [Raw.guard, Option.isSome, Option.getD]
    try simp (disch := decide) only [field_high, field_low, field_all, bit_low, bit_high, bit_bool]
    try simp
  · rfl
theorem Laws.RoundTrip.blrd (g : Guard) (d : Reg) (n : BitVec 10) (w : BitVec 2) : Laws.RoundTrip.Statement (.blrd g d n w) := by
  refine Laws.RoundTrip.of_word _ _ rfl fun w => ?_
  rw [show ∀ r : Raw, r.op = 0xE9 → r.candidate = (some (.blrd r.guard r.d (r.imm.extractLsb' 0 10) (r.imm.extractLsb' 10 2))) from
    fun r h => by rcases r; cases h; rfl]
  · dsimp only [Raw.guard, Option.isSome, Option.getD]
    try simp (disch := decide) only [field_high, field_low, field_all, bit_low, bit_high, bit_bool]
    try simp
  · rfl
theorem Laws.RoundTrip.hfset (g : Guard) (hf : BitVec 3) (a : Src) (b : Src) : Laws.RoundTrip.Statement (.hfset g hf a b) := by
  refine Laws.RoundTrip.of_word _ _ rfl fun w => ?_
  have hl : litsAgree [a, b] = true := by
    exact w
  rw [show ∀ r : Raw, r.op = 0xEA → r.candidate = (some (.hfset r.guard (r.d.extractLsb' 0 3) (r.src r.a) (r.src r.b))) from
    fun r h => by rcases r; cases h; rfl]
  · try rw [src_of _ hl a (by simp) _ rfl, src_of _ hl b (by simp) _ rfl]
    dsimp only [Raw.guard, Option.isSome, Option.getD]
    try simp (disch := decide) only [field_high, field_low, field_all, bit_low, bit_high, bit_bool]
    try simp
  · rfl
theorem Laws.RoundTrip.jtdef (g : Guard) (jt : BitVec 6) (ovl : BitVec 16) (a : Src) (b : Src) : Laws.RoundTrip.Statement (.jtdef g jt ovl a b) := by
  refine Laws.RoundTrip.of_word _ _ rfl fun w => ?_
  have hl : litsAgree [a, b] = true := by
    exact and_left w
  rw [show ∀ r : Raw, r.op = 0xEB → r.candidate = (some (.jtdef r.guard r.d r.imm (r.src r.a) (r.src r.b))) from
    fun r h => by rcases r; cases h; rfl]
  · try rw [src_of _ hl a (by simp) _ rfl, src_of _ hl b (by simp) _ rfl]
    dsimp only [Raw.guard, Option.isSome, Option.getD]
    try simp (disch := decide) only [field_high, field_low, field_all, bit_low, bit_high, bit_bool]
    try simp
  · rfl
theorem Laws.RoundTrip.rtdef (g : Guard) (rt : BitVec 4) (bolt : BitVec 6) (a : Src) : Laws.RoundTrip.Statement (.rtdef g rt bolt a) := by
  refine Laws.RoundTrip.of_word _ _ rfl fun w => ?_
  have hl : litsAgree [a] = true := by
    exact w
  rw [show ∀ r : Raw, r.op = 0xEC → r.candidate = (if r.mod.extractLsb' 0 2 == 1#2 then some (.rtdefRh r.guard (r.d.extractLsb' 0 4) r.bolt (r.src r.a)) else if r.mod.extractLsb' 0 2 == 2#2 then some (.rtdefOff r.guard (r.d.extractLsb' 0 4)) else some (.rtdef r.guard (r.d.extractLsb' 0 4) r.bolt (r.src r.a))) from
    fun r h => by rcases r; cases h; rfl]
  · try rw [src_of _ hl a (by simp) _ rfl]
    dsimp only [Raw.guard, Option.isSome, Option.getD]
    try simp (disch := decide) only [field_high, field_low, field_all, bit_low, bit_high, bit_bool]
    try simp
  · rfl
theorem Laws.RoundTrip.rtdefRh (g : Guard) (rt : BitVec 4) (bolt : BitVec 6) (a : Src) : Laws.RoundTrip.Statement (.rtdefRh g rt bolt a) := by
  refine Laws.RoundTrip.of_word _ _ rfl fun w => ?_
  have hl : litsAgree [a] = true := by
    exact w
  rw [show ∀ r : Raw, r.op = 0xEC → r.candidate = (if r.mod.extractLsb' 0 2 == 1#2 then some (.rtdefRh r.guard (r.d.extractLsb' 0 4) r.bolt (r.src r.a)) else if r.mod.extractLsb' 0 2 == 2#2 then some (.rtdefOff r.guard (r.d.extractLsb' 0 4)) else some (.rtdef r.guard (r.d.extractLsb' 0 4) r.bolt (r.src r.a))) from
    fun r h => by rcases r; cases h; rfl]
  · try rw [src_of _ hl a (by simp) _ rfl]
    dsimp only [Raw.guard, Option.isSome, Option.getD]
    try simp (disch := decide) only [field_high, field_low, field_all, bit_low, bit_high, bit_bool]
    try simp
  · rfl
theorem Laws.RoundTrip.rtdefOff (g : Guard) (rt : BitVec 4) : Laws.RoundTrip.Statement (.rtdefOff g rt) := by
  refine Laws.RoundTrip.of_word _ _ rfl fun w => ?_
  rw [show ∀ r : Raw, r.op = 0xEC → r.candidate = (if r.mod.extractLsb' 0 2 == 1#2 then some (.rtdefRh r.guard (r.d.extractLsb' 0 4) r.bolt (r.src r.a)) else if r.mod.extractLsb' 0 2 == 2#2 then some (.rtdefOff r.guard (r.d.extractLsb' 0 4)) else some (.rtdef r.guard (r.d.extractLsb' 0 4) r.bolt (r.src r.a))) from
    fun r h => by rcases r; cases h; rfl]
  · dsimp only [Raw.guard, Option.isSome, Option.getD]
    try simp (disch := decide) only [field_high, field_low, field_all, bit_low, bit_high, bit_bool]
    try simp
  · rfl
theorem Laws.RoundTrip.ctrrd (g : Guard) (d : Reg) (n : BitVec 8) (x : Bool) (a : Src) : Laws.RoundTrip.Statement (.ctrrd g d n x a) := by
  refine Laws.RoundTrip.of_word _ _ rfl fun w => ?_
  have hl : litsAgree [a] = true := by
    exact and_left w
  rw [show ∀ r : Raw, r.op = 0xED → r.candidate = (some (.ctrrd r.guard r.d (r.imm.extractLsb' 0 8) (r.mod.getLsbD 0) (r.src r.a))) from
    fun r h => by rcases r; cases h; rfl]
  · try rw [src_of _ hl a (by simp) _ rfl]
    dsimp only [Raw.guard, Option.isSome, Option.getD]
    try simp (disch := decide) only [field_high, field_low, field_all, bit_low, bit_high, bit_bool]
    try simp
  · rfl
theorem Laws.RoundTrip.ctrset (g : Guard) (n : BitVec 8) (x : Bool) (a : Src) (b : Src) : Laws.RoundTrip.Statement (.ctrset g n x a b) := by
  refine Laws.RoundTrip.of_word _ _ rfl fun w => ?_
  have hl : litsAgree [a, b] = true := by
    exact and_left w
  rw [show ∀ r : Raw, r.op = 0xEE → r.candidate = (some (.ctrset r.guard (r.imm.extractLsb' 0 8) (r.mod.getLsbD 0) (r.src r.a) (r.src r.b))) from
    fun r h => by rcases r; cases h; rfl]
  · try rw [src_of _ hl a (by simp) _ rfl, src_of _ hl b (by simp) _ rfl]
    dsimp only [Raw.guard, Option.isSome, Option.getD]
    try simp (disch := decide) only [field_high, field_low, field_all, bit_low, bit_high, bit_bool]
    try simp
  · rfl
theorem Laws.RoundTrip.smpl (g : Guard) (off : Bool) (tag : BitVec 16) : Laws.RoundTrip.Statement (.smpl g off tag) := by
  refine Laws.RoundTrip.of_word _ _ rfl fun w => ?_
  rw [show ∀ r : Raw, r.op = 0xEF → r.candidate = (some (.smpl r.guard (r.mod.getLsbD 0) r.imm)) from
    fun r h => by rcases r; cases h; rfl]
  · dsimp only [Raw.guard, Option.isSome, Option.getD]
    try simp (disch := decide) only [field_high, field_low, field_all, bit_low, bit_high, bit_bool]
    try simp
  · rfl
theorem Laws.RoundTrip.brkpt (g : Guard) (code : BitVec 16) : Laws.RoundTrip.Statement (.brkpt g code) := by
  refine Laws.RoundTrip.of_word _ _ rfl fun w => ?_
  rw [show ∀ r : Raw, r.op = 0xF0 → r.candidate = (some (.brkpt r.guard r.imm)) from
    fun r h => by rcases r; cases h; rfl]
  · dsimp only [Raw.guard, Option.isSome, Option.getD]
    try simp (disch := decide) only [field_high, field_low, field_all, bit_low, bit_high, bit_bool]
    try simp
  · rfl
theorem Laws.RoundTrip.hint (g : Guard) : Laws.RoundTrip.Statement (.hint g) := by
  refine Laws.RoundTrip.of_word _ _ rfl fun w => ?_
  rw [show ∀ r : Raw, r.op = 0xF1 → r.candidate = (some (.hint r.guard)) from
    fun r h => by rcases r; cases h; rfl]
  · dsimp only [Raw.guard, Option.isSome, Option.getD]
    try simp (disch := decide) only [field_high, field_low, field_all, bit_low, bit_high, bit_bool]
    try simp
  · rfl
theorem Laws.RoundTrip.waitpred (g : Guard) : Laws.RoundTrip.Statement (.waitpred g) := by
  refine Laws.RoundTrip.of_word _ _ rfl fun w => ?_
  rw [show ∀ r : Raw, r.op = 0xF2 → r.candidate = (some (.waitpred r.guard)) from
    fun r h => by rcases r; cases h; rfl]
  · dsimp only [Raw.guard, Option.isSome, Option.getD]
    try simp (disch := decide) only [field_high, field_low, field_all, bit_low, bit_high, bit_bool]
    try simp
  · rfl
theorem Laws.RoundTrip.resultWriteback (id : Nat) : Laws.RoundTrip.Statement (.resultWriteback id) := Laws.RoundTrip.of_event _ rfl
theorem Laws.RoundTrip.atomicRequest (id : Nat) : Laws.RoundTrip.Statement (.atomicRequest id) := Laws.RoundTrip.of_event _ rfl
theorem Laws.RoundTrip.atomicReply (id : Nat) : Laws.RoundTrip.Statement (.atomicReply id) := Laws.RoundTrip.of_event _ rfl
theorem Laws.RoundTrip.readRequest (id : Nat) : Laws.RoundTrip.Statement (.readRequest id) := Laws.RoundTrip.of_event _ rfl
theorem Laws.RoundTrip.acknowledgementArrival (id : Nat) : Laws.RoundTrip.Statement (.acknowledgementArrival id) := Laws.RoundTrip.of_event _ rfl
theorem Laws.RoundTrip.needleArrival (id : Nat) : Laws.RoundTrip.Statement (.needleArrival id) := Laws.RoundTrip.of_event _ rfl
theorem Laws.RoundTrip.spillReturn (core : Nat) : Laws.RoundTrip.Statement (.spillReturn core) := Laws.RoundTrip.of_event _ rfl
theorem Laws.RoundTrip.arrivalWaveFormation (core : Nat) (spool : Nat) (key : Nat) : Laws.RoundTrip.Statement (.arrivalWaveFormation core spool key) := Laws.RoundTrip.of_event _ rfl
theorem Laws.RoundTrip.spoolTimeout (core : Nat) (spool : Nat) (key : Nat) : Laws.RoundTrip.Statement (.spoolTimeout core spool key) := Laws.RoundTrip.of_event _ rfl
theorem Laws.RoundTrip.launchEntryFetch (die : Nat) (key : Nat) : Laws.RoundTrip.Statement (.launchEntryFetch die key) := Laws.RoundTrip.of_event _ rfl
theorem Laws.RoundTrip.spawnTaskSend (core : Nat) : Laws.RoundTrip.Statement (.spawnTaskSend core) := Laws.RoundTrip.of_event _ rfl
theorem Laws.RoundTrip.taskArrival (id : Nat) : Laws.RoundTrip.Statement (.taskArrival id) := Laws.RoundTrip.of_event _ rfl
theorem Laws.RoundTrip.taskRefusal (id : Nat) : Laws.RoundTrip.Statement (.taskRefusal id) := Laws.RoundTrip.of_event _ rfl
theorem Laws.RoundTrip.taskResendTimeout (core : Nat) : Laws.RoundTrip.Statement (.taskResendTimeout core) := Laws.RoundTrip.of_event _ rfl
theorem Laws.RoundTrip.spawnIncrement (id : Nat) : Laws.RoundTrip.Statement (.spawnIncrement id) := Laws.RoundTrip.of_event _ rfl
theorem Laws.RoundTrip.phaseArrival (id : Nat) : Laws.RoundTrip.Statement (.phaseArrival id) := Laws.RoundTrip.of_event _ rfl
theorem Laws.RoundTrip.drainRequest (core : Nat) (id : Nat) : Laws.RoundTrip.Statement (.drainRequest core id) := Laws.RoundTrip.of_event _ rfl
theorem Laws.RoundTrip.drainAcknowledgement (core : Nat) (id : Nat) : Laws.RoundTrip.Statement (.drainAcknowledgement core id) := Laws.RoundTrip.of_event _ rfl
theorem Laws.RoundTrip.changeNotice (id : Nat) : Laws.RoundTrip.Statement (.changeNotice id) := Laws.RoundTrip.of_event _ rfl
theorem Laws.RoundTrip.overlayLoadCompletion (id : Nat) : Laws.RoundTrip.Statement (.overlayLoadCompletion id) := Laws.RoundTrip.of_event _ rfl
theorem Laws.RoundTrip.pageFaultService (id : Nat) : Laws.RoundTrip.Statement (.pageFaultService id) := Laws.RoundTrip.of_event _ rfl
theorem Laws.RoundTrip.faultRecordResolve (die : Nat) (slot : Nat) : Laws.RoundTrip.Statement (.faultRecordResolve die slot) := Laws.RoundTrip.of_event _ rfl
theorem Laws.RoundTrip.faultRecordRefuse (die : Nat) (slot : Nat) : Laws.RoundTrip.Statement (.faultRecordRefuse die slot) := Laws.RoundTrip.of_event _ rfl
theorem Laws.RoundTrip.errorRecordResolve (slot : Nat) : Laws.RoundTrip.Statement (.errorRecordResolve slot) := Laws.RoundTrip.of_event _ rfl
theorem Laws.RoundTrip.errorRecordRefuse (slot : Nat) : Laws.RoundTrip.Statement (.errorRecordRefuse slot) := Laws.RoundTrip.of_event _ rfl
theorem Laws.RoundTrip.engineFire (id : Nat) : Laws.RoundTrip.Statement (.engineFire id) := Laws.RoundTrip.of_event _ rfl
theorem Laws.RoundTrip.binPrepare (id : Nat) : Laws.RoundTrip.Statement (.binPrepare id) := Laws.RoundTrip.of_event _ rfl
theorem Laws.RoundTrip.engineRetire (id : Nat) : Laws.RoundTrip.Statement (.engineRetire id) := Laws.RoundTrip.of_event _ rfl
theorem Laws.RoundTrip.engineFailure (id : Nat) (addr : Nat) : Laws.RoundTrip.Statement (.engineFailure id addr) := Laws.RoundTrip.of_event _ rfl
theorem Laws.RoundTrip.stitchParityReload (id : Nat) (row : Nat) : Laws.RoundTrip.Statement (.stitchParityReload id row) := Laws.RoundTrip.of_event _ rfl
theorem Laws.RoundTrip.retrievalOperationApply (id : Nat) : Laws.RoundTrip.Statement (.retrievalOperationApply id) := Laws.RoundTrip.of_event _ rfl
theorem Laws.RoundTrip.quantumExpiry (core : Nat) (slot : Nat) : Laws.RoundTrip.Statement (.quantumExpiry core slot) := Laws.RoundTrip.of_event _ rfl
theorem Laws.RoundTrip.bobbinPreempt (core : Nat) (slot : Nat) : Laws.RoundTrip.Statement (.bobbinPreempt core slot) := Laws.RoundTrip.of_event _ rfl
theorem Laws.RoundTrip.contextSlotRelease (core : Nat) (slot : Nat) : Laws.RoundTrip.Statement (.contextSlotRelease core slot) := Laws.RoundTrip.of_event _ rfl
theorem Laws.RoundTrip.contextReadmission (core : Nat) (ctx : Nat) : Laws.RoundTrip.Statement (.contextReadmission core ctx) := Laws.RoundTrip.of_event _ rfl
theorem Laws.RoundTrip.queueDoorbell (q : Nat) (tail : Nat) : Laws.RoundTrip.Statement (.queueDoorbell q tail) := Laws.RoundTrip.of_event _ rfl
theorem Laws.RoundTrip.queueEnable (q : Nat) (val : Nat) : Laws.RoundTrip.Statement (.queueEnable q val) := Laws.RoundTrip.of_event _ rfl
theorem Laws.RoundTrip.queueDisable (q : Nat) (val : Nat) : Laws.RoundTrip.Statement (.queueDisable q val) := Laws.RoundTrip.of_event _ rfl
theorem Laws.RoundTrip.dispatch : Laws.RoundTrip.Statement (.dispatch) := Laws.RoundTrip.of_event _ rfl
theorem Laws.RoundTrip.waveAdmission (core : Nat) : Laws.RoundTrip.Statement (.waveAdmission core) := Laws.RoundTrip.of_event _ rfl
theorem Laws.RoundTrip.stagingCompletion (core : Nat) (key : Nat) (region : Nat) : Laws.RoundTrip.Statement (.stagingCompletion core key region) := Laws.RoundTrip.of_event _ rfl
theorem Laws.RoundTrip.launchCompletion (key : Nat) : Laws.RoundTrip.Statement (.launchCompletion key) := Laws.RoundTrip.of_event _ rfl
theorem Laws.RoundTrip.slackTick : Laws.RoundTrip.Statement (.slackTick) := Laws.RoundTrip.of_event _ rfl
theorem Laws.RoundTrip.slackOverdue (id : Nat) : Laws.RoundTrip.Statement (.slackOverdue id) := Laws.RoundTrip.of_event _ rfl
theorem Laws.RoundTrip.packetAdvance (id : Nat) : Laws.RoundTrip.Statement (.packetAdvance id) := Laws.RoundTrip.of_event _ rfl
theorem Laws.RoundTrip.routerPowerGate (core : Nat) : Laws.RoundTrip.Statement (.routerPowerGate core) := Laws.RoundTrip.of_event _ rfl
theorem Laws.RoundTrip.routerWake (core : Nat) : Laws.RoundTrip.Statement (.routerWake core) := Laws.RoundTrip.of_event _ rfl
theorem Laws.RoundTrip.pageMoveStart (ctx : Nat) (va : Nat) (newHome : Nat) : Laws.RoundTrip.Statement (.pageMoveStart ctx va newHome) := Laws.RoundTrip.of_event _ rfl
theorem Laws.RoundTrip.pageMoveTransfer (id : Nat) : Laws.RoundTrip.Statement (.pageMoveTransfer id) := Laws.RoundTrip.of_event _ rfl
theorem Laws.RoundTrip.shootdown (id : Nat) (agent : Nat) : Laws.RoundTrip.Statement (.shootdown id agent) := Laws.RoundTrip.of_event _ rfl
theorem Laws.RoundTrip.shootdownAcknowledgement (id : Nat) : Laws.RoundTrip.Statement (.shootdownAcknowledgement id) := Laws.RoundTrip.of_event _ rfl
theorem Laws.RoundTrip.graceWindowEnd (id : Nat) : Laws.RoundTrip.Statement (.graceWindowEnd id) := Laws.RoundTrip.of_event _ rfl
theorem Laws.RoundTrip.rehome (id : Nat) : Laws.RoundTrip.Statement (.rehome id) := Laws.RoundTrip.of_event _ rfl
theorem Laws.RoundTrip.channelRetirement (core : Nat) : Laws.RoundTrip.Statement (.channelRetirement core) := Laws.RoundTrip.of_event _ rfl
theorem Laws.RoundTrip.pageMakeWritable (ctx : Nat) (va : Nat) : Laws.RoundTrip.Statement (.pageMakeWritable ctx va) := Laws.RoundTrip.of_event _ rfl
theorem Laws.RoundTrip.pageMakeReadOnly (ctx : Nat) (va : Nat) : Laws.RoundTrip.Statement (.pageMakeReadOnly ctx va) := Laws.RoundTrip.of_event _ rfl
theorem Laws.RoundTrip.portLoss (die : Nat) (chip : Nat) : Laws.RoundTrip.Statement (.portLoss die chip) := Laws.RoundTrip.of_event _ rfl
theorem Laws.RoundTrip.sampleRecord (core : Nat) (slot : Nat) (id : Nat) : Laws.RoundTrip.Statement (.sampleRecord core slot id) := Laws.RoundTrip.of_event _ rfl
theorem Laws.RoundTrip.traceEnable (core : Nat) (slot : Nat) (val : BitVec 64) : Laws.RoundTrip.Statement (.traceEnable core slot val) := Laws.RoundTrip.of_event _ rfl
theorem Laws.RoundTrip.traceDisable (core : Nat) (slot : Nat) (val : BitVec 64) : Laws.RoundTrip.Statement (.traceDisable core slot val) := Laws.RoundTrip.of_event _ rfl
theorem Laws.RoundTrip.resume (core : Nat) (slot : Nat) : Laws.RoundTrip.Statement (.resume core slot) := Laws.RoundTrip.of_event _ rfl
theorem Laws.RoundTrip.deliver (core : Nat) (slot : Nat) : Laws.RoundTrip.Statement (.deliver core slot) := Laws.RoundTrip.of_event _ rfl
theorem Laws.RoundTrip.debugStep (core : Nat) (slot : Nat) : Laws.RoundTrip.Statement (.debugStep core slot) := Laws.RoundTrip.of_event _ rfl
theorem Laws.RoundTrip.stopall (core : Nat) (slot : Nat) : Laws.RoundTrip.Statement (.stopall core slot) := Laws.RoundTrip.of_event _ rfl
theorem Laws.RoundTrip.counterWrite (core : Nat) (slot : Nat) (n : Nat) (val : BitVec 64) : Laws.RoundTrip.Statement (.counterWrite core slot n val) := Laws.RoundTrip.of_event _ rfl
theorem Laws.RoundTrip.quantumWrite (core : Nat) (val : BitVec 32) : Laws.RoundTrip.Statement (.quantumWrite core val) := Laws.RoundTrip.of_event _ rfl
theorem Laws.RoundTrip.dutySplitWrite (val : BitVec 14) : Laws.RoundTrip.Statement (.dutySplitWrite val) := Laws.RoundTrip.of_event _ rfl
theorem Laws.RoundTrip.dutyGo : Laws.RoundTrip.Statement (.dutyGo) := Laws.RoundTrip.of_event _ rfl
theorem Laws.RoundTrip.derrClear : Laws.RoundTrip.Statement (.derrClear) := Laws.RoundTrip.of_event _ rfl
theorem Laws.RoundTrip.goTimeout : Laws.RoundTrip.Statement (.goTimeout) := Laws.RoundTrip.of_event _ rfl
theorem Laws.RoundTrip.pcapWrite (val : Nat) : Laws.RoundTrip.Statement (.pcapWrite val) := Laws.RoundTrip.of_event _ rfl
theorem Laws.RoundTrip.registerWrite (off : Nat) (val : Nat) : Laws.RoundTrip.Statement (.registerWrite off val) := Laws.RoundTrip.of_event _ rfl
theorem Laws.RoundTrip.powerOn (failStage : Nat) (code : Nat) (links : List Nat) (images : List Image) : Laws.RoundTrip.Statement (.powerOn failStage code links images) := Laws.RoundTrip.of_event _ rfl
theorem Laws.RoundTrip.powerWindow (watts : Nat) : Laws.RoundTrip.Statement (.powerWindow watts) := Laws.RoundTrip.of_event _ rfl
theorem Laws.RoundTrip.thermalLimit : Laws.RoundTrip.Statement (.thermalLimit) := Laws.RoundTrip.of_event _ rfl
theorem Laws.RoundTrip.thermalShutdown : Laws.RoundTrip.Statement (.thermalShutdown) := Laws.RoundTrip.of_event _ rfl
theorem Laws.RoundTrip.ucieLinkFailure (link : Nat) (modules : Nat) : Laws.RoundTrip.Statement (.ucieLinkFailure link modules) := Laws.RoundTrip.of_event _ rfl
theorem Laws.RoundTrip.coreCycle : Laws.RoundTrip.Statement (.coreCycle) := Laws.RoundTrip.of_event _ rfl
theorem Laws.RoundTrip.ultraEthernetPortUp (port : Nat) (speed : Nat) : Laws.RoundTrip.Statement (.ultraEthernetPortUp port speed) := Laws.RoundTrip.of_event _ rfl
theorem Laws.RoundTrip.portEnable (port : Nat) (val : Nat) : Laws.RoundTrip.Statement (.portEnable port val) := Laws.RoundTrip.of_event _ rfl
theorem Laws.RoundTrip.thermalLimitClear : Laws.RoundTrip.Statement (.thermalLimitClear) := Laws.RoundTrip.of_event _ rfl

end Sys2Proof
end

