-- ==== Sys2Proof/Tests/Slice0.lean ====
section
/-! SUPPORT. Tests: ill-formed terms that WellFormed refuses, the words of every instruction, small steps, and for every
statement with hypotheses a state and operands that meet them. -/

namespace Sys2Proof.Tests

open Sys2Proof Sys2Proof.Machine

-- One theorem after another: each kernel evaluation waits for all that stands before it.
set_option Elab.async false


/-- The words are read as the instruction, and nothing is left. -/
abbrev reads (ws : List (BitVec 32)) (i : Instr) : Prop := decode ws = .ok (i, [])
/-! ### Well-formed instructions: for each check of WellFormed an ill-formed term that it refuses. -/

abbrev g0 : Guard := ⟨7, false⟩

/-- a literal that one source names and another contradicts (R57); register 63 beside a literal (R57); a float type of an integer instruction (R142); MULW at 64 bits (R151); ABS of an unsigned type (R144); LEA at 16 bits (R144); BPICK.r with a selector in IMM16 (R144); REP of 65 (R211); REP.r with a count in IMM16 (R229); FADD with RSR (R174); HADD2 at .f32 (R174); HCMP2 to p7 (R174); DOT4 of integers with FTZ (R174); DOT4 of floats with SAT (R174). -/
theorem test_illFormed_a :
    (Instr.add g0 5 (.lit 1) (.lit 2) none false).wf = false
      ∧ (Instr.add g0 5 (.lit 1) (.reg 63) none false).wf = false
      ∧ (Instr.add g0 5 (.reg 1) (.reg 2) (some .f32) false).wf = false
      ∧ (Instr.mulw g0 6 (.reg 1) (.reg 2) (some .i64)).wf = false
      ∧ (Instr.abs g0 5 (.reg 1) (some .n32) false).wf = false
      ∧ (Instr.lea g0 5 (.reg 1) (.reg 2) 1 (some .n16)).wf = false
      ∧ (Instr.bpick g0 5 (.reg 1) (.reg 2) true (.reg 3) 1).wf = false
      ∧ (Instr.rep g0 false (.reg 0) 65 0 0 0 0).wf = false
      ∧ (Instr.rep g0 true (.reg 1) 1 0 0 0 0).wf = false
      ∧ (Instr.fadd g0 5 (.reg 1) (.reg 2) none .rsr false).wf = false
      ∧ (Instr.hadd2 g0 5 (.reg 1) (.reg 2) (some .f32) .rne false).wf = false
      ∧ (Instr.hcmp2 g0 .eq 7 (.reg 1) (.reg 2) none false).wf = false
      ∧ (Instr.dot4 g0 5 (.reg 1) (.reg 2) (.reg 3) (some .i8) .rne true false).wf = false
      ∧ (Instr.dot4 g0 5 (.reg 1) (.reg 2) (.reg 3) none .rne false true).wf = false := by decide

/-- VADD4 of 16-bit elements (R174); CVT between integers with a rounding mode (R185); CVT with FTZ and no format it acts on (R185); CVT packed at one width (R187); CVTSR between integers (R185); QNT to a wide integer (R185); QNT to planes, of 9 (R105); DQNT from .n32 with a plane count (R184); PLPACK with plane 8 of 8 (R194); PLUNPK of no plane (R194); PLEXT of more planes than there are (R194); F8ALGN at .f16 (R194); SCLX to an integer (R185); SHFL at .i32 (R202). -/
theorem test_illFormed_b :
    (Instr.vadd4 g0 5 (.reg 1) (.reg 2) (some .i16) false).wf = false
      ∧ (Instr.cvt g0 5 (.reg 1) .i8 .i32 .rtz false false false).wf = false
      ∧ (Instr.cvt g0 5 (.reg 1) .i8 .e4m3 .rne false true false).wf = false
      ∧ (Instr.cvt g0 5 (.reg 1) .f16 .bf16 .rne false false true).wf = false
      ∧ (Instr.cvtsr g0 5 (.reg 1) .i8 .i32 (.reg 0) false false false false).wf = false
      ∧ (Instr.qnt g0 5 (.reg 1) .i32 .f32 (.reg 2) 0 .rne false false false).wf = false
      ∧ (Instr.qnt g0 5 (.reg 1) .bp .f32 (.reg 2) 9 .rne false false false).wf = false
      ∧ (Instr.dqnt g0 5 (.reg 1) .f32 .n32 (.reg 2) 3 .rne false false false).wf = false
      ∧ (Instr.plpack g0 5 16 8 8).wf = false
      ∧ (Instr.plunpk g0 8 (.reg 1) 8 0).wf = false
      ∧ (Instr.plext g0 5 (.reg 1) 4 5 false).wf = false
      ∧ (Instr.f8algn g0 5 (.reg 1) (.reg 2) .f16 false).wf = false
      ∧ (Instr.sclx g0 5 (.reg 1) (.reg 2) .i32 .rne false false false).wf = false
      ∧ (Instr.shfl g0 5 (.reg 1) (.reg 2) (some .i32) false).wf = false := by decide

/-- PCENS.maj to predicate 8 (R60); PCENS.cnt with a number (R202); REDUX.xor of floats (R202); LDQ of three (R313); LD of planes (R313); ATOM at lane scope (R313); AFADD of integers (R313); HPUSH with a predicate and no .nb (R364); HPOP.at of two registers (R364); HPOP.ka.at (R364); CPY between two hoops (R373); CPY of a hoop numbered 32 (R373); CPY of a hoop with no entries (R373); CPY with an offset register and no barrier (R373). -/
theorem test_illFormed_c :
    (Instr.pcens g0 .maj 8 1 0).wf = false
      ∧ (Instr.pcens g0 .cnt 5 1 1).wf = false
      ∧ (Instr.redux g0 .xor 5 (.reg 1) (some .f32)).wf = false
      ∧ (Instr.ldq g0 8 1 (.reg 1) 3 none false 0).wf = false
      ∧ (Instr.ld g0 8 1 (.reg 1) (some .bp) false 0).wf = false
      ∧ (Instr.atom g0 .add 5 1 (.reg 1) (.reg 2) none false 0 .lane).wf = false
      ∧ (Instr.afadd g0 5 1 (.reg 1) (.reg 2) (some .i32) false 0 .core).wf = false
      ∧ (Instr.hpush g0 false 1 3 (.reg 8) 0).wf = false
      ∧ (Instr.hpop g0 8 3 1 false true).wf = false
      ∧ (Instr.hpop g0 8 3 0 true true).wf = false
      ∧ (Instr.cpy g0 true true 0 1 2 (.reg 0) (.reg 0) (.reg 0) 1 0).wf = false
      ∧ (Instr.cpy g0 true false 0 32 2 (.reg 0) (.reg 4) (.reg 0) 1 0).wf = false
      ∧ (Instr.cpy g0 true false 0 2 7 (.reg 0) (.reg 4) (.reg 0) 0 0).wf = false
      ∧ (Instr.cpy g0 true false 0 2 7 (.reg 0) (.reg 4) (.reg 6) 1 0).wf = false := by decide

/-- CPYM at core scope (R373); CPYO.any with a slot (R373); KSET of nothing (R412); TMMA of 65 rows (R398); TMMA with a signal register and no .sg (R398); TZERO with a link register and no .lk (R398); RTPRB of a list and a hoop (R494); MOVS.x with an index in IMM16 (R264); PATDEF.mv with a bolt (R481); BLDEF of a literal image (R481); JTDEF of the overlay that is none (R487); CTRRD.x with an index in IMM16 (R512); SMPL.off with a tag (R512); BRKPT with a reserved code (R512). -/
theorem test_illFormed_d :
    (Instr.cpym g0 6 false 0 2 7 (.reg 5) (.reg 4) (.reg 0) 0 .core 0).wf = false
      ∧ (Instr.cpyo g0 true 1 0 (.reg 5) (.reg 0) 0).wf = false
      ∧ (Instr.kset g0 2 4 0).wf = false
      ∧ (Instr.tmma g0 false false 0 false 0 false 9 0 (.reg 5) 65 false false 0 (.reg 0) 0).wf = false
      ∧ (Instr.tmma g0 false false 0 false 0 false 9 0 (.reg 5) 1 false false 7 (.reg 0) 0).wf = false
      ∧ (Instr.tzero g0 false false false 0 (.reg 4) 0).wf = false
      ∧ (Instr.rtprb g0 6 2 true 5 4 (.reg 1) (.reg 2) 0 2 0).wf = false
      ∧ (Instr.movs g0 4 2 1 true (.reg 5)).wf = false
      ∧ (Instr.patdef g0 3 true (.reg 1) 2).wf = false
      ∧ (Instr.bldef g0 3 false (.lit 1)).wf = false
      ∧ (Instr.jtdef g0 1 0xFFFF (.reg 1) (.reg 2)).wf = false
      ∧ (Instr.ctrrd g0 4 1 true (.reg 5)).wf = false
      ∧ (Instr.smpl g0 true 1).wf = false
      ∧ (Instr.brkpt g0 0xFFFE).wf = false := by decide

/-! ### Decoding. The words are assembled by hand from the encoding tables of the spec (R51 to R54 and the table of each
block); those of R57, R82, R146, R223, R229, R264, R364, R373, R413, R426, R494 and R512 are the spec's own examples. -/

/-- R82, R211, R212, R228, R229. -/
theorem test_decode_control_a :
    reads [0x70000000] (.nop ⟨7, false⟩)
      ∧ reads [0xA0000000] (.nop ⟨2, true⟩)
      ∧ reads [0x71685C04] (.pad 0x5A17)
      ∧ reads [0x10000009, 0x12400000, 0] (.bra ⟨1, false⟩ 0x1240)
      ∧ reads [0x703F000B, 0, 0, 0x00031240, 0] (.braFar ⟨7, false⟩ 0x00031240)
      ∧ reads [0x7949000C] (.brx ⟨7, false⟩ 37 (.reg 9))
      ∧ reads [0x70003011, 0x00800000, 0] (.call ⟨7, false⟩ 12 0x0080)
      ∧ reads [0xA03F3013, 0, 0, 0x00050080, 0] (.callFar ⟨2, true⟩ 12 0x00050080)
      ∧ reads [0x79493014] (.callx ⟨7, false⟩ 12 37 (.reg 9))
      ∧ reads [0x700C0018] (.ret ⟨7, false⟩ (.reg 12))
      ∧ reads [0x7000341C] (.seam ⟨7, false⟩ 13)
      ∧ reads [0x70003420] (.join ⟨7, false⟩ 13) :=
  ⟨rfl, rfl, rfl, rfl, rfl, rfl, rfl, rfl, rfl, rfl, rfl, rfl⟩

/-- R82, R211, R212, R228, R229. -/
theorem test_decode_control_b :
    reads [0x70202424] (.wait ⟨7, false⟩ 0x809)
      ∧ reads [0x10000429, 0x00D80000, 0] (.cut ⟨1, false⟩ 1 0x00D8)
      ∧ reads [0x703F382B, 0, 0, 0x00070040, 0] (.cutFar ⟨7, false⟩ 14 0x00070040)
      ∧ reads [0x7000002D, 0x00040540, 0] (.rep ⟨7, false⟩ false (.reg 0) 4 1 1 1 0)
      ∧ reads [0x7015002D, 0x000058C0, 0] (.rep ⟨7, false⟩ true (.reg 21) 0 3 0 2 1)
      ∧ reads [0x70000030] (.exit ⟨7, false⟩)
      ∧ reads [0x10000034] (.yield ⟨1, false⟩)
      ∧ reads [0x70171038] (.dqput ⟨7, false⟩ 4 (.reg 23))
      ∧ reads [0x7000583C] (.dqget ⟨7, false⟩ 22)
      ∧ reads [0x70005C3D, 0x00000040, 0] (.dqgetLo ⟨7, false⟩ 23)
      ∧ reads [0x71405840] (.dqpeek ⟨7, false⟩ 22 5)
      ∧ reads [0x71405C41, 0x00000040, 0] (.dqpeekLo ⟨7, false⟩ 23 5) :=
  ⟨rfl, rfl, rfl, rfl, rfl, rfl, rfl, rfl, rfl, rfl, rfl, rfl⟩

/-- R141, R144. -/
theorem test_decode_integer_a :
    reads [0xA03F1482, 0x12345678, 0] (.mov ⟨2, true⟩ 5 (.lit 0x12345678) none)
      ∧ reads [0x700B1C81, 0x00001000, 0] (.movId ⟨7, false⟩ 7 11)
      ∧ reads [0x70001C85, 0xBEEF2000, 0] (.movi ⟨7, false⟩ 7 .hi 0xBEEF)
      ∧ reads [0xA4491489, 0x00000CC0, 0] (.add ⟨2, true⟩ 5 (.reg 9) (.reg 17) (some .i16) true)
      ∧ reads [0x7449148C] (.sub ⟨7, false⟩ 5 (.reg 9) (.reg 17) none false)
      ∧ reads [0x74491491, 0x00000006, 0] (.addc ⟨7, false⟩ 5 (.reg 9) (.reg 17) 6)
      ∧ reads [0x74491495, 0x00000003, 0] (.subb ⟨7, false⟩ 5 (.reg 9) (.reg 17) 3)
      ∧ reads [0x74881899, 0x00000580, 0] (.mul ⟨7, false⟩ 6 (.reg 8) (.reg 18) (some .n64) false)
      ∧ reads [0x7449149D, 0x00000540, 0] (.mulhi ⟨7, false⟩ 5 (.reg 9) (.reg 17) (some .i32))
      ∧ reads [0x744918A1, 0x00000480, 0] (.mulw ⟨7, false⟩ 6 (.reg 9) (.reg 17) (some .n16))
      ∧ reads [0x744914A5, 0x00000C21, 0] (.mad ⟨7, false⟩ 5 (.reg 9) (.reg 17) (.reg 33) (some .n8) true)
      ∧ reads [0x744914A8] (.min ⟨7, false⟩ 5 (.reg 9) (.reg 17) none) :=
  ⟨rfl, rfl, rfl, rfl, rfl, rfl, rfl, rfl, rfl, rfl, rfl, rfl⟩

/-- R141, R144. -/
theorem test_decode_integer_b :
    reads [0x744914AD, 0x00000500, 0] (.max ⟨7, false⟩ 5 (.reg 9) (.reg 17) (some .n32))
      ∧ reads [0x700914B1, 0x00000C40, 0] (.abs ⟨7, false⟩ 5 (.reg 9) (some .i8) true)
      ∧ reads [0x744914B4] (.and ⟨7, false⟩ 5 (.reg 9) (.reg 17) none)
      ∧ reads [0x744914B8] (.or ⟨7, false⟩ 5 (.reg 9) (.reg 17) none)
      ∧ reads [0x744914BC] (.xor ⟨7, false⟩ 5 (.reg 9) (.reg 17) none)
      ∧ reads [0x744914C0] (.andn ⟨7, false⟩ 5 (.reg 9) (.reg 17) none)
      ∧ reads [0x744914C4] (.shl ⟨7, false⟩ 5 (.reg 9) (.reg 17) none)
      ∧ reads [0x744914C8] (.shr ⟨7, false⟩ 5 (.reg 9) (.reg 17) none)
      ∧ reads [0x744818CD, 0x000005C0, 0] (.sar ⟨7, false⟩ 6 (.reg 8) (.reg 17) (some .i64))
      ∧ reads [0x744914D0] (.rot ⟨7, false⟩ 5 (.reg 9) (.reg 17) none)
      ∧ reads [0x744914D4] (.bfx ⟨7, false⟩ 5 (.reg 9) (.reg 17) none)
      ∧ reads [0x744914D9, 0x00000021, 0] (.bfi ⟨7, false⟩ 5 (.reg 9) (.reg 17) (.reg 33) none) :=
  ⟨rfl, rfl, rfl, rfl, rfl, rfl, rfl, rfl, rfl, rfl, rfl, rfl⟩

/-- R141, R144. -/
theorem test_decode_integer_c :
    reads [0x700914DC] (.popc ⟨7, false⟩ 5 (.reg 9) none)
      ∧ reads [0x700914E0] (.clz ⟨7, false⟩ 5 (.reg 9) none)
      ∧ reads [0x700914E4] (.brev ⟨7, false⟩ 5 (.reg 9) none)
      ∧ reads [0x744914E9, 0x43210000, 0] (.bpick ⟨7, false⟩ 5 (.reg 9) (.reg 17) false (.reg 0) 0x4321)
      ∧ reads [0x744914E9, 0x00001021, 0] (.bpick ⟨7, false⟩ 5 (.reg 9) (.reg 17) true (.reg 33) 0)
      ∧ reads [0x744818ED, 0x000305C0, 0] (.lea ⟨7, false⟩ 6 (.reg 8) (.reg 17) 3 (some .i64))
      ∧ reads [0x70C204F1, 0x00005500, 0] (.cmp ⟨7, false⟩ .ge 1 (.reg 2) (.reg 3) (some .n32))
      ∧ reads [0x744914F5, 0x00001004, 0] (.sel ⟨7, false⟩ 5 (.reg 9) (.reg 17) 4 true none)
      ∧ reads [0x70C204F9, 0x00E80004, 0] (.plop ⟨7, false⟩ 1 2 3 4 0xE8)
      ∧ reads [0x700014F9, 0x00001000, 0] (.plopPk ⟨7, false⟩ 5)
      ∧ reads [0x700900F9, 0x00552000, 0] (.plopUpk ⟨7, false⟩ (.reg 9) 0x55)
      ∧ reads [0x744918FD, 0x00000480, 0] (.divn ⟨7, false⟩ 6 (.reg 9) (.reg 17) (some .n16) false) :=
  ⟨rfl, rfl, rfl, rfl, rfl, rfl, rfl, rfl, rfl, rfl, rfl, rfl⟩

/-- R173, R174. -/
theorem test_decode_float_a :
    reads [0x74491501, 0x00005640, 0] (.fadd ⟨7, false⟩ 5 (.reg 9) (.reg 17) (some .f16) .rup true)
      ∧ reads [0x74491505, 0x00005640, 0] (.fsub ⟨7, false⟩ 5 (.reg 9) (.reg 17) (some .f16) .rup true)
      ∧ reads [0x74491509, 0x00005640, 0] (.fmul ⟨7, false⟩ 5 (.reg 9) (.reg 17) (some .f16) .rup true)
      ∧ reads [0x5658550D, 0x00000015, 0] (.ffma ⟨5, false⟩ 21 (.reg 24) (.reg 25) (.reg 21) none .rne false)
      ∧ reads [0x74491511, 0x00004680, 0] (.fmin ⟨7, false⟩ 5 (.reg 9) (.reg 17) (some .bf16) true)
      ∧ reads [0x74491515, 0x00004680, 0] (.fmax ⟨7, false⟩ 5 (.reg 9) (.reg 17) (some .bf16) true)
      ∧ reads [0x74490D19, 0x00003000, 0] (.fcmp ⟨7, false⟩ .un 3 (.reg 9) (.reg 17) none false)
      ∧ reads [0x7009151D, 0x00000640, 0] (.fclass ⟨7, false⟩ 5 (.reg 9) (some .f16))
      ∧ reads [0x70091521, 0x00001800, 0] (.frcp ⟨7, false⟩ 5 (.reg 9) none .rdn false)
      ∧ reads [0x70091525, 0x00001800, 0] (.frsq ⟨7, false⟩ 5 (.reg 9) none .rdn false)
      ∧ reads [0x70091529, 0x00001800, 0] (.fsqrt ⟨7, false⟩ 5 (.reg 9) none .rdn false)
      ∧ reads [0x7009152D, 0x00004000, 0] (.fexp2 ⟨7, false⟩ 5 (.reg 9) none true) :=
  ⟨rfl, rfl, rfl, rfl, rfl, rfl, rfl, rfl, rfl, rfl, rfl, rfl⟩

/-- R173, R174. -/
theorem test_decode_float_b :
    reads [0x70091531, 0x00004000, 0] (.flog2 ⟨7, false⟩ 5 (.reg 9) none true)
      ∧ reads [0x70091535, 0x00004000, 0] (.fsin ⟨7, false⟩ 5 (.reg 9) none true)
      ∧ reads [0x70091539, 0x00004000, 0] (.fcos ⟨7, false⟩ 5 (.reg 9) none true)
      ∧ reads [0x7449153D, 0x00000800, 0] (.fdiv ⟨7, false⟩ 5 (.reg 9) (.reg 17) none .rtz false)
      ∧ reads [0x74491541, 0x00004E80, 0] (.hadd2 ⟨7, false⟩ 5 (.reg 9) (.reg 17) (some .bf16) .rtz true)
      ∧ reads [0x74491545, 0x00004E80, 0] (.hmul2 ⟨7, false⟩ 5 (.reg 9) (.reg 17) (some .bf16) .rtz true)
      ∧ reads [0x74491549, 0x00001021, 0] (.hfma2 ⟨7, false⟩ 5 (.reg 9) (.reg 17) (.reg 33) none .rup false)
      ∧ reads [0x7449154D, 0x00004000, 0] (.hmin2 ⟨7, false⟩ 5 (.reg 9) (.reg 17) none true)
      ∧ reads [0x74491551, 0x00004000, 0] (.hmax2 ⟨7, false⟩ 5 (.reg 9) (.reg 17) none true)
      ∧ reads [0x74491955, 0x00003800, 0] (.hcmp2 ⟨7, false⟩ .or 6 (.reg 9) (.reg 17) none false)
      ∧ reads [0x74491559, 0x00008461, 0] (.dot4 ⟨7, false⟩ 5 (.reg 9) (.reg 17) (.reg 33) (some .i8) .rne false true)
      ∧ reads [0x7449155D, 0x00005EA1, 0] (.dot2 ⟨7, false⟩ 5 (.reg 9) (.reg 17) (.reg 33) (some .bf16) .rdn true) :=
  ⟨rfl, rfl, rfl, rfl, rfl, rfl, rfl, rfl, rfl, rfl, rfl, rfl⟩

/-- R173, R174. -/
theorem test_decode_float_c :
    reads [0x74491561, 0x00008440, 0] (.vadd4 ⟨7, false⟩ 5 (.reg 9) (.reg 17) (some .i8) true)
      ∧ reads [0x74491565, 0x00008440, 0] (.vsub4 ⟨7, false⟩ 5 (.reg 9) (.reg 17) (some .i8) true) :=
  ⟨rfl, rfl⟩

/-- R184, R185, R189, R194, R201, R202. -/
theorem test_decode_convert_a :
    reads [0x70091581, 0x00086A40, 0] (.cvt ⟨7, false⟩ 5 (.reg 9) .f16 .f32 .rup true true false)
      ∧ reads [0x74481585, 0x00088640, 0] (.cvtsr ⟨7, false⟩ 5 (.reg 8) .f16 .f32 (.reg 17) true false false true)
      ∧ reads [0x70090189, 0x00000080, 0] (.srseed ⟨7, false⟩ (.reg 9) 2)
      ∧ reads [0x7449158D, 0x00681340, 0] (.qnt ⟨7, false⟩ 5 (.reg 9) .bp .f32 (.reg 17) 6 .rsr false false false)
      ∧ reads [0x74491591, 0x00022600, 0] (.dqnt ⟨7, false⟩ 5 (.reg 9) .f32 .n16 (.reg 17) 0 .rtz true false false)
      ∧ reads [0x70101595, 0x00380000, 0] (.plpack ⟨7, false⟩ 5 16 8 3)
      ∧ reads [0x70112199, 0x00460000, 0] (.plunpk ⟨7, false⟩ 8 (.reg 17) 6 4)
      ∧ reads [0x7009159D, 0x00270040, 0] (.plext ⟨7, false⟩ 5 (.reg 9) 7 2 true)
      ∧ reads [0x744915A1, 0x00000300, 0] (.f8algn ⟨7, false⟩ 5 (.reg 9) (.reg 17) .e5m2 false)
      ∧ reads [0x744915A5, 0x00007E80, 0] (.sclx ⟨7, false⟩ 5 (.reg 9) (.reg 17) .bf16 .rdn true true true)
      ∧ reads [0x744819A9, 0x00004580, 0] (.shfl ⟨7, false⟩ 6 (.reg 8) (.reg 17) (some .n64) true)
      ∧ reads [0x700519AD, 0x00200000, 0] (.bfly ⟨7, false⟩ 6 (.reg 5) 32 none false) :=
  ⟨rfl, rfl, rfl, rfl, rfl, rfl, rfl, rfl, rfl, rfl, rfl, rfl⟩

/-- R184, R185, R189, R194, R201, R202. -/
theorem test_decode_convert_b :
    reads [0x700519B1, 0x00214000, 0] (.shup ⟨7, false⟩ 6 (.reg 5) 33 none true)
      ∧ reads [0x700519B5, 0x00220000, 0] (.shdn ⟨7, false⟩ 6 (.reg 5) 34 none false)
      ∧ reads [0x700519B9, 0x00234000, 0] (.bcast ⟨7, false⟩ 6 (.reg 5) 35 none true)
      ∧ reads [0x70050DBD, 0x00211000, 0] (.pcens ⟨7, false⟩ .atl 3 5 33)
      ∧ reads [0x700915C1, 0x00001600, 0] (.redux ⟨7, false⟩ .max 5 (.reg 9) (some .f32))
      ∧ reads [0x700915C5, 0x0000A800, 0] (.scan ⟨7, false⟩ .xor 5 (.reg 9) none true)
      ∧ reads [0x700819C9, 0x00000580, 0] (.matchLane ⟨7, false⟩ 6 (.reg 8) (some .n64)) :=
  ⟨rfl, rfl, rfl, rfl, rfl, rfl, rfl⟩

/-- R162, R312, R313. -/
theorem test_decode_memory_a :
    reads [0x70091601, 0x00000EC0, 0x000A4005] (.ld ⟨7, false⟩ 5 41 (.reg 9) (some .e4m3) true 5)
      ∧ reads [0xA4490205, 0, 0x000A4005] (.st ⟨2, true⟩ 41 (.reg 9) (.reg 17) none false 5)
      ∧ reads [0x70092209, 0, 0x004A4005] (.ldq ⟨7, false⟩ 8 41 (.reg 9) 4 none false 5)
      ∧ reads [0x7409020D, 0, 0x008A4005] (.stq ⟨7, false⟩ 41 (.reg 9) (.reg 16) 8 none false 5)
      ∧ reads [0x70091611, 0x00000440, 0x000A4005] (.ldro ⟨7, false⟩ 5 41 (.reg 9) (some .i8) false 5)
      ∧ reads [0x70090215, 0, 0x000A4005] (.pref ⟨7, false⟩ 41 (.reg 9) 5)
      ∧ reads [0x70090219, 0x00000800, 0x000A4005] (.migr ⟨7, false⟩ 41 (.reg 9) true 5)
      ∧ reads [0x74490E1D, 0x01400021, 0x000A4005] (.spawn ⟨7, false⟩ 3 41 (.reg 9) (.reg 17) (.reg 33) 0x0140 5)
      ∧ reads [0x70001621, 0x00060000, 0x00000003] (.phaseArv ⟨7, false⟩ 5 6 3)
      ∧ reads [0x70090221, 0x00061000, 0x00000003] (.phaseWait ⟨7, false⟩ (.reg 9) 6 3)
      ∧ reads [0x70000225, 0, 0x00000018] (.fence ⟨7, false⟩ .die)
      ∧ reads [0x74490629, 0xFFFE0000, 0x000A4000] (.fopen ⟨7, false⟩ 1 41 (.reg 9) (.reg 17) 0xFFFE) :=
  ⟨rfl, rfl, rfl, rfl, rfl, rfl, rfl, rfl, rfl, rfl, rfl, rfl⟩

/-- R162, R312, R313. -/
theorem test_decode_memory_b :
    reads [0x70C1162D, 0x00000040, 0x00000005] (.fnext ⟨7, false⟩ 5 3 1 true false 5)
      ∧ reads [0x70C11631, 0x00000080, 0x00000005] (.fpeek ⟨7, false⟩ 5 3 1 false true 5)
      ∧ reads [0x70010E34] (.fend ⟨7, false⟩ 3 1)
      ∧ reads [0x70010238] (.fclose ⟨7, false⟩ 1)
      ∧ reads [0x74891A81, 0x00006DC0, 0x000A4025] (.atom ⟨7, false⟩ .exch 6 41 (.reg 9) (.reg 18) (some .i64) true 5 .device)
      ∧ reads [0x74491685, 0x00000021, 0x000A400D] (.acas ⟨7, false⟩ 5 41 (.reg 9) (.reg 17) (.reg 33) none false 5 .core)
      ∧ reads [0x74490289, 0x00001000, 0x000A402D] (.ared ⟨7, false⟩ .min 41 (.reg 9) (.reg 17) none 5 .system)
      ∧ reads [0x7449168D, 0x00000680, 0x000A4015] (.afadd ⟨7, false⟩ 5 41 (.reg 9) (.reg 17) (some .bf16) false 5 .cluster)
      ∧ reads [0x70000291, 0x02000000, 0] (.txopen ⟨7, false⟩ 0x0200)
      ∧ reads [0x70000294] (.txseal ⟨7, false⟩)
      ∧ reads [0x70000298] (.txretry ⟨7, false⟩)
      ∧ reads [0x7000029D, 0x02400000, 0] (.txelse ⟨7, false⟩ 0x0240) :=
  ⟨rfl, rfl, rfl, rfl, rfl, rfl, rfl, rfl, rfl, rfl, rfl, rfl⟩

/-- R162, R312, R313. -/
theorem test_decode_memory_c :
    reads [0x700002A1, 0x00C30000, 0] (.txdrop ⟨7, false⟩ 0xC3)
      ∧ reads [0x700016A4] (.txstat ⟨7, false⟩ 5)
      ∧ reads [0x744902A9, 0, 0x000A4000] (.binit ⟨7, false⟩ 41 (.reg 9) (.reg 17))
      ∧ reads [0x744916AD, 0x00001000, 0x000A4000] (.barv ⟨7, false⟩ 5 41 (.reg 9) (.reg 17) true)
      ∧ reads [0x744902B1, 0, 0x000A4000] (.bwait ⟨7, false⟩ 41 (.reg 9) (.reg 17))
      ∧ reads [0x744902B5, 0, 0x000A4000] (.bexp ⟨7, false⟩ 41 (.reg 9) (.reg 17)) :=
  ⟨rfl, rfl, rfl, rfl, rfl, rfl⟩

/-- R363, R364, R372, R373, R397, R398, R412. -/
theorem test_decode_engine_a :
    reads [0x720302B9, 0x00000080, 0] (.hpush ⟨7, false⟩ false 0 3 (.reg 8) 2)
      ∧ reads [0x725E12B9, 0x00000100, 0] (.hpush ⟨7, false⟩ true 4 30 (.reg 9) 0)
      ∧ reads [0x701E22BD, 0x000004C0, 0] (.hpop ⟨7, false⟩ 8 30 3 true false)
      ∧ reads [0x715E22C1, 0x00000200, 0] (.htry ⟨7, false⟩ 8 5 30 0 false true)
      ∧ reads [0x715E22C5, 0x0ABC0080, 0] (.hpeek ⟨7, false⟩ 8 5 30 0xABC 2 false)
      ∧ reads [0x725E02C8] (.hallow ⟨7, false⟩ 30 (.reg 9))
      ∧ reads [0x701E02CC] (.hreset ⟨7, false⟩ 30)
      ∧ reads [0x725E02CD, 0x00000800, 0] (.hresetDef ⟨7, false⟩ 30 (.reg 9))
      ∧ reads [0x71000301, 0x07020346, 0x00200000] (.cpy ⟨7, false⟩ true false 3 2 7 (.reg 0) (.reg 4) (.reg 6) 2 0)
      ∧ reads [0x71051B05, 0x07020309, 0x00000019] (.cpym ⟨7, false⟩ 6 false 3 2 7 (.reg 5) (.reg 4) (.reg 9) 0 .die 1)
      ∧ reads [0x70050309, 0x00030109, 0x00000002] (.cpyo ⟨7, false⟩ false 3 1 (.reg 5) (.reg 9) 2)
      ∧ reads [0x70050309, 0x00000400, 0] (.cpyo ⟨7, false⟩ true 0 0 (.reg 5) (.reg 0) 0) :=
  ⟨rfl, rfl, rfl, rfl, rfl, rfl, rfl, rfl, rfl, rfl, rfl, rfl⟩

/-- R363, R364, R372, R373, R397, R398, R412. -/
theorem test_decode_engine_b :
    reads [0x7005030D, 0x1F110289, 0x064A4001] (.gath ⟨7, false⟩ false true 2 17 31 41 (.reg 5) (.reg 0) (.reg 9) 100 1)
      ∧ reads [0x71000311, 0x111F0040, 0x064A4001] (.scat ⟨7, false⟩ true 0 31 17 41 (.reg 0) (.reg 4) (.reg 0) 100 1)
      ∧ reads [0x71050315, 0x0700008C, 0x000A4001] (.bin ⟨7, false⟩ 7 41 (.reg 5) (.reg 4) 12 1)
      ∧ reads [0x70040B19, 0x00400000, 0] (.kset ⟨7, false⟩ 2 4 64)
      ∧ reads [0x70000B1C] (.ksign ⟨7, false⟩ 2)
      ∧ reads [0x70051F21, 0x0100830A, 0x00000244] (.tldb ⟨7, false⟩ 3 9 (.reg 5) true true 7 (.reg 10) 4)
      ∧ reads [0x70000325, 0x001E2EC0, 0x04000244] (.tmma ⟨7, false⟩ true true 2 true 5 false 9 30 (.reg 0) 64 false false 0 (.reg 0) 4)
      ∧ reads [0x71051F29, 0x01004180, 0x03FA4244] (.tmmag ⟨7, false⟩ false true 1 false 0 true 9 0 41 (.reg 5) (.reg 4) 63 true false 7 (.reg 0) 4)
      ∧ reads [0x7000032D, 0x0000808A, 0x00000004] (.tzero ⟨7, false⟩ true false true 0 (.reg 10) 4)
      ∧ reads [0x71000331, 0x001E0480, 0x04000244] (.tsta ⟨7, false⟩ true true 9 30 (.reg 0) (.reg 4) 64 false false 0 (.reg 0) 4)
      ∧ reads [0x70050331, 0x00000800, 0x00000244] (.tstaSt ⟨7, false⟩ false 9 (.reg 5) false false 0 (.reg 0) 4) :=
  ⟨rfl, rfl, rfl, rfl, rfl, rfl, rfl, rfl, rfl, rfl, rfl⟩

/-- R264, R426, R481, R487, R489, R491, R494, R512. -/
theorem test_decode_system_a :
    reads [0x70011B35, 0x00520040, 0x00200100] (.rtprb ⟨7, false⟩ 6 2 true 5 4 (.reg 1) (.reg 0) 0 2 0)
      ∧ reads [0x70090F39, 0x000E0000, 0x00000006] (.rtins ⟨7, false⟩ 3 14 (.reg 9) 6)
      ∧ reads [0x70091F3D, 0x000E0000, 0x00000006] (.rtdel ⟨7, false⟩ 7 14 (.reg 9) 6)
      ∧ reads [0x70090341, 0x000E0000, 0x00000006] (.rtrhs ⟨7, false⟩ 14 (.reg 9) 6)
      ∧ reads [0x70000344] (.rtsync ⟨7, false⟩)
      ∧ reads [0x70001381, 0x00020000, 0] (.movs ⟨7, false⟩ 4 2 0 false (.reg 0))
      ∧ reads [0x70051B81, 0x00200040, 0] (.movs ⟨7, false⟩ 6 0x20 0 true (.reg 5))
      ∧ reads [0x70090385, 0x0C230000, 0] (.movsw ⟨7, false⟩ 0x23 12 false (.reg 9) (.reg 0))
      ∧ reads [0x70000389, 0xABCD0000, 0] (.trap ⟨7, false⟩ 0xABCD)
      ∧ reads [0x7000038C] (.tret ⟨7, false⟩)
      ∧ reads [0x70001790] (.slack ⟨7, false⟩ 5)
      ∧ reads [0x70000391, 0x00000040, 0x00000006] (.slackCls ⟨7, false⟩ 6) :=
  ⟨rfl, rfl, rfl, rfl, rfl, rfl, rfl, rfl, rfl, rfl, rfl, rfl⟩

/-- R264, R426, R481, R487, R489, R491, R494, R512. -/
theorem test_decode_system_b :
    reads [0x70090391, 0x00000080, 0] (.slackSet ⟨7, false⟩ (.reg 9))
      ∧ reads [0x70000394] (.halt ⟨7, false⟩)
      ∧ reads [0x70090399, 0x01550000, 0x000A4000] (.patdef ⟨7, false⟩ 0x155 false (.reg 9) 41)
      ∧ reads [0x7000179D, 0x2D550000, 0] (.patrd ⟨7, false⟩ 5 0x155 11)
      ∧ reads [0x700903A1, 0x02AA0040, 0] (.bldef ⟨7, false⟩ 0x2AA true (.reg 9))
      ∧ reads [0x700017A5, 0x0EAA0000, 0] (.blrd ⟨7, false⟩ 5 0x2AA 3)
      ∧ reads [0x74491BA8] (.hfset ⟨7, false⟩ 6 (.reg 9) (.reg 17))
      ∧ reads [0x744997AD, 0x01020000, 0] (.jtdef ⟨7, false⟩ 37 0x0102 (.reg 9) (.reg 17))
      ∧ reads [0x70093BB1, 0, 0x000A4000] (.rtdef ⟨7, false⟩ 14 41 (.reg 9))
      ∧ reads [0x70093BB1, 0x00000040, 0x000A4000] (.rtdefRh ⟨7, false⟩ 14 41 (.reg 9))
      ∧ reads [0x70003BB1, 0x00000080, 0] (.rtdefOff ⟨7, false⟩ 14)
      ∧ reads [0x700013B5, 0x001E0000, 0] (.ctrrd ⟨7, false⟩ 4 0x1E false (.reg 0)) :=
  ⟨rfl, rfl, rfl, rfl, rfl, rfl, rfl, rfl, rfl, rfl, rfl, rfl⟩

/-- R264, R426, R481, R487, R489, R491, R494, R512. -/
theorem test_decode_system_c :
    reads [0x744803B9, 0x00000040, 0] (.ctrset ⟨7, false⟩ 0 true (.reg 8) (.reg 17))
      ∧ reads [0x700003BD, 0x12340000, 0] (.smpl ⟨7, false⟩ false 0x1234)
      ∧ reads [0x700003BD, 0x00000040, 0] (.smpl ⟨7, false⟩ true 0)
      ∧ reads [0x700003C1, 0xFFFD0000, 0] (.brkpt ⟨7, false⟩ 0xFFFD)
      ∧ reads [0x700003C4] (.hint ⟨7, false⟩)
      ∧ reads [0x700003C8] (.waitpred ⟨7, false⟩) :=
  ⟨rfl, rfl, rfl, rfl, rfl, rfl⟩

/-! ### States -/

/-- A thread of the placed launch, at the position behind the header at 0x40. -/
def thread : Hart := placedHart 2 .zeroX .running

/-- Core 1 of a ready device with that thread in lane 0 of wave 0, and the bobbin of its slot; the thread issues. -/
def stand (h : Hart) : State :=
  { State.reset.withFetchWord 32 0x70000000 with
    cores := [(1, { placedCore false 0 1 with waves := [(0, { ctx := 0, launch := 0, arrival := false, lanes := [(0, h)], frags := [(0, {})] })] })]
    cur := { core := 1, lanes := [0], nextPc := 0x48, nextPos := 1, count := 2 } }

def ref : Ref := ⟨1, .wave 0 0, 2⟩

/-- The same core with its bobbin alone, which issues. -/
def standB (b : Hart) : State :=
  { State.reset.withFetchWord 32 0x70000000 with
    cores := [(1, { placedCore true 0 1 with slots := [(0, { ctx := 0, bobbin := b, slackTab := Vector.replicate 8 0xFFF, qcount := 24000 })] })]
    cur := { core := 1, bobbin := true, lanes := [0], nextPc := 0x48, nextPos := 1, count := 2 } }

def refB : Ref := ⟨1, .bobbin 0, 1⟩
def bobbin : Hart := placedHart 1 .zeroW .running

/-- A change of the core that the thread stands on. -/
def onCore (s : State) (f : Core → Core) : State := s.modCore 1 f

theorem stand_one (h : Hart) (ht : h.tid = 2) (hr : h.status = .running) : (stand h).oneLane ref h := by
  obtain ⟨tid⟩ := h
  simp only at ht hr
  subst ht hr
  exact ⟨rfl, rfl, 0, rfl, rfl⟩


/-! ### Witnesses: states and operands that meet the hypotheses of the statements -/

/-- DecodeUndoesEncode, at the ends of the fields: register 63, a literal of all ones, 4095 entries. -/
theorem witness_words : isWord (.mad g0 63 (.reg 62) (.lit 0xFFFFFFFFFFFFFFFF) (.lit 0xFFFFFFFFFFFFFFFF) (some .i32) true) = true
    ∧ (Instr.mad g0 63 (.reg 62) (.lit 0xFFFFFFFFFFFFFFFF) (.lit 0xFFFFFFFFFFFFFFFF) (some .i32) true).wf = true
    ∧ isWord (.hpeek g0 63 7 31 4095 3 false) = true ∧ (Instr.hpeek g0 63 7 31 4095 3 false).wf = true := by decide

/-- An event and a word among the inputs. -/
theorem witness_inputs : ({ State.reset with inputs := [.dispatch] } : State).inputs = .dispatch :: [] ∧ isWord .dispatch = false
    ∧ isWord (.nop g0) = true := by decide

/-- The types that the statements of block 0x20, of floating point and of the lane moves admit. -/
theorem witness_types : tyIn none intFmts = true ∧ tyIn (some .n8) intFmts = true ∧ tyIn (some .i64) intFmts = true
    ∧ tyIn (some .i32) narrowFmts = true ∧ (Fmt.f32 ∈ floatFmts ∧ Fmt.bf16 ∈ floatFmts) ∧ Fmt.isFloat .f16 = true
    ∧ ((none : Option Fmt).getD .e4m3).isInt = false ∧ ((some Fmt.n8).getD .e4m3).isInt = true := by decide

/-- Lanes that fit their registers, and lanes that sit the instruction out. -/
theorem witness_lanes : (stand thread).oneLane ref thread ∧ (standB bobbin).oneLane refB bobbin ∧ thread.takes g0 = true
    ∧ thread.takes ⟨0, false⟩ = false ∧ thread.fits 63 1 ∧ thread.fits 62 2 ∧ bobbin.fits 31 2 :=
  ⟨stand_one _ rfl rfl, ⟨rfl, rfl, 0, rfl, rfl⟩, rfl, rfl, by simp [Hart.fits, thread, placedHart, Hart.isBobbin, Regs.zeroX],
    by simp [Hart.fits, thread, placedHart, Hart.isBobbin, Regs.zeroX], by simp [Hart.fits, bobbin, placedHart, Hart.isBobbin, Regs.zeroW]⟩

/-- FloatSpecialOperands: each kind of operand occurs. -/
theorem witness_floats : readF .f32 false 0x7FC00000 = .nan ∧ readF .f32 false 0xFF800000 = .inf true ∧ readF .f32 false 0x7F800000 = .inf (!true)
    ∧ isZero (readF .f32 false 0x80000000) true ∧ isZero (readF .f32 false 0) false ∧ (∃ n m e, readF .f32 false 1 = .fin n (m + 1) e)
    ∧ (∃ x e, readF .f16 false 0xFBFF = .fin true (x + 1) e) ∧ isZero (readF .bf16 true 1) false :=
  ⟨by decide, by decide, by decide, ⟨_, rfl⟩, ⟨_, rfl⟩, ⟨_, _, _, rfl⟩, ⟨_, _, rfl⟩, ⟨_, rfl⟩⟩

/-- ConversionResults, GeneratorDraws, BitPlanesAndAlignment: well-formed forms, at the ends of their fields. -/
theorem witness_conversions : (Instr.cvt g0 62 (.reg 63) .i64 .f32 .rup true true false).wf = true
    ∧ (Instr.dqnt g0 5 (.reg 9) .f32 .bp (.reg 17) 8 .rtz true false false).wf = true
    ∧ ((Instr.qnt g0 5 (.reg 9) .bp .f32 (.reg 17) 2 .rne false false false).wf = true ∧ Round.rne ≠ .rsr)
    ∧ (Instr.qnt g0 5 (.reg 9) .e4m3 .bf16 (.reg 17) 0 .rsr true false true).wf = true
    ∧ (Instr.cvtsr g0 5 (.reg 9) .f16 .f32 (.reg 17) true false false true).wf = true
    ∧ (Instr.cvtsr g0 5 (.reg 9) .f16 .f32 (.reg 0) false false false true).wf = true
    ∧ (Instr.plpack g0 5 56 8 7).wf = true ∧ (Instr.plunpk g0 56 (.reg 9) 2 2).wf = true ∧ (Instr.plext g0 5 (.reg 9) 8 1 true).wf = true := by decide

/-- SRSEED has a lane that takes part; a seed stands. -/
theorem witness_seeds : (stand thread).active g0 = [(0, thread)]
    ∧ (({ ctx := 0, bobbin, seeds := [(2, 5)] } : Slot).seeds.get? 2 = some 5) := by decide

/-- The thread with a change; the state in which it stands. -/
abbrev withTx (depth : Nat) : Hart := { thread with tx := { thread.tx with depth } }

/-- PlainControl: YIELD with and without a bobbin, the launch of HINT and MOV.id, WAITPRED outside and in an attempt, with no
predecessor and with one. -/
theorem witness_control : (stand thread).active g0 ≠ [] ∧ (stand thread).cur.bobbin = false ∧ (standB bobbin).active g0 ≠ []
    ∧ (standB bobbin).cur.bobbin = true ∧ (stand thread).launch? thread.launch = some placedLaunch ∧ thread.tx.depth = 0
    ∧ (stand thread).runningPred thread = none ∧ (withTx 1).tx.depth ≠ 0
    ∧ ({ stand thread with launches := [(0, { placedLaunch with predid := 2 }), (1, { placedLaunch with lid := 2 })] } : State).runningPred thread
      = some (1, { placedLaunch with lid := 2 }) := by decide +kernel

/-- DirectTransfers, JoinWaitRepCut and Transactions: a target that is a clause header, one that is none, one that is not resident. -/
theorem witness_targets : (stand thread).target 1 ((stand thread).ctxOf ref) 0x40 = .ok ∧ (stand thread).target 1 ((stand thread).ctxOf ref) 0x44 = .bad
    ∧ (stand thread).target 1 ((stand thread).ctxOf ref) 0x10040 = .miss := by decide +kernel

/-- SeamOpens: a closed seam of the lanes' fragment. -/
theorem witness_seam : ∃ v, (stand thread).cur.bobbin = false ∧ (stand thread).wave? 1 0 = some v ∧ (stand thread).active g0 = [(0, thread)]
    ∧ v.lanes.get? 0 = some thread ∧ (∀ e ∈ (stand thread).active g0, (stand thread).fragOf e.2 = 0)
    ∧ ((v.frag 0).seams.toList.getD 15 {}).opened = false := ⟨_, rfl, rfl, by decide, rfl, by decide, by decide⟩

/-- JoinWaitRepCut: flags of the mask that are clear, and one that is not. -/
theorem witness_wait : (∀ f < 12, (0x800 : BitVec 12).getLsbD f = true → thread.doneCount f = 0)
    ∧ (∃ f < 12, (0x800 : BitVec 12).getLsbD f = true ∧ (thread.setDone 11 15).doneCount f ≠ 0) := by decide

/-- The machine with ADD x1, x2, x0 placed where it fetches next. -/
def fetching : State := State.reset.withFetchWord 32 0x70020488

set_option maxRecDepth 20000 in
/-- StepRunsDecodedInstruction: its hypotheses hold where the machine fetches ADD x1, x2, x0. -/
theorem witness_step : ∃ (s' : State) (core port n : Nat) (p : Pick) (e : List Pick) (c : Clause) (q : Pos) (i : Instr) (rest : List (BitVec 32)) (r : Raw),
    fetching.inputs = [] ∧ fetching.power.stopped = false
    ∧ fetching.settleAll.choose fetching.settleAll.actions = some (.issue core port p e, s')
    ∧ (s'.chosen core port p e).clauseOf core p.ctx p.hart = some (n, c)
    ∧ c.places[p.hart.pos]? = some q ∧ q.op ≠ 0x0B ∧ p.hart.rep = none
    ∧ decode ((s'.chosen core port p e).wordsAt core n q.off) = .ok (i, rest) ∧ i.raw? = some r ∧ q.op = r.op.toNat
    ∧ encodingFault p.bobbin ((s'.chosen core port p e).allotOf p.hart) q.op false (.ok i) = none
    ∧ (lastOnly q.op = true → p.hart.pos + 1 = c.count) ∧ (mustBeSafe q.op = true → c.safe p.hart.pos = true)
    ∧ (∀ x ∈ (issued (s'.chosen core port p e) core port p c q).lanes, x.2.poison &&& readMask i p.bobbin = 0)
    ∧ (∀ x ∈ (issued (s'.chosen core port p e) core port p c q).lanes, ∀ f, (longLatency q.op = true ∧ c.flag p.hart.pos = some f) →
      x.2.doneCount f ≠ 15) := by
  refine ⟨_, _, _, _, _, _, _, _, _, _, _, rfl, rfl, rfl, rfl, rfl, ?_, rfl, rfl, rfl, rfl, ?_, ?_, ?_, ?_, ?_⟩
  · decide +kernel
  · decide +kernel
  · decide +kernel
  · decide +kernel
  · decide +kernel
  · exact fun x _ f hf => absurd hf.1 (by decide +kernel)

/-- A bolt record: base, space, log2 of the element, access, stride, extent (R479). -/
def bolt (base space esize access stride extent : Nat) : BitVec 128 :=
  BitVec.ofNat 128 (base + space * 2 ^ 48 + esize * 2 ^ 51 + access * 2 ^ 54 + stride * 2 ^ 64 + extent * 2 ^ 96)

/-- The state with 4 KiB of core scratchpad and with bolts: 1 to 4 in core scratchpad, of bytes to doublewords, 5 of lane
memory, 6 of global memory. -/
def withBolts (s : State) : State :=
  s.modCore 1 fun k => { k with
    allocs := [(0, { cspb := 0x1000 })]
    slots := k.slots.modify 0 fun q => { q with bolts := (((((q.bolts.set 1 (bolt 0x400 3 0 3 1 16)).set 2 (bolt 0x400 3 1 3 2 16)).set 3
      (bolt 0x400 3 2 3 4 16)).set 4 (bolt 0xFC0 3 3 3 8 8)).set 5 (bolt 0 4 2 3 4 64)).set 6 (bolt 0x4000 0 2 3 4 16) } }

def near (h : Hart) : State := withBolts (stand h)

theorem near_one (h : Hart) (ht : h.tid = 2) (hr : h.status = .running) : (near h).oneLane ref h := by
  obtain ⟨tid⟩ := h
  simp only at ht hr
  subst ht hr
  exact ⟨rfl, rfl, 0, rfl, rfl⟩

def boltN (k : BitVec 6) : Bolt := (near thread).boltOf ref thread k

/-- LoadsDeliver in near memory: LDQ of the last two doublewords of the allocation, an element past the extent, and FNEXT of a
fibre with one element left. -/
theorem witness_loads : (near thread).oneLane ref thread ∧ thread.takes g0 = true ∧ (near thread).sampleTag g0 = (none, near thread)
    ∧ (∃ q, loadForm (near thread) ref thread g0 (.ldq g0 8 4 (.lit 6) 2 none false 0) q ∧ q.bolt.space ≠ 0
      ∧ (near thread).elems ref q.bolt .load q.ix q.n = .ok [some 0xFF0, some 0xFF8])
    ∧ (∃ q, loadForm (near thread) ref thread g0 (.ld g0 63 5 (.lit 64) none false 0) q ∧ q.bolt.space ≠ 0
      ∧ (near thread).elems ref q.bolt .load q.ix q.n = .ok [none])
    ∧ (∀ a, (near thread).scored (ref.key 0 3 a) = false) := by
  refine ⟨near_one _ rfl rfl, rfl, rfl, ⟨_, .inr (.inl ⟨_, _, _, _, _, _, _, rfl, by decide +kernel, rfl⟩), by decide +kernel, rfl⟩,
    ⟨_, .inl ⟨_, _, _, _, _, _, rfl, by decide +kernel, rfl⟩, by decide +kernel, rfl⟩, fun a => rfl⟩

def fibred : Hart := { thread with fi1 := { pos := 15, count := 1, step := 1, bolt := 3, opened := true } }

theorem witness_fibre : (near fibred).oneLane ref fibred
    ∧ (∃ q, loadForm (near fibred) ref fibred g0 (.fnext g0 5 3 1 true false 0) q
      ∧ (near fibred).elems ref q.bolt .load q.ix q.n = .ok [some 0x43C])
    ∧ ((thread.fibre 1).opened = false ∧ ((near thread).boltOf ref thread (thread.fibre 1).bolt).esize ≤ 4
      ∧ (near thread).elemFault thread ((near thread).boltOf ref thread (thread.fibre 1).bolt) none (.reg 63) 1 false = none) := by
  refine ⟨near_one _ rfl rfl, ⟨_, .inr (.inr (.inr ⟨_, _, _, _, _, _, .inl rfl, rfl, by decide, by decide +kernel, rfl⟩)), rfl⟩, rfl, by decide +kernel,
    by decide +kernel⟩

/-- NearStoresPerform: the last doubleword of the allocation; an element past the extent. -/
theorem witness_nearStores : (∃ q, storeForm (near thread) ref thread g0 (.st g0 4 (.lit 7) (.reg 62) none false 0) q ∧ q.bolt.space ≠ 0
      ∧ (near thread).elems ref q.bolt .store q.ix q.n = .ok [some 0xFF8])
    ∧ (∃ q, storeForm (near thread) ref thread g0 (.stq g0 1 (.lit 15) (.reg 8) 2 none false 0) q ∧ q.bolt.space ≠ 0
      ∧ (near thread).elems ref q.bolt .store q.ix q.n = .ok [some 0x40F, none]) := by
  refine ⟨⟨_, .inl ⟨_, _, _, _, _, _, rfl, by decide +kernel, rfl⟩, by decide +kernel, rfl⟩,
    ⟨_, .inr ⟨_, _, _, _, _, _, _, rfl, by decide +kernel, rfl⟩, by decide +kernel, rfl⟩⟩

/-! A page: the tables of context 0 stand in core 2's channel, and give the first GiB to core 1 (its home) or to core 3, read-only
or writable. The directory of core 1's frame table stands where Config says. -/

/-- A table entry of R450 and R454: valid, and a leaf of 1 GiB with its RO (or writable) bit, or the next table. -/
def leafEntry (bit4 : Bool) (dst : Nat) : List Byte := bytesOfNat 8 (1 + 2 + 3 * 4 + bit4.toNat * 16 + dst * 256)
def nextEntry (dst : Nat) : List Byte := bytesOfNat 8 (1 + dst / 4096 * 256)

def tables (ro : Bool) (home : Nat) : List Host.Cell :=
  Memory.setBytes (Memory.setBytes (Memory.setBytes (Memory.setBytes [] 0x200000000 (nextEntry 0x200001000)) 0x200001000 (leafEntry true (2 ^ 20 + 2 ^ 19)))
    0x200002000 (nextEntry 0x200003000)) 0x200003000 (leafEntry ro home)

@[irreducible] def directory : Nat := nearBase 1 + Config.frameDirectory % 2 ^ 31

def paged (s : State) (ro : Bool) (home : Nat) : State :=
  { s with mem := Memory.setBytes (tables ro home) directory (nextEntry 0x200000000), hmaps := [(0, 0x200002000)] }

theorem directory_lt : directory + 8 ≤ 0x200000000 ∧ 2 ^ 32 ≤ directory := by
  have : Config.frameDirectory % 2 ^ 31 < 2 ^ 31 := Nat.mod_lt _ (by decide)
  unfold directory nearBase
  omega


theorem get_tables (ro : Bool) (home x : Nat) (h : 0x200000000 ≤ x) :
    Memory.get (Memory.setBytes (tables ro home) directory (nextEntry 0x200000000)) x = Memory.get (tables ro home) x := by
  have := directory_lt
  rw [Memory.get_setBytes, if_neg]
  simp [nextEntry, bytesOfNat]
  omega

theorem entry_tables (ro : Bool) (home x i : Nat) (h : 0x200000000 ≤ x) :
    tableEntry (Memory.setBytes (tables ro home) directory (nextEntry 0x200000000)) x i = tableEntry (tables ro home) x i := by
  simp only [tableEntry, Memory.getNat, Memory.getBytes]
  congr 2
  exact List.map_congr_left fun j _ => get_tables ro home _ (by omega)

theorem entry_directory (m : List Host.Cell) : tableEntry (Memory.setBytes m directory (nextEntry 0x200000000)) directory 0 = 0x20000001 := by
  simp only [tableEntry, Memory.getNat, Memory.getBytes, Memory.get_setBytes]
  simp [List.range, List.range.loop, nextEntry, bytesOfNat, natOfBytes]

theorem frameRoot_of (s : State) (core ctx : Nat) (e : DWord) (h : tableEntry s.mem (nearBase core + Config.frameDirectory % 2 ^ 31) ctx = e) :
    s.frameRoot core ctx = if e.getLsbD 0 then some (entryNext e) else none := by
  subst h
  rfl

theorem paged_entry (s : State) (ro : Bool) (home : Nat) :
    tableEntry (paged s ro home).mem (nearBase 1 + Config.frameDirectory % 2 ^ 31) 0 = 0x20000001 := by
  have h := entry_directory (tables ro home)
  have hd : nearBase 1 + Config.frameDirectory % 2 ^ 31 = directory := directory.eq_1.symm
  have hm : (paged s ro home).mem = Memory.setBytes (tables ro home) directory (nextEntry 0x200000000) := by
    unfold paged
    with_reducible rfl
  rw [hm, hd]
  with_reducible exact h

theorem entry_home (ro : Bool) : tableEntry (tables ro 1) 0x200002000 0 = 0x20000301 ∧ tableEntry (tables ro 3) 0x200002000 0 = 0x20000301
    ∧ tableEntry (tables ro 1) 0x200001000 0 = 0x1800001F := by
  cases ro <;> decide +kernel


theorem paged_frameRoot (s : State) (ro : Bool) (home : Nat) : (paged s ro home).frameRoot 1 0 = some 0x200000000 := by
  rw [frameRoot_of _ _ _ _ (paged_entry s ro home)]
  decide

theorem paged_at (s : State) (ro : Bool) (home x i : Nat) (h : 0x200000000 ≤ x) :
    tableEntry (paged s ro home).mem x i = tableEntry (tables ro home) x i := entry_tables ro home x i h

/-- A walk that ends at the second level. -/
theorem radix_two (m : List Host.Cell) (ok : DWord → Bool) (va base : Nat) (e f : DWord) (hv : va < 2 ^ 30) (he : tableEntry m base 0 = e)
    (hf : tableEntry m (entryNext e) 0 = f) (ve : (e.getLsbD 0 && ok e && !e.getLsbD 1) = true)
    (vf : (f.getLsbD 0 && ok f && f.getLsbD 1 && levelSize 2 (field f 2 2) && field f 2 2 != 1) = true) :
    radixWalk m ok va radixLevels base = some (f, 2, entryNext e) := by
  have h1 : va / 2 ^ 39 % 512 = 0 := by omega
  have h2 : va / 2 ^ 30 % 512 = 0 := by omega
  simp only [Bool.and_eq_true, Bool.not_eq_true'] at ve vf
  obtain ⟨⟨a1, a2⟩, a3⟩ := ve
  obtain ⟨⟨⟨⟨b1, b2⟩, b3⟩, b4⟩, b5⟩ := vf
  simp only [radixLevels, radixWalk, h1, h2, he, hf, a1, a2, a3, b1, b2, b3, b4, b5]
  simp

theorem home_tables (ro : Bool) (home : Nat) (hh : home = 1 ∨ home = 3) : tableEntry (tables ro home) 0x200002000 0 = 0x20000301
    ∧ tableEntry (tables ro home) 0x200003000 0 = BitVec.ofNat 64 (15 + ro.toNat * 16 + home * 256)
    ∧ tableEntry (tables ro home) 0x200000000 0 = 0x20000101 ∧ tableEntry (tables ro home) 0x200001000 0 = 0x1800001F := by
  rcases hh with rfl | rfl <;> cases ro <;> decide +kernel

/-! Any state whose memory holds those tables, whatever else it holds. -/

structure Mapped (t : State) (ro : Bool) (home : Nat) : Prop where
  map : t.hmaps = [(0, 0x200002000)]
  dir : tableEntry t.mem (nearBase 1 + Config.frameDirectory % 2 ^ 31) 0 = 0x20000001
  tab : ∀ x i, 0x200000000 ≤ x → tableEntry t.mem x i = tableEntry (tables ro home) x i
  mov : t.moves = []
  clean : t.poison = []
  chip : t.bar.chipid = 0

theorem paged_mapped (s : State) (ro : Bool) (home : Nat) (hm : s.moves = []) (hp : s.poison = []) (hc : s.bar.chipid = 0) :
    Mapped (paged s ro home) ro home :=
  ⟨rfl, paged_entry s ro home, fun x i h => entry_tables ro home x i h, hm, hp, hc⟩

/-- Bytes written to the upper half of core 1's channel leave the tables. -/
theorem Mapped.write {t u : State} {ro : Bool} {home a : Nat} {l : List Byte} (h : Mapped t ro home) (hm : u.mem = Memory.setBytes t.mem a l)
    (ha : 0x180000008 ≤ a) (hl : a + l.length ≤ 0x200000000) (h1 : u.hmaps = t.hmaps) (h2 : u.moves = t.moves) (h3 : u.poison = t.poison)
    (h4 : u.bar = t.bar) :
    Mapped u ro home := by
  have hd := directory_lt
  have hn : nearBase 1 + Config.frameDirectory % 2 ^ 31 + 8 ≤ 0x180000008 := by
    have : Config.frameDirectory % 2 ^ 31 < 2 ^ 31 := Nat.mod_lt _ (by decide)
    unfold nearBase
    omega
  have key : ∀ x i, (x + 8 * i + 8 ≤ 0x180000008 ∨ 0x200000000 ≤ x) → tableEntry u.mem x i = tableEntry t.mem x i := by
    intro x i hx
    simp only [tableEntry, Memory.getNat, Memory.getBytes, hm]
    congr 2
    refine List.map_congr_left fun j hj => ?_
    rw [List.mem_range] at hj
    rw [Memory.get_setBytes, if_neg (by omega)]
  exact ⟨h1.trans h.map, (key _ _ (.inl (by omega))).trans h.dir, fun x i hx => (key x i (.inr hx)).trans (h.tab x i hx), h2.trans h.mov, h3.trans h.clean,
    (congrArg Bar.chipid h4).trans h.chip⟩

theorem Mapped.same {t u : State} {ro : Bool} {home : Nat} (h : Mapped t ro home) (hm : u.mem = t.mem) (h1 : u.hmaps = t.hmaps)
    (h2 : u.moves = t.moves) (h3 : u.poison = t.poison) (h4 : u.bar.chipid = t.bar.chipid) : Mapped u ro home :=
  ⟨h1.trans h.map, by rw [hm]; exact h.dir, fun x i hx => by rw [hm]; exact h.tab x i hx, h2.trans h.mov, h3.trans h.clean, h4.trans h.chip⟩

theorem Mapped.leaf {t : State} {ro : Bool} {home va : Nat} (h : Mapped t ro home) (hv : va < 2 ^ 30) (hh : home = 1 ∨ home = 3) :
    t.homeLeaf 0 va = some ⟨3, ro, home⟩ := by
  have e := home_tables ro home hh
  have h0 : t.hmapRoot 0 = 0x200002000 := by simp [State.hmapRoot, h.map, KMap.get?, field]
  have hp : t.homePoison 0 va = false := by simp [State.homePoison, h.clean]
  unfold State.homeLeaf
  rw [hp, if_neg (by decide), h0, radix_two _ _ va _ 0x20000301 (BitVec.ofNat 64 (15 + ro.toNat * 16 + home * 256)) hv
    (by rw [h.tab _ _ (by decide)]; exact e.1) (by rw [h.tab _ _ (by decide)]; exact e.2.1)]
  all_goals rcases hh with rfl | rfl <;> cases ro <;> decide

theorem Mapped.check {t : State} {ro : Bool} {home va : Nat} {write : Bool} (h : Mapped t ro home) (hv : va < 2 ^ 30) (hh : home = 1 ∨ home = 3)
    (hw : (write && ro) = false) : t.homeCheck 0 va write ⟨3, ro, 1⟩ = .ok (0x180000000 + va) := by
  have e := home_tables ro home hh
  have hf : t.frameLeaf 1 0 va = some (0x1800001F, 0x200001000) := by
    unfold State.frameLeaf
    rw [frameRoot_of _ _ _ _ h.dir, if_pos (by decide), show entryNext (0x20000001 : DWord) = 0x200000000 by decide]
    simp only [Option.bind_some]
    rw [radix_two _ _ va _ 0x20000101 0x1800001F hv (by rw [h.tab _ _ (by decide)]; exact e.2.2.1)
      (by rw [h.tab _ _ (by decide)]; exact e.2.2.2) (by decide) (by decide)]
    decide
  have hff : t.forwardedFirst 0 va 1 = false := by
    unfold State.forwardedFirst
    simp [h.mov]
  have h3 : va % 2 ^ 30 = va := by omega
  have hp : t.framePoison 1 0 va = false := by simp [State.framePoison, h.clean]
  have hc : t.onChip 1 = true := by simp [State.onChip, h.chip]
  unfold State.homeCheck
  simp only [show coreOfHome 1 = 1 from rfl, hf, hff, hp, hc]
  rw [show field (0x1800001F : DWord) 8 28 * 4096 = 0x180000000 by decide, show (field (0x1800001F : DWord) 2 2 != 3) = false by decide,
    show (0x1800001F : DWord).getLsbD 5 = false by decide, show (0x1800001F : DWord).getLsbD 4 = true by decide]
  cases write <;> cases ro <;> simp [pageBytes] at hw ⊢ <;> omega

theorem Mapped.translate {t : State} {ro write : Bool} {va : Nat} (h : Mapped t ro 1) (hv : va < 2 ^ 30) (hw : (write && ro) = false) :
    t.translate 0 va write = .ok (0x180000000 + va) := by
  unfold State.translate
  rw [h.leaf hv (.inl rfl)]
  exact h.check hv (.inl rfl) hw

theorem Mapped.read {t : State} {ro : Bool} (h : Mapped t ro 1) (n : Nat) : ∀ va, va + n ≤ 2 ^ 30 →
    t.readVa 0 va n = .ok ((List.range n).map fun i => Memory.get t.mem (0x180000000 + va + i)) := by
  induction n with
  | zero => intro va _; rfl
  | succ n ih =>
    intro va hv
    have h1 : va % 2 ^ 48 = va := by omega
    unfold State.readVa
    rw [h1, h.translate (by omega) (by simp)]
    simp only [State.sectorBad, h.clean, List.contains_nil, Bool.false_eq_true, if_false, ih (va + 1) (by omega), List.range_succ_eq_map, List.map_cons, List.map_map]
    congr 2
    refine List.map_congr_left fun i _ => ?_
    simp only [Function.comp]
    congr 1
    omega

/-- Data that the page holds at an address. -/
def withData (s : State) (va : Nat) (l : List Byte) : State := { paged s false 1 with mem := Memory.setBytes (paged s false 1).mem (0x180000000 + va) l }

theorem data_mapped (s : State) (va : Nat) (l : List Byte) (hm : s.moves = []) (hp : s.poison = []) (hc : s.bar.chipid = 0) (h8 : 8 ≤ va) (hv : va + l.length ≤ 2 ^ 30) :
    Mapped (withData s va l) false 1 :=
  (paged_mapped s false 1 hm hp hc).write rfl (by omega) (by omega) rfl rfl rfl rfl

theorem data_read (s : State) (va a n : Nat) (l : List Byte) (hm : s.moves = []) (hp : s.poison = []) (hc : s.bar.chipid = 0) (h8 : 8 ≤ va) (hv : va + l.length ≤ 2 ^ 30)
    (ha : a + n ≤ l.length) : (withData s va l).readVa 0 (va + a) n = .ok ((l.drop a).take n) := by
  rw [(data_mapped s va l hm hp hc h8 hv).read n _ (by omega)]
  congr 1
  apply List.ext_getElem (by simp; omega)
  intro i h1 h2
  simp only [List.length_map, List.length_range] at h1
  simp only [List.getElem_map, List.getElem_range, List.getElem_take, List.getElem_drop, withData]
  rw [Memory.get_setBytes, if_pos (by omega), show 0x180000000 + (va + a) + i - (0x180000000 + va) = a + i by omega]
  simp [List.getD_eq_getElem?_getD, List.getElem?_eq_getElem (show a + i < l.length by omega)]

/-- A state that holds such a page, whose leaf is in core 1's translation cache, and a thread of launch 0. -/
structure OnPage (t : State) (h : Hart) (ro : Bool) (home : Nat) : Prop where
  map : Mapped t ro home
  leaf : (t.core 1).l1 = [⟨0, 0, 0, 3, ro, home⟩]
  resident : (t.core 1).resident = [0]
  ctx : t.ctxOf ref = 0
  ranges : t.ranges = []
  launch : h.launch = 0
  quiet : t.packets ++ t.outbox = []

theorem OnPage.homeId {t : State} {h : Hart} {ro : Bool} {home : Nat} (p : OnPage t h ro home) : t.homeId 1 = 1 := by
  simp [State.homeId, p.map.chip]

/-- A leaf that core 1's first cache holds. -/
theorem cached_lookup {t : State} {ro : Bool} {home va : Nat} (hl : (t.core 1).l1 = [⟨0, 0, 0, 3, ro, home⟩]) (hr : (t.core 1).resident = [0])
    (hv : va < 2 ^ 21) : t.tlbLookup 1 0 0 va = (some ⟨3, ro, home⟩, false, t) := by
  have hg : va / 2 ^ 21 = 0 := by omega
  have hv' : va < 1073741824 := by omega
  unfold State.tlbLookup
  simp only [hl, Core.l1Set, hr, hg]
  simp [TlbEntry.covers, pageBytes, hv']

theorem OnPage.lookup {t : State} {h : Hart} {ro : Bool} {home va : Nat} (p : OnPage t h ro home) (hv : va < 2 ^ 21) :
    t.tlbLookup 1 0 0 va = (some ⟨3, ro, home⟩, false, t) := cached_lookup p.leaf p.resident hv

theorem OnPage.walk {t : State} {h : Hart} {ro : Bool} {home va : Nat} (p : OnPage t h ro home) (write : Bool) (hv : va < 2 ^ 21) :
    t.walk ref h va write = (some ⟨3, ro, home⟩, t) := by
  unfold State.walk
  simp only [p.ctx, show ref.core = 1 from rfl, p.launch, show (0 : Word).toNat = 0 from rfl, p.lookup hv, Bool.false_eq_true, if_false]

theorem OnPage.first {t : State} {h : Hart} {ro : Bool} {home va i : Nat} (p : OnPage t h ro home) : t.firstForwarded i 0 va = false := by
  simp [State.firstForwarded, p.map.mov]

theorem OnPage.free {t : State} {h : Hart} {ro : Bool} {home va n : Nat} (p : OnPage t h ro home) (write : Bool) : t.rangeLocked 0 va n write = false := by
  simp [State.rangeLocked, p.ranges]

theorem OnPage.elsewhere {t : State} {h : Hart} {home va : Nat} (p : OnPage t h false home) (hv : va < 2 ^ 21) (hh : home = 1 ∨ home = 3) :
    t.roElsewhere 0 va = false := by
  have hl := p.map.leaf (show va < 2 ^ 30 by omega) hh
  simp [State.roElsewhere, hl]

/-- Where an element of a page of the core itself is served. -/
theorem OnPage.locate {t : State} {h : Hart} {va n : Nat} (p : OnPage t h false 1) (write : Bool) (hv : va < 2 ^ 21) (hp : t.pinned h = false) :
    t.locate ref h 0 va n write 0 false = (some (.home ⟨(0x180000000 + va) / 64, va / 64, 0, 0⟩ (0x180000000 + va)), t) := by
  have h4 := p.map.check (write := write) (show va < 2 ^ 30 by omega) (.inl rfl) (by simp)
  unfold State.locate
  have h5 : t.requestOut h.tid 0 va n = false := by simp [State.requestOut, p.quiet]
  simp [p.walk write hv, hp, h5, p.homeId, State.atHome, p.ctx, p.free write, p.first, h4, show ref.core = 1 from rfl]

theorem OnPage.locateAll {t : State} {h : Hart} {n : Nat} (p : OnPage t h false 1) (write : Bool) (hp : t.pinned h = false) :
    ∀ (as : List (Option Nat)), (∀ a, some a ∈ as → a < 2 ^ 21) → t.locateAll ref h 0 n write 0 false as
      = (some (as.map fun a => a.map fun va => (.home ⟨(0x180000000 + va) / 64, va / 64, 0, 0⟩ (0x180000000 + va), va)), t) := by
  intro as
  induction as with
  | nil => intro _; rfl
  | cons a l ih =>
    intro ha
    have hl := ih fun a h => ha a (List.mem_cons_of_mem _ h)
    cases a with
    | none => rw [State.locateAll, hl]; rfl
    | some a => rw [State.locateAll, p.locate write (ha a (by simp)) hp]; simp only [hl]; rfl

theorem all_home {as : List (Option Nat)} {f : Nat → Line} {k : Nat → Nat} (l : Loc) (a : Nat)
    (h : some (l, a) ∈ as.map fun x => x.map fun va => (Loc.home (f va) (k va), va)) : ∃ n k, l = .home n k := by
  obtain ⟨x, _, hx⟩ := List.mem_map.1 h
  cases x with
  | none => simp at hx
  | some va => simp only [Option.map_some, Option.some.injEq, Prod.mk.injEq] at hx; exact ⟨_, _, hx.1.symm⟩

/-- The page with its leaf in core 1's translation cache; a roving thread stands there. -/
def page (h : Hart) (ro : Bool) (home : Nat) : State :=
  (paged { near h with launches := [(0, { placedLaunch with ctl := 0x1F })] } ro home).modCore 1 fun k => { k with l1 := [⟨0, 0, 0, 3, ro, home⟩] }

theorem page_one (h : Hart) (ro : Bool) (home : Nat) (ht : h.tid = 2) (hr : h.status = .running) : (page h ro home).oneLane ref h := by
  obtain ⟨tid⟩ := h
  simp only at ht hr
  subst ht hr
  exact ⟨rfl, rfl, 0, rfl, rfl⟩

theorem paged_modCore (s : State) (ro : Bool) (home c : Nat) (f : Core → Core) : (paged s ro home).modCore c f = paged (s.modCore c f) ro home := rfl

theorem page_mapped (h : Hart) (ro : Bool) (home : Nat) : Mapped (page h ro home) ro home := by
  rw [page, paged_modCore]
  exact paged_mapped _ _ _ rfl rfl rfl

theorem page_on (h : Hart) (ro : Bool) (home : Nat) (hl : h.launch = 0) : OnPage (page h ro home) h ro home :=
  ⟨page_mapped h ro home, rfl, rfl, rfl, rfl, hl, rfl⟩

theorem page_walk (h : Hart) (ro : Bool) (home va : Nat) (write : Bool) (hv : va < 2 ^ 21) (hl : h.launch = 0) :
    (page h ro home).walk ref h va write = (some ⟨3, ro, home⟩, page h ro home) := (page_on h ro home hl).walk write hv

theorem page_pinned (h : Hart) (ro : Bool) (home : Nat) (hl : h.launch = 0) (hb : h.isBobbin = false) : (page h ro home).pinned h = false := by
  unfold State.pinned State.launch?
  rw [hb, hl]
  simp [page, paged, Launch.roving, KMap.get?]

theorem page_locate (h : Hart) (va n : Nat) (write : Bool) (hv : va < 2 ^ 21) (hl : h.launch = 0) (hb : h.isBobbin = false) :
    (page h false 1).locate ref h 0 va n write 0 false = (some (.home ⟨(0x180000000 + va) / 64, va / 64, 0, 0⟩ (0x180000000 + va)), page h false 1) :=
  (page_on h false 1 hl).locate write hv (page_pinned h false 1 hl hb)

/-- An empty home map: its root lies at 0, where nothing is valid. -/
def unmapped (h : Hart) : State := { near h with hmaps := [(0, 0)] }

/-- GlobalAccessRoutes: a walk that finds no leaf; a thread that is not pinned, a leaf here and a leaf elsewhere, a check that
passes, no range lock; a pinned thread. -/
theorem witness_routes : (page thread false 1).hart? ref = some thread ∧ (page thread false 1).pinned thread = false ∧ thread.tx.depth = 0
    ∧ (∃ s', (page thread false 1).walk ref thread 0x4000 true = (some ⟨3, false, 1⟩, s') ∧ (1 == s'.homeId 1) = true ∧ s'.rangeLocked 0 0x4000 4 true = false
      ∧ s'.firstForwarded thread.tid 0 0x4000 = false ∧ s'.homeCheck 0 0x4000 true ⟨3, false, 1⟩ = .ok 0x180004000)
    ∧ (∃ s', (page thread true 3).walk ref thread 0x1FFFFC false = (some ⟨3, true, 3⟩, s') ∧ (3 == s'.homeId 1) = false)
    ∧ (paged (near thread) true 3).pinned thread = true ∧ (unmapped thread).hart? ref = some thread
    ∧ (∃ missed s1, (unmapped thread).tlbLookup 1 ((unmapped thread).ctxOf ref) thread.launch.toNat 0x4000 = (none, missed, s1))
    ∧ (unmapped thread).missCause ((unmapped thread).ctxOf ref) 0x4000 = .homeMapMiss := by
  have p := page_on thread false 1 rfl
  have q := page_on thread true 3 rfl
  exact ⟨rfl, rfl, rfl, ⟨_, p.walk _ (by omega), by rw [p.homeId]; rfl, p.free _, p.first, p.map.check (by omega) (.inl rfl) rfl⟩,
    ⟨_, q.walk _ (by omega), by rw [q.homeId]; rfl⟩, rfl, rfl,
    ⟨_, _, by rw [show (unmapped thread).tlbLookup 1 ((unmapped thread).ctxOf ref) thread.launch.toNat 0x4000 = (none, true, unmapped thread) by decide +kernel]⟩,
    by decide +kernel⟩

/-- LoadsDeliver of global memory: an element at home, an LDRO of a read-only page of another core. -/
theorem witness_globalLoads : (∃ q, loadForm (page thread false 1) ref thread g0 (.ld g0 5 6 (.lit 15) none false 0) q ∧ q.bolt.space = 0
      ∧ thread.tstate.trapped = false ∧ q.ro = false ∧ (page thread false 1).elems ref q.bolt .load q.ix q.n = .ok [some 0x403C]
      ∧ (page thread false 1).roElsewhere 0 0x403C = false
      ∧ (∃ locs s', (page thread false 1).locateAll ref thread 0 q.bolt.width false q.sl q.sx [some 0x403C] = (some locs, s')
        ∧ ∀ l a, some (l, a) ∈ locs → ∃ n k, l = .home n k))
    ∧ (∃ q, loadForm (page thread true 3) ref thread g0 (.ldro g0 5 6 (.lit 15) none false 0) q ∧ q.bolt.space = 0 ∧ q.ro = true
      ∧ (page thread true 3).elems ref q.bolt .load q.ix q.n = .ok [some 0x403C]
      ∧ (page thread true 3).walk ref thread 0x403C false = (some ⟨3, true, 3⟩, page thread true 3) ∧ (page thread true 3).onChip 3 = true) := by
  have p := page_on thread false 1 rfl
  exact ⟨⟨_, .inl ⟨_, _, _, _, _, _, rfl, by decide +kernel, rfl⟩, by decide +kernel, rfl, rfl, rfl, p.elsewhere (by omega) (.inl rfl),
      ⟨_, _, p.locateAll false (page_pinned _ _ _ rfl rfl) [some 0x403C] (by simp), all_home⟩⟩,
    ⟨_, .inr (.inr (.inl ⟨_, _, _, _, _, _, rfl, by decide +kernel, rfl⟩)), by decide +kernel, rfl, rfl, page_walk _ _ _ _ _ (by omega) rfl, rfl⟩⟩

/-- The page with a full basting buffer and a log of no entries. -/
def fullPage (h : Hart) : State :=
  { page h false 1 with bar := { State.reset.bar with logsz := 0 } }.modCore 1 fun k =>
    { k with buffer := List.replicate 16384 ⟨0, 0, false, 0, 0, 0, 0, 0, 0, false⟩ }

set_option maxRecDepth 20000 in
theorem fullPage_on (h : Hart) (hl : h.launch = 0) : OnPage (fullPage h) h false 1 :=
  ⟨(page_mapped h false 1).same (by unfold fullPage; simp only [State.modCore_mem]) rfl rfl rfl rfl, rfl, rfl, rfl, rfl, hl, rfl⟩

theorem fullPage_room (h : Hart) : (fullPage h).basteRoom 1 1 = false := by
  have h1 : ((fullPage h).core 1).buffer = List.replicate 16384 ⟨0, 0, false, 0, 0, 0, 0, 0, 0, false⟩ := by
    unfold fullPage
    exact congrArg Core.buffer (State.core_modCore_self ..)
  have h2 : (fullPage h).logCap = 0 := by simp only [State.logCap, fullPage, State.modCore_bar, Nat.zero_mul, Nat.zero_div]
  unfold State.basteRoom
  simp only [h1, h2, List.length_replicate]
  simp

/-- PlainStoresBaste: the last word of the bolt at home, with room in the buffer; two elements past the last but one, one of them
suppressed; and a core whose buffer and log have no room. -/
theorem witness_baste : (∃ q, storeForm (page thread false 1) ref thread g0 (.st g0 6 (.lit 15) (.reg 62) none false 0) q
      ∧ q.bolt.space = 0 ∧ (page thread false 1).elems ref q.bolt .store q.ix q.n = .ok [some 0x403C]
      ∧ (∃ locs s', (page thread false 1).locateAll ref thread 0 q.bolt.width true q.sl q.sx [some 0x403C] = (some locs, s')
        ∧ (∀ l a, some (l, a) ∈ locs → ∃ n k, l = .home n k) ∧ (s'.core 1).buffer = [] ∧ (s'.core 1).log = [] ∧ (s'.core 1).seq = 0))
    ∧ (∃ q, storeForm (page thread false 1) ref thread g0 (.stq g0 6 (.lit 14) (.reg 60) 3 none false 0) q
      ∧ q.bolt.space = 0 ∧ (page thread false 1).elems ref q.bolt .store q.ix q.n = .ok [some 0x4038, some 0x403C, none]
      ∧ (∃ locs s', (page thread false 1).locateAll ref thread 0 q.bolt.width true q.sl q.sx [some 0x4038, some 0x403C, none] = (some locs, s')
        ∧ (∀ l a, some (l, a) ∈ locs → ∃ n k, l = .home n k)))
    ∧ (∃ q, storeForm (fullPage thread) ref thread g0 (.st g0 6 (.lit 15) (.reg 62) none false 0) q
      ∧ q.bolt.space = 0 ∧ (fullPage thread).elems ref q.bolt .store q.ix q.n = .ok [some 0x403C]
      ∧ (∃ locs s', (fullPage thread).locateAll ref thread 0 q.bolt.width true q.sl q.sx [some 0x403C] = (some locs, s')
        ∧ (∀ l a, some (l, a) ∈ locs → ∃ n k, l = .home n k) ∧ s'.basteRoom 1 1 = false)) := by
  have p := page_on thread false 1 rfl
  have f := fullPage_on thread rfl
  refine ⟨⟨_, .inl ⟨_, _, _, _, _, _, rfl, by decide +kernel, rfl⟩, by decide +kernel, rfl,
      ⟨_, _, p.locateAll true (page_pinned _ _ _ rfl rfl) [some 0x403C] (by simp), all_home, rfl, rfl, rfl⟩⟩,
    ⟨_, .inr ⟨_, _, _, _, _, _, _, rfl, by decide +kernel, rfl⟩, by decide +kernel, rfl,
      ⟨_, _, p.locateAll true (page_pinned _ _ _ rfl rfl) [some 0x4038, some 0x403C, none] (by simp), all_home⟩⟩,
    ⟨_, .inl ⟨_, _, _, _, _, _, rfl, by decide +kernel, rfl⟩, by decide +kernel, rfl,
      ⟨_, _, f.locateAll true rfl [some 0x403C] (by simp), all_home, fullPage_room _⟩⟩⟩

/-- The page with a bolt of 16-byte elements in place of bolt 6. -/
def widePage (h : Hart) : State :=
  (page h false 1).modCore 1 fun k => { k with slots := k.slots.modify 0 fun q => { q with bolts := q.bolts.set 6 (bolt 0x4000 0 4 3 16 4) } }

set_option maxRecDepth 20000 in
theorem widePage_on (h : Hart) (hl : h.launch = 0) : OnPage (widePage h) h false 1 :=
  ⟨(page_mapped h false 1).same (by unfold widePage; simp only [State.modCore_mem]) rfl rfl rfl rfl, rfl, rfl, rfl, rfl, hl, rfl⟩

/-- PlainStoresBaste: an element of 16 bytes, which takes two entries; a party that reads an element at the top of the space. -/
theorem witness_wideBaste : (∃ q, storeForm (widePage thread) ref thread g0 (.st g0 6 (.lit 3) (.reg 60) none false 0) q
      ∧ q.bolt.space = 0 ∧ (widePage thread).elems ref q.bolt .store q.ix q.n = .ok [some 0x4030]
      ∧ (bastedPieces q thread [some 0x4030]).length = 2
      ∧ (∃ locs s', (widePage thread).locateAll ref thread 0 q.bolt.width true q.sl q.sx [some 0x4030] = (some locs, s')
        ∧ (∀ l a, some (l, a) ∈ locs → ∃ n k, l = .home n k)))
    ∧ (4 ≤ 4 ∧ (2 ^ 48 - 16) % 2 ^ 4 = 0 ∧ (2 ^ 48 - 16) + 2 ^ 4 ≤ 2 ^ 48) :=
  ⟨⟨_, .inl ⟨_, _, _, _, _, _, rfl, by decide +kernel, rfl⟩, by decide +kernel, rfl, by decide +kernel,
      ⟨_, _, (widePage_on thread rfl).locateAll true rfl [some 0x4030] (by simp), all_home⟩⟩, by decide⟩


/-- A jump table of one entry that leads to 0x40, where a PAD with its label 0x5A17 stands; and the same with another label. -/
def jumps (label : Nat) : State :=
  let s := stand thread
  let m := Memory.setBytes s.mem (imemKey 1 0 0x18) (bytesOfNat 4 0x60)
  let m := Memory.setBytes m (imemKey 1 0 0x64) (bytesOfNat 4 0x70)
  let m := Memory.setBytes m (imemKey 1 0 0x70) (bytesOfNat 4 (label + 2 ^ 16) ++ bytesOfNat 4 0x40)
  { s with mem := Memory.setBytes m (imemKey 1 0 0x44) (bytesOfNat 4 0x71685C04) }

/-- IndirectTransfers: no table; a table with one entry, taken by index 0 and by one past its end, whose PAD agrees or not. -/
theorem witness_jumps : (stand thread).imemWord 1 0 ((stand thread).imemWord 1 0 0x18 + 4 * 63) = 0
    ∧ ((jumps 0x5A17).core 1).overlay? 0 0 = some (0, ⟨0, 0, 0xA0, 0⟩) ∧ (jumps 0x5A17).imemWord 1 0 ((jumps 0x5A17).imemWord 1 0 0x18 + 4) = 0x70
    ∧ (jumps 0x5A17).imemWord 1 0 0x70 / 2 ^ 16 % 2 ^ 12 = 1 ∧ (jumps 0x5A17).imemWord 1 0 0x74 = 0x40
    ∧ (jumps 0x5A17).headerAt 1 0 0x40 = true
    ∧ (jumps 0x5A17).imemWord 1 0 0x44 = (jumps 0x5A17).imemWord 1 0 0x70 % 2 ^ 16 * 2 ^ 10 + 0x01 * 4 + 7 * 2 ^ 28
    ∧ (jumps 0x5A16).imemWord 1 0 0x44 ≠ (jumps 0x5A16).imemWord 1 0 0x70 % 2 ^ 16 * 2 ^ 10 + 0x01 * 4 + 7 * 2 ^ 28 := by decide +kernel

/-- A wave whose fragment has seam 3 in a given state. -/
def seamed (mask arr : DWord) (opened : Bool) : State :=
  onCore (stand thread) fun k => { k with waves := k.waves.modify 0 fun v =>
    { v with frags := [(0, { seams := (Vector.replicate 16 {}).set 3 { mask, arr, opened } })] } }

/-- SeamCompletes: a closed seam, one whose members have not all come, and one whose members have. -/
theorem witness_seams : ∃ u v w, (seamed 1 0 false).wave? 1 0 = some u ∧ ((u.frag 0).seams.toList.getD 3 {}).opened = false
    ∧ (seamed 3 1 true).wave? 1 0 = some v ∧ ((v.frag 0).seams.toList.getD 3 {}).mask ≠ 0
    ∧ ((v.frag 0).seams.toList.getD 3 {}).arr ≠ ((v.frag 0).seams.toList.getD 3 {}).mask
    ∧ (seamed 1 1 true).wave? 1 0 = some w ∧ ((w.frag 0).seams.toList.getD 3 {}).opened = true ∧ ((w.frag 0).seams.toList.getD 3 {}).arr ≠ 0
    ∧ ((w.frag 0).seams.toList.getD 3 {}).arr = ((w.frag 0).seams.toList.getD 3 {}).mask :=
  ⟨_, _, _, rfl, by decide, rfl, by decide, by decide, rfl, by decide, by decide, by decide⟩

/-- ExitEndsThread, TrapsAndReturns: clear flags and one that is not; a thread's place and a bobbin's. -/
theorem witness_exit : thread.doneClear = true ∧ (thread.setDone 0 1).doneClear = false ∧ (stand (thread.setDone 0 1)).oneLane ref (thread.setDone 0 1)
    ∧ (standB bobbin).oneLane refB bobbin ∧ bobbin.doneClear = true :=
  ⟨by decide, by decide, stand_one _ rfl rfl, ⟨rfl, rfl, 0, rfl, rfl⟩, by decide⟩

/-- A slot whose shuttle holds n entries. -/
def shuttle (n : Nat) : State := onCore (standB bobbin) fun k => { k with slots := k.slots.modify 0 fun q => { q with count := n } }

/-- ShuttleIsAQueue: an empty, a full and another shuttle; a lane outside an attempt and in one. -/
theorem witness_shuttle : ∃ e f q, (shuttle 0).slotFor? refB = some e ∧ e.count = 0 ∧ (shuttle 64).slotFor? refB = some f ∧ f.count = 64
    ∧ (shuttle 63).slotFor? refB = some q ∧ q.count ≠ 64 ∧ q.count ≠ 0 ∧ bobbin.tx.depth = 0 ∧ (withTx 7).tx.depth ≠ 0
    ∧ (stand (withTx 7)).oneLane ref (withTx 7) :=
  ⟨_, _, _, rfl, by decide, rfl, by decide, rfl, by decide, by decide, rfl, by decide, stand_one _ rfl rfl⟩

/-- A core with n tasks in its spawn queue. -/
def aTask : Task := { needle := ⟨9, 0x40, 0x40, 0, 0, 0, true, 0xF, [], 0, 0, [], 0, 0, [], {}, [], false, false, true, 0, none⟩, issuer := ref, home := 1, ctx := 0, slack := 0, va := 0, waits := 0 }

/-- SpawnPhaseFence: a good target with a suppressed element, a near element, an element at home, and a full queue; a launch with one
level that is a phase level and one that is none. -/
theorem witness_spawn : (near thread).target 1 ((near thread).ctxOf ref) (mkPc (ovlOf thread.pc) 0x40) = .ok
    ∧ (near thread).spot ref ((near thread).boltOf ref thread 3) 16 .move = .suppressed
    ∧ (near thread).spot ref ((near thread).boltOf ref thread 3) 15 .move = .at 0x43C ∧ ((near thread).boltOf ref thread 3).space ≠ 0
    ∧ ((near thread).core 1).spawnQ.length < 256
    ∧ (page thread false 1).spot ref ((page thread false 1).boltOf ref thread 6) 15 .move = .at 0x403C
    ∧ (∃ leaf, (page thread false 1).walk ref thread 0x403C false = (some leaf, page thread false 1))
    ∧ 256 ≤ ((onCore (near thread) fun k => { k with spawnQ := List.replicate 256 aTask }).core 1).spawnQ.length := by
  refine ⟨?_, ?_, ?_, ?_, ?_, ?_, ⟨_, page_walk _ _ _ _ _ (by omega) rfl⟩, ?_⟩
  iterate 6 · decide +kernel
  rw [onCore, State.core_modCore_self]
  exact Nat.le_of_eq (List.length_replicate).symm

/-- A launch of two levels in groups of 8, in a phase that has reached its epoch 5, with a held store of party 0. -/
def phased (epoch : Word) (held : List Baste) : State :=
  { onCore (stand thread) fun k => { k with buffer := held } with
    launches := [(0, { placedLaunch with ctl := 0x3E, levels := [2, 8] })], phases := [{ key := 0, level := 0, group := 0, live := 1, epoch }] }

def aHeld : Baste := ⟨0x4000, 2, true, 0, 0, 0, 1, 0, 0, false⟩

theorem witness_phases : ∃ l, (phased 5 []).launch? thread.launch = some l ∧ 1 ∉ l.phaseLevels ∧ 0 ∈ l.phaseLevels
    ∧ (∃ p, (phased 5 []).phase? 0 0 (l.groupAt thread.ordinal.toNat 0) = some p ∧ p.epoch.toNat ≠ 0)
    ∧ (∃ p, (phased 0 []).phase? 0 0 (l.groupAt thread.ordinal.toNat 0) = some p ∧ p.epoch.toNat = low thread (.reg 63))
    ∧ (phased 5 []).heldEntry 0 ((phased 5 []).partyOf thread) 1 = none
    ∧ (phased 5 [aHeld]).heldEntry 0 ((phased 5 [aHeld]).partyOf thread) 1 = some aHeld ∧ thread.phaseTrap ≠ some thread.pc
    ∧ ({ thread with phaseTrap := some 0x44 } : Hart).phaseTrap = some thread.pc :=
  ⟨_, rfl, by decide +kernel, by decide +kernel, ⟨_, rfl, by decide +kernel⟩, ⟨_, rfl, by decide +kernel⟩, by decide +kernel, by decide +kernel,
    by decide, by decide⟩

/-- Thread and state of the migration witnesses: an element at home, and a thread that has arrived. -/
theorem witness_migration : (withTx 7).tx.depth ≠ 0 ∧ thread.tx.depth = 0
    ∧ (near thread).spot ref ((near thread).boltOf ref thread 3) 16 .move = .suppressed
    ∧ (near thread).spot ref ((near thread).boltOf ref thread 3) 15 .move = .at 0x43C ∧ ((near thread).boltOf ref thread 3).space ≠ 0
    ∧ (page { thread with arrived := true } false 3).spot ref ((page thread false 3).boltOf ref thread 6) 0 .move = .at 0x4000
    ∧ (page thread false 3).oneLane ref thread ∧ ((page thread false 3).boltOf ref thread 6).space = 0 ∧ thread.arrived = false
    ∧ (page thread false 3).spot ref ((page thread false 3).boltOf ref thread 6) 15 .move = .at 0x403C
    ∧ (∃ leaf s', (page thread false 3).walk ref thread 0x403C false = (some leaf, s'))
    ∧ ((near thread).boltOf ref thread 3).malformed = false ∧ ((near thread).boltOf ref thread 3).extent ≤ 16
    ∧ ((near thread).boltOf ref thread 3).btrap = false ∧ 15 < ((near thread).boltOf ref thread 3).extent
    ∧ Need.load.ok ((near thread).boltOf ref thread 3).access = true :=
  ⟨by decide, rfl, by decide +kernel, by decide +kernel, by decide +kernel, by decide +kernel, page_one _ _ _ rfl rfl, by decide +kernel, rfl,
    by decide +kernel, ⟨_, _, page_walk _ _ _ _ _ (by omega) rfl⟩, by decide +kernel, by decide +kernel, by decide +kernel, by decide +kernel,
    by decide +kernel⟩

theorem pair_some {α β : Type} {x : Option α × β} {a : α} (h : x.1 = some a) : ∃ y, x = (some a, y) := ⟨x.2, by rw [← h]⟩

/-- AtomicsPerform: a near element under .core, a wrong scope, a wrong width, a global element under .system. -/
theorem witness_atomics : atomForm g0 (.atom g0 .max 5 3 (.lit 15) (.reg 62) none false 0 .core) ⟨.op .max, .n32, 5, false, 3, 0, false, .core⟩ (.lit 15) (.reg 62) (.reg 62)
    ∧ (Instr.atom g0 .max 5 3 (.lit 15) (.reg 62) none false 0 .core).wf = true
    ∧ atomForm g0 (.acas g0 5 6 (.lit 15) (.reg 0) (.reg 1) none false 0 .system) ⟨.cas, .n32, 5, false, 6, 0, false, .system⟩ (.lit 15) (.reg 0) (.reg 1)
    ∧ (Instr.acas g0 5 6 (.lit 15) (.reg 0) (.reg 1) none false 0 .system).wf = true
    ∧ scopeServes .core 3 = true ∧ scopeServes .device 3 = false ∧ ((near thread).boltOf ref thread 3).space = 3
    ∧ ((near thread).boltOf ref thread 3).width = Fmt.n32.bits / 8 ∧ ((near thread).boltOf ref thread 4).width ≠ Fmt.n32.bits / 8
    ∧ (near thread).spot ref ((near thread).boltOf ref thread 3) (low thread (.lit 15)) .update = .at 0x43C
    ∧ (near thread).scored (ref.key ((near thread).ctxOf ref) 3 0x43C) = false
    ∧ scopeServes .system 0 = true ∧ ((page thread false 3).boltOf ref thread 6).space = 0
    ∧ ((page thread false 3).boltOf ref thread 6).width = Fmt.n32.bits / 8
    ∧ (page thread false 3).spot ref ((page thread false 3).boltOf ref thread 6) (low thread (.lit 15)) .update = .at 0x403C
    ∧ (∃ leaf s', (page thread false 3).walk ref thread 0x403C true = (some leaf, s'))
    ∧ (near thread).sampleTag g0 = (none, near thread) ∧ thread.takes g0 = true := by
  and_intros
  all_goals try decide +kernel
  · exact .inl ⟨_, _, _, rfl, rfl, rfl, rfl, rfl, rfl⟩
  · exact .inr (.inl ⟨_, _, rfl, rfl, rfl, rfl, rfl⟩)
  · exact ⟨_, _, page_walk _ _ _ _ _ (by omega) rfl⟩

/-- An attempt with one near byte written and one line read. -/
def aLine : Line := ⟨coreKey 1 0 0x400 / 64, 0x10, 3, 0⟩
def tried (alts : List TxAlt) (reads : List Line) : Hart :=
  { thread with tx := { depth := 1, target := 0x40, alts, reads, writes := [{ line := aLine, key := coreKey 1 0 0x400, byte := 7 }] } }

/-- An attempt in which n alternatives have been registered. -/
def withElses (n : Nat) : Hart := { thread with tx := { depth := 1, elses := n } }

set_option maxRecDepth 20000 in
/-- Transactions, AbortsRollBack: what stands against a commit and what does not, with and without alternatives and reads. -/
theorem witness_transactions : ({ thread with tstate := { trapped := true } } : Hart).tstate.trapped = true
    ∧ (stand thread).target 1 ((stand thread).ctxOf ref) (mkPc (ovlOf thread.pc) 0x40) = .ok ∧ thread.tx.depth = 0 ∧ 1 < (withTx 2).tx.depth
    ∧ (stand (withTx 1)).commitCheck ref (withTx 1).tx = .ok
    ∧ (stand (tried [] [])).commitCheck ref (tried [] []).tx = .ok
    ∧ ({ stand (tried [] []) with ranges := [⟨9, some 1, 0, 0, aLine.phys, aLine.phys, true, 0⟩] } : State).commitCheck ref (tried [] []).tx = .held .scoreboard
    ∧ (∃ stop, (stand thread).commitCheck ref { depth := 1, writes := [{ line := ⟨0, 0, 0, 0⟩, key := 0, byte := 7 }] } = .stop stop)
    ∧ (tried [⟨0x40, 0, 1⟩] []).tx.alts.getLast? = some ⟨0x40, 0, 1⟩ ∧ (tried [] [aLine]).tx.reads ≠ []
    ∧ (withElses 6).tx.elses < 7 ∧ 7 ≤ (withElses 7).tx.elses
    ∧ (stand (tried [] [])).hart? ref = some (tried [] []) ∧ (stand (tried [] [])).oneLane ref (tried [] []) :=
  ⟨rfl, by decide +kernel, rfl, by decide, by decide +kernel, by decide +kernel, by decide +kernel, ⟨_, rfl⟩, by decide +kernel, by decide +kernel,
    by decide +kernel, by decide +kernel, by decide +kernel, stand_one _ rfl rfl⟩

/-- BarrierObjects: the first arrival, the last one, one too many, byte counts at both ends. -/
theorem witness_barriers : ∃ a b c d : Barrier,
    (a.latched = false ∧ 0 < 2 ∧ 2 ≠ a.arrived + 1 ∧ a.arrived + 1 < 2 ^ 16 ∧ 1 = a.arrived + 1 ∧ a.pendb = 0)
    ∧ (b.latched = true ∧ 2 = b.expect ∧ b.arrived + 1 = b.expect ∧ 3 ≠ b.expect) ∧ (c.latched = true ∧ c.arrived = c.expect ∧ c.pendb + -5 = 0)
    ∧ (d.latched = true ∧ 3 = d.expect ∧ d.arrived + 1 < d.expect) ∧ c.pendb + (2 ^ 23 - 6) < 2 ^ 23 ∧ 2 ^ 23 ≤ c.pendb + (2 ^ 23 - 5)
    ∧ c.pendb + (-2 ^ 23 - 6) < -2 ^ 23 ∧ (c.expect < 2 ^ 16 ∧ c.arrived < 2 ^ 16 ∧ c.gen < 2 ^ 16 ∧ -2 ^ 23 ≤ c.pendb ∧ c.pendb < 2 ^ 23) :=
  ⟨⟨0, 0, 0, 0, false⟩, ⟨2, 1, 0xFFFF, 0, true⟩, ⟨2, 2, 0xFFFF, 5, true⟩, ⟨3, 1, 0, 0, true⟩, by decide⟩

/-- Bolt 7: two barrier objects of core scratchpad, the first latched for one arrival in generation 4. -/
def barriers (h : Hart) : State :=
  let s := onCore (near h) fun k => { k with slots := k.slots.modify 0 fun q => { q with bolts := q.bolts.set 7 (bolt 0x400 3 4 3 16 2) } }
  { s with mem := Memory.setBytes s.mem (coreKey 1 0 0x400) (bytesOfNat 16 (1 + 2 ^ 32 * 4 + 2 ^ 72)) }

set_option maxRecDepth 20000 in
/-- BarrierInstructions: an object for each need, and a mark that has counted and one that has not. -/
theorem witness_objects : (barriers thread).oneLane ref thread ∧ thread.tx.depth = 0 ∧ (withTx 1).tx.depth ≠ 0
    ∧ (∃ x s', (barriers thread).object ref thread 7 (.lit 1) .update (fun s => s.goOn ref) = (some x, s'))
    ∧ (∃ x s', (barriers thread).object ref thread 7 (.lit 0) .move (fun s => s.goOn ref) = (some x, s'))
    ∧ (∃ x s', (barriers thread).object ref thread 7 (.lit 0) .update (fun s => (s.modHart ref fun h => h.setReg 5 0).goOn ref) = (some x, s')
        ∧ (s'.markOf ref thread).valid = false)
    ∧ (∃ m : Mark, m.valid = true ∧ m.addr.toNat = 0x400 ∧ m.space.toNat = 3 ∧ m.gen.toNat = 4)
    ∧ (barriers thread).object ref thread 3 (.lit 0) .update (fun s => s.goOn ref) = (none, (barriers thread).raiseCause ref .illegalModifier) :=
  ⟨⟨rfl, rfl, 0, rfl, rfl⟩, rfl, by decide, ⟨(_, _, _, _), _, rfl⟩, ⟨(_, _, _, _), _, rfl⟩, ⟨(_, _, _, _), _, rfl, rfl⟩,
    ⟨⟨0x400, 3, true, 4⟩, by decide⟩, rfl⟩

/-- Hoop 3 of the core's scratchpad: entries of 32 bytes at 0x800, 4 of them. -/
def aHoop (head tail claim : BitVec 16) (allow engref : Nat) : Hoop := ⟨0x800, 5, 2, true, head, tail, claim, allow, engref⟩
def hooped (q : Hoop) (ranges : List Range) : State :=
  { near thread with mem := Memory.setBytes (near thread).mem (hoopKey 1 0 3) (bytesOfNat 16 q.toNat), ranges }

/-- The range of the command that has entry k of that hoop as its destination. -/
def entryRange (k : Nat) : Range := ⟨9, some 1, 0, 0, coreKey 1 0 (0x800 + 32 * k) / 64, coreKey 1 0 (0x800 + 32 * k) / 64, true, 0⟩

set_option maxRecDepth 20000 in
/-- Hoops: room or none, entries or none, an entry that a command is filling, references of engines, definitions good and bad. -/
theorem witness_hoops : (hooped (aHoop 0 0 0 4 0) []).oneLane ref thread ∧ mayHoop (hooped (aHoop 0 0 0 4 0) []) ref thread 3 (thread.runBytes 3)
    ∧ ((hooped (aHoop 0 0 0 0 0) []).hoop 1 0 3).allow = 0
    ∧ (∃ q, q = (hooped (aHoop 0xFFFF 0xFFFF 0xFFFF 4 0) []).hoop 1 0 3 ∧ q.allow ≠ 0
      ∧ (hooped (aHoop 0xFFFF 0xFFFF 0xFFFF 4 0) []).scoredRun 1 0 (q.entry q.claim) q.ent = false ∧ q.entry q.claim + q.ent ≤ 2 ^ 21
      ∧ 0x200 ≤ q.entry q.claim ∧ q.ready = 0 ∧ q.engref = 0 ∧ q.claim = q.tail
      ∧ (hooped (aHoop 0xFFFF 0xFFFF 0xFFFF 4 0) [entryRange 3]).scoredRun 1 0 (q.entry q.claim) q.ent = true)
    ∧ (∀ e ∈ ((hooped (aHoop 0 0 0 4 0) []).core 1).claims, ¬(e.1 = 0 ∧ e.2.1.hoop = 3))
    ∧ (∃ q, q = (hooped (aHoop 3 4 4 2 1) []).hoop 1 0 3 ∧ q.ready = 1 ∧ q.held = 1 ∧ q.held < 2 ∧ q.engref ≠ 0 ∧ 0 < q.ready
      ∧ (hooped (aHoop 3 4 4 2 1) []).scoredRun 1 0 (q.entry q.head) (thread.runBytes 3) = false
      ∧ (hooped (aHoop 3 4 4 2 1) [entryRange 3]).scoredRun 1 0 (q.entry q.head) (thread.runBytes 3) = true)
    ∧ ((hooped (aHoop 0 0 1 3 0) []).hoop 1 0 3).claim ≠ ((hooped (aHoop 0 0 1 3 0) []).hoop 1 0 3).tail
    ∧ (∃ new, new = Hoop.ofNat (0x200 + 4 * 2 ^ 21 + 2 ^ 29) ∧ new.valid = true ∧ ¬(new.esz < 4 ∨ 12 < new.esz ∨ 12 < new.capl
        ∨ new.base % new.ent ≠ 0 ∨ new.base < 0x200 ∨ (near thread).cspb 1 0 < new.base + new.cap * new.ent))
    ∧ (∃ new, new = Hoop.ofNat (0xFF0 + 4 * 2 ^ 21 + 1 * 2 ^ 25 + 2 ^ 29) ∧ new.valid = true ∧ (near thread).cspb 1 0 < new.base + new.cap * new.ent)
    ∧ (near thread).cspb 1 0 ≠ 0 :=
  ⟨⟨rfl, rfl, 0, rfl, rfl⟩, by unfold mayHoop; decide +kernel, by decide +kernel, ⟨_, rfl, by decide +kernel⟩, by decide +kernel, ⟨_, rfl, by decide +kernel⟩,
    by decide +kernel, ⟨_, rfl, by decide +kernel⟩, ⟨_, rfl, by decide +kernel⟩, by decide +kernel⟩

/-- The placed thread at its stop, with an empty safe-point table. -/
def noEntry (h : Hart) : State :=
  { stand h with mem := Memory.set (stand h).mem (imemKey 1 0 0x14) 0 }

/-- ExceptionEntry: a settled lane and one that is not, in a handler and outside, in an attempt, at a stop with no entry. -/
theorem witness_exception : (stand thread).hart? ref = some thread ∧ (∃ q, (stand thread).slotFor? ref = some q)
    ∧ (⟨.bounds, some 0x400, false, 3, none, none, 0, 0, 0, false⟩ : Stop).served = false
    ∧ (⟨.bounds, some 0x400, false, 3, none, none, 0, 0, 0, false⟩ : Stop).cause.route = .handler
    ∧ (stand thread).safePoint 1 ((stand thread).ctxOf ref) thread.pc thread.clause thread.pos ≠ (true, none) ∧ thread.settled = true
    ∧ thread.tstate.trapped = false ∧ (thread.setDone 11 1).settled = false ∧ ({ thread with tstate := { trapped := true } } : Hart).settled = true
    ∧ (withTx 1).tx.depth ≠ 0 ∧ thread.tx.depth = 0
    ∧ (noEntry thread).safePoint 1 ((noEntry thread).ctxOf ref) thread.pc thread.clause thread.pos = (true, none) :=
  ⟨rfl, ⟨_, rfl⟩, by decide, by decide, by decide +kernel, by decide, rfl, by decide, by decide, by decide, rfl, by decide +kernel⟩

abbrev user : Hart := { thread with tstate := {} }

/-- SystemRegisters: a number that is not there, an index that is not legal, a register of system privilege at user privilege, and
accesses of either privilege at the ends of their indices. -/
theorem witness_system : (stand thread).oneLane ref thread ∧ (stand user).oneLane ref user ∧ (sysReg? false 0x0D).isNone = true
    ∧ (∃ q, sysReg? false 0x0C = some q ∧ q.legal 4 = false ∧ q.legal 3 = true ∧ q.user = false ∧ user.tstate.priv = false ∧ thread.tstate.priv = true)
    ∧ (∃ q, sysReg? false 0x01 = some q ∧ q.user = true ∧ q.legal (thread.src (.reg 62)).toNat = true)
    ∧ (∃ q, sysReg? true 0x60 = some q ∧ q.user = true ∧ q.legal 0 = true) ∧ (sysReg? true 0x20).isNone = true ∧ (sysReg? false 0x20).isSome = true :=
  ⟨stand_one _ rfl rfl, stand_one _ rfl rfl, rfl, ⟨_, rfl, by decide, by decide, rfl, rfl, rfl⟩, ⟨_, rfl, rfl, by decide⟩, ⟨_, rfl, rfl, by decide⟩, rfl, rfl⟩

/-- A thread in the handler, which TRET leaves for position p of the clause at 0x40. -/
def handler (p : Nat) : Hart := { thread with
  tstate := { thread.tstate with trapped := true }, trap := { eres := 0x40, ecause := BitVec.ofNat 32 (p * 2 ^ 8) } }

/-- TrapsAndReturns: user and system privilege, in a handler and outside, a return to a position, to the end of the clause, behind it. -/
theorem witness_returns : user.tstate.priv = false ∧ thread.tstate.priv = true ∧ thread.tstate.trapped = false ∧ (handler 0).tstate.trapped = true
    ∧ (handler 0).tstate.rst = false ∧ (stand (handler 0)).target 1 ((stand (handler 0)).ctxOf ref) (handler 0).trap.eres = .ok
    ∧ (∃ n c, (stand (handler 1)).clauseOf 1 ((stand (handler 1)).ctxOf ref) { handler 1 with clause := (handler 1).trap.eres } = some (n, c) ∧ c.bad = false
      ∧ c.count < field (handler 2).trap.ecause 8 3 ∧ field (handler 0).trap.ecause 8 3 < c.count ∧ field (handler 1).trap.ecause 8 3 = c.count)
    ∧ (thread.setDone 3 1).doneClear = false ∧ thread.doneClear = true ∧ ({ thread with tstate := { svh := true } } : Hart).tstate.svh = true
    ∧ (stand (handler 2)).oneLane ref (handler 2) ∧ (standB bobbin).oneLane refB bobbin :=
  ⟨rfl, rfl, rfl, rfl, rfl, by decide +kernel, ⟨_, _, rfl, by decide +kernel, by decide +kernel, by decide +kernel, by decide +kernel⟩, by decide, by decide, rfl,
    stand_one _ rfl rfl, ⟨rfl, rfl, 0, rfl, rfl⟩⟩

theorem OnPage.record {t : State} {h : Hart} {ro : Bool} {va n : Nat} {write : Bool} (p : OnPage t h ro 1) (hv : va < 2 ^ 21) (hw : (write && ro) = false) :
    t.recordAt ref h va n write = (some (0x180000000 + va, ⟨3, ro, 1⟩), t) := by
  have hat : t.atHome ref h ⟨3, ro, 1⟩ va n write = (some (0x180000000 + va), t) := by
    unfold State.atHome
    simp [p.ctx, p.free write, p.first, p.map.check (show va < 2 ^ 30 by omega) (.inl rfl) hw]
  unfold State.recordAt
  simp [p.walk write hv, hat]

/-- An overlay table at 0x1000 whose one image, at 0x1100, has one jump table of one entry. -/
def tableData : List Byte :=
  bytesOfNat 16 1 ++ bytesOfNat 16 (0x100 * 2 ^ 32 + 0x1100 * 2 ^ 64) ++ List.replicate 0xE0 0
    ++ (bytesOfNat 0x18 0 ++ bytesOfNat 8 0x20 ++ bytesOfNat 8 0x28 ++ bytesOfNat 8 (2 ^ 16))

def deskBase : State :=
  { onCore (near thread) fun k => { k with l1 := [⟨0, 0, 0, 3, false, 1⟩] } with launches := [(0, { placedLaunch with ctl := 0x1F, ovt := 0x1000 })] }

def desk : State := withData deskBase 0x1000 tableData

theorem desk_mapped : Mapped desk false 1 := data_mapped deskBase _ _ rfl rfl rfl (by decide) (by decide +kernel)

theorem desk_on : OnPage desk thread false 1 := ⟨desk_mapped, rfl, rfl, rfl, rfl, rfl, rfl⟩

theorem desk_record (va n : Nat) (write : Bool) (hv : va < 2 ^ 21) : desk.recordAt ref thread va n write = (some (0x180000000 + va, ⟨3, false, 1⟩), desk) :=
  desk_on.record hv (by simp)

theorem desk_read (a n : Nat) (ha : a + n ≤ tableData.length) : desk.readVa 0 (0x1000 + a) n = .ok ((tableData.drop a).take n) :=
  data_read deskBase _ _ _ _ rfl rfl rfl (by decide) (by decide +kernel) ha

theorem desk_table : desk.jumpTable 0 0x1000 0 0 = .ok (some (0x1100, 0x28, 1)) := by
  have r0 := desk_read 0 4 (by decide +kernel)
  have r1 := desk_read 16 16 (by decide +kernel)
  have r2 := desk_read 0x118 4 (by decide +kernel)
  have r3 := desk_read 0x120 4 (by decide +kernel)
  have r4 := desk_read 0x128 4 (by decide +kernel)
  rw [show (tableData.drop 0).take 4 = bytesOfNat 4 1 by decide +kernel] at r0
  rw [show (tableData.drop 16).take 16 = bytesOfNat 16 (0x100 * 2 ^ 32 + 0x1100 * 2 ^ 64) by decide +kernel] at r1
  rw [show (tableData.drop 0x118).take 4 = bytesOfNat 4 0x20 by decide +kernel] at r2
  rw [show (tableData.drop 0x120).take 4 = bytesOfNat 4 0x28 by decide +kernel] at r3
  rw [show (tableData.drop 0x128).take 4 = bytesOfNat 4 (2 ^ 16) by decide +kernel] at r4
  simp only [Nat.reduceAdd, Nat.add_zero] at r0 r1 r2 r3 r4
  have he : desk.overlayEntry 0 0x1000 0 = .ok (some (0x100, 0x1100)) := by
    unfold State.overlayEntry
    simp only [r0, show Nat.min (natOfBytes (bytesOfNat 4 1)) 4096 = 1 by decide +kernel, show List.range 1 = [0] from rfl, List.foldl_cons, List.foldl_nil, Nat.mul_zero,
      Nat.reduceAdd, r1]
    rw [if_pos (by decide +kernel)]
    congr 3
  have ht : desk.imageTable 0 0x1100 0 = .ok (some (0x28, 1)) := by
    unfold State.imageTable State.imageNat
    simp only [Nat.reduceAdd, r2, Except.map, bind, Except.bind, show natOfBytes (bytesOfNat 4 0x20) = 0x20 by decide +kernel, Nat.mul_zero, r3,
      show natOfBytes (bytesOfNat 4 0x28) = 0x28 by decide +kernel, r4, show natOfBytes (bytesOfNat 4 (2 ^ 16)) = 2 ^ 16 by decide +kernel]
    rfl
  unfold State.jumpTable
  rw [he]
  simp only [bind, Except.bind, ht]
  rfl

theorem event_eq (s : State) (core ctx code n : Nat) (b : Bool) : s.event core ctx code n b = { s with cores := (s.event core ctx code n b).cores } := by
  unfold State.event
  split <;> rfl

theorem charge_eq (s : State) (core ctx : Nat) (l : Word) (cls n : Nat) : s.charge core ctx l cls n = { s with cores := (s.charge core ctx l cls n).cores } := by
  unfold State.charge
  split <;> rfl

theorem nearCost_eq (s : State) (r : Ref) (h : Hart) (space : Nat) : s.nearCost r h space = { s with cores := (s.nearCost r h space).cores } := by
  unfold State.nearCost
  rw [charge_eq, event_eq]

theorem Mapped.cores {t : State} {ro : Bool} {home : Nat} (h : Mapped t ro home) (c : KMap Core) : Mapped { t with cores := c } ro home :=
  ⟨h.map, h.dir, h.tab, h.mov, h.clean, h.chip⟩

theorem desk_image : ∃ bs s', desk.image ref thread 3 (.lit 0) 64 = (some bs, s') ∧ bs.length = 64
        ∧ s'.recordAt ref thread (s'.ptab 0 + 64 * (1023 : BitVec 10).toNat) bs.length true = (some (0x180000000 + 64 * 1023, ⟨3, false, 1⟩), s') := by
  have h1 : desk.spotN ref (desk.boltOf ref thread 3) (thread.index32 (.lit 0)) 64 .load = .at 0x400 := by decide +kernel
  have h2 : (desk.boltOf ref thread 3).space = 3 := by decide +kernel
  have h3 : desk.scored (ref.key (desk.ctxOf ref) 3 0x400) = false := by decide +kernel
  have h4 : desk.poisoned (ref.key (desk.ctxOf ref) 3 0x400) 64 = false := by unfold State.poisoned; rw [desk_mapped.clean]; simp
  have hi : desk.image ref thread 3 (.lit 0) 64 = (some (Memory.getBytes desk.mem (ref.key (desk.ctxOf ref) 3 0x400) 64), desk.nearCost ref thread 3) := by
    unfold State.image
    simp only [h1, h2, h3, h4]
    simp
  refine ⟨_, _, hi, by simp [Memory.getBytes], ?_⟩
  have hb : (Memory.getBytes desk.mem (ref.key (desk.ctxOf ref) 3 0x400) 64).length = 64 := by simp [Memory.getBytes]
  rw [hb]
  have hm : Mapped (desk.nearCost ref thread 3) false 1 := by rw [nearCost_eq]; exact desk_mapped.cores _
  have hr : (desk.nearCost ref thread 3).ranges = [] := by rw [nearCost_eq]; rfl
  have hp : (desk.nearCost ref thread 3).ptab 0 = 0 := by rw [nearCost_eq]; rfl
  rw [hp]
  exact (⟨hm, by decide +kernel, by decide +kernel, by decide +kernel, hr, rfl, by decide +kernel⟩ : OnPage _ thread false 1).record (by decide +kernel) (by simp)

/-- DescriptorTables: a record from a near image, records malformed and not, families in and out of range, a jump table, a word of a record. -/
theorem witness_tables : desk.oneLane ref thread ∧ thread.takes g0 = true ∧ thread.tx.depth = 0 ∧ (withTx 1).tx.depth ≠ 0 ∧ desk.coresOf (desk.ctxOf ref) ≠ []
    ∧ (∃ bs s', desk.image ref thread 3 (.lit 0) 64 = (some bs, s') ∧ bs.length = 64
        ∧ s'.recordAt ref thread (s'.ptab 0 + 64 * (1023 : BitVec 10).toNat) bs.length true = (some (0x180000000 + 64 * 1023, ⟨3, false, 1⟩), s'))
    ∧ inHoops (0x180000000 + 64 * 1023) = false
    ∧ (Bolt.ofBits (bolt 0x400 3 2 3 4 16)).malformed = false ∧ (Bolt.ofBits (bolt 0x400 3 5 3 4 16)).malformed = true
    ∧ (∃ dpa leaf, desk.recordAt ref thread (desk.btab 0 + 16 * (1023 : BitVec 10).toNat) 16 true = (some (dpa, leaf), desk) ∧ inHoops dpa = false)
    ∧ Family.ofBits 0 = none ∧ (∃ f, Family.ofBits (4096 * 2 ^ 8 + 1) = some f) ∧ Family.ofBits (4097 * 2 ^ 8) = none
    ∧ desk.jumpTable (desk.ctxOf ref) (desk.ovtOf ref thread).toNat 0 (0 : BitVec 6).toNat = .ok (some (0x1100, 0x28, 1)) ∧ (thread.src (.lit 0)).toNat < 1
    ∧ (∃ dpa leaf, desk.recordAt ref thread (0x1100 + (0x28 + 4 + 4 * 0)) 4 true = (some (dpa, leaf), desk) ∧ inHoops dpa = false)
    ∧ (desk.cores.filter fun e => (e.2.overlay? 0 0).isSome).map Prod.fst ≠ []
    ∧ (∃ dpa leaf, desk.recordAt ref thread (desk.ptab 0 + 64 * 1023 + 15 * 4) 4 false = (some (dpa, leaf), desk)) := by
  have hovt : (desk.ovtOf ref thread).toNat = 0x1000 := by decide +kernel
  refine ⟨⟨rfl, rfl, 0, rfl, rfl⟩, rfl, rfl, by decide, by decide +kernel,
    desk_image,
    by decide +kernel, by decide +kernel, by decide +kernel, ⟨_, _, desk_record _ _ _ (by decide +kernel), by decide +kernel⟩,
    by decide +kernel, ⟨_, rfl⟩, by decide +kernel, by rw [hovt]; exact desk_table, by decide, ⟨_, _, desk_record _ _ _ (by decide +kernel), by decide +kernel⟩,
    by decide +kernel, ⟨_, _, desk_record _ _ _ (by decide +kernel)⟩⟩

/-- A pattern record: format, space, base, n elements in a row (R474). -/
def pattern (fmt space base n stride : Nat) : BitVec 512 :=
  BitVec.ofNat 512 (1 + fmt * 2 + space * 2 ^ 10 + base * 2 ^ 64 + 2 ^ 192 * (n + 2 ^ 32 * (1 + 2 ^ 32 * (1 + 2 ^ 32 * (1 + 2 ^ 32 * stride)))))

/-- The template of TZERO t1 (R411). -/
def tzeroTemplate : BitVec 128 := BitVec.ofNat 128 (0xCB + 2 ^ 33)

/-- A core with tiles and banks, patterns 0 and 1 of 16 words in its scratchpad and pattern 2 without a record, hoop 3, and the
commands, knot 15 and control words of its slot. -/
def engine (l : List Command) (knot : Knot) (words : KMap DWord) (h : Hart) : State :=
  { onCore (near h) fun k => { k with
      allocs := [(0, { cspb := 0x1000, tiles := 3, banks := 15 })]
      patterns := [(0, 0, pattern 4 3 0x400 16 4), (0, 1, pattern 4 3 0x600 16 4), (0, 2, 0)]
      slots := k.slots.modify 0 fun q => { q with commands := l, knots := q.knots.set 15 knot, bank := words } } with
    mem := Memory.setBytes (near h).mem (hoopKey 1 0 3) (bytesOfNat 16 (aHoop 0 0 0 4 0).toNat) }

def plain : State := engine [] {} [] thread

/-- A TZERO of tile t1 without a link. -/
def tzeroCommand (id : Nat) : Command := { id, engine := .stitch, work := .zeroTile 1, issuer := ref, ctx := 0 }

theorem plain_one (l : List Command) (knot : Knot) (words : KMap DWord) (h : Hart) (ht : h.tid = 2) (hr : h.status = .running) :
    (engine l knot words h).oneLane ref h := by
  obtain ⟨tid⟩ := h
  simp only at ht hr
  subst ht hr
  exact ⟨rfl, rfl, 0, rfl, rfl⟩

set_option maxRecDepth 20000 in
/-- EngineCommands: commands of both kinds, without a failing check and with one, a queue with room and a full one, a closed link. -/
theorem witness_engines : (∃ c, copyForm plain plain ref thread g0 (.cpy g0 false false 0 0 1 (.lit 0) (.lit 0) (.lit 0) 0 7)
        (plain.copyChecks 1 0 (.pat (pattern 4 3 0x400 16 4) 0) (.pat (pattern 4 3 0x600 16 4) 0)
          (copyMismatch (.pat (pattern 4 3 0x400 16 4) 0) (.pat (pattern 4 3 0x600 16 4) 0)) none) c ∧ c.engine.depth = 16)
    ∧ firstStop (plain.copyChecks 1 0 (.pat (pattern 4 3 0x400 16 4) 0) (.pat (pattern 4 3 0x600 16 4) 0)
          (copyMismatch (.pat (pattern 4 3 0x400 16 4) 0) (.pat (pattern 4 3 0x600 16 4) 0)) none) = none
    ∧ (∃ checks c stop, copyForm plain plain ref thread g0 (.cpy g0 false false 0 0 2 (.lit 0) (.lit 0) (.lit 0) 0 7) checks c
        ∧ firstStop checks = some stop)
    ∧ (∃ checks c, stitchForm plain plain ref thread g0 (.tzero g0 true false false 0 (.lit 0) 0) checks c ∧ firstStop checks = none
        ∧ (∃ q, plain.slotFor? ref = some q ∧ (q.queued c.engine).length < c.engine.depth)
        ∧ ∃ q, (engine ((List.range 8).map tzeroCommand) {} [] thread).slotFor? ref = some q ∧ c.engine.depth ≤ (q.queued c.engine).length)
    ∧ (withTx 1).tx.depth ≠ 0 ∧ thread.tx.depth = 0 ∧ plain.oneLane ref thread
    ∧ (∃ c : Src, (thread.link c).1 % 16 = 0 ∧ (thread.link c).1 + 16 ≤ plain.nearEnd 1 0 3 (thread.link c).1
        ∧ plain.scored (coreKey 1 0 (thread.link c).1) = false ∧ plain.poisoned (coreKey 1 0 (thread.link c).1) 16 = false
        ∧ (plain.barrierAt (coreKey 1 0 (thread.link c).1)).gen = (thread.link c).2) :=
  ⟨⟨_, .inl ⟨_, _, _, _, _, _, _, _, _, _, _, _, rfl, ⟨_, rfl, rfl⟩, rfl, rfl⟩, rfl⟩, by decide +kernel,
    ⟨_, _, _, .inl ⟨_, _, _, _, _, _, _, _, _, _, _, _, rfl, ⟨_, rfl, rfl⟩, rfl, rfl⟩, rfl⟩,
    ⟨_, _, .inr (.inr (.inr (.inl ⟨_, _, _, _, _, _, rfl, (fun h => nomatch h), rfl, rfl, rfl⟩))), by decide +kernel, ⟨_, rfl, by decide +kernel⟩,
      ⟨_, rfl, by decide +kernel⟩⟩,
    by decide, rfl, plain_one _ _ _ _ rfl rfl, ⟨.lit 0xFF0, by decide +kernel, by decide +kernel, by decide +kernel, by decide +kernel, by decide +kernel⟩⟩

/-- Knots: templates good and bad, a knot armed and not, a signature that is the last and one that is not. -/
theorem witness_knots : templateInstr false (thread.runRecord (.reg 0)) = none
    ∧ templateInstr false (({ thread with regs := .x ((Vector.replicate 64 0).set 0 0xCB |>.set 1 2) } : Hart).runRecord (.reg 0)) ≠ none
    ∧ (∃ q, plain.slotFor? ref = some q ∧ (q.knot 15).armed = false)
    ∧ (∃ q i, (engine [] { expect := 1, armed := true, template := tzeroTemplate } [] thread).slotFor? ref = some q ∧ (q.knot 15).armed = true
        ∧ (q.knot 15).signed + 1 = (q.knot 15).expect ∧ templateInstr thread.isBobbin (q.knot 15).template = some i
        ∧ (i.uses.any fun u => runBeyond u thread.isBobbin 64) = false ∧ thread.poison &&& readMask i thread.isBobbin = 0
        ∧ i = .tzero g0 true false false 0 (.reg 0) 0)
    ∧ (∃ q, (engine [] { expect := 2, armed := true } [] thread).slotFor? ref = some q ∧ (q.knot 15).signed + 1 ≠ (q.knot 15).expect) :=
  ⟨by decide +kernel, by decide +kernel, ⟨_, rfl, by decide +kernel⟩,
    ⟨_, _, rfl, by decide +kernel, by decide +kernel, rfl, by decide +kernel, by decide +kernel, rfl⟩, ⟨_, rfl, by decide +kernel⟩⟩

/-- CountersAndDebug: words that are there and not, at either privilege, and a debugger attached and not. -/
theorem witness_counters : ctrReadFault 0xBF true = none ∧ (ctrWord? 0x37).isNone = true ∧ ctrReadFault 0x42 false = some .privilege
    ∧ plain.ctrWriteFault 1 0 0x3F 0 true = none ∧ plain.ctrWriteFault 1 0 0x40 0 true = none ∧ plain.ctrWriteFault 1 0 0x0F 1 true = none
    ∧ (∃ q, plain.slotFor? ref = some q ∧ (q.word 0x41).getLsbD 0 = false)
    ∧ (∃ q, (engine [] {} [(0x41, 1)] thread).slotFor? ref = some q ∧ (q.word 0x41).getLsbD 0 = true)
    ∧ (handler 0).tstate.trapped = true ∧ (withTx 1).tx.depth ≠ 0 ∧ (withTx 1).tstate.trapped = false ∧ thread.settled = true
    ∧ plain.safePoint 1 (plain.ctxOf ref) thread.pc thread.clause thread.pos ≠ (true, none) ∧ 0 < plain.cur.nextPos
    ∧ plain.cur.nextPos < plain.cur.count ∧ ({ plain with cur := { plain.cur with count := 1 } } : State).cur.count ≤ plain.cur.nextPos := by
  and_intros <;> decide +kernel

/-- A probe pattern of 4 words, key format I32 (R497). -/
def ops (n : Nat) : List Command := (List.range n).map fun i => { tzeroCommand i with engine := .retrieval, work := .rehash 0 0 }

set_option maxRecDepth 20000 in
/-- RetrievalInstructions: a queue that has room and a full one, an image, a probe whose checks pass and one that stops. -/
theorem witness_retrieval : (∃ q, plain.slotFor? ref = some q ∧ ¬8 ≤ (q.queued .retrieval).length)
    ∧ (∃ q, (engine (ops 8) {} [] thread).slotFor? ref = some q ∧ 8 ≤ (q.queued .retrieval).length)
    ∧ (∃ bs s2 q, plain.image ref thread 3 (.lit 0) 32 = (some bs, s2) ∧ s2.slotFor? ref = some q ∧ (q.queued .retrieval).length < 8)
    ∧ plain.patternRead ref thread 0 = (some (pattern 4 3 0x400 16 4), plain)
    ∧ (plain.boltOf ref thread 3).esize = 2 ∧ plain.oneLane ref thread ∧ thread.tx.depth = 0 :=
  ⟨⟨_, rfl, by decide +kernel⟩, ⟨_, rfl, by decide +kernel⟩, ⟨_, _, _, rfl, rfl, by decide +kernel⟩, rfl, by decide +kernel,
    plain_one _ _ _ _ rfl rfl, rfl⟩

/-- A copy of pattern 0 to pattern 1, fired or not; a BIN of bolt 3; a stream of one row; an insertion. -/
def copyCommand (fired : Bool) : Command :=
  { tzeroCommand 9 with engine := .copy, work := .copy, src := .pat (pattern 4 3 0x400 16 4) 0, dst := .pat (pattern 4 3 0x600 16 4) 0, fired }

def binCommand (count : Nat) : Command := { tzeroCommand 9 with engine := .dfi, work := .bin (bolt 0x400 3 2 3 4 16) 0 count 3 [] none }

def streamCommand : Command :=
  { tzeroCommand 9 with work := .stream 1 2 false 0 false 1 false none, dst := .pat (pattern 10 3 0x400 16 2) 0, fired := true }

/-- Bank 2 holds a matrix of BF16 whose source stands in the core's scratchpad. -/
def banked : State :=
  onCore (engine [streamCommand] {} [] thread) fun k => { k with banks := k.banks.set 2 { valid := true, fmt := .bf16, source := pattern 10 3 0x800 16 2 } }

def insertCommand : Command := { tzeroCommand 9 with engine := .retrieval, work := .insert 3 0 none, fired := true }

set_option maxRecDepth 20000 in
/-- EngineEvents: commands that fire and do not, a copy whose tiles are clean and one whose source is poisoned, a clearing, a binning
of no row and of one, a stream, an insertion into a table that is there and one that is not. -/
theorem witness_commands :
    ((engine [copyCommand true] {} [] thread).findCommand 9 = some (1, 0, copyCommand true) ∧ copyCommand true ∈ commandsOf (engine [copyCommand true] {} [] thread) 1 0
      ∧ (engine [copyCommand true] {} [] thread).commandFires 1 0 (copyCommand true) = false)
    ∧ (engine [copyCommand false] {} [] thread).commandFires 1 0 (copyCommand false) = true
    ∧ (∃ p, (copyCommand true).src.pattern? = some p ∧ p.bpp = false ∧ p.space ≠ 0 ∧ p.keyen = false
      ∧ (∀ a ∈ p.addrs, plain.poisoned (nearKey 1 0 0 0 p.space a) p.unit = false))
    ∧ (∃ q, (copyCommand true).dst.pattern? = some q ∧ q.space ≠ 0 ∧ q.keyen = false
      ∧ ∀ a ∈ q.addrs, inHoops (nearKey 1 0 0 0 q.space a) = false ∧ a % 64 + q.unit ≤ 64)
    ∧ ({ tzeroCommand 9 with fired := true } : Command).claims = []
    ∧ (∃ a w, ({ engine [copyCommand true] {} [] thread with poison := [coreKey 1 0 0x43C] } : State).attempt 1 0 (copyCommand true)
      = some (.error (.fails a 3, w)))
    ∧ (engine [binCommand 0] {} [] thread).binReady 1 0 (binCommand 0) = true ∧ (engine [binCommand 1] {} [] thread).binReady 1 0 (binCommand 1) = true
    ∧ (∃ classes, (engine [binCommand 1] {} [] thread).binStep 1 (binCommand 1) = some (.ok classes))
    ∧ (∃ s1 n s2, banked.streamUpTo 1 streamCommand 0 = (s1, n, none)
      ∧ (((s1.setTileStatus 1 1 (setBits (s1.tileStatus 1 1) 5 1 1)).event 1 0 0x16 1 false).spend.planeCycles streamCommand
          (1 + Config.choice s1.free % 1)).reloadBank 1 streamCommand 2 = .ok s2)
    ∧ (copyCommand true).waiting = none ∧ (engine [copyCommand true] {} [] thread).bulkOut (.command 9) = false
    ∧ (engine [copyCommand true] {} [] thread).hoopsOpen 1 (copyCommand true) = true ∧ (copyCommand true).taken = []
    ∧ (engine [insertCommand] {} [] thread).opArrives 1 0 insertCommand = true
    ∧ (engine [insertCommand] {} [] thread).table? ((engine [insertCommand] {} [] thread).tableDieOf 1 0 3) 0 3 = none := by
  refine ⟨⟨by decide +kernel, by decide +kernel, by decide +kernel⟩, by decide +kernel, ⟨_, rfl, by decide +kernel⟩, ⟨_, rfl, by decide +kernel⟩, rfl, ⟨_, _, rfl⟩,
    by decide +kernel, by decide +kernel, ⟨_, rfl⟩, ⟨_, _, _, rfl, rfl⟩, rfl, by decide +kernel, by decide +kernel, rfl, by decide +kernel, by decide +kernel⟩

/-- A retrieval table in die scratchpad, with one key of one word. -/
def aTable : Table := { valid := true, sp := true, key := pattern 8 1 0x400 1 4, base := 0x800 }
def tabled : State :=
  { engine [insertCommand] {} [] thread with dies := [(0, { allocs := [(0, 0x1000)], families := [(0, { d := 1 })], tables := [(3, aTable)] })] }

set_option maxRecDepth 20000 in
/-- EngineEvents: an insertion that the engine applies. -/
theorem witness_insertion : tabled.opArrives 1 0 insertCommand = true ∧ tabled.tableDieOf 1 0 3 = 0 ∧ tabled.table? 0 0 3 = some aTable
    ∧ ∃ v s', tabled.opInsert ⟨0, insertCommand, aTable⟩ 0 = .ok (v, s') :=
  ⟨by decide +kernel, by decide +kernel, by decide +kernel, ⟨_, _, rfl⟩⟩

/-- An image without instructions in memory at 0x1100, with its overlay table at 0x1000; core 1 loads it to slot 3. -/
def anImage : List Byte :=
  bytesOfNat 4 0x564F584C ++ bytesOfNat 4 (2 ^ 16) ++ bytesOfNat 4 0x40 ++ bytesOfNat 4 0x40 ++ bytesOfNat 4 0x50 ++ bytesOfNat 4 0 ++ bytesOfNat 4 0x50
    ++ List.replicate 0x1E4 0
def loadData : List Byte := bytesOfNat 16 1 ++ bytesOfNat 16 (0x200 * 2 ^ 32 + 0x1100 * 2 ^ 64) ++ List.replicate 0xE0 0 ++ anImage
def aLoad : OverlayLoad := { id := 9, core := 1, ctx := 0, ovl := 0, ovt := 0x1000, slot := some 3 }
def loading : State := withData (onCore (stand thread) fun k => { k with loads := [aLoad] }) 0x1000 loadData

theorem loading_read (a n : Nat) (ha : a + n ≤ loadData.length) : loading.readVa 0 (0x1000 + a) n = .ok ((loadData.drop a).take n) :=
  data_read (onCore (stand thread) fun k => { k with loads := [aLoad] }) _ _ _ _ rfl rfl rfl (by decide) (by decide +kernel) ha

theorem loading_image : loading.loadImage aLoad = .image anImage ∧ loading.loadImage { aLoad with ovl := 1 } = .fails 0x1000 := by
  have r0 := loading_read 0 4 (by decide +kernel)
  have r1 := loading_read 16 16 (by decide +kernel)
  have r2 := loading_read 0x100 0x200 (by decide +kernel)
  rw [show (loadData.drop 0).take 4 = bytesOfNat 4 1 by decide +kernel] at r0
  rw [show (loadData.drop 16).take 16 = bytesOfNat 16 (0x200 * 2 ^ 32 + 0x1100 * 2 ^ 64) by decide +kernel] at r1
  rw [show (loadData.drop 0x100).take 0x200 = anImage by decide +kernel] at r2
  simp only [Nat.reduceAdd, Nat.add_zero] at r0 r1 r2
  have he : loading.overlayEntry 0 0x1000 0 = .ok (some (0x200, 0x1100)) := by
    unfold State.overlayEntry
    simp only [r0, show Nat.min (natOfBytes (bytesOfNat 4 1)) 4096 = 1 by decide +kernel, show List.range 1 = [0] from rfl, List.foldl_cons, List.foldl_nil, Nat.mul_zero,
      Nat.reduceAdd, r1]
    rw [if_pos (by decide +kernel)]
    congr 3
  have hn : loading.overlayEntry 0 0x1000 1 = .ok none := by
    unfold State.overlayEntry
    simp only [r0, show Nat.min (natOfBytes (bytesOfNat 4 1)) 4096 = 1 by decide +kernel, show List.range 1 = [0] from rfl, List.foldl_cons, List.foldl_nil, Nat.mul_zero,
      Nat.reduceAdd, r1]
    rw [if_neg (by decide +kernel)]
  refine ⟨?_, by unfold State.loadImage; rw [show ({ aLoad with ovl := 1 } : OverlayLoad).ctx = 0 from rfl,
    show ({ aLoad with ovl := 1 } : OverlayLoad).ovt.toNat = 0x1000 from rfl, show ({ aLoad with ovl := 1 } : OverlayLoad).ovl = 1 from rfl, hn]⟩
  unfold State.loadImage
  rw [show aLoad.ctx = 0 from rfl, show aLoad.ovt.toNat = 0x1000 from rfl, show aLoad.ovl = 0 from rfl, he]
  simp only [r2]
  rw [show imageOk 0 anImage = true by decide +kernel]
  simp

/-- EngineEvents: a load whose image passes its checks, and one of an overlay that the table does not hold. -/
theorem witness_load : (loading.cores.findSome? fun e => e.2.loads.find? fun x => x.id == aLoad.id) = some aLoad ∧ loading.loadReady aLoad = true
    ∧ loading.loadImage aLoad = .image anImage ∧ loading.loadImage { aLoad with ovl := 1 } = .fails 0x1000 ∧ { aLoad with asked := true }.asked = true ∧ loading.loadSlot aLoad = some 3 ∧ anImage.length ≤ 65536 := by
  have h3 : loading.loadSlot aLoad = some 3 := by decide +kernel
  refine ⟨by decide +kernel, ?_, loading_image.1, loading_image.2, rfl, h3, by decide +kernel⟩
  unfold State.loadReady
  rw [loading_image.1, h3]
  rfl

/-- A packet that has arrived at core 1 from there. -/
def packet (body : Body) : Packet := { id := 9, ctx := 0, src := 1, home := 1, slack := 0, vn := 0, place := .arrived, since := 0, body }

/-- An access of one word for a thread of core 1, and a state that holds its packet and has its page at home. -/
def access (write : Bool) (kind : Option AtomKind) : Access :=
  { dest := { ref, reg := 5 }, ctx := 0, parts := [⟨0x403C, 7, 5⟩], bytes := 4, write, kind, fmt := .n32, party := 0, overlay := false, eord := 0, pc := 0x44 }

def arrived (body : Body) : State := { withData (near thread) 8 [] with packets := [packet body] }

theorem arrived_mapped (body : Body) : Mapped (arrived body) false 1 :=
  (data_mapped (near thread) 8 [] rfl rfl rfl (by decide) (by decide)).same rfl rfl rfl rfl rfl

theorem arrived_serve (body : Body) (write : Bool) (kind : Option AtomKind) :
    (arrived body).serve (packet body) (access write kind) = .performs [0x18000403C] := by
  unfold State.serve
  simp only [access, List.foldl_cons, List.foldl_nil, List.isEmpty_nil]
  unfold State.serveOne
  have hl : (arrived body).homeLeaf 0 (0x403C : BitVec 48).toNat = some ⟨3, false, 1⟩ := (arrived_mapped body).leaf (by decide) (.inl rfl)
  have hc : (arrived body).homeCheck 0 (0x403C : BitVec 48).toNat write ⟨3, false, 1⟩ = .ok 0x18000403C := (arrived_mapped body).check (by decide) (.inl rfl) (by simp)
  have hf : (arrived body).firstForwarded (packet body).id 0 (0x403C : BitVec 48).toNat = false := by
    unfold State.firstForwarded
    simp [(arrived_mapped body).mov]
  simp only [hl, hf, Bool.false_eq_true, if_false, hc]
  simp [State.rangeLocked, show (arrived body).ranges = [] from rfl, packet]

/-- RequestsAndReplies: a result, a reply, a request that is served and one that fails, an acknowledgement, a notice with watchers and without. -/
theorem witness_replies : (∀ b, (arrived b).packet? 9 = some (packet b) ∧ (arrived b).packets.filter (fun q => q.id == 9) = [packet b]
      ∧ (packet b).ovd = false ∧ (arrived b).whereIs 2 = some ref ∧ (arrived b).hart? ref = some thread) ∧ thread.status = .running
    ∧ (access false none).parts.length ≤ 1 ∧ (access false none).held = false ∧ (access false none).dest.sample = none
    ∧ (∀ w, (arrived (.read (access w none))).requestReady (packet (.read (access w none))) = true)
    ∧ (∀ w, (arrived (.read (access w none))).serve (packet (.read (access w none))) (access w none) = .performs [0x18000403C]) ∧ inHoops 0x18000403C = false
    ∧ (arrived (.atomic (access true (some .cas)))).requestReady (packet (.atomic (access true (some .cas)))) = true
    ∧ (arrived (.atomic (access true (some .cas)))).serve (packet (.atomic (access true (some .cas)))) (access true (some .cas)) = .performs [0x18000403C]
    ∧ (arrived (.read { access false none with waiting := some ⟨.pageNotPresent, 0, 1, 0⟩ })).requestReady
        (packet (.read { access false none with waiting := some ⟨.pageNotPresent, 0, 1, 0⟩ })) = false
    ∧ (arrived (.ack ref .none)).ackReady (packet (.ack ref .none)) = true
    ∧ ({ thread with status := .acks 2 } : Hart).status = .acks (0 + 2)
    ∧ (∃ k q, (near thread).slotOf? 1 0 = some (k, q) ∧ (near thread).slot? 1 k = some q ∧ 63 < q.bolts.size)
    ∧ ((arrived (.notice aLine)).core (coreOfHome (packet (.notice aLine)).home)).setsFor aLine = [] := by
  refine ⟨fun b => ⟨rfl, rfl, rfl, rfl, rfl⟩, rfl, by decide, rfl, rfl, fun w => ?_, fun w => arrived_serve _ w none, by decide +kernel, ?_, arrived_serve _ true (some .cas),
    by decide +kernel, by decide +kernel, rfl, ⟨_, _, rfl, rfl, by decide⟩, by decide +kernel⟩
  · unfold State.requestReady
    simp only [show (packet (.read (access w none))).body.access? = some (access w none) from rfl, arrived_serve]
    cases w <;> rfl
  · unfold State.requestReady
    simp only [show (packet (.atomic (access true (some .cas)))).body.access? = some (access true (some .cas)) from rfl, arrived_serve]
    rfl

theorem serve_lost (t : State) (p : Packet) (a : Access) (x : Part) (hx : a.parts = [x]) (h : t.homeLeaf a.ctx x.va.toNat = none)
    (hp : t.poison = []) :
    t.serve p a = .fails (globalStop .homeMapMiss x.va.toNat a.write p.home) := by
  unfold State.serve
  simp only [hx, List.foldl_cons, List.foldl_nil, State.serveOne, h]
  simp [State.missCause, State.homePoison, hp]

theorem serve_absent (t : State) (p : Packet) (a : Access) (x : Part) (leaf : Leaf) (c : Cause) (hx : a.parts = [x])
    (h : t.homeLeaf a.ctx x.va.toNat = some leaf) (hh : leaf.home = p.home) (hr : t.ranges = []) (hm : t.moves = [])
    (hc : t.homeCheck a.ctx x.va.toNat a.write leaf = .fault c)
    (he : c ≠ .eccUncorrected) : t.serve p a = .faults c x.va.toNat := by
  have hf : t.firstForwarded p.id a.ctx x.va.toNat = false := by
    unfold State.firstForwarded
    simp [hm]
  unfold State.serve
  simp only [hx, List.foldl_cons, List.foldl_nil, List.isEmpty_nil, State.serveOne, h, hh, hf, State.rangeLocked, hr]
  simp [hc, he]

/-- The access without a home map, and a store to a page that is read-only. -/
def lost : State := { near thread with packets := [packet (.read (access false none))] }
def barred : State := { paged (near thread) true 1 with packets := [packet (.read (access true none))] }

theorem barred_mapped : Mapped barred true 1 := (paged_mapped (near thread) true 1 rfl rfl rfl).same rfl rfl rfl rfl rfl

theorem barred_leaf : barred.homeLeaf 0 0x403C = some ⟨3, true, 1⟩ := by
  exact barred_mapped.leaf (by decide) (.inl rfl)

theorem barred_check : barred.homeCheck 0 0x403C true ⟨3, true, 1⟩ = .fault .pageProtection := by
  have h := barred_mapped
  have e := home_tables true 1 (.inl rfl)
  have hf : barred.frameLeaf 1 0 0x403C = some (0x1800001F, 0x200001000) := by
    unfold State.frameLeaf
    rw [frameRoot_of _ _ _ _ h.dir, if_pos (by decide), show entryNext (0x20000001 : DWord) = 0x200000000 by decide]
    simp only [Option.bind_some]
    rw [radix_two _ _ 0x403C _ 0x20000101 0x1800001F (by decide) (by rw [h.tab _ _ (by decide)]; exact e.2.2.1)
      (by rw [h.tab _ _ (by decide)]; exact e.2.2.2) (by decide) (by decide)]
    decide
  have hff : barred.forwardedFirst 0 0x403C 1 = false := by
    unfold State.forwardedFirst
    simp [h.mov]
  have hp : barred.framePoison 1 0 0x403C = false := by simp [State.framePoison, h.clean]
  have hc : barred.onChip 1 = true := rfl
  unfold State.homeCheck
  simp only [show coreOfHome 1 = 1 from rfl, hf, hff, hp, hc]
  decide

/-- Requests that fail: no home map; and one that waits for the service. -/
theorem witness_failures : (∃ stop, lost.serve (packet (.read (access false none))) (access false none) = .fails stop ∧ stop.cause ≠ .rangeLock)
    ∧ lost.requestReady (packet (.read (access false none))) = true
    ∧ (∃ c va, barred.serve (packet (.read (access true none))) (access true none) = .faults c va)
    ∧ barred.requestReady (packet (.read (access true none))) = true := by
  have h : lost.homeLeaf (access false none).ctx (0x403C : BitVec 48).toNat = none := by decide +kernel
  have hs := serve_lost lost (packet (.read (access false none))) _ ⟨0x403C, 7, 5⟩ rfl h rfl
  have hb := serve_absent barred (packet (.read (access true none))) (access true none) ⟨0x403C, 7, 5⟩ ⟨3, true, 1⟩ .pageProtection rfl barred_leaf rfl rfl rfl
    barred_check (by decide)
  refine ⟨⟨_, hs, by decide⟩, ?_, ⟨_, _, hb⟩, ?_⟩
  · unfold State.requestReady
    simp only [show (packet (.read (access false none))).body.access? = some (access false none) from rfl, hs]
    rfl
  · unfold State.requestReady
    simp only [show (packet (.read (access true none))).body.access? = some (access true none) from rfl, hb]
    rfl

def aNeedle : Needle := { aTask.needle with tid := 9, task := false }

/-- Core 1 with packets, and what a change makes of it. -/
def coming (body : Body) (f : Core → Core) : State := onCore { stand thread with packets := [packet body] } f

def arrivalOf (id : Nat) : Arrival := { id, needle := { aNeedle with tid := id }, ctx := 0, slack := 0, ovd := false, sx := false, bytes := 288, since := 0, seq := id }

/-- Threads in the store of core 1, whose launch's entry its die holds; the time has come for the first of them. -/
def spooled (n : Nat) : State :=
  { onCore (stand thread) fun k => { k with store := (List.range n).map arrivalOf } with tsc := 256, dies := [(0, { launchCache := [0] })] }

set_option maxRecDepth 20000 in
/-- ArrivalsAndTasks: room in the store, in the spill area and nowhere; a full spool and one whose time has come; tasks that may leave
and may not, one whose time has come; an increment and an arrival that is the last and one that is not. -/
theorem witness_arrivals :
    ((coming (.needle aNeedle) id).packet? 9 = some (packet (.needle aNeedle)))
    ∧ ((coming (.task aNeedle ref) id).taskCheck (packet (.task aNeedle ref)) aNeedle = .accept)
    ∧ ((coming (.needle aNeedle) id).core 1).placeFor 0 32 = some (some 0)
    ∧ (((coming (.needle aNeedle) id).core 1).overlay? 0 (ovlOf aNeedle.pc)).isSome = true
    ∧ ((coming (.needle aNeedle) fun k => { k with slots := [] }).core 1).placeFor 0 32 = some none
    ∧ ((coming (.needle aNeedle) fun k => { k with slots := [], retired := true }).core 1).placeFor 0 32 = none
    ∧ ((coming (.needle aNeedle) fun k => { k with spill := [arrivalOf 9] }).core 1).nextSpilled = some (arrivalOf 9)
    ∧ ((stand thread).core 1).freeEntry (entriesFor 288) = some 0
    ∧ (spooled 64).spoolFull 1 (spoolOf aNeedle.pc) 0 = true ∧ (spooled 1).spoolTimed 1 (spoolOf aNeedle.pc) 0 = true
    ∧ ((spooled 64).core 1).freeWaves.head? = some 1
    ∧ ({ spooled 1 with dies := [] } : State).entryWanted 0 0 = true ∧ ({ spooled 1 with dies := [] } : State).entryPacket 0 0 = none
    ∧ (spooled 1).entryDue 0 0 = false ∧ (stand thread).spoolFull 1 0 0 = false ∧ (stand thread).spoolTimed 1 0 0 = false
    ∧ aTask.sendable = true ∧ ({ aTask with waits := 1 } : Task).sendable = false
    ∧ (onCore { stand thread with net := 64 * netCycle } fun k => { k with spawnQ := [{ aTask with refused := some 0 }] }).resendDue 1 = true
    ∧ ((onCore (stand thread) fun k => { k with spawnQ := [aTask] }).core 1).spawnQ = aTask :: [] := by
  and_intros <;> decide +kernel

/-- Needles and tasks that their home does not take as arrivals, an entry that is fetched, and a task that comes back. -/
theorem witness_returned :
    (∃ (s : State) (p : Packet) (n : Needle), s.packet? p.id = some p ∧ p.rehomed = true ∧ p.body = .needle n ∧ (s.core (coreOfHome p.home)).spillRoom = true
      ∧ p = { packet (.needle aNeedle) with rehomed := true })
    ∧ (∃ (s : State) (p : Packet) (n : Needle), s.packet? p.id = some p ∧ p.rehomed = true ∧ p.body = .needle n ∧ (s.core (coreOfHome p.home)).spillRoom = false
      ∧ p = { packet (.needle aNeedle) with rehomed := true })
    ∧ (∃ (s : State) (p : Packet) (n : Needle) (issuer : Ref), s.packet? p.id = some p ∧ p.rehomed = true ∧ p.body = .task n issuer ∧ p = { packet (.task aNeedle ref) with rehomed := true })
    ∧ (∃ p, (coming (.entryFetch 0 5) id).entryPacket 0 5 = some p ∧ p.place = .arrived ∧ p.body = .entryFetch 0 5)
    ∧ (∃ p, (coming (.entry 0 0) id).entryPacket 0 0 = some p ∧ p.place = .arrived ∧ p.body = .entry 0 0)
    ∧ ((coming (.entry 0 0) id).launches.get? 0).isSome = true
    ∧ (coming (.refusal aNeedle ref) id).packet? 9 = some (packet (.refusal aNeedle ref)) := by
  refine ⟨⟨{ stand thread with packets := [{ packet (.needle aNeedle) with rehomed := true }] }, _, _, rfl, rfl, rfl, by decide +kernel, rfl⟩,
    ⟨onCore { stand thread with packets := [{ packet (.needle aNeedle) with rehomed := true }] } fun k => { k with retired := true }, _, _, rfl, rfl, rfl,
      by decide +kernel, rfl⟩,
    ⟨{ stand thread with packets := [{ packet (.task aNeedle ref) with rehomed := true }] }, _, _, _, rfl, rfl, rfl, rfl⟩,
    ⟨_, by rfl, rfl, rfl⟩, ⟨_, by rfl, rfl, rfl⟩, by decide +kernel, rfl⟩

/-- The phase of group 0 of launch 0 with a packet on its way to it. -/
def phasing (body : Body) (p : Phase) : State := { stand thread with packets := [packet body], phases := [p] }

theorem witness_phaseArrival : (phasing (.phaseArrive 0 0 0 { ref, reg := 5 } 0xFFF) ⟨0, 0, 0, 2, 0, 5, false⟩).packet? 9 = some (packet (.phaseArrive 0 0 0 { ref, reg := 5 } 0xFFF))
    ∧ (phasing (.phaseArrive 0 0 0 { ref, reg := 5 } 0xFFF) ⟨0, 0, 0, 2, 0, 5, false⟩).phase? (0 : Word).toNat 0 0 = some ⟨0, 0, 0, 2, 0, 5, false⟩
    ∧ (phasing (.phaseArrive 0 0 0 { ref, reg := 5 } 0xFFF) ⟨0, 0, 0, 2, 0, 5, false⟩).arrivalReady (packet (.phaseArrive 0 0 0 { ref, reg := 5 } 0xFFF)) = true
    ∧ (0 + 1 ≠ 2 ∧ 1 + 1 = 2) ∧ (stand thread).launches.get? (0 : Word).toNat = some placedLaunch
    ∧ (onCore { stand thread with packets := [packet (.phaseArrive 0 0 0 { ref, reg := 5 } 0xFFF), { packet (.increment 0 0 0 ⟨1, .wave 0 0, 9⟩) with id := 8 }] }
      fun k => { k with spawnQ := [aTask] }).arrivalReady (packet (.phaseArrive 0 0 0 { ref, reg := 5 } 0xFFF)) = false
    ∧ (phasing (.increment 0 0 0 ref) ⟨0, 0, 0, 2, 0, 5, false⟩).packet? 9 = some (packet (.increment 0 0 0 ref)) := by decide +kernel

/-- A drain with its cores, at a state with entries in core 1's buffer. -/
def draining (s : State) (cores : List (Nat × Bool)) (purpose : DrainFor) (l : List Baste) : State :=
  onCore { s with drains := [⟨9, 0, 0, 0, 1, cores, purpose, 0, 0xFFF⟩], packets := [packet (.drain 9), { packet (.drained 9) with id := 10 }] } fun k => { k with buffer := l }

def anEntry : Baste := { aHeld with held := false }

theorem draining_mapped (cores : List (Nat × Bool)) (purpose : DrainFor) (l : List Baste) : Mapped (draining (withData (near thread) 8 []) cores purpose l) false 1 :=
  (data_mapped (near thread) 8 [] rfl rfl rfl (by decide) (by decide)).same rfl rfl rfl rfl rfl

theorem drain_writes (cores : List (Nat × Bool)) (purpose : DrainFor) (l : List Baste) :
    (draining (withData (near thread) 8 []) cores purpose l).drainCheck 1 anEntry = .writes 0x180004000 := by
  have hl := (draining_mapped cores purpose l).leaf (va := 0x4000) (by decide) (.inl rfl)
  have hc := (draining_mapped cores purpose l).check (va := 0x4000) (write := true) (by decide) (.inl rfl) rfl
  have hh : (draining (withData (near thread) 8 []) cores purpose l).homeId 1 = 1 := by
    simp [State.homeId, draining, withData, paged, near, withBolts, stand, State.withFetchWord, State.reset, onCore, State.modCore]
  unfold State.drainCheck
  simp only [show (draining (withData (near thread) 8 []) cores purpose l).ranges = [] from rfl, List.any_nil, show anEntry.ctx = 0 from rfl,
    show anEntry.addr.toNat = 0x4000 from rfl, hl, hh, hc]
  simp

/-- DrainsAndFaultService: a core that drains nothing, an entry that is written, one that is held, one that waits for a command; the last
acknowledgement and another, for each purpose, with held entries and without. -/
theorem witness_drains : (draining (near thread) [(1, false)] (.completion 0) []).drain? 9 = some ⟨9, 0, 0, 0, 1, [(1, false)], .completion 0, 0, 0xFFF⟩
    ∧ ([(1, false)] : List (Nat × Bool)).contains (1, false) = true
    ∧ (draining (near thread) [(1, false)] (.completion 0) []).drainPacket 1 9 false = some (packet (.drain 9))
    ∧ (draining (near thread) [(1, true)] (.completion 0) []).drainPacket 1 9 true = some { packet (.drained 9) with id := 10 }
    ∧ ([(1, true)] : List (Nat × Bool)).contains (1, true) = true
    ∧ ((⟨9, 0, 0, 0, 1, [(1, false)], .completion 0, 0, 0xFFF⟩ : Drain).takes anEntry = true ∧ (⟨9, 0, 0, 0, 1, [(1, false)], .heldBy ref, 0, 0xFFF⟩ : Drain).takes anEntry = false)
    ∧ (draining (withData (near thread) 8 []) [(1, false)] (.completion 0) [anEntry]).drainCheck 1 anEntry = .writes 0x180004000 ∧ inHoops 0x180004000 = false
    ∧ (draining (near thread) [(1, false)] (.completion 0) [anEntry]).drainCheck 1 anEntry = .fails
    ∧ ({ draining (near thread) [(1, false)] (.completion 0) [anEntry] with ranges := [⟨7, none, 0, 0, 0x100, 0x100, true, 0⟩] } : State).drainReady 1
        ⟨9, 0, 0, 0, 1, [(1, false)], .completion 0, 0, 0xFFF⟩ = false
    ∧ ([(1, true), (2, false)] : List (Nat × Bool)).filter (fun e => e.1 != 1) ≠ [] ∧ ([(1, true)] : List (Nat × Bool)).filter (fun e => e.1 != 1) = []
    ∧ (phasing (.notice aLine) ⟨0, 0, 0, 1, 1, 5, true⟩).phase? 0 0 0 = some ⟨0, 0, 0, 1, 1, 5, true⟩
    ∧ (draining (near thread) [(1, true)] (.completion 0) []).launches.get? 0 = some placedLaunch
    ∧ (draining (near thread) [(1, true)] (.completion 0) []).heldEntry 0 0 1 = none
    ∧ (draining (near thread) [(1, true)] (.completion 0) [aHeld]).heldEntry 0 0 1 = some aHeld
    ∧ (draining (near thread) [(1, true)] (.heldBy ref) []).whereIs ref.tid = some ref := by
  and_intros
  all_goals first | decide +kernel | exact drain_writes _ _ _

/-- Core 1 with another context's wave placed there: it runs context 0 at QCOUNT 0, and all its slots are taken. -/
def contested (f : Slot → Slot) : State :=
  let s := stand thread
  let taken := fun (n : Nat) => (n, f { ctx := n, bobbin := placedHart (10 + n) .zeroW .halted, service := n != 0 })
  { onCore s fun k => { k with slots := [taken 0, taken 1, taken 2, taken 3], placed := [{ key := 1, wave := 0, since := 0 }] } with
    launches := [(0, placedLaunch), (1, { placedLaunch with ctx := 4, lid := 2 })] }

/-- ContextSwitches: the context that is pre-empted and one that is not, with the host asked and not; the bobbin's turn, halted and
running; a slot that is released and one that is not. -/
theorem witness_switches : (contested id).nextExpired 1 = some 0 ∧ (stand thread).nextExpired 1 ≠ some 0
    ∧ (∃ q, (contested id).slot? 1 0 = some q ∧ q.asked = false) ∧ (contested id).hostMode 2 = false
    ∧ ({ contested id with bar := { (contested id).bar with split := 0x10 } } : State).hostMode 2 = true
    ∧ ({ contested id with bar := { (contested id).bar with split := 0x10 } } : State).nextExpired 1 = some 0
    ∧ (∀ r ∈ (stand thread).threadsOf 1 0, ∀ h, (stand thread).hart? r = some h → h.status = .running) ∧ ref ∈ (stand thread).threadsOf 1 0
    ∧ (∃ q, (contested fun q => { q with switch := .bobbin }).slot? 1 0 = some q ∧ q.bobbin.status = .halted
        ∧ (contested fun q => { q with switch := .bobbin }).bobbinTurn 1 q = true)
    ∧ (∃ q, (onCore (standB bobbin) fun k => { k with slots := k.slots.mapVals fun _ q => { q with switch := .saving } }).slot? 1 0 = some q
        ∧ q.bobbin.status ≠ .halted ∧ (onCore (standB bobbin) fun k => { k with slots := k.slots.mapVals fun _ q => { q with switch := .saving } }).bobbinTurn 1 q = true)
    ∧ (∃ q, (stand thread).slot? 1 0 = some q ∧ (stand thread).bobbinTurn 1 q = false ∧ q.leaves = false ∧ (stand thread).unheld 1 q = false)
    ∧ (∃ q, (contested fun q => { q with leaving := true }).slot? 1 0 = some q ∧ q.leaves = true) := by
  refine ⟨by decide +kernel, by decide +kernel, ⟨_, rfl, by decide +kernel⟩, by decide +kernel, by decide +kernel, by decide +kernel, ?_, by decide +kernel,
    ⟨_, rfl, by decide +kernel, by decide +kernel⟩, ⟨_, rfl, by decide +kernel, by decide +kernel⟩,
    ⟨_, rfl, by decide +kernel, by decide +kernel, by decide +kernel⟩, ⟨_, rfl, by decide +kernel⟩⟩
  intro r hr h hh
  have : (stand thread).threadsOf 1 0 = [ref] := by decide +kernel
  rw [this, List.mem_singleton] at hr
  subst hr
  cases hh
  rfl

/-- A context that waits to return to core 1; its record and its context record are there, or no page is. -/
def aSaved : SavedCtx := { ctx := 0, svbase := 0x20000, since := 0 }
def awayFrom (s : State) : State := onCore s fun k => { k with slots := [], waves := [], saved := [aSaved] }
def returning : State := withData (awayFrom (near thread)) 0x40000 (List.replicate 0x20 0)

theorem returning_mapped : Mapped returning false 1 := data_mapped (awayFrom (near thread)) _ _ rfl rfl rfl (by decide) (by decide +kernel)

theorem returning_base : switchBase returning 1 aSaved.svbase = 0x40000 := by
  have h : returning.homeId 1 = 1 := by
    simp [State.homeId, returning, withData, paged, awayFrom, near, withBolts, stand, State.withFetchWord, State.reset, onCore, State.modCore]
  unfold switchBase
  rw [h]
  rfl

/-- A read of the core within a line, where no range is registered. -/
theorem Mapped.run {t : State} {va n : Nat} {bs : List Byte} (h : Mapped t false 1) (hr : t.ranges = []) (hv : va < 2 ^ 30)
    (hl : (linePieces va (List.replicate n 0)).map (fun e => (e.1, e.2.length)) = [(va, n)]) (hb : t.readVa 0 va n = .ok bs) :
    t.readRun 0 va n = .ok bs := by
  unfold State.readRun
  rw [hl]
  simp only [State.readThreadPieces, show va % 2 ^ 48 = va by omega, h.translate hv (by simp), State.rangeLocked, hr, List.any_nil, hb]
  simp

theorem run_none (s : State) (ctx va : Nat) (h : va % 64 = 0) : s.readRun ctx va 0 = .ok [] := by
  unfold State.readRun linePieces
  rw [h]
  rfl

theorem returning_switch : ∃ t, returning.readSwitch 1 aSaved = .ok (some t) ∧ t.nwave = 0 := by
  have h : returning.readVa 0 0x40000 0x20 = .ok (List.replicate 0x20 0) := by
    have := data_read (awayFrom (near thread)) 0x40000 0 0x20 (List.replicate 0x20 0) rfl rfl rfl (by decide) (by decide +kernel) (by decide +kernel)
    rw [show ((List.replicate 0x20 (0 : Byte)).drop 0).take 0x20 = List.replicate 0x20 0 by decide +kernel] at this
    exact this
  unfold State.readSwitch
  simp only [returning_base, show aSaved.ctx = 0 from rfl, returning_mapped.run rfl (by decide) (by decide +kernel) h]
  rw [if_neg (by decide +kernel), show recN (List.replicate 0x20 0) 0 2 = 0 by decide +kernel, run_none _ _ _ (by decide), run_none _ _ _ (by decide)]
  exact ⟨_, rfl, rfl⟩

theorem returning_grant : ∃ a b, returning.grantReads 0 = .ok (a, b) := by
  unfold State.grantReads
  rw [show (field ((returning.btabs.get? 0).getD 0) 0 48) = 0 from rfl, show ((returning.ctxrecs.get? 0).getD 0).toNat = 0 from rfl,
    returning_mapped.read 128 0 (by decide), returning_mapped.read 1024 0 (by decide)]
  exact ⟨_, _, rfl⟩

theorem returns_of (s : State) (core : Nat) (v : SavedCtx) (h0 : ((s.core core).asks.get? v.ctx).isNone = true) (h1 : ((s.core core).slots.freeKey 4).isSome = true)
    (h2 : ((s.core core).slots.any fun e => e.2.switch != .none || e.2.ctx == v.ctx) = false)
    (h3 : (∃ t a b, s.readSwitch core v = .ok (some t) ∧ s.grantReads v.ctx = .ok (a, b) ∧ (t.rebuilt s v).length ≤ (s.core core).freeWaves.length)
      ∨ (∃ c va x y, s.readSwitch core v = .error (.fault c va) ∧ s.grantReads v.ctx = .error (.fault x y))
      ∨ ∃ t x y, s.readSwitch core v = .ok (some t) ∧ s.grantReads v.ctx = .error (.fault x y)) : s.returns core v = true := by
  unfold State.returns
  rcases h3 with ⟨t, a, b, ha, hb, hc⟩ | ⟨c, va, x, y, ha, hb⟩ | ⟨t, x, y, ha, hb⟩
  · simp only [h0, h1, h2, ha, hb]
    simpa using hc
  all_goals
    simp only [h0, h1, h2, ha, hb]
    rfl

theorem fault_of {α : Type} {x : Except MemStop α} (h : (match x with | .error (.fault _ _) => true | _ => false) = true) :
    ∃ c va, x = .error (.fault c va) := by
  rcases x with (_ | _) | _ <;> first | exact ⟨_, _, rfl⟩ | cases h

/-- The same with a bolt table at an address that the home map does not hold. -/
def unreadableTable : State := { returning with btabs := [(0, 2 ^ 40)] }

set_option maxRecDepth 20000 in
theorem unreadable_mapped : Mapped unreadableTable false 1 := returning_mapped.same rfl rfl rfl rfl rfl

theorem unreadable_switch : ∃ t, unreadableTable.readSwitch 1 aSaved = .ok (some t) := by
  have h : unreadableTable.readVa 0 0x40000 0x20 = .ok (List.replicate 0x20 0) := by
    have h := data_read (awayFrom (near thread)) 0x40000 0 0x20 (List.replicate 0x20 0) rfl rfl rfl (by decide) (by decide +kernel) (by decide +kernel)
    rw [show ((List.replicate 0x20 (0 : Byte)).drop 0).take 0x20 = List.replicate 0x20 0 by decide +kernel, data_mapped _ _ _ rfl rfl rfl (by decide) (by decide +kernel) |>.read _ _ (by decide)] at h
    rw [unreadable_mapped.read _ _ (by decide)]
    exact h
  have hb : switchBase unreadableTable 1 aSaved.svbase = 0x40000 := by
    unfold switchBase
    rw [show unreadableTable.homeId 1 = 1 by simp [State.homeId, unreadable_mapped.chip]]
    rfl
  unfold State.readSwitch
  simp only [hb, show aSaved.ctx = 0 from rfl, unreadable_mapped.run rfl (by decide) (by decide +kernel) h]
  rw [if_neg (by decide +kernel), show recN (List.replicate 0x20 0) 0 2 = 0 by decide +kernel, run_none _ _ _ (by decide), run_none _ _ _ (by decide)]
  exact ⟨_, rfl⟩

theorem unreadable_grant : unreadableTable.grantReads 0 = .error (.fault .homeMapMiss (2 ^ 40)) := by
  have hp : ∀ va, unreadableTable.homePoison 0 va = false := by simp [State.homePoison, unreadable_mapped.clean]
  have hl : unreadableTable.homeLeaf 0 (2 ^ 40) = none := by
    have h0 : unreadableTable.hmapRoot 0 = 0x200002000 := by simp [State.hmapRoot, unreadable_mapped.map, KMap.get?, field]
    unfold State.homeLeaf
    rw [hp, if_neg (by decide), h0]
    simp only [radixLevels, radixWalk]
    rw [unreadable_mapped.tab _ _ (by decide), if_pos (by decide +kernel)]
    rfl
  have hr : unreadableTable.readVa 0 (2 ^ 40) 1024 = .error (.fault .homeMapMiss (2 ^ 40)) := by
    rw [State.readVa, State.translate, show 2 ^ 40 % 2 ^ 48 = 2 ^ 40 by decide, hl]
    simp only [State.missCause, hp]
    rfl
  unfold State.grantReads
  rw [show (field ((unreadableTable.btabs.get? 0).getD 0) 0 48) = 2 ^ 40 by decide +kernel, show ((unreadableTable.ctxrecs.get? 0).getD 0).toNat = 0 from rfl,
    unreadable_mapped.read 128 0 (by decide), hr]

/-- ContextSwitches: a record that can be read, one that cannot, and a bolt table that cannot; a notice that stands and one that the
host has declined. -/
theorem witness_readmission : returning.readmits 1 = some aSaved ∧ (returning.core 1).slots.freeKey 4 = some 0
    ∧ (∃ t, returning.readSwitch 1 aSaved = .ok (some t)) ∧ (∃ a b, returning.grantReads aSaved.ctx = .ok (a, b))
    ∧ (awayFrom (near thread)).readmits 1 = some aSaved ∧ (∃ c va, (awayFrom (near thread)).readSwitch 1 aSaved = .error (.fault c va))
    ∧ unreadableTable.readmits 1 = some aSaved ∧ (∃ t, unreadableTable.readSwitch 1 aSaved = .ok (some t))
    ∧ (∃ c va, unreadableTable.grantReads aSaved.ctx = .error (.fault c va))
    ∧ ({ contested id with posted := [⟨4, 0, .notice 1 0⟩] } : State).noticed 1 0 = true
    ∧ (onCore (contested id) fun k => { k with declined := [(0, (contested id).waitNames 1)] }).declines 1 0 = true := by
  obtain ⟨t, ht, hn⟩ := returning_switch
  obtain ⟨a, b, hg⟩ := returning_grant
  have hr : returning.returns 1 aSaved = true := by
    refine returns_of _ _ _ (by decide +kernel) (by decide +kernel) (by decide +kernel) (.inl ⟨t, a, b, ht, hg, ?_⟩)
    unfold SwitchRecord.rebuilt
    simp [hn]
  have hs : returning.nextSaved 1 = some aSaved := by decide +kernel
  have ha : returning.admissible 1 = [] := by decide +kernel
  obtain ⟨u, hu⟩ := unreadable_switch
  have hr2 : unreadableTable.returns 1 aSaved = true :=
    returns_of _ _ _ (by decide +kernel) (by decide +kernel) (by decide +kernel) (.inr (.inr ⟨u, _, _, hu, unreadable_grant⟩))
  have hs2 : unreadableTable.nextSaved 1 = some aSaved := by decide +kernel
  have ha2 : unreadableTable.admissible 1 = [] := by decide +kernel
  refine ⟨?_, by decide +kernel, ⟨t, ht⟩, ⟨a, b, hg⟩, by decide +kernel, fault_of (by decide +kernel), ?_, ⟨u, hu⟩, ⟨_, _, unreadable_grant⟩,
    by decide +kernel, by decide +kernel⟩
  · unfold State.readmits
    rw [hs, ha]
    simp [hr]
  · unfold State.readmits
    rw [hs2, ha2]
    simp [hr2]

/-- A launch record at 0x1000, its context record at 0x1100 and its overlay table, empty, at 0x1180. -/
def launchRecord (cspb : Nat) : List Byte :=
  bytesOfNat 8 0x101E ++ bytesOfNat 8 0x40 ++ bytesOfNat 8 0x1180 ++ bytesOfNat 8 1 ++ bytesOfNat 0x90 64 ++ bytesOfNat 0x20 cspb ++ bytesOfNat 0x30 0x1100
def launchData (cspb : Nat) : List Byte := launchRecord cspb ++ bytesOfNat 0x80 (2 ^ 192) ++ bytesOfNat 16 0

def aQueue : Queue := { base := 0x1000, ctl := 1, tail := 1 }

/-- A device without a launch and with that record in queue 63. -/
def queued (cspb : Nat) : State := withData { near thread with launches := [], queues := [(63, aQueue)] } 0x1000 (launchData cspb)

theorem queued_read (cspb a n : Nat) (hc : (launchData cspb).length = 0x190) (ha : a + n ≤ 0x190) :
    (queued cspb).readVa 0 (0x1000 + a) n = .ok (((launchData cspb).drop a).take n) :=
  data_read { near thread with launches := [], queues := [(63, aQueue)] } _ _ _ _ rfl rfl rfl (by decide) (by omega) (by omega)

theorem queued_cand (cspb : Nat) (why : List Nat) (hc : (launchData cspb).length = 0x190) (h0 : (launchData cspb).take 256 = launchRecord cspb)
    (h1 : ((launchData cspb).drop 0x100).take 128 = bytesOfNat 0x80 (2 ^ 192)) (h2 : ((launchData cspb).drop 0x180).take 16 = bytesOfNat 16 0)
    (hl : (launchOf (launchRecord cspb) 0 0x1000).ctxrec = 0x1100 ∧ (launchOf (launchRecord cspb) 0 0x1000).init = 0
      ∧ (launchOf (launchRecord cspb) 0 0x1000).ovt = 0x1180)
    (hw : (let l := launchOf (launchRecord cspb) 0 0x1000
      (([(1, reservedBad (launchRecord cspb) l 0), (2, l.shapeBad), (3, l.ctl.getLsbD 11 && decide (l.nlev - 1 < field l.ctl 8 3)), (4, l.succBad []),
       (5, l.sizesBad), (6, (queued cspb).ctxBad l (.bytes (bytesOfNat 0x80 (2 ^ 192)))), (7, l.initBad (.bytes [])),
       (8, ((l.aff == 0 || l.aff == 3) && recN (launchRecord cspb) 0xA8 4 == 0) || (l.aff == 3 && decide (65536 < recN (launchRecord cspb) 0xA8 4))),
       (9, ovlOf l.entry == 0xFFFF || (Rd.bytes (bytesOfNat 16 0)) == .unreadable)] : List (Nat × Bool)).filter Prod.snd).map Prod.fst) = why) :
    (queued cspb).readVa 0 0x1000 256 = .ok (launchRecord cspb) ∧ (queued cspb).reasons aQueue (launchRecord cspb) = some why := by
  have r0 := queued_read cspb 0 256 hc (by omega)
  have r1 := queued_read cspb 0x100 128 hc (by omega)
  have r2 := queued_read cspb 0x180 16 hc (by omega)
  rw [List.drop_zero, h0] at r0
  rw [h1] at r1
  rw [h2] at r2
  simp only [Nat.reduceAdd, Nat.add_zero] at r0 r1 r2
  refine ⟨r0, ?_⟩
  obtain ⟨e1, e2, e3⟩ := hl
  have d1 : (queued cspb).rd 0 0x1100 128 = .bytes (bytesOfNat 0x80 (2 ^ 192)) := by unfold State.rd; rw [r1]
  have d2 : (queued cspb).rd 0 0x1180 16 = .bytes (bytesOfNat 16 0) := by unfold State.rd; rw [r2]
  have d3 : (queued cspb).rd 0 (0x1180 + 16) (16 * recN (bytesOfNat 16 0) 0 4) = .bytes [] := by
    rw [show recN (bytesOfNat 16 0) 0 4 = 0 by decide +kernel]
    rfl
  have d4 : (queued cspb).ovtRead 0 0x1180 = .bytes [] := by
    unfold State.ovtRead
    rw [d2]
    simp only
    rw [if_pos (by decide +kernel), d3]
  unfold State.reasons
  simp only [show aQueue.ctx = 0 from rfl, show aQueue.headVa = 0x1000 from rfl, e1, e2, e3, show (0x1100 : BitVec 48).toNat = 0x1100 from rfl,
    show (0x1180 : BitVec 48).toNat = 0x1180 from rfl, d1, d4]
  rw [← hw]
  rfl

theorem queued_good : (queued 0x1000).reasons aQueue (launchRecord 0x1000) = some [] ∧ (queued 0x1000).readVa 0 0x1000 256 = .ok (launchRecord 0x1000) :=
  (queued_cand 0x1000 [] (by decide +kernel) (by decide +kernel) (by decide +kernel) (by decide +kernel) (by decide +kernel) (by decide +kernel)).symm

theorem queued_bad : (queued 1).reasons aQueue (launchRecord 1) = some [5] ∧ (queued 1).readVa 0 0x1000 256 = .ok (launchRecord 1) :=
  (queued_cand 1 [5] (by decide +kernel) (by decide +kernel) (by decide +kernel) (by decide +kernel) (by decide +kernel) (by decide +kernel)).symm

theorem dispatchable_one (cspb : Nat) (why : List Nat) (h1 : (queued cspb).readVa 0 0x1000 256 = .ok (launchRecord cspb))
    (h2 : (queued cspb).reasons aQueue (launchRecord cspb) = some why) : (queued cspb).dispatchable = [⟨63, aQueue, launchRecord cspb, why⟩] := by
  unfold State.dispatchable
  rw [show (queued cspb).queues = [(63, aQueue)] from rfl]
  simp only [List.filterMap_cons, List.filterMap_nil, show aQueue.live = true from rfl, show aQueue.ctx = 0 from rfl, show aQueue.headVa = 0x1000 from rfl, h1, h2]
  cases why with
  | nil => simp [show (queued cspb).launches = [] from rfl, State.succReady]
  | cons => rfl

theorem decide_one (s : State) (c : Cand) : ∃ s', s.decide_ [c] = (some c, s') := by
  unfold State.decide_
  simp

/-- LaunchesRun: a record that is dispatched and one that is refused. -/
theorem witness_dispatch : (∃ c s', (queued 0x1000).decide_ (queued 0x1000).dispatchable = (some c, s') ∧ c.reasons = [])
    ∧ (∃ c s', (queued 1).decide_ (queued 1).dispatchable = (some c, s') ∧ c.reasons ≠ [])
    ∧ (∀ n, (queued n).launchReady = true ∧ (queued n).readyRecords.find? (fun e => e.key.isNone) = none)
    ∧ (queued 0x1000).unreadable = none ∧ (queued 1).unreadable = none := by
  refine ⟨?_, ?_, fun n => ⟨rfl, rfl⟩, ?_, ?_⟩
  · rw [dispatchable_one _ _ queued_good.2 queued_good.1]
    obtain ⟨s', h⟩ := decide_one (queued 0x1000) ⟨63, aQueue, launchRecord 0x1000, []⟩
    exact ⟨_, s', h, rfl⟩
  · rw [dispatchable_one _ _ queued_bad.2 queued_bad.1]
    obtain ⟨s', h⟩ := decide_one (queued 1) ⟨63, aQueue, launchRecord 1, [5]⟩
    exact ⟨_, s', h, by simp⟩
  all_goals
    unfold State.unreadable
    rw [show (queued _).queues = [(63, aQueue)] from rfl]
    simp only [List.findSome?_cons, List.findSome?_nil, show aQueue.live = true from rfl, show aQueue.ctx = 0 from rfl, show aQueue.headVa = 0x1000 from rfl]
    first | rw [queued_good.2] | rw [queued_bad.2]
    rfl

/-- A core where wave 0 of the launch is placed, and which stages a region of it. -/
def placing (l : Launch) (e : List Staging) : State :=
  { onCore (near thread) fun k => { k with placed := [{ key := 0, wave := 0, since := 0 }] } with launches := [(0, l)], stagings := e, dies := [(0, { allocs := [(0, 0)] })] }

def staged : Launch := { placedLaunch with regions := [BitVec.ofNat 128 (3 * 2 ^ 48 + 0x200 * 2 ^ 64 + 64 * 2 ^ 96)] }
def aStaging : Staging := { key := 0, region := 0, unit := 1, core := 1 }

/-- LaunchesRun: queues up and not, a wave that is admitted, a region that is due and one that is done, a launch with threads, one
without before its drain and one after it. -/
theorem witness_launches : (stand thread).hostUp = true ∧ ((stand thread).queue 63).enabled = false
    ∧ ((queued 0).queue 63).enabled = true
    ∧ State.reset.launchReady = false ∧ (stand thread).nextWork ((stand thread).admitNow 1) = none
    ∧ (placing placedLaunch []).nextWork ((placing placedLaunch []).admitNow 1) = some (.wave { key := 0, wave := 0, since := 0 } placedLaunch)
    ∧ (∃ q, (placing placedLaunch []).slotAvailable 1 0 = some 0 ∧ (placing placedLaunch []).slotOf? 1 0 = some (0, q) ∧ (placing placedLaunch []).slot? 1 0 = some q)
    ∧ placedLaunch.cores.contains 1 = true ∧ ((placing placedLaunch []).core 1).freeWaves.head? = some 1 ∧ (placing placedLaunch []).stagedHere 1 0 = true
    ∧ ((placing placedLaunch []).core 1).allocs.get? placedLaunch.ctx ≠ none ∧ ((placing placedLaunch []).die (dieOf 1)).allocs.get? placedLaunch.ctx ≠ none
    ∧ (∃ h, (0, h) ∈ placedLaunch.waveLanes 0 0 9 0)
    ∧ (placing staged [aStaging]).stagings.find? (fun e => e.core == 1 && e.key == 0 && e.region == 0) = some aStaging
    ∧ staged.region 0 = (0, 3, 0x200, 64) ∧ (placing staged [aStaging]).windowMissing 1 0 3 0x200 64 = false
    ∧ (placing staged [aStaging]).stageDue aStaging = true ∧ (placing staged []).stageDue { aStaging with done := true } = false
    ∧ ((placing staged [aStaging]).askStaging aStaging staged).bulkOut (.staging 0 0 1) = false
    ∧ (placing staged []).readyRecords.find? (fun e => e.key == some 0) = none
    ∧ (placing staged []).completionDue staged = false ∧ (placing staged []).completionDue { staged with live := 0 } = true := by
  and_intros
  all_goals try decide +kernel
  · exact ⟨_, by decide +kernel, rfl, rfl⟩
  · exact ⟨_, List.mem_cons_self⟩

/-- A region whose source lies at another core: core 3 stages 64 bytes of a page of core 1. -/
def farStaged : Launch := { placedLaunch with regions := [BitVec.ofNat 128 (0x4000 + 3 * 2 ^ 48 + 0x200 * 2 ^ 64 + 64 * 2 ^ 96)] }
def farStaging : Staging := { aStaging with core := 3 }
def farPlacing : State :=
  withData { near thread with cores := [(1, (near thread).core 1), (3, (near thread).core 1)], launches := [(0, farStaged)], stagings := [farStaging] }
    0x4000 (List.replicate 64 7)

theorem farPlacing_mapped : Mapped farPlacing false 1 := data_mapped _ _ _ rfl rfl rfl (by decide) (by decide +kernel)

theorem farPlacing_read : farPlacing.readVa 0 0x4000 64 = .ok (List.replicate 64 7) :=
  (data_read _ 0x4000 0 64 (List.replicate 64 7) rfl rfl rfl (by decide) (by decide +kernel) (by decide +kernel)).trans
    (by rw [show ((List.replicate 64 (7 : Byte)).drop 0).take 64 = List.replicate 64 7 by decide +kernel])

theorem farPlacing_due : farPlacing.stageDue farStaging = true := by
  have h : ∃ t, farPlacing.stage farStaging farStaged = .ok t := by
    unfold State.stage
    rw [show farStaged.region farStaging.region = (0x4000, 3, 0x200, 64) by decide +kernel]
    simp only [State.windowMissing, show farStaged.ctx = 0 from rfl, farPlacing_read]
    exact ⟨_, rfl⟩
  obtain ⟨t, h⟩ := h
  unfold State.stageDue
  rw [show farPlacing.launches.get? farStaging.key = some farStaged from rfl]
  simp only [h]
  rfl

set_option maxRecDepth 20000 in
theorem farPlacing_asks : (farPlacing.askStaging farStaging farStaged).bulkOut (.staging 0 0 1) = true := by
  have hm : ∀ f, Mapped (farPlacing.modStaging farStaging f) false 1 := fun f => by
    unfold State.modStaging
    exact ⟨farPlacing_mapped.map, farPlacing_mapped.dir, farPlacing_mapped.tab, farPlacing_mapped.mov, farPlacing_mapped.clean, farPlacing_mapped.chip⟩
  unfold State.askStaging
  rw [show farStaged.region farStaging.region = (0x4000, 3, 0x200, 64) by decide +kernel]
  simp only [State.sendBulk]
  rw [show (if 0x4000 = 0 then [] else (List.range ((0x4000 % 64 + 64 + 63) / 64)).map fun i => (0x4000 / 64 + i) % 2 ^ 42) = [0x100] by decide +kernel]
  simp only [List.filterMap_cons, List.filterMap_nil, show farStaged.ctx = 0 from rfl, (hm _).leaf (va := 64 * 0x100) (by decide) (.inl rfl), Option.map_some]
  rfl

/-- LaunchesRun: a region whose data are asked for. -/
theorem witness_farStaging : farPlacing.stagings.find? (fun e => e.core == 3 && e.key == 0 && e.region == 0) = some farStaging
    ∧ farPlacing.launches.get? 0 = some farStaged ∧ farStaged.region 0 = (0x4000, 3, 0x200, 64) ∧ farPlacing.windowMissing 3 0 3 0x200 64 = false
    ∧ farPlacing.readVa 0 0x4000 64 = .ok (List.replicate 64 7) ∧ farPlacing.stageDue farStaging = true ∧ farStaging.asked = false
    ∧ (farPlacing.askStaging farStaging farStaged).bulkOut (.staging 0 0 1) = true :=
  ⟨rfl, rfl, by decide +kernel, rfl, farPlacing_read, farPlacing_due, rfl, farPlacing_asks⟩

/-- Bytes of one line of the page that the device writes. -/
theorem storeVa_one (s : State) (va : Nat) (bs : List Byte) (hm : Mapped s false 1) (hv : va < 2 ^ 30) (hp : linePieces va bs = [(va, bs)]) :
    s.storeVa 0 va bs = .ok ((s.lineEvent (0x180000000 + va)).2.store ⟨(0x180000000 + va) / 64, va / 64, 0, 0⟩ (0x180000000 + va) bs) := by
  have hd : s.deviceStop 0 va bs.length false = .ok (0x180000000 + va) := by
    unfold State.deviceStop
    rw [hm.translate hv rfl]
    simp [State.partPoisoned, hm.clean]
  unfold State.storeVa
  rw [hp, State.storePiecesVa, show va % 2 ^ 48 = va by omega, hd]
  simp only [State.storePiecesVa]

/-- A launch without threads, whose drain has ended; its record lies at 0x1000. -/
def ended : Launch := { placedLaunch with live := 0, drained := some true, record := 0x1000 }
def ending : State := withData { State.reset with launches := [(0, ended)] } 8 []

theorem ending_store : ∃ t, ending.storeVa 0 ((ended.record.toNat + 0xF8) % 2 ^ 48) (bytesOfNat 4 (if ended.failed then 3 + 256 * 10 else 2)) = .ok t :=
  ⟨_, storeVa_one ending _ _ (data_mapped { State.reset with launches := [(0, ended)] } _ _ rfl rfl rfl (by decide) (by decide)) (by decide) (by decide +kernel)⟩

/-- LaunchesRun: a completion that ends. -/
theorem witness_completion : ending.completionDue ended = true ∧ ending.readyRecords.find? (fun e => e.key == some 0) = none
    ∧ ending.launches.get? 0 = some ended ∧ ended.drained = some true
    ∧ ∃ t, ending.storeVa 0 ((ended.record.toNat + 0xF8) % 2 ^ 48) (bytesOfNat 4 (if ended.failed then 3 + 256 * 10 else 2)) = .ok t := by
  obtain ⟨t, ht⟩ := ending_store
  refine ⟨?_, by rfl, by rfl, rfl, ⟨t, ht⟩⟩
  unfold State.completionDue
  have hs : bytesOfNat 4 ended.status = bytesOfNat 4 (if ended.failed then 3 + 256 * 10 else 2) := rfl
  simp only [show ended.ctx = 0 from rfl, hs, show ended.drained = some true from rfl, ht, show ending.records = [] from rfl]
  rfl

/-! A page of 4 KiB: the first of context 0, with its home on core 1 or core 3, and its frame on core 1. What core 3's channel holds
below its middle is even, so that Config's place of its directory gives no table there. -/

def smallTables (ro : Bool) (home : Nat) : List Host.Cell :=
  ([(0x200002000, nextEntry 0x200003000), (0x200003000, nextEntry 0x200004000), (0x200004000, nextEntry 0x200005000),
    (0x200005000, bytesOfNat 8 (3 + ro.toNat * 16 + home * 256)), (0x200010000, nextEntry 0x200011000), (0x200011000, nextEntry 0x200012000),
    (0x200012000, nextEntry 0x200013000), (0x200013000, bytesOfNat 8 (3 + 16 + 0x18000000))] : List (Nat × List Byte)).foldl
      (fun m e => Memory.setBytes m e.1 e.2) []

/-- A pool with n frames, even ones. -/
def poolBytes (n : Nat) : List Byte := bytesOfNat 4 n ++ (List.range n).flatMap fun i => bytesOfNat 4 (2 * i)

@[irreducible] def pool : Nat := poolBase 3

@[irreducible] def smallMem (ro : Bool) (home n : Nat) : List Host.Cell :=
  Memory.setBytes (Memory.setBytes (smallTables ro home) directory (nextEntry 0x200010000)) pool (poolBytes n)

def small (s : State) (ro : Bool) (home n : Nat) : State := { s with mem := smallMem ro home n, hmaps := [(0, 0x200002000)] }

theorem small_mem (s : State) (ro : Bool) (home n : Nat) : (small s ro home n).mem = smallMem ro home n := by
  unfold small
  with_reducible rfl

theorem pool_le : 0x300000000 ≤ pool ∧ pool < 0x380000000 := by
  have : Config.pagePool % 2 ^ 31 < 2 ^ 31 := Nat.mod_lt _ (by decide)
  unfold pool poolBase nearBase
  omega

theorem get_far (ro : Bool) (home x : Nat) (h : 0x200020000 ≤ x) : Memory.get (smallTables ro home) x = 0 := by
  have b : ∀ k, (bytesOfNat 8 k).length = 8 := fun k => by simp [bytesOfNat]
  simp only [smallTables, List.foldl_cons, List.foldl_nil, Memory.get_setBytes, nextEntry, b]
  repeat rw [if_neg (by omega)]
  rfl

theorem small_low (ro : Bool) (home n x : Nat) (h : 0x200000000 ≤ x) (hx : x < 0x300000000) :
    Memory.get (smallMem ro home n) x = Memory.get (smallTables ro home) x := by
  have hp := pool_le
  have hd := directory_lt
  unfold smallMem
  rw [Memory.get_setBytes, if_neg (by omega), Memory.get_setBytes, if_neg (by simp [nextEntry, bytesOfNat]; omega)]

theorem small_high (ro : Bool) (home n x : Nat) (h : 0x300000000 ≤ x) :
    Memory.get (smallMem ro home n) x = if pool ≤ x ∧ x < pool + (poolBytes n).length then (poolBytes n).getD (x - pool) 0 else 0 := by
  have hd := directory_lt
  unfold smallMem
  rw [Memory.get_setBytes]
  split
  · rfl
  · rw [Memory.get_setBytes, if_neg (by simp [nextEntry, bytesOfNat]; omega), get_far _ _ _ (by omega)]

theorem small_at (ro : Bool) (home n x i : Nat) (h : 0x200000000 ≤ x) (hx : x + 8 * i + 8 ≤ 0x300000000) :
    tableEntry (smallMem ro home n) x i = tableEntry (smallTables ro home) x i := by
  simp only [tableEntry, Memory.getNat, Memory.getBytes]
  refine congrArg (BitVec.ofNat 64) (congrArg natOfBytes (List.map_congr_left fun j hj => ?_))
  rw [List.mem_range] at hj
  exact small_low _ _ _ _ (by omega) (by omega)

theorem small_dir (ro : Bool) (home n : Nat) : tableEntry (smallMem ro home n) directory 0 = 0x20001001 := by
  have hp := pool_le
  have hd := directory_lt
  have key : ∀ j < 8, Memory.get (smallMem ro home n) (directory + 8 * 0 + j) = (nextEntry 0x200010000).getD j 0 := by
    intro j hj
    unfold smallMem
    rw [Memory.get_setBytes, if_neg (by omega), Memory.get_setBytes, if_pos (by simp [nextEntry, bytesOfNat]; omega)]
    congr 1
    omega
  simp only [tableEntry, Memory.getNat, Memory.getBytes]
  rw [List.map_congr_left (g := fun j => (nextEntry 0x200010000).getD j 0) fun j hj => key j (List.mem_range.mp hj)]
  decide +kernel

theorem even_pool (n : Nat) (hn : n = 0 ∨ n = 6) : ∀ i, ((poolBytes n).getD i 0).toNat % 2 = 0 := by
  intro i
  by_cases h : i < 28
  · rcases hn with rfl | rfl
    · revert i; decide +kernel
    · revert i; decide +kernel
  · have hl : (poolBytes n).length ≤ i := by rcases hn with rfl | rfl <;> simp [poolBytes, bytesOfNat, List.range, List.range.loop] <;> omega
    rw [List.getD_eq_getElem?_getD, List.getElem?_eq_none hl]
    rfl

/-- Core 3 has no frame table for context 0. -/
theorem small_root (s : State) (ro : Bool) (home n : Nat) (hn : n = 0 ∨ n = 6) : (small s ro home n).frameRoot 3 0 = none := by
  have h0 := frameRoot_of (small s ro home n) 3 0 _ rfl
  rw [small_mem] at h0
  rw [h0, if_neg]
  simp only [tableEntry, Memory.getNat, Memory.getBytes, show List.range 8 = 0 :: (List.range 7).map (· + 1) by decide, List.map_cons, natOfBytes]
  rw [small_high _ _ _ _ (by unfold nearBase; omega)]
  have e : ∀ b : Byte, b.toNat % 2 = 0 → ∀ k, ¬(BitVec.ofNat 64 (b.toNat + 256 * k)).getLsbD 0 = true := by
    intro b hb k
    simp only [BitVec.getLsbD_ofNat, Nat.testBit_zero]
    simp
    omega
  refine e _ ?_ _
  split
  · exact even_pool n hn _
  · rfl

theorem small_bytes (ro : Bool) (home n a k : Nat) (ha : a + k ≤ (poolBytes n).length) :
    Memory.getNat (smallMem ro home n) (pool + a) k = natOfBytes ((List.range k).map fun i => (poolBytes n).getD (a + i) 0) := by
  have hp := pool_le
  simp only [Memory.getNat, Memory.getBytes]
  congr 1
  refine List.map_congr_left fun i hi => ?_
  rw [List.mem_range] at hi
  rw [small_high _ _ _ _ (by omega), if_pos (by omega)]
  congr 1
  omega

theorem poolCount_small (s : State) (ro : Bool) (home n : Nat) : (small s ro home n).poolCount 3 = natOfBytes ((List.range 4).map fun i => (poolBytes n).getD i 0) := by
  have := small_bytes ro home n 0 4 (by simp [poolBytes, bytesOfNat])
  simp only [Nat.zero_add, Nat.add_zero] at this
  rw [← this, ← small_mem s]
  unfold pool State.poolCount
  with_reducible rfl

theorem poolFrame_small (s : State) (ro : Bool) (home : Nat) : (small s ro home 6).poolFrame 3 5 = 3 * 2 ^ 20 + 10 := by
  have := small_bytes ro home 6 24 4 (by decide +kernel)
  rw [show natOfBytes ((List.range 4).map fun i => (poolBytes 6).getD (24 + i) 0) = 10 by decide +kernel] at this
  unfold State.poolFrame
  rw [small_mem, show poolBase 3 + 4 + 4 * 5 = pool + 24 by unfold pool; omega, this, show 10 % 2 ^ 20 = 10 from rfl]

theorem small_way (s : State) (ro : Bool) (home n : Nat) (hn : n = 0 ∨ n = 6) : (small s ro home n).wayTo 3 0 0 0 = .free 4 := by
  unfold State.wayTo State.frameLeaf
  rw [small_root s ro home n hn]
  rfl

/-- Nothing of the pool is spoiled where no memory is. -/
theorem small_sound (s : State) (ro : Bool) (home n : Nat) (hp : s.poison = []) : (small s ro home n).poolSpoiled 3 0 0 0 = false := by
  simp [State.poolSpoiled, State.framePoison, State.spoiledRun, small, hp]

theorem small_none (s : State) (ro w : Bool) (home : Nat) (hp : s.poison = []) : (small s ro home 0).fromPool 3 0 0 0 w = none := by
  unfold State.fromPool State.poolRun
  simp only [small_way s ro home 0 (.inl rfl), poolCount_small, small_sound s ro home 0 hp, Bool.false_eq_true, if_false]
  rw [if_neg]
  rw [show natOfBytes ((List.range 4).map fun i => (poolBytes 0).getD i 0) = 0 by decide +kernel, show framesOf 0 = 1 by decide]
  simp

theorem small_some (s : State) (ro w : Bool) (home : Nat) (hp : s.poison = []) : ∃ t, (small s ro home 6).fromPool 3 0 0 0 w = some (0x30000A, t) := by
  unfold State.fromPool State.poolRun
  simp only [small_way s ro home 6 (.inr rfl), poolCount_small, small_sound s ro home 6 hp, Bool.false_eq_true, if_false]
  rw [show natOfBytes ((List.range 4).map fun i => (poolBytes 6).getD i 0) = 6 by decide +kernel, show framesOf 0 = 1 by decide]
  simp only [show (List.range 1) = [0] by decide, List.map_cons, List.map_nil, Nat.reduceSub, Nat.add_zero, poolFrame_small]
  exact ⟨_, rfl⟩

/-- A walk that ends at the fourth level. -/
theorem radix_four (m : List Host.Cell) (ok : DWord → Bool) (b1 b2 b3 b4 : Nat) (e1 e2 e3 e4 : DWord) (h1 : tableEntry m b1 0 = e1) (h2 : tableEntry m b2 0 = e2)
    (h3 : tableEntry m b3 0 = e3) (h4 : tableEntry m b4 0 = e4) (n1 : entryNext e1 = b2) (n2 : entryNext e2 = b3) (n3 : entryNext e3 = b4)
    (v1 : (e1.getLsbD 0 && ok e1 && !e1.getLsbD 1) = true) (v2 : (e2.getLsbD 0 && ok e2 && !e2.getLsbD 1) = true)
    (v3 : (e3.getLsbD 0 && ok e3 && !e3.getLsbD 1) = true)
    (v4 : (e4.getLsbD 0 && ok e4 && e4.getLsbD 1 && levelSize 4 (field e4 2 2) && field e4 2 2 != 1) = true) :
    radixWalk m ok 0 radixLevels b1 = some (e4, 4, b4) := by
  simp only [Bool.and_eq_true, Bool.not_eq_true'] at v1 v2 v3 v4
  simp only [radixLevels, radixWalk, Nat.zero_div, Nat.zero_mod, h1, n1, h2, n2, h3, n3, h4, v1, v2, v3, v4]
  simp

theorem small_entries (ro : Bool) (home : Nat) (hh : home = 1 ∨ home = 3) : tableEntry (smallTables ro home) 0x200002000 0 = 0x20000301
    ∧ tableEntry (smallTables ro home) 0x200003000 0 = 0x20000401 ∧ tableEntry (smallTables ro home) 0x200004000 0 = 0x20000501
    ∧ tableEntry (smallTables ro home) 0x200005000 0 = BitVec.ofNat 64 (3 + ro.toNat * 16 + home * 256)
    ∧ tableEntry (smallTables ro home) 0x200010000 0 = 0x20001101 ∧ tableEntry (smallTables ro home) 0x200011000 0 = 0x20001201
    ∧ tableEntry (smallTables ro home) 0x200012000 0 = 0x20001301 ∧ tableEntry (smallTables ro home) 0x200013000 0 = 0x18000013 := by
  rcases hh with rfl | rfl <;> cases ro <;> decide +kernel

theorem small_leaf (s : State) (ro : Bool) (home n : Nat) (hh : home = 1 ∨ home = 3) (hp : s.poison = []) : (small s ro home n).homeLeaf 0 0 = some ⟨0, ro, home⟩ := by
  obtain ⟨t1, t2, t3, t4, -⟩ := small_entries ro home hh
  have h0 : (small s ro home n).hmapRoot 0 = 0x200002000 := by simp [State.hmapRoot, small, KMap.get?, field]
  have hq : (small s ro home n).homePoison 0 0 = false := by simp [State.homePoison, small, hp]
  unfold State.homeLeaf
  rw [hq, if_neg (by decide), h0, small_mem,
    radix_four _ _ 0x200002000 0x200003000 0x200004000 0x200005000 _ _ _ _ ((small_at _ _ _ _ _ (by omega) (by omega)).trans t1)
      ((small_at _ _ _ _ _ (by omega) (by omega)).trans t2) ((small_at _ _ _ _ _ (by omega) (by omega)).trans t3)
      ((small_at _ _ _ _ _ (by omega) (by omega)).trans t4) (by decide) (by decide) (by decide) (by decide) (by decide) (by decide) (by rcases hh with rfl | rfl <;> cases ro <;> decide)]
  rcases hh with rfl | rfl <;> cases ro <;> rfl

theorem small_frame (s : State) (ro : Bool) (home n : Nat) (hh : home = 1 ∨ home = 3) :
    (small s ro home n).frameLeaf 1 0 0 = some (0x18000013, 0x200013000) := by
  obtain ⟨-, -, -, -, t1, t2, t3, t4⟩ := small_entries ro home hh
  have hr : (small s ro home n).frameRoot 1 0 = some 0x200010000 := by
    rw [frameRoot_of _ _ _ 0x20001001 (by
      have := small_dir ro home n
      rw [directory.eq_1] at this
      rw [small_mem]
      with_reducible exact this)]
    decide
  unfold State.frameLeaf
  rw [hr, small_mem]
  simp only [Option.bind_some]
  rw [radix_four _ _ 0x200010000 0x200011000 0x200012000 0x200013000 _ _ _ _ ((small_at _ _ _ _ _ (by omega) (by omega)).trans t1)
      ((small_at _ _ _ _ _ (by omega) (by omega)).trans t2) ((small_at _ _ _ _ _ (by omega) (by omega)).trans t3)
      ((small_at _ _ _ _ _ (by omega) (by omega)).trans t4) (by decide) (by decide) (by decide) (by decide) (by decide) (by decide) (by decide)]
  rfl

/-! A state with that page, and a fault that is served. -/

def aService (home : Nat) : Service := { id := 9, ctx := 0, page := 0, home, va := 0, write := false, space := 0, pc := 0x40, eord := 0 }

def device : State := State.reset.withFetchWord 32 0x70000000

/-- A device without cores that serves it. -/
def serving (home n : Nat) (v : Service) : State := small { device with cores := [], services := [v] } false home n

/-- A write on a device without cores wakes nothing, and no attempt meets it. -/
theorem store_alone (s : State) (l : Line) (key : Nat) (bytes : List Byte) (hc : s.cores = []) (hp : s.poison = []) (hk : key < 2 ^ 40) :
    s.store l key bytes = { s with mem := Memory.setBytes s.mem key bytes } := by
  have hl : ∀ t : State, t.cores = [] → t.lineChanged l = t := by
    intro t ht
    have hs : ∀ c, (t.core c).setsFor l = [] := by
      intro c
      have : t.core c = {} := by simp [State.core, ht]
      rw [this]
      simp [Core.setsFor, Core.directSets]
    unfold State.lineChanged
    rw [ht]
    cases l.core? <;> simp [State.lineNotice, hs]
  have ha : s.conflicts l.phys 0 = s := by simp [State.conflicts, State.attemptsOn, State.refs, hc]
  have hi : inHoops key = false := by
    unfold inHoops
    rw [show key / 2 ^ 48 = 0 by omega]
    rfl
  unfold State.store
  rw [ha, hi]
  simp only [Bool.false_eq_true, if_false, hp]
  rw [hl]
  case a => exact hc
  obtain ⟨⟩ := s
  simp only at hp
  subst hp
  rfl

theorem mem_setBytes {e : Host.Cell} (l : List Byte) : ∀ (m : List Host.Cell) (a : Nat), e ∈ Memory.setBytes m a l → e ∈ m ∨ a ≤ e.1 := by
  induction l with
  | nil => intro m a h; exact .inl h
  | cons b bs ih =>
    intro m a h
    rw [Memory.setBytes] at h
    rcases ih _ _ h with h | h
    · unfold Memory.set at h
      split at h
      · exact .inl (List.mem_filter.mp h).1
      · rcases Memory.mem_insert h with rfl | h
        · exact .inr (Nat.le_refl _)
        · exact .inl h
    · exact .inr (by omega)

theorem small_keys (ro : Bool) (home n : Nat) : ∀ e ∈ smallMem ro home n, 2 ^ 32 ≤ e.1 := by
  have hp := pool_le
  have hd := directory_lt
  intro e he
  unfold smallMem at he
  rcases mem_setBytes _ _ _ he with he | he
  · rcases mem_setBytes _ _ _ he with he | he
    · simp only [smallTables, List.foldl_cons, List.foldl_nil] at he
      iterate 8
        rcases mem_setBytes _ _ _ he with he | hx
        rotate_left
        · omega
      cases he
    · omega
  · omega

theorem small_write (ro : Bool) (home n a : Nat) (h : a < 2 ^ 32) : Memory.setBytes (smallMem ro home n) a [0] = smallMem ro home n := by
  rw [Memory.setBytes, Memory.setBytes, Memory.set, if_pos (show (0 : Byte) = Memory.rest from rfl), List.filter_eq_self]
  intro e he
  have hk := small_keys _ _ _ e he
  have : e.1 ≠ a := by omega
  simpa using this

theorem service_low (v : Service) (hv : v.home < 64) (hs : v.slot = 0) : v.addr < 2 ^ 31 := by
  have h0 : v.home % 256 / 64 * 64 * 2 ^ 32 = 0 := by
    rw [Nat.mod_eq_of_lt (by omega), Nat.div_eq_of_lt hv, Nat.zero_mul]
  have : Config.serviceMemory % 2 ^ 31 < 2 ^ 31 := Nat.mod_lt _ (by decide)
  unfold Service.addr coreOfHome nearBase
  rw [h0, Nat.zero_add, hs]
  omega

/-- A near line counts as one, and changes no cache. -/
theorem line_near (s : State) (dpa : Nat) (h : dpa < 2 ^ 31) : s.lineEvent dpa = (0x07, s) := by
  unfold State.lineEvent
  rw [show dpa / 2 ^ 31 = 0 by omega]
  rfl

theorem pieces_one (a : Nat) (b : Byte) : linePieces a [b] = [(a, [b])] := by
  have h1 : (a % 64 + 1 + 63) / 64 = 1 := by omega
  have h2 : 64 - a % 64 = (63 - a % 64) + 1 := by omega
  simp [linePieces, h1, h2]

/-- The record of the service context is freed, and nothing else of the state changes: no other byte lies in core 0's channel. -/
theorem small_freed (s : State) (home n : Nat) (v : Service) (hc : s.cores = []) (hp : s.poison = []) (hv : v.home < 64) (hs : v.slot = 0) :
    (small s false home n).storePhys 0 v.addr [0] = small s false home n := by
  have ha := service_low v hv hs
  unfold State.storePhys
  rw [pieces_one, List.foldl_cons, List.foldl_nil, line_near _ _ ha, store_alone (small s false home n) _ v.addr _ hc hp (by omega)]
  unfold small
  simp only [small_write _ _ _ _ (show v.addr < 2 ^ 32 by omega)]

/-- The state from which the service of v goes on. -/
def freed (s : State) (v : Service) : State := ({ s with services := s.services.filter fun x => x.id != v.id } : State).storePhys 0 v.addr [0]

def servingOne (home n : Nat) (v : Service) (posted : List Posted) : State := { serving home n v with posted }

theorem freed_serving (home n : Nat) (v : Service) (posted : List Posted) (hv : v.home < 64) (hs : v.slot = 0) :
    freed (servingOne home n v posted) v = small { device with cores := [], services := [v].filter fun x => x.id != v.id, posted } false home n :=
  small_freed { device with cores := [], services := [v].filter fun x => x.id != v.id, posted } home n v rfl rfl hv hs

theorem serving_present : (freed (servingOne 1 0 (aService 1) []) (aService 1)).wayTo 1 0 0 0 = .present := by
  rw [freed_serving _ _ _ _ (by decide) rfl]
  unfold State.wayTo
  simp only [small_frame _ _ _ _ (.inl rfl)]
  decide

/-- A device without cores and without maps. -/
def bare : State := { State.reset with services := [aService 1], hmaps := [(0, 0)] }

theorem bare_leaf : (freed bare (aService 1)).homeLeaf 0 0 = none := by
  have ha := service_low (aService 1) (by decide) rfl
  have hm : Memory.setBytes [] (aService 1).addr [0] = [] := rfl
  have h : freed bare (aService 1) = { bare with services := [] } := by
    unfold freed State.storePhys
    rw [pieces_one, List.foldl_cons, List.foldl_nil, line_near _ _ ha,
      store_alone { bare with services := bare.services.filter fun x => x.id != (aService 1).id } _ (aService 1).addr _ rfl rfl (by omega)]
    simp only [show bare.mem = [] from rfl, hm]
    rfl
  rw [h]
  decide +kernel

/-- A lane that waits for the page, and a read that does. -/
def awaited : PageWait := ⟨.pageNotPresent, 0, 1, 0⟩
def parked : State := { stand { thread with status := .parked { cause := .pageNotPresent, home := 1 } } with
  packets := [packet (.read { access false none with waiting := some awaited })] }

/-- A record that is posted. -/
def posting (place : Nat) (r : Report) (h : Hart) : State := { stand h with posted := [⟨place, 0, r⟩] }

set_option maxRecDepth 20000 in
/-- DrainsAndFaultService: a lane that is parked for the page and one that is not; a page that no map holds, that another home has, that is
present, that a pool with no frame cannot give and that a pool gives; records posted and not, of each kind that the statement names. -/
theorem witness_service : parked.parkedFor ⟨0, awaited⟩ ref = true ∧ parked.parkedFor ⟨1, awaited⟩ ref = false ∧ ref ∈ parked.refs
    ∧ (parked.hart? ref).isSome = true
    ∧ parked.packets = [packet (.read { access false none with waiting := some awaited })]
    ∧ bare.services = [aService 1] ∧ (freed bare (aService 1)).homeLeaf 0 0 = none
    ∧ (∀ home n v l, (servingOne home n v l).services = [v])
    ∧ (freed (servingOne 1 0 (aService 3) []) (aService 3)).homeLeaf 0 0 = some ⟨0, false, 1⟩
    ∧ (freed (servingOne 1 0 (aService 1) []) (aService 1)).homeLeaf 0 0 = some ⟨0, false, 1⟩
    ∧ (freed (servingOne 1 0 (aService 1) []) (aService 1)).wayTo 1 0 0 0 = .present
    ∧ (∀ n l, n = 0 ∨ n = 6 → (freed (servingOne 3 n (aService 3) l) (aService 3)).homeLeaf 0 0 = some ⟨0, false, 3⟩
      ∧ (freed (servingOne 3 n (aService 3) l) (aService 3)).wayTo (coreOfHome 3) 0 0 0 ≠ .present
      ∧ (freed (servingOne 3 n (aService 3) l) (aService 3)).posted = l)
    ∧ (∀ l, (freed (servingOne 3 0 (aService 3) l) (aService 3)).fromPool 3 0 0 0 true = none)
    ∧ (∀ l, ∃ t, (freed (servingOne 3 6 (aService 3) l) (aService 3)).fromPool 3 0 0 0 true = some (0x30000A, t))
    ∧ (freed (servingOne 3 0 (aService 3) []) (aService 3)).join (.page 0 0 3 .pageNotPresent) 1 = none
    ∧ (posting 0 (.page 0 0 1 .pageNotPresent) thread).hostUp = true ∧ (posting 0 (.page 0 0 1 .pageNotPresent) thread).postedAt 3 0 = none
    ∧ (posting 0 (.page 0 0 1 .pageNotPresent) thread).postedAt 0 0 = some ⟨0, 0, .page 0 0 1 .pageNotPresent⟩
    ∧ (posting 0 (.page 0 0 1 .pageNotPresent) thread).unposted = [] ∧ inHoops ((posting 4 (.nested ref) thread).recordAddr 4 0) = false
    ∧ (posting 4 (.nested ref) thread).postedAt 4 0 = some ⟨4, 0, .nested ref⟩
    ∧ (∃ h, (posting 4 (.nested ref) { thread with status := .nested }).hart? ref = some h ∧ h.status = .nested ∧ h.pos = field h.trap.ecause 8 3)
    ∧ (posting 4 (.overlay 1 0 5) thread).overlayParked 1 0 5 = [] := by
  refine ⟨by decide +kernel, by decide +kernel, by decide +kernel, by decide +kernel, rfl, rfl, bare_leaf, fun _ _ _ _ => rfl,
    by rw [freed_serving _ _ _ _ (by decide) rfl]; exact small_leaf _ _ _ _ (.inl rfl) rfl, by rw [freed_serving _ _ _ _ (by decide) rfl]; exact small_leaf _ _ _ _ (.inl rfl) rfl,
    serving_present, ?_, fun l => by rw [freed_serving _ _ _ _ (by decide) rfl]; exact small_none _ _ _ _ rfl,
    fun l => by rw [freed_serving _ _ _ _ (by decide) rfl]; exact small_some _ _ _ _ rfl, by rw [freed_serving _ _ _ _ (by decide) rfl]; rfl,
    by decide +kernel, by decide +kernel, by decide +kernel, rfl, by decide +kernel, by decide +kernel, ⟨_, rfl, by decide +kernel, by decide +kernel⟩,
    by decide +kernel⟩
  intro n l hn
  rw [freed_serving _ _ _ _ (by decide) rfl, show coreOfHome 3 = 3 from rfl, small_way _ _ _ _ hn]
  exact ⟨small_leaf _ _ _ _ (.inr rfl) rfl, by decide, rfl⟩

/-! Packets on their way. -/

def going (place : Place) (home : Nat) (slack : BitVec 12) : Packet := { packet (.ack ref .none) with place, home, slack, bytes := 64 }
def fabric (p : Packet) (f : Core → Core) : State := onCore { stand thread with packets := [p], net := 256 * netCycle } f

/-- A device whose route table sends chip 1's packets through port 0. -/
def routed : State :=
  { stand thread with
    packets := [going (.uet 0) 0x100 5], mem := Memory.setBytes [] 0x800002 [1]
    bar := { (stand thread).bar with rtbase := 0x800000, ports := (stand thread).bar.ports.set 0 3 } }

theorem routed_port : (routed.portOf 0 (going (.uet 0) 0x100 5)).isSome = true := by
  unfold State.portOf
  rw [show routed.upPorts 0 ((going (.uet 0) 0x100 5).home / 256) = [0] by decide +kernel]
  simp [Nat.mod_one]

theorem leaves_chip (s : State) (p : Packet) (die : Nat) (hp : p.place = .uet die) (h : (s.portOf die p).isSome = true) : s.canAdvance p = true := by
  simp [State.canAdvance, State.nextPlace, hp, h]

set_option maxRecDepth 20000 in
/-- FabricAndSlack: a packet that may go on and one that may not, within the grid, at its end and out; one that becomes overdue; a tick that
is due and one that is not; a router that sleeps and one that wakes. -/
theorem witness_fabric :
    (fabric (going (.router 1 0) 2 5) id).chosenNext (going (.router 1 0) 2 5) = true
    ∧ (fabric (going (.router 1 0) 2 5) id).nextPlace (going (.router 1 0) 2 5) = some (.router 2 (portFrom true true))
    ∧ (fabric (going (.router 1 0) 1 5) id).nextPlace (going (.router 1 0) 1 5) = some .arrived
    ∧ (fabric (going (.router 1 0) 2 5) fun k => { k with routerOff := true }).chosenNext (going (.router 1 0) 2 5) = false
    ∧ (routed.chosenNext (going (.uet 0) 0x100 5) = true ∧ routed.nextPlace (going (.uet 0) 0x100 5) = none ∧ routed.rivals (going (.uet 0) 0x100 5) = [])
    ∧ (going (.router 1 0) 2 0).slack = 0 ∧ (going (.router 1 0) 2 0).ovd = false ∧ (going (.router 1 0) 2 5).slack ≠ 0
    ∧ (stand thread).net / (16 * 27720) ≤ (stand thread).ticks
    ∧ ({ stand thread with net := 16 * 27720 } : State).ticks < ({ stand thread with net := 16 * 27720 } : State).net / (16 * 27720)
    ∧ ({ stand thread with net := 256 * netCycle } : State).gateDue 1 = true ∧ (stand thread).gateDue 1 = false ∧ (stand thread).wakeDue 1 = false
    ∧ (fabric (going .arrived 2 5) fun k => { k with routerOff := true, routerWake := some 0 }).wakeDue 1 = true := by
  have hr : routed.rivals (going (.uet 0) 0x100 5) = [] := by
    unfold State.rivals
    simp [show routed.packets = [going (.uet 0) 0x100 5] from rfl]
  have hc : routed.chosenNext (going (.uet 0) 0x100 5) = true := by
    unfold State.chosenNext
    rw [hr, leaves_chip _ _ _ rfl routed_port]
    rfl
  and_intros
  all_goals first | decide +kernel | exact hc

/-! Pages that move. -/

def aMove : Move := { id := 9, ctx := 0, va := 0, size := 4096, old := 1, new := 3 }
def askedMove (b : Bool) : Move := { aMove with asked := b }
def aShootdown (l : List Nat) : Shootdown := { id := 9, ctx := 0, va := 0, size := 4096, waits := l }

def moving (n : Nat) (ms : List Move) (ds : List Shootdown) : State := small { stand thread with moves := ms, shootdowns := ds } false 1 n

theorem small_move (s : State) (ro : Bool) (n : Nat) (hm : s.moves = []) (hb : s.bar = (stand thread).bar) (hd : s.links = (stand thread).links) (hr : (s.core 3).retiring = false)
    (hq : s.poison = []) :
    (small s ro 1 n).mayMove 0 0 3 = some (⟨0, ro, 1⟩, 0x180000000) := by
  have h1 : (small s ro 1 n).moves = [] := hm
  have h2 : (small s ro 1 n).bar.chipid = 0 := (congrArg Bar.chipid hb : _)
  have h3 : (small s ro 1 n).dieLost 0 = false := by
    have : (small s ro 1 n).links = (stand thread).links := hd
    unfold State.dieLost
    rw [this]
    decide +kernel
  have h4 : ((small s ro 1 n).core 3).retiring = false := hr
  have h5 : ∀ home, home < 256 → (small s ro 1 n).onChip home = true := fun home hh => by
    simp [State.onChip, h2, Nat.div_eq_of_lt hh]
  unfold State.mayMove
  simp only [small_leaf s ro 1 n (.inl rfl) hq, show coreOfHome 1 = 1 from rfl, show coreOfHome 3 = 3 from rfl, show dieOf 3 = 0 from rfl,
    small_frame s ro 1 n (.inl rfl), h5 1 (by decide), h5 3 (by decide), h1, h3, h4]
  rfl

theorem moving_due (b : Bool) : (moving 6 [askedMove b] []).transferDue (askedMove b) = true
    ∧ (moving 6 [askedMove b] []).oldFrame (askedMove b) = some (0x180000000, 0, true)
    ∧ ∃ t, (moving 6 [askedMove b] []).fromPool 3 0 0 0 true = some (0x30000A, t) := by
  have ho : (moving 6 [askedMove b] []).oldFrame (askedMove b) = some (0x180000000, 0, true) := by
    unfold State.oldFrame moving
    rw [show coreOfHome (askedMove b).old = 1 from rfl, show (askedMove b).ctx = 0 from rfl, show (askedMove b).va = 0 from rfl, small_frame _ _ _ _ (.inl rfl)]
    cases b <;> rfl
  have hp : ∃ t, (moving 6 [askedMove b] []).fromPool 3 0 0 0 true = some (0x30000A, t) := small_some _ _ _ _ rfl
  refine ⟨?_, ho, hp⟩
  obtain ⟨t, ht⟩ := hp
  unfold State.transferDue
  simp only [ho, show coreOfHome (askedMove b).new = 3 from rfl, show (askedMove b).ctx = 0 from rfl, show (askedMove b).va = 0 from rfl, ht]
  rfl

/-- Core 1 gives up its pages. -/
def retiring (ms : List Move) : State := onCore { stand thread with moves := ms, mem := [] } fun k => { k with retiring := true }

theorem retiring_pages : (retiring []).pagesAt 1 = [] := by
  have h : ∀ ctx, (retiring []).frameRoot 1 ctx = none := by
    intro ctx
    rw [frameRoot_of _ _ _ 0 (by
      simp only [tableEntry, Memory.getNat, Memory.getBytes, show (retiring []).mem = [] from rfl, Memory.get_nil]
      decide +kernel)]
    rfl
  unfold State.pagesAt
  rw [List.filter_eq_nil_iff.mpr (by simp [h])]
  rfl

theorem small_other (n ctx : Nat) (h0 : 0 < ctx) (hc : ctx < 65536) (s : State) (ro : Bool) (home : Nat) : (small s ro home n).frameRoot 1 ctx = none := by
  have hp := pool_le
  have hd := directory_lt
  have hm : Config.frameDirectory % 2 ^ 31 < 2 ^ 31 := Nat.mod_lt _ (by decide)
  have key : ∀ j < 8, Memory.get (smallMem ro home n) (directory + 8 * ctx + j) = 0 := by
    intro j hj
    have hx : directory < 0x180000000 := by unfold directory nearBase; omega
    unfold smallMem
    rw [Memory.get_setBytes, if_neg (by omega), Memory.get_setBytes, if_neg (by simp [nextEntry, bytesOfNat]; omega)]
    have b : ∀ k, (bytesOfNat 8 k).length = 8 := fun k => by simp [bytesOfNat]
    simp only [smallTables, List.foldl_cons, List.foldl_nil, Memory.get_setBytes, nextEntry, b]
    repeat rw [if_neg (by omega)]
    rfl
  rw [frameRoot_of _ _ _ 0 (by
    rw [small_mem, show nearBase 1 + Config.frameDirectory % 2 ^ 31 = directory from directory.eq_1.symm]
    simp only [tableEntry, Memory.getNat, Memory.getBytes]
    rw [List.map_congr_left (g := fun _ => 0) fun j hj => key j (List.mem_range.mp hj)]
    decide +kernel)]
  rfl

theorem flatMap_first {α : Type} (f : Nat → List α) (n : Nat) (h : ∀ i, 0 < i → i < n + 1 → f i = []) : (List.range (n + 1)).flatMap f = f 0 := by
  rw [List.range_succ_eq_map, List.flatMap_cons, List.flatMap_eq_nil_iff.mpr, List.append_nil]
  intro x hx
  obtain ⟨i, hi, rfl⟩ := List.mem_map.mp hx
  exact h _ (by omega) (by have := List.mem_range.mp hi; omega)

theorem get_unlisted (m : List Host.Cell) (x : Nat) (h : ∀ c ∈ m, c.1 ≠ x) : Memory.get m x = Memory.rest := by
  induction m with
  | nil => rfl
  | cons c r ih => rw [Memory.get, if_neg (h c (by simp)), ih fun d hd => h d (by simp [hd])]

theorem small_listed : ∀ c ∈ smallTables false 1, c.1 % 4096 < 8 := by decide +kernel

theorem empty_entry (base i : Nat) (hb : base % 4096 = 0) (hi : i < 511) : tableEntry (smallTables false 1) base (i + 1) = 0 := by
  simp only [tableEntry, Memory.getNat, Memory.getBytes]
  rw [List.map_congr_left (g := fun _ => 0) fun j hj => get_unlisted _ _ fun c hc => by
    have := small_listed c hc
    have := List.mem_range.mp hj
    omega]
  rfl

theorem empty_entries (i : Nat) (hi : i < 511) : tableEntry (smallTables false 1) 0x200010000 (i + 1) = 0 ∧ tableEntry (smallTables false 1) 0x200011000 (i + 1) = 0
    ∧ tableEntry (smallTables false 1) 0x200012000 (i + 1) = 0 ∧ tableEntry (smallTables false 1) 0x200013000 (i + 1) = 0 :=
  ⟨empty_entry _ i (by decide) hi, empty_entry _ i (by decide) hi, empty_entry _ i (by decide) hi, empty_entry _ i (by decide) hi⟩

theorem leaves_step (m : List Host.Cell) (a : Nat × Nat) (rest : List (Nat × Nat)) (base va : Nat) (e : DWord) (h0 : tableEntry m base 0 = e) (hv : e.getLsbD 0 = true)
    (h : ∀ i, 0 < i → i < 512 → tableEntry m base i = 0) :
    tableLeaves m (a :: rest) base va = if e.getLsbD 1 then [(va, e)] else tableLeaves m rest (entryNext e) va := by
  obtain ⟨l, sh⟩ := a
  rw [tableLeaves, flatMap_first _ 511]
  · simp only [h0, hv, Bool.not_true, Bool.false_eq_true, if_false, Nat.zero_mod, bne_self_eq_false, Bool.and_false, Nat.zero_mul, Nat.add_zero]
  · intro i hi hn
    simp [h i hi hn]

theorem moving_pages (n : Nat) (s : State) (hb : s.homeId 1 = 1) (hq : s.poison = []) : (small s false 1 n).pagesAt 1 = [(0, 0)] := by
  obtain ⟨-, -, -, -, t1, t2, t3, t4⟩ := small_entries false 1 (.inl rfl)
  have hr : (small s false 1 n).frameRoot 1 0 = some 0x200010000 := by
    rw [frameRoot_of _ _ _ 0x20001001 (by
      have := small_dir false 1 n
      rw [directory.eq_1] at this
      rw [small_mem]
      with_reducible exact this)]
    decide
  have hf : (List.range 65536).filter (fun ctx => ((small s false 1 n).frameRoot 1 ctx).isSome) = [0] := by
    rw [show (65536 : Nat) = 65535 + 1 from rfl, List.range_succ_eq_map, List.filter_cons, hr, if_pos (show (some 0x200010000).isSome = true from rfl), List.filter_eq_nil_iff.mpr]
    intro x hx
    obtain ⟨i, hi, rfl⟩ := List.mem_map.mp hx
    rw [small_other n _ (by omega) (by have := List.mem_range.mp hi; omega)]
    simp
  have z : ∀ i, 0 < i → i < 512 → tableEntry (smallTables false 1) 0x200010000 i = 0 ∧ tableEntry (smallTables false 1) 0x200011000 i = 0
      ∧ tableEntry (smallTables false 1) 0x200012000 i = 0 ∧ tableEntry (smallTables false 1) 0x200013000 i = 0 := by
    intro i h0 hi
    have := empty_entries (i - 1) (by omega)
    rwa [show i - 1 + 1 = i by omega] at this
  have ht : tableLeaves (smallMem false 1 n) radixLevels 0x200010000 0 = [(0, 0x18000013)] := by
    rw [radixLevels, leaves_step _ _ _ _ _ 0x20001101 ((small_at _ _ _ _ _ (by omega) (by omega)).trans t1) (by decide)
        (fun i h0 hi => (small_at _ _ _ _ _ (by omega) (by omega)).trans (z i h0 hi).1), if_neg (by decide), show entryNext 0x20001101 = 0x200011000 by decide,
      leaves_step _ _ _ _ _ 0x20001201 ((small_at _ _ _ _ _ (by omega) (by omega)).trans t2) (by decide)
        (fun i h0 hi => (small_at _ _ _ _ _ (by omega) (by omega)).trans (z i h0 hi).2.1), if_neg (by decide), show entryNext 0x20001201 = 0x200012000 by decide,
      leaves_step _ _ _ _ _ 0x20001301 ((small_at _ _ _ _ _ (by omega) (by omega)).trans t3) (by decide)
        (fun i h0 hi => (small_at _ _ _ _ _ (by omega) (by omega)).trans (z i h0 hi).2.2.1), if_neg (by decide), show entryNext 0x20001301 = 0x200013000 by decide,
      leaves_step _ _ _ _ _ 0x18000013 ((small_at _ _ _ _ _ (by omega) (by omega)).trans t4) (by decide)
        (fun i h0 hi => (small_at _ _ _ _ _ (by omega) (by omega)).trans (z i h0 hi).2.2.2), if_pos (by decide)]
  have hh : (small s false 1 n).homeId 1 = 1 := hb
  unfold State.pagesAt
  rw [hf]
  simp only [List.flatMap_cons, List.flatMap_nil, List.append_nil, hr, small_mem, ht, List.filter_cons, small_leaf s false 1 n (.inl rfl) hq, hh]
  rfl

theorem stand_home : (stand thread).homeId 1 = 1 := by simp [State.homeId, stand, State.withFetchWord, State.reset]

/-- A request to the page at core 2. -/
def strayed : Packet := { packet (.read (access false none)) with home := 2 }

theorem strayed_home : (arrived (.read (access false none))).newHome strayed = some 1 ∧ (arrived (.read (access false none))).newHome { strayed with place := .dfi 0 } = none := by
  refine ⟨?_, rfl⟩
  have h : (arrived (.read (access false none))).homeLeaf 0 (0x403C : BitVec 48).toNat = some ⟨3, false, 1⟩ := (arrived_mapped _).leaf (by decide) (.inl rfl)
  unfold State.newHome
  simp only [show strayed.place = .arrived from rfl, show strayed.body = .read (access false none) from rfl, show strayed.ctx = 0 from rfl, show strayed.home = 2 from rfl,
    show (access false none).waiting = none from rfl, show (access false none).parts.head? = some ⟨0x403C, 7, 5⟩ from rfl, Option.bind_some, h]
  rfl

set_option maxRecDepth 20000 in
/-- PagesMove: a page that may move, a transfer that is due, a shootdown that waits and one that is complete, a grace window that is over and one
that is not, a request that has strayed; a core that begins to retire, one that still has a move, and one with a page and with none. -/
theorem witness_moves : (stand thread).hostUp = true ∧ (moving 0 [] []).mayMove 0 (2 ^ 48 % 2 ^ 48) 1 = none
    ∧ (∀ ro, (small (stand thread) ro 1 0).mayMove 0 (2 ^ 48 % 2 ^ 48) 3 = some (⟨0, ro, 1⟩, 0x180000000))
    ∧ (∀ ro, (small (stand thread) ro 1 0).homeLeaf 0 0 = some ⟨0, ro, 1⟩)
    ∧ State.reset.memOk ∧ (∀ b, (moving 6 [askedMove b] []).moves.find? (fun x => x.id == aMove.id) = some (askedMove b)
      ∧ (moving 6 [askedMove b] []).transferDue (askedMove b) = true
      ∧ (moving 6 [askedMove b] []).oldFrame (askedMove b) = some (0x180000000, 0, true)
      ∧ ∃ t, (moving 6 [askedMove b] []).fromPool 3 0 0 0 true = some (0x30000A, t))
    ∧ (∀ l agent, (moving 0 [] [aShootdown l]).shootReady (aShootdown l) agent = true)
    ∧ ({ moving 0 [] [aShootdown [257]] with ranges := [⟨9, none, 1, 0, 0, 0, true, 0⟩] } : State).shootReady (aShootdown [257]) 257 = false
    ∧ (∀ l, ((moving 0 [] [aShootdown l]).shootdowns.find? fun d => d.id == 9) = some (aShootdown l)) ∧ (259 ∈ (aShootdown [0, 259]).waits ∧ 1 ∉ (aShootdown [0, 259]).waits)
    ∧ (moving 0 [] [aShootdown [259]]).shotDown (aShootdown [259]) = false ∧ (moving 0 [] [aShootdown []]).shotDown (aShootdown []) = true
    ∧ (moving 0 [aMove] []).graceOver aMove = false
    ∧ ({ moving 0 [] [] with net := (stand thread).bar.grace * netCycle } : State).graceOver { aMove with grace := some 0 } = true
    ∧ ((arrived (.read (access false none))).newHome strayed = some 1 ∧ (arrived (.read (access false none))).newHome { strayed with place := .dfi 0 } = none)
    ∧ ((stand thread).core 1).retiring = false ∧ ((stand thread).core 255).retired = false
    ∧ (((retiring []).core 1).retiring = true ∧ ((retiring []).core 1).retired = false ∧ ((retiring []).core 1).spill = []
      ∧ (retiring [{ aMove with id := 9 }]).leaving 1 = true ∧ (retiring []).leaving 1 = false ∧ (retiring []).pagesAt 1 = [])
    ∧ ((small (retiring []) false 1 0).core 1).retiring = true ∧ (small (retiring []) false 1 0).leaving 1 = false
    ∧ (small (retiring []) false 1 0).pagesAt 1 = [(0, 0)] := by
  have hm : ∀ ro, (small (stand thread) ro 1 0).mayMove 0 (2 ^ 48 % 2 ^ 48) 3 = some (⟨0, ro, 1⟩, 0x180000000) := fun ro => small_move _ _ _ rfl rfl rfl rfl rfl
  refine ⟨by decide +kernel, ?_, hm, fun ro => small_leaf _ _ _ _ (.inl rfl) rfl, rfl, fun b => ⟨rfl, moving_due b⟩, fun _ _ => rfl, by decide +kernel,
    fun l => rfl, by decide, by decide +kernel, by decide +kernel, by decide +kernel, by decide +kernel, strayed_home, by decide +kernel, by decide +kernel,
    ⟨by decide +kernel, by decide +kernel, by decide +kernel, ?_, ?_, retiring_pages⟩, by decide +kernel, ?_, ?_⟩
  · have h := small_leaf { stand thread with moves := [], shootdowns := [] } false 1 0 (.inl rfl) rfl
    have hf := small_frame { stand thread with moves := [], shootdowns := [] } false 1 0 (.inl rfl)
    unfold State.mayMove moving
    rw [show 2 ^ 48 % 2 ^ 48 = 0 from rfl]
    simp only [h, hf, show coreOfHome 1 = 1 from rfl]
    rw [if_neg (by simp)]
  · have h : (retiring [{ aMove with id := 9 }]).homeId 1 = 1 := by
      simp [State.homeId, retiring, stand, State.withFetchWord, State.reset, onCore, State.modCore]
    unfold State.leaving
    rw [h]
    decide +kernel
  · decide +kernel
  · decide +kernel
  · exact moving_pages _ _ (by simp [State.homeId, retiring, stand, State.withFetchWord, State.reset, onCore, State.modCore]) rfl

/-- PagesMove: a packet whose page is on its way, one that has come back and one that neither; a needle that has come back; who may retire. -/
theorem witness_rehomes : ((moving 0 [{ aMove with old := 2, size := 2 ^ 30 }] []).moves.any fun m => m.covers strayed.ctx strayed.elem && m.old == strayed.home) = true
    ∧ ((arrived (.read (access false none))).moves.any fun m => m.covers strayed.ctx strayed.elem && m.old == strayed.home) = false
    ∧ (stand thread).resendable strayed = false ∧ (stand thread).resendable { strayed with rehomed := true } = true
    ∧ ({ stand thread with packets := [{ strayed with rehomed := true }] } : State).packet? 9 = some { strayed with rehomed := true }
    ∧ (coming (.notice aLine) id).newHome (packet (.notice aLine)) = none ∧ (coming (.notice aLine) id).resendable (packet (.notice aLine)) = false
    ∧ (stand thread).packet? 9 = none
    ∧ ((onCore (stand thread) fun k => { k with spill := [{ arrivalOf 9 with resend := true }] }).returnedNeedles.find? fun e => e.2.id == 9)
        = some (1, { arrivalOf 9 with resend := true })
    ∧ (stand thread).hostRetires = false ∧ ({ stand thread with bar := { (stand thread).bar with split := 0x100 } } : State).hostRetires = true := by
  decide +kernel

/-- FabricAndSlack: data of the bulk network that reach their core, and the header of a needle with both fibres. -/
theorem witness_bulk : (∃ p, p = { going (.router 1 0) 1 5 with body := .bulk (.command 9) } ∧ (fabric p id).chosenNext p = true
      ∧ (fabric p id).nextPlace p = some .arrived ∧ p.body = .bulk (.command 9))
    ∧ (∃ p n, p = packet (.needle n) ∧ p.ctx < 2 ^ 16 ∧ p.home < 2 ^ 20 ∧ p.src < 2 ^ 20 ∧ n.fibres = [(0, ({} : Fibre)), (1, {})]
      ∧ (∀ e ∈ n.fibres, e.1 < 2) ∧ p.rehomed = false ∧ p.body = .needle n) :=
  ⟨⟨_, rfl, by decide +kernel, by decide +kernel, rfl⟩,
    ⟨_, { aNeedle with fibres := [(0, {}), (1, {})] }, rfl, by decide, by decide, by decide, rfl, by decide, rfl, rfl⟩⟩

/-! Attempts: a lane with a read or write set, and a second one on its line. -/

/-- The key of core 1's scratchpad byte 0x400, and its line. -/
def spotKey : Nat := ref.key 0 3 0x400
def spotLine : Line := ⟨spotKey / 64, 0x400 / 64, 3, 0⟩

def otherLines (n : Nat) : List Line := (List.range n).map fun i => ⟨2 ^ 50 + i, i, 3, 0⟩

/-- A lane in an attempt of an age, with lines read and written. -/
def trying (tid : Nat) (cycle : Nat) (reads : List Line) (writes : List TxWrite) : Hart :=
  { placedHart tid .zeroX .running with tx := { depth := 1, reads, writes, age := some ⟨cycle, 1, 0, 0⟩ } }

/-- The lane beside a second attempt, in lane 1 of its wave. -/
def duel (h other : Hart) : State :=
  (near h).modCore 1 fun k => { k with waves := k.waves.modify 0 fun v => { v with lanes := v.lanes.set 1 other } }

def rival (cycle : Nat) : Hart := trying 3 cycle [] [⟨spotLine, spotKey + 1, 7, false⟩]

/-- LoadsDeliver inside an attempt, near memory: an own write stands over the byte read; the other attempt is older, or younger;
a read set that is full, with the line in it and without; a poisoned byte. -/
theorem witness_attemptLoads :
    (∀ h ∈ [trying 2 5 [] [⟨spotLine, spotKey, 9, false⟩], trying 2 5 (otherLines 64) [], trying 2 5 (spotLine :: otherLines 63) []],
      (near h).oneLane ref h ∧ h.takes g0 = true ∧ (near h).sampleTag g0 = (none, near h) ∧ h.tx.depth ≠ 0
      ∧ (∃ q, loadForm (near h) ref h g0 (.ld g0 5 1 (.lit 0) none false 0) q ∧ q.bolt.space ≠ 0 ∧ q.bolt.width = 1
        ∧ (near h).elems ref q.bolt .load q.ix q.n = .ok [some 0x400]
        ∧ (near h).locate ref h q.bolt.space 0x400 q.bolt.width false q.sl q.sx = (some (.bank spotLine spotKey), near h)
        ∧ rivals (near h) h spotLine.phys false = [] ∧ h.tx.reads.length ≤ 64))
    ∧ (trying 2 5 [] [⟨spotLine, spotKey, 9, false⟩]).tx.byteAt spotKey (0, false) = (9, false)
    ∧ (addLine (otherLines 64) spotLine).length = 65 ∧ (addLine (spotLine :: otherLines 63) spotLine).length = 64
    ∧ (∀ c ∈ [4, 6], rivals (duel (trying 2 5 [] []) (rival c)) (trying 2 5 [] []) spotLine.phys false = [(⟨1, .wave 0 1, 3⟩, rival c)]
      ∧ (duel (trying 2 5 [] []) (rival c)).locate ref (trying 2 5 [] []) 3 0x400 1 false 0 false
        = (some (.bank spotLine spotKey), duel (trying 2 5 [] []) (rival c)))
    ∧ (rival 4).older (trying 2 5 [] []) = true ∧ (rival 6).older (trying 2 5 [] []) = false := by
  refine ⟨?_, by decide +kernel, by decide +kernel, by decide +kernel, ?_, by decide +kernel, by decide +kernel⟩
  · intro h hm
    simp only [List.mem_cons, List.not_mem_nil, or_false] at hm
    rcases hm with rfl | rfl | rfl <;>
      exact ⟨near_one _ rfl rfl, rfl, rfl, by decide, _, .inl ⟨_, _, _, _, _, _, rfl, by decide +kernel, rfl⟩, by decide +kernel, by decide +kernel, rfl,
        rfl, by decide +kernel, by decide +kernel⟩
  · intro c hc
    simp only [List.mem_cons, List.not_mem_nil, or_false] at hc
    rcases hc with rfl | rfl <;> exact ⟨by decide +kernel, rfl⟩

/-- A poisoned byte under an attempt, at a clause boundary that takes the record. -/
theorem witness_attemptPoison :
    let h := trying 2 5 [] []
    let s : State := { near h with poison := [granule spotKey] }
    s.oneLane ref h ∧ s.elems ref (boltN 1) .load 0 1 = .ok [some 0x400]
      ∧ s.locate ref h 3 0x400 1 false 0 false = (some (.bank spotLine spotKey), s) ∧ rivals s h spotLine.phys false = []
      ∧ (h.tx.byteAt spotKey (Memory.get s.mem spotKey, s.poison.contains (granule spotKey))).2 = true
      ∧ s.safePoint ref.core (s.ctxOf ref) h.pc h.clause h.pos ≠ (true, none) := by
  exact ⟨⟨rfl, rfl, 0, rfl, rfl⟩, rfl, rfl, by decide +kernel, by decide +kernel, by decide +kernel⟩

/-- LoadsDeliver and PlainStoresBaste inside an attempt on a page of the core itself. -/
theorem witness_attemptPage : (page (withTx 1) false 1).oneLane ref (withTx 1)
    ∧ (∃ q, loadForm (page (withTx 1) false 1) ref (withTx 1) g0 (.ld g0 5 6 (.lit 15) none false 0) q ∧ q.bolt.space = 0
      ∧ (withTx 1).tx.depth ≠ 0 ∧ (withTx 1).tstate.trapped = false
      ∧ (page (withTx 1) false 1).elems ref q.bolt .load q.ix q.n = .ok [some 0x403C]
      ∧ (∃ locs s', (page (withTx 1) false 1).locateAll ref (withTx 1) q.bolt.space q.bolt.width false q.sl q.sx [some 0x403C] = (some locs, s')))
    ∧ (∃ q, storeForm (page (withTx 1) false 1) ref (withTx 1) g0 (.st g0 6 (.lit 15) (.reg 62) none false 0) q ∧ q.bolt.space = 0
      ∧ (page (withTx 1) false 1).elems ref q.bolt .store q.ix q.n = .ok [some 0x403C]
      ∧ (∃ locs s', (page (withTx 1) false 1).locateAll ref (withTx 1) q.bolt.space q.bolt.width true q.sl q.sx [some 0x403C] = (some locs, s'))) := by
  have p := page_on (withTx 1) false 1 rfl
  have e := page_pinned (withTx 1) false 1 rfl rfl
  exact ⟨page_one _ _ _ rfl rfl, ⟨_, .inl ⟨_, _, _, _, _, _, rfl, by decide +kernel, rfl⟩, by decide +kernel, by decide, rfl, rfl,
      ⟨_, _, p.locateAll false e [some 0x403C] (by simp)⟩⟩,
    ⟨_, .inl ⟨_, _, _, _, _, _, rfl, by decide +kernel, rfl⟩, by decide +kernel, rfl, ⟨_, _, p.locateAll true e [some 0x403C] (by simp)⟩⟩⟩

/-- A write set of n other lines. -/
def filled (n : Nat) : Hart := trying 2 5 [] ((otherLines n).map fun l => ⟨l, l.phys * 64, 1, false⟩)

/-- PlainStoresBaste inside an attempt, near memory: the write set has room for the 16th line and none for a 17th; a younger
attempt on the line, and an older one. -/
theorem witness_attemptStores :
    (∀ n ∈ [15, 16], (near (filled n)).oneLane ref (filled n) ∧ (filled n).tx.wlines.length = n
      ∧ (∃ q, storeForm (near (filled n)) ref (filled n) g0 (.st g0 1 (.lit 0) (.reg 62) none false 0) q ∧ q.bolt.space ≠ 0
        ∧ (near (filled n)).elems ref q.bolt .store q.ix q.n = .ok [some 0x400]
        ∧ (∃ locs s', (near (filled n)).locateAll ref (filled n) q.bolt.space q.bolt.width true q.sl q.sx [some 0x400] = (some locs, s')
          ∧ ∀ l a, some (l, a) ∈ locs → l = .bank spotLine spotKey ∧ rivals s' (filled n) l.line.phys true = [])))
    ∧ ({ (filled 15).tx with writes := (filled 15).tx.writes ++ [⟨spotLine, spotKey, 0, false⟩] } : Tx).wlines.length = 16
    ∧ ({ (filled 16).tx with writes := (filled 16).tx.writes ++ [⟨spotLine, spotKey, 0, false⟩] } : Tx).wlines.length = 17
    ∧ (∀ c ∈ [4, 6], rivals (duel (trying 2 5 [] []) (rival c)) (trying 2 5 [] []) spotLine.phys true = [(⟨1, .wave 0 1, 3⟩, rival c)]
      ∧ (duel (trying 2 5 [] []) (rival c)).locate ref (trying 2 5 [] []) 3 0x400 1 true 0 false
        = (some (.bank spotLine spotKey), duel (trying 2 5 [] []) (rival c))) := by
  refine ⟨?_, by decide +kernel, by decide +kernel, ?_⟩
  · intro n hn
    simp only [List.mem_cons, List.not_mem_nil, or_false] at hn
    rcases hn with rfl | rfl <;> refine ⟨near_one _ rfl rfl, by decide +kernel, _, .inl ⟨_, _, _, _, _, _, rfl, by decide +kernel, rfl⟩, by decide +kernel, rfl,
      _, _, rfl, ?_⟩ <;> (intro l a h; simp only [List.mem_cons, List.not_mem_nil, or_false, Option.some.injEq, Prod.mk.injEq] at h
                          obtain ⟨rfl, rfl⟩ := h; exact ⟨by decide +kernel, by decide +kernel⟩)
  · intro c hc
    simp only [List.mem_cons, List.not_mem_nil, or_false] at hc
    rcases hc with rfl | rfl <;> exact ⟨by decide +kernel, rfl⟩

/-- The thread inside a trap. -/
abbrev inTrap : Hart := { thread with tstate := { thread.tstate with trapped := true } }

/-- LoadsDeliver and PlainStoresBaste at TRAPPED = 1: a page that lives elsewhere, two elements, and three of which one is suppressed. -/
theorem witness_requests : (page inTrap false 3).oneLane ref inTrap ∧ inTrap.takes g0 = true
    ∧ (∃ q, loadForm (page inTrap false 3) ref inTrap g0 (.ldq g0 8 6 (.lit 14) 2 none false 0) q ∧ q.bolt.space = 0
      ∧ (page inTrap false 3).elems ref q.bolt .load q.ix q.n = .ok [some 0x4038, some 0x403C])
    ∧ (∃ q, storeForm (page inTrap false 3) ref inTrap g0 (.stq g0 6 (.lit 14) (.reg 60) 3 none false 0) q ∧ q.bolt.space = 0
      ∧ (page inTrap false 3).elems ref q.bolt .store q.ix q.n = .ok [some 0x4038, some 0x403C, none])
    ∧ (∀ b, ∃ leaf s', (page inTrap false 3).walk ref inTrap 0x4038 b = (some leaf, s') ∧ leaf.home = 3)
    ∧ ((page inTrap false 3).homeLeaf ((page inTrap false 3).ctxOf ref) 0x403C).isSome = true := by
  have c : (page inTrap false 3).ctxOf ref = 0 := (page_on inTrap false 3 rfl).ctx
  exact ⟨page_one _ _ _ rfl rfl, rfl, ⟨_, .inr (.inl ⟨_, _, _, _, _, _, _, rfl, by decide +kernel, rfl⟩), by decide +kernel, rfl⟩,
    ⟨_, .inr ⟨_, _, _, _, _, _, _, rfl, by decide +kernel, rfl⟩, by decide +kernel, rfl⟩,
    fun b => ⟨_, _, page_walk inTrap false 3 _ b (by omega) rfl, rfl⟩,
    by rw [c, (page_mapped inTrap false 3).leaf (by omega) (.inr rfl)]; rfl⟩

/-! Floats, conversions, one lane beside another. -/

theorem one_read : readF .f32 false 0x3F800000 = .fin false 8388608 (-23) := by decide

/-- FloatSpecialOperands: what its clauses ask of a second and a third operand, in each format. -/
theorem witness_specials : (Fmt.f16 ∈ floatFmts ∧ Fmt.e4m3 ∉ floatFmts) ∧ isFinite (readF .f32 false 0x3F800000) ∧ nonzero (readF .f32 false 0xBF800000) true
    ∧ nonzero (readF .bf16 false 0x7F80) false ∧ (∃ k e, readF .f16 false 0x3C00 = .fin false (k + 1) e) ∧ isZero (readF .f16 false 0x8000) true
    ∧ readF .f16 false 0x7C00 = .inf false ∧ readF .f16 false 0xFC00 = .inf (!false) ∧ readF .bf16 false 0xFFC0 = .nan
    ∧ (readF .f32 false 0x3F800000 ≠ .nan ∧ ∀ n m, ¬(isZero (readF .f32 false 0x3F800000) n ∧ readF .f32 false 0x3F800000 = .inf m)
        ∧ ¬(readF .f32 false 0x3F800000 = .inf m ∧ isZero (readF .f32 false 0x3F800000) n))
    ∧ (∃ i < 4, readF .e4m3 false (0x7F00 / 2 ^ (8 * i) % 2 ^ 8) = .nan) ∧ (∀ i < 2, readF .f16 false (0x7C003C00 / 2 ^ (16 * i) % 2 ^ 16) ≠ .nan)
    ∧ (readF .f16 false (0x7C003C00 / 2 ^ (16 * 1) % 2 ^ 16) = .inf false ∧ isZero (readF .f16 false (0x00003C00 / 2 ^ (16 * 1) % 2 ^ 16)) false) :=
  ⟨by decide, ⟨_, _, _, rfl⟩, .inr ⟨_, _, rfl⟩, .inl rfl, ⟨_, _, rfl⟩, ⟨_, rfl⟩, by decide, by decide, by decide,
    ⟨by decide, fun n m => ⟨fun h => (absurd h.2 (by rw [one_read]; exact nofun)), fun h => (absurd h.1 (by rw [one_read]; exact nofun))⟩⟩, ⟨1, by decide⟩, by decide, by decide, ⟨_, rfl⟩⟩

/-- The finite values of a pattern, as reals. -/
theorem real_three : realOf (readF .f32 false 0x40400000) = 3 := by
  rw [show readF .f32 false 0x40400000 = .fin false 12582912 (-22) by decide]; norm_num [realOf]
theorem real_eight : realOf (readF .f32 false 0x41000000) = 8 := by
  rw [show readF .f32 false 0x41000000 = .fin false 8388608 (-20) by decide]; norm_num [realOf]
theorem real_half : realOf (readF .f32 false 0xBFC00000) = -3 / 2 := by
  rw [show readF .f32 false 0xBFC00000 = .fin true 12582912 (-23) by decide]; norm_num [realOf]

/-- FloatRoundsExactValue: finite operands that differ, an integer, a power of two, a multiple of a half, a zero, and each kind of
conversion: to a floating format, scaled or not, to an integer from a floating value and between integers. -/
theorem witness_rounds : (isFinite (readF .f32 false 0x40400000) ∧ isFinite (readF .f32 false 0x41000000))
    ∧ realOf (readF .f32 false 0x40400000) < realOf (readF .f32 false 0x41000000) ∧ 0 < realOf (readF .f32 false 0x40400000)
    ∧ realOf (readF .f32 false 0x40400000) ≠ 0 ∧ realOf (readF .f32 false 0x40400000) = (3 : ℤ) ∧ realOf (readF .f32 false 0x41000000) = 2 ^ (3 : ℤ)
    ∧ 2 * realOf (readF .f32 false 0xBFC00000) = (-3 : ℤ) ∧ realOf (readF .f32 false 0) = 0
    ∧ (∀ i < 4, isFinite (readF .e4m3 false (0x38383838 / 2 ^ (8 * i) % 2 ^ 8)))
    ∧ (∃ k : Conv, k.df.isFloat = true ∧ isFinite (k.value 5) ∧ k.sf = .i32)
    ∧ (∃ k : Conv, k.df.isFloat = false ∧ k.sf.isInt = false ∧ k.value 0x7F800000 = .inf false ∧ k.value 0x7FC00000 = .nan ∧ isFinite (k.value 0x40400000))
    ∧ (∃ k : Conv, k.df.isFloat = false ∧ k.scaled = true ∧ k.quant = true)
    ∧ (∃ k : Conv, k.df.isFloat = false ∧ k.sf.isInt = true ∧ k.df.isInt = true ∧ k.scaled = false) := by
  rw [real_three, real_eight, real_half]
  refine ⟨⟨⟨_, _, _, rfl⟩, ⟨_, _, _, rfl⟩⟩, by norm_num, by norm_num, by norm_num, by norm_num, by norm_num, by norm_num, ?_, ?_,
    ⟨{ df := .f16, sf := .i32 }, rfl, ⟨_, _, _, rfl⟩, rfl⟩, ⟨{ df := .i32, sf := .f32 }, rfl, rfl, by decide, by decide, ⟨_, _, _, rfl⟩⟩,
    ⟨{ df := .i8, sf := .f32, scaled := true, quant := true }, rfl, rfl, rfl⟩, ⟨{ df := .i8, sf := .i32 }, rfl, rfl, rfl, rfl⟩⟩
  · rw [show readF .f32 false 0 = .fin false 0 (-149) by decide]; norm_num [realOf]
  · intro i hi
    interval_cases i <;> exact ⟨_, _, _, rfl⟩

set_option maxRecDepth 20000 in
/-- StepKeepsMemoryCanonical, LaneChangeFrame: a state with canonical memory that steps; two threads of one wave. -/
theorem witness_steps : (stand thread).memOk ∧ (∃ t, step { State.reset with inputs := [.dispatch] } = .next t) ∧ State.reset.memOk
    ∧ (duel thread (rival 4)).hart? ref = some thread ∧ (duel thread (rival 4)).hart? ⟨1, .wave 0 1, 3⟩ = some (rival 4)
    ∧ ((⟨1, .wave 0 1, 3⟩ : Ref).core, (⟨1, .wave 0 1, 3⟩ : Ref).agent) ≠ (ref.core, ref.agent) :=
  ⟨by unfold State.memOk; decide +kernel, ⟨_, rfl⟩, rfl, rfl, rfl, by decide⟩

/-- JoinWaitRepCut: a REP of 64 and of 65, one that has no step left and one that has; a lane with a stop pending. -/
theorem witness_rep : (∃ c : BitVec 16, c.toNat = 64 ∧ ¬64 < c.toNat) ∧ (∃ c : BitVec 16, 64 < c.toNat)
    ∧ ((5 : Nat) ≤ ({ thread with repstep := 5 } : Hart).repstep.toNat ∧ ¬(6 : Nat) ≤ ({ thread with repstep := 5 } : Hart).repstep.toNat)
    ∧ (({ thread with preemptDue := true } : Hart).preemptDue = true ∧ thread.tstate.trapped = false) :=
  ⟨⟨64, by decide⟩, ⟨65, by decide⟩, by decide, rfl, rfl⟩

/-- Transactions: a status word with every field at its last value. -/
theorem witness_status : (∃ h : Hart, h = { filled 16 with tx := { (filled 16).tx with depth := 7, reads := otherLines 64, cause := .nesting, code := 0xFF } }
      ∧ (near h).oneLane ref h ∧ h.takes g0 = true ∧ h.tx.depth < 8 ∧ h.tx.reads.length ≤ 64 ∧ 64 ≤ h.tx.reads.length
      ∧ h.tx.wlines.length ≤ 16 ∧ 16 ≤ h.tx.wlines.length)
    ∧ (withTx 7).tx.depth = 7 ∧ ((withTx 6).tx.depth ≠ 0 ∧ (withTx 6).tx.depth ≠ 7 ∧ (withTx 6).tstate.trapped = false) :=
  ⟨⟨_, rfl, near_one _ rfl rfl, rfl, by decide, by decide +kernel, by decide +kernel, by decide +kernel, by decide +kernel⟩, rfl, by decide⟩

/-- BarrierObjects: an arrival with count 0, counts at 2^16 - 1, and bytes at the ends of their range. -/
theorem witness_barrierEnds : ((⟨0, 0, 0, 0, false⟩ : Barrier).latched = false ∧ (0 : Nat) = 0)
    ∧ (∃ a : Barrier, a.latched = false ∧ 65535 = a.arrived + 1 ∧ 65535 < 2 ^ 16 ∧ a.pendb = 0 ∧ 1 ≠ a.arrived + 1 ∧ a.arrived + 1 < 2 ^ 16)
    ∧ (∃ a : Barrier, a.latched = true ∧ 65535 = a.expect ∧ a.arrived + 1 = a.expect)
    ∧ (∃ a : Barrier, a.latched = true ∧ a.expect ≤ a.arrived)
    ∧ (∃ a : Barrier, a.expect < 2 ^ 16 ∧ a.arrived < 2 ^ 16 ∧ a.gen < 2 ^ 16 ∧ -2 ^ 23 ≤ a.pendb ∧ a.pendb < 2 ^ 23 ∧ a.pendb + (-1) < -2 ^ 23) :=
  ⟨⟨rfl, rfl⟩, ⟨⟨0, 65534, 0, 0, false⟩, by decide⟩, ⟨⟨65535, 65534, 0, 0, true⟩, by decide⟩, ⟨⟨2, 2, 0, 0, true⟩, by decide⟩,
    ⟨⟨65535, 65535, 65535, -2 ^ 23, true⟩, by decide⟩⟩

/-- SystemRegisters: the last index of each indexed register, and the one behind it. -/
theorem witness_indices : (∃ q, sysReg? false 0x20 = some q ∧ q.legal 124 = true ∧ q.legal 128 = false)
    ∧ (∃ q, sysReg? true 0x44 = some q ∧ q.legal 125 = true ∧ q.legal 128 = false)
    ∧ (∃ q, sysReg? true 0x43 = some q ∧ q.legal 127 = true ∧ q.legal 128 = false)
    ∧ (∃ q, sysReg? true 0x4A = some q ∧ q.legal 15 = true ∧ q.legal 16 = false)
    ∧ (∃ q, sysReg? false 0x0B = some q ∧ q.legal 6 = true ∧ q.legal 7 = false)
    ∧ (∃ q, sysReg? false 0x21 = some q ∧ q.legal 2 = true ∧ q.legal 3 = false)
    ∧ (∃ q, sysReg? true 0x41 = some q ∧ q.legal 2 = true ∧ q.legal 3 = false) :=
  ⟨⟨_, rfl, by decide⟩, ⟨_, rfl, by decide⟩, ⟨_, rfl, by decide⟩, ⟨_, rfl, by decide⟩, ⟨_, rfl, by decide⟩, ⟨_, rfl, by decide⟩, ⟨_, rfl, by decide⟩⟩

/-! The host, bring-up and power. -/

/-- The machine with words of its slot's bank, and its slot. -/
def slotOf (words pending : KMap DWord) (frozen : Bool) : Slot :=
  { ctx := 0, bobbin, slackTab := Vector.replicate 8 0xFFF, qcount := 24000, bank := words, ctlPending := pending, frozen }
def banks (words : KMap DWord) : State := onCore (stand thread) fun k => { k with slots := [(0, slotOf words [] false)] }

/-- A parked thread. -/
abbrev debugThread : Hart := { thread with status := .debug { cause := .debugStop } }

def aSample (waits : Nat) : Sample := ⟨4, 1, 0, 0, 0, false, 0x21, 0, 0, waits, 64⟩

/-- HostAndDebugger: a slot that is there and one that is not; words of each scope and access, with tracing on and off; expert
control of function 5 given and not; a parked lane and none; a core of 256; a sample whose results have come. -/
theorem witness_host : (banks []).hostUp = true ∧ State.reset.hostUp = false ∧ (banks []).slot? 1 0 = some (slotOf [] [] false) ∧ (banks []).slot? 1 3 = none
    ∧ ((ctrWord? 0x3F).map CtrWord.core ≠ some true) ∧ (ctrWord? 0x37 = none ∧ ctrWord? 0xC0 = none)
    ∧ (∃ w, ctrWord? 0x40 = some w ∧ w.core = false ∧ w.sysWrite = false) ∧ (∃ w, ctrWord? 0x41 = some w ∧ w.core = false ∧ w.sysWrite = true)
    ∧ ((slotOf [(0x32, 1)] [] false).traceShut 0x35 = true ∧ (slotOf [] [] false).traceShut 0x33 = false ∧ (slotOf [(0x32, 1)] [] false).traceShut 0x36 = false)
    ∧ (({ stand thread with bar := { (stand thread).bar with split := 0x800 } } : State).expert 5 = true ∧ (stand thread).expert 5 = false)
    ∧ ((slotOf [] [(0x32, 1)] false).ctlPending = [(0x32, 1)] ∧ (1 : DWord).getLsbD 0 = true ∧ (2 : DWord).getLsbD 0 = false)
    ∧ (banks []).debugged 1 0 = [] ∧ (stand debugThread).debugged 1 0 = [ref] ∧ (stand debugThread).hart? ref = some debugThread
    ∧ (stand debugThread).hostUp = true ∧ 255 < 256
    ∧ ([aSample 0].find? fun e => e.id == 4 && e.waits == 0) = some (aSample 0) := by decide +kernel

/-- HostAndDebugger: a sample hoop with room, one with none and one that is not there. -/
theorem witness_sampleHoop : (∃ h, h = (hooped (aHoop 0 0 0 4 0) []).hoop 1 0 3 ∧ h.valid = true ∧ 32 ≤ h.ent ∧ h.allow ≠ 0)
    ∧ ((hooped (aHoop 0 0 0 4 0) []).core 1).allocs.any (fun a => a.1 == 0 && a.2.cspb != 0) = true
    ∧ ((hooped (aHoop 0 0 0 0 0) []).hoop 1 0 3).allow = 0 ∧ ((near thread).hoop 1 0 3).valid = false :=
  ⟨⟨_, rfl, by decide +kernel⟩, rfl, by decide +kernel, by decide +kernel⟩

/-- HostAndDebugger: a machine that runs, and machines in bring-up, in recovery and stopped; a slot that counts and a frozen one. -/
theorem witness_cycles : ((stand thread).bar.stage = 7 ∧ (stand thread).bar.fail = false ∧ (stand thread).power.stopped = false)
    ∧ State.reset.bar.stage ≠ 7 ∧ (State.reset.recovery 3 0).bar.fail = true
    ∧ (∃ q : Slot, q.seeds.get? 0 = some 5 ∧ q.frozen = false ∧ q.pending = [] ∧ q.ctlPending = [])
    ∧ ((slotOf [(3, 9)] [(3, 2 ^ 48)] true).frozen = true ∧ (slotOf [(3, 9)] [(3, 2 ^ 48)] true).pending = []
      ∧ (slotOf [(3, 9)] [(3, 2 ^ 48)] true).ctlPending = [(3, 2 ^ 48)] ∧ (2 ^ 48 : DWord).getLsbD 48 = true ∧ (5 : DWord).getLsbD 48 = false ∧ 3 < 0x1F)
    ∧ ((slotOf [] [] true).frozen = true ∧ (slotOf [] [] true).ctlPending = []) :=
  ⟨⟨rfl, rfl, rfl⟩, by decide, rfl, ⟨{ ctx := 0, bobbin, seeds := [(0, 5)] }, rfl, rfl, rfl, rfl⟩, by decide, rfl, rfl⟩

/-- The device that waits for GO, with ports enabled and without, and with a failure that stage 6 meets. -/
def waiting (ports : Vector (BitVec 18) 36) (fails : Option Nat) : State :=
  { stand thread with bar := { (stand thread).bar with stage := 5, waitgo := true, go := false, ports, signFails := fails } }
def noPorts : Vector (BitVec 18) 36 := Vector.replicate 36 1000
def onePort (w : BitVec 18) : Vector (BitVec 18) 36 := noPorts.set 35 w
/-- The same device after GO, which trains port 35. -/
def training (w : BitVec 18) (split : BitVec 14) : State :=
  { stand thread with bar := { (stand thread).bar with stage := 5, training := [35], ports := onePort w, split } }
def emptyDevice : State := { stand thread with cores := [] }

/-- An image whose signature is nothing. -/
def badImage : Image := { body := [], version := 0, keyX := 0, keyY := 0, r := 0, s := 0 }

theorem bad_image : imageAccepted badImage = false := by
  have h : Crypto.verify 0 0 0 0 (imageHash badImage) = false := by simp [Crypto.verify]
  simp only [imageAccepted, show badImage.keyX = 0 from rfl, show badImage.keyY = 0 from rfl, show badImage.r = 0 from rfl, show badImage.s = 0 from rfl, h,
    Bool.and_false, Bool.false_and]

/-- BringUpAndPower: every stage and link outcome; an image that is refused, and none; GO before and after it, with and without
ports, with and without a failure at stage 6; DUTY with a slot held and with none. -/
theorem witness_bringup : ([badImage].takeWhile imageAccepted).length < [badImage].length ∧ ([] : List Image).takeWhile imageAccepted = []
    ∧ (∃ links : List Nat, ∃ i < 4, links.getD i 4 < 2 ∧ ∀ j < i, 2 ≤ links.getD j 4) ∧ (∀ i < 4, 2 ≤ ([2, 4, 3, 4] : List Nat).getD i 4)
    ∧ ((waiting noPorts none).bar.waitgo = true ∧ (waiting noPorts none).dutyUp = true ∧ (waiting noPorts none).power.stopped = false
      ∧ (stand thread).bar.waitgo = false)
    ∧ (waiting (onePort 1002) none).bar.enabled ≠ [] ∧ ((waiting noPorts none).bar.stage = 5 ∧ (waiting noPorts none).bar.enabled = []
      ∧ (waiting noPorts none).bar.signFails = none ∧ (waiting noPorts (some 3)).bar.signFails = some 3)
    ∧ ((stand thread).slotHeld = true ∧ (stand thread).dutyUp = true ∧ emptyDevice.slotHeld = false ∧ emptyDevice.bar.stage = 7
      ∧ emptyDevice.bar.fail = false ∧ (5 : BitVec 14) ≠ emptyDevice.bar.split)
    ∧ (∃ s : State, s.bar.splitNext = some 5) ∧ (State.reset.recovery 3 0).dutyUp = true ∧ (State.reset.recovery 3 0).bar.fail = true := by
  refine ⟨by simp [List.takeWhile, bad_image], rfl, ⟨[4, 1], 1, by decide⟩, by decide, by decide +kernel, by decide +kernel, by decide +kernel, by decide +kernel,
    ⟨{ State.reset with bar := { State.reset.bar with splitNext := some 5 } }, rfl⟩, rfl, rfl⟩

/-- BringUpAndPower: words before and after GO, at the ends of their ranges, a link of four, ports that may train and may not, with
and without the host, the last port that stage 5 trains, and a chip that no port reaches. -/
theorem witness_ports : (stand thread).hostUp = true ∧ (stand thread).bar.go = true ∧ (waiting noPorts none).bar.go = false ∧ (waiting noPorts none).hostUp = true
    ∧ (256 : Nat) ∈ [16, 32, 64, 128, 256] ∧ (({ stand thread with bar := { (stand thread).bar with split := 2 } } : State).expert 0 = true
      ∧ 4096 ≤ 2 ^ 24) ∧ (stand thread).expert 0 = false ∧ 63 < 64 ∧ (3 < 4 ∧ 35 < 36)
    ∧ ((0 : Nat) + ([1, 2] : List (BitVec 8)).length ≤ windowBytes ∧ (stand thread).bar.w2base + 0 + ([1, 2] : List (BitVec 8)).length ≤ 2 ^ 40
      ∧ (stand thread).posted = [])
    ∧ ((training 1002 0).mayTrain 35 = true ∧ (training 1002 0).bar.stage = 5 ∧ (training 1002 0).bar.waitgo = false ∧ (training 1002 0).bar.training = [35]
      ∧ (training 1002 0).bar.signFails = none) ∧ (training 1000 0).mayTrain 35 = false ∧ (training 1002 0x40).mayTrain 35 = false
    ∧ (routed.portLost 0 1 = false ∧ (fabric (going (.uet 0) 0x100 5) id).portLost 0 1 = true)
    ∧ ((stand thread).bar.stage = 7 ∧ (List.replicate 32 (7 : BitVec 8)).length = 32 ∧ 65535 < 65536)
    ∧ ((stand thread).cap < 2401 ∧ 2000 * 100 < (stand thread).cap * 95 ∧ 2000 ≤ (stand thread).cap ∧ (stand thread).cap * 95 ≤ 2400 * 100
      ∧ 2400 ≤ (stand thread).cap ∧ (stand thread).power.stopped = false) := by
  have hw : 2 ^ 30 ≤ windowBytes := by unfold windowBytes; exact Nat.pow_le_pow_right (by omega) (by omega)
  refine ⟨by decide, rfl, rfl, by decide +kernel, by decide, ⟨by decide, by decide⟩, by decide +kernel, by decide, by decide, ⟨?_, by decide +kernel, rfl⟩,
    by decide +kernel, by decide +kernel, by decide +kernel, ⟨by decide +kernel, by decide +kernel⟩, by decide +kernel, by decide +kernel⟩
  simp only [List.length_cons, List.length_nil]
  omega

/-! Two lanes, stops at a JOIN, seams, hoops and what else several lanes or rare states need. -/

/-- A second thread of the wave, and the placed thread and it in lanes 0 and 1, of two logical lanes of one fragment; both issue. -/
def second : Hart := { thread with tid := 3, ordinal := 1 }
def pair (a b : Hart) : State :=
  { onCore (near thread) fun k => { k with waves := k.waves.modify 0 fun v => { v with lanes := [(0, a), (1, b)] } } with
    launches := [(0, { placedLaunch with threads := 2, live := 2 })], cur := { core := 1, lanes := [0, 1], nextPc := 0x48, nextPos := 1, count := 2 } }

/-- InputsComeFirst: a machine that has shut down, and the input that it heeds. -/
theorem witness_shutdown : ({ State.reset with power := { State.reset.power with stopped := true }, inputs := [.dispatch] } : State).power.stopped = true
    ∧ (∀ a b c d, Instr.dispatch ≠ .powerOn a b c d) ∧ isWord (.powerOn 0 0 [] []) = false ∧ ∃ a b c d, Instr.powerOn 0 0 [] [] = .powerOn a b c d :=
  ⟨rfl, fun _ _ _ _ h => (nomatch h), rfl, ⟨_, _, _, _, rfl⟩⟩

/-- FloatSpecialOperands: products that are infinite with either sign, and operands that are neither NaN nor invalid. -/
theorem witness_infinities : infTerm (readF .f16 false 0x7C00) (readF .f16 false 0xBC00) true ∧ infTerm (readF .f16 false 0xBC00) (readF .f16 false 0xFC00) false
    ∧ readF .f32 false 0x3F800000 ≠ .nan ∧ readF .f16 false 0x7C00 ≠ .nan ∧ readF .f16 false 0xBC00 ≠ .nan ∧ ¬isZero (readF .f16 false 0xBC00) true
    ∧ ¬infTerm (readF .f16 false 0x7C00) (readF .f16 false 0xBC00) false :=
by
  have ha : readF .f16 false 0x7C00 = .inf false := by decide
  have hb : readF .f16 false 0xBC00 = .fin true 1024 (-10) := by decide
  have hc : readF .f16 false 0xFC00 = .inf true := by decide
  rw [ha, hb, hc]
  refine ⟨⟨false, true, rfl, .inl ⟨rfl, .inr ⟨1023, -10, rfl⟩⟩⟩, ⟨true, true, rfl, .inr ⟨.inr ⟨1023, -10, rfl⟩, rfl⟩⟩, by decide, by decide, by decide,
    by simp [isZero], ?_⟩
  rintro ⟨k, l, hk, ⟨h1, h2⟩ | ⟨-, h2⟩⟩
  · cases h1
    rcases h2 with h2 | ⟨_, _, h2⟩
    · cases h2
    · cases h2; cases hk
  · cases h2

/-- BitPlanesAndAlignment: elements of each kind that F8ALGN tells apart: a NaN, zero, and one at, above and below the exponent. -/
theorem witness_alignment : ¬isFinite (decodeF .e4m3 0x7F) ∧ realOf (decodeF .e4m3 0) = 0 ∧ (isFinite (decodeF .e4m3 0x38) ∧ realOf (decodeF .e4m3 0x38) = 1)
    ∧ exponentOf .e4m3 (decodeF .e4m3 0x38) = 0 := by
  have h : realOf (decodeF .e4m3 0x38) = 1 := by
    rw [show decodeF .e4m3 0x38 = .fin false 8 (-3) by decide +kernel]
    simp only [realOf]
    norm_num
  refine ⟨fun ⟨_, _, _, h⟩ => (nomatch h : False), ?_, ⟨⟨_, _, _, rfl⟩, h⟩, ?_⟩
  · rw [show decodeF .e4m3 0 = .fin false 0 (-9) by decide +kernel]
    simp [realOf]
  · unfold exponentOf
    rw [h]
    have : (Fmt.form .e4m3).bias = 7 := rfl
    simp [this]

/-- ReductionsAndScans: lanes for the tree and the steps. -/
theorem witness_tree : (pair thread second).widthOf thread = 64 ∧ (pair thread second).laneOf second = 1 ∧ (pair thread second).active g0 = [(0, thread), (1, second)]
    ∧ (RedOp.add = .add ∨ RedOp.add = .min ∨ RedOp.add = .max) ∧ Fmt.isFloat .f32 = true := by decide +kernel

/-- A thread parked at the JOIN of seam 3, with stops that are due; a slot with a debugger. -/
def joined (due : Bool) (stop : Option (BitVec 16)) : Hart := { thread with status := .atJoin 3 0x60, preemptDue := due, debugDue := stop }
def debugged (h : Hart) : State := onCore (stand h) fun k => { k with slots := k.slots.modify 0 fun q => { q with bank := [(0x41, 1)] } }

/-- JoinWaitRepCut: stops of either kind that are due at a JOIN, with a debugger and without, with a STOP bit and without. -/
theorem witness_joined : (stand (joined true none)).hart? ref = some (joined true none) ∧ (joined true none).preemptDue = true
    ∧ (debugged (joined false (some 7))).attached ref = true ∧ (joined false (some 7)).tx.depth = 0
    ∧ (debugged (joined false (some 7))).safePoint 1 ((debugged (joined false (some 7))).ctxOf ref) 0x44 0x40 0 = (true, (debugged (joined false (some 7))).safeEntryAt 1 0 0x44)
    ∧ ((debugged (joined false (some 7))).safePoint 1 ((debugged (joined false (some 7))).ctxOf ref) 0x44 0x40 1).1 = false
    ∧ (stand (joined false (some 7))).attached ref = false ∧ (joined false none).debugDue = none := by decide +kernel

/-- The pair in fragments whose seam 15 is open with a member in logical lane 2 parked at it, or closed. -/
def sewn (opened : Bool) : State :=
  onCore (pair thread second) fun k => { k with waves := k.waves.modify 0 fun v =>
    { v with lanes := v.lanes ++ [(2, { second with tid := 4, ordinal := 2, status := .atJoin 15 0x60, scur := 15, scv := true })]
             frags := [(0, { seams := (Vector.replicate 16 {}).set 15 { mask := 7, arr := 4, opened } })] } }

/-- SeamOpens: two lanes of one fragment, with their seam open and closed, and the lower of them. -/
theorem witness_sewn (opened : Bool) : ∃ v, (sewn opened).cur.bobbin = false ∧ (sewn opened).wave? 1 0 = some v ∧ (v.lanes.map Prod.fst).Nodup
    ∧ (∀ e ∈ (sewn opened).active g0, ((v.frag ((sewn opened).fragOf e.2)).seams.toList.getD 15 {}).arr.getLsbD ((sewn opened).laneOf e.2) = false)
    ∧ (0, thread) ∈ (sewn opened).active g0 ∧ (sewn opened).fragOf thread = 0
    ∧ (∀ e ∈ (sewn opened).active g0, e ≠ (0, thread) → (sewn opened).laneOf thread < (sewn opened).laneOf e.2)
    ∧ ((v.frag 0).seams.toList.getD 15 {}).opened = opened ∧ ((v.frag 0).seams.toList.getD 15 {}).arr.getLsbD 2 = true := by
  cases opened <;> exact ⟨_, rfl, rfl, by decide +kernel⟩

/-- The pair with entries in its shuttle. -/
def shuttling : State := onCore (pair thread second) fun k => { k with slots := k.slots.modify 0 fun q => { q with count := 2 } }

/-- ShuttleIsAQueue, NearStoresPerform, Hoops: an issue of two lanes. -/
theorem witness_lanesTogether : (∃ v k q, shuttling.cur.bobbin = false ∧ shuttling.wave? 1 0 = some v ∧ (v.lanes.map Prod.fst).Nodup
      ∧ (v.lanes.map Prod.fst).Pairwise (· < ·) ∧ shuttling.slotOf? 1 v.ctx = some (k, q) ∧ q.count ≠ 0)
    ∧ (∀ e ∈ shuttling.lanes, e.2.status = .running ∧ e.2.tx.depth = 0) ∧ shuttling.active g0 ≠ [] ∧ (pair thread second).sampleTag g0 = (none, pair thread second)
    ∧ (∀ e ∈ (pair thread second).active g0, ∃ q, storeForm (pair thread second) ((pair thread second).curRef e.1 e.2) e.2 g0 (.st g0 3 (.lit 2) (.reg 62) none false 0) q
        ∧ q.bolt.space ≠ 0 ∧ (pair thread second).elems ((pair thread second).curRef e.1 e.2) q.bolt .store q.ix q.n = .ok [some 0x408]
        ∧ (pair thread second).scored (((pair thread second).curRef e.1 e.2).key 0 q.bolt.space 0x408) = false) := by
  refine ⟨⟨_, _, _, rfl, rfl, by decide, by decide, rfl, by decide⟩, by decide +kernel, by decide +kernel, rfl, ?_⟩
  intro e he
  have h : (pair thread second).active g0 = [(0, thread), (1, second)] := by decide +kernel
  rw [h] at he
  simp only [List.mem_cons, List.not_mem_nil, or_false] at he
  rcases he with rfl | rfl <;> exact ⟨_, .inl ⟨_, _, _, _, _, _, rfl, by decide +kernel, rfl⟩, by decide +kernel, rfl, rfl⟩

/-- Requests of the thread that are on their way; a page that another chip has. -/
def asked : State := { page thread true 3 with packets := [packet (.read (access false none))] }

/-- GlobalAccessRoutes: an access behind the thread's own request, and one whose page is moving. -/
theorem witness_waits : (∃ leaf, (page thread true 3).walk ref thread 0x403C false = (some leaf, page thread true 3) ∧ (leaf.ro && !false) = true)
    ∧ asked.requestOut thread.tid 0 0x403C 4 = true ∧ asked.walk ref thread 0x403C false = (some ⟨3, true, 3⟩, asked)
    ∧ (page thread true 256).walk ref thread 0x403C false = (some ⟨3, true, 256⟩, page thread true 256)
    ∧ (page thread true 256).homeCheck 0 0x403C false ⟨3, true, 256⟩ = .moving := by
  refine ⟨⟨_, page_walk _ _ _ _ _ (by omega) rfl, rfl⟩, by decide +kernel, ?_, page_walk _ _ _ _ _ (by omega) rfl, ?_⟩
  · have hl : (asked.core 1).l1 = [⟨0, 0, 0, 3, true, 3⟩] := rfl
    have hr : (asked.core 1).resident = [0] := rfl
    have h : asked.tlbLookup 1 0 0 0x403C = (some ⟨3, true, 3⟩, false, asked) := cached_lookup hl hr (by omega)
    unfold State.walk
    simp only [show ref.core = 1 from rfl, show asked.ctxOf ref = 0 from rfl, show thread.launch.toNat = 0 from rfl, h, Bool.false_eq_true, if_false]
  · unfold State.homeCheck
    rw [show (page thread true 256).onChip 256 = false from rfl]
    rfl

/-- AtomicsPerform: a suppressed element, and one in a registered range. -/
theorem witness_atomicElements : (near thread).spot ref ((near thread).boltOf ref thread 3) (low thread (.lit 16)) .update = .suppressed
    ∧ ((near thread).boltOf ref thread 3).width = Fmt.n32.bits / 8 ∧ scopeServes .core ((near thread).boltOf ref thread 3).space = true
    ∧ (near thread).spot ref ((near thread).boltOf ref thread 3) (low thread (.lit 15)) .update = .at 0x43C
    ∧ ({ near thread with ranges := [⟨9, some 1, 0, 0, coreKey 1 0 0x43C / 64, coreKey 1 0 0x43C / 64, true, 0⟩] } : State).scored (ref.key 0 3 0x43C) = true := by
  decide +kernel

/-- The new home of a page, where a thread that the old home forwarded stands. -/
def forwarding : State := { stand { thread with moved := true } with moves := [{ aMove with new := 1, old := 3, forwarded := [2] }] }

/-- Transactions: a commit that waits for a page. -/
theorem witness_commitWaits : (small forwarding false 1 0).commitCheck ref
      { depth := 1, writes := [{ line := ⟨0, 0, 0, 0⟩, key := 0, byte := 7 }] } = .held (.pageMove none (stand thread).next) := by
  have hl := small_leaf forwarding false 1 0 (.inl rfl) rfl
  have hf := small_frame forwarding false 1 0 (.inl rfl)
  have hq : (small forwarding false 1 0).framePoison 1 0 0 = false := by
    unfold State.framePoison
    rw [show (small forwarding false 1 0).poison = [] from rfl]
    rfl
  have hw : (small forwarding false 1 0).forwardedFirst 0 0 1 = true := by
    unfold State.forwardedFirst
    rw [show (small forwarding false 1 0).moves = [{ aMove with new := 1, old := 3, forwarded := [2] }] from rfl]
    rfl
  have hb : (small forwarding false 1 0).onChip 1 = true := rfl
  have ht : (small forwarding false 1 0).translate 0 0 true = .moving := by
    unfold State.translate State.homeCheck
    simp only [hl, hf, hq, hw, hb, show coreOfHome 1 = 1 from rfl]
    rfl
  unfold State.commitCheck State.commitLine
  simp only [show ({ depth := 1, writes := [{ line := ⟨0, 0, 0, 0⟩, key := 0, byte := 7 }] } : Tx).wlines = [⟨0, 0, 0, 0⟩] from rfl, List.foldl_cons, List.foldl_nil]
  rw [if_pos trivial, if_neg (by decide)]
  simp only [Nat.mul_zero, List.find?_cons, beq_self_eq_true, Option.map_some, Option.getD_some, Nat.zero_mod, ht]
  rfl

/-- BarrierObjects: a first arrival that completes the count with bytes pending, and bytes that end without a completion. -/
theorem witness_pendingBytes : ∃ b c : Barrier, (b.latched = false ∧ 1 = b.arrived + 1 ∧ b.pendb ≠ 0) ∧ c.pendb + -5 = 0 ∧ ¬(c.latched = true ∧ c.arrived = c.expect) :=
  ⟨⟨0, 0, 0, 5, false⟩, ⟨2, 1, 0, 5, true⟩, by decide⟩

/-- Hoops: a hoop that is not valid, entries that are too short, a descriptor with poison, a context without core scratchpad, an
earlier claim that is not filled. -/
theorem witness_hoopRefusals : ((near thread).hoop 1 0 3).valid = false ∧ (near thread).poisoned (hoopKey 1 0 3) 16 = false ∧ (near thread).cspb 1 0 ≠ 0
    ∧ ((hooped { aHoop 0 1 1 3 0 with esz := 4 } []).hoop 1 0 3).ent < thread.runBytes 3
    ∧ ({ near thread with poison := [hoopKey 1 0 3] } : State).poisoned (hoopKey 1 0 3) 16 = true ∧ (stand thread).cspb 1 0 = 0
    ∧ (∃ e, ((onCore (hooped (aHoop 0 0 1 3 0) []) fun k => { k with claims := [(0, ⟨3, 0, 1⟩, false)] }).core 1).claims.find?
        (fun e => e.1 == 0 && e.2.1.hoop == 3) = some e ∧ e.2.2 = false)
    ∧ (∃ q, q = (hooped (aHoop 0 2 2 2 0) []).hoop 1 0 3 ∧ q.valid = true ∧ 2 ≤ q.ready ∧ q.allow + 2 < 2 ^ 13 ∧ thread.runBytes 0 ≤ q.ent
        ∧ 0x200 ≤ q.entry (q.head + 1) ∧ q.entry (q.head + 1) + q.ent ≤ 2 ^ 21 ∧ (hooped q []).scoredRun 1 0 (q.entry (q.head + 1)) (thread.runBytes 0) = false) := by
  and_intros
  all_goals first | decide +kernel | exact ⟨_, rfl, by decide +kernel⟩

/-- SystemRegisters: an index that is not legal, given by a register. -/
theorem witness_index : ∃ q, sysReg? true 0x60 = some q ∧ q.user = true ∧ q.legal 0xFFFF = false := ⟨_, rfl, rfl, by decide⟩

/-- A wave whose lanes have been restored: one is in the restore handler, its neighbour is there too or waits. -/
def restoring (rst : Bool) : State :=
  pair { handler 0 with tstate := { (handler 0).tstate with rst := true } }
    { second with status := if rst then .running else .restored, tstate := { second.tstate with trapped := rst, rst } }
def restorer : Hart := { placedHart 1 .zeroW .running with tstate := { priv := true, trapped := true, rst := true }, trap := { eres := 0x40 } }
def restoringBobbin : State :=
  onCore (standB restorer) fun k => { k with waves := [(0, { ctx := 0, launch := 0, arrival := false, lanes := [(0, { thread with status := .saved })], frags := [(0, {})] })] }

/-- TrapsAndReturns: the last lane of the fragment that leaves the restore handler, one that is not the last, and a bobbin with a saved thread. -/
theorem witness_restores : (∃ v, (restoring true).wave? 1 0 = some v ∧ (v.lanes.map Prod.fst).Nodup
      ∧ ∃ e ∈ v.lanes.filter (fun e => e.1 != 0 && (restoring true).fragOf e.2 == (restoring true).fragOf (handler 0)), e.2.tstate.rst = true)
    ∧ (∃ v, (restoring false).wave? 1 0 = some v
      ∧ (∀ e ∈ v.lanes.filter (fun e => e.1 != 0 && (restoring false).fragOf e.2 == (restoring false).fragOf (handler 0)), e.2.tstate.rst = false)
      ∧ ∃ e ∈ v.lanes.filter (fun e => e.1 != 0 && (restoring false).fragOf e.2 == (restoring false).fragOf (handler 0)), e.2.status = .restored)
    ∧ (∃ q p, restoringBobbin.slot? 1 0 = some q ∧ restoringBobbin.hart? ref = some p ∧ p.status = .saved ∧ restoringBobbin.ctxOf ref = q.ctx)
    ∧ restoringBobbin.oneLane refB restorer ∧ restoringBobbin.target 1 (restoringBobbin.ctxOf refB) restorer.trap.eres = .ok :=
  ⟨⟨_, rfl, by decide, by decide +kernel⟩, ⟨_, rfl, by decide +kernel, by decide +kernel⟩, ⟨_, _, rfl, rfl, rfl, by decide +kernel⟩,
    ⟨rfl, rfl, 0, rfl, rfl⟩, by decide +kernel⟩

/-- DrainsAndFaultService, ContextSwitches, PagesMove: pool words that hold poison, waves that have just left, a needle that has come
back to a core whose spill area takes none. -/
theorem witness_spoiled : ({ stand thread with poison := [poolBase 1] } : State).spoiledRun (poolBase 1) 4 = true
    ∧ ((onCore (stand thread) fun k => { k with departed := [(0, 0)] }).core 1).lingers 0 = true ∧ ((stand thread).core 1).lingers 0 = false
    ∧ (onCore (stand thread) fun k => { k with retired := true }).resendable { packet (.needle aNeedle) with rehomed := true } = true := by
  refine ⟨?_, by decide +kernel, by decide +kernel, by decide +kernel⟩
  simp [State.spoiledRun, granuleBytes]
  split <;> omega

/-- HostAndDebugger: parks behind an instruction of a clause, behind its last, and at one. -/
theorem witness_parks (after : Option (Word × Nat)) : (stand { thread with status := .debug { cause := .debugStop, after } }).debugged 1 0 = [ref]
    ∧ (stand { thread with status := .debug { cause := .debugStop, after } }).hostUp = true := ⟨rfl, rfl⟩

/-! What the engines write. -/

theorem ok_of {ε α : Type} {x : Except ε α} (h : (match x with | .ok _ => true | .error _ => false) = true) : ∃ a, x = .ok a := by
  rcases x with e | a
  · cases h
  · exact ⟨a, rfl⟩

/-- A fired command of pattern ends, alone in its queue. -/
def firing (engine : Engine) (work : Work) (src dst : EndPt) : Command := { tzeroCommand 9 with engine, work, src, dst, fired := true }
abbrev alone (c : Command) : State := engine [c] {} [] thread

set_option maxRecDepth 20000 in
/-- EngineCommands: an end in a hoop whose descriptor holds poison. -/
theorem witness_struckEnd : ∃ stop, firstStop (hoopChecks { alone (copyCommand true) with poison := [hoopKey 1 0 3] } ref
    { copyCommand true with dst := .hoop 3 1 } ++ [(true, stopOf .patternInvalid)]) = some stop ∧ stop.cause = .eccUncorrected := ⟨_, rfl, by decide +kernel⟩

/-- EngineEvents: a command that the fault service has failed, and one that may retire. -/
theorem witness_refused : ({ copyCommand true with refused := some 0x4000 } : Command).refused = some 0x4000
    ∧ (alone (copyCommand true)).hoopsOpen 1 { copyCommand true with refused := some 0x4000 } = true
    ∧ mayRetire (alone (copyCommand true)) 1 (copyCommand true) ∧ plainCommand (copyCommand true) := by
  refine ⟨rfl, by decide +kernel, ⟨rfl, rfl, rfl, by decide +kernel, by decide +kernel⟩, rfl, rfl, rfl⟩

/-- Bank 2 holds a matrix of 16 columns, of the given type. -/
def bankOf (fmt : Fmt) (c : Command) : State :=
  onCore (alone c) fun k => { k with banks := k.banks.set 2 { valid := true, fmt, nuse := 16, kuse := 16 } }

set_option maxRecDepth 20000 in
/-- EngineEvents: rows of planes and of elements; a row that is read, and none. -/
theorem witness_rows : (Pattern.ofBits (pattern 13 3 0x400 16 32)).bpp = true ∧ (Pattern.ofBits (pattern 10 3 0x400 16 2)).bpp = false
    ∧ (∃ a, (bankOf .bf16 streamCommand).patternRow 1 streamCommand (Pattern.ofBits (pattern 10 3 0x400 16 2)) 0 = .ok a)
    ∧ (((bankOf .bf16 streamCommand).core 1).banks.toList.getD 2 {}).nuse ≤ 768
    ∧ (bankOf .bf16 streamCommand).tileRowBad 1 1 0 16 = false
    ∧ (∃ q : Pattern, q = Pattern.ofBits (pattern 10 3 0x400 16 2) ∧ q.space ≠ 0 ∧ q.keyen = false ∧ q.sck = 0
      ∧ ∀ k < min (q.size 0) 256, (bankOf .bf16 streamCommand).poisoned (nearKey 1 0 0 0 q.space (q.addr 0 k)) q.unit = false) :=
  ⟨by decide +kernel, by decide +kernel, ok_of (by decide +kernel), by decide +kernel, by decide +kernel, ⟨_, rfl, by decide +kernel⟩⟩

def loadCommand (fmt n stride : Nat) : Command := firing .stitch (.loadBank 2) (.pat (pattern fmt 3 0x400 n stride) 0) .empty

set_option maxRecDepth 20000 in
/-- EngineEvents: a matrix of integers and one of floats, which a bank takes. -/
theorem witness_bankLoads (f : Nat × Nat) (hf : f = (1, 1) ∨ f = (11, 1) ∨ f = (10, 2)) :
    (alone (loadCommand f.1 16 f.2)).findCommand 9 = some (1, 0, loadCommand f.1 16 f.2)
    ∧ mayRetire (alone (loadCommand f.1 16 f.2)) 1 (loadCommand f.1 16 f.2) ∧ plainCommand (loadCommand f.1 16 f.2)
    ∧ (let q := (Pattern.ofBits (pattern f.1 3 0x400 16 f.2)).shifted 0
       nearFrom (alone (loadCommand f.1 16 f.2)) 1 0 q ∧ q.sck = 0 ∧ q.size 2 = 1 ∧ q.size 3 = 1 ∧ q.size 0 ≤ 384 ∧ q.size 1 ≤ 256
         ∧ (q.ty = .i8 ∨ q.ty = .e4m3 ∨ q.ty = .e5m2 ∨ q.ty = .bf16)) := by
  unfold mayRetire plainCommand nearFrom
  rcases hf with rfl | rfl | rfl <;> decide +kernel

def gatheredCommand : Command := { streamCommand with work := .stream 1 2 false 0 false 1 true (some (bolt 0x400 3 2 3 4 16, 0)) }

set_option maxRecDepth 20000 in
/-- EngineEvents: a stream of one row that passes, and one whose row a list names. -/
theorem witness_streams : mayRetire (bankOf .bf16 streamCommand) 1 streamCommand ∧ streamCommand.reload = false
    ∧ (∃ q, streamCommand.dst.pattern? = some q ∧ pairs q (((bankOf .bf16 streamCommand).core 1).banks.toList.getD 2 {}) = true
      ∧ ((((bankOf .bf16 streamCommand).serving (some 9)).streamRows 1 streamCommand ⟨1, 2, false, 0, false⟩ q true 0 [some 0]).2.2 = none))
    ∧ (bankOf .bf16 gatheredCommand).findCommand 9 = some (1, 0, gatheredCommand)
    ∧ (∃ q l, gatheredCommand.dst.pattern? = some q
      ∧ ((bankOf .bf16 gatheredCommand).serving (some 9)).streamList 1 gatheredCommand q 1 true (some (bolt 0x400 3 2 3 4 16, 0)) = .ok l) := by
  refine ⟨⟨rfl, rfl, rfl, by decide +kernel, by decide +kernel⟩, rfl, ⟨_, rfl, by decide +kernel, by decide +kernel⟩, by decide +kernel, ?_⟩
  obtain ⟨l, hl⟩ : ∃ l, ((bankOf .bf16 gatheredCommand).serving (some 9)).streamList 1 gatheredCommand (Pattern.ofBits (pattern 10 3 0x400 16 2)) 1 true
      (some (bolt 0x400 3 2 3 4 16, 0)) = .ok l := ok_of (by decide +kernel)
  exact ⟨_, l, rfl, hl⟩

def storeCommand : Command := firing .stitch (.storeTile 1 127 1) .empty (.pat (pattern 8 3 0x400 16 4) 0)
def statusCommand : Command := firing .stitch (.storeStatus 1) .empty (.pat (pattern 4 3 0x400 1 4) 0)

set_option maxRecDepth 20000 in
/-- EngineEvents: a tile that is stored, and its status word. -/
theorem witness_tileStores : (∃ q, storeCommand.dst.pattern? = some q ∧ mayRetire (alone storeCommand) 1 storeCommand ∧ plainCommand storeCommand ∧ nearTo 1 0 q
      ∧ q.sck = 0 ∧ q.seeden = false ∧ q.round ≠ .rsr ∧ ∀ m < 1, (alone storeCommand).tileRowBad 1 1 m (q.size 0) = false)
    ∧ (∃ q, statusCommand.dst.pattern? = some q ∧ mayRetire (alone statusCommand) 1 statusCommand ∧ plainCommand statusCommand
      ∧ inHoops (nearKey 1 0 0 0 3 q.base) = false ∧ q.base % 64 + 4 ≤ 64) := by
  unfold mayRetire plainCommand nearTo
  exact ⟨⟨_, rfl, by decide +kernel⟩, ⟨_, rfl, by decide +kernel⟩⟩

def castCommand (parts : List Nat) (applied : Bool) : Command :=
  { firing .copy (.multicast [1, 2]) (.pat (pattern 4 3 0x400 16 4) 0) (.pat (pattern 4 3 0x600 16 4) 0) with parts, applied, query := List.replicate 64 7 }

set_option maxRecDepth 20000 in
/-- EngineEvents: the first part of two of a multicast, and the last. -/
theorem witness_multicast (parts : List Nat) (applied : Bool) (h : (parts, applied) = ([1, 2], false) ∨ (parts, applied) = ([2], true)) :
    (alone (castCommand parts applied)).findCommand 9 = some (1, 0, castCommand parts applied)
    ∧ castCommand parts applied ∈ commandsOf (alone (castCommand parts applied)) 1 0 ∧ mayRetire (alone (castCommand parts applied)) 1 (castCommand parts applied)
    ∧ plainCommand (castCommand parts applied) ∧ parts ≠ []
    ∧ (∃ p q, (castCommand parts applied).src.pattern? = some p ∧ (castCommand parts applied).dst.pattern? = some q ∧ p.fmt = q.fmt
      ∧ nearFrom (alone (castCommand parts applied)) 1 0 p ∧ ∀ k ∈ parts, nearTo k 0 q) := by
  unfold mayRetire plainCommand nearTo nearFrom
  rcases h with h | h <;> cases h <;> refine ⟨?_, ?_, ?_, ?_, ?_, ⟨_, _, rfl, rfl, ?_⟩⟩ <;> decide +kernel

/-- A bolt of global memory whose elements all lie at 0x4000. -/
def samePlace : BitVec 128 := bolt 0x4000 0 2 3 0 0xFFFFFFFF
def gatherCommand : Command := firing .dfi (.gather samePlace) (.pat (pattern 4 3 0x400 16 4) 0) (.pat (pattern 4 3 0x600 16 4) 0)
def scatterCommand : Command := firing .dfi (.scatter samePlace) (.pat (pattern 4 3 0x400 16 4) 0) (.pat (pattern 4 3 0x600 16 4) 0)
def mapped (c : Command) : State := withData (alone c) 8 []

theorem Mapped.serving {t : State} {ro : Bool} {home : Nat} (h : Mapped t ro home) (i : Option Nat) : Mapped (t.serving i) ro home :=
  ⟨h.map, h.dir, h.tab, h.mov, h.clean, h.chip⟩

theorem mapped_serving (c : Command) : Mapped ((mapped c).serving (some 9)) false 1 :=
  (data_mapped (alone c) 8 [] rfl rfl rfl (by decide) (by decide)).serving _

theorem samePlace_at (i : Nat) : (Bolt.ofBits samePlace).at i = 0x4000 ∧ (Bolt.ofBits samePlace).raw i = 0x4000 := by
  have h : Bolt.ofBits samePlace = { base := 0x4000, space := 0, esize := 2, access := 3, btrap := false, swz := 0, rsvd := 0, stride := 0, extent := 0xFFFFFFFF } := by
    decide +kernel
  rw [h]
  simp [Bolt.at, Bolt.raw, swizzle]

set_option maxRecDepth 20000 in
/-- EngineEvents: a gathering and a scattering at whatever indices the list holds. -/
theorem witness_gathers : (mapped gatherCommand).findCommand 9 = some (1, 0, gatherCommand) ∧ mayRetire (mapped gatherCommand) 1 gatherCommand
    ∧ plainCommand gatherCommand
    ∧ (∃ p q, gatherCommand.src.pattern? = some p ∧ gatherCommand.dst.pattern? = some q ∧ nearFrom (mapped gatherCommand) 1 0 p ∧ p.unit = 4 ∧ nearTo 1 0 q)
    ∧ (∀ i, ((Bolt.ofBits samePlace).extent ≤ i → (Bolt.ofBits samePlace).btrap = false)
        ∧ (Bolt.ofBits samePlace).raw i % 4 = 0 ∧ (Bolt.ofBits samePlace).at i % 64 + 4 ≤ 64
        ∧ ((mapped gatherCommand).serving (some 9)).translate 0 ((Bolt.ofBits samePlace).at i) false = .ok 0x180004000
        ∧ (mapped gatherCommand).poisoned 0x180004000 4 = false)
    ∧ (mapped scatterCommand).findCommand 9 = some (1, 0, scatterCommand) ∧ mayRetire (mapped scatterCommand) 1 scatterCommand
    ∧ (∃ p q, scatterCommand.src.pattern? = some p ∧ scatterCommand.dst.pattern? = some q ∧ nearFrom (mapped scatterCommand) 1 0 p
        ∧ p.unit = (Bolt.ofBits samePlace).width ∧ nearFrom (mapped scatterCommand) 1 0 q ∧ q.unit = 4) ∧ (mapped scatterCommand).poison = []
    ∧ (∀ l : List (Nat × List Byte), (∀ e ∈ l, e.2.length = 4) → ((mapped scatterCommand).serving (some 9)).writeStop 1 0
        (l.map fun e => ((Bolt.ofBits samePlace).at e.1, e.2)) = none) := by
  have hp : ∀ c, (mapped c).poison = [] := fun _ => rfl
  have hn : ∀ (c : Command) (q : Pattern), q.space ≠ 0 → q.keyen = false → q.bpp = false → nearFrom (mapped c) 1 0 q := fun c q h1 h2 h3 =>
    ⟨h1, h2, h3, fun a _ => by simp [State.poisoned, hp]⟩
  refine ⟨by decide +kernel, ⟨rfl, rfl, rfl, by decide +kernel, by decide +kernel⟩, ⟨rfl, rfl, rfl⟩,
    ⟨_, _, rfl, rfl, hn _ _ (by decide +kernel) (by decide +kernel) (by decide +kernel), by decide +kernel, by unfold nearTo; decide +kernel⟩, fun i => ?_,
    by decide +kernel, ⟨rfl, rfl, rfl, by decide +kernel, by decide +kernel⟩,
    ⟨_, _, rfl, rfl, hn _ _ (by decide +kernel) (by decide +kernel) (by decide +kernel), by decide +kernel,
      hn _ _ (by decide +kernel) (by decide +kernel) (by decide +kernel), by decide +kernel⟩, rfl, fun l hl => ?_⟩
  · rw [(samePlace_at i).1, (samePlace_at i).2]
    exact ⟨fun _ => by decide +kernel, by decide, by decide, (mapped_serving _).translate (by decide) rfl, by simp [State.poisoned, hp]⟩
  · unfold State.writeStop
    rw [List.findSome?_eq_none_iff]
    intro x hx
    obtain ⟨e, he, rfl⟩ := List.mem_map.mp hx
    have h0 := (mapped_serving scatterCommand).translate (va := 0x4000) (write := true) (by decide) rfl
    have h3 := (mapped_serving scatterCommand).translate (va := 0x4003) (write := true) (by decide) rfl
    rw [List.findSome?_eq_none_iff]
    intro a ha
    simp only [(samePlace_at e.1).1, hl e he, Nat.reduceAdd, Nat.reduceSub, Nat.reducePow, Nat.reduceMod, List.mem_cons, List.not_mem_nil, or_false] at ha
    rcases ha with rfl | rfl
    · rw [h0]
    · rw [h3]

set_option maxRecDepth 20000 in
/-- EngineEvents: a binning whose rows have been sorted. -/
theorem witness_bins : (∃ c, c = { binCommand 1 with work := .bin (bolt 0x400 3 2 3 4 16) 0 1 3 [] (some [[]]), fired := true }
      ∧ (alone c).findCommand 9 = some (1, 0, c) ∧ mayRetire (alone c) 1 c ∧ c.barrier = none ∧ c.applied = false ∧ (alone c).poison = []) := by
  unfold mayRetire
  exact ⟨_, rfl, by decide +kernel⟩

/-! What the retrieval engines apply. -/

def opCommand (work : Work) : Command := { firing .retrieval work .empty .empty with query := packElements [(7, 0)] }

/-- Table 3 in die scratchpad, being rehashed or not, and an operation at its engine. -/
def table (rh : Bool) : Table := { aTable with rh, newBase := 0x900, newFam := 0, newK := 1 }
def operating (rh : Bool) (work : Work) : State :=
  { engine [opCommand work] {} [] thread with dies := [(0, { allocs := [(0, 0x1000)], families := [(0, { d := 1 })], tables := [(3, table rh)] })] }

/-- An image of RTDEF: table in die scratchpad at 0x800, family 0, K 1, one sub-table of four slots. -/
def tableImage (base : Nat) : BitVec 256 := BitVec.ofNat 256 (1 + 2 ^ 4 + 2 ^ 16 + base * 2 ^ 32)

set_option maxRecDepth 20000 in
/-- RetrievalInstructions: a deletion, a step of a rehash, its start, the table's end and a probe, each of which the engine applies. -/
theorem witness_operations : (∀ w ∈ ([.delete 3 0 none, .rehash 3 1, .define 3 (tableImage 0x900) 1, .define 3 0 2, .probe 3 5 none 4] : List Work),
      ∀ rh, (operating rh w).findCommand 9 = some (1, 0, opCommand w) ∧ (operating rh w).opArrives 1 0 (opCommand w) = true
        ∧ (operating rh w).tableDieOf 1 0 3 = 0 ∧ (operating rh w).table? 0 0 3 = some (table rh) ∧ (opCommand w).unread = false ∧ (table rh).valid = true)
    ∧ (∃ x, ((operating false (.delete 3 0 none)).serving (some 9)).opDelete ⟨0, opCommand (.delete 3 0 none), table false⟩ 0 = .ok x)
    ∧ (∃ x, ((operating true (.rehash 3 1)).serving (some 9)).opRehash ⟨0, opCommand (.rehash 3 1), table true⟩ 3 1 = .ok x)
    ∧ (∃ x, ((operating false (.define 3 (tableImage 0x900) 1)).serving (some 9)).opRehashStart ⟨0, opCommand (.define 3 (tableImage 0x900) 1), table false⟩ 3
        (tableImage 0x900) = .ok x)
    ∧ (∃ x, ((operating false (.probe 3 5 none 4)).serving (some 9)).opProbe ⟨0, opCommand (.probe 3 5 none 4), table false⟩ 4 = .ok x) := by
  refine ⟨by decide +kernel, ok_of (by decide +kernel), ok_of (by decide +kernel), ok_of (by decide +kernel), ok_of (by decide +kernel)⟩

/-- The same with the table's key pattern in a page of global memory. -/
def definingBase : State := { operating false (.define 3 (tableImage 0x800) 0) with ptabs := [(0, 0x4000)] }
def keyBytes : List Byte := bytesOfNat 64 (pattern 8 1 0x400 1 4).toNat
def defining : State := withData definingBase 0x4000 keyBytes

theorem defining_mapped : Mapped (defining.serving (some 9)) false 1 :=
  (data_mapped definingBase 0x4000 keyBytes rfl rfl rfl (by decide) (by decide +kernel)).serving _

set_option maxRecDepth 20000 in
/-- RetrievalInstructions: a definition that the engine applies. -/
theorem witness_definition : ∃ x, (defining.serving (some 9)).opDefine (field (tableImage 0x800) 17 2) (opCommand (.define 3 (tableImage 0x800) 0)) 3 (tableImage 0x800)
    = .ok x := by
  have hr : (defining.serving (some 9)).readPiece (dieEngine 0) 0 0 0x4000 64 none = .ok keyBytes := by
    have hm : Memory.getBytes (defining.serving (some 9)).mem (0x180000000 + 0x4000) 64 = keyBytes := by
      have hl : keyBytes.length = 64 := by decide +kernel
      apply List.ext_getElem (by simp [Memory.getBytes, hl])
      intro i h1 h2
      rw [hl] at h2
      simp only [Memory.getBytes, List.getElem_map, List.getElem_range]
      rw [show (defining.serving (some 9)).mem = Memory.setBytes (paged definingBase false 1).mem (0x180000000 + 0x4000) keyBytes from rfl, Memory.get_setBytes,
        if_pos (by omega)]
      rw [List.getD_eq_getElem?_getD, show 0x180000000 + 0x4000 + i - (0x180000000 + 0x4000) = i by omega, List.getElem?_eq_getElem (by omega)]
      rfl
    have hp : (defining.serving (some 9)).poisoned (0x180000000 + 0x4000) 64 = false := by simp [State.poisoned, defining_mapped.clean]
    unfold State.readPiece State.readLine
    simp only [if_true, Nat.reduceMod, Nat.sub_zero, show Nat.min 64 64 = 64 from rfl, defining_mapped.translate (va := 0x4000) (write := false) (by decide) rfl,
      hp, Bool.false_eq_true, if_false, hm]
  unfold State.opDefine
  rw [show Table.ofImage (tableImage 0x800) = some { valid := true, fam := 0, k := 1, l := 1, slots := 4, pol := 0, sp := true, die := 0, base := 0x800, ovbase := 0, ovcap := 0 } by
    decide +kernel, show field (tableImage 0x800) 17 2 = 0 by decide +kernel]
  simp only [show ((defining.serving (some 9)).ptab 0 + 64 * field (tableImage 0x800) 19 8) % 2 ^ 48 = 0x4000 by decide +kernel,
    show (opCommand (.define 3 (tableImage 0x800) 0)).ctx = 0 from rfl, hr]
  rw [if_neg (by decide +kernel)]
  exact ok_of (by decide +kernel)

/-- A probe that has been applied, with a list in core scratchpad. -/
def probed : Command := { opCommand (.probe 3 5 (some (bolt 0x400 3 2 3 4 16, 2)) 3) with applied := true, found := [0] }

set_option maxRecDepth 20000 in
/-- RetrievalInstructions: a probe whose rows are written. -/
theorem witness_probed : (alone probed).findCommand 9 = some (1, 0, probed) ∧ mayRetire (alone probed) 1 probed ∧ plainCommand probed
    ∧ (let b := Bolt.ofBits (bolt 0x400 3 2 3 4 16)
       b.space ≠ 0 ∧ b.width = 4 ∧ ∀ j < 3, 2 + j < b.extent ∧ b.raw (2 + j) % 4 = 0 ∧ b.at (2 + j) % 64 + 4 ≤ 64
        ∧ b.at (2 + j) + 4 ≤ (alone probed).nearEnd 1 0 b.space (b.at (2 + j)) ∧ inHoops (nearKey 1 0 0 0 b.space (b.at (2 + j))) = false) := by
  unfold mayRetire plainCommand
  decide +kernel

end Sys2Proof.Tests
end

section
/-! PROOFS. What O4 and O5 say of memory: every step keeps its canonical form, and a byte that is written reads back.

The canonical form is an invariant of every function of the model that gives a state. There is one lemma per function, in the order of
the model's files and under the function's own name: where `hs : s.memOk`, `hs.f` says that `s.f …` has canonical memory, so that a
proof follows the chain of updates in the model's definition (`hs.modHart.count` for `(s.modHart r f).count core ctx n k`). -/

namespace Sys2Proof.Machine

-- The proofs of this namespace are elaborated one after another: all at once, their threads need more memory than a build has.
set_option Elab.async false

variable {s t : State}

/-! ### States inside other results -/

/-- The value of a result that is no error meets a predicate. -/
def okHas {ε α : Type} (P : α → Prop) : Except ε α → Prop
  | .ok a => P a
  | .error _ => True

/-- The value of an option, where there is one, meets a predicate. -/
def someHas {α : Type} (P : α → Prop) : Option α → Prop
  | some a => P a
  | none => True

/-- The state of a prepared step meets a predicate. -/
def Next.has (P : State → Prop) : Next → Prop
  | .run _ s => P s
  | .stopped s => P s

section
variable {ε α β : Type} {P : α → Prop} {Q : β → Prop} {f : α → β} {a : α}

theorem okHas.of {o : Except ε α} (ho : okHas P o) (h : o = .ok a) : P a := by subst h; exact ho

theorem okHas.map {o : Except ε α} (ho : okHas P o) (hf : ∀ a, P a → Q (f a)) : okHas Q (o.map f) := by
  cases o with
  | error e => trivial
  | ok a => exact hf a ho

theorem someHas.of {o : Option α} (ho : someHas P o) (h : o = some a) : P a := by subst h; exact ho

theorem someHas.getD {o : Option α} (ho : someHas P o) (h : P a) : P (o.getD a) := by
  cases o with
  | none => exact h
  | some b => exact ho

theorem someHas.map {o : Option α} (ho : someHas P o) (hf : ∀ a, P a → Q (f a)) : someHas Q (o.map f) := by
  cases o with
  | none => trivial
  | some a => exact hf a ho

end

/-! ### How the canonical form passes through the shapes of a definition -/

/-- An update of any fields but the memory. -/
theorem State.memOk.same (hs : s.memOk) {inputs cur free next tsc fireClosed net ticks poison cores dies queues vt pbase lastCtxs ctxrecs
    hmaps ptabs btabs launches eclasses stagings records phases drains packets outbox keys keyFailed ranges moves shootdowns posted unposted
    services msix bar power measures reports links} :
    State.memOk ⟨inputs, cur, free, next, tsc, fireClosed, net, ticks, s.mem, poison, cores, dies, queues, vt, pbase, lastCtxs, ctxrecs,
      hmaps, ptabs, btabs, launches, eclasses, stagings, records, phases, drains, packets, outbox, keys, keyFailed, ranges, moves,
      shootdowns, posted, unposted, services, msix, bar, power, measures, reports, links⟩ :=
  hs

theorem State.memOk.setBytes (hs : s.memOk) {poison a l} : State.memOk { s with mem := Memory.setBytes s.mem a l, poison } :=
  Memory.wf_setBytes l s.mem a hs

theorem State.memOk.next (hs : s.memOk) : nextHas State.memOk (.next s) := by
  rintro t ⟨⟩
  exact hs

section
variable {α β : Type} {a : α} {b : β}

theorem State.memOk.fst {p : State × α} (hp : p.1.memOk) (h : p = (t, a)) : t.memOk := by subst h; exact hp

theorem State.memOk.snd {p : α × State} (hp : p.2.memOk) (h : p = (a, t)) : t.memOk := by subst h; exact hp

theorem State.memOk.snd₂ {p : α × β × State} (hp : p.2.2.memOk) (h : p = (a, b, t)) : t.memOk := by subst h; exact hp

end

theorem State.memOk.ite {c : Prop} [Decidable c] (hs : s.memOk) (ht : t.memOk) : (if c then s else t).memOk := by
  split
  · exact hs
  · exact ht

theorem State.memOk.iteThen {c : Prop} [Decidable c] (hs : s.memOk) (ht : s.memOk → t.memOk) : (if c then t else s).memOk :=
  (ht hs).ite hs

theorem State.memOk.iteElse {c : Prop} [Decidable c] (hs : s.memOk) (ht : s.memOk → t.memOk) : (if c then s else t).memOk :=
  hs.ite (ht hs)

theorem State.memOk.iteBoth {u : State} {c : Prop} [Decidable c] (hs : s.memOk) (ht : s.memOk → t.memOk) (hu : s.memOk → u.memOk) :
    (if c then t else u).memOk :=
  (ht hs).ite (hu hs)

theorem State.memOk.foldl {α : Type} (hs : s.memOk) {f : State → α → State} (hf : ∀ t a, t.memOk → (f t a).memOk) {l : List α} :
    (l.foldl f s).memOk :=
  List.foldlRecOn l f hs fun t ht a _ => hf t a ht

/-! ### Base -/

theorem State.memOk.setCore (hs : s.memOk) {c k} : (s.setCore c k).memOk := hs.same
theorem State.memOk.modCore (hs : s.memOk) {c f} : (s.modCore c f).memOk := hs.setCore
theorem State.memOk.modDie (hs : s.memOk) {d f} : (s.modDie d f).memOk := hs.same
theorem State.memOk.modWave (hs : s.memOk) {c w f} : (s.modWave c w f).memOk := hs.modCore
theorem State.memOk.modSlot (hs : s.memOk) {c k f} : (s.modSlot c k f).memOk := hs.modCore

theorem State.memOk.modHart (hs : s.memOk) {r f} : (s.modHart r f).memOk := by
  unfold State.modHart
  split
  · exact hs.modWave
  · exact hs.modSlot

theorem State.memOk.setHart (hs : s.memOk) {r h} : (s.setHart r h).memOk := hs.modHart
theorem State.memOk.modSlotFor (hs : s.memOk) {r f} : (s.modSlotFor r f).memOk := hs.modSlot

theorem State.memOk.mapLanes (hs : s.memOk) {f} : (s.mapLanes f).memOk := by
  unfold State.mapLanes
  split
  · exact hs.modSlot
  · exact hs.modWave

theorem State.memOk.bump (hs : s.memOk) : (s.bump).memOk := hs.same
theorem State.memOk.spend (hs : s.memOk) : (s.spend).memOk := hs.same

/-! ### Count -/

theorem State.memOk.count (hs : s.memOk) {core ctx n amount} : (s.count core ctx n amount).memOk := by
  unfold State.count
  split
  · exact hs
  · exact hs.modSlot

theorem State.memOk.event (hs : s.memOk) {core ctx code amount system} : (s.event core ctx code amount system).memOk := by
  unfold State.event
  split
  · exact hs
  · exact hs.modSlot

theorem State.memOk.charge (hs : s.memOk) {core ctx launch cls n} : (s.charge core ctx launch cls n).memOk := by
  unfold State.charge
  split
  · exact hs.modCore
  · exact hs.modSlot

theorem State.memOk.trace (hs : s.memOk) {core ctx kind wslot plane arg ovl ord} : (s.trace core ctx kind wslot plane arg ovl ord).memOk := by
  unfold State.trace
  split
  · exact hs
  · exact hs.modSlot

/-! ### Translate -/

theorem State.memOk.tlbLookup (hs : s.memOk) {core ctx key va} : (s.tlbLookup core ctx key va).2.2.memOk := by
  unfold State.tlbLookup
  dsimp only
  split
  · exact hs
  · split
    · exact hs
    · exact hs.modCore.spend

/-! ### Ops -/

theorem State.memOk.send (hs : s.memOk) {src home ctx launch slack sx vn bytes body} : (s.send src home ctx launch slack sx vn bytes body).memOk :=
  State.memOk.ite hs.same.count hs.same

theorem State.memOk.dropPacket (hs : s.memOk) {id} : (s.dropPacket id).memOk := hs.same

theorem State.memOk.raiseFlag (hs : s.memOk) {r} : (s.raiseFlag r).memOk := by
  unfold State.raiseFlag
  split
  · exact hs
  · exact hs.modHart

theorem State.memOk.launchResult (hs : s.memOk) {r flag writes poison twin} : (s.launchResult r flag writes poison twin).memOk := by
  refine State.memOk.send ?_
  split
  · exact hs
  · exact hs.modHart

theorem State.memOk.traceLane (hs : s.memOk) {r h kind arg} : (s.traceLane r h kind arg).memOk := hs.trace
theorem State.memOk.txAbort (hs : s.memOk) {r c code} : (s.txAbort r c code).memOk := hs.modHart.count

theorem State.memOk.wakeLane (hs : s.memOk) {r} : (s.wakeLane r).memOk := by
  unfold State.wakeLane
  split
  · exact hs
  · split
    · exact hs.modHart
    · exact hs.txAbort

theorem State.memOk.wakeSet (hs : s.memOk) {core set filter} : (s.wakeSet core set filter).memOk := by
  unfold State.wakeSet
  split
  · exact hs
  · split
    · exact hs
    · exact (hs.traceLane.iteThen fun hs => hs.event).foldl fun _ _ hs => hs.wakeLane

theorem State.memOk.wakeSets (hs : s.memOk) {core sets direct} : (s.wakeSets core sets direct).memOk := hs.modCore.foldl fun _ _ hs => hs.wakeSet

theorem State.memOk.lineNotice (hs : s.memOk) {core l} : (s.lineNotice core l).memOk := by
  unfold State.lineNotice
  dsimp only
  split
  · exact hs
  · exact hs.wakeSets

theorem State.memOk.lineChanged (hs : s.memOk) {l} : (s.lineChanged l).memOk := by
  refine State.memOk.foldl ?_ fun _ _ hs => hs.send
  split
  · exact hs.lineNotice
  · exact hs

theorem State.memOk.conflicts (hs : s.memOk) {phys own} : (s.conflicts phys own).memOk := hs.foldl fun _ _ hs => hs.ite hs.txAbort

theorem State.memOk.store (hs : s.memOk) {l key bytes own poisoned} : (s.store l key bytes own poisoned).memOk := by
  unfold State.store
  dsimp only
  split
  · exact hs.conflicts.lineChanged
  · exact hs.conflicts.setBytes.lineChanged

theorem State.memOk.clearPoison (hs : s.memOk) {key n} : (s.clearPoison key n).memOk := hs.same
theorem State.memOk.clearStore (hs : s.memOk) {key n} : (s.clearStore key n).memOk := Memory.wf_clear _ _ _ hs
theorem State.memOk.clearSlices (hs : s.memOk) {core w} : (s.clearSlices core w).memOk := hs.clearStore

theorem State.memOk.lineEvent (hs : s.memOk) {dpa} : (s.lineEvent dpa).2.memOk := by
  unfold State.lineEvent
  split
  · exact hs
  · dsimp only
    split
    · exact hs
    · split
      · exact hs
      · exact hs.modCore.spend

theorem State.memOk.storePhys (hs : s.memOk) {ctx dpa bytes} : (s.storePhys ctx dpa bytes).memOk := hs.foldl fun _ _ hs => hs.lineEvent.store

theorem State.memOk.storePiecesVa (hs : s.memOk) {ctx locked l} : okHas State.memOk (s.storePiecesVa ctx locked l) := by
  induction l generalizing s with
  | nil => exact hs
  | cons e l ih =>
    unfold State.storePiecesVa
    split
    · exact ih hs.lineEvent.store
    · trivial

theorem State.memOk.storeVa (hs : s.memOk) {ctx va bytes locked} : okHas State.memOk (s.storeVa ctx va bytes locked) := hs.storePiecesVa
theorem State.memOk.postAt (hs : s.memOk) {place slot bytes report} : (s.postAt place slot bytes report).memOk := hs.storePhys.same

theorem State.memOk.post (hs : s.memOk) {place bytes report} : (s.post place bytes report).memOk := by
  unfold State.post
  split
  · exact hs.postAt
  · exact hs.same

theorem State.memOk.postError (hs : s.memOk) {cause ctx home va pc eord report flags} : (s.postError cause ctx home va pc eord report flags).memOk :=
  hs.post

theorem State.memOk.joinRecord (hs : s.memOk) {p lanes} : (s.joinRecord p lanes).memOk := hs.storePhys

theorem State.memOk.join (hs : s.memOk) {report lanes} : someHas State.memOk (s.join report lanes) := by
  unfold State.join
  split
  · exact hs.joinRecord
  · split
    · exact hs.same
    · exact trivial

theorem State.memOk.toService (hs : s.memOk) {v} : (s.toService v).memOk := by
  unfold State.toService
  dsimp only
  split <;> exact hs.same.storePhys

theorem State.memOk.reportPage (hs : s.memOk) {die ctx va home c write space pc eord} :
    (s.reportPage die ctx va home c write space pc eord).memOk := by
  unfold State.reportPage
  split
  · exact hs.toService
  · dsimp only
    split
    · next h => exact hs.join.of h
    · exact hs.post

theorem State.memOk.closeFrame (hs : s.memOk) {core k} : (s.closeFrame core k).memOk := by
  unfold State.closeFrame
  split
  · exact hs
  · split
    · exact hs
    · dsimp only
      split
      · exact hs.modSlot
      · exact (hs.modSlot.foldl fun _ _ hs => hs.lineEvent.store.event).charge

theorem State.memOk.frameRecord (hs : s.memOk) {core k body} : (s.frameRecord core k body).memOk := by
  unfold State.frameRecord
  split
  · exact hs
  · dsimp only
    split
    · exact hs.modSlot
    · split
      · exact hs.closeFrame.modSlot
      · exact hs.modSlot

theorem State.memOk.flushTrace (hs : s.memOk) {core k} : (s.flushTrace core k).memOk := by
  unfold State.flushTrace
  split
  · exact hs
  · exact hs.modSlot.foldl fun _ _ hs => hs.frameRecord

theorem State.memOk.freeze (hs : s.memOk) {core k} : (s.freeze core k).memOk := by
  unfold State.freeze
  dsimp only
  split
  · exact hs.flushTrace.closeFrame.modSlot
  · split
    · exact hs.flushTrace.closeFrame.modSlot.postError.spend
    · exact hs.flushTrace.closeFrame.modSlot

theorem State.memOk.completeSeam (hs : s.memOk) {core w key n force} : (s.completeSeam core w key n force).memOk := by
  unfold State.completeSeam
  split
  · exact hs
  · dsimp only
    split
    · exact hs.modWave
    · split
      · exact hs.modWave
      · exact hs

theorem State.memOk.completeSeams (hs : s.memOk) {core w key} : (s.completeSeams core w key).memOk := hs.foldl fun _ _ hs => hs.completeSeam

theorem State.memOk.leaveSeams (hs : s.memOk) {r h} : (s.leaveSeams r h).memOk := by
  unfold State.leaveSeams
  split
  · exact hs
  · exact hs.modWave.completeSeams

theorem State.memOk.askDrain (hs : s.memOk) {d core} : (s.askDrain d core).memOk := hs.send

theorem State.memOk.startDrain (hs : s.memOk) {src ctx key first n purpose slack} : (s.startDrain src ctx key first n purpose slack).memOk :=
  hs.same.foldl fun _ _ hs => hs.askDrain

theorem State.memOk.modPhase (hs : s.memOk) {key level group f} : (s.modPhase key level group f).memOk := hs.same

theorem State.memOk.phaseTest (hs : s.memOk) {key level group slack} : (s.phaseTest key level group slack).memOk := by
  unfold State.phaseTest
  split
  · split
    · exact hs.modPhase.startDrain
    · exact hs
  · exact hs

theorem State.memOk.endCounts (hs : s.memOk) {h} : (s.endCounts h).memOk := by
  unfold State.endCounts
  split
  · exact hs
  · exact hs.same.foldl fun _ _ hs => hs.modPhase.phaseTest

theorem State.memOk.vacate (hs : s.memOk) {r} : (s.vacate r).memOk := by
  unfold State.vacate
  split
  · exact hs
  · exact hs.modCore

theorem State.memOk.endThread (hs : s.memOk) {r} : (s.endThread r).memOk := by
  unfold State.endThread
  split
  · exact hs
  · split
    · exact hs.modHart
    · exact hs.leaveSeams.vacate.endCounts

theorem State.memOk.handlerEntry (hs : s.memOk) {r stop} : (s.handlerEntry r stop).memOk := by
  unfold State.handlerEntry
  split
  · dsimp only
    split
    · exact hs.setHart.traceLane.same.freeze
    · exact hs.setHart.traceLane.same
  · exact hs

theorem State.memOk.nestedFault (hs : s.memOk) {r stop} : (s.nestedFault r stop).memOk := by
  unfold State.nestedFault
  split
  · exact hs
  · exact hs.setHart.same.postError

theorem State.memOk.toHandler (hs : s.memOk) {r stop} : (s.toHandler r stop).memOk := by
  unfold State.toHandler
  split
  · exact hs
  · split
    · exact hs.nestedFault
    · exact hs.handlerEntry

theorem State.memOk.debugPark (hs : s.memOk) {r stop} : (s.debugPark r stop).memOk := by
  unfold State.debugPark
  split
  · exact hs
  · dsimp only
    split
    · exact hs.setHart.modSlotFor.same
    · exact hs.setHart.modSlotFor

theorem State.memOk.debugLeave (hs : s.memOk) {r} : (s.debugLeave r).memOk := hs.modSlotFor

theorem State.memOk.overlayPark (hs : s.memOk) {r stop} : (s.overlayPark r stop).memOk := by
  unfold State.overlayPark
  split
  · exact hs
  · dsimp only
    split
    · next h => exact hs.setHart.join.of h
    · exact hs.setHart.postError

theorem State.memOk.servicePark (hs : s.memOk) {r stop} : (s.servicePark r stop).memOk := by
  unfold State.servicePark
  split
  · exact hs
  · exact hs.setHart.reportPage

theorem State.memOk.takeStop (hs : s.memOk) {r stop} : (s.takeStop r stop).memOk := by
  unfold State.takeStop
  split
  · exact hs.toHandler
  · split
    · exact hs.toHandler
    · exact hs.handlerEntry
    · exact hs.servicePark
    · exact hs.overlayPark
    · exact hs.debugPark

theorem State.memOk.stopAt (hs : s.memOk) {r stop} : (s.stopAt r stop).memOk := by
  unfold State.stopAt
  split
  · exact hs
  · split
    · exact hs.takeStop
    · exact hs.setHart

theorem State.memOk.raise (hs : s.memOk) {r stop} : (s.raise r stop).memOk := by
  unfold State.raise
  split
  · exact hs
  · split
    · exact hs.stopAt
    · exact hs.txAbort

theorem State.memOk.raiseCause (hs : s.memOk) {r c} : (s.raiseCause r c).memOk := hs.raise

theorem State.memOk.deliver (hs : s.memOk) {r} : (s.deliver r).memOk := by
  unfold State.deliver
  split
  · exact hs
  · split
    · exact hs.toHandler
    · exact hs

theorem State.memOk.release (hs : s.memOk) {r} : (s.release r).memOk := hs.modHart

theorem State.memOk.landPreempt (hs : s.memOk) {r after} : (s.landPreempt r after).memOk := by
  unfold State.landPreempt
  split
  · exact hs
  · dsimp only
    split <;> exact hs.stopAt

theorem State.memOk.preemptAbort (hs : s.memOk) {r} : (s.preemptAbort r).memOk := by
  unfold State.preemptAbort
  split
  · exact hs
  · split
    · exact hs
    · exact hs.txAbort.modHart

theorem State.memOk.unsleep (hs : s.memOk) {r} : (s.unsleep r).memOk := by
  unfold State.unsleep
  split
  · exact hs
  · split
    · dsimp only
      split
      · exact hs.setHart.modCore
      · exact hs.setHart
    · exact hs

theorem State.memOk.cutSeams (hs : s.memOk) {r h n} : (s.cutSeams r h n).memOk := by
  unfold State.cutSeams
  split
  · exact hs
  · split
    · exact hs
    · dsimp only
      split
      · exact hs
      · exact hs.modWave.modHart.completeSeams

theorem State.memOk.go (hs : s.memOk) {r target link cut} : (s.go r target link cut).memOk := by
  refine State.memOk.modHart ?_
  split
  · exact hs.cutSeams
  · exact hs

theorem State.memOk.preemptLane (hs : s.memOk) {r} : (s.preemptLane r).memOk := by
  unfold State.preemptLane
  split
  · exact hs
  · split
    · exact hs.modHart
    · split
      · exact hs.modHart.unsleep.preemptAbort.landPreempt
      · exact hs.modHart
      · exact hs.modHart.debugLeave.preemptAbort.landPreempt
      · split
        · exact hs.modHart.go.modHart.landPreempt
        · exact hs.modHart.preemptAbort.landPreempt
      · exact hs.modHart.preemptAbort.landPreempt
      · exact hs.modHart.preemptAbort.landPreempt
      · exact hs.modHart.preemptAbort.landPreempt
      · exact hs.modHart
      · exact hs.modHart
      · exact hs.modHart
      · exact hs.modHart
      · exact hs.modHart
      · exact hs.modHart
      · exact hs.modHart
      · exact hs.modHart
      · exact hs.modHart
      · exact hs.modHart
      · exact hs.modHart

theorem State.memOk.sendNeedle (hs : s.memOk) {r home slack sx va} : (s.sendNeedle r home slack sx va).memOk := by
  unfold State.sendNeedle
  split
  · exact hs
  · dsimp only
    split
    · exact hs.raiseCause
    · exact hs.traceLane.leaveSeams.vacate.count.charge.send

theorem State.memOk.migrate (hs : s.memOk) {r home sl sx va} : (s.migrate r home sl sx va).memOk := by
  unfold State.migrate
  split
  · exact hs
  · split
    · split
      · exact hs.sendNeedle
      · exact hs.setHart
    · exact hs.stopAt

theorem State.memOk.storeParts (hs : s.memOk) {ctx base l} : okHas State.memOk (s.storeParts ctx base l) := by
  induction l generalizing s with
  | nil => exact hs
  | cons e l ih =>
    unfold State.storeParts
    split
    · next h => exact ih (hs.storeVa.of h)
    · trivial

theorem State.memOk.completeSwitch (hs : s.memOk) {core k} : (s.completeSwitch core k).memOk := by
  unfold State.completeSwitch
  split
  · exact hs
  · split
    · exact hs.modSlot.postError
    · exact hs.modSlot
    · next h => exact (hs.storeParts.of h).modCore.modSlot.bump

theorem State.memOk.retrySwitches (hs : s.memOk) : (s.retrySwitches).memOk := hs.foldl fun _ _ hs => hs.completeSwitch

theorem State.memOk.thaw (hs : s.memOk) {core k} : (s.thaw core k).memOk := by
  unfold State.thaw
  split
  · exact hs
  · split <;> exact hs.modSlot

theorem State.memOk.startRestore (hs : s.memOk) {core k} : (s.startRestore core k).memOk := by
  unfold State.startRestore
  split
  · exact hs
  · exact hs.modSlot.thaw.foldl fun _ _ hs => hs.modHart.same

theorem State.memOk.restoredCheck (hs : s.memOk) {core w key} : (s.restoredCheck core w key).memOk := by
  unfold State.restoredCheck
  split
  · exact hs
  · dsimp only
    split
    · exact hs
    · exact hs.modWave

theorem State.memOk.haltNow (hs : s.memOk) {r} : (s.haltNow r).memOk := by
  unfold State.haltNow
  split
  · exact hs
  · split
    · split
      · exact hs.setHart
      · exact hs.endThread.restoredCheck
    · split
      · exact hs.setHart.completeSwitch
      · split
        · exact hs.endThread.modHart.startRestore
        · exact hs.endThread.modHart

theorem State.memOk.chargeRequest (hs : s.memOk) {r h home} : (s.chargeRequest r h home).memOk := by
  unfold State.chargeRequest
  split
  · exact hs
  · exact hs.charge

theorem State.memOk.sendArrive (hs : s.memOk) {r reg level slack} : (s.sendArrive r reg level slack).memOk := by
  unfold State.sendArrive
  split
  · exact hs
  · split
    · exact hs
    · exact hs.setHart.chargeRequest.send

theorem State.memOk.settle (hs : s.memOk) {r} : (s.settle r).memOk := by
  unfold State.settle
  split
  · exact hs
  · split
    · extract_lets
      split_ifs
      · exact hs
      · exact hs.release.preemptAbort.landPreempt
      · split
        · exact hs.takeStop
        · exact hs.sendNeedle
        · exact hs.endThread
        · exact hs.haltNow
        · exact hs.sendArrive
    · exact hs

theorem State.memOk.lateStop (hs : s.memOk) {issuer ctx stop pc eord} : (s.lateStop issuer ctx stop pc eord).memOk := by
  unfold State.lateStop
  extract_lets addLate toHost
  have htoHost : toHost.memOk := hs.postError
  split
  · exact htoHost.ite hs.modHart
  · split_ifs
    · exact hs.same
    · exact hs.same
    · exact hs.same
    · split
      · exact htoHost.ite hs.modSlot
      · exact htoHost

theorem State.memOk.perLane (hs : s.memOk) {g f} (hf : ∀ r h t, t.memOk → (f r h t).memOk) : (perLane g f s).memOk := by
  refine hs.foldl fun t a ht => ?_
  dsimp only
  split
  · exact ht
  · split
    · exact ht
    · split
      · exact hf _ _ _ ht
      · exact ht.setHart

theorem State.memOk.goOn (hs : s.memOk) {r} : (s.goOn r).memOk := hs.modHart
theorem State.memOk.hold (hs : s.memOk) {r h} : (s.hold r h).memOk := hs.modHart

theorem State.memOk.formSleepers (hs : s.memOk) {core ctx who lines} : (s.formSleepers core ctx who lines).memOk := by
  unfold State.formSleepers
  split
  · exact hs
  · dsimp only
    split
    · exact (hs.modCore.foldl fun _ _ hs => hs.modHart).event
    · exact (hs.modCore.foldl fun _ _ hs => hs.modHart).event.traceLane

theorem State.memOk.blockLanes (hs : s.memOk) {g f} (hf : ∀ r h t, t.memOk → (f r h t).1.memOk) : (blockLanes g f s).memOk := by
  unfold Machine.blockLanes
  dsimp only
  generalize hl : List.foldl _ _ s.lanes = acc
  have hacc : acc.1.memOk := by
    rw [← hl]
    refine List.foldlRecOn (motive := fun acc : State × List Ref × List Line => acc.1.memOk) _ _ hs fun acc hacc e _ => ?_
    split
    · exact hacc
    · split
      · exact hacc
      · split
        · split <;> exact hf _ _ _ hacc
        · exact hacc.setHart
  split
  · exact hacc
  · exact hacc.formSleepers

theorem State.memOk.releaseHeld (hs : s.memOk) {core p} : (s.releaseHeld core p).memOk := hs.modCore

theorem State.memOk.startLoad (hs : s.memOk) {core ctx ovl ovt} : (s.startLoad core ctx ovl ovt).memOk := by
  unfold State.startLoad
  split
  · exact hs
  · exact hs.modCore.bump

theorem State.memOk.overlayMiss (hs : s.memOk) {r target wait eord} : (s.overlayMiss r target wait eord).memOk := by
  unfold State.overlayMiss
  split
  · exact hs
  · dsimp only
    split
    · exact hs.event.raise
    · exact hs.event.startLoad.hold

theorem State.memOk.jump (hs : s.memOk) {r target link cut} : (s.jump r target link cut).memOk := by
  unfold State.jump
  split
  · exact hs.go
  · exact hs.raiseCause
  · exact hs.overlayMiss

theorem State.memOk.outside (hs : s.memOk) {f r h} (hf : ∀ r h t, t.memOk → (f r h t).memOk) : (outside f r h s).memOk := by
  unfold Machine.outside
  split
  · exact hf _ _ _ hs
  · exact hs.txAbort

/-! ### Issue -/

theorem State.memOk.landDebug (hs : s.memOk) {r h code} : (s.landDebug r h code).memOk := (hs.ite hs.txAbort).stopAt

theorem State.memOk.dueStop (hs : s.memOk) {r h} : someHas State.memOk (s.dueStop r h) := by
  unfold State.dueStop
  split
  · exact hs.preemptAbort.landPreempt
  · split
    · split
      · dsimp only
        split
        · exact hs.landDebug
        · exact hs.setHart.raise
      · dsimp only
        split
        · exact hs.landDebug
        · exact trivial
    · exact hs.setHart.raise
    · exact trivial

theorem State.memOk.joinStop (hs : s.memOk) {r h} : (s.joinStop r h).memOk := by
  unfold State.joinStop
  split
  · exact hs
  · split
    · exact hs.preemptAbort.landPreempt
    · split
      · exact hs
      · split
        · exact hs
        · split
          · exact hs.stopAt
          · exact hs.landDebug

theorem State.memOk.startMiss (hs : s.memOk) {r h} : (s.startMiss r h).memOk := by
  unfold State.startMiss
  split
  · exact hs.setHart.raise
  · exact hs.overlayMiss

theorem State.memOk.before (hs : s.memOk) {r} : (s.before r).memOk := by
  unfold State.before
  split
  · exact hs
  · extract_lets
    split_ifs
    · exact hs.release
    · exact hs.joinStop
    · exact hs
    · split
      · exact hs.stopAt
      · exact hs.startMiss
      · exact hs.setHart
    · split
      · exact hs.startMiss
      · split_ifs
        · exact hs.raise
        · exact hs
        · exact hs.setHart.dueStop.getD hs.setHart

theorem State.memOk.settleAll (hs : s.memOk) : (s.settleAll).memOk := hs.foldl fun _ _ hs => hs.before.before

theorem State.memOk.picked (hs : s.memOk) {core port w e} : (s.picked core port w e).memOk := by
  refine State.memOk.modCore (State.memOk.iteBoth ?_ (fun hs => hs.modSlot) fun hs => hs.modWave)
  exact hs.foldl fun _ _ hs => hs.ite ((hs.event.bump.ite hs).iteBoth (fun hs => hs.modSlot) fun hs => hs.modWave)

theorem State.memOk.memFirst (hs : s.memOk) {core} : (s.memFirst core).memOk := by
  unfold State.memFirst
  split
  · exact hs
  · exact hs.picked.modCore

theorem State.memOk.chosen (hs : s.memOk) {core port w e} : (s.chosen core port w e).memOk :=
  (hs.modCore.ite (hs.memFirst.ite hs).picked).same.modCore

theorem State.memOk.divert (hs : s.memOk) {p f} (hf : ∀ r t, t.memOk → (f r t).memOk) : (s.divert p f).memOk := hs.same.foldl fun _ _ hs => hf _ _ hs
theorem State.memOk.raiseAll (hs : s.memOk) {c} : (s.raiseAll c).memOk := hs.foldl fun _ _ hs => hs.raise

theorem State.memOk.countIssue (hs : s.memOk) {core port p} : (s.countIssue core port p).memOk := by
  unfold State.countIssue
  extract_lets lanes sys user counted used charged traced
  have hcounted : counted.memOk := hs.count
  have hused : used.memOk := by
    unfold used
    split
    · exact hcounted
    · exact hcounted.modSlot
  have hcharged : charged.memOk := by
    unfold charged
    split
    · exact hused
    · exact hused.charge
  have htraced : traced.memOk := hcharged.iteThen fun h => h.trace
  split
  · exact htraced
  · exact htraced.modCore

/-! ### Access -/

theorem State.memOk.nearCost (hs : s.memOk) {r h space} : (s.nearCost r h space).memOk := hs.event.charge
theorem State.memOk.lineCost (hs : s.memOk) {ctx launch dpa system} : (s.lineCost ctx launch dpa system).memOk := hs.lineEvent.event.charge

theorem State.memOk.roCost (hs : s.memOk) {r h dpa} : (s.roCost r h dpa).memOk := by
  unfold State.roCost
  dsimp only
  split
  · exact hs
  · split
    · split
      · exact hs.event.modCore.spend
      · exact hs.event.modCore.spend.modDie.lineCost
    · split
      · exact hs.event.modCore.spend
      · exact hs.event.modCore.spend.modDie.lineCost

theorem State.memOk.holdScored (hs : s.memOk) {r h} : (s.holdScored r h).memOk := hs.event.hold

theorem State.memOk.walk (hs : s.memOk) {r h va write} : (s.walk r h va write).2.memOk := by
  unfold State.walk
  dsimp only
  split
  · exact hs.tlbLookup.iteThen fun hs => hs.event
  · exact (hs.tlbLookup.iteThen fun hs => hs.event).raise

theorem State.memOk.atHome (hs : s.memOk) {r h leaf va bytes write} : (s.atHome r h leaf va bytes write).2.memOk := by
  unfold State.atHome
  dsimp only
  split
  · exact hs.event.raise
  · split
    · exact hs
    · exact hs.raise
    · exact hs.hold.bump

theorem State.memOk.locate (hs : s.memOk) {r h space va bytes write sl sx} : (s.locate r h space va bytes write sl sx).2.memOk := by
  unfold State.locate
  extract_lets
  split
  · split_ifs
    · exact hs.txAbort
    · exact hs.holdScored
    · exact hs
  · split
    · next hw => exact hs.walk.snd hw
    · next hw =>
      have ht := hs.walk.snd hw
      extract_lets
      split_ifs
      · exact ht.raise
      · exact ht.txAbort
      · exact ht.hold
      · split
        · next ha => exact ht.atHome.snd ha
        · next ha => exact (ht.atHome.snd ha).roCost
      · split
        · next ha => exact ht.atHome.snd ha
        · next ha => exact ht.atHome.snd ha
      · exact ht.migrate

theorem State.memOk.touch (hs : s.memOk) {key} : (s.touch key).memOk := hs.same
theorem State.memOk.touchAll (hs : s.memOk) {vas} : (s.touchAll vas).memOk := hs.foldl fun _ _ hs => hs.touch

theorem State.memOk.enterBuffer (hs : s.memOk) {core entry system} : (s.enterBuffer core entry system).memOk :=
  hs.modCore.foldl fun _ _ hs => hs.event

theorem State.memOk.basteOne (hs : s.memOk) {core ctx party ovl ord system poisoned va n v} :
    (s.basteOne core ctx party ovl ord system poisoned va n v).memOk := hs.event.enterBuffer

theorem State.memOk.baste (hs : s.memOk) {r h poisoned va n v} : (s.baste r h poisoned va n v).memOk := by
  unfold State.baste
  split
  · exact hs.basteOne.basteOne
  · exact hs.basteOne

theorem State.memOk.txMeets (hs : s.memOk) {h phys write} : someHas State.memOk (s.txMeets h phys write) := by
  unfold State.txMeets
  dsimp only
  split
  · exact trivial
  · exact hs.foldl fun _ _ hs => hs.txAbort

theorem State.memOk.readAt (hs : s.memOk) {r h loc va n memOnly} : (s.readAt r h loc va n memOnly).2.memOk := by
  unfold State.readAt
  split
  · split <;> exact hs.touch
  · split
    · dsimp only
      split
      · exact hs.touch.txAbort
      · next h' =>
          split
          · exact (hs.touch.txMeets.of h').raise
          · exact (hs.touch.txMeets.of h').txAbort
    · dsimp only
      split
      · exact hs.touch.txAbort
      · next h' =>
          split
          · exact (hs.touch.txMeets.of h').raise
          · exact (hs.touch.txMeets.of h').modHart

theorem State.memOk.writeAt (hs : s.memOk) {r h loc va bytes poisoned} : (s.writeAt r h loc va bytes poisoned).2.memOk := by
  unfold State.writeAt
  split
  · split
    · exact hs.touch.store
    · exact hs.touch.baste
  · split
    · dsimp only
      split
      · exact hs.touch.txAbort
      · next h' => exact (hs.touch.txMeets.of h').txAbort
    · dsimp only
      split
      · exact hs.touch.txAbort
      · next h' => exact (hs.touch.txMeets.of h').modHart

theorem State.memOk.goPast (hs : s.memOk) {r} : (s.goPast r).memOk := by
  unfold State.goPast
  split
  · exact hs
  · dsimp only
    split <;> exact hs.setHart

theorem State.memOk.ackOne (hs : s.memOk) {r} : (s.ackOne r).memOk := by
  unfold State.ackOne
  split
  · exact hs
  · split
    · split
      · exact hs.goPast
      · exact hs.setHart
    · exact hs

/-! ### Memory -/

theorem State.memOk.locateAll (hs : s.memOk) {r h space bytes write sl sx l} : (s.locateAll r h space bytes write sl sx l).2.memOk := by
  induction l generalizing s with
  | nil => exact hs
  | cons a l ih =>
    cases a with
    | none => exact ih hs
    | some a =>
      unfold State.locateAll
      split
      · next h => exact hs.locate.snd h
      · next h => exact ih (hs.locate.snd h)

theorem State.memOk.chargeLines (hs : s.memOk) {ctx h locs} : (s.chargeLines ctx h locs).memOk := hs.foldl fun _ _ hs => hs.lineCost
theorem State.memOk.request (hs : s.memOk) {r h home sl sx body} : (s.request r h home sl sx body).memOk := hs.send

theorem State.memOk.requestHeld (hs : s.memOk) {r h vas write sl sx body} : (s.requestHeld r h vas write sl sx body).2.memOk := by
  unfold State.requestHeld
  split
  · exact hs
  · split
    · next h' => exact hs.walk.snd h'
    · next h' =>
        split
        · exact (hs.walk.snd h').raise
        · exact (hs.walk.snd h').touchAll.chargeRequest.request.modHart

theorem State.memOk.loaded (hs : s.memOk) {r q bobbin vals twin} : (s.loaded r q bobbin vals twin).memOk := hs.launchResult.modHart.goOn

theorem State.memOk.readAll (hs : s.memOk) {r n memOnly l} : (s.readAll r n memOnly l).2.memOk := by
  induction l generalizing s with
  | nil => exact hs
  | cons a l ih =>
    cases a with
    | none => exact ih hs
    | some a =>
      unfold State.readAll
      split
      · exact hs
      · split
        · next h => exact hs.readAt.snd h
        · next h => exact ih (hs.readAt.snd h)

theorem State.memOk.loadHeld (hs : s.memOk) {r h q as} : (s.loadHeld r h q as).memOk := by
  unfold State.loadHeld
  split
  · next h' => exact hs.requestHeld.snd h'
  · next h' => exact (hs.requestHeld.snd h').raiseFlag

theorem State.memOk.loadRequest (hs : s.memOk) {r h q leaf va as} : (s.loadRequest r h q leaf va as).memOk := by
  unfold State.loadRequest
  split
  · exact hs.raise
  · have ha : (if s.onChip leaf.home then s.atHome r h leaf va q.bolt.width false else (some 0, s)).2.memOk := by
      split
      · exact hs.atHome
      · exact hs
    split
    · next h => exact ha.snd h
    · next h => exact (ha.snd h).touchAll.chargeRequest.request.raiseFlag.modHart.goOn

theorem State.memOk.loadHere (hs : s.memOk) {r h q as} : (s.loadHere r h q as).memOk := by
  unfold State.loadHere
  split
  · next h' => exact hs.locateAll.snd h'
  · next h' =>
      split
      · dsimp only
        split
        · next h'' => exact (hs.locateAll.snd h').chargeLines.readAll.snd h''
        · next h'' => exact ((hs.locateAll.snd h').chargeLines.readAll.snd h'').loaded
      · dsimp only
        split
        · next h'' => exact (hs.locateAll.snd h').nearCost.chargeLines.readAll.snd h''
        · next h'' => exact ((hs.locateAll.snd h').nearCost.chargeLines.readAll.snd h'').loaded

theorem State.memOk.load (hs : s.memOk) {r h q} : (s.load r h q).memOk := by
  unfold State.load
  split
  · exact hs.raise
  · split
    · exact hs.loaded
    · split
      · exact hs.loadHere
      · split
        · exact hs.loadHeld
        · dsimp only
          split
          · split
            · next h' => exact hs.walk.snd h'
            · next h' =>
                split
                · exact (hs.walk.snd h').loadHere
                · exact (hs.walk.snd h').loadRequest
          · exact hs.loadHere

theorem State.memOk.writeAll (hs : s.memOk) {r n l} : (s.writeAll r n l).2.memOk := by
  induction l generalizing s with
  | nil => exact hs
  | cons a l ih =>
    obtain ⟨_ | ⟨loc, va⟩, v, p⟩ := a
    · exact ih hs
    · unfold State.writeAll
      split
      · exact hs
      · split
        · next h => exact hs.writeAt.snd h
        · next h => exact ih (hs.writeAt.snd h)

theorem State.memOk.storeHeld (hs : s.memOk) {r h q as} : (s.storeHeld r h q as).memOk := hs.requestHeld

theorem State.memOk.storeHere (hs : s.memOk) {r h q as} : (s.storeHere r h q as).memOk := by
  unfold State.storeHere
  split
  · next hl => exact hs.locateAll.snd hl
  · next hl =>
    have ht := hs.locateAll.snd hl
    extract_lets live entries charged
    have hcharged : charged.memOk := ht.iteElse fun h => h.nearCost
    split
    · exact ht.raise
    · split
      · next hw => exact hcharged.writeAll.snd hw
      · next hw => exact (hcharged.writeAll.snd hw).goOn

theorem State.memOk.storeLane (hs : s.memOk) {r h q} : (s.storeLane r h q).memOk := by
  unfold State.storeLane
  split
  · exact hs.raise
  · split
    · exact hs.goOn
    · split
      · exact hs.storeHeld
      · exact hs.storeHere

theorem State.memOk.sampleTag (hs : s.memOk) {g} : (s.sampleTag g).2.memOk := by
  unfold State.sampleTag
  dsimp only
  split
  · exact hs
  · split
    · exact hs
    · split <;> exact hs.modSlot.ite hs

theorem State.memOk.sampled (hs : s.memOk) {g op f} (hf : ∀ t, t.memOk → (f t).memOk) : (sampled g op f s).memOk := by
  unfold Machine.sampled
  split
  · next h => exact hf _ (hs.sampleTag.snd h)
  · next h =>
    have ht := hs.sampleTag.snd h
    refine State.memOk.same (State.memOk.modSlot (hf _ ?_))
    split
    · exact ht.bump.same.mapLanes
    · exact ht.bump.same

theorem State.memOk.sampleBack (hs : s.memOk) {issuer id} : (s.sampleBack issuer id).memOk := by
  unfold State.sampleBack
  split
  · exact hs
  · exact hs.modCore

theorem State.memOk.loadOp (hs : s.memOk) {g op d bolt ix n quad ro t sx sl} : nextHas State.memOk (loadOp g op d bolt ix n quad ro t sx sl s) := by
  refine (hs.sampled fun t ht => ?_).next
  refine ht.perLane fun r h u hu => ?_
  dsimp only
  split
  · exact hu.raiseCause
  · exact hu.load

theorem State.memOk.storeOp (hs : s.memOk) {g op bolt ix src n quad t sx sl} : nextHas State.memOk (storeOp g op bolt ix src n quad t sx sl s) := by
  refine (hs.sampled fun t ht => ?_).next
  refine ht.perLane fun r h u hu => ?_
  dsimp only
  split
  · exact hu.raiseCause
  · exact hu.storeLane

theorem State.memOk.prefetch (hs : s.memOk) {r h va} : (s.prefetch r h va).memOk := by
  unfold State.prefetch
  dsimp only
  split
  · exact hs
  · split
    · exact hs
    · split
      · split
        · exact hs.roCost
        · split
          · exact hs.lineCost
          · exact hs
      · exact hs

theorem State.memOk.execPref (hs : s.memOk) {g bolt ix sl} : nextHas State.memOk (execPref g bolt ix sl s) :=
  (hs.perLane fun _ _ _ hs => hs.raise.ite ((hs.raise.ite hs.goOn).ite (hs.raise.ite (hs.prefetch.goOn.ite hs.goOn)))).next

theorem State.memOk.execMigr (hs : s.memOk) {g bolt ix sx sl} : nextHas State.memOk (execMigr g bolt ix sx sl s) := by
  refine (hs.perLane fun r h t ht => ht.outside fun r h u hu => ?_).next
  extract_lets b
  clear_value b
  split
  · exact hu.raise
  · exact hu.goOn
  · split
    · exact hu.goOn
    · split
      · next hw => exact hu.walk.snd hw
      · next hw =>
        have ht := hu.walk.snd hw
        split_ifs
        · exact ht.goOn
        · exact ht.raise
        · exact ht.goOn
        · exact ht.migrate

theorem State.memOk.fibreOp (hs : s.memOk) {g op d pb fi sgn sx sl advance} : nextHas State.memOk (fibreOp g op d pb fi sgn sx sl advance s) := by
  refine (hs.sampled fun t ht => ?_).next
  refine ht.perLane fun r h u hu => ?_
  split
  · dsimp only
    split
    · exact hu.raiseCause
    · split
      · exact hu.load
      · exact hu.modHart.loaded
  · dsimp only
    split
    · exact hu.raiseCause
    · split
      · exact hu.load
      · exact hu.modHart.loaded

/-! ### Atomics -/

theorem State.memOk.fenceCheck (hs : s.memOk) {tid} : (s.fenceCheck tid).memOk := by
  unfold State.fenceCheck
  split
  · exact hs
  · split
    · exact hs
    · split
      · split
        · exact hs
        · exact hs.goPast
      · exact hs

theorem State.memOk.execFence (hs : s.memOk) {g scope} : nextHas State.memOk (execFence g scope s) := by
  refine (hs.perLane fun r h t ht => ?_).next
  split
  · split
    · exact ht.modHart
    · exact ht.goOn
  · split
    · exact ht.modHart
    · exact ht.goOn
  · exact ht.goOn
  · exact ht.goOn
  · exact ht.goOn
  · exact ht.goOn

theorem State.memOk.flagFell (hs : s.memOk) {r} : (s.flagFell r).memOk := by
  unfold State.flagFell
  split
  · exact hs
  · split
    · split
      · exact hs.release
      · exact hs
    · split
      · exact hs.release
      · exact hs
    · exact hs.settle
    · exact hs

theorem State.memOk.writeBack (hs : s.memOk) {w} : (s.writeBack w).memOk := by
  unfold State.writeBack
  split
  · exact hs.sampleBack
  · exact (hs.modHart.sampleBack.flagFell.iteThen fun hs => hs.ackOne).fenceCheck

theorem State.memOk.overdueStop (hs : s.memOk) {p r} : (s.overdueStop p r).memOk := by
  unfold State.overdueStop
  split
  · exact hs.lateStop
  · exact hs

theorem State.memOk.takeResult (hs : s.memOk) {w} : (s.takeResult w).memOk := by
  unfold State.takeResult
  split
  · split
    · exact hs.writeBack
    · exact hs.modHart.ackOne.send.fenceCheck
  · exact hs.writeBack

theorem State.memOk.execResultWriteback (hs : s.memOk) {id} : nextHas State.memOk (execResultWriteback id s) := by
  refine State.memOk.next ?_
  split
  · exact hs
  · split
    · exact hs.foldl fun _ _ hs => hs.dropPacket.takeResult.overdueStop
    · exact hs

theorem State.memOk.reply (hs : s.memOk) {p body} : (s.reply p body).memOk := hs.same

theorem State.memOk.replyFailed (hs : s.memOk) {a stop} : (s.replyFailed a stop).memOk := by
  unfold State.replyFailed
  split
  · split
    · exact hs.sampleBack
    · exact hs.modHart.release.sampleBack.stopAt
  · exact hs.writeBack.lateStop

theorem State.memOk.execAtomicReply (hs : s.memOk) {id} : nextHas State.memOk (execAtomicReply id s) := by
  refine State.memOk.next ?_
  split
  · exact hs
  · split
    · exact hs.dropPacket.writeBack.overdueStop
    · exact hs.dropPacket.replyFailed.overdueStop.fenceCheck
    · exact hs

theorem State.memOk.requestWaits (hs : s.memOk) {p a c va} : (s.requestWaits p a c va).memOk := hs.same.reportPage

theorem State.memOk.serveRequest (hs : s.memOk) {p a f} (hf : ∀ a t, t.memOk → (f a t).memOk) : (s.serveRequest p a f).memOk := by
  unfold State.serveRequest
  split
  · exact hs
  · exact (hs.event.ite hs).dropPacket.reply
  · exact hs.requestWaits
  · exact hf _ _ hs

theorem State.memOk.atomAt (hs : s.memOk) {k t b c line key bytes} : (s.atomAt k t b c line key bytes).2.2.memOk := by
  unfold State.atomAt
  dsimp only
  split
  · exact hs
  · exact hs.store

theorem State.memOk.execAtomicRequest (hs : s.memOk) {id} : nextHas State.memOk (execAtomicRequest id s) := by
  refine State.memOk.next ?_
  split
  · exact hs
  · split
    · split
      · exact hs
      · refine hs.serveRequest fun a t ht => ?_
        split
        · exact ht.lineCost.atomAt.dropPacket.reply
        · exact ht
    · exact hs

theorem State.memOk.storeParts2 (hs : s.memOk) {a l} : (s.storeParts2 a l).memOk := by
  induction l generalizing s with
  | nil => exact hs
  | cons e l ih => exact ih hs.store

theorem State.memOk.execReadRequest (hs : s.memOk) {id} : nextHas State.memOk (execReadRequest id s) := by
  refine State.memOk.next ?_
  split
  · exact hs
  · split
    · split
      · exact hs
      · exact hs.serveRequest fun _ _ hs => ((hs.foldl fun _ _ hs => hs.lineCost).iteThen fun hs => hs.storeParts2).dropPacket.reply
    · exact hs

theorem State.memOk.atomNear (hs : s.memOk) {r h f bolt va b c dest} : (s.atomNear r h f bolt va b c dest).memOk := by
  unfold State.atomNear
  split
  · next h' => exact ((hs.locate.snd h').nearCost.atomAt.touch.iteElse fun hs => hs.launchResult).goOn
  · next h' => exact hs.locate.snd h'

theorem State.memOk.atomFar (hs : s.memOk) {r h f va b c dest} : (s.atomFar r h f va b c dest).memOk := by
  unfold State.atomFar
  split
  · next h' => exact hs.walk.snd h'
  · next h' => exact ((hs.walk.snd h').touchAll.request.chargeRequest.iteElse fun hs => hs.raiseFlag).goOn

theorem State.memOk.atomLane (hs : s.memOk) {r h f ix b c} : (s.atomLane r h f ix b c).memOk := by
  unfold State.atomLane
  extract_lets bolt dest
  clear_value bolt dest
  split
  · exact hs.raiseCause
  · split
    · exact hs.raise
    · exact State.memOk.goOn (hs.iteElse fun h => h.launchResult)
    · exact hs.atomFar.ite hs.atomNear

/-! ### Phase -/

theorem State.memOk.sendIncrements (hs : s.memOk) {r h sl tid} : (s.sendIncrements r h sl tid).2.memOk := by
  unfold State.sendIncrements
  split
  · exact hs
  · exact hs.same.foldl fun _ _ hs => hs.send

theorem State.memOk.spawnTask (hs : s.memOk) {r h home va far target b c sl} : (s.spawnTask r h home va far target b c sl).2.memOk := by
  unfold State.spawnTask
  split
  · exact hs.count
  · exact hs.bump.sendIncrements.modCore.charge

theorem State.memOk.execSpawn (hs : s.memOk) {g pd bolt ix b c target sl} : nextHas State.memOk (execSpawn g pd bolt ix b c target sl s) := by
  refine (hs.perLane fun r h t ht => ?_).next
  refine ht.outside fun r h u hu => ?_
  dsimp only
  split
  · exact hu.raiseCause
  · split
    · exact hu.raise
    · exact hu.modHart.goOn
    · split
      · split
        · exact hu
        · split
          · next h' => exact hu.walk.snd h'
          · next h' => exact hu.walk.snd h'
      · refine (State.memOk.spawnTask ?_).modHart.goOn
        split
        · exact hu
        · split
          · next h' => exact hu.walk.snd h'
          · next h' => exact hu.walk.snd h'

theorem State.memOk.execSpawnIncrement (hs : s.memOk) {id} : nextHas State.memOk (execSpawnIncrement id s) := by
  refine State.memOk.next ?_
  split
  · exact hs
  · split
    · exact hs.dropPacket.modPhase.modCore
    · exact hs

theorem State.memOk.execPhaseArv (hs : s.memOk) {g d level sl} : nextHas State.memOk (execPhaseArv g d level sl s) :=
  (hs.perLane fun _ _ _ hs => hs.outside fun _ _ _ hs => hs.raiseCause.ite (hs.sendArrive.ite hs.setHart)).next

theorem State.memOk.execPhaseArrival (hs : s.memOk) {id} : nextHas State.memOk (execPhaseArrival id s) := by
  refine State.memOk.next ?_
  split
  · exact hs
  · split
    · split
      · exact hs
      · exact hs.dropPacket.modPhase.reply.phaseTest
    · exact hs

theorem State.memOk.phasePass (hs : s.memOk) {r h slack} : (s.phasePass r h slack).memOk := by
  unfold State.phasePass
  split
  · dsimp only
    split
    · exact hs.modHart.goOn
    · exact hs.modHart.startDrain
  · dsimp only
    split
    · exact hs.modHart.goOn
    · exact hs.modHart.raise

theorem State.memOk.execPhaseWait (hs : s.memOk) {g a level sl} : nextHas State.memOk (execPhaseWait g a level sl s) := by
  refine (hs.blockLanes fun r h t ht => ?_).next
  split
  · exact ht.txAbort
  · split
    · exact ht.raiseCause
    · split
      · exact ht.raiseCause
      · dsimp only
        split
        · exact ht
        · exact ht.phasePass

theorem State.memOk.drainOne (hs : s.memOk) {core key failed e} : (s.drainOne core key failed e).2.memOk := by
  unfold State.drainOne
  split
  · exact hs.modCore
  · split
    · exact hs
    · exact hs.modCore
    · exact hs.modCore.lineCost.store

theorem State.memOk.drainCore (hs : s.memOk) {core d} : (s.drainCore core d).memOk :=
  List.foldlRecOn (motive := fun acc : List Baste × State => acc.2.memOk) _ _ hs fun _ hacc _ _ => hacc.drainOne

theorem State.memOk.modDrain (hs : s.memOk) {id f} : (s.modDrain id f).memOk := hs.same

theorem State.memOk.execDrainRequest (hs : s.memOk) {core id} : nextHas State.memOk (execDrainRequest core id s) := by
  refine State.memOk.next ?_
  split
  · exact hs
  · split
    · exact hs
    · split
      · exact hs
      · dsimp only
        split
        · exact hs.drainCore
        · exact hs.drainCore.modDrain.dropPacket.reply

theorem State.memOk.postHeld (hs : s.memOk) {key d e} : (s.postHeld key d e).memOk := hs.postError

theorem State.memOk.drainDone (hs : s.memOk) {d} : (s.drainDone d).memOk := by
  unfold State.drainDone
  split
  · dsimp only
    split
    · exact hs.modPhase.lineChanged
    · exact hs.modPhase
  · split
    · exact hs
    · split
      · exact hs.release.raise
      · exact hs.modHart.goPast
  · split
    · exact hs.same.postHeld
    · exact hs.same
    · exact hs

theorem State.memOk.execDrainAcknowledgement (hs : s.memOk) {core id} : nextHas State.memOk (execDrainAcknowledgement core id s) := by
  refine State.memOk.next ?_
  split
  · exact hs
  · split
    · exact hs
    · dsimp only
      split
      · exact hs.dropPacket
      · split
        · exact hs.same.drainDone
        · exact hs.dropPacket.modDrain

theorem State.memOk.execChangeNotice (hs : s.memOk) {id} : nextHas State.memOk (execChangeNotice id s) := by
  refine State.memOk.next ?_
  split
  · exact hs
  · split
    · exact hs.dropPacket.lineNotice
    · exact hs

theorem State.memOk.execHint (hs : s.memOk) {g} : nextHas State.memOk (execHint g s) := by
  refine (hs.perLane fun r h t ht => ?_).next
  refine State.memOk.goOn ?_
  split
  · exact ht
  · exact ht.same

theorem State.memOk.execWaitpred (hs : s.memOk) {g} : nextHas State.memOk (execWaitpred g s) := by
  refine (hs.blockLanes fun r h t ht => ?_).next
  split
  · exact ht.txAbort
  · split
    · exact ht
    · exact ht.goOn

/-! ### Control -/

theorem State.memOk.indirect (hs : s.memOk) {r h jt i link} : (s.indirect r h jt i link).memOk := by
  unfold State.indirect
  split
  · exact hs.raise
  · exact hs.overlayMiss
  · exact hs.go

theorem State.memOk.openSeam (hs : s.memOk) {core w key n e} : (s.openSeam core w key n e).memOk := by
  unfold State.openSeam
  split
  · split
    · dsimp only
      split
      · exact hs.completeSeam
      · exact hs.completeSeam.modWave
    · dsimp only
      split
      · exact hs
      · exact hs.modWave
  · dsimp only
    split
    · exact hs
    · exact hs.modWave

theorem State.memOk.joinLane (hs : s.memOk) {r h n} : (s.joinLane r h n).memOk := by
  unfold State.joinLane
  split
  · exact hs.goOn
  · dsimp only
    split
    · exact hs.modWave.modHart
    · exact hs.goOn

theorem State.memOk.execWait (hs : s.memOk) {g mask} : nextHas State.memOk (execWait g mask s) :=
  (hs.perLane fun _ _ _ hs => hs.goOn.ite hs.hold).next

theorem State.memOk.execRep (hs : s.memOk) {g byReg a n sd sa sb sc} : nextHas State.memOk (execRep g byReg a n sd sa sb sc s) :=
  (hs.perLane fun _ _ _ hs => hs.raiseCause.ite (hs.modHart.ite hs.modHart)).next

theorem State.memOk.execExit (hs : s.memOk) {g} : nextHas State.memOk (execExit g s) := (hs.perLane fun _ _ _ hs => hs.endThread.ite hs.modHart).next

theorem State.memOk.execYield (hs : s.memOk) {g} : nextHas State.memOk (execYield g s) :=
  (hs.mapLanes.iteElse fun hs => hs.iteBoth (fun hs => hs.modSlot) fun hs => hs.modWave).next

theorem State.memOk.execDqput (hs : s.memOk) {g pd a} : nextHas State.memOk (execDqput g pd a s) := by
  refine (hs.perLane fun r h t ht => ?_).next
  dsimp only
  split
  · exact ht.goOn
  · split
    · exact ht.modHart.goOn
    · exact ht.modSlot.lineNotice.modHart.goOn

theorem State.memOk.dqgetOp (hs : s.memOk) {g d lo} : nextHas State.memOk (dqgetOp g d lo s) := by
  unfold Machine.dqgetOp
  extract_lets lanes
  clear_value lanes
  split
  · exact (hs.perLane fun _ _ _ hs => hs.outside fun _ _ _ hs => hs).next
  · extract_lets r k
    split
    · exact hs.next
    · split
      · refine (hs.blockLanes fun r h t ht => ?_).next
        split
        · exact ht
        · exact ht.txAbort
      · exact (hs.modSlot.perLane fun _ _ _ hs => hs.outside fun _ _ _ hs => hs.setHart.goOn).next

theorem State.memOk.dqpeekOp (hs : s.memOk) {g d pb lo} : nextHas State.memOk (dqpeekOp g d pb lo s) :=
  (hs.perLane fun _ _ _ hs => hs.setHart.goOn).next

/-! ### Hoops -/

theorem State.memOk.writeHoop (hs : s.memOk) {core ctx n h} : (s.writeHoop core ctx n h).memOk := hs.conflicts.setBytes.lineChanged

theorem State.memOk.setHoop (hs : s.memOk) {core ctx n h} : (s.setHoop core ctx n h).memOk := by
  unfold State.setHoop
  split
  · exact hs
  · exact hs.writeHoop

theorem State.memOk.publish (hs : s.memOk) {core ctx n} : (s.publish core ctx n).memOk := hs.modCore.setHoop

theorem State.memOk.claimEntries (hs : s.memOk) {core ctx n cnt filled} : (s.claimEntries core ctx n cnt filled).2.memOk :=
  hs.modCore.setHoop.iteThen fun hs => hs.publish

theorem State.memOk.fillClaim (hs : s.memOk) {core ctx q} : (s.fillClaim core ctx q).memOk := hs.modCore.publish

theorem State.memOk.storeNear (hs : s.memOk) {core ctx space addr bytes poisoned} : (s.storeNear core ctx space addr bytes poisoned).memOk :=
  hs.foldl fun _ _ hs => hs.store

theorem State.memOk.hoopLane (hs : s.memOk) {n nw data needValid f r h} (hf : ∀ r h t, t.memOk → (f r h t).1.memOk) :
    (hoopLane n nw data needValid f r h s).1.memOk := by
  unfold Machine.hoopLane
  split
  · exact hs.txAbort
  · split
    · exact hs.raise
    · split
      · split
        · exact hs.raiseCause
        · exact hf _ _ _ hs
      · split
        · exact hs.raiseCause
        · exact hf _ _ _ hs

theorem State.memOk.hoopGo (hs : s.memOk) {r h} : (s.hoopGo r h).memOk := hs.charge.goOn

theorem State.memOk.execHpush (hs : s.memOk) {g nb pd n b nw} : nextHas State.memOk (execHpush g nb pd n b nw s) := by
  refine (hs.blockLanes fun r h t ht => ?_).next
  refine ht.hoopLane fun r h u hu => ?_
  split
  · dsimp only
    split
    · exact hu.modHart.hoopGo
    · split
      · exact hu.holdScored
      · exact hu.storeNear.claimEntries.modHart.hoopGo
  · dsimp only
    split
    · exact hu
    · split
      · exact hu.holdScored
      · exact hu.storeNear.claimEntries.hoopGo

theorem State.memOk.takeEntry (hs : s.memOk) {r h n d nw ka at_} : (s.takeEntry r h n d nw ka at_).2.2.memOk := by
  unfold State.takeEntry
  dsimp only
  split
  · dsimp only
    exact hs.setHoop
  · dsimp only
    exact hs.setHoop

theorem State.memOk.execHpop (hs : s.memOk) {g d n nw ka at_} : nextHas State.memOk (execHpop g d n nw ka at_ s) := by
  refine (hs.blockLanes fun r h t ht => ?_).next
  refine ht.hoopLane fun r h u hu => ?_
  split
  · next h' =>
      dsimp only
      split
      · exact hu
      · split
        · exact hu.holdScored
        · exact (hu.takeEntry.snd₂ h').modHart.hoopGo

theorem State.memOk.execHtry (hs : s.memOk) {g d pb n nw ka at_} : nextHas State.memOk (execHtry g d pb n nw ka at_ s) := by
  refine (hs.blockLanes fun r h t ht => ?_).next
  refine ht.hoopLane fun r h u hu => ?_
  split
  · next h' =>
      dsimp only
      split
      · exact hu.launchResult.modHart.hoopGo
      · split
        · exact hu.holdScored
        · exact (hu.takeEntry.snd₂ h').launchResult.modHart.hoopGo

theorem State.memOk.execHpeek (hs : s.memOk) {g d pb n k nw at_} : nextHas State.memOk (execHpeek g d pb n k nw at_ s) := by
  refine (hs.blockLanes fun r h t ht => ?_).next
  refine ht.hoopLane fun r h u hu => ?_
  split
  · dsimp only
    split <;> exact hu.launchResult.modHart.hoopGo
  · dsimp only
    split
    · exact hu.launchResult.modHart.hoopGo
    · split
      · exact hu.holdScored
      · exact hu.launchResult.modHart.hoopGo

theorem State.memOk.execHallow (hs : s.memOk) {g n b} : nextHas State.memOk (execHallow g n b s) := by
  refine (hs.blockLanes fun r h t ht => ?_).next
  refine ht.hoopLane fun r h u hu => ?_
  dsimp only
  split
  · exact hu.raiseCause
  · exact hu.setHoop.hoopGo

theorem State.memOk.resetHoop (hs : s.memOk) {r h n new} : (s.resetHoop r h n new).memOk := by
  unfold State.resetHoop
  dsimp only
  split
  · exact hs.raiseCause
  · exact hs.writeHoop.hoopGo

theorem State.memOk.execHresetDef (hs : s.memOk) {g n b} : nextHas State.memOk (execHresetDef g n b s) := by
  refine (hs.blockLanes fun r h t ht => ?_).next
  refine ht.hoopLane fun r h u hu => ?_
  dsimp only
  split
  · exact hu.raiseCause
  · exact hu.resetHoop

/-! ### Tables -/

theorem State.memOk.raiseMem (hs : s.memOk) {r e write} : (s.raiseMem r e write).memOk := by
  unfold State.raiseMem
  split
  · exact hs.raise
  · exact hs.hold

theorem State.memOk.recordAt (hs : s.memOk) {r h va n write} : (s.recordAt r h va n write).2.memOk := by
  unfold State.recordAt
  split
  · next h' => exact hs.walk.snd h'
  · next h' =>
      split
      · next h'' => exact (hs.walk.snd h').atHome.snd h''
      · next h'' => exact (hs.walk.snd h').atHome.snd h''

theorem State.memOk.recordRead (hs : s.memOk) {r h va n} : (s.recordRead r h va n).2.memOk := by
  unfold State.recordRead
  split
  · next h' => exact hs.recordAt.snd h'
  · next h' =>
      split
      · exact (hs.recordAt.snd h').raise
      · exact (hs.recordAt.snd h').lineCost

theorem State.memOk.patternRead (hs : s.memOk) {r h n} : (s.patternRead r h n).2.memOk := by
  unfold State.patternRead
  dsimp only
  split
  · exact hs
  · split
    · next h' => exact hs.recordRead.snd h'
    · next h' => exact (hs.recordRead.snd h').modCore.spend

theorem State.memOk.applyUpdate (hs : s.memOk) {core u} : (s.applyUpdate core u).memOk := by
  unfold State.applyUpdate
  split
  · exact hs
  · exact hs.modCore
  · split
    · exact hs
    · exact hs.modSlot
  · split
    · exact hs
    · exact hs.setBytes
  · exact hs.modDie
  · exact hs.modDie

theorem State.memOk.overtake (hs : s.memOk) {core p} : (s.overtake core p).memOk := hs.same

theorem State.memOk.execAcknowledgementArrival (hs : s.memOk) {id} : nextHas State.memOk (execAcknowledgementArrival id s) := by
  refine State.memOk.next ?_
  split
  · exact hs
  · split
    · split
      · exact hs
      · exact hs.dropPacket.applyUpdate.ackOne.overdueStop
    · exact hs

theorem State.memOk.awaitUpdates (hs : s.memOk) {r h cores u} : (s.awaitUpdates r h cores u).memOk := by
  unfold State.awaitUpdates
  split
  · exact hs.goOn
  · exact hs.modHart.foldl fun _ _ hs => hs.send

theorem State.memOk.image (hs : s.memOk) {r h bolt a n} : (s.image r h bolt a n).2.memOk := by
  unfold State.image
  dsimp only
  split
  · exact hs.raise
  · exact hs.goOn
  · split
    · exact hs.raise
    · split
      · exact hs.raise
      · split
        · exact hs.holdScored
        · split
          · exact hs.raise
          · exact hs.nearCost

theorem State.memOk.movedRecord (hs : s.memOk) {r h a table bytes} : (s.movedRecord r h a table bytes).2.memOk := by
  unfold State.movedRecord
  split
  · exact hs.raiseCause
  · exact hs.recordRead

theorem State.memOk.defineRecord (hs : s.memOk) {r h va bytes u} : (s.defineRecord r h va bytes u).memOk := by
  unfold State.defineRecord
  split
  · next h' => exact hs.recordAt.snd h'
  · next h' => exact (hs.recordAt.snd h').lineCost.store.awaitUpdates

theorem State.memOk.execPatdef (hs : s.memOk) {g n mv a bolt} : nextHas State.memOk (execPatdef g n mv a bolt s) := by
  refine (hs.perLane fun r h t ht => ?_).next
  refine ht.outside fun r h u hu => ?_
  split
  · dsimp only
    split
    · next h' => exact hu.movedRecord.snd h'
    · next h' => exact (hu.movedRecord.snd h').defineRecord
  · split
    · next h' => exact hu.image.snd h'
    · next h' => exact (hu.image.snd h').defineRecord

theorem State.memOk.execBldef (hs : s.memOk) {g n mv a} : nextHas State.memOk (execBldef g n mv a s) := by
  refine (hs.perLane fun _ _ _ hs => hs.outside fun r h t hs => ?_).next
  have hm : (if mv then t.movedRecord r h a (t.btab (t.ctxOf r)) 16 else (some (bytesOfNat 16 (h.runRecord a).toNat), t)).2.memOk := by
    split
    · exact hs.movedRecord
    · exact hs
  dsimp only
  split
  · next h => exact hm.snd h
  · next h =>
    split
    · exact (hm.snd h).raiseCause
    · exact (hm.snd h).defineRecord

theorem State.memOk.tableWord (hs : s.memOk) {r h d va} : (s.tableWord r h d va).memOk := by
  unfold State.tableWord
  split
  · dsimp only
    split
    · next h' => exact hs.recordAt.snd h'
    · next h' =>
        refine State.memOk.goOn ?_
        split
        · exact (hs.recordAt.snd h').chargeRequest.request
        · exact (hs.recordAt.snd h').chargeRequest.request.modHart
  · dsimp only
    split
    · next h' => exact hs.recordAt.snd h'
    · next h' =>
        refine State.memOk.goOn ?_
        split
        · exact (hs.recordAt.snd h').chargeRequest.request
        · exact (hs.recordAt.snd h').chargeRequest.request.modHart

theorem State.memOk.execJtdef (hs : s.memOk) {g jt ovl a b} : nextHas State.memOk (execJtdef g jt ovl a b s) := by
  refine (hs.perLane fun r h t ht => ?_).next
  refine ht.outside fun r h u hu => ?_
  dsimp only
  split
  · exact hu.raiseMem
  · exact hu.raiseCause
  · split
    · exact hu.raiseCause
    · split
      · next h' => exact hu.recordAt.snd h'
      · next h' => exact (hu.recordAt.snd h').lineCost.store.awaitUpdates

theorem State.memOk.execHfset (hs : s.memOk) {g hf a b} : nextHas State.memOk (execHfset g hf a b s) := by
  refine (hs.perLane fun r h t ht => ?_).next
  refine ht.outside fun r h u hu => ?_
  split
  · dsimp only
    split
    · exact hu.raiseCause
    · exact hu.awaitUpdates
  · dsimp only
    split
    · exact hu.raiseCause
    · exact hu.awaitUpdates

/-! ### Arrive -/

theorem State.memOk.enterStore (hs : s.memOk) {core a entry} : (s.enterStore core a entry).memOk := by
  unfold State.enterStore
  dsimp only
  split
  · exact hs.modCore.event.startLoad
  · exact hs.modCore

theorem State.memOk.countPlaced (hs : s.memOk) {core ctx n} : (s.countPlaced core ctx n).memOk := by
  unfold State.countPlaced
  split
  · exact hs
  · exact hs.count

theorem State.memOk.arrive (hs : s.memOk) {p n} : someHas State.memOk (s.arrive p n) := by
  unfold State.arrive
  dsimp only
  split
  · exact trivial
  · show State.memOk _
    split
    · exact hs.dropPacket.bump.countPlaced.enterStore
    · exact hs.dropPacket.bump.countPlaced.modCore.event

theorem State.memOk.returned (hs : s.memOk) {p n} : (s.returned p n).memOk := by
  unfold State.returned
  dsimp only
  split
  · exact hs.dropPacket.bump.countPlaced.modCore.event
  · exact hs

theorem State.memOk.execNeedleArrival (hs : s.memOk) {id} : nextHas State.memOk (execNeedleArrival id s) := by
  refine State.memOk.next ?_
  split
  · exact hs
  · split
    · split
      · exact hs.returned
      · exact hs.arrive.getD hs
    · exact hs

theorem State.memOk.execSpillReturn (hs : s.memOk) {core} : nextHas State.memOk (execSpillReturn core s) := by
  refine State.memOk.next ?_
  split
  · exact hs
  · split
    · exact hs
    · exact hs.modCore.enterStore

theorem State.memOk.execLaunchEntryFetch (hs : s.memOk) {die key} : nextHas State.memOk (execLaunchEntryFetch die key s) := by
  refine State.memOk.next ?_
  split
  · exact hs
  · split
    · exact hs.send
    · split
      · exact hs.dropPacket.reply
      · dsimp only
        split
        · exact hs.dropPacket
        · exact hs.dropPacket.modDie.spend

theorem State.memOk.formWave (hs : s.memOk) {core spool key} : (s.formWave core spool key).memOk := by
  unfold State.formWave
  dsimp only
  split
  · exact hs.clearSlices.modCore.traceLane
  · exact hs

theorem State.memOk.execArrivalWaveFormation (hs : s.memOk) {core spool key} : nextHas State.memOk (execArrivalWaveFormation core spool key s) :=
  (hs.formWave.ite hs).next

theorem State.memOk.execSpoolTimeout (hs : s.memOk) {core spool key} : nextHas State.memOk (execSpoolTimeout core spool key s) :=
  (hs.formWave.ite hs).next

theorem State.memOk.execSpawnTaskSend (hs : s.memOk) {core} : nextHas State.memOk (execSpawnTaskSend core s) := by
  refine State.memOk.next ?_
  split
  · exact hs
  · split
    · exact hs
    · split
      · exact hs.modCore.same
      · exact hs.modCore.send

theorem State.memOk.execTaskArrival (hs : s.memOk) {id} : nextHas State.memOk (execTaskArrival id s) := by
  refine State.memOk.next ?_
  split
  · exact hs
  · split
    · split
      · exact hs
      · split
        · next h => exact (hs.arrive.of h).fenceCheck
        · exact hs.event.dropPacket.reply
    · exact hs

theorem State.memOk.execTaskRefusal (hs : s.memOk) {id} : nextHas State.memOk (execTaskRefusal id s) := by
  refine State.memOk.next ?_
  split
  · exact hs
  · split
    · exact hs.dropPacket.modCore
    · exact hs

theorem State.memOk.execTaskResendTimeout (hs : s.memOk) {core} : nextHas State.memOk (execTaskResendTimeout core s) := (hs.modCore.ite hs).next

/-! ### Barrier -/

theorem State.memOk.setBarrier (hs : s.memOk) {line key b} : (s.setBarrier line key b).memOk := hs.store

theorem State.memOk.object (hs : s.memOk) {r h bolt ix need suppressed} (hsuppressed : ∀ t, t.memOk → (suppressed t).memOk) :
    (s.object r h bolt ix need suppressed).2.memOk := by
  unfold State.object
  dsimp only
  split
  · exact hs.raiseCause
  · split
    · exact hs.raise
    · exact hsuppressed _ hs
    · split
      · next h' =>
          split
          · exact (hs.locate.snd h').raise
          · exact (hs.locate.snd h').nearCost
      · next h' => exact hs.locate.snd h'

theorem State.memOk.execBinit (hs : s.memOk) {g bolt ix b} : nextHas State.memOk (execBinit g bolt ix b s) := by
  refine (hs.perLane fun r h t ht => ?_).next
  refine ht.outside fun r h u hu => ?_
  split
  · next h' => exact (hu.object fun _ hs => hs.goOn).snd h'
  · next h' => exact ((hu.object fun _ hs => hs.goOn).snd h').setBarrier.goOn

theorem State.memOk.execBexp (hs : s.memOk) {g bolt ix b} : nextHas State.memOk (execBexp g bolt ix b s) := by
  refine (hs.perLane fun r h t ht => ?_).next
  refine ht.outside fun r h u hu => ?_
  split
  · next h' => exact (hu.object fun _ hs => hs.goOn).snd h'
  · next h' =>
      split
      · exact ((hu.object fun _ hs => hs.goOn).snd h').raise
      · exact ((hu.object fun _ hs => hs.goOn).snd h').setBarrier.goOn

theorem State.memOk.execBwait (hs : s.memOk) {g bolt ix b} : nextHas State.memOk (execBwait g bolt ix b s) := by
  refine (hs.blockLanes fun r h t ht => ?_).next
  split
  · exact ht.txAbort
  · split
    · next h' => exact (ht.object fun _ hs => hs.goOn).snd h'
    · next h' =>
        split
        · exact (ht.object fun _ hs => hs.goOn).snd h'
        · exact ((ht.object fun _ hs => hs.goOn).snd h').goOn

theorem State.memOk.setMark (hs : s.memOk) {r h mark} : (s.setMark r h mark).memOk := by
  unfold State.setMark
  split
  · exact hs.modSlotFor
  · exact hs.modWave

theorem State.memOk.arriveOnce (hs : s.memOk) {r h line key b va cnt} : (s.arriveOnce r h line key b va cnt).2.memOk := by
  unfold State.arriveOnce
  dsimp only
  split
  · exact hs
  · split
    · exact hs
    · exact hs.setMark.setBarrier

theorem State.memOk.barvLane (hs : s.memOk) {r h d bolt ix thr cnt done} : (s.barvLane r h d bolt ix thr cnt done).2.memOk := by
  unfold State.barvLane
  split
  · next h => exact (hs.object fun _ hs => hs.modHart.goOn).snd h
  · next t h =>
    have ht : t.memOk := (hs.object fun _ hs => hs.modHart.goOn).snd h
    dsimp only
    split
    · split
      · exact ht.raise
      · exact ht.setBarrier.modHart.goOn
    · split
      · dsimp only
        split
        · exact ht.raise
        · exact ht.modHart.goOn
      · dsimp only
        split
        · exact ht.arriveOnce.raise
        · exact ht.arriveOnce.modHart.goOn

theorem State.memOk.execBarv (hs : s.memOk) {g d bolt ix b thr} : nextHas State.memOk (execBarv g d bolt ix b thr s) := by
  refine State.memOk.next (List.foldlRecOn (motive := fun acc : List Arrived × State => acc.2.memOk) _ _ hs fun acc hacc e _ => ?_)
  dsimp only
  split
  · exact hacc
  · split
    · exact hacc
    · split
      · exact hacc.setHart
      · split
        · exact hacc.txAbort
        · exact hacc.barvLane

theorem State.memOk.execTxopen (hs : s.memOk) {g target} : nextHas State.memOk (execTxopen g target s) :=
  (hs.perLane fun _ _ _ hs => hs.raiseCause.ite ((hs.raiseCause.ite hs.modHart.goOn).ite (hs.txAbort.ite hs.modHart.goOn))).next

theorem State.memOk.commitWrites (hs : s.memOk) {own t} : (s.commitWrites own t).memOk := by
  refine State.memOk.foldl ?_ fun _ _ hs => hs.lineChanged
  exact Memory.wf_foldl _ (fun m _ h => Memory.wf_set m _ _ h) _ _ (hs.foldl fun _ _ hs => hs.conflicts)

theorem State.memOk.execTxseal (hs : s.memOk) {g} : nextHas State.memOk (execTxseal g s) := by
  refine (hs.perLane fun r h t ht => ?_).next
  split
  · exact ht.raiseCause
  · split
    · exact ht.modHart.goOn
    · split
      · exact ht.holdScored
      · exact ht.hold
      · exact (ht.event.ite ht).raise
      · exact (ht.modHart.commitWrites.foldl fun _ _ hs => hs.lineCost).goOn

theorem State.memOk.execTxretry (hs : s.memOk) {g} : nextHas State.memOk (execTxretry g s) := by
  refine (hs.blockLanes fun r h t ht => ?_).next
  split
  · exact ht.raiseCause
  · split
    · exact ht.setHart
    · split
      · exact ht.txAbort
      · exact ht.modHart

theorem State.memOk.execTxelse (hs : s.memOk) {g target} : nextHas State.memOk (execTxelse g target s) :=
  (hs.perLane fun _ _ _ hs => hs.raiseCause.ite (hs.raiseCause.ite (hs.txAbort.ite hs.modHart.goOn))).next

theorem State.memOk.execTxdrop (hs : s.memOk) {g code} : nextHas State.memOk (execTxdrop g code s) :=
  (hs.perLane fun _ _ _ hs => hs.raiseCause.ite hs.txAbort).next

/-! ### System -/

theorem State.memOk.execMovId (hs : s.memOk) {g d i} : nextHas State.memOk (execMovId g d i s) := (hs.perLane fun _ _ _ hs => hs.modHart.goOn).next

theorem State.memOk.sysWrite (hs : s.memOk) {r h scope n i w} : (s.sysWrite r h scope n i w).memOk := by
  unfold State.sysWrite
  split
  · exact hs.modHart
  · split
    · exact hs.modWave
    · exact hs
  · exact hs.modSlotFor
  · split
    · exact hs.modCore
    · exact hs

theorem State.memOk.sysAccess (hs : s.memOk) {num idx x f} (hf : ∀ a t, t.memOk → (f a t).memOk) : nextHas State.memOk (sysAccess num idx x f s) := by
  refine State.memOk.next ?_
  split
  · exact hs.raiseAll
  · split
    · exact hs.raiseAll
    · exact hf _ _ (hs.divert fun _ _ hs => hs.raiseCause)

theorem State.memOk.execMovs (hs : s.memOk) {g d num idx x a} : nextHas State.memOk (execMovs g d num idx x a s) :=
  hs.sysAccess fun _ _ hs => hs.perLane fun _ _ _ hs => hs.modHart.goOn.ite hs.raiseCause

theorem State.memOk.execMovsw (hs : s.memOk) {g num idx x a b} : nextHas State.memOk (execMovsw g num idx x a b s) :=
  hs.sysAccess fun _ _ hs => hs.perLane fun _ _ _ hs => hs.raiseCause.ite (hs.sysWrite.goOn.ite hs.goOn)

theorem State.memOk.tret (hs : s.memOk) {r h} : (s.tret r h).memOk := by
  unfold State.tret
  extract_lets eres traced
  have htraced : traced.memOk := hs.traceLane
  split
  · exact hs.raiseCause
  · split
    · exact hs.raiseCause
    · exact hs.overlayMiss
    · split
      · exact hs.overlayMiss
      · split_ifs
        · exact hs.raiseCause
        · exact htraced.setHart
        · split
          · exact htraced.setHart.restoredCheck
          · exact htraced.setHart.startRestore

theorem State.memOk.atSystem (hs : s.memOk) {f} (hf : ∀ t, t.memOk → (f t).memOk) : nextHas State.memOk (atSystem f s) :=
  (hf _ (hs.divert fun _ _ hs => hs.raiseCause)).next

theorem State.memOk.execHalt (hs : s.memOk) {g} : nextHas State.memOk (execHalt g s) :=
  hs.atSystem fun _ hs => hs.perLane fun _ _ _ hs => hs.haltNow.ite hs.modHart

/-! ### Counters -/

theorem State.memOk.openFrame (hs : s.memOk) {core k} : (s.openFrame core k).memOk := hs.modSlot

theorem State.memOk.setControl (hs : s.memOk) {core k n v} : (s.setControl core k n v).memOk := by
  unfold State.setControl
  split
  · split
    · exact hs.modSlot.openFrame
    · exact hs.flushTrace.closeFrame.modSlot
  · exact hs.modSlot

theorem State.memOk.debugRelease (hs : s.memOk) {core k step} : (s.debugRelease core k step).memOk :=
  hs.modSlot.foldl fun _ _ hs => hs.debugLeave.modHart

theorem State.memOk.debugDeliver (hs : s.memOk) {core k} : (s.debugDeliver core k).memOk := hs.foldl fun _ _ hs => hs.debugLeave.toHandler
theorem State.memOk.stopAll (hs : s.memOk) {core k} : (s.stopAll core k).memOk := hs.modSlot

theorem State.memOk.debugCommand (hs : s.memOk) {core k code} : (s.debugCommand core k code).memOk := by
  unfold State.debugCommand
  split
  · exact hs.debugRelease
  · exact hs.debugDeliver
  · exact hs.debugRelease
  · exact hs.stopAll
  · exact hs

theorem State.memOk.hostCommand (hs : s.memOk) {core k code} : (s.hostCommand core k code).memOk := by
  unfold State.hostCommand
  split
  · exact hs.debugCommand
  · exact hs

theorem State.memOk.ctrWrite (hs : s.memOk) {core k n v} : (s.ctrWrite core k n v).memOk := by
  unfold State.ctrWrite
  split
  · exact hs.debugCommand
  · split
    · exact hs.modCore
    · exact hs.modSlot

theorem State.memOk.ctrAccess (hs : s.memOk) {n x denied f} (hf : ∀ t, t.memOk → (f t).memOk) : nextHas State.memOk (ctrAccess n x denied f s) :=
  ((hf _ hs).ite (hs.raiseAll.ite (hf _ (hs.divert fun _ _ hs => hs.raiseCause)))).next

theorem State.memOk.execCtrrd (hs : s.memOk) {g d n x a} : nextHas State.memOk (execCtrrd g d n x a s) := by
  refine hs.ctrAccess fun t ht => ?_
  refine ht.perLane fun r h u hu => ?_
  split
  · dsimp only
    split
    · exact hu.raiseCause
    · exact hu.launchResult.goOn
  · dsimp only
    split
    · exact hu.raiseCause
    · exact hu.launchResult.goOn

theorem State.memOk.execCtrset (hs : s.memOk) {g n x a b} : nextHas State.memOk (execCtrset g n x a b s) := by
  refine hs.ctrAccess fun t ht => ?_
  refine ht.perLane fun r h u hu => ?_
  split
  · exact hu.raiseCause
  · dsimp only
    split
    · exact hu.goOn.ctrWrite
    · exact hu.goOn

theorem State.memOk.execBrkpt (hs : s.memOk) {g code} : nextHas State.memOk (execBrkpt g code s) :=
  (hs.perLane fun _ _ _ hs => hs.raise.ite (hs.modHart.goOn.ite (hs.txAbort.stopAt.ite hs.stopAt))).next

theorem State.memOk.hostWrite (hs : s.memOk) {core k n v} : (s.hostWrite core k n v).memOk := by
  unfold State.hostWrite
  split
  · exact hs
  · dsimp only
    split
    · exact hs
    · exact hs.ctrWrite

theorem State.memOk.execCounterWrite (hs : s.memOk) {core slot n val} : nextHas State.memOk (execCounterWrite core slot n val s) :=
  (hs.ite hs.hostWrite).next

theorem State.memOk.execTraceEnable (hs : s.memOk) {core slot val} : nextHas State.memOk (execTraceEnable core slot val s) :=
  (hs.hostWrite.ite hs).next

theorem State.memOk.execTraceDisable (hs : s.memOk) {core slot val} : nextHas State.memOk (execTraceDisable core slot val s) :=
  (hs.ite hs.hostWrite).next

theorem State.memOk.execQuantumWrite (hs : s.memOk) {core val} : nextHas State.memOk (execQuantumWrite core val s) := (hs.modCore.ite hs).next

theorem State.memOk.sampleEntry (hs : s.memOk) {core k q e} : (s.sampleEntry core k q e).memOk := by
  unfold State.sampleEntry
  dsimp only
  split
  · exact hs.modSlot
  · exact hs.same.storeNear.claimEntries

theorem State.memOk.execSampleRecord (hs : s.memOk) {core slot id} : nextHas State.memOk (execSampleRecord core slot id s) := by
  refine State.memOk.next ?_
  split
  · exact hs
  · split
    · exact hs
    · exact hs.modSlot.sampleEntry

/-! ### Convert -/

theorem State.memOk.mapLanesAt (hs : s.memOk) {f} : (s.mapLanesAt f).memOk := by
  unfold State.mapLanesAt
  split
  · exact hs.mapLanes
  · exact hs.modWave

theorem State.memOk.convDrawn (hs : s.memOk) {c g d a n} : nextHas State.memOk (Conv.drawn c g d a n s) := hs.mapLanesAt.modSlot.next

theorem State.memOk.execCvtsr (hs : s.memOk) {g d a df sf b xr sat ftz pk} : nextHas State.memOk (execCvtsr g d a df sf b xr sat ftz pk s) := by
  unfold Machine.execCvtsr
  split
  · exact hs.mapLanes.next
  · exact hs.convDrawn

theorem State.memOk.execSrseed (hs : s.memOk) {g a which} : nextHas State.memOk (execSrseed g a which s) := by
  refine State.memOk.next ?_
  split
  · exact hs.mapLanes
  · exact hs.mapLanes.modSlot

theorem State.memOk.execQnt (hs : s.memOk) {g d a df sf b planes rm sat ftz pk} :
    nextHas State.memOk (execQnt g d a df sf b planes rm sat ftz pk s) := by
  unfold Machine.execQnt
  split
  · exact hs.convDrawn
  · exact hs.mapLanes.next

/-! ### Engines -/

theorem State.memOk.modCommand (hs : s.memOk) {core slot id f} : (s.modCommand core slot id f).memOk := hs.modSlot
theorem State.memOk.dropCommand (hs : s.memOk) {core slot id} : (s.dropCommand core slot id).memOk := hs.modSlot

theorem State.memOk.enqueue (hs : s.memOk) {r h c} : (s.enqueue r h c).memOk := by
  unfold State.enqueue
  split
  · exact hs
  · split
    · exact hs.hold
    · exact hs.modSlotFor.bump.goOn

theorem State.memOk.endOf (hs : s.memOk) {r h hoop n x cnt} : (s.endOf r h hoop n x cnt).2.memOk := by
  unfold State.endOf
  split
  · exact hs
  · split
    · next h' => exact hs.patternRead.snd h'
    · next h' => exact hs.patternRead.snd h'

theorem State.memOk.modEngref (hs : s.memOk) {core ctx n up} : (s.modEngref core ctx n up).memOk := hs.setHoop

theorem State.memOk.takeEntries (hs : s.memOk) {core ctx n cnt} : (s.takeEntries core ctx n cnt).2.memOk := by
  unfold State.takeEntries
  dsimp only
  exact hs.setHoop

theorem State.memOk.fireAll (hs : s.memOk) {core slot c src dst ranges f} : (s.fireAll core slot c src dst ranges f).memOk := by
  unfold State.fireAll
  refine State.memOk.releaseHeld (State.memOk.modCommand (State.memOk.iteElse ?_ fun hs => hs.modCore))
  refine State.memOk.same (State.memOk.foldl ?_ fun _ _ hs => hs.modEngref)
  refine List.foldlRecOn (motive := fun acc : List Claim × State => acc.2.memOk) dst _ ?_ fun acc hacc e _ => ?_
  · refine List.foldlRecOn (motive := fun acc : List Claim × State => acc.2.memOk) src _ hs fun acc hacc e _ => ?_
    split
    next h => exact hacc.takeEntries.snd h
  · split
    next h => exact hacc.claimEntries.snd h

theorem State.memOk.bulkPackets (hs : s.memOk) {src home ctx launch slack job n} : (s.bulkPackets src home ctx launch slack job n).memOk :=
  hs.foldl fun _ _ hs => hs.send

theorem State.memOk.sendBulk (hs : s.memOk) {core ctx launch slack job lines write} : (s.sendBulk core ctx launch slack job lines write).memOk :=
  hs.foldl fun _ _ hs => hs.bulkPackets

theorem State.memOk.serving (hs : s.memOk) {id} : (s.serving id).memOk := hs.same

theorem State.memOk.storeGlobal (hs : s.memOk) {ctx va bs} : (s.storeGlobal ctx va bs).memOk := by
  refine hs.foldl fun t a ht => ?_
  dsimp only
  split
  · exact ht.store
  · exact ht

theorem State.memOk.chargeVas (hs : s.memOk) {c lines} : (s.chargeVas c lines).memOk := by
  refine hs.foldl fun t a ht => ?_
  split
  · exact ht.lineCost
  · exact ht

theorem State.memOk.fillEntries (hs : s.memOk) {core ctx q entries} : (s.fillEntries core ctx q entries).memOk :=
  (hs.foldl fun _ _ hs => hs.storeNear).fillClaim

theorem State.memOk.reportEngine (hs : s.memOk) {core slot c cause addr space} : (s.reportEngine core slot c cause addr space).memOk := by
  unfold State.reportEngine
  dsimp only
  split
  · exact hs.postError
  · exact hs.lateStop

theorem State.memOk.deliverBytes (hs : s.memOk) {core slot c space off n} : (s.deliverBytes core slot c space off n).memOk := by
  unfold State.deliverBytes
  dsimp only
  split
  · exact hs.setBarrier.reportEngine
  · exact hs.setBarrier

theorem State.memOk.chargeBytes (hs : s.memOk) {c n} : (s.chargeBytes c n).memOk := by
  unfold State.chargeBytes
  dsimp only
  split
  · exact hs
  · exact hs.event.charge

theorem State.memOk.finish (hs : s.memOk) {core slot c} : (s.finish core slot c).memOk := by
  refine State.memOk.dropCommand (State.memOk.iteElse (State.memOk.iteThen ?_ fun hs => hs.foldl fun _ _ hs => hs.releaseHeld) fun hs => hs.releaseHeld)
  exact ((hs.foldl fun _ _ hs => hs.setHoop).foldl fun _ _ hs => hs.modEngref).same

theorem State.memOk.clearCovered (hs : s.memOk) {runs} : (s.clearCovered runs).memOk := hs.same

theorem State.memOk.applyWrites (hs : s.memOk) {core c e} : (s.applyWrites core c e).memOk :=
  (((hs.ite hs.clearCovered).foldl fun _ _ hs => hs.storeNear).foldl fun _ _ hs => hs.storeGlobal).chargeVas

theorem State.memOk.retire (hs : s.memOk) {core slot c e} : (s.retire core slot c e).memOk := by
  refine (State.memOk.chargeBytes ?_).finish
  split
  · refine (State.memOk.foldl ?_ fun _ _ hs => hs.fillEntries).deliverBytes
    split
    · exact hs.applyWrites
    · exact hs.applyWrites.modSlot
  · refine State.memOk.foldl ?_ fun _ _ hs => hs.fillEntries
    split
    · exact hs.applyWrites
    · exact hs.applyWrites.modSlot

theorem State.memOk.failCommand (hs : s.memOk) {core slot c cause addr space fill} : (s.failCommand core slot c cause addr space fill).memOk :=
  (hs.foldl fun _ _ hs => hs.fillEntries).finish.reportEngine

theorem State.memOk.commandWaits (hs : s.memOk) {core slot c cause va home write} : (s.commandWaits core slot c cause va home write).memOk :=
  hs.modCommand.reportPage

/-! ### Copy -/

theorem State.memOk.issueCommand (hs : s.memOk) {r h checks c} : (s.issueCommand r h checks c).memOk := by
  unfold State.issueCommand
  split
  · exact hs.raise
  · exact hs.enqueue

theorem State.memOk.cpyLane (hs : s.memOk) {r h sh dh bsp src dst a b c n sl} : (s.cpyLane r h sh dh bsp src dst a b c n sl).memOk := by
  unfold State.cpyLane
  split
  · next h' => exact hs.endOf.snd h'
  · next h' =>
      split
      · next h'' => exact (hs.endOf.snd h').endOf.snd h''
      · next h'' => exact ((hs.endOf.snd h').endOf.snd h'').issueCommand

theorem State.memOk.cpymLane (hs : s.memOk) {r h d sh bsp src dst a b c n scope sl} : (s.cpymLane r h d sh bsp src dst a b c n scope sl).memOk := by
  unfold State.cpymLane
  split
  · next h' => exact hs.endOf.snd h'
  · next h' =>
      split
      · next h'' => exact (hs.endOf.snd h').endOf.snd h''
      · next h'' => exact ((hs.endOf.snd h').endOf.snd h'').issueCommand

theorem State.memOk.cpyoLane (hs : s.memOk) {r h any slot bsp a c sl} : (s.cpyoLane r h any slot bsp a c sl).memOk := hs.issueCommand

theorem State.memOk.gathLane (hs : s.memOk) {r h sh dh bsp src dst bolt a b c n sl} : (s.gathLane r h sh dh bsp src dst bolt a b c n sl).memOk := by
  unfold State.gathLane
  split
  · next h' => exact hs.endOf.snd h'
  · next h' =>
      split
      · next h'' => exact (hs.endOf.snd h').endOf.snd h''
      · next h'' => exact ((hs.endOf.snd h').endOf.snd h'').issueCommand

theorem State.memOk.scatLane (hs : s.memOk) {r h sh bsp src dst bolt a b c n sl} : (s.scatLane r h sh bsp src dst bolt a b c n sl).memOk := by
  unfold State.scatLane
  split
  · next h' => exact hs.endOf.snd h'
  · next h' =>
      split
      · next h'' => exact (hs.endOf.snd h').endOf.snd h''
      · next h'' => exact ((hs.endOf.snd h').endOf.snd h'').issueCommand

theorem State.memOk.binLane (hs : s.memOk) {r h n bolt a b c sl} : (s.binLane r h n bolt a b c sl).memOk := hs.issueCommand

theorem State.memOk.loadFor (hs : s.memOk) {core ctx ovl slot ovt slack} : (s.loadFor core ctx ovl slot ovt slack).memOk := by
  unfold State.loadFor
  split
  · exact hs
  · exact hs.modCore.bump

theorem State.memOk.copyFire (hs : s.memOk) {core slot c} : (s.copyFire core slot c).memOk := by
  unfold State.copyFire
  extract_lets parts fired
  have hfired : fired.memOk := hs.fireAll
  clear_value fired
  split
  · split
    · exact hfired.loadFor
    · extract_lets delivered
      have hdelivered : delivered.memOk := by
        unfold delivered
        split
        · exact hfired.deliverBytes
        · exact hfired
      exact hdelivered.finish
  · exact hfired

theorem State.memOk.retirePart (hs : s.memOk) {core slot c e} : (s.retirePart core slot c e).memOk := by
  unfold State.retirePart
  extract_lets data near charged n total
  have hcharged : charged.memOk := by
    unfold charged
    split
    · exact hs
    · split
      · exact hs.chargeVas
      · exact hs.chargeVas.modSlot
  clear_value charged
  split
  · exact hcharged.finish
  · extract_lets i k spent written delivered rest
    have hwritten : written.memOk := (hcharged.iteElse spend).applyWrites
    have hdelivered : delivered.memOk := by
      unfold delivered
      split
      · exact hwritten.deliverBytes
      · exact hwritten
    clear_value delivered rest
    split
    · exact hdelivered.chargeBytes.finish
    · exact hdelivered.modCommand

theorem State.memOk.copyRetire (hs : s.memOk) {core slot c e} : (s.copyRetire core slot c e).memOk := by
  unfold State.copyRetire
  split
  · exact hs.retirePart
  · exact hs.retire

theorem State.memOk.execBinPrepare (hs : s.memOk) {id} : nextHas State.memOk (execBinPrepare id s) := by
  refine State.memOk.next ?_
  split
  · exact hs
  · split
    · exact hs
    · split
      · split
        · exact hs.dropCommand.releaseHeld
        · split
          · dsimp only
            split
            · exact hs.modCommand
            · exact hs.commandWaits
            · exact hs
          · dsimp only
            split
            · exact hs.same.modCommand
            · exact hs.same.commandWaits
            · exact hs.same
      · exact hs

theorem State.memOk.loadedLane (hs : s.memOk) {ctx ovl ok r} : (s.loadedLane ctx ovl ok r).memOk := by
  unfold State.loadedLane
  split
  · exact hs
  · split
    · exact hs
    · split
      · split
        · exact hs
        · split
          · exact hs.release
          · exact hs.release.raiseCause
      · split
        · exact hs
        · split
          · exact hs.go
          · exact hs.release.raiseCause
      · exact hs

theorem State.memOk.awaitOverlays (hs : s.memOk) {core} : (s.awaitOverlays core).memOk := by
  unfold State.awaitOverlays
  split
  · exact hs
  · exact hs.modCore.foldl fun _ _ hs => hs.event.startLoad

theorem State.memOk.loadEnded (hs : s.memOk) {l size addr} : (s.loadEnded l size addr).memOk := by
  refine (hs.modCore.foldl fun t a ht => ?_).foldl fun _ _ hs => hs.loadedLane
  split
  · split
    · exact ht.retire
    · exact ht.failCommand

theorem State.memOk.install (hs : s.memOk) {l slot image} : (s.install l slot image).memOk := by
  have hm : State.memOk { s with mem := Memory.setBytes (Memory.clear s.mem (imemKey l.core slot 0) 65536) (imemKey l.core slot 0) image } :=
    Memory.wf_setBytes _ _ _ (Memory.wf_clear _ _ _ hs)
  exact hm.overtake.modCore

theorem State.memOk.askImage (hs : s.memOk) {l} : (s.askImage l).memOk := hs.modCore.sendBulk

theorem State.memOk.execOverlayLoadCompletion (hs : s.memOk) {id} : nextHas State.memOk (execOverlayLoadCompletion id s) := by
  refine State.memOk.next ?_
  split
  · exact hs
  · split
    · exact hs
    · split
      · split
        · exact hs.askImage
        · exact hs.modCore.install.loadEnded.awaitOverlays
      · exact hs.modCore.loadEnded
      · exact hs.modCore.reportPage
      · exact hs

/-! ### Retrieval -/

theorem State.memOk.setTable (hs : s.memOk) {die ctx rt t} : (s.setTable die ctx rt t).memOk := hs.modDie

theorem State.memOk.engineRead (hs : s.memOk) {w addr n} : okHas (fun x => x.2.memOk) (s.engineRead w addr n) := by
  unfold State.engineRead
  split
  · exact trivial
  · exact hs.ite hs.chargeVas

theorem State.memOk.engineWrite (hs : s.memOk) {w addr bytes} : okHas State.memOk (s.engineWrite w addr bytes) := by
  unfold State.engineWrite
  split
  · exact hs.storeNear
  · dsimp only
    split
    · exact trivial
    · exact hs.storeGlobal.chargeVas

theorem State.memOk.clearLines (hs : s.memOk) {w addr n} : okHas State.memOk (s.clearLines w addr n) := by
  induction n generalizing s addr with
  | zero => exact hs
  | succ n ih =>
    unfold State.clearLines
    split
    · trivial
    · next h => exact ih (hs.engineWrite.of h)

theorem State.memOk.clearStorage (hs : s.memOk) {w st} : okHas State.memOk (s.clearStorage w st) := by
  unfold State.clearStorage
  dsimp only
  split
  · exact trivial
  · next h =>
      split
      · exact hs.clearLines.of h
      · exact (hs.clearLines.of h).engineWrite

theorem State.memOk.readBucket (hs : s.memOk) {w st sub b} : okHas (fun x => x.2.memOk) (s.readBucket w st sub b) := hs.engineRead.map fun _ h => h
theorem State.memOk.writeBucket (hs : s.memOk) {w st sub b rows} : okHas State.memOk (s.writeBucket w st sub b rows) := hs.engineWrite

theorem State.memOk.readOverflow (hs : s.memOk) {w n} : okHas (fun x => x.2.memOk) (s.readOverflow w n) := by
  induction n with
  | zero => exact hs
  | succ n ih =>
    unfold State.readOverflow
    split
    · trivial
    · next h =>
      have ht := ih.of h
      exact ht.engineRead.map fun _ h => h

theorem State.memOk.dropOverflow (hs : s.memOk) {w p l} : okHas State.memOk (s.dropOverflow w p l) := by
  induction l generalizing s with
  | nil => exact hs
  | cons e l ih =>
    unfold State.dropOverflow
    split
    · split
      · trivial
      · next h => exact ih (hs.engineWrite.of h)
    · exact ih hs

theorem State.memOk.insertOne (hs : s.memOk) {w st r sub b} : okHas (fun x => x.2.memOk) (s.insertOne w st r sub b) := by
  unfold State.insertOne
  split
  · trivial
  · next hb =>
    split
    · trivial
    · next ho =>
      have ht := (hs.readBucket.of hb).readOverflow.of ho
      split_ifs
      · exact ht
      · exact ht.writeBucket.map fun _ h => h
      · exact ht.writeBucket.map fun _ h => h
      · split
        · exact ht
        · exact ht.engineWrite.map fun _ h => h
      · exact ht

theorem State.memOk.insertRow (hs : s.memOk) {w st r l} : okHas (fun x => x.2.memOk) (s.insertRow w st r l) := by
  induction l generalizing s with
  | nil => exact hs
  | cons e l ih =>
    unfold State.insertRow
    split
    · trivial
    · next h => exact (ih (hs.insertOne.of h)).map fun _ h => h

theorem State.memOk.deleteRow (hs : s.memOk) {w st r l} : okHas (fun x => x.2.memOk) (s.deleteRow w st r l) := by
  induction l generalizing s with
  | nil => exact hs
  | cons e l ih =>
    unfold State.deleteRow
    split
    · trivial
    · next rows t h =>
      have ht : t.memOk := hs.readBucket.of h
      split
      · trivial
      · next ov u h =>
        have hu : u.memOk := ht.readOverflow.of h
        have hw : okHas State.memOk (if rows.contains r then u.writeBucket w st e.1 e.2 (rows.filter (· != r)) else .ok u) := by
          split
          · exact hu.writeBucket
          · exact hu
        dsimp only
        split
        · trivial
        · next h =>
          split
          · trivial
          · next h' => exact (ih ((hw.of h).dropOverflow.of h')).map fun _ h => h

theorem State.memOk.opInsert (hs : s.memOk) {w r} : okHas (fun x => x.2.memOk) (s.opInsert w r) := by
  unfold State.opInsert
  split
  · split
    · exact trivial
    · dsimp only
      split
      · exact trivial
      · exact hs.insertRow
  · split
    · exact trivial
    · dsimp only
      split
      · exact trivial
      · exact hs.insertRow

theorem State.memOk.opDelete (hs : s.memOk) {w r} : okHas (fun x => x.2.memOk) (s.opDelete w r) := by
  unfold State.opDelete
  split
  · trivial
  · split
    · trivial
    · split
      · trivial
      · next h =>
        have ht := hs.deleteRow.of h
        split
        · exact ht
        · split
          · trivial
          · exact ht.deleteRow.map fun _ h => h

theorem State.memOk.candidates (hs : s.memOk) {w st ov sub b} : okHas (fun x => x.2.memOk) (s.candidates w st ov sub b) :=
  hs.readBucket.map fun _ h => h

theorem State.memOk.gatherCandidates (hs : s.memOk) {w ov l} : okHas (fun x => x.2.memOk) (s.gatherCandidates w ov l) := by
  induction l generalizing s with
  | nil => exact hs
  | cons e l ih =>
    unfold State.gatherCandidates
    split
    · trivial
    · next h => exact (ih (hs.candidates.of h)).map fun _ h => h

theorem State.memOk.opProbe (hs : s.memOk) {w max} : okHas (fun x => x.2.memOk) (s.opProbe w max) := by
  unfold State.opProbe
  dsimp only
  split
  · trivial
  · split
    · trivial
    · next h =>
      have ht := hs.readOverflow.of h
      exact ht.gatherCandidates.map fun _ h => h

theorem State.memOk.moveRows (hs : s.memOk) {w l} : okHas State.memOk (s.moveRows w l) := by
  induction l generalizing s with
  | nil => exact hs
  | cons r l ih =>
    unfold State.moveRows
    split
    · trivial
    · split
      · trivial
      · next h => exact ih (hs.insertRow.of h)

theorem State.memOk.moveBucket (hs : s.memOk) {w b l} : okHas State.memOk (s.moveBucket w b l) := by
  induction l generalizing s with
  | nil => exact hs
  | cons sub l ih =>
    unfold State.moveBucket
    dsimp only
    split
    · trivial
    · next h₁ =>
      split
      · trivial
      · next h₂ =>
        split
        · trivial
        · next h₃ =>
          split
          · trivial
          · next h₄ =>
            have ht := ((hs.readOverflow.of h₁).candidates.of h₂).moveRows.of h₃ |>.writeBucket.of h₄
            split
            · trivial
            · next h₅ =>
              split
              · trivial
              · next h₆ => exact ih ((ht.readOverflow.of h₅).dropOverflow.of h₆)

theorem State.memOk.moveBuckets (hs : s.memOk) {w cursor n} : okHas State.memOk (s.moveBuckets w cursor n) := by
  induction n generalizing s cursor with
  | zero => exact hs
  | succ n ih =>
    unfold State.moveBuckets
    split
    · trivial
    · next h => exact ih (hs.moveBucket.of h)

theorem State.memOk.opRehash (hs : s.memOk) {w rt x} : okHas State.memOk (s.opRehash w rt x) := by
  unfold State.opRehash
  dsimp only
  split
  · exact trivial
  · unfold Except.map
    split
    · exact trivial
    · next h => exact (hs.moveBuckets.of h).setTable

theorem State.memOk.opDefine (hs : s.memOk) {die c rt v} : okHas State.memOk (s.opDefine die c rt v) := by
  unfold State.opDefine
  split
  · exact trivial
  · dsimp only
    split
    · exact trivial
    · split
      · exact trivial
      · split
        · exact trivial
        · next h =>
            unfold Except.map
            split
            · exact trivial
            · next h' => exact ((hs.clearStorage.of h).dropOverflow.of h').overtake.setTable

theorem State.memOk.opRehashStart (hs : s.memOk) {w rt v} : okHas State.memOk (s.opRehashStart w rt v) := by
  unfold State.opRehashStart
  dsimp only
  split
  · exact trivial
  · split
    · exact trivial
    · next h =>
        split
        · exact trivial
        · next h' =>
            unfold Except.map
            split
            · exact trivial
            · next h'' => exact (((hs.clearStorage.of h).readOverflow.of h').dropOverflow.of h'').setTable

theorem State.memOk.enqueueOp (hs : s.memOk) {r h c} : (s.enqueueOp r h c).memOk := by
  unfold State.enqueueOp
  split
  · dsimp only
    split
    · exact hs.enqueue
    · exact hs.enqueue.setHart
  · dsimp only
    split
    · exact hs.enqueue
    · exact hs.enqueue.modHart

theorem State.memOk.takeQuery (hs : s.memOk) {core slot rt c} : (s.takeQuery core slot rt c).memOk := by
  unfold State.takeQuery
  split
  · exact hs.chargeVas.modCommand
  · exact hs.commandWaits
  · exact hs
  · exact hs

theorem State.memOk.retrievalFire (hs : s.memOk) {core slot c} : (s.retrievalFire core slot c).memOk := by
  unfold State.retrievalFire
  split
  · dsimp only
    split
    · exact hs.fireAll.takeQuery
    · exact hs.fireAll
  · exact hs.fireAll

theorem State.memOk.opDone (hs : s.memOk) {c} : (s.opDone c).memOk := by
  unfold State.opDone
  split
  · exact hs
  · dsimp only
    split
    · exact hs.modHart
    · split
      · split
        · exact hs.modHart.goPast
        · exact hs.modHart
      · exact hs.modHart.settle
      · exact hs.modHart

theorem State.memOk.probeCount (hs : s.memOk) {core c d v} : (s.probeCount core c d v).memOk := hs.send

theorem State.memOk.refuseOp (hs : s.memOk) {core slot c addr space} : (s.refuseOp core slot c addr space).memOk := by
  unfold State.refuseOp
  split
  · split
    · exact hs.failCommand.probeCount
    · split
      · exact hs.finish.release.raise
      · exact hs.finish.reportEngine
  · split
    · exact hs.opDone.failCommand.probeCount
    · split
      · exact hs.opDone.finish.release.raise
      · exact hs.opDone.finish.reportEngine

theorem State.memOk.replyOp (hs : s.memOk) {core slot c pd v} : (s.replyOp core slot c pd v).memOk := by
  unfold State.replyOp
  split
  · exact hs.finish
  · exact hs.finish.modHart.ackOne

theorem State.memOk.tellDies (hs : s.memOk) {core slot c rt die} : (s.tellDies core slot c rt die).memOk :=
  hs.finish.modHart.foldl fun _ _ hs => hs.send

theorem State.memOk.applyOp (hs : s.memOk) {core slot c} : okHas State.memOk (s.applyOp core slot c) := by
  unfold State.applyOp
  split
  · exact hs
  · dsimp only
    split
    · exact hs.opDefine.map fun _ h => h.opDone.tellDies
    · refine State.memOk.tellDies (State.memOk.opDone ?_)
      split
      · exact hs.setTable
      · exact hs
    · trivial
    · exact hs.opRehashStart.map fun _ h => h.opDone.finish.ackOne
    · exact hs.opInsert.map fun _ h => h.opDone.replyOp
    · exact hs.opDelete.map fun _ h => h.opDone.replyOp
    · exact hs.opRehash.map fun _ h => h.opDone.finish
    · exact hs.opProbe.map fun _ h => h.opDone.modCommand
    · exact hs

theorem State.memOk.tryOp (hs : s.memOk) {core slot c} : okHas State.memOk (s.tryOp core slot c) := by
  unfold State.tryOp
  split
  · unfold Except.map
    split
    · exact trivial
    · exact hs.takeQuery
  · unfold Except.map
    split
    · exact trivial
    · next h => exact (hs.serving.applyOp.of h).serving

theorem State.memOk.execRetrievalOperationApply (hs : s.memOk) {id} : nextHas State.memOk (execRetrievalOperationApply id s) := by
  refine State.memOk.next ?_
  split
  · exact hs
  · split
    · exact hs
    · split
      · next h => exact hs.tryOp.of h
      · exact hs.commandWaits
      · split
        · exact hs.refuseOp
        · exact hs
      · exact hs.refuseOp

theorem State.memOk.probeRetire (hs : s.memOk) {core slot c} : okHas State.memOk (s.probeRetire core slot c) := by
  unfold State.probeRetire
  split
  · extract_lets words ent eff
    clear_value eff
    split
    · trivial
    · split
      · trivial
      · exact hs.retire.probeCount
  · exact hs

theorem State.memOk.execRtprb (hs : s.memOk) {g d rt sh n pat a b bolt m sl} : nextHas State.memOk (execRtprb g d rt sh n pat a b bolt m sl s) := by
  refine (hs.perLane fun r h t ht => ht.outside fun r h u hu => ?_).next
  split
  · next hp => exact hu.patternRead.snd hp
  · next hp =>
    have ht := hu.patternRead.snd hp
    extract_lets _ _ _ _ _ _ _ _ checks before queued
    have hqueued : queued.memOk := ht.enqueueOp
    clear_value checks queued
    split
    · exact ht.raise
    · split
      · exact hqueued
      · split
        · exact hqueued
        · exact hqueued.modHart

theorem State.memOk.opInstr (hs : s.memOk) {g sl work} : nextHas State.memOk (opInstr g sl work s) :=
  (hs.perLane fun _ _ _ hs => hs.outside fun _ _ _ hs => hs.enqueueOp).next

theorem State.memOk.execRtsync (hs : s.memOk) {g} : nextHas State.memOk (execRtsync g s) :=
  (hs.perLane fun _ _ _ hs => hs.outside fun _ _ _ hs => hs.goOn.ite hs.setHart).next

theorem State.memOk.defineLane (hs : s.memOk) {r h rt bolt a form} : (s.defineLane r h rt bolt a form).memOk := by
  unfold State.defineLane
  split
  · next h' => exact hs.image.snd h'
  · next h' => exact (hs.image.snd h').enqueueOp

/-! ### Stitch -/

theorem State.memOk.setBank (hs : s.memOk) {core n b} : (s.setBank core n b).memOk := by
  have hm : State.memOk { s with mem :=
      (b.cells.zip (List.range b.cells.length)).foldl (fun m e => Memory.setBytes m (bankKey core n e.2 0) e.1) s.mem } :=
    Memory.wf_foldl _ (fun _ _ h => Memory.wf_setBytes _ _ _ h) _ _ hs
  exact hm.modCore

theorem State.memOk.reloadBank (hs : s.memOk) {core c n} : okHas State.memOk (s.reloadBank core c n) := by
  unfold State.reloadBank
  dsimp only
  split
  · exact trivial
  · unfold Except.map
    split
    · exact trivial
    · exact hs.setBank.chargeVas

theorem State.memOk.setTileStatus (hs : s.memOk) {core tile v} : (s.setTileStatus core tile v).memOk := hs.modCore
theorem State.memOk.planeCycles (hs : s.memOk) {c n} : (s.planeCycles c n).memOk := hs.event.charge

theorem State.memOk.writeRow (hs : s.memOk) {core c t q m a} : (s.writeRow core c t q m a).memOk := by
  unfold State.writeRow
  exact hs.clearPoison.setBytes.setTileStatus.planeCycles

theorem State.memOk.streamRows (hs : s.memOk) {core c t q hoop m l} : (s.streamRows core c t q hoop m l).1.memOk := by
  induction l generalizing s m with
  | nil => exact hs
  | cons r l ih =>
    unfold State.streamRows
    dsimp only
    split
    · exact hs
    · split
      · exact hs
      · exact ih hs.writeRow

theorem State.memOk.streamUpTo (hs : s.memOk) {core c limit} : (s.streamUpTo core c limit).1.memOk := by
  unfold State.streamUpTo
  split
  · split
    · exact hs
    · split
      · exact hs
      · exact hs.streamRows
  · exact hs

theorem State.memOk.stitchFire (hs : s.memOk) {core slot c} : (s.stitchFire core slot c).memOk := hs.fireAll

theorem State.memOk.retireWrites (hs : s.memOk) {core slot c e} : okHas State.memOk (s.retireWrites core slot c e) := by
  unfold State.retireWrites
  split
  · exact trivial
  · exact hs.retire

theorem State.memOk.stitchRetire (hs : s.memOk) {core slot c} : okHas State.memOk (s.stitchRetire core slot c) := by
  have hr : ∀ bank, okHas State.memOk (if c.reload then s.reloadBank core c bank else .ok s) := by
    intro bank
    split
    · exact hs.reloadBank
    · exact hs
  unfold State.stitchRetire
  split
  · split
    · dsimp only
      split
      · trivial
      · split
        · trivial
        · exact hs.setBank.retire
    · exact hs.retire
  · split
    · trivial
    · next h =>
      split
      · trivial
      · next h' => exact (((hr _).of h).streamUpTo.fst h').retire
  · exact hs.clearStore.setTileStatus.retire
  · split
    · trivial
    · exact hs.setTileStatus.retireWrites
  · exact hs.setTileStatus.retire
  · exact hs

theorem State.memOk.stitchFail (hs : s.memOk) {core slot c addr space} : (s.stitchFail core slot c addr space).memOk := by
  refine State.memOk.failCommand ?_
  split
  · refine State.memOk.setTileStatus ?_
    split
    · split
      · exact hs
      · dsimp only
        split
        · exact hs
        · exact hs.streamUpTo.spend
    · exact hs
  · split
    · split
      · exact hs
      · dsimp only
        split
        · exact hs
        · exact hs.streamUpTo.spend
    · exact hs

theorem State.memOk.execStitchParityReload (hs : s.memOk) {id row} : nextHas State.memOk (execStitchParityReload id row s) := by
  refine State.memOk.next ?_
  split
  · exact hs
  · split
    · split
      · exact hs
      · split
        · exact hs
        · next h =>
            dsimp only
            split
            · next h' => exact ((hs.streamUpTo.fst h).setTileStatus.event.spend.planeCycles.reloadBank.of h').modCommand
            · exact (hs.streamUpTo.fst h).setTileStatus.event.spend.planeCycles.modCommand
    · exact hs

theorem State.memOk.linked (hs : s.memOk) {lk c f r h} (hf : ∀ r h t, t.memOk → (f r h t).memOk) : (linked lk c f r h s).1.memOk := by
  unfold Machine.linked
  split
  · exact hs.txAbort
  · split
    · exact hf _ _ _ hs
    · split
      · split
        · exact hs.raise
        · dsimp only
          split
          · exact hs.raise
          · split
            · exact hs.holdScored
            · split
              · exact hs.raise
              · split
                · exact hs
                · exact hf _ _ _ hs

theorem State.memOk.patternOf (hs : s.memOk) {r h pat off} : (s.patternOf r h pat off).2.memOk := by
  unfold State.patternOf
  split
  · next h' => exact hs.patternRead.snd h'
  · next h' => exact hs.patternRead.snd h'

theorem State.memOk.tldbLane (hs : s.memOk) {r h bank pat a sg d sl} : (s.tldbLane r h bank pat a sg d sl).memOk := by
  unfold State.tldbLane
  split
  · next h' => exact hs.patternOf.snd h'
  · next h' => exact (hs.patternOf.snd h').issueCommand

theorem State.memOk.tmmaLane (hs : s.memOk) {r h acc tile bank sh kp int pat n a m sg d sl} :
    (s.tmmaLane r h acc tile bank sh kp int pat n a m sg d sl).memOk := by
  unfold State.tmmaLane
  split
  · next h' => exact hs.patternOf.snd h'
  · next h' => exact (hs.patternOf.snd h').issueCommand

theorem State.memOk.tmmagLane (hs : s.memOk) {r h acc tile bank sh kp int pat n bolt a b m sg d sl} :
    (s.tmmagLane r h acc tile bank sh kp int pat n bolt a b m sg d sl).memOk := by
  unfold State.tmmagLane
  split
  · next h' => exact hs.patternOf.snd h'
  · next h' => exact (hs.patternOf.snd h').issueCommand

theorem State.memOk.tzeroLane (hs : s.memOk) {r h tile sg d sl} : (s.tzeroLane r h tile sg d sl).memOk := hs.issueCommand

theorem State.memOk.tstaLane (hs : s.memOk) {r h tile sh pat n a b m sg d sl} : (s.tstaLane r h tile sh pat n a b m sg d sl).memOk := by
  unfold State.tstaLane
  split
  · next h' => exact hs.patternOf.snd h'
  · next h' => exact (hs.patternOf.snd h').issueCommand

theorem State.memOk.tstaStLane (hs : s.memOk) {r h tile pat a sg d sl} : (s.tstaStLane r h tile pat a sg d sl).memOk := by
  unfold State.tstaStLane
  split
  · next h' => exact hs.patternOf.snd h'
  · next h' => exact (hs.patternOf.snd h').issueCommand

theorem State.memOk.setKnot (hs : s.memOk) {r k v} : (s.setKnot r k v).memOk := hs.modSlotFor

theorem State.memOk.execKset (hs : s.memOk) {g k a n} : nextHas State.memOk (execKset g k a n s) := by
  refine (hs.perLane fun r h t ht => ?_).next
  refine ht.outside fun r h u hu => ?_
  split
  · exact hu
  · split
    · dsimp only
      split <;> exact hu.raiseCause
    · dsimp only
      split
      · exact hu.raiseCause
      · exact hu.setKnot.goOn

theorem State.memOk.templateLane (hs : s.memOk) {r h i} : (s.templateLane r h i).memOk := by
  unfold State.templateLane
  split
  · exact hs.cpyLane
  · exact hs.cpymLane
  · exact hs.cpyoLane
  · exact hs.gathLane
  · exact hs.scatLane
  · exact hs.binLane
  · exact hs.tldbLane
  · exact hs.tmmaLane
  · exact hs.tmmagLane
  · exact hs.tzeroLane
  · exact hs.tstaLane
  · exact hs.tstaStLane
  · exact hs.raiseCause

theorem State.memOk.signLast (hs : s.memOk) {r h k q} : (s.signLast r h k q).memOk := by
  unfold State.signLast
  split
  · exact hs.raiseCause
  · split
    · exact hs.raiseCause
    · split
      · exact hs.raiseCause
      · dsimp only
        split
        · exact hs.templateLane.setKnot
        · exact hs.templateLane

theorem State.memOk.execKsign (hs : s.memOk) {g k} : nextHas State.memOk (execKsign g k s) := by
  refine (hs.perLane fun r h t ht => ?_).next
  refine ht.outside fun r h u hu => ?_
  split
  · exact hu
  · dsimp only
    split
    · exact hu.raiseCause
    · split
      · exact hu.signLast
      · exact hu.setKnot.goOn

/-! ### EngineEvents -/

theorem State.memOk.attemptOn (hs : s.memOk) {core slot c} : someHas (okHas State.memOk) (s.attemptOn core slot c) := by
  have ho : ∀ {o : Option Outcome}, someHas (okHas State.memOk) (o.map fun o => match o with
      | .effect e => .ok (s.copyRetire core slot c e)
      | .stop e w => .error (e, w)) := by
    intro o
    rcases o with _ | e | e
    · trivial
    · exact hs.copyRetire
    · trivial
  unfold State.attemptOn
  split
  · trivial
  · split
    · exact ho
    · exact ho
    · exact hs.stitchRetire
    · split
      · exact hs.probeRetire
      · trivial

theorem State.memOk.attempt (hs : s.memOk) {core slot c} : someHas (okHas State.memOk) (s.attempt core slot c) :=
  hs.serving.attemptOn.map fun _ h => h.map fun _ h => h.serving

theorem State.memOk.commandFails (hs : s.memOk) {core slot c addr space} : (s.commandFails core slot c addr space).memOk := by
  unfold State.commandFails
  split
  · exact hs.failCommand
  · exact hs.failCommand
  · exact hs.stitchFail
  · exact hs.refuseOp

theorem State.memOk.sendOp (hs : s.memOk) {core slot c slack rt} : (s.sendOp core slot c slack rt).memOk :=
  (hs.modCommand.iteElse fun hs => hs.send).sendBulk.sendBulk

theorem State.memOk.sendCommand (hs : s.memOk) {core slot c} : (s.sendCommand core slot c).memOk := by
  unfold State.sendCommand
  split
  · split
    · split
      · exact hs.sendBulk.sendBulk.sendOp.foldl fun _ _ hs => hs.bulkPackets
      · exact hs.sendBulk.sendBulk.sendOp
    · split
      · exact hs.sendBulk.sendBulk.foldl fun _ _ hs => hs.bulkPackets
      · exact hs.sendBulk.sendBulk

theorem State.memOk.fireCommand (hs : s.memOk) {core slot c} : (s.fireCommand core slot c).memOk := by
  unfold State.fireCommand
  split
  · exact hs.copyFire
  · exact hs.copyFire
  · exact hs.stitchFire
  · exact hs.retrievalFire

theorem State.memOk.execEngineFire (hs : s.memOk) {id} : nextHas State.memOk (execEngineFire id s) := by
  refine State.memOk.next ?_
  split
  · exact hs
  · split
    · exact hs
    · dsimp only
      split
      · split
        · exact hs.fireCommand.sendCommand
        · exact hs.fireCommand
      · exact hs.fireCommand

theorem State.memOk.execEngineRetire (hs : s.memOk) {id} : nextHas State.memOk (execEngineRetire id s) := by
  refine State.memOk.next ?_
  split
  · exact hs
  · split
    · exact hs
    · split
      · next h => exact hs.attempt.of h
      · exact hs.commandWaits
      · exact hs

theorem State.memOk.execEngineFailure (hs : s.memOk) {id addr} : nextHas State.memOk (execEngineFailure id addr s) := by
  refine State.memOk.next ?_
  split
  · exact hs
  · split
    · exact hs
    · split
      · exact hs.commandFails
      · split
        · exact hs.commandFails
        · exact hs.commandFails
        · split
          · exact hs.commandFails
          · exact hs
        · exact hs.commandFails
        · exact hs

/-! ### Fabric -/

theorem State.memOk.portsBack (hs : s.memOk) : (s.portsBack).memOk := hs.same

theorem State.memOk.flitSeen (hs : s.memOk) {place} : (s.flitSeen place).memOk := by
  unfold State.flitSeen
  split
  · split
    · exact hs.modCore
    · exact hs
  · exact hs

theorem State.memOk.passOver (hs : s.memOk) {p} : (s.passOver p).memOk := hs.foldl fun _ _ hs => hs.same.iteThen fun hs => hs.bump
theorem State.memOk.countOverdue (hs : s.memOk) {p} : (s.countOverdue p).memOk := hs.count
theorem State.memOk.egress (hs : s.memOk) {die p} : (s.egress die p).memOk := State.memOk.ite hs.dropPacket.same.countOverdue hs.dropPacket.same

theorem State.memOk.opReached (hs : s.memOk) {p} : (s.opReached p).memOk := by
  unfold State.opReached
  split
  · split
    · exact hs
    · split
      · exact hs.modCommand
      · exact hs
  · exact hs

theorem State.memOk.execPacketAdvance (hs : s.memOk) {id} : nextHas State.memOk (execPacketAdvance id s) := by
  refine State.memOk.next ?_
  split
  · exact hs
  · extract_lets passed
    have hpassed : passed.memOk := hs.passOver
    split
    · exact hs
    · split
      · extract_lets seen move refused counted spent
        have hcounted : counted.memOk := hpassed.flitSeen.flitSeen.iteThen fun h => h.event
        exact (hcounted.opReached.dropPacket.ite hcounted.same).bump
      · exact hpassed.egress
      · exact hpassed

theorem State.memOk.tickQueue (hs : s.memOk) {core} : (s.tickQueue core).memOk := hs.modCore.foldl fun _ _ hs => hs.count

theorem State.memOk.execSlackTick (hs : s.memOk) : nextHas State.memOk (execSlackTick s) :=
  (hs.ite (hs.same.foldl fun _ _ hs => hs.tickQueue.ite hs)).next

theorem State.memOk.execSlackOverdue (hs : s.memOk) {id} : nextHas State.memOk (execSlackOverdue id s) := by
  refine State.memOk.next ?_
  split
  · split
    · exact hs
    · exact hs.same.countOverdue
  · split
    · exact hs
    · split
      · exact hs
      · exact hs.modCore.count

theorem State.memOk.execRouterPowerGate (hs : s.memOk) {core} : nextHas State.memOk (execRouterPowerGate core s) := (hs.modCore.ite hs).next
theorem State.memOk.execRouterWake (hs : s.memOk) {core} : nextHas State.memOk (execRouterWake core s) := (hs.modCore.ite hs).next
theorem State.memOk.noticeWakes (hs : s.memOk) : (s.noticeWakes).memOk := hs.foldl fun _ _ hs => hs.modCore.ite hs

/-! ### Launch -/

theorem State.memOk.deviceFault (hs : s.memOk) {ctx va origin c write} : (s.deviceFault ctx va origin c write).2.memOk := hs.reportPage
theorem State.memOk.modRecord (hs : s.memOk) {id f} : (s.modRecord id f).memOk := hs.same
theorem State.memOk.dropRecord (hs : s.memOk) {id} : (s.dropRecord id).memOk := hs.same
theorem State.memOk.recordLost (hs : s.memOk) {e c va} : (s.recordLost e c va).memOk := hs.dropRecord.postError

theorem State.memOk.tryRecord (hs : s.memOk) {e} : (s.tryRecord e).memOk := by
  unfold State.tryRecord
  split
  · next h => exact (hs.storeVa.of h).dropRecord
  · exact hs
  · split
    · exact hs.deviceFault.modRecord
    · exact hs.recordLost

theorem State.memOk.deviceWrite (hs : s.memOk) {key ctx va bytes} : (s.deviceWrite key ctx va bytes).memOk := by
  unfold State.deviceWrite
  dsimp only
  split
  · exact hs.same.tryRecord
  · exact hs.same

theorem State.memOk.setQueue (hs : s.memOk) {n q} : (s.setQueue n q).memOk := hs.same
theorem State.memOk.execQueueDoorbell (hs : s.memOk) {q tail} : nextHas State.memOk (execQueueDoorbell q tail s) := (hs.setQueue.ite hs).next
theorem State.memOk.execQueueEnable (hs : s.memOk) {q val} : nextHas State.memOk (execQueueEnable q val s) := (hs.setQueue.ite hs).next
theorem State.memOk.execQueueDisable (hs : s.memOk) {q val} : nextHas State.memOk (execQueueDisable q val s) := (hs.setQueue.ite hs).next
theorem State.memOk.decide_ (hs : s.memOk) {cand} : (s.decide_ cand).2.memOk := hs.same

theorem State.memOk.writeEnd (hs : s.memOk) {key l status} : (s.writeEnd key l status).memOk := by
  unfold State.writeEnd
  split
  · exact hs.deviceWrite
  · exact hs.deviceWrite.deviceWrite

theorem State.memOk.refuse (hs : s.memOk) {c} : (s.refuse c).memOk := (hs.ite hs.spend).writeEnd
theorem State.memOk.startLaunch (hs : s.memOk) {c} : (s.startLaunch c).memOk := (hs.same.same.foldl fun _ _ hs => hs.modCore).bump.deviceWrite

theorem State.memOk.execDispatch (hs : s.memOk) : nextHas State.memOk (execDispatch s) := by
  refine State.memOk.next ?_
  split
  · exact hs
  · split
    · exact hs.tryRecord
    · split
      · split
        · exact hs.deviceFault.setQueue
        · exact hs.setQueue.postError
      · split
        · next h =>
            split
            · exact (hs.decide_.snd h).setQueue.startLaunch
            · exact (hs.decide_.snd h).setQueue.refuse
        · exact hs

theorem State.memOk.reserve (hs : s.memOk) {core tiles banks} : (s.reserve core tiles banks).memOk :=
  (hs.foldl fun _ _ hs => hs.clearStore.modCore.ite hs).foldl fun _ _ hs => hs.clearStore.modCore.ite hs

theorem State.memOk.allocate (hs : s.memOk) {core l image} : (s.allocate core l image).memOk := by
  have hd : ∀ {t : State}, t.memOk → State.memOk (if ((t.die (dieOf core)).allocs.get? l.ctx).isSome then t
      else (t.clearStore (dieKey (dieOf core) l.ctx 0) (2 ^ 26)).modDie (dieOf core) fun d => { d with allocs := d.allocs.set l.ctx l.dspb }) :=
    fun ht => ht.ite ht.clearStore.modDie
  exact hd (hs.iteElse fun hs => (hs.clearStore.modCore.iteElse fun hs => hs.setBytes).reserve)

theorem State.memOk.startBobbin (hs : s.memOk) {core n key l} : (s.startBobbin core n key l).memOk := by
  unfold State.startBobbin
  split
  · exact hs
  · split
    · exact hs
    · exact hs.modSlot

theorem State.memOk.holdCore (hs : s.memOk) {core n key l} : (s.holdCore core n key l).memOk := by
  unfold State.holdCore
  split
  · exact hs
  · exact hs.same.modCore.startBobbin

theorem State.memOk.giveSlot (hs : s.memOk) {core n sizes} : okHas State.memOk (s.giveSlot core n sizes) := by
  unfold State.giveSlot
  split
  · exact hs
  · unfold Except.map
    split
    · exact trivial
    · exact hs.bump.modCore

theorem State.memOk.grant (hs : s.memOk) {core n key l sizes} : okHas State.memOk (s.grant core n key l sizes) := by
  unfold State.grant
  split
  · dsimp only
    split
    · next h _ => exact (hs.giveSlot.of h).allocate.holdCore
    · exact trivial
    · exact trivial
  · dsimp only
    split
    · next h _ => exact (hs.giveSlot.of h).allocate.holdCore
    · exact trivial
    · exact trivial

theorem State.memOk.admitWave (hs : s.memOk) {core n w key wave l} : (s.admitWave core n w key wave l).memOk := hs.clearSlices.modCore.same
theorem State.memOk.modPlaced (hs : s.memOk) {core p f} : (s.modPlaced core p f).memOk := hs.modCore

theorem State.memOk.askFails (hs : s.memOk) {core ctx c va} : (s.askFails core ctx c va).memOk := by
  unfold State.askFails
  split
  · exact hs.deviceFault.modCore
  · exact hs.modCore.postError

theorem State.memOk.admissionFails (hs : s.memOk) {core w c va} : (s.admissionFails core w c va).memOk := by
  unfold State.admissionFails
  split
  · split
    · exact hs.deviceFault.modPlaced
    · exact hs.modPlaced.postError
  · exact hs.askFails

theorem State.memOk.takeUp (hs : s.memOk) {core w} : (s.takeUp core w).memOk := by
  unfold State.takeUp
  split
  · exact hs
  · split
    · split
      · exact hs.admissionFails
      · exact hs
      · next h =>
          split
          · split
            · exact (hs.grant.of h).admitWave
            · exact hs.grant.of h
          · exact hs.grant.of h
    · split
      · exact hs.admissionFails
      · exact hs
      · next h => exact hs.grant.of h

theorem State.memOk.modStaging (hs : s.memOk) {e f} : (s.modStaging e f).memOk := hs.same

theorem State.memOk.stage (hs : s.memOk) {e l} : okHas State.memOk (s.stage e l) := by
  unfold State.stage
  split
  · split
    · exact trivial
    · split
      · exact trivial
      · exact hs.storeNear.modStaging

theorem State.memOk.stagingFailed (hs : s.memOk) {e ctx c va} : (s.stagingFailed e ctx c va).memOk := hs.modStaging.postError
theorem State.memOk.askStaging (hs : s.memOk) {e l} : (s.askStaging e l).memOk := hs.modStaging.sendBulk

theorem State.memOk.execStagingCompletion (hs : s.memOk) {core key region} : nextHas State.memOk (execStagingCompletion core key region s) := by
  refine State.memOk.next ?_
  split
  · split
    · exact hs
    · split
      · next h =>
          dsimp only
          split
          · exact hs.askStaging
          · exact hs.stage.of h
      · exact hs
      · split
        · exact hs.deviceFault.modStaging
        · exact hs.stagingFailed
  · exact hs

theorem State.memOk.failLaunch (hs : s.memOk) {key} : (s.failLaunch key).memOk := by
  unfold State.failLaunch
  split
  · exact hs
  · exact (hs.foldl fun _ _ hs => hs.unsleep.debugLeave).same

theorem State.memOk.releaseAlloc (hs : s.memOk) {core ctx} : (s.releaseAlloc core ctx).memOk := by
  unfold State.releaseAlloc
  split
  · exact hs
  · dsimp only
    split
    · exact hs.modCore
    · exact hs.modCore.modDie

theorem State.memOk.finishLaunch (hs : s.memOk) {key l} : (s.finishLaunch key l).memOk := by
  unfold State.finishLaunch
  split
  · exact hs.same.lineChanged.foldl fun _ _ hs => hs.modCore.iteElse fun hs => hs.releaseAlloc.modCore
  · exact (hs.same.lineChanged.foldl fun _ _ hs => hs.modCore.iteElse fun hs => hs.releaseAlloc.modCore).deviceWrite

theorem State.memOk.complete (hs : s.memOk) {key l} : (s.complete key l).memOk := by
  unfold State.complete
  dsimp only
  split
  · next h => exact (hs.storeVa.of h).finishLaunch
  · exact hs
  · split
    · exact hs.deviceFault.same
    · exact hs.postError.finishLaunch

theorem State.memOk.execLaunchCompletion (hs : s.memOk) {key} : nextHas State.memOk (execLaunchCompletion key s) := by
  refine State.memOk.next ?_
  split
  · exact hs.tryRecord
  · split
    · exact hs
    · split
      · exact hs
      · split
        · exact hs.complete
        · exact hs.same.startDrain

/-! ### Switch -/

theorem State.memOk.preemptContext (hs : s.memOk) {core slot} : (s.preemptContext core slot).memOk := by
  unfold State.preemptContext
  split
  · exact hs
  · exact hs.modSlot.foldl fun _ _ hs => hs.preemptLane

theorem State.memOk.execQuantumExpiry (hs : s.memOk) {core slot} : nextHas State.memOk (execQuantumExpiry core slot s) := by
  refine State.memOk.next ?_
  split
  · exact hs
  · split
    · exact hs
    · split
      · exact hs.preemptContext
      · exact hs.postError

theorem State.memOk.execBobbinPreempt (hs : s.memOk) {core slot} : nextHas State.memOk (execBobbinPreempt core slot s) := by
  refine State.memOk.next ?_
  split
  · exact hs
  · split
    · exact hs
    · split
      · exact hs.modSlot.modSlot.freeze
      · exact hs.modSlot.preemptLane

theorem State.memOk.setResident (hs : s.memOk) {core ctx on} : (s.setResident core ctx on).memOk := by
  unfold State.setResident
  split
  · dsimp only
    split
    · exact hs
    · exact hs.modCore
  · dsimp only
    split
    · exact hs
    · exact hs.modCore

theorem State.memOk.execContextSlotRelease (hs : s.memOk) {core slot} : nextHas State.memOk (execContextSlotRelease core slot s) := by
  refine State.memOk.next ?_
  split
  · exact hs
  · split
    · exact hs
    · split
      · exact hs.overtake.unsleep.modCore.setResident
      · exact hs.overtake.unsleep.modCore.releaseAlloc

theorem State.memOk.modSaved (hs : s.memOk) {core ctx f} : (s.modSaved core ctx f).memOk := hs.modCore

theorem State.memOk.execWaveAdmission (hs : s.memOk) {core} : nextHas State.memOk (execWaveAdmission core s) := by
  refine State.memOk.next ?_
  split
  · exact hs
  · exact hs.spend.takeUp

theorem State.memOk.readmissionFails (hs : s.memOk) {core v cause va} : (s.readmissionFails core v cause va).memOk := hs.modSaved.postError

theorem State.memOk.readmit (hs : s.memOk) {core n v t rec_ bolts} : (s.readmit core n v t rec_ bolts).memOk :=
  (hs.same.modCore.foldl fun _ _ hs => hs.clearSlices).setResident

theorem State.memOk.execContextReadmission (hs : s.memOk) {core ctx} : nextHas State.memOk (execContextReadmission core ctx s) := by
  refine State.memOk.next ?_
  split
  · split
    · exact hs
    · split
      · exact hs.readmit
      · exact hs.spend.readmissionFails
      · exact hs.readmissionFails
      · exact hs.askFails
      · exact hs
  · exact hs

theorem State.memOk.endSaved (hs : s.memOk) {core ctx} : (s.endSaved core ctx).memOk := by
  unfold State.endSaved
  split
  · exact hs
  · exact hs.modCore.foldl fun _ _ hs => hs.endCounts

/-! ### Service -/

theorem State.memOk.serviceDone (hs : s.memOk) {v} : (s.serviceDone v).memOk := (hs.foldl fun _ _ hs => hs.release).same
theorem State.memOk.refuseCommands (hs : s.memOk) {v} : (s.refuseCommands v).memOk := hs.foldl fun _ _ hs => hs.modCommand
theorem State.memOk.refuseLoads (hs : s.memOk) {v} : (s.refuseLoads v).memOk := hs.foldl fun _ _ hs => hs.modCore.loadEnded

theorem State.memOk.refusePackets (hs : s.memOk) {v c} : (s.refusePackets v c).memOk := by
  refine hs.foldl fun t a ht => ?_
  split
  · exact ht
  · exact ht.dropPacket.reply

theorem State.memOk.refuseDevice (hs : s.memOk) {v cause} : (s.refuseDevice v cause).memOk := by
  refine State.memOk.foldl ?_ fun _ _ hs => hs.postError.finishLaunch
  refine State.memOk.foldl ?_ fun _ _ hs => hs.recordLost
  refine State.memOk.foldl ?_ fun _ _ hs => hs.stagingFailed
  refine State.memOk.foldl ?_ fun _ _ hs => hs.modCore.postError
  refine State.memOk.foldl ?_ fun _ _ hs => hs.modPlaced.postError
  exact hs.foldl fun _ _ hs => hs.setQueue.postError

theorem State.memOk.serviceRefused (hs : s.memOk) {v c} : (s.serviceRefused v c).memOk := by
  unfold State.serviceRefused
  exact (hs.foldl fun _ _ hs => hs.modHart.deliver).refuseCommands.refuseLoads.refusePackets.refuseDevice

theorem State.memOk.poke (hs : s.memOk) {dpa bytes} : (s.poke dpa bytes).memOk := hs.setBytes.clearPoison

theorem State.memOk.installOn (hs : s.memOk) {sz va leaf tables l base} : (s.installOn sz va leaf tables l base).memOk := by
  induction l generalizing s tables base with
  | nil => exact hs
  | cons e l ih =>
    unfold State.installOn
    dsimp only
    split
    · exact hs.foldl fun _ _ hs => hs.poke
    · split
      · exact ih hs
      · split
        · exact hs
        · exact ih hs.clearStore.poke

theorem State.memOk.installLeaf (hs : s.memOk) {core ctx va sz leaf tables} : (s.installLeaf core ctx va sz leaf tables).memOk := by
  unfold State.installLeaf
  split
  · exact hs.installOn
  · exact hs.clearStore.poke.installOn
  · exact hs

theorem State.memOk.fromPool (hs : s.memOk) {core ctx va sz writable} : someHas (fun x => x.2.memOk) (s.fromPool core ctx va sz writable) := by
  unfold State.fromPool
  split
  · exact trivial
  · exact trivial
  · split
    · exact trivial
    · dsimp only
      split
      · exact trivial
      · split
        · exact trivial
        · exact hs.poke.installLeaf

theorem State.memOk.forward (hs : s.memOk) {v} : (s.forward v).memOk := hs.join.getD hs.post

theorem State.memOk.execPageFaultService (hs : s.memOk) {id} : nextHas State.memOk (Machine.execPageFaultService id s) := by
  have hw : ∀ t ctx dpa bytes, t.memOk → (State.storePhys t ctx dpa bytes).memOk := fun _ _ _ _ h => h.storePhys
  unfold Machine.execPageFaultService
  generalize State.storePhys = write at hw ⊢
  as_aux_lemma =>
    refine State.memOk.next ?_
    split
    · exact hs
    · dsimp only
      split
      · exact (hw _ _ _ _ hs.same).serviceDone
      · split
        · exact (hw _ _ _ _ hs.same).serviceDone
        · split
          · exact (hw _ _ _ _ hs.same).serviceRefused
          · split
            · exact (hw _ _ _ _ hs.same).serviceDone
            · exact (hw _ _ _ _ hs.same).forward
            · split
              · exact (hw _ _ _ _ hs.same).forward
              · next h => exact ((hw _ _ _ _ hs.same).fromPool.of h).clearStore.serviceDone

theorem State.memOk.freeRecord (hs : s.memOk) {place slot} : (s.freeRecord place slot).memOk := by
  unfold State.freeRecord
  dsimp only
  split
  · exact hs.storePhys.same
  · exact hs.storePhys.same.postAt

theorem State.memOk.answerFault (hs : s.memOk) {die slot f} (hf : ∀ a t, t.memOk → (f a t).memOk) : (s.answerFault die slot f).memOk := by
  unfold State.answerFault
  split
  · exact hs
  · split
    · exact hf _ _ hs.freeRecord
    · exact hs

theorem State.memOk.nestedResume (hs : s.memOk) {r} : (s.nestedResume r).memOk := by
  unfold State.nestedResume
  split
  · exact hs
  · split
    · exact hs
    · dsimp only
      split
      · exact hs.setHart
      · split
        · exact hs.setHart
        · split <;> exact hs.setHart

theorem State.memOk.nestedEnd (hs : s.memOk) {r} : (s.nestedEnd r).memOk := by
  unfold State.nestedEnd
  split
  · exact hs
  · split
    · exact hs
    · exact hs.setHart.haltNow

theorem State.memOk.loadAsked (hs : s.memOk) {core ctx ovl} : (s.loadAsked core ctx ovl).memOk := by
  refine hs.foldl fun t r ht => ?_
  split
  · exact ht
  · exact ht.startLoad.hold

theorem State.memOk.discardHeld (hs : s.memOk) {l} : (s.discardHeld l).memOk := hs.same

theorem State.memOk.abandonSwitch (hs : s.memOk) {core ctx} : (s.abandonSwitch core ctx).memOk := by
  unfold State.abandonSwitch
  split
  · exact hs
  · exact (hs.foldl fun _ _ hs => hs.endThread).endThread.modSlot

theorem State.memOk.reportResolve (hs : s.memOk) {p} : (Report.resolve p s).memOk := by
  unfold Report.resolve
  split
  · exact hs.nestedResume
  · split
    · exact hs.same
    · exact hs.modCore
  · exact hs.modCore
  · exact hs.loadAsked
  · split
    · exact hs
    · split
      · exact hs
      · split
        · exact hs.modSlot
        · exact hs.preemptContext
  · split
    · exact hs
    · exact hs.modSlot
  · split
    · exact hs
    · exact hs.same.startDrain
  · split
    · split
      · exact hs.completeSwitch
      · exact hs
    · exact hs
  · exact hs.modSaved
  · exact hs
  · exact hs

theorem State.memOk.reportRefuse (hs : s.memOk) {p} : (Report.refuse p s).memOk := by
  unfold Report.refuse
  split
  · exact hs.nestedEnd
  · exact hs.failLaunch
  · dsimp only
    split
    · exact hs.modCore
    · exact hs.modCore.failLaunch
  · exact hs.foldl fun _ _ hs => hs.deliver
  · exact hs.modCore
  · exact hs.reportResolve
  · split
    · exact hs
    · exact hs.discardHeld.same
  · split
    · split
      · exact hs.abandonSwitch
      · exact hs
    · exact hs
  · exact hs.endSaved
  · exact hs
  · exact hs

theorem State.memOk.answerError (hs : s.memOk) {slot f} (hf : ∀ a t, t.memOk → (f a t).memOk) : (s.answerError slot f).memOk := by
  unfold State.answerError
  split
  · exact hs
  · split
    · exact hf _ _ hs.freeRecord
    · exact hs

/-! ### Moves -/

theorem State.memOk.pokeBits (hs : s.memOk) {entries lo w x} : (s.pokeBits entries lo w x).memOk := hs.foldl fun _ _ hs => hs.poke
theorem State.memOk.shootPage (hs : s.memOk) {ctx va size writable} : (s.shootPage ctx va size writable).memOk := hs.same

theorem State.memOk.disturb (hs : s.memOk) {dpa size} : (s.disturb dpa size).memOk :=
  (hs.foldl fun _ _ hs => hs.txAbort).foldl fun _ _ hs => hs.lineChanged

theorem State.memOk.startMove (hs : s.memOk) {ctx va new} : (s.startMove ctx va new).memOk := by
  unfold State.startMove
  split
  · exact hs
  · exact hs.same.pokeBits.disturb

theorem State.memOk.execPageMoveStart (hs : s.memOk) {ctx va newHome} : nextHas State.memOk (execPageMoveStart ctx va newHome s) :=
  (hs.startMove.ite hs).next

theorem State.memOk.copyFrame (hs : s.memOk) {src dst size} : (s.copyFrame src dst size).memOk :=
  Memory.wf_foldl _ (fun m _ h => Memory.wf_set m _ _ h) _ _ hs.clearStore

theorem State.memOk.moveEntries (hs : s.memOk) {m} : (s.moveEntries m).memOk := hs.modCore.foldl fun _ _ hs => hs.enterBuffer
theorem State.memOk.drainAlso (hs : s.memOk) {ctx core} : (s.drainAlso ctx core).memOk := hs.foldl fun _ _ hs => hs.same.modDrain.askDrain
theorem State.memOk.forwardHeld (hs : s.memOk) {m} : (s.forwardHeld m).memOk := hs.modCore.same

theorem State.memOk.releaseMoves (hs : s.memOk) {m} : (s.releaseMoves m).memOk :=
  (hs.foldl fun _ _ hs => hs.modHart).foldl fun _ _ hs => hs.releaseHeld

theorem State.memOk.askMove (hs : s.memOk) {m} : (s.askMove m).memOk := hs.same.bulkPackets

theorem State.memOk.execPageMoveTransfer (hs : s.memOk) {id} : nextHas State.memOk (execPageMoveTransfer id s) := by
  refine State.memOk.next ?_
  split
  · exact hs
  · split
    · exact hs
    · split
      · exact hs.askMove
      · split
        · exact hs
        · split
          · exact hs
          · next h => exact (hs.fromPool.of h).copyFrame.moveEntries.pokeBits.same.shootPage.drainAlso.forwardHeld.releaseMoves

theorem State.memOk.execShootdown (hs : s.memOk) {id agent} : nextHas State.memOk (execShootdown id agent s) := by
  refine State.memOk.next ?_
  split
  · exact hs
  · split
    · exact hs
    · split
      · exact hs.same.modCore.releaseHeld
      · exact hs.same

theorem State.memOk.openPage (hs : s.memOk) {d} : (s.openPage d).memOk := by
  unfold State.openPage
  split
  · exact hs
  · dsimp only
    split
    · exact hs
    · refine State.memOk.serviceDone ?_
      split
      · exact hs.same.pokeBits.freeRecord
      · exact hs.same.pokeBits.same

theorem State.memOk.execShootdownAcknowledgement (hs : s.memOk) {id} : nextHas State.memOk (execShootdownAcknowledgement id s) := by
  refine State.memOk.next ?_
  split
  · exact hs
  · split
    · exact hs
    · split
      · exact hs.same.openPage
      · exact hs.same

theorem State.memOk.toPool (hs : s.memOk) {core frame n} : (s.toPool core frame n).memOk := by
  unfold State.toPool
  split
  · exact hs
  · exact hs.poke.poke

theorem State.memOk.execGraceWindowEnd (hs : s.memOk) {id} : nextHas State.memOk (execGraceWindowEnd id s) := by
  refine State.memOk.next ?_
  split
  · exact hs
  · split
    · exact hs
    · split
      · exact hs.same
      · exact (hs.same.foldl fun _ _ hs => hs.poke).toPool

theorem State.memOk.resend (hs : s.memOk) {p} : (s.resend p).2.memOk := by
  unfold State.resend
  split
  · exact hs.modCore.count.charge.bump
  · exact hs.modCore.bump

theorem State.memOk.execRehome (hs : s.memOk) {id} : nextHas State.memOk (execRehome id s) := by
  refine State.memOk.next ?_
  dsimp only
  split
  · split
    · exact hs
    · exact State.memOk.modCore hs.resend.same
  · split
    · exact hs.resend.same
    · split
      · exact hs
      · split
        · exact hs.bump.same
        · exact hs.event.bump.same

theorem State.memOk.spillToBuddy (hs : s.memOk) {core} : (s.spillToBuddy core).memOk := by
  refine hs.modCore.foldl fun t a ht => ?_
  split
  · exact ht.enterStore
  · exact ht.modCore
  · exact ht.modCore

theorem State.memOk.beginRetirement (hs : s.memOk) {core} : (s.beginRetirement core).memOk := hs.modCore.poke

theorem State.memOk.execChannelRetirement (hs : s.memOk) {core} : nextHas State.memOk (execChannelRetirement core s) := by
  refine State.memOk.next ?_
  extract_lets k
  split_ifs
  · exact hs
  · exact hs.beginRetirement
  · exact hs
  · exact hs
  · split
    · exact hs.modCore.spillToBuddy
    · split
      · exact hs
      · exact hs.spend.startMove

theorem State.memOk.execPageMakeWritable (hs : s.memOk) {ctx va} : nextHas State.memOk (execPageMakeWritable ctx va s) := by
  refine State.memOk.next ?_
  split
  · exact hs
  · split
    · exact hs
    · exact hs.pokeBits.pokeBits.shootPage

theorem State.memOk.execPageMakeReadOnly (hs : s.memOk) {ctx va} : nextHas State.memOk (execPageMakeReadOnly ctx va s) := by
  refine State.memOk.next ?_
  split
  · exact hs
  · split
    · exact hs
    · exact hs.pokeBits.pokeBits.shootPage

theorem State.memOk.execKeySlotWrite (hs : s.memOk) {ctx slot qx qy blob} : nextHas State.memOk (execKeySlotWrite ctx slot qx qy blob s) := by
  refine State.memOk.next ?_
  split
  · exact hs
  · split <;> exact hs.same

/-! ### Bringup -/

theorem State.memOk.notice (hs : s.memOk) : (s.notice).memOk := by
  unfold State.notice
  split
  · exact hs.same
  · exact hs

theorem State.memOk.recovery (hs : s.memOk) {stage code} : (s.recovery stage code).memOk := hs.same.notice

theorem State.memOk.execPowerOn {failStage code links images} : nextHas State.memOk (execPowerOn failStage code links images s) := by
  have hr : State.reset.memOk := State.reset_wf
  refine State.memOk.next ?_
  split
  · exact hr.same.recovery
  · dsimp only
    split
    · exact hr.same.recovery
    · split
      · exact hr.same.recovery
      · split
        · exact hr.same.recovery
        · exact hr.same.notice

theorem State.memOk.trained (hs : s.memOk) : (s.trained).memOk := by
  unfold State.trained
  split
  · exact hs
  · split
    · exact hs.recovery
    · exact hs.same.notice

theorem State.memOk.go_ (hs : s.memOk) : (s.go_).memOk := hs.same.trained
theorem State.memOk.execDutyGo (hs : s.memOk) : nextHas State.memOk (execDutyGo s) := (hs.go_.ite hs).next
theorem State.memOk.execGoTimeout (hs : s.memOk) : nextHas State.memOk (execGoTimeout s) := (hs.go_.ite hs).next
theorem State.memOk.setSplit (hs : s.memOk) {val} : (s.setSplit val).memOk := hs.same.notice

theorem State.memOk.execDutySplitWrite (hs : s.memOk) {val} : nextHas State.memOk (execDutySplitWrite val s) :=
  (hs.ite (hs.setSplit.ite hs.same)).next

theorem State.memOk.commitSplit (hs : s.memOk) : (s.commitSplit).memOk := by
  unfold State.commitSplit
  split
  · exact hs
  · exact hs.same.setSplit

theorem State.memOk.execDerrClear (hs : s.memOk) : nextHas State.memOk (execDerrClear s) := (hs.same.ite hs).next
theorem State.memOk.execPcapWrite (hs : s.memOk) {val} : nextHas State.memOk (execPcapWrite val s) := (hs.same.ite hs).next

theorem State.memOk.barWrite (hs : s.memOk) {off val} : (s.barWrite off val).memOk := by
  unfold State.barWrite
  split
  · dsimp only
    split
    · exact hs
    · exact hs.same
  · split
    · exact hs.same
    · split
      · dsimp only
        split
        · exact hs.same
        · exact hs
      · split
        · split
          · exact hs.same
          · exact hs
        · split
          · exact hs.same
          · split
            · exact hs.same
            · split
              · exact hs.setQueue
              · exact hs

theorem State.memOk.execRegisterWrite (hs : s.memOk) {off val} : nextHas State.memOk (execRegisterWrite off val s) := (hs.barWrite.ite hs).next

theorem State.memOk.answer (hs : s.memOk) {p resolve} : (s.answer p resolve).memOk := by
  unfold State.answer
  split
  · split
    · exact hs.freeRecord.serviceDone
    · exact hs.freeRecord.serviceRefused
  · split
    · exact hs.freeRecord.reportResolve
    · exact hs.freeRecord.reportRefuse

theorem State.memOk.execHostBar2Write (hs : s.memOk) {off data} : nextHas State.memOk (execHostBar2Write off data s) :=
  (hs.ite (hs.storePhys.foldl fun _ _ hs => hs.answer.ite hs)).next

theorem State.memOk.execMeasurementReport (hs : s.memOk) {nonce} : nextHas State.memOk (execMeasurementReport nonce s) := (hs.ite hs.same).next
theorem State.memOk.setPort (hs : s.memOk) {n v} : (s.setPort n v).memOk := hs.same

theorem State.memOk.execPortEnable (hs : s.memOk) {port val} : nextHas State.memOk (execPortEnable port val s) := by
  refine State.memOk.next ?_
  split
  · exact hs
  · dsimp only
    split
    · exact hs.setPort.same
    · exact hs.setPort.same.trained

theorem State.memOk.execUltraEthernetPortUp (hs : s.memOk) {port speed} : nextHas State.memOk (execUltraEthernetPortUp port speed s) := by
  refine State.memOk.next ?_
  split
  · exact hs
  · exact hs.setPort.portsBack.same.trained

theorem State.memOk.execPortLoss (hs : s.memOk) {die chip} : nextHas State.memOk (execPortLoss die chip s) := (hs.ite hs.modDie.spend.postError).next

theorem State.memOk.execPowerWindow (hs : s.memOk) {watts} : nextHas State.memOk (execPowerWindow watts s) :=
  (hs.ite (hs.same.ite (hs.same.ite hs.same))).next

theorem State.memOk.execThermalShutdown (hs : s.memOk) : nextHas State.memOk (execThermalShutdown s) := (hs.ite hs.postError.same).next

/-! ### Errors -/

theorem State.memOk.uncorrectable (hs : s.memOk) {core addr channel} : (s.uncorrectable core addr channel).memOk := by
  unfold State.uncorrectable
  split
  · exact hs.postError
  · split
    · exact hs
    · dsimp only
      split
      · exact hs.modCore.beginRetirement
      · exact hs.modCore

theorem State.memOk.spoil (hs : s.memOk) {key} : (s.spoil key).memOk := hs.same

theorem State.memOk.strike (hs : s.memOk) {e} : (s.strike e).memOk := by
  unfold State.strike
  split
  · split
    · exact hs
    · exact hs.modCore
  · split <;> exact hs.spoil.uncorrectable
  · split
    · exact hs
    · exact hs.modHart.uncorrectable
  · split
    · exact hs
    · exact hs.modCore.uncorrectable
  · dsimp only
    split
    · exact hs
    · exact hs.modCore.uncorrectable
  · split
    · exact hs
    · exact hs.modCore.modDie
  · split
    · exact hs
    · exact hs.modCore.awaitOverlays

theorem State.memOk.softErrors (hs : s.memOk) : (s.softErrors).memOk := by
  unfold State.softErrors
  split
  · exact hs.spend
  · exact hs.spend.strike

/-! ### Cycle -/

theorem State.memOk.commitControl (hs : s.memOk) {core n q} : (s.commitControl core n q).memOk := hs.modSlot.foldl fun _ _ hs => hs.setControl

theorem State.memOk.coreCycle (hs : s.memOk) {core} : (s.coreCycle core).memOk :=
  ((hs.foldl fun _ _ hs => hs.flushTrace).modCore.foldl fun _ _ hs => hs.commitControl).modCore

theorem State.memOk.execCoreCycle (hs : s.memOk) : nextHas State.memOk (execCoreCycle s) :=
  (hs.ite (hs.foldl fun _ _ hs => hs.coreCycle).same.noticeWakes.commitSplit.portsBack.retrySwitches.softErrors).next

/-! ### Due -/

theorem State.memOk.choose (hs : s.memOk) {l} : someHas (fun x => x.2.memOk) (s.choose l) := by
  unfold State.choose
  split
  · exact trivial
  · exact hs
  · exact hs.spend

/-! ### Every instruction and event -/

theorem State.memOk.exec (hs : s.memOk) {i} : nextHas State.memOk (exec i s) := by
  cases i with
  | nop | pad | mov | movi | add | sub | addc | subb | mul | mulhi | mulw | mad | min | max | abs | and | or | xor | andn | shl | shr | sar | rot
    | bfx | bfi | popc | clz | brev | bpick | lea | cmp | sel | plop | plopPk | plopUpk | divn | fadd | fsub | fmul | ffma | fmin | fmax | fcmp
    | fclass | frcp | frsq | fsqrt | fexp2 | flog2 | fsin | fcos | fdiv | hadd2 | hmul2 | hfma2 | hmin2 | hmax2 | hcmp2 | dot4 | dot2 | vadd4
    | vsub4 | cvt | dqnt | plpack | plunpk | plext | f8algn | sclx | shfl | bfly | shup | shdn | bcast | pcens | redux | scan | matchLane | fopen
    | fend | fclose | slack | slackSet | smpl => exact hs.mapLanes.next
  | bra | braFar | call | callFar | ret | cut | cutFar => exact (hs.perLane fun _ _ _ hs => hs.jump).next
  | brx | callx => exact (hs.perLane fun _ _ _ hs => hs.indirect).next
  | seam => exact (hs.foldl fun _ _ hs => hs.openSeam).mapLanes.next
  | join => exact ((hs.perLane fun _ _ _ hs => hs.joinLane).foldl fun _ _ hs => hs.completeSeams).next
  | wait => exact hs.execWait
  | rep _ _ _ _ sd sa sb sc => exact hs.execRep (sd := sd) (sa := sa) (sb := sb) (sc := sc)
  | exit => exact hs.execExit
  | yield => exact hs.execYield
  | dqput => exact hs.execDqput
  | dqget | dqgetLo => exact hs.dqgetOp
  | dqpeek | dqpeekLo => exact hs.dqpeekOp
  | movId => exact hs.execMovId
  | cvtsr => exact hs.execCvtsr
  | srseed => exact hs.execSrseed
  | qnt => exact hs.execQnt
  | ld | ldq | ldro => exact hs.loadOp
  | st | stq => exact hs.storeOp
  | pref _ _ _ sl => exact hs.execPref (sl := sl)
  | migr => exact hs.execMigr
  | spawn => exact hs.execSpawn
  | phaseArv => exact hs.execPhaseArv
  | phaseWait => exact hs.execPhaseWait
  | fence => exact hs.execFence
  | fnext | fpeek => exact hs.fibreOp
  | atom | acas | ared | afadd => exact (hs.sampled fun _ hs => hs.perLane fun _ _ _ hs => hs.outside fun _ _ _ hs => hs.atomLane).next
  | txopen => exact hs.execTxopen
  | txseal => exact hs.execTxseal
  | txretry => exact hs.execTxretry
  | txelse => exact hs.execTxelse
  | txdrop => exact hs.execTxdrop
  | txstat => exact (hs.perLane fun _ _ _ hs => hs.launchResult.goOn).next
  | binit => exact hs.execBinit
  | bwait => exact hs.execBwait
  | bexp => exact hs.execBexp
  | barv => exact hs.execBarv
  | hpush => exact hs.execHpush
  | hpop => exact hs.execHpop
  | htry => exact hs.execHtry
  | hpeek => exact hs.execHpeek
  | hallow => exact hs.execHallow
  | hreset => exact (hs.blockLanes fun _ _ _ hs => hs.hoopLane fun _ _ _ hs => hs.resetHoop).next
  | hresetDef => exact hs.execHresetDef
  | cpy => exact (hs.perLane fun _ _ _ hs => hs.outside fun _ _ _ hs => hs.cpyLane).next
  | cpym => exact (hs.perLane fun _ _ _ hs => hs.outside fun _ _ _ hs => hs.cpymLane).next
  | cpyo => exact (hs.perLane fun _ _ _ hs => hs.outside fun _ _ _ hs => hs.cpyoLane).next
  | gath => exact (hs.perLane fun _ _ _ hs => hs.outside fun _ _ _ hs => hs.gathLane).next
  | scat => exact (hs.perLane fun _ _ _ hs => hs.outside fun _ _ _ hs => hs.scatLane).next
  | bin => exact (hs.perLane fun _ _ _ hs => hs.outside fun _ _ _ hs => hs.binLane).next
  | kset => exact hs.execKset
  | ksign => exact hs.execKsign
  | tldb => exact (hs.blockLanes fun _ _ _ hs => hs.linked fun _ _ _ hs => hs.tldbLane).next
  | tmma => exact (hs.blockLanes fun _ _ _ hs => hs.linked fun _ _ _ hs => hs.tmmaLane).next
  | tmmag => exact (hs.blockLanes fun _ _ _ hs => hs.linked fun _ _ _ hs => hs.tmmagLane).next
  | tzero => exact (hs.blockLanes fun _ _ _ hs => hs.linked fun _ _ _ hs => hs.tzeroLane).next
  | tsta => exact (hs.blockLanes fun _ _ _ hs => hs.linked fun _ _ _ hs => hs.tstaLane).next
  | tstaSt => exact (hs.blockLanes fun _ _ _ hs => hs.linked fun _ _ _ hs => hs.tstaStLane).next
  | rtprb => exact hs.execRtprb
  | rtins | rtdel | rtrhs | rtdefOff => exact hs.opInstr
  | rtsync => exact hs.execRtsync
  | movs => exact hs.execMovs
  | movsw => exact hs.execMovsw
  | trap => exact (hs.perLane fun _ _ _ hs => hs.raise).next
  | tret => exact hs.atSystem fun _ hs => hs.perLane fun _ _ _ hs => hs.tret
  | slackCls => exact (hs.perLane fun _ _ _ hs => hs.modHart.goOn).next
  | halt => exact hs.execHalt
  | patdef => exact hs.execPatdef
  | patrd | blrd => exact (hs.perLane fun _ _ _ hs => hs.outside fun _ _ _ hs => hs.tableWord).next
  | bldef => exact hs.execBldef
  | hfset => exact hs.execHfset
  | jtdef => exact hs.execJtdef
  | rtdef | rtdefRh => exact (hs.perLane fun _ _ _ hs => hs.outside fun _ _ _ hs => hs.defineLane).next
  | ctrrd => exact hs.execCtrrd
  | ctrset => exact hs.execCtrset
  | brkpt => exact hs.execBrkpt
  | hint => exact hs.execHint
  | waitpred => exact hs.execWaitpred
  | resultWriteback => exact hs.execResultWriteback
  | atomicRequest => exact hs.execAtomicRequest
  | atomicReply => exact hs.execAtomicReply
  | readRequest => exact hs.execReadRequest
  | acknowledgementArrival => exact hs.execAcknowledgementArrival
  | needleArrival => exact hs.execNeedleArrival
  | spillReturn => exact hs.execSpillReturn
  | arrivalWaveFormation => exact hs.execArrivalWaveFormation
  | spoolTimeout => exact hs.execSpoolTimeout
  | launchEntryFetch => exact hs.execLaunchEntryFetch
  | spawnTaskSend => exact hs.execSpawnTaskSend
  | taskArrival => exact hs.execTaskArrival
  | taskRefusal => exact hs.execTaskRefusal
  | taskResendTimeout => exact hs.execTaskResendTimeout
  | spawnIncrement => exact hs.execSpawnIncrement
  | phaseArrival => exact hs.execPhaseArrival
  | drainRequest => exact hs.execDrainRequest
  | drainAcknowledgement => exact hs.execDrainAcknowledgement
  | changeNotice => exact hs.execChangeNotice
  | overlayLoadCompletion => exact hs.execOverlayLoadCompletion
  | pageFaultService => exact hs.execPageFaultService
  | faultRecordResolve => exact (hs.answerFault fun _ _ hs => hs.serviceDone).next
  | faultRecordRefuse => exact (hs.answerFault fun _ _ hs => hs.serviceRefused).next
  | errorRecordResolve => exact (hs.answerError fun _ _ hs => hs.reportResolve).next
  | errorRecordRefuse => exact (hs.answerError fun _ _ hs => hs.reportRefuse).next
  | engineFire => exact hs.execEngineFire
  | binPrepare => exact hs.execBinPrepare
  | engineRetire => exact hs.execEngineRetire
  | engineFailure => exact hs.execEngineFailure
  | stitchParityReload => exact hs.execStitchParityReload
  | retrievalOperationApply => exact hs.execRetrievalOperationApply
  | quantumExpiry => exact hs.execQuantumExpiry
  | bobbinPreempt => exact hs.execBobbinPreempt
  | contextSlotRelease => exact hs.execContextSlotRelease
  | contextReadmission => exact hs.execContextReadmission
  | queueDoorbell => exact hs.execQueueDoorbell
  | queueEnable => exact hs.execQueueEnable
  | queueDisable => exact hs.execQueueDisable
  | dispatch => exact hs.execDispatch
  | waveAdmission => exact hs.execWaveAdmission
  | stagingCompletion => exact hs.execStagingCompletion
  | launchCompletion => exact hs.execLaunchCompletion
  | slackTick => exact hs.execSlackTick
  | slackOverdue => exact hs.execSlackOverdue
  | packetAdvance => exact hs.execPacketAdvance
  | routerPowerGate => exact hs.execRouterPowerGate
  | routerWake => exact hs.execRouterWake
  | pageMoveStart => exact hs.execPageMoveStart
  | pageMoveTransfer => exact hs.execPageMoveTransfer
  | shootdown => exact hs.execShootdown
  | shootdownAcknowledgement => exact hs.execShootdownAcknowledgement
  | graceWindowEnd => exact hs.execGraceWindowEnd
  | rehome => exact hs.execRehome
  | channelRetirement => exact hs.execChannelRetirement
  | pageMakeWritable => exact hs.execPageMakeWritable
  | pageMakeReadOnly => exact hs.execPageMakeReadOnly
  | portLoss => exact hs.execPortLoss
  | sampleRecord => exact hs.execSampleRecord
  | traceEnable => exact hs.execTraceEnable
  | traceDisable => exact hs.execTraceDisable
  | resume | deliver | debugStep | stopall => exact hs.hostCommand.next
  | counterWrite => exact hs.execCounterWrite
  | quantumWrite => exact hs.execQuantumWrite
  | hostBar2Write => exact hs.execHostBar2Write
  | dutySplitWrite => exact hs.execDutySplitWrite
  | dutyGo => exact hs.execDutyGo
  | derrClear => exact hs.execDerrClear
  | goTimeout => exact hs.execGoTimeout
  | pcapWrite => exact hs.execPcapWrite
  | registerWrite => exact hs.execRegisterWrite
  | powerOn => exact State.memOk.execPowerOn
  | powerWindow => exact hs.execPowerWindow
  | thermalLimit | thermalLimitClear => exact hs.same.next
  | thermalShutdown => exact hs.execThermalShutdown
  | ucieLinkFailure => exact hs.same.same.next
  | keySlotWrite => exact hs.execKeySlotWrite
  | coreCycle => exact hs.execCoreCycle
  | ultraEthernetPortUp => exact hs.execUltraEthernetPortUp
  | portEnable => exact hs.execPortEnable
  | measurementReport => exact hs.execMeasurementReport

/-! ### Issue and step -/

theorem State.memOk.issue (hs : s.memOk) {core port p} : Next.has State.memOk (s.issue core port p) := by
  unfold State.issue
  split
  · exact hs
  · dsimp only
    split
    · split
      · exact hs.same.countIssue.mapLanes.raiseAll
      · split
        · exact hs.same.countIssue.mapLanes.raiseAll
        · exact hs.same.countIssue.mapLanes.divert fun _ _ hs => hs.raiseCause
    · split
      · split
        · exact hs.same.countIssue.mapLanes.raiseAll
        · refine State.memOk.raiseAll (hs.same.countIssue.mapLanes.divert fun _ _ hs => ?_)
          split
          · exact hs.raise
          · exact hs
      · exact hs.same.countIssue.mapLanes.raiseAll
      · split
        · exact (hs.same.countIssue.mapLanes.divert fun _ _ hs => hs.raiseCause).divert fun _ _ hs => hs.hold
        · exact hs.same.countIssue.mapLanes.divert fun _ _ hs => hs.raiseCause

theorem State.memOk.nextAction (hs : s.memOk) : Next.has State.memOk s.nextAction := by
  unfold State.nextAction
  dsimp only
  split
  · exact hs.settleAll
  · next h => exact State.memOk.same (hs.settleAll.choose.of h)
  · next h => exact (State.memOk.chosen (hs.settleAll.choose.of h)).issue

theorem State.memOk.step (hs : s.memOk) : nextHas State.memOk (step s) := by
  unfold Machine.step
  split
  · split
    · exact fun _ h => nomatch h
    · split
      · exact hs.same.exec
      · exact hs.same.next
  · split
    · exact hs.next
    · have hn := hs.nextAction
      split
      · next h => rw [h] at hn; exact State.memOk.next hn
      · next h => rw [h] at hn; exact State.memOk.exec hn

end Sys2Proof.Machine

/-! ### The obligations -/

open Sys2Proof Sys2Proof.Machine

/-- Settles O4: each function that a step goes through keeps the canonical form. -/
theorem stepKeepsMemoryCanonical : Obligations.StepKeepsMemoryCanonical := by
  unfold Obligations.StepKeepsMemoryCanonical
  exact fun _ t hs h => hs.step t h

/-- Settles O5, from what a run of written bytes reads as. -/
theorem memoryReadsLastWrite : Obligations.MemoryReadsLastWrite := by
  unfold Obligations.MemoryReadsLastWrite
  refine ⟨Memory.get_nil, fun m a x l => ?_⟩
  rw [Memory.get_setBytes]
  split
  · exact List.getD_eq_getElem ..
  · rfl

end

section
/-! PROOFS. Frames that the statements about the machine share: updates that change the cores alone, and those that change
their context slots alone, as counting does (R503 to R510). -/

namespace Sys2Proof.Machine

variable {s t u : State}

/-! ### The cores alone -/

/-- The second state differs from the first in its cores alone. -/
def State.coresOnly (s t : State) : Prop := t = { s with cores := t.cores }

theorem State.coresOnly.refl : s.coresOnly s := rfl

theorem State.coresOnly.trans (h : s.coresOnly t) (h' : t.coresOnly u) : s.coresOnly u := by
  unfold State.coresOnly at h h' ⊢
  rw [h', h]

theorem State.coresOnly.ite {c : Prop} [Decidable c] (h : s.coresOnly t) (h' : s.coresOnly u) : s.coresOnly (if c then t else u) := by
  split
  · exact h
  · exact h'

theorem State.coresOnly.modCore (h : s.coresOnly t) {c : Nat} {f : Core → Core} : s.coresOnly (t.modCore c f) := h.trans rfl

theorem State.coresOnly.modHart (h : s.coresOnly t) {r : Ref} {f : Hart → Hart} : s.coresOnly (t.modHart r f) := by
  unfold State.modHart
  split
  · exact h.modCore
  · exact h.modCore

theorem State.coresOnly.mapLanes (h : s.coresOnly t) {f : Hart → Hart} : s.coresOnly (t.mapLanes f) := by
  unfold State.mapLanes
  split
  · exact h.modCore
  · exact h.modCore

theorem State.coresOnly.foldl {α : Type} {f : State → α → State} (hf : ∀ (t : State) (a : α), t.coresOnly (f t a)) (l : List α) (h : s.coresOnly t) :
    s.coresOnly (l.foldl f t) := by
  induction l generalizing t with
  | nil => exact h
  | cons a l ih => exact ih (h.trans (hf t a))

theorem State.coresOnly.field {α : Type} (h : s.coresOnly t) (f : State → α) : f t = f { s with cores := t.cores } := congrArg f h

section
variable (h : s.coresOnly t)
include h

theorem State.coresOnly.mem : t.mem = s.mem := h.field State.mem
theorem State.coresOnly.tsc : t.tsc = s.tsc := h.field State.tsc
theorem State.coresOnly.ticks : t.ticks = s.ticks := h.field State.ticks
theorem State.coresOnly.dies : t.dies = s.dies := h.field State.dies
theorem State.coresOnly.phases : t.phases = s.phases := h.field State.phases
theorem State.coresOnly.drains : t.drains = s.drains := h.field State.drains
theorem State.coresOnly.packets : t.packets = s.packets := h.field State.packets
theorem State.coresOnly.outbox : t.outbox = s.outbox := h.field State.outbox
theorem State.coresOnly.bar : t.bar = s.bar := h.field State.bar

end

/-! ### The context slots alone -/

/-- The second state differs from the first in the context slots of its cores alone. -/
def State.slotsOnly (s t : State) : Prop := s.coresOnly t ∧ ∀ c, t.core c = { s.core c with slots := (t.core c).slots }

theorem State.slotsOnly.refl : s.slotsOnly s := ⟨.refl, fun _ => rfl⟩

theorem State.slotsOnly.trans (h : s.slotsOnly t) (h' : t.slotsOnly u) : s.slotsOnly u :=
  ⟨h.1.trans h'.1, fun c => by rw [h'.2 c, h.2 c]⟩

theorem State.slotsOnly.ite {c : Prop} [Decidable c] (h : s.slotsOnly t) (h' : s.slotsOnly u) : s.slotsOnly (if c then t else u) := by
  split
  · exact h
  · exact h'

theorem State.slotsOnly.modSlot (h : s.slotsOnly t) {c k : Nat} {f : Slot → Slot} : s.slotsOnly (t.modSlot c k f) := by
  refine h.trans ⟨rfl, fun d => ?_⟩
  by_cases hd : d = c
  · subst hd; rw [State.modSlot, State.core_modCore_self]
  · rw [State.modSlot, State.core_modCore_of_ne _ _ hd]

theorem State.slotsOnly.count (h : s.slotsOnly t) {core ctx n amount : Nat} : s.slotsOnly (t.count core ctx n amount) := by
  unfold State.count
  split
  · exact h
  · exact h.modSlot

theorem State.slotsOnly.event (h : s.slotsOnly t) {core ctx code amount : Nat} {system : Bool} :
    s.slotsOnly (t.event core ctx code amount system) := by
  unfold State.event
  split
  · exact h
  · exact h.modSlot

theorem State.slotsOnly.traceLane (h : s.slotsOnly t) {r : Ref} {k : Hart} {kind arg : Nat} : s.slotsOnly (t.traceLane r k kind arg) := by
  unfold State.traceLane State.trace
  split
  · exact h
  · exact h.modSlot

theorem State.slotsOnly.field {α : Type} (h : s.slotsOnly t) (c : Nat) (f : Core → α) :
    f (t.core c) = f { s.core c with slots := (t.core c).slots } := congrArg f (h.2 c)

section
variable (h : s.slotsOnly t) (c : Nat)
include h

theorem State.slotsOnly.waves : (t.core c).waves = (s.core c).waves := h.field c Core.waves
theorem State.slotsOnly.imem : (t.core c).imem = (s.core c).imem := h.field c Core.imem
theorem State.slotsOnly.loads : (t.core c).loads = (s.core c).loads := h.field c Core.loads
theorem State.slotsOnly.spawnQ : (t.core c).spawnQ = (s.core c).spawnQ := h.field c Core.spawnQ
theorem State.slotsOnly.store : (t.core c).store = (s.core c).store := h.field c Core.store
theorem State.slotsOnly.spill : (t.core c).spill = (s.core c).spill := h.field c Core.spill

end

/-! ### Packets -/

/-- A packet sent appears after the others; counting it changes context slots alone. -/
theorem State.send_eq (s : State) (src home ctx : Nat) (launch : Word) (slack : BitVec 12) (sx : Bool) (vn bytes : Nat) (body : Body) :
    ∃ q, State.slotsOnly { s with packets := s.packets ++ [q], next := s.next + 1 } (s.send src home ctx launch slack sx vn bytes body)
      ∧ q.body = body ∧ q.src = s.homeId src ∧ q.home = home ∧ q.slack = slack :=
  ⟨_, .ite State.slotsOnly.refl.count .refl, rfl, rfl, rfl, rfl⟩

end Sys2Proof.Machine
end

section
/-! PROOFS. What O6 says of a change of the lanes of an issue, or of one thread. -/

namespace Sys2Proof.Machine

/-- A lookup in a table of which the entries at some keys have changed. -/
theorem KMap.get?_mapIf {α : Type} (m : KMap α) (p : Nat → Bool) (f : α → α) (k : Nat) :
    KMap.get? (m.map fun e => if p e.1 then (e.1, f e.2) else e) k = (m.get? k).map fun v => if p k then f v else v := by
  induction m with
  | nil => rfl
  | cons e r ih =>
    obtain ⟨a, b⟩ := e
    by_cases hk : a = k
    · subst hk; by_cases hp : p a <;> simp [KMap.get?, hp]
    · by_cases hp : p a <;> simp [KMap.get?, hp, hk] <;> exact ih

variable (s : State)

/-! ### Threads after a change of the lanes of an issue -/

theorem State.hart?_wave {core w l tid : Nat} :
    s.hart? ⟨core, .wave w l, tid⟩ = ((s.wave? core w).bind fun v => v.lanes.get? l).filter fun h => h.tid == tid := rfl

theorem State.hart?_bobbin {core k tid : Nat} :
    s.hart? ⟨core, .bobbin k, tid⟩ = ((s.slot? core k).map Slot.bobbin).filter fun h => h.tid == tid := rfl

/-- Each thread of the issue changes by the function, and every other thread is as it was. -/
theorem State.hart?_mapLanes (f : Hart → Hart) (r : Ref) (h : Hart) (hr : s.hart? r = some h) (hf : (f h).tid = h.tid) :
    (s.mapLanes f).hart? r = some (if s.inIssue r then f h else h) := by
  obtain ⟨c, a, n⟩ := r
  cases a with
  | wave w l =>
    by_cases hb : s.cur.bobbin = true
    · have hi : s.inIssue ⟨c, .wave w l, n⟩ = false := by simp [State.inIssue, hb]
      simpa [State.mapLanes, hb, hi, State.hart?_wave] using hr
    · by_cases hc : (c, w) = (s.cur.core, s.cur.member)
      · obtain ⟨rfl, rfl⟩ := Prod.mk.inj hc
        have hi : s.inIssue ⟨s.cur.core, .wave s.cur.member l, n⟩ = s.cur.lanes.contains l := by simp [State.inIssue, hb]
        simp only [State.hart?_wave, Option.filter_eq_some_iff, Option.bind_eq_some_iff] at hr
        obtain ⟨⟨v, hv, hl⟩, ht⟩ := hr
        rw [hi, State.mapLanes, if_neg hb, State.hart?_wave, State.wave?_modWave_self, hv]
        simp only [Option.map_some, Option.bind_some, KMap.get?_mapIf v.lanes s.cur.lanes.contains, hl]
        cases s.cur.lanes.contains l <;> simp_all
      · have hi : s.inIssue ⟨c, .wave w l, n⟩ = false := by
          simp only [Prod.mk.injEq] at hc
          simp only [State.inIssue]
          grind
        rw [hi, State.mapLanes, if_neg hb, State.hart?_wave, s.wave?_modWave_of_ne _ hc]
        exact hr
  | bobbin k =>
    by_cases hb : s.cur.bobbin = true
    · by_cases hc : (c, k) = (s.cur.core, s.cur.member)
      · obtain ⟨rfl, rfl⟩ := Prod.mk.inj hc
        have hi : s.inIssue ⟨s.cur.core, .bobbin s.cur.member, n⟩ = s.cur.lanes.contains 0 := by simp [State.inIssue, hb]
        simp only [State.hart?_bobbin, Option.filter_eq_some_iff, Option.map_eq_some_iff] at hr
        obtain ⟨⟨q, hq, rfl⟩, ht⟩ := hr
        rw [hi, State.mapLanes, if_pos hb, State.hart?_bobbin, State.slot?_modSlot_self, hq]
        cases s.cur.lanes.contains 0 <;> simp_all
      · have hi : s.inIssue ⟨c, .bobbin k, n⟩ = false := by
          simp only [Prod.mk.injEq] at hc
          simp only [State.inIssue]
          grind
        rw [hi, State.mapLanes, if_pos hb, State.hart?_bobbin, s.slot?_modSlot_of_ne _ hc]
        exact hr
    · have hi : s.inIssue ⟨c, .bobbin k, n⟩ = false := by simp [State.inIssue, hb]
      simpa [State.mapLanes, hb, hi, State.hart?_bobbin] using hr

end Sys2Proof.Machine

open Sys2Proof Sys2Proof.Machine

/-- Settles O6, from what `mapLanes` and `modHart` do at each place. -/
theorem laneChangeFrame : Obligations.LaneChangeFrame := by
  unfold Obligations.LaneChangeFrame
  refine ⟨?_, fun s r q h h' k hr ht => ?_⟩
  · rintro s f t rfl
    have hs : s.coresOnly (s.mapLanes f) := State.coresOnly.refl.mapLanes
    exact ⟨fun a => by rw [hs.mem], hs, fun r h hr hf => s.hart?_mapLanes f r h hr hf⟩
  · have hs : s.coresOnly (s.setHart r h') := State.coresOnly.refl.modHart
    refine ⟨s.hart?_setHart_self r h h' hr ht, fun hne hq => ?_, fun a => by rw [hs.mem], hs⟩
    rw [s.hart?_setHart_of_ne r q h' hne, hq]

end

section
/-! PROOFS. What O34 says: the walk of a global access at its origin, and the order in which `locate` settles where it goes. -/

namespace Sys2Proof.Machine

variable (s : State)

/-! ### The context of a thread -/

theorem State.ctxOf_modCore (c : Nat) (f : Core → Core) (hw : (f (s.core c)).waves = (s.core c).waves)
    (hs : (f (s.core c)).slots = (s.core c).slots) (r : Ref) : (s.modCore c f).ctxOf r = s.ctxOf r := by
  unfold State.ctxOf State.wave? State.slot?
  by_cases hc : r.core = c
  · subst hc; rw [State.core_modCore_self, hw, hs]
  · rw [s.core_modCore_of_ne f hc]

theorem State.ctxOf_spend (r : Ref) : s.spend.ctxOf r = s.ctxOf r := rfl

theorem State.ctxOf_modSlot (c k : Nat) (f : Slot → Slot) (hf : ∀ q, (f q).ctx = q.ctx) (r : Ref) :
    (s.modSlot c k f).ctxOf r = s.ctxOf r := by
  unfold State.ctxOf
  split
  · rw [State.wave?_modSlot]
  · next n _ =>
    by_cases hc : (r.core, n) = (c, k)
    · obtain ⟨rfl, rfl⟩ := Prod.mk.inj hc
      rw [State.slot?_modSlot_self, Option.map_map]
      exact congrArg (fun g : Slot → Nat => ((s.slot? r.core n).map g).getD 0) (funext hf)
    · rw [s.slot?_modSlot_of_ne f hc]

theorem Slot.addPending_ctx (q : Slot) (n amount : Nat) : (q.addPending n amount).ctx = q.ctx := by
  unfold Slot.addPending
  split <;> rfl

theorem Slot.event_ctx (q : Slot) (code user system amount : Nat) (perIssue : Bool) :
    (q.event code perIssue user system amount).ctx = q.ctx := by
  unfold Slot.event
  refine List.foldlRecOn (motive := fun p : Slot => p.ctx = q.ctx) _ _ rfl fun p hp i _ => ?_
  dsimp only
  split
  · exact hp
  · rw [Slot.addPending_ctx, hp]

theorem State.ctxOf_event (core ctx code amount : Nat) (system : Bool) (r : Ref) :
    (s.event core ctx code amount system).ctxOf r = s.ctxOf r := by
  unfold State.event
  split
  · rfl
  · exact s.ctxOf_modSlot _ _ _ (fun q => q.event_ctx ..) r

/-! ### The walk at the origin (R451, R452) -/

/-- A lookup that finds no leaf has changed nothing. -/
theorem State.tlbLookup_none {core ctx key va : Nat} {missed : Bool} {t : State} (h : s.tlbLookup core ctx key va = (none, missed, t)) :
    missed = true ∧ t = s := by
  unfold State.tlbLookup at h
  dsimp only at h
  split at h
  · cases h
  · split at h
    · obtain ⟨-, rfl, rfl⟩ := h
      exact ⟨rfl, rfl⟩
    · cases h

/-- A lookup fills translation caches: every thread keeps its context, and the registers of the module stand. -/
theorem State.tlbLookup_keeps (core ctx key va : Nat) (r : Ref) :
    (s.tlbLookup core ctx key va).2.2.ctxOf r = s.ctxOf r ∧ (s.tlbLookup core ctx key va).2.2.bar = s.bar := by
  unfold State.tlbLookup
  dsimp only
  split
  · exact ⟨rfl, rfl⟩
  · split
    · exact ⟨rfl, rfl⟩
    · exact ⟨(State.ctxOf_spend _ r).trans (s.ctxOf_modCore _ _ rfl rfl r), rfl⟩

theorem State.walk_keeps {r : Ref} {h : Hart} {va : Nat} {write : Bool} {leaf : Leaf} {s' : State}
    (hw : s.walk r h va write = (some leaf, s')) : s'.ctxOf r = s.ctxOf r ∧ s'.bar = s.bar := by
  obtain ⟨hc, hb⟩ := s.tlbLookup_keeps r.core (s.ctxOf r) h.launch.toNat va r
  unfold State.walk at hw
  rcases ht : s.tlbLookup r.core (s.ctxOf r) h.launch.toNat va with ⟨_ | l, missed, t⟩
  · simp [ht] at hw
  · simp only [ht, Prod.mk.injEq] at hw hc hb
    obtain ⟨-, rfl⟩ := hw
    split
    · exact ⟨(State.ctxOf_event ..).trans hc, State.slotsOnly.refl.event.1.bar.trans hb⟩
    · exact ⟨hc, hb⟩

/-- The cause that a missing leaf raises does not depend on the counters. -/
theorem State.missCause_event (core ctx code amount : Nat) (system : Bool) (ctx' va : Nat) :
    (s.event core ctx code amount system).missCause ctx' va = s.missCause ctx' va :=
  State.slotsOnly.refl.event.1.field fun t => t.missCause ctx' va

theorem State.walk_miss {r : Ref} {h : Hart} {va : Nat} {write missed : Bool} {s' : State}
    (ht : s.tlbLookup r.core (s.ctxOf r) h.launch.toNat va = (none, missed, s')) :
    s.walk r h va write = (none, (if missed then s'.event r.core (s.ctxOf r) 0x10 1 h.tstate.priv else s').raise r
      (globalStop (s.missCause (s.ctxOf r) va) va write (s.homeId r.core))) := by
  obtain ⟨rfl, rfl⟩ := s.tlbLookup_none ht
  have hb : (s'.event r.core (s'.ctxOf r) 0x10 1 h.tstate.priv).homeId r.core = s'.homeId r.core :=
    State.slotsOnly.refl.event.1.field fun t => t.homeId r.core
  unfold State.walk
  simp only [ht, if_true, State.missCause_event, hb]

/-! ### Where a global access goes (R23, R285, R318, R343) -/

/-- A global access whose walk finds no leaf is dealt with there. -/
theorem State.locate_of_walk_none {r : Ref} {h : Hart} {va n : Nat} {write sx : Bool} {sl : BitVec 3} {s' : State}
    (hw : s.walk r h va write = (none, s')) : s.locate r h 0 va n write sl sx = (none, s') := by
  simp [State.locate, hw]

/-- A global access with its leaf: PINNED_GLOBAL, NONLOCAL, the thread's own earlier request, the checks at the home, or migration. -/
theorem State.locate_of_walk {r : Ref} {h : Hart} {va n : Nat} {write sx : Bool} {sl : BitVec 3} {leaf : Leaf} {s' : State}
    (hw : s.walk r h va write = (some leaf, s')) :
    let here := leaf.home == s.homeId r.core
    let read := leaf.ro && !write
    s.locate r h 0 va n write sl sx =
      if s'.pinned h && !read then (none, s'.raise r (globalStop .pinnedGlobal va write leaf.home))
      else if h.tx.depth != 0 && !here then (none, s'.txAbort r .nonlocal 0)
      else if (here || read) && s'.requestOut h.tid (s.ctxOf r) va n then (none, s'.hold r (.ordered va n))
      else if here || read then
        match s'.atHome r h leaf va n write with
        | (none, t) => (none, t)
        | (some dpa, t) => if read then (some (.cached ⟨dpa / 64, va / 64, 0, s.ctxOf r⟩ dpa), t.roCost r h dpa)
            else (some (.home ⟨dpa / 64, va / 64, 0, s.ctxOf r⟩ dpa), t)
      else (none, s'.migrate r leaf.home sl sx va) := by
  have hh : s'.homeId r.core = s.homeId r.core := by simp [State.homeId, (s.walk_keeps hw).2]
  simp only [State.locate, hw, hh] <;> rfl

/-- The home's answer to an access that no range stops and that is not the first of the forwarded ones. -/
theorem State.atHome_of_unlocked {r : Ref} {h : Hart} {leaf : Leaf} {ctx va n : Nat} {write : Bool} (hc : s.ctxOf r = ctx)
    (hl : s.rangeLocked ctx va n write = false) (hf : s.firstForwarded h.tid ctx va = false) :
    s.atHome r h leaf va n write = match s.homeCheck ctx va write leaf with
      | .ok dpa => (some dpa, s)
      | .fault c => (none, s.raise r (globalStop c va write leaf.home))
      | .moving => (none, (s.hold r (.pageMove (some va) s.next)).bump) := by
  subst hc
  simp only [State.atHome, hl, hf, Bool.false_eq_true, if_false] <;> rfl

end Sys2Proof.Machine

open Sys2Proof Sys2Proof.Machine

/-- Settles O34, from the order of the routes in `State.locate_of_walk`. -/
theorem globalAccessRoutes : Obligations.GlobalAccessRoutes := by
  unfold Obligations.GlobalAccessRoutes
  intro s s' r h va n write sl sx leaf _
  refine ⟨fun missed s1 ht hc => ?_, fun hw => ?_⟩
  · rw [s.locate_of_walk_none (s.walk_miss ht), hc]
    rfl
  · have hctx := (s.walk_keeps hw).1
    have hl := s.locate_of_walk (n := n) (sl := sl) (sx := sx) hw
    dsimp only at hl ⊢
    rw [hl]
    generalize (leaf.home == s.homeId r.core) = here
    generalize (leaf.ro && !write) = read
    have hstop (hp : ¬(s'.pinned h = true ∧ read = false)) : (s'.pinned h && !read) = false := by simpa using hp
    have hstay (hh : h.tx.depth = 0 ∨ here = true) : (h.tx.depth != 0 && !here) = false := by
      rcases hh with hh | hh <;> simp [hh]
    have hserve (hr : here = true ∨ read = true) : (here || read) = true := by simpa using hr
    refine ⟨fun hp hr => ?_, fun hp ht hh => ?_, fun hp ht hh hr => ?_, fun hp ht hr ho => ?_, fun hp ht hr ho hk hf hm => ?_,
      fun hp ht hr ho hk hf dpa hm => ?_⟩
    · simp [hp, hr]
    · simp only [hstop hp]; simp [ht, hh]
    · simp [hp, ht, hh, hr]
    · simp [hstop hp, hstay ht, hserve hr, ho]
    · have ha := s'.atHome_of_unlocked (leaf := leaf) hctx hk hf
      simp [hstop hp, hstay ht, hserve hr, ho, ha, hm]
    · have ha := s'.atHome_of_unlocked (leaf := leaf) hctx hk hf
      simp [hstop hp, hstay ht, hserve hr, ho, ha, hm]

end

section
/-! PROOFS. What O56 says: torus routing, the header of a packet, the move of a packet, slack ticks, overdue marks and router power. -/

namespace Sys2Proof.Machine

/-! ### The torus (R16, R438) -/

/-- A step round a ring of eight comes one nearer. -/
theorem ringNext_nearer : ∀ a < 8, ∀ b < 8, a ≠ b → ringNext a b < 8 ∧ ringDist (ringNext a b) b + 1 = ringDist a b := by decide

theorem portFrom_range (row up : Bool) : 1 ≤ portFrom row up ∧ portFrom row up ≤ 4 := by cases row <;> cases up <;> decide

theorem torusHop_of_row {c t : Nat} (h : c % 8 ≠ t % 8) :
    torusHop c t = some (c / 8 * 8 + ringNext (c % 8) (t % 8), portFrom true (ringNext (c % 8) (t % 8) == (c % 8 + 1) % 8)) := by
  simp [torusHop, h]

theorem torusHop_of_column {c t : Nat} (hx : c % 8 = t % 8) (h : c / 8 ≠ t / 8) :
    torusHop c t = some (ringNext (c / 8) (t / 8) * 8 + c % 8, portFrom false (ringNext (c / 8) (t / 8) == (c / 8 + 1) % 8)) := by
  simp [torusHop, hx, h]

theorem torusHop_self (c : Nat) : torusHop c c = none := by simp [torusHop]

/-- The way ends at its target alone; before it, a hop stays on the row while the column differs, and comes one nearer. -/
theorem torusHop_nearer {c t : Nat} (hc : c < 64) (ht : t < 64) : (torusHop c t = none ↔ c = t)
    ∧ ∀ n port, torusHop c t = some (n, port) →
      n < 64 ∧ torusDist n t + 1 = torusDist c t ∧ (c % 8 ≠ t % 8 → n / 8 = c / 8) ∧ 1 ≤ port ∧ port ≤ 4 := by
  by_cases hx : c % 8 = t % 8
  · by_cases hy : c / 8 = t / 8
    · have : c = t := by omega
      subst this
      simp [torusHop_self]
    · obtain ⟨hn, hd⟩ := ringNext_nearer (c / 8) (by omega) (t / 8) (by omega) hy
      rw [torusHop_of_column hx hy]
      refine ⟨⟨nofun, fun h => absurd (by rw [h]) hy⟩, ?_⟩
      rintro n port ⟨⟩
      have h1 : (ringNext (c / 8) (t / 8) * 8 + c % 8) % 8 = c % 8 := by omega
      have h2 : (ringNext (c / 8) (t / 8) * 8 + c % 8) / 8 = ringNext (c / 8) (t / 8) := by omega
      refine ⟨by omega, ?_, fun h => absurd hx h, portFrom_range ..⟩
      unfold torusDist
      rw [h1, h2]
      omega
  · obtain ⟨hn, hd⟩ := ringNext_nearer (c % 8) (by omega) (t % 8) (by omega) hx
    rw [torusHop_of_row hx]
    refine ⟨⟨nofun, fun h => absurd (by rw [h]) hx⟩, ?_⟩
    rintro n port ⟨⟩
    have h1 : (c / 8 * 8 + ringNext (c % 8) (t % 8)) % 8 = ringNext (c % 8) (t % 8) := by omega
    have h2 : (c / 8 * 8 + ringNext (c % 8) (t % 8)) / 8 = c / 8 := by omega
    refine ⟨by omega, ?_, fun _ => h2, portFrom_range ..⟩
    unfold torusDist
    rw [h1, h2]
    omega

/-! ### The header of a packet (R441) -/

theorem getLsbD_setBits {n : Nat} (v : BitVec n) (lo w x i : Nat) (hi : i < n) :
    (setBits v lo w x).getLsbD i = if lo ≤ i ∧ i < lo + w then x.testBit (i - lo) else v.getLsbD i := by
  have hm : (BitVec.ofNat n ((2 ^ w - 1) * 2 ^ lo)).getLsbD i = decide (lo ≤ i ∧ i < lo + w) := by
    rw [BitVec.getLsbD_ofNat, Nat.testBit_mul_two_pow, Nat.testBit_two_pow_sub_one]
    grind
  simp only [setBits, BitVec.getLsbD_or, BitVec.getLsbD_and, BitVec.getLsbD_not, hm, hi, decide_true, Bool.true_and]
  rw [BitVec.getLsbD_ofNat, Nat.testBit_mul_two_pow]
  grind

/-- Bits [l + k - 1 : l] of a header as a number. -/
def bitsAt (v : BitVec 256) (l k : Nat) : Nat := v.toNat / 2 ^ l % 2 ^ k

theorem testBit_bitsAt (v : BitVec 256) (l k j : Nat) : (bitsAt v l k).testBit j = (decide (j < k) && v.getLsbD (l + j)) := by
  rw [bitsAt, Nat.testBit_mod_two_pow, Nat.testBit_div_two_pow, BitVec.testBit_toNat, Nat.add_comm]

/-- A field that has been written reads back. -/
theorem bitsAt_setBits_self (v : BitVec 256) {l k x : Nat} (hl : l + k ≤ 256) (hx : x < 2 ^ k) : bitsAt (setBits v l k x) l k = x := by
  refine Nat.eq_of_testBit_eq fun j => ?_
  rw [testBit_bitsAt]
  by_cases hj : j < k
  · rw [getLsbD_setBits _ _ _ _ _ (by omega), if_pos (by omega)]
    simp [hj]
  · rw [Nat.testBit_lt_two_pow (Nat.lt_of_lt_of_le hx (Nat.pow_le_pow_right (by decide) (by omega)))]
    simp [hj]

/-- A field keeps its bits when another is written. -/
theorem bitsAt_setBits_of_disjoint (v : BitVec 256) {lo w x l k : Nat} (hl : l + k ≤ 256) (h : l + k ≤ lo ∨ lo + w ≤ l) :
    bitsAt (setBits v lo w x) l k = bitsAt v l k := by
  refine Nat.eq_of_testBit_eq fun j => ?_
  rw [testBit_bitsAt, testBit_bitsAt]
  by_cases hj : j < k
  · rw [getLsbD_setBits _ _ _ _ _ (by omega), if_neg (by omega)]
  · simp [hj]

/-- The fibre bits 228 and 229 leave every other field. -/
theorem bitsAt_fibres {α : Type} (fibres : List (Nat × α)) (v : BitVec 256) {l k : Nat} (hf : ∀ e ∈ fibres, e.1 < 2) (hl : l + k ≤ 256)
    (h : l + k ≤ 228 ∨ 230 ≤ l) : bitsAt (fibres.foldl (fun v e => setBits v (228 + e.1) 1 1) v) l k = bitsAt v l k := by
  induction fibres generalizing v with
  | nil => rfl
  | cons e fibres ih =>
    have he := hf e (by simp)
    rw [List.foldl_cons, ih _ fun x hx => hf x (by simp [hx]), bitsAt_setBits_of_disjoint v hl (by omega)]

/-- The fields of a thread leave those that every packet has. -/
theorem bitsAt_ofThread (p : Packet) (n : Needle) (hf : ∀ e ∈ n.fibres, e.1 < 2) {l k : Nat} (hl : l + k ≤ 256)
    (h : l + k ≤ 16 ∨ 80 ≤ l ∧ l + k ≤ 112 ∨ 230 ≤ l) : bitsAt (p.ofThread n) l k = bitsAt p.common l k := by
  unfold Packet.ofThread
  rw [bitsAt_fibres _ _ hf hl (by omega)]
  iterate 10 rw [bitsAt_setBits_of_disjoint _ hl (by omega)]

theorem bitsAt_header (p : Packet) (hf : ∀ n i, (p.body = .needle n ∨ p.body = .task n i) → ∀ e ∈ n.fibres, e.1 < 2) {l k : Nat}
    (hl : l + k ≤ 256) (h : l + k ≤ 16 ∨ 80 ≤ l ∧ l + k ≤ 112 ∨ 230 ≤ l) : bitsAt p.header l k = bitsAt p.common l k := by
  unfold Packet.header
  split
  · next n hb => exact bitsAt_ofThread p n (hf n ⟨0, .bobbin 0, 0⟩ (.inl hb)) hl h
  · next n i hb => exact bitsAt_ofThread p n (hf n i (.inr hb)) hl h
  · rfl

theorem Packet.type_lt (p : Packet) : p.type < 2 ^ 4 := by
  unfold Packet.type
  split
  · decide
  · split <;> (try split) <;> decide

/-- CTX, SLACK, HOME, TYPE and SRC stand at bits 0, 80, 92, 232 and 236. -/
theorem Packet.common_fields (p : Packet) (hc : p.ctx < 2 ^ 16) (hh : p.home < 2 ^ 20) (hs : p.src < 2 ^ 20) :
    bitsAt p.common 0 16 = p.ctx ∧ bitsAt p.common 80 12 = p.slack.toNat ∧ bitsAt p.common 92 20 = p.home
      ∧ bitsAt p.common 232 4 = p.type ∧ bitsAt p.common 236 20 = p.src := by
  unfold Packet.common
  refine ⟨?_, ?_, ?_, ?_, ?_⟩
  · iterate 4 rw [bitsAt_setBits_of_disjoint _ (by decide) (by decide)]
    exact bitsAt_setBits_self _ (by decide) hc
  · iterate 3 rw [bitsAt_setBits_of_disjoint _ (by decide) (by decide)]
    exact bitsAt_setBits_self _ (by decide) p.slack.isLt
  · iterate 2 rw [bitsAt_setBits_of_disjoint _ (by decide) (by decide)]
    exact bitsAt_setBits_self _ (by decide) hh
  · rw [bitsAt_setBits_of_disjoint _ (by decide) (by decide)]
    exact bitsAt_setBits_self _ (by decide) p.type_lt
  · exact bitsAt_setBits_self _ (by decide) hs

/-- LAUNCH, PC, LIVE and ORDINAL of a thread stand at bits 16, 48, 112 and 176. -/
theorem Packet.thread_fields (p : Packet) (n : Needle) (hf : ∀ e ∈ n.fibres, e.1 < 2) :
    bitsAt (p.ofThread n) 16 32 = n.launch.toNat ∧ bitsAt (p.ofThread n) 48 32 = n.pc.toNat
      ∧ bitsAt (p.ofThread n) 112 64 = n.live.toNat ∧ bitsAt (p.ofThread n) 176 32 = n.ordinal.toNat := by
  unfold Packet.ofThread
  refine ⟨?_, ?_, ?_, ?_⟩
  · rw [bitsAt_fibres _ _ hf (by decide) (by decide)]
    iterate 9 rw [bitsAt_setBits_of_disjoint _ (by decide) (by decide)]
    exact bitsAt_setBits_self _ (by decide) n.launch.isLt
  · rw [bitsAt_fibres _ _ hf (by decide) (by decide)]
    iterate 8 rw [bitsAt_setBits_of_disjoint _ (by decide) (by decide)]
    exact bitsAt_setBits_self _ (by decide) n.pc.isLt
  · rw [bitsAt_fibres _ _ hf (by decide) (by decide)]
    iterate 7 rw [bitsAt_setBits_of_disjoint _ (by decide) (by decide)]
    exact bitsAt_setBits_self _ (by decide) n.live.isLt
  · rw [bitsAt_fibres _ _ hf (by decide) (by decide)]
    iterate 6 rw [bitsAt_setBits_of_disjoint _ (by decide) (by decide)]
    exact bitsAt_setBits_self _ (by decide) n.ordinal.isLt

end Sys2Proof.Machine
end

section
namespace Sys2Proof.Machine

variable {s t : State} {p : Packet}

/-! ### The move of a packet (R16, R445) -/

theorem State.slotsOnly.opReached (h : s.slotsOnly t) : s.slotsOnly (t.opReached p) := by
  unfold State.opReached
  split
  · split
    · exact h
    · split
      · exact h.modSlot
      · exact h
  · exact h

theorem State.coresOnly.flitSeen (h : s.coresOnly t) {place : Place} : s.coresOnly (t.flitSeen place) := by
  unfold State.flitSeen
  split
  · split
    · exact h.modCore
    · exact h
  · exact h

/-- A choice changes the packets that it passes over, and takes numbers of the model's own; packets that did not compete stay. -/
def State.passed (s : State) (p : Packet) (t : State) : Prop :=
  t = { s with packets := t.packets, next := t.next } ∧ t.packets.length = s.packets.length
    ∧ ∀ q ∈ s.packets, (∀ x ∈ s.rivals p, x.id ≠ q.id) → q ∈ t.packets

theorem State.passed_passOver (s : State) (p : Packet) : s.passed p (s.passOver p) := by
  unfold State.passOver
  refine List.foldlRecOn (motive := s.passed p) _ _ ⟨rfl, rfl, fun q hq _ => hq⟩ fun t ht x hx => ?_
  obtain ⟨heq, hlen, hkeep⟩ := ht
  dsimp only
  split
  all_goals
    refine ⟨?_, by simpa [State.bump] using hlen, fun q hq hr => ?_⟩
    · rw [heq] <;> rfl
    · refine List.mem_map.mpr ⟨q, hkeep q hq hr, if_neg fun e => hr x hx e.symm⟩

theorem State.wayUp_of_links (h : t.links = s.links) : ∀ l, t.wayUp l = s.wayUp l
  | [] => rfl
  | [_] => rfl
  | a :: b :: l => by rw [State.wayUp, State.wayUp, State.linkUp, State.linkUp, h, State.wayUp_of_links h (b :: l)]

/-- Where a packet goes next depends on the chip's own number and on the links alone. -/
theorem State.nextPlace_of_links (hb : t.bar = s.bar) (hl : t.links = s.links) (q : Packet) : t.nextPlace q = s.nextPlace q := by
  have hw : t.wayUp = s.wayUp := funext (State.wayUp_of_links hl)
  simp only [State.nextPlace, State.onChip, State.nextDie, hb, ← hw]
  rfl

theorem State.passed.nextPlace (h : s.passed p t) (q : Packet) : t.nextPlace q = s.nextPlace q := by
  obtain ⟨heq, -⟩ := h
  exact State.nextPlace_of_links (by rw [heq]) (by rw [heq]) q

/-- A packet does not compete with itself: the choice that falls on it leaves it as it is. -/
theorem State.rivals_ne {x : Packet} (hx : x ∈ s.rivals p) : x.id ≠ p.id := by
  have := (List.mem_filter.mp hx).2
  simp only [Bool.and_eq_true, bne_iff_ne, ne_eq] at this
  exact this.1.1

/-- The bulk data that a packet has brought to its destination: the packet ends there. -/
def Packet.spentAt (p : Packet) (place : Place) : Bool :=
  place == .arrived && (match p.body with
    | .bulk _ => true
    | _ => false)

theorem Packet.spentAt_of_bulk {j : BulkJob} (h : p.body = .bulk j) : p.spentAt .arrived = true := by simp [Packet.spentAt, h]

theorem Packet.spentAt_eq_false {place : Place} (h : place = .arrived → ∀ j, p.body ≠ .bulk j) : p.spentAt place = false := by
  unfold Packet.spentAt
  by_cases hp : place = .arrived
  · split
    · next j hb => exact absurd hb (h hp j)
    · simp
  · simp [hp]

theorem exec_packetAdvance (id : Nat) : exec (.packetAdvance id) s = execPacketAdvance id s := rfl

theorem execPacketAdvance_waiting {id : Nat} (hf : s.packets.find? (fun p => p.id == id) = some p) (hc : s.chosenNext p = false) :
    execPacketAdvance id s = .next s := by
  simp [execPacketAdvance, hf, hc]

/-- The packets that a hop passes are counted, and its routers have seen its flits. -/
def State.flitsSeen (s : State) (p : Packet) (place : Place) : State := ((s.passOver p).flitSeen p.place).flitSeen place

/-- A packet that its home refuses is counted there before it moves. -/
def State.hopped (s : State) (p : Packet) (place : Place) : State :=
  let refused := place == .arrived && (match p.body with
    | .needle _ => (((s.flitsSeen p place).core (coreOfHome p.home)).placeFor p.ctx p.bytes).isNone
    | _ => false)
  if refused then (s.flitsSeen p place).event (coreOfHome p.home) p.ctx 0x0E 1 else s.flitsSeen p place

theorem State.coresOnly_hopped (s : State) (p : Packet) (place : Place) : (s.passOver p).coresOnly (s.hopped p place) := by
  have h : (s.passOver p).coresOnly (s.flitsSeen p place) := State.coresOnly.refl.flitSeen.flitSeen
  exact .ite (h.trans State.slotsOnly.refl.event.1) h

/-- The packet that is chosen stands at its next place, or has brought its data to their end. -/
theorem execPacketAdvance_chosen {id : Nat} {place : Place} (hf : s.packets.find? (fun p => p.id == id) = some p)
    (hc : s.chosenNext p = true) (hn : s.nextPlace p = some place) :
    execPacketAdvance id s = .next (if p.spentAt place then ((s.hopped p place).opReached p).dropPacket id
      else { s.hopped p place with packets := (s.hopped p place).packets.map fun x =>
        if x.id = id then { x with place, since := (s.flitsSeen p place).next, passed := 0, promoted := none } else x }).bump := by
  have hn' : (s.passOver p).nextPlace p = some place := (s.passed_passOver p).nextPlace p ▸ hn
  simp only [execPacketAdvance, hf, hc, Bool.not_true, Bool.false_eq_true, if_false, hn']
  rfl

theorem execPacketAdvance_egress {id die : Nat} (hf : s.packets.find? (fun p => p.id == id) = some p) (hc : s.chosenNext p = true)
    (hn : s.nextPlace p = none) (hp : p.place = .uet die) (hr : s.rivals p = []) : execPacketAdvance id s = .next (s.egress die p) := by
  have hs : s.passOver p = s := by rw [State.passOver, hr]; rfl
  simp [execPacketAdvance, hf, hc, hs, hn, hp]

/-- A packet that leaves for another module goes from the packets to the outbox. -/
theorem State.egress_moves (s : State) (die : Nat) (p : Packet) : ∃ q,
    State.coresOnly { s.dropPacket p.id with outbox := s.outbox ++ [q] } (s.egress die p) ∧ q.body = p.body ∧ q.home = p.home :=
  ⟨_, .ite State.slotsOnly.refl.count.1 .refl, rfl, rfl⟩

/-- A chosen packet moves: bulk data end where they arrive, and any other packet stands at its next place while those it did not compete
with stay. -/
theorem State.packetAdvance_moves (s : State) (id : Nat) (p : Packet) (hf : s.packets.find? (fun p => p.id == id) = some p) :
    (∀ j, s.chosenNext p = true → s.nextPlace p = some .arrived → p.body = .bulk j →
      ∃ t, exec (.packetAdvance id) s = .next t ∧ t.mem = s.mem ∧ ∀ q ∈ t.packets, q.id ≠ id)
    ∧ ∀ place, s.chosenNext p = true → s.nextPlace p = some place → (place = .arrived → ∀ j, p.body ≠ .bulk j) →
      ∃ t n, exec (.packetAdvance id) s = .next t ∧ t.mem = s.mem ∧ t.packets.length = s.packets.length
        ∧ { p with place, since := n, passed := 0, promoted := none } ∈ t.packets
        ∧ ∀ q ∈ s.packets, q.id ≠ id → (∀ x ∈ s.rivals p, x.id ≠ q.id) → q ∈ t.packets := by
  have hid : p.id = id := by simpa using List.find?_some hf
  obtain ⟨heq, hlen, hkeep⟩ := s.passed_passOver p
  have hmem : (s.passOver p).mem = s.mem := by rw [heq]
  refine ⟨fun j hc hn hb => ?_, fun place hc hn hb => ?_⟩
  · have hh := s.coresOnly_hopped p .arrived
    rw [exec_packetAdvance, execPacketAdvance_chosen hf hc hn, if_pos (Packet.spentAt_of_bulk hb)]
    refine ⟨_, rfl, ?_, fun q hq => ?_⟩
    · exact (State.slotsOnly.refl.opReached.1.mem.trans hh.mem).trans hmem
    · simpa using (List.mem_filter.mp hq).2
  · have hh := s.coresOnly_hopped p place
    rw [exec_packetAdvance, execPacketAdvance_chosen hf hc hn, if_neg (by simp [Packet.spentAt_eq_false hb])]
    refine ⟨_, (s.flitsSeen p place).next, rfl, hh.mem.trans hmem, ?_, ?_, fun q hq hne hr => ?_⟩
    · simpa [State.bump, hh.packets] using hlen
    · exact List.mem_map.mpr ⟨p, hh.packets ▸ hkeep p (List.mem_of_find?_eq_some hf) fun x hx => State.rivals_ne hx, if_pos hid⟩
    · exact List.mem_map.mpr ⟨q, hh.packets ▸ hkeep q hq hr, if_neg hne⟩

/-! ### Slack and router power (R443, R444, R446) -/

theorem State.coresOnly.tickQueue (h : s.coresOnly t) {core : Nat} : s.coresOnly (t.tickQueue core) :=
  .foldl (fun _ _ => State.slotsOnly.refl.count.1) _ h.modCore

theorem State.coresOnly.tickQueues (h : s.coresOnly t) (l : List (Nat × Core)) :
    s.coresOnly (l.foldl (fun s e => if e.2.spawnQ.any fun t => t.left.isSome then s.tickQueue e.1 else s) t) :=
  .foldl (fun _ _ => .ite State.coresOnly.refl.tickQueue .refl) _ h

theorem execSlackTick_none (h : s.net / tickUnits ≤ s.ticks) : execSlackTick s = .next s := by simp [execSlackTick, h]

/-- A tick takes one from the slack of every packet that is held where slack decrements. -/
theorem execSlackTick_one (h : s.ticks < s.net / tickUnits) : ∃ t, execSlackTick s = .next t ∧ t.ticks = s.ticks + 1 ∧ t.mem = s.mem
    ∧ t.packets = s.packets.map fun p => if p.held then { p with slack := ticked p.slack } else p := by
  simp only [execSlackTick, Nat.not_le.mpr h, if_false]
  refine ⟨_, rfl, ?_⟩
  have hs := fun (u : State) l => State.coresOnly.tickQueues (s := u) .refl l
  exact ⟨(hs _ _).ticks, (hs _ _).mem, (hs _ _).packets⟩

theorem execSlackOverdue_due {id : Nat} (hf : s.packets.find? (fun p => p.id == id) = some p) (hs : p.slack = 0) (ho : p.ovd = false) :
    execSlackOverdue id s = .next (({ s with packets := s.packets.map fun x => if x.id = id then { x with ovd := true } else x } : State).countOverdue p) := by
  simp [execSlackOverdue, hf, hs, ho]

theorem execSlackOverdue_idle {id : Nat} (hf : s.packets.find? (fun p => p.id == id) = some p) (h : p.slack ≠ 0 ∨ p.ovd = true) :
    execSlackOverdue id s = .next s := by
  have hi : (p.slack != 0 || p.ovd) = true := by simpa using h
  simp only [execSlackOverdue, hf, hi, if_true]

end Sys2Proof.Machine

open Sys2Proof Sys2Proof.Machine

/-- Settles O56, from the torus, the header, the move of a packet, the ticks and the routers' power. -/
theorem fabricAndSlack : Obligations.FabricAndSlack := by
  unfold Obligations.FabricAndSlack
  refine ⟨fun c t hc ht => torusHop_nearer hc ht, fun s id p hf => ?_, fun s => ⟨execSlackTick_none, execSlackTick_one⟩, fun p hc hh hs hf => ?_,
    fun v => by simp [ticked], fun s core => ?_⟩
  · obtain ⟨hbulk, hmove⟩ := s.packetAdvance_moves id p hf
    refine ⟨execPacketAdvance_waiting hf, hbulk, hmove, fun die hc hn hp hr => ?_, execSlackOverdue_due hf, execSlackOverdue_idle hf⟩
    obtain ⟨q, he, hb, hh⟩ := s.egress_moves die p
    have hid : p.id = id := by simpa using List.find?_some hf
    exact ⟨_, q, execPacketAdvance_egress hf hc hn hp hr, hid ▸ he.packets, he.outbox, hb, hh, he.mem⟩
  · obtain ⟨h1, h2, h3, h4, h5⟩ := p.common_fields hc hh hs
    have hb {l k : Nat} := bitsAt_header p (l := l) (k := k) hf
    refine ⟨?_, (hb (by decide) (by decide)).trans h2, (hb (by decide) (by decide)).trans h3, (hb (by decide) (by decide)).trans h4,
      (hb (by decide) (by decide)).trans h5, fun n hn => ?_⟩
    · simpa [bitsAt] using (hb (by decide) (by decide)).trans h1
    · have he : p.header = p.ofThread n := by simp [Packet.header, hn]
      obtain ⟨g1, g2, g3, g4⟩ := p.thread_fields n (hf n ⟨0, .bobbin 0, 0⟩ (.inl hn))
      rw [he]
      exact ⟨g1, g2, g3, g4, fun hr => by simp [Packet.type, hr, hn]⟩
  · refine ⟨fun h => ?_, fun h => ?_, fun h => ?_, fun h => ?_⟩
    · exact congrArg Host.Outcome.next (if_pos h)
    · exact congrArg Host.Outcome.next (if_neg (by simp [h]))
    · exact congrArg Host.Outcome.next (if_pos h)
    · exact congrArg Host.Outcome.next (if_neg (by simp [h]))

end

section
/-! PROOFS. What O52 says of arrivals at a home: the store and the spill area, the waves that spools form, and launch entries
(R34 to R37, R280, R421, R436, R437, R462). -/

namespace Sys2Proof.Machine

variable {s t : State} {p : Packet} {n : Needle}

/-! ### Replies and packets -/

/-- A reply takes the packet's place: it goes back from the packet's home with the slack that is left. -/
theorem repliedBy_reply (s u : State) (p : Packet) (b : Body) (h : u.packets = s.packets) : repliedBy s ((u.dropPacket p.id).reply p b) p b :=
  ⟨_, congrArg (fun l : List Packet => l.filter (fun x => x.id != p.id) ++ [_]) h, rfl, rfl, rfl, rfl, rfl, rfl⟩

/-! ### The store and the spill area (R436, R437) -/

/-- The arrival that a packet becomes. -/
def State.arrivalOf (s : State) (p : Packet) (n : Needle) : Arrival :=
  { id := p.id, needle := { n with placed := true }, ctx := p.ctx, slack := p.slack, ovd := p.ovd, sx := p.sx, bytes := p.bytes
    since := s.tsc.toNat, seq := s.next, src := p.src }

theorem State.slotsOnly.countPlaced (h : s.slotsOnly t) {core ctx : Nat} : s.slotsOnly (t.countPlaced core ctx n) :=
  .ite h h.count

theorem State.arrive_none (h : (s.core (coreOfHome p.home)).placeFor p.ctx p.bytes = none) : s.arrive p n = none := by
  simp only [State.arrive, h]

/-- The state in which a packet is placed: it is gone, a number is taken, and MIGI has counted it. -/
def State.placing (s : State) (p : Packet) (n : Needle) : State :=
  ((s.dropPacket p.id).bump).countPlaced (coreOfHome p.home) p.ctx n

theorem State.placing_slotsOnly (s : State) (p : Packet) (n : Needle) : ((s.dropPacket p.id).bump).slotsOnly (s.placing p n) :=
  State.slotsOnly.refl.countPlaced

theorem State.arrive_store {e : Nat} (h : (s.core (coreOfHome p.home)).placeFor p.ctx p.bytes = some (some e)) :
    s.arrive p n = some ((s.placing p n).enterStore (coreOfHome p.home) (s.arrivalOf p n) e) := by
  simp only [State.arrive, h]
  rfl

theorem State.arrive_spill (h : (s.core (coreOfHome p.home)).placeFor p.ctx p.bytes = some none) :
    s.arrive p n = some (((s.placing p n).modCore (coreOfHome p.home) fun k => { k with spill := k.spill ++ [s.arrivalOf p n] }).event
      (coreOfHome p.home) p.ctx 0x0D 1) := by
  simp only [State.arrive, h]
  rfl

/-- The overlay of an arrival is installed, or the host loads it: the arrival does not wait. -/
def State.overlayHere (s : State) (core ctx : Nat) (ovl : BitVec 16) : Prop :=
  ((s.core core).overlay? ctx ovl).isSome = true ∨ s.hostMode 1 = true

theorem State.enterStore_here {core e : Nat} {a : Arrival} (h : s.overlayHere core a.ctx (ovlOf a.needle.pc)) :
    s.enterStore core a e =
      s.modCore core fun k => { k with store := k.store ++ [{ a with entry := e, since := s.tsc.toNat, waits := false }] } := by
  have hm : (((s.core core).overlay? a.ctx (ovlOf a.needle.pc)).isNone && !s.hostMode 1) = false := by
    rcases h with h | h
    · simp [Option.isNone_iff_eq_none, Option.isSome_iff_ne_none.mp h]
    · simp [h]
  simp only [State.enterStore, hm, Bool.false_eq_true, if_false]

theorem State.core_bump (s : State) (c : Nat) : s.bump.core c = s.core c := rfl

/-- Two misses on one overlay start one load: afterwards there is one. -/
theorem State.startLoad_loads (s : State) (core ctx : Nat) (ovl : BitVec 16) (ovt : BitVec 48) :
    ∃ l ∈ ((s.startLoad core ctx ovl ovt).core core).loads, l.ctx = ctx ∧ l.ovl = ovl := by
  unfold State.startLoad
  split
  · next h =>
    obtain ⟨l, hl, hc⟩ := List.any_eq_true.mp h
    exact ⟨l, hl, by simpa using hc⟩
  · rw [State.core_bump, State.core_modCore_self]
    exact ⟨_, List.mem_append_right _ (List.mem_singleton_self _), rfl, rfl⟩

theorem State.startLoad_mem (s : State) (core ctx : Nat) (ovl : BitVec 16) (ovt : BitVec 48) : (s.startLoad core ctx ovl ovt).mem = s.mem := by
  unfold State.startLoad
  split <;> rfl

theorem State.startLoad_store (s : State) (core ctx : Nat) (ovl : BitVec 16) (ovt : BitVec 48) :
    ((s.startLoad core ctx ovl ovt).core core).store = (s.core core).store := by
  unfold State.startLoad
  split
  · rfl
  · rw [State.core_bump, State.core_modCore_self]

/-- In hardware mode an arrival whose overlay is missing waits for its load. -/
theorem State.enterStore_missing {core e : Nat} {a : Arrival} (h : ¬s.overlayHere core a.ctx (ovlOf a.needle.pc)) :
    ∃ u ovt, State.slotsOnly (s.modCore core fun k => { k with store := k.store ++ [{ a with entry := e, since := s.tsc.toNat, waits := true }] }) u
      ∧ s.enterStore core a e = u.startLoad core a.ctx (ovlOf a.needle.pc) ovt := by
  have hm : (((s.core core).overlay? a.ctx (ovlOf a.needle.pc)).isNone && !s.hostMode 1) = true := by
    simpa [State.overlayHere] using h
  have he : s.enterStore core a e = State.startLoad
      ((s.modCore core fun k => { k with store := k.store ++ [{ a with entry := e, since := s.tsc.toNat, waits := true }] }).event core a.ctx 0x11 1)
      core a.ctx (ovlOf a.needle.pc) (((s.launch? a.needle.launch).map Launch.ovt).getD 0) := by
    simp only [State.enterStore, hm, if_true]
  exact ⟨_, _, State.slotsOnly.refl.event, he⟩

theorem State.overlayHere_congr {core ctx : Nat} {ovl : BitVec 16} (hi : (t.core core).imem = (s.core core).imem) (hb : t.bar = s.bar) :
    t.overlayHere core ctx ovl ↔ s.overlayHere core ctx ovl := by
  simp only [State.overlayHere, Core.overlay?, State.hostMode, hi, hb]

theorem State.overlayHere_modCore {core ctx : Nat} {ovl : BitVec 16} (f : Core → Core) (hf : (f (s.core core)).imem = (s.core core).imem) :
    (s.modCore core f).overlayHere core ctx ovl ↔ s.overlayHere core ctx ovl :=
  State.overlayHere_congr (t := s.modCore core f) (by rw [State.core_modCore_self, hf]) rfl

theorem State.placing_overlayHere {core ctx : Nat} {ovl : BitVec 16} :
    (s.placing p n).overlayHere core ctx ovl ↔ s.overlayHere core ctx ovl :=
  State.overlayHere_congr ((s.placing_slotsOnly p n).imem core) (s.placing_slotsOnly p n).1.bar

section
variable {e : Nat} (h : (s.core (coreOfHome p.home)).placeFor p.ctx p.bytes = some (some e))
include h

/-- An arrival with its overlay takes its entry of the store. -/
theorem State.arrive_here (ho : s.overlayHere (coreOfHome p.home) p.ctx (ovlOf n.pc)) : ∃ t, s.arrive p n = some t ∧ t.mem = s.mem
    ∧ t.packets = s.packets.filter (fun x => x.id != p.id)
    ∧ (t.core (coreOfHome p.home)).store = (s.core (coreOfHome p.home)).store ++ [{ s.arrivalOf p n with entry := e }] := by
  have hs := s.placing_slotsOnly p n
  refine ⟨_, State.arrive_store h, ?_⟩
  rw [State.enterStore_here (State.placing_overlayHere.mpr ho)]
  refine ⟨hs.1.mem, hs.1.packets, ?_⟩
  rw [State.core_modCore_self, hs.store, hs.1.tsc]
  rfl

/-- An arrival whose overlay is missing takes its entry and waits there for the load. -/
theorem State.arrive_missing (ho : ¬s.overlayHere (coreOfHome p.home) p.ctx (ovlOf n.pc)) : ∃ t, s.arrive p n = some t ∧ t.mem = s.mem
    ∧ (t.core (coreOfHome p.home)).store = (s.core (coreOfHome p.home)).store ++ [{ s.arrivalOf p n with entry := e, waits := true }]
    ∧ ∃ l ∈ (t.core (coreOfHome p.home)).loads, l.ctx = p.ctx ∧ l.ovl = ovlOf n.pc := by
  have hs := s.placing_slotsOnly p n
  obtain ⟨u, ovt, hu, he⟩ := State.enterStore_missing (e := e) (a := s.arrivalOf p n) fun hh => ho (State.placing_overlayHere.mp hh)
  refine ⟨_, State.arrive_store h, ?_⟩
  rw [he]
  refine ⟨?_, ?_, u.startLoad_loads ..⟩
  · rw [u.startLoad_mem, hu.1.mem]
    exact hs.1.mem
  · rw [u.startLoad_store, hu.store, State.core_modCore_self, hs.store, hs.1.tsc]
    rfl

end

theorem State.arrive_spilled (h : (s.core (coreOfHome p.home)).placeFor p.ctx p.bytes = some none) : ∃ t, s.arrive p n = some t ∧ t.mem = s.mem
    ∧ t.packets = s.packets.filter (fun x => x.id != p.id)
    ∧ (t.core (coreOfHome p.home)).spill = (s.core (coreOfHome p.home)).spill ++ [s.arrivalOf p n] := by
  have hs := s.placing_slotsOnly p n
  refine ⟨_, State.arrive_spill h, ?_⟩
  have he := State.slotsOnly.refl (s := (s.placing p n).modCore (coreOfHome p.home) fun k => { k with spill := k.spill ++ [s.arrivalOf p n] })
    |>.event (core := coreOfHome p.home) (ctx := p.ctx) (code := 0x0D) (amount := 1) (system := false)
  refine ⟨he.1.mem.trans hs.1.mem, he.1.packets.trans hs.1.packets, ?_⟩
  rw [he.spill, State.core_modCore_self, hs.spill]
  rfl

/-- A needle that its home has refused comes back to the spill area, to be sent again (R462). -/
theorem State.returned_spilled (h : (s.core (coreOfHome p.home)).spillRoom = true) : (s.returned p n).mem = s.mem
    ∧ (s.returned p n).packets = s.packets.filter (fun x => x.id != p.id)
    ∧ ((s.returned p n).core (coreOfHome p.home)).spill = (s.core (coreOfHome p.home)).spill ++ [{ s.arrivalOf p n with resend := true }] := by
  have hs := s.placing_slotsOnly p n
  have hr : s.returned p n = ((s.placing p n).modCore (coreOfHome p.home) fun k =>
      { k with spill := k.spill ++ [{ s.arrivalOf p n with resend := true }] }).event (coreOfHome p.home) p.ctx 0x0D 1 := by
    simp only [State.returned, h, if_true]
    rfl
  have he := State.slotsOnly.refl (s := (s.placing p n).modCore (coreOfHome p.home) fun k =>
      { k with spill := k.spill ++ [{ s.arrivalOf p n with resend := true }] })
    |>.event (core := coreOfHome p.home) (ctx := p.ctx) (code := 0x0D) (amount := 1) (system := false)
  rw [hr]
  refine ⟨he.1.mem.trans hs.1.mem, he.1.packets.trans hs.1.packets, ?_⟩
  rw [he.spill, State.core_modCore_self, hs.spill]
  rfl

theorem State.returned_full (h : (s.core (coreOfHome p.home)).spillRoom = false) : s.returned p n = s := by
  simp only [State.returned, h, Bool.false_eq_true, if_false]

theorem execNeedleArrival_needle (hp : s.packet? p.id = some p) (hb : p.body = .needle n) :
    execNeedleArrival p.id s = .next (if p.rehomed then s.returned p n else (s.arrive p n).getD s) := by
  simp only [execNeedleArrival, hp, hb]

theorem execTaskArrival_turned {issuer : Ref} (hp : s.packet? p.id = some p) (hb : p.body = .task n issuer)
    (h : p.rehomed = true ∨ s.taskCheck p n ≠ .accept) : execTaskArrival p.id s = .next s := by
  have hc : (p.rehomed || s.taskCheck p n != .accept) = true := by simpa using h
  simp only [execTaskArrival, hp, hb, hc, if_true]

section
variable {issuer : Ref} (hp : s.packet? p.id = some p) (hb : p.body = .task n issuer) (hr : p.rehomed = false) (hc : s.taskCheck p n = .accept)
include hp hb hr hc

theorem execTaskArrival_accepted (h : s.arrive p n = some t) : execTaskArrival p.id s = .next (t.fenceCheck issuer.tid) := by
  simp [execTaskArrival, hp, hb, hr, hc, h]

theorem execTaskArrival_refused (h : s.arrive p n = none) : execTaskArrival p.id s =
    .next (((s.event (coreOfHome p.home) p.ctx 0x0E 1).dropPacket p.id).reply p (.refusal n issuer)) := by
  simp [execTaskArrival, hp, hb, hr, hc, h]

end

/-- The spilled thread that moves next takes an entry of the store. -/
theorem execSpillReturn_moves {core e : Nat} {a : Arrival} (ha : (s.core core).nextSpilled = some a)
    (he : (s.core core).freeEntry (entriesFor a.bytes) = some e) (ho : s.overlayHere core a.ctx (ovlOf a.needle.pc)) :
    ∃ t, execSpillReturn core s = .next t ∧ t.mem = s.mem ∧ (t.core core).spill = (s.core core).spill.filter (fun x => x.id != a.id)
      ∧ (t.core core).store = (s.core core).store ++ [{ a with entry := e, since := s.tsc.toNat, waits := false }] := by
  have ho' : (s.modCore core fun k => { k with spill := k.spill.filter fun x => x.id != a.id }).overlayHere core a.ctx (ovlOf a.needle.pc) :=
    (State.overlayHere_modCore _ rfl).mpr ho
  have hx : execSpillReturn core s =
      .next ((s.modCore core fun k => { k with spill := k.spill.filter fun x => x.id != a.id }).enterStore core a e) := by
    simp only [execSpillReturn, ha, he]
  rw [hx, State.enterStore_here ho']
  refine ⟨_, rfl, rfl, ?_, ?_⟩
  · rw [State.core_modCore_self, State.core_modCore_self]
  · rw [State.core_modCore_self, State.core_modCore_self]
    rfl

/-! ### Waves from spools (R35, R225, R280) -/

theorem insertBy_ne_nil {α : Type} (key : α → Nat) (x : α) (l : List α) : insertBy key x l ≠ [] := by
  cases l with
  | nil => simp [insertBy]
  | cons y l =>
    unfold insertBy
    split
    · simp
    · simp

theorem sortBy_ne_nil {α : Type} (key : α → Nat) {l : List α} (h : l ≠ []) : sortBy key l ≠ [] := by
  rw [← List.dropLast_concat_getLast h, sortBy, List.foldl_append]
  exact insertBy_ne_nil key (l.getLast h) _

/-- The frame of a wave's formation: slices are cleared, the core changes, a trace record is made. -/
theorem State.frame_of_newWave (s : State) (core w : Nat) (f : Core → Core) (r : Ref) (h : Hart) (kind arg : Nat) :
    let t := ((s.clearSlices core w).modCore core f).traceLane r h kind arg
    t.mem = Memory.clear s.mem (laneKey core w 0 0) (64 * 256) ∧ (t.core core).waves = (f (s.core core)).waves
      ∧ (t.core core).store = (f (s.core core)).store := by
  intro t
  have ht : State.slotsOnly ((s.clearSlices core w).modCore core f) t := State.slotsOnly.refl.traceLane
  refine ⟨ht.1.mem, ?_, ?_⟩
  · rw [ht.waves, State.core_modCore_self]; rfl
  · rw [ht.store, State.core_modCore_self]; rfl

/-- A spool with threads, and a free wave slot: its threads of least slack become a wave, in order, over lane slices that hold 0. -/
theorem State.formWave_forms {core spool key w : Nat} (hl : s.spoolThreads core spool key ≠ []) (hw : (s.core core).freeWaves.head? = some w) :
    let threads := (sortBy (fun a : Arrival => a.slack.toNat * 2 ^ 64 + a.seq) (s.spoolThreads core spool key)).take 64
    ∃ v, (s.formWave core spool key).wave? core w = some v ∧ v.arrival = true ∧ v.lanes = threads.mapIdx (fun i a => (i, a.hart))
      ∧ (s.formWave core spool key).mem = Memory.clear s.mem (laneKey core w 0 0) (64 * 256)
      ∧ ((s.formWave core spool key).core core).store = (s.core core).store.filter (fun x => !(threads.map Arrival.id).contains x.id) := by
  intro threads
  obtain ⟨a, rest, ht⟩ : ∃ a rest, threads = a :: rest :=
    List.exists_cons_of_ne_nil (by simpa [threads, List.take_eq_nil_iff] using sortBy_ne_nil _ hl)
  have hf : (sortBy (fun a : Arrival => a.slack.toNat * 2 ^ 64 + a.seq) (s.spoolThreads core spool key)).take 64 = a :: rest := ht
  rw [ht]
  unfold State.formWave
  simp only [hf, hw]
  obtain ⟨hmem, hwaves, hstore⟩ := s.frame_of_newWave core w _ ⟨core, .wave w 0, a.needle.tid⟩ a.hart 3 ((a :: rest).length - 1)
  refine ⟨_, (congrArg (KMap.get? · w) hwaves).trans (KMap.get?_set_self _ _ _), rfl, ?_, hmem, hstore⟩
  exact List.ext_getElem (by simp) fun i _ _ => by simp only [List.getElem_mapIdx, List.getElem_map]

theorem State.spoolFull_threads {core spool key : Nat} (h : s.spoolFull core spool key = true) : s.spoolThreads core spool key ≠ [] := by
  intro hn
  simp [State.spoolFull, hn] at h

theorem State.spoolTimed_threads {core spool key : Nat} (h : s.spoolTimed core spool key = true) : s.spoolThreads core spool key ≠ [] := by
  intro hn
  simp [State.spoolTimed, State.timedOut, hn] at h

end Sys2Proof.Machine
end

section
/-! PROOFS. What O52 says of launch entries (R421), of tasks on their way (R326, R327) and of phase objects (R328, R329). -/

namespace Sys2Proof.Machine

variable {s t : State} {p : Packet}

/-! ### Launch entries (R421) -/

theorem State.die_modDie (s : State) (d : Nat) (f : Die → Die) : (s.modDie d f).die d = f (s.die d) := by
  simp [State.die, State.modDie]

theorem State.die_spend (s : State) (d : Nat) : s.spend.die d = s.die d := rfl
theorem State.die_dropPacket (s : State) (id d : Nat) : (s.dropPacket id).die d = s.die d := rfl

theorem mem_tagFill (l : List Nat) (n tag pick : Nat) : tag ∈ tagFill l n tag pick := by
  unfold tagFill
  split
  · simp
  · simp

section
variable {die key : Nat}

theorem execLaunchEntryFetch_idle (h : s.entryDue die key = false) : execLaunchEntryFetch die key s = .next s := by
  simp [execLaunchEntryFetch, h]

/-- The request for an entry that the die wants leaves for the dispatcher. -/
theorem execLaunchEntryFetch_asks (hp : s.entryPacket die key = none) (hw : s.entryWanted die key = true) :
    ∃ t q, execLaunchEntryFetch die key s = .next t ∧ t.packets = s.packets ++ [q] ∧ q.body = .entryFetch die key
      ∧ q.src = s.homeId (dieCore die) ∧ q.home = s.homeId 0 ∧ t.mem = s.mem ∧ t.dies = s.dies := by
  have hd : s.entryDue die key = true := by simp [State.entryDue, hp, hw]
  obtain ⟨q, hs, hb, hsrc, hh, -⟩ := s.send_eq (dieCore die) (s.homeId 0) (((s.launches.get? key).map Launch.ctx).getD 0) (BitVec.ofNat 32 key)
    0xFFF false 0 32 (.entryFetch die key)
  exact ⟨_, q, by simp [execLaunchEntryFetch, hd, hp], hs.1.packets, hb, hsrc, hh, hs.1.mem, hs.1.dies⟩

section
variable (hp : s.entryPacket die key = some p) (ha : p.place = .arrived)
include hp ha

theorem entryDue_of_arrived : s.entryDue die key = true := by simp [State.entryDue, hp, ha]

/-- The dispatcher answers the request. -/
theorem execLaunchEntryFetch_answers (hb : p.body = .entryFetch die key) :
    execLaunchEntryFetch die key s = .next ((s.dropPacket p.id).reply p (.entry die key)) := by
  simp [execLaunchEntryFetch, entryDue_of_arrived hp ha, hp, hb]

/-- The die keeps the entry that the reply brings. -/
theorem execLaunchEntryFetch_keeps (hb : p.body = .entry die key) (hl : (s.launches.get? key).isSome = true) :
    ∃ t, execLaunchEntryFetch die key s = .next t ∧ key ∈ (t.die die).launchCache ∧ t.mem = s.mem ∧ t.cores = s.cores
      ∧ t.packets = s.packets.filter (fun x => x.id != p.id) := by
  have hn : ((s.dropPacket p.id).launches.get? key).isNone = false := by
    show (s.launches.get? key).isNone = false
    simpa [Option.isSome_iff_ne_none] using hl
  have hne : (p.body == Body.entryFetch die key) = false := by simp [hb]
  by_cases hc : key ∈ (s.die die).launchCache
  · have hc' : ((s.dropPacket p.id).die die).launchCache.contains key = true := List.contains_iff_mem.mpr hc
    refine ⟨s.dropPacket p.id, ?_, hc, rfl, rfl, rfl⟩
    simp only [execLaunchEntryFetch, entryDue_of_arrived hp ha, hp, hne, hc', Bool.or_true, Bool.not_true, Bool.false_eq_true, if_false, if_true]
  · have hc' : ((s.dropPacket p.id).die die).launchCache.contains key = false := by
      rw [State.die_dropPacket]
      simpa using hc
    refine ⟨((s.dropPacket p.id).modDie die fun d =>
      { d with launchCache := tagFill d.launchCache 256 key (Config.choice (s.dropPacket p.id).free) }).spend, ?_, ?_, rfl, rfl, rfl⟩
    · simp only [execLaunchEntryFetch, entryDue_of_arrived hp ha, hp, hne, hn, hc', Bool.or_false, Bool.not_true, Bool.false_eq_true, if_false]
    · rw [State.die_spend, State.die_modDie]
      exact mem_tagFill ..

end
end

/-! ### Tasks (R326, R327, R437) -/

section
variable {core : Nat} {k : Task} {rest : List Task} (hq : (s.core core).spawnQ = k :: rest)
include hq

theorem execSpawnTaskSend_waits (hk : k.sendable = false) : execSpawnTaskSend core s = .next s := by
  simp [execSpawnTaskSend, hq, hk]

/-- The head of the spawn queue leaves. -/
theorem execSpawnTaskSend_sends (hk : k.sendable = true) : ∃ t q, execSpawnTaskSend core s = .next t ∧ (t.core core).spawnQ = rest
    ∧ t.packets = s.packets ++ [q] ∧ q.body = .task k.needle k.issuer ∧ q.home = k.home ∧ q.slack = s.taskSlack core k ∧ t.mem = s.mem := by
  obtain ⟨q, hs, hb, -, hh, hsl⟩ := (s.modCore core fun c => { c with spawnQ := rest }).send_eq core k.home k.ctx k.needle.launch
    (s.taskSlack core k) false 0 48 (.task k.needle k.issuer)
  have hr : ((s.modCore core fun c => { c with spawnQ := rest }).core core).spawnQ = rest := by rw [State.core_modCore_self]
  simp only [execSpawnTaskSend, hq, hk, Bool.not_true, Bool.false_eq_true, if_false]
  refine ⟨_, q, rfl, ?_⟩
  split
  · exact ⟨hr, hs.1.packets, hb, hh, hsl, rfl⟩
  · exact ⟨(hs.spawnQ core).trans hr, hs.1.packets, hb, hh, hsl, hs.1.mem⟩

/-- A refused task may be sent again once it has waited. -/
theorem execTaskResendTimeout_due (hd : s.resendDue core = true) : ∃ t, execTaskResendTimeout core s = .next t ∧ t.mem = s.mem
    ∧ (t.core core).spawnQ = { k with refused := none } :: rest := by
  refine ⟨_, congrArg Host.Outcome.next (if_pos hd), rfl, ?_⟩
  rw [State.core_modCore_self]
  simp only [hq]

end

/-- A refused task returns to the head of its queue. -/
theorem execTaskRefusal_returns {n : Needle} {issuer : Ref} (hp : s.packet? p.id = some p) (hb : p.body = .refusal n issuer) :
    ∃ t k, execTaskRefusal p.id s = .next t ∧ (t.core (coreOfHome p.home)).spawnQ = k :: (s.core (coreOfHome p.home)).spawnQ
      ∧ k.needle = n ∧ k.issuer = issuer ∧ k.home = p.src ∧ k.refused = some s.net ∧ k.left = some p.slack ∧ t.mem = s.mem := by
  simp only [execTaskRefusal, hp, hb]
  refine ⟨_, { needle := n, issuer, home := p.src, ctx := p.ctx, slack := 0, va := BitVec.ofNat 48 (n.va.getD 0), waits := 0
               refused := some s.net, left := some p.slack }, rfl, ?_, rfl, rfl, rfl, rfl, rfl, rfl⟩
  rw [State.core_modCore_self]
  rfl

/-! ### Phase objects (R328, R329) -/

section
variable {key level group : Nat} {q : Phase}

/-- A change of a phase object that keeps its name is read back. -/
theorem State.phase?_modPhase {f : Phase → Phase} (h : s.phase? key level group = some q)
    (hf : ∀ p : Phase, (f p).key = p.key ∧ (f p).level = p.level ∧ (f p).group = p.group) :
    (s.modPhase key level group f).phase? key level group = some (f q) := by
  have hpred : (fun p : Phase => p.key == key && p.level == level && p.group == group)
      ∘ (fun p : Phase => if p.key == key && p.level == level && p.group == group then f p else p)
      = fun p : Phase => p.key == key && p.level == level && p.group == group := by
    funext p
    obtain ⟨hk, hl, hg⟩ := hf p
    simp only [Function.comp_apply]
    split
    · rw [hk, hl, hg]
    · rfl
  have hq := List.find?_some h
  unfold State.phase? at h
  simp only [State.phase?, State.modPhase, List.find?_map, hpred, h, Option.map_some, hq, if_true]

/-- An increment is counted in its object, and its task waits for one fewer. -/
theorem execSpawnIncrement_counts {launch : Word} {r : Ref} (hp : s.packet? p.id = some p) (hb : p.body = .increment launch level group r)
    (hq : s.phase? launch.toNat level group = some q) : ∃ t, execSpawnIncrement p.id s = .next t ∧ t.mem = s.mem
      ∧ t.phase? launch.toNat level group = some { q with live := q.live + 1 }
      ∧ (t.core r.core).spawnQ = (s.core r.core).spawnQ.map fun k => if k.needle.tid = r.tid then { k with waits := k.waits - 1 } else k := by
  simp only [execSpawnIncrement, hp, hb]
  refine ⟨_, rfl, rfl, ?_, ?_⟩
  · exact State.phase?_modPhase (s := s.dropPacket p.id) (f := fun q => { q with live := q.live + 1 }) hq fun _ => ⟨rfl, rfl, rfl⟩
  · rw [State.core_modCore_self]
    rfl

/-- The arrival is counted, and answered with the epoch that it found. -/
def State.arrivalCounted (s : State) (p : Packet) (key level group : Nat) (w : Result) : State :=
  ((s.dropPacket p.id).modPhase key level group fun q => { q with arrived := q.arrived + 1 }).reply p (.result w)

/-- The reply of an arrival. -/
def epochResult (d : Dest) (q : Phase) : Result := { ref := d.ref, writes := [(d.reg, q.epoch.setWidth 64)], flag := none, release := true }

theorem State.phase?_arrivalCounted {w : Result} (hq : s.phase? key level group = some q) :
    (s.arrivalCounted p key level group w).phase? key level group = some { q with arrived := q.arrived + 1 } :=
  State.phase?_modPhase (s := s.dropPacket p.id) (f := fun q => { q with arrived := q.arrived + 1 }) hq fun _ => ⟨rfl, rfl, rfl⟩

section
variable {launch : Word} {d : Dest} {slack : BitVec 12} (hp : s.packet? p.id = some p) (hb : p.body = .phaseArrive launch level group d slack)
include hp hb

theorem execPhaseArrival_waits (hr : s.arrivalReady p = false) : execPhaseArrival p.id s = .next s := by
  simp [execPhaseArrival, hp, hb, hr]

theorem execPhaseArrival_counts (hr : s.arrivalReady p = true) (hq : s.phase? launch.toNat level group = some q) :
    execPhaseArrival p.id s =
      .next ((s.arrivalCounted p launch.toNat level group (epochResult d q)).phaseTest launch.toNat level group slack) := by
  simp only [execPhaseArrival, hp, hb, hr, hq, Bool.not_true, Bool.false_eq_true, if_false]
  rfl

end

/-- An object whose boundary is not reached, or drains already, is left as it is. -/
theorem State.phaseTest_idle {slack : BitVec 12} (hq : s.phase? key level group = some q) (h : q.draining = true ∨ q.arrived ≠ q.live) :
    s.phaseTest key level group slack = s := by
  have hc : (!q.draining && q.arrived != 0 && q.arrived == q.live) = false := by
    rcases h with h | h
    · simp [h]
    · simp [h]
  unfold State.phaseTest
  rw [hq]
  cases s.launches.get? key with
  | none => rfl
  | some l => simp only [hc, Bool.false_eq_true, if_false]

/-- Requests of a drain go to each of its cores. -/
theorem State.askDrains (d : Drain) (l : List (Nat × Bool)) : ∀ s : State,
    let t := l.foldl (fun s e => s.askDrain d e.1) s
    t.mem = s.mem ∧ t.phases = s.phases ∧ t.drains = s.drains ∧ (∀ m ∈ s.packets, m ∈ t.packets)
      ∧ ∀ c ∈ l, ∃ m ∈ t.packets, m.body = .drain d.id ∧ m.home = s.homeId c.1 ∧ m.slack = d.slack := by
  induction l with
  | nil => exact fun s => ⟨rfl, rfl, rfl, fun _ h => h, nofun⟩
  | cons e l ih =>
    intro s
    obtain ⟨q, hs, hb, -, hh, hsl⟩ := s.send_eq d.src (s.homeId e.1) d.ctx (BitVec.ofNat 32 d.key) d.slack false 0 32 (.drain d.id)
    obtain ⟨hm, hph, hd, hkeep, hask⟩ := ih (s.askDrain d e.1)
    have hp : (s.askDrain d e.1).packets = s.packets ++ [q] := hs.1.packets
    refine ⟨hm.trans hs.1.mem, hph.trans hs.1.phases, hd.trans hs.1.drains, fun m h => hkeep m (hp ▸ List.mem_append_left _ h), fun c hc => ?_⟩
    rcases List.mem_cons.mp hc with rfl | hc
    · exact ⟨q, hkeep q (hp ▸ List.mem_append_right _ (List.mem_singleton_self q)), hb, hh, hsl⟩
    · obtain ⟨m, hmem, hmb, hmh, hms⟩ := hask c hc
      exact ⟨m, hmem, hmb, hmh.trans (hs.1.field fun t => t.homeId c.1), hms⟩

/-- A drain that begins is listed, and every home of the context is asked. -/
theorem State.startDrain_asks (s : State) (src ctx key : Nat) (first : Word) (n : Nat) (purpose : DrainFor) (slack : BitVec 12) :
    let t := s.startDrain src ctx key first n purpose slack
    ∃ e, t.drains = s.drains ++ [e] ∧ e.purpose = purpose ∧ e.ctx = ctx ∧ e.slack = slack ∧ e.src = src
      ∧ t.mem = s.mem ∧ t.phases = s.phases ∧ (∀ m ∈ s.packets, m ∈ t.packets)
      ∧ ∀ c ∈ e.cores, ∃ m ∈ t.packets, m.body = .drain e.id ∧ m.home = s.homeId c.1 ∧ m.slack = slack := by
  intro t
  let d : Drain :=
    { id := s.next, ctx, key, firstParty := first, parties := n, purpose, src, slack
      cores := (if (s.homesOf ctx).isEmpty then [src] else s.homesOf ctx).map fun c => (c, false) }
  obtain ⟨hm, hph, hd, hkeep, hask⟩ := State.askDrains d d.cores { s with drains := s.drains ++ [d], next := s.next + 1 }
  exact ⟨d, hd, rfl, rfl, rfl, rfl, hm, hph, hkeep, hask⟩

/-- The arrival that completes a boundary: the object drains, and every home of the context is asked. -/
theorem State.phaseTest_drains {slack : BitVec 12} {l : Launch} (hq : s.phase? key level group = some q) (hl : s.launches.get? key = some l)
    (hd : q.draining = false) (ha : q.arrived ≠ 0) (he : q.arrived = q.live) :
    let t := s.phaseTest key level group slack
    ∃ e, t.drains = s.drains ++ [e] ∧ e.purpose = .boundary key level group ∧ e.ctx = l.ctx ∧ e.slack = slack ∧ e.src = l.coordinator level group
      ∧ t.mem = s.mem ∧ t.phase? key level group = some { q with draining := true } ∧ (∀ m ∈ s.packets, m ∈ t.packets)
      ∧ ∀ c ∈ e.cores, ∃ m ∈ t.packets, m.body = .drain e.id ∧ m.home = s.homeId c.1 ∧ m.slack = slack := by
  have hc : (!q.draining && q.arrived != 0 && q.arrived == q.live) = true := by simp [hd, he ▸ ha, he]
  have ht := State.phase?_modPhase (f := fun p => { p with draining := true }) hq fun _ => ⟨rfl, rfl, rfl⟩
  simp only [State.phaseTest, hq, hl, hc, if_true]
  obtain ⟨e, h1, h2, h3, h4, h5, h6, h7, h8, h9⟩ := (s.modPhase key level group fun p => { p with draining := true }).startDrain_asks
    (l.coordinator level group) l.ctx key (l.partiesOf level group).1 (l.partiesOf level group).2 (.boundary key level group) slack
  refine ⟨e, h1, h2, h3, h4, h5, h6, ?_, h8, h9⟩
  unfold State.phase? at ht ⊢
  rw [h7]
  exact ht

end

end Sys2Proof.Machine

open Sys2Proof Sys2Proof.Machine

/-- Settles O52, event by event. -/
theorem arrivalsAndTasks : Obligations.ArrivalsAndTasks := by
  unfold Obligations.ArrivalsAndTasks
  refine ⟨?_, ?_, fun s core a e ha he ho => execSpillReturn_moves ha he ho, ?_, ?_, ?_, ?_, ?_, ?_⟩
  · intro s p n issuer hp hr core k a here hb i
    have hneedle (hb : p.body = .needle n) : exec i s = .next ((s.arrive p n).getD s) := by
      have hi : i = .needleArrival p.id := by simp only [i, hb]
      rw [hi]
      exact (execNeedleArrival_needle hp hb).trans (by simp [hr])
    have htask (hbt : p.body = .task n issuer) : exec i s = execTaskArrival p.id s ∧ s.taskCheck p n = .accept := by
      have hi : i = .taskArrival p.id := by simp only [i, hbt]
      exact ⟨hi ▸ rfl, by simpa [hbt] using hb⟩
    refine ⟨fun hn hb => ?_, fun hn hb => ?_, fun e hs ho hb => ?_, fun e hs ho hb => ?_, fun hs hb => ?_, fun t ht hb => ?_⟩
    · rw [hneedle hb, State.arrive_none hn]; rfl
    · obtain ⟨hi, hc⟩ := htask hb
      have he : s.slotsOnly (s.event core p.ctx 0x0E 1) := State.slotsOnly.refl.event
      exact ⟨_, hi.trans (execTaskArrival_refused hp hb hr hc (State.arrive_none hn)), he.1.mem, repliedBy_reply s _ p _ he.1.packets⟩
    · obtain ⟨t, ht, hm, hpk, hst⟩ := State.arrive_here (n := n) hs ho
      exact ⟨t, by rw [hneedle hb, ht]; rfl, hm, hpk, hst⟩
    · obtain ⟨t, ht, hm, hst, hl⟩ := State.arrive_missing (n := n) hs ho
      exact ⟨t, by rw [hneedle hb, ht]; rfl, hm, hst, hl⟩
    · obtain ⟨t, ht, hm, hpk, hsp⟩ := State.arrive_spilled (n := n) hs
      exact ⟨t, by rw [hneedle hb, ht]; rfl, hm, hpk, hsp⟩
    · obtain ⟨hi, hc⟩ := htask hb
      exact hi.trans (execTaskArrival_accepted hp hb hr hc ht)
  · intro s p n issuer hp
    refine ⟨fun hb h => execTaskArrival_turned hp hb h, fun hb hr => ?_⟩
    intro k
    have hx : exec (.needleArrival p.id) s = .next (s.returned p n) := by
      show execNeedleArrival p.id s = _
      rw [execNeedleArrival_needle hp hb, if_pos hr]
    refine ⟨fun h => by rw [hx, State.returned_full h], fun h => ?_⟩
    obtain ⟨hm, hpk, hsp⟩ := State.returned_spilled (n := n) h
    exact ⟨_, _, hx, hm, hpk, hsp, rfl, rfl, rfl, rfl⟩
  · intro s core spool key w i hi hw threads
    have hl : s.spoolThreads core spool key ≠ [] := by
      rcases hi with ⟨-, h⟩ | ⟨-, h⟩
      · exact State.spoolFull_threads h
      · exact State.spoolTimed_threads h
    have hx : exec i s = .next (s.formWave core spool key) := by
      rcases hi with ⟨rfl, h⟩ | ⟨rfl, h⟩
      · exact congrArg Host.Outcome.next (if_pos h)
      · exact congrArg Host.Outcome.next (if_pos h)
    obtain ⟨v, hv, hva, hvl, hm, hst⟩ := State.formWave_forms hl hw
    exact ⟨_, v, hx, hv, hva, hvl, hm, hst⟩
  · intro s core spool key
    exact ⟨fun h => congrArg Host.Outcome.next (if_neg (by simp [h])), fun h => congrArg Host.Outcome.next (if_neg (by simp [h]))⟩
  · intro s die key
    refine ⟨execLaunchEntryFetch_idle, execLaunchEntryFetch_asks, fun p hp ha => ⟨fun hb => ?_, execLaunchEntryFetch_keeps hp ha⟩⟩
    exact ⟨_, execLaunchEntryFetch_answers hp ha hb, rfl, rfl, repliedBy_reply s s p _ rfl⟩
  · intro s core k rest hq
    exact ⟨execSpawnTaskSend_waits hq, execSpawnTaskSend_sends hq, execTaskResendTimeout_due hq⟩
  · intro s p n issuer hp hb
    exact execTaskRefusal_returns hp hb
  · intro s p launch level group q hp hq
    refine ⟨fun r hb => execSpawnIncrement_counts hp hb hq, fun d slack hb => ⟨execPhaseArrival_waits hp hb, fun hr => ?_⟩⟩
    intro q' w
    have hx := execPhaseArrival_counts hp hb hr hq
    have hph := State.phase?_arrivalCounted (p := p) (w := epochResult d q) hq
    have hreply := repliedBy_reply s ((s.modPhase launch.toNat level group fun q => { q with arrived := q.arrived + 1 })) p (.result w) rfl
    refine ⟨fun h => ?_, fun l hd he hl => ?_⟩
    · rw [State.phaseTest_idle hph h] at hx
      exact ⟨_, hx, rfl, hreply, hph, rfl⟩
    · obtain ⟨e, h1, h2, h3, h4, h5, h6, h7, h8, h9⟩ := State.phaseTest_drains (slack := slack) hph hl hd (Nat.succ_ne_zero _) he
      obtain ⟨m, hm, hmb, -, hmh, -⟩ := hreply
      exact ⟨_, e, hx, h6, h7, h1, h2, h3, h4, h5, ⟨m, h8 m (hm ▸ List.mem_append_right _ (List.mem_singleton_self m)), hmb, hmh⟩, h9⟩

end

section
/-! PROOFS. Why O51 fails: a store by request is answered with the register writes that its access keeps for suppressed elements,
which the statement takes to be none. No instruction of the model makes such an access, but a state may hold one. -/

namespace Sys2Proof.Machine

variable {s t u : State}

/-! ### The packets that a store leaves (R311, R346, R354) -/

/-- Every packet of the second state is one of the first, or a change notice. -/
def State.addsNotices (s t : State) : Prop := ∀ q ∈ t.packets, q ∈ s.packets ∨ ∃ l, q.body = .notice l

theorem State.addsNotices.of_eq (h : t.packets = s.packets) : s.addsNotices t := fun _ hq => .inl (h ▸ hq)

theorem State.addsNotices.trans (h : s.addsNotices t) (h' : t.addsNotices u) : s.addsNotices u := fun q hq =>
  (h' q hq).elim (h q) .inr

theorem State.addsNotices.foldl {α : Type} {f : State → α → State} (hf : ∀ (t : State) (a : α), t.addsNotices (f t a)) (l : List α)
    (h : s.addsNotices t) : s.addsNotices (l.foldl f t) := by
  induction l generalizing t with
  | nil => exact h
  | cons a l ih => exact ih (h.trans (hf t a))

theorem State.coresOnly.addsNotices (h : s.coresOnly t) : s.addsNotices t := .of_eq h.packets

theorem State.coresOnly.txAbort (h : s.coresOnly t) {r : Ref} {c : TxCause} {code : BitVec 8} : s.coresOnly (t.txAbort r c code) :=
  h.modHart.trans State.slotsOnly.refl.count.1

theorem State.coresOnly.conflicts (h : s.coresOnly t) {phys own : Nat} : s.coresOnly (t.conflicts phys own) :=
  .foldl (fun _ _ => .ite .refl State.coresOnly.refl.txAbort) _ h

theorem State.coresOnly.wakeLane (h : s.coresOnly t) {r : Ref} : s.coresOnly (t.wakeLane r) := by
  unfold State.wakeLane
  split
  · exact h
  · exact .ite h.modHart h.txAbort

theorem State.coresOnly.wakeSet (h : s.coresOnly t) {core set : Nat} {filter : Bool} : s.coresOnly (t.wakeSet core set filter) := by
  unfold State.wakeSet
  split
  · exact h
  · split
    · exact h
    · have ht := h.trans (State.slotsOnly.refl.traceLane (r := ‹Ref›) (k := ‹Hart›) (kind := 7) (arg := ‹List Ref›.length)).1
      exact .foldl (fun _ _ => State.coresOnly.refl.wakeLane) _ (.ite (ht.trans State.slotsOnly.refl.event.1) ht)

theorem State.coresOnly.lineNotice (h : s.coresOnly t) {core : Nat} {l : Line} : s.coresOnly (t.lineNotice core l) :=
  .ite h (.foldl (fun _ _ => State.coresOnly.refl.wakeSet) _ h.modCore)

theorem State.addsNotices_lineChanged (s : State) (l : Line) : s.addsNotices (s.lineChanged l) := by
  unfold State.lineChanged
  refine .foldl (fun t e q hq => ?_) _ ?_
  · obtain ⟨x, hs, hb, -⟩ := t.send_eq (l.core?.getD e.1) (t.homeId e.1) l.ctx 0 0xFFF false 0 32 (.notice l)
    rw [hs.1.packets] at hq
    rcases List.mem_append.mp hq with hq | hq
    · exact .inl hq
    · exact .inr ⟨l, List.mem_singleton.mp hq ▸ hb⟩
  · split
    · exact State.coresOnly.refl.lineNotice.addsNotices
    · exact .of_eq rfl

theorem State.addsNotices_store (s : State) (l : Line) (key : Nat) (bytes : List Byte) (own : Nat) (poisoned : Bool) :
    s.addsNotices (s.store l key bytes own poisoned) := by
  have hc : s.addsNotices (s.conflicts l.phys own) := State.coresOnly.refl.conflicts.addsNotices
  unfold State.store
  dsimp only
  split
  · exact hc.trans (State.addsNotices_lineChanged _ l)
  · exact (hc.trans (.of_eq rfl)).trans (State.addsNotices_lineChanged _ l)

theorem State.addsNotices_storeParts2 (a : Access) (l : List (Part × Nat)) : ∀ s : State, s.addsNotices (s.storeParts2 a l) := by
  induction l with
  | nil => exact fun s => .of_eq rfl
  | cons e l ih => exact fun s => (s.addsNotices_store _ _ _ _ _).trans (ih _)

theorem State.charge_coresOnly (s : State) (core ctx : Nat) (launch : Word) (cls n : Nat) : s.coresOnly (s.charge core ctx launch cls n) := by
  unfold State.charge
  dsimp only
  split
  · exact State.coresOnly.refl.modCore
  · exact State.slotsOnly.refl.modSlot.1

theorem State.lineEvent_packets (s : State) (dpa : Nat) : (s.lineEvent dpa).2.packets = s.packets := by
  unfold State.lineEvent
  dsimp only
  split
  · rfl
  · split
    · rfl
    · split <;> rfl

theorem State.addsNotices_lineCost (s : State) (ctx : Nat) (launch : Word) (dpa : Nat) (system : Bool) :
    s.addsNotices (s.lineCost ctx launch dpa system) :=
  .of_eq (((State.charge_coresOnly ..).packets.trans State.slotsOnly.refl.event.1.packets).trans (s.lineEvent_packets dpa))

/-- A store by request at its home: its lines are charged, and its elements written. -/
theorem State.addsNotices_storeServed (s : State) (a : Access) (launch : Word) (lines : List Nat) (l : List (Part × Nat)) :
    s.addsNotices ((lines.foldl (fun s n => s.lineCost a.ctx launch (64 * n) a.system) s).storeParts2 a l) :=
  (State.addsNotices.foldl (fun t n => t.addsNotices_lineCost a.ctx launch (64 * n) a.system) lines (.of_eq rfl)).trans
    (State.addsNotices_storeParts2 a l _)

/-! ### The reply of a store by request (R557) -/

/-- Every result that stands among the packets after a store by request stood there before, or writes the registers of the access's
suppressed elements. -/
theorem readRequest_store_replies {p : Packet} {a : Access} {dpas : List Nat} (hp : s.packet? p.id = some p) (hb : p.body = .read a)
    (hr : s.requestReady p = true) (hw : a.write = true) (hs : s.serve p a = .performs dpas) (hx : exec (.readRequest p.id) s = .next t)
    {q : Packet} {w : Result} (hq : q ∈ t.packets) (hqw : q.body = .result w) : q ∈ s.packets ∨ w.writes = a.zeros := by
  replace hx : execReadRequest p.id s = .next t := hx
  simp only [execReadRequest, hp, hb, hr, hw, Bool.not_true, Bool.false_eq_true, if_false, if_true, State.serveRequest, hs] at hx
  obtain ⟨rfl⟩ := hx
  rcases List.mem_append.mp hq with hq | hq
  · rcases s.addsNotices_storeServed a p.launch _ _ q (List.mem_filter.mp hq).1 with hq | ⟨l, hl⟩
    · exact .inl hq
    · rw [hl] at hqw; cases hqw
  · rw [List.mem_singleton.mp hq] at hqw
    obtain ⟨rfl⟩ := hqw
    exact .inr rfl

/-! ### The state that refutes O51 -/

namespace SuppressedStore

/-- The home map of context 0, with one read-write page of 2^30 bytes at core 0, and the frame table that places it at frame 0. -/
def tables : List Host.Cell :=
  [(2 ^ 36, 0x0F), (2 ^ 37, 1), (2 ^ 37 + 4, 1), (2 ^ 38, 1), (2 ^ 38 + 4, 8), (2 ^ 39, 0x1F)]

/-- The tables, and the entry of the frame-table directory that names the frame table. -/
def memory : List Host.Cell := (frameDir 0, 1) :: (frameDir 0 + 4, 4) :: tables

/-- A store of one element that also carries a register write of a suppressed element. -/
def access : Access :=
  { dest := { ref := ⟨0, .wave 0 0, 0⟩, reg := 0 }, ctx := 0, parts := [⟨0, 0, 0⟩], bytes := 4, write := true, fmt := .n32, party := 0
    overlay := false, eord := 0, pc := 0, zeros := [(0, 0)] }

def packet : Packet := { id := 0, ctx := 0, src := 1, home := 0, slack := 0xFFF, vn := 0, place := .arrived, since := 0, body := .read access }

/-- The packet stands at its home, core 0, whose page table maps its element. -/
def state : State := { mem := memory, hmaps := [(0, BitVec.ofNat 64 (2 ^ 37))], packets := [packet] }

theorem frameDir_lt : frameDir 0 < 2 ^ 31 := by
  have := Nat.mod_lt Config.frameDirectory (y := 2 ^ 31) (by decide)
  simpa [frameDir, nearBase] using this

/-- Below the directory's core nothing but its entry is listed. -/
theorem get_memory_of_far {a : Nat} (h : 2 ^ 32 ≤ a) : Memory.get memory a = Memory.get tables a := by
  have := frameDir_lt
  rw [memory, Memory.get, if_neg (by omega), Memory.get, if_neg (by omega)]

theorem tableEntry_of_far {base : Nat} (h : 2 ^ 32 ≤ base) : tableEntry memory base 0 = tableEntry tables base 0 := by
  have hb : Memory.getBytes memory (base + 8 * 0) 8 = Memory.getBytes tables (base + 8 * 0) 8 :=
    List.map_congr_left fun i _ => get_memory_of_far (by omega)
  rw [tableEntry, tableEntry, Memory.getNat, Memory.getNat, hb]

theorem get_tables_of_near {a : Nat} (h : a < 2 ^ 32) : Memory.get tables a = 0 := by
  simp only [tables, Memory.get]
  repeat rw [if_neg (by omega)]
  rfl

theorem tableEntry_directory : tableEntry memory (frameDir 0) 0 = BitVec.ofNat 64 (1 + 4 * 2 ^ 32) := by
  have hd := frameDir_lt
  have hb : Memory.getBytes memory (frameDir 0 + 8 * 0) 8 = [1, 0, 0, 0, 4, 0, 0, 0] := by
    refine List.ext_getElem (by simp [Memory.getBytes]) fun i hi _ => ?_
    have hi : i < 8 := by simpa [Memory.getBytes] using hi
    simp only [Memory.getBytes, List.getElem_map, List.getElem_range, memory, Memory.get, get_tables_of_near (show frameDir 0 + 8 * 0 + i < 2 ^ 32 by omega)]
    interval_cases i <;> simp
  rw [tableEntry, Memory.getNat, hb]
  rfl

/-- A walk from a root whose first entry names a table, in which the first entry is a leaf of 2^30 bytes. -/
theorem radixWalk_leaf {ok : DWord → Bool} {root : Nat} {e leaf : DWord} (h1 : tableEntry memory root 0 = e)
    (h2 : tableEntry memory (entryNext e) 0 = leaf)
    (he : (e.getLsbD 0 && ok e && !e.getLsbD 1) = true) (hl : (leaf.getLsbD 0 && ok leaf && leaf.getLsbD 1 && field leaf 2 2 == 3) = true) :
    radixWalk memory ok 0 radixLevels root = some (leaf, 2, entryNext e) := by
  simp only [Bool.and_eq_true, Bool.not_eq_true', beq_iff_eq] at he hl
  obtain ⟨⟨he0, heok⟩, he1⟩ := he
  obtain ⟨⟨⟨hl0, hlok⟩, hl1⟩, hsz⟩ := hl
  simp only [radixWalk, radixLevels, Nat.zero_div, Nat.zero_mod, h1, h2, he0, heok, he1, hl0, hlok, hl1, hsz]
  simp [levelSize]

theorem homeLeaf_state : state.homeLeaf 0 0 = some ⟨3, false, 0⟩ := by
  have h1 : tableEntry memory (2 ^ 37) 0 = BitVec.ofNat 64 (1 + 2 ^ 32) := (tableEntry_of_far (by decide)).trans (by decide)
  have h2 : tableEntry memory (entryNext (BitVec.ofNat 64 (1 + 2 ^ 32))) 0 = 0x0F := (tableEntry_of_far (by decide)).trans (by decide)
  have hp : state.homePoison 0 0 = false := rfl
  have hr : state.hmapRoot 0 = 2 ^ 37 := by decide
  rw [State.homeLeaf, hp, hr, show state.mem = memory from rfl, radixWalk_leaf h1 h2 (by decide) (by decide)]
  decide

theorem frameLeaf_state : state.frameLeaf 0 0 0 = some (0x1F, 2 ^ 39) := by
  have h1 : tableEntry memory (2 ^ 38) 0 = BitVec.ofNat 64 (1 + 8 * 2 ^ 32) := (tableEntry_of_far (by decide)).trans (by decide)
  have h2 : tableEntry memory (entryNext (BitVec.ofNat 64 (1 + 8 * 2 ^ 32))) 0 = 0x1F := (tableEntry_of_far (by decide)).trans (by decide)
  have hr : state.frameRoot 0 0 = some (2 ^ 38) := by
    rw [State.frameRoot, show state.mem = memory from rfl, tableEntry_directory]
    decide
  rw [State.frameLeaf, hr, show state.mem = memory from rfl, Option.bind_some, radixWalk_leaf h1 h2 (by decide) (by decide)]
  decide

theorem homeCheck_state : state.homeCheck 0 0 true ⟨3, false, 0⟩ = .ok 0 := by
  have hp : state.framePoison (coreOfHome 0) 0 0 = false := rfl
  have hl : state.frameLeaf (coreOfHome 0) 0 0 = some (0x1F, 2 ^ 39) := frameLeaf_state
  unfold State.homeCheck
  dsimp only
  rw [if_neg (by decide), hp, if_neg Bool.false_ne_true, hl]
  decide

theorem serveOne_state : state.serveOne packet access true 0 = .performs [0] := by
  have hh : state.homeLeaf access.ctx 0 = some ⟨3, false, 0⟩ := homeLeaf_state
  have hl : state.rangeLocked access.ctx 0 access.bytes access.write = false := rfl
  have hf : state.firstForwarded packet.id access.ctx 0 = false := rfl
  have hc : state.homeCheck access.ctx 0 access.write ⟨3, false, 0⟩ = .ok 0 := homeCheck_state
  unfold State.serveOne
  rw [hh]
  dsimp only
  rw [if_neg (by decide), hl, if_neg Bool.false_ne_true, hf, if_neg Bool.false_ne_true, hc]

theorem serve_state : state.serve packet access = .performs [0] := by
  simp only [State.serve, access, List.foldl_cons, List.foldl_nil]
  exact congrArg (fun v : Verdict => match v with
    | .performs m => Verdict.performs ([] ++ m)
    | w => w) serveOne_state

theorem requestReady_state : state.requestReady packet = true := by
  have hb : state.behind packet access = false := rfl
  show (true && !state.behind packet access && state.serve packet access != .away) = true
  rw [hb, serve_state]
  rfl

end SuppressedStore

end Sys2Proof.Machine

open Sys2Proof Sys2Proof.Machine

/-- Refutes O51: the reply to a store by request writes what the access keeps for suppressed elements; the statement says that it writes
nothing. -/
theorem not_requestsAndReplies : ¬ Obligations.RequestsAndReplies := by
  unfold Obligations.RequestsAndReplies
  intro h
  obtain ⟨-, -, -, -, hread, -⟩ := h SuppressedStore.state SuppressedStore.packet rfl rfl rfl
  obtain ⟨t, w, hx, hw, -, -, q, hq, hb, -⟩ := (hread SuppressedStore.access ⟨0, 0, 0⟩ 0 rfl SuppressedStore.requestReady_state SuppressedStore.serve_state rfl).2 rfl rfl
  rcases readRequest_store_replies rfl rfl SuppressedStore.requestReady_state rfl SuppressedStore.serve_state hx hq hb with hs | hz
  · rw [List.mem_singleton.mp hs] at hb
    cases hb
  · rw [hw] at hz
    cases hz

end

section
/-! PROOFS. What O1 and O2 say: the words of a well-formed instruction are read back, whatever follows them (R51 to R57, R212). -/

namespace Sys2Proof.Laws.RoundTrip

/-- The record of every well-formed instruction is read back as the instruction: the laws of the constructors together. -/
theorem all (i : Instr) : Statement i := by
  cases i with
  | nop => exact nop .. | pad => exact pad .. | bra => exact bra .. | braFar => exact braFar .. | brx => exact brx ..
  | call => exact call .. | callFar => exact callFar .. | callx => exact callx .. | ret => exact ret .. | seam => exact seam ..
  | join => exact join .. | wait => exact wait .. | cut => exact cut .. | cutFar => exact cutFar .. | rep => exact rep ..
  | exit => exact exit .. | yield => exact yield .. | dqput => exact dqput .. | dqget => exact dqget .. | dqgetLo => exact dqgetLo ..
  | dqpeek => exact dqpeek .. | dqpeekLo => exact dqpeekLo .. | mov => exact mov .. | movId => exact movId .. | movi => exact movi ..
  | add => exact add .. | sub => exact sub .. | addc => exact addc .. | subb => exact subb .. | mul => exact mul ..
  | mulhi => exact mulhi .. | mulw => exact mulw .. | mad => exact mad .. | min => exact min .. | max => exact max .. | abs => exact abs ..
  | and => exact and .. | or => exact or .. | xor => exact xor .. | andn => exact andn .. | shl => exact shl .. | shr => exact shr ..
  | sar => exact sar .. | rot => exact rot .. | bfx => exact bfx .. | bfi => exact bfi .. | popc => exact popc .. | clz => exact clz ..
  | brev => exact brev .. | bpick => exact bpick .. | lea => exact lea .. | cmp => exact cmp .. | sel => exact sel ..
  | plop => exact plop .. | plopPk => exact plopPk .. | plopUpk => exact plopUpk .. | divn => exact divn .. | fadd => exact fadd ..
  | fsub => exact fsub .. | fmul => exact fmul .. | ffma => exact ffma .. | fmin => exact fmin .. | fmax => exact fmax ..
  | fcmp => exact fcmp .. | fclass => exact fclass .. | frcp => exact frcp .. | frsq => exact frsq .. | fsqrt => exact fsqrt ..
  | fexp2 => exact fexp2 .. | flog2 => exact flog2 .. | fsin => exact fsin .. | fcos => exact fcos .. | fdiv => exact fdiv ..
  | hadd2 => exact hadd2 .. | hmul2 => exact hmul2 .. | hfma2 => exact hfma2 .. | hmin2 => exact hmin2 .. | hmax2 => exact hmax2 ..
  | hcmp2 => exact hcmp2 .. | dot4 => exact dot4 .. | dot2 => exact dot2 .. | vadd4 => exact vadd4 .. | vsub4 => exact vsub4 ..
  | cvt => exact cvt .. | cvtsr => exact cvtsr .. | srseed => exact srseed .. | qnt => exact qnt .. | dqnt => exact dqnt ..
  | plpack => exact plpack .. | plunpk => exact plunpk .. | plext => exact plext .. | f8algn => exact f8algn .. | sclx => exact sclx ..
  | shfl => exact shfl .. | bfly => exact bfly .. | shup => exact shup .. | shdn => exact shdn .. | bcast => exact bcast ..
  | pcens => exact pcens .. | redux => exact redux .. | scan => exact scan .. | matchLane => exact matchLane .. | ld => exact ld ..
  | st => exact st .. | ldq => exact ldq .. | stq => exact stq .. | ldro => exact ldro .. | pref => exact pref .. | migr => exact migr ..
  | spawn => exact spawn .. | phaseArv => exact phaseArv .. | phaseWait => exact phaseWait .. | fence => exact fence ..
  | fopen => exact fopen .. | fnext => exact fnext .. | fpeek => exact fpeek .. | fend => exact fend .. | fclose => exact fclose ..
  | atom => exact atom .. | acas => exact acas .. | ared => exact ared .. | afadd => exact afadd .. | txopen => exact txopen ..
  | txseal => exact txseal .. | txretry => exact txretry .. | txelse => exact txelse .. | txdrop => exact txdrop ..
  | txstat => exact txstat .. | binit => exact binit .. | bwait => exact bwait .. | bexp => exact bexp .. | barv => exact barv ..
  | hpush => exact hpush .. | hpop => exact hpop .. | htry => exact htry .. | hpeek => exact hpeek .. | hallow => exact hallow ..
  | hreset => exact hreset .. | hresetDef => exact hresetDef .. | cpy => exact cpy .. | cpym => exact cpym .. | cpyo => exact cpyo ..
  | gath => exact gath .. | scat => exact scat .. | bin => exact bin .. | kset => exact kset .. | ksign => exact ksign ..
  | tldb => exact tldb .. | tmma => exact tmma .. | tmmag => exact tmmag .. | tzero => exact tzero .. | tsta => exact tsta ..
  | tstaSt => exact tstaSt .. | rtprb => exact rtprb .. | rtins => exact rtins .. | rtdel => exact rtdel .. | rtrhs => exact rtrhs ..
  | rtsync => exact rtsync .. | movs => exact movs .. | movsw => exact movsw .. | trap => exact trap .. | tret => exact tret ..
  | slack => exact slack .. | slackCls => exact slackCls .. | slackSet => exact slackSet .. | halt => exact halt ..
  | patdef => exact patdef .. | patrd => exact patrd .. | bldef => exact bldef .. | blrd => exact blrd .. | hfset => exact hfset ..
  | jtdef => exact jtdef .. | rtdef => exact rtdef .. | rtdefRh => exact rtdefRh .. | rtdefOff => exact rtdefOff ..
  | ctrrd => exact ctrrd .. | ctrset => exact ctrset .. | smpl => exact smpl .. | brkpt => exact brkpt .. | hint => exact hint ..
  | waitpred => exact waitpred ..
  | _ => exact of_event _ rfl

end Sys2Proof.Laws.RoundTrip

namespace Sys2Proof

/-! ### The words of a field record (R51 to R55) -/

theorem Raw.base_len (r : Raw) (len : BitVec 2) : (r.base len).extractLsb' 0 2 = len := by
  rw [Raw.base, field_low _ _ _ _ (by decide), field_all]

/-- A record is read back from its base word, its extended words and its literal. -/
theorem Raw.ofWords_self (r : Raw) (len : BitVec 2) : Raw.ofWords (r.base len) r.ext1 r.ext2 r.lit = r := by
  simp (disch := decide) only [Raw.ofWords, Raw.base, Raw.ext1, Raw.ext2, field_high, field_low, field_all, bit_high, bit_bool, Nat.reduceSub]

/-- A literal is read back from its two words. -/
theorem literal_words (v : BitVec 64) : v.extractLsb' 32 32 ++ v.extractLsb' 0 32 = v := (fields_join v 0 32 32).trans (field_all v)

/-- A LEN carries a record: without the extended words their fields are 0, and the literal is there exactly where LEN says so (R51). -/
inductive Raw.FitsLen (r : Raw) : BitVec 2 → Prop
  | base (h1 : r.ext1 = 0) (h2 : r.ext2 = 0) (hl : r.lit = none) : r.FitsLen 0
  | extended (hl : r.lit = none) : r.FitsLen 1
  | literal (h1 : r.ext1 = 0) (h2 : r.ext2 = 0) (v : BitVec 64) (hl : r.lit = some v) : r.FitsLen 2
  | both (v : BitVec 64) (hl : r.lit = some v) : r.FitsLen 3

section
variable (w e1 e2 l0 l1 : BitVec 32) (rest : List (BitVec 32))

theorem readRaw_base (h : w.extractLsb' 0 2 = 0) : readRaw (w :: rest) = some (0, Raw.ofWords w 0 0 none, rest) := by
  simp only [readRaw, h] <;> rfl
theorem readRaw_extended (h : w.extractLsb' 0 2 = 1) : readRaw (w :: e1 :: e2 :: rest) = some (1, Raw.ofWords w e1 e2 none, rest) := by
  simp only [readRaw, h] <;> rfl
theorem readRaw_literal (h : w.extractLsb' 0 2 = 2) :
    readRaw (w :: l0 :: l1 :: rest) = some (2, Raw.ofWords w 0 0 (some (l1 ++ l0)), rest) := by
  simp only [readRaw, h] <;> rfl
theorem readRaw_both (h : w.extractLsb' 0 2 = 3) :
    readRaw (w :: e1 :: e2 :: l0 :: l1 :: rest) = some (3, Raw.ofWords w e1 e2 (some (l1 ++ l0)), rest) := by
  simp only [readRaw, h] <;> rfl

end

/-- The words of a record at a LEN that carries it are read back, whatever follows them. -/
theorem readRaw_words (r : Raw) {len : BitVec 2} (rest : List (BitVec 32)) (h : r.FitsLen len) :
    readRaw (r.words len ++ rest) = some (len, r, rest) := by
  have hlen := r.base_len len
  have hr := r.ofWords_self len
  cases h with
  | base h1 h2 hl =>
    rw [h1, h2, hl] at hr
    exact (readRaw_base _ rest hlen).trans (by rw [hr])
  | extended hl =>
    rw [hl] at hr
    exact (readRaw_extended _ _ _ rest hlen).trans (by rw [hr])
  | literal h1 h2 v hl =>
    rw [h1, h2] at hr
    exact (readRaw_literal _ _ _ rest hlen).trans (by rw [literal_words, hl, Option.getD_some, ← hl, hr])
  | both v hl =>
    exact (readRaw_both _ _ _ _ _ rest hlen).trans (by rw [literal_words, hl, Option.getD_some, ← hl, hr])

/-- The shortest LEN for a record carries it (R91). -/
theorem Raw.fits_shortLen_any (r : Raw) : r.FitsLen (r.shortLen .any) := by
  have he : (r.ext1 == 0 && r.ext2 == 0) = true ↔ r.ext1 = 0 ∧ r.ext2 = 0 := by simp
  unfold Raw.shortLen
  cases hl : r.lit with
  | none =>
    cases hb : r.ext1 == 0 && r.ext2 == 0 with
    | true => exact .base (he.mp hb).1 (he.mp hb).2 hl
    | false => exact .extended hl
  | some v =>
    cases hb : r.ext1 == 0 && r.ext2 == 0 with
    | true => exact .literal (he.mp hb).1 (he.mp hb).2 v hl
    | false => exact .both v hl

/-- The LEN that an instruction is written in carries its record: PAD, HINT and WAITPRED have no extended word, a near target stands
without a literal, and a far one is its literal (R55, R212). -/
theorem Instr.fits_shortLen (i : Instr) (r : Raw) (h : i.raw? = some r) : r.FitsLen (r.shortLen i.form) := by
  cases i with
  | pad | hint | waitpred => cases h; exact .base (by simp [Raw.ext1]) (by simp [Raw.ext2]) rfl
  | bra | call | cut => cases h; exact .extended rfl
  | braFar | callFar | cutFar => cases h; exact .both _ rfl
  | _ => exact r.fits_shortLen_any

theorem Form.allows_shortLen (f : Form) (r : Raw) : f.allows (r.shortLen f) = true := by cases f <;> rfl

/-- The opcode of every instruction word is assigned (R83). -/
theorem Instr.assignedOp_raw (i : Instr) (r : Raw) (h : i.raw? = some r) : decodeRaw.assignedOp r.op = true := by
  cases i <;> cases h <;> rfl

/-- The record of a well-formed instruction decodes to it. -/
theorem decodeRaw_raw (i : Instr) (r : Raw) (hw : i.wf = true) (h : i.raw? = some r) : decodeRaw (r.shortLen i.form) r = .ok i := by
  have hc := (Laws.RoundTrip.all i).1 hw r h
  simp [decodeRaw, i.assignedOp_raw r h, hc, hw, h, i.form.allows_shortLen r]

theorem decode_encode (i : Instr) (r : Raw) (rest : List (BitVec 32)) (hw : i.wf = true) (h : i.raw? = some r) :
    decode (encode i ++ rest) = .ok (i, rest) := by
  have he : encode i = r.words (r.shortLen i.form) := by rw [encode, h]
  rw [decode, he, readRaw_words r rest (i.fits_shortLen r h)]
  simp only [decodeRaw_raw i r hw h]

end Sys2Proof

open Sys2Proof Sys2Proof.Machine

/-- Settles O1: the words give the record back, and the record the instruction. -/
theorem decodeUndoesEncode : Obligations.DecodeUndoesEncode := by
  unfold Obligations.DecodeUndoesEncode
  intro i rest hi hw
  obtain ⟨r, hr⟩ := Option.isSome_iff_exists.mp hi
  exact decode_encode i r rest hw hr

/-- Settles O2, by evaluating the decoder on the words. -/
theorem decodeReadsSpecWords : Obligations.DecodeReadsSpecWords := by
  unfold Obligations.DecodeReadsSpecWords
  exact ⟨by decide, by decide, by decide, by decide⟩

end

section
/-! PROOFS. What O3 says of a step: inputs first, else the chosen issue, carried out on the state as the issue leaves it (R56, R63, R68,
R86, R471, R539). -/

namespace Sys2Proof.Machine

variable {s : State}

/-! ### Inputs from outside (R539) -/

theorem State.heeds_of_stopped {i : Instr} (hs : s.power.stopped = true) (hi : ∀ a b c d, i ≠ .powerOn a b c d) : s.heeds i = false := by
  unfold State.heeds
  split
  · exact absurd rfl (hi _ _ _ _)
  · rw [hs]; rfl

theorem State.heeds_of_running {i : Instr} (hs : s.power.stopped = false ∨ ∃ a b c d, i = .powerOn a b c d) : s.heeds i = true := by
  rcases hs with hs | ⟨a, b, c, d, rfl⟩
  · simp [State.heeds, hs]
  · simp [State.heeds]

theorem inputsFirst_holds : inputsFirst := by
  intro s i rest hi
  simp only [step, hi]
  refine ⟨fun hw => by rw [if_pos hw], fun hw hp ho => ?_, fun hw hp => ?_⟩
  · rw [hw, State.heeds_of_stopped hp ho]; rfl
  · rw [hw, State.heeds_of_running hp]; rfl

/-! ### The chosen issue -/

/-- With no input and the power on, a step carries out the issue that the machine has chosen. -/
theorem step_of_issue {t u : State} {core port : Nat} {p : Pick} {e : List Pick} {i : Instr} (hi : s.inputs = []) (hp : s.power.stopped = false)
    (hc : s.settleAll.choose s.settleAll.actions = some (.issue core port p e, t)) (hr : (t.chosen core port p e).issue core port p = .run i u) :
    step s = exec i u := by
  simp only [step, hi, hp, State.nextAction, hc, hr, Bool.false_eq_true, if_false]

/-- A condition that no lane of the issue meets keeps none from the instruction. -/
theorem State.divert_none {p : Ref → Hart → Bool} {f : Ref → State → State} (h : ∀ x ∈ s.lanes, p (s.curRef x.1 x.2) x.2 = false) :
    s.divert p f = s := by
  have hout : s.lanes.filter (fun e => p (s.curRef e.1 e.2) e.2) = [] := List.filter_eq_nil_iff.mpr fun x hx => by simp [h x hx]
  simp [State.divert, hout]

/-- Words that no rank of R86 refuses, and that are no REP, show no fault. -/
theorem shownFaults_nil {bobbin : Bool} {allot pos : Nat} {c : Clause} {place body : Pos} {instr bodyInstr : Except DecodeError Instr}
    (hr : place.op ≠ 0x0B) (he : encodingFault bobbin allot place.op false instr = none) (hl : lastOnly place.op = true → pos + 1 = c.count)
    (hm : mustBeSafe place.op = true → c.safe pos = true) : shownFaults bobbin allot c pos place body instr bodyInstr = [] := by
  have hp : placeFaults place.op (pos + 1 == c.count) (c.safe pos) = [] := by
    unfold placeFaults
    rw [if_neg]
    simp only [Bool.or_eq_true, Bool.and_eq_true, Bool.not_eq_true', beq_eq_false_iff_ne]
    rintro (⟨h1, h2⟩ | ⟨h1, h2⟩)
    · exact h2 (hl h1)
    · rw [hm h1] at h2; cases h2
  simp [shownFaults, hp, he, hr]

theorem State.fetch_of_decode {core slot off : Nat} {i : Instr} {rest : List (BitVec 32)} (h : decode (s.wordsAt core slot off) = .ok (i, rest)) :
    s.fetch core slot off = .ok i := by
  simp only [State.fetch, h]

/-- An issue of words that no rank of R86 refuses, with no lane that holds a poisoned source or a full done count, carries out the
instruction on the state as the issue leaves it. -/
theorem State.issue_runs {core port n : Nat} {p : Pick} {c : Clause} {q : Pos} {i : Instr} {rest : List (BitVec 32)}
    (hc : s.clauseOf core p.ctx p.hart = some (n, c)) (hq : c.places[p.hart.pos]? = some q) (hop : q.op ≠ 0x0B) (hrep : p.hart.rep = none)
    (hd : decode (s.wordsAt core n q.off) = .ok (i, rest)) (he : encodingFault p.bobbin (s.allotOf p.hart) q.op false (.ok i) = none)
    (hl : lastOnly q.op = true → p.hart.pos + 1 = c.count) (hm : mustBeSafe q.op = true → c.safe p.hart.pos = true)
    (hpoison : ∀ x ∈ (issued s core port p c q).lanes, x.2.poison &&& readMask i p.bobbin = 0)
    (hdone : ∀ x ∈ (issued s core port p c q).lanes, ∀ f, (longLatency q.op = true ∧ c.flag p.hart.pos = some f) → x.2.doneCount f ≠ 15) :
    s.issue core port p = .run i (issued s core port p c q) := by
  have hplace (d : Pos) : c.places.getD p.hart.pos d = q := by rw [List.getD_eq_getElem?_getD, hq, Option.getD_some]
  have hrep' : (q.op == 0x0B) = false := by simpa using hop
  have hfaults (body : Pos) (bi : Except DecodeError Instr) := shownFaults_nil (body := body) (bodyInstr := bi) hop he hl hm
  have hw : worst [] = none := rfl
  unfold State.issue
  simp only [hc, hplace, hrep', State.fetch_of_decode hd, hrep, Option.isSome_none, hfaults, hw, Bool.false_eq_true, if_false, Bool.toNat_false, Nat.add_zero]
  have hnone (g : Guard) (f : Ref → State → State) : (issued s core port p c q).divert (fun r h => h.takes g
      && h.poison &&& readMask i p.bobbin != 0 && !(issued s core port p c q).outranks r h i) f = issued s core port p c q :=
    State.divert_none fun x hx => by simp [hpoison x hx]
  split
  · next f hf =>
    have hlong : longLatency q.op = true ∧ c.flag p.hart.pos = some f := by
      split at hf
      · next hlong => exact ⟨hlong, hf⟩
      · cases hf
    refine congrArg (Next.run i) ((congrArg (fun u : State => u.divert _ _) (hnone _ _)).trans (State.divert_none fun x hx => ?_))
    have hdone := hdone x hx f hlong
    simp [hdone]
  · exact congrArg (Next.run i) (hnone _ _)

end Sys2Proof.Machine

open Sys2Proof Sys2Proof.Machine

/-- Settles O3, from `inputsFirst_holds` and `State.issue_runs`. -/
theorem stepRunsDecodedInstruction : Obligations.StepRunsDecodedInstruction := by
  unfold Obligations.StepRunsDecodedInstruction
  refine ⟨inputsFirst_holds, fun s s' core port n p e c q i rest r hi hp hchoice hc hq hop hrep hd _ _ he hl hm hpoison hdone => ?_⟩
  exact step_of_issue hi hp hchoice (State.issue_runs hc hq hop hrep hd he hl hm hpoison hdone)

end

section
/-! PROOFS. What O23, O24 and O25 say of plain control and of transfers, direct and indirect (R72 to R79, R82, R139, R148, R212 to R216,
R233, R426 to R428). -/

namespace Sys2Proof.Machine

variable {s : State} {r : Ref} {h : Hart} {g : Guard}

/-! ### An issue of one lane -/

/-- An instruction that acts lane by lane, where its issue has one lane. -/
theorem lane_of_perLane {i : Instr} {f : Ref → Hart → State → State} {t : State} (hs : s.oneLane r h) (he : exec i s = .next (perLane g f s))
    (hf : f r h s = t) : lane i s g r h t := by
  rw [lane, he, perLane_oneLane s g f r h hs, hf]

/-- A lane for which an instruction that may sleep names no lines goes where the instruction leaves it. -/
theorem blockLanes_oneLane_nil {f : Ref → Hart → State → State × List Line} {t : State} (hs : s.oneLane r h) (hf : f r h s = (t, [])) :
    blockLanes g f s = if h.takes g then t else s.setHart r (h.advance s.cur) := by
  obtain ⟨h1, h2, l, h3, h4⟩ := hs
  have hst : h.stands h = true := by simp [Hart.stands, h2]
  by_cases hg : h.takes g = true <;> simp [blockLanes, h3, h4, h1, hst, hg, hf]

/-- A lane for which it names lines sleeps on them. -/
theorem blockLanes_oneLane_cons {f : Ref → Hart → State → State × List Line} {t : State} {x : Line} {l : List Line} (hs : s.oneLane r h)
    (hf : f r h s = (t, x :: l)) :
    blockLanes g f s = if h.takes g then t.formSleepers r.core (t.ctxOf r) [r] (x :: l) else s.setHart r (h.advance s.cur) := by
  obtain ⟨h1, h2, n, h3, h4⟩ := hs
  have hst : h.stands h = true := by simp [Hart.stands, h2]
  by_cases hg : h.takes g = true <;> simp [blockLanes, h3, h4, h1, hst, hg, hf]

/-! ### NOP, PAD and YIELD (R82, R214, R233) -/

theorem lanesDo_nop (s : State) (g : Guard) : lanesDo (.nop g) s g (fun h h' => h' = h.advance s.cur) :=
  ⟨_, rfl, fun h => by simp⟩

theorem execYield_wave (ha : s.active g ≠ []) (hb : s.cur.bobbin = false) : execYield g s = .next
    ((s.mapLanes fun h => h.advance s.cur).modWave s.cur.core s.cur.member fun v =>
      { v with sched := { v.sched with promoted := none, readySince := none } }) := by
  simp [execYield, ha, hb]

theorem execYield_bobbin (ha : s.active g ≠ []) (hb : s.cur.bobbin = true) : execYield g s = .next
    ((s.mapLanes fun h => h.advance s.cur).modSlot s.cur.core s.cur.member fun q =>
      { q with sched := { q.sched with promoted := none, readySince := none } }) := by
  simp [execYield, ha, hb]

/-! ### The identity registers (R139, R148) -/

/-- The identity registers of a thread whose launch is known. -/
theorem State.identity_eq {l : Launch} (hl : s.launch? h.launch = some l) (i : BitVec 4) : s.identity r h i.toNat =
    if i = 0 then BitVec.ofNat 32 (s.laneOf h) else if i = 1 then BitVec.ofNat 32 l.width else if i = 2 then l.party h.ordinal.toNat
      else if i = 3 then BitVec.ofNat 32 (s.ctxOf r) else if i = 4 then BitVec.ofNat 32 (s.homeId r.core)
      else if i = 5 then BitVec.ofNat 32 r.plane else if i = 6 then BitVec.ofNat 32 r.wslot
      else if i = 7 then l.kind h else l.grp h (i.toNat - 8) := by
  obtain ⟨n, hn⟩ := i
  interval_cases n <;> simp [State.identity, State.widthOf, State.partyOf, hl]

/-! ### WAITPRED (R428) -/

theorem lane_waitpred_aborts (hs : s.oneLane r h) (ht : h.tx.depth ≠ 0) : lane (.waitpred g) s g r h (s.txAbort r .nonlocal 0) :=
  congrArg Host.Outcome.next (blockLanes_oneLane_nil hs (by simp [ht]))

theorem lane_waitpred_goesOn (hs : s.oneLane r h) (ht : h.tx.depth = 0) (hp : s.runningPred h = none) :
    lane (.waitpred g) s g r h (s.goOn r) :=
  congrArg Host.Outcome.next (blockLanes_oneLane_nil hs (by simp [ht, hp]))

theorem lane_waitpred_sleeps {key : Nat} {p : Launch} (hs : s.oneLane r h) (ht : h.tx.depth = 0) (hp : s.runningPred h = some (key, p)) :
    lane (.waitpred g) s g r h (s.formSleepers r.core (s.ctxOf r) [r] [launchState p key]) :=
  congrArg Host.Outcome.next (blockLanes_oneLane_cons hs (by simp [ht, hp]))

/-! ### Direct transfers (R72 to R75, R79, R212, R214, R216) -/

/-- A transfer without a seam to cut, with the next header's PC in the link register where there is one. -/
theorem State.jump_eq_wentTo (s : State) (r : Ref) (pc : Word) (d : Option Reg) :
    s.jump r pc (d.map fun d => (d, s.cur.nextPc.setWidth 64)) none = wentTo s r pc d := by
  unfold State.jump wentTo
  split
  · cases d <;> rfl
  · rfl
  · rfl

theorem State.headerAt_iff {core slot off : Nat} : s.headerAt core slot off = true ↔ off % 4 = 0 ∧ 0x40 ≤ off
    ∧ off + 4 ≤ s.imemWord core slot 8
    ∧ (Memory.get s.mem (imemKey core slot (s.imemWord core slot 12 + off / 32))).getLsbD (off / 4 % 8) = true := by
  simp [State.headerAt, and_assoc]

/-- A target is good exactly where its overlay is resident and its offset is a clause header. -/
theorem State.target_ok_iff {core ctx : Nat} {pc : Word} : s.target core ctx pc = .ok ↔
    ovlOf pc ≠ 0xFFFF ∧ ∃ n o, (s.core core).overlay? ctx (ovlOf pc) = some (n, o) ∧ s.headerAt core n (offOf pc) = true := by
  unfold State.target
  by_cases ho : ovlOf pc = 0xFFFF
  · simp [ho]
  · rw [if_neg ho]
    rcases (s.core core).overlay? ctx (ovlOf pc) with _ | ⟨n, o⟩
    · simp
    · by_cases hh : s.headerAt core n (offOf pc) = true
      · simpa [hh] using ho
      · simp [hh]

/-! ### Indirect transfers (R77, R78, R215) -/

theorem State.padAt_iff {core slot label : Nat} {pc : Word} : s.padAt core slot pc label = true ↔
    s.headerAt core slot (offOf pc) = true ∧ s.imemWord core slot (offOf pc + 4) = label * 2 ^ 10 + 0x01 * 4 + 7 * 2 ^ 28 := by
  simp [State.padAt]

section
variable {n : Nat} {o : OverlaySlot} {jt : BitVec 6} {i : Nat} (hv : (s.core r.core).overlay? (s.ctxOf r) (ovlOf h.pc) = some (n, o))
include hv

/-- Without its table in the overlay an indirect transfer raises CONTROL_INTEGRITY. -/
theorem State.indirectTo_of_no_table (ht : s.tableEntry r.core n jt i = none) :
    s.indirectTo r h jt i = .stop { cause := .controlIntegrity } := by
  simp [State.indirectTo, hv, ht]

section
variable {pc : Word} {label : Nat} (ht : s.tableEntry r.core n jt i = some (pc, label))
include ht

theorem State.indirectTo_of_no_overlay (ho : ovlOf pc = 0xFFFF) : s.indirectTo r h jt i = .stop { cause := .badClause } := by
  simp [State.indirectTo, hv, ht, ho]

theorem State.indirectTo_of_missing (ho : ovlOf pc ≠ 0xFFFF) (hm : (s.core r.core).overlay? (s.ctxOf r) (ovlOf pc) = none) :
    s.indirectTo r h jt i = .miss pc := by
  simp only [State.indirectTo, hv, ht, Option.bind_some, if_neg ho, hm]

theorem State.indirectTo_of_resident {m : Nat} {o' : OverlaySlot} (ho : ovlOf pc ≠ 0xFFFF)
    (hm : (s.core r.core).overlay? (s.ctxOf r) (ovlOf pc) = some (m, o')) : s.indirectTo r h jt i =
      if s.padAt r.core m pc label then .to pc else .stop { cause := .controlIntegrity, addr := some (pc.setWidth 48) } := by
  simp only [State.indirectTo, hv, ht, Option.bind_some, if_neg ho, hm]

end
end

/-- BRX and CALLX of one lane do the same but for the link. -/
theorem lane_indirect {jt : BitVec 6} {ix : Src} {d : Reg} (hs : s.oneLane r h) :
    lane (.brx g jt ix) s g r h (s.indirect r h jt (h.src ix).toNat none)
      ∧ lane (.callx g d jt ix) s g r h (s.indirect r h jt (h.src ix).toNat (linkOf s d)) :=
  ⟨lane_of_perLane hs rfl rfl, lane_of_perLane hs rfl rfl⟩

section
variable {jt : BitVec 6} {i : Nat} (link : Option (Reg × DWord))

theorem State.indirect_stop {e : Stop} (hi : s.indirectTo r h jt i = .stop e) : s.indirect r h jt i link = s.raise r e := by
  simp only [State.indirect, hi]

theorem State.indirect_miss {pc : Word} (hi : s.indirectTo r h jt i = .miss pc) :
    s.indirect r h jt i link = s.overlayMiss r pc (.overlay (ovlOf pc)) := by
  simp only [State.indirect, hi]

theorem State.indirect_to {pc : Word} (hi : s.indirectTo r h jt i = .to pc) :
    s.indirect r h jt i link = s.modHart r fun k => Hart.transfer { k with status := .running } link pc := by
  simp only [State.indirect, hi, State.go]

end

end Sys2Proof.Machine

open Sys2Proof Sys2Proof.Machine

/-- Settles O23, from what one lane of an issue does. -/
theorem plainControl : Obligations.PlainControl := by
  unfold Obligations.PlainControl
  refine ⟨fun s g label => ⟨lanesDo_nop s g, rfl, execYield_wave, execYield_bobbin⟩, fun s g r h l d i hs hl => ⟨?_, ?_, ?_, ?_, ?_⟩⟩
  · exact lane_of_perLane hs rfl (by simp only [hl])
  · exact lane_of_perLane hs rfl (by rw [State.identity_eq hl])
  · exact lane_waitpred_goesOn hs
  · exact fun key p => lane_waitpred_sleeps hs
  · exact lane_waitpred_aborts hs

/-- Settles O24: each of the five is a jump of its lanes. -/
theorem directTransfers : Obligations.DirectTransfers := by
  unfold Obligations.DirectTransfers
  intro s g r h d a near far hs
  refine ⟨?_, ?_, ?_, ?_, ?_, fun pc => ?_⟩
  · exact lane_of_perLane hs rfl (s.jump_eq_wentTo r _ none)
  · exact lane_of_perLane hs rfl (s.jump_eq_wentTo r _ none)
  · exact lane_of_perLane hs rfl (s.jump_eq_wentTo r _ (some d))
  · exact lane_of_perLane hs rfl (s.jump_eq_wentTo r _ (some d))
  · exact lane_of_perLane hs rfl (s.jump_eq_wentTo r _ none)
  · simp only [State.target_ok_iff, State.headerAt_iff]

/-- Settles O25, from what the table's entry and its target answer. -/
theorem indirectTransfers : Obligations.IndirectTransfers := by
  unfold Obligations.IndirectTransfers
  intro s g r h d jt ix n o hs hv off head count i pc
  have hl := lane_indirect (g := g) (jt := jt) (ix := ix) (d := d) hs
  have ht (h0 : off ≠ 0) (hc : count ≠ 0) : s.tableEntry r.core n jt (h.src ix).toNat = some (pc, head % 2 ^ 16) :=
    if_neg (not_or_intro h0 hc)
  refine ⟨fun h0 => ?_, fun h0 hc ho => ?_, fun h0 hc ho hm => ?_, fun m o' h0 hc ho hm => ⟨fun hg => ?_, fun hg => ?_⟩⟩
  · have hi := State.indirectTo_of_no_table hv (show s.tableEntry r.core n jt (h.src ix).toNat = none from if_pos h0)
    rwa [State.indirect_stop _ hi, State.indirect_stop _ hi] at hl
  · have hi := State.indirectTo_of_no_overlay hv (ht h0 hc) ho
    rwa [State.indirect_stop _ hi, State.indirect_stop _ hi] at hl
  · have hi := State.indirectTo_of_missing hv (ht h0 hc) ho hm
    rwa [State.indirect_miss _ hi, State.indirect_miss _ hi] at hl
  · have hi := State.indirectTo_of_resident hv (ht h0 hc) ho hm
    rw [if_pos (State.padAt_iff.mpr hg)] at hi
    rwa [State.indirect_to _ hi, State.indirect_to _ hi] at hl
  · have hi := State.indirectTo_of_resident hv (ht h0 hc) ho hm
    rw [if_neg (fun hp => hg (State.padAt_iff.mp hp))] at hi
    rwa [State.indirect_stop _ hi, State.indirect_stop _ hi] at hl

end

section
/-! PROOFS. O43 fails: ECAUSE has three bits for the position in the clause (R256), and a position beyond them runs into the bits above. -/

namespace Sys2Proof.Machine

/-! ### The state that refutes O43 -/

namespace PositionBeyondClause

/-- A bobbin that stands at position 16, where 16 in the place of EPOS is bit 12 of ECAUSE, the mark of an address. -/
def bobbin : Hart := { regs := .zeroW, pc := 0, clause := 0, pos := 16 }

def slot : Slot := { ctx := 0, bobbin }
def state : State := { cores := [(0, { slots := [(0, slot)] })] }
def ref : Ref := ⟨0, .bobbin 0, 0⟩

/-- A fault that names no address. -/
def stop : Stop := { cause := .illegalModifier }

/-- The handler of the bobbin finds the mark of an address all the same. -/
theorem ecause_marks_address : ((state.raise ref stop).hart? ref).map (fun h => h.trap.ecause.getLsbD 12) = some true := by decide

end PositionBeyondClause

end Sys2Proof.Machine

open Sys2Proof Sys2Proof.Machine

/-- Refutes O43: at a position past 7 the bits of ECAUSE above EPOS do not say whether the stop has an address. -/
theorem not_exceptionEntry : ¬ Obligations.ExceptionEntry := by
  unfold Obligations.ExceptionEntry
  intro h
  obtain ⟨-, -, hentry, -⟩ := h PositionBeyondClause.state PositionBeyondClause.ref PositionBeyondClause.bobbin PositionBeyondClause.slot
    PositionBeyondClause.stop (by decide) (by decide) rfl rfl
  obtain ⟨h', hh, -, -, -, -, -, -, -, -, -, -, -, haddr, -⟩ := hentry rfl (by decide) (by decide) rfl
  have hmark := PositionBeyondClause.ecause_marks_address
  rw [hh] at hmark
  exact absurd (haddr.symm.trans (Option.some.inj hmark)) (by decide)

end

section
/-! PROOFS. What O44 says of the words of system registers: what a write leaves to be read (R250 to R256, R264). -/

namespace Sys2Proof.Machine

/-! ### Fields of words as numbers -/

theorem toNat_getLsbD {n : Nat} (v : BitVec n) (i : Nat) : (v.getLsbD i).toNat = v.toNat / 2 ^ i % 2 := Nat.toNat_testBit _ _

theorem toNat_extractLsb' {n : Nat} (v : BitVec n) (lo w : Nat) : (v.extractLsb' lo w).toNat = v.toNat / 2 ^ lo % 2 ^ w := by
  rw [BitVec.extractLsb'_toNat, Nat.shiftRight_eq_div_pow]

/-- A vector with one field replaced: the bits below, the field, the bits above. -/
theorem toNat_setBits {n : Nat} (v : BitVec n) (lo w x : Nat) (h : lo + w ≤ n) :
    (setBits v lo w x).toNat = 2 ^ lo * (2 ^ w * (v.toNat / 2 ^ (lo + w)) + x % 2 ^ w) + v.toNat % 2 ^ lo := by
  refine Nat.eq_of_testBit_eq fun i => ?_
  rw [Nat.testBit_two_pow_mul_add _ (Nat.mod_lt _ (by positivity)), Nat.testBit_two_pow_mul_add _ (Nat.mod_lt _ (by positivity)),
    Nat.testBit_mod_two_pow, Nat.testBit_mod_two_pow, Nat.testBit_div_two_pow]
  by_cases hi : i < n
  · have hs := getLsbD_setBits v lo w x i hi
    rw [BitVec.getLsbD, BitVec.getLsbD] at hs
    rw [hs]
    grind
  · have h1 : (setBits v lo w x).toNat.testBit i = false := BitVec.getLsbD_of_ge _ _ (by omega)
    have h2 : v.toNat.testBit i = false := BitVec.getLsbD_of_ge _ _ (by omega)
    rw [h1, if_neg (by omega), if_neg (by omega), show i - lo - w + (lo + w) = i by omega, h2]

/-- A word that holds the low bits of another. -/
theorem eq_and_low {x w m : Word} (k : Nat) (hm : m.toNat = 2 ^ k - 1) (h : x.toNat = w.toNat % 2 ^ k) : x = w &&& m :=
  BitVec.eq_of_toNat_eq (by rw [h, BitVec.toNat_and, hm, Nat.and_two_pow_sub_one_eq_mod])

theorem wordAt_setWordAt {n : Nat} (v : BitVec n) (i : Nat) (w : Word) (h : 32 * i + 32 ≤ n) : wordAt (setWordAt v i w) i = w := by
  refine BitVec.eq_of_getLsbD_eq fun j hj => ?_
  rw [wordAt, setWordAt, BitVec.getLsbD_extractLsb', getLsbD_setBits _ _ _ _ _ (by omega), if_pos (by omega), Nat.add_sub_cancel_left,
    decide_eq_true hj, Bool.true_and, BitVec.testBit_toNat]

/-- A word of a table is read as it was written. -/
theorem getD_setIfInBounds_self {α : Type} {n i : Nat} (v : Vector α n) (x d : α) (h : i < n) : (v.setIfInBounds i x).toList.getD i d = x := by
  simp [List.getD_eq_getElem?_getD, h]

/-! ### Words of threads (R209, R250, R255, R256) -/

section
variable (h : Hart) (i : Nat) (w : Word)

theorem Hart.fpstat_written : (h.setSysWord 0x00 0 w).sysWord 0x00 0 = w &&& 0x1F :=
  eq_and_low 5 rfl (by
    simp only [Hart.setSysWord, Hart.sysWord, BitVec.toNat_setWidth, toNat_extractLsb']
    omega)

theorem Hart.tcw_written : (h.setSysWord 0x08 0 w).sysWord 0x08 0 = w &&& 0xFFF :=
  eq_and_low 12 rfl (by
    simp only [Hart.setSysWord, Hart.sysWord, Hart.tcw, BitVec.toNat_ofNat, toNat_getLsbD, toNat_extractLsb']
    omega)

theorem Hart.ecause_written :
    ((h.setSysWord 0x03 0 w).sysWord 0x03 0).toNat = w.toNat % 2 ^ 14 + h.trap.ecause.toNat / 2 ^ 14 * 2 ^ 14 := by
  simp (disch := decide) only [Hart.setSysWord, Hart.sysWord, toNat_setBits, bits, field, toNat_extractLsb']
  omega

theorem Hart.einfo_written :
    ((h.setSysWord 0x06 0 w).sysWord 0x06 0).toNat = w.toNat % 2 ^ 18 + h.trap.einfo.toNat / 2 ^ 18 * 2 ^ 18 := by
  simp (disch := decide) only [Hart.setSysWord, Hart.sysWord, toNat_setBits, bits, field, toNat_extractLsb']
  omega

theorem low_word_setBits (v : BitVec 48) : ((setBits v 0 32 w.toNat) >>> (32 * 0)).setWidth 32 = w :=
  BitVec.eq_of_toNat_eq (by
    simp (disch := decide) only [BitVec.toNat_setWidth, BitVec.toNat_ushiftRight, Nat.shiftRight_eq_div_pow, toNat_setBits]
    omega)

theorem high_word_setBits (v : BitVec 48) : ((setBits v 32 16 (bits w 0 16)) >>> (32 * 1)).setWidth 32 = w &&& 0xFFFF :=
  eq_and_low 16 rfl (by
    simp (disch := decide) only [BitVec.toNat_setWidth, BitVec.toNat_ushiftRight, Nat.shiftRight_eq_div_pow, toNat_setBits, bits, field,
      toNat_extractLsb']
    omega)

theorem Hart.escr_written (hi : i < 4) : (h.setSysWord 0x0C i w).sysWord 0x0C i = w := getD_setIfInBounds_self _ _ _ hi

theorem Fibre.word_setWord_two (f : Fibre) : (f.setWord 2 w).word 2 = w &&& 0x7FFFFF :=
  eq_and_low 23 rfl (by
    simp only [Fibre.setWord, Fibre.word, BitVec.toNat_ofNat, toNat_getLsbD, toNat_extractLsb']
    omega)

theorem Hart.fib_written (hi : i < 7) (h3 : i ≠ 3) :
    (h.setSysWord 0x0B i w).sysWord 0x0B i = if i = 2 ∨ i = 6 then w &&& 0x7FFFFF else w := by
  interval_cases i
  · rfl
  · rfl
  · exact Fibre.word_setWord_two w h.fi0
  · exact absurd rfl h3
  · rfl
  · rfl
  · exact Fibre.word_setWord_two w h.fi1

end

/-! ### Words of seams, marks, knots, fragments and slots (R218, R235, R247, R252, R253) -/

section
variable (i : Nat) (w : Word)

theorem Seam.word_setWord (m : Seam) (hi : i < 4) : (m.setWord i w).word i = w := by
  interval_cases i
  · exact wordAt_setWordAt m.mask 0 w (by decide)
  · exact wordAt_setWordAt m.mask 1 w (by decide)
  · exact wordAt_setWordAt m.arr 0 w (by decide)
  · exact wordAt_setWordAt m.arr 1 w (by decide)

theorem Seam.word_setWord_four (m : Seam) : (m.setWord 4 w).word 4 = w &&& 0x3F :=
  eq_and_low 6 rfl (by
    simp only [Seam.setWord, Seam.word, BitVec.toNat_ofNat, toNat_getLsbD, toNat_extractLsb']
    omega)

theorem Mark.word_setWord (a : Mark) (hi : i < 3) :
    (a.setWord i w).word i = if i = 0 then w else if i = 1 then w &&& 0xFFFFF else w &&& 0xFFFF := by
  interval_cases i
  · exact wordAt_setWordAt a.addr 0 w (by decide)
  · refine eq_and_low 20 rfl ?_
    simp (disch := decide) only [Mark.setWord, Mark.word, BitVec.toNat_ofNat, toNat_getLsbD, toNat_extractLsb', bits, field, toNat_setBits]
    omega
  · refine eq_and_low 16 rfl ?_
    simp only [Mark.setWord, Mark.word, BitVec.toNat_setWidth, toNat_extractLsb']
    omega

theorem Knot.word_setWord (k : Knot) (hi : i < 6) : (k.setWord i w).word i = if i = 1 then w &&& 1 else w := by
  interval_cases i
  · rw [if_neg (by decide)]
    refine BitVec.eq_of_toNat_eq ?_
    simp only [Knot.setWord, Knot.word, BitVec.toNat_ofNat, toNat_extractLsb']
    omega
  · refine eq_and_low 1 rfl ?_
    simp only [Knot.setWord, Knot.word, BitVec.toNat_ofNat, toNat_getLsbD]
    omega
  · exact wordAt_setWordAt k.template 0 w (by decide)
  · exact wordAt_setWordAt k.template 1 w (by decide)
  · exact wordAt_setWordAt k.template 2 w (by decide)
  · exact wordAt_setWordAt k.template 3 w (by decide)

theorem Fragment.seamrec_written (f : Fragment) (hi : i < 128) (h5 : i % 8 < 5) :
    (f.setSysWord 0x20 i w).sysWord 0x20 i = if i % 8 = 4 then w &&& 0x3F else w := by
  have hn : (BitVec.ofNat 4 (i / 8)).toNat = i / 8 := by rw [BitVec.toNat_ofNat]; omega
  have hm : (f.setSysWord 0x20 i w).seams.toList.getD (i / 8) {} = (f.seams.toList.getD (i / 8) {}).setWord (i % 8) w := by
    simp only [Fragment.setSysWord, Fragment.modSeam, hn, if_true]
    exact getD_setIfInBounds_self _ _ _ (by omega)
  rw [show (f.setSysWord 0x20 i w).sysWord 0x20 i = ((f.setSysWord 0x20 i w).seams.toList.getD (i / 8) {}).word (i % 8) from rfl, hm]
  split
  · next h4 => rw [h4, Seam.word_setWord_four]
  · exact Seam.word_setWord _ w _ (by omega)

theorem Slot.knot_written (q : Slot) (hi : i < 128) (h6 : i % 8 < 6) :
    (q.setSysWord 0x44 i w).sysWord 0x44 i = if i % 8 = 1 then w &&& 1 else w := by
  have hm : (q.setSysWord 0x44 i w).knots.toList.getD (i / 8) {} = (q.knots.toList.getD (i / 8) {}).setWord (i % 8) w :=
    getD_setIfInBounds_self _ _ _ (by omega)
  rw [show (q.setSysWord 0x44 i w).sysWord 0x44 i = ((q.setSysWord 0x44 i w).knots.toList.getD (i / 8) {}).word (i % 8) from rfl, hm]
  exact Knot.word_setWord _ w _ h6

theorem Slot.shctl_written (q : Slot) :
    (q.setSysWord 0x42 0 w).sysWord 0x42 0 = BitVec.ofNat 32 (w.toNat % 64 + 64 * min 64 (w.toNat / 64 % 128)) := by
  simp only [Slot.setSysWord, Slot.sysWord, bits, field, toNat_extractLsb', Nat.pow_zero, Nat.div_one]
  rfl

/-- A table of wider records, k words each. -/
theorem wordAt_entry {n m : Nat} (v : Vector (BitVec n) m) (k : Nat) (hk : i / k < m) (hn : 32 * (i % k) + 32 ≤ n) :
    wordAt ((v.setIfInBounds (i / k) (setWordAt (v.toList.getD (i / k) 0) (i % k) w)).toList.getD (i / k) 0) (i % k) = w := by
  rw [getD_setIfInBounds_self _ _ _ hk, wordAt_setWordAt _ _ w hn]

theorem Slot.entry_written (q : Slot) (hi : i < 128) : (q.setSysWord 0x43 i w).sysWord 0x43 i = w :=
  wordAt_entry i w q.entries 2 (by omega) (by omega)

theorem Slot.sbolt_written (q : Slot) (hi : i < 16) : (q.setSysWord 0x4A i w).sysWord 0x4A i = w :=
  wordAt_entry i w q.sbolt 4 (by omega) (by omega)

theorem Slot.seed_written (q : Slot) (hi : i < 3) : (q.setSysWord 0x41 i w).sysWord 0x41 i = if w = 0 then 0x9E3779B9 else w := by
  interval_cases i <;> rfl

end

end Sys2Proof.Machine
end

section
/-! PROOFS. A fault of a lane moves no lane: the issue and the lanes that stand in the wave slots stay as they are, so that an issue without
lanes has none afterwards. -/

namespace Sys2Proof.Machine

variable {s t u : State}

/-! ### Who stands where -/

/-- The lanes that a wave slot holds. -/
def State.seats (s : State) (c w : Nat) : Option (List Nat) := (s.wave? c w).map fun v => v.lanes.map Prod.fst

/-- The second state has the issue and the lanes of the first. -/
def State.sameSeats (s t : State) : Prop := t.cur = s.cur ∧ t.seats = s.seats

theorem State.sameSeats.refl : s.sameSeats s := ⟨rfl, rfl⟩

theorem State.sameSeats.trans (h : s.sameSeats t) (h' : t.sameSeats u) : s.sameSeats u := ⟨h'.1.trans h.1, h'.2.trans h.2⟩

theorem State.sameSeats.ite {c : Prop} [Decidable c] (h : s.sameSeats t) (h' : s.sameSeats u) : s.sameSeats (if c then t else u) := by
  split
  · exact h
  · exact h'

theorem State.sameSeats.foldl {α : Type} {f : State → α → State} (hf : ∀ (t : State) (a : α), t.sameSeats (f t a)) (l : List α)
    (h : s.sameSeats t) : s.sameSeats (l.foldl f t) :=
  List.foldlRecOn l f h fun t ht a _ => ht.trans (hf t a)

/-- An update of any fields but the issue and the cores. -/
theorem State.sameSeats.same (h : s.sameSeats t) {inputs free next tsc fireClosed net ticks mem poison dies queues vt pbase lastCtxs ctxrecs
    hmaps ptabs btabs launches eclasses stagings records phases drains packets outbox keys keyFailed ranges moves shootdowns posted unposted
    services msix bar power measures reports links} :
    s.sameSeats ⟨inputs, t.cur, free, next, tsc, fireClosed, net, ticks, mem, poison, t.cores, dies, queues, vt, pbase, lastCtxs, ctxrecs,
      hmaps, ptabs, btabs, launches, eclasses, stagings, records, phases, drains, packets, outbox, keys, keyFailed, ranges, moves, shootdowns,
      posted, unposted, services, msix, bar, power, measures, reports, links⟩ :=
  h

theorem State.sameSeats.spend (h : s.sameSeats t) : s.sameSeats t.spend := h.same

theorem State.slotsOnly.sameSeats (h : s.slotsOnly t) : s.sameSeats t :=
  ⟨h.1.field State.cur, funext fun c => funext fun w => by rw [State.seats, State.seats, State.wave?, State.wave?, h.waves c]⟩

theorem State.sameSeats.modCore (h : s.sameSeats t) {c : Nat} {f : Core → Core} (hf : ∀ k, (f k).waves = k.waves) :
    s.sameSeats (t.modCore c f) := by
  refine h.trans ⟨rfl, funext fun d => funext fun w => ?_⟩
  rw [State.seats, State.seats, State.wave?, State.wave?]
  by_cases hd : d = c
  · rw [hd, State.core_modCore_self, hf]
  · rw [State.core_modCore_of_ne _ _ hd]

theorem State.sameSeats.modWave (h : s.sameSeats t) {c w : Nat} {f : Wave → Wave} (hf : ∀ v, (f v).lanes.map Prod.fst = v.lanes.map Prod.fst) :
    s.sameSeats (t.modWave c w f) := by
  refine h.trans ⟨rfl, funext fun d => funext fun v => ?_⟩
  rw [State.seats, State.seats]
  by_cases hd : (d, v) = (c, w)
  · obtain ⟨rfl, rfl⟩ := Prod.mk.inj hd
    rw [State.wave?_modWave_self, Option.map_map]
    exact congrArg (fun f => Option.map f _) (funext hf)
  · rw [State.wave?_modWave_of_ne _ _ hd]

theorem KMap.keys_modify {α : Type} (m : KMap α) (k : Nat) (f : α → α) : (m.modify k f).map Prod.fst = m.map Prod.fst := by
  rw [KMap.modify, List.map_map]
  refine List.map_congr_left fun e _ => ?_
  dsimp only [Function.comp_apply]
  split
  · next he => exact he.symm
  · rfl

theorem State.sameSeats.modHart (h : s.sameSeats t) {r : Ref} {f : Hart → Hart} : s.sameSeats (t.modHart r f) := by
  unfold State.modHart
  split
  · exact h.modWave fun v => v.lanes.keys_modify _ f
  · exact h.trans State.slotsOnly.refl.modSlot.sameSeats

/-! ### Through the operations of a fault -/

theorem State.sameSeats.traceLane (h : s.sameSeats t) {r : Ref} {k : Hart} {kind arg : Nat} : s.sameSeats (t.traceLane r k kind arg) :=
  h.trans State.slotsOnly.refl.traceLane.sameSeats

theorem State.sameSeats.txAbort (h : s.sameSeats t) {r : Ref} {c : TxCause} {code : BitVec 8} : s.sameSeats (t.txAbort r c code) :=
  h.modHart.trans State.slotsOnly.refl.count.sameSeats

theorem State.sameSeats.wakeLane (h : s.sameSeats t) {r : Ref} : s.sameSeats (t.wakeLane r) := by
  unfold State.wakeLane
  split
  · exact h
  · exact .ite h.modHart h.txAbort

theorem State.sameSeats.wakeSet (h : s.sameSeats t) {core set : Nat} {filter : Bool} : s.sameSeats (t.wakeSet core set filter) := by
  unfold State.wakeSet
  split
  · exact h
  · split
    · exact h
    · exact .foldl (fun _ _ => State.sameSeats.refl.wakeLane) _
        (.ite (h.traceLane.trans State.slotsOnly.refl.event.sameSeats) h.traceLane)

theorem State.sameSeats.lineNotice (h : s.sameSeats t) {core : Nat} {l : Line} : s.sameSeats (t.lineNotice core l) :=
  .ite h (.foldl (fun _ _ => State.sameSeats.refl.wakeSet) _ (h.modCore fun _ => rfl))

theorem State.sameSeats.send (h : s.sameSeats t) {src home ctx : Nat} {launch : Word} {slack : BitVec 12} {sx : Bool} {vn bytes : Nat}
    {body : Body} : s.sameSeats (t.send src home ctx launch slack sx vn bytes body) := by
  obtain ⟨q, hq, -⟩ := t.send_eq src home ctx launch slack sx vn bytes body
  exact State.sameSeats.trans h.same hq.sameSeats

theorem State.sameSeats.lineChanged (h : s.sameSeats t) {l : Line} : s.sameSeats (t.lineChanged l) := by
  unfold State.lineChanged
  refine .foldl (fun _ _ => State.sameSeats.refl.send) _ ?_
  split
  · exact h.lineNotice
  · exact h

theorem State.sameSeats.conflicts (h : s.sameSeats t) {phys own : Nat} : s.sameSeats (t.conflicts phys own) :=
  .foldl (fun _ _ => .ite .refl State.sameSeats.refl.txAbort) _ h

theorem State.sameSeats.store (h : s.sameSeats t) {l : Line} {key : Nat} {bytes : List Byte} {own : Nat} {poisoned : Bool} :
    s.sameSeats (t.store l key bytes own poisoned) := by
  have hc : s.sameSeats (t.conflicts l.phys own) := h.conflicts
  exact .ite hc.lineChanged (State.sameSeats.lineChanged hc.same)

theorem State.sameSeats.lineEvent (h : s.sameSeats t) {dpa : Nat} : s.sameSeats (t.lineEvent dpa).2 := by
  unfold State.lineEvent
  dsimp only
  split
  · exact h
  · split
    · exact h
    · split
      · exact h
      · exact State.sameSeats.spend (h.modCore fun _ => rfl)

theorem State.sameSeats.postError (h : s.sameSeats t) {cause ctx home va pc eord : Nat} {report : Report} {flags : Nat} :
    s.sameSeats (t.postError cause ctx home va pc eord report flags) := by
  unfold State.postError State.post State.postAt State.storePhys
  split
  · exact (State.sameSeats.foldl (fun _ _ => State.sameSeats.refl.lineEvent.store) _ h).same
  · exact h.same

theorem State.sameSeats.nestedFault (h : s.sameSeats t) {r : Ref} {stop : Stop} : s.sameSeats (t.nestedFault r stop) := by
  unfold State.nestedFault
  dsimp only
  split
  · exact h
  · exact State.sameSeats.postError (State.sameSeats.same (State.sameSeats.modHart h))

theorem State.sameSeats.handlerEntry (h : s.sameSeats t) {r : Ref} {stop : Stop} (hc : stop.cause ≠ .preempt) :
    s.sameSeats (t.handlerEntry r stop) := by
  have hp : (stop.cause == .preempt) = false := by simpa using hc
  unfold State.handlerEntry
  simp only [hp, Bool.false_and, Bool.false_eq_true, if_false]
  split
  · exact State.sameSeats.same (State.sameSeats.traceLane (State.sameSeats.modHart h))
  · exact h

/-- The substitute of a stop that goes to the handler goes there too (R71). -/
theorem State.substituted_handler {r : Ref} {k : Hart} {stop : Stop} (hv : stop.served = false) (hr : stop.cause.route = .handler) :
    (s.substituted r k stop).served = false ∧ (s.substituted r k stop).cause.route = .handler := by
  unfold State.substituted
  split
  · split
    · exact ⟨hv, hr⟩
    · exact ⟨rfl, rfl⟩
  · exact ⟨hv, hr⟩

theorem State.sameSeats.takeStop (h : s.sameSeats t) {r : Ref} {stop : Stop} (hr : stop.cause.route = .handler) :
    s.sameSeats (t.takeStop r stop) := by
  have hc : stop.cause ≠ .preempt := fun e => by rw [e] at hr; cases hr
  have ht : s.sameSeats (t.toHandler r stop) := by
    unfold State.toHandler
    split
    · exact h
    · exact .ite h.nestedFault (h.handlerEntry hc)
  unfold State.takeStop
  rw [hr]
  exact .ite ht ht

/-- A fault that goes to the handler moves no lane. -/
theorem State.sameSeats.raise (h : s.sameSeats t) {r : Ref} {stop : Stop} (hv : stop.served = false) (hr : stop.cause.route = .handler) :
    s.sameSeats (t.raise r stop) := by
  unfold State.raise
  split
  · exact h
  · refine .ite ?_ h.txAbort
    unfold State.stopAt
    split
    · exact h
    · exact .ite (h.takeStop (State.substituted_handler hv hr).2) h.modHart

end Sys2Proof.Machine
end

section
/-! PROOFS. What O44 says of MOVS, MOVSW and SLACK (R249 to R256, R264, R265, R267). -/

namespace Sys2Proof.Machine

variable {s t : State} {r : Ref} {h : Hart} {g : Guard}

/-! ### An issue that no lane carries out -/

/-- No lane of the issue stands where the issue stands. -/
def State.idle (s : State) : Prop :=
  (s.cur.bobbin = true → 0 ∉ s.cur.lanes)
    ∧ (s.cur.bobbin = false → ∀ l, s.seats s.cur.core s.cur.member = some l → ∀ n ∈ l, n ∉ s.cur.lanes)

theorem State.idle.lanes (hs : s.idle) : s.lanes = [] := by
  obtain ⟨hb, hw⟩ := hs
  unfold State.lanes
  split
  · next h =>
    refine List.filter_eq_nil_iff.mpr fun e he => ?_
    obtain ⟨q, -, rfl⟩ := Option.map_eq_some_iff.mp (Option.mem_toList.mp he)
    simpa using hb h
  · next h =>
    cases hv : s.wave? s.cur.core s.cur.member with
    | none => rfl
    | some v =>
      refine List.filter_eq_nil_iff.mpr fun e he => ?_
      simpa using hw (by simpa using h) _ (by rw [State.seats, hv]; rfl) e.1 (List.mem_map_of_mem he)

theorem State.idle.of_sameSeats (hs : s.idle) (h : s.sameSeats t) : t.idle := by
  unfold State.idle
  rw [h.1, h.2]
  exact hs

theorem perLane_of_no_lanes (f : Ref → Hart → State → State) (hs : s.lanes = []) : perLane g f s = s := by
  rw [perLane, hs]
  rfl

/-! ### What the one lane of an issue does before the guard is read (R56, R86) -/

/-- A bobbin is lane 0. -/
theorem State.lane_of_bobbin (hb : s.cur.bobbin = true) {e : Nat × Hart} (he : e ∈ s.lanes) : e.1 = 0 := by
  rw [State.lanes, if_pos hb] at he
  obtain ⟨q, -, rfl⟩ := Option.map_eq_some_iff.mp (Option.mem_toList.mp (List.mem_filter.mp he).1)
  rfl

/-- The number of the lane of an issue. -/
theorem State.oneLane.lanes (hs : s.oneLane r h) : s.lanes = [(r.plane, h)] ∧ s.curRef r.plane h = r := by
  obtain ⟨-, -, l, hl, rfl⟩ := hs
  have hp : (s.curRef l h).plane = l := by
    unfold State.curRef
    split
    · next hb => exact (State.lane_of_bobbin hb (e := (l, h)) (by rw [hl]; exact List.mem_singleton_self _)).symm
    · rfl
  rw [hp]
  exact ⟨hl, rfl⟩

theorem State.raiseAll_oneLane (hs : s.oneLane r h) (c : Cause) : s.raiseAll c = s.raise r { cause := c } := by
  obtain ⟨hl, hr⟩ := hs.lanes
  simp [State.raiseAll, hl, hr]

theorem State.divert_oneLane_none {p : Ref → Hart → Bool} {f : Ref → State → State} (hs : s.oneLane r h) (hp : p r h = false) :
    s.divert p f = s := by
  obtain ⟨hl, hr⟩ := hs.lanes
  refine State.divert_none fun x hx => ?_
  rw [hl] at hx
  rw [List.mem_singleton.mp hx, hr, hp]

/-- The issue without its one lane. -/
def State.without (s : State) (r : Ref) : State := { s with cur := { s.cur with lanes := s.cur.lanes.filter (· != r.plane) } }

theorem State.divert_oneLane {p : Ref → Hart → Bool} {f : Ref → State → State} (hs : s.oneLane r h) (hp : p r h = true) :
    s.divert p f = f r (s.without r) := by
  obtain ⟨hl, hr⟩ := hs.lanes
  have hf : (fun l => !([(r.plane, h)] : List (Nat × Hart)).any fun e => e.1 == l) = (· != r.plane) := by
    funext l
    simp [bne, Bool.beq_comm]
  have ho : s.lanes.filter (fun e => p (s.curRef e.1 e.2) e.2) = [(r.plane, h)] := by simp [hl, hr, hp]
  unfold State.divert
  simp only [ho, hf, List.foldl_cons, List.foldl_nil]
  exact congrArg (fun q => f q (s.without r)) hr

theorem State.idle_without (hs : s.oneLane r h) : (s.without r).idle := by
  obtain ⟨hl, -⟩ := hs.lanes
  have hout (n : Nat) (k : Hart) (hk : (n, k) ∈ s.lanes) : n ∉ (s.without r).cur.lanes := by
    rw [hl] at hk
    obtain ⟨rfl, -⟩ := Prod.mk.inj (List.mem_singleton.mp hk)
    simp [State.without]
  refine ⟨fun hb => ?_, fun hb l hv n hn hc => ?_⟩
  · have h0 := State.lane_of_bobbin (s := s) hb (e := (r.plane, h)) (by rw [hl]; exact List.mem_singleton_self _)
    exact h0 ▸ hout r.plane h (by rw [hl]; exact List.mem_singleton_self _)
  · obtain ⟨v, hwave, rfl⟩ := Option.map_eq_some_iff.mp hv
    obtain ⟨⟨n, k⟩, hk, rfl⟩ := List.mem_map.mp hn
    refine hout n k ?_ hc
    have hb : s.cur.bobbin = false := hb
    have hwave : s.wave? s.cur.core s.cur.member = some v := hwave
    simp only [State.lanes, hb, Bool.false_eq_true, if_false, hwave, Option.map_some, Option.getD_some]
    exact List.mem_filter.mpr ⟨hk, by simpa using (List.mem_filter.mp hc).1⟩

/-! ### MOVS and MOVSW -/

section
variable {num idx : BitVec 8} {x : Bool} {f : SysReg → State → State}

theorem sysAccess_absent (hs : s.oneLane r h) (hq : sysReg? s.cur.bobbin num.toNat = none) :
    sysAccess num idx x f s = .next (s.raise r { cause := .illegalModifier }) := by
  simp only [sysAccess, hq, State.raiseAll_oneLane hs]

section
variable {q : SysReg} (hq : sysReg? s.cur.bobbin num.toNat = some q)
include hq

theorem sysAccess_illegal (hs : s.oneLane r h) (hx : x = false) (hl : q.legal idx.toNat = false) :
    sysAccess num idx x f s = .next (s.raise r { cause := .illegalModifier }) := by
  simp [sysAccess, hq, hx, hl, State.raiseAll_oneLane hs]

theorem sysAccess_legal (hl : x = true ∨ q.legal idx.toNat = true) : sysAccess num idx x f s =
    .next (f q (s.divert (fun _ h => !q.user && !h.tstate.priv) fun r s => s.raiseCause r .privilege)) := by
  have hc : (!x && !q.legal idx.toNat) = false := by rcases hl with hl | hl <;> simp [hl]
  simp only [sysAccess, hq, hc, Bool.false_eq_true, if_false]

section
variable (hs : s.oneLane r h) (hl : x = true ∨ q.legal idx.toNat = true)
include hs hl

/-- A system word at user privilege: the lane raises PRIVILEGE, whatever its guard says. -/
theorem sysAccess_denied (hf : ∀ t : State, t.lanes = [] → f q t = t) (hu : q.user = false) (hp : h.tstate.priv = false) :
    sysAccess num idx x f s = denied s r .privilege := by
  rw [sysAccess_legal hq hl, State.divert_oneLane hs (by simp [hu, hp])]
  have hi := (State.idle_without hs).of_sameSeats (State.sameSeats.refl.raise (r := r) (stop := { cause := .privilege }) rfl rfl)
  exact congrArg Host.Outcome.next (hf _ hi.lanes)

theorem sysAccess_allowed (hp : q.user = true ∨ h.tstate.priv = true) : sysAccess num idx x f s = .next (f q s) := by
  rw [sysAccess_legal hq hl, State.divert_oneLane_none hs (by rcases hp with hp | hp <;> simp [hp])]

end
end
end

/-- The index of a lane is legal only where the fixed one is, if that is used. -/
theorem legal_of_sysIndex {q : SysReg} {idx : BitVec 8} {x : Bool} {a : Src} (hl : q.legal (h.sysIndex idx x a) = true) :
    x = true ∨ q.legal idx.toNat = true := by
  cases x
  · exact .inr hl
  · exact .inl rfl

/-- The one lane of an issue supplies the value that it writes (R265). -/
theorem supplies_self (s : State) (n : Nat) (h : Hart) (scope : Scope2) : supplies s [(n, h)] scope h = true := by
  cases scope <;> simp [supplies]

section
variable {q : SysReg} {num idx : BitVec 8} {x : Bool} {d : Reg} {a b : Src} (hs : s.oneLane r h)
  (hq : sysReg? s.cur.bobbin num.toNat = some q) (hp : q.user = true ∨ h.tstate.priv = true)
include hs hq hp

/-- MOVS at an index that the register has not. -/
theorem lane_movs_beyond (hx : x = true) (hl : q.legal (h.sysIndex idx x a) = false) :
    lane (.movs g d num idx x a) s g r h (s.raiseCause r .illegalModifier) :=
  lane_of_perLane hs (sysAccess_allowed hq hs (.inl hx) hp) (if_neg (by simp [hl]))

theorem lane_movs_reads (hl : q.legal (h.sysIndex idx x a) = true) : lane (.movs g d num idx x a) s g r h
    ((s.modHart r fun k => k.setReg d.toNat ((s.sysRead r h q.scope num.toNat (h.sysIndex idx x a)).setWidth 64)).goOn r) :=
  lane_of_perLane hs (sysAccess_allowed hq hs (legal_of_sysIndex hl) hp) (if_pos hl)

/-- MOVSW at an index that the register has not. -/
theorem lane_movsw_beyond (hx : x = true) (hl : q.legal (h.sysIndex idx x b) = false) :
    lane (.movsw g num idx x a b) s g r h (s.raiseCause r .illegalModifier) :=
  lane_of_perLane hs (sysAccess_allowed hq hs (.inl hx) hp) (if_pos (by simp [hl]))

theorem lane_movsw_writes (hl : q.legal (h.sysIndex idx x b) = true) : lane (.movsw g num idx x a b) s g r h
    ((s.sysWrite r h q.scope num.toNat (h.sysIndex idx x b) (BitVec.ofNat 32 (h.word a))).goOn r) := by
  rw [lane, show exec (.movsw g num idx x a b) s = execMovsw g num idx x a b s from rfl, execMovsw,
    sysAccess_allowed hq hs (legal_of_sysIndex hl) hp]
  dsimp only
  rw [perLane_oneLane s g _ r h hs]
  by_cases ht : h.takes g = true
  · have hw : (s.active g).filter (fun e => q.legal (e.2.sysIndex idx x b)) = [(r.plane, h)] := by
      simp [State.active, hs.lanes.1, ht, hl]
    simp [ht, hl, hw, supplies_self]
  · simp [ht]

end

/-! ### SLACK (R267) -/

theorem Regs.get_set_of_ne (v : Regs) {d n : Nat} (x : DWord) (h : n ≠ d) : (v.set d x).get n = v.get n := by
  cases v <;> simp [Regs.set, Regs.get, List.getD_eq_getElem?_getD, List.getElem?_set_ne (Ne.symm h)]

theorem Hart.isBobbin_setReg (h : Hart) (d : Nat) (v : DWord) : (h.setReg d v).isBobbin = h.isBobbin := by
  obtain ⟨-, regs⟩ := h
  cases regs <;> rfl

theorem Hart.isBobbin_congr {h k : Hart} (e : k.regs = h.regs) : k.isBobbin = h.isBobbin := by rw [Hart.isBobbin, Hart.isBobbin, e]

/-- The poison of a register goes with a write of it, and of no other. -/
theorem Hart.poison_setReg (h : Hart) (d n : Nat) (v : DWord) :
    (h.setReg d v).poison.getLsbD n = if n = d then false else h.poison.getLsbD n := by
  by_cases h64 : n < 64
  · exact (getLsbD_setBits _ _ _ _ _ h64).trans (if_congr (by omega) (Nat.zero_testBit _) rfl)
  · rw [BitVec.getLsbD_of_ge _ _ (by omega), BitVec.getLsbD_of_ge _ _ (by omega), ite_self]

/-- A write of one register, and the way past the instruction, change that register alone. -/
theorem Hart.changes_setReg (h : Hart) (c : Issue) (d : Nat) (v : DWord) :
    h.changes ((h.setReg d v).advance c) c [d] h.preds h.fpstat := by
  have hr : ((h.setReg d v).advance c).regs = h.regs.set d v := Hart.advance_regs ..
  have hp : ((h.setReg d v).advance c).poison = (h.setReg d v).poison := Hart.advance_poison ..
  refine ⟨by rw [hr, hp]; rfl, ?_, fun n hn => ⟨?_, ?_⟩, fun n hn => ?_⟩
  · exact (Hart.isBobbin_congr (Hart.advance_regs ..)).trans (h.isBobbin_setReg d v)
  · rw [Hart.reg, hr]
    exact Regs.get_set_of_ne _ v (by simpa using hn)
  · rw [hp, h.poison_setReg, if_neg (by simpa using hn)]
  · rw [hp, h.poison_setReg, if_pos (List.mem_singleton.mp hn)]

/-- A value of at most 32 bits is read back from a register that the file has. -/
theorem Hart.reg_setReg_advance (h : Hart) (c : Issue) {d n : Nat} (v : BitVec n) (hn : n ≤ 32) (hd : d + 1 ≤ if h.isBobbin then 32 else 64) :
    ((h.setReg d (v.setWidth 64)).advance c).reg d = v.setWidth 64 := by
  rw [Hart.reg, Hart.advance_regs, Hart.setReg]
  cases hr : h.regs with
  | x l =>
    have hd : d < 64 := by simpa [Hart.isBobbin, hr] using hd
    refine (congrArg (BitVec.setWidth 64) (getD_setIfInBounds_self l _ 0 hd)).trans ?_
    rw [BitVec.setWidth_setWidth_of_le v (by decide), BitVec.setWidth_setWidth (by omega)]
  | w l =>
    have hd : d < 32 := by simpa [Hart.isBobbin, hr] using hd
    exact getD_setIfInBounds_self l _ 0 hd

/-- Reading and writing the slack (R267). -/
theorem lanesDo_slack (s : State) (g : Guard) (d : Reg) : lanesDo (.slack g d) s g fun h h' =>
    h.fits d 1 → h.changes h' s.cur [d.toNat] h.preds h.fpstat ∧ h'.reg d.toNat = h.slack.setWidth 64 := by
  refine ⟨_, rfl, fun h => ?_⟩
  split
  · intro hd
    exact ⟨h.changes_setReg s.cur d.toNat _, h.reg_setReg_advance s.cur h.slack (by decide) (by simpa [Hart.fits] using hd)⟩
  · rfl

theorem lanesDo_slackSet (s : State) (g : Guard) (a : Src) : lanesDo (.slackSet g a) s g fun h h' =>
    h' = ({ h with slack := (h.src a).setWidth 12 } : Hart).advance s.cur := by
  refine ⟨_, rfl, fun h => ?_⟩
  split <;> rfl

/-- What a write of a word of a seam, an arrival mark, a knot, a fragment or a slot leaves to be read. -/
theorem recordWords_holds : recordWords := by
  intro m a k f q i w
  refine ⟨Seam.word_setWord i w m, Seam.word_setWord_four w m, Mark.word_setWord 0 w a (by decide), Mark.word_setWord 1 w a (by decide),
    Mark.word_setWord 2 w a (by decide), Knot.word_setWord 0 w k (by decide), Knot.word_setWord 1 w k (by decide), fun h2 h6 => ?_,
    Fragment.seamrec_written i w f, Mark.word_setWord i w f.mark, Slot.knot_written i w q, Slot.shctl_written w q,
    low_word_setBits w q.svbase, high_word_setBits w q.svbase⟩
  rw [Knot.word_setWord i w k h6, if_neg (by omega)]

end Sys2Proof.Machine

open Sys2Proof Sys2Proof.Machine

/-- Settles O44: the accesses of one lane, the slack, and the words by their scope. -/
theorem systemRegisters : Obligations.SystemRegisters := by
  unfold Obligations.SystemRegisters
  refine ⟨fun s g r h d num idx x a b sl hs => ⟨fun hq => ?_, fun q hq hx hl => ?_, fun q hq hl hu hp => ?_, fun q hq hx hp => ?_,
    fun q hq hl hp => ?_, fun q hq hl hp => ?_, ?_⟩, fun s g d a => ⟨lanesDo_slack s g d, lanesDo_slackSet s g a⟩, fun h i w => ?_,
    recordWords_holds, fun q i w => ?_⟩
  · exact ⟨sysAccess_absent hs hq, sysAccess_absent hs hq⟩
  · exact ⟨sysAccess_illegal hq hs hx hl, sysAccess_illegal hq hs hx hl⟩
  · exact ⟨sysAccess_denied hq hs hl (fun _ => perLane_of_no_lanes _) hu hp, sysAccess_denied hq hs hl (fun _ => perLane_of_no_lanes _) hu hp⟩
  · exact ⟨lane_movs_beyond hs hq hp hx, lane_movsw_beyond hs hq hp hx⟩
  · exact lane_movs_reads hs hq hp hl
  · exact lane_movsw_writes hs hq hp hl
  · exact lane_of_perLane hs rfl rfl
  · exact ⟨Hart.escr_written h i w, by rintro n (rfl | rfl | rfl) <;> rfl, Hart.fpstat_written h w, rfl, low_word_setBits w h.trap.eaddr,
      high_word_setBits w h.trap.eaddr, Hart.tcw_written h w, Hart.ecause_written h w, Hart.einfo_written h w, Hart.fib_written h i w,
      by rintro n (rfl | rfl) <;> rfl⟩
  · exact ⟨by rintro n (rfl | rfl | rfl | rfl) <;> rfl, Slot.entry_written i w q, Slot.sbolt_written i w q, Slot.seed_written i w q,
      by rintro n (rfl | rfl) <;> rfl, rfl⟩

end

section
/-! PROOFS. What O13 says: where the lane results of chapter 5 go. The rules of a write of words and of its flags, and the scalar
floating instructions (R106, R114, R174 to R179). -/

namespace Sys2Proof.Machine

variable {h k m : Hart} {l l' : List Nat} {f f' : FFlags}

/-! ### Words written to a run of registers, and flags gathered -/

/-- k is h with new values in the listed registers, their poison cleared, and FPSTAT as said. -/
def Hart.writes (h k : Hart) (l : List Nat) (f : FFlags) : Prop :=
  k = { h with regs := k.regs, poison := k.poison, fpstat := f } ∧ k.isBobbin = h.isBobbin
    ∧ (∀ n, n ∉ l → k.reg n = h.reg n ∧ k.poison.getLsbD n = h.poison.getLsbD n) ∧ ∀ n ∈ l, k.poison.getLsbD n = false

/-- The registers that the file has: 64 of a thread, 32 of a bobbin (R134). -/
def Hart.fileSize (h : Hart) : Nat := if h.isBobbin then 32 else 64

theorem Hart.writes_nil (h : Hart) : h.writes h [] h.fpstat :=
  ⟨rfl, rfl, fun _ _ => ⟨rfl, rfl⟩, fun _ hn => absurd hn List.not_mem_nil⟩

theorem Hart.writes_setReg (h : Hart) (d : Nat) (v : DWord) : h.writes (h.setReg d v) [d] h.fpstat := by
  refine ⟨rfl, h.isBobbin_setReg d v, fun n hn => ?_, fun n hn => ?_⟩
  · have hd : n ≠ d := by simpa using hn
    exact ⟨Regs.get_set_of_ne _ v hd, by rw [h.poison_setReg, if_neg hd]⟩
  · rw [h.poison_setReg, if_pos (List.mem_singleton.mp hn)]

theorem Hart.writes_setWord (h : Hart) (d v : Nat) : h.writes (h.setWord d v) [d] h.fpstat := h.writes_setReg d _

theorem Hart.writes.append (hk : h.writes k l f) (hm : k.writes m l' f') : h.writes m (l ++ l') f' := by
  obtain ⟨ek, bk, rk, pk⟩ := hk
  obtain ⟨em, bm, rm, pm⟩ := hm
  refine ⟨by rw [em, ek], bm.trans bk, fun n hn => ?_, fun n hn => ?_⟩
  · obtain ⟨h1, h2⟩ := List.mem_append.not.trans not_or |>.mp hn
    exact ⟨(rm n h2).1.trans (rk n h1).1, (rm n h2).2.trans (rk n h1).2⟩
  · by_cases h2 : n ∈ l'
    · exact pm n h2
    · rw [(rm n h2).2]
      exact pk n ((List.mem_append.mp hn).resolve_right h2)

theorem Hart.writes.fpstat_eq (hk : h.writes k l f) : k.fpstat = f := by rw [hk.1]

theorem Hart.writes.gathered (hk : h.writes k l f) (f' : FFlags) : h.writes { k with fpstat := f' } l f' := by
  obtain ⟨ek, rest⟩ := hk
  exact ⟨by rw [ek], rest⟩

theorem Hart.writes.changes (hk : h.writes k l f) (c : Issue) : h.changes (k.advance c) c l h.preds f := by
  obtain ⟨ek, bk, rk, pk⟩ := hk
  have hb : (k.advance c).isBobbin = k.isBobbin := Hart.isBobbin_congr (Hart.advance_regs ..)
  refine ⟨?_, hb.trans bk, fun n hn => ?_, fun n hn => ?_⟩
  · rw [Hart.advance_regs, Hart.advance_poison]
    exact congrArg (Hart.advance · c) ek
  · rw [Hart.reg, Hart.advance_regs, Hart.advance_poison]
    exact rk n hn
  · rw [Hart.advance_poison]
    exact pk n hn

theorem range_succ_map_add (n d : Nat) : (List.range (n + 1)).map (d + ·) = d :: (List.range n).map (d + 1 + ·) := by
  rw [List.range_succ_eq_map, List.map_cons, List.map_map]
  exact congrArg (d :: ·) (List.map_congr_left fun i _ => by simp only [Function.comp]; omega)

theorem Hart.writes_setRun (l : List Nat) : ∀ (h : Hart) (d : Nat), h.writes (h.setRun d l) ((List.range l.length).map (d + ·)) h.fpstat := by
  induction l with
  | nil => exact fun h _ => h.writes_nil
  | cons v vs ih =>
    intro h d
    rw [List.length_cons, range_succ_map_add]
    exact (h.writes_setWord d v).append (ih (h.setWord d v) (d + 1))

/-! ### What a written register holds -/

theorem Hart.reg_advance (h : Hart) (c : Issue) (n : Nat) : (h.advance c).reg n = h.reg n := by rw [Hart.reg, Hart.advance_regs]; rfl

theorem Hart.fileSize_setWord (h : Hart) (d v : Nat) : (h.setWord d v).fileSize = h.fileSize := by
  rw [Hart.fileSize, Hart.fileSize, (h.writes_setWord d v).2.1]

theorem Hart.reg_setWord_self (h : Hart) {d : Nat} (v : Nat) (hd : d < h.fileSize) : (h.setWord d v).reg d = BitVec.ofNat 64 (v % 2 ^ 32) := by
  rw [Hart.reg, Hart.setWord, Hart.setReg]
  unfold Hart.fileSize Hart.isBobbin at hd
  cases hr : h.regs with
  | x l =>
    rw [hr] at hd
    refine (congrArg (BitVec.setWidth 64) (getD_setIfInBounds_self l _ 0 hd)).trans ?_
    exact BitVec.eq_of_toNat_eq (by simp only [BitVec.toNat_setWidth, BitVec.toNat_ofNat]; omega)
  | w l =>
    rw [hr] at hd
    exact getD_setIfInBounds_self l _ 0 hd

theorem Hart.reg_setWord_of_ne (h : Hart) {d n : Nat} (v : Nat) (hn : n ≠ d) : (h.setWord d v).reg n = h.reg n := Regs.get_set_of_ne _ _ hn

theorem Hart.reg_setRun (l : List Nat) : ∀ (h : Hart) {d i : Nat}, d + l.length ≤ h.fileSize → i < l.length →
    (h.setRun d l).reg (d + i) = BitVec.ofNat 64 (l.getD i 0 % 2 ^ 32) := by
  induction l with
  | nil => exact fun h d i _ hi => absurd hi (Nat.not_lt_zero i)
  | cons v vs ih =>
    intro h d i hd hi
    rw [List.length_cons] at hd hi
    cases i with
    | zero =>
      have h0 : d + 0 ∉ (List.range vs.length).map (d + 1 + ·) := by simp; omega
      rw [Hart.setRun, (((h.setWord d v).writes_setRun vs (d + 1)).2.2.1 _ h0).1]
      exact h.reg_setWord_self v (by omega)
    | succ j =>
      rw [show d + (j + 1) = d + 1 + j by omega]
      exact ih (h.setWord d v) (by rw [h.fileSize_setWord]; omega) (by omega)

/-! ### Results of one word -/

theorem Hart.fits_one {h : Hart} {d : Reg} (hd : h.fits d 1) : d.toNat < h.fileSize := by
  simpa [Hart.fits, Hart.fileSize] using hd

theorem Hart.setWord_changes (h : Hart) (c : Issue) {d : Reg} (v : Nat) (hd : h.fits d 1) :
    h.changes ((h.setWord d.toNat v).advance c) c [d.toNat] h.preds h.fpstat
      ∧ ((h.setWord d.toNat v).advance c).reg d.toNat = BitVec.ofNat 64 (v % 2 ^ 32) :=
  ⟨(h.writes_setWord d.toNat v).changes c, (Hart.reg_advance ..).trans (h.reg_setWord_self v (Hart.fits_one hd))⟩

theorem Hart.writeF_changes (h : Hart) (c : Issue) {d : Reg} (r : Nat × FFlags) (hd : h.fits d 1) :
    h.changes ((h.writeF d r).advance c) c [d.toNat] h.preds (h.fpstat ||| r.2)
      ∧ ((h.writeF d r).advance c).reg d.toNat = BitVec.ofNat 64 (r.1 % 2 ^ 32) :=
  ⟨((h.writes_setWord d.toNat r.1).gathered _).changes c, (Hart.reg_advance ..).trans (h.reg_setWord_self r.1 (Hart.fits_one hd))⟩

/-- An instruction that acts on each lane by itself does to a lane that takes part what its function does. -/
theorem lanesDo_of_aluOp {i : Instr} {s : State} {g : Guard} {F : Hart → Hart} {P : Hart → Hart → Prop} (he : exec i s = aluOp g F s)
    (hP : ∀ h, P h ((F h).advance s.cur)) : lanesDo i s g P := by
  refine ⟨fun h => (if h.takes g then F h else h).advance s.cur, he, fun h => ?_⟩
  by_cases ht : h.takes g = true
  · simpa only [ht, if_true] using hP h
  · simp only [ht]
    rfl

theorem lanesDo_writesFloat {i : Instr} {s : State} {g : Guard} {d : Reg} {t : Option Fmt} {dflt : Fmt} {r : Fmt → Hart → Nat × FFlags}
    (he : exec i s = aluOp g (fun h => h.writeF d (r (t.getD dflt) h)) s) : lanesDo i s g (writesFloat s.cur d t dflt r) :=
  lanesDo_of_aluOp he fun h hd => h.writeF_changes s.cur _ hd

/-- A predicate and flags change no register. -/
theorem Hart.setPred_changes (h : Hart) (c : Issue) (p : BitVec 3) (v : Bool) (f : FFlags) :
    h.changes (({ h.setPred p v with fpstat := f } : Hart).advance c) c [] (h.setPred p v).preds f := by
  have e : ({ h.setPred p v with fpstat := f } : Hart) = { h with preds := (h.setPred p v).preds, fpstat := f } := by
    unfold Hart.setPred
    split <;> rfl
  rw [e]
  refine ⟨by rw [Hart.advance_regs, Hart.advance_poison], Hart.isBobbin_congr (Hart.advance_regs ..), fun n _ => ⟨?_, ?_⟩,
    fun n hn => absurd hn List.not_mem_nil⟩
  · exact (Hart.reg_advance ..).trans rfl
  · rw [Hart.advance_poison]

end Sys2Proof.Machine

open Sys2Proof Sys2Proof.Machine

/-- Settles O13: each is a write of one word with its flags, FCLASS one without flags, and FCMP changes a predicate. -/
theorem scalarFloatResults : Obligations.ScalarFloatResults := by
  unfold Obligations.ScalarFloatResults
  intro s g d a b c t rm z k p
  refine ⟨lanesDo_writesFloat rfl, lanesDo_writesFloat rfl, lanesDo_writesFloat rfl, lanesDo_writesFloat rfl, lanesDo_writesFloat rfl,
    lanesDo_writesFloat rfl, lanesDo_writesFloat rfl, ?_, lanesDo_writesFloat rfl, lanesDo_writesFloat rfl, lanesDo_writesFloat rfl,
    lanesDo_writesFloat rfl, lanesDo_writesFloat rfl, lanesDo_writesFloat rfl, lanesDo_writesFloat rfl, ?_⟩
  · refine lanesDo_of_aluOp rfl fun h hd => ?_
    have hw := h.setWord_changes s.cur (fclassBits (t.getD .f32) (h.word a)) hd
    rwa [← BitVec.or_zero (x := h.fpstat)] at hw
  · exact lanesDo_of_aluOp rfl fun h => h.setPred_changes s.cur p _ _

end

section
/-! PROOFS. What O17 and O18 say of conversions: each element of the source run becomes its element of the destination run (R171, R186,
R187), with the lane's own random word or the generator's (R117 to R120, R188 to R190). -/

namespace Sys2Proof.Machine

variable {h k : Hart}

/-! ### Packed elements -/

theorem packed_lt (n : Nat) (l : List Nat) : packed n l < 2 ^ (n * l.length) := by
  induction l with
  | nil => simp [packed]
  | cons v vs ih =>
    rw [packed, List.length_cons, Nat.mul_succ, Nat.add_comm (n * vs.length) n, Nat.pow_add]
    have hv : v % 2 ^ n < 2 ^ n := Nat.mod_lt _ (Nat.two_pow_pos n)
    calc v % 2 ^ n + 2 ^ n * packed n vs < 2 ^ n * (packed n vs + 1) := by rw [Nat.mul_succ]; omega
      _ ≤ 2 ^ n * 2 ^ (n * vs.length) := Nat.mul_le_mul_left _ ih

/-- Element i is read back from a packed word. -/
theorem element_packed (n : Nat) : ∀ (l : List Nat) {i : Nat}, i < l.length → element n (packed n l) i = l.getD i 0 % 2 ^ n
  | [], _, hi => absurd hi (Nat.not_lt_zero _)
  | v :: vs, i, hi => by
    have hv : v % 2 ^ n < 2 ^ n := Nat.mod_lt _ (Nat.two_pow_pos n)
    cases i with
    | zero => simp [element, packed]
    | succ i =>
      have ih := element_packed n vs (Nat.lt_of_succ_lt_succ hi)
      rw [element] at ih
      rw [element, packed, Nat.mul_succ, Nat.add_comm (n * i) n, Nat.pow_add, ← Nat.div_div_eq_div_mul, Nat.add_mul_div_left _ _ (Nat.two_pow_pos n),
        Nat.div_eq_of_lt hv, Nat.zero_add, ih]
      rfl

theorem length_wordsOf (n : Nat) (l : List Nat) : (wordsOf n l).length = (l.length + 32 / n - 1) / (32 / n) := by simp [wordsOf]

theorem getD_wordsOf (n : Nat) (l : List Nat) {i : Nat} (hi : i < (l.length + 32 / n - 1) / (32 / n)) :
    (wordsOf n l).getD i 0 = packed n ((l.drop (i * (32 / n))).take (32 / n)) := by
  simp [wordsOf, List.getD_eq_getElem?_getD, hi]

/-- Element j of a list stands in word j / per of the list's words, at place j % per. -/
theorem element_wordsOf {n : Nat} (l : List Nat) {j : Nat} (hn : 0 < n) (h32 : n ≤ 32) (hj : j < l.length) :
    element n ((wordsOf n l).getD (j / (32 / n)) 0 % 2 ^ 32) (j % (32 / n)) = l.getD j 0 % 2 ^ n := by
  have hp : 0 < 32 / n := Nat.div_pos h32 hn
  have hd := Nat.div_add_mod j (32 / n)
  have hm := Nat.mod_lt j hp
  have hle : j / (32 / n) < (l.length + 32 / n - 1) / (32 / n) := by
    rw [Nat.lt_iff_add_one_le, Nat.le_div_iff_mul_le hp, Nat.add_mul, Nat.one_mul, Nat.mul_comm]
    omega
  have hw : packed n ((l.drop (j / (32 / n) * (32 / n))).take (32 / n)) < 2 ^ 32 := by
    refine (packed_lt n _).trans_le (Nat.pow_le_pow_right (by decide) ?_)
    refine (Nat.mul_le_mul_left n (List.length_take_le _ _)).trans ?_
    exact Nat.mul_div_le 32 n
  have hlen : j % (32 / n) < ((l.drop (j / (32 / n) * (32 / n))).take (32 / n)).length := by
    rw [List.length_take, List.length_drop, Nat.mul_comm]
    omega
  rw [getD_wordsOf n l hle, Nat.mod_eq_of_lt hw, element_packed n _ hlen]
  congr 1
  rw [List.getD_eq_getElem?_getD, List.getElem?_take, if_pos hm, List.getElem?_drop, Nat.mul_comm, hd, ← List.getD_eq_getElem?_getD]

/-! ### Runs of registers -/

theorem Hart.runWord_congr (hr : k.regs = h.regs) (x : Src) (i : Nat) : k.runWord x i = h.runWord x i := by
  cases x with
  | reg r => rw [Hart.runWord, Hart.runWord, Hart.reg, Hart.reg, hr]
  | lit v => rfl

theorem Hart.runWord_advance (h : Hart) (c : Issue) (x : Src) (i : Nat) : (h.advance c).runWord x i = h.runWord x i :=
  Hart.runWord_congr (Hart.advance_regs ..) x i

/-- The words of a run that has been written are read back from the registers. -/
theorem Hart.runWord_setRun (h : Hart) (l : List Nat) {d : Reg} {i : Nat} (hd : d.toNat + l.length ≤ h.fileSize) (hi : i < l.length) :
    (h.setRun d.toNat l).runWord (.reg d) i = l.getD i 0 % 2 ^ 32 := by
  rw [Hart.runWord, h.reg_setRun l hd hi]
  simp only [BitVec.toNat_ofNat]
  omega

/-! ### One lane of a conversion -/

/-- The registers of the destination run (R187). -/
def Conv.runLength (c : Conv) : Nat := if c.pk then max 1 (c.df.bits / c.sf.bits) else fmtRuns c.df

/-- The widths that a packed conversion may have (R187). -/
def Conv.packable (c : Conv) : Prop := c.pk = true → c.df.bits ≠ c.sf.bits ∧ c.df.bits ≠ 64 ∧ c.sf.bits ≠ 64

theorem Conv.packable_of_pkOk {c : Conv} (h : pkOk c.df c.sf c.pk = true) : c.packable := by
  intro hp
  simpa [pkOk, hp, and_assoc] using h

theorem Fmt.bits_cases (t : Fmt) : t.bits = 8 ∨ t.bits = 16 ∨ t.bits = 32 ∨ t.bits = 64 := by cases t <;> decide

theorem Fmt.bits_mem {t : Fmt} (h : t.bits ≠ 64) : t.bits ∈ [8, 16, 32] := by
  obtain h1 | h1 | h1 | h1 := Fmt.bits_cases t
  · simp [h1]
  · simp [h1]
  · simp [h1]
  · exact absurd h1 h

/-- The words of a packed conversion's results. -/
theorem Conv.length_wordsOf_results {c : Conv} (hw : c.packable) (hp : c.pk = true) {l : List Nat} (hl : l.length = c.results) :
    (wordsOf c.df.bits l).length = c.runLength := by
  obtain ⟨h1, h2, h3⟩ := hw hp
  rw [length_wordsOf, hl, Conv.results, Conv.runLength, if_pos hp, if_pos hp]
  have h : ∀ a ∈ [8, 16, 32], ∀ b ∈ [8, 16, 32], a ≠ b → ((if a < b then 32 / a else 32 / b) + 32 / a - 1) / (32 / a) = max 1 (a / b) := by decide
  exact h _ (Fmt.bits_mem h2) _ (Fmt.bits_mem h3) h1

/-- What a conversion writes in its run, before the flags. -/
theorem Conv.write_writes (c : Conv) (hw : c.packable) (h : Hart) (d : Reg) (l : List Nat) (hl : l.length = c.results) :
    h.writes (c.write h d l) ((List.range c.runLength).map (d.toNat + ·)) h.fpstat := by
  unfold Conv.write
  split
  · rename_i hp
    rw [← Conv.length_wordsOf_results hw hp hl]
    exact h.writes_setRun _ _
  · rename_i hp
    rw [Conv.runLength, if_neg hp, fmtRuns]
    by_cases hf : c.df.isFloat = true
    · have h64 : c.df.bits ≠ 64 := by generalize c.df = t at hf; revert hf; cases t <;> decide
      rw [if_neg h64, if_pos hf]
      exact h.writes_setWord d.toNat _
    · rw [if_neg hf]
      by_cases h64 : c.df.bits = 64
      · rw [if_pos h64, if_pos h64]
        exact h.writes_setRun _ _
      · rw [if_neg h64, if_neg h64]
        exact h.writes_setWord d.toNat _

/-- Values of n bits depend on the low n bits alone. -/
theorem intOf_mod (n : Nat) (signed : Bool) (v : Nat) {m : Nat} (h : n ≤ m) : intOf n signed (v % 2 ^ m) = intOf n signed v := by
  rw [intOf, intOf, Nat.mod_mod_of_dvd _ (Nat.pow_dvd_pow 2 h)]

theorem Conv.intBits_result (c : Conv) (v : Nat) :
    intBits (if c.df = .bp then .i8 else c.df) false v = BitVec.ofInt 64 (intOf c.df.bits c.df.signed v) := by
  have h : ((v : Int) % 2 ^ 64).toNat = v % 2 ^ 64 := by omega
  rw [intBits]
  simp only [Bool.false_eq_true, if_false, h]
  by_cases hb : c.df = .bp
  · rw [if_pos hb, hb, intOf_mod _ _ _ (by decide)]
    rfl
  · rw [if_neg hb, intOf_mod _ _ _ (by rcases Fmt.bits_cases c.df with h | h | h | h <;> omega)]

theorem ofNat_low_word (v : Int) : BitVec.ofNat 64 ((BitVec.ofInt 64 v).toNat % 2 ^ 32) = (BitVec.ofInt 32 v).setWidth 64 := by
  apply BitVec.eq_of_toNat_eq
  simp only [BitVec.toNat_ofNat, BitVec.toNat_setWidth, BitVec.toNat_ofInt]
  omega

/-- What the registers of the run hold. -/
theorem Conv.write_holds (c : Conv) (hw : c.packable) (h : Hart) (i : Issue) (f : FFlags) (d : Reg) (l : List Nat) (hl : l.length = c.results)
    (hd : d.toNat + c.runLength ≤ h.fileSize) (j : Nat) (hj : j < c.results) :
    let h' := ({ c.write h d l with fpstat := f } : Hart).advance i
    if c.pk then h'.runWord (.reg d) (j / (32 / c.df.bits)) / 2 ^ (c.df.bits * (j % (32 / c.df.bits))) % 2 ^ c.df.bits = l.getD j 0 % 2 ^ c.df.bits
    else if c.df.isFloat then h'.reg d.toNat = BitVec.ofNat 64 (l.getD j 0 % 2 ^ 32)
    else
      let v := intOf c.df.bits c.df.signed (l.getD j 0)
      if c.df.bits = 64 then h'.reg d.toNat = ((BitVec.ofInt 64 v).setWidth 32).setWidth 64 ∧ h'.reg (d.toNat + 1) = BitVec.ofInt 64 v >>> 32
      else h'.reg d.toNat = (BitVec.ofInt 32 v).setWidth 64 := by
  intro h'
  by_cases hp : c.pk = true
  · rw [if_pos hp]
    obtain ⟨h1, h2, h3⟩ := hw hp
    have hn : 0 < c.df.bits ∧ c.df.bits ≤ 32 := by rcases Fmt.bits_cases c.df with h | h | h | h <;> omega
    have hlen := Conv.length_wordsOf_results hw hp hl
    have hi : j / (32 / c.df.bits) < (wordsOf c.df.bits l).length := by
      have hq : 0 < 32 / c.df.bits := Nat.div_pos hn.2 hn.1
      rw [length_wordsOf, Nat.lt_iff_add_one_le, Nat.le_div_iff_mul_le hq, Nat.add_mul, Nat.one_mul, Nat.mul_comm]
      have := Nat.div_add_mod j (32 / c.df.bits)
      omega
    have hr : h'.runWord (.reg d) (j / (32 / c.df.bits)) = (wordsOf c.df.bits l).getD (j / (32 / c.df.bits)) 0 % 2 ^ 32 := by
      rw [← h.runWord_setRun (wordsOf c.df.bits l) (d := d) (by rw [hlen]; exact hd) hi]
      refine (Hart.runWord_advance ..).trans (Hart.runWord_congr ?_ _ _)
      rw [Conv.write, if_pos hp]
    rw [hr]
    exact element_wordsOf l hn.1 hn.2 (by omega)
  · have h0 : j = 0 := by simpa [Conv.results, hp] using hj
    have hr : ∀ n, h'.reg n = (c.write h d l).reg n := fun n => Hart.reg_advance ..
    have hv : l.getD j 0 = l.headD 0 := by subst h0; cases l <;> rfl
    rw [Conv.runLength, if_neg hp, fmtRuns] at hd
    rw [if_neg hp, hr, hr, hv, Conv.write, if_neg hp]
    by_cases hf : c.df.isFloat = true
    · rw [if_pos hf, if_pos hf]
      exact h.reg_setWord_self _ (by split at hd <;> omega)
    · rw [if_neg hf, if_neg hf, c.intBits_result]
      by_cases h64 : c.df.bits = 64
      · rw [if_pos h64] at hd
        simp only [if_pos h64]
        have h1 := h.reg_setRun [(BitVec.ofInt 64 (intOf c.df.bits c.df.signed (l.headD 0))).toNat,
          (BitVec.ofInt 64 (intOf c.df.bits c.df.signed (l.headD 0))).toNat / 2 ^ 32] (d := d.toNat) hd (i := 0) (Nat.zero_lt_two)
        have h2 := h.reg_setRun [(BitVec.ofInt 64 (intOf c.df.bits c.df.signed (l.headD 0))).toNat,
          (BitVec.ofInt 64 (intOf c.df.bits c.df.signed (l.headD 0))).toNat / 2 ^ 32] (d := d.toNat) hd (i := 1) (Nat.one_lt_two)
        refine ⟨h1.trans (BitVec.eq_of_toNat_eq ?_), h2.trans (BitVec.eq_of_toNat_eq ?_)⟩
        · simp only [List.getD_cons_zero, BitVec.toNat_ofNat, BitVec.toNat_setWidth]
        · simp only [List.getD_cons_succ, List.getD_cons_zero, BitVec.toNat_ofNat, BitVec.toNat_ushiftRight, Nat.shiftRight_eq_div_pow]
          have := (BitVec.ofInt 64 (intOf c.df.bits c.df.signed (l.headD 0))).isLt
          omega
      · rw [if_neg h64] at hd
        simp only [if_neg h64]
        exact (h.reg_setWord_self _ (by omega)).trans (ofNat_low_word _)

/-- A lane's conversion gives what `converts` says. -/
theorem Conv.lane_converts (c : Conv) (hw : c.packable) (i : Issue) (d : Reg) (a : Src) (n : Int) (rnd : Nat → Word) (h : Hart) :
    converts i c d a n rnd h ((c.lane d a n rnd h).advance i) := by
  intro hd
  set r := fun j => c.element n (wordBits (rnd j)) (c.source h a j)
  set rs := (List.range c.results).map r with hrs
  have hl : (rs.map Prod.fst).length = c.results := by simp [hrs]
  have hw' := c.write_writes hw h d _ hl
  have hf : rs.foldl (fun f r => f ||| r.2) (c.write h d (rs.map Prod.fst)).fpstat = (List.range c.results).foldl (fun f j => f ||| (r j).2) h.fpstat := by
    rw [hrs, List.foldl_map, ← hrs, hw'.fpstat_eq]
  have he : c.lane d a n rnd h = { c.write h d (rs.map Prod.fst) with fpstat := (List.range c.results).foldl (fun f j => f ||| (r j).2) h.fpstat } := by
    rw [← hf]
    rfl
  rw [he]
  refine ⟨(hw'.gathered _).changes i, fun j hj => ?_⟩
  have hv : (rs.map Prod.fst).getD j 0 = (r j).1 := by simp [hrs, List.getD_eq_getElem?_getD, hj]
  rw [← hv]
  exact c.write_holds hw h i _ d _ hl hd j hj

end Sys2Proof.Machine

open Sys2Proof Sys2Proof.Machine

/-- Settles O17: each is one lane's conversion, of widths that pack. -/
theorem conversionResults : Obligations.ConversionResults := by
  unfold Obligations.ConversionResults
  intro s g d a b df sf pl rm sat z pk
  refine ⟨fun hw => ?_, fun hw => ?_, fun hw hr => ?_, fun hw => ?_⟩
  · have hp : pkOk df sf pk = true := by simp only [Instr.wf, cvtOk, Bool.and_eq_true] at hw; tauto
    exact lanesDo_of_aluOp rfl fun h => Conv.lane_converts _ (Conv.packable_of_pkOk hp) s.cur d a 0 _ h
  · have hp : pkOk df sf pk = true := by simp only [Instr.wf, Bool.and_eq_true] at hw; tauto
    exact lanesDo_of_aluOp rfl fun h => Conv.lane_converts _ (Conv.packable_of_pkOk hp) s.cur d a _ _ h
  · have hp : pkOk df sf pk = true := by simp only [Instr.wf, Bool.and_eq_true] at hw; tauto
    exact lanesDo_of_aluOp (if_neg hr) fun h => Conv.lane_converts _ (Conv.packable_of_pkOk hp) s.cur d a _ _ h
  · have hp : pkOk df sf pk = true := by simp only [Instr.wf, cvtOk, Bool.and_eq_true] at hw; tauto
    exact lanesDo_of_aluOp rfl fun h => Conv.lane_converts _ (Conv.packable_of_pkOk hp) s.cur d a 0 _ h

/-- Settles O18: the lanes of a drawing conversion convert as any other; the seeds wait for the cycle's end. -/
theorem generatorDraws : Obligations.GeneratorDraws := by
  unfold Obligations.GeneratorDraws
  refine ⟨fun s g d a b df sf pl sat z pk i k n hw hi => ?_, fun s g a w l h rest ha => ?_, fun q v n hs hn => ?_⟩
  · intro x
    have he : exec i s = k.drawn g d a n s := by
      obtain ⟨rfl, rfl, rfl⟩ | ⟨rfl, rfl, rfl⟩ := hi <;> rfl
    have hp : pkOk k.df k.sf k.pk = true := by
      obtain ⟨rfl, rfl, -⟩ | ⟨rfl, rfl, -⟩ := hi <;> simp only [Instr.wf, cvtOk, Bool.and_eq_true] at hw <;> tauto
    refine ⟨fun l h => (if h.takes g then k.lane d a (n h) (fun e => laneWord (xorshiftN (e + 1) x) l) h else h).advance s.cur, he, fun l h => ?_⟩
    by_cases ht : h.takes g = true
    · simpa only [ht, if_true] using k.lane_converts (Conv.packable_of_pkOk hp) s.cur d a (n h) _ h
    · simp only [ht]
      rfl
  · show execSrseed g a w s = _
    rw [execSrseed, ha]
    rfl
  · interval_cases n <;> exact ⟨by simp [Slot.gen, Slot.seeded, hs], rfl⟩

end

section
/-! PROOFS. What O14 says of NaNs, infinities, zeros and negative values: the arithmetic on values first, and what delivers them (R103,
R109, R175 to R179, R182). -/

namespace Sys2Proof.Machine

variable {t : Fmt} {d : Rnd} {rm : Round}

/-! ### Special values delivered -/

theorem FFlags.or_zero (f : FFlags) : f ||| 0 = f := BitVec.or_zero
theorem FFlags.zero_or (f : FFlags) : 0 ||| f = f := BitVec.zero_or

theorem ne_e4m3_of_mem (ht : t ∈ floatFmts) : t ≠ .e4m3 := by
  rintro rfl
  exact absurd ht (by decide)

theorem deliverF_nan (t : Fmt) (d : Rnd) : deliverF t d .nan = (Fmt.nanCode t, 0) := rfl

theorem deliverF_inf (ht : t ≠ .e4m3) (hs : d.sat = false) (n : Bool) : deliverF t d (.inf n) = (infOf t n, 0) := by
  rw [deliverF, if_neg (by simp [hs]), if_neg ht, infOf]

theorem roundTo_zero (t : Fmt) (d : Rnd) (n : Bool) (e : Int) : roundTo t d n 0 e = (zeroOf t n, 0) := by
  rw [roundTo, if_pos rfl, zeroOf]

theorem deliverF_zero (t : Fmt) (d : Rnd) (n : Bool) (e : Int) : deliverF t d (.fin n 0 e) = (zeroOf t n, 0) := roundTo_zero t d n e

theorem resultF_nan (t : Fmt) (d : Rnd) (f : FFlags) : resultF t d (.nan, f) = (Fmt.nanCode t, f) := by
  rw [resultF, deliverF_nan]
  exact congrArg _ (FFlags.or_zero f)

theorem resultF_inf (ht : t ≠ .e4m3) (hs : d.sat = false) (n : Bool) (f : FFlags) : resultF t d (.inf n, f) = (infOf t n, f) := by
  rw [resultF, deliverF_inf ht hs]
  exact congrArg _ (FFlags.or_zero f)

theorem resultF_zero (t : Fmt) (d : Rnd) (n : Bool) (e : Int) (f : FFlags) : resultF t d (.fin n 0 e, f) = (zeroOf t n, f) := by
  rw [resultF, deliverF_zero]
  exact congrArg _ (FFlags.or_zero f)

theorem resultF_noFlags (t : Fmt) (d : Rnd) (v : FVal) : resultF t d (v, 0) = deliverF t d v := by
  rw [resultF]
  exact Prod.ext rfl (FFlags.zero_or _)

theorem roundTo_one (ht : t ∈ floatFmts) (z : Bool) : roundTo t { ftz := z } false 1 0 = (oneCode t, 0) := by
  revert z
  simp only [floatFmts, List.mem_cons, List.not_mem_nil, or_false] at ht
  obtain rfl | rfl | rfl := ht <;> decide

/-! ### Sums, products and quotients of special values (R175) -/

theorem addF_nan_left (rm : Round) (y : FVal) : addF rm .nan y = (.nan, 0) := rfl
theorem addF_nan_right (rm : Round) (x : FVal) : addF rm x .nan = (.nan, 0) := by cases x <;> rfl
theorem mulF_nan_left (y : FVal) : mulF .nan y = (.nan, 0) := rfl
theorem mulF_nan_right (x : FVal) : mulF x .nan = (.nan, 0) := by cases x <;> rfl
theorem divF_nan_left (y : FVal) : divF .nan y = (.nan, 0) := rfl
theorem divF_nan_right (x : FVal) : divF x .nan = (.nan, 0) := by cases x <;> rfl

theorem negF_nan : negF .nan = .nan := rfl
theorem negF_inf (n : Bool) : negF (.inf n) = .inf (!n) := rfl
theorem negF_fin (n : Bool) (m : Nat) (e : Int) : negF (.fin n m e) = .fin (!n) m e := rfl

theorem addF_inf_inf (rm : Round) (n m : Bool) : addF rm (.inf n) (.inf m) = if n = m then (.inf n, 0) else (.nan, FFlags.IV) := rfl
theorem addF_inf_fin (rm : Round) (n k : Bool) (m : Nat) (e : Int) : addF rm (.inf n) (.fin k m e) = (.inf n, 0) := rfl
theorem addF_fin_inf (rm : Round) (n k : Bool) (m : Nat) (e : Int) : addF rm (.fin k m e) (.inf n) = (.inf n, 0) := rfl
theorem addF_fin_fin (rm : Round) (n k : Bool) (m l : Nat) (e f : Int) :
    addF rm (.fin n m e) (.fin k l f) = (addFin rm n m e k l f, 0) := rfl

theorem mulF_zero_inf (n m : Bool) (e : Int) : mulF (.fin n 0 e) (.inf m) = (.nan, FFlags.IV) := rfl
theorem mulF_inf_zero (n m : Bool) (e : Int) : mulF (.inf m) (.fin n 0 e) = (.nan, FFlags.IV) := rfl
theorem mulF_fin_fin (n k : Bool) (m l : Nat) (e f : Int) : mulF (.fin n m e) (.fin k l f) = (.fin (n ^^ k) (m * l) (e + f), 0) := rfl

theorem mulF_inf_nonzero {y : FVal} {m : Bool} (n : Bool) (hy : nonzero y m) : mulF (.inf n) y = (.inf (n ^^ m), 0) ∧ mulF y (.inf n) = (.inf (n ^^ m), 0) := by
  obtain rfl | ⟨k, e, rfl⟩ := hy
  · exact ⟨rfl, by rw [Bool.xor_comm]; rfl⟩
  · exact ⟨rfl, by rw [Bool.xor_comm]; rfl⟩

theorem divF_inf_inf (n m : Bool) : divF (.inf n) (.inf m) = (.nan, FFlags.IV) := rfl
theorem divF_inf_fin (n k : Bool) (m : Nat) (e : Int) : divF (.inf n) (.fin k m e) = (.inf (n ^^ k), 0) := rfl
theorem divF_fin_inf (n k : Bool) (m : Nat) (e : Int) : divF (.fin k m e) (.inf n) = (.fin (k ^^ n) 0 0, 0) := rfl
theorem divF_zero_zero (n k : Bool) (e f : Int) : divF (.fin n 0 e) (.fin k 0 f) = (.nan, FFlags.IV) := rfl
theorem divF_fin_zero (n k : Bool) (m : Nat) (e f : Int) : divF (.fin n (m + 1) e) (.fin k 0 f) = (.inf (n ^^ k), FFlags.DZ) := rfl

/-- A product of two values neither of which is a NaN, and neither of which is zero while the other is infinite, is no NaN. -/
theorem mulF_fst_eq_nan {x y : FVal} :
    (mulF x y).1 = .nan ↔ (x = .nan ∨ y = .nan) ∨ ∃ k m, isZero x k ∧ y = .inf m ∨ x = .inf m ∧ isZero y k := by
  constructor
  · intro h
    cases x with
    | nan => exact .inl (.inl rfl)
    | inf n =>
      cases y with
      | nan => exact .inl (.inr rfl)
      | inf m => exact absurd h (by simp [mulF])
      | fin m l e =>
        cases l with
        | zero => exact .inr ⟨m, n, .inr ⟨rfl, e, rfl⟩⟩
        | succ l => exact absurd h (by simp [mulF])
    | fin n k f =>
      cases y with
      | nan => exact .inl (.inr rfl)
      | inf m =>
        cases k with
        | zero => exact .inr ⟨n, m, .inl ⟨⟨f, rfl⟩, rfl⟩⟩
        | succ k => exact absurd h (by simp [mulF])
      | fin m l e => exact absurd h (by simp [mulF])
  · rintro ((rfl | rfl) | ⟨k, m, ⟨⟨e, rfl⟩, rfl⟩ | ⟨rfl, e, rfl⟩⟩)
    · rfl
    · rw [mulF_nan_right]
    · rfl
    · rfl

theorem mulF_eq_nan_noFlags {x y : FVal} : mulF x y = (.nan, 0) ↔ x = .nan ∨ y = .nan := by
  constructor
  · intro h
    obtain h | ⟨k, m, ⟨⟨e, rfl⟩, rfl⟩ | ⟨rfl, e, rfl⟩⟩ := mulF_fst_eq_nan.mp (congrArg Prod.fst h)
    · exact h
    · exact absurd (congrArg Prod.snd h) (show FFlags.IV ≠ 0 by decide)
    · exact absurd (congrArg Prod.snd h) (show FFlags.IV ≠ 0 by decide)
  · rintro (rfl | rfl)
    · rfl
    · rw [mulF_nan_right]

theorem mulF_fst_eq_inf {x y : FVal} {m : Bool} : (mulF x y).1 = .inf m ↔ infTerm x y m := by
  constructor
  · intro h
    cases x with
    | nan => exact absurd h (by simp [mulF])
    | inf n =>
      cases y with
      | nan => exact absurd h (by simp [mulF])
      | inf k => exact ⟨n, k, by simpa [mulF] using h, .inl ⟨rfl, .inl rfl⟩⟩
      | fin k l e =>
        cases l with
        | zero => exact absurd h (by simp [mulF])
        | succ l => exact ⟨n, k, by simpa [mulF] using h, .inl ⟨rfl, .inr ⟨l, e, rfl⟩⟩⟩
    | fin n k f =>
      cases y with
      | nan => exact absurd h (by simp [mulF])
      | inf j =>
        cases k with
        | zero => exact absurd h (by simp [mulF])
        | succ k => exact ⟨n, j, by simpa [mulF] using h, .inr ⟨.inr ⟨k, f, rfl⟩, rfl⟩⟩
      | fin j l e => exact absurd h (by simp [mulF])
  · rintro ⟨k, l, rfl, ⟨rfl, hy⟩ | ⟨hx, rfl⟩⟩
    · rw [(mulF_inf_nonzero k hy).1]
    · rw [(mulF_inf_nonzero l hx).2, Bool.xor_comm]

/-! ### FADD, FSUB, FMUL, FFMA, FDIV -/

/-- The special cases of the arithmetic (R103, R175), value by value. -/
theorem arithmeticSpecials_holds : arithmeticSpecials := by
  intro t rm z a b c ht
  have h4 := ne_e4m3_of_mem ht
  simp only [faddBits, fsubBits, fmulBits, fdivBits, ffmaBits]
  generalize readF t z a = x
  generalize readF t z b = y
  generalize readF t z c = w
  refine ⟨?_, ?_, ?_, ?_, ?_, ?_, ?_, ?_, ?_, ?_, ?_, ?_⟩
  · rintro (rfl | rfl)
    · simp only [addF_nan_left, mulF_nan_left, divF_nan_left, FFlags.or_zero, resultF_nan, and_self]
    · simp only [addF_nan_left, negF_nan, addF_nan_right, mulF_nan_right, divF_nan_right, FFlags.or_zero, resultF_nan, and_self]
  · rintro n m ⟨e, rfl⟩ rfl
    simp only [mulF_zero_inf, mulF_inf_zero, addF_nan_left, divF_inf_fin, FFlags.or_zero, resultF_nan, resultF_inf h4, Bool.xor_comm, and_self]
  · rintro rfl hx hy hb
    have hp : (mulF x y).1 ≠ .nan := fun h => by
      obtain (h | h) | ⟨k, m, h | h⟩ := mulF_fst_eq_nan.mp h
      · exact hx h
      · exact hy h
      · exact (hb k m).1 h
      · exact (hb k m).2 h
    have hf : (mulF x y).2 = 0 := by
      unfold mulF at hp ⊢
      split at hp <;> (try split at hp) <;> simp_all
    rw [addF_nan_right, hf]
    exact resultF_nan t _ _
  · rintro n m rfl hy
    rw [(mulF_inf_nonzero n hy).1, (mulF_inf_nonzero n hy).2]
    refine ⟨resultF_inf h4 rfl _ _, resultF_inf h4 rfl _ _, ?_, ?_⟩
    · rintro rfl
      rw [addF_inf_inf, if_neg (by simp)]
      simp only [FFlags.zero_or, resultF_nan, and_self]
    · rintro (⟨k, l, e, rfl⟩ | rfl)
      · simp only [addF_inf_fin, FFlags.zero_or, resultF_inf h4, and_self]
      · simp only [addF_inf_inf, if_true, FFlags.zero_or, resultF_inf h4, and_self]
  · rintro n ⟨k, l, e, rfl⟩ ⟨k', l', e', rfl⟩ rfl
    simp only [mulF_fin_fin, addF_fin_inf, FFlags.zero_or, resultF_inf h4]
  · rintro n rfl (⟨k, l, e, rfl⟩ | rfl)
    · exact ⟨resultF_inf h4 rfl _ _, resultF_inf h4 rfl _ _⟩
    · rw [addF_inf_inf, if_pos rfl]
      exact ⟨resultF_inf h4 rfl _ _, resultF_inf h4 rfl _ _⟩
  · rintro n rfl (⟨k, l, e, rfl⟩ | rfl)
    · exact ⟨resultF_inf h4 rfl _ _, resultF_inf h4 rfl _ _⟩
    · rw [negF_inf, negF_inf, Bool.not_not, addF_inf_inf, addF_inf_inf, if_pos rfl, if_pos rfl]
      exact ⟨resultF_inf h4 rfl _ _, resultF_inf h4 rfl _ _⟩
  · rintro n rfl rfl
    rw [addF_inf_inf, if_neg (by simp)]
    exact resultF_nan t _ _
  · rintro n m rfl rfl
    refine ⟨resultF_nan t _ _, ?_⟩
    rintro rfl
    rw [negF_inf, addF_inf_inf, if_neg (by simp)]
    exact resultF_nan t _ _
  · rintro n m ⟨e, rfl⟩ ⟨f, rfl⟩
    exact resultF_nan t _ _
  · rintro n m k e rfl ⟨f, rfl⟩
    exact resultF_inf h4 rfl _ _
  · rintro n k e m rfl rfl
    refine ⟨resultF_zero t _ _ _ _, ?_⟩
    rw [divF_inf_fin, Bool.xor_comm]
    exact resultF_inf h4 rfl _ _

/-! ### The functions of R179 -/

/-- sin(π n / d) where 2n = j d: a zero, 1 or −1 by the half turns j. -/
theorem sinPi_of_half_turns (t : Fmt) (r : Rnd) (neg zeroNeg : Bool) {n k j : Nat} (fn a : Nat) (hk : 0 < k) (h : 2 * n = j * k) :
    sinPi t r neg zeroNeg n k fn a =
      if j % 2 = 0 then roundTo t r zeroNeg 0 0 else roundTo t r (if j % 4 = 1 then neg else !neg) 1 0 := by
  have hp : 2 * (n % (2 * k)) = j % 4 * k := by
    rw [← Nat.mul_mod_mul_left, h, ← Nat.mul_assoc, Nat.mul_mod_mul_right]
  have h4 : j % 4 = 0 ∨ j % 4 = 1 ∨ j % 4 = 2 ∨ j % 4 = 3 := by omega
  unfold sinPi
  generalize n % (2 * k) = p at hp
  obtain h0 | h0 | h0 | h0 := h4 <;> rw [h0] at hp
  · have : p = 0 := by omega
    subst this
    simp [show j % 2 = 0 by omega, Nat.not_le.mpr hk]
  · simp [show j % 2 = 1 by omega, h0, show ¬k ≤ p by omega, show p ≠ 0 by omega, show 2 * p = k by omega]
  · have : p = k := by omega
    subst this
    simp [show j % 2 = 0 by omega]
  · simp [show j % 2 = 1 by omega, h0, show k ≤ p by omega, show p - k ≠ 0 by omega, show 2 * (p - k) = k by omega]

theorem fraction_pos (m : Nat) (e : Int) : 0 < (fraction m e).2 := by
  unfold fraction
  split
  · exact Nat.one_pos
  · exact Nat.two_pow_pos _

theorem fraction_zero (e : Int) : (fraction 0 e).1 = 0 := by
  unfold fraction
  split
  · exact Nat.zero_mul _
  · rfl

/-- The table of R179, value by value. -/
theorem functionSpecials_holds : functionSpecials := by
  intro t rm z a ht
  have h4 := ne_e4m3_of_mem ht
  simp only [frcpBits, frsqBits, fsqrtBits, fexp2Bits, flog2Bits, fsinBits, fcosBits]
  generalize readF t z a = x
  refine ⟨?_, ?_, ?_, ?_, ?_⟩
  · rintro rfl
    simp only [divF_nan_right, resultF_nan, deliverF_nan, and_self]
  · rintro rfl
    simp only [divF_fin_inf, Bool.false_eq_true, if_false, Bool.xor_false, resultF_zero, resultF_inf h4, deliverF_inf h4, resultF_nan, and_self]
  · rintro rfl
    simp only [divF_fin_inf, if_true, Bool.false_xor, resultF_zero, deliverF_zero, resultF_nan, and_self]
  · rintro n ⟨e, rfl⟩
    have hs := sinPi_of_half_turns t { ftz := z } n n 2 a (fraction_pos 0 e) (n := (fraction 0 e).1) (j := 0) (by rw [fraction_zero]; omega)
    have hc := sinPi_of_half_turns t { ftz := z } false false 3 a (k := 2 * (fraction 0 e).2) (n := 2 * (fraction 0 e).1 + (fraction 0 e).2) (j := 1)
      (by have := fraction_pos 0 e; omega) (by rw [fraction_zero]; omega)
    refine ⟨?_, resultF_inf h4 rfl _ _, resultF_zero t _ _ _ _, roundTo_one ht z, resultF_inf h4 rfl _ _, ?_, ?_⟩
    · rw [show divF (.fin false 1 0) (.fin n 0 e) = (.inf (false ^^ n), FFlags.DZ) from rfl, Bool.false_xor]
      exact resultF_inf h4 rfl _ _
    · exact hs.trans (roundTo_zero t { ftz := z } n 0)
    · exact hc.trans (roundTo_one ht z)
  · rintro m e rfl
    exact ⟨resultF_nan t _ _, resultF_nan t _ _, resultF_nan t _ _⟩

/-! ### FMIN, FMAX, FCMP (R176, R177) -/

theorem compareF_nan {x y : FVal} (h : x = .nan ∨ y = .nan) : compareF x y = none := by
  obtain rfl | rfl := h
  · rfl
  · cases x <;> rfl

theorem compareF_zero (n n' : Bool) (e e' : Int) : compareF (.fin n 0 e) (.fin n' 0 e') = some 0 := by
  cases n <;> cases n' <;> simp [compareF, signInt]

theorem minmaxF_nan_left (max : Bool) (y : FVal) : minmaxF max .nan y = y := rfl
theorem minmaxF_nan_right (max : Bool) (x : FVal) : minmaxF max x .nan = x := by cases x <;> rfl

theorem minmaxF_of_ne_nan {x y : FVal} (max : Bool) (hx : x ≠ .nan) (hy : y ≠ .nan) : minmaxF max x y = if belowF y x != max then y else x := by
  cases x with
  | nan => exact absurd rfl hx
  | inf n => cases y <;> first | exact absurd rfl hy | rfl
  | fin n m e => cases y <;> first | exact absurd rfl hy | rfl

/-- FMIN, FMAX and FCMP of special values (R176, R177). -/
theorem minmaxAndCompareSpecials (ht : t ∈ floatFmts) (z m : Bool) (a b : Nat) :
    (readF t z a = .nan → fminBits t z m a b = deliverF t {} (readF t z b))
    ∧ (readF t z b = .nan → fminBits t z m a b = deliverF t {} (readF t z a))
    ∧ (isZero (readF t z a) true → isZero (readF t z b) false →
        fminBits t z m a b = (zeroOf t (!m), 0) ∧ fminBits t z m b a = (zeroOf t (!m), 0))
    ∧ (∀ n, readF t z a = .inf n → isFinite (readF t z b) → fminBits t z n a b = deliverF t {} (readF t z b)
        ∧ fminBits t z (!n) a b = (infOf t n, 0) ∧ fcmpBits .lt t z a b = (n, 0) ∧ fcmpBits .gt t z a b = (!n, 0) ∧ fcmpBits .lt t z b a = (!n, 0)
        ∧ fcmpBits .eq t z a b = (false, 0))
    ∧ (∀ k : FCond, (readF t z a = .nan ∨ readF t z b = .nan) → fcmpBits k t z a b = (decide (k = .ne ∨ k = .un),
        if k = .lt ∨ k = .le ∨ k = .gt ∨ k = .ge then FFlags.IV else 0))
    ∧ (∀ n n', isZero (readF t z a) n → isZero (readF t z b) n' → fcmpBits .eq t z a b = (true, 0)) := by
  have h4 := ne_e4m3_of_mem ht
  simp only [fminBits, fcmpBits]
  generalize readF t z a = x
  generalize readF t z b = y
  refine ⟨?_, ?_, ?_, ?_, ?_, ?_⟩
  · rintro rfl
    rw [minmaxF_nan_left]
  · rintro rfl
    rw [minmaxF_nan_right]
  · rintro ⟨e, rfl⟩ ⟨f, rfl⟩
    rw [minmaxF_of_ne_nan _ (by simp) (by simp), minmaxF_of_ne_nan _ (by simp) (by simp)]
    simp only [belowF, compareF_zero, signOf]
    cases m <;> simp [deliverF_zero]
  · rintro n rfl ⟨k, l, e, rfl⟩
    rw [minmaxF_of_ne_nan _ (by simp) (by simp), minmaxF_of_ne_nan _ (by simp) (by simp)]
    have h1 : compareF (.inf n) (.fin k l e) = some (if n then -1 else 1) := rfl
    have h2 : compareF (.fin k l e) (.inf n) = some (if n then 1 else -1) := rfl
    simp only [belowF, h1, h2]
    cases n <;> simp [signOf, deliverF_inf h4]
  · intro k h
    rw [compareF_nan h]
    cases k <;> rfl
  · rintro n n' ⟨e, rfl⟩ ⟨f, rfl⟩
    rw [compareF_zero]
    rfl

/-! ### Dot products (R182) -/

theorem isFinite_addFin (rm : Round) (n : Bool) (m : Nat) (e : Int) (k : Bool) (l : Nat) (f : Int) : isFinite (addFin rm n m e k l f) := by
  unfold addFin
  dsimp only
  generalize (_ + _ : Int) = v
  by_cases h : v = 0
  · rw [if_pos h]
    exact ⟨_, _, _, rfl⟩
  · rw [if_neg h]
    exact ⟨_, _, _, rfl⟩

/-- A sum of values without a NaN or an infinity of the other sign, one of which is an infinity, is that infinity. -/
theorem foldl_addF_inf (rm : Round) (m : Bool) : ∀ (l : List (FVal × FFlags)) (v : FVal),
    (v ≠ .nan ∧ v ≠ .inf !m) → (∀ p ∈ l, p.1 ≠ .nan ∧ p.1 ≠ .inf !m) → (v = .inf m ∨ ∃ p ∈ l, p.1 = .inf m) →
    l.foldl (fun v p => addF rm v.1 p.1) (v, 0) = (.inf m, 0)
  | [], v, _, _, h => by
    obtain rfl | ⟨p, hp, -⟩ := h
    · rfl
    · exact absurd hp List.not_mem_nil
  | (p, f) :: l, v, hv, hl, h => by
    have hp := hl (p, f) List.mem_cons_self
    have hl' := fun q hq => hl q (List.mem_cons_of_mem _ hq)
    have hinf : ∀ n, n ≠ (!m) → n = m := fun n => Bool.ne_not.mp
    rw [List.foldl_cons]
    cases v with
    | nan => exact absurd rfl hv.1
    | inf n =>
      have hn : n = m := hinf n fun e => hv.2 (congrArg _ e)
      subst hn
      have hs : addF rm (.inf n) p = (.inf n, 0) := by
        cases p with
        | nan => exact absurd rfl hp.1
        | inf k =>
          have hk : k = n := hinf k fun e => hp.2 (congrArg _ e)
          rw [addF_inf_inf, if_pos hk.symm]
        | fin k j e => rfl
      show l.foldl _ (addF rm (.inf n) p) = _
      rw [hs]
      exact foldl_addF_inf rm n l _ hv hl' (.inl rfl)
    | fin k j e =>
      cases p with
      | nan => exact absurd rfl hp.1
      | inf n =>
        have hn : n = m := hinf n fun e => hp.2 (congrArg _ e)
        subst hn
        exact foldl_addF_inf rm n l _ hp hl' (.inl rfl)
      | fin k' j' e' =>
        obtain ⟨a, b, c, hf⟩ := isFinite_addFin rm k j e k' j' e'
        show l.foldl _ (addFin rm k j e k' j' e', 0) = _
        rw [hf]
        refine foldl_addF_inf rm m l _ ⟨by simp, by simp⟩ hl' (.inr ?_)
        obtain h | ⟨q, hq, h⟩ := h
        · exact absurd h (by simp)
        · obtain rfl | hq := List.mem_cons.mp hq
          · exact absurd h (by simp)
          · exact ⟨q, hq, h⟩

section
variable {c : FVal} {l : List (FVal × FFlags)}

theorem dotF_of_nan (h : c = .nan ∨ (.nan, 0) ∈ l) : dotF rm c l = (.nan, 0) := by
  rw [dotF, if_pos]
  simpa using h

theorem dotF_of_invalid (hc : c ≠ .nan) (hl : (.nan, 0) ∉ l)
    (h : (∃ p ∈ l, p.1 = .nan) ∨ ((c = .inf true ∨ ∃ p ∈ l, p.1 = .inf true) ∧ (c = .inf false ∨ ∃ p ∈ l, p.1 = .inf false))) :
    dotF rm c l = (.nan, FFlags.IV) := by
  rw [dotF, if_neg (by simp only [Bool.or_eq_true, decide_eq_true_eq, List.contains_eq_mem]; tauto), if_pos]
  obtain ⟨p, hp, h⟩ | ⟨h1, h2⟩ := h
  · simp only [List.contains_eq_mem, List.mem_cons, List.mem_map, Bool.or_eq_true, decide_eq_true_eq]
    exact .inl (.inr ⟨p, hp, h⟩)
  · simp only [List.contains_eq_mem, List.mem_cons, List.mem_map, Bool.or_eq_true, Bool.and_eq_true, decide_eq_true_eq]
    exact .inr ⟨h1.imp_left Eq.symm, h2.imp_left Eq.symm⟩

/-- With no NaN among the terms and infinities of one sign at most, the terms are summed. -/
theorem dotF_eq_sum (hc : c ≠ .nan) (hl : ∀ p ∈ l, p.1 ≠ .nan) (hi : ∃ m, c ≠ .inf m ∧ ∀ p ∈ l, p.1 ≠ .inf m) :
    dotF rm c l = l.foldl (fun v p => addF rm v.1 p.1) (c, 0) := by
  obtain ⟨m, hm, hi⟩ := hi
  have h0 : (FVal.nan, (0 : FFlags)) ∉ l := fun h => hl _ h rfl
  have h1 : FVal.nan ∉ c :: l.map Prod.fst := by
    rintro h
    obtain h | h := List.mem_cons.mp h
    · exact hc h.symm
    · obtain ⟨p, hp, h⟩ := List.mem_map.mp h
      exact hl p hp h
  have h2 : FVal.inf m ∉ c :: l.map Prod.fst := by
    rintro h
    obtain h | h := List.mem_cons.mp h
    · exact hm h.symm
    · obtain ⟨p, hp, h⟩ := List.mem_map.mp h
      exact hi p hp h
  rw [dotF, if_neg (by simp only [Bool.or_eq_true, decide_eq_true_eq, List.contains_eq_mem]; tauto), if_neg]
  cases m <;> simp only [List.contains_eq_mem, h1, h2] <;> simp

end

/-- The products of a dot product. -/
def dotProducts (n : Nat) (t : Fmt) (z : Bool) (a b : Nat) : List (FVal × FFlags) :=
  (List.range n).map fun i => mulF (readF t z (element t.bits a i)) (readF t z (element t.bits b i))

theorem dotBits_eq (n : Nat) (t : Fmt) (rm : Round) (z : Bool) (a b c : Nat) :
    dotBits n t rm z a b c = resultF .f32 { mode := rm, ftz := z } (dotF rm (readF .f32 z c) (dotProducts n t z a b)) := rfl

theorem mem_dotProducts {n : Nat} {z : Bool} {a b : Nat} {p : FVal × FFlags} :
    p ∈ dotProducts n t z a b ↔ ∃ i < n, mulF (readF t z (element t.bits a i)) (readF t z (element t.bits b i)) = p := by
  simp [dotProducts]

/-- The dot products on NaNs, on zero times infinity and on infinite terms (R182). -/
theorem dotSpecials (t : Fmt) (n : Nat) (rm : Round) (z : Bool) (a b c : Nat) :
    let x := fun i => readF t z (element t.bits a i)
    let y := fun i => readF t z (element t.bits b i)
    ((readF .f32 z c = .nan ∨ ∃ i < n, x i = .nan ∨ y i = .nan) → dotBits n t rm z a b c = (Fmt.nanCode .f32, 0))
    ∧ (readF .f32 z c ≠ .nan → (∀ i < n, x i ≠ .nan ∧ y i ≠ .nan) →
        (∃ i < n, ∃ k m, isZero (x i) k ∧ y i = .inf m ∨ x i = .inf m ∧ isZero (y i) k) → dotBits n t rm z a b c = (Fmt.nanCode .f32, FFlags.IV))
    ∧ (let has := fun m => readF .f32 z c = .inf m ∨ ∃ i < n, infTerm (x i) (y i) m
       readF .f32 z c ≠ .nan → (∀ i < n, x i ≠ .nan ∧ y i ≠ .nan) →
        (¬∃ i < n, ∃ k m, isZero (x i) k ∧ y i = .inf m ∨ x i = .inf m ∧ isZero (y i) k) →
        (has true → has false → dotBits n t rm z a b c = (Fmt.nanCode .f32, FFlags.IV))
        ∧ ∀ m, has m → ¬has (!m) → dotBits n t rm z a b c = (infOf .f32 m, 0)) := by
  intro x y
  rw [dotBits_eq]
  set l := dotProducts n t z a b
  have nan_mem : (FVal.nan, 0) ∈ l ↔ ∃ i < n, x i = .nan ∨ y i = .nan := by
    simp only [l, mem_dotProducts, mulF_eq_nan_noFlags, x, y]
  have fst_mem : ∀ v, (∃ p ∈ l, p.1 = v) ↔ ∃ i < n, (mulF (x i) (y i)).1 = v := fun v => by
    simp only [l, mem_dotProducts, x, y]
    exact ⟨fun ⟨p, ⟨i, hi, hp⟩, hv⟩ => ⟨i, hi, hp ▸ hv⟩, fun ⟨i, hi, hv⟩ => ⟨_, ⟨i, hi, rfl⟩, hv⟩⟩
  have no_nan : (∀ i < n, x i ≠ .nan ∧ y i ≠ .nan) → (FVal.nan, 0) ∉ l := fun h hm => by
    obtain ⟨i, hi, h' | h'⟩ := nan_mem.mp hm
    · exact (h i hi).1 h'
    · exact (h i hi).2 h'
  refine ⟨fun h => ?_, fun hc hxy ⟨i, hi, h⟩ => ?_, ?_⟩
  · rw [dotF_of_nan (h.imp_right nan_mem.mpr), resultF_nan]
  · rw [dotF_of_invalid hc (no_nan hxy) (.inl ((fst_mem _).mpr ⟨i, hi, mulF_fst_eq_nan.mpr (.inr h)⟩)), resultF_nan]
  · intro has hc hxy hbad
    have has_iff : ∀ m, has m ↔ (readF .f32 z c = .inf m ∨ ∃ p ∈ l, p.1 = .inf m) := fun m => by
      simp only [has, fst_mem, mulF_fst_eq_inf]
    have fst_ne_nan : ∀ p ∈ l, p.1 ≠ .nan := fun p hp hn => by
      obtain ⟨i, hi, h⟩ := (fst_mem _).mp ⟨p, hp, hn⟩
      obtain (h | h) | h := mulF_fst_eq_nan.mp h
      · exact (hxy i hi).1 h
      · exact (hxy i hi).2 h
      · exact hbad ⟨i, hi, h⟩
    refine ⟨fun h1 h2 => ?_, fun m hm hno => ?_⟩
    · rw [dotF_of_invalid hc (no_nan hxy) (.inr ⟨(has_iff _).mp h1, (has_iff _).mp h2⟩), resultF_nan]
    · have hno' : readF .f32 z c ≠ .inf !m ∧ ∀ p ∈ l, p.1 ≠ .inf !m := by
        rw [has_iff] at hno
        exact ⟨fun h => hno (.inl h), fun p hp h => hno (.inr ⟨p, hp, h⟩)⟩
      rw [dotF_eq_sum hc fst_ne_nan ⟨!m, hno'⟩,
        foldl_addF_inf rm m l _ ⟨hc, hno'.1⟩ (fun p hp => ⟨fst_ne_nan p hp, hno'.2 p hp⟩) ((has_iff m).mp hm)]
      exact resultF_inf (by decide) rfl _ _

end Sys2Proof.Machine

open Sys2Proof Sys2Proof.Machine

/-- Settles O14: the arithmetic, the functions, the comparisons and the dot products on special operands. -/
theorem floatSpecialOperands : Obligations.FloatSpecialOperands := by
  unfold Obligations.FloatSpecialOperands
  exact ⟨arithmeticSpecials_holds, functionSpecials_holds, fun t z m a b ht => minmaxAndCompareSpecials ht z m a b, dotSpecials⟩

end

section
/-! PROOFS. Rounding of real values, which O15, O19 and O50 rest on: between two neighbours of a grid the mode chooses one (R107, R116), and
`roundAt` makes the same choice, of an exact value or of one that stands for it with a last bit set (R175, R179). -/

namespace Sys2Proof.Machine

/-! ### Magnitudes and signs -/

/-- The factor of a sign. -/
def signFactor (neg : Bool) : ℝ := if neg then -1 else 1

@[simp] theorem signFactor_false : signFactor false = 1 := rfl
@[simp] theorem signFactor_true : signFactor true = -1 := rfl
@[simp] theorem abs_signFactor (neg : Bool) : |signFactor neg| = 1 := by cases neg <;> simp
theorem signFactor_mul_self (neg : Bool) : signFactor neg * signFactor neg = 1 := by cases neg <;> simp
theorem signFactor_not (neg : Bool) : signFactor (!neg) = -signFactor neg := by cases neg <;> simp
theorem signFactor_xor (n m : Bool) : signFactor (n ^^ m) = signFactor n * signFactor m := by cases n <;> cases m <;> simp

theorem abs_signFactor_mul (neg : Bool) (x : ℝ) : |signFactor neg * x| = |x| := by rw [abs_mul, abs_signFactor, one_mul]

theorem realOf_fin (neg : Bool) (m : Nat) (e : Int) : realOf (.fin neg m e) = signFactor neg * (m * (2 : ℝ) ^ e) := by
  cases neg <;> simp [realOf]

/-! ### The choice between two neighbours (R107, R116) -/

/-- A magnitude that lies at the part f between two neighbours, of which the lower is odd or even, goes to the upper one. -/
def goesUp (d : Rnd) (neg odd : Bool) (f : ℝ) : Prop :=
  match d.mode with
  | .rne => 1 / 2 < f ∨ f = 1 / 2 ∧ odd = true
  | .rtz => False
  | .rup => neg = false ∧ f ≠ 0
  | .rdn => neg = true ∧ f ≠ 0
  | .rsr => (d.s : ℤ) < ⌊f * 2 ^ 24⌋

theorem not_goesUp_zero (d : Rnd) (neg odd : Bool) : ¬goesUp d neg odd 0 := by
  unfold goesUp
  cases d.mode <;> simp

/-- n is the magnitude x rounded to an integer. -/
def roundsInt (d : Rnd) (neg : Bool) (x : ℝ) (n : Nat) : Prop :=
  ∃ k : ℕ, (k : ℝ) ≤ x ∧ x < k + 1 ∧ (goesUp d neg (k % 2 == 1) (x - k) ∧ n = k + 1 ∨ ¬goesUp d neg (k % 2 == 1) (x - k) ∧ n = k)

theorem roundsInt_natCast (d : Rnd) (neg : Bool) (n : Nat) : roundsInt d neg n n :=
  ⟨n, le_rfl, lt_add_one _, .inr ⟨by rw [sub_self]; exact not_goesUp_zero _ _ _, rfl⟩⟩

theorem roundsInt.eq_iff {d : Rnd} {neg : Bool} {x : ℝ} {n : Nat} (h : roundsInt d neg x n) {k : ℕ} (hk : (k : ℝ) ≤ x) (hx : x < k + 1) :
    (n : ℝ) = x ↔ x = k := by
  obtain ⟨j, hj, hj', h⟩ := h
  have hjk : j = k := by
    have h1 : (j : ℝ) < k + 1 := hj.trans_lt hx
    have h2 : (k : ℝ) < j + 1 := hk.trans_lt hj'
    norm_cast at h1 h2
    omega
  subst hjk
  obtain ⟨hu, rfl⟩ | ⟨-, rfl⟩ := h
  · constructor
    · intro h
      push_cast at h
      exact absurd h hj'.ne'
    · intro h
      rw [h, sub_self] at hu
      exact absurd hu (not_goesUp_zero _ _ _)
  · exact eq_comm

/-- Neighbours k u and (k + 1) u of a grid, with no point of the grid between them. -/
structure Neighbours (G E : ℝ → Prop) (neg : Bool) (u : ℝ) (k : ℕ) : Prop where
  lower : G (signFactor neg * (k * u))
  upper : G (signFactor neg * ((k + 1 : ℕ) * u))
  between : ∀ g, G g → |g| ≤ k * u ∨ (k + 1) * u ≤ |g|
  lowerEven : k % 2 = 0 → E (signFactor neg * (k * u))
  upperEven : (k + 1) % 2 = 0 → E (signFactor neg * ((k + 1 : ℕ) * u))

section
variable {G E : ℝ → Prop} {d : Rnd} {neg : Bool} {x u : ℝ} {k n : ℕ}

/-- The nearer of two neighbours is nearest of all the grid, and a tie is one of the two neighbours only. -/
theorem Neighbours.nearest (hN : Neighbours G E neg u k) (hu : 0 < u) (hk : (k : ℝ) ≤ x) (hx : x < k + 1)
    (hn : n = k ∧ x - k ≤ 1 / 2 ∨ n = k + 1 ∧ 1 / 2 ≤ x - k) {g : ℝ} (hg : G g) :
    |signFactor neg * (x * u) - signFactor neg * (n * u)| ≤ |signFactor neg * (x * u) - g|
      ∧ (g ≠ signFactor neg * (n * u) → |signFactor neg * (x * u) - g| = |signFactor neg * (x * u) - signFactor neg * (n * u)| → x - k = 1 / 2) := by
  obtain ⟨y, rfl⟩ : ∃ y, g = signFactor neg * y := ⟨signFactor neg * g, by rw [← mul_assoc, signFactor_mul_self, one_mul]⟩
  have hb := hN.between _ hg
  rw [abs_signFactor_mul] at hb
  have hne : signFactor neg * y ≠ signFactor neg * (n * u) → y ≠ n * u := fun h e => h (by rw [e])
  rw [← mul_sub, ← mul_sub, abs_signFactor_mul, abs_signFactor_mul]
  have hku : (k : ℝ) * u ≤ x * u := mul_le_mul_of_nonneg_right hk hu.le
  have hxu : x * u < (k + 1) * u := mul_lt_mul_of_pos_right hx hu
  have hk0 : 0 ≤ (k : ℝ) * u := mul_nonneg (Nat.cast_nonneg k) hu.le
  obtain ⟨rfl, hf⟩ | ⟨rfl, hf⟩ := hn
  · have hf' : x * u - n * u ≤ (n + 1) * u - x * u := by nlinarith
    rw [abs_of_nonneg (sub_nonneg.mpr hku)]
    refine ⟨?_, fun h1 h2 => ?_⟩
    · obtain hb | hb := hb
      · exact le_abs.mpr (.inl (by linarith [le_abs_self y]))
      · obtain ⟨hy, hy'⟩ | ⟨hy, hy'⟩ := abs_cases y
        · exact le_abs.mpr (.inr (by linarith))
        · exact le_abs.mpr (.inl (by linarith))
    · by_contra hlt
      have hlt' : x * u - n * u < (n + 1) * u - x * u := by
        have : x - n < 1 / 2 := lt_of_le_of_ne hf hlt
        nlinarith
      refine hne h1 ?_
      obtain hb | hb := hb
      · obtain ⟨hy, hy'⟩ | ⟨hy, hy'⟩ := abs_cases (x * u - y)
        · linarith
        · linarith [le_abs_self y]
      · obtain ⟨hy, hy'⟩ | ⟨hy, hy'⟩ := abs_cases y
        · linarith [neg_abs_le (x * u - y)]
        · linarith [le_abs_self (x * u - y)]
  · have hf' : (k + 1) * u - x * u ≤ x * u - k * u := by nlinarith
    push_cast at hne ⊢
    rw [abs_of_nonpos (sub_nonpos.mpr hxu.le)]
    refine ⟨?_, fun h1 h2 => ?_⟩
    · obtain hb | hb := hb
      · exact le_abs.mpr (.inl (by linarith [le_abs_self y]))
      · obtain ⟨hy, hy'⟩ | ⟨hy, hy'⟩ := abs_cases y
        · exact le_abs.mpr (.inr (by linarith))
        · exact le_abs.mpr (.inl (by linarith))
    · by_contra hlt
      have hlt' : (k + 1) * u - x * u < x * u - k * u := by
        have : 1 / 2 < x - k := lt_of_le_of_ne hf (Ne.symm hlt)
        nlinarith
      refine hne h1 ?_
      obtain hb | hb := hb
      · linarith [le_abs_self y, le_abs_self (x * u - y)]
      · obtain ⟨hy, hy'⟩ | ⟨hy, hy'⟩ := abs_cases y
        · obtain ⟨hz, hz'⟩ | ⟨hz, hz'⟩ := abs_cases (x * u - y)
          · linarith
          · linarith
        · linarith [le_abs_self (x * u - y)]

/-- The lower neighbour is the grid's greatest point in magnitude that is not beyond the value. -/
theorem Neighbours.inner (hN : Neighbours G E neg u k) (hu : 0 < u) (hk : (k : ℝ) ≤ x) (hx : x < k + 1) :
    let w := signFactor neg * (k * u)
    let v := signFactor neg * (x * u)
    G w ∧ 0 ≤ v * w ∧ |w| ≤ |v| ∧ ∀ g, G g → |g| ≤ |v| → |g| ≤ |w| := by
  intro w v
  have hk0 : 0 ≤ (k : ℝ) * u := mul_nonneg (Nat.cast_nonneg k) hu.le
  have hku : (k : ℝ) * u ≤ x * u := mul_le_mul_of_nonneg_right hk hu.le
  have hxu : x * u < (k + 1) * u := mul_lt_mul_of_pos_right hx hu
  have hw : |w| = k * u := by rw [abs_signFactor_mul, abs_of_nonneg hk0]
  have hv : |v| = x * u := by rw [abs_signFactor_mul, abs_of_nonneg (hk0.trans hku)]
  refine ⟨hN.lower, ?_, by rwa [hw, hv], fun g hg h => ?_⟩
  · have : v * w = x * u * (k * u) := by
      show signFactor neg * (x * u) * (signFactor neg * (k * u)) = _
      rw [mul_mul_mul_comm, signFactor_mul_self, one_mul]
    rw [this]
    exact mul_nonneg (hk0.trans hku) hk0
  · rw [hv] at h
    rw [hw]
    exact (hN.between g hg).resolve_right fun h' => absurd (h'.trans h) (not_le.mpr hxu)

/-- The upper neighbour of a value that is no grid point is the least in magnitude that is not below it. -/
theorem Neighbours.outer (hN : Neighbours G E neg u k) (hu : 0 < u) (hk : (k : ℝ) < x) (hx : x < k + 1) :
    let w := signFactor neg * ((k + 1 : ℕ) * u)
    let v := signFactor neg * (x * u)
    G w ∧ 0 ≤ v * w ∧ |v| ≤ |w| ∧ ∀ g, G g → |v| ≤ |g| → |w| ≤ |g| := by
  intro w v
  have hk0 : 0 ≤ (k : ℝ) * u := mul_nonneg (Nat.cast_nonneg k) hu.le
  have hku : (k : ℝ) * u < x * u := mul_lt_mul_of_pos_right hk hu
  have hxu : x * u < (k + 1) * u := mul_lt_mul_of_pos_right hx hu
  have hw : |w| = (k + 1) * u := by
    rw [abs_signFactor_mul, abs_of_nonneg (mul_nonneg (Nat.cast_nonneg _) hu.le)]
    push_cast
    rfl
  have hv : |v| = x * u := by rw [abs_signFactor_mul, abs_of_nonneg (hk0.trans hku.le)]
  refine ⟨hN.upper, ?_, by rw [hw, hv]; exact hxu.le, fun g hg h => ?_⟩
  · have : v * w = x * u * ((k + 1 : ℕ) * u) := by
      show signFactor neg * (x * u) * (signFactor neg * ((k + 1 : ℕ) * u)) = _
      rw [mul_mul_mul_comm, signFactor_mul_self, one_mul]
    rw [this]
    exact mul_nonneg (hk0.trans hku.le) (mul_nonneg (Nat.cast_nonneg _) hu.le)
  · rw [hv] at h
    rw [hw]
    exact (hN.between g hg).resolve_left fun h' => absurd (h.trans h') (not_le.mpr hku)

/-- What a mode chooses for a value between two neighbours of a grid. -/
theorem chooses_of_neighbours (hN : ∀ k : ℕ, (k : ℝ) ≤ x → x < k + 1 → Neighbours G E neg u k) (hu : 0 < u) (hr : roundsInt d neg x n) :
    chooses G E d (signFactor neg * (x * u)) (signFactor neg * (n * u)) := by
  obtain ⟨k, hk, hx, hr⟩ := hr
  have hN := hN k hk hx
  have hk0 : 0 ≤ (k : ℝ) * u := mul_nonneg (Nat.cast_nonneg k) hu.le
  have hku : (k : ℝ) * u ≤ x * u := mul_le_mul_of_nonneg_right hk hu.le
  have hxu : x * u < (k + 1) * u := mul_lt_mul_of_pos_right hx hu
  have habs : ∀ g, g ≤ |g| ∧ -g ≤ |g| := fun g => ⟨le_abs_self g, neg_le_abs g⟩
  have hGn : G (signFactor neg * (n * u)) := by
    obtain ⟨-, rfl⟩ | ⟨-, rfl⟩ := hr
    · exact hN.upper
    · exact hN.lower
  unfold goesUp at hr
  unfold chooses
  dsimp only
  cases hm : d.mode with
  | rne =>
    simp only [hm] at hr ⊢
    have hside : n = k ∧ x - k ≤ 1 / 2 ∨ n = k + 1 ∧ 1 / 2 ≤ x - k := by
      obtain ⟨hu, rfl⟩ | ⟨hu, rfl⟩ := hr
      · exact .inr ⟨rfl, hu.elim le_of_lt fun h => h.1.ge⟩
      · exact .inl ⟨rfl, not_lt.mp fun h => hu (.inl h)⟩
    refine ⟨hGn, fun g hg => (hN.nearest hu hk hx hside hg).1, fun ⟨g, hg, hne, he⟩ => ?_⟩
    have hhalf := (hN.nearest hu hk hx hside hg).2 hne he
    obtain ⟨hu, rfl⟩ | ⟨hu, rfl⟩ := hr
    · refine hN.upperEven ?_
      obtain h | ⟨-, h⟩ := hu
      · exact absurd hhalf h.ne'
      · have : k % 2 = 1 := by simpa using h
        omega
    · refine hN.lowerEven ?_
      have : ¬(n % 2 = 1) := fun h => hu (.inr ⟨hhalf, by simpa using h⟩)
      omega
  | rtz =>
    simp only [hm, false_and, not_false_eq_true, true_and, false_or] at hr ⊢
    subst hr
    exact hN.inner hu hk hx
  | rup =>
    simp only [hm] at hr ⊢
    refine ⟨hGn, ?_, fun g hg h => ?_⟩
    · obtain ⟨⟨rfl, -⟩, rfl⟩ | ⟨hu, rfl⟩ := hr
      · simpa using hxu.le
      · cases neg with
        | true => simpa using hku
        | false =>
          have h0 : x - n = 0 := by simpa using hu
          rw [show x = n by linarith]
    · have hb := hN.between g hg
      obtain ⟨⟨rfl, h0⟩, rfl⟩ | ⟨hu, rfl⟩ := hr
      · have hlt : (k : ℝ) * u < x * u := mul_lt_mul_of_pos_right (lt_of_le_of_ne hk fun e => h0 (by rw [e, sub_self])) hu
        simp only [signFactor_false, one_mul] at h ⊢
        push_cast
        obtain ⟨h1, h1'⟩ | ⟨h1, h1'⟩ := abs_cases g <;> obtain hb | hb := hb <;> linarith
      · cases neg with
        | true =>
          simp only [signFactor_true, neg_mul, one_mul] at h ⊢
          obtain ⟨h1, h1'⟩ | ⟨h1, h1'⟩ := abs_cases g <;> obtain hb | hb := hb <;> linarith
        | false =>
          have h0 : x - n = 0 := by simpa using hu
          rwa [show x = n by linarith] at h
  | rdn =>
    simp only [hm] at hr ⊢
    refine ⟨hGn, ?_, fun g hg h => ?_⟩
    · obtain ⟨⟨rfl, -⟩, rfl⟩ | ⟨hu, rfl⟩ := hr
      · simpa using hxu.le
      · cases neg with
        | false => simpa using hku
        | true =>
          have h0 : x - n = 0 := by simpa using hu
          rw [show x = n by linarith]
    · have hb := hN.between g hg
      obtain ⟨⟨rfl, h0⟩, rfl⟩ | ⟨hu, rfl⟩ := hr
      · have hlt : (k : ℝ) * u < x * u := mul_lt_mul_of_pos_right (lt_of_le_of_ne hk fun e => h0 (by rw [e, sub_self])) hu
        simp only [signFactor_true, neg_mul, one_mul] at h ⊢
        push_cast
        obtain ⟨h1, h1'⟩ | ⟨h1, h1'⟩ := abs_cases g <;> obtain hb | hb := hb <;> linarith
      · cases neg with
        | false =>
          simp only [signFactor_false, one_mul] at h ⊢
          obtain ⟨h1, h1'⟩ | ⟨h1, h1'⟩ := abs_cases g <;> obtain hb | hb := hb <;> linarith
        | true =>
          have h0 : x - n = 0 := by simpa using hu
          rwa [show x = n by linarith] at h
  | rsr =>
    simp only [hm] at hr ⊢
    obtain hlt | heq := hk.lt_or_eq
    · refine ⟨_, _, hN.inner hu hk hx, hN.outer hu hlt hx, fun h => ?_, fun _ => ?_⟩
      · have := congrArg abs h
        rw [abs_signFactor_mul, abs_signFactor_mul, abs_of_nonneg hk0, abs_of_nonneg (mul_nonneg (Nat.cast_nonneg _) hu.le)] at this
        push_cast at this
        linarith
      · have hf : (|signFactor neg * (x * u)| - |signFactor neg * (k * u)|) / (|signFactor neg * ((k + 1 : ℕ) * u)| - |signFactor neg * (k * u)|)
            = x - k := by
          rw [abs_signFactor_mul, abs_signFactor_mul, abs_signFactor_mul, abs_of_nonneg hk0, abs_of_nonneg (hk0.trans hku),
            abs_of_nonneg (mul_nonneg (Nat.cast_nonneg _) hu.le), div_eq_iff (by push_cast; linarith)]
          push_cast
          ring
        rw [hf]
        obtain ⟨hs, rfl⟩ | ⟨hs, rfl⟩ := hr
        · exact ⟨fun _ => rfl, fun h => absurd hs (not_lt.mpr h)⟩
        · exact ⟨fun h => absurd h hs, fun _ => rfl⟩
    · have hn : n = k := by
        obtain ⟨hs, -⟩ | ⟨-, h⟩ := hr
        · rw [heq, sub_self, zero_mul, Int.floor_zero] at hs
          omega
        · exact h
      subst hn
      refine ⟨_, _, hN.inner hu hk hx, ?_, fun _ => rfl, fun h => absurd rfl h⟩
      rw [← heq]
      exact ⟨hN.lower, mul_self_nonneg _, le_rfl, fun g _ h => h⟩

end

/-! ### The grids of the formats and of the integers (R107, R112) -/

theorem neighbours_integers (neg : Bool) (k : ℕ) : Neighbours (fun w => ∃ i : ℤ, w = i) (fun w => ∃ i : ℤ, Even i ∧ w = i) neg 1 k where
  lower := ⟨if neg then -k else k, by cases neg <;> simp⟩
  upper := ⟨if neg then -(k + 1) else k + 1, by cases neg <;> simp⟩
  between := by
    rintro g ⟨i, rfl⟩
    rw [mul_one, mul_one, ← Int.cast_abs]
    have h : |i| ≤ k ∨ (k : ℤ) + 1 ≤ |i| := by omega
    exact h.imp (fun h => by exact_mod_cast h) fun h => by exact_mod_cast h
  lowerEven h := ⟨if neg then -k else k, by
    have : Even (k : ℤ) := by exact_mod_cast Nat.even_iff.mpr h
    cases neg <;> simpa using this, by cases neg <;> simp⟩
  upperEven h := ⟨if neg then -(k + 1) else k + 1, by
    have : Even ((k : ℤ) + 1) := by exact_mod_cast Nat.even_iff.mpr h
    cases neg
    · simpa using this
    · simpa using this.neg, by cases neg <;> simp⟩

theorem zpow_le_zpow_two {a b : ℤ} (h : a ≤ b) : (2 : ℝ) ^ a ≤ 2 ^ b := zpow_le_zpow_right₀ one_le_two h

/-- k and k + 1 units of a binade, or of the subnormals, are neighbours on a format's grid. -/
theorem neighbours_format {t : Fmt} (bounded : Bool) (neg : Bool) {q : ℤ} {k : ℕ} (hq : bounded = true → (Fmt.form t).esub ≤ q)
    (hk : k < 2 ^ ((Fmt.form t).fbits + 1)) (hn : 2 ^ (Fmt.form t).fbits ≤ k ∨ bounded = true ∧ q = (Fmt.form t).esub) :
    Neighbours (onGrid t bounded) (evenOn t bounded) neg (2 ^ q) k := by
  have hu : (0 : ℝ) < 2 ^ q := zpow_pos two_pos q
  have units : ∀ j : ℕ, j ≤ 2 ^ ((Fmt.form t).fbits + 1) → unitsOn t bounded (signFactor neg * (j * 2 ^ q)) (if neg then -j else j) := fun j hj =>
    ⟨by cases neg <;> simpa using hj, q, hq, by cases neg <;> simp⟩
  have even : ∀ j : ℕ, j % 2 = 0 → Even (if neg then -(j : ℤ) else j) := fun j h => by
    have : Even (j : ℤ) := by exact_mod_cast Nat.even_iff.mpr h
    cases neg
    · exact this
    · exact this.neg
  refine ⟨⟨_, units k hk.le⟩, ⟨_, units (k + 1) hk⟩, ?_, fun h => ⟨_, even k h, units k hk.le⟩, fun h => ⟨_, even (k + 1) h, units (k + 1) hk⟩⟩
  rintro g ⟨i, hi, e, he, rfl⟩
  have hg : |(i : ℝ) * 2 ^ e| = (i.natAbs : ℝ) * 2 ^ e := by
    rw [abs_mul, abs_of_pos (zpow_pos (two_pos (α := ℝ)) e), Nat.cast_natAbs, Int.cast_abs]
  rw [hg]
  by_contra hc
  obtain ⟨h1, h2⟩ := not_or.mp hc
  rw [not_le] at h1 h2
  by_cases hqe : q ≤ e
  · have hpow : (2 : ℝ) ^ e = (2 ^ (e - q).toNat : ℕ) * 2 ^ q := by
      push_cast
      rw [← zpow_natCast, ← zpow_add₀ two_ne_zero, Int.toNat_of_nonneg (by omega), sub_add_cancel]
    rw [hpow, ← mul_assoc] at h1 h2
    have h1' := lt_of_mul_lt_mul_right h1 hu.le
    have h2' := lt_of_mul_lt_mul_right h2 hu.le
    norm_cast at h1' h2'
    omega
  · obtain hn | ⟨hb, rfl⟩ := hn
    · have hpow : (2 : ℝ) ^ (e + 1) ≤ 2 ^ q := zpow_le_zpow_two (by omega)
      have h3 : ((2 ^ ((Fmt.form t).fbits + 1) : ℕ) : ℝ) * 2 ^ e ≤ k * 2 ^ q := by
        calc ((2 ^ ((Fmt.form t).fbits + 1) : ℕ) : ℝ) * 2 ^ e = ((2 ^ (Fmt.form t).fbits : ℕ) : ℝ) * 2 ^ (e + 1) := by
              push_cast
              rw [zpow_add_one₀ two_ne_zero, pow_succ]
              ring
          _ ≤ k * 2 ^ q := mul_le_mul (by exact_mod_cast hn) hpow (zpow_pos two_pos _).le (Nat.cast_nonneg k)
      have h4 := lt_of_mul_lt_mul_right (h3.trans_lt h1) (zpow_pos two_pos e).le
      norm_cast at h4
      omega
    · exact hqe (he hb)

end Sys2Proof.Machine

end

section
/-! PROOFS. `roundAt` makes the mode's choice between neighbours, of an exact value or of one that stands for it (R107, R116). -/

namespace Sys2Proof.Machine

/-! ### `roundAt` makes the mode's choice -/

section
variable {d : Rnd} {neg odd : Bool}

/-- The floor of a fraction of a power of two does not see what lies within one unit of an odd numerator. -/
theorem floor_div_of_near_odd {z : ℝ} {r j : ℕ} (hj : 0 < j) (hr : r % 2 = 1) (h1 : (r : ℝ) - 1 < z) (h2 : z < r + 1) :
    (r / 2 ^ j : ℕ) ≤ z / 2 ^ j ∧ z / 2 ^ j < (r / 2 ^ j : ℕ) + 1 := by
  have hp : (0 : ℝ) < 2 ^ j := pow_pos two_pos j
  obtain ⟨i, rfl⟩ : ∃ i, j = i + 1 := ⟨j - 1, by omega⟩
  have hd := Nat.div_add_mod r (2 ^ (i + 1))
  have hm := Nat.mod_lt r (Nat.two_pow_pos (i + 1))
  set c := r / 2 ^ (i + 1)
  have he : 2 ^ (i + 1) * c = 2 * (2 ^ i * c) := by rw [pow_succ]; ring
  have hlo : 2 ^ (i + 1) * c + 1 ≤ r := by omega
  have hhi : r + 1 ≤ 2 ^ (i + 1) * c + 2 ^ (i + 1) := by omega
  have hlo' : (2 : ℝ) ^ (i + 1) * c + 1 ≤ r := by exact_mod_cast hlo
  have hhi' : (r : ℝ) + 1 ≤ 2 ^ (i + 1) * c + 2 ^ (i + 1) := by exact_mod_cast hhi
  constructor
  · rw [le_div_iff₀ hp]
    linarith
  · rw [div_lt_iff₀ hp]
    linarith

/-- The part of a magnitude that is discarded, r of 2^k, or what the last bit of r stands for. -/
def partStands (r k : ℕ) (z : ℝ) : Prop := z = r ∨ r % 2 = 1 ∧ (r : ℝ) - 1 < z ∧ z < r + 1 ∧ 26 ≤ k

theorem goesUp_iff_roundsUp {z : ℝ} {r k : ℕ} (hz : partStands r k z) : goesUp d neg odd (z / 2 ^ k) ↔ roundsUp d neg odd r k = true := by
  have hp : (0 : ℝ) < 2 ^ k := pow_pos two_pos k
  have hzero : z / 2 ^ k ≠ 0 ↔ (r != 0) = true := by
    rw [div_ne_zero_iff, and_iff_left hp.ne', bne_iff_ne]
    obtain rfl | ⟨hr, h1, -, -⟩ := hz
    · exact Nat.cast_ne_zero
    · have : (1 : ℝ) ≤ r := by exact_mod_cast (show 1 ≤ r by omega)
      exact ⟨fun _ => by omega, fun _ => by linarith⟩
  unfold goesUp roundsUp
  cases d.mode with
  | rne =>
    have hgt : 1 / 2 < z / 2 ^ k ↔ (2 : ℝ) ^ k < 2 * z := by rw [lt_div_iff₀ hp]; constructor <;> intro h <;> linarith
    have heq : z / 2 ^ k = 1 / 2 ↔ 2 * z = (2 : ℝ) ^ k := by rw [div_eq_iff hp.ne']; constructor <;> intro h <;> linarith
    simp only [hgt, heq, Bool.or_eq_true, decide_eq_true_eq, Bool.and_eq_true, beq_iff_eq]
    obtain rfl | ⟨hr, h1, h2, hk⟩ := hz
    · norm_cast
    · obtain ⟨i, rfl⟩ : ∃ i, k = i + 2 := ⟨k - 2, by omega⟩
      have hpow : 2 ^ (i + 2) = 2 * (2 * 2 ^ i) := by rw [pow_add]; ring
      have hpow' : (2 : ℝ) ^ (i + 2) = 2 * (2 * 2 ^ i) := by rw [pow_add]; ring
      have hne : ¬2 * r = 2 ^ (i + 2) := by omega
      have hlt : 2 ^ (i + 2) < 2 * r ↔ (2 : ℝ) ^ (i + 2) < 2 * z := by
        rw [hpow, hpow']
        constructor
        · intro h
          have : (2 : ℝ) * 2 ^ i + 1 ≤ r := by exact_mod_cast (show 2 * 2 ^ i + 1 ≤ r by omega)
          linarith
        · intro h
          by_contra hc
          have : (r : ℝ) + 1 ≤ 2 * 2 ^ i := by exact_mod_cast (show r + 1 ≤ 2 * 2 ^ i by omega)
          linarith
      have hne' : 2 * z ≠ (2 : ℝ) ^ (i + 2) := by
        intro h
        obtain hlt' | hgt' := Nat.lt_or_gt_of_ne hne
        · have : (r : ℝ) + 1 ≤ 2 * 2 ^ i := by exact_mod_cast (show r + 1 ≤ 2 * 2 ^ i by omega)
          linarith
        · exact absurd h (hlt.mp hgt').ne'
      simp only [hne, hne', hlt, false_and]
  | rtz => simp
  | rup =>
    rw [hzero]
    cases neg <;> simp
  | rdn =>
    rw [hzero]
    cases neg <;> simp
  | rsr =>
    have hfl : ⌊z / 2 ^ k * 2 ^ 24⌋ = ((r * 2 ^ 24 / 2 ^ k : ℕ) : ℤ) := by
      obtain rfl | ⟨hr, h1, h2, hk⟩ := hz
      · rw [div_mul_eq_mul_div]
        rw [← Nat.floor_div_eq_div (K := ℝ) (r * 2 ^ 24) (2 ^ k), Int.natCast_floor_eq_floor (by positivity), Nat.cast_mul, Nat.cast_pow, Nat.cast_pow,
          Nat.cast_ofNat]
      · obtain ⟨j, rfl⟩ : ∃ j, k = j + 24 := ⟨k - 24, by omega⟩
        rw [Nat.pow_add, Nat.mul_div_mul_right _ _ (Nat.two_pow_pos 24), pow_add, ← div_div, div_mul_cancel₀ _ (by positivity), Int.floor_eq_iff]
        exact_mod_cast floor_div_of_near_odd (show 0 < j by omega) hr h1 h2
    rw [hfl]
    simp only [decide_eq_true_eq]
    norm_cast

/-- Parts smaller than what any mode looks at. -/
theorem goesUp_of_small {f g : ℝ} (hf : 0 < f) (hf' : f < 2⁻¹ ^ 25) (hg : 0 < g) (hg' : g < 2⁻¹ ^ 25) : goesUp d neg odd f ↔ goesUp d neg odd g := by
  unfold goesUp
  cases d.mode with
  | rne =>
    have hhalf : ∀ x : ℝ, x < 2⁻¹ ^ 25 → ¬1 / 2 < x ∧ ¬x = 1 / 2 := fun x hx => by
      have : x < 1 / 2 := hx.trans (by norm_num)
      exact ⟨not_lt.mpr this.le, this.ne⟩
    simp only [hhalf f hf', hhalf g hg', false_and]
  | rtz => rfl
  | rup => simp only [hf.ne', hg.ne', ne_eq]
  | rdn => simp only [hf.ne', hg.ne', ne_eq]
  | rsr =>
    have hfl : ∀ x : ℝ, 0 < x → x < 2⁻¹ ^ 25 → ⌊x * 2 ^ 24⌋ = 0 := fun x h0 hx => by
      rw [Int.floor_eq_zero_iff]
      exact ⟨by positivity, by nlinarith⟩
    simp only [hfl f hf hf', hfl g hg hg']

end

/-- m × 2^e is the real X, or stands for it: with an odd m of more bits than any format rounds, X lies between its neighbours. -/
def standsFor (m : ℕ) (e : ℤ) (X : ℝ) : Prop :=
  X = m * 2 ^ e ∨ m % 2 = 1 ∧ 2 ^ 60 ≤ m ∧ ((m : ℝ) - 1) * 2 ^ e < X ∧ X < (m + 1) * 2 ^ e

theorem standsFor_self (m : ℕ) (e : ℤ) : standsFor m e (m * 2 ^ e) := .inl rfl

section
variable {d : Rnd} {neg : Bool} {m : ℕ} {e q : ℤ} {X : ℝ}

/-- The bounds of a value by the length of what stands for it. -/
theorem standsFor.bounds (hs : standsFor m e X) (hm : m ≠ 0) : (2 : ℝ) ^ (e + Nat.log2 m) ≤ X ∧ X < 2 ^ (e + Nat.log2 m + 1) := by
  have he : (0 : ℝ) < 2 ^ e := zpow_pos two_pos e
  have hlo := Nat.log2_self_le hm
  have hhi := Nat.lt_log2_self (n := m)
  have hlo' : (2 : ℝ) ^ (e + Nat.log2 m) = (2 ^ Nat.log2 m : ℕ) * 2 ^ e := by
    rw [zpow_add₀ two_ne_zero, zpow_natCast]
    push_cast
    ring
  have hhi' : (2 : ℝ) ^ (e + Nat.log2 m + 1) = (2 ^ (Nat.log2 m + 1) : ℕ) * 2 ^ e := by
    rw [add_assoc, zpow_add₀ two_ne_zero, ← Nat.cast_add_one, zpow_natCast]
    push_cast
    ring
  rw [hlo', hhi']
  obtain rfl | ⟨h2, h60, h1, h3⟩ := hs
  · exact ⟨mul_le_mul_of_nonneg_right (by exact_mod_cast hlo) he.le, mul_lt_mul_of_pos_right (by exact_mod_cast hhi) he⟩
  · have hL : 0 < Nat.log2 m := by
      by_contra h
      rw [Nat.eq_zero_of_not_pos h] at hhi
      omega
    obtain ⟨i, hi⟩ : ∃ i, Nat.log2 m = i + 1 := ⟨Nat.log2 m - 1, by omega⟩
    have hlo1 : 2 ^ Nat.log2 m + 1 ≤ m := by
      rw [hi, pow_succ] at hlo ⊢
      omega
    have hlo2 : ((2 ^ Nat.log2 m : ℕ) : ℝ) ≤ m - 1 := by
      have : ((2 ^ Nat.log2 m + 1 : ℕ) : ℝ) ≤ m := by exact_mod_cast hlo1
      push_cast at this ⊢
      linarith
    have hhi2 : (m : ℝ) + 1 ≤ (2 ^ (Nat.log2 m + 1) : ℕ) := by exact_mod_cast hhi
    exact ⟨(mul_le_mul_of_nonneg_right hlo2 he.le).trans h1.le, h3.trans_le (mul_le_mul_of_nonneg_right hhi2 he.le)⟩

theorem standsFor.pos (hs : standsFor m e X) (hm : m ≠ 0) : 0 < X := (zpow_pos two_pos _).trans_le (hs.bounds hm).1

/-- A shift by k bits splits what m stands for into a magnitude and the part that is discarded. -/
theorem roundsInt_of_part {k : ℕ} {y : ℝ} (hk : 0 < k) (hy : partStands m k y) :
    let n := if roundsUp d neg (m / 2 ^ k % 2 == 1) (m % 2 ^ k) k then m / 2 ^ k + 1 else m / 2 ^ k
    roundsInt d neg (y / 2 ^ k) n ∧ ((m % 2 ^ k != 0) = false ↔ (n : ℝ) = y / 2 ^ k) := by
  intro n
  have hp : (0 : ℝ) < 2 ^ k := pow_pos two_pos k
  have hmod := Nat.mod_lt m (Nat.two_pow_pos k)
  have hdm : (m : ℝ) = 2 ^ k * (m / 2 ^ k : ℕ) + (m % 2 ^ k : ℕ) := by exact_mod_cast (Nat.div_add_mod m (2 ^ k)).symm
  have hodd : m % 2 = 1 → m % 2 ^ k % 2 = 1 := fun h => by rwa [Nat.mod_mod_of_dvd _ (dvd_pow_self 2 hk.ne')]
  have hz : partStands (m % 2 ^ k) k (y - 2 ^ k * (m / 2 ^ k : ℕ)) := by
    obtain rfl | ⟨h2, h1, h3, h26⟩ := hy
    · exact .inl (by linarith)
    · exact .inr ⟨hodd h2, by linarith, by linarith, h26⟩
  have hf : y / 2 ^ k - (m / 2 ^ k : ℕ) = (y - 2 ^ k * (m / 2 ^ k : ℕ)) / 2 ^ k := by
    rw [sub_div, mul_div_cancel_left₀ _ hp.ne']
  have hcell : (m / 2 ^ k : ℕ) ≤ y / 2 ^ k ∧ y / 2 ^ k < (m / 2 ^ k : ℕ) + 1 := by
    obtain rfl | ⟨h2, h1, h3, -⟩ := hy
    · have : ((m % 2 ^ k : ℕ) : ℝ) < 2 ^ k := by exact_mod_cast hmod
      rw [le_div_iff₀ hp, div_lt_iff₀ hp]
      constructor <;> nlinarith [Nat.cast_nonneg (α := ℝ) (m % 2 ^ k)]
    · exact floor_div_of_near_odd hk h2 h1 h3
  have hup := goesUp_iff_roundsUp (d := d) (neg := neg) (odd := m / 2 ^ k % 2 == 1) hz
  rw [← hf] at hup
  have hr : roundsInt d neg (y / 2 ^ k) n := by
    refine ⟨m / 2 ^ k, hcell.1, hcell.2, ?_⟩
    rw [hup]
    by_cases hu : roundsUp d neg (m / 2 ^ k % 2 == 1) (m % 2 ^ k) k = true
    · exact .inl ⟨hu, if_pos hu⟩
    · exact .inr ⟨hu, if_neg hu⟩
  refine ⟨hr, ?_⟩
  have hx : y / 2 ^ k = (m / 2 ^ k : ℕ) ↔ y - 2 ^ k * (m / 2 ^ k : ℕ) = 0 := by rw [← sub_eq_zero, hf, div_eq_zero_iff, or_iff_left hp.ne']
  rw [hr.eq_iff hcell.1 hcell.2, hx, bne_eq_false_iff_eq]
  obtain h | ⟨h2, h1, h3, -⟩ := hz
  · rw [h, Nat.cast_eq_zero]
  · have h1' : 1 ≤ m % 2 ^ k := by omega
    have : (1 : ℝ) ≤ (m % 2 ^ k : ℕ) := by exact_mod_cast h1'
    exact ⟨fun h => by omega, fun h => by linarith⟩

/-- `roundAt` rounds what its operand stands for, and tells whether that is exact. -/
theorem roundAt_rounds (hm : m ≠ 0) (hs : standsFor m e X) (hq : X = m * 2 ^ e ∨ e + 26 ≤ q) :
    roundsInt d neg (X / 2 ^ q) (roundAt d neg m e q).1
      ∧ ((roundAt d neg m e q).2 = false ↔ ((roundAt d neg m e q).1 : ℝ) = X / 2 ^ q) := by
  by_cases hqe : q ≤ e
  · have hX : X / 2 ^ q = (m * 2 ^ (e - q).toNat : ℕ) := by
      obtain rfl | h := hq
      · push_cast
        rw [← zpow_natCast, Int.toNat_of_nonneg (by omega), zpow_sub₀ two_ne_zero, mul_div_assoc]
      · omega
    rw [roundAt, if_pos hqe, hX]
    exact ⟨roundsInt_natCast .., by simp⟩
  · have he : (0 : ℝ) < 2 ^ e := zpow_pos two_pos e
    obtain ⟨K, hK⟩ : ∃ K : ℕ, q = e + K := ⟨(q - e).toNat, by omega⟩
    have hK0 : 0 < K := by omega
    obtain ⟨y, rfl⟩ : ∃ y, X = y * 2 ^ e := ⟨X / 2 ^ e, (div_mul_cancel₀ _ he.ne').symm⟩
    have hy : y = m ∨ m % 2 = 1 ∧ (m : ℝ) - 1 < y ∧ y < m + 1 ∧ 26 ≤ K := by
      obtain h | ⟨h2, -, h1, h3⟩ := hs
      · exact .inl (mul_right_cancel₀ he.ne' h)
      · obtain h | h := hq
        · exact .inl (mul_right_cancel₀ he.ne' h)
        · exact .inr ⟨h2, lt_of_mul_lt_mul_right h1 he.le, lt_of_mul_lt_mul_right h3 he.le, by omega⟩
    have hx : y * 2 ^ e / 2 ^ q = y / 2 ^ K := by
      rw [hK, zpow_add₀ two_ne_zero, zpow_natCast, mul_comm y, mul_div_mul_left _ _ he.ne']
    have hb := hs.bounds hm
    rw [hx, roundAt, if_neg hqe, show (q - e).toNat = K by omega]
    by_cases hcap : K ≤ Nat.log2 m + 30
    · rw [show Nat.min K (Nat.log2 m + 30) = K from Nat.min_eq_left hcap]
      exact roundsInt_of_part hK0 hy
    · rw [show Nat.min K (Nat.log2 m + 30) = Nat.log2 m + 30 from Nat.min_eq_right (by omega)]
      have hL := Nat.lt_log2_self (n := m)
      set L := Nat.log2 m
      have hlt : m < 2 ^ (L + 30) := hL.trans (Nat.pow_lt_pow_right (by decide) (by omega))
      have hy0 : 0 < y := pos_of_mul_pos_left (hs.pos hm) he.le
      have hy1 : y < 2 ^ (L + 1) := by
        have := hb.2
        rw [add_assoc, zpow_add₀ two_ne_zero, ← Nat.cast_add_one, zpow_natCast, mul_comm] at this
        exact lt_of_mul_lt_mul_left this he.le
      have small : ∀ k : ℕ, L + 30 ≤ k → 0 < y / 2 ^ k ∧ y / 2 ^ k < 2⁻¹ ^ 25 := fun k hk => by
        refine ⟨div_pos hy0 (pow_pos two_pos k), ?_⟩
        rw [div_lt_iff₀ (pow_pos two_pos k), inv_pow, inv_mul_eq_div, lt_div_iff₀ (by positivity)]
        calc y * 2 ^ 25 < 2 ^ (L + 1) * 2 ^ 25 := mul_lt_mul_of_pos_right hy1 (by positivity)
          _ = 2 ^ (L + 26) := by rw [← pow_add]
          _ ≤ 2 ^ k := pow_le_pow_right₀ one_le_two (by omega)
      obtain ⟨h0, h1⟩ := small K (by omega)
      obtain ⟨h0', h1'⟩ := small (L + 30) le_rfl
      have hup : goesUp d neg (0 % 2 == 1) (y / 2 ^ K) ↔ roundsUp d neg (0 % 2 == 1) m (L + 30) = true :=
        (goesUp_of_small h0 h1 h0' h1').trans (goesUp_iff_roundsUp (hy.imp_right fun ⟨h2, h3, h4, _⟩ => ⟨h2, h3, h4, by omega⟩))
      have hx1 : y / 2 ^ K < ((0 : ℕ) : ℝ) + 1 := by
        push_cast
        exact h1.trans (by norm_num)
      have hr : roundsInt d neg (y / 2 ^ K) (if roundsUp d neg (0 % 2 == 1) m (L + 30) then 0 + 1 else 0) := by
        refine ⟨0, by exact_mod_cast h0.le, hx1, ?_⟩
        rw [Nat.cast_zero, sub_zero, hup]
        by_cases hu : roundsUp d neg (0 % 2 == 1) m (L + 30) = true
        · exact .inl ⟨hu, if_pos hu⟩
        · exact .inr ⟨hu, if_neg hu⟩
      simp only [Nat.div_eq_of_lt hlt, Nat.mod_eq_of_lt hlt]
      refine ⟨hr, ?_⟩
      rw [hr.eq_iff (by exact_mod_cast h0.le) hx1, bne_eq_false_iff_eq, Nat.cast_zero]
      exact ⟨fun h => absurd h hm, fun h => absurd h h0.ne'⟩

end

end Sys2Proof.Machine

end

section
/-! PROOFS. `roundTo` is RoundTo: the codes of a format count up with the values, and the overflow, the flush and the flags follow the rounded
value (R104, R107 to R111, R113). -/

namespace Sys2Proof.Machine

/-! ### Codes of a format and their values -/

/-- The magnitude of a code, also past the largest finite one. -/
noncomputable def codeValue (t : Fmt) (c : ℕ) : ℝ :=
  if c / 2 ^ (Fmt.form t).fbits = 0 then c * 2 ^ (Fmt.form t).esub
  else (2 ^ (Fmt.form t).fbits + c % 2 ^ (Fmt.form t).fbits : ℕ) * 2 ^ ((Fmt.form t).esub + (c / 2 ^ (Fmt.form t).fbits - 1 : ℕ))

/-- n units of the j-th binade, or of the subnormals, up to the first code of the next one. -/
theorem codeValue_add {t : Fmt} {n j : ℕ} (hn : n ≤ 2 ^ ((Fmt.form t).fbits + 1)) (hj : 2 ^ (Fmt.form t).fbits ≤ n ∨ j = 0) :
    codeValue t (n + j * 2 ^ (Fmt.form t).fbits) = n * 2 ^ ((Fmt.form t).esub + j) := by
  unfold codeValue
  set F := (Fmt.form t).fbits
  have hF : 0 < 2 ^ F := Nat.two_pow_pos F
  rw [pow_succ] at hn
  have hdiv : (n + j * 2 ^ F) / 2 ^ F = n / 2 ^ F + j := Nat.add_mul_div_right n j hF
  have hmod : (n + j * 2 ^ F) % 2 ^ F = n % 2 ^ F := Nat.add_mul_mod_self_right n j (2 ^ F)
  rw [hdiv, hmod]
  obtain hlt | heq := hn.lt_or_eq
  · by_cases h1 : 2 ^ F ≤ n
    · have h2 : n / 2 ^ F = 1 := Nat.div_eq_of_lt_le (by omega) (by omega)
      have h3 : 2 ^ F + n % 2 ^ F = n := by
        have := Nat.div_add_mod n (2 ^ F)
        rw [h2] at this
        omega
      rw [h2, if_neg (by omega), h3, Nat.add_sub_cancel_left]
    · have h2 : n / 2 ^ F = 0 := Nat.div_eq_of_lt (by omega)
      have h3 : j = 0 := hj.resolve_left h1
      subst h3
      simp [h2]
  · have h2 : n / 2 ^ F = 2 := by rw [heq, Nat.mul_div_cancel_left _ hF]
    have h3 : n % 2 ^ F = 0 := by rw [heq]; exact Nat.mul_mod_right ..
    rw [h2, h3, if_neg (by omega), show 2 + j - 1 = j + 1 by omega, heq]
    push_cast
    rw [← add_assoc, zpow_add_one₀ two_ne_zero]
    ring

theorem codeValue_strictMono (t : Fmt) : StrictMono (codeValue t) := by
  refine strictMono_nat_of_lt_succ fun c => ?_
  set F := (Fmt.form t).fbits with hF
  have hF0 : 0 < 2 ^ F := Nat.two_pow_pos F
  have hd := Nat.div_add_mod c (2 ^ F)
  have hm := Nat.mod_lt c hF0
  obtain ⟨n, j, hc, hn, hj⟩ : ∃ n j, c = n + j * 2 ^ F ∧ n < 2 ^ (F + 1) ∧ (2 ^ F ≤ n ∨ j = 0) := by
    by_cases h0 : c / 2 ^ F = 0
    · exact ⟨c, 0, by simp, (Nat.lt_of_div_eq_zero hF0 h0).trans (Nat.pow_lt_pow_succ (by decide)), .inr rfl⟩
    · obtain ⟨i, hi⟩ := Nat.exists_eq_succ_of_ne_zero h0
      rw [hi, Nat.succ_eq_add_one, Nat.mul_add, Nat.mul_one, Nat.mul_comm] at hd
      exact ⟨2 ^ F + c % 2 ^ F, i, by omega, by rw [pow_succ]; omega, .inl (by omega)⟩
  rw [hc, show n + j * 2 ^ F + 1 = (n + 1) + j * 2 ^ F by ring, codeValue_add hn.le hj, codeValue_add hn (hj.imp_left Nat.le_succ_of_le)]
  exact mul_lt_mul_of_pos_right (by push_cast; linarith) (zpow_pos two_pos _)

theorem maxCode_lt_signBit (t : Fmt) : Fmt.maxCode t < Fmt.signBit t := by cases t <;> decide

theorem two_pow_bits {t : Fmt} (ht : t.isFloat = true) : 2 ^ t.bits = 2 * Fmt.signBit t := by
  revert ht
  cases t <;> decide

/-- A finite code with its sign is read back with that sign and the code's value. -/
theorem decodeF_signedCode {t : Fmt} (neg : Bool) {c : ℕ} (hc : c ≤ Fmt.maxCode t) :
    ∃ m e, decodeF t (signedCode t neg c) = .fin neg m e ∧ (m : ℝ) * 2 ^ e = codeValue t c := by
  have hlt : c < Fmt.signBit t := hc.trans_lt (maxCode_lt_signBit t)
  have hbit : (signedCode t neg c).testBit ((Fmt.form t).ebits + (Fmt.form t).fbits) = neg := by
    have h0 : c.testBit ((Fmt.form t).ebits + (Fmt.form t).fbits) = false := Nat.testBit_lt_two_pow hlt
    cases neg
    · exact h0
    · rw [signedCode, if_pos rfl, Fmt.signBit, Nat.testBit_two_pow_add_eq, h0]
      rfl
  have hmod : signedCode t neg c % Fmt.signBit t = c := by
    cases neg
    · exact Nat.mod_eq_of_lt hlt
    · rw [signedCode, if_pos rfl, Nat.add_mod_left, Nat.mod_eq_of_lt hlt]
  simp only [decodeF, hbit, hmod, if_neg (not_lt.mpr hc), codeValue]
  by_cases h0 : c / 2 ^ (Fmt.form t).fbits = 0
  · rw [if_pos h0, if_pos h0]
    refine ⟨_, _, rfl, ?_⟩
    rw [Nat.mod_eq_of_lt ((Nat.div_eq_zero_iff.mp h0).resolve_left (Nat.two_pow_pos _).ne')]
  · rw [if_neg h0, if_neg h0]
    exact ⟨_, _, rfl, rfl⟩

theorem realOf_maxCode (t : Fmt) : realOf (decodeF t (Fmt.maxCode t)) = codeValue t (Fmt.maxCode t) := by
  obtain ⟨m, e, h, hv⟩ := decodeF_signedCode (t := t) false le_rfl
  rw [show Fmt.maxCode t = signedCode t false (Fmt.maxCode t) from rfl, h, realOf_fin, hv, signFactor_false, one_mul]
  rfl

theorem signedCode_lt {t : Fmt} (ht : t.isFloat = true) (neg : Bool) {c : ℕ} (hc : c ≤ Fmt.maxCode t) : signedCode t neg c < 2 ^ t.bits := by
  have hlt : c < Fmt.signBit t := hc.trans_lt (maxCode_lt_signBit t)
  rw [two_pow_bits ht]
  unfold signedCode
  split <;> omega

/-! ### `roundTo` -/

/-- How far a magnitude lies below a power of two is seen by its length. -/
theorem log2_lt_iff {n : ℕ} (hn : n ≠ 0) (q e : ℤ) : q + Nat.log2 n < e ↔ (n : ℝ) * 2 ^ q < 2 ^ e := by
  have hq : (0 : ℝ) < 2 ^ q := zpow_pos two_pos q
  have hlo : ((2 ^ Nat.log2 n : ℕ) : ℝ) ≤ n := by exact_mod_cast Nat.log2_self_le hn
  have hhi : (n : ℝ) < (2 ^ (Nat.log2 n + 1) : ℕ) := by exact_mod_cast Nat.lt_log2_self
  push_cast at hlo hhi
  constructor
  · intro h
    calc (n : ℝ) * 2 ^ q < 2 ^ (Nat.log2 n + 1) * 2 ^ q := mul_lt_mul_of_pos_right hhi hq
      _ = 2 ^ ((Nat.log2 n : ℤ) + 1 + q) := by rw [zpow_add₀ two_ne_zero, ← Nat.cast_add_one, zpow_natCast]
      _ ≤ 2 ^ e := zpow_le_zpow_two (by omega)
  · intro h
    by_contra hc
    have : (2 : ℝ) ^ e ≤ n * 2 ^ q := by
      calc (2 : ℝ) ^ e ≤ 2 ^ ((Nat.log2 n : ℤ) + q) := zpow_le_zpow_two (by omega)
        _ = 2 ^ Nat.log2 n * 2 ^ q := by rw [zpow_add₀ two_ne_zero, zpow_natCast]
        _ ≤ n * 2 ^ q := mul_le_mul_of_nonneg_right hlo hq.le
    linarith

theorem overflowCode_eq (t : Fmt) (d : Rnd) (neg : Bool) : overflowCode t d neg =
    if d.sat then signedCode t neg (Fmt.maxCode t)
    else if t = .e4m3 then Fmt.nanCode t
    else signedCode t neg (if d.mode = .rtz ∨ d.mode = .rup ∧ neg = true ∨ d.mode = .rdn ∧ neg = false then Fmt.maxCode t else Fmt.infCode t) := by
  unfold overflowCode
  cases d.mode <;> cases neg <;> simp

/-- A value scaled to the units of q lies in one binade, or below the first normal one. -/
theorem scaled_bounds {t : Fmt} {X : ℝ} {l : ℤ} {q : ℤ} (h1 : (2 : ℝ) ^ l ≤ X) (h2 : X < 2 ^ (l + 1)) {k : ℕ} (hk : (k : ℝ) ≤ X / 2 ^ q)
    (hx : X / 2 ^ q < k + 1) :
    (l - (Fmt.form t).fbits ≤ q → k < 2 ^ ((Fmt.form t).fbits + 1)) ∧ (q = l - (Fmt.form t).fbits → 2 ^ (Fmt.form t).fbits ≤ k) := by
  have hq : (0 : ℝ) < 2 ^ q := zpow_pos two_pos q
  rw [le_div_iff₀ hq] at hk
  rw [div_lt_iff₀ hq] at hx
  constructor
  · intro h
    have : (k : ℝ) * 2 ^ q < 2 ^ ((Fmt.form t).fbits + 1) * 2 ^ q := by
      calc (k : ℝ) * 2 ^ q < 2 ^ (l + 1) := hk.trans_lt h2
        _ ≤ 2 ^ (((Fmt.form t).fbits + 1 : ℕ) + q) := zpow_le_zpow_two (by push_cast; omega)
        _ = 2 ^ ((Fmt.form t).fbits + 1) * 2 ^ q := by rw [zpow_add₀ two_ne_zero, zpow_natCast]
    exact_mod_cast lt_of_mul_lt_mul_right this hq.le
  · intro h
    have : (2 : ℝ) ^ (Fmt.form t).fbits * 2 ^ q < (k + 1) * 2 ^ q := by
      calc (2 : ℝ) ^ (Fmt.form t).fbits * 2 ^ q = 2 ^ l := by rw [← zpow_natCast, ← zpow_add₀ two_ne_zero, h]; congr 1; omega
        _ ≤ X := h1
        _ < _ := hx
    have h3 := lt_of_mul_lt_mul_right this hq.le
    have h4 : 2 ^ (Fmt.form t).fbits < k + 1 := by exact_mod_cast h3
    omega

theorem fbits_le (t : Fmt) : (Fmt.form t).fbits ≤ 23 := by cases t <;> decide

/-- The exponent of the last place that a value keeps, with its exponent unbounded and in the format. -/
def unitExp (t : Fmt) (m : ℕ) (e : ℤ) : ℤ := e + Nat.log2 m - (Fmt.form t).fbits
def lastPlace (t : Fmt) (m : ℕ) (e : ℤ) : ℤ := if unitExp t m e < (Fmt.form t).esub then (Fmt.form t).esub else unitExp t m e

theorem unitExp_le_lastPlace (t : Fmt) (m : ℕ) (e : ℤ) : unitExp t m e ≤ lastPlace t m e ∧ (Fmt.form t).esub ≤ lastPlace t m e := by
  unfold lastPlace
  split <;> omega

/-- What stands in the least significant places of a value with a sticky bit lies below the last place kept. -/
theorem standsFor.exact_or_far {m : ℕ} {e : ℤ} {X : ℝ} (hm : m ≠ 0) (hs : standsFor m e X) (t : Fmt) {r : ℤ} (hr : unitExp t m e ≤ r) :
    X = m * 2 ^ e ∨ e + 26 ≤ r :=
  hs.imp_right fun ⟨_, h60, _, _⟩ => by
    have : 60 ≤ Nat.log2 m := (Nat.le_log2 hm).mpr h60
    have := fbits_le t
    unfold unitExp at hr
    omega

section
variable {t : Fmt} (d : Rnd) (neg : Bool) {m : ℕ} {e : ℤ} {X : ℝ} (hm : m ≠ 0) (hs : standsFor m e X)
include hm hs

/-- Rounding at the last place of an unbounded exponent chooses among the values of the format with unbounded exponents. -/
theorem roundAt_unitExp_chooses :
    let v := (roundAt d neg m e (unitExp t m e)).1
    v ≠ 0 ∧ chooses (onGrid t false) (evenOn t false) d (signFactor neg * X) (signFactor neg * (v * 2 ^ unitExp t m e)) := by
  dsimp only
  obtain ⟨hlo, hhi⟩ := hs.bounds hm
  obtain ⟨hr, -⟩ := roundAt_rounds (d := d) (neg := neg) hm hs (hs.exact_or_far hm t le_rfl)
  constructor
  · obtain ⟨k, hk, hx, h⟩ := hr
    have h1 : 2 ^ (Fmt.form t).fbits ≤ k := (scaled_bounds (t := t) hlo hhi hk hx).2 rfl
    have h2 := Nat.two_pow_pos (Fmt.form t).fbits
    omega
  · have h : chooses (onGrid t false) (evenOn t false) d (signFactor neg * (X / 2 ^ unitExp t m e * 2 ^ unitExp t m e)) _ :=
      chooses_of_neighbours (G := onGrid t false) (E := evenOn t false) (fun k hk hx => neighbours_format false neg (fun h => absurd h (by decide))
      ((scaled_bounds hlo hhi hk hx).1 le_rfl) (.inl ((scaled_bounds hlo hhi hk hx).2 rfl))) (zpow_pos two_pos (unitExp t m e)) hr
    rwa [div_mul_cancel₀ X (zpow_pos two_pos _).ne'] at h

/-- Rounding at the last place of the format chooses among its values, those past its largest included; and it tells whether it was exact. -/
theorem roundAt_lastPlace_chooses :
    let r := roundAt d neg m e (lastPlace t m e)
    chooses (onGrid t true) (evenOn t true) d (signFactor neg * X) (signFactor neg * (r.1 * 2 ^ lastPlace t m e))
      ∧ r.1 ≤ 2 ^ ((Fmt.form t).fbits + 1) ∧ (2 ^ (Fmt.form t).fbits ≤ r.1 ∨ lastPlace t m e = (Fmt.form t).esub)
      ∧ (signFactor neg * (r.1 * 2 ^ lastPlace t m e) = signFactor neg * X ↔ r.2 = false) := by
  dsimp only
  obtain ⟨hlo, hhi⟩ := hs.bounds hm
  obtain ⟨hu, hsub⟩ := unitExp_le_lastPlace t m e
  obtain ⟨hr, hexact⟩ := roundAt_rounds (d := d) (neg := neg) hm hs (hs.exact_or_far hm t hu)
  refine ⟨?_, ?_, ?_, ?_⟩
  · have h : chooses (onGrid t true) (evenOn t true) d (signFactor neg * (X / 2 ^ lastPlace t m e * 2 ^ lastPlace t m e)) _ :=
      chooses_of_neighbours (G := onGrid t true) (E := evenOn t true) (fun k hk hx => neighbours_format true neg (fun _ => hsub)
      ((scaled_bounds hlo hhi hk hx).1 hu) (by
        by_cases h : unitExp t m e < (Fmt.form t).esub
        · exact .inr ⟨rfl, if_pos h⟩
        · exact .inl ((scaled_bounds hlo hhi hk hx).2 (if_neg h)))) (zpow_pos two_pos (lastPlace t m e)) hr
    rwa [div_mul_cancel₀ X (zpow_pos two_pos _).ne'] at h
  · obtain ⟨k, hk, hx, h⟩ := hr
    have := (scaled_bounds (t := t) hlo hhi hk hx).1 hu
    omega
  · obtain ⟨k, hk, hx, h⟩ := hr
    by_cases hlt : unitExp t m e < (Fmt.form t).esub
    · exact .inr (if_pos hlt)
    · have := (scaled_bounds (t := t) hlo hhi hk hx).2 (if_neg hlt)
      exact .inl (by omega)
  · rw [hexact, eq_div_iff (zpow_pos two_pos _).ne']
    cases neg <;> simp

end

/-- A value that stands for the real X, rounded to a format: RoundTo of X with its sign (R107 to R111, R113). -/
theorem roundTo_rounds {t : Fmt} (ht : t.isFloat = true) (d : Rnd) (neg : Bool) {m : ℕ} {e : ℤ} {X : ℝ} (hm : m ≠ 0) (hs : standsFor m e X) :
    roundsTo t d (signFactor neg * X) (roundTo t d neg m e) := by
  have hX := hs.pos hm
  obtain ⟨hvn0, hchoosen⟩ := roundAt_unitExp_chooses (t := t) d neg hm hs
  obtain ⟨hchoose, hvhi, hvlo, hwv⟩ := roundAt_lastPlace_chooses (t := t) d neg hm hs
  have hsub := (unitExp_le_lastPlace t m e).2
  set F := (Fmt.form t).fbits
  set esub := (Fmt.form t).esub with hesub
  set qn := unitExp t m e with hqn
  set q := lastPlace t m e with hq
  set v := (roundAt d neg m e q).1 with hv
  set inexact := (roundAt d neg m e q).2 with hin
  set vn := (roundAt d neg m e qn).1 with hvn
  set c := v + (q - esub).toNat * 2 ^ F with hc
  have hcv : codeValue t c = v * 2 ^ q := by
    rw [hc, codeValue_add hvhi (hvlo.imp_right fun h => by omega), ← hesub, Int.toNat_of_nonneg (by omega), add_sub_cancel]
  have hround : roundTo t d neg m e =
      if Fmt.maxCode t < c then (overflowCode t d neg, FFlags.OF ||| FFlags.NX)
      else if d.ftz && t.isScalarF && decide (qn + Nat.log2 vn < (Fmt.form t).emin) then (signedCode t neg 0, FFlags.UF ||| FFlags.NX)
      else (signedCode t neg c, if inexact then (if decide (qn + Nat.log2 vn < (Fmt.form t).emin) then FFlags.UF ||| FFlags.NX else FFlags.NX) else 0) := by
    rw [roundTo, if_neg hm]
    rfl
  have hlarge : realOf (decodeF t (Fmt.maxCode t)) < |signFactor neg * (v * 2 ^ q)| ↔ Fmt.maxCode t < c := by
    rw [abs_signFactor_mul, abs_of_nonneg (mul_nonneg (Nat.cast_nonneg v) (zpow_pos two_pos q).le), realOf_maxCode, ← hcv,
      (codeValue_strictMono t).lt_iff_lt]
  have htiny : |signFactor neg * (vn * 2 ^ qn)| < (2 : ℝ) ^ (Fmt.form t).emin ↔ qn + Nat.log2 vn < (Fmt.form t).emin := by
    rw [abs_signFactor_mul, abs_of_nonneg (mul_nonneg (Nat.cast_nonneg vn) (zpow_pos two_pos qn).le), log2_lt_iff hvn0]
  have hinexact : ¬signFactor neg * (v * 2 ^ q) = signFactor neg * X → inexact = true := fun h => Bool.eq_true_of_not_eq_false fun h0 => h (hwv.mpr h0)
  refine ⟨signFactor neg * (v * 2 ^ q), signFactor neg * (vn * 2 ^ qn), neg, hchoose, hchoosen, ?_, ?_⟩
  · cases neg <;> simp [hX, hX.le]
  dsimp only
  rw [hlarge, htiny, hwv, hround]
  refine ⟨fun hl => ?_, fun hl hf => ?_, fun hl hf => ?_⟩
  · rw [if_pos hl, overflowCode_eq]
  · obtain ⟨h1, h2, h3⟩ := hf
    rw [if_neg hl, if_pos (by simp [h1, h2, h3])]
    rfl
  · rw [if_neg hl, if_neg (by simpa [and_assoc] using hf)]
    have hle := not_lt.mp hl
    refine ⟨signedCode_lt ht neg hle, ?_, fun h => ?_, fun h h' => ?_, fun h h' => ?_⟩
    · obtain ⟨m', e', hd, hval⟩ := decodeF_signedCode (t := t) neg hle
      exact ⟨m', e', hd, by rw [realOf_fin, hval, hcv]⟩
    · simp [h]
    · rw [if_pos (hinexact h), if_pos (decide_eq_true h')]
    · rw [if_pos (hinexact h), if_neg (by simpa using h')]

/-- A finite value delivered: its zero with its sign, or RoundTo of it. -/
theorem roundTo_delivers {t : Fmt} (ht : t.isFloat = true) (d : Rnd) (neg : Bool) (m : ℕ) (e : ℤ) :
    deliversReal t d (realOf (.fin neg m e)) neg (roundTo t d neg m e) := by
  rw [realOf_fin]
  by_cases hm : m = 0
  · subst hm
    exact ⟨fun _ => roundTo_zero t d neg e, fun h => absurd (by simp) h⟩
  · have hne : signFactor neg * ((m : ℝ) * 2 ^ e) ≠ 0 := by
      have := (standsFor_self m e).pos hm
      cases neg <;> simp [this.ne']
    exact ⟨fun h => absurd h hne, fun _ => roundTo_rounds ht d neg hm (standsFor_self m e)⟩

end Sys2Proof.Machine

end

section
/-! PROOFS. The exact value of each operation on finite operands, and what stands for quotients and roots (R107, R175, R179). -/

namespace Sys2Proof.Machine

variable {t : Fmt} {d : Rnd} {rm : Round}

/-! ### Delivery -/

theorem isFinite_fin (n : Bool) (m : Nat) (e : Int) : isFinite (.fin n m e) := ⟨n, m, e, rfl⟩

theorem ne_of_isFinite {v : FVal} (h : isFinite v) : v ≠ .nan ∧ ∀ n, v ≠ .inf n := by
  obtain ⟨n, m, e, rfl⟩ := h
  exact ⟨by simp, by simp⟩

theorem realOf_eq_zero {n : Bool} {m : Nat} {e : Int} : realOf (.fin n m e) = 0 ↔ m = 0 := by
  rw [realOf_fin, mul_eq_zero, mul_eq_zero, or_iff_right (by cases n <;> simp), or_iff_left (zpow_pos two_pos e).ne', Nat.cast_eq_zero]

/-- A finite value is delivered with its own sign, or that of its operation where it is zero. -/
theorem deliverF_delivers (ht : t.isFloat = true) (d : Rnd) {v : FVal} (hv : isFinite v) {x : ℝ} {z : Bool} (hx : realOf v = x)
    (hz : x = 0 → signOf v = z) : deliversReal t d x z (deliverF t d v) := by
  obtain ⟨n, m, e, rfl⟩ := hv
  obtain ⟨h0, h1⟩ := roundTo_delivers ht d n m e
  subst hx
  refine ⟨fun h => ?_, h1⟩
  rw [← hz h]
  exact h0 h

theorem resultF_delivers (ht : t.isFloat = true) (d : Rnd) {v : FVal} (hv : isFinite v) {x : ℝ} {z : Bool} (hx : realOf v = x)
    (hz : x = 0 → signOf v = z) : deliversReal t d x z (resultF t d (v, 0)) := by
  rw [resultF_noFlags]
  exact deliverF_delivers ht d hv hx hz

theorem isFloat_of_mem (ht : t ∈ floatFmts) : t.isFloat = true := by
  simp only [floatFmts, List.mem_cons, List.not_mem_nil, or_false] at ht
  obtain rfl | rfl | rfl := ht <;> rfl

/-! ### Sums and products -/

theorem signInt_cast (n : Bool) (m : Nat) : ((signInt n m : ℤ) : ℝ) = signFactor n * m := by cases n <;> simp [signInt]

/-- A magnitude in units of a lower exponent. -/
theorem signInt_scaled (n : Bool) (m : Nat) {e f : Int} (h : f ≤ e) :
    ((signInt n (m * 2 ^ (e - f).toNat) : ℤ) : ℝ) * 2 ^ f = realOf (.fin n m e) := by
  rw [signInt_cast, realOf_fin]
  push_cast
  rw [← zpow_natCast, Int.toNat_of_nonneg (by omega), zpow_sub₀ two_ne_zero]
  field_simp

theorem realOf_signed (v : ℤ) (e : Int) : realOf (.fin (decide (v < 0)) v.natAbs e) = v * 2 ^ e := by
  rw [realOf_fin, ← mul_assoc, Nat.cast_natAbs, Int.cast_abs]
  congr 1
  by_cases h : v < 0
  · have : (v : ℝ) < 0 := by exact_mod_cast h
    simp [h, abs_of_neg this]
  · have : (0 : ℝ) ≤ v := by exact_mod_cast not_lt.mp h
    simp [h, abs_of_nonneg this]

/-- The exact sum, and its sign where it is zero (R107 step 4). -/
theorem addFin_sum (rm : Round) (n : Bool) (m : Nat) (e : Int) (k : Bool) (l : Nat) (f : Int) :
    realOf (addFin rm n m e k l f) = realOf (.fin n m e) + realOf (.fin k l f)
      ∧ (realOf (.fin n m e) + realOf (.fin k l f) = 0 → signOf (addFin rm n m e k l f) = sumNeg rm n k) := by
  unfold addFin
  dsimp only
  set g := if m = 0 then f else if l = 0 then e else if e < f then e else f with hg
  set a := if m = 0 then 0 else signInt n (m * 2 ^ (e - g).toNat) with ha
  set b := if l = 0 then 0 else signInt k (l * 2 ^ (f - g).toNat) with hb
  have h2 : (0 : ℝ) < 2 ^ g := zpow_pos two_pos g
  have hsa : (a : ℝ) * 2 ^ g = realOf (.fin n m e) := by
    by_cases h : m = 0
    · rw [ha, if_pos h, realOf_eq_zero.mpr h, Int.cast_zero, zero_mul]
    · rw [ha, if_neg h]
      exact signInt_scaled n m (by rw [hg, if_neg h]; split_ifs <;> omega)
  have hsb : (b : ℝ) * 2 ^ g = realOf (.fin k l f) := by
    by_cases h : l = 0
    · rw [hb, if_pos h, realOf_eq_zero.mpr h, Int.cast_zero, zero_mul]
    · rw [hb, if_neg h]
      exact signInt_scaled k l (by rw [hg, if_neg h]; split_ifs <;> omega)
  have hsum : ((a + b : ℤ) : ℝ) * 2 ^ g = realOf (.fin n m e) + realOf (.fin k l f) := by
    rw [← hsa, ← hsb, Int.cast_add, add_mul]
  rw [← hsum]
  by_cases h : a + b = 0
  · rw [if_pos h, h, realOf_eq_zero.mpr rfl]
    exact ⟨by simp, fun _ => rfl⟩
  · rw [if_neg h, realOf_signed]
    refine ⟨rfl, fun h0 => absurd ((mul_eq_zero.mp h0).resolve_right h2.ne') ?_⟩
    exact_mod_cast h

theorem realOf_product (n k : Bool) (m l : Nat) (e f : Int) :
    realOf (.fin (n ^^ k) (m * l) (e + f)) = realOf (.fin n m e) * realOf (.fin k l f) := by
  rw [realOf_fin, realOf_fin, realOf_fin, signFactor_xor, zpow_add₀ two_ne_zero]
  push_cast
  ring

theorem realOf_neg (n : Bool) (m : Nat) (e : Int) : realOf (.fin (!n) m e) = -realOf (.fin n m e) := by
  rw [realOf_fin, realOf_fin, signFactor_not, neg_mul]

/-! ### Quotients and roots, to more bits than any format rounds -/

/-- A floor with a last bit that is set when more follows stands for its value. -/
theorem standsFor_of_floor {q : ℕ} {y : ℝ} (e : ℤ) (exact : Prop) [Decidable exact] (h1 : (q : ℝ) ≤ y) (h2 : y < q + 1) (hx : exact ↔ y = q)
    (h60 : 2 ^ 60 ≤ q) : standsFor (2 * q + if exact then 0 else 1) (e - 1) (y * 2 ^ e) := by
  have he : (2 : ℝ) ^ e = 2 * 2 ^ (e - 1) := by rw [← zpow_one_add₀ two_ne_zero, add_sub_cancel]
  have hp : (0 : ℝ) < 2 ^ (e - 1) := zpow_pos two_pos _
  by_cases hc : exact
  · left
    rw [if_pos hc, hx.mp hc, he]
    push_cast
    ring
  · right
    have hlt : (q : ℝ) < y := lt_of_le_of_ne h1 fun h => hc (hx.mpr h.symm)
    rw [if_neg hc, he]
    push_cast
    refine ⟨by omega, by omega, ?_, ?_⟩ <;> nlinarith

theorem quotient_stands {m n : ℕ} (hm : m ≠ 0) (hn : n ≠ 0) (e : ℤ) :
    standsFor (quotient m n e).1 (quotient m n e).2 (m / n * 2 ^ e) := by
  set k := 100 + Nat.log2 n with hk
  have hn' : (0 : ℝ) < n := by exact_mod_cast Nat.pos_of_ne_zero hn
  have hd : ((m * 2 ^ k : ℕ) : ℝ) = n * (m * 2 ^ k / n : ℕ) + (m * 2 ^ k % n : ℕ) := by exact_mod_cast (Nat.div_add_mod (m * 2 ^ k) n).symm
  have hmod : ((m * 2 ^ k % n : ℕ) : ℝ) < n := by exact_mod_cast Nat.mod_lt _ (Nat.pos_of_ne_zero hn)
  have hmod0 : (0 : ℝ) ≤ (m * 2 ^ k % n : ℕ) := Nat.cast_nonneg _
  have hX : (m / n * 2 ^ e : ℝ) = ((m * 2 ^ k : ℕ) : ℝ) / n * 2 ^ (e - k) := by
    rw [zpow_sub₀ two_ne_zero, zpow_natCast]
    push_cast
    field_simp
  rw [hX]
  refine standsFor_of_floor (e - k) (m * 2 ^ k % n = 0) ?_ ?_ ?_ ?_
  · rw [le_div_iff₀ hn']
    linarith
  · rw [div_lt_iff₀ hn']
    linarith
  · rw [div_eq_iff hn'.ne', hd]
    constructor
    · intro h
      rw [h]
      push_cast
      ring
    · intro h
      have : ((m * 2 ^ k % n : ℕ) : ℝ) = 0 := by linarith
      exact_mod_cast this
  · rw [Nat.le_div_iff_mul_le (Nat.pos_of_ne_zero hn)]
    calc 2 ^ 60 * n ≤ 2 ^ 60 * 2 ^ (Nat.log2 n + 1) := Nat.mul_le_mul_left _ Nat.lt_log2_self.le
      _ = 2 ^ (60 + (Nat.log2 n + 1)) := (Nat.pow_add ..).symm
      _ ≤ 2 ^ k := Nat.pow_le_pow_right (by decide) (by omega)
      _ ≤ m * 2 ^ k := Nat.le_mul_of_pos_left _ (Nat.pos_of_ne_zero hm)

theorem isqrtBits_spec : ∀ (n v r : ℕ), r * r ≤ v → v < (r + 2 ^ n) * (r + 2 ^ n) →
    isqrtBits n v r * isqrtBits n v r ≤ v ∧ v < (isqrtBits n v r + 1) * (isqrtBits n v r + 1)
  | 0, v, r, h1, h2 => ⟨h1, by simpa [isqrtBits] using h2⟩
  | n + 1, v, r, h1, h2 => by
    rw [isqrtBits]
    split
    · rename_i h
      exact isqrtBits_spec n v _ h (by rwa [show r + 2 ^ n + 2 ^ n = r + 2 ^ (n + 1) by ring])
    · rename_i h
      exact isqrtBits_spec n v r h1 (not_le.mp h)

theorem isqrt_spec (v : ℕ) : isqrt v * isqrt v ≤ v ∧ v < (isqrt v + 1) * (isqrt v + 1) := by
  refine isqrtBits_spec _ v 0 (Nat.zero_le v) ?_
  calc v < 2 ^ (Nat.log2 v + 1) := Nat.lt_log2_self
    _ ≤ 2 ^ (2 * (Nat.log2 v / 2 + 1)) := Nat.pow_le_pow_right (by decide) (by omega)
    _ = (0 + 2 ^ (Nat.log2 v / 2 + 1)) * (0 + 2 ^ (Nat.log2 v / 2 + 1)) := by rw [Nat.zero_add, ← Nat.pow_add]; congr 1; omega

/-- The root of a number with 2^120 below it, by its floor. -/
theorem root_floor {r : ℕ} {y : ℝ} (h1 : ((r * r : ℕ) : ℝ) ≤ y) (h2 : y < ((r + 1) * (r + 1) : ℕ)) (hy : (2 : ℝ) ^ 122 ≤ y) :
    (r : ℝ) ≤ √y ∧ √y < r + 1 ∧ (y = (r * r : ℕ) ↔ √y = r) ∧ 2 ^ 60 ≤ r := by
  have hr : (0 : ℝ) ≤ r := Nat.cast_nonneg r
  have hy0 : 0 ≤ y := le_trans (by positivity) hy
  push_cast at h1 h2
  refine ⟨Real.le_sqrt_of_sq_le (by nlinarith), (Real.sqrt_lt' (by linarith)).mpr (by nlinarith), ?_, ?_⟩
  · rw [Real.sqrt_eq_iff_mul_self_eq hy0 hr]
    push_cast
    exact Iff.rfl
  · by_contra hc
    have : ((r + 1 : ℕ) : ℝ) ≤ 2 ^ 60 := by exact_mod_cast (show r + 1 ≤ 2 ^ 60 by omega)
    push_cast at this
    nlinarith

theorem sqrtVal_stands {m : ℕ} (hm : m ≠ 0) (e : ℤ) : standsFor (sqrtVal m e).1 (sqrtVal m e).2 (√(m * 2 ^ e)) := by
  set k : ℕ := if e % 2 = 0 then 200 else 201 with hk
  have hk200 : 200 ≤ k := by rw [hk]; split <;> decide
  have heven : e = k + 2 * ((e - k) / 2) := by rw [hk]; split <;> omega
  obtain ⟨h1, h2⟩ := isqrt_spec (m * 2 ^ k)
  have hm1 : (1 : ℝ) ≤ m := by exact_mod_cast Nat.one_le_iff_ne_zero.mpr hm
  have hy : (2 : ℝ) ^ 122 ≤ (m * 2 ^ k : ℕ) := by
    push_cast
    have : (2 : ℝ) ^ 122 ≤ 2 ^ k := pow_le_pow_right₀ one_le_two (by omega)
    nlinarith [pow_pos (two_pos (α := ℝ)) k]
  obtain ⟨hr1, hr2, hr3, hr4⟩ := root_floor (y := (m * 2 ^ k : ℕ)) (by exact_mod_cast h1) (by exact_mod_cast h2) hy
  have hX : √((m : ℝ) * 2 ^ e) = √((m * 2 ^ k : ℕ) : ℝ) * 2 ^ ((e - k) / 2) := by
    have : (m : ℝ) * 2 ^ e = (m * 2 ^ k : ℕ) * (2 ^ ((e - k) / 2)) ^ 2 := by
      push_cast
      rw [mul_assoc, ← zpow_natCast 2 k, ← zpow_natCast _ 2, ← zpow_mul, ← zpow_add₀ two_ne_zero]
      congr 2
      push_cast
      omega
    rw [this, Real.sqrt_mul (Nat.cast_nonneg _), Real.sqrt_sq (zpow_pos two_pos _).le]
  rw [hX]
  exact standsFor_of_floor _ (isqrt (m * 2 ^ k) * isqrt (m * 2 ^ k) = m * 2 ^ k) hr1 hr2 (by rw [← hr3]; norm_cast; exact eq_comm) hr4

theorem rsqrtVal_stands {m : ℕ} (hm : m ≠ 0) (e : ℤ) : standsFor (rsqrtVal m e).1 (rsqrtVal m e).2 (1 / √(m * 2 ^ e)) := by
  set k : ℕ := 2 * Nat.log2 m + (if e % 2 = 0 then 200 else 201) with hk
  have hkm : Nat.log2 m + 1 + 122 ≤ k := by rw [hk]; split <;> omega
  have heven : -e = k + 2 * (-((e + k) / 2)) := by rw [hk]; split <;> push_cast <;> omega
  have hm0 : (0 : ℝ) < m := by exact_mod_cast Nat.pos_of_ne_zero hm
  obtain ⟨h1, h2⟩ := isqrt_spec (2 ^ k / m)
  set r := isqrt (2 ^ k / m) with hr
  have h1' : r * r * m ≤ 2 ^ k := (Nat.le_div_iff_mul_le (Nat.pos_of_ne_zero hm)).mp h1
  have h2' : 2 ^ k < (r + 1) * (r + 1) * m := (Nat.div_lt_iff_lt_mul (Nat.pos_of_ne_zero hm)).mp h2
  have hy : (2 : ℝ) ^ 122 ≤ 2 ^ k / m := by
    rw [le_div_iff₀ hm0]
    have hlt : (m : ℝ) ≤ 2 ^ (Nat.log2 m + 1) := by exact_mod_cast (Nat.lt_log2_self (n := m)).le
    calc (2 : ℝ) ^ 122 * m ≤ 2 ^ 122 * 2 ^ (Nat.log2 m + 1) := mul_le_mul_of_nonneg_left hlt (by positivity)
      _ = 2 ^ (122 + (Nat.log2 m + 1)) := (pow_add ..).symm
      _ ≤ 2 ^ k := pow_le_pow_right₀ one_le_two (by omega)
  obtain ⟨hr1, hr2, hr3, hr4⟩ := root_floor (r := r) (y := 2 ^ k / m) (by rw [le_div_iff₀ hm0]; exact_mod_cast h1')
    (by rw [div_lt_iff₀ hm0]; exact_mod_cast h2') hy
  have hX : 1 / √((m : ℝ) * 2 ^ e) = √((2 : ℝ) ^ k / m) * 2 ^ (-((e + k) / 2)) := by
    have : 1 / ((m : ℝ) * 2 ^ e) = (2 : ℝ) ^ k / m * (2 ^ (-((e + k) / 2))) ^ 2 := by
      rw [one_div, mul_inv, ← zpow_neg, div_eq_inv_mul, mul_assoc, ← zpow_natCast 2 k, ← zpow_natCast _ 2, ← zpow_mul, ← zpow_add₀ two_ne_zero]
      congr 2
      push_cast
      omega
    rw [← Real.sqrt_one, ← Real.sqrt_div zero_le_one, this, Real.sqrt_mul (by positivity), Real.sqrt_sq (zpow_pos two_pos _).le]
  rw [hX]
  refine standsFor_of_floor _ (r * r * m = 2 ^ k) hr1 hr2 ?_ hr4
  rw [← hr3, div_eq_iff hm0.ne']
  norm_cast
  exact eq_comm

end Sys2Proof.Machine

end

section
/-! PROOFS. What O15 says of the operations on finite operands: quotients, the order, and the functions where they are exact (R175 to R177, R179). -/

namespace Sys2Proof.Machine

variable {t : Fmt} {rm : Round} {z : Bool} {a b c : ℕ} {n k : Bool} {m l : ℕ} {e f : ℤ}

/-! ### The arithmetic (R175) and the order (R176, R177) -/

theorem deliversReal_of_rounds {d : Rnd} {v : ℝ} {s : Bool} {r : Nat × FFlags} (hv : v ≠ 0) (hr : roundsTo t d v r) : deliversReal t d v s r :=
  ⟨fun h => absurd h hv, fun _ => hr⟩

theorem standsFor.ne_zero {X : ℝ} (hs : standsFor m e X) (hX : X ≠ 0) : m ≠ 0 := by
  rintro rfl
  obtain h | ⟨-, h, -⟩ := hs
  · exact hX (by simpa using h)
  · omega

/-- What stands for a magnitude rounds a result. -/
theorem resultF_rounds (ht : t.isFloat = true) (d : Rnd) (neg : Bool) {j : ℕ} {g : ℤ} {X : ℝ} (hX : X ≠ 0) (hs : standsFor j g X) :
    roundsTo t d (signFactor neg * X) (resultF t d (.fin neg j g, 0)) := by
  rw [resultF_noFlags]
  exact roundTo_rounds ht d neg (hs.ne_zero hX) hs

/-- A quotient of finite values, rounded. -/
theorem divF_rounds (ht : t.isFloat = true) (d : Rnd) (hl : l ≠ 0) :
    deliversReal t d (realOf (.fin n m e) / realOf (.fin k l f)) (n ^^ k) (resultF t d (divF (.fin n m e) (.fin k l f))) := by
  have hdiv : divF (.fin n m e) (.fin k l f) = (.fin (n ^^ k) (quotient m l (e - f)).1 (quotient m l (e - f)).2, 0) := by rw [divF, if_neg hl]
  have hv : realOf (.fin n m e) / realOf (.fin k l f) = signFactor (n ^^ k) * (m / l * 2 ^ (e - f)) := by
    have hs : signFactor n / signFactor k = signFactor n * signFactor k := by cases k <;> simp [div_neg]
    rw [realOf_fin, realOf_fin, signFactor_xor, zpow_sub₀ two_ne_zero, mul_div_mul_comm, mul_div_mul_comm (m : ℝ), hs]
  have hl' : (0 : ℝ) < l := by exact_mod_cast Nat.pos_of_ne_zero hl
  rw [hdiv, hv]
  by_cases hm : m = 0
  · subst hm
    have h0 : (quotient 0 l (e - f)).1 = 0 := by simp [quotient]
    refine ⟨fun _ => ?_, fun h => absurd (by simp) h⟩
    rw [h0]
    exact resultF_zero t d _ _ _
  · have hm' : (0 : ℝ) < m := by exact_mod_cast Nat.pos_of_ne_zero hm
    have hX : (m / l * 2 ^ (e - f) : ℝ) ≠ 0 := (mul_pos (div_pos hm' hl') (zpow_pos two_pos _)).ne'
    refine deliversReal_of_rounds (by cases n <;> cases k <;> simpa using hX) ?_
    exact resultF_rounds ht d _ hX (quotient_stands hm hl (e - f))

/-- The order of finite values is that of the reals. -/
theorem compareF_fin (n : Bool) (m : ℕ) (e : ℤ) (k : Bool) (l : ℕ) (f : ℤ) : ∃ d, compareF (.fin n m e) (.fin k l f) = some d
    ∧ (d < 0 ↔ realOf (.fin n m e) < realOf (.fin k l f)) ∧ (d = 0 ↔ realOf (.fin n m e) = realOf (.fin k l f)) := by
  unfold compareF
  dsimp only
  set g := if e < f then e else f with hg
  have hp : (0 : ℝ) < 2 ^ g := zpow_pos two_pos g
  have he : g ≤ e ∧ g ≤ f := by rw [hg]; split <;> omega
  rw [← signInt_scaled n m he.1, ← signInt_scaled k l he.2, mul_lt_mul_iff_left₀ hp, mul_left_inj' hp.ne', Int.cast_lt, Int.cast_inj]
  generalize signInt n (m * 2 ^ (e - g).toNat) = x
  generalize signInt k (l * 2 ^ (f - g).toNat) = y
  refine ⟨_, rfl, ?_⟩
  obtain h | h | h := lt_trichotomy x y
  · rw [if_pos (by omega)]
    exact ⟨iff_of_true (by decide) h, iff_of_false (by decide) h.ne⟩
  · rw [if_neg (by omega), if_pos (by omega)]
    exact ⟨iff_of_false (by decide) (by omega), iff_of_true rfl h⟩
  · rw [if_neg (by omega), if_neg (by omega)]
    exact ⟨iff_of_false (by decide) (by omega), iff_of_false (by decide) h.ne'⟩

/-- FMIN and FMAX of two values that differ. -/
theorem minmaxF_of_lt (max : Bool) (h : realOf (.fin n m e) < realOf (.fin k l f)) :
    minmaxF max (.fin n m e) (.fin k l f) = (if max then .fin k l f else .fin n m e)
      ∧ minmaxF max (.fin k l f) (.fin n m e) = (if max then .fin k l f else .fin n m e) := by
  obtain ⟨d, hd, h1, -⟩ := compareF_fin n m e k l f
  obtain ⟨d', hd', h1', h2'⟩ := compareF_fin k l f n m e
  have hlt : d < 0 := h1.mpr h
  have hge : ¬d' < 0 ∧ ¬d' = 0 := ⟨fun h' => absurd (h1'.mp h') h.asymm, fun h' => absurd (h2'.mp h') h.ne'⟩
  have hb1 : belowF (.fin n m e) (.fin k l f) = true := by simp [belowF, hd, hlt]
  have hb2 : belowF (.fin k l f) (.fin n m e) = false := by simp [belowF, hd', hge]
  rw [minmaxF_of_ne_nan _ (by simp) (by simp), minmaxF_of_ne_nan _ (by simp) (by simp), hb1, hb2]
  cases max <;> exact ⟨rfl, rfl⟩

/-! ### The exact cases of the functions (R179) -/

/-- A power of two, rounded. -/
theorem roundTo_two_pow (ht : t.isFloat = true) (d : Rnd) (n : ℤ) : roundsTo t d (2 ^ n) (roundTo t d false 1 n) := by
  have := roundTo_rounds ht d false one_ne_zero (standsFor_self 1 n)
  simpa using this

theorem roundAt_one_far (z neg : Bool) {q r : ℤ} (h : q + 30 ≤ r) : roundAt { ftz := z } neg 1 q r = (0, true) := by
  have h30 : Nat.min (r - q).toNat (Nat.log2 1 + 30) = 30 := by
    rw [show Nat.log2 1 = 0 by decide]
    exact Nat.min_eq_right (by omega)
  rw [roundAt, if_neg (by omega), h30]
  rfl

/-- Every power of two far beyond the largest value rounds alike, and every one far below the smallest. -/
theorem roundTo_far (ht : t.isFloat = true) (z : Bool) {n m : ℤ} (h : 1000 ≤ n ∧ 1000 ≤ m ∨ n ≤ -1000 ∧ m ≤ -1000) :
    roundTo t { ftz := z } false 1 n = roundTo t { ftz := z } false 1 m := by
  have hF : (Fmt.form t).fbits ≤ 23 := fbits_le t
  have hsub : -200 ≤ (Fmt.form t).esub ∧ (Fmt.form t).esub + (Fmt.form t).fbits = (Fmt.form t).emin := by revert ht; cases t <;> decide
  have hmax : Fmt.maxCode t < 2 ^ (Fmt.form t).fbits * 500 ∧ (Fmt.form t).esub ≤ 0 := by revert ht; cases t <;> decide
  have hlog : Nat.log2 1 = 0 := by decide
  obtain h | h := h
  · have huge : ∀ q : ℤ, 1000 ≤ q → roundTo t { ftz := z } false 1 q = (overflowCode t { ftz := z } false, FFlags.OF ||| FFlags.NX) := fun q hq => by
      have hv : roundAt { ftz := z } false 1 q (q - (Fmt.form t).fbits) = (2 ^ (Fmt.form t).fbits, false) := by
        rw [roundAt, if_pos (by omega), show (q - (q - ((Fmt.form t).fbits : ℤ))).toNat = (Fmt.form t).fbits by omega, Nat.one_mul]
      have hc : Fmt.maxCode t < 2 ^ (Fmt.form t).fbits + (q - (Fmt.form t).fbits - (Fmt.form t).esub).toNat * 2 ^ (Fmt.form t).fbits := by
        have : 500 * 2 ^ (Fmt.form t).fbits ≤ (q - (Fmt.form t).fbits - (Fmt.form t).esub).toNat * 2 ^ (Fmt.form t).fbits :=
          Nat.mul_le_mul_right _ (by omega)
        omega
      simp only [roundTo, if_neg one_ne_zero, hlog, Nat.cast_zero, add_zero, if_neg (show ¬q - ((Fmt.form t).fbits : ℤ) < (Fmt.form t).esub by omega), hv,
        if_pos hc]
    rw [huge n h.1, huge m h.2]
  · have minute : ∀ q : ℤ, q ≤ -1000 → roundTo t { ftz := z } false 1 q =
        if z && t.isScalarF then (signedCode t false 0, FFlags.UF ||| FFlags.NX) else (signedCode t false 0, FFlags.UF ||| FFlags.NX) := fun q hq => by
      have hv : roundAt { ftz := z } false 1 q (Fmt.form t).esub = (0, true) := roundAt_one_far z false (by omega)
      have hvn : roundAt { ftz := z } false 1 q (q - (Fmt.form t).fbits) = (2 ^ (Fmt.form t).fbits, false) := by
        rw [roundAt, if_pos (by omega), show (q - (q - ((Fmt.form t).fbits : ℤ))).toNat = (Fmt.form t).fbits by omega, Nat.one_mul]
      have htiny : q - ((Fmt.form t).fbits : ℤ) + (Fmt.form t).fbits < (Fmt.form t).emin := by omega
      simp only [roundTo, if_neg one_ne_zero, hlog, Nat.cast_zero, add_zero, if_pos (show q - ((Fmt.form t).fbits : ℤ) < (Fmt.form t).esub by omega), hv, hvn,
        sub_self, Int.toNat_zero, Nat.zero_mul, Nat.not_lt_zero, if_false, Nat.log2_two_pow, htiny, decide_true, Bool.and_true, if_true]
    rw [minute n h.1, minute m h.2]

/-- 2^a of an integer a. -/
theorem exp2Fin_rounds (ht : t.isFloat = true) (z neg : Bool) (m : ℕ) (e : ℤ) (a : ℕ) {n : ℤ} (hn : realOf (.fin neg m e) = n) :
    roundsTo t { ftz := z } (2 ^ n) (exp2Fin t { ftz := z } neg m e a) := by
  rw [realOf_fin] at hn
  unfold exp2Fin
  by_cases hm : m = 0
  · have : n = 0 := by subst hm; simpa using hn.symm
    rw [if_pos hm, this]
    exact roundTo_two_pow ht _ 0
  rw [if_neg hm]
  have hpos := (standsFor_self m e).pos hm
  by_cases hbig : 20 ≤ e + Nat.log2 m
  · rw [if_pos hbig]
    have hlo := ((standsFor_self m e).bounds hm).1
    have h20 : (2 : ℝ) ^ 20 ≤ m * 2 ^ e := by
      refine le_trans ?_ hlo
      rw [← zpow_natCast]
      exact zpow_le_zpow_two (by exact_mod_cast hbig)
    cases neg with
    | true =>
      have hn' : n ≤ -1000 := by
        have : (n : ℝ) ≤ -1000 := by rw [← hn, signFactor_true]; linarith
        exact_mod_cast this
      show roundsTo t _ _ (roundTo t { ftz := z } false 1 (-100000))
      rw [roundTo_far ht z (m := n) (.inr ⟨by decide, hn'⟩)]
      exact roundTo_two_pow ht _ n
    | false =>
      have hn' : 1000 ≤ n := by
        have : (1000 : ℝ) ≤ n := by rw [← hn, signFactor_false]; linarith
        exact_mod_cast this
      show roundsTo t _ _ (roundTo t { ftz := z } false 1 100000)
      rw [roundTo_far ht z (m := n) (.inl ⟨by decide, hn'⟩)]
      exact roundTo_two_pow ht _ n
  · rw [if_neg hbig]
    by_cases he : 0 ≤ e
    · rw [if_pos he]
      have : n = signInt neg (m * 2 ^ e.toNat) := by
        have h := signInt_scaled neg m (e := e) (f := 0) he
        rw [sub_zero, zpow_zero, mul_one, realOf_fin, hn] at h
        exact_mod_cast h.symm
      rw [this]
      exact roundTo_two_pow ht _ _
    · rw [if_neg he]
      have hx : signInt neg m = n * 2 ^ (-e).toNat := by
        have h : ((signInt neg m : ℤ) : ℝ) = n * 2 ^ (-e).toNat := by
          rw [signInt_cast, ← hn, ← zpow_natCast, Int.toNat_of_nonneg (by omega), zpow_neg, mul_assoc, mul_assoc,
            mul_inv_cancel₀ (zpow_pos two_pos e).ne', mul_one]
        exact_mod_cast h
      have hk : ((2 : ℤ) ^ (-e).toNat) ≠ 0 := by positivity
      simp only [hx, Int.mul_fmod_left, Int.toNat_zero, if_true, Int.mul_fdiv_cancel _ hk]
      exact roundTo_two_pow ht _ n

/-- log2 of a power of two. -/
theorem log2Fin_delivers (ht : t.isFloat = true) (d : Rnd) {m : ℕ} {e : ℤ} (a : ℕ) {n : ℤ} (hn : realOf (.fin false m e) = 2 ^ n) :
    deliversReal t d n false (log2Fin t d m e a) := by
  rw [realOf_fin, signFactor_false, one_mul] at hn
  have hm : m ≠ 0 := by
    rintro rfl
    rw [Nat.cast_zero, zero_mul] at hn
    exact absurd hn (zpow_pos two_pos n).ne
  have hle : 0 ≤ n - e := by
    by_contra hc
    have h1 : (1 : ℝ) ≤ m := by exact_mod_cast Nat.one_le_iff_ne_zero.mpr hm
    have h2 : (2 : ℝ) ^ n < 2 ^ e := zpow_lt_zpow_right₀ one_lt_two (by omega)
    nlinarith [zpow_pos (two_pos (α := ℝ)) e]
  have hpow : m = 2 ^ (n - e).toNat := by
    have h : (m : ℝ) = 2 ^ (n - e).toNat := by
      rw [← zpow_natCast, Int.toNat_of_nonneg hle, zpow_sub₀ two_ne_zero, ← hn, mul_div_cancel_right₀ _ (zpow_pos two_pos e).ne']
    exact_mod_cast h
  have hlog : Nat.log2 m = (n - e).toNat := by rw [hpow, Nat.log2_two_pow]
  unfold log2Fin
  dsimp only
  rw [hlog, if_pos hpow, show e + ((n - e).toNat : ℤ) = n by omega]
  refine deliverF_delivers ht d (isFinite_fin _ _ _) ?_ fun h => ?_
  · rw [realOf_signed, zpow_zero, mul_one]
  · have : n = 0 := by exact_mod_cast h
    subst this
    rfl

/-- The sine of a number of half turns. -/
theorem sin_half_turns (j : ℕ) : Real.sin (Real.pi * (j / 2)) = if j % 2 = 0 then 0 else if j % 4 = 1 then 1 else -1 := by
  have hj : (j : ℝ) = (j % 4 : ℕ) + 4 * (j / 4 : ℕ) := by exact_mod_cast (Nat.mod_add_div j 4).symm
  have hper : Real.pi * (j / 2) = Real.pi * ((j % 4 : ℕ) / 2) + (j / 4 : ℕ) * (2 * Real.pi) := by
    rw [hj]
    ring
  rw [hper, Real.sin_add_nat_mul_two_pi]
  have h4 : j % 4 = 0 ∨ j % 4 = 1 ∨ j % 4 = 2 ∨ j % 4 = 3 := by omega
  obtain h | h | h | h := h4
  · rw [h, if_pos (by omega)]
    simp
  · rw [h, if_neg (by omega), if_pos rfl]
    rw [Nat.cast_one, mul_one_div, Real.sin_pi_div_two]
  · rw [h, if_pos (by omega)]
    rw [show Real.pi * (((2 : ℕ) : ℝ) / 2) = Real.pi by push_cast; ring, Real.sin_pi]
  · rw [h, if_neg (by omega), if_neg (by decide)]
    rw [show Real.pi * (((3 : ℕ) : ℝ) / 2) = Real.pi / 2 + Real.pi by push_cast; ring, Real.sin_add_pi, Real.sin_pi_div_two]

/-- The sine by half turns, delivered with a sign. -/
theorem sinPi_delivers (ht : t.isFloat = true) (d : Rnd) (neg zeroNeg : Bool) {n k j : ℕ} (fn a : ℕ) (hk : 0 < k) (h : 2 * n = j * k) :
    deliversReal t d (signFactor neg * Real.sin (Real.pi * (j / 2))) zeroNeg (sinPi t d neg zeroNeg n k fn a) := by
  rw [sin_half_turns, sinPi_of_half_turns t d neg zeroNeg fn a hk h]
  by_cases h2 : j % 2 = 0
  · rw [if_pos h2, if_pos h2, mul_zero]
    exact ⟨fun _ => roundTo_zero t d zeroNeg 0, fun h => absurd rfl h⟩
  · rw [if_neg h2, if_neg h2]
    have one : ∀ s : Bool, roundsTo t d (signFactor s) (roundTo t d s 1 0) := fun s => by
      have := roundTo_rounds ht d s one_ne_zero (standsFor_self 1 0)
      simpa using this
    split
    · rw [mul_one]
      exact deliversReal_of_rounds (by cases neg <;> simp) (one neg)
    · rw [mul_neg_one, ← signFactor_not]
      exact deliversReal_of_rounds (by cases neg <;> simp) (one (!neg))

/-- A magnitude as its fraction. -/
theorem fraction_value (m : ℕ) (e : ℤ) : (m : ℝ) * 2 ^ e * (fraction m e).2 = (fraction m e).1 := by
  unfold fraction
  by_cases he : 0 ≤ e
  · rw [if_pos he]
    push_cast
    rw [mul_one, ← zpow_natCast, Int.toNat_of_nonneg he]
  · rw [if_neg he]
    push_cast
    rw [← zpow_natCast, Int.toNat_of_nonneg (by omega), mul_assoc, ← zpow_add₀ two_ne_zero, add_neg_cancel, zpow_zero, mul_one]

/-- A multiple of a half is a number of half turns. -/
theorem fraction_half_turns {neg : Bool} {m : ℕ} {e n : ℤ} (hn : 2 * realOf (.fin neg m e) = n) :
    2 * (fraction m e).1 = n.natAbs * (fraction m e).2 ∧ realOf (.fin neg m e) = signFactor neg * (n.natAbs / 2) := by
  have habs : 2 * ((m : ℝ) * 2 ^ e) = n.natAbs := by
    rw [Nat.cast_natAbs, Int.cast_abs, ← hn, abs_mul, abs_two, realOf_fin, abs_signFactor_mul,
      abs_of_nonneg (mul_nonneg (Nat.cast_nonneg m) (zpow_pos two_pos e).le)]
  constructor
  · have h : 2 * ((fraction m e).1 : ℝ) = n.natAbs * (fraction m e).2 := by rw [← fraction_value, ← habs]; ring
    exact_mod_cast h
  · rw [realOf_fin, ← habs]
    ring

end Sys2Proof.Machine

end

section
/-! PROOFS. What O15 says of dot products and conversions, and the statement (R112, R182, R186, R191 to R193). -/

namespace Sys2Proof.Machine

variable {t : Fmt} {rm : Round} {z : Bool} {a b c : ℕ}

/-! ### Dot products (R182) -/

/-- A sum of finite values is finite, and exact. -/
theorem foldl_addF_finite (rm : Round) : ∀ (l : List (FVal × FFlags)) (v : FVal), isFinite v → (∀ p ∈ l, isFinite p.1) →
    ∃ w, l.foldl (fun v p => addF rm v.1 p.1) (v, 0) = (w, 0) ∧ isFinite w ∧ realOf w = realOf v + (l.map fun p => realOf p.1).sum
  | [], v, hv, _ => ⟨v, rfl, hv, by simp⟩
  | (p, q) :: l, v, hv, hl => by
    obtain ⟨n, m, e, rfl⟩ := hv
    obtain ⟨k, j, f, rfl⟩ := hl (p, q) List.mem_cons_self
    obtain ⟨w, h1, h2, h3⟩ := foldl_addF_finite rm l (addFin rm n m e k j f) (isFinite_addFin ..) fun r hr => hl r (List.mem_cons_of_mem _ hr)
    refine ⟨w, h1, h2, ?_⟩
    rw [h3, (addFin_sum rm n m e k j f).1, List.map_cons, List.sum_cons, add_assoc]

/-- The dot products of finite elements round c plus the exact sum of the products. -/
theorem dotBits_rounds (t : Fmt) (n : ℕ) (rm : Round) (z : Bool) (a b c : ℕ) :
    let x := fun i => readF t z (element t.bits a i)
    let y := fun i => readF t z (element t.bits b i)
    isFinite (readF .f32 z c) → (∀ i < n, isFinite (x i) ∧ isFinite (y i)) →
      let v := realOf (readF .f32 z c) + ∑ i ∈ Finset.range n, realOf (x i) * realOf (y i)
      (v = 0 → ∃ neg, dotBits n t rm z a b c = (zeroOf .f32 neg, 0)) ∧ (v ≠ 0 → roundsTo .f32 { mode := rm, ftz := z } v (dotBits n t rm z a b c)) := by
  intro x y hc hxy
  have hprod : ∀ i < n, isFinite (mulF (x i) (y i)).1 ∧ realOf (mulF (x i) (y i)).1 = realOf (x i) * realOf (y i) := fun i hi => by
    obtain ⟨⟨k, m, e, h1⟩, ⟨k', m', e', h2⟩⟩ := hxy i hi
    rw [h1, h2, mulF_fin_fin]
    exact ⟨isFinite_fin _ _ _, realOf_product ..⟩
  have hmem : ∀ p ∈ dotProducts n t z a b, isFinite p.1 := fun p hp => by
    obtain ⟨i, hi, rfl⟩ := mem_dotProducts.mp hp
    exact (hprod i hi).1
  obtain ⟨w, h1, hw, h3⟩ := foldl_addF_finite rm _ _ hc hmem
  have hsum : ((dotProducts n t z a b).map fun p => realOf p.1).sum = ∑ i ∈ Finset.range n, realOf (x i) * realOf (y i) := by
    rw [dotProducts, List.map_map, Finset.sum_eq_multiset_sum, Finset.range_val, Multiset.range, Multiset.map_coe, Multiset.sum_coe]
    exact congrArg List.sum (List.map_congr_left fun i hi => (hprod i (List.mem_range.mp hi)).2)
  have hbits : dotBits n t rm z a b c = resultF .f32 { mode := rm, ftz := z } (w, 0) := by
    rw [dotBits_eq, dotF_eq_sum (ne_of_isFinite hc).1 (fun p hp => (ne_of_isFinite (hmem p hp)).1)
      ⟨true, (ne_of_isFinite hc).2 _, fun p hp => (ne_of_isFinite (hmem p hp)).2 _⟩, h1]
  rw [hbits]
  have := resultF_delivers (t := .f32) rfl { mode := rm, ftz := z } hw (h3.trans (congrArg _ hsum)) fun _ => rfl
  exact ⟨fun h => ⟨_, this.1 h⟩, this.2⟩

/-! ### Conversions (R112, R186, R191 to R193) -/

theorem realOf_scaleF {v : FVal} (hv : isFinite v) (n : ℤ) : isFinite (scaleF v n) ∧ realOf (scaleF v n) = realOf v * 2 ^ n ∧ signOf (scaleF v n) = signOf v := by
  obtain ⟨k, m, e, rfl⟩ := hv
  refine ⟨isFinite_fin _ _ _, ?_, rfl⟩
  rw [scaleF, realOf_fin, realOf_fin, zpow_add₀ two_ne_zero]
  ring

/-- SCLX of a finite value (R193). -/
theorem sclxBits_delivers (ht : t.isFloat = true) (d : Rnd) (n : ℤ) (a : ℕ) (hx : isFinite (readF t d.ftz a)) :
    deliversReal t d (realOf (readF t d.ftz a) * 2 ^ n) (signOf (readF t d.ftz a)) (sclxBits t d n a) := by
  obtain ⟨hf, hr, hs⟩ := realOf_scaleF hx n
  have he : sclxBits t d n a = deliverF t d (scaleF (readF t d.ftz a) n) := by
    obtain ⟨k, m, e, h⟩ := hx
    rw [sclxBits, h]
    rfl
  rw [he, ← hs]
  exact deliverF_delivers ht d hf hr fun _ => rfl

/-- A value rounded to an integer (R112). -/
theorem roundInt_chooses (d : Rnd) (neg : Bool) {m : ℕ} (hm : m ≠ 0) (e : ℤ) :
    chooses (fun w => ∃ i : ℤ, w = i) (fun w => ∃ i : ℤ, Even i ∧ w = i) d (realOf (.fin neg m e)) (roundInt d neg m e).1
      ∧ ((roundInt d neg m e).2 = false ↔ ((roundInt d neg m e).1 : ℝ) = realOf (.fin neg m e)) := by
  obtain ⟨hr, hx⟩ := roundAt_rounds (d := d) (neg := neg) (q := 0) hm (standsFor_self m e) (.inl rfl)
  rw [zpow_zero, div_one] at hr hx
  have h := chooses_of_neighbours (fun k _ _ => neighbours_integers neg k) one_pos hr
  have hcast : ((roundInt d neg m e).1 : ℝ) = signFactor neg * (roundAt d neg m e 0).1 := signInt_cast neg _
  rw [mul_one, mul_one] at h
  rw [hcast, realOf_fin]
  refine ⟨h, hx.trans ?_⟩
  cases neg <;> simp

theorem Conv.lo_le_hi (c : Conv) : c.lo ≤ c.hi := by
  unfold Conv.lo Conv.hi
  split
  · have : (0 : ℤ) < 2 ^ (c.planes - 1) := by positivity
    omega
  · cases c.df <;> decide

/-- The value of an element that is converted between formats one of which is floating, or scaled. -/
theorem Conv.element_toInt (c : Conv) (n : ℤ) (s bits : ℕ) (hd : c.df.isFloat = false) (hs : c.sf.isInt = false ∨ c.scaled = true) :
    c.element n s bits =
      let r := toIntF { mode := c.rm, s, ftz := c.ftz, sat := c.sat } c.quant c.lo c.hi (scaleF (c.value bits) n)
      ((r.1 % 2 ^ c.df.bits).toNat, r.2) := by
  rw [Conv.element, if_neg (by simp [hd]), if_neg]
  obtain h | h := hs <;> simp [h]

/-- An integer in a range or at one of its ends, with the flags. -/
theorem toIntF_fin (d : Rnd) (quant : Bool) (lo hi : ℤ) (neg : Bool) (m : ℕ) (e : ℤ) :
    let beyond := if quant then FFlags.NX else FFlags.IV
    let i := if m = 0 then ((0 : ℤ), false) else roundInt d neg m e
    (i.1 < lo → toIntF d quant lo hi (.fin neg m e) = (lo, beyond)) ∧ (lo ≤ i.1 → hi < i.1 → toIntF d quant lo hi (.fin neg m e) = (hi, beyond))
      ∧ (lo ≤ i.1 → i.1 ≤ hi → toIntF d quant lo hi (.fin neg m e) = (i.1, if i.2 then FFlags.NX else 0)) := by
  intro beyond i
  have he : toIntF d quant lo hi (.fin neg m e) =
      if i.1 < lo then (lo, beyond) else if hi < i.1 then (hi, beyond) else (i.1, if i.2 then FFlags.NX else 0) := rfl
  rw [he]
  exact ⟨fun h => if_pos h, fun h1 h2 => by rw [if_neg (not_lt.mpr h1), if_pos h2], fun h1 h2 => by rw [if_neg (not_lt.mpr h1), if_neg (not_lt.mpr h2)]⟩

/-- One element of a conversion: to a floating format, to an integer from another value, and from integer to integer. -/
theorem Conv.element_converts (k : Conv) (n : ℤ) (s bits : ℕ) :
    let d : Rnd := { mode := k.rm, s, ftz := k.ftz, sat := k.sat }
    let x := k.value bits
    let r := k.element n s bits
    let out := fun (q : Int) (f : FFlags) => ((q % 2 ^ k.df.bits).toNat, f)
    (k.df.isFloat = true →
      (isFinite x → deliversReal k.df d (realOf x * 2 ^ n) (signOf x) r)
      ∧ (x = .nan → r = (Fmt.nanCode k.df, 0))
      ∧ ∀ neg, x = .inf neg → r = if k.sat then (signedCode k.df neg (Fmt.maxCode k.df), 0)
          else if k.df = .e4m3 then (Fmt.nanCode k.df, FFlags.OF ||| FFlags.NX) else (infOf k.df neg, 0))
    ∧ (k.df.isFloat = false → (k.sf.isInt = false ∨ k.scaled = true) →
      let beyond := if k.quant then FFlags.NX else FFlags.IV
      (x = .nan → r = out 0 FFlags.IV)
      ∧ (∀ neg, x = .inf neg → r = out (if neg then k.lo else k.hi) beyond)
      ∧ (isFinite x → ∃ q : ℤ,
          (realOf x = 0 → q = 0)
          ∧ (realOf x ≠ 0 → chooses (fun w => ∃ i : ℤ, w = i) (fun w => ∃ i : ℤ, Even i ∧ w = i) d (realOf x * 2 ^ n) q)
          ∧ (q < k.lo → r = out k.lo beyond) ∧ (k.lo ≤ q → k.hi < q → r = out k.hi beyond)
          ∧ (k.lo ≤ q → q ≤ k.hi → r = out q (if (q : ℝ) = realOf x * 2 ^ n then 0 else FFlags.NX))))
    ∧ (k.df.isFloat = false → k.sf.isInt = true → k.df.isInt = true → k.scaled = false →
      let q := intOf k.sf.bits k.sf.signed bits
      r = out (if k.sat then max k.lo (min k.hi q) else q) 0) := by
  intro d x r out
  refine ⟨fun hd => ?_, fun hd hs => ?_, fun hd hs hi hsc => ?_⟩
  · have hr : r = deliverF k.df d (scaleF x n) := if_pos hd
    rw [hr]
    refine ⟨fun hx => ?_, fun hx => by rw [hx]; rfl, fun neg hx => by rw [hx]; rfl⟩
    obtain ⟨hf, hv, hsg⟩ := realOf_scaleF hx n
    rw [← hsg]
    exact deliverF_delivers hd d hf hv fun _ => rfl
  · have hr := k.element_toInt n s bits hd hs
    intro beyond
    have hr' : ∀ q f, toIntF d k.quant k.lo k.hi (scaleF x n) = (q, f) → r = out q f := fun q f h => hr.trans (by
      show (((toIntF d k.quant k.lo k.hi (scaleF x n)).1 % 2 ^ k.df.bits).toNat, (toIntF d k.quant k.lo k.hi (scaleF x n)).2) = _
      rw [h])
    refine ⟨fun hx => hr' _ _ (by rw [hx]; rfl), fun neg hx => hr' _ _ (by rw [hx]; rfl), fun hx => ?_⟩
    obtain ⟨-, hv, -⟩ := realOf_scaleF hx n
    obtain ⟨neg, m, e, hxe⟩ := hx
    rw [hxe] at hv hr' ⊢
    rw [← hv]
    obtain ⟨h1, h2, h3⟩ := toIntF_fin d k.quant k.lo k.hi neg m (e + n)
    by_cases hm : m = 0
    · subst hm
      refine ⟨0, fun _ => rfl, fun h => absurd (realOf_eq_zero.mpr rfl) h, fun h => hr' _ _ (h1 h), fun h h' => hr' _ _ (h2 h h'), fun h h' => ?_⟩
      rw [if_pos (by rw [scaleF, realOf_eq_zero.mpr rfl, Int.cast_zero])]
      exact hr' _ _ (h3 h h')
    · rw [if_neg hm] at h1 h2 h3
      obtain ⟨hc, hex⟩ := roundInt_chooses d neg hm (e + n)
      refine ⟨(roundInt d neg m (e + n)).1, fun h => absurd (realOf_eq_zero.mp h) hm, fun _ => hc, fun h => hr' _ _ (h1 h), fun h h' => hr' _ _ (h2 h h'),
        fun h h' => ?_⟩
      rw [show scaleF (.fin neg m e) n = .fin neg m (e + n) from rfl, hr' _ _ (h3 h h')]
      refine congrArg (out _) ?_
      by_cases hq : (roundInt d neg m (e + n)).2 = false
      · rw [if_neg (by simp [hq]), if_pos (hex.mp hq)]
      · rw [if_pos (by simpa using hq), if_neg (fun h => hq (hex.mpr h))]
  · intro q
    have hr : r = out (if k.sat then satInt q k.lo k.hi else q) 0 := by
      show k.element n s bits = _
      rw [Conv.element, if_neg (by simp [hd]), if_pos (by simp [hs, hi, hsc])]
    rw [hr]
    have hsat : satInt q k.lo k.hi = max k.lo (min k.hi q) := by
      have := k.lo_le_hi
      unfold satInt
      split_ifs <;> omega
    rw [hsat]

/-! ### The statement -/

/-- FADD, FSUB, FMUL and FFMA of finite operands. -/
theorem sums_deliver (ht : t.isFloat = true) (d : Rnd) (rm : Round) {x y : FVal} (hx : isFinite x) (hy : isFinite y) :
    deliversReal t d (realOf x + realOf y) (sumNeg rm (signOf x) (signOf y)) (resultF t d (addF rm x y))
      ∧ deliversReal t d (realOf x - realOf y) (sumNeg rm (signOf x) (!signOf y)) (resultF t d (addF rm x (negF y)))
      ∧ deliversReal t d (realOf x * realOf y) (signOf x ^^ signOf y) (resultF t d (mulF x y))
      ∧ ∀ w, isFinite w → deliversReal t d (realOf x * realOf y + realOf w) (sumNeg rm (signOf x ^^ signOf y) (signOf w))
          (resultF t d ((addF rm (mulF x y).1 w).1, (mulF x y).2 ||| (addF rm (mulF x y).1 w).2)) := by
  obtain ⟨n, m, e, rfl⟩ := hx
  obtain ⟨k, l, f, rfl⟩ := hy
  have sum : ∀ n m e k l f, deliversReal t d (realOf (.fin n m e) + realOf (.fin k l f)) (sumNeg rm n k) (resultF t d (addFin rm n m e k l f, 0)) :=
    fun n m e k l f => resultF_delivers ht d (isFinite_addFin ..) (addFin_sum ..).1 (addFin_sum rm n m e k l f).2
  refine ⟨sum n m e k l f, ?_, ?_, ?_⟩
  · rw [sub_eq_add_neg, ← realOf_neg]
    exact sum n m e (!k) l f
  · exact resultF_delivers ht d (isFinite_fin _ _ _) (realOf_product ..) fun _ => rfl
  · rintro w ⟨k', l', f', rfl⟩
    rw [mulF_fin_fin, FFlags.zero_or, ← realOf_product]
    exact sum (n ^^ k) (m * l) (e + f) k' l' f'

/-- What FCMP answers of finite operands. -/
theorem fcmpBits_finite (k : FCond) (hx : isFinite (readF t z a)) (hy : isFinite (readF t z b)) :
    (fcmpBits k t z a b).2 = 0 ∧ ((fcmpBits k t z a b).1 = true ↔ match k with
      | .eq => realOf (readF t z a) = realOf (readF t z b)
      | .ne => realOf (readF t z a) ≠ realOf (readF t z b)
      | .lt => realOf (readF t z a) < realOf (readF t z b)
      | .le => realOf (readF t z a) ≤ realOf (readF t z b)
      | .gt => realOf (readF t z a) > realOf (readF t z b)
      | .ge => realOf (readF t z a) ≥ realOf (readF t z b)
      | .un => False
      | .or => True) := by
  obtain ⟨n, m, e, hx⟩ := hx
  obtain ⟨n', m', e', hy⟩ := hy
  obtain ⟨d, hd, hlt, heq⟩ := compareF_fin n m e n' m' e'
  unfold fcmpBits
  rw [hx, hy, hd]
  refine ⟨rfl, ?_⟩
  have hle : d ≤ 0 ↔ realOf (.fin n m e) ≤ realOf (.fin n' m' e') := by rw [le_iff_lt_or_eq, le_iff_lt_or_eq, hlt, heq]
  cases k with
  | eq => simpa using heq
  | ne => simpa using heq.not
  | lt => simpa using hlt
  | le => simpa using hle
  | gt => simpa using hle.not
  | ge => simpa using hlt.not
  | un => simp
  | or => simp

/-- The roots of a positive value. -/
theorem roots_round (ht : t.isFloat = true) (hx : isFinite (readF t z a)) (h0 : 0 < realOf (readF t z a)) :
    roundsTo t { mode := rm, ftz := z } (√(realOf (readF t z a))) (fsqrtBits t rm z a)
      ∧ roundsTo t { mode := rm, ftz := z } (1 / √(realOf (readF t z a))) (frsqBits t rm z a) := by
  obtain ⟨n, m, e, hx⟩ := hx
  have hm : m ≠ 0 := fun h => by
    rw [hx, realOf_eq_zero.mpr h] at h0
    exact lt_irrefl _ h0
  have hpos := (standsFor_self m e).pos hm
  have hn : n = false := by
    rw [hx, realOf_fin] at h0
    cases n
    · rfl
    · rw [signFactor_true] at h0
      linarith
  subst hn
  have hs := resultF_rounds ht { mode := rm, ftz := z } false (Real.sqrt_pos.mpr hpos).ne' (sqrtVal_stands hm e)
  have hr := resultF_rounds ht { mode := rm, ftz := z } false (one_div_pos.mpr (Real.sqrt_pos.mpr hpos)).ne' (rsqrtVal_stands hm e)
  rw [signFactor_false, one_mul] at hs hr
  rw [fsqrtBits, frsqBits, hx, realOf_fin, signFactor_false, one_mul]
  dsimp only
  rw [if_neg hm, if_neg hm, if_neg (by decide), if_neg (by decide)]
  exact ⟨hs, hr⟩

/-- The arithmetic, the functions and the dot products round the exact value once. -/
theorem arithmeticRounds_holds : arithmeticRounds := by
  refine ⟨fun t rm z a b c hmem => ?_, dotBits_rounds⟩
  have ht := isFloat_of_mem hmem
  intro d x y w hx
  refine ⟨fun hy => ?_, fun h0 => ?_, fun h0 => roots_round ht hx h0, fun n hn => ?_, fun n hn => ?_, fun n hn => ?_⟩
  · obtain ⟨hadd, hsub, hmul, hfma⟩ := sums_deliver ht d rm hx hy
    refine ⟨hadd, hsub, hmul, fun hw => hfma w hw, fun h0 => ?_, fun k => fcmpBits_finite k hx hy, fun hlt m => ?_⟩
    · obtain ⟨n, m, e, hx⟩ := hx
      obtain ⟨k, l, f, hy⟩ := hy
      rw [fdivBits, show readF t z a = _ from hx, show readF t z b = _ from hy, hx, hy]
      exact divF_rounds ht d (fun h => h0 (by rw [hy]; exact realOf_eq_zero.mpr h))
    · obtain ⟨n, j, e, hx⟩ := hx
      obtain ⟨k, l, f, hy⟩ := hy
      rw [hx, hy] at hlt ⊢
      obtain ⟨h1, h2⟩ := minmaxF_of_lt m hlt
      rw [fminBits, fminBits, show readF t z a = _ from hx, show readF t z b = _ from hy, h1, h2]
      exact ⟨rfl, rfl⟩
  · obtain ⟨n, m, e, hx⟩ := hx
    rw [hx] at h0 ⊢
    have h := divF_rounds (n := false) (m := 1) (e := 0) (k := n) (f := e) ht d fun h => h0 (realOf_eq_zero.mpr h)
    rw [show realOf (.fin false 1 0) = 1 by rw [realOf_fin]; simp] at h
    rw [frcpBits, show readF t z a = _ from hx]
    exact h.2 (one_div_ne_zero h0)
  · obtain ⟨k, m, e, hx⟩ := hx
    rw [hx] at hn
    rw [fexp2Bits, show readF t z a = _ from hx]
    dsimp only
    exact exp2Fin_rounds ht z k m e a hn
  · obtain ⟨k, m, e, hx⟩ := hx
    rw [hx] at hn
    have hp : (0 : ℝ) < 2 ^ n := zpow_pos two_pos n
    have hm : m ≠ 0 := fun h => by
      rw [realOf_eq_zero.mpr h] at hn
      exact hp.ne hn
    have hk : k = false := by
      cases k
      · rfl
      · have := (standsFor_self m e).pos hm
        rw [realOf_fin, signFactor_true] at hn
        linarith
    subst hk
    rw [flog2Bits, show readF t z a = _ from hx]
    dsimp only
    rw [if_neg hm, if_neg (by decide)]
    exact log2Fin_delivers ht _ a hn
  · obtain ⟨k, m, e, hx⟩ := hx
    rw [hx] at hn ⊢
    obtain ⟨hj, hv⟩ := fraction_half_turns hn
    have hf := fraction_pos m e
    rw [fsinBits, fcosBits, show readF t z a = _ from hx, hv]
    dsimp only
    constructor
    · have h := sinPi_delivers ht { ftz := z } k k 2 a hf hj
      rw [show signFactor k * Real.sin (Real.pi * (n.natAbs / 2)) = Real.sin (Real.pi * (signFactor k * (n.natAbs / 2))) by
        cases k <;> simp [Real.sin_neg]] at h
      exact h
    · have h := sinPi_delivers (n := 2 * (fraction m e).1 + (fraction m e).2) (k := 2 * (fraction m e).2) (j := n.natAbs + 1) ht { ftz := z }
        false false 3 a
        (by omega) (by rw [Nat.mul_add, hj]; ring)
      have hc : Real.sin (Real.pi * ((n.natAbs + 1 : ℕ) / 2)) = Real.cos (Real.pi * (signFactor k * (n.natAbs / 2))) := by
        have hcos : Real.cos (Real.pi * (signFactor k * (n.natAbs / 2))) = Real.cos (Real.pi * (n.natAbs / 2)) := by
          cases k <;> simp [Real.cos_neg]
        rw [hcos, ← Real.sin_add_pi_div_two]
        congr 1
        push_cast
        ring
      rw [signFactor_false, one_mul, hc] at h
      exact h

end Sys2Proof.Machine

open Sys2Proof Sys2Proof.Machine

/-- Settles O15: the arithmetic, SCLX and the conversions round the exact value once. -/
theorem floatRoundsExactValue : Obligations.FloatRoundsExactValue := by
  unfold Obligations.FloatRoundsExactValue
  exact ⟨arithmeticRounds_holds, fun t d n a ht hx => sclxBits_delivers ht d n a hx, fun k n s bits => k.element_converts n s bits⟩

end

section
/-! PROOFS. What O19 says of bit planes: PLPACK, PLUNPK and PLEXT (R194 to R197). -/

namespace Sys2Proof.Machine

/-! ### Bits of packed words -/

theorem packed_lt_word {n : Nat} (l : List Nat) (h : n * l.length ≤ 32) : packed n l < 2 ^ 32 :=
  (packed_lt n l).trans_le (Nat.pow_le_pow_right (by decide) h)

/-- Bit i of single bits packed. -/
theorem testBit_packed_one (l : List Bool) {i : Nat} (hi : i < l.length) : (packed 1 (l.map Bool.toNat)).testBit i = l[i] := by
  have h := element_packed 1 (l.map Bool.toNat) (i := i) (by simpa using hi)
  rw [element, Nat.one_mul, Nat.pow_one] at h
  rw [Nat.testBit_eq_decide_div_mod_eq, h]
  rw [List.getD_eq_getElem?_getD, List.getElem?_map, List.getElem?_eq_getElem hi]
  cases l[i] <;> rfl

theorem testBit_element (n v i j : Nat) : (element n v i).testBit j = (decide (j < n) && v.testBit (n * i + j)) := by
  rw [element, Nat.testBit_mod_two_pow, Nat.testBit_div_two_pow, Nat.add_comm]

theorem testBit_planeWord (b : Nat) (l : List Nat) {i : Nat} (hi : i < l.length) : (planeWord b l).testBit i = l[i].testBit b := by
  have h := testBit_packed_one (l.map fun v => v.testBit b) (i := i) (by simpa using hi)
  rw [List.map_map, List.getElem_map] at h
  exact h

theorem toNat_ofNat_word (v : Nat) : (BitVec.ofNat 64 (v % 2 ^ 32)).toNat = v % 2 ^ 32 := by
  rw [BitVec.toNat_ofNat]
  omega

/-- A byte of a packed word, as a signed integer, is its value wrapped. -/
theorem intOf_byte (v : Int) : intOf 8 true (v % 256).toNat = wrapTo .i8 v := by
  show intOf 8 true (v % 256).toNat = v.bmod 256
  simp only [intOf, Int.bmod]
  split <;> split <;> simp at * <;> omega

/-- Element i of a word of bytes that are values modulo 256. -/
theorem intOf_element_byte {w i : Nat} {v : Int} (h : element 8 w i = (v % 256).toNat % 2 ^ 8) : intOf 8 true (w / 256 ^ i) = wrapTo .i8 v := by
  rw [← intOf_byte, ← intOf_mod 8 true (w / 256 ^ i) (le_refl 8), ← intOf_mod 8 true (v % 256).toNat (le_refl 8), ← h, element, Nat.pow_mul]

theorem word_eq_low (h : Hart) (x : Src) : h.word x = low h x := rfl

/-! ### Planes of a k-bit value -/

/-- The k-bit value whose top bit is bit i of plane 0. -/
def planesValue (k i : Nat) (planes : List Nat) : Nat := packed 1 ((planes.take k).reverse.map fun v => (v.testBit i).toNat)

theorem unplane_eq (P k : Nat) (planes : List Nat) (i : Nat) :
    unplane P k planes i = ((intOf k true (planesValue k i planes) * 2 ^ (P - k)) % 256).toNat := rfl

theorem planesValue_lt {k : Nat} (i : Nat) {planes : List Nat} (hk : planes.length = k) : planesValue k i planes < 2 ^ k := by
  have := packed_lt 1 ((planes.take k).reverse.map fun v => (v.testBit i).toNat)
  simpa [planesValue, hk] using this

theorem testBit_planesValue {k : Nat} (i : Nat) {planes : List Nat} (hk : planes.length = k) {j : Nat} (hj : j < k) :
    (planesValue k i planes).testBit (k - 1 - j) = (planes.getD j 0).testBit i := by
  have h := testBit_packed_one ((planes.take k).reverse.map fun v => v.testBit i) (i := k - 1 - j) (by simp [hk]; omega)
  rw [List.map_map] at h
  refine h.trans ?_
  have hi : k - 1 - (k - 1 - j) = j := by omega
  simp [hk, hi, List.getD_eq_getElem?_getD, hj]

/-- The signed reading of n bits: its range, and its bits. -/
theorem intOf_signed_range {n : Nat} (hn : 0 < n) (v : Nat) : -(2 ^ (n - 1)) ≤ intOf n true v ∧ intOf n true v < 2 ^ (n - 1) := by
  obtain ⟨k, rfl⟩ : ∃ k, n = k + 1 := ⟨n - 1, by omega⟩
  have h := Nat.mod_lt v (Nat.two_pow_pos (k + 1))
  rw [Nat.add_sub_cancel]
  zify at h
  simp only [intOf, Nat.add_sub_cancel, Bool.true_and, decide_eq_true_eq]
  split
  · rename_i hc
    zify at hc
    constructor <;> push_cast <;> linarith [pow_succ (2 : ℤ) k]
  · rename_i hc
    have h0 : (0 : ℤ) ≤ (v % 2 ^ (k + 1) : Nat) := Int.natCast_nonneg _
    zify at hc h0
    constructor <;> push_cast <;> linarith [pow_pos (two_pos : (0 : ℤ) < 2) k]

theorem intOf_emod (n : Nat) (signed : Bool) (v : Nat) : (intOf n signed v % 2 ^ n).toNat = v % 2 ^ n := by
  have h : intOf n signed v % 2 ^ n = ((v % 2 ^ n : Nat) : ℤ) := by
    rw [intOf]
    split
    · rw [Int.sub_emod_right]
      push_cast
      exact Int.emod_emod_of_dvd _ (dvd_refl _)
    · push_cast
      exact Int.emod_emod_of_dvd _ (dvd_refl _)
  rw [h, Int.toNat_natCast]

/-! ### The instructions -/

/-- PLPACK (R194). -/
theorem plpack_packs (h : Hart) (c : Issue) (d ra : Reg) (P p : BitVec 4) (hP : P.toNat ≤ 8) (hp : p.toNat < P.toNat) (hd : h.fits d 1) :
    let h' := (h.setWord d.toNat (planeWord (P.toNat - 1 - p.toNat)
      ((List.range 32).map fun i => element 8 (h.runWord (.reg ra) (i / 4)) (i % 4)))).advance c
    h.changes h' c [d.toNat] h.preds h.fpstat ∧ (h'.reg d.toNat).toNat < 2 ^ 32
      ∧ ∀ i < 32, (h'.reg d.toNat).getLsbD i = (h.reg (ra.toNat + i / 4)).getLsbD (8 * (i % 4) + (P.toNat - 1 - p.toNat)) := by
  intro h'
  obtain ⟨hc, hr⟩ := h.setWord_changes c (planeWord (P.toNat - 1 - p.toNat)
    ((List.range 32).map fun i => element 8 (h.runWord (.reg ra) (i / 4)) (i % 4))) hd
  refine ⟨hc, ?_, fun i hi => ?_⟩
  · rw [hr, toNat_ofNat_word]
    exact Nat.mod_lt _ (by decide)
  · have hb : P.toNat - 1 - p.toNat < 8 := by omega
    have hm := Nat.mod_lt i (show 0 < 4 by decide)
    rw [hr, BitVec.getLsbD, toNat_ofNat_word, Nat.testBit_mod_two_pow, testBit_planeWord _ _ (by simpa using hi), List.getElem_map, List.getElem_range,
      testBit_element, Hart.runWord, Nat.testBit_mod_two_pow, BitVec.getLsbD]
    simp [hi, hb, show 8 * (i % 4) + (P.toNat - 1 - p.toNat) < 32 by omega]

/-- PLUNPK (R195). -/
theorem plunpk_spreads (h : Hart) (c : Issue) (d : Reg) (a : Src) (P p : BitVec 4) (hp : 0 < p.toNat) (hd : d.toNat + 8 ≤ if h.isBobbin then 32 else 64) :
    let h' := (h.setRun d.toNat (wordsOf 8 ((List.range 32).map (unplane P.toNat p.toNat ((List.range p.toNat).map fun j => h.runWord a j))))).advance c
    h.changes h' c ((List.range 8).map (d.toNat + ·)) h.preds h.fpstat
      ∧ ∀ i < 32, ∃ w : Int, -(2 ^ (p.toNat - 1)) ≤ w ∧ w < 2 ^ (p.toNat - 1)
          ∧ (∀ j < p.toNat, (w % 2 ^ p.toNat).toNat.testBit (p.toNat - 1 - j) = (h.runWord a j).testBit i)
          ∧ intOf 8 true (h'.runWord (.reg d) (i / 4) / 256 ^ (i % 4)) = wrapTo .i8 (w * 2 ^ (P.toNat - p.toNat)) := by
  intro h'
  set planes := (List.range p.toNat).map fun j => h.runWord a j with hpl
  have hlen : planes.length = p.toNat := by simp [hpl]
  set l := (List.range 32).map (unplane P.toNat p.toNat planes) with hl
  have hw : (wordsOf 8 l).length = 8 := by simp [hl, length_wordsOf]
  refine ⟨?_, fun i hi => ⟨intOf p.toNat true (planesValue p.toNat i planes), (intOf_signed_range hp _).1, (intOf_signed_range hp _).2, fun j hj => ?_, ?_⟩⟩
  · have := (h.writes_setRun (wordsOf 8 l) d.toNat).changes c
    rwa [hw] at this
  · rw [intOf_emod, Nat.mod_eq_of_lt (planesValue_lt i hlen), testBit_planesValue i hlen hj]
    simp [hpl, List.getD_eq_getElem?_getD, hj]
  · have hr : h'.runWord (.reg d) (i / 4) = (wordsOf 8 l).getD (i / 4) 0 % 2 ^ 32 :=
      (Hart.runWord_advance ..).trans <| h.runWord_setRun (wordsOf 8 l) (by rw [hw]; exact hd) (by rw [hw]; omega)
    have he := element_wordsOf (n := 8) l (j := i) (by decide) (by decide) (by simpa [hl] using hi)
    rw [hr]
    refine intOf_element_byte (he.trans ?_)
    rw [← unplane_eq]
    simp [hl, List.getD_eq_getElem?_getD, hi]

/-- PLEXT (R196, R197). -/
theorem plext_keeps (h : Hart) (c : Issue) (d : Reg) (a : Src) (P p : BitVec 4) (q : Bool) (hd : h.fits d 1) :
    let h' := (h.setWord d.toNat (packed 8 ((List.range 4).map fun i => plext P.toNat p.toNat q (element 8 (h.word a) i)))).advance c
    h.changes h' c [d.toNat] h.preds h.fpstat ∧ (h'.reg d.toNat).toNat < 2 ^ 32
      ∧ ∀ i < 4,
          let w := Int.fdiv (intOf P.toNat true (low h a / 256 ^ i % 256)) (2 ^ (P.toNat - p.toNat))
          intOf 8 true ((h'.reg d.toNat).toNat / 256 ^ i) = wrapTo .i8 (if q then w * 2 ^ (P.toNat - p.toNat) else w) := by
  intro h'
  set l := (List.range 4).map fun i => plext P.toNat p.toNat q (element 8 (h.word a) i) with hl
  obtain ⟨hc, hr⟩ := h.setWord_changes c (packed 8 l) hd
  have hlt : packed 8 l < 2 ^ 32 := packed_lt_word l (by simp [hl])
  refine ⟨hc, ?_, fun i hi => ?_⟩
  · rw [hr, toNat_ofNat_word]
    exact Nat.mod_lt _ (by decide)
  · rw [hr, toNat_ofNat_word, Nat.mod_eq_of_lt hlt]
    refine intOf_element_byte ((element_packed 8 l (by simpa [hl] using hi)).trans (congrArg (· % 2 ^ 8) ?_))
    simp [hl, List.getD_eq_getElem?_getD, hi, plext, element, word_eq_low, Nat.pow_mul]

end Sys2Proof.Machine
end

section
/-! PROOFS. What O19 says of alignment: the exponent of a group, and its elements aligned to one (R125, R126, R198). -/

namespace Sys2Proof.Machine

variable {t : Fmt}

/-- A decoded finite value has the exponent of the subnormals, or its unit bit. -/
theorem decodeF_fin {bits : ℕ} {n : Bool} {m : ℕ} {e : ℤ} (h : decodeF t bits = .fin n m e) :
    m < 2 ^ (Fmt.form t).fbits ∧ e = (Fmt.form t).esub
      ∨ 2 ^ (Fmt.form t).fbits ≤ m ∧ m < 2 ^ ((Fmt.form t).fbits + 1) ∧ (Fmt.form t).esub ≤ e := by
  have hmod : bits % Fmt.signBit t % 2 ^ (Fmt.form t).fbits < 2 ^ (Fmt.form t).fbits := Nat.mod_lt _ (Nat.two_pow_pos _)
  unfold decodeF at h
  dsimp only at h
  split at h
  · split at h <;> exact absurd h (by simp)
  · split at h
    · simp only [FVal.fin.injEq] at h
      obtain ⟨-, rfl, rfl⟩ := h
      exact .inl ⟨hmod, rfl⟩
    · simp only [FVal.fin.injEq] at h
      obtain ⟨-, rfl, rfl⟩ := h
      exact .inr ⟨by omega, by rw [pow_succ]; omega, by omega⟩

theorem log_of_bounds {x : ℝ} {l : ℤ} (h1 : (2 : ℝ) ^ l ≤ x) (h2 : x < 2 ^ (l + 1)) : Int.log 2 x = l := by
  have hx : 0 < x := (zpow_pos two_pos l).trans_le h1
  refine le_antisymm ?_ ((Int.zpow_le_iff_le_log one_lt_two hx).mp (by exact_mod_cast h1))
  exact Int.lt_add_one_iff.mp ((Int.lt_zpow_iff_log_lt one_lt_two hx).mp (by exact_mod_cast h2))

theorem abs_realOf (n : Bool) (m : ℕ) (e : ℤ) : |realOf (.fin n m e)| = m * 2 ^ e := by
  rw [realOf_fin, abs_signFactor_mul, abs_of_nonneg (mul_nonneg (Nat.cast_nonneg m) (zpow_pos two_pos e).le)]

/-- The exponent that alignment uses is e of R125, of every nonzero finite element. -/
theorem alignExp_decodeF (bits : ℕ) (x : ℤ) :
    alignExp t (decodeF t bits) = some x ↔ (isFinite (decodeF t bits) ∧ realOf (decodeF t bits) ≠ 0) ∧ exponentOf t (decodeF t bits) = x := by
  cases h : decodeF t bits with
  | nan => exact iff_of_false (by simp [alignExp]) fun h => (ne_of_isFinite h.1.1).1 rfl
  | inf n => exact iff_of_false (by simp [alignExp]) fun h => (ne_of_isFinite h.1.1).2 n rfl
  | fin n m e =>
    rw [alignExp, Ne, realOf_eq_zero, and_iff_right (isFinite_fin n m e)]
    by_cases hm : m = 0
    · simp [hm]
    · have hexp : exponentOf t (.fin n m e) = e + (Fmt.form t).fbits := by
        obtain ⟨hlo, hhi⟩ := (standsFor_self m e).bounds hm
        have hemin : (Fmt.form t).esub = 1 - ((Fmt.form t).bias : ℤ) - (Fmt.form t).fbits := rfl
        rw [exponentOf, abs_realOf, log_of_bounds hlo hhi]
        obtain ⟨h1, h2⟩ | ⟨h1, h2, h3⟩ := decodeF_fin h
        · have : Nat.log2 m < (Fmt.form t).fbits := (Nat.log2_lt hm).mpr h1
          omega
        · have h4 : Nat.log2 m < (Fmt.form t).fbits + 1 := (Nat.log2_lt hm).mpr h2
          have h5 : (Fmt.form t).fbits ≤ Nat.log2 m := (Nat.le_log2 hm).mpr h1
          omega
      rw [if_neg hm, hexp]
      simp [hm]

/-- The greatest of some integers, as the model folds them. -/
def greatest (a : Option Int) (x : Int) : Option Int :=
  match a with
  | none => some x
  | some y => some (if y < x then x else y)

theorem foldl_greatest_some (l : List Int) : ∀ y, ∃ z, l.foldl greatest (some y) = some z ∧ z ∈ y :: l ∧ ∀ w ∈ y :: l, w ≤ z := by
  induction l with
  | nil => exact fun y => ⟨y, rfl, by simp, by simp⟩
  | cons x l ih =>
    intro y
    obtain ⟨z, h1, h2, h3⟩ := ih (if y < x then x else y)
    have hle : y ≤ (if y < x then x else y) ∧ x ≤ (if y < x then x else y) := by split <;> omega
    refine ⟨z, h1, ?_, ?_⟩
    · obtain h | h := List.mem_cons.mp h2
      · rw [h]
        split <;> simp
      · exact List.mem_cons_of_mem _ (List.mem_cons_of_mem _ h)
    · intro w hw
      have hz := h3 _ List.mem_cons_self
      obtain rfl | hw := List.mem_cons.mp hw
      · exact hle.1.trans hz
      · obtain rfl | hw := List.mem_cons.mp hw
        · exact hle.2.trans hz
        · exact h3 w (List.mem_cons_of_mem _ hw)

/-- The exponent of a group of decoded elements (R125). -/
theorem groupExp_greatest (t : Fmt) (l : List ℕ) : groupExponent t (l.map (decodeF t)) (groupExp t (l.map (decodeF t))) := by
  have hmem : ∀ x, x ∈ (l.map (decodeF t)).filterMap (alignExp t) ↔
      ∃ v, (v ∈ l.map (decodeF t) ∧ isFinite v ∧ realOf v ≠ 0) ∧ exponentOf t v = x := fun x => by
    rw [List.mem_filterMap]
    constructor
    · rintro ⟨v, hv, hx⟩
      obtain ⟨b, -, rfl⟩ := List.mem_map.mp hv
      obtain ⟨h1, h2⟩ := (alignExp_decodeF b x).mp hx
      exact ⟨_, ⟨hv, h1⟩, h2⟩
    · rintro ⟨v, ⟨hv, h1⟩, h2⟩
      obtain ⟨b, -, rfl⟩ := List.mem_map.mp hv
      exact ⟨_, hv, (alignExp_decodeF b x).mpr ⟨h1, h2⟩⟩
  have hfold : groupExp t (l.map (decodeF t)) = (((l.map (decodeF t)).filterMap (alignExp t)).foldl greatest none).getD (Fmt.form t).emin := rfl
  rw [hfold]
  cases hl : (l.map (decodeF t)).filterMap (alignExp t) with
  | nil =>
    refine ⟨fun ⟨v, hv⟩ => absurd ((hmem _).mpr ⟨v, hv, rfl⟩) ?_, fun _ => rfl⟩
    rw [hl]
    exact List.not_mem_nil
  | cons x xs =>
    obtain ⟨z, h1, h2, h3⟩ := foldl_greatest_some xs x
    rw [← hl] at h2 h3
    have h0 : (x :: xs).foldl greatest none = some z := h1
    rw [h0]
    refine ⟨fun _ => ⟨(hmem z).mp h2, fun v hv => h3 _ ((hmem _).mpr ⟨v, hv, rfl⟩)⟩, fun h => absurd ?_ h⟩
    obtain ⟨v, hv, -⟩ := (hmem z).mp h2
    exact ⟨v, hv⟩

theorem alignMag_floor (t : Fmt) (w : ℕ) (eG : ℤ) (n : Bool) (m : ℕ) (e : ℤ) :
    (alignMag t w eG m e : ℤ) = ⌊|realOf (.fin n m e)| * (2 : ℝ) ^ ((w : ℤ) - 2 - eG)⌋ := by
  have hk : e + (Fmt.form t).fbits - eG + w - 2 - (Fmt.form t).fbits = e + ((w : ℤ) - 2 - eG) := by omega
  rw [alignMag, abs_realOf, mul_assoc, ← zpow_add₀ two_ne_zero, hk]
  generalize e + ((w : ℤ) - 2 - eG) = k
  by_cases h0 : 0 ≤ k
  · rw [if_pos h0]
    have : (m : ℝ) * 2 ^ k = ((m * 2 ^ k.toNat : ℕ) : ℤ) := by
      push_cast
      rw [← zpow_natCast, Int.toNat_of_nonneg h0]
    rw [this, Int.floor_intCast]
  · rw [if_neg h0]
    have : (m : ℝ) * 2 ^ k = m / (2 ^ (-k).toNat : ℕ) := by
      push_cast
      rw [← zpow_natCast, Int.toNat_of_nonneg (by omega), zpow_neg, div_inv_eq_mul]
    rw [this, ← Int.natCast_floor_eq_floor (by positivity), Nat.floor_div_eq_div]

theorem signInt_eq_sign {n : Bool} {m : ℕ} {e : ℤ} (h0 : realOf (.fin n m e) ≠ 0) (k : ℕ) :
    signInt n k = (if realOf (.fin n m e) < 0 then -1 else 1) * (k : ℤ) := by
  have hpos := (standsFor_self m e).pos fun h => h0 (realOf_eq_zero.mpr h)
  rw [realOf_fin]
  cases n
  · rw [signFactor_false, one_mul, if_neg hpos.le.not_gt, one_mul]
    rfl
  · rw [signFactor_true, neg_one_mul, if_pos (neg_lt_zero.mpr hpos), neg_one_mul]
    rfl

/-- One element aligned (R126, R198). -/
theorem alignOne_aligns (t : Fmt) (w : ℕ) (eG : ℤ) (bits : ℕ) : alignsTo t w eG (decodeF t bits) (alignOne t w eG (decodeF t bits)) := by
  have hexp := alignExp_decodeF (t := t) bits
  cases h : decodeF t bits with
  | nan => exact ⟨fun _ => rfl, fun hf => absurd rfl (ne_of_isFinite hf).1, fun hf => absurd rfl (ne_of_isFinite hf).1, fun hf => absurd rfl (ne_of_isFinite hf).1⟩
  | inf n =>
    exact ⟨fun _ => rfl, fun hf => absurd rfl ((ne_of_isFinite hf).2 n), fun hf => absurd rfl ((ne_of_isFinite hf).2 n),
      fun hf => absurd rfl ((ne_of_isFinite hf).2 n)⟩
  | fin n m e =>
    rw [h] at hexp
    refine ⟨fun hf => absurd (isFinite_fin n m e) hf, fun _ h0 => ?_, fun hf h0 hlt => ?_, fun hf h0 hle => ?_⟩
    · rw [alignOne, alignExp, if_pos (realOf_eq_zero.mp h0)]
    · rw [alignOne, (hexp _).mpr ⟨⟨hf, h0⟩, rfl⟩]
      dsimp only
      rw [if_pos hlt, signInt_eq_sign h0, Nat.cast_sub Nat.one_le_two_pow]
      push_cast
      rfl
    · rw [alignOne, (hexp _).mpr ⟨⟨hf, h0⟩, rfl⟩]
      dsimp only
      rw [if_neg (not_lt.mpr hle), signInt_eq_sign h0, ← alignMag_floor t w eG n m e]

/-! ### F8ALGN (R198) -/

/-- The elements of a lane's word. -/
def alignElems (h : Hart) (a : Src) (df : Fmt) : List ℕ := (List.range (32 / df.bits)).map fun i => element df.bits (low h a) i

/-- The form that finds the exponent. -/
theorem f8algn_finds (h : Hart) (c : Issue) (d : Reg) (a : Src) (df : Fmt) (hd : h.fits d 1) :
    let vs := (List.range (32 / df.bits)).map fun i => decodeF df (element df.bits (low h a) i)
    let h' := (h.setWord d.toNat ((groupExp df vs) % 2 ^ 32).toNat).advance c
    h.changes h' c [d.toNat] h.preds h.fpstat ∧ ∃ e : ℤ, groupExponent df vs e ∧ h'.reg d.toNat = BitVec.ofNat 64 (e % 2 ^ 32).toNat := by
  intro vs h'
  obtain ⟨hc, hr⟩ := h.setWord_changes c ((groupExp df vs) % 2 ^ 32).toNat hd
  have hvs : vs = (alignElems h a df).map (decodeF df) := by rw [alignElems, List.map_map]; rfl
  refine ⟨hc, groupExp df vs, ?_, hr.trans (congrArg _ (Nat.mod_eq_of_lt (by omega)))⟩
  rw [hvs]
  exact groupExp_greatest df _

/-- The form that aligns. -/
theorem f8algn_aligns (h : Hart) (c : Issue) (d : Reg) (a : Src) (eG : ℤ) {df : Fmt} (hf : df = .e4m3 ∨ df = .e5m2 ∨ df = .bf16) (hd : h.fits d 1) :
    let elem := fun i => decodeF df (element df.bits (low h a) i)
    let rs := ((List.range (32 / df.bits)).map elem).map (alignOne df df.bits eG)
    let h' := (h.writeF d (packed df.bits (rs.map fun r => (r.1 % 2 ^ df.bits).toNat), rs.foldl (fun x r => x ||| r.2) 0)).advance c
    ∃ x : Nat → Int × FFlags, (∀ i < 32 / df.bits, alignsTo df df.bits eG (elem i) (x i))
      ∧ h.changes h' c [d.toNat] h.preds (h.fpstat ||| (List.range (32 / df.bits)).foldl (fun f i => f ||| (x i).2) 0)
      ∧ (h'.reg d.toNat).toNat < 2 ^ 32
      ∧ ∀ i < 32 / df.bits, ((h'.reg d.toNat).toNat / 2 ^ (df.bits * i) % 2 ^ df.bits : Nat) = (x i).1 % 2 ^ df.bits := by
  intro elem rs h'
  set x := fun i => alignOne df df.bits eG (elem i) with hx
  have hrs : rs = (List.range (32 / df.bits)).map x := by simp only [rs, List.map_map]; rfl
  have hlen : (rs.map fun r => (r.1 % 2 ^ df.bits).toNat).length = 32 / df.bits := by simp [hrs]
  have h32 : df.bits * (32 / df.bits) ≤ 32 := by obtain rfl | rfl | rfl := hf <;> decide
  have hlt := packed_lt_word (n := df.bits) (rs.map fun r => (r.1 % 2 ^ df.bits).toNat) (by rwa [hlen])
  obtain ⟨hc, hr⟩ := h.writeF_changes c (packed df.bits (rs.map fun r => (r.1 % 2 ^ df.bits).toNat), rs.foldl (fun x r => x ||| r.2) 0) hd
  refine ⟨x, fun i _ => alignOne_aligns df df.bits eG _, ?_, ?_, fun i hi => ?_⟩
  · have hfl : rs.foldl (fun x r => x ||| r.2) 0 = (List.range (32 / df.bits)).foldl (fun f i => f ||| (x i).2) 0 := by rw [hrs, List.foldl_map]
    rw [← hfl]
    exact hc
  · rw [hr, toNat_ofNat_word]
    exact Nat.mod_lt _ (by decide)
  · have he := element_packed df.bits (rs.map fun r => (r.1 % 2 ^ df.bits).toNat) (i := i) (by rwa [hlen])
    have hpos : (0 : ℤ) < 2 ^ df.bits := by positivity
    have hm0 := Int.emod_nonneg (x i).1 hpos.ne'
    rw [hr, toNat_ofNat_word, Nat.mod_eq_of_lt hlt]
    rw [element] at he
    rw [he, hrs, List.map_map, List.getD_eq_getElem?_getD, List.getElem?_map, List.getElem?_range hi]
    simp only [Option.map_some, Option.getD_some, Function.comp]
    push_cast
    rw [Int.toNat_of_nonneg hm0, Int.emod_emod_of_dvd _ (dvd_refl _)]

end Sys2Proof.Machine

open Sys2Proof Sys2Proof.Machine

/-- Settles O19, instruction by instruction. -/
theorem bitPlanesAndAlignment : Obligations.BitPlanesAndAlignment := by
  unfold Obligations.BitPlanesAndAlignment
  intro s g d ra a b P p df rm q sat z
  refine ⟨fun hw => ?_, fun hw => ?_, fun hw => ?_, fun hf => ⟨?_, ?_⟩, ?_⟩
  · have hP : P.toNat ≤ 8 ∧ p.toNat < P.toNat := by
      simp only [Instr.wf, planesOk, if_true, Bool.and_eq_true, decide_eq_true_eq] at hw
      exact ⟨hw.1.2, hw.2⟩
    exact lanesDo_of_aluOp rfl fun h hd => plpack_packs h s.cur d ra P p hP.1 hP.2 hd
  · have hp : 0 < p.toNat := by
      simp only [Instr.wf, Bool.and_eq_true, decide_eq_true_eq] at hw
      exact hw.2.1.2.1
    exact lanesDo_of_aluOp rfl fun h hd => plunpk_spreads h s.cur d a P p hp hd
  · exact lanesDo_of_aluOp rfl fun h hd => plext_keeps h s.cur d a P p q hd
  · exact lanesDo_of_aluOp rfl fun h hd => f8algn_finds h s.cur d a df hd
  · exact lanesDo_of_aluOp rfl fun h hd => f8algn_aligns h s.cur d a (intOf 8 true (low h b)) hf hd
  · exact lanesDo_writesFloat (t := some df) rfl

end

section
/-! PROOFS. Why O50 fails: a GATH whose elements are wider than those of its destination pattern writes past the element's line, and there
the hoop area of a context keeps its bytes (R357, R359); the statement writes all of them. R374 refuses such a command at issue, but a
state may hold one. -/

namespace Sys2Proof.Machine

/-! ### The state that refutes O50 -/

namespace WideGather

/-- A pattern of one element in core scratchpad. -/
def pattern (fmt base : Nat) : BitVec 512 := BitVec.ofNat 512 (1 + fmt * 2 + 3 * 2 ^ 10 + base * 2 ^ 64 + 2 ^ 192 * (1 + 2 ^ 32 * (1 + 2 ^ 32 * (1 + 2 ^ 32))))

/-- The list holds one word; the destination is the last byte of the context's core scratchpad. -/
def list : Pattern := (Pattern.ofBits (pattern 4 0x400)).shifted 0
def place : Pattern := (Pattern.ofBits (pattern 1 (2 ^ 21 - 1))).shifted 0

/-- A bolt of doublewords without an element: each index gives zeros. -/
def bolt : BitVec 128 := BitVec.ofNat 128 (3 * 2 ^ 51)

def command : Command :=
  { id := 0, engine := .dfi, work := .gather bolt, issuer := ⟨0, .bobbin 0, 0⟩, ctx := 0, src := .pat (pattern 4 0x400) 0
    dst := .pat (pattern 1 (2 ^ 21 - 1)) 0, fired := true }

def slot : Slot := { ctx := 0, bobbin := { regs := .zeroW, pc := 0, clause := 0, pos := 0 }, commands := [command] }

/-- The first byte of the next context's hoop area is 1. -/
def state : State := { cores := [(0, { slots := [(0, slot)] })], mem := [(coreKey 0 1 0, 1)] }

/-- What the command gathers. -/
def values : List (List Byte) := [List.replicate 8 0]

/-- The memory that the command leaves when it retires. -/
def memoryLeft : Host.Outcome State Fault Refusal → List Host.Cell
  | .next t => t.mem
  | _ => []

theorem memoryLeft_retire : memoryLeft (exec (.engineRetire command.id) state) = [(coreKey 0 1 0, 1)] := by decide +kernel

theorem tileWritten_place : tileWritten 0 command.ctx place values state.mem = [] := by decide +kernel

theorem mayRetire_command : mayRetire state 0 command := ⟨rfl, rfl, rfl, by decide +kernel, by decide +kernel⟩

theorem nearFrom_list : nearFrom state 0 0 list := ⟨by decide +kernel, by decide +kernel, by decide +kernel, by decide +kernel⟩

theorem nearTo_place : nearTo 0 0 place := ⟨by decide +kernel, by decide +kernel, by decide +kernel, by decide +kernel⟩

theorem tileData_list : (tileData state 0 0 list).map natOfBytes = [0] := by decide +kernel

/-- The values are what the statement asks for: the index of the list lies outside the bolt, which does not trap. -/
theorem gathers {P : Nat → List Byte → Prop} :
    let idx := (tileData state 0 command.ctx list).map natOfBytes
    values.length = idx.length ∧ ∀ j i : Nat, idx[j]? = some i → ∃ x, values[j]? = some x
      ∧ ((Bolt.ofBits bolt).extent ≤ i → (Bolt.ofBits bolt).btrap = false ∧ x = List.replicate (Bolt.ofBits bolt).width 0)
      ∧ (i < (Bolt.ofBits bolt).extent → P i x) := by
  intro idx
  have hidx : idx = [0] := tileData_list
  have hextent : (Bolt.ofBits bolt).extent = 0 := by decide
  rw [hidx, hextent]
  refine ⟨rfl, fun j i hj => ?_⟩
  cases j with
  | zero => exact ⟨_, rfl, fun _ => ⟨by decide, by decide⟩, fun h => absurd h i.not_lt_zero⟩
  | succ j => cases hj

end WideGather

end Sys2Proof.Machine

open Sys2Proof Sys2Proof.Machine

/-- Refutes O50: a gather of doublewords to the last byte of a context's core scratchpad leaves the hoop area beyond it as it was;
the statement says that the doubleword's zeros stand there. -/
theorem not_engineEvents : ¬ Obligations.EngineEvents := by
  unfold Obligations.EngineEvents
  rintro ⟨-, ⟨-, -, -, -, hmoves, -⟩, -⟩
  obtain ⟨hgather, -⟩ := hmoves WideGather.state 0 0 WideGather.command WideGather.list WideGather.place WideGather.bolt rfl
    WideGather.mayRetire_command ⟨rfl, rfl, rfl⟩ rfl rfl rfl rfl
  obtain ⟨t, hx, hmem⟩ := hgather WideGather.values rfl WideGather.nearFrom_list (by decide +kernel) WideGather.nearTo_place WideGather.gathers
  have hleft := WideGather.memoryLeft_retire
  rw [hx, WideGather.memoryLeft, hmem, WideGather.tileWritten_place] at hleft
  cases hleft

end

section
/-! PROOFS. What O7 to O12 share: a value delivered at a type is the exact one, wrapped or saturated (R98, R100), and WriteInt puts it into
its register or pair and nowhere else (R143). -/

namespace Sys2Proof.Machine

variable {h k : Hart} {s : State} {g : Guard} {i : Instr} {d : Reg} {t : Option Fmt} {dflt : Fmt}

/-! ### Values at a type (R98, R100) -/

theorem Fmt.bits_pos (T : Fmt) : 0 < T.bits := by cases T <;> decide
theorem Fmt.bits_le (T : Fmt) : T.bits ≤ 64 := by cases T <;> decide

/-- The low bits of a value, read back at the type, are the value wrapped to it. -/
theorem intOf_toNat_emod (T : Fmt) (v : Int) : intOf T.bits T.signed (v % 2 ^ 64).toNat = wrapTo T v := by
  obtain ⟨n, hn⟩ : ∃ n, T.bits = n + 1 := ⟨T.bits - 1, by have := Fmt.bits_pos T; omega⟩
  have hle : n + 1 ≤ 64 := hn ▸ Fmt.bits_le T
  have hu : (((v % 2 ^ 64).toNat % 2 ^ (n + 1) : Nat) : Int) = v % 2 ^ (n + 1) := by
    rw [Int.natCast_emod, Int.toNat_of_nonneg (Int.emod_nonneg _ (by decide)), Nat.cast_pow, Nat.cast_ofNat]
    exact Int.emod_emod_of_dvd v (pow_dvd_pow 2 hle)
  have hhalf : (((2 ^ (n + 1) : Nat) : Int) + 1) / 2 = 2 ^ n := by
    have := pow_succ' (2 : Int) n
    push_cast
    omega
  rw [intOf, wrapTo, hn]
  by_cases hs : T.signed = true
  · rw [if_pos hs, Int.bmod, hhalf, Nat.add_sub_cancel]
    simp only [hs, Bool.true_and, decide_eq_true_eq, hu, Nat.cast_pow, Nat.cast_ofNat]
    by_cases hb : 2 ^ n ≤ (v % 2 ^ 64).toNat % 2 ^ (n + 1)
    · have : (2 : Int) ^ n ≤ v % 2 ^ (n + 1) := by rw [← hu]; exact_mod_cast hb
      rw [if_pos hb, if_neg (by omega)]
    · have : ¬ (2 : Int) ^ n ≤ v % 2 ^ (n + 1) := by rw [← hu]; exact_mod_cast hb
      rw [if_neg hb, if_pos (by omega)]
  · rw [if_neg hs]
    simp only [hs, Bool.false_and, Bool.false_eq_true, if_false, hu]

/-- Values with the same low bits are wrapped to the same value. -/
theorem wrapTo_congr {T : Fmt} {v w : Int} (h : v % 2 ^ T.bits = w % 2 ^ T.bits) : wrapTo T v = wrapTo T w := by
  rw [wrapTo, wrapTo, Int.bmod, Int.bmod, Nat.cast_pow, Nat.cast_ofNat, h]

/-- The range of a type. -/
def Fmt.inRange (T : Fmt) (v : Int) : Prop := fmtLo T ≤ v ∧ v ≤ fmtHi T

theorem wrapTo_of_inRange {T : Fmt} {v : Int} (hv : Fmt.inRange T v) : wrapTo T v = v := by
  obtain ⟨h1, h2⟩ := hv
  obtain ⟨n, hn⟩ : ∃ n, T.bits = n + 1 := ⟨T.bits - 1, by have := Fmt.bits_pos T; omega⟩
  have hp := pow_succ' (2 : Int) n
  have h0 : (0 : Int) < 2 ^ n := by positivity
  rw [fmtLo, hn, Nat.add_sub_cancel] at h1
  rw [fmtHi, hn, Nat.add_sub_cancel] at h2
  rw [wrapTo, hn]
  by_cases hs : T.signed = true
  · simp only [hs, if_true] at h1 h2 ⊢
    exact Int.bmod_eq_of_le (by push_cast; omega) (by push_cast; omega)
  · simp only [hs] at h1 h2 ⊢
    exact Int.emod_eq_of_lt h1 (by simpa using Int.lt_of_le_sub_one h2)

theorem fmtLo_le_fmtHi (T : Fmt) : fmtLo T ≤ fmtHi T := by cases T <;> decide

theorem satInt_inRange (T : Fmt) (v : Int) : Fmt.inRange T (satInt v (fmtLo T) (fmtHi T)) := by
  have := fmtLo_le_fmtHi T
  rw [Fmt.inRange, satInt]
  split
  · omega
  · split <;> omega

theorem delivered_sat (T : Fmt) (v : Int) : delivered T true v = satInt v (fmtLo T) (fmtHi T) := by
  have := fmtLo_le_fmtHi T
  rw [delivered, if_pos rfl, satInt]
  change max (fmtLo T) (min (fmtHi T) v) = _
  split
  · omega
  · split <;> omega

theorem delivered_wrap (T : Fmt) (v : Int) : delivered T false v = wrapTo T v := rfl

theorem delivered_of_inRange {T : Fmt} {v : Int} (hv : Fmt.inRange T v) (sat : Bool) : delivered T sat v = v := by
  cases sat
  · exact wrapTo_of_inRange hv
  · obtain ⟨h1, h2⟩ := hv
    rw [delivered_sat, satInt, if_neg (by omega), if_neg (by omega)]

/-- The bits that WriteInt leaves are the delivered value. -/
theorem intBits_eq_delivered (T : Fmt) (sat : Bool) (v : Int) : intBits T sat v = BitVec.ofInt 64 (delivered T sat v) := by
  rw [intBits]
  cases sat
  · rw [if_neg Bool.false_ne_true, intOf_toNat_emod, delivered_wrap]
  · rw [if_pos rfl, intOf_toNat_emod, delivered_sat, wrapTo_of_inRange (satInt_inRange T v)]

/-! ### WriteInt (R143) -/

theorem Hart.fileSize_setReg (h : Hart) (n : Nat) (v : DWord) : (h.setReg n v).fileSize = h.fileSize := by
  rw [Hart.fileSize, Hart.fileSize, h.isBobbin_setReg]

/-- A written register that the file has: all of it in bobbin code, its low word in thread code. -/
theorem Hart.reg_setReg_self (h : Hart) {n : Nat} (v : DWord) (hn : n < h.fileSize) :
    (h.setReg n v).reg n = if h.isBobbin then v else (v.setWidth 32).setWidth 64 := by
  rw [Hart.reg, Hart.setReg]
  unfold Hart.fileSize Hart.isBobbin at hn
  unfold Hart.isBobbin
  cases hr : h.regs with
  | x l =>
    rw [hr] at hn
    exact congrArg (BitVec.setWidth 64) (getD_setIfInBounds_self l _ 0 hn)
  | w l =>
    rw [hr] at hn
    exact getD_setIfInBounds_self l _ 0 hn

theorem Hart.reg_setReg_of_ne (h : Hart) {n m : Nat} (v : DWord) (hn : m ≠ n) : (h.setReg n v).reg m = h.reg m := Regs.get_set_of_ne _ v hn

theorem Hart.writes_setReg64 (h : Hart) (n : Nat) (v : DWord) :
    h.writes (h.setReg64 n v) ((List.range (if h.isBobbin then 1 else 2)).map (n + ·)) h.fpstat := by
  rw [Hart.setReg64]
  split
  · exact h.writes_setReg n v
  · exact (h.writes_setReg n _).append ((h.setReg n _).writes_setReg (n + 1) _)

/-- The registers of a value of a type, from d on. -/
def Hart.typeRun (h : Hart) (d : Nat) (T : Fmt) : List Nat := (List.range (if h.isBobbin then 1 else fmtRuns T)).map (d + ·)

theorem Hart.writes_writeInt (h : Hart) (d : Nat) (T : Fmt) (sat : Bool) (v : Int) :
    h.writes (h.writeInt d T sat v) (h.typeRun d T) h.fpstat := by
  rw [Hart.writeInt, Hart.typeRun, fmtRuns]
  split
  · exact h.writes_setReg64 d _
  · rw [ite_self]
    exact h.writes_setReg d _

theorem setWidth_ofInt (v : Int) : (BitVec.ofInt 64 v).setWidth 32 = BitVec.ofInt 32 v := by
  apply BitVec.eq_of_toNat_eq
  simp only [BitVec.toNat_setWidth, BitVec.toNat_ofInt]
  omega

/-- One register holds an extended value of at most 32 bits. -/
theorem Hart.holds_setReg (h : Hart) {d : Nat} {T : Fmt} (v : Int) (hT : h.isBobbin = false → T.bits ≠ 64) (hd : d < h.fileSize) :
    (h.setReg d (BitVec.ofInt 64 v)).holds d T v := by
  rw [Hart.holds, h.isBobbin_setReg, h.reg_setReg_self _ hd]
  split
  · rfl
  · next hb => rw [if_neg (hT (by simpa using hb)), setWidth_ofInt]

theorem Hart.holds_setReg64 (h : Hart) {d : Nat} {T : Fmt} (v : Int) (hT : T.bits = 64) (hd : d + (if h.isBobbin then 1 else 2) ≤ h.fileSize) :
    (h.setReg64 d (BitVec.ofInt 64 v)).holds d T v := by
  rw [Hart.setReg64]
  split
  · next hb =>
    rw [if_pos hb] at hd
    exact h.holds_setReg v (fun hf => absurd hb (by simp [hf])) hd
  · next hb =>
    rw [if_neg hb] at hd
    rw [Hart.holds, Hart.isBobbin_setReg, Hart.isBobbin_setReg, if_neg hb, if_pos hT, Hart.reg_setReg_of_ne _ _ (by omega),
      h.reg_setReg_self _ (by omega), if_neg hb, Hart.reg_setReg_self _ _ (by rw [h.fileSize_setReg]; omega), h.isBobbin_setReg, if_neg hb]
    refine ⟨by rw [BitVec.setWidth_setWidth_of_le ((BitVec.ofInt 64 v).setWidth 32) (by decide : 32 ≤ 64), BitVec.setWidth_eq], ?_⟩
    apply BitVec.eq_of_toNat_eq
    have := (BitVec.ofInt 64 v).isLt
    simp only [BitVec.toNat_setWidth, BitVec.toNat_ushiftRight, Nat.shiftRight_eq_div_pow]
    omega

theorem Hart.holds_writeInt (h : Hart) {d : Nat} {T : Fmt} (sat : Bool) (v : Int)
    (hd : d + (if h.isBobbin then 1 else fmtRuns T) ≤ h.fileSize) : (h.writeInt d T sat v).holds d T (delivered T sat v) := by
  rw [Hart.writeInt, intBits_eq_delivered]
  rw [fmtRuns] at hd
  split
  · next hT => exact h.holds_setReg64 _ hT (by rwa [if_pos hT] at hd)
  · next hT => exact h.holds_setReg _ (fun _ => hT) (by rw [if_neg hT, ite_self] at hd; exact hd)

/-- What registers hold depends on them alone. -/
theorem Hart.holds_congr {d : Nat} {T : Fmt} {v : Int} (hb : k.isBobbin = h.isBobbin) (hr : ∀ n ∈ h.typeRun d T, k.reg n = h.reg n) :
    k.holds d T v ↔ h.holds d T v := by
  rw [Hart.holds, Hart.holds, hb]
  rw [Hart.typeRun, fmtRuns] at hr
  split
  · next hw => rw [hr d (by simp [hw])]
  · next hw =>
    split
    · next hT => rw [hr d (by simp [hw, hT]), hr (d + 1) (by simp [hw, hT])]
    · next hT => rw [hr d (by simp [hw, hT])]

theorem Hart.holds_advance (h : Hart) (c : Issue) {d : Nat} {T : Fmt} {v : Int} : (h.advance c).holds d T v ↔ h.holds d T v :=
  Hart.holds_congr (Hart.isBobbin_congr (Hart.advance_regs ..)) fun n _ => h.reg_advance c n

theorem Hart.fits_iff {n : Nat} : h.fits d n ↔ d.toNat + (if h.isBobbin then 1 else n) ≤ h.fileSize := Iff.rfl

/-- One lane's result: the value in its registers and nowhere else. -/
theorem Hart.writesInt_writeInt (c : Issue) {sat : Bool} {v : Fmt → Hart → Int} {w : Int}
    (hw : delivered (h.ty t dflt) sat w = delivered (h.ty t dflt) sat (v (h.ty t dflt) h)) :
    writesInt c d t dflt sat v h ((h.writeInt d.toNat (h.ty t dflt) sat w).advance c) := by
  intro hd
  refine ⟨(h.writes_writeInt d.toNat _ sat w).changes c, ?_⟩
  rw [Hart.holds_advance, ← hw]
  exact h.holds_writeInt sat w (Hart.fits_iff.mp hd)

/-- An instruction that writes each lane a value at the type, of which only what is delivered matters. -/
theorem lanesDo_writesInt {sat : Bool} {v : Fmt → Hart → Int} {w : Hart → Int}
    (he : exec i s = aluOp g (fun h => h.writeInt d.toNat (h.ty t dflt) sat (w h)) s)
    (hw : ∀ h, delivered (h.ty t dflt) sat (w h) = delivered (h.ty t dflt) sat (v (h.ty t dflt) h)) :
    lanesDo i s g (writesInt s.cur d t dflt sat v) :=
  lanesDo_of_aluOp he fun h => Hart.writesInt_writeInt s.cur (hw h)

end Sys2Proof.Machine

open Sys2Proof Sys2Proof.Machine

/-- Settles O7: each writes its value at the type; MIN and MAX choose, and LEA sees the low word of its index alone. -/
theorem integerValues : Obligations.IntegerValues := by
  unfold Obligations.IntegerValues
  intro s g d a b c t sat sh _
  refine ⟨lanesDo_writesInt rfl fun _ => rfl, lanesDo_writesInt rfl fun _ => rfl, lanesDo_writesInt rfl fun _ => rfl,
    lanesDo_writesInt rfl fun _ => rfl, lanesDo_writesInt rfl fun _ => rfl, lanesDo_writesInt rfl fun _ => ?_, lanesDo_writesInt rfl fun _ => ?_,
    lanesDo_writesInt rfl fun _ => rfl, lanesDo_writesInt rfl fun _ => rfl, lanesDo_writesInt rfl fun _ => ?_⟩
  · rw [min_def]
  · rw [max_def]
  · rw [Hart.word, intOf_mod _ _ _ le_rfl]

end

section
/-! PROOFS. What O8 says: whole products, quotients with remainders, and immediates (R149, R151, R152). -/

namespace Sys2Proof.Machine

variable {h : Hart} {T : Fmt}

/-! ### MULW (R151) -/

/-- What a type reads lies in its range. -/
theorem Hart.readInt_inRange (h : Hart) (x : Src) (T : Fmt) : Fmt.inRange T (h.readInt x T) := by
  rw [Hart.readInt, Fmt.inRange, fmtLo, fmtHi]
  cases T.signed
  · have h1 := Nat.mod_lt (h.bitsOf x T).toNat (Nat.two_pow_pos T.bits)
    zify at h1
    simp only [intOf, Bool.false_and, Bool.false_eq_true, if_false]
    push_cast
    omega
  · have h1 := intOf_signed_range (Fmt.bits_pos T) (h.bitsOf x T).toNat
    rw [if_pos rfl, if_pos rfl]
    omega

/-- A product of two values of a narrow type lies in the type of double width. -/
theorem inRange_mul_fmtDouble (hT : T ∈ narrowFmts) {x y : Int} (hx : Fmt.inRange T x) (hy : Fmt.inRange T y) :
    Fmt.inRange (fmtDouble T) (x * y) := by
  obtain ⟨hx1, hx2⟩ := hx
  obtain ⟨hy1, hy2⟩ := hy
  have hm : ∃ m : Int, |x| ≤ m ∧ |y| ≤ m ∧ (0 ≤ fmtLo T → 0 ≤ x ∧ 0 ≤ y) ∧ (fmtLo T < 0 → fmtLo (fmtDouble T) ≤ -(m * m))
      ∧ m * m ≤ fmtHi (fmtDouble T)
      ∧ (0 ≤ fmtLo T → fmtLo (fmtDouble T) = 0) := by
    refine ⟨max (-fmtLo T) (fmtHi T), abs_le.mpr ⟨by omega, by omega⟩, abs_le.mpr ⟨by omega, by omega⟩, by omega, ?_⟩
    clear hx1 hx2 hy1 hy2
    fin_cases hT <;> decide
  obtain ⟨m, hmx, hmy, hpos, hlo, hhi, hzero⟩ := hm
  have habs : |x * y| ≤ m * m := by
    rw [abs_mul]
    exact mul_le_mul hmx hmy (abs_nonneg y) ((abs_nonneg x).trans hmx)
  obtain ⟨h1, h2⟩ := abs_le.mp habs
  refine ⟨?_, h2.trans hhi⟩
  by_cases hT0 : 0 ≤ fmtLo T
  · obtain ⟨hx0, hy0⟩ := hpos hT0
    rw [hzero hT0]
    exact mul_nonneg hx0 hy0
  · exact (hlo (by omega)).trans h1

/-! ### DIVN (R152) -/

/-- The ends of a type's range: 0 lies in it, and below 0 there is one value more than above, or none. -/
theorem Fmt.range_ends (T : Fmt) : fmtLo T ≤ 0 ∧ 1 ≤ fmtHi T ∧ (fmtLo T < 0 → -fmtLo T = fmtHi T + 1)
    ∧ (fmtLo T < 0 ↔ T.signed = true) ∧ (2 : Int) ^ T.bits = fmtHi T - fmtLo T + 1 := by
  cases T <;> decide

theorem inRange_tmod {x : Int} (hx : Fmt.inRange T x) (y : Int) : Fmt.inRange T (x.tmod y) := by
  obtain ⟨h1, h2⟩ := hx
  obtain ⟨hlo, hhi, -⟩ := Fmt.range_ends T
  have hle : (x.tmod y).natAbs ≤ x.natAbs := by rw [Int.natAbs_tmod]; exact Nat.mod_le _ _
  rcases le_total 0 x with h0 | h0
  · have := Int.tmod_nonneg y h0
    exact ⟨by omega, by omega⟩
  · have := Int.tmod_nonneg y (a := -x) (by omega)
    rw [Int.neg_tmod] at this
    exact ⟨by omega, by omega⟩

/-- A quotient lies in the range unless it is the most negative value over -1. -/
theorem inRange_tdiv {x y : Int} (hx : Fmt.inRange T x) (hy : Fmt.inRange T y) (ho : ¬(fmtLo T < 0 ∧ x = fmtLo T ∧ y = -1)) :
    Fmt.inRange T (x.tdiv y) := by
  obtain ⟨hx1, hx2⟩ := hx
  obtain ⟨hy1, hy2⟩ := hy
  obtain ⟨hlo, hhi, hends, -⟩ := Fmt.range_ends T
  by_cases hz : y = 0
  · rw [hz, Int.tdiv_zero]
    exact ⟨hlo, by omega⟩
  have hle : (x.tdiv y).natAbs ≤ x.natAbs := by rw [Int.natAbs_tdiv]; exact Nat.div_le_self _ _
  rcases le_total 0 x with h0 | h0 <;> rcases le_total 0 y with hy0 | hy0
  · have := Int.tdiv_nonneg h0 hy0
    exact ⟨by omega, by omega⟩
  · have := Int.tdiv_nonpos_of_nonneg_of_nonpos h0 hy0
    exact ⟨by omega, by omega⟩
  · have := Int.tdiv_nonneg (a := -x) (by omega) hy0
    rw [Int.neg_tdiv] at this
    exact ⟨by omega, by omega⟩
  · have := Int.tdiv_nonneg (a := -x) (b := -y) (by omega) (by omega)
    rw [Int.neg_tdiv_neg] at this
    refine ⟨by omega, ?_⟩
    by_cases hy2 : 2 ≤ y.natAbs
    · have hhalf : (x.tdiv y).natAbs ≤ x.natAbs / 2 := by rw [Int.natAbs_tdiv]; exact Nat.div_le_div_left hy2 Nat.two_pos
      omega
    · omega

/-- The quotient that DIVN writes is delivered as the exact one; all ones for a zero divisor. -/
theorem delivered_quotient (sat : Bool) {x y : Int} (hx : Fmt.inRange T x) (hy : Fmt.inRange T y) :
    delivered T false (divN T sat x y).1 = if y = 0 then wrapTo T (-1) else delivered T sat (x.tdiv y) := by
  obtain ⟨hlo, hhi, hends, hsigned, hpow⟩ := Fmt.range_ends T
  rw [divN, delivered_wrap]
  by_cases h0 : y = 0
  · rw [if_pos h0, if_pos h0]
    exact wrapTo_congr (by rw [show (2 : Int) ^ T.bits - 1 = -1 + 2 ^ T.bits by ring, Int.add_emod_right])
  rw [if_neg h0, if_neg h0]
  by_cases ho : fmtLo T < 0 ∧ x = fmtLo T ∧ y = -1
  · obtain ⟨hneg, rfl, rfl⟩ := ho
    rw [if_pos (by simp [hsigned.mp hneg]), Int.tdiv_neg, Int.tdiv_one]
    cases sat
    · rw [if_neg Bool.false_ne_true, delivered_wrap]
      exact wrapTo_congr (by rw [show -fmtLo T = fmtLo T + 2 ^ T.bits by have := hends hneg; omega, Int.add_emod_right])
    · rw [if_pos rfl, delivered_sat, satInt, if_neg (by omega), if_pos (by have := hends hneg; omega)]
      exact wrapTo_of_inRange ⟨by omega, le_rfl⟩
  · rw [if_neg (by simpa [← hsigned, and_assoc] using ho), delivered_of_inRange (inRange_tdiv hx hy ho)]
    exact wrapTo_of_inRange (inRange_tdiv hx hy ho)

/-- The remainder that DIVN writes; the dividend for a zero divisor. -/
theorem delivered_remainder (sat : Bool) {x : Int} (hx : Fmt.inRange T x) (y : Int) :
    delivered T false (divN T sat x y).2 = if y = 0 then x else x.tmod y := by
  rw [divN, delivered_wrap]
  by_cases h0 : y = 0
  · rw [if_pos h0, if_pos h0]
    exact wrapTo_of_inRange hx
  rw [if_neg h0, if_neg h0]
  split
  · next ho =>
    have hy : y = -1 := by simp at ho; tauto
    rw [hy, Int.tmod_neg, Int.tmod_one]
    exact wrapTo_of_inRange ⟨(Fmt.range_ends T).1, by have := (Fmt.range_ends T).2.1; omega⟩
  · exact wrapTo_of_inRange (inRange_tmod hx y)

theorem range_add_map_add (m n d : Nat) :
    (List.range m).map (d + ·) ++ (List.range n).map (d + m + ·) = (List.range (m + n)).map (d + ·) := by
  rw [List.range_add, List.map_append, List.map_map]
  exact congrArg _ (List.map_congr_left fun i _ => by simp only [Function.comp]; omega)

/-- Two values of a type, one after the other. -/
theorem Hart.two_writeInt (h : Hart) (c : Issue) {d second : Nat} (T : Fmt) (v w : Int) :
    let e := if h.isBobbin then 1 else fmtRuns T
    let h' := ((h.writeInt d T false v).writeInt second T false w).advance c
    second = d + e → d + 2 * e ≤ h.fileSize → h.changes h' c ((List.range (2 * e)).map (d + ·)) h.preds h.fpstat
      ∧ h'.holds d T (delivered T false v) ∧ h'.holds (d + e) T (delivered T false w) := by
  rintro e h' rfl hd
  have hv := h.writes_writeInt d T false v
  have hw := (h.writeInt d T false v).writes_writeInt (d + e) T false w
  obtain ⟨-, hbv, -⟩ := id hv
  obtain ⟨-, hbw, hkeep, -⟩ := id hw
  have hsize : (h.writeInt d T false v).fileSize = h.fileSize := by rw [Hart.fileSize, Hart.fileSize, hbv]
  refine ⟨?_, ?_, ?_⟩
  · have := (hv.append hw).changes c
    rwa [Hart.typeRun, Hart.typeRun, hbv, range_add_map_add, ← Nat.two_mul, hv.fpstat_eq] at this
  · refine (Hart.holds_advance _ c).mpr ((Hart.holds_congr hbw fun n hn => (hkeep n fun hm => ?_).1).mpr (h.holds_writeInt false v (by omega)))
    rw [Hart.typeRun, hbv] at hn hm
    obtain ⟨i, hi, rfl⟩ := List.mem_map.mp hn
    obtain ⟨j, hj, he⟩ := List.mem_map.mp hm
    rw [List.mem_range] at hi
    omega
  · exact (Hart.holds_advance _ c).mpr (Hart.holds_writeInt _ false w (by rw [hbv, hsize]; omega))

theorem Hart.divn_second (h : Hart) (d : Nat) (T : Fmt) :
    d + (if T.bits = 64 && !h.isBobbin then 2 else 1) = d + if h.isBobbin then 1 else fmtRuns T := by
  rw [fmtRuns]
  cases h.isBobbin <;> by_cases hT : T.bits = 64 <;> simp [hT]

/-! ### MOVI (R149) -/

/-- The value of an immediate. -/
def immediate (h : Hart) (d : Reg) (imm : BitVec 16) : MoviKind → Int
  | .sext => imm.toInt
  | .zext => imm.toNat
  | .hi => (imm ++ (h.reg d.toNat).extractLsb' 0 16 : BitVec 32).toInt

theorem moviValue_eq (h : Hart) (d : Reg) (k : MoviKind) (imm : BitVec 16) : moviValue h d k imm = BitVec.ofInt 64 (immediate h d imm k) := by
  cases k with
  | sext => rfl
  | zext => exact ((BitVec.ofInt_natCast 64 imm.toNat).trans (BitVec.ofNat_toNat 64 imm)).symm
  | hi => rfl

end Sys2Proof.Machine

open Sys2Proof Sys2Proof.Machine

/-- Settles O8: the product fits its type, the two results of DIVN stand side by side, and MOVI writes one register. -/
theorem wideProductsAndDivision : Obligations.WideProductsAndDivision := by
  unfold Obligations.WideProductsAndDivision
  intro s g d a b t sat k imm
  refine ⟨fun ht => lanesDo_of_aluOp rfl fun h => ?_, fun _ => lanesDo_of_aluOp rfl fun h => ?_, lanesDo_of_aluOp rfl fun h hd => ?_⟩
  · intro T hd
    have hT : T ∈ narrowFmts := by
      cases t with
      | none => simp [T, narrowFmts]
      | some f => simpa [tyIn, T] using ht
    have hr := inRange_mul_fmtDouble hT (h.readInt_inRange a T) (h.readInt_inRange b T)
    refine ⟨(h.writes_writeInt ..).changes s.cur, (Hart.holds_advance _ s.cur).mpr ?_⟩
    rw [← delivered_of_inRange hr false]
    exact h.holds_writeInt false _ (Hart.fits_iff.mp hd)
  · intro T x y e hd
    have hx := h.readInt_inRange a T
    have hy := h.readInt_inRange b T
    rw [← delivered_quotient sat hx hy, ← delivered_remainder sat hx]
    exact h.two_writeInt s.cur T _ _ (h.divn_second ..) hd
  · rw [moviValue_eq]
    refine ⟨h.changes_setReg s.cur .., (Hart.holds_advance _ s.cur).mpr ?_⟩
    exact h.holds_setReg _ (fun _ => by decide) (Hart.fits_one hd)

end

section
/-! PROOFS. What O9 and O12 say of predicates, and of results with a predicate (R138, R150, R158 to R160). -/

namespace Sys2Proof.Machine

variable {h k : Hart} {l : List Nat} {f : FFlags}

/-! ### Predicates -/

theorem Hart.setPred_eq (h : Hart) (p : BitVec 3) (v : Bool) : h.setPred p v = { h with preds := (h.setPred p v).preds } := by
  unfold Hart.setPred
  split <;> rfl

/-- The predicates after a write depend on those before it alone. -/
theorem Hart.setPred_preds_congr (e : k.preds = h.preds) (p : BitVec 3) (v : Bool) : (k.setPred p v).preds = (h.setPred p v).preds := by
  unfold Hart.setPred
  split
  · exact e
  · exact congrArg (fun x => setBits x p.toNat 1 v.toNat) e

theorem Hart.writes.preds_eq (hk : h.writes k l f) : k.preds = h.preds := by rw [hk.1]

/-- New values of registers, and new predicates. -/
theorem Hart.writes.changes_preds (hk : h.writes k l f) (c : Issue) (p : BitVec 7) :
    h.changes (({ k with preds := p } : Hart).advance c) c l p f := by
  obtain ⟨ek, bk, rk, pk⟩ := hk
  refine ⟨?_, (Hart.isBobbin_congr (Hart.advance_regs ..)).trans bk, fun n hn => ?_, fun n hn => ?_⟩
  · rw [Hart.advance_regs, Hart.advance_poison]
    exact congrArg (fun m : Hart => ({ m with preds := p } : Hart).advance c) ek
  · rw [Hart.reg, Hart.advance_regs, Hart.advance_poison]
    exact rk n hn
  · rw [Hart.advance_poison]
    exact pk n hn

theorem Hart.writes.changes_setPred (hk : h.writes k l f) (c : Issue) (p : BitVec 3) {v w : Bool} (hv : v = w) :
    h.changes ((k.setPred p v).advance c) c l (h.setPred p w).preds f := by
  rw [← hv, k.setPred_eq p v, Hart.setPred_preds_congr hk.preds_eq]
  exact hk.changes_preds c _

/-- p7 reads true and keeps no write (R134, R138). -/
theorem Hart.pred_setPred (h : Hart) (p q : BitVec 3) (v : Bool) :
    (h.setPred p v).pred q = if q = 7 then true else if q = p then v else h.pred q := by
  by_cases hq : q = 7
  · rw [Hart.pred, if_pos hq, if_pos hq]
  rw [Hart.pred, if_neg hq, if_neg hq, Hart.pred, if_neg hq]
  by_cases hp : p = 7
  · rw [Hart.setPred, if_pos hp, if_neg (hp ▸ hq)]
  · have hlt : q.toNat < 7 := by
      have : q.toNat ≠ 7 := fun e => hq (BitVec.eq_of_toNat_eq e)
      have := q.isLt
      omega
    rw [Hart.setPred, if_neg hp]
    refine (getLsbD_setBits _ _ _ _ _ hlt).trans ?_
    by_cases he : q = p
    · subst he
      rw [if_pos (by omega), if_pos rfl, Nat.sub_self]
      cases v <;> rfl
    · have : q.toNat ≠ p.toNat := fun e => he (BitVec.eq_of_toNat_eq e)
      rw [if_neg (by omega), if_neg he]

/-! ### Carry chains (R150) -/

/-- A word and its carry: the register takes the one, the predicate the other. -/
theorem Hart.carry_changes (h : Hart) (c : Issue) {d : Reg} (p : BitVec 3) (r : Nat × Bool) {w : Nat} (hr : r.1 = w) (hw : w < 2 ^ 32)
    (hd : h.fits d 1) :
    let h' := ((h.setWord d.toNat r.1).setPred p r.2).advance c
    h.changes h' c [d.toNat] (h.setPred p r.2).preds h.fpstat ∧ h'.reg d.toNat = BitVec.ofNat 64 w := by
  intro h'
  refine ⟨(h.writes_setWord d.toNat r.1).changes_setPred c p rfl, (Hart.reg_advance ..).trans ?_⟩
  rw [Hart.setPred_eq]
  refine (h.reg_setWord_self r.1 (Hart.fits_one hd)).trans ?_
  rw [hr, Nat.mod_eq_of_lt hw]

theorem subBorrow_fst {x y k : Nat} (hx : x < 2 ^ 32) (hy : y < 2 ^ 32) (hk : k ≤ 1) :
    (subBorrow x y k).1 = (((x : Int) - y - k) % 2 ^ 32).toNat := by
  rw [subBorrow]
  omega

/-! ### Packed predicates (R160) -/

theorem predsWord_eq (p : BitVec 7) : BitVec.ofNat 64 ((p.toNat + 128) % 2 ^ 32) = ((1#1 ++ p : BitVec 8).setWidth 64 : DWord) := by
  apply BitVec.eq_of_toNat_eq
  have h : (1#1 ++ p : BitVec 8).toNat = 128 + p.toNat := by
    rw [BitVec.toNat_append, ← Nat.shiftLeft_add_eq_or_of_lt p.isLt]
    rfl
  have := p.isLt
  rw [BitVec.toNat_setWidth, h, BitVec.toNat_ofNat]
  omega

theorem getLsbD_masked (p mask : BitVec 7) (v : DWord) {i : Nat} (hi : i < 7) :
    ((p &&& ~~~mask) ||| (v.extractLsb' 0 7 &&& mask)).getLsbD i = if mask.getLsbD i then v.getLsbD i else p.getLsbD i := by
  rw [BitVec.getLsbD_or, BitVec.getLsbD_and, BitVec.getLsbD_and, BitVec.getLsbD_not, BitVec.getLsbD_extractLsb', Nat.zero_add]
  cases mask.getLsbD i <;> simp [hi]

/-- A comparison of two values. -/
theorem condHolds_eq (c : Cond) (x y : Int) : condHolds c x y = match c with
    | .eq => decide (x = y)
    | .ne => decide (x ≠ y)
    | .lt => decide (x < y)
    | .le => decide (x ≤ y)
    | .gt => decide (x > y)
    | .ge => decide (x ≥ y) := by
  cases c with
  | eq => exact beq_eq_decide x y
  | ne => simp [condHolds, bne, beq_eq_decide]
  | lt | le | gt | ge => rfl

end Sys2Proof.Machine

open Sys2Proof Sys2Proof.Machine

/-- Settles O9: the word is below 2^32, and its carry goes to the predicate, which p7 drops. -/
theorem carryChains : Obligations.CarryChains := by
  unfold Obligations.CarryChains
  intro s g d a b p
  refine ⟨lanesDo_of_aluOp rfl fun h hd => ?_, lanesDo_of_aluOp rfl fun h hd => ?_⟩
  · exact h.carry_changes s.cur p (addCarry (h.word a) (h.word b) (h.pred p).toNat) rfl (Nat.mod_lt _ (by decide)) hd
  · have hx : h.word a < 2 ^ 32 := Nat.mod_lt _ (by decide)
    have hy : h.word b < 2 ^ 32 := Nat.mod_lt _ (by decide)
    exact h.carry_changes s.cur p (subBorrow (h.word a) (h.word b) (h.pred p).toNat) (subBorrow_fst hx hy (Bool.toNat_le _)) (by omega) hd

/-- Settles O12: a comparison and a lookup write a predicate, SEL chooses, and the packed predicates go to one register and come from one. -/
theorem comparesAndPredicates : Obligations.ComparesAndPredicates := by
  unfold Obligations.ComparesAndPredicates
  intro s g d a b t k pd pa pb pc neg lut mask _
  refine ⟨lanesDo_of_aluOp rfl fun h => ?_, lanesDo_writesInt rfl fun _ => rfl, lanesDo_of_aluOp rfl fun h => ?_,
    lanesDo_of_aluOp rfl fun h hd => ?_, lanesDo_of_aluOp rfl fun h => ?_, Hart.pred_setPred⟩
  · exact h.writes_nil.changes_setPred s.cur pd (condHolds_eq k _ _)
  · exact h.writes_nil.changes_setPred s.cur pd rfl
  · have hw := h.setWord_changes s.cur (h.preds.toNat + 128) hd
    rwa [predsWord_eq] at hw
  · exact ⟨_, h.writes_nil.changes_preds s.cur _, fun i hi => getLsbD_masked h.preds mask (h.src a) hi⟩

end

section
/-! PROOFS. What O10 says of patterns: logic and shifts (R153). -/

namespace Sys2Proof.Machine

variable {T : Fmt}

/-! ### Patterns -/

theorem Hart.pattern_lt (h : Hart) (x : Src) (T : Fmt) : h.pattern x T < 2 ^ T.bits := Nat.mod_lt _ (Nat.two_pow_pos _)

/-- A number and its low bits are the same pattern. -/
theorem delivered_natCast_congr {a b : Nat} (h : a % 2 ^ T.bits = b % 2 ^ T.bits) : delivered T false (a : Int) = delivered T false (b : Int) :=
  wrapTo_congr (by exact_mod_cast h)

theorem xor_and_eq_and_not {n a b : Nat} (ha : a < 2 ^ n) (hb : b < 2 ^ n) :
    a ^^^ (a &&& b) = (BitVec.ofNat n a &&& ~~~BitVec.ofNat n b).toNat := by
  have h : BitVec.ofNat n (a ^^^ (a &&& b)) = BitVec.ofNat n a &&& ~~~BitVec.ofNat n b := by
    ext i hi
    simp only [BitVec.ofNat_xor, BitVec.ofNat_and, BitVec.getElem_xor, BitVec.getElem_and, BitVec.getElem_not]
    cases (BitVec.ofNat n a)[i] <;> simp
  rw [← h, BitVec.toNat_ofNat, Nat.mod_eq_of_lt (Nat.xor_lt_two_pow ha (Nat.and_lt_two_pow a hb))]

/-! ### Shifts -/

theorem shlN_mod (n a k : Nat) : shlN n a k % 2 ^ n = a * 2 ^ k % 2 ^ n := by
  rw [shlN]
  split
  · exact Nat.mod_mod _ _
  · next h => rw [Nat.mod_eq_zero_of_dvd ((pow_dvd_pow 2 (Nat.le_of_not_lt h)).mul_left a), Nat.zero_mod]

theorem shrN_eq {n a : Nat} (k : Nat) (ha : a < 2 ^ n) : shrN n a k = a / 2 ^ k := by
  rw [shrN]
  split
  · rfl
  · next h => rw [Nat.div_eq_of_lt (ha.trans_le (Nat.pow_le_pow_right Nat.two_pos (Nat.le_of_not_lt h)))]

/-- Past its width a signed value shifted right is its sign. -/
theorem fdiv_two_pow_of_le {m k : Nat} {v : Int} (h1 : -2 ^ m ≤ v) (h2 : v < 2 ^ m) (hk : m ≤ k) : v.fdiv (2 ^ k) = if v < 0 then -1 else 0 := by
  have hp : (2 : Int) ^ m ≤ 2 ^ k := pow_le_pow_right₀ (by decide) hk
  have h0 : (0 : Int) < 2 ^ k := by positivity
  rw [Int.fdiv_eq_ediv_of_nonneg _ h0.le]
  split
  · rw [Int.ediv_eq_iff_of_pos h0]; omega
  · exact Int.ediv_eq_zero_of_lt (by omega) (by omega)

theorem sarN_eq {n : Nat} (hn : 0 < n) (a k : Nat) : (sarN n a k : Int) = (intOf n true a).fdiv (2 ^ k) % 2 ^ n := by
  rw [sarN, Int.toNat_of_nonneg (Int.emod_nonneg _ (by positivity))]
  split
  · rfl
  · next h =>
    obtain ⟨h1, h2⟩ := intOf_signed_range hn a
    rw [fdiv_two_pow_of_le h1 h2 (by omega), fdiv_two_pow_of_le h1 h2 (by omega)]

theorem rotN_eq {n a : Nat} (hn : 0 < n) (k : Nat) (ha : a < 2 ^ n) : rotN n a k = ((BitVec.ofNat n a).rotateLeft k).toNat := by
  have hr : k % n < n := Nat.mod_lt k hn
  generalize hq : k % n = r at hr
  have hsplit : 2 ^ n = 2 ^ r * 2 ^ (n - r) := by rw [← Nat.pow_add]; congr 1; omega
  have hhigh : a / 2 ^ (n - r) < 2 ^ r := Nat.div_lt_of_lt_mul (by rw [Nat.mul_comm, ← hsplit]; exact ha)
  have hlow : a * 2 ^ r % 2 ^ n = 2 ^ r * (a % 2 ^ (n - r)) := by rw [hsplit, Nat.mul_comm a, Nat.mul_mod_mul_left]
  have hlt : 2 ^ r * (a % 2 ^ (n - r)) + a / 2 ^ (n - r) < 2 ^ n := by
    have := Nat.mod_lt a (Nat.two_pow_pos (n - r))
    calc _ < 2 ^ r * (a % 2 ^ (n - r)) + 2 ^ r * 1 := by omega
      _ = 2 ^ r * (a % 2 ^ (n - r) + 1) := by rw [← Nat.mul_add]
      _ ≤ 2 ^ r * 2 ^ (n - r) := Nat.mul_le_mul_left _ this
      _ = 2 ^ n := hsplit.symm
  rw [rotN, BitVec.toNat_rotateLeft, hq, BitVec.toNat_ofNat, Nat.mod_eq_of_lt ha, Nat.shiftLeft_eq, Nat.shiftRight_eq_div_pow, hlow,
    ← Nat.two_pow_add_eq_or_of_lt hhigh, ← Nat.mod_add_mod, hlow, Nat.mod_eq_of_lt hlt]

end Sys2Proof.Machine

open Sys2Proof Sys2Proof.Machine

/-- Settles O10: what each function of patterns gives is the statement's pattern, or has the same low bits. -/
theorem logicAndShifts : Obligations.LogicAndShifts := by
  unfold Obligations.LogicAndShifts
  intro s g d a b t _
  refine ⟨lanesDo_writesInt rfl fun _ => rfl, lanesDo_writesInt rfl fun _ => rfl, lanesDo_writesInt rfl fun _ => rfl,
    lanesDo_writesInt rfl fun h => ?_, lanesDo_writesInt rfl fun h => ?_, lanesDo_writesInt rfl fun h => ?_, lanesDo_writesInt rfl fun h => ?_,
    lanesDo_writesInt rfl fun h => ?_⟩
  · exact congrArg (fun n : Nat => delivered _ false n) (xor_and_eq_and_not (h.pattern_lt ..) (h.pattern_lt ..))
  · exact delivered_natCast_congr (shlN_mod ..)
  · rw [shrN_eq _ (h.pattern_lt ..)]
  · rw [sarN_eq (Fmt.bits_pos _)]
    exact wrapTo_congr (Int.emod_emod_of_dvd _ dvd_rfl)
  · rw [rotN_eq (Fmt.bits_pos _) _ (h.pattern_lt ..)]

end

section
/-! PROOFS. What O11 says of bit fields, counts and bytes (R154 to R156). -/

namespace Sys2Proof.Machine

variable {T : Fmt}

/-! ### Fields (R154) -/

theorem fieldLen_eq (n ctl : Nat) : fieldLen n ctl = if fieldWidth n ctl = 0 then none else some (ctl % 256, fieldWidth n ctl) := by
  rw [fieldLen, fieldWidth]
  exact if_congr (by omega) rfl rfl

theorem bfxN_eq (T : Fmt) (a ctl : Nat) :
    bfxN T a ctl = if fieldWidth T.bits ctl = 0 then 0 else intOf (fieldWidth T.bits ctl) T.signed (a / 2 ^ (ctl % 256)) := by
  rw [bfxN, fieldLen_eq]
  split_ifs <;> rfl

/-- Bit i after an insertion: of the field inside it, of the old pattern outside. -/
theorem testBit_bfiN (n a b ctl i : Nat) : (bfiN n a b ctl).testBit i =
    if ctl % 256 ≤ i ∧ i < ctl % 256 + fieldWidth n ctl then b.testBit (i - ctl % 256) else a.testBit i := by
  rw [bfiN, fieldLen_eq]
  generalize ctl % 256 = p, fieldWidth n ctl = l
  by_cases hl : l = 0
  · rw [if_pos hl, if_neg (by omega)]
  rw [if_neg hl]
  dsimp only
  have hsum : a % 2 ^ p + b % 2 ^ l * 2 ^ p + a / 2 ^ (p + l) * 2 ^ (p + l) = 2 ^ p * (2 ^ l * (a / 2 ^ (p + l)) + b % 2 ^ l) + a % 2 ^ p := by
    rw [Nat.pow_add]; ring
  rw [hsum, Nat.testBit_two_pow_mul_add _ (Nat.mod_lt _ (Nat.two_pow_pos p)), Nat.testBit_two_pow_mul_add _ (Nat.mod_lt _ (Nat.two_pow_pos l)),
    Nat.testBit_mod_two_pow, Nat.testBit_mod_two_pow, Nat.testBit_div_two_pow]
  by_cases h1 : i < p
  · rw [if_pos h1, if_neg (by omega)]
    simp [h1]
  · rw [if_neg h1]
    by_cases h2 : i < p + l
    · rw [if_pos (by omega), if_pos (by omega)]
      simp [show i - p < l by omega]
    · rw [if_neg (by omega), if_neg (by omega), show i - p - l + (p + l) = i by omega]

/-- An insertion stays within the pattern's bits. -/
theorem bfiN_lt {n a : Nat} (b ctl : Nat) (ha : a < 2 ^ n) : bfiN n a b ctl < 2 ^ n := by
  refine Nat.lt_pow_two_of_testBit _ fun i hi => ?_
  rw [testBit_bfiN, fieldWidth, if_neg (by omega)]
  exact Nat.testBit_lt_two_pow (ha.trans_le (Nat.pow_le_pow_right Nat.two_pos hi))

theorem wrapTo_emod (T : Fmt) (v : Int) : wrapTo T v % 2 ^ T.bits = v % 2 ^ T.bits := by
  rw [wrapTo]
  split
  · have h := Int.bmod_emod (x := v) (m := 2 ^ T.bits)
    rwa [Nat.cast_pow, Nat.cast_ofNat] at h
  · exact Int.emod_emod_of_dvd _ dvd_rfl

/-- The low bits of a register or pair of which it is said what value it holds. -/
theorem Hart.pattern_of_holds {h : Hart} {d : Reg} {v : Int} (hv : h.holds d.toNat T v) : h.pattern (.reg d) T = (v % 2 ^ T.bits).toNat := by
  have hlow : ∀ n, T.bits ≤ n → (BitVec.ofInt n v).toNat % 2 ^ T.bits = (v % 2 ^ T.bits).toNat := by
    intro n hn
    zify
    rw [BitVec.toNat_ofInt, Nat.cast_pow, Nat.cast_ofNat, Int.toNat_of_nonneg (Int.emod_nonneg _ (by positivity)),
      Int.toNat_of_nonneg (Int.emod_nonneg _ (by positivity)), Int.emod_emod_of_dvd _ (pow_dvd_pow 2 hn)]
  have hpair (x : DWord) : (((x >>> 32).setWidth 32 : Word) ++ ((x.setWidth 32).setWidth 64).setWidth 32 : BitVec (32 + 32)) = x := by
    ext i hi
    simp
    grind
  rw [Hart.pattern, Hart.bitsOf]
  rw [Hart.holds] at hv
  split at hv
  · next hb =>
    have : (if T.bits = 64 then h.src64 (.reg d) else h.src (.reg d)) = BitVec.ofInt 64 v := by simp [Hart.src64, Hart.src, hb, hv]
    rw [this, hlow 64 (Fmt.bits_le T)]
  · next hb =>
    split at hv
    · next hT =>
      rw [if_pos hT, Hart.src64]
      simp only [hb, Bool.false_eq_true, if_false]
      rw [hv.1, hv.2, hpair, hlow 64 (Fmt.bits_le T)]
    · next hT =>
      rw [if_neg hT, Hart.src, hv, BitVec.toNat_setWidth, Nat.mod_eq_of_lt ((BitVec.isLt _).trans (by decide))]
      exact hlow 32 (by have := Fmt.bits_cases T; omega)

/-- An insertion into register d: the pattern there has the inserted bits, extended as its type says. -/
theorem Hart.bfi_changes (h : Hart) (c : Issue) (d : Reg) (T : Fmt) (a b : Nat) (ctl : Nat) (ha : a < 2 ^ T.bits) (hd : h.fits d (fmtRuns T)) :
    let h' := (h.writePattern d.toNat T (bfiN T.bits a b ctl)).advance c
    h.changes h' c (h.run d (fmtRuns T)) h.preds h.fpstat
      ∧ h'.holds d.toNat T (wrapTo T (h'.pattern (.reg d) T))
      ∧ ∀ i < T.bits, (h'.pattern (.reg d) T).testBit i =
          if ctl % 256 ≤ i ∧ i < ctl % 256 + fieldWidth T.bits ctl then b.testBit (i - ctl % 256) else a.testBit i := by
  intro h'
  have hlt := bfiN_lt b ctl ha
  have hholds : h'.holds d.toNat T (wrapTo T (bfiN T.bits a b ctl)) := h.holds_writeInt false _ (Hart.fits_iff.mp hd) |> (Hart.holds_advance _ c).mpr
  have hpat : h'.pattern (.reg d) T = bfiN T.bits a b ctl := by
    rw [Hart.pattern_of_holds hholds, wrapTo_emod, Int.emod_eq_of_lt (by positivity) (by exact_mod_cast hlt)]
    rfl
  refine ⟨(h.writes_writeInt ..).changes c, ?_, fun i _ => ?_⟩
  · rwa [hpat]
  · rw [hpat, testBit_bfiN]

/-! ### Reversal and counts (R155) -/

theorem brevN_succ (n a : Nat) : brevN (n + 1) a = 2 * brevN n a + (a.testBit n).toNat := by
  have hmap : (List.range n).map (fun i => if a.testBit i then 2 ^ (n + 1 - 1 - i) else 0)
      = (List.range n).map fun i => 2 * if a.testBit i then 2 ^ (n - 1 - i) else 0 := by
    refine List.map_congr_left fun i hi => ?_
    rw [show n + 1 - 1 - i = n - 1 - i + 1 by have := List.mem_range.mp hi; omega, Nat.pow_succ]
    split <;> omega
  rw [brevN, brevN, sumNat, sumNat, ← List.sum_eq_foldl, ← List.sum_eq_foldl, List.sum_range_succ, hmap, List.sum_map_mul_left]
  cases a.testBit n <;> simp

theorem testBit_brevN (n a : Nat) : ∀ i, (brevN n a).testBit i = (decide (i < n) && a.testBit (n - 1 - i)) := by
  induction n with
  | zero => simp [brevN, sumNat]
  | succ n ih =>
    intro i
    rw [brevN_succ]
    cases i with
    | zero => cases hb : a.testBit n <;> simp [Nat.testBit_zero, Nat.add_mod, hb]
    | succ i =>
      have hdiv : (2 * brevN n a + (a.testBit n).toNat) / 2 = brevN n a := by have := Bool.toNat_lt (a.testBit n); omega
      rw [Nat.testBit_succ, hdiv, ih, show n + 1 - 1 - (i + 1) = n - 1 - i by omega]
      simp

theorem brevN_eq (n a : Nat) : brevN n a = (BitVec.ofNat n a).reverse.toNat := by
  refine Nat.eq_of_testBit_eq fun i => ?_
  rw [testBit_brevN, BitVec.testBit_toNat, BitVec.getLsbD_reverse, BitVec.getMsbD, BitVec.getLsbD_ofNat]
  by_cases hi : i < n
  · simp [hi, show n - 1 - i < n by omega]
  · simp [hi]

theorem popN_le (n a : Nat) : popN n a ≤ n := List.countP_le_length.trans_eq List.length_range

theorem clzN_le (n a : Nat) : clzN n a ≤ n := by
  rw [clzN]
  split <;> omega

/-- CLZ counts the bits above the highest 1. -/
theorem clzN_bounds {n a : Nat} (ha : a < 2 ^ n) : a < 2 ^ (n - clzN n a) ∧ (clzN n a < n → 2 ^ (n - clzN n a - 1) ≤ a) := by
  rw [clzN]
  split
  · next h0 => exact ⟨by simp [h0], fun h => absurd h (lt_irrefl n)⟩
  · next h0 =>
    have hlog : Nat.log2 a < n := (Nat.log2_lt h0).mpr ha
    rw [show n - (n - 1 - Nat.log2 a) = Nat.log2 a + 1 by omega, Nat.add_sub_cancel]
    exact ⟨Nat.lt_log2_self, fun _ => Nat.log2_self_le h0⟩

/-! ### BPICK (R156) -/

theorem pickByte_lt (src sel i : Nat) : pickByte src sel i < 256 := by
  rw [pickByte]
  split <;> omega

/-- Four bytes, the lowest first. -/
def fourBytes (b0 b1 b2 b3 : Nat) : Nat := b0 + 256 * (b1 + 256 * (b2 + 256 * b3))

theorem sumNat_range_four (f : Nat → Nat) : sumNat ((List.range 4).map f) = f 0 + f 1 + f 2 + f 3 := by
  simp [List.range_succ, sumNat]

theorem horner_four (x b0 b1 b2 b3 : Nat) :
    b0 * x ^ 0 + b1 * x ^ 1 + b2 * x ^ 2 + b3 * x ^ 3 = b0 + x * (b1 + x * (b2 + x * b3)) := by ring

theorem pickBytes_eq (src sel : Nat) :
    pickBytes src sel = fourBytes (pickByte src sel 0) (pickByte src sel 1) (pickByte src sel 2) (pickByte src sel 3) := by
  rw [pickBytes, sumNat_range_four, horner_four, fourBytes]

/-- Byte i of four. -/
theorem fourBytes_byte {b0 b1 b2 b3 i : Nat} (h0 : b0 < 256) (h1 : b1 < 256) (h2 : b2 < 256) (h3 : b3 < 256) (hi : i < 4) :
    fourBytes b0 b1 b2 b3 % 2 ^ 32 / 256 ^ i % 256 = [b0, b1, b2, b3].getD i 0 := by
  rw [fourBytes]
  interval_cases i <;> simp <;> omega

theorem pickBytes_byte (src sel : Nat) {i : Nat} (hi : i < 4) : pickBytes src sel % 2 ^ 32 / 256 ^ i % 256 = pickByte src sel i := by
  have hb := pickByte_lt src sel
  rw [pickBytes_eq, fourBytes_byte (hb 0) (hb 1) (hb 2) (hb 3) hi]
  interval_cases i <;> rfl

end Sys2Proof.Machine

open Sys2Proof Sys2Proof.Machine

/-- Settles O11: fields by their bits, reversal by its recursion, counts by their bounds, and the bytes of BPICK one by one. -/
theorem bitFieldsAndCounts : Obligations.BitFieldsAndCounts := by
  unfold Obligations.BitFieldsAndCounts
  intro s g d a b c t r imm _
  refine ⟨lanesDo_writesInt rfl fun h => ?_, lanesDo_of_aluOp rfl fun h => ?_, lanesDo_writesInt rfl fun h => ?_,
    lanesDo_of_aluOp rfl fun h => ?_, lanesDo_of_aluOp rfl fun h => ?_, lanesDo_of_aluOp rfl fun h => ?_⟩
  · exact congrArg _ (bfxN_eq ..)
  · intro T ctl l hd
    exact h.bfi_changes s.cur d (h.ty t .n32) (h.pattern a _) (h.pattern b _) (h.word c) (h.pattern_lt a _) hd
  · exact congrArg (fun n : Nat => delivered _ false n) (brevN_eq ..)
  · intro T hd
    have hw := h.setWord_changes s.cur (popN T.bits (h.pattern a T)) hd
    have := popN_le T.bits (h.pattern a T)
    have := Fmt.bits_le T
    rwa [Nat.mod_eq_of_lt (by omega)] at hw
  · intro T hd
    have hw := h.setWord_changes s.cur (clzN T.bits (h.pattern a T)) hd
    have hle := clzN_le T.bits (h.pattern a T)
    have := Fmt.bits_le T
    rw [Nat.mod_eq_of_lt (by omega)] at hw
    exact ⟨hw.1, _, hle, hw.2, clzN_bounds (h.pattern_lt a T)⟩
  · intro src sel hd
    have hsel : (if r then h.word c % 2 ^ 16 else imm.toNat) = sel := by
      rw [Hart.word, Nat.mod_mod_of_dvd _ (by decide)]
    have hw := h.setWord_changes s.cur (pickBytes src (if r then h.word c % 2 ^ 16 else imm.toNat)) hd
    have hlt : ∀ n : Nat, n % 2 ^ 32 < 2 ^ 64 := fun n => (Nat.mod_lt n (by decide)).trans (by decide)
    refine ⟨hw.1, fun i hi => (congrArg (fun x : DWord => x.toNat / 256 ^ i % 256) hw.2).trans ?_⟩
    rw [BitVec.toNat_ofNat, Nat.mod_eq_of_lt (hlt _), pickBytes_byte _ _ hi, hsel, pickByte]

end

section
/-! PROOFS. What O60 says of the state at power-on and of a slot given to a context (R161, R253). -/

namespace Sys2Proof.Machine

theorem Vector.toList_replicate_getD {α : Type} (n i : Nat) (a : α) : (Vector.replicate n a).toList.getD i a = a := by
  rw [Vector.toList_replicate, List.getD_eq_getElem?_getD, List.getElem?_replicate]
  split <;> rfl

theorem Regs.get_zeroW (n : Nat) : Regs.zeroW.get n = 0 := Vector.toList_replicate_getD 32 n 0

/-- Every port has its wire charge before a write (R443). -/
theorem State.port_reset {n : Nat} (hn : n < 36) : field (State.reset.port n) 2 12 = 250 := by
  interval_cases n <;> rfl

/-- A slot as it is given to a context (R253). -/
theorem State.freshSlot_slackTab (s : State) (core ctx : Nat) (rec_ bolts : List Byte) (slacks : List (BitVec 12)) (ovt : BitVec 48) {i : Nat}
    (hi : i < 8) : (s.freshSlot core ctx rec_ bolts slacks ovt).slackTab.toList.getD i 0 = slacks.getD i 0 := by
  rw [State.freshSlot, Vector.toList_ofFn, List.getD_eq_getElem?_getD, List.getElem?_ofFn, dif_pos hi]
  rfl

end Sys2Proof.Machine

open Sys2Proof Sys2Proof.Machine

/-- Settles O60: power-on leaves the defaults of the record, a new slot its own, and tables of one value read back that value. -/
theorem resetState : Obligations.ResetState := by
  unfold Obligations.ResetState
  have hqueue : ({} : Queue).enabled = false := by decide
  refine ⟨State.reset_wf, rfl, rfl, rfl, rfl, rfl, rfl, rfl, rfl, fun _ _ => hqueue, fun _ hn => State.port_reset hn, rfl, rfl, rfl, ?_, ?_⟩
  · exact fun regs pc => ⟨rfl, ⟨rfl, rfl, rfl, rfl⟩, rfl, rfl, rfl, rfl, rfl, rfl⟩
  · intro s core ctx rec_ bolts slacks ovt q
    have hknot (k : BitVec 4) : q.knot k = {} := Vector.toList_replicate_getD 16 k.toNat ({} : Knot)
    refine ⟨rfl, rfl, rfl, rfl, rfl, rfl, fun i => Vector.toList_replicate_getD 64 i 0, fun k => by simp [hknot], fun _ => rfl, Regs.get_zeroW,
      rfl, rfl, rfl, rfl, rfl, rfl, rfl, rfl, rfl, fun i hi => s.freshSlot_slackTab core ctx rec_ bolts slacks ovt hi, rfl⟩

end

section
/-! PROOFS. What an access costs: counter words, the tags of caches, translations held, free choices and the sectors that the issue has
touched. Memory, threads, packets and tables stay (R22, R323, R451, R507, R510, R517). -/

namespace Sys2Proof.Machine

variable {s t u : State}

/-- A slot without what this cycle's events add. -/
def Slot.bare (q : Slot) : Slot := { q with pending := [] }

/-- A core without what accesses cost. -/
def Core.bare (k : Core) : Core :=
  { k with slots := k.slots.map fun e => (e.1, e.2.bare), l1 := [], l2 := [], roLines := [], msLines := [], eunaPending := 0 }

/-- The second state differs from the first in what accesses cost. -/
def State.costsOnly (s t : State) : Prop :=
  t = { s with cores := t.cores, dies := t.dies, free := t.free, cur := { s.cur with sectors := t.cur.sectors } }
    ∧ ∀ c, (t.core c).bare = (s.core c).bare

theorem State.costsOnly.refl : s.costsOnly s := ⟨rfl, fun _ => rfl⟩

theorem State.costsOnly.trans (h : s.costsOnly t) (h' : t.costsOnly u) : s.costsOnly u :=
  ⟨by rw [h'.1, h.1], fun c => (h'.2 c).trans (h.2 c)⟩

theorem State.costsOnly.ite {c : Prop} [Decidable c] (h : s.costsOnly t) (h' : s.costsOnly u) : s.costsOnly (if c then t else u) := by
  split
  · exact h
  · exact h'

theorem State.costsOnly.foldl {α : Type} {f : State → α → State} (hf : ∀ (t : State) (a : α), t.costsOnly (f t a)) (l : List α)
    (h : s.costsOnly t) : s.costsOnly (l.foldl f t) :=
  List.foldlRecOn l f h fun t ht a _ => ht.trans (hf t a)

theorem State.costsOnly.modCore (h : s.costsOnly t) {c : Nat} {f : Core → Core} (hf : ∀ k, (f k).bare = k.bare) : s.costsOnly (t.modCore c f) := by
  refine h.trans ⟨rfl, fun d => ?_⟩
  by_cases hd : d = c
  · rw [hd, State.core_modCore_self, hf]
  · rw [State.core_modCore_of_ne _ _ hd]

theorem State.costsOnly.modSlot (h : s.costsOnly t) {c n : Nat} {f : Slot → Slot} (hf : ∀ q, (f q).bare = q.bare) :
    s.costsOnly (t.modSlot c n f) := by
  refine h.modCore fun k => ?_
  have : ((k.slots.modify n f).map fun e => (e.1, e.2.bare)) = k.slots.map fun e => (e.1, e.2.bare) := by
    rw [KMap.modify, List.map_map]
    refine List.map_congr_left fun e _ => ?_
    dsimp only [Function.comp_apply]
    split
    · next he => rw [hf, he]
    · rfl
  rw [Core.bare, Core.bare, this]

theorem Slot.bare_addPending (q : Slot) (n a : Nat) : (q.addPending n a).bare = q.bare := by
  rw [Slot.addPending]
  split <;> rfl

theorem Slot.bare_event (q : Slot) (code : Nat) (perIssue : Bool) (user system amount : Nat) :
    (q.event code perIssue user system amount).bare = q.bare := by
  refine List.foldlRecOn (motive := fun p : Slot => p.bare = q.bare) _ _ rfl fun p hp i _ => ?_
  dsimp only
  split
  · exact hp
  · rw [Slot.bare_addPending, hp]

theorem State.costsOnly.count (h : s.costsOnly t) {core ctx n amount : Nat} : s.costsOnly (t.count core ctx n amount) := by
  unfold State.count
  split
  · exact h
  · exact h.modSlot fun q => q.bare_addPending _ _

theorem State.costsOnly.event (h : s.costsOnly t) {core ctx code amount : Nat} {system : Bool} :
    s.costsOnly (t.event core ctx code amount system) := by
  unfold State.event
  split
  · exact h
  · exact h.modSlot fun q => q.bare_event _ _ _ _ _

theorem State.costsOnly.charge (h : s.costsOnly t) {core ctx : Nat} {launch : Word} {cls n : Nat} :
    s.costsOnly (t.charge core ctx launch cls n) := by
  unfold State.charge
  dsimp only
  split
  · exact h.modCore fun _ => rfl
  · exact h.modSlot fun q => q.bare_addPending _ _

theorem State.costsOnly.spend (h : s.costsOnly t) : s.costsOnly t.spend := h.trans ⟨rfl, fun _ => rfl⟩

theorem State.costsOnly.modDie (h : s.costsOnly t) {d : Nat} {f : Die → Die} : s.costsOnly (t.modDie d f) := h.trans ⟨rfl, fun _ => rfl⟩

theorem State.costsOnly.touch (h : s.costsOnly t) {key : Nat} : s.costsOnly (t.touch key) := h.trans ⟨rfl, fun _ => rfl⟩

theorem State.costsOnly.lineEvent (h : s.costsOnly t) {dpa : Nat} : s.costsOnly (t.lineEvent dpa).2 := by
  unfold State.lineEvent
  dsimp only
  split
  · exact h
  · split
    · exact h
    · split
      · exact h
      · exact State.costsOnly.spend (h.modCore fun _ => rfl)

theorem State.costsOnly.lineCost (h : s.costsOnly t) {ctx : Nat} {launch : Word} {dpa : Nat} {system : Bool} :
    s.costsOnly (t.lineCost ctx launch dpa system) := h.lineEvent.event.charge

theorem State.costsOnly.nearCost (h : s.costsOnly t) {r : Ref} {k : Hart} {space : Nat} : s.costsOnly (t.nearCost r k space) := h.event.charge

theorem State.costsOnly.chargeLines (h : s.costsOnly t) {ctx : Nat} {k : Hart} {locs : List (Option (Loc × Nat))} :
    s.costsOnly (t.chargeLines ctx k locs) :=
  .foldl (fun _ _ => State.costsOnly.refl.lineCost) _ h

theorem State.costsOnly.touchAll (h : s.costsOnly t) {vas : List Nat} : s.costsOnly (t.touchAll vas) :=
  .foldl (fun _ _ => State.costsOnly.refl.touch) _ h

theorem State.costsOnly.chargeRequest (h : s.costsOnly t) {r : Ref} {k : Hart} {home : Nat} : s.costsOnly (t.chargeRequest r k home) :=
  .ite h h.charge

/-- The core's read-only cache takes a line. -/
theorem State.costsOnly.roFill (h : s.costsOnly t) {core ctx line pick : Nat} {system : Bool} :
    s.costsOnly (((t.event core ctx 0x0A 1 system).modCore core fun k => { k with roLines := tagFill k.roLines 2048 line pick }).spend) :=
  State.costsOnly.spend (h.event.modCore fun _ => rfl)

theorem State.costsOnly.roCost (h : s.costsOnly t) {r : Ref} {k : Hart} {dpa : Nat} : s.costsOnly (t.roCost r k dpa) := by
  unfold State.roCost
  dsimp only
  split
  · exact h
  · split
    · split
      · exact h.roFill
      · exact h.roFill.modDie.lineCost
    · split
      · exact h.roFill
      · exact h.roFill.modDie.lineCost

/-! ### Through the checks of an access that finds its place -/

theorem State.tlbLookup_costsOnly (s : State) (core ctx key va : Nat) : s.costsOnly (s.tlbLookup core ctx key va).2.2 := by
  unfold State.tlbLookup
  dsimp only
  split
  · exact .refl
  · split
    · exact .refl
    · exact State.costsOnly.spend (State.costsOnly.refl.modCore fun _ => rfl)

theorem State.walk_costsOnly {r : Ref} {h : Hart} {va : Nat} {write : Bool} {leaf : Leaf} {s' : State}
    (hw : s.walk r h va write = (some leaf, s')) : s.costsOnly s' := by
  have hc := s.tlbLookup_costsOnly r.core (s.ctxOf r) h.launch.toNat va
  unfold State.walk at hw
  rcases ht : s.tlbLookup r.core (s.ctxOf r) h.launch.toNat va with ⟨_ | l, missed, t⟩
  · simp [ht] at hw
  · simp only [ht, Prod.mk.injEq] at hw hc
    obtain ⟨-, rfl⟩ := hw
    exact .ite hc.event hc

theorem State.atHome_some {r : Ref} {h : Hart} {leaf : Leaf} {va n dpa : Nat} {write : Bool} {s' : State}
    (ha : s.atHome r h leaf va n write = (some dpa, s')) : s' = s := by
  unfold State.atHome at ha
  dsimp only at ha
  split at ha
  · cases ha
  · split at ha
    · exact (Prod.mk.inj ha).2.symm
    · cases ha
    · cases ha

theorem State.locate_costsOnly {r : Ref} {h : Hart} {space va n : Nat} {write sx : Bool} {sl : BitVec 3} {loc : Loc} {s' : State}
    (hl : s.locate r h space va n write sl sx = (some loc, s')) : s.costsOnly s' := by
  unfold State.locate at hl
  dsimp only at hl
  split at hl
  · split at hl
    · cases hl
    · split at hl
      · cases hl
      · exact (Prod.mk.inj hl).2 ▸ .refl
  · split at hl
    · cases hl
    · next hw =>
      have hc := State.walk_costsOnly hw
      split at hl
      · cases hl
      · split at hl
        · cases hl
        · split at hl
          · cases hl
          · split at hl
            · split at hl
              · cases hl
              · next ha =>
                rw [State.atHome_some ha] at hl
                split at hl
                · exact (Prod.mk.inj hl).2 ▸ hc.roCost
                · exact (Prod.mk.inj hl).2 ▸ hc
            · cases hl

theorem State.locateAll_costsOnly {r : Ref} {h : Hart} {space n : Nat} {write sx : Bool} {sl : BitVec 3} :
    ∀ {as : List (Option Nat)} {locs : List (Option (Loc × Nat))} {s s' : State},
      s.locateAll r h space n write sl sx as = (some locs, s') → s.costsOnly s'
  | [], _, _, _, hl => (Prod.mk.inj hl).2 ▸ .refl
  | none :: as, locs, s, s', hl => by
    rw [State.locateAll] at hl
    obtain ⟨h1, h2⟩ := Prod.mk.inj hl
    obtain ⟨l, hq, -⟩ := Option.map_eq_some_iff.mp h1
    exact State.locateAll_costsOnly (Prod.ext hq h2)
  | some a :: as, locs, s, s', hl => by
    rw [State.locateAll] at hl
    split at hl
    · cases hl
    · next hw =>
      obtain ⟨h1, h2⟩ := Prod.mk.inj hl
      obtain ⟨l, hq, -⟩ := Option.map_eq_some_iff.mp h1
      exact (State.locate_costsOnly hw).trans (State.locateAll_costsOnly (Prod.ext hq h2))

/-! ### What stays -/

theorem KMap.get?_mapSnd {α β : Type} (m : KMap α) (f : α → β) (k : Nat) : KMap.get? (m.map fun e => (e.1, f e.2)) k = (m.get? k).map f := by
  induction m with
  | nil => rfl
  | cons e r ih =>
    obtain ⟨a, b⟩ := e
    by_cases hk : a = k
    · simp [KMap.get?, hk]
    · simpa [KMap.get?, hk] using ih

section
variable (h : s.costsOnly t)
include h

theorem State.costsOnly.field {α : Type} (f : State → α) :
    f t = f { s with cores := t.cores, dies := t.dies, free := t.free, cur := { s.cur with sectors := t.cur.sectors } } := congrArg f h.1

theorem State.costsOnly.mem : t.mem = s.mem := h.field State.mem
theorem State.costsOnly.poison : t.poison = s.poison := h.field State.poison
theorem State.costsOnly.packets : t.packets = s.packets := h.field State.packets
theorem State.costsOnly.cur : t.cur = { s.cur with sectors := t.cur.sectors } := h.field State.cur
theorem State.costsOnly.flag : t.cur.flag = s.cur.flag := h.field fun s => s.cur.flag
theorem State.costsOnly.homeId (c : Nat) : t.homeId c = s.homeId c := h.field fun s => s.homeId c
theorem State.costsOnly.partyOf (k : Hart) : t.partyOf k = s.partyOf k := h.field fun s => s.partyOf k
theorem State.costsOnly.homeLeaf (ctx va : Nat) : t.homeLeaf ctx va = s.homeLeaf ctx va := h.field fun s => s.homeLeaf ctx va

theorem State.costsOnly.core {α : Type} (c : Nat) (f : Core → α) : f (t.core c).bare = f (s.core c).bare := congrArg f (h.2 c)

theorem State.costsOnly.wave? (c w : Nat) : t.wave? c w = s.wave? c w := h.core c fun k => k.waves.get? w

theorem State.costsOnly.slot? (c n : Nat) : (t.slot? c n).map Slot.bare = (s.slot? c n).map Slot.bare := by
  have hs := h.core c fun k => k.slots.get? n
  exact (KMap.get?_mapSnd (t.core c).slots Slot.bare n).symm.trans (hs.trans (KMap.get?_mapSnd (s.core c).slots Slot.bare n))

/-- What a slot says that its counters do not bear on. -/
theorem State.costsOnly.slotField {α : Type} (c n : Nat) (f : Slot → α) (hf : ∀ q, f q.bare = f q) :
    (t.slot? c n).map f = (s.slot? c n).map f := by
  have hm := congrArg (Option.map f) (h.slot? c n)
  rw [Option.map_map, Option.map_map] at hm
  rwa [show f ∘ Slot.bare = f from funext hf] at hm

theorem State.costsOnly.hart? (r : Ref) : t.hart? r = s.hart? r := by
  obtain ⟨c, a, n⟩ := r
  cases a with
  | wave w l => rw [State.hart?_wave, State.hart?_wave, h.wave?]
  | bobbin k => rw [State.hart?_bobbin, State.hart?_bobbin, h.slotField c k Slot.bobbin fun _ => rfl]

theorem State.costsOnly.ctxOf (r : Ref) : t.ctxOf r = s.ctxOf r := by
  obtain ⟨c, a, n⟩ := r
  cases a with
  | wave w l => exact congrArg (fun o => (Option.map Wave.ctx o).getD 0) (h.wave? c w)
  | bobbin k => exact congrArg (fun o => Option.getD o 0) (h.slotField c k Slot.ctx fun _ => rfl)

theorem State.costsOnly.slotNo (r : Ref) : t.slotNo r = s.slotNo r := by
  obtain ⟨c, a, n⟩ := r
  cases a with
  | bobbin k => rfl
  | wave w l =>
    have hf (k : Core) (ctx : Nat) : (k.bare.slotOf? ctx).map Prod.fst = (k.slotOf? ctx).map Prod.fst := by
      rw [Core.slotOf?, Core.bare, List.find?_map, Option.map_map]
      rfl
    have hs := h.core c fun k => (k.slotOf? (s.ctxOf ⟨c, .wave w l, n⟩)).map Prod.fst
    rw [hf, hf] at hs
    rw [State.slotNo, State.slotNo, h.ctxOf]
    exact congrArg (fun o => Option.getD o 0) hs

theorem State.costsOnly.slackClass (r : Ref) (sl : BitVec 3) : t.slackClass r sl = s.slackClass r sl := by
  rw [State.slackClass, State.slackClass, State.slotFor?, State.slotFor?, h.slotNo]
  exact congrArg (fun o => Option.getD o 0) (h.slotField r.core (s.slotNo r) (fun q => q.slackTab.toList.getD sl.toNat 0) fun _ => rfl)

theorem State.costsOnly.plainBytes (core ctx : Nat) (party : Word) (va key n : Nat) :
    t.plainBytes core ctx party va key n = s.plainBytes core ctx party va key n := by
  have hl : (t.core core).log ++ (t.core core).buffer = (s.core core).log ++ (s.core core).buffer := h.core core fun k => k.log ++ k.buffer
  simp only [State.plainBytes, State.plainByte, hl, h.mem, h.poison]

theorem State.costsOnly.advance (k : Hart) : k.advance t.cur = k.advance s.cur := by
  rw [h.cur]
  rfl

end

end Sys2Proof.Machine

end

section
/-! PROOFS. What a load that has performed leaves (R63, R164), and what O35 says of MIGR, PREF and fibres (R161 to R166, R323, R324). -/

namespace Sys2Proof.Machine

variable {s t u : State} {r : Ref} {h k : Hart} {g : Guard} {q : Load}

/-! ### One thread changes -/

/-- The second state has the thread r in state k, and every other thread as the first has it. -/
def State.puts (s t : State) (r : Ref) (k : Hart) : Prop :=
  t.hart? r = some k ∧ ∀ r', (r'.core, r'.agent) ≠ (r.core, r.agent) → t.hart? r' = s.hart? r'

theorem State.puts.refl (hr : s.hart? r = some h) : s.puts s r h := ⟨hr, fun _ _ => rfl⟩

theorem State.puts.modHart (hp : s.puts t r k) {f : Hart → Hart} (hf : (f k).tid = k.tid) : s.puts (t.modHart r f) r (f k) :=
  ⟨t.hart?_modHart_self r f k hp.1 hf, fun r' hr => (t.hart?_modHart_of_ne r r' f hr).trans (hp.2 r' hr)⟩

theorem State.puts.goOn (hp : s.puts t r k) : s.puts (t.goOn r) r (k.advance t.cur) := hp.modHart (k.advance_tid _)

theorem State.puts.congr (hp : s.puts t r k) (hu : ∀ r', u.hart? r' = t.hart? r') : s.puts u r k :=
  ⟨(hu r).trans hp.1, fun r' hr => (hu r').trans (hp.2 r' hr)⟩

theorem State.puts.costs (hp : s.puts t r k) (hc : t.costsOnly u) : s.puts u r k := hp.congr hc.hart?

theorem State.costsOnly.puts (hc : s.costsOnly t) (hp : t.puts u r k) : s.puts u r k :=
  ⟨hp.1, fun r' hr => (hp.2 r' hr).trans (hc.hart? r')⟩

theorem perLane_taken {f : Ref → Hart → State → State} (hs : s.oneLane r h) (hg : h.takes g = true) : perLane g f s = f r h s := by
  rw [perLane_oneLane s g f r h hs, if_pos hg]

/-! ### A load that has performed -/

/-- The flag of the position counts a result (R63). -/
def Hart.counted (h : Hart) (flag : Option Nat) : Hart :=
  match flag with
  | none => h
  | some f => h.setDone f (h.doneCount f + 1)

theorem Hart.setCursor_tid (h : Hart) (c : Option (BitVec 1 × Fibre × BitVec 3)) : (h.setCursor c).tid = h.tid := by
  unfold Hart.setCursor
  split <;> simp

/-- The flag counts a result of the lane r. -/
def State.counted (s : State) (r : Ref) (flag : Option Nat) : State :=
  match flag with
  | none => s
  | some f => s.modHart r fun h => h.setDone f (h.doneCount f + 1)

theorem State.puts.counted (hp : s.puts t r k) (flag : Option Nat) : s.puts (t.counted r flag) r (k.counted flag) := by
  cases flag with
  | none => exact hp
  | some f => exact hp.modHart (f := fun h => h.setDone f (h.doneCount f + 1)) rfl

theorem State.coresOnly.counted (hc : s.coresOnly t) (flag : Option Nat) : s.coresOnly (t.counted r flag) := by
  cases flag with
  | none => exact hc
  | some f => exact hc.modHart

theorem State.raiseFlag_eq (s : State) (r : Ref) : s.raiseFlag r = s.counted r s.cur.flag := by
  unfold State.raiseFlag
  cases s.cur.flag <;> rfl

theorem State.launchResult_eq (s : State) (r : Ref) (flag : Option Nat) (writes : List (Nat × DWord)) (poison : DWord)
    (twin : Option (Nat × Nat × Word × Nat)) :
    let u := s.counted r flag
    s.launchResult r flag writes poison twin = u.send r.core (u.homeId r.core) (u.ctxOf r) 0 0xFFF false 1 32
      (.result { ref := r, writes, flag, poison, sample := u.cur.sample, twin }) := by
  cases flag <;> rfl

/-- A core sends a result to its own home: it is there at once. -/
theorem State.send_result (u : State) (core ctx : Nat) (body : Body) :
    ∃ p, u.send core (u.homeId core) ctx 0 0xFFF false 1 32 body = { u with packets := u.packets ++ [p], next := u.next + 1 }
      ∧ p.place = .arrived ∧ p.body = body :=
  ⟨_, rfl, if_pos (beq_self_eq_true _), rfl⟩

/-- A result on its way: its packet, the count of its flag, and nothing else. -/
theorem State.launchResult_puts (hp : s.puts t r k) (flag : Option Nat) (writes : List (Nat × DWord)) (poison : DWord)
    (twin : Option (Nat × Nat × Word × Nat)) :
    let u := t.launchResult r flag writes poison twin
    s.puts u r (k.counted flag) ∧ u.mem = t.mem ∧ u.cur = t.cur
      ∧ ∃ p w, u.packets = t.packets ++ [p] ∧ p.place = .arrived ∧ p.body = .result w ∧ w.ref = r ∧ w.flag = flag ∧ w.writes = writes
        ∧ w.poison = poison := by
  have hp' := hp.counted flag
  have hc := (State.coresOnly.refl (s := t)).counted (r := r) flag
  rw [State.launchResult_eq]
  generalize t.counted r flag = u at hp' hc ⊢
  obtain ⟨p, he, hplace, hbody⟩ := u.send_result r.core (u.ctxOf r)
    (.result { ref := r, writes, flag, poison, sample := u.cur.sample, twin })
  rw [he]
  exact ⟨hp'.congr fun _ => rfl, hc.mem, hc.field State.cur, p, _, congrArg (· ++ [p]) hc.packets, hplace, hbody, rfl, rfl, rfl, rfl⟩

/-- The result of a load is on its way, and the lane has gone on. -/
theorem State.loadedTo_loaded (hr : s.hart? r = some h) (vals : List (Option (List Byte × Bool))) (twin : Option (Nat × Nat × Word × Nat)) :
    loadedTo s (s.loaded r q h.isBobbin vals twin) r h q vals := by
  obtain ⟨hp, hm, hcur, p, w, hpk, hplace, hbody, href, hflag, hw, hpo⟩ :=
    State.launchResult_puts (.refl hr) s.cur.flag (q.writes h.isBobbin vals).1 (q.writes h.isBobbin vals).2 twin
  rw [State.loaded]
  generalize s.launchResult r s.cur.flag (q.writes h.isBobbin vals).1 (q.writes h.isBobbin vals).2 twin = u at hp hm hcur hpk ⊢
  have hset : s.puts (u.modHart r fun h => h.setCursor q.cursor) r ((h.counted s.cur.flag).setCursor q.cursor) :=
    hp.modHart (f := fun h => h.setCursor q.cursor) (Hart.setCursor_tid ..)
  have hc : u.coresOnly ((u.modHart r fun h => h.setCursor q.cursor).goOn r) := State.coresOnly.refl.modHart.modHart
  obtain ⟨hself, hothers⟩ := hset.goOn
  have hcur' : (u.modHart r fun h => h.setCursor q.cursor).cur = s.cur := (State.coresOnly.refl.modHart.field State.cur).trans hcur
  rw [hcur'] at hself
  exact ⟨hself, hothers, hc.mem.trans hm, p, w, hc.packets.trans hpk, hplace, hbody, href, hflag, hw, hpo⟩

/-- Costs stand before a load as they stand after it. -/
theorem State.costsOnly.loadedTo (hc : s.costsOnly t) {vals : List (Option (List Byte × Bool))} (hl : loadedTo t u r h q vals) :
    loadedTo s u r h q vals := by
  obtain ⟨hself, hothers, hm, p, w, hpk, hplace, hbody, href, hflag, hw⟩ := hl
  have hf : t.cur.flag = s.cur.flag := by rw [hc.cur]
  rw [hf] at hself hflag
  rw [hc.advance] at hself
  exact ⟨hself, fun r' hr => (hothers r' hr).trans (hc.hart? r'), hm.trans hc.mem, p, w, hc.packets ▸ hpk, hplace, hbody, href, hflag, hw⟩

/-! ### The registers of an element (R164) -/

theorem intOf_zero (n : Nat) (signed : Bool) : intOf n signed 0 = 0 := by
  have := Nat.two_pow_pos (n - 1)
  simp [intOf, Nat.zero_mod]

/-- A suppressed element writes zeros into all the registers that an element takes (R316). -/
theorem placeElem_zero (bobbin : Bool) (d n : Nat) (signed : Bool) :
    (∀ e ∈ placeElem bobbin d n signed 0, e.2 = 0)
      ∧ (placeElem bobbin d n signed 0).map Prod.fst = (List.range (elemRegs bobbin n)).map (d + ·) := by
  unfold placeElem elemRegs
  rw [intOf_zero]
  cases bobbin
  · by_cases h4 : n ≤ 4
    · simp [h4]
    · simp [h4]
  · by_cases h16 : n = 16
    · simp [h16, List.range_succ]
    · simp [h16]

theorem Load.writes_none (q : Load) (bobbin : Bool) : (q.writes bobbin [none]).1 = placeElem bobbin q.d q.bolt.width q.signed 0 := by
  simp [Load.writes, natOfBytes]

/-! ### PREF (R323) -/

theorem State.prefetch_costsOnly (s : State) (r : Ref) (h : Hart) (va : Nat) : s.costsOnly (s.prefetch r h va) := by
  unfold State.prefetch
  dsimp only
  split
  · exact .refl
  · split
    · exact .refl
    · split
      · exact .ite State.costsOnly.refl.roCost (.ite State.costsOnly.refl.lineCost .refl)
      · exact .refl

/-- A lane that goes on after what costs alone. -/
theorem State.costsOnly.goOn (hc : s.costsOnly t) (hr : s.hart? r = some h) :
    (t.goOn r).hart? r = some (h.advance s.cur) ∧ (t.goOn r).mem = s.mem ∧ (t.goOn r).packets = s.packets
      ∧ ∀ r', (r'.core, r'.agent) ≠ (r.core, r.agent) → (t.goOn r).hart? r' = s.hart? r' := by
  have hp := ((State.puts.refl hr).costs hc).goOn
  have hg : t.coresOnly (t.goOn r) := State.coresOnly.refl.modHart
  rw [hc.advance] at hp
  exact ⟨hp.1, hg.mem.trans hc.mem, hg.packets.trans hc.packets, hp.2⟩

theorem prefGoesOn {bolt : BitVec 6} {ix : Src} {sl : BitVec 3} (hs : s.oneLane r h) (hg : h.takes g = true) :
    let b := s.boltOf r h bolt
    b.malformed = false → (b.extent ≤ low h ix ∧ b.btrap = false ∨ low h ix < b.extent ∧ Need.load.ok b.access = true) →
    ∃ t, exec (.pref g bolt ix sl) s = .next t ∧ t.hart? r = some (h.advance s.cur) ∧ t.mem = s.mem ∧ t.packets = s.packets
      ∧ ∀ r', (r'.core, r'.agent) ≠ (r.core, r.agent) → t.hart? r' = s.hart? r' := by
  intro b hb hcase
  have hr := hs.1
  suffices hgo : ∃ t, s.costsOnly t ∧ exec (.pref g bolt ix sl) s = .next (t.goOn r) by
    obtain ⟨t, hc, he⟩ := hgo
    exact ⟨t.goOn r, he, hc.goOn hr⟩
  have he : exec (.pref g bolt ix sl) s = execPref g bolt ix sl s := rfl
  have hi : h.index32 ix = low h ix := rfl
  rw [he, execPref, perLane_taken hs hg]
  dsimp only
  rw [show s.boltOf r h bolt = b from rfl, hb, hi, if_neg Bool.false_ne_true]
  rcases hcase with ⟨hext, htrap⟩ | ⟨hext, hacc⟩
  · rw [if_pos hext, htrap]
    exact ⟨s, .refl, rfl⟩
  · rw [if_neg (by omega), hacc]
    simp only [Bool.not_true, Bool.false_eq_true, if_false]
    split
    · exact ⟨_, s.prefetch_costsOnly r h _, rfl⟩
    · exact ⟨s, .refl, rfl⟩

/-! ### Fibres (R161 to R166) -/

theorem Hart.setPred_isBobbin (h : Hart) (p : BitVec 3) (v : Bool) : (h.setPred p v).isBobbin = h.isBobbin := by
  rw [h.setPred_eq p v]
  rfl

theorem Hart.setPred_doneCount (h : Hart) (p : BitVec 3) (v : Bool) (f : Nat) : (h.setPred p v).doneCount f = h.doneCount f := by
  rw [h.setPred_eq p v]
  rfl

theorem sampled_none {op : Nat} {f : State → State} (ht : s.sampleTag g = (none, s)) : sampled g op f s = f s := by
  simp only [sampled, ht]

/-- FNEXT or FPEEK of an empty fibre delivers zeros and false. -/
theorem fibreOp_empty {op : Nat} {d : Reg} {pb : BitVec 3} {fi : BitVec 1} {sgn sx advance : Bool} {sl : BitVec 3} (hs : s.oneLane r h)
    (hg : h.takes g = true) (ht : s.sampleTag g = (none, s)) (hempty : (h.fibre fi).opened = false ∨ (h.fibre fi).count = 0) :
    let b := s.boltOf r h (h.fibre fi).bolt
    b.esize ≤ 4 → s.elemFault h b none (.reg d) 1 false = none →
    ∃ t p w, fibreOp g op d pb fi sgn sx sl advance s = .next t ∧ t.packets = s.packets ++ [p] ∧ p.body = .result w ∧ w.ref = r
      ∧ (∀ e ∈ w.writes, e.2 = 0) ∧ w.writes.map Prod.fst = (List.range (elemRegs h.isBobbin b.width)).map (d.toNat + ·)
      ∧ t.hart? r = some (((match s.cur.flag with
          | none => h.setPred pb false
          | some f => (h.setPred pb false).setDone f (h.doneCount f + 1)) : Hart).advance s.cur) := by
  intro b hb hfault
  have hno : ((h.fibre fi).opened && (h.fibre fi).count != 0) = false := by
    rcases hempty with he | he <;> simp [he]
  have hput : s.puts (s.modHart r fun h => h.setPred pb false) r (h.setPred pb false) :=
    (State.puts.refl hs.1).modHart (f := fun h => h.setPred pb false) (h.setPred_tid ..)
  have hc : s.coresOnly (s.modHart r fun h => h.setPred pb false) := State.coresOnly.refl.modHart
  rw [fibreOp, sampled_none ht, perLane_taken hs hg]
  dsimp only
  rw [hno, Bool.false_or, if_pos (decide_eq_true hb), hfault]
  dsimp only
  rw [if_neg Bool.false_ne_true, ← h.setPred_isBobbin pb false]
  obtain ⟨hself, -, -, p, w, hpk, -, hbody, href, -, hw, -⟩ :=
    State.loadedTo_loaded (q := { d := d.toNat, bolt := b, ix := (h.fibre fi).pos.toNat, signed := sgn, sl, sx }) hput.1 [none] none
  refine ⟨_, p, w, rfl, hpk.trans (congrArg (· ++ [p]) hc.packets), hbody, href, ?_, ?_, ?_⟩
  · rw [hw, Load.writes_none]
    exact (placeElem_zero ..).1
  · rw [hw, Load.writes_none]
    exact (placeElem_zero ..).2
  · have hcur : (s.modHart r fun h => h.setPred pb false).cur = s.cur := hc.field State.cur
    rw [hself, hcur]
    cases s.cur.flag with
    | none => rfl
    | some f => exact congrArg (fun n => some (((h.setPred pb false).setDone f (n + 1)).advance s.cur)) (h.setPred_doneCount pb false f)

/-! ### MIGR (R324) -/

section
variable {bolt : BitVec 6} {ix : Src} {sx : Bool} {sl : BitVec 3} {va : Nat}

/-- MIGR of one lane outside an attempt. -/
def migrTo (s : State) (r : Ref) (h : Hart) (b : Bolt) (i : Nat) (sx : Bool) (sl : BitVec 3) : State :=
  match s.spot r b i .move with
  | .bad stop => s.raise r stop
  | .suppressed => s.goOn r
  | .at va =>
    if b.space != 0 || h.arrived then s.goOn r
    else
      match s.walk r h va false with
      | (none, s) => s
      | (some leaf, s) =>
        if h.tstate.trapped then s.goOn r
        else if s.pinned h then s.raise r (globalStop .pinnedGlobal va false leaf.home)
        else if leaf.home = s.homeId r.core then s.goOn r
        else s.migrate r leaf.home sl sx va

theorem exec_migr (hs : s.oneLane r h) (hg : h.takes g = true) :
    exec (.migr g bolt ix sx sl) s =
      .next (if h.tx.depth = 0 then migrTo s r h (s.boltOf r h bolt) (low h ix) sx sl else s.txAbort r .nonlocal 0) := by
  refine (congrArg Host.Outcome.next (perLane_taken hs hg)).trans ?_
  rfl

end

end Sys2Proof.Machine

open Sys2Proof Sys2Proof.Machine

/-- Settles O35: MIGR by its cases, PREF by what it costs, the fibre instructions by their update of a lane, and the empty fibre by the load
of one suppressed element. -/
theorem migrationPrefetchFibres : Obligations.MigrationPrefetchFibres := by
  unfold Obligations.MigrationPrefetchFibres
  refine ⟨fun s g r h bolt ix sx sl va hs hg => ?_, fun s g fi bolt ix b step pd => ?_, fun s g r h d pb fi sgn sx sl i hs hg ht hi hempty => ?_⟩
  · have hm := exec_migr (bolt := bolt) (ix := ix) (sx := sx) (sl := sl) hs hg
    refine ⟨fun hd => ?_, fun hd hspot => ?_, fun hd hspot hstay => ?_, fun leaf s' hd hspot hspace harr hw => ?_, prefGoesOn hs hg⟩
    · rw [hm, if_neg hd]
    · rw [hm, if_pos hd, migrTo, hspot]
    · have hb : ((s.boltOf r h bolt).space != 0 || h.arrived) = true := by
        rcases hstay with he | he <;> simp [he]
      rw [hm, if_pos hd, migrTo, hspot]
      simp only [hb, if_true]
    · rw [hm, if_pos hd, migrTo, hspot]
      simp [hspace, harr, hw]
  · refine ⟨lanesDo_of_aluOp rfl fun h => rfl, lanesDo_of_aluOp rfl fun h => ?_, lanesDo_of_aluOp rfl fun h => rfl⟩
    rw [Bool.not_and]
    simp [bne]
  · rcases hi with rfl | rfl
    · exact fibreOp_empty (op := 0x8B) (advance := true) hs hg ht hempty
    · exact fibreOp_empty (op := 0x8C) (advance := false) hs hg ht hempty

end

section
/-! PROOFS. Loads outside attempts: near memory, the home of a page, LDRO, and the load that leaves as a request (R164, R281, R291, R316,
R319, R321, R322, R557). -/

namespace Sys2Proof.Machine

variable {s t u s' : State} {r : Ref} {h k : Hart} {g : Guard} {i : Instr} {q : Load} {as : List (Option Nat)}
  {locs : List (Option (Loc × Nat))} {loc : Loc} {a n space : Nat} {sx : Bool} {sl : BitVec 3}

/-! ### What instructions load -/

/-- An instruction of one lane whose element size and register run are in order loads. -/
theorem exec_load (hq : loadForm s r h g i q) (hs : s.oneLane r h) (hg : h.takes g = true) (ht : s.sampleTag g = (none, s)) :
    exec i s = .next (s.load r h q) := by
  have hop {op : Nat} {d : Reg} {bolt : BitVec 6} {ix : Src} {n : Nat} {quad ro : Bool} {t : Option Fmt} {sx : Bool} {sl : BitVec 3}
      (hf : s.elemFault h (s.boltOf r h bolt) t (.reg d) n quad = none) :
      loadOp g op d bolt ix n quad ro t sx sl s
        = .next (s.load r h { d := d.toNat, bolt := s.boltOf r h bolt, ix := low h ix, n, signed := signedOf t, sl, sx, ro }) := by
    rw [loadOp, sampled_none ht, perLane_taken hs hg]
    simp only [hf]
    rfl
  have hfib {op : Nat} {d : Reg} {pb : BitVec 3} {fi : BitVec 1} {sgn sx advance : Bool} {sl : BitVec 3} (ho : (h.fibre fi).opened = true)
      (hc : (h.fibre fi).count ≠ 0) (hf : s.elemFault h (s.boltOf r h (h.fibre fi).bolt) none (.reg d) 1 false = none) :
      fibreOp g op d pb fi sgn sx sl advance s
        = .next (s.load r h { d := d.toNat, bolt := s.boltOf r h (h.fibre fi).bolt, ix := (h.fibre fi).pos.toNat, signed := sgn, sl, sx
                              cursor := some (fi, if advance then (h.fibre fi).next else h.fibre fi, pb) }) := by
    have hlive : ((h.fibre fi).opened && (h.fibre fi).count != 0) = true := by
      rw [ho, Bool.true_and]
      exact bne_iff_ne.mpr hc
    rw [fibreOp, sampled_none ht, perLane_taken hs hg]
    simp only [hlive, Bool.true_or, if_true, hf]
  rcases hq with ⟨d, bolt, ix, t, sx, sl, rfl, hf, rfl⟩ | ⟨d, bolt, ix, n, t, sx, sl, rfl, hf, rfl⟩ | ⟨d, bolt, ix, t, sx, sl, rfl, hf, rfl⟩
    | ⟨d, pb, fi, sgn, sx, sl, hi, ho, hc, hf, rfl⟩
  · exact hop (op := 0x80) hf
  · exact hop (op := 0x82) hf
  · exact hop (op := 0x84) hf
  · rcases hi with rfl | rfl
    · rw [if_pos rfl]
      exact hfib (op := 0x8B) (advance := true) ho hc hf
    · rw [if_neg (by simp)]
      exact hfib (op := 0x8C) (advance := false) ho hc hf

section
variable (he : s.elems r q.bolt .load q.ix q.n = .ok as)
include he

/-- A load of suppressed elements alone. -/
theorem State.load_suppressed (hnone : (as.filterMap id).isEmpty = true) : s.load r h q = s.loaded r q h.isBobbin (as.map fun _ => none) := by
  unfold State.load
  simp only [he, hnone, if_true]

variable (hlive : (as.filterMap id).isEmpty = false)
include hlive

/-- A load of near memory. -/
theorem State.load_near (hspace : q.bolt.space ≠ 0) : s.load r h q = s.loadHere r h q as := by
  unfold State.load
  simp only [he, hlive, bne_iff_ne.mpr hspace, if_true, Bool.false_eq_true, if_false]

variable (hspace : q.bolt.space = 0)
include hspace

/-- A load of global memory at TRAPPED = 1. -/
theorem State.load_held (htrap : h.tstate.trapped = true) : s.load r h q = s.loadHeld r h q as := by
  unfold State.load
  simp only [he, hlive, hspace, htrap, bne_self_eq_false, if_true, Bool.false_eq_true, if_false]

variable (htrap : h.tstate.trapped = false)
include htrap

/-- A plain load of global memory, or one inside an attempt. -/
theorem State.load_plain (hplain : (h.tx.depth == 0 && (q.ro || s.roElsewhere (s.ctxOf r) ((as.filterMap id).headD 0))) = false) :
    s.load r h q = s.loadHere r h { q with ro := false } as := by
  unfold State.load
  simp only [he, hlive, hspace, htrap, hplain, bne_self_eq_false, Bool.false_eq_true, if_false]

/-- LDRO of a read-only page of this chip. -/
theorem State.load_ro {leaf : Leaf} (hd : h.tx.depth = 0) (hro : q.ro = true)
    (hw : s.walk r h ((as.filterMap id).headD 0) false = (some leaf, s')) (hleaf : leaf.ro = true) (hchip : s'.onChip leaf.home = true) :
    s.load r h q = s'.loadHere r h q as := by
  unfold State.load
  simp only [he, hlive, hspace, htrap, hd, hro, hw, hleaf, hchip, bne_self_eq_false, beq_self_eq_true, Bool.true_or, Bool.and_self,
    Bool.false_eq_true, if_false, if_true]

end

/-! ### Where the elements are served -/

/-- Near elements that no range holds are served by the banks, one after another. -/
theorem State.locateAll_near (hspace : space ≠ 0) (hd : h.tx.depth = 0) : ∀ {as : List (Option Nat)},
    (∀ a, some a ∈ as → s.scored (r.key (s.ctxOf r) space a) = false) →
    s.locateAll r h space n false sl sx as = (some (as.map fun a => a.map fun a =>
      (.bank ⟨r.key (s.ctxOf r) space a / 64, a / 64, space, s.ctxOf r⟩ (r.key (s.ctxOf r) space a), a)), s)
  | [], _ => rfl
  | none :: as, hs => by
    rw [State.locateAll, State.locateAll_near hspace hd fun a ha => hs a (List.mem_cons_of_mem _ ha)]
    rfl
  | some a :: as, hs => by
    have hl : s.locate r h space a n false sl sx
        = (some (.bank ⟨r.key (s.ctxOf r) space a / 64, a / 64, space, s.ctxOf r⟩ (r.key (s.ctxOf r) space a)), s) := by
      simp [State.locate, hspace, hd, hs a List.mem_cons_self]
    simp only [State.locateAll, hl]
    rw [State.locateAll_near hspace hd fun a ha => hs a (List.mem_cons_of_mem _ ha)]
    rfl

/-- A place at the home of a page, not one of near memory. -/
def Loc.isGlobal : Loc → Prop
  | .bank _ _ => False
  | .home _ _ | .cached _ _ => True

theorem State.locate_isGlobal {write : Bool} (hl : s.locate r h 0 a n write sl sx = (some loc, s')) : loc.isGlobal := by
  rcases hw : s.walk r h a write with ⟨_ | leaf, t⟩
  · rw [s.locate_of_walk_none hw] at hl
    cases hl
  · rw [s.locate_of_walk hw] at hl
    split at hl
    · cases hl
    · split at hl
      · cases hl
      · split at hl
        · cases hl
        · split at hl
          · split at hl
            · cases hl
            · split at hl
              · exact (Option.some.inj (Prod.mk.inj hl).1) ▸ trivial
              · exact (Option.some.inj (Prod.mk.inj hl).1) ▸ trivial
          · cases hl

theorem State.locateAll_isGlobal {write : Bool} : ∀ {as : List (Option Nat)} {locs : List (Option (Loc × Nat))} {s s' : State},
    s.locateAll r h 0 n write sl sx as = (some locs, s') → ∀ e, some e ∈ locs → e.1.isGlobal
  | [], _, _, _, hl => by
    rw [← Option.some.inj (Prod.mk.inj hl).1]
    exact fun _ he => nomatch he
  | none :: as, locs, s, s', hl => by
    rw [State.locateAll] at hl
    obtain ⟨h1, h2⟩ := Prod.mk.inj hl
    obtain ⟨l, hq, rfl⟩ := Option.map_eq_some_iff.mp h1
    intro e he
    exact State.locateAll_isGlobal (Prod.ext hq h2) e ((List.mem_cons.mp he).resolve_left (by simp))
  | some a :: as, locs, s, s', hl => by
    rw [State.locateAll] at hl
    split at hl
    · cases hl
    · next hw =>
      obtain ⟨h1, h2⟩ := Prod.mk.inj hl
      obtain ⟨l, hq, rfl⟩ := Option.map_eq_some_iff.mp h1
      intro e he
      rcases List.mem_cons.mp he with heq | he
      · rw [Option.some.inj heq]
        exact State.locate_isGlobal hw
      · exact State.locateAll_isGlobal (Prod.ext hq h2) e he

/-! ### What the elements read outside an attempt -/

/-- What a load reads of an element outside an attempt. -/
def State.outsideRead (s : State) (r : Ref) (h : Hart) (memOnly : Bool) (n : Nat) (e : Loc × Nat) : List Byte × Bool :=
  match e.1, memOnly with
  | .home _ key, false | .cached _ key, false =>
    let bytes := s.plainBytes (key / 2 ^ 32) (s.ctxOf r) (s.partyOf h) e.2 key n
    (bytes.map Prod.fst, bytes.any Prod.snd)
  | l, _ => (Memory.getBytes s.mem l.key n, s.poisoned l.key n)

theorem State.costsOnly.outsideRead (hc : s.costsOnly t) (memOnly : Bool) : t.outsideRead r h memOnly n = s.outsideRead r h memOnly n := by
  funext e
  simp only [State.outsideRead, hc.plainBytes, hc.ctxOf, hc.partyOf, hc.mem, State.poisoned, hc.poison]

theorem State.outsideRead_global {e : Loc × Nat} (he : e.1.isGlobal) :
    s.outsideRead r h false n e =
      let b := s.plainBytes (e.1.key / 2 ^ 32) (s.ctxOf r) (s.partyOf h) e.2 e.1.key n
      (b.map Prod.fst, b.any Prod.snd) := by
  obtain ⟨l, va⟩ := e
  cases l with
  | bank => exact he.elim
  | home | cached => rfl

theorem State.outsideRead_memOnly (e : Loc × Nat) :
    s.outsideRead r h true n e = (Memory.getBytes s.mem e.1.key n, s.poisoned e.1.key n) := by
  obtain ⟨l, va⟩ := e
  cases l <;> rfl

theorem State.readAt_outside (hd : h.tx.depth = 0) (memOnly : Bool) (e : Loc × Nat) :
    s.readAt r h e.1 e.2 n memOnly = (some (s.outsideRead r h memOnly n e), s.touch e.1.key) := by
  obtain ⟨l, va⟩ := e
  unfold State.readAt
  rw [if_pos hd]
  cases l <;> cases memOnly <;> rfl

/-- Outside an attempt every located element is read, at no more than its cost. -/
theorem State.readAll_outside (hd : h.tx.depth = 0) (memOnly : Bool) : ∀ {locs : List (Option (Loc × Nat))} {u : State}, u.hart? r = some h →
    ∃ t, u.readAll r n memOnly locs = (some (locs.map fun l => l.map (u.outsideRead r h memOnly n)), t) ∧ u.costsOnly t
  | [], u, _ => ⟨u, rfl, .refl⟩
  | none :: locs, u, hu => by
    obtain ⟨t, ht, hc⟩ := State.readAll_outside hd memOnly (locs := locs) hu
    exact ⟨t, by rw [State.readAll, ht]; rfl, hc⟩
  | some e :: locs, u, hu => by
    have hc : u.costsOnly (u.touch e.1.key) := State.costsOnly.refl.touch
    obtain ⟨t, ht, hc'⟩ := State.readAll_outside hd memOnly (locs := locs) ((hc.hart? r).trans hu)
    refine ⟨t, ?_, hc.trans hc'⟩
    simp only [State.readAll, hu, State.readAt_outside hd memOnly e, ht, List.map_cons, Option.map_some, hc.outsideRead]

/-- What the elements of a load read, once each has its place: the lane has been dealt with there, or the result leaves. -/
theorem State.loadHere_located (hl : s.locateAll r h q.bolt.space q.bolt.width false q.sl q.sx as = (some locs, s')) :
    ∃ u, s'.costsOnly u ∧ (∀ t, u.readAll r q.bolt.width q.ro locs = (none, t) → s.loadHere r h q as = t)
      ∧ ∀ vals t, u.readAll r q.bolt.width q.ro locs = (some vals, t) → ∃ twin, s.loadHere r h q as = t.loaded r q h.isBobbin vals twin := by
  unfold State.loadHere
  rw [hl]
  dsimp only
  have hn : s'.costsOnly (if q.bolt.space = 0 then s' else s'.nearCost r h q.bolt.space) := .ite .refl State.costsOnly.refl.nearCost
  generalize (if q.bolt.space = 0 then s' else s'.nearCost r h q.bolt.space) = v at hn ⊢
  exact ⟨v.chargeLines (v.ctxOf r) h locs, hn.chargeLines, fun t ht => by rw [ht], fun vals t ht => ⟨q.twin t h as, by rw [ht]⟩⟩

/-- A load outside an attempt of elements that are served here. -/
theorem State.loadHere_outside (hr : s.hart? r = some h) (hd : h.tx.depth = 0)
    (hl : s.locateAll r h q.bolt.space q.bolt.width false q.sl q.sx as = (some locs, s')) :
    loadedTo s (s.loadHere r h q as) r h q (locs.map fun l => l.map (s'.outsideRead r h q.ro q.bolt.width)) := by
  obtain ⟨u, hu, -, hsome⟩ := State.loadHere_located hl
  have hsu := (State.locateAll_costsOnly hl).trans hu
  obtain ⟨t, ht, hut⟩ := State.readAll_outside (n := q.bolt.width) hd q.ro (locs := locs) ((hsu.hart? r).trans hr)
  rw [hu.outsideRead] at ht
  obtain ⟨twin, hload⟩ := hsome _ _ ht
  have hst := hsu.trans hut
  rw [hload]
  exact hst.loadedTo (State.loadedTo_loaded ((hst.hart? r).trans hr) _ _)

/-! ### A load that leaves as a request -/

/-- A packet sent appears after the others; counting it costs no more. -/
theorem State.send_costsOnly (s : State) (src home ctx : Nat) (launch : Word) (slack : BitVec 12) (sx : Bool) (vn bytes : Nat) (body : Body) :
    ∃ p, State.costsOnly { s with packets := s.packets ++ [p], next := s.next + 1 } (s.send src home ctx launch slack sx vn bytes body)
      ∧ p.body = body ∧ p.src = s.homeId src ∧ p.home = home ∧ p.slack = slack :=
  ⟨_, .ite State.costsOnly.refl.count .refl, rfl, rfl, rfl, rfl⟩

theorem List.map_filterMap_id {α β : Type} (l : List (Option α)) (f : α → β) :
    (l.filterMap id).map f = (l.map (Option.map f)).filterMap id := by
  rw [List.map_filterMap, List.filterMap_map]
  rfl

theorem List.map_mapIdx_comp {α β γ : Type} (l : List α) (f : Nat → α → β) (g : β → γ) :
    (l.mapIdx f).map g = l.mapIdx fun i a => g (f i a) :=
  List.ext_getElem? fun i => by simp [List.getElem?_mapIdx, Option.map_map, Function.comp_def]

theorem Load.access_parts (q : Load) (s : State) (r : Ref) (h : Hart) (as : List (Option Nat)) (held : Bool) :
    (q.access s r h as held).parts.map (fun x => (x.va.toNat, x.reg))
      = (as.mapIdx fun j a => a.map fun a => (a % 2 ^ 48, q.d + j * q.per h.isBobbin)).filterMap id := by
  rw [Load.access, List.map_filterMap_id, List.map_mapIdx_comp]
  congr 2
  funext j a
  cases a with
  | none => rfl
  | some a => exact congrArg (fun x => some (x, q.d + j * q.per h.isBobbin)) (BitVec.toNat_ofNat a 48)

/-- A load at TRAPPED = 1 whose elements all have a page leaves by request. -/
theorem requestedLoad_holds (hs : s.oneLane r h) (hg : h.takes g = true) (ht : s.sampleTag g = (none, s)) (hq : loadForm s r h g i q)
    (he : s.elems r q.bolt .load q.ix q.n = .ok as) (hspace : q.bolt.space = 0) (htrap : h.tstate.trapped = true) :
    requestedLoad s i r h q as := by
  intro a rest leaf s' has hw hrest k
  have hc := State.walk_costsOnly hw
  have hfind : (rest.find? fun v => (s'.homeLeaf (s'.ctxOf r) v).isNone) = none := by
    rw [List.find?_eq_none]
    intro v hv
    rw [hc.homeLeaf, hc.ctxOf, ← Option.not_isSome, hrest v hv]
    decide
  have hload : s.load r h q = s.loadHeld r h q as :=
    State.load_held he (by rw [has]; rfl) hspace htrap
  rw [exec_load hq hs hg ht, hload, State.loadHeld, has, State.requestHeld, hw]
  simp only [hfind]
  have hv : s.costsOnly ((s'.touchAll (a :: rest)).chargeRequest r h leaf.home) := hc.touchAll.chargeRequest
  generalize (s'.touchAll (a :: rest)).chargeRequest r h leaf.home = v at hv ⊢
  obtain ⟨p, hsend, hbody, hsrc, hhome, hslack⟩ := v.send_costsOnly r.core leaf.home (v.ctxOf r) h.launch (v.slackClass r q.sl) q.sx 0 48
    (.read (q.access s r h as true))
  rw [State.request]
  generalize v.send r.core leaf.home (v.ctxOf r) h.launch (v.slackClass r q.sl) q.sx 0 48 (.read (q.access s r h as true)) = u at hsend ⊢
  have hput : s.puts u r h := by
    refine State.puts.costs ?_ hsend
    exact ((State.puts.refl hs.1).costs hv).congr fun _ => rfl
  have hk : s.puts (u.modHart r fun h => { h with status := .acks 1 }) r k := hput.modHart (f := fun h => { h with status := .acks 1 }) rfl
  have huc : u.coresOnly ((u.modHart r fun h => { h with status := .acks 1 }).raiseFlag r) := by
    rw [State.raiseFlag_eq]
    exact State.coresOnly.refl.modHart.counted _
  have hflag : (u.modHart r fun h => { h with status := .acks 1 }).cur.flag = s.cur.flag := by
    rw [(State.coresOnly.refl.modHart (s := u)).field State.cur]
    exact hsend.flag.trans hv.flag
  have hlast := hk.counted (u.modHart r fun h => { h with status := .acks 1 }).cur.flag
  rw [← State.raiseFlag_eq, hflag] at hlast
  refine ⟨_, p, q.access s r h as true, rfl, ?_, ?_, hlast.2, ?_, hhome, ?_, ?_, hbody, rfl, rfl, rfl, rfl, rfl, rfl, rfl, rfl, rfl,
    q.access_parts s r h as true⟩
  · exact huc.mem.trans (hsend.mem.trans hv.mem)
  · exact hlast.1
  · exact huc.packets.trans (hsend.packets.trans (congrArg (· ++ [p]) hv.packets))
  · exact hsrc.trans (hv.homeId r.core)
  · exact hslack.trans (hv.slackClass r q.sl)

theorem List.filterMap_id_isEmpty {α : Type} (l : List (Option α)) : (l.filterMap id).isEmpty = true ↔ ∀ a ∈ l, a = none := by
  rw [List.isEmpty_iff, List.filterMap_eq_nil_iff]
  rfl

theorem List.filterMap_id_live {α : Type} {l : List (Option α)} (hl : ∃ a ∈ l, a ≠ none) : (l.filterMap id).isEmpty = false := by
  obtain ⟨a, ha, hne⟩ := hl
  exact Bool.eq_false_iff.mpr fun he => hne ((List.filterMap_id_isEmpty l).mp he a ha)

/-- A load of near memory, or of suppressed elements alone. -/
theorem nearLoad_holds (hs : s.oneLane r h) (he : s.elems r q.bolt .load q.ix q.n = .ok as) (hd : h.tx.depth = 0)
    (hnear : q.bolt.space ≠ 0 ∨ ∀ a ∈ as, a = none) (hfree : ∀ a, some a ∈ as → s.scored (r.key (s.ctxOf r) q.bolt.space a) = false) :
    loadedTo s (s.load r h q) r h q (as.map fun a => a.map fun a =>
      let k := r.key (s.ctxOf r) q.bolt.space a
      (Memory.getBytes s.mem k q.bolt.width, s.poisoned k q.bolt.width)) := by
  by_cases hnone : ∀ a ∈ as, a = none
  · have hmap (f : Nat → List Byte × Bool) : as.map (Option.map f) = as.map fun _ => none :=
      List.map_congr_left fun a ha => by rw [hnone a ha]; rfl
    rw [State.load_suppressed he ((List.filterMap_id_isEmpty as).mpr hnone)]
    exact hmap _ ▸ State.loadedTo_loaded hs.1 _ _
  · have hspace := hnear.resolve_right hnone
    have hlive : (as.filterMap id).isEmpty = false := Bool.eq_false_iff.mpr fun e => hnone ((List.filterMap_id_isEmpty as).mp e)
    rw [State.load_near he hlive hspace]
    have hl := State.loadHere_outside hs.1 hd (s.locateAll_near (n := q.bolt.width) (sl := q.sl) (sx := q.sx) hspace hd hfree)
    rw [List.map_map] at hl
    convert hl using 3
    rename_i a
    cases a <;> rfl

/-- A plain load of global memory reads at the home of each element, the party's own entries over memory. -/
theorem plainLoad_holds (hs : s.oneLane r h) (he : s.elems r q.bolt .load q.ix q.n = .ok as) (hd : h.tx.depth = 0) (hspace : q.bolt.space = 0)
    (htrap : h.tstate.trapped = false) (hro : q.ro = false) (hlive : ∃ a ∈ as, a ≠ none)
    (hchip : s.roElsewhere (s.ctxOf r) ((as.filterMap id).headD 0) = false)
    (hl : s.locateAll r h 0 q.bolt.width false q.sl q.sx as = (some locs, s')) :
    loadedTo s (s.load r h q) r h q (locs.map fun l => l.map fun l =>
      let b := s'.plainBytes (l.1.key / 2 ^ 32) (s.ctxOf r) (s.partyOf h) l.2 l.1.key q.bolt.width
      (b.map Prod.fst, b.any Prod.snd)) := by
  have hc := State.locateAll_costsOnly hl
  have hq : { q with ro := false } = q := by rw [← hro]
  have hplain : (h.tx.depth == 0 && (q.ro || s.roElsewhere (s.ctxOf r) ((as.filterMap id).headD 0))) = false := by
    rw [hro, hchip]
    exact Bool.and_false _
  rw [State.load_plain he (List.filterMap_id_live hlive) hspace htrap hplain, hq]
  have hglobal := State.locateAll_isGlobal hl
  rw [← hspace] at hl
  have hres := State.loadHere_outside hs.1 hd hl
  have hvals : (locs.map fun l => l.map (s'.outsideRead r h q.ro q.bolt.width)) = locs.map fun l => l.map fun l =>
      let b := s'.plainBytes (l.1.key / 2 ^ 32) (s.ctxOf r) (s.partyOf h) l.2 l.1.key q.bolt.width
      (b.map Prod.fst, b.any Prod.snd) := by
    refine List.map_congr_left fun l hmem => ?_
    cases l with
    | none => rfl
    | some e =>
      rw [hro, Option.map_some, State.outsideRead_global (hglobal e hmem), hc.ctxOf, hc.partyOf]
      rfl
  exact hvals ▸ hres

/-- LDRO of a read-only page of this chip reads memory alone. -/
theorem roLoad_holds {leaf : Leaf} {s'' : State} {l : Loc} (hs : s.oneLane r h) (he : s.elems r q.bolt .load q.ix q.n = .ok [some a])
    (hd : h.tx.depth = 0) (hspace : q.bolt.space = 0) (htrap : h.tstate.trapped = false) (hro : q.ro = true)
    (hw : s.walk r h a false = (some leaf, s')) (hleaf : leaf.ro = true) (hchip : s.onChip leaf.home = true)
    (hl : s'.locate r h 0 a q.bolt.width false q.sl q.sx = (some l, s'')) :
    loadedTo s (s.load r h q) r h q [some (Memory.getBytes s.mem l.key q.bolt.width, s.poisoned l.key q.bolt.width)] := by
  have hc := State.walk_costsOnly hw
  have hc' := hc.trans (State.locate_costsOnly hl)
  have hchip' : s'.onChip leaf.home = true := (hc.field fun s => s.onChip leaf.home).trans hchip
  rw [State.load_ro he rfl hspace htrap hd hro hw hleaf hchip']
  have hall : s'.locateAll r h q.bolt.space q.bolt.width false q.sl q.sx [some a] = (some [some (l, a)], s'') := by
    rw [hspace]
    simp only [State.locateAll, hl, Option.map_some]
  have hres := State.loadHere_outside ((hc.hart? r).trans hs.1) hd hall
  rw [hro, List.map_cons, Option.map_some, State.outsideRead_memOnly, hc'.mem, State.poisoned, hc'.poison] at hres
  exact hc.loadedTo hres

end Sys2Proof.Machine

end

section
/-! PROOFS. Loads inside attempts, and what O31 says of loads: whose attempts an access meets, what a byte reads as, and which line enters the
read set (R343, R346, R471). -/

namespace Sys2Proof.Machine

variable {s t u v s' : State} {r p : Ref} {h k : Hart} {g : Guard} {i : Instr} {q : Load} {as : List (Option Nat)}
  {locs : List (Option (Loc × Nat))} {loc : Loc} {a n phys : Nat} {write : Bool} {l l' : List (Ref × Hart)}

/-! ### Threads at one place -/

/-- Where a thread or bobbin stands. -/
def Ref.place (r : Ref) : Nat × Agent := (r.core, r.agent)

/-- A place holds one thread. -/
theorem State.hart?_unique (hr : s.hart? r = some h) (hp : s.hart? p = some k) (he : p.place = r.place) : k = h := by
  obtain ⟨c, a, n⟩ := r
  obtain ⟨d, b, m⟩ := p
  obtain ⟨rfl, rfl⟩ := Prod.mk.inj he
  cases b with
  | wave w l =>
    rw [State.hart?_wave, Option.filter_eq_some_iff] at hr hp
    exact Option.some.inj (hp.1.symm.trans hr.1)
  | bobbin n =>
    rw [State.hart?_bobbin, Option.filter_eq_some_iff] at hr hp
    exact Option.some.inj (hp.1.symm.trans hr.1)

/-- A thread after a change of the one that stands at a place. -/
theorem State.hart?_modHart_place (f : Hart → Hart) (hf : ∀ k, (f k).tid = k.tid) (r p : Ref) :
    (s.modHart r f).hart? p = (s.hart? p).map fun k => if p.place = r.place then f k else k := by
  by_cases he : p.place = r.place
  · simp only [he, if_true]
    have hmod : s.modHart r f = s.modHart p f := by
      obtain ⟨h1, h2⟩ := Prod.mk.inj he
      unfold State.modHart
      rw [h1, h2]
    cases hp : s.hart? p with
    | some k => rw [hmod, s.hart?_modHart_self p f k hp (hf k), Option.map_some]
    | none =>
      rw [hmod, Option.map_none]
      obtain ⟨c, a, n⟩ := p
      cases a with
      | wave w l =>
        rw [State.hart?_wave] at hp
        simp only [State.hart?, State.modHart, State.wave?_modWave_self]
        cases hv : s.wave? c w with
        | none => rfl
        | some v =>
          rw [hv, Option.bind_some] at hp
          rw [Option.map_some, Option.bind_some, KMap.get?_modify_self]
          cases hl : v.lanes.get? l with
          | none => rfl
          | some k =>
            rw [hl] at hp
            simp_all [Option.filter]
      | bobbin m =>
        rw [State.hart?_bobbin] at hp
        simp only [State.hart?, State.modHart, State.slot?_modSlot_self]
        cases hv : s.slot? c m with
        | none => rfl
        | some v =>
          rw [hv] at hp
          simp_all [Option.filter]
  · simp only [he, if_false, Option.map_id']
    exact s.hart?_modHart_of_ne r p f he

/-! ### Attempts on a line (R346) -/

/-- A lane is inside an attempt that has read or written a line. -/
def Hart.onLine (h : Hart) (phys : Nat) (reads : Bool) : Bool :=
  let asleep := match h.status with | .asleep _ => true | _ => false
  h.tx.depth != 0 && !asleep && (h.tx.writes.any (fun w => w.line.phys == phys) || (reads && h.tx.reads.any fun l => l.phys == phys))

theorem KMap.mem_of_get? {α : Type} {m : KMap α} {k : Nat} {v : α} (h : m.get? k = some v) : (k, v) ∈ m := by
  induction m with
  | nil => cases h
  | cons e m ih =>
    obtain ⟨a, b⟩ := e
    by_cases hk : a = k
    · rw [KMap.get?, if_pos hk] at h
      rw [hk, Option.some.inj h]
      exact List.mem_cons_self
    · rw [KMap.get?, if_neg hk] at h
      exact List.mem_cons_of_mem _ (ih h)

/-- Every thread is among the machine's. -/
theorem State.mem_refs (hr : s.hart? r = some h) : r ∈ s.refs := by
  obtain ⟨c, a, n⟩ := r
  have hcore {α : Type} {f : Core → KMap α} {j : Nat} {x : α} (hf : f {} = []) (hx : (f (s.core c)).get? j = some x) :
      (c, s.core c) ∈ s.cores := by
    unfold State.core at hx ⊢
    cases hc : s.cores.get? c with
    | none => rw [hc, Option.getD_none, hf] at hx; cases hx
    | some k => exact KMap.mem_of_get? hc
  cases a with
  | wave w l =>
    rw [State.hart?_wave, Option.filter_eq_some_iff, Option.bind_eq_some_iff] at hr
    obtain ⟨⟨v, hv, hl⟩, ht⟩ := hr
    refine List.mem_flatMap.mpr ⟨_, hcore (f := Core.waves) rfl hv, List.mem_append_left _ (List.mem_flatMap.mpr ⟨_, KMap.mem_of_get? hv, ?_⟩)⟩
    exact List.mem_map.mpr ⟨_, KMap.mem_of_get? hl, by rw [← beq_iff_eq.mp ht]⟩
  | bobbin j =>
    rw [State.hart?_bobbin, Option.filter_eq_some_iff, Option.map_eq_some_iff] at hr
    obtain ⟨⟨q, hq, rfl⟩, ht⟩ := hr
    refine List.mem_flatMap.mpr ⟨_, hcore (f := Core.slots) rfl hq, List.mem_append_right _ ?_⟩
    exact List.mem_map.mpr ⟨_, KMap.mem_of_get? hq, by rw [← beq_iff_eq.mp ht]⟩

theorem State.attemptsOn_eq (s : State) (phys : Nat) (write : Bool) :
    s.attemptsOn phys write = s.refs.filterMap fun p => (s.hart? p).bind fun k => if k.onLine phys write = true then some (p, k) else none := by
  unfold State.attemptsOn
  refine congrArg (fun f => s.refs.filterMap f) (funext fun p => ?_)
  cases s.hart? p <;> rfl

theorem State.mem_attemptsOn {e : Ref × Hart} : e ∈ s.attemptsOn phys write ↔ s.hart? e.1 = some e.2 ∧ e.2.onLine phys write = true := by
  obtain ⟨p, k⟩ := e
  rw [State.attemptsOn_eq, List.mem_filterMap]
  constructor
  · rintro ⟨x, -, hx⟩
    obtain ⟨y, hy, hon⟩ := Option.bind_eq_some_iff.mp hx
    split at hon
    · next hl =>
      obtain ⟨rfl, rfl⟩ := Prod.mk.inj (Option.some.inj hon)
      exact ⟨hy, hl⟩
    · cases hon
  · rintro ⟨hk, hon⟩
    exact ⟨p, State.mem_refs hk, Option.bind_eq_some_iff.mpr ⟨k, hk, if_pos hon⟩⟩

theorem mem_rivals {e : Ref × Hart} :
    e ∈ rivals s h phys write ↔ (s.hart? e.1 = some e.2 ∧ e.2.onLine phys write = true) ∧ e.2.tid ≠ h.tid := by
  rw [rivals, List.mem_filter, State.mem_attemptsOn, bne_iff_ne]

/-- No rival stands at the lane's own place. -/
theorem rivals_place (hr : s.hart? r = some h) {e : Ref × Hart} (he : e ∈ rivals s h phys write) : e.1.place ≠ r.place := by
  obtain ⟨⟨hk, -⟩, hne⟩ := mem_rivals.mp he
  exact fun hp => hne (congrArg Hart.tid (State.hart?_unique hr hk hp))

/-! ### Aborts (R347) -/

theorem Hart.abort_tid (h : Hart) (c : TxCause) (code : BitVec 8) : (h.abort c code).tid = h.tid := by
  cases c <;> rfl

theorem Hart.abort_conflict_abort (h : Hart) : (h.abort .conflict 0).abort .conflict 0 = h.abort .conflict 0 := rfl

theorem State.hart?_txAbort (r p : Ref) (c : TxCause) (code : BitVec 8) :
    (s.txAbort r c code).hart? p = (s.hart? p).map fun k => if p.place = r.place then k.abort c code else k := by
  rw [State.txAbort, State.costsOnly.refl.count.hart?, s.hart?_modHart_place _ fun k => k.abort_tid c code]

theorem State.hart?_txAbort_self (hr : s.hart? r = some h) (c : TxCause) (code : BitVec 8) :
    (s.txAbort r c code).hart? r = some (h.abort c code) := by
  rw [State.hart?_txAbort, hr, Option.map_some, if_pos rfl]

theorem rivalsAborted_coresOnly (s : State) (l : List (Ref × Hart)) : s.coresOnly (rivalsAborted s l) :=
  State.coresOnly.foldl (fun _ _ => State.coresOnly.refl.txAbort) l .refl

/-- A thread stands at the place of one of the list. -/
def standsIn (l : List (Ref × Hart)) (p : Ref) : Bool := l.any fun e => decide (p.place = e.1.place)

/-- Threads after the attempts of a list have been aborted. -/
theorem hart?_rivalsAborted (l : List (Ref × Hart)) : ∀ s : State,
    (rivalsAborted s l).hart? p = (s.hart? p).map fun k => if standsIn l p = true then k.abort .conflict 0 else k := by
  induction l with
  | nil => exact fun s => by simp [rivalsAborted, standsIn]
  | cons e l ih =>
    intro s
    have hcons : rivalsAborted s (e :: l) = rivalsAborted (s.txAbort e.1 .conflict 0) l := rfl
    have hin : standsIn (e :: l) p = (decide (p.place = e.1.place) || standsIn l p) := List.any_cons
    rw [hcons, ih, State.hart?_txAbort, Option.map_map, hin]
    refine congrArg (fun f => Option.map f (s.hart? p)) (funext fun k => ?_)
    rw [Function.comp_apply]
    by_cases hp : p.place = e.1.place
    · simp only [hp, if_true, decide_true, Bool.true_or, Hart.abort_conflict_abort, ite_self]
    · simp only [hp, if_false, decide_false, Bool.false_or]

theorem standsIn_congr (hl : ∀ e, e ∈ l ↔ e ∈ l') (p : Ref) : standsIn l p = standsIn l' p := by
  rw [Bool.eq_iff_iff, standsIn, standsIn, List.any_eq_true, List.any_eq_true]
  exact exists_congr fun e => and_congr_left fun _ => hl e

theorem hart?_rivalsAborted_self (hr : s.hart? r = some h) (hl : ∀ e ∈ l, e.1.place ≠ r.place) : (rivalsAborted s l).hart? r = some h := by
  have hno : ¬ standsIn l r = true := by
    rw [standsIn, List.any_eq_true]
    rintro ⟨e, he, hp⟩
    exact hl e he (of_decide_eq_true hp).symm
  rw [hart?_rivalsAborted, hr, Option.map_some, if_neg hno]

/-! ### States that agree but for one thread -/

/-- The second state has the thread r in state k; its other threads, memory, poison, packets and issue are those of the first. -/
structure State.follows (s u : State) (r : Ref) (k : Hart) : Prop where
  puts : s.puts u r k
  mem : u.mem = s.mem
  poison : u.poison = s.poison
  packets : u.packets = s.packets
  cur : u.cur = { s.cur with sectors := u.cur.sectors }

theorem State.costsOnly.follows (hc : s.costsOnly u) (hr : s.hart? r = some h) : s.follows u r h :=
  ⟨(State.puts.refl hr).costs hc, hc.mem, hc.poison, hc.packets, hc.cur⟩

theorem State.follows.costs (hf : s.follows u r k) (hc : u.costsOnly v) : s.follows v r k :=
  ⟨hf.puts.costs hc, hc.mem.trans hf.mem, hc.poison.trans hf.poison, hc.packets.trans hf.packets, by rw [hc.cur, hf.cur]⟩

theorem State.follows.modHart (hf : s.follows u r k) {f : Hart → Hart} (ht : (f k).tid = k.tid) : s.follows (u.modHart r f) r (f k) := by
  have hc : u.coresOnly (u.modHart r f) := State.coresOnly.refl.modHart
  have hcur : (u.modHart r f).cur = u.cur := hc.field State.cur
  exact ⟨hf.puts.modHart ht, hc.mem.trans hf.mem, (hc.field State.poison).trans hf.poison, hc.packets.trans hf.packets, by rw [hcur, ← hf.cur]⟩

theorem State.follows.loadedTo (hf : s.follows u r k) {vals : List (Option (List Byte × Bool))} (hl : loadedTo u t r k q vals) :
    loadedTo s t r k q vals := by
  obtain ⟨hself, hothers, hm, p, w, hpk, hplace, hbody, href, hflag, hw⟩ := hl
  have hfl : u.cur.flag = s.cur.flag := by rw [hf.cur]
  have hadv (k : Hart) : k.advance u.cur = k.advance s.cur := by
    rw [hf.cur]
    rfl
  rw [hfl] at hself hflag
  rw [hadv] at hself
  exact ⟨hself, fun r' hr => (hothers r' hr).trans (hf.puts.2 r' hr), hm.trans hf.mem, p, w, hf.packets ▸ hpk, hplace, hbody, href, hflag, hw⟩

/-- An access meets the same attempts in states that agree but for its own thread. -/
theorem mem_rivals_of_follows (hf : s.follows u r k) (hr : s.hart? r = some h) (ht : k.tid = h.tid) {e : Ref × Hart} :
    e ∈ rivals u k phys write ↔ e ∈ rivals s h phys write := by
  rw [mem_rivals, mem_rivals, ht]
  refine and_congr_left fun hne => and_congr_left fun _ => ?_
  by_cases hp : e.1.place = r.place
  · have hno {x : State} {j : Hart} (hx : x.hart? r = some j) (hj : j.tid = h.tid) : ¬ x.hart? e.1 = some e.2 :=
      fun he => hne ((congrArg Hart.tid (State.hart?_unique hx he hp)).trans hj)
    exact iff_of_false (hno hf.puts.1 ht) (hno hr rfl)
  · rw [hf.puts.2 e.1 hp]

/-- States that agree do so when the same attempts have been aborted. -/
theorem follows_rivalsAborted (hf : s.follows u r k) (hl : ∀ e, e ∈ l' ↔ e ∈ l) (hno : ∀ e ∈ l, e.1.place ≠ r.place) :
    (rivalsAborted s l).follows (rivalsAborted u l') r k := by
  have hs := rivalsAborted_coresOnly s l
  have hu := rivalsAborted_coresOnly u l'
  have hcur : (rivalsAborted u l').cur = u.cur := hu.field State.cur
  have hcur' : (rivalsAborted s l).cur = s.cur := hs.field State.cur
  refine ⟨⟨?_, fun p hp => ?_⟩, hu.mem.trans (hf.mem.trans hs.mem.symm), ?_, hu.packets.trans (hf.packets.trans hs.packets.symm), ?_⟩
  · exact hart?_rivalsAborted_self hf.puts.1 fun e he => hno e ((hl e).mp he)
  · rw [hart?_rivalsAborted, hart?_rivalsAborted, hf.puts.2 p hp, standsIn_congr hl]
  · exact (hu.field State.poison).trans (hf.poison.trans (hs.field State.poison).symm)
  · rw [hcur, hcur', ← hf.cur]

/-! ### An element inside an attempt (R343, R346, R471) -/

/-- What the attempt sees of n bytes of memory. -/
def Hart.seen (h : Hart) (s : State) (key n : Nat) : List (Byte × Bool) :=
  (List.range n).map fun j => h.tx.byteAt (key + j) (Memory.get s.mem (key + j), s.poison.contains (granule (key + j)))

theorem State.follows.seen (hf : s.follows u r k) (h : Hart) (key n : Nat) : h.seen u key n = h.seen s key n := by
  rw [Hart.seen, Hart.seen, hf.mem, hf.poison]

theorem Hart.seen_eq (h : Hart) (s : State) (key n : Nat) :
    ((Memory.getBytes s.mem key n).mapIdx fun i b => h.tx.byteAt (key + i) (b, s.poison.contains (granule (key + i)))) = h.seen s key n := by
  refine List.ext_getElem (by simp [Memory.getBytes, Hart.seen]) fun j h1 h2 => ?_
  simp [Memory.getBytes, Hart.seen]

theorem txMeets_eq (s : State) (h : Hart) (phys : Nat) (write : Bool) :
    s.txMeets h phys write = if (rivals s h phys write).any (fun e => e.2.older h) = true then none
      else some (rivalsAborted s (rivals s h phys write)) := rfl

/-- The read set with a line, when it has room. -/
theorem Tx.reading_eq {x : Tx} (l : Line) (hx : x.reads.length ≤ 64) :
    x.reading l = if (addLine x.reads l).length ≤ 64 then some { x with reads := addLine x.reads l } else none := by
  unfold Tx.reading addLine
  by_cases hl : (x.reads.any fun y => y.phys == l.phys) = true
  · simp only [hl, if_true, hx]
  · rw [if_neg hl, if_neg hl, List.length_append, List.length_singleton]
    by_cases h64 : 64 ≤ x.reads.length
    · rw [if_pos h64, if_neg (by omega)]
    · rw [if_neg h64, if_pos (by omega)]

section
variable (hd : h.tx.depth ≠ 0)
include hd

/-- An older attempt stays: the access aborts its own. -/
theorem readAt_older {memOnly : Bool} (hold : ∃ e ∈ rivals u h loc.line.phys false, e.2.older h = true) :
    u.readAt r h loc a n memOnly = (none, (u.touch loc.key).txAbort r .conflict 0) := by
  have hmeets : (u.touch loc.key).txMeets h loc.line.phys false = none := by
    rw [txMeets_eq]
    exact if_pos (List.any_eq_true.mpr hold)
  unfold State.readAt
  simp only [if_neg hd, hmeets]

/-- The state after the younger attempts on the line have been aborted. -/
def met (u : State) (h : Hart) (loc : Loc) : State := rivalsAborted (u.touch loc.key) (rivals u h loc.line.phys false)

variable (hyoung : ∀ e ∈ rivals u h loc.line.phys false, e.2.older h = false)
include hyoung

omit hd in
theorem txMeets_younger : (u.touch loc.key).txMeets h loc.line.phys false = some (met u h loc) := by
  rw [txMeets_eq]
  refine if_neg fun hany => ?_
  obtain ⟨e, he, ho⟩ := List.any_eq_true.mp hany
  rw [hyoung e he] at ho
  cases ho

omit hd hyoung in
theorem met_poison : (met u h loc).poison = u.poison := (rivalsAborted_coresOnly _ _).field State.poison

/-- A poisoned byte faults. -/
theorem readAt_poisoned {memOnly : Bool} (hbad : (h.seen u loc.key n).any Prod.snd = true) :
    u.readAt r h loc a n memOnly = (none, (met u h loc).raise r
      { cause := .eccUncorrected, addr := some (BitVec.ofNat 48 a), space := BitVec.ofNat 3 loc.line.kind }) := by
  unfold State.readAt
  simp only [if_neg hd, txMeets_younger hyoung, met_poison, Hart.seen_eq, hbad, if_true]

variable (hclean : (h.seen u loc.key n).any Prod.snd = false)
include hclean

/-- A full read set takes no other line. -/
theorem readAt_full {memOnly : Bool} (hfull : h.tx.reading loc.line = none) :
    u.readAt r h loc a n memOnly = (none, (met u h loc).txAbort r .capacity 0) := by
  unfold State.readAt
  simp only [if_neg hd, txMeets_younger hyoung, met_poison, Hart.seen_eq, hclean, hfull, Bool.false_eq_true, if_false]

/-- Else the element is read, and its line is in the read set. -/
theorem readAt_reads {memOnly : Bool} {tx : Tx} (hread : h.tx.reading loc.line = some tx) :
    u.readAt r h loc a n memOnly = (some ((h.seen u loc.key n).map Prod.fst, false), (met u h loc).modHart r fun k => { k with tx }) := by
  unfold State.readAt
  simp only [if_neg hd, txMeets_younger hyoung, met_poison, Hart.seen_eq, hclean, hread, Bool.false_eq_true, if_false]

end

/-! ### A stop in an attempt (R345) -/

/-- The second state has the code and the contexts of the first. -/
structure State.sameCode (s t : State) : Prop where
  mem : t.mem = s.mem
  imem : ∀ c, (t.core c).imem = (s.core c).imem
  ctx : ∀ r, t.ctxOf r = s.ctxOf r

theorem State.sameCode.refl : s.sameCode s := ⟨rfl, fun _ => rfl, fun _ => rfl⟩

theorem State.sameCode.trans (hc : s.sameCode t) (hc' : t.sameCode u) : s.sameCode u :=
  ⟨hc'.mem.trans hc.mem, fun c => (hc'.imem c).trans (hc.imem c), fun r => (hc'.ctx r).trans (hc.ctx r)⟩

theorem State.costsOnly.sameCode (hc : s.costsOnly t) : s.sameCode t := ⟨hc.mem, fun c => hc.core c Core.imem, hc.ctxOf⟩

theorem State.ctxOf_modWave (s : State) (c w : Nat) (f : Wave → Wave) (hf : ∀ v, (f v).ctx = v.ctx) (r : Ref) :
    (s.modWave c w f).ctxOf r = s.ctxOf r := by
  obtain ⟨d, b, m⟩ := r
  cases b with
  | bobbin j => rw [State.ctxOf, State.ctxOf]; simp only [State.slot?_modWave]
  | wave w' l' =>
    rw [State.ctxOf, State.ctxOf]
    by_cases he : (d, w') = (c, w)
    · obtain ⟨rfl, rfl⟩ := Prod.mk.inj he
      simp only [State.wave?_modWave_self, Option.map_map]
      exact congrArg (fun g => (Option.map g _).getD 0) (funext hf)
    · simp only [s.wave?_modWave_of_ne _ he]

theorem State.imem_modCore (s : State) (c : Nat) {m : Core → Core} (hm : ∀ k, (m k).imem = k.imem) (d : Nat) :
    ((s.modCore c m).core d).imem = (s.core d).imem := by
  by_cases hd : d = c
  · rw [hd, State.core_modCore_self, hm]
  · rw [State.core_modCore_of_ne _ _ hd]

theorem State.sameCode.modHart (s : State) (r : Ref) (f : Hart → Hart) : s.sameCode (s.modHart r f) := by
  refine ⟨State.coresOnly.refl.modHart.mem, fun c => ?_, fun p => ?_⟩
  · unfold State.modHart State.modWave State.modSlot
    split
    · refine s.imem_modCore _ ?_ c
      exact fun _ => rfl
    · refine s.imem_modCore _ ?_ c
      exact fun _ => rfl
  · unfold State.modHart
    split
    · refine s.ctxOf_modWave _ _ _ ?_ p
      exact fun _ => rfl
    · refine s.ctxOf_modSlot _ _ _ ?_ p
      exact fun _ => rfl

theorem State.sameCode.txAbort (hc : s.sameCode t) {r : Ref} {c : TxCause} {code : BitVec 8} : s.sameCode (t.txAbort r c code) :=
  hc.trans ((State.sameCode.modHart ..).trans State.costsOnly.refl.count.sameCode)

theorem sameCode_rivalsAborted (s : State) (l : List (Ref × Hart)) : s.sameCode (rivalsAborted s l) :=
  List.foldlRecOn (motive := s.sameCode) l _ .refl fun _ ht _ _ => ht.txAbort

theorem State.sameCode.safePoint (hc : s.sameCode t) (core ctx : Nat) (pc clause : Word) (pos : Nat) :
    t.safePoint core ctx pc clause pos = s.safePoint core ctx pc clause pos := by
  have hi : (t.core core).overlay? ctx (ovlOf pc) = (s.core core).overlay? ctx (ovlOf pc) := by rw [Core.overlay?, Core.overlay?, hc.imem]
  have hw : t.imemWord = s.imemWord := by
    funext c n off
    rw [State.imemWord, State.imemWord, hc.mem]
  have he : t.safeEntryAt = s.safeEntryAt := by
    funext c n off
    simp only [State.safeEntryAt, hw, hc.mem]
  simp only [State.safePoint, hi, hw, he]

/-- A fault in an attempt aborts it with the fault's code. -/
theorem raise_attempt (hc : s.sameCode u) (hr : u.hart? r = some h) (hd : h.tx.depth ≠ 0) (stop : Stop)
    (hsafe : s.safePoint r.core (s.ctxOf r) h.pc h.clause h.pos ≠ (true, none)) :
    u.raise r stop = u.txAbort r .fault (BitVec.ofNat 8 stop.cause.code) := by
  have hsub : u.substituted r h stop = stop := by
    unfold State.substituted
    rw [hc.ctx, hc.safePoint]
    split
    · next he => exact absurd he hsafe
    · rfl
  unfold State.raise
  simp only [hr, if_neg hd, hsub]

/-! ### The loads of an attempt -/

/-- A load in an attempt that does not leave as a request. -/
theorem State.load_attempt (he : s.elems r q.bolt .load q.ix q.n = .ok as) (hlive : ∃ a ∈ as, a ≠ none) (hd : h.tx.depth ≠ 0)
    (hhere : q.bolt.space ≠ 0 ∨ h.tstate.trapped = false) : ∃ ro, s.load r h q = s.loadHere r h { q with ro } as := by
  by_cases hspace : q.bolt.space = 0
  · refine ⟨false, State.load_plain he (List.filterMap_id_live hlive) hspace (hhere.resolve_left (· hspace)) ?_⟩
    rw [beq_false_of_ne hd, Bool.false_and]
  · exact ⟨q.ro, State.load_near he (List.filterMap_id_live hlive) hspace⟩

/-- The state in which the elements of a load in an attempt are read, and what becomes of the load. -/
theorem State.loadHere_reads {ro : Bool} (hl : s.locateAll r h q.bolt.space q.bolt.width false q.sl q.sx as = (some locs, s')) :
    ∃ u memOnly, s'.costsOnly u
      ∧ (∀ t, u.readAll r q.bolt.width memOnly locs = (none, t) → s.loadHere r h { q with ro } as = t)
      ∧ ∀ vals t, u.readAll r q.bolt.width memOnly locs = (some vals, t) → t.hart? r = some k → k.isBobbin = h.isBobbin →
        loadedTo t (s.loadHere r h { q with ro } as) r k q vals := by
  obtain ⟨u, hu, hnone, hsome⟩ := State.loadHere_located (q := { q with ro }) hl
  refine ⟨u, ro, hu, hnone, fun vals t ht hk hb => ?_⟩
  obtain ⟨twin, hload⟩ := hsome vals t ht
  rw [hload, ← hb]
  exact State.loadedTo_loaded hk vals twin

theorem readAll_cons_none {memOnly : Bool} {l : List (Option (Loc × Nat))} (hr : u.hart? r = some h)
    (hread : u.readAt r h loc a n memOnly = (none, t)) : u.readAll r n memOnly (some (loc, a) :: l) = (none, t) := by
  simp only [State.readAll, hr, hread]

theorem readAll_cons_some {memOnly : Bool} {l : List (Option (Loc × Nat))} {v : List Byte × Bool} (hr : u.hart? r = some h)
    (hread : u.readAt r h loc a n memOnly = (some v, t)) :
    u.readAll r n memOnly (some (loc, a) :: l) = ((t.readAll r n memOnly l).1.map (some v :: ·), (t.readAll r n memOnly l).2) := by
  simp only [State.readAll, hr, hread]

/-- The thread with a read set. -/
def Hart.reading (h : Hart) (l : List Line) : Hart := { h with tx := { h.tx with reads := l } }

/-! ### One element -/

section
variable (hr : s.hart? r = some h) (hd : h.tx.depth ≠ 0) (hu : s.costsOnly u)
include hr hd hu

omit hd in
/-- An access meets the same attempts after what costs alone. -/
theorem mem_rivals_costs {e : Ref × Hart} : e ∈ rivals u h phys write ↔ e ∈ rivals s h phys write :=
  mem_rivals_of_follows (hu.follows hr) hr rfl

/-- An element whose line an older attempt has. -/
theorem readAll_older {memOnly : Bool} (hold : ∃ e ∈ rivals s h loc.line.phys false, e.2.older h = true) :
    ∃ t, u.readAll r n memOnly [some (loc, a)] = (none, t) ∧ t.hart? r = some (h.abort .conflict 0) ∧ t.mem = s.mem := by
  have hur : u.hart? r = some h := (hu.hart? r).trans hr
  have hold' : ∃ e ∈ rivals u h loc.line.phys false, e.2.older h = true := by
    obtain ⟨e, he, ho⟩ := hold
    exact ⟨e, (mem_rivals_costs hr hu).mpr he, ho⟩
  refine ⟨_, readAll_cons_none hur (readAt_older hd hold'), State.hart?_txAbort_self (s := u.touch loc.key) hur _ _, ?_⟩
  exact State.coresOnly.refl.txAbort.mem.trans hu.mem

variable (hyoung : ∀ e ∈ rivals s h loc.line.phys false, e.2.older h = false)
include hyoung

omit hr hd hu hyoung in
theorem hart?_met (hur : u.hart? r = some h) : (met u h loc).hart? r = some h :=
  hart?_rivalsAborted_self (s := u.touch loc.key) hur fun _ he => rivals_place hur he

omit hr hd hu hyoung in
theorem met_mem : (met u h loc).mem = u.mem := (rivalsAborted_coresOnly _ _).mem

/-- A poisoned element. -/
theorem readAll_poisoned {memOnly : Bool} (hbad : (h.seen s loc.key n).any Prod.snd = true)
    (hsafe : s.safePoint r.core (s.ctxOf r) h.pc h.clause h.pos ≠ (true, none)) :
    ∃ t, u.readAll r n memOnly [some (loc, a)] = (none, t) ∧ t.hart? r = some (h.abort .fault 0x1A) ∧ t.mem = s.mem := by
  have hur : u.hart? r = some h := (hu.hart? r).trans hr
  have hyoung' : ∀ e ∈ rivals u h loc.line.phys false, e.2.older h = false := fun e he => hyoung e ((mem_rivals_costs hr hu).mp he)
  have hbad' : (h.seen u loc.key n).any Prod.snd = true := (hu.follows hr).seen h loc.key n ▸ hbad
  have hcode : s.sameCode (met u h loc) := (hu.trans State.costsOnly.refl.touch).sameCode.trans (sameCode_rivalsAborted _ _)
  refine ⟨_, readAll_cons_none hur (readAt_poisoned hd hyoung' hbad'), ?_, ?_⟩
  · rw [raise_attempt hcode (hart?_met hur) hd _ hsafe]
    exact State.hart?_txAbort_self (hart?_met hur) _ _
  · rw [raise_attempt hcode (hart?_met hur) hd _ hsafe]
    exact State.coresOnly.refl.txAbort.mem.trans (met_mem.trans hu.mem)

variable (hclean : (h.seen s loc.key n).any Prod.snd = false) (hroom : h.tx.reads.length ≤ 64)
include hclean hroom

/-- An element whose line would be the 65th. -/
theorem readAll_full {memOnly : Bool} (hfull : 64 < (addLine h.tx.reads loc.line).length) :
    ∃ t, u.readAll r n memOnly [some (loc, a)] = (none, t) ∧ t.hart? r = some (h.abort .capacity 0) ∧ t.mem = s.mem := by
  have hur : u.hart? r = some h := (hu.hart? r).trans hr
  have hyoung' : ∀ e ∈ rivals u h loc.line.phys false, e.2.older h = false := fun e he => hyoung e ((mem_rivals_costs hr hu).mp he)
  have hclean' : (h.seen u loc.key n).any Prod.snd = false := (hu.follows hr).seen h loc.key n ▸ hclean
  have hread : h.tx.reading loc.line = none := by rw [Tx.reading_eq _ hroom, if_neg (by omega)]
  refine ⟨_, readAll_cons_none hur (readAt_full hd hyoung' hclean' hread), State.hart?_txAbort_self (hart?_met hur) _ _, ?_⟩
  exact State.coresOnly.refl.txAbort.mem.trans (met_mem.trans hu.mem)

/-- An element that is read. -/
theorem readAll_reads {memOnly : Bool} (hfits : (addLine h.tx.reads loc.line).length ≤ 64)
    (hl : ∀ e, e ∈ l ↔ e ∈ rivals s h loc.line.phys false) :
    ∃ t, u.readAll r n memOnly [some (loc, a)] = (some [some ((h.seen s loc.key n).map Prod.fst, false)], t)
      ∧ (rivalsAborted s l).follows t r (h.reading (addLine h.tx.reads loc.line)) := by
  have hur : u.hart? r = some h := (hu.hart? r).trans hr
  have hyoung' : ∀ e ∈ rivals u h loc.line.phys false, e.2.older h = false := fun e he => hyoung e ((mem_rivals_costs hr hu).mp he)
  have hseen := (hu.follows hr).seen h loc.key n
  have hread : h.tx.reading loc.line = some { h.tx with reads := addLine h.tx.reads loc.line } := by rw [Tx.reading_eq _ hroom, if_pos hfits]
  have hf : (rivalsAborted s l).follows (met u h loc) r h :=
    follows_rivalsAborted ((hu.follows hr).costs State.costsOnly.refl.touch) (fun e => (mem_rivals_costs hr hu).trans (hl e).symm)
      fun e he => rivals_place hr ((hl e).mp he)
  refine ⟨_, ?_, hf.modHart (f := fun k => { k with tx := { h.tx with reads := addLine h.tx.reads loc.line } }) rfl⟩
  rw [readAll_cons_some hur (readAt_reads hd hyoung' (hseen ▸ hclean) hread), hseen]
  rfl

end

/-! ### Several elements -/

theorem length_addLine (l : List Line) (x : Line) : l.length ≤ (addLine l x).length := by
  rw [addLine]
  split
  · exact le_rfl
  · simp

/-- The read set with the lines of the located elements. -/
def addLines (l : List Line) (locs : List (Option (Loc × Nat))) : List Line := (locs.filterMap id).foldl (fun acc e => addLine acc e.1.line) l

theorem length_addLines (locs : List (Option (Loc × Nat))) : ∀ l : List Line, l.length ≤ (addLines l locs).length := by
  induction locs with
  | nil => exact fun l => le_rfl
  | cons e locs ih =>
    intro l
    cases e with
    | none => exact ih l
    | some e => exact (length_addLine l e.1.line).trans (ih _)

/-- Clean elements on lines that no other attempt has are read, and their lines enter the read set. -/
theorem readAll_clean (hr : s.hart? r = some h) (hd : h.tx.depth ≠ 0) {memOnly : Bool} : ∀ {locs : List (Option (Loc × Nat))} {u : State}
    {reads : List Line}, s.follows u r (h.reading reads) →
    (∀ e, some e ∈ locs → rivals s h e.1.line.phys false = [] ∧ (h.seen s e.1.key n).any Prod.snd = false) →
    (addLines reads locs).length ≤ 64 →
    ∃ t, u.readAll r n memOnly locs = (some (locs.map fun l => l.map fun e => ((h.seen s e.1.key n).map Prod.fst, false)), t)
      ∧ s.follows t r (h.reading (addLines reads locs))
  | [], u, _, hf, _, _ => ⟨u, rfl, hf⟩
  | none :: locs, u, reads, hf, hclean, hroom => by
    obtain ⟨t, ht, hft⟩ := readAll_clean hr hd (memOnly := memOnly) (locs := locs) hf (fun e he => hclean e (List.mem_cons_of_mem _ he)) hroom
    exact ⟨t, by rw [State.readAll, ht]; rfl, hft⟩
  | some (loc, a) :: locs, u, reads, hf, hclean, hroom => by
    obtain ⟨hriv, hcl⟩ := hclean (loc, a) List.mem_cons_self
    have hone : (addLine reads loc.line).length ≤ 64 := (length_addLines locs _).trans hroom
    have hnone : rivals u (h.reading reads) loc.line.phys false = [] :=
      List.eq_nil_iff_forall_not_mem.mpr fun e he => by
        rw [mem_rivals_of_follows hf hr rfl, hriv] at he
        cases he
    have hseen : (h.reading reads).seen u loc.key n = h.seen s loc.key n := hf.seen h loc.key n
    have hread : (h.reading reads).tx.reading loc.line = some { h.tx with reads := addLine reads loc.line } := by
      rw [Tx.reading_eq _ ((length_addLine reads loc.line).trans hone)]
      exact if_pos hone
    have hmet : met u (h.reading reads) loc = u.touch loc.key := by rw [met, hnone]; rfl
    have hft : s.follows ((u.touch loc.key).modHart r fun k => { k with tx := { h.tx with reads := addLine reads loc.line } }) r
        (h.reading (addLine reads loc.line)) :=
      (hf.costs State.costsOnly.refl.touch).modHart (f := fun k => { k with tx := { h.tx with reads := addLine reads loc.line } }) rfl
    have hat := readAt_reads (r := r) (a := a) (memOnly := memOnly) (show (h.reading reads).tx.depth ≠ 0 from hd)
      (by rw [hnone]; exact fun _ he => nomatch he) (hseen ▸ hcl) hread
    rw [hmet, hseen] at hat
    obtain ⟨t, ht, hres⟩ := readAll_clean hr hd (memOnly := memOnly) (locs := locs) hft (fun e he => hclean e (List.mem_cons_of_mem _ he)) hroom
    refine ⟨t, ?_, hres⟩
    rw [readAll_cons_some hf.puts.1 hat, ht]
    rfl

/-! ### The statements -/

theorem Tx.byteAt_fst (x : Tx) (key : Nat) (m : Byte × Bool) (b : Bool) : (x.byteAt key (m.1, b)).1 = (x.byteAt key m).1 := by
  unfold Tx.byteAt
  cases (x.writes.filter fun w => w.key == key).getLast? <;> rfl

theorem Hart.seen_fst (h : Hart) (s : State) (key n : Nat) :
    (h.seen s key n).map Prod.fst = (List.range n).map fun j => (h.tx.byteAt (key + j) (Memory.get s.mem (key + j), false)).1 := by
  rw [Hart.seen, List.map_map]
  exact List.map_congr_left fun j _ => (Tx.byteAt_fst ..).symm

theorem seen_clean {l : List (Byte × Bool)} (hl : ∀ b ∈ l, b.2 = false) : l.any Prod.snd = false :=
  List.any_eq_false.mpr fun b hb => by
    rw [hl b hb]
    exact Bool.false_ne_true

/-- A load inside an attempt, by the attempts that it meets and what it reads. -/
theorem attemptLoads_holds (hs : s.oneLane r h) (hg : h.takes g = true) (ht : s.sampleTag g = (none, s)) (hq : loadForm s r h g i q)
    (he : s.elems r q.bolt .load q.ix q.n = .ok as) (hd : h.tx.depth ≠ 0) (hhere : q.bolt.space ≠ 0 ∨ h.tstate.trapped = false)
    (hlive : ∃ a ∈ as, a ≠ none) : attemptLoads s i r h q as := by
  obtain ⟨ro, hload⟩ := State.load_attempt he hlive hd hhere
  have hexec : exec i s = .next (s.loadHere r h { q with ro } as) := by rw [exec_load hq hs hg ht, hload]
  have hr := hs.1
  refine ⟨fun a loc s' has hl => ?_, fun locs s' hl => ?_⟩
  · subst has
    have hall : s.locateAll r h q.bolt.space q.bolt.width false q.sl q.sx [some a] = (some [some (loc, a)], s') := by
      simp only [State.locateAll, hl, Option.map_some]
    have hc := State.locate_costsOnly hl
    have hr' : s'.hart? r = some h := (hc.hart? r).trans hr
    have hsame {e : Ref × Hart} : e ∈ rivals s' h loc.line.phys false ↔ e ∈ rivals s h loc.line.phys false := mem_rivals_costs hr hc
    obtain ⟨u, memOnly, hu, hnone, hsome⟩ := State.loadHere_reads (k := h.reading (addLine h.tx.reads loc.line)) (ro := ro) hall
    have hsu := hc.trans hu
    intro others seen reads
    have hseen : seen = h.seen s loc.key q.bolt.width := rfl
    have hstops {c : TxCause} {code : BitVec 8} (hfail : ∃ t, u.readAll r q.bolt.width memOnly [some (loc, a)] = (none, t)
        ∧ t.hart? r = some (h.abort c code) ∧ t.mem = s.mem) :
        ∃ t, exec i s = .next t ∧ t.hart? r = some (h.abort c code) ∧ t.mem = s.mem := by
      obtain ⟨t, hread, hfin⟩ := hfail
      exact ⟨t, by rw [hexec, hnone t hread], hfin⟩
    refine ⟨fun hold => hstops ?_, fun hyoung hbad hsafe => hstops ?_, fun hyoung hclean hlen => ⟨fun hfull => hstops ?_, fun hfits => ?_⟩⟩
    · obtain ⟨e, hmem, hold⟩ := hold
      exact readAll_older hr hd hsu ⟨e, hsame.mp hmem, hold⟩
    · exact readAll_poisoned hr hd hsu (fun e hmem => hyoung e (hsame.mpr hmem)) (List.any_eq_true.mpr hbad) hsafe
    · exact readAll_full hr hd hsu (fun e hmem => hyoung e (hsame.mpr hmem)) (seen_clean hclean) hlen hfull
    · obtain ⟨t, hread, hfol⟩ := readAll_reads (memOnly := memOnly) (a := a) hr hd hsu (fun e hmem => hyoung e (hsame.mpr hmem))
        (seen_clean hclean) hlen hfits fun _ => hsame
      exact ⟨_, hexec, hfol.loadedTo (hsome _ t hread hfol.puts.1 rfl)⟩
  · intro hclean reads hroom
    have hc := State.locateAll_costsOnly hl
    obtain ⟨u, memOnly, hu, -, hsome⟩ := State.loadHere_reads (k := h.reading (addLines h.tx.reads locs)) (ro := ro) hl
    have hnone : ∀ e, some e ∈ locs → rivals s h e.1.line.phys false = [] ∧ (h.seen s e.1.key q.bolt.width).any Prod.snd = false := by
      intro e hmem
      obtain ⟨hriv, hbytes⟩ := hclean e.1 e.2 hmem
      refine ⟨List.eq_nil_iff_forall_not_mem.mpr fun x hx => ?_, List.any_eq_false.mpr fun b hb => ?_⟩
      · rw [← mem_rivals_costs hr hc, hriv] at hx
        cases hx
      · obtain ⟨j, hj, rfl⟩ := List.mem_map.mp hb
        rw [hbytes j (List.mem_range.mp hj)]
        exact Bool.false_ne_true
    obtain ⟨t, hread, hfol⟩ := readAll_clean hr hd (memOnly := memOnly) (n := q.bolt.width) ((hc.trans hu).follows hr) hnone hroom
    have hres := hfol.loadedTo (hsome _ t hread hfol.puts.1 rfl)
    simp only [Hart.seen_fst] at hres
    exact ⟨_, hexec, hres⟩

end Sys2Proof.Machine

open Sys2Proof Sys2Proof.Machine

/-- Settles O31: near loads, plain loads, LDRO, loads in attempts and loads that leave as requests. -/
theorem loadsDeliver : Obligations.LoadsDeliver := by
  unfold Obligations.LoadsDeliver
  intro s g r h i q as hs hg ht hq he
  have hexec := exec_load hq hs hg ht
  refine ⟨fun hd hnear hfree => ⟨_, hexec, nearLoad_holds hs he hd hnear hfree⟩,
    fun locs s' hd hspace htrap hro hlive hchip hl => ⟨_, hexec, plainLoad_holds hs he hd hspace htrap hro hlive hchip hl⟩,
    fun a leaf s' l s'' hd hspace htrap hro has hw hleaf hchip hl => ⟨_, hexec, ?_⟩,
    fun hd hhere hlive => attemptLoads_holds hs hg ht hq he hd hhere hlive, fun hspace htrap => requestedLoad_holds hs hg ht hq he hspace htrap⟩
  subst has
  exact roLoad_holds hs he hd hspace htrap hro hw hleaf hchip hl

end

section
/-! PROOFS. What O55 says of queues, dispatch, admission, staging and completion (R136, R295, R415 to R430). -/

namespace Sys2Proof.Machine

variable {s t u s' : State}

/-! ### What a device write leaves (R416, R458, R530) -/

/-- The second state has the launches, queues and phase objects of the first. -/
def State.sameWork (s t : State) : Prop := t.launches = s.launches ∧ t.queues = s.queues ∧ t.phases = s.phases

theorem State.sameWork.refl : s.sameWork s := ⟨rfl, rfl, rfl⟩

theorem State.sameWork.trans (h : s.sameWork t) (h' : t.sameWork u) : s.sameWork u :=
  ⟨h'.1.trans h.1, h'.2.1.trans h.2.1, h'.2.2.trans h.2.2⟩

theorem State.sameWork.foldl {α : Type} {f : State → α → State} (hf : ∀ (t : State) (a : α), t.sameWork (f t a)) (l : List α)
    (h : s.sameWork t) : s.sameWork (l.foldl f t) :=
  List.foldlRecOn l f h fun t ht a _ => ht.trans (hf t a)

/-- An update of any fields but launches, queues and phase objects. -/
theorem State.sameWork.same (h : s.sameWork t) {inputs cur free next tsc fireClosed net ticks mem poison cores dies vt pbase lastCtxs ctxrecs
    hmaps ptabs btabs eclasses stagings records drains packets outbox keys keyFailed ranges moves shootdowns posted unposted
    services msix bar power measures reports links} :
    s.sameWork ⟨inputs, cur, free, next, tsc, fireClosed, net, ticks, mem, poison, cores, dies, t.queues, vt, pbase, lastCtxs, ctxrecs,
      hmaps, ptabs, btabs, t.launches, eclasses, stagings, records, t.phases, drains, packets, outbox, keys, keyFailed, ranges, moves,
      shootdowns, posted, unposted, services, msix, bar, power, measures, reports, links⟩ :=
  h

theorem State.coresOnly.sameWork (h : s.coresOnly t) : s.sameWork t := ⟨h.field State.launches, h.field State.queues, h.phases⟩

theorem State.sameWork.send (h : s.sameWork t) {src home ctx : Nat} {launch : Word} {slack : BitVec 12} {sx : Bool} {vn bytes : Nat}
    {body : Body} : s.sameWork (t.send src home ctx launch slack sx vn bytes body) := by
  obtain ⟨q, hq, -⟩ := t.send_eq src home ctx launch slack sx vn bytes body
  exact State.sameWork.trans h.same hq.1.sameWork

theorem State.sameWork.lineChanged (h : s.sameWork t) {l : Line} : s.sameWork (t.lineChanged l) := by
  unfold State.lineChanged
  refine .foldl (fun _ _ => State.sameWork.refl.send) _ ?_
  split
  · exact h.trans State.coresOnly.refl.lineNotice.sameWork
  · exact h

theorem State.sameWork.store (h : s.sameWork t) {l : Line} {key : Nat} {bytes : List Byte} {own : Nat} {poisoned : Bool} :
    s.sameWork (t.store l key bytes own poisoned) := by
  have hc : s.sameWork (t.conflicts l.phys own) := h.trans State.coresOnly.refl.conflicts.sameWork
  unfold State.store
  dsimp only
  split
  · exact hc.lineChanged
  · exact State.sameWork.lineChanged hc.same

theorem State.sameWork.lineEvent (h : s.sameWork t) {dpa : Nat} : s.sameWork (t.lineEvent dpa).2 := by
  have hc := (State.costsOnly.refl (s := t)).lineEvent (dpa := dpa)
  exact h.trans ⟨hc.field State.launches, hc.field State.queues, hc.field State.phases⟩

theorem State.sameWork.storePhys (h : s.sameWork t) {ctx dpa : Nat} {bytes : List Byte} : s.sameWork (t.storePhys ctx dpa bytes) :=
  .foldl (fun _ _ => State.sameWork.refl.lineEvent.store) _ h

theorem State.storePiecesVa_sameWork {ctx : Nat} {locked : Bool} : ∀ {l : List (Nat × List Byte)} {s t : State},
    s.storePiecesVa ctx locked l = .ok t → s.sameWork t
  | [], _, _, h => (Except.ok.inj h) ▸ .refl
  | (a, bs) :: l, s, t, h => by
    rw [State.storePiecesVa] at h
    split at h
    · exact State.sameWork.refl.lineEvent.store.trans (State.storePiecesVa_sameWork h)
    · cases h

theorem State.sameWork.post (h : s.sameWork t) {place : Nat} {bytes : List Byte} {report : Report} : s.sameWork (t.post place bytes report) := by
  unfold State.post State.postAt
  split
  · exact State.sameWork.same h.storePhys
  · exact h.same

theorem State.sameWork.toService (h : s.sameWork t) {v : Service} : s.sameWork (t.toService v) := by
  unfold State.toService
  dsimp only
  split
  · exact State.sameWork.storePhys h.same
  · exact State.sameWork.storePhys h.same

theorem State.sameWork.reportPage (h : s.sameWork t) {die ctx va home : Nat} {c : Cause} {write : Bool} {space pc eord : Nat} :
    s.sameWork (t.reportPage die ctx va home c write space pc eord) := by
  unfold State.reportPage
  dsimp only
  split
  · exact h.toService
  · split
    · next hj =>
      unfold State.join at hj
      split at hj
      · exact (Option.some.inj hj) ▸ h.storePhys
      · split at hj
        · exact (Option.some.inj hj) ▸ h.same
        · cases hj
    · exact h.post

theorem State.sameWork.tryRecord (h : s.sameWork t) {e : Record} : s.sameWork (t.tryRecord e) := by
  unfold State.tryRecord
  split
  · next hs => exact State.sameWork.same (h.trans (State.storePiecesVa_sameWork hs))
  · exact h
  · split
    · exact State.sameWork.same h.reportPage
    · exact State.sameWork.post h.same

theorem State.sameWork.deviceWrite (h : s.sameWork t) {key : Option Nat} {ctx va : Nat} {bytes : List Byte} :
    s.sameWork (t.deviceWrite key ctx va bytes) := by
  unfold State.deviceWrite
  dsimp only
  split
  · exact State.sameWork.tryRecord h.same
  · exact h.same

/-! ### Dispatch (R417, R419) -/

theorem exec_dispatch (s : State) : exec .dispatch s = execDispatch s := rfl

/-- A launch as dispatch lists it. -/
theorem State.startLaunch_lists (s : State) (c : Cand) :
    let l := launchOf c.record c.q.ctx c.q.headVa
    ∃ l', (s.startLaunch c).launches.get? s.nextKey = some l' ∧ (s.startLaunch c).queues = s.queues
      ∧ (s.startLaunch c).phases = s.phases ++ l'.phaseObjects s.nextKey
      ∧ l'.ctx = c.q.ctx ∧ l'.lid = l.lid ∧ l'.threads = l.total ∧ l'.live = l.total ∧ l'.entry = l.entry
      ∧ l'.pbase = (s.pbase.get? l.ctx).getD 0 ∧ l'.places.length = l.waves := by
  intro l
  obtain ⟨x, l', ⟨hl, hq, hp⟩, hlist, hqueues, hphases, hrest⟩ : ∃ x l', State.sameWork x (s.startLaunch c)
      ∧ x.launches = s.launches.set s.nextKey l' ∧ x.queues = s.queues ∧ x.phases = s.phases ++ l'.phaseObjects s.nextKey
      ∧ l'.ctx = c.q.ctx ∧ l'.lid = l.lid ∧ l'.threads = l.total ∧ l'.live = l.total ∧ l'.entry = l.entry
      ∧ l'.pbase = (s.pbase.get? l.ctx).getD 0 ∧ l'.places.length = l.waves := by
    refine ⟨_, _, State.sameWork.deviceWrite (State.sameWork.same (.foldl (fun _ ⟨_, _⟩ => State.coresOnly.refl.modCore.sameWork) _ .refl)),
      rfl, rfl, rfl, rfl, rfl, rfl, rfl, rfl, rfl, ?_⟩
    rw [List.length_map, List.length_range]
  exact ⟨l', by rw [hl, hlist, KMap.get?_set_self], hq.trans hqueues, hp.trans hphases, hrest⟩

/-! ### Admission (R136, R429) -/

theorem Launch.mem_waveLanes {l : Launch} {key wave tid : Nat} {slack : BitVec 12} {i : Nat} {h : Hart}
    (hm : (i, h) ∈ l.waveLanes key wave tid slack) :
    i < 64 ∧ 64 * wave + i < l.threads ∧ h.tid = tid + i ∧ h.ordinal = BitVec.ofNat 32 (64 * wave + i) ∧ h.pc = l.entry ∧ h.clause = l.entry
      ∧ h.launch = BitVec.ofNat 32 key ∧ h.slack = slack ∧ h.regs = Regs.zeroX ∧ h.preds = 0 ∧ h.spwn = false ∧ h.status = .running := by
  obtain ⟨j, hj, he⟩ := List.mem_map.mp hm
  obtain ⟨hr, ht⟩ := List.mem_filter.mp hj
  obtain ⟨rfl, rfl⟩ := Prod.mk.inj he
  exact ⟨List.mem_range.mp hr, of_decide_eq_true ht, rfl, rfl, rfl, rfl, rfl, rfl, rfl, rfl, rfl, rfl⟩

/-- A context that has its slot and its allocations, on a core that the launch holds, is granted nothing more. -/
theorem State.grant_held {core n key : Nat} {l : Launch} (hslot : (s.slotOf? core l.ctx).isSome = true) (hcore : l.cores.contains core = true)
    (ha : ((s.core core).allocs.get? l.ctx).isSome = true) (hd : ((s.die (dieOf core)).allocs.get? l.ctx).isSome = true) :
    s.grant core n key l l = .ok s := by
  have hgive : s.giveSlot core n l = .ok s := by rw [State.giveSlot, if_pos hslot]
  have halloc : s.allocate core l [] = s := by simp only [State.allocate, ha, hd, if_true]
  have hhold : s.holdCore core n key l = s := by rw [State.holdCore, if_pos hcore]
  simp only [State.grant, hgive, ha, Bool.or_true, if_true, halloc, hhold]

/-- The wave that is admitted, and the lane slices that it clears. -/
theorem State.admitWave_stands (s : State) (core n w key wave : Nat) (l : Launch) :
    ∃ v, (s.admitWave core n w key wave l).wave? core w = some v ∧ v.ctx = l.ctx ∧ v.arrival = false
      ∧ v.lanes = l.waveLanes key wave s.next (((s.slot? core n).map fun q => q.slackTab.toList.getD 0 0xFFF).getD 0xFFF)
      ∧ ∀ a, Memory.get (s.admitWave core n w key wave l).mem a =
          if laneKey core w 0 0 ≤ a ∧ a < laneKey core w 0 0 + 64 * 256 then 0 else Memory.get s.mem a := by
  have hwave : (s.admitWave core n w key wave l).wave? core w = some
      { ctx := l.ctx, launch := BitVec.ofNat 32 key, arrival := false
        lanes := l.waveLanes key wave s.next (((s.slot? core n).map fun q => q.slackTab.toList.getD 0 0xFFF).getD 0xFFF) } := by
    have hnext (t : State) (k : Nat) : ({ t with next := k } : State).core core = t.core core := rfl
    rw [State.wave?, State.admitWave, hnext, State.core_modCore_self]
    exact KMap.get?_set_self ..
  exact ⟨_, hwave, rfl, rfl, rfl, fun a => Memory.get_clear s.mem (laneKey core w 0 0) (64 * 256) a⟩

/-- A wave of a launch that holds the core and has its regions staged is admitted. -/
theorem execWaveAdmission_admits {core n w : Nat} {p : Placed} {l : Launch} {q : Slot} (hwork : s.nextWork (s.admitNow core) = some (.wave p l))
    (hn : s.slotAvailable core l.ctx = some n) (hslot : s.slotOf? core l.ctx = some (n, q)) (hcore : l.cores.contains core = true)
    (ha : ((s.core core).allocs.get? l.ctx).isSome = true) (hd : ((s.die (dieOf core)).allocs.get? l.ctx).isSome = true)
    (hl : s.launches.get? p.key = some l) (hw : (s.core core).freeWaves.head? = some w) (hstaged : s.stagedHere core p.key = true) :
    exec (.waveAdmission core) s = .next (s.spend.admitWave core n w p.key p.wave l) := by
  have hslot' : s.spend.slotOf? core l.ctx = some (n, q) := hslot
  have hgrant : s.spend.grant core n p.key l l = .ok s.spend := State.grant_held (by rw [hslot']; rfl) hcore ha hd
  have hn' : s.spend.slotAvailable core l.ctx = some n := hn
  have hl' : s.spend.launches.get? p.key = some l := hl
  have hw' : (s.spend.core core).freeWaves.head? = some w := hw
  have hstaged' : s.spend.stagedHere core p.key = true := hstaged
  have he : exec (.waveAdmission core) s = execWaveAdmission core s := rfl
  rw [he, execWaveAdmission, hwork]
  simp only [State.takeUp, Work_.launch, hn', hgrant, hl', hw', hstaged', if_true]

/-! ### Completion (R295, R430) -/

/-- A drain that begins lists what it drains, and no launch changes. -/
theorem State.startDrain_lists (s : State) (src ctx key : Nat) (first : Word) (n : Nat) (purpose : DrainFor) :
    let t := s.startDrain src ctx key first n purpose
    t.mem = s.mem ∧ t.launches = s.launches
      ∧ ∃ d, t.drains = s.drains ++ [d] ∧ d.purpose = purpose ∧ d.ctx = ctx ∧ d.firstParty = first ∧ d.parties = n := by
  intro t
  let d : Drain :=
    { id := s.next, ctx, key, firstParty := first, parties := n, purpose, src, slack := 0xFFF
      cores := (if (s.homesOf ctx).isEmpty then [src] else s.homesOf ctx).map fun c => (c, false) }
  obtain ⟨hm, -, hd, -⟩ := State.askDrains d d.cores { s with drains := s.drains ++ [d], next := s.next + 1 }
  obtain ⟨hl, -⟩ : State.sameWork { s with drains := s.drains ++ [d], next := s.next + 1 } t :=
    .foldl (fun _ _ => State.sameWork.refl.send) _ .refl
  exact ⟨hm, hl, d, hd, rfl, rfl, rfl, rfl⟩

theorem State.sameWork.releaseAlloc (h : s.sameWork t) {core ctx : Nat} : s.sameWork (t.releaseAlloc core ctx) := by
  have hc {f : Core → Core} : s.sameWork (t.modCore core f) := h.trans State.coresOnly.refl.modCore.sameWork
  unfold State.releaseAlloc
  split
  · exact h
  · dsimp only
    split
    · exact hc
    · exact State.sameWork.same hc

/-- A launch that ends leaves the list, and the others stay. -/
theorem State.finishLaunch_launches (s : State) (key : Nat) (l : Launch) : (s.finishLaunch key l).launches = s.launches.erase key := by
  unfold State.finishLaunch
  dsimp only
  have hcore (c : Nat) (f k : Core → Core) (t : State) {p : Prop} [Decidable p] :
      t.sameWork (if p then t.modCore c f else ((t.modCore c f).releaseAlloc c l.ctx).modCore c k) := by
    have hc : t.sameWork (t.modCore c f) := State.coresOnly.refl.modCore.sameWork
    split
    · exact hc
    · exact hc.releaseAlloc.trans State.coresOnly.refl.modCore.sameWork
  split
  · refine (State.sameWork.foldl (fun t c => ?_) _ State.sameWork.refl.lineChanged).1
    exact hcore c _ _ t
  · refine (State.sameWork.foldl (fun t c => ?_) _ State.sameWork.refl.lineChanged).deviceWrite.1
    exact hcore c _ _ t

theorem exec_launchCompletion {key : Nat} {l : Launch} (hrec : s.readyRecords.find? (fun e => e.key == some key) = none)
    (hl : s.launches.get? key = some l) : exec (.launchCompletion key) s = .next (
      if !s.completionDue l then s
      else if l.drained = some true then s.complete key l
      else ({ s with launches := s.launches.set key { l with drained := some false } } : State).startDrain (l.coordinator 0 0) l.ctx
        key l.pbase l.groups (.completion key)) := by
  have he : exec (.launchCompletion key) s = execLaunchCompletion key s := rfl
  rw [he, execLaunchCompletion, hrec, hl]
  rfl

/-! ### Staging (R429) -/

section
variable {core key region : Nat} {e : Staging} {l : Launch} {src sp off n : Nat} {bs : List Byte}
  (he : s.stagings.find? (fun e => e.core == core && e.key == key && e.region == region) = some e)
include he

theorem staging_found : e.core = core ∧ e.key = key ∧ e.region = region := by
  have h := List.find?_some he
  simpa [and_assoc] using h

variable (hl : s.launches.get? key = some l)
include hl

theorem execStaging_notDue (hdue : s.stageDue e = false) : exec (.stagingCompletion core key region) s = .next s := by
  have hx : exec (.stagingCompletion core key region) s = execStagingCompletion core key region s := rfl
  rw [hx, execStagingCompletion, he, hl]
  simp only [hdue, Bool.not_false, if_true]

/-- A region whose data are there: it asks for them first, where they come from other homes, and else is copied. -/
theorem execStaging_due (hreg : l.region region = (src, sp, off, n)) (hwin : s.windowMissing core l.ctx sp off n = false)
    (hread : (if src = 0 then .ok (List.replicate n 0) else s.readVa l.ctx src n) = .ok bs) (hdue : s.stageDue e = true) :
    exec (.stagingCompletion core key region) s = .next (
      if !e.asked && (s.askStaging e l).bulkOut (.staging e.key e.region e.unit) then s.askStaging e l
      else (s.storeNear core l.ctx sp off bs).modStaging e fun e => { e with done := true }) := by
  obtain ⟨hcore, -, hregion⟩ := staging_found he
  have hstage : s.stage e l = .ok ((s.storeNear core l.ctx sp off bs).modStaging e fun e => { e with done := true }) := by
    simp only [State.stage, hregion, hreg, hcore, hwin, hread, Bool.false_eq_true, if_false]
  have hx : exec (.stagingCompletion core key region) s = execStagingCompletion core key region s := rfl
  rw [hx, execStagingCompletion, he, hl]
  simp only [hdue, hstage, Bool.not_true, Bool.false_eq_true, if_false]

end

end Sys2Proof.Machine

open Sys2Proof Sys2Proof.Machine

/-- Settles O55, event by event. -/
theorem launchesRun : Obligations.LaunchesRun := by
  unfold Obligations.LaunchesRun
  refine ⟨fun s q n hup hq => ?_, fun s => ⟨fun hready => ?_, fun e hready hrec => ?_, fun c s' hready hrec hread hdec => ?_⟩,
    fun s core => ⟨fun hnone => ?_, fun p l n q w hwork hn hslot hcore ha hd hl hw hstaged hq => ?_⟩,
    fun l key wave tid slack i h hm => Launch.mem_waveLanes hm, fun s core key region e l src sp off n bs he hl hreg hwin hread => ?_,
    fun s key l hrec hl => ⟨fun hdue => ?_, fun hdue hdr => ?_, fun s2 hdue hdr hst => ?_⟩⟩
  · refine ⟨?_, fun hn hen => ?_, fun hn hen => ?_, fun hn => ?_⟩
    · exact congrArg Host.Outcome.next (if_pos (by simp [hup, hq]))
    · exact congrArg Host.Outcome.next (if_pos (by simp [hup, hq, hn, hen]))
    · exact congrArg Host.Outcome.next (if_neg (by simp [hen]))
    · exact congrArg Host.Outcome.next (if_pos (by simp [hup, hq, hn]))
  · exact congrArg Host.Outcome.next (if_pos (by rw [hready]; rfl))
  · rw [exec_dispatch, execDispatch]
    simp only [hready, hrec, Bool.not_true, Bool.false_eq_true, if_false]
  · have hex : exec .dispatch s = .next (if c.reasons.isEmpty then (s'.setQueue c.no { c.q with head := c.q.head + 1 }).startLaunch c
        else (s'.setQueue c.no { c.q with head := c.q.head + 1 }).refuse c) := by
      rw [exec_dispatch, execDispatch]
      simp only [hready, hrec, hread, hdec, Bool.not_true, Bool.false_eq_true, if_false]
    intro s2 l
    refine ⟨fun hne => ?_, fun heq => ?_⟩
    · rw [hex, if_neg (by simpa using hne)]
    · obtain ⟨l', hlist, hqueues, hphases, hctx, hlid, hthreads, hlive, hentry, hpbase, hplaces⟩ := s2.startLaunch_lists c
      refine ⟨_, l', by rw [hex, if_pos (by simp [heq])], hlist, ?_, hctx, hlid, hthreads, hlive, hentry, hpbase, hplaces, hphases⟩
      rw [State.queue, hqueues]
      exact congrArg (fun o : Option Queue => (o.getD {}).head) (KMap.get?_set_self ..)
  · have hx : exec (.waveAdmission core) s = execWaveAdmission core s := rfl
    rw [hx, execWaveAdmission, hnone]
  · obtain ⟨v, hv, hctx, harr, hlanes, hmem⟩ := s.spend.admitWave_stands core n w p.key p.wave l
    refine ⟨_, v, execWaveAdmission_admits hwork hn hslot hcore ha hd hl hw hstaged, hv, hctx, harr, ?_, hmem⟩
    rw [hlanes, show s.spend.slot? core n = some q from hq]
    rfl
  · have hdue' := execStaging_due he hl hreg hwin hread
    refine ⟨execStaging_notDue he hl, fun hdue hout => ?_, fun hdue hasked hout => ?_⟩
    · rw [hdue' hdue, if_neg]
      rcases hout with ho | ho <;> simp [ho]
    · rw [hdue' hdue, if_pos (by simp [hasked, hout])]
  · rw [exec_launchCompletion hrec hl, if_pos (by rw [hdue]; rfl)]
  · rw [exec_launchCompletion hrec hl, if_neg (by simp [hdue]), if_neg (by simp [hdr])]
    obtain ⟨hmem, hlaunches, hdrain⟩ := ({ s with launches := s.launches.set key { l with drained := some false } } : State).startDrain_lists
      (l.coordinator 0 0) l.ctx key l.pbase l.groups (.completion key)
    exact ⟨_, rfl, hmem, by rw [hlaunches, KMap.get?_set_self], hdrain⟩
  · have hcomplete : s.complete key l = s2.finishLaunch key l := by
      have hst' : s.storeVa l.ctx ((l.record.toNat + 0xF8) % 2 ^ 48) (bytesOfNat 4 l.status) = .ok s2 := hst
      simp only [State.complete, hst']
    rw [exec_launchCompletion hrec hl, if_neg (by simp [hdue]), if_pos hdr, hcomplete]
    exact ⟨_, rfl, rfl, by rw [State.finishLaunch_launches, KMap.get?_erase, if_pos rfl]⟩

end

section
/-! PROOFS. What O16 says of packed values: each element by itself, and the dot products (R180 to R183). -/

namespace Sys2Proof.Machine

variable {s : State} {g : Guard} {i : Instr} {h : Hart} {d : Reg}

/-! ### Packed halves (R180, R181) -/

/-- Two halves side by side fill the word. -/
theorem packed_halves (x y : Nat) : packed 16 [x, y] % 2 ^ 32 = x % 2 ^ 16 + y % 2 ^ 16 * 2 ^ 16 := by
  simp only [packed]
  omega

theorem lanesDo_writesHalves {t : Option Fmt} {r : Fmt → Nat → Hart → Nat × FFlags}
    (he : exec i s = aluOp g (fun h => h.writeF d (halves fun e => r (t.getD .f16) e h)) s) : lanesDo i s g (writesHalves s.cur d r t) := by
  refine lanesDo_of_aluOp he fun h hd => ?_
  rw [← packed_halves]
  exact h.writeF_changes s.cur (halves fun e => r (t.getD .f16) e h) hd

/-- Two predicates and flags change no register. -/
theorem Hart.setPred_setPred_changes (h : Hart) (c : Issue) (p q : BitVec 3) (v w : Bool) (f : FFlags) :
    h.changes (({ (h.setPred p v).setPred q w with fpstat := f } : Hart).advance c) c [] ((h.setPred p v).setPred q w).preds f := by
  have e : (h.setPred p v).setPred q w = { h with preds := ((h.setPred p v).setPred q w).preds } :=
    (Hart.setPred_eq _ q w).trans (congrArg (fun k : Hart => { k with preds := ((h.setPred p v).setPred q w).preds }) (h.setPred_eq p v))
  have e' := congrArg (fun k : Hart => { k with fpstat := f }) e
  rw [e']
  exact (h.writes_nil.gathered f).changes_preds c _

/-! ### The integer dot product (R182) -/

theorem intOf_element (q : Bool) (v e : Nat) : intOf 8 q (element 8 v e) = intOf 8 q (v / 2 ^ (8 * e)) := intOf_mod 8 q _ le_rfl

theorem dotInt_eq (q : Bool) (h : Hart) (a b : Src) (c : Int) :
    dotInt q (h.word a) (h.word b) c = c + octet q h a 0 * octet q h b 0 + octet q h a 1 * octet q h b 1
      + octet q h a 2 * octet q h b 2 + octet q h a 3 * octet q h b 3 := by
  simp only [dotInt, intOf_element]
  rfl

theorem Hart.run_one (h : Hart) (d : Reg) : h.run d 1 = [d.toNat] := by rw [Hart.run, ite_self]; rfl

theorem Hart.writeInt_changes (h : Hart) (c : Issue) (d : Reg) (T : Fmt) (sat : Bool) (v : Int) (hd : h.fits d (fmtRuns T)) :
    h.changes ((h.writeInt d.toNat T sat v).advance c) c (h.run d (fmtRuns T)) h.preds h.fpstat
      ∧ ((h.writeInt d.toNat T sat v).advance c).holds d.toNat T (delivered T sat v) :=
  ⟨(h.writes_writeInt d.toNat T sat v).changes c, (Hart.holds_advance _ c).mpr (h.holds_writeInt sat v hd)⟩

/-- A value of a type that takes one register. -/
theorem Hart.writeInt_changes_one (h : Hart) (c : Issue) {T : Fmt} (hT : fmtRuns T = 1) (sat : Bool) (v : Int) (hd : h.fits d 1) :
    h.changes ((h.writeInt d.toNat T sat v).advance c) c [d.toNat] h.preds h.fpstat
      ∧ ((h.writeInt d.toNat T sat v).advance c).holds d.toNat T (delivered T sat v) := by
  have hw := h.writeInt_changes c d T sat v (by rwa [hT])
  rwa [hT, Hart.run_one] at hw

/-! ### Packed bytes (R183) -/

/-- The type of a byte of the sign. -/
def byteFmt (q : Bool) : Fmt := if q then .i8 else .n8

@[simp] theorem byteFmt_bits (q : Bool) : (byteFmt q).bits = 8 := by cases q <;> rfl
@[simp] theorem byteFmt_signed (q : Bool) : (byteFmt q).signed = q := by cases q <;> rfl

theorem intOf_congr (n : Nat) (q : Bool) {v w : Nat} (h : v % 2 ^ n = w % 2 ^ n) : intOf n q v = intOf n q w := by
  rw [← intOf_mod n q v le_rfl, h, intOf_mod n q w le_rfl]

/-- The low byte of a result, read back, is what is delivered. -/
theorem intOf_byte_delivered (q sat : Bool) (v : Int) :
    intOf 8 q ((if sat then satInt v (fmtLo (byteFmt q)) (fmtHi (byteFmt q)) else v) % 256).toNat = delivered (byteFmt q) sat v := by
  have hbyte : ∀ w : Int, intOf 8 q (w % 256).toNat = wrapTo (byteFmt q) w := fun w => by
    rw [← intOf_toNat_emod, byteFmt_bits, byteFmt_signed]
    exact intOf_congr 8 q (by omega)
  rw [hbyte]
  cases sat
  · rfl
  · rw [delivered_sat]
    exact wrapTo_of_inRange (satInt_inRange ..)

/-- Element e of a word of four results. -/
theorem element_bytes4 (q sat : Bool) (f : Int → Int → Int) (a b : Nat) {e : Nat} (he : e < 4) :
    intOf 8 q (element 8 (bytes4 q sat f a b) e) = delivered (byteFmt q) sat (f (intOf 8 q (element 8 a e)) (intOf 8 q (element 8 b e))) := by
  rw [bytes4, element_packed 8 _ (by simpa using he), intOf_mod 8 q _ le_rfl, ← intOf_byte_delivered, List.getD_eq_getElem _ _ (by simpa using he),
    List.getElem_map, List.getElem_range]
  rfl

theorem Hart.bytes4_changes (h : Hart) (c : Issue) (a b : Src) (q sat : Bool) (f : Int → Int → Int) (hd : h.fits d 1) :
    let T := byteFmt q
    let h' := (h.setWord d.toNat (bytes4 q sat f (h.word a) (h.word b))).advance c
    h.changes h' c [d.toNat] h.preds h.fpstat ∧ (h'.reg d.toNat).toNat < 2 ^ 32
      ∧ ∀ e < 4, intOf 8 T.signed ((h'.reg d.toNat).toNat / 2 ^ (8 * e)) = delivered T sat (f (octet T.signed h a e) (octet T.signed h b e)) := by
  intro T h'
  have hlt : bytes4 q sat f (h.word a) (h.word b) < 2 ^ 32 := packed_lt_word _ (by simp)
  obtain ⟨hc, hr⟩ := h.setWord_changes c (bytes4 q sat f (h.word a) (h.word b)) hd
  rw [hr, toNat_ofNat_word]
  refine ⟨hc, Nat.mod_lt _ (by decide), fun e he => ?_⟩
  rw [byteFmt_signed, Nat.mod_eq_of_lt hlt, ← intOf_element, element_bytes4 q sat f _ _ he, intOf_element, intOf_element]
  rfl

end Sys2Proof.Machine

open Sys2Proof Sys2Proof.Machine

/-- Settles O16: words of two halves or of four bytes, two predicates, and the dot products as results of one word. -/
theorem packedResults : Obligations.PackedResults := by
  unfold Obligations.PackedResults
  intro s g d a b c t rm z sat k p
  refine ⟨lanesDo_writesHalves rfl, lanesDo_writesHalves rfl, lanesDo_writesHalves rfl, lanesDo_writesHalves rfl, lanesDo_writesHalves rfl,
    lanesDo_of_aluOp rfl fun h => ?_, lanesDo_writesFloat rfl, fun hT => ?_, fun hT => lanesDo_of_aluOp rfl fun h hd => ?_, ?_⟩
  · intro r
    rw [← BitVec.or_assoc]
    exact h.setPred_setPred_changes s.cur p (p + 1) _ _ _
  · refine lanesDo_writesFloat (congrArg (aluOp g · s) (funext fun h => ?_))
    simp only [hT, Bool.false_eq_true, if_false]
    rfl
  · have hW : fmtRuns (if (t.getD .e4m3).signed then .i32 else .n32) = 1 := by split <;> rfl
    rw [← dotInt_eq]
    simp only [hT, if_true]
    exact h.writeInt_changes_one s.cur hW sat _ hd
  · rintro u (rfl | rfl)
    · refine lanesDo_of_aluOp rfl fun h hd => ?_
      have hv := h.bytes4_changes s.cur a b (t.getD .n8).signed sat (fun x y => x + y) hd
      simp only [if_true]
      exact hv
    · refine lanesDo_of_aluOp rfl fun h hd => ?_
      have hv := h.bytes4_changes s.cur a b (t.getD .n8).signed sat (fun x y => x - y) hd
      simp only [reduceCtorEq, if_false]
      exact hv

end

section
/-! PROOFS. What O20 and O21 say of a group's lanes: moves, the census and the match, over the lanes of a thread's fragment that take part
(R199 to R205, R208). -/

namespace Sys2Proof.Machine

variable {s : State} {g : Guard} {i : Instr} {h : Hart} {d : Reg}

/-! ### The lanes of a group (R140, R199) -/

theorem State.widthOf_eq_two_pow (s : State) (h : Hart) : ∃ n ≤ 6, s.widthOf h = 2 ^ n := by
  rw [State.widthOf]
  cases s.launch? h.launch with
  | none => exact ⟨6, le_rfl, rfl⟩
  | some l =>
    have hf : field l.ctl 1 2 < 4 := (l.ctl.extractLsb' 1 2).isLt
    exact ⟨field l.ctl 1 2 + 3, by omega, by rw [Nat.pow_add, Nat.mul_comm]; rfl⟩

theorem State.laneOf_lt_widthOf (s : State) (h : Hart) : s.laneOf h < s.widthOf h := by
  obtain ⟨n, -, hn⟩ := s.widthOf_eq_two_pow h
  have hpos : 0 < s.widthOf h := hn ▸ Nat.two_pow_pos n
  rw [State.laneOf]
  split
  · exact hpos
  · exact Nat.mod_lt _ hpos

theorem State.laneOf_lt (s : State) (h : Hart) : s.laneOf h < 64 := by
  obtain ⟨n, hn, hw⟩ := s.widthOf_eq_two_pow h
  exact (s.laneOf_lt_widthOf h).trans_le (hw ▸ Nat.pow_le_pow_right Nat.two_pos hn)

/-- The group's lane of a number is the lane of the thread's fragment that takes part and has it. -/
theorem presentLane_present (s : State) (g : Guard) (h : Hart) (n : Nat) : presentLane (s.present (s.active g) h) n = peer s g h n := by
  rw [presentLane, State.present, peer, List.find?_map, List.find?_filter, Option.map_map]
  simp only [Bool.decide_and, Bool.decide_eq_true, Function.comp_def]

/-- An instruction of a group does to a lane that takes part what its function makes of the group as it stood at issue (R208). -/
theorem lanesDo_of_crossOp {F : List (Nat × Hart) → Hart → Hart} {P : Hart → Hart → Prop} (he : exec i s = crossOp g F s)
    (hP : ∀ h, P h ((F (s.present (s.active g) h) h).advance s.cur)) : lanesDo i s g P :=
  lanesDo_of_aluOp he hP

/-! ### Moves (R200, R203) -/

theorem sourceLane_present (s : State) (g : Guard) (a : Src) (fz : Bool) (T : Fmt) (h : Hart) (n : Option Nat) :
    sourceLane a T fz (s.present (s.active g) h) h (n.filter fun l => l < s.widthOf h) = fromLane s g a fz T h n := by
  rw [sourceLane, funext (presentLane_present s g h)]
  rfl

theorem lanesDo_of_laneMove {a : Src} {t : Option Fmt} {fz : Bool} (src : Hart → Nat → Option Nat)
    (he : exec i s = laneMove g d a t fz src s) :
    let T := t.getD .n32
    lanesDo i s g fun h h' => h.fits d (fmtRuns T) → h.changes h' s.cur (h.run d (fmtRuns T)) h.preds h.fpstat
      ∧ h'.holds d.toNat T (wrapTo T (fromLane s g a fz T h (src h (s.laneOf h)))) := by
  intro T
  refine lanesDo_of_crossOp (F := fun grp h =>
    h.writePattern d.toNat T (sourceLane a T fz grp h ((src h (s.laneOf h)).filter fun l => l < s.widthOf h))) he fun h hd => ?_
  rw [← sourceLane_present]
  exact h.writeInt_changes s.cur d T false _ hd

/-! ### Masks of lanes (R204, R205) -/

/-- Bit l of a mask says whether a lane of that number satisfies the condition. -/
theorem getLsbD_laneMask (p : Hart → Bool) {grp : List (Nat × Hart)} (hgrp : ∀ e ∈ grp, e.1 < 64) (l : Nat) :
    (laneMask p grp).getLsbD l = grp.any fun e => e.1 == l && p e.2 := by
  have hfold : ∀ m : DWord, (grp.foldl (fun m e => if p e.2 then setBits m e.1 1 1 else m) m).getLsbD l
      = (m.getLsbD l || grp.any fun e => e.1 == l && p e.2) := by
    induction grp with
    | nil => simp
    | cons e es ih =>
      intro m
      rw [List.foldl_cons, ih fun x hx => hgrp x (List.mem_cons_of_mem e hx), List.any_cons, ← Bool.or_assoc]
      congr 1
      have he := hgrp e List.mem_cons_self
      by_cases hp : p e.2 = true
      · rw [if_pos hp, hp, Bool.and_true]
        by_cases hl : l < 64
        · rw [getLsbD_setBits _ _ _ _ _ hl]
          by_cases hel : e.1 = l
          · simp [hel]
          · rw [if_neg (by omega), beq_false_of_ne hel, Bool.or_false]
        · rw [BitVec.getLsbD_of_ge _ l (by omega), BitVec.getLsbD_of_ge _ l (by omega), beq_false_of_ne (by omega), Bool.or_false]
      · rw [if_neg hp, Bool.eq_false_iff.mpr hp, Bool.and_false, Bool.or_false]
  rw [laneMask, hfold]
  simp

/-- The lanes of a thread's group, and those of them that satisfy a condition. -/
theorem any_present (s : State) (act : List (Nat × Hart)) (h : Hart) (q : Nat → Hart → Bool) :
    ((s.present act h).any fun e => q e.1 e.2) = (act.filter fun e => s.fragOf e.2 == s.fragOf h).any fun e => q (s.laneOf e.2) e.2 := by
  rw [State.present, List.any_map]
  rfl

theorem length_present (s : State) (act : List (Nat × Hart)) (h : Hart) :
    (s.present act h).length = (act.filter fun e => s.fragOf e.2 == s.fragOf h).length := List.length_map _

theorem countP_present (s : State) (act : List (Nat × Hart)) (h : Hart) (q : Hart → Bool) :
    (s.present act h).countP (fun e => q e.2) = ((act.filter fun e => s.fragOf e.2 == s.fragOf h).filter fun e => q e.2).length := by
  rw [State.present, List.countP_map, List.countP_eq_length_filter]
  rfl

theorem Hart.setReg64_changes (h : Hart) (c : Issue) (d : Reg) (v : DWord) (hd : h.fits d 2) :
    h.changes ((h.setReg64 d.toNat v).advance c) c (h.run d 2) h.preds h.fpstat ∧ ((h.setReg64 d.toNat v).advance c).holds d.toNat .n64 v.toNat := by
  have hv : BitVec.ofInt 64 v.toNat = v := by rw [BitVec.ofInt_natCast, BitVec.ofNat_toNat, BitVec.setWidth_eq]
  refine ⟨(h.writes_setReg64 d.toNat v).changes c, (Hart.holds_advance _ c).mpr ?_⟩
  have hh := h.holds_setReg64 (T := .n64) v.toNat rfl hd
  rwa [hv] at hh

theorem lanesDo_marks (p : Hart → Hart → Bool) (he : exec i s = crossOp g (fun grp h => h.setReg64 d.toNat (laneMask (p h) grp)) s) :
    lanesDo i s g fun h h' => h.fits d 2 → h.changes h' s.cur (h.run d 2) h.preds h.fpstat
      ∧ ∃ m : DWord, h'.holds d.toNat .n64 m.toNat
        ∧ ∀ l, m.getLsbD l = ((s.active g).filter fun e => s.fragOf e.2 == s.fragOf h).any fun e => s.laneOf e.2 == l && p h e.2 := by
  refine lanesDo_of_crossOp he fun h hd => ?_
  obtain ⟨hc, hh⟩ := h.setReg64_changes s.cur d (laneMask (p h) (s.present (s.active g) h)) hd
  refine ⟨hc, _, hh, fun l => ?_⟩
  rw [getLsbD_laneMask (p h) (fun e he => ?_), any_present s _ h fun n k => n == l && p h k]
  obtain ⟨x, -, rfl⟩ := List.mem_map.mp he
  exact s.laneOf_lt x.2

theorem lanesDo_counted {pd pa : BitVec 3} (v : Nat → Nat → Bool)
    (he : exec i s = crossOp g (fun grp h => h.setPred pd (v (grp.countP fun e => e.2.pred pa) grp.length)) s) :
    let here := fun h => (s.active g).filter fun e => s.fragOf e.2 == s.fragOf h
    let yes := fun h => ((here h).filter fun e => e.2.pred pa).length
    lanesDo i s g fun h h' => h.changes h' s.cur [] (h.setPred pd (v (yes h) (here h).length)).preds h.fpstat := by
  intro here yes
  refine lanesDo_of_crossOp he fun h => ?_
  rw [countP_present s _ h fun k => k.pred pa, length_present]
  exact h.writes_nil.changes_setPred s.cur pd rfl

end Sys2Proof.Machine

open Sys2Proof Sys2Proof.Machine

/-- Settles O20: each of the five is a move of its group, from the lane that it names. -/
theorem laneMoves : Obligations.LaneMoves := by
  unfold Obligations.LaneMoves
  intro s g d a b n t fz _ moves
  exact ⟨lanesDo_of_laneMove (fun h _ => some (low h b)) rfl, lanesDo_of_laneMove (fun _ l => some (l ^^^ n.toNat)) rfl,
    lanesDo_of_laneMove (fun _ l => if n.toNat ≤ l then some (l - n.toNat) else none) rfl,
    lanesDo_of_laneMove (fun _ l => some (l + n.toNat)) rfl, lanesDo_of_laneMove (fun _ _ => some n.toNat) rfl⟩

/-- Settles O21: two masks of lanes, the counts in one register, and three tests of them in a predicate. -/
theorem censusAndMatch : Obligations.CensusAndMatch := by
  unfold Obligations.CensusAndMatch
  intro s g d n a pa t _ here yes pd counted marks
  refine ⟨lanesDo_marks (fun _ k => k.pred pa) rfl, ?_, lanesDo_counted (fun c _ => decide (n.toNat + 1 ≤ c)) rfl,
    lanesDo_counted (fun c m => decide (m < 2 * c)) rfl, lanesDo_counted (fun c m => decide (c = m)) rfl,
    lanesDo_marks (fun h k => k.pattern a (t.getD .n32) == h.pattern a (t.getD .n32)) rfl⟩
  refine lanesDo_of_crossOp (F := fun grp h => h.setWord d.toNat (grp.countP (fun e => e.2.pred pa) + 256 * grp.length)) rfl fun h hd => ?_
  rw [countP_present s _ h fun k => k.pred pa, length_present]
  exact h.setWord_changes s.cur (yes h + 256 * (here h).length) hd

end

section
/-! PROOFS. What O22 says of the order of a reduction: the model's lists of lanes pass through the fixed tree of R206 and the steps of R207,
which join neighbouring lanes. -/

namespace Sys2Proof.Machine

variable {f : Nat → Nat → Nat × FFlags} {v : Nat → Nat} {n w : Nat}

/-! ### The fixed tree (R206) -/

/-- Step k of the tree. -/
def treeStep (f : Nat → Nat → Nat × FFlags) (w : Nat) (x : (Nat → Nat) × FFlags) (k : Nat) : (Nat → Nat) × FFlags :=
  (fun i => if i % (2 * 2 ^ k) = 0 then (f (x.1 i) (x.1 (i + 2 ^ k))).1 else x.1 i,
    (List.range (w / (2 * 2 ^ k))).foldl (fun fl j => fl ||| (f (x.1 (2 * 2 ^ k * j)) (x.1 (2 * 2 ^ k * j + 2 ^ k))).2) x.2)

/-- The lanes after k steps of the tree. -/
def treeAfter (f : Nat → Nat → Nat × FFlags) (w : Nat) (v : Nat → Nat) (k : Nat) : (Nat → Nat) × FFlags :=
  (List.range k).foldl (treeStep f w) (v, 0)

theorem treeOver_two_pow (f : Nat → Nat → Nat × FFlags) (n : Nat) (v : Nat → Nat) : treeOver f (2 ^ n) v = treeAfter f (2 ^ n) v n :=
  congrArg (treeAfter f (2 ^ n) v) Nat.log2_two_pow

theorem treeAfter_succ (f : Nat → Nat → Nat × FFlags) (w : Nat) (v : Nat → Nat) (k : Nat) :
    treeAfter f w v (k + 1) = treeStep f w (treeAfter f w v k) k := by
  rw [treeAfter, List.range_succ, List.foldl_append]
  rfl

theorem or_foldr_eq_foldl {β : Type} (F : β → FFlags) (l : List β) (fl : FFlags) :
    fl ||| l.foldr (fun j x => F j ||| x) 0 = l.foldl (fun x j => x ||| F j) fl := by
  induction l generalizing fl with
  | nil => exact BitVec.or_zero
  | cons j l ih => rw [List.foldr_cons, List.foldl_cons, ← ih, BitVec.or_assoc]

/-- One level of a list of an even length joins its neighbours. -/
theorem redLevel_range (f : Nat → Nat → Nat × FFlags) (m : Nat) : ∀ u : Nat → Nat, redLevel f ((List.range (2 * m)).map u) =
    ((List.range m).map fun j => (f (u (2 * j)) (u (2 * j + 1))).1, (List.range m).foldr (fun j x => (f (u (2 * j)) (u (2 * j + 1))).2 ||| x) 0) := by
  induction m with
  | zero => exact fun u => rfl
  | succ m ih =>
    intro u
    have hl : (List.range (2 * (m + 1))).map u = u 0 :: u 1 :: (List.range (2 * m)).map fun j => u (j + 2) := by
      rw [show 2 * (m + 1) = 2 * m + 1 + 1 by omega, List.range_succ_eq_map, List.range_succ_eq_map]
      simp [Function.comp_def]
    rw [hl, redLevel, ih, List.range_succ_eq_map, List.map_cons, List.map_map, List.foldr_cons, List.foldr_map]
    rfl

/-- One level with the flags so far. -/
def redStep (f : Nat → Nat → Nat × FFlags) (r : List Nat × FFlags) : List Nat × FFlags := ((redLevel f r.1).1, r.2 ||| (redLevel f r.1).2)

theorem redTree_eq_iterate (f : Nat → Nat → Nat × FFlags) (n : Nat) : ∀ r, redTree f n r = (redStep f)^[n] r := by
  induction n with
  | zero => exact fun r => rfl
  | succ n ih => exact fun r => ih (redStep f r)

/-- After k levels the list holds the lanes at the multiples of 2^k. -/
theorem redTree_range (f : Nat → Nat → Nat × FFlags) (n : Nat) (v : Nat → Nat) {k : Nat} (hk : k ≤ n) :
    redTree f k ((List.range (2 ^ n)).map v, 0) =
      ((List.range (2 ^ (n - k))).map fun j => (treeAfter f (2 ^ n) v k).1 (2 ^ k * j), (treeAfter f (2 ^ n) v k).2) := by
  rw [redTree_eq_iterate]
  induction k with
  | zero => simp [treeAfter]
  | succ k ih =>
    have hhalf : 2 ^ (n - k) = 2 * 2 ^ (n - (k + 1)) := by rw [← pow_succ']; congr 1; omega
    have hcount : 2 ^ n / (2 * 2 ^ k) = 2 ^ (n - (k + 1)) := by rw [← pow_succ', Nat.pow_div hk Nat.two_pos]
    rw [Function.iterate_succ_apply', ih (by omega), hhalf, redStep, redLevel_range, or_foldr_eq_foldl, treeAfter_succ, treeStep, hcount]
    have hpos : ∀ j, 2 ^ k * (2 * j) = 2 * 2 ^ k * j := fun j => by ring
    have hpos' : ∀ j, 2 ^ k * (2 * j + 1) = 2 * 2 ^ k * j + 2 ^ k := fun j => by ring
    simp only [hpos, hpos', pow_succ', Nat.mul_mod_right, if_true]

theorem redTree_eq_treeOver (f : Nat → Nat → Nat × FFlags) (n : Nat) (v : Nat → Nat) :
    redTree f n ((List.range (2 ^ n)).map v, 0) = ([(treeOver f (2 ^ n) v).1 0], (treeOver f (2 ^ n) v).2) := by
  rw [redTree_range f n v le_rfl, treeOver_two_pow, Nat.sub_self]
  rfl

/-! ### The steps of a scan (R207) -/

/-- Step k of a scan. -/
def scanStepOver (f : Nat → Nat → Nat × FFlags) (w : Nat) (x : (Nat → Nat) × FFlags) (k : Nat) : (Nat → Nat) × FFlags :=
  (fun l => if 2 ^ k ≤ l then (f (x.1 (l - 2 ^ k)) (x.1 l)).1 else x.1 l,
    (List.range (w - 2 ^ k)).foldl (fun fl j => fl ||| (f (x.1 j) (x.1 (j + 2 ^ k))).2) x.2)

/-- The lanes after k steps of a scan. -/
def scanAfter (f : Nat → Nat → Nat × FFlags) (w : Nat) (v : Nat → Nat) (k : Nat) : (Nat → Nat) × FFlags :=
  (List.range k).foldl (scanStepOver f w) (v, 0)

theorem scanOver_two_pow (f : Nat → Nat → Nat × FFlags) (n : Nat) (v : Nat → Nat) : scanOver f (2 ^ n) v = scanAfter f (2 ^ n) v n :=
  congrArg (scanAfter f (2 ^ n) v) Nat.log2_two_pow

theorem scanAfter_succ (f : Nat → Nat → Nat × FFlags) (w : Nat) (v : Nat → Nat) (k : Nat) :
    scanAfter f w v (k + 1) = scanStepOver f w (scanAfter f w v k) k := by
  rw [scanAfter, List.range_succ, List.foldl_append]
  rfl

theorem scanStep_range (f : Nat → Nat → Nat × FFlags) {e : Nat} (he : e ≤ w) (u : Nat → Nat) :
    scanStep f e ((List.range w).map u) = ((List.range w).map fun l => if e ≤ l then (f (u (l - e)) (u l)).1 else u l,
      (List.range (w - e)).foldl (fun fl j => fl ||| (f (u j) (u (j + e))).2) 0) := by
  have hz : List.zipWith f ((List.range w).map u) (((List.range w).map u).drop e) = (List.range (w - e)).map fun j => f (u j) (u (j + e)) := by
    refine List.ext_getElem (by simp) fun j h1 h2 => ?_
    simp [Nat.add_comm e j]
  rw [scanStep, hz, List.foldl_map, List.map_map]
  refine Prod.ext (List.ext_getElem (by simp; omega) fun l h1 h2 => ?_) rfl
  have hl : l < w := by simpa using h2
  by_cases hel : e ≤ l
  · rw [List.getElem_append_right (by simp; omega)]
    simp [he, hel]
  · rw [List.getElem_append_left (by simp; omega)]
    simp [hel]

/-- One step with the flags so far. -/
def scanStepTo (f : Nat → Nat → Nat × FFlags) (r : List Nat × FFlags) (e : Nat) : List Nat × FFlags :=
  ((scanStep f e r.1).1, r.2 ||| (scanStep f e r.1).2)

theorem scanAll_eq_foldl (f : Nat → Nat → Nat × FFlags) (es : List Nat) : ∀ r, scanAll f es r = es.foldl (scanStepTo f) r := by
  induction es with
  | nil => exact fun r => rfl
  | cons e es ih => exact fun r => ih (scanStepTo f r e)

theorem or_foldl_zero {β : Type} (F : β → FFlags) (l : List β) (fl : FFlags) :
    fl ||| l.foldl (fun x j => x ||| F j) 0 = l.foldl (fun x j => x ||| F j) fl := by
  rw [← or_foldr_eq_foldl, ← or_foldr_eq_foldl]
  exact congrArg (fl ||| ·) BitVec.zero_or

theorem scanAll_range (f : Nat → Nat → Nat × FFlags) (n : Nat) (v : Nat → Nat) {k : Nat} (hk : k ≤ n) :
    scanAll f ((List.range k).map fun i => 2 ^ i) ((List.range (2 ^ n)).map v, 0) =
      ((List.range (2 ^ n)).map (scanAfter f (2 ^ n) v k).1, (scanAfter f (2 ^ n) v k).2) := by
  rw [scanAll_eq_foldl, List.foldl_map]
  induction k with
  | zero => rfl
  | succ k ih =>
    rw [List.range_succ, List.foldl_append, ih (by omega), scanAfter_succ, List.foldl_cons, List.foldl_nil, scanStepTo,
      scanStep_range f (Nat.pow_le_pow_right Nat.two_pos (by omega)), or_foldl_zero]
    rfl

theorem scanAll_eq_scanOver (f : Nat → Nat → Nat × FFlags) (n : Nat) (v : Nat → Nat) :
    scanAll f ((List.range n).map fun i => 2 ^ i) ((List.range (2 ^ n)).map v, 0) =
      ((List.range (2 ^ n)).map (scanOver f (2 ^ n) v).1, (scanOver f (2 ^ n) v).2) := by
  rw [scanOver_two_pow, scanAll_range f n v le_rfl]

/-! ### What the tree and the steps join -/

/-- A value that comes of the values of a list, joined in their order with any bracketing; e of none. -/
inductive Joins (f : Nat → Nat → Nat × FFlags) (e : Nat) : List Nat → Nat → Prop
  | none : Joins f e [] e
  | one (x : Nat) : Joins f e [x] x
  | join {l m : List Nat} {x y : Nat} : Joins f e l x → Joins f e m y → Joins f e (l ++ m) (f x y).1

theorem treeAfter_joins (f : Nat → Nat → Nat × FFlags) (e w : Nat) (v : Nat → Nat) (k : Nat) :
    ∀ j, Joins f e ((List.range' (2 ^ k * j) (2 ^ k)).map v) ((treeAfter f w v k).1 (2 ^ k * j)) := by
  induction k with
  | zero => exact fun j => by simpa [treeAfter] using Joins.one (v j)
  | succ k ih =>
    intro j
    have hj := Joins.join (ih (2 * j)) (ih (2 * j + 1))
    have h0 : 2 ^ k * (2 * j) = 2 ^ (k + 1) * j := by ring
    have h1 : 2 ^ k * (2 * j + 1) = 2 ^ (k + 1) * j + 2 ^ k := by ring
    rw [h0, h1, ← List.map_append, List.range'_append_1, ← Nat.two_mul, ← pow_succ'] at hj
    rw [treeAfter_succ, treeStep]
    simpa only [← pow_succ', Nat.mul_mod_right, if_true] using hj

theorem treeOver_joins (f : Nat → Nat → Nat × FFlags) (e n : Nat) (v : Nat → Nat) :
    Joins f e ((List.range (2 ^ n)).map v) ((treeOver f (2 ^ n) v).1 0) := by
  have h := treeAfter_joins f e (2 ^ n) v n 0
  rwa [Nat.mul_zero, ← List.range_eq_range', ← treeOver_two_pow] at h

/-- After k steps a lane has joined the 2^k lanes up to its own. -/
theorem scanAfter_joins (f : Nat → Nat → Nat × FFlags) (e w : Nat) (v : Nat → Nat) (k : Nat) :
    ∀ l, Joins f e ((List.range' (l + 1 - 2 ^ k) (min (l + 1) (2 ^ k))).map v) ((scanAfter f w v k).1 l) := by
  induction k with
  | zero => exact fun l => by simpa [scanAfter] using Joins.one (v l)
  | succ k ih =>
    intro l
    have hp := pow_succ' 2 k
    rw [scanAfter_succ, scanStepOver]
    by_cases hl : 2 ^ k ≤ l
    · have hj := Joins.join (ih (l - 2 ^ k)) (ih l)
      rw [show l + 1 - 2 ^ k = l - 2 ^ k + 1 - 2 ^ k + min (l - 2 ^ k + 1) (2 ^ k) by omega, ← List.map_append, List.range'_append_1] at hj
      rw [show l + 1 - 2 ^ (k + 1) = l - 2 ^ k + 1 - 2 ^ k by omega,
        show min (l + 1) (2 ^ (k + 1)) = min (l - 2 ^ k + 1) (2 ^ k) + min (l + 1) (2 ^ k) by omega]
      simpa only [hl, if_true] using hj
    · rw [show l + 1 - 2 ^ (k + 1) = l + 1 - 2 ^ k by omega, show min (l + 1) (2 ^ (k + 1)) = min (l + 1) (2 ^ k) by omega]
      simpa only [hl, if_false] using ih l

theorem scanOver_joins (f : Nat → Nat → Nat × FFlags) (e n : Nat) (v : Nat → Nat) {l : Nat} (hl : l < 2 ^ n) :
    Joins f e ((List.range (l + 1)).map v) ((scanOver f (2 ^ n) v).1 l) := by
  have h := scanAfter_joins f e (2 ^ n) v n l
  rwa [Nat.sub_eq_zero_of_le hl, Nat.min_eq_left hl, ← List.range_eq_range', ← scanOver_two_pow] at h

end Sys2Proof.Machine
end

section
/-! PROOFS. What O22 says of REDUX and SCAN: what an integer operation joins is the fold over the lanes that are present (R206), and each lane
takes its result of the tree or the steps (R206, R207). -/

namespace Sys2Proof.Machine

variable {f : Nat → Nat → Nat × FFlags} {e n : Nat} {op : RedOp} {T : Fmt} {s : State} {g : Guard} {i : Instr} {h : Hart} {a : Src} {d : Reg}

/-! ### Joined values as folds -/

/-- The values of patterns under f are joined by an associative and commutative operation, of which that of e changes none. -/
structure Computes {α : Type} (f : Nat → Nat → Nat × FFlags) (e : Nat) (op : α → α → α) (φ : Nat → α) : Prop where
  assoc : ∀ x y z, op (op x y) z = op x (op y z)
  comm : ∀ x y, op x y = op y x
  value : ∀ x y, φ (f x y).1 = op (φ x) (φ y)
  ident : ∀ x, op (φ e) (φ x) = φ x

section
variable {α : Type} {op : α → α → α} {φ : Nat → α} (hc : Computes f e op φ)
include hc

theorem Computes.foldl_cons (x : Nat) (l : List Nat) :
    ((x :: l).map φ).foldl op (φ e) = op (φ x) ((l.map φ).foldl op (φ e)) := by
  have : Std.Associative op := ⟨hc.assoc⟩
  rw [List.map_cons, List.foldl_cons, hc.comm, List.foldl_assoc (op := op)]

theorem Computes.ident_foldl (l : List Nat) : op (φ e) ((l.map φ).foldl op (φ e)) = (l.map φ).foldl op (φ e) := by
  have : Std.Associative op := ⟨hc.assoc⟩
  rw [← List.foldl_assoc (op := op), hc.ident]

theorem Computes.foldl_append (l m : List Nat) :
    ((l ++ m).map φ).foldl op (φ e) = op ((l.map φ).foldl op (φ e)) ((m.map φ).foldl op (φ e)) := by
  induction l with
  | nil => exact (hc.ident_foldl m).symm
  | cons x l ih => rw [List.cons_append, hc.foldl_cons, ih, hc.foldl_cons, hc.assoc]

/-- The value of joined patterns is the fold of their values, whatever the bracketing. -/
theorem Computes.value_of_joins {l : List Nat} {x : Nat} (hj : Joins f e l x) : φ x = (l.map φ).foldl op (φ e) := by
  induction hj with
  | none => rfl
  | one x => exact (hc.ident x).symm
  | join _ _ hx hy => rw [hc.value, hx, hy, hc.foldl_append]

/-- Absent values do not count. -/
theorem Computes.foldl_present (o : Nat → Option Nat) (l : List Nat) :
    ((l.map fun i => (o i).getD e).map φ).foldl op (φ e) = ((l.filterMap o).map φ).foldl op (φ e) := by
  induction l with
  | nil => rfl
  | cons i l ih =>
    rw [List.map_cons, hc.foldl_cons, ih]
    cases hi : o i with
    | none => rw [List.filterMap_cons_none hi, Option.getD_none, hc.ident_foldl]
    | some x => rw [List.filterMap_cons_some hi, Option.getD_some, hc.foldl_cons]

end

/-! ### The integer operations (R206) -/

/-- The operation of an integer reduction on patterns. -/
def redInt (op : RedOp) (T : Fmt) (x y : Nat) : Nat :=
  match op with
  | .add => (x + y) % 2 ^ T.bits
  | .min => if decide (intOf T.bits T.signed y < intOf T.bits T.signed x) then y else x
  | .max => if decide (intOf T.bits T.signed y < intOf T.bits T.signed x) then x else y
  | .and => x &&& y
  | .or => x ||| y
  | .xor => x ^^^ y

/-- The identity of an integer reduction. -/
def intIdent (op : RedOp) (T : Fmt) : Nat :=
  match op with
  | .add | .or | .xor => 0
  | .and => 2 ^ T.bits - 1
  | .min => (fmtHi T % 2 ^ T.bits).toNat
  | .max => (fmtLo T % 2 ^ T.bits).toNat

theorem redBits_of_int (hT : T.isFloat = false) (op : RedOp) (x y : Nat) : redBits op T x y = (redInt op T x y, 0) :=
  (if_neg (by simp [hT])).trans (by cases op <;> rfl)

theorem redIdent_of_int (hT : T.isFloat = false) (op : RedOp) : redIdent op T = intIdent op T :=
  (if_neg (by simp [hT])).trans (by cases op <;> rfl)

/-- The patterns of the lanes, the identity where a lane is absent. -/
def lanesOr (s : State) (g : Guard) (op : RedOp) (a : Src) (T : Fmt) (h : Hart) (l : Nat) : Nat :=
  ((peer s g h l).map fun k => k.pattern a T).getD (redIdent op T)

/-- A joined result has the value of the fold over the lanes that are present. -/
theorem Computes.value_of_lanes {α : Type} {f' : α → α → α} {φ : Nat → α} (hc : Computes (redBits op T) (redIdent op T) f' φ) {x : Nat}
    (hj : Joins (redBits op T) (redIdent op T) ((List.range n).map (lanesOr s g op a T h)) x) :
    φ x = ((lanePats s g a T h n).map φ).foldl f' (φ (redIdent op T)) :=
  (hc.value_of_joins hj).trans (hc.foldl_present (fun l => (peer s g h l).map fun k : Hart => k.pattern a T) (List.range n))

theorem wrapTo_natCast (T : Fmt) (x : Nat) : wrapTo T x = intOf T.bits T.signed x := by
  rw [← intOf_toNat_emod]
  refine intOf_congr _ _ ?_
  have hx : ((x : Int) % 2 ^ 64).toNat = x % 2 ^ 64 := by omega
  rw [hx, Nat.mod_mod_of_dvd _ (Nat.pow_dvd_pow 2 (Fmt.bits_le T))]

theorem wrapTo_natCast_congr {x y : Nat} (hxy : x % 2 ^ T.bits = y % 2 ^ T.bits) : wrapTo T x = wrapTo T y := by
  rw [wrapTo_natCast, wrapTo_natCast, intOf_congr _ _ hxy]

theorem intOf_inRange (T : Fmt) (x : Nat) : Fmt.inRange T (intOf T.bits T.signed x) := by
  rw [Fmt.inRange, fmtLo, fmtHi]
  cases T.signed
  · have hx := Nat.mod_lt x (Nat.two_pow_pos T.bits)
    zify at hx
    simp only [intOf, Bool.false_and, Bool.false_eq_true, if_false]
    push_cast
    omega
  · have hx := intOf_signed_range (Fmt.bits_pos T) x
    rw [if_pos rfl, if_pos rfl]
    omega

theorem laneInts_eq (s : State) (g : Guard) (a : Src) (T : Fmt) (h : Hart) (n : Nat) :
    laneInts s g a T h n = (lanePats s g a T h n).map (intOf T.bits T.signed) := by
  have hk : ∀ k : Hart, k.readInt a T = intOf T.bits T.signed (k.pattern a T) := fun k => (intOf_mod _ _ _ le_rfl).symm
  simp only [laneInts, lanePats, List.map_filterMap, Option.map_map, Function.comp_def, hk]

theorem lanePats_mod (s : State) (g : Guard) (a : Src) (T : Fmt) (h : Hart) (n : Nat) :
    (lanePats s g a T h n).map (· % 2 ^ T.bits) = lanePats s g a T h n := by
  have hk : ∀ k : Hart, k.pattern a T % 2 ^ T.bits = k.pattern a T := fun k => Nat.mod_eq_of_lt (k.pattern_lt a T)
  simp only [lanePats, List.map_filterMap, Option.map_map, Function.comp_def, hk]

/-- Operations that act on the low bits alone. -/
theorem wrapTo_foldl_bits {b : Nat → Nat → Nat} {v : Nat} (hc : Computes (redBits op T) (redIdent op T) b (· % 2 ^ T.bits))
    (he : redIdent op T = v) (hv : v < 2 ^ T.bits) {x : Nat}
    (hj : Joins (redBits op T) (redIdent op T) ((List.range n).map (lanesOr s g op a T h)) x) :
    wrapTo T x = wrapTo T ((lanePats s g a T h n).foldl b v : Nat) := by
  have hx := hc.value_of_lanes hj
  rw [lanePats_mod, he, Nat.mod_eq_of_lt hv] at hx
  rw [← hx]
  exact wrapTo_natCast_congr (Nat.mod_mod _ _).symm

/-- Operations on the values that the patterns stand for. -/
theorem wrapTo_foldl_ints {b : Int → Int → Int} {v : Int} (hc : Computes (redBits op T) (redIdent op T) b (intOf T.bits T.signed))
    (he : intOf T.bits T.signed (redIdent op T) = v) {x : Nat}
    (hj : Joins (redBits op T) (redIdent op T) ((List.range n).map (lanesOr s g op a T h)) x) :
    wrapTo T x = wrapTo T ((laneInts s g a T h n).foldl b v) := by
  have hx := hc.value_of_lanes hj
  rw [← laneInts_eq, he] at hx
  rw [← hx, wrapTo_of_inRange (intOf_inRange T x), wrapTo_natCast]

theorem intOf_toNat_emod_bits {v : Int} (hv : Fmt.inRange T v) : intOf T.bits T.signed (v % 2 ^ T.bits).toNat = v := by
  have hp : (0 : Int) < 2 ^ T.bits := by positivity
  rw [← wrapTo_natCast, Int.toNat_of_nonneg (Int.emod_nonneg v hp.ne'), wrapTo_congr (Int.emod_emod_of_dvd v dvd_rfl), wrapTo_of_inRange hv]

/-! ### The six reductions -/

theorem computes_add (hT : T.isFloat = false) :
    Computes (redBits .add T) (redIdent .add T) (· + ·) (fun x => (x : ZMod (2 ^ T.bits))) where
  assoc := add_assoc
  comm := add_comm
  value x y := by
    rw [redBits_of_int hT]
    exact (ZMod.natCast_mod (x + y) (2 ^ T.bits)).trans (Nat.cast_add x y)
  ident x := by
    rw [redIdent_of_int hT, intIdent, Nat.cast_zero, zero_add]

theorem computes_min (hT : T.isFloat = false) : Computes (redBits .min T) (redIdent .min T) min (intOf T.bits T.signed) where
  assoc := min_assoc
  comm := min_comm
  value x y := by
    rw [redBits_of_int hT, redInt]
    by_cases hlt : intOf T.bits T.signed y < intOf T.bits T.signed x
    · rw [if_pos (by simpa using hlt), min_eq_right hlt.le]
    · rw [if_neg (by simpa using hlt), min_eq_left (not_lt.mp hlt)]
  ident x := by
    rw [redIdent_of_int hT, intIdent, intOf_toNat_emod_bits ⟨fmtLo_le_fmtHi T, le_rfl⟩, min_eq_right (intOf_inRange T x).2]

theorem computes_max (hT : T.isFloat = false) : Computes (redBits .max T) (redIdent .max T) max (intOf T.bits T.signed) where
  assoc := max_assoc
  comm := max_comm
  value x y := by
    rw [redBits_of_int hT, redInt]
    by_cases hlt : intOf T.bits T.signed y < intOf T.bits T.signed x
    · rw [if_pos (by simpa using hlt), max_eq_left hlt.le]
    · rw [if_neg (by simpa using hlt), max_eq_right (not_lt.mp hlt)]
  ident x := by
    rw [redIdent_of_int hT, intIdent, intOf_toNat_emod_bits ⟨le_rfl, fmtLo_le_fmtHi T⟩, max_eq_right (intOf_inRange T x).1]

theorem computes_and (hT : T.isFloat = false) : Computes (redBits .and T) (redIdent .and T) (· &&& ·) (· % 2 ^ T.bits) where
  assoc := Nat.and_assoc
  comm := Nat.and_comm
  value x y := by
    rw [redBits_of_int hT]
    exact Nat.and_mod_two_pow
  ident x := by
    rw [redIdent_of_int hT, intIdent, Nat.mod_eq_of_lt (Nat.sub_lt (Nat.two_pow_pos _) Nat.one_pos), Nat.and_comm,
      Nat.and_two_pow_sub_one_eq_mod, Nat.mod_mod]

theorem computes_or (hT : T.isFloat = false) : Computes (redBits .or T) (redIdent .or T) (· ||| ·) (· % 2 ^ T.bits) where
  assoc := Nat.or_assoc
  comm := Nat.or_comm
  value x y := by
    rw [redBits_of_int hT]
    exact Nat.or_mod_two_pow
  ident x := by
    rw [redIdent_of_int hT, intIdent, Nat.zero_mod, Nat.zero_or]

theorem computes_xor (hT : T.isFloat = false) : Computes (redBits .xor T) (redIdent .xor T) (· ^^^ ·) (· % 2 ^ T.bits) where
  assoc := Nat.xor_assoc
  comm := Nat.xor_comm
  value x y := by
    rw [redBits_of_int hT]
    exact Nat.xor_mod_two_pow
  ident x := by
    rw [redIdent_of_int hT, intIdent, Nat.zero_mod, Nat.zero_xor]

theorem intCast_intOf (n : Nat) (q : Bool) (y : Nat) : ((intOf n q y : Int) : ZMod (2 ^ n)) = y := by
  have hy : intOf n q y % (2 ^ n : Nat) = (y % 2 ^ n : Nat) := by
    rw [← intOf_emod n q y, Int.toNat_of_nonneg (Int.emod_nonneg _ (by positivity)), Nat.cast_pow, Nat.cast_ofNat]
  rw [← ZMod.intCast_mod, hy, Int.cast_natCast, ZMod.natCast_mod]

/-- A sum of patterns modulo 2^n is that of the values that they stand for. -/
theorem wrapTo_foldl_add (hT : T.isFloat = false) {x : Nat}
    (hj : Joins (redBits .add T) (redIdent .add T) ((List.range n).map (lanesOr s g .add a T h)) x) :
    wrapTo T x = wrapTo T ((laneInts s g a T h n).foldl (· + ·) 0) := by
  have hx : (x : ZMod (2 ^ T.bits)) = ((lanePats s g a T h n).map fun y : Nat => (y : ZMod (2 ^ T.bits))).sum := by
    rw [(computes_add hT).value_of_lanes hj, redIdent_of_int hT, intIdent, Nat.cast_zero, List.sum_eq_foldl]
  have hsum : ((x : Int) : ZMod (2 ^ T.bits)) = ((laneInts s g a T h n).sum : Int) := by
    rw [Int.cast_natCast, hx, Int.cast_list_sum, laneInts_eq, List.map_map]
    exact congrArg List.sum (List.map_congr_left fun y _ => (intCast_intOf T.bits T.signed y).symm)
  have hmod := (ZMod.intCast_eq_intCast_iff' _ _ _).mp hsum
  rw [Nat.cast_pow, Nat.cast_ofNat] at hmod
  rw [← List.sum_eq_foldl]
  exact wrapTo_congr hmod

/-- Lanes joined by an integer operation are its fold over those that are present. -/
theorem wrapTo_reduced (hT : T.isFloat = false) (op : RedOp) {x : Nat}
    (hj : Joins (redBits op T) (redIdent op T) ((List.range n).map (lanesOr s g op a T h)) x) : wrapTo T x = wrapTo T (reduced s g op a T h n) := by
  have hident := redIdent_of_int hT op
  have hpos := Nat.two_pow_pos T.bits
  cases op with
  | add => exact wrapTo_foldl_add hT hj
  | min => exact wrapTo_foldl_ints (computes_min hT) (hident ▸ intOf_toNat_emod_bits ⟨fmtLo_le_fmtHi T, le_rfl⟩) hj
  | max => exact wrapTo_foldl_ints (computes_max hT) (hident ▸ intOf_toNat_emod_bits ⟨le_rfl, fmtLo_le_fmtHi T⟩) hj
  | and => exact wrapTo_foldl_bits (computes_and hT) hident (Nat.sub_lt hpos Nat.one_pos) hj
  | or => exact wrapTo_foldl_bits (computes_or hT) hident hpos hj
  | xor => exact wrapTo_foldl_bits (computes_xor hT) hident hpos hj

/-! ### Flags of integer operations -/

theorem foldl_or_zero {β : Type} {F : β → FFlags} (hF : ∀ j, F j = 0) (l : List β) (fl : FFlags) : l.foldl (fun x j => x ||| F j) fl = fl := by
  induction l with
  | nil => rfl
  | cons j l ih =>
    rw [List.foldl_cons, hF j, show fl ||| 0 = fl from BitVec.or_zero, ih]

theorem treeOver_flags (hf : ∀ x y, (f x y).2 = 0) (w : Nat) (v : Nat → Nat) : (treeOver f w v).2 = 0 := by
  suffices ∀ k, (treeAfter f w v k).2 = 0 from this _
  intro k
  induction k with
  | zero => rfl
  | succ k ih => rw [treeAfter_succ, treeStep, foldl_or_zero (fun j => hf ..), ih]

theorem scanOver_flags (hf : ∀ x y, (f x y).2 = 0) (w : Nat) (v : Nat → Nat) : (scanOver f w v).2 = 0 := by
  suffices ∀ k, (scanAfter f w v k).2 = 0 from this _
  intro k
  induction k with
  | zero => rfl
  | succ k ih => rw [scanAfter_succ, scanStepOver, foldl_or_zero (fun j => hf ..), ih]

/-! ### REDUX and SCAN at any type -/

/-- A lane's pattern of a type in its registers, with the flags gathered. -/
def writesPattern (c : Issue) (d : Reg) (T : Fmt) (r : Nat × FFlags) (h h' : Hart) : Prop :=
  h.fits d (fmtRuns T) → h.changes h' c (h.run d (fmtRuns T)) h.preds (h.fpstat ||| r.2) ∧ h'.holds d.toNat T (wrapTo T r.1)

theorem Hart.writePattern_writes (h : Hart) (c : Issue) (d : Reg) (T : Fmt) (r : Nat × FFlags) :
    writesPattern c d T r h (({ h.writePattern d.toNat T r.1 with fpstat := h.fpstat ||| r.2 } : Hart).advance c) := fun hd =>
  ⟨((h.writes_writeInt d.toNat T false r.1).gathered _).changes c,
    (Hart.holds_advance _ c).mpr ((Hart.holds_congr rfl fun _ _ => rfl).mpr (h.holds_writeInt false r.1 hd))⟩

/-- A result without flags is a value of the type. -/
theorem writesPattern.int {c : Issue} {r : Nat × FFlags} {h' : Hart} {v : Int} (hw : writesPattern c d T r h h')
    (hr : r.2 = 0 ∧ wrapTo T r.1 = wrapTo T v) :
    h.fits d (fmtRuns T) → h.changes h' c (h.run d (fmtRuns T)) h.preds h.fpstat ∧ h'.holds d.toNat T (wrapTo T v) := by
  intro hd
  have hw := hw hd
  rwa [hr.1, hr.2, show h.fpstat ||| 0 = h.fpstat from BitVec.or_zero] at hw

/-- A result of a type that takes one register. -/
theorem writesPattern.word {c : Issue} {r : Nat × FFlags} {h' : Hart} (hw : writesPattern c d T r h h') (hT : fmtRuns T = 1) :
    h.fits d 1 → h.changes h' c [d.toNat] h.preds (h.fpstat ||| r.2) ∧ h'.holds d.toNat T (wrapTo T r.1) := by
  rwa [writesPattern, hT, Hart.run_one] at hw

theorem lanesDo.mono {P Q : Hart → Hart → Prop} (hi : lanesDo i s g P) (hPQ : ∀ h h', P h h' → Q h h') : lanesDo i s g Q := by
  obtain ⟨F, he, hF⟩ := hi
  refine ⟨F, he, fun h => ?_⟩
  have hh := hF h
  split
  · next ht => exact hPQ h _ (by rwa [if_pos ht] at hh)
  · next ht => rwa [if_neg ht] at hh

theorem laneValues_present (s : State) (g : Guard) (op : RedOp) (a : Src) (T : Fmt) (h : Hart) (w : Nat) :
    laneValues op a T w (s.present (s.active g) h) = (List.range w).map (lanesOr s g op a T h) := by
  rw [laneValues, funext (presentLane_present s g h)]
  rfl

/-- What the tree leaves in lane 0, with all its flags. -/
def reduxOf (s : State) (g : Guard) (op : RedOp) (a : Src) (T : Fmt) (h : Hart) : Nat × FFlags :=
  let r := treeOver (redBits op T) (s.widthOf h) (lanesOr s g op a T h)
  (r.1 0, r.2)

theorem lanesDo_redux (s : State) (g : Guard) (op : RedOp) (d : Reg) (a : Src) (t : Option Fmt) :
    lanesDo (.redux g op d a t) s g fun h h' => writesPattern s.cur d (t.getD .i32) (reduxOf s g op a (t.getD .i32) h) h h' := by
  set T := t.getD .i32
  refine lanesDo_of_crossOp (F := fun grp h =>
    let r := redTree (redBits op T) (Nat.log2 (s.widthOf h)) (laneValues op a T (s.widthOf h) grp, 0)
    { h.writePattern d.toNat T (r.1.headD 0) with fpstat := h.fpstat ||| r.2 }) rfl fun h => ?_
  obtain ⟨n, -, hn⟩ := s.widthOf_eq_two_pow h
  have hr : redTree (redBits op T) (Nat.log2 (s.widthOf h)) (laneValues op a T (s.widthOf h) (s.present (s.active g) h), 0)
      = ([(reduxOf s g op a T h).1], (reduxOf s g op a T h).2) := by
    rw [laneValues_present, reduxOf, hn, Nat.log2_two_pow, redTree_eq_treeOver]
  simp only [hr]
  exact h.writePattern_writes s.cur d T _

/-- What a scan leaves in lane l of the values that its steps end with: its own, or that of the lane below under .ex. -/
def scanResult (ex : Bool) (e : Nat) (u : Nat → Nat) (l : Nat) : Nat := if ex then (if l = 0 then e else u (l - 1)) else u l

theorem getD_scanned (ex : Bool) (e : Nat) (u : Nat → Nat) {l w : Nat} (hl : l < w) :
    (if ex then e :: (List.range w).map u else (List.range w).map u).getD l 0 = scanResult ex e u l := by
  cases ex
  · simp [scanResult, List.getD_eq_getElem?_getD, hl]
  · cases l with
    | zero => rfl
    | succ l => simp [scanResult, List.getD_eq_getElem?_getD, Nat.lt_of_succ_lt hl]

/-- What the steps of a scan leave in a lane, with all their flags. -/
def scanOf (s : State) (g : Guard) (op : RedOp) (a : Src) (T : Fmt) (ex : Bool) (h : Hart) : Nat × FFlags :=
  let r := scanOver (redBits op T) (s.widthOf h) (lanesOr s g op a T h)
  (scanResult ex (redIdent op T) r.1 (s.laneOf h), r.2)

theorem lanesDo_scan (s : State) (g : Guard) (op : RedOp) (d : Reg) (a : Src) (t : Option Fmt) (ex : Bool) :
    lanesDo (.scan g op d a t ex) s g fun h h' => writesPattern s.cur d (t.getD .i32) (scanOf s g op a (t.getD .i32) ex h) h h' := by
  set T := t.getD .i32
  refine lanesDo_of_crossOp (F := fun grp h =>
    let r := scanAll (redBits op T) ((List.range (Nat.log2 (s.widthOf h))).map fun i => 2 ^ i) (laneValues op a T (s.widthOf h) grp, 0)
    let out := if ex then redIdent op T :: r.1 else r.1
    { h.writePattern d.toNat T (out.getD (s.laneOf h) 0) with fpstat := h.fpstat ||| r.2 }) rfl fun h => ?_
  obtain ⟨n, -, hn⟩ := s.widthOf_eq_two_pow h
  have hr : scanAll (redBits op T) ((List.range (Nat.log2 (s.widthOf h))).map fun i => 2 ^ i)
      (laneValues op a T (s.widthOf h) (s.present (s.active g) h), 0)
      = ((List.range (s.widthOf h)).map (scanOver (redBits op T) (s.widthOf h) (lanesOr s g op a T h)).1, (scanOf s g op a T ex h).2) := by
    rw [laneValues_present, scanOf, hn, Nat.log2_two_pow, scanAll_eq_scanOver]
  simp only [hr, getD_scanned ex _ _ (s.laneOf_lt_widthOf h)]
  exact h.writePattern_writes s.cur d T (scanOf s g op a T ex h)

/-! ### Integer types -/

/-- The tree leaves in lane 0 the reduction of the whole group. -/
theorem reduxOf_int (hT : T.isFloat = false) (s : State) (g : Guard) (op : RedOp) (a : Src) (h : Hart) :
    (reduxOf s g op a T h).2 = 0 ∧ wrapTo T (reduxOf s g op a T h).1 = wrapTo T (reduced s g op a T h (s.widthOf h)) := by
  obtain ⟨n, -, hn⟩ := s.widthOf_eq_two_pow h
  refine ⟨treeOver_flags (fun x y => by rw [redBits_of_int hT]) .., wrapTo_reduced hT op ?_⟩
  rw [reduxOf, hn]
  exact treeOver_joins ..

/-- The steps leave in a lane the reduction of the lanes up to its own, or below it under .ex. -/
theorem scanOf_int (hT : T.isFloat = false) (s : State) (g : Guard) (op : RedOp) (a : Src) (ex : Bool) (h : Hart) :
    (scanOf s g op a T ex h).2 = 0
      ∧ wrapTo T (scanOf s g op a T ex h).1 = wrapTo T (reduced s g op a T h (if ex then s.laneOf h else s.laneOf h + 1)) := by
  obtain ⟨n, -, hn⟩ := s.widthOf_eq_two_pow h
  have hl := s.laneOf_lt_widthOf h
  refine ⟨scanOver_flags (fun x y => by rw [redBits_of_int hT]) .., wrapTo_reduced hT op ?_⟩
  rw [scanOf, hn]
  rw [hn] at hl
  cases ex with
  | false => exact scanOver_joins _ _ n _ hl
  | true =>
    generalize s.laneOf h = l at hl ⊢
    cases l with
    | zero => exact Joins.none
    | succ l => exact scanOver_joins _ _ n _ (Nat.lt_of_succ_lt hl)

theorem isFloat_of_intFmts {t : Option Fmt} (ht : tyIn t intFmts = true) : (t.getD .i32).isFloat = false := by
  cases t with
  | none => rfl
  | some T => cases T <;> simp_all [tyIn, intFmts, Fmt.isFloat]

/-! ### Floating types -/

section
variable (hT : T.isFloat = true) (ho : op = .add ∨ op = .min ∨ op = .max)
include hT ho

theorem redBits_of_float : redBits op T = floatOp op T := by
  funext x y
  refine (if_pos hT).trans ?_
  rcases ho with rfl | rfl | rfl <;> rfl

theorem redIdent_of_float : redIdent op T = floatIdent op T := by
  refine (if_pos hT).trans ?_
  rcases ho with rfl | rfl | rfl <;> rfl

theorem lanesOr_of_float (s : State) (g : Guard) (a : Src) (h : Hart) : lanesOr s g op a T h = floatLanes s g op a T h := by
  funext l
  rw [lanesOr, floatLanes, redIdent_of_float hT ho]

end

theorem fmtRuns_of_float (hT : T.isFloat = true) : fmtRuns T = 1 := by
  cases T <;> simp_all [fmtRuns, Fmt.isFloat, Fmt.bits]

end Sys2Proof.Machine

open Sys2Proof Sys2Proof.Machine

/-- Settles O22: REDUX and SCAN go through the tree and the steps, where integer operations come to the folds. -/
theorem reductionsAndScans : Obligations.ReductionsAndScans := by
  unfold Obligations.ReductionsAndScans
  intro s g op d a t ex T
  have hredux := lanesDo_redux s g op d a t
  have hscan := lanesDo_scan s g op d a t ex
  refine ⟨fun ht => ?_, fun hT ho => ?_⟩
  · have hT := isFloat_of_intFmts ht
    exact ⟨hredux.mono fun h h' hw => hw.int (reduxOf_int hT s g op a h), hscan.mono fun h h' hw => hw.int (scanOf_int hT s g op a ex h)⟩
  · have h1 := fmtRuns_of_float hT
    refine ⟨hredux.mono fun h h' hw => ?_, hscan.mono fun h h' hw => ?_⟩
    · rw [← redBits_of_float hT ho, ← lanesOr_of_float hT ho]
      exact hw.word h1
    · have hw := hw.word h1
      rw [scanOf, scanResult, redBits_of_float hT ho, redIdent_of_float hT ho, lanesOr_of_float hT ho] at hw
      simpa only [Nat.cast_ite] using hw

end

section
/-! PROOFS. What O26 and O28 say of the seams of a wave (R218 to R222): SEAM opens a fragment's seam, and a seam whose members have all
arrived releases them. -/

namespace Sys2Proof.Machine

variable {s t u : State} {v v' : Wave} {core w key : Nat} {n : BitVec 4}

/-! ### Seam registers of a wave (R218) -/

/-- Seam register n of the fragment with a key. -/
def Wave.seam (v : Wave) (key : Nat) (n : BitVec 4) : Seam := (v.frag key).seams.toList.getD n.toNat {}

theorem Wave.frag_setFrag (v : Wave) (key j : Nat) (f : Fragment) : (v.setFrag key f).frag j = if j = key then f else v.frag j := by
  rw [Wave.frag, Wave.setFrag, KMap.get?_set]
  split <;> rfl

/-- A change of one seam register leaves the others, of this fragment and of every other. -/
theorem Wave.seam_setFrag_modSeam (v : Wave) (key j : Nat) (n k : BitVec 4) (g : Seam → Seam) :
    (v.setFrag key ((v.frag key).modSeam n g)).seam j k = if j = key ∧ k = n then g (v.seam key n) else v.seam j k := by
  rw [Wave.seam, Wave.frag_setFrag]
  by_cases hj : j = key
  · subst hj
    by_cases hk : k = n
    · subst hk
      simp [Fragment.modSeam, Wave.seam, List.getD_eq_getElem?_getD, k.isLt]
    · have hne : n.toNat ≠ k.toNat := fun e => hk (BitVec.eq_of_toNat_eq e.symm)
      simp [Fragment.modSeam, Wave.seam, List.getD_eq_getElem?_getD, hk, hne]
  · simp [Wave.seam, hj]

/-! ### Completion (R222) -/

/-- A thread that the seam m of its fragment, with number n, releases: one that has arrived at it. -/
def State.freedAt (s : State) (key : Nat) (n : BitVec 4) (m : Seam) (e : Nat × Hart) : Nat × Hart :=
  if s.fragOf e.2 == key && m.arr.getLsbD (s.laneOf e.2) then (e.1, freed n m e.2) else e

/-- A wave of which one seam has closed and released the lanes that have arrived at it. -/
def State.closedSeam (s : State) (v : Wave) (key : Nat) (n : BitVec 4) : Wave :=
  { v.setFrag key ((v.frag key).modSeam n fun m => { m with opened := false, arr := 0 }) with
    lanes := v.lanes.map (s.freedAt key n (v.seam key n)) }

theorem State.closedSeam_seam (s : State) (v : Wave) (key j : Nat) (n k : BitVec 4) : (s.closedSeam v key n).seam j k =
    if j = key ∧ k = n then { v.seam key n with opened := false, arr := 0 } else v.seam j k :=
  v.seam_setFrag_modSeam key j n k _

section
variable (hv : s.wave? core w = some v)
include hv

theorem State.completeSeam_eq (force : Bool) : s.completeSeam core w key n force =
    if (v.seam key n).opened && (v.seam key n).mask == 0 && !force then
      s.modWave core w fun u => u.setFrag key ((v.frag key).modSeam n fun m => { m with opened := false })
    else if (v.seam key n).opened && (v.seam key n).arr != 0 && (force || (v.seam key n).arr == (v.seam key n).mask) then
      s.modWave core w fun _ => s.closedSeam v key n
    else s := by
  simp only [State.completeSeam, hv]
  rfl

theorem State.completeSeam_of_closed (h : (v.seam key n).opened = false) (force : Bool) : s.completeSeam core w key n force = s := by
  simp [State.completeSeam_eq hv, h]

theorem State.completeSeam_of_out (hm : (v.seam key n).mask ≠ 0) (ha : (v.seam key n).arr ≠ (v.seam key n).mask) :
    s.completeSeam core w key n false = s := by
  rw [State.completeSeam_eq hv, if_neg (by simpa using fun _ => hm), if_neg (by simp [ha])]

/-- A forced completion of a seam at which no lane has arrived. -/
theorem State.completeSeam_of_empty (ha : (v.seam key n).arr = 0) : s.completeSeam core w key n true = s := by
  simp [State.completeSeam_eq hv, ha]

/-- A forced completion, and one of a seam whose members have all arrived, where some have. -/
theorem State.completeSeam_of_arrived {force : Bool} (ho : (v.seam key n).opened = true) (ha : (v.seam key n).arr ≠ 0)
    (hf : force = true ∨ (v.seam key n).arr = (v.seam key n).mask) :
    s.completeSeam core w key n force = s.modWave core w fun _ => s.closedSeam v key n := by
  rw [State.completeSeam_eq hv]
  rcases hf with rfl | hf
  · rw [if_neg (by simp), if_pos (by simpa [ho] using ha)]
  · rw [if_neg (by simpa [← hf] using fun _ h => absurd h ha), if_pos (by simpa [ho, ← hf] using ha)]

end

/-! ### The lowest lane (R220) -/

section
variable {α : Type} {key : α → Nat}

theorem head?_insertBy (x : α) (l : List α) :
    (insertBy key x l).head? = some (match l with | [] => x | y :: _ => if key x < key y then x else y) := by
  cases l with
  | nil => rfl
  | cons y l =>
    unfold insertBy
    dsimp only
    split <;> rfl

theorem sortBy_append_singleton (l : List α) (x : α) : sortBy key (l ++ [x]) = insertBy key x (sortBy key l) := by
  rw [sortBy, List.foldl_append]
  rfl

/-- The head of a sorted list is an entry of a least key. -/
theorem head?_sortBy_least {y : α} {l : List α} (h : (sortBy key l).head? = some y) : y ∈ l ∧ ∀ z ∈ l, key y ≤ key z := by
  induction l using List.reverseRecOn generalizing y with
  | nil => cases h
  | append_singleton l x ih =>
    rw [sortBy_append_singleton, head?_insertBy, Option.some.injEq] at h
    cases hs : sortBy key l with
    | nil =>
      obtain rfl : l = [] := not_ne_iff.mp fun hne => sortBy_ne_nil key hne hs
      obtain rfl : x = y := h
      simp
    | cons a rest =>
      obtain ⟨ha, hle⟩ := ih (y := a) (by rw [hs]; rfl)
      rw [hs] at h
      by_cases hlt : key x < key a
      · obtain rfl : x = y := (if_pos hlt).symm.trans h
        exact ⟨by simp, List.forall_mem_append.mpr ⟨fun z hz => (hlt.trans_le (hle z hz)).le, by simp⟩⟩
      · obtain rfl : a = y := (if_neg hlt).symm.trans h
        exact ⟨by simp [ha], List.forall_mem_append.mpr ⟨hle, by simpa using hlt⟩⟩

/-- An entry with a key below all others is the head. -/
theorem head?_sortBy_eq {x : α} {l : List α} (hx : x ∈ l) (hl : ∀ y ∈ l, y ≠ x → key x < key y) : (sortBy key l).head? = some x := by
  obtain ⟨y, rest, hs⟩ := List.exists_cons_of_ne_nil (sortBy_ne_nil key (List.ne_nil_of_mem hx))
  obtain ⟨hy, hle⟩ := head?_sortBy_least (key := key) (l := l) (y := y) (by rw [hs]; rfl)
  rw [hs, List.head?_cons]
  by_contra hne
  exact Nat.not_lt.mpr (hle x hx) (hl y hy fun e => hne (congrArg some e))

end

theorem nodup_eraseDups (l : List Nat) : l.eraseDups.Nodup := by
  cases l with
  | nil => exact List.nodup_nil
  | cons a l =>
    rw [List.eraseDups_cons, List.nodup_cons]
    exact ⟨by simp, nodup_eraseDups _⟩
termination_by l.length
decreasing_by exact Nat.lt_succ_of_le (List.length_filter_le _ l)

/-- An entry of a table without repeated keys is what its key reads as. -/
theorem KMap.get?_of_mem {α : Type} {m : KMap α} (hd : (m.map Prod.fst).Nodup) {k : Nat} {x : α} (h : (k, x) ∈ m) : m.get? k = some x := by
  induction m with
  | nil => cases h
  | cons e m ih =>
    obtain ⟨j, y⟩ := e
    obtain ⟨hj, hd⟩ := List.nodup_cons.mp hd
    rcases List.mem_cons.mp h with he | hm
    · obtain ⟨rfl, rfl⟩ := Prod.mk.inj he
      exact if_pos rfl
    · have hne : j ≠ k := fun e => hj (List.mem_map.mpr ⟨_, hm, e.symm⟩)
      exact (if_neg hne).trans (ih hd hm)

/-! ### SEAM on one fragment (R220) -/

/-- The lowest logical lane of a list. -/
def State.lowest (s : State) (e : List (Nat × Hart)) : Option (Nat × Hart) := (sortBy (fun x : Nat × Hart => s.laneOf x.2) e).head?

theorem State.exists_lowest (s : State) {e : List (Nat × Hart)} (he : e ≠ []) : ∃ low ∈ e, s.lowest e = some low := by
  obtain ⟨low, rest, hs⟩ := List.exists_cons_of_ne_nil (sortBy_ne_nil (fun x : Nat × Hart => s.laneOf x.2) he)
  have hlow : s.lowest e = some low := by rw [State.lowest, hs]; rfl
  exact ⟨low, (head?_sortBy_least hlow).1, hlow⟩

/-- The lanes of a list as a mask. -/
def State.lanesMask (s : State) (e : List (Nat × Hart)) : DWord := e.foldl (fun m x => setBits m (s.laneOf x.2) 1 1) 0

theorem State.getLsbD_lanesMask (s : State) (e : List (Nat × Hart)) {i : Nat} (hi : i < 64) :
    (s.lanesMask e).getLsbD i = e.any fun x => s.laneOf x.2 == i := by
  induction e using List.reverseRecOn with
  | nil => simp [State.lanesMask]
  | append_singleton e x ih =>
    rw [State.lanesMask, List.foldl_append, List.foldl_cons, List.foldl_nil, getLsbD_setBits _ _ _ _ _ hi, List.any_append, ← ih]
    by_cases hx : s.laneOf x.2 = i
    · subst hx; simp
    · have hout : ¬(s.laneOf x.2 ≤ i ∧ i < s.laneOf x.2 + 1) := by omega
      rw [if_neg hout]
      simp [hx, State.lanesMask]

/-- A seam that SEAM has opened with a mask; the lane whose seam becomes the parent is `low`. -/
def Seam.openedBy (m : Seam) (n : BitVec 4) (low : Hart) (mask : DWord) : Seam :=
  { mask, arr := 0, opened := true, parent := if low.scv && low.scur != n then low.scur else m.parent
    hasp := if low.scv then (if low.scur = n then m.hasp else true) else false }

/-- A lane that takes part becomes a member of the seam. -/
def memberOf (n : BitVec 4) (e : List (Nat × Hart)) (l : Nat) (h : Hart) : Hart :=
  if e.any fun x => x.1 == l then { h with scur := n, scv := true } else h

/-- What SEAM makes of a lane in a fragment where it acts: an open seam releases it if it has arrived, and a lane that takes part
becomes a member. -/
def State.seamLane (s : State) (m : Seam) (n : BitVec 4) (e : List (Nat × Hart)) (x : Nat × Hart) : Hart :=
  memberOf n e x.1 (if m.opened && m.arr.getLsbD (s.laneOf x.2) then freed n m x.2 else x.2)

/-- What names a thread, and so its fragment and its lane there, is the same of two threads. -/
def Hart.sameName (h h' : Hart) : Prop := h'.spwn = h.spwn ∧ h'.tid = h.tid ∧ h'.ordinal = h.ordinal ∧ h'.launch = h.launch

theorem freed_sameName (n : BitVec 4) (m : Seam) (h : Hart) : h.sameName (freed n m h) := by
  unfold freed
  dsimp only
  split
  · split <;> exact ⟨rfl, rfl, rfl, rfl⟩
  · exact ⟨rfl, rfl, rfl, rfl⟩

theorem memberOf_sameName (n : BitVec 4) (e : List (Nat × Hart)) (l : Nat) (h : Hart) : h.sameName (memberOf n e l h) := by
  unfold memberOf
  split <;> exact ⟨rfl, rfl, rfl, rfl⟩

theorem Hart.sameName.fragOf {h h' : Hart} (hn : h.sameName h') (s : State) : s.fragOf h' = s.fragOf h := by
  obtain ⟨h1, h2, h3, h4⟩ := hn
  simp only [State.fragOf, State.widthOf, h1, h2, h3, h4]

theorem State.fragOf_seamLane (s : State) (m : Seam) (n : BitVec 4) (e : List (Nat × Hart)) (x : Nat × Hart) :
    s.fragOf (s.seamLane m n e x) = s.fragOf x.2 := by
  refine ((memberOf_sameName n e x.1 _).fragOf s).trans ?_
  split
  · exact (freed_sameName n m x.2).fragOf s
  · rfl

theorem State.coresOnly.completeSeam (h : s.coresOnly t) {force : Bool} : s.coresOnly (t.completeSeam core w key n force) := by
  unfold State.completeSeam
  split
  · exact h
  · exact .ite h.modCore (.ite h.modCore h)

/-- The second wave differs from the first in the seam standing of its lanes and in one seam, which keeps its parent: an open seam has
released the lanes that have arrived at it. -/
structure State.seamReleased (s : State) (v v' : Wave) (key : Nat) (n : BitVec 4) : Prop where
  lanes : v'.lanes = v.lanes.map fun x => if (v.seam key n).opened then s.freedAt key n (v.seam key n) x else x
  parent : (v'.seam key n).parent = (v.seam key n).parent
  hasp : (v'.seam key n).hasp = (v.seam key n).hasp
  others : ∀ j k, ¬(j = key ∧ k = n) → v'.seam j k = v.seam j k

theorem State.seamReleased.keys (h : s.seamReleased v v' key n) : v'.lanes.map Prod.fst = v.lanes.map Prod.fst := by
  rw [h.lanes, List.map_map]
  refine List.map_congr_left fun x _ => ?_
  unfold State.freedAt
  dsimp only [Function.comp_apply]
  split
  · split <;> rfl
  · rfl

/-- The first step of SEAM: a seam that is open already closes and releases. -/
def State.releaseSeam (s : State) (core w key : Nat) (n : BitVec 4) (v : Wave) : State :=
  if (v.seam key n).opened then s.completeSeam core w key n true else s

theorem State.releaseSeam_coresOnly : s.coresOnly (s.releaseSeam core w key n v) := .ite State.coresOnly.refl.completeSeam .refl

theorem State.releaseSeam_releases (hv : s.wave? core w = some v) :
    ∃ v', (s.releaseSeam core w key n v).wave? core w = some v' ∧ s.seamReleased v v' key n := by
  unfold State.releaseSeam
  by_cases ho : (v.seam key n).opened = true
  · rw [if_pos ho]
    by_cases ha : (v.seam key n).arr = 0
    · rw [State.completeSeam_of_empty hv ha]
      exact ⟨v, hv, by simp [State.freedAt, ha], rfl, rfl, fun _ _ _ => rfl⟩
    · rw [State.completeSeam_of_arrived hv ho ha (.inl rfl)]
      have hs := (s.closedSeam_seam v key key n n).trans (if_pos ⟨rfl, rfl⟩)
      refine ⟨s.closedSeam v key n, ?_, ?_, ?_, ?_, fun j k hjk => (s.closedSeam_seam v key j n k).trans (if_neg hjk)⟩
      · rw [State.wave?_modWave_self, hv, Option.map_some]
      · simp [State.closedSeam, ho]
      · rw [hs]
      · rw [hs]
  · rw [if_neg ho]
    exact ⟨v, hv, by simp [ho], rfl, rfl, fun _ _ _ => rfl⟩

/-- What SEAM of the lanes `e` of one fragment leaves of their wave: the seam is open for them, with the seam of the lowest logical lane
as parent, and the lanes of the fragment are its members or released; other seams and lanes stay. -/
structure State.seamOpened (s : State) (v v' : Wave) (key : Nat) (n : BitVec 4) (e : List (Nat × Hart)) : Prop where
  seam : ∃ low, s.lowest e = some low
    ∧ v'.seam key n = (v.seam key n).openedBy n low.2 (s.lanesMask e)
  others : ∀ j k, ¬(j = key ∧ k = n) → v'.seam j k = v.seam j k
  lanes : v'.lanes = v.lanes.map fun x => (x.1, if s.fragOf x.2 = key then s.seamLane (v.seam key n) n e x else x.2)

section
variable (hv : s.wave? core w = some v)
include hv

/-- The second step of SEAM: the seam opens, and the lanes that take part become members. -/
theorem State.openSeam_eq {e : List (Nat × Hart)} {low : Nat × Hart} (hlow : s.lowest e = some low)
    {v₁ : Wave} (hv₁ : (s.releaseSeam core w key n v).wave? core w = some v₁) (hstays : v₁.lanes.get? low.1 = some low.2) :
    s.openSeam core w key n e = (s.releaseSeam core w key n v).modWave core w fun u =>
      { u.setFrag key ((u.frag key).modSeam n fun m => m.openedBy n low.2 (s.lanesMask e)) with
        lanes := u.lanes.mapVals (memberOf n e) } := by
  have hlane : (s.releaseSeam core w key n v).laneOf = s.laneOf := State.releaseSeam_coresOnly.field State.laneOf
  unfold State.lowest at hlow
  have hset (m : Seam) (mask : DWord) : m.openedBy n low.2 mask = if low.2.scv then
      if low.2.scur = n then { m with mask, arr := 0, opened := true }
      else { mask, arr := 0, opened := true, parent := low.2.scur, hasp := true }
    else { m with mask, arr := 0, opened := true, hasp := false } := by
    unfold Seam.openedBy
    by_cases hs : low.2.scv = true <;> by_cases hn : low.2.scur = n <;> simp [hs, hn]
  simp only [hset]
  unfold State.releaseSeam Wave.seam at hlane hv₁ ⊢
  simp only [State.openSeam, hv, hlane, hlow, hv₁, hstays, Option.bind_some]
  rfl

end

theorem State.coresOnly.seamOpened (hc : s.coresOnly t) {e : List (Nat × Hart)} (h : t.seamOpened v v' key n e) : s.seamOpened v v' key n e := by
  have hlowest : t.lowest = s.lowest := hc.field State.lowest
  have hfrag : t.fragOf = s.fragOf := hc.field State.fragOf
  have hmask : t.lanesMask = s.lanesMask := hc.field State.lanesMask
  have hmake : t.seamLane = s.seamLane := hc.field State.seamLane
  obtain ⟨hseam, hothers, hlanes⟩ := h
  rw [hlowest, hmask] at hseam
  rw [hfrag, hmake] at hlanes
  exact ⟨hseam, hothers, hlanes⟩

theorem State.openSeam_opens {e : List (Nat × Hart)} (hv : s.wave? core w = some v) (hd : (v.lanes.map Prod.fst).Nodup) (he : e ≠ [])
    (hl : ∀ x ∈ e, x ∈ v.lanes ∧ s.fragOf x.2 = key)
    (ha : ∀ x ∈ e, (v.seam key n).opened = true → (v.seam key n).arr.getLsbD (s.laneOf x.2) = false) :
    s.coresOnly (s.openSeam core w key n e) ∧ ∃ v', (s.openSeam core w key n e).wave? core w = some v' ∧ s.seamOpened v v' key n e := by
  obtain ⟨v₁, hv₁, hr⟩ := State.releaseSeam_releases (key := key) (n := n) hv
  obtain ⟨low, hmem, hlow⟩ := s.exists_lowest he
  -- the lowest lane takes part, so the release leaves it as it stands
  have hstays : v₁.lanes.get? low.1 = some low.2 := by
    refine KMap.get?_of_mem (hr.keys ▸ hd) ?_
    rw [hr.lanes]
    refine List.mem_map.mpr ⟨low, (hl low hmem).1, ?_⟩
    by_cases ho : (v.seam key n).opened = true
    · simp [State.freedAt, ha low hmem ho]
    · simp [ho]
  rw [State.openSeam_eq hv hlow hv₁ hstays]
  refine ⟨State.releaseSeam_coresOnly.modCore, _, (State.wave?_modWave_self ..).trans (congrArg _ hv₁), ⟨low, hlow, ?_⟩, fun j k hjk => ?_, ?_⟩
  · refine (v₁.seam_setFrag_modSeam key key n n _).trans ((if_pos ⟨rfl, rfl⟩).trans ?_)
    rw [Seam.openedBy, Seam.openedBy, hr.parent, hr.hasp]
  · exact (v₁.seam_setFrag_modSeam key j n k _).trans ((if_neg hjk).trans (hr.others j k hjk))
  · show v₁.lanes.mapVals (memberOf n e) = _
    rw [hr.lanes, KMap.mapVals, List.map_map]
    refine List.map_congr_left fun x hx => ?_
    by_cases hk : s.fragOf x.2 = key
    · by_cases ho : (v.seam key n).opened = true <;> by_cases hb : (v.seam key n).arr.getLsbD (s.laneOf x.2) = true <;>
        simp [State.freedAt, State.seamLane, hk, ho, hb]
    · have hout : (e.any fun y => y.1 == x.1) = false := List.any_eq_false.mpr fun y hy hyx => by
        obtain ⟨hyv, hyk⟩ := hl y hy
        exact hk (List.inj_on_of_nodup_map hd hyv hx (beq_iff_eq.mp hyx) ▸ hyk)
      simp [State.freedAt, memberOf, hk, hout]

/-! ### SEAM on the fragments of an issue (R220) -/

/-- The lanes of a list that stand in the fragment with a key. -/
def State.inFrag (s : State) (act : List (Nat × Hart)) (key : Nat) : List (Nat × Hart) := act.filter fun x => s.fragOf x.2 == key

theorem State.mem_inFrag {act : List (Nat × Hart)} {x : Nat × Hart} : x ∈ s.inFrag act key ↔ x ∈ act ∧ s.fragOf x.2 = key := by
  rw [State.inFrag, List.mem_filter, beq_iff_eq]

/-- SEAM makes the same of a lane whether it looks at the lanes of its fragment or at all that take part. -/
theorem State.seamLane_inFrag {act : List (Nat × Hart)} {m : Seam} {x : Nat × Hart} (hd : (v.lanes.map Prod.fst).Nodup)
    (hact : ∀ y ∈ act, y ∈ v.lanes) (hx : x ∈ v.lanes) : s.seamLane m n (s.inFrag act (s.fragOf x.2)) x = s.seamLane m n act x := by
  have hany : ((s.inFrag act (s.fragOf x.2)).any fun y => y.1 == x.1) = act.any fun y => y.1 == x.1 := by
    rw [State.inFrag, List.any_filter, Bool.eq_iff_iff, List.any_eq_true, List.any_eq_true]
    refine exists_congr fun y => and_congr_right fun hy => ?_
    refine ⟨fun h => (Bool.and_eq_true_iff.mp h).2, fun h => ?_⟩
    rw [List.inj_on_of_nodup_map hd (hact y hy) hx (beq_iff_eq.mp h)]
    simp
  rw [State.seamLane, State.seamLane, memberOf, memberOf, hany]

/-- What SEAM leaves of its wave when it has acted on the fragments of a list. -/
structure State.seamsOpened (s : State) (v v' : Wave) (n : BitVec 4) (act : List (Nat × Hart)) (keys : List Nat) : Prop where
  seam : ∀ key ∈ keys, ∃ low, s.lowest (s.inFrag act key) = some low
    ∧ v'.seam key n = (v.seam key n).openedBy n low.2 (s.lanesMask (s.inFrag act key))
  others : ∀ j k, ¬(j ∈ keys ∧ k = n) → v'.seam j k = v.seam j k
  lanes : v'.lanes = v.lanes.map fun x => (x.1, if s.fragOf x.2 ∈ keys then s.seamLane (v.seam (s.fragOf x.2) n) n act x else x.2)

theorem State.seamsOpened_nil (s : State) (v : Wave) (n : BitVec 4) (act : List (Nat × Hart)) : s.seamsOpened v v n act [] :=
  ⟨fun _ h => absurd h List.not_mem_nil, fun _ _ _ => rfl, by simp⟩

/-- SEAM on one more fragment. -/
theorem State.seamsOpened.append {act : List (Nat × Hart)} {keys : List Nat} {v₁ v₂ : Wave} (hd : (v.lanes.map Prod.fst).Nodup)
    (hact : ∀ y ∈ act, y ∈ v.lanes) (h : s.seamsOpened v v₁ n act keys) (hk : key ∉ keys) (h' : s.seamOpened v₁ v₂ key n (s.inFrag act key)) :
    s.seamsOpened v v₂ n act (keys ++ [key]) := by
  have hkey : v₁.seam key n = v.seam key n := h.others key n fun hc => hk hc.1
  refine ⟨fun j hj => ?_, fun j k hjk => ?_, ?_⟩
  · by_cases hjk : j = key
    · subst hjk
      rw [← hkey]
      exact h'.seam
    · rw [h'.others j n fun hc => hjk hc.1]
      exact h.seam j ((List.mem_append.mp hj).resolve_right fun hm => hjk (List.mem_singleton.mp hm))
  · rw [h'.others j k fun hc => hjk ⟨List.mem_append_right _ (List.mem_singleton.mpr hc.1), hc.2⟩]
    exact h.others j k fun hc => hjk ⟨List.mem_append_left _ hc.1, hc.2⟩
  · rw [h'.lanes, h.lanes, List.map_map]
    refine List.map_congr_left fun x hx => Prod.ext rfl ?_
    dsimp only [Function.comp_apply]
    by_cases hm : s.fragOf x.2 ∈ keys
    · have hne : s.fragOf x.2 ≠ key := fun e => hk (e ▸ hm)
      simp [hm, State.fragOf_seamLane, hne]
    · by_cases he : s.fragOf x.2 = key
      · subst he
        simp only [hm, if_false, if_true, List.mem_append, List.mem_singleton, or_true, hkey]
        exact State.seamLane_inFrag hd hact hx
      · simp [hm, he]

/-- SEAM on the fragments of a list, one after another. -/
theorem State.openSeams {act : List (Nat × Hart)} (hv : s.wave? s.cur.core s.cur.member = some v) (hd : (v.lanes.map Prod.fst).Nodup)
    (hact : ∀ y ∈ act, y ∈ v.lanes)
    (ha : ∀ x ∈ act, (v.seam (s.fragOf x.2) n).opened = true → (v.seam (s.fragOf x.2) n).arr.getLsbD (s.laneOf x.2) = false)
    (keys : List Nat) (hn : keys.Nodup) (hkeys : ∀ key ∈ keys, ∃ x ∈ act, s.fragOf x.2 = key) :
    let t := keys.foldl (fun u key => u.openSeam u.cur.core u.cur.member key n (s.inFrag act key)) s
    s.coresOnly t ∧ ∃ v', t.wave? s.cur.core s.cur.member = some v' ∧ s.seamsOpened v v' n act keys := by
  induction keys using List.reverseRecOn with
  | nil => exact ⟨.refl, v, hv, s.seamsOpened_nil v n act⟩
  | append_singleton keys key ih =>
    rw [List.foldl_append]
    obtain ⟨hn, -, hdis⟩ := List.nodup_append.mp hn
    have hk : key ∉ keys := fun h => hdis key h key (List.mem_singleton_self _) rfl
    obtain ⟨hc, v₁, hv₁, h⟩ := ih hn fun j hj => hkeys j (List.mem_append_left _ hj)
    generalize keys.foldl (fun u key => u.openSeam u.cur.core u.cur.member key n (s.inFrag act key)) s = u at hc hv₁
    have hfrag : u.fragOf = s.fragOf := hc.field State.fragOf
    have hlane : u.laneOf = s.laneOf := hc.field State.laneOf
    have hcur : u.cur = s.cur := hc.field State.cur
    obtain ⟨y, hy, hyk⟩ := hkeys key (List.mem_append_right _ (List.mem_singleton_self _))
    have hstays {x : Nat × Hart} (hx : x ∈ v.lanes) (hxk : s.fragOf x.2 = key) : x ∈ v₁.lanes := by
      rw [h.lanes]
      exact List.mem_map.mpr ⟨x, hx, by rw [hxk, if_neg hk]⟩
    obtain ⟨hc', v₂, hv₂, h'⟩ := State.openSeam_opens (s := u) (key := key) (n := n) (e := s.inFrag act key) hv₁
      (by rw [h.lanes, List.map_map]; exact hd) (List.ne_nil_of_mem (State.mem_inFrag.mpr ⟨hy, hyk⟩))
      (fun x hx => by
        obtain ⟨hx, hxk⟩ := State.mem_inFrag.mp hx
        exact ⟨hstays (hact x hx) hxk, by rw [hfrag, hxk]⟩)
      (fun x hx ho => by
        obtain ⟨hxa, hxk⟩ := State.mem_inFrag.mp hx
        rw [h.others key n fun hc => hk hc.1] at ho ⊢
        rw [hlane]
        subst hxk
        exact ha x hxa ho)
    rw [List.foldl_cons, List.foldl_nil, hcur]
    exact ⟨hc.trans hc', v₂, hv₂, h.append hd hact hk (hc.seamOpened h')⟩

theorem State.mem_lanes_of_active {g : Guard} {x : Nat × Hart} (hb : s.cur.bobbin = false) (hv : s.wave? s.cur.core s.cur.member = some v)
    (hx : x ∈ s.active g) : x ∈ v.lanes := by
  rw [State.active, State.lanes, hb, hv] at hx
  exact (List.mem_filter.mp (List.mem_filter.mp hx).1).1

/-- SEAM of an issue of a wave: it acts on each fragment that has taking-part lanes, and its lanes go on. -/
theorem execSeam_opens (g : Guard) (hb : s.cur.bobbin = false) (hv : s.wave? s.cur.core s.cur.member = some v)
    (hd : (v.lanes.map Prod.fst).Nodup)
    (ha : ∀ x ∈ s.active g, (v.seam (s.fragOf x.2) n).opened = true → (v.seam (s.fragOf x.2) n).arr.getLsbD (s.laneOf x.2) = false) :
    ∃ t v₁, exec (.seam g n) s = .next t ∧ s.coresOnly t ∧ s.seamsOpened v v₁ n (s.active g) ((s.active g).map fun x => s.fragOf x.2).eraseDups
      ∧ t.wave? s.cur.core s.cur.member = some { v₁ with
          lanes := v₁.lanes.map fun x => if s.cur.lanes.contains x.1 then (x.1, x.2.advance s.cur) else x } := by
  obtain ⟨hc, v₁, hv₁, h⟩ := State.openSeams hv hd (fun _ => State.mem_lanes_of_active hb hv) ha _ (nodup_eraseDups _)
    fun key hk => List.mem_map.mp (List.mem_eraseDups.mp hk)
  rw [show exec (.seam g n) s = execSeam g n s from rfl, execSeam, State.fragsOf, List.foldl_map]
  dsimp only [State.inFrag] at hc hv₁
  generalize List.foldl _ s _ = u at hc hv₁ ⊢
  have hcur : u.cur = s.cur := hc.field State.cur
  refine ⟨_, v₁, rfl, hc.mapLanes, h, ?_⟩
  rw [State.mapLanes, hcur, if_neg (by simp [hb]), State.wave?_modWave_self, hv₁]
  rfl

/-- A lane of a wave after SEAM, in a fragment where it acts and in one where it does not. -/
theorem State.seamLane_of_acts {act : List (Nat × Hart)} {x : Nat × Hart} (hd : (v.lanes.map Prod.fst).Nodup) (hact : ∀ y ∈ act, y ∈ v.lanes)
    (hx : x ∈ v.lanes) {m : Seam} : (if s.fragOf x.2 ∈ (act.map fun y => s.fragOf y.2).eraseDups then s.seamLane m n act x else x.2) =
      memberOf n act x.1 (if (act.any fun y => s.fragOf y.2 == s.fragOf x.2) && m.opened && m.arr.getLsbD (s.laneOf x.2) then freed n m x.2
        else x.2) := by
  by_cases hk : s.fragOf x.2 ∈ (act.map fun y => s.fragOf y.2).eraseDups
  · have hany : (act.any fun y => s.fragOf y.2 == s.fragOf x.2) = true := by
      obtain ⟨y, hy, he⟩ := List.mem_map.mp (List.mem_eraseDups.mp hk)
      exact List.any_eq_true.mpr ⟨y, hy, beq_iff_eq.mpr he⟩
    rw [if_pos hk, hany, Bool.true_and, State.seamLane]
  · have hfrag {y : Nat × Hart} (hy : y ∈ act) : s.fragOf y.2 ≠ s.fragOf x.2 := fun he =>
      hk (List.mem_eraseDups.mpr (List.mem_map.mpr ⟨y, hy, he⟩))
    have hany : (act.any fun y => s.fragOf y.2 == s.fragOf x.2) = false := by simpa using fun l k hy => hfrag hy
    have hout : (act.any fun y => y.1 == x.1) = false := List.any_eq_false.mpr fun y hy hyx =>
      hfrag hy (congrArg (fun z => s.fragOf z.2) (List.inj_on_of_nodup_map hd (hact y hy) hx (beq_iff_eq.mp hyx)))
    simp [hk, hany, hout, memberOf]

/-- The head of the fragment's lanes by logical lane is the lane that stands below all others. -/
theorem State.lowest_inFrag {act : List (Nat × Hart)} {x : Nat × Hart} (hx : x ∈ act)
    (hl : ∀ y ∈ act, s.fragOf y.2 = s.fragOf x.2 → y ≠ x → s.laneOf x.2 < s.laneOf y.2) :
    s.lowest (s.inFrag act (s.fragOf x.2)) = some x :=
  head?_sortBy_eq (State.mem_inFrag.mpr ⟨hx, rfl⟩) fun y hy hne => (State.mem_inFrag.mp hy).elim fun hy hk => hl y hy hk hne

end Sys2Proof.Machine

open Sys2Proof Sys2Proof.Machine

/-- Settles O28: the three cases of the completion test. -/
theorem seamCompletes : Obligations.SeamCompletes := by
  unfold Obligations.SeamCompletes
  intro s core w key n v hv m
  refine ⟨fun h => State.completeSeam_of_closed hv h false, State.completeSeam_of_out hv, fun ho ha hm => ?_⟩
  rw [State.completeSeam_of_arrived hv ho ha (.inr hm)]
  refine ⟨s.closedSeam v key n, ?_, ?_, rfl⟩
  · rw [State.wave?_modWave_self, hv, Option.map_some]
  · exact (s.closedSeam_seam v key key n n).trans (if_pos ⟨rfl, rfl⟩)

/-- Settles O26, from what SEAM leaves of its wave fragment by fragment. -/
theorem seamOpens : Obligations.SeamOpens := by
  unfold Obligations.SeamOpens
  intro s g n v hb hv hd seam acts ha
  obtain ⟨t, v₁, hx, hc, h, ht⟩ := execSeam_opens g hb hv hd ha
  have hacts (key : Nat) : key ∈ ((s.active g).map fun x => s.fragOf x.2).eraseDups ↔ acts key = true := by
    simp [acts]
  refine ⟨t, _, hx, ht, hc, fun key l low hl hk hlow => ?_, fun key k hkey => ?_, ?_⟩
  · subst hk
    have hmem := List.mem_eraseDups.mpr (List.mem_map_of_mem (f := fun x : Nat × Hart => s.fragOf x.2) hl)
    obtain ⟨x, hx, hs⟩ := h.seam _ hmem
    obtain rfl := Option.some.inj (hx.symm.trans (State.lowest_inFrag hl fun y hy hk hne => hlow y hy hk hne))
    refine ⟨s.lanesMask (s.inFrag (s.active g) (s.fragOf low)), fun i hi => ?_, hs⟩
    rw [State.getLsbD_lanesMask s _ hi, State.inFrag, List.any_filter]
  · refine h.others key k fun hc => ?_
    rcases hkey with hne | hno
    · exact hne hc.2
    · exact absurd ((hacts key).mp hc.1) (by simp [hno])
  · show v₁.lanes.map _ = _
    rw [h.lanes, List.map_map]
    refine List.map_congr_left fun x hx => ?_
    dsimp only [Function.comp_apply]
    rw [State.seamLane_of_acts hd (fun _ => State.mem_lanes_of_active hb hv) hx]
    by_cases hin : s.cur.lanes.contains x.1 = true
    · simp only [hin, if_true]
      rfl
    · simp only [hin]
      rfl

end

section
/-! PROOFS. What O27 says of JOIN, WAIT, REP and CUT (R221, R223, R227, R228, R231), and what O29 says of EXIT (R232, R238, R255). -/

namespace Sys2Proof.Machine

variable {s t u : State} {r : Ref} {h : Hart} {g : Guard} {n : BitVec 4} {w k : Nat}

/-! ### A stop that is pending at a JOIN (R227) -/

theorem State.before_of_atJoin {next : Word} (hr : s.hart? r = some h) (hst : h.status = .atJoin n next) : s.before r = s.joinStop r h := by
  simp [State.before, hr, Hart.waitOver, Hart.atJoin, hst]

theorem joinStops_holds : joinStops := by
  intro s r h n next hr hst ht
  rw [State.before_of_atJoin hr hst, State.joinStop, if_neg (by simp [ht])]
  refine ⟨fun hp => if_pos hp, fun code hp hc ha => ?_, fun hp hc => ?_⟩
  · rw [if_neg (by simp [hp]), hc]
    simp only [ha, Bool.not_true, Bool.false_eq_true, if_false, Bool.and_eq_true, decide_eq_true_eq, Bool.not_eq_true']
  · rw [if_neg (by simp [hp])]
    rcases hc with hc | ha
    · rw [hc]
    · cases h.debugDue with
      | none => rfl
      | some code => simp [ha]

/-! ### JOIN of one lane (R221) -/

/-- An issue of one lane of a wave is an issue of that wave. -/
theorem State.oneLane.wave (hs : s.oneLane r h) (hr : r.agent = .wave w k) : s.cur.core = r.core ∧ s.cur.member = w := by
  obtain ⟨-, -, l, -, rfl⟩ := hs
  unfold State.curRef at hr ⊢
  split at hr
  · cases hr
  · next hb =>
    rw [if_neg hb]
    exact ⟨rfl, (Agent.wave.inj hr).1⟩

theorem State.joinLane_cur (s : State) (r : Ref) (h : Hart) (n : BitVec 4) : (s.joinLane r h n).cur = s.cur := by
  unfold State.joinLane State.goOn
  split
  · exact s.modHart_cur r _
  · dsimp only
    split <;> simp

/-- JOIN of one lane acts on the lane and completes the seams of its fragment. -/
theorem exec_join_oneLane (hs : s.oneLane r h) (hr : r.agent = .wave w k) : exec (.join g n) s = .next
    (if h.takes g = false then s.setHart r (h.advance s.cur) else (s.joinLane r h n).completeSeams r.core w (s.fragOf h)) := by
  obtain ⟨hc, hm⟩ := hs.wave hr
  obtain ⟨l, hl⟩ : ∃ l, s.lanes = [(l, h)] := ⟨_, hs.lanes.1⟩
  rw [show exec (.join g n) s = execJoin g n s from rfl, execJoin, perLane_oneLane s g _ r h hs]
  by_cases hg : h.takes g = true
  · simp [State.fragsOf, State.active, hl, hg, List.eraseDups_cons, State.joinLane_cur, hc, hm]
  · simp [State.fragsOf, State.active, hl, hg]

/-! ### WAIT and CUT of one lane (R223, R228) -/

theorem Hart.maskClear_iff {mask : BitVec 12} : h.maskClear mask = true ↔ ∀ f < 12, mask.getLsbD f = true → h.doneCount f = 0 := by
  simp only [Hart.maskClear, List.all_eq_true, List.mem_range, Bool.or_eq_true, Bool.not_eq_true', beq_iff_eq]
  refine forall₂_congr fun f _ => ?_
  cases mask.getLsbD f <;> simp

theorem lane_wait (hs : s.oneLane r h) (mask : BitVec 12) :
    lane (.wait g mask) s g r h (if h.maskClear mask then s.goOn r else s.hold r (.waitFlags mask)) := lane_of_perLane hs rfl rfl

section
variable {i : Instr} {near : BitVec 16} {far pc : Word}

/-- CUT and CUT.far of one lane are a jump that leaves seams. -/
theorem lane_cut (hs : s.oneLane r h) (hi : i = .cut g n near ∧ pc = mkPc (ovlOf h.pc) near ∨ i = .cutFar g n far ∧ pc = far) :
    lane i s g r h (s.jump r pc none (some n)) := by
  rcases hi with ⟨rfl, rfl⟩ | ⟨rfl, rfl⟩
  · exact lane_of_perLane hs rfl rfl
  · exact lane_of_perLane hs rfl rfl

end

/-- The jump of a CUT to a target that is good. -/
theorem State.jump_cut {pc : Word} (hr : s.hart? r = some h) (ht : s.target r.core (s.ctxOf r) pc = .ok) : s.jump r pc none (some n) =
    (s.cutSeams r h n).modHart r fun k => ({ k with status := .running } : Hart).enter pc := by
  simp only [State.jump, ht, State.go, hr]
  rfl

/-! ### The end of a thread (R224, R232) -/

theorem State.coresOnly.leaveSeams (h : s.coresOnly t) {r : Ref} {k : Hart} : s.coresOnly (t.leaveSeams r k) := by
  unfold State.leaveSeams
  split
  · exact h
  · exact .foldl (fun _ _ => State.coresOnly.refl.completeSeam) _ h.modCore

theorem State.coresOnly.vacate (h : s.coresOnly t) {r : Ref} : s.coresOnly (t.vacate r) := by
  unfold State.vacate
  split
  · exact h
  · exact h.modCore

/-- A lane that a wave slot does not hold is no thread. -/
theorem State.hart?_of_seats {c l tid : Nat} (h : ∀ ls, s.seats c w = some ls → l ∉ ls) : s.hart? ⟨c, .wave w l, tid⟩ = none := by
  refine Option.eq_none_iff_forall_ne_some.mpr fun k hk => ?_
  obtain ⟨v, hv, hl⟩ := Option.bind_eq_some_iff.mp (Option.filter_eq_some_iff.mp hk).1
  exact h _ (congrArg (Option.map _) hv) (List.mem_map_of_mem (KMap.mem_of_get? hl))

/-- The wave slot that a thread has left does not hold it, whoever else stands there. -/
theorem State.seats_vacate {c l tid : Nat} {ls : List Nat} (h : (s.vacate ⟨c, .wave w l, tid⟩).seats c w = some ls) : l ∉ ls := by
  obtain ⟨v, hv, rfl⟩ := Option.map_eq_some_iff.mp h
  rw [State.vacate, State.wave?, State.core_modCore_self] at hv
  obtain ⟨⟨j, v₀⟩, -, he⟩ := List.mem_map.mp (List.mem_filter.mp (KMap.mem_of_get? hv)).1
  dsimp only at he
  intro hl
  obtain ⟨e, hm, rfl⟩ := List.mem_map.mp hl
  split at he
  · obtain ⟨-, rfl⟩ := Prod.mk.inj he
    simpa using (List.mem_filter.mp hm).2
  · next hj => exact hj (Prod.mk.inj he).1

/-- The second state has the memory, the launches and the lanes of the first. -/
def State.sameRun (s t : State) : Prop := t.mem = s.mem ∧ t.launches = s.launches ∧ s.sameSeats t

theorem State.sameRun.trans (h : s.sameRun t) (h' : t.sameRun u) : s.sameRun u :=
  ⟨h'.1.trans h.1, h'.2.1.trans h.2.1, h.2.2.trans h'.2.2⟩

theorem State.phaseTest_sameRun (s : State) (key level group : Nat) : s.sameRun (s.phaseTest key level group) := by
  unfold State.phaseTest
  split
  · split
    · obtain ⟨hm, hl, -⟩ := State.startDrain_lists (s.modPhase key level group fun p => { p with draining := true }) _ _ key _ _ _
      exact ⟨hm, hl, .foldl (fun _ _ => State.sameSeats.refl.send) _ State.sameSeats.refl.same⟩
    · exact ⟨rfl, rfl, .refl⟩
  · exact ⟨rfl, rfl, .refl⟩

/-- The counts of an ended thread: its launch counts one thread less, and the lanes stay where they are. -/
theorem State.endCounts_launch (s : State) (h : Hart) : (s.endCounts h).mem = s.mem ∧ s.sameSeats (s.endCounts h)
    ∧ ∀ l, s.launch? h.launch = some l → (s.endCounts h).launch? h.launch = some { l with live := l.live - 1 } := by
  unfold State.endCounts
  split
  · next hl => exact ⟨rfl, .refl, fun l h => by rw [hl] at h; cases h⟩
  · next l hl =>
    have hrun : State.sameRun { s with launches := s.launches.set h.launch.toNat { l with live := l.live - 1 } } (l.phaseLevels.foldl (fun s n =>
        (s.modPhase h.launch.toNat n (l.groupAt h.ordinal.toNat n) fun p => { p with live := p.live - 1 }).phaseTest h.launch.toNat n
          (l.groupAt h.ordinal.toNat n)) { s with launches := s.launches.set h.launch.toNat { l with live := l.live - 1 } }) :=
      List.foldlRecOn l.phaseLevels _ ⟨rfl, rfl, .refl⟩ fun t ht n _ => ht.trans (State.phaseTest_sameRun (t.modPhase _ _ _ _) _ _ _)
    obtain ⟨hmem, hlaunches, hseats⟩ := hrun
    refine ⟨hmem, State.sameSeats.trans State.sameSeats.refl.same hseats, fun l' hl' => ?_⟩
    obtain rfl : l = l' := Option.some.inj (hl.symm.trans hl')
    rw [State.launch?, hlaunches, KMap.get?_set_self]

/-- The end of a thread of a wave. -/
theorem State.endThread_wave (hs : s.hart? r = some h) (hr : r.agent = .wave w k) : (s.endThread r).hart? r = none
    ∧ (s.endThread r).mem = s.mem
    ∧ ∀ l, s.launch? h.launch = some l → (s.endThread r).launch? h.launch = some { l with live := l.live - 1 } := by
  obtain ⟨c, a, tid⟩ := r
  obtain rfl : a = .wave w k := hr
  let t := (s.leaveSeams ⟨c, .wave w k, tid⟩ h).vacate ⟨c, .wave w k, tid⟩
  have hc : s.coresOnly t := State.coresOnly.refl.leaveSeams.vacate
  obtain ⟨hmem, hseats, hlive⟩ := t.endCounts_launch h
  have he : s.endThread ⟨c, .wave w k, tid⟩ = t.endCounts h := by simp only [State.endThread, hs]; rfl
  rw [he]
  refine ⟨State.hart?_of_seats fun ls hls => ?_, hmem.trans hc.mem, fun l hl => hlive l ?_⟩
  · rw [hseats.2] at hls
    exact State.seats_vacate hls
  · rw [State.launch?, hc.field State.launches]
    exact hl

theorem State.endThread_bobbin (hs : s.hart? r = some h) (hr : r.agent = .bobbin k) :
    s.endThread r = s.modHart r fun k => { k with status := .halted } := by
  simp only [State.endThread, hs, hr]

/-- EXIT of one lane that takes part. -/
theorem exec_exit_oneLane (hs : s.oneLane r h) (hg : h.takes g = true) : exec (.exit g) s =
    .next (if h.doneClear then s.endThread r else s.modHart r fun k => { k with status := .settling .exit }) :=
  congrArg Host.Outcome.next (perLane_taken hs hg)

end Sys2Proof.Machine

open Sys2Proof Sys2Proof.Machine

/-- Settles O27, from what each of the four does with its one lane. -/
theorem joinWaitRepCut : Obligations.JoinWaitRepCut := by
  unfold Obligations.JoinWaitRepCut
  refine ⟨joinStops_holds, fun s g r h n mask byReg a c near far x y z u hs => ⟨fun w k hr => ?_, fun hc => ?_, fun hc => ?_, ?_, fun pc i hi => ?_⟩⟩
  · rw [exec_join_oneLane hs hr, State.joinLane, hr]
    rfl
  · have hl := lane_wait (g := g) hs mask
    rwa [if_pos (Hart.maskClear_iff.mpr hc)] at hl
  · have hl := lane_wait (g := g) hs mask
    obtain ⟨f, hf, hm, hd⟩ := hc
    rwa [if_neg fun he => hd (Hart.maskClear_iff.mp he f hf hm)] at hl
  · exact lane_of_perLane hs rfl rfl
  · have hl := lane_cut hs hi
    refine ⟨fun ht => ?_, fun ht => ?_, fun ht => ?_⟩
    · rwa [State.jump_cut hs.1 ht] at hl
    · rwa [State.jump, ht] at hl
    · rwa [State.jump, ht] at hl

/-- Settles O29, from the end of a thread and that of a bobbin. -/
theorem exitEndsThread : Obligations.ExitEndsThread := by
  unfold Obligations.ExitEndsThread
  intro s g r h hs hg
  have hx := exec_exit_oneLane hs hg
  refine ⟨fun hd => ?_, fun hd k hr => ?_, fun hd w k hr => ?_⟩
  · rwa [hd] at hx
  · rwa [hd, if_pos rfl, State.endThread_bobbin hs.1 hr] at hx
  · rw [hd, if_pos rfl] at hx
    exact ⟨_, hx, State.endThread_wave hs.1 hr⟩

end

section
/-! PROOFS. Why O30 fails: DQGET finds its shuttle by the number of its context's slot (R242, R244); the statement takes the slot in which the
context is found. The two differ where a state holds two slots of one number: a table's keys are meant to rise, but no hypothesis says so. -/

namespace Sys2Proof.Machine

/-! ### The state that refutes O30 -/

namespace TwinSlots

def bobbin : Hart := { regs := .zeroW, pc := 0, clause := 0, pos := 0 }
def thread : Hart := { regs := .zeroX, pc := 0, clause := 0, pos := 0 }
def wave : Wave := { ctx := 0, launch := 0, arrival := false, lanes := [(0, thread)] }

/-- A slot with one entry in its shuttle. -/
def slot (ctx : Nat) : Slot := { ctx, bobbin, count := 1 }

/-- Contexts 1 and 0 both stand at number 0; a thread of context 0 issues. -/
def state : State :=
  { cores := [(0, { waves := [(0, wave)], slots := [(0, slot 1), (0, slot 0)] })], cur := { lanes := [0] } }

def guard : Guard := ⟨7, false⟩

/-- The slot at number 0 after a DQGET. -/
def slotAfter : Host.Outcome State Fault Refusal → Option Slot
  | .next t => t.slot? 0 0
  | _ => none

theorem slotAfter_dqget : (slotAfter (exec (.dqget guard 0) state)).map Slot.ctx = some 1 := by decide

end TwinSlots

end Sys2Proof.Machine

open Sys2Proof Sys2Proof.Machine

/-- Refutes O30: where two slots have one number, a DQGET pops the first slot of that number, which need not be the context's; the statement
says that the context's own slot stands there, popped. Its hypotheses keep the numbers of lanes apart, but not those of slots. -/
theorem not_shuttleIsAQueue : ¬ Obligations.ShuttleIsAQueue := by
  unfold Obligations.ShuttleIsAQueue dqgetPopsOnce
  rintro ⟨hpops, -⟩
  obtain ⟨t, hx, hq, -⟩ := hpops TwinSlots.state TwinSlots.guard TwinSlots.wave 0 (TwinSlots.slot 0) 0 _ _ rfl rfl (by decide) rfl (by decide)
    (by decide) (by decide) (.inl ⟨rfl, rfl⟩)
  have hctx := TwinSlots.slotAfter_dqget
  rw [hx, show TwinSlots.slotAfter (.next t) = some (TwinSlots.slot 0).pop from hq] at hctx
  exact absurd hctx (by decide)

end

section
/-! PROOFS. What O41 says of BINIT, BEXP, BWAIT and BARV of one lane (R235, R337 to R340, R344): each acts on the object that
`State.object` finds. -/

namespace Sys2Proof.Machine

variable {s t : State} {r : Ref} {h : Hart} {g : Guard} {bolt : BitVec 6} {ix b : Src} {d : Reg}

/-! ### Outside attempts alone (R344) -/

theorem outside_of_none (f : Ref → Hart → State → State) (r : Ref) (s : State) (h0 : h.tx.depth = 0) : outside f r h s = f r h s := if_pos h0

theorem outside_of_attempt (f : Ref → Hart → State → State) (r : Ref) (s : State) (h0 : h.tx.depth ≠ 0) :
    outside f r h s = s.txAbort r .nonlocal 0 := if_neg h0

/-! ### BWAIT of one lane (R337) -/

/-- BWAIT sleeps on the line of its object, or goes on. -/
theorem exec_bwait_oneLane {line : Line} {key va : Nat} {q : Bolt} (hs : s.oneLane r h) (hg : h.takes g = true) (h0 : h.tx.depth = 0)
    (ho : s.object r h bolt ix .move (fun s => s.goOn r) = (some (line, key, q, va), t)) : exec (.bwait g bolt ix b) s =
    .next (if (t.barrierAt key).gen = h.word b % 2 ^ 16 then t.formSleepers r.core (t.ctxOf r) [r] [line] else t.goOn r) := by
  have hd : (h.tx.depth != 0) = false := by simp [h0]
  rw [show exec (.bwait g bolt ix b) s = execBwait g bolt ix b s from rfl, execBwait]
  split
  · next hgen =>
    exact congrArg Host.Outcome.next ((blockLanes_oneLane_cons hs (by simp only [hd, ho, hgen, if_true]; rfl)).trans (if_pos hg))
  · next hgen =>
    exact congrArg Host.Outcome.next ((blockLanes_oneLane_nil hs (by simp only [hd, ho, hgen, if_false]; rfl)).trans (if_pos hg))

/-! ### BARV of one lane (R235, R338) -/

/-- BARV of an issue of one lane, whose arrival is the first of its fragment. -/
theorem exec_barv_oneLane (hs : s.oneLane r h) (hg : h.takes g = true) (thr : Bool) : exec (.barv g d bolt ix b thr) s =
    .next (if h.tx.depth = 0 then (s.barvLane r h d bolt ix thr (h.word b % 2 ^ 16) []).2 else s.txAbort r .nonlocal 0) := by
  obtain ⟨h1, h2, l, h3, h4⟩ := hs
  have hst : h.stands h = true := by simp [Hart.stands, h2]
  have hact : s.active g = [(l, h)] := by simp [State.active, h3, hg]
  rw [show exec (.barv g d bolt ix b thr) s = execBarv g d bolt ix b thr s from rfl]
  by_cases h0 : h.tx.depth = 0 <;> simp [execBarv, h3, h4, h1, hst, hg, hact, h0]

section
variable {cnt va key : Nat} {line : Line} {q : Bolt}

/-- The arrival mark of the lane's fragment names the object and the generation: the fragment has arrived there. -/
def State.marked (s : State) (r : Ref) (h : Hart) (q : Bolt) (va gen : Nat) : Prop :=
  (s.markOf r h).valid = true ∧ (s.markOf r h).addr.toNat = va ∧ (s.markOf r h).space.toNat = q.space ∧ (s.markOf r h).gen.toNat = gen

theorem State.arriveOnce_marked (hm : t.marked r h q va (t.barrierAt key).gen) :
    t.arriveOnce r h line key q va cnt = (some (t.barrierAt key).gen, t) := by
  obtain ⟨h1, h2, h3, h4⟩ := hm
  simp [State.arriveOnce, h1, h2, h3, h4]

theorem State.arriveOnce_unmarked (hm : ¬t.marked r h q va (t.barrierAt key).gen) :
    t.arriveOnce r h line key q va cnt = match (t.barrierAt key).arrive cnt with
    | none => (none, t)
    | some x => (some (t.barrierAt key).gen,
        (t.setMark r h ⟨BitVec.ofNat 48 va, BitVec.ofNat 3 q.space, true, BitVec.ofNat 16 (t.barrierAt key).gen⟩).setBarrier line key x) := by
  rw [State.arriveOnce]
  exact if_neg (by simpa [State.marked, and_assoc] using hm)

section
variable (ho : s.object r h bolt ix .update (fun s => (s.modHart r fun h => h.setReg d.toNat 0).goOn r) = (some (line, key, q, va), t))
include ho

theorem State.barvLane_thr : (s.barvLane r h d bolt ix true cnt []).2 = match (t.barrierAt key).arrive cnt with
    | none => t.raise r (conflictStop q va)
    | some x => ((t.setBarrier line key x).modHart r fun h => h.setReg d.toNat (BitVec.ofNat 64 (t.barrierAt key).gen)).goOn r := by
  simp only [State.barvLane, ho, if_true]
  cases (t.barrierAt key).arrive cnt <;> rfl

/-- An arrival that the fragment's mark carries is not counted again. -/
theorem State.barvLane_marked (hm : t.marked r h q va (t.barrierAt key).gen) : (s.barvLane r h d bolt ix false cnt []).2 =
    (t.modHart r fun h => h.setReg d.toNat (BitVec.ofNat 64 (t.barrierAt key).gen)).goOn r := by
  simp only [State.barvLane, ho, State.arriveOnce_marked hm, List.find?_nil, Bool.false_eq_true, if_false]

theorem State.barvLane_arrives (hm : ¬t.marked r h q va (t.barrierAt key).gen) :
    (s.barvLane r h d bolt ix false cnt []).2 = match (t.barrierAt key).arrive cnt with
    | none => t.raise r (conflictStop q va)
    | some x => (((t.setMark r h ⟨BitVec.ofNat 48 va, BitVec.ofNat 3 q.space, true, BitVec.ofNat 16 (t.barrierAt key).gen⟩).setBarrier line key x).modHart r
        fun h => h.setReg d.toNat (BitVec.ofNat 64 (t.barrierAt key).gen)).goOn r := by
  simp only [State.barvLane, ho, State.arriveOnce_unmarked hm, List.find?_nil, Bool.false_eq_true, if_false]
  cases (t.barrierAt key).arrive cnt <;> rfl

end
end

end Sys2Proof.Machine

open Sys2Proof Sys2Proof.Machine

/-- Settles O41, from what each of the four does with the object of its one lane. -/
theorem barrierInstructions : Obligations.BarrierInstructions := by
  unfold Obligations.BarrierInstructions
  intro s s' g r h bolt ix b d line key va q hs hg n o conflict put
  refine ⟨fun hd i hi => ?_, fun hd ho => ⟨?_, ?_⟩, fun hd ho => ?_, fun hd ho => ⟨?_, fun hm => ?_, fun hm => ?_⟩⟩
  · rcases hi with rfl | rfl | rfl | rfl | rfl
    · exact congrArg Host.Outcome.next ((perLane_taken hs hg).trans (outside_of_attempt _ r s hd))
    · exact congrArg Host.Outcome.next ((perLane_taken hs hg).trans (outside_of_attempt _ r s hd))
    · exact congrArg Host.Outcome.next ((blockLanes_oneLane_nil hs (by simp [hd])).trans (if_pos hg))
    · exact (exec_barv_oneLane hs hg true).trans (congrArg Host.Outcome.next (if_neg hd))
    · exact (exec_barv_oneLane hs hg false).trans (congrArg Host.Outcome.next (if_neg hd))
  · exact congrArg Host.Outcome.next (((perLane_taken hs hg).trans (outside_of_none _ r s hd)).trans (by rw [ho]; rfl))
  · exact congrArg Host.Outcome.next (((perLane_taken hs hg).trans (outside_of_none _ r s hd)).trans (by rw [ho]; rfl))
  · exact exec_bwait_oneLane hs hg hd ho
  · exact (exec_barv_oneLane hs hg true).trans (congrArg Host.Outcome.next ((if_pos hd).trans (State.barvLane_thr ho)))
  · exact (exec_barv_oneLane hs hg false).trans (congrArg Host.Outcome.next ((if_pos hd).trans (State.barvLane_marked ho hm)))
  · exact (exec_barv_oneLane hs hg false).trans (congrArg Host.Outcome.next ((if_pos hd).trans (State.barvLane_arrives ho hm)))

end
